-- ==== Sys2Proof/Word.lean ====
section
/-! DEFINITION. The word types of the block and the plainest arithmetic over them: the widths the spec names
again and again (bytes, 24-bit design words, 32-bit register words, 64-bit stride numbers, 120-bit flits), and the types of the commands'
operands. -/
namespace Sys2Proof

abbrev Byte := BitVec 8
/-- A word of the Word Unit, of design memory and of a flit (chapter 3). -/
abbrev W24 := BitVec 24
/-- A register of BAR0 (R6). -/
abbrev Word := BitVec 32
abbrev W64 := BitVec 64
/-- The payload and header of one static or dynamic flit (R122, R123). -/
abbrev Flit := BitVec 120

/-- A dynamic packet: its head flit (header in bits [119:96]) and its body flits (R139, R140). -/
structure Packet where
  head : Flit
  body : List Flit
deriving DecidableEq, Repr

/-- What a check finds on a word that is read (SECDED, R36, R92, R93) or on a flit (R124): nothing wrong, a single-bit
error that is corrected, or an error that cannot be corrected. -/
inductive Check where
  | ok | single | double
deriving DecidableEq, Repr

/-- What the SECDED check finds on a design-memory read, with the 24 data bits as stored for a double-bit error (R93). -/
inductive MemCheck where
  | ok | single
  | double (stored : W24)
deriving DecidableEq, Repr

/-- What a Team's checks find in one step: the units (0 to 63 BP b, 64 WU) whose fetched entry shows a single-bit or a
double-bit error (R36), the result of the reads of port A and port B (R92, R93), and whether the acknowledge of the
Team's interrupt crossing is still awaited when the step's report reaches it (R447). -/
structure StepChecks where
  isSingle : List Nat
  isDouble : List Nat
  portA : MemCheck
  portB : MemCheck
  ackAwaited : Bool
deriving DecidableEq, Repr

/-- A step in which no check finds anything. -/
def StepChecks.clean : StepChecks := ⟨[], [], .ok, .ok, false⟩

/-- Who makes an access: the host, Groom g, JTAG, or a management hub (R520). -/
inductive Agent where
  | host
  | groom (g : Fin 4)
  | jtag
  | hub (n : Fin 4)
deriving DecidableEq, Repr

/-- A block as a lane receives it: its sync header and its 64 bits (R231). -/
structure RxBlock where
  sync : BitVec 2
  body : W64
deriving DecidableEq, Repr

/-- What a link receives as one frame: the blocks of its header rows, each with the number of the physical lane on which it
arrived, the blocks of its content rows in stream order (R235), the blocks of a filler row just before it (R243), and by how
many blocks the receive buffers have filled since the frame before (R244), the filler row counted once. -/
structure RxFrame where
  heads : List (Nat × RxBlock)
  content : List RxBlock
  filler : List RxBlock
  drift : Int
deriving DecidableEq, Repr

/-- What a command's transfers with host memory bring (R359): the PCI Express completion status, 0 for success, and the
bytes that its reads return. -/
structure HostDma where
  status : Nat
  data : List Byte
deriving DecidableEq, Repr

/-- What the EDC CRC of one burst of a transfer made as a whole shows (R285): the device address of a byte of the burst; the
mismatches in a row (5: the four reissues failed); the burst as last received. -/
structure HostCrc where
  at_ : Nat
  fails : Nat
  last : List Byte
deriving DecidableEq, Repr

/-- A moment at which a stamp is taken (R345): how many updates of the Time Base there have been since, and the unit intervals of the
stamping lane from the update before it. -/
structure Moment where
  back : Nat
  ui : Nat
deriving DecidableEq, Repr

/-- A register of the PCI Express configuration space (R358, R360). -/
inductive CfgReg where
  | ids                      -- Vendor ID and Device ID
  | command                  -- Command and Status
  | classCode                -- Revision ID and Class Code
  | header                   -- Header Type
  | bar (k : Fin 6)
  | subsystem                -- Subsystem Vendor ID and Subsystem ID
  | interrupt                -- Interrupt Line and Interrupt Pin
  | pmControl                -- Power Management Control and Status
  | deviceCap | deviceControl | linkCap | linkStatus
  | msixControl | msixTable | msixPba
  | serialLo | serialHi      -- Device Serial Number
  | aerStatus | aerMask | aerSeverity | aerCorStatus | aerCorMask
deriving DecidableEq, Repr

/-- A reference clock input (R439). -/
inductive RefClk where
  | sys | lref | pe | tp
  | eref (n : Fin 4)
deriving DecidableEq, Repr

/-- A clock domain that may stop (R449). -/
inductive ClockDomain where
  | team (t : Fin 1024)
  | scheduler | groom | pcie | other
  | gddr (c : Fin 16)
  | link (n : Fin 20)
deriving DecidableEq, Repr

/-- What one pass of train of R289 measures: for each pin of CA, WCK2CK, READ and WRITE, in the order of its delays, the settings 0 to
255 that pass; and whether the verify finds a mismatch. -/
structure TrainTry where
  ca : List (BitVec 256)
  wck : List (BitVec 256)
  rd : List (BitVec 256)
  wr : List (BitVec 256)
  mismatch : Bool
deriving DecidableEq, Repr

/-- The passes of the channels that train: the channel, and its passes in order (R289). -/
abbrev TrainRuns : Type := List (Fin 16 × List TrainTry)

/-- What a boot stage brings (R426 to R428, R503): the flash gives its parameter table, the boot header's 64 bytes, the two
firmware slots as the flash holds them, whether every Groom starts within 10 ms, and what training measures. -/
structure BootIn where
  flashOk : Bool
  header : List Byte
  slotA : List Byte
  slotB : List Byte
  groomsUp : Bool
  trained : TrainRuns
deriving DecidableEq, Repr

end Sys2Proof
end

