-- ==== Sys2Proof/Syntax.lean ====
section
/-! DEFINITION. The commands of the block: one constructor per row of the table of operations and events.  A command
is what the host, the board controller, a partner chip, the die's own clocks or an analogue circuit does to the block;
its operands are what the doer chooses or what the outside world brings. -/
namespace Sys2Proof


/-- The commands (one per row of the table of operations and events). -/
inductive Instr where
  /-- R102: Team `t` spends one island cycle before or in its next step; `c` is what its checks find. -/
  | stepExecute (t : Fin 1024) (c : StepChecks)
  /-- R118: Team `t` has spent its stall limit in RX_STALL or SKEW_STALL. -/
  | hangTimerExpiry (t : Fin 1024)
  /-- R111: Team `t` passes its boundary as step L - 1 ends, or spends one END cycle. -/
  | strideBoundaryPass (t : Fin 1024)
  /-- R112: the chip completes the boundary that every Team has passed, `elapsed` units of 2^-24 ns after the last update of
  the Time Base. -/
  | chipBoundaryComplete (elapsed : Nat)
  /-- R171: the tokens of the tag that is due are consumed; `late`: one of them arrived in this cycle (R169). -/
  | tokenConsumption (late : Bool)
  /-- R176: one pass of the decision; `waiting` cycles were spent under R166 before it. -/
  | dsDecision (waiting : Nat)
  /-- R178, R117: the decided descriptor is issued, `cycles` step-clock cycles after the one before it. -/
  | descriptorIssue (cycles : Nat)
  /-- R178: the descriptor in flight reaches Team `t`. -/
  | descriptorArrival (t : Fin 1024)
  /-- R113: the Hitch input latch. -/
  | hitchInputLatch
  /-- R131: the static flit at the head of input queue `port` of Team `t` goes to the Receive Store. -/
  | receiveStoreWrite (t : Fin 1024) (port : Fin 4)
  /-- R125: the next flit of input `port` of router `t` arrives; `c` is what its check finds. -/
  | flitReceive (t : Fin 1024) (port : Fin 4) (c : Check)
  /-- R125: the replay request of input `port` of router `t` reaches its sender. -/
  | replayRequest (t : Fin 1024) (port : Fin 4)
  /-- R75: the next carry in the crossing toward Team `t` arrives. -/
  | carryArrival (t : Fin 1024)
  /-- R77: the next gateway response delivered to Team `t` enters its queue. -/
  | gwRspArrival (t : Fin 1024)
  /-- R148: the packet at place `i` of the waiting list of router `t` is injected. -/
  | packetInject (t : Fin 1024) (i : Nat)
  /-- R148: 256 cycles of the island have passed. -/
  | regulatorRefill (t : Fin 1024)
  /-- R146: router `t` starts the next packet on output `out`; it has been blocked for `blocked` cycles. -/
  | packetRoute (t : Fin 1024) (out : Fin 5) (blocked : Nat)
  /-- R150: the oldest packet that has reached router `t` is delivered. -/
  | packetArrival (t : Fin 1024)
  /-- R152: the target timeout of the oldest delivered packet expires; `late`: the target accepts in that cycle. -/
  | targetTimeout (t : Fin 1024) (late : Bool)
  /-- R153, R154: a write of RTR_CTL that concerns FREEZE; `late`: it clears FREEZE in the cycle in which the count
  reaches 2,048. -/
  | freezeWrite (t : Fin 1024) (v : Word) (late : Bool)
  /-- R153: FREEZE has been 1 for 2,048 cycles. -/
  | freezeDrain (t : Fin 1024)
  /-- R150: a write of RTR_CTL that concerns the isolation bits. -/
  | isolateWrite (t : Fin 1024) (v : Word)
  /-- R136: a write of RTR_SS_W0. -/
  | ssW0Write (t : Fin 1024) (w : BitVec 24)
  /-- R136: a write of RTR_SS_W1. -/
  | ssW1Write (t : Fin 1024) (w : BitVec 24)
  /-- R137: SWAP_ARM is written 1. -/
  | swapArm (t : Fin 1024)
  /-- R137: the 512 cycles of the check of the shadow set are over. -/
  | swapScanDone (t : Fin 1024)
  /-- R35: a write of word `k` of an entry of a BP's store, or with `wu` of the Word Unit's, goes to a staging register of
  Team `t`. -/
  | isStageWrite (t : Fin 1024) (wu : Bool) (k : Fin 2) (v : BitVec 24)
  /-- R35: a write of word 2 of entry `a` of unit `u` (0 to 63 BP, 64 Word Unit) of Team `t`. -/
  | isCommitWrite (t : Fin 1024) (u : Fin 65) (a : Fin 1024) (v : BitVec 24)
  /-- R90: a write of `v` to word `a` in the first window of Team `t`, by the host or by firmware. -/
  | dmWindowWrite (t : Fin 1024) (host : Bool) (a : BitVec 15) (v : BitVec 24)
  /-- R91: the same in the OR window; `c` is what the check of its read finds. -/
  | dmAliasSet (t : Fin 1024) (host : Bool) (a : BitVec 15) (v : BitVec 24) (c : MemCheck)
  /-- R91: the same in the AND NOT window. -/
  | dmAliasClear (t : Fin 1024) (host : Bool) (a : BitVec 15) (v : BitVec 24) (c : MemCheck)
  /-- R87: a cycle in which no port uses the bank of the oldest waiting access of Team `t`; `c` is what a read's check
  finds. -/
  | dmaAccess (t : Fin 1024) (c : MemCheck)
  /-- R88: the oldest waiting access of Team `t` has waited 1,024 cycles. -/
  | dmaForced (t : Fin 1024) (c : MemCheck)
  /-- R94: the patrol of Team `t` does its next region: `fixed` words corrected, `ue` the words with a double-bit error and
  their stored bits, `bad` the words that read back wrongly, all by their place in the region. -/
  | patrolRegion (t : Fin 1024) (fixed : Nat) (ue : List (Fin 256 × BitVec 24)) (bad : List (Fin 256))
  /-- R96: the Instruction Store patrol of Team `t` reads its next entry and, in IDLE, tests its next region of 256 entries: `fixed`
  corrections, the first entry with a double-bit error, and whether an entry read back wrongly. -/
  | isPatrol (t : Fin 1024) (c : Check) (fixed : Nat) (ue : Option (Fin 256)) (bad : Bool)
  /-- R547: a write of BANKn_PWR. -/
  | bankPowerWrite (t : Fin 1024) (b : Fin 2) (v : BitVec 2)
  /-- R547: the initialisation of bank `b`, or its return from RETENTION, is over. -/
  | bankInitDone (t : Fin 1024) (b : Fin 2)
  /-- R120: a write of CHIP_STRIDE_LO. -/
  | chipStrideLoWrite (v : Word)
  /-- R120: a write of CHIP_STRIDE_HI. -/
  | chipStrideHiWrite (v : Word)
  /-- R120: a read of CHIP_STRIDE_LO. -/
  | chipStrideLoRead (who : Agent)
  /-- R182: a read of DS_NOW_LO. -/
  | dsNowLoRead (who : Agent)
  /-- R182: a write of DS_HORIZON_HI. -/
  | dsHorizonHiWrite (v : Word)
  /-- R180. -/
  | dsEnable
  /-- R170. -/
  | hitchTokenAccept
  /-- R299: the tap ring delivers the sample of Team `t`. -/
  | tapSampleArrival (t : Fin 1024)
  /-- R308: the oldest complete record is stored; `full` lists the channels whose capture port is full (R307). -/
  | captureRecord (full : List Nat)
  /-- R306: a write of 1 to CAP_CTL.ARM. -/
  | capArm
  /-- R309: a write of 1 to CAP_CTL.STOP. -/
  | capStop
  /-- R301: a write of 1 to CAP_CTL.FORCE. -/
  | capForce
  /-- R312: a write of 1 to CAP_CTL.DISARM. -/
  | capDisarm
  /-- R219: EN of a lane is set. -/
  | laneEnable (l : Fin 160)
  /-- R219: EN of a lane is cleared. -/
  | laneDisable (l : Fin 160)
  /-- R220: the dwell of the setting in hand ends; `acq` and `dwell`: the training blocks that came in the acquisition window and in
  the dwell; `clean`: no pattern error and no invalid sync header in the dwell; `late`: a completion in the cycle in which a window
  expired. -/
  | sweepSettingDone (l : Fin 160) (acq dwell : List W64) (clean late : Bool)
  /-- R220: the sweep has tried every candidate. -/
  | sweepDone (l : Fin 160)
  /-- R220: CONFIRM ends; `ok`: no invalid sync header came in its 65,536 blocks. -/
  | confirmDone (l : Fin 160) (ok : Bool)
  /-- R216, R241: a training block arrives after the pattern blocks `pats`; `arrive`: the block time at which it, or the frame it stands
  beside, begins. -/
  | trainingBlockReceive (l : Fin 160) (block : W64) (pats : List W64) (arrive : Nat)
  /-- R218, R222: sync headers arrive, of the last 125 us or (`inWindow` false) of a longer time. -/
  | blockLockLoss (l : Fin 160) (inWindow : Bool) (heads : List (BitVec 2))
  /-- R219: 1 us of FAULT has passed. -/
  | faultTimeout (l : Fin 160)
  /-- R215: CDR_LOCK sets or clears. -/
  | cdrLockChange (l : Fin 160) (locked : Bool)
  /-- R228: a write of 1 to INJ_ONE. -/
  | injOne (l : Fin 160)
  /-- R239: a frame start of link `n` (0 to 15 lead, 16 to 19 elastic), whose first bit leaves at the moment `at_` (R260); the oldest `expired` requests that wait for a forwarding place and the oldest `stuck` requests that wait to
  cross have waited too long (R246). -/
  | frameTransmit (n : Fin 20) (at_ : Moment) (expired : Nat) (stuck : Nat)
  /-- R238: link `n` receives a frame, whose first bit arrived at the moment `at_` (R260). -/
  | frameReceive (n : Fin 20) (f : RxFrame) (at_ : Moment)
  /-- R245: the frame start at which an elastic link's new width takes effect. -/
  | widthChange (n : Fin 4)
  /-- R251: the message at the front of link `n` is an ALIGN_ID. -/
  | alignId (n : Fin 16)
  /-- R252: the message at the front of link `n` is an ALIGN_N0. -/
  | alignN0 (n : Fin 16)
  /-- R254: the message at the front of link `n` is a STRIDE. -/
  | stride (n : Fin 16)
  /-- R255: the message at the front of link `n` is a HOLD. -/
  | hold (n : Fin 16)
  /-- R257: the message at the front of link `n` is a RELEASE. -/
  | release (n : Fin 16)
  /-- R347: the message at the front of link `n` is a TIME message; `id`: the ID of the DREQ that answers a SYNC. -/
  | time (n : Fin 20) (id : Byte)
  /-- R347: the message at the front of link `n` is an FW message. -/
  | fw (n : Fin 20)
  /-- R255: a write of LD_HOLD_CTL with HOLD = 1. -/
  | holdRequest
  /-- R257: a write of LD_HOLD_CTL with RELEASE = 1. -/
  | releaseRequest
  /-- R256. -/
  | atHReached
  /-- R279: gateway `c` takes the oldest request of its scheduled queue. -/
  | gwRequestServe (c : Fin 16) (capSpent : Bool)
  /-- R280: the oldest response leaves gateway `c`. -/
  | gwRspSend (c : Fin 16)
  /-- R282: channel `c` issues a dynamic burst; `blocked`: the bank of the oldest scheduled request cannot accept a
  command; `capSpent`: the limit of rule 5 is reached in this microsecond. -/
  | dynamicBurst (c : Fin 16) (blocked capSpent : Bool)
  /-- R282: the oldest dynamic request has waited 4 us. -/
  | dynamicRequestAged (c : Fin 16)
  /-- R283: a per-bank refresh interval ends. -/
  | refreshDue (c : Fin 16)
  /-- R283: the controller issues a per-bank refresh. -/
  | refpbIssue (c : Fin 16)
  /-- R285: the CRC of the oldest burst in flight; `fails` mismatches in a row, `last` the bytes last received. -/
  | burstCrcCheck (c : Fin 16) (fails : Nat) (last : List Byte)
  /-- R286: a command-address parity alert; `again`: another one follows before the replay has ended. -/
  | caParityAlert (c : Fin 16) (again : Bool)
  /-- R289: GO of GD_TRN_CTL is written with OP. -/
  | trainOp (c : Fin 16) (op : Fin 8)
  /-- R289: the measurement step ends with a bit per pin. -/
  | trainOpDone (c : Fin 16) (pass : Nat)
  /-- R288: a write of GD_DLY_n. -/
  | gdDlyWrite (c : Fin 16) (n : Fin 128) (v : Byte)
  /-- R291: PAUSE is set. -/
  | pauseWrite (c : Fin 16)
  /-- R291: the boundary at which PAUSE takes effect. -/
  | pauseTakeEffect (c : Fin 16)
  /-- R291: the bursts issued have completed. -/
  | pauseReady (c : Fin 16)
  /-- R291: Groom 2 clears PAUSE; `late`: in the cycle of the expiry. -/
  | pauseClear (c : Fin 16) (late : Bool)
  /-- R291: 40 us of pause are over. -/
  | pauseTimeout (c : Fin 16)
  /-- R292: a write of SREF. -/
  | srefWrite (c : Fin 16) (v : Bool)
  /-- R294: a window of 4,096 bursts ends. -/
  | hotWindow (c : Fin 16)
  /-- R334: HT_CTL.HITCH_GO is written. -/
  | hitchGoWrite (v : Bool)
  /-- R336: HT_CTL.QSTOP is written. -/
  | qstopWrite (v : Bool)
  /-- R335: HT_PR.HOLD is set with a region. -/
  | prHold (r : Fin 128)
  /-- R335. -/
  | prRelease
  /-- R319: at an HCLK edge more than one driver of long line `line` is enabled. -/
  | contentionDetect (line : Fin 1024)
  /-- R319. -/
  | rearm
  /-- R325. -/
  | hpoUpdate
  /-- R326: HP_LOAD = 1 at an HPCLK edge; `v` is what the HPI sinks hold. -/
  | hpLoad (v : BitVec 1536)
  /-- R327: TKCLK rises with TK_VALID = 1. -/
  | tokenPortTake (task : BitVec 5) (opnd : BitVec 3) (data : BitVec 24)
  /-- R328: RXCLK of elastic link `n` rises with RX_READY = 1. -/
  | streamRxTake (n : Fin 4)
  /-- R328: TXCLK of elastic link `n` rises with TX_VALID = 1. -/
  | streamTxTake (n : Fin 4) (stream nb : BitVec 4) (data : BitVec 112)
  /-- R323: tree `t` has followed the falling edges of both sources. -/
  | treeSwitch (t : Fin 8)
  /-- R323: the old source of tree `t` has made no falling edge within 4,096 cycles of the new one. -/
  | treeSwitchTimeout (t : Fin 8)
  /-- R337: Update-IR of EXTEST, with the values of the boundary cells of the 256 pins. -/
  | extest (v oe : BitVec 256)
  /-- R339: a rising edge of LREF. -/
  | tbUpdate
  /-- R341: a write of TB_INC. -/
  | tbIncWrite (v : Word)
  /-- R341: a write of TB_ADJ. -/
  | tbAdjWrite (v : Word)
  /-- R341: a write of 1 to TB_CTL.SET. -/
  | tbSetWrite
  /-- R343: a read of TB_NOW_NS. -/
  | tbNowNsRead (by_ : Agent)
  /-- R353: a read of TB_SB_STRIDE. -/
  | tbSbStrideRead (by_ : Agent)
  /-- R348: a read of TB_TXQ_W3. -/
  | tbTxqW3Read (by_ : Agent)
  /-- R355: GO of transmit buffer `j` is set. -/
  | tpTxGo (j : Fin 8)
  /-- R355: the oldest frame is done; its first bit after the SFD left at the moment `at_` (R345). -/
  | tpTxDone (at_ : Moment)
  /-- R356: a frame arrives: the blocks received, from the one before its start on; its first bit after the SFD arrived at the moment `at_`. -/
  | tpRxFrame (blocks : List RxBlock) (at_ : Moment)
  /-- R356: 1 is written to FULL of receive buffer `j`. -/
  | tpRxFree (j : Fin 16)
  /-- R361, R362: an agent writes `n` bytes, as the words `vs`, at an offset of BAR0. -/
  | registerWrite (who : Agent) (a : BitVec 24) (n : Nat) (vs : List Word)
  /-- R520, R361: an agent reads `n` bytes from an offset: the low word of a paired register. -/
  | latchedPairRead (who : Agent) (a : BitVec 24) (n : Nat)
  /-- R364: the host reads `n` bytes from device address `d`, or writes bytes there; `crc`: a mismatch of one of its bursts. -/
  | bar2Access (d : BitVec 36) (n : Nat) (data : Option (List Byte))
  /-- R366: the host reads `n` bytes from BAR4 offset `a`, or writes bytes there; `c`: what the check finds on a word of design
  memory that is read; `hub`: the management hub whose packets carry the access; `dead`: the Team does not accept the first of them in time (R152). -/
  | bar4Access (a : BitVec 30) (n : Nat) (data : Option (List Byte)) (c : MemCheck) (hub : Fin 4) (dead : Bool)
  /-- R368. -/
  | peFenceRead
  /-- R379: the host writes word `w` of the command slots of mailbox `m`. -/
  | commandSlotWrite (m : Fin 4) (w : Fin 1024) (v : Word)
  /-- R378: the host writes MBX_m_DB. -/
  | doorbell (m : Fin 4) (v : Word)
  /-- R379: the host writes MBX_m_RSP_CI. -/
  | rspCiWrite (m : Fin 4) (v : Word)
  /-- R371: Groom `m` takes the next command of its ring. -/
  | commandTake (m : Fin 4)
  /-- R396: the deadline of the `i`-th command taken and not answered expires; `done`: its work completes in the same
  Groom cycle (R376). -/
  | commandTimeout (m : Fin 4) (i : Nat) (done : Bool)
  /-- R377: the oldest queued event of Groom `m` is posted. -/
  | eventPost (m : Fin 4)
  /-- R384: the host writes PE_INT_EN_LO (`hi` false) or PE_INT_EN_HI. -/
  | peIntEnWrite (hi : Bool) (v : Word)
  /-- R380: the host writes 1 to MBX_m_CTL.RESET. -/
  | mailboxReset (m : Fin 4)
  /-- R380: nothing is being posted on mailbox `m` any more. -/
  | mailboxResetDone (m : Fin 4)
  /-- R382: a Function Level Reset, or (`down`) a hot reset or link-down. -/
  | functionLevelReset (down : Bool)
  /-- R534: PE_PERST_N has been low for 100 us. -/
  | pePerst
  /-- R395. -/
  | getInfo
  /-- R418. -/
  | setEventVector
  /-- R397. -/
  | warmReset
  /-- R398: IMAGE_LOAD, with what the transfers of the image and of the exclusion list bring; `islands`: every Team island
  restarts within 1 ms (R436). -/
  | imageLoad (img excl : HostDma) (islands : Bool) (crc : List HostCrc)
  /-- R395. -/
  | imageInfo
  /-- R365. -/
  | aperture
  /-- R399. -/
  | imageUnload
  /-- R400: a look of Groom 3 at RUN_START; bit c of `failed`: the retraining of channel c in a service-level change fails. -/
  | runStart (runs : TrainRuns)
  /-- R401. -/
  | runStop
  /-- R402. -/
  | runAbort
  /-- R403. -/
  | stepStrides
  /-- R403. -/
  | bkpArm
  /-- R58. -/
  | haltContinue
  /-- R404. -/
  | hostGo
  /-- R404. -/
  | horizon
  /-- R405: TOKEN; bit k of `late`: token k arrives in the cycle in which its tag's consumption begins (R169). -/
  | token (late : BitVec 3)
  /-- R432: SNAPSHOT_SAVE, with what the checks of its reads of design memory find (R92, R93): Team, address and finding. -/
  | snapshotSave (finds : List (Fin 1024 × Fin 32768 × MemCheck)) (crc : List HostCrc)
  /-- R433: SNAPSHOT_RESTORE, with what its transfer brings. -/
  | snapshotRestore (dma : HostDma) (crc : List HostCrc)
  /-- R407. -/
  | linkUp
  /-- R395. -/
  | linkDown
  /-- R395. -/
  | linkStatus
  /-- R245. -/
  | elasticWidth
  /-- R407. -/
  | laneTest
  /-- R395. -/
  | memInfo
  /-- R411. -/
  | regionAlloc
  /-- R411. -/
  | regionFree
  /-- R412: MEM_COPY, with what its transfer brings; `crc`: a mismatch of one of its bursts. -/
  | memCopy (dma : HostDma)
  /-- R395. -/
  | driftCfg
  /-- R413: CAP_CONFIG, with what its transfer brings. -/
  | capConfig (dma : HostDma)
  /-- R413. -/
  | capCtl
  /-- R395. -/
  | capStatus
  /-- R408. -/
  | tbSet
  /-- R408. -/
  | cmpAlloc
  /-- R408. -/
  | cmpFree
  /-- R409: LINK_TIME: the ID of its SYNC; once the partner has told its stamps, t2 and t3 in units of 2^-8 ns. -/
  | linkTime (id : Byte) (far : Option (Nat × Nat))
  /-- R410: TP_TX, with what its transfer brings. -/
  | tpTx (dma : HostDma)
  /-- R410. -/
  | tpRx
  /-- R414: HT_PARTIAL, with what its transfer of records brings. -/
  | htPartial (dma : HostDma)
  /-- R395. -/
  | htCtl
  /-- R414. -/
  | htClock
  /-- R415. -/
  | sbRead
  /-- R477. -/
  | sbMark
  /-- R149, R415: REG_SET; `tooMuch`: the first link, by Team and port, that the setting would overload. -/
  | regSet (tooMuch : Option (Fin 1024 × Fin 4))
  /-- R416. -/
  | probeCfg
  /-- R496: TRACE_CFG; `next`: the next instruction of each Groom. -/
  | traceCfg (next : List Word)
  /-- R455. -/
  | teamPower
  /-- R417. -/
  | debugRead
  /-- R508. -/
  | secStatus
  /-- R509. -/
  | keyWrite
  /-- R509. -/
  | lcAdvance
  /-- R510: LC_RETURN, with what the transfer of its token brings. -/
  | lcReturn (dma : HostDma)
  /-- R424: RST_N low, or (`pwr`) PWR_OK low. -/
  | coldReset (pwr : Bool)
  /-- R425. -/
  | warmResetBegin
  /-- R426: the stage in progress completes, or fails (R428). -/
  | bootStageDone (b : BootIn)
  /-- R440: the reference monitor marks an input lost. -/
  | referenceLoss (c : RefClk)
  /-- R440: an input has been in range for 100 us. -/
  | referenceReturn (c : RefClk)
  /-- R448: the crossing CLASS, INDEX sees no heartbeat of its peer, whose domain is `dead`; `late`: it came in the cycle of
  the expiry. -/
  | heartbeatTimeout (cls : Fin 10) (idx : BitVec 16) (dead : ClockDomain) (late : Bool)
  /-- R450: one side of the crossing CLASS, INDEX is reset. -/
  | oneSidedReset (cls : Fin 10) (idx : BitVec 16)
  /-- R451: both sides of the crossing have seen each other's ARM. -/
  | crossingRearm (cls : Fin 10) (idx : BitVec 16)
  /-- R454: a write of TEAM_PWR. -/
  | teamPwrWrite (t : Fin 1024) (v : Word)
  /-- R455: the Team switch reaches its end position. -/
  | teamSwitchDone (t : Fin 1024)
  /-- R457, R458: the twenty sensors sample, in degrees, signed. -/
  | thermalSample (temps : List (BitVec 8))
  /-- R506: the detectors of `mask` fire; `begun`: the fuse programming of the LC_ADVANCE that is due has begun (R507). -/
  | tamper (mask : BitVec 4) (begun : Bool)
  /-- R467: the watchdog of Groom `g` counts `us` more microseconds; at an expiry `pc` is the Groom's program counter, `recent`
  its restarts in the 10 s before, `digestOk` the check of its firmware, `kick` that a kick falls in the same cycle, and `at_`
  the address at which it starts again. -/
  | watchdogExpiry (g : Fin 4) (us pc recent : Nat) (digestOk kick : Bool) (at_ : Word)
  /-- R467: a write of GRM_WDT_KICK_g. -/
  | watchdogKick (g : Fin 4) (v : Word)
  /-- R381: the restarted Groom `g` reaches its serving state. -/
  | groomRestart (g : Fin 4)
  /-- R469: Groom `g` does not reach its serving state within 300 us. -/
  | groomRestartTimeout (g : Fin 4)
  /-- R475: a write of SB_WR_g_W3 by Groom `g`. -/
  | sbWrW3Write (g : Fin 4) (v : Word)
  /-- R475: the next requested record is written; `cycles` of the always-on oscillator have passed since VDD_AON rose. -/
  | saddlebagRecord (cycles : BitVec 48)
  /-- R478: a second of Groom `g` ends. -/
  | suppressionSecondEnd (g : Fin 4)
  /-- R476. -/
  | ceSummary
  /-- R480: a read of word 0 of record `i`. -/
  | sbRecordRead (who : Agent) (i : Fin 8192)
  /-- R481. -/
  | smbusStatus
  /-- R481: SET_INDEX with a right or a wrong PEC. -/
  | smbusSetIndex (v : BitVec 16) (pecOk : Bool)
  /-- R481. -/
  | smbusReadRecord
  /-- R481. -/
  | smbusAlertStat
  /-- R481: ALERT_CLR. -/
  | smbusAlertClr (v : Byte) (pecOk : Bool)
  /-- R481: UNFREEZE. -/
  | unfreeze (v : Byte) (pecOk : Bool)
  /-- R481: WARM_RESET over SMBus. -/
  | smbusWarmReset (v : Byte) (pecOk : Bool)
  /-- R481. -/
  | smbusChipId
  /-- R473. -/
  | alertResponseRead
  /-- R482. -/
  | sbaccCapture
  /-- R482: Update-DR of SBACC with the bits shifted in. -/
  | sbaccUpdate (v : BitVec 144)
  /-- R487: Groom `g` executes a conditional direct branch, `cycles` Groom cycles after its last event of this kind; the next
  instruction is at `next`. -/
  | conditionalBranch (g : Fin 4) (taken : Bool) (cycles : Nat) (next : Word)
  /-- R485: an indirect branch, call or return to `target`. -/
  | indirectBranch (g : Fin 4) (cycles : Nat) (target : Word)
  /-- R486: an exception or interrupt is taken before the instruction at `addr`. -/
  | exceptionTaken (g : Fin 4) (cycles : Nat) (addr handler : Word) (cause : Byte)
  /-- R491: Groom `g` stops in wait for interrupt. -/
  | waitForInterrupt (g : Fin 4) (cycles : Nat)
  /-- R491: Groom `g` wakes and goes on at `addr`. -/
  | wake (g : Fin 4) (addr : Word)
  /-- R493: dropping Groom `g`, which executes the instruction at `next` next, looks for space. -/
  | traceDrop (g : Fin 4) (next : Word)
  /-- R496: a block is written; `aged`: 1 us has passed since the first byte of the block of Groom `g` entered it. -/
  | traceBlockFlush (g : Fin 4) (aged : Bool)
  /-- R496: a write of GRM_TRC_CTL; `next`: the next instruction of each Groom. -/
  | traceCtlWrite (v : Word) (next : List Word)
  /-- R109: the progress count `count` of the neighbour behind `port` reaches Team `t`. -/
  | progressCountArrival (t : Fin 1024) (port : Fin 4) (count : Word)
  /-- R145: the credits in the crossing toward router `t` arrive. -/
  | creditReturn (t : Fin 1024) (port : Fin 4) (vc : Fin 2)
  /-- R218: sync headers arrive while the receiver searches, on the true or on the complemented stream. -/
  | blockLockAcquire (l : Fin 160) (inverted : Bool) (heads : List (BitVec 2))
  /-- R227: a lane in TEST spends some bit times, in which these bits reach its receive pins. -/
  | prbsLockChange (l : Fin 160) (received : List Bool)
  /-- R221: the lane has sent 16 training blocks with RDY = 1. -/
  | rdyBlocksSent (l : Fin 160)
  /-- R354: the time port has received blocks with the sync headers `heads`, and `bad` invalid ones within 125 us. -/
  | tpLinkUpChange (heads : List (BitVec 2)) (bad : Nat)
  /-- R331: the supply of bank `b` enters or leaves 10 % of its voltage. -/
  | vddioHtChange (b : Fin 8) (mv : Nat)
  /-- R529. -/
  | vddAonLoss
  /-- R459. -/
  | vddAonRise
  /-- R426. -/
  | resetRelease
  /-- R440. -/
  | stepPllLock
  /-- R7, R361: an agent reads `n` bytes from an offset: a register with RC fields. -/
  | rcRegisterRead (who : Agent) (a : BitVec 24) (n : Nat)
  /-- R359: a configuration write of a register. -/
  | configurationWrite (reg : CfgReg) (v : Word)
  /-- R384: the host unmasks MSI-X vector `v`. -/
  | msixVectorUnmask (v : Fin 64)
  /-- R386: the PCI Express link comes up with a width (4, 8 or 16 lanes) and a speed code. -/
  | pcieLinkUp (width : Fin 17) (speed : Fin 6)
  /-- R481: an ARP command assigns the 7-bit address. -/
  | smbusArpAssign (addr : BitVec 7)
  /-- R536: Update-IR of a code other than EXTEST and SBACC; none: Test-Logic-Reset. -/
  | jtagInstructionLoad (code : Option Byte)
  /-- R410. -/
  | tpRxWaitExpiry
deriving DecidableEq, Repr

end Sys2Proof
end

