-- ==== Sys2Proof/Config.lean ====
section
/-! DEFINITION. What the spec leaves open and what only the outside world fixes: free values (opaque, no body, so
that no proof can lean on one of them) and the cryptographic functions, of which the spec gives the name and the
place but which stay uninterpreted.  Each is named in notes/assumptions. -/
namespace Sys2Proof.Config

/-- A 24-bit value the spec leaves undefined, the n-th of the run (R85). -/
opaque freeW24 : Nat → BitVec 24
/-- A 32-bit value the spec leaves undefined, the n-th of the run. -/
opaque freeW32 : Nat → BitVec 32
/-- A 64-bit value the spec leaves undefined, the n-th of the run. -/
opaque freeW64 : Nat → BitVec 64
/-- A byte the spec leaves undefined, the n-th of the run (R285, R396). -/
opaque freeByte : Nat → BitVec 8
/-- Undefined contents of an Instruction Store after power-on g (R456) or a refusal (R194), by key. -/
opaque freeIs : Nat → Nat → BitVec 72
/-- Undefined contents of a row of Signal Memories (R456), by generation and location. -/
opaque freeSm : Nat → Nat → BitVec 64
/-- Undefined contents of a Word Register (R456), by generation and number. -/
opaque freeWr : Nat → Nat → BitVec 24
/-- Undefined contents of a Slot Schedule entry (R194, R456), by generation and key. -/
opaque freeSlot : Nat → Nat → BitVec 48
/-- Undefined contents of a staging register (R456), by generation and number. -/
opaque freeStage : Nat → Nat → BitVec 24

/-- A bit of distributed RAM that nothing has written (R315), by generation and location. -/
opaque freeRam : Nat → Nat → Bool

/-- The levels that the outside gives the Hitch pins at the n-th tick (R329, R330). -/
opaque freePads : Nat → BitVec 256

/-- The value of a contended long line (R319), or a bit that an LVDS pair receives (R330), at the n-th tick. -/
opaque freeWire : Nat → Nat → Bool

/-- AES key wrap (RFC 3394): the 32-byte key that a wrapped key of 40 bytes holds under a key-encryption key; none where its
integrity check fails (R508). -/
opaque keyUnwrap : BitVec 256 → BitVec 320 → Option (BitVec 256)
/-- ECDSA P-384 over SHA-384: a public key, a message and its signature (R503, R510). -/
opaque ecdsaOk : BitVec 776 → List (BitVec 8) → List (BitVec 8) → Bool
/-- AES-256-GCM: the plaintext under a key, an initialisation vector, additional authenticated data, a ciphertext and a tag;
none where the tag fails (R504). -/
opaque gcm : BitVec 256 → List (BitVec 8) → List (BitVec 8) → List (BitVec 8) → List (BitVec 8) → Option (List (BitVec 8))

/-- The interrupt number of a Team or another source, the INDEX of its pulse crossing (R444): the spec names the number
and gives no list of them. -/
opaque interruptNo : Nat → BitVec 16

end Sys2Proof.Config
end

