-- ==== Sys2Proof/Machine/Regs.lean ====
section
/-! DEFINITION. The register map of BAR0 (R512 to R523 and the register tables of every chapter): for each register
its address, its fields, their access codes (R7) and their reset values.  `Adr.X` is a register's byte offset in
BAR0, `Reg.X_F` its field F.  A Team's or router's registers stand at the virtual window 0x40_0000 + 0x400 * t of Team ID
t (R514, R515); the physical windows are another name for them under the row map (R16).
A field whose reset the tables give as a dash has reset 0 here; notes/assumptions/2.md says which; SB_STAT.EMPTY
has reset 1, since no record has been written when VDD_AON has just risen. -/
namespace Sys2Proof.Machine

/-- The access codes of R7. -/
inductive Access where
  | ro | rw | w1c | w1s | wo | rc | rwl
deriving DecidableEq, Repr

/-- One field of a register: its bits, its access code and its reset value. -/
structure RegField where
  hi : Nat
  lo : Nat
  acc : Access
  reset : Nat
deriving DecidableEq, Repr

/-- A register or an array of registers: its first address, the (count, stride) of each index, widest stride
first, and its fields. -/
structure RegDesc where
  base : Nat
  dims : List (Nat × Nat)
  fields : List RegField
deriving DecidableEq, Repr

/-- A field of one register: the register's address and the field's bits. -/
structure Fld where
  addr : Nat
  hi : Nat
  lo : Nat
deriving DecidableEq, Repr

namespace Adr

/-- R59 of 02_boolean_processors.md. -/
abbrev TEAM_BP_CTL (p : Nat) : Nat := 0x4000C0 + 0x400 * p
/-- R59 of 02_boolean_processors.md. -/
abbrev TEAM_BP_ERR (p : Nat) : Nat := 0x4000C4 + 0x400 * p
/-- R59 of 02_boolean_processors.md. -/
abbrev TEAM_BP_ERR_LOC (p : Nat) : Nat := 0x4000C8 + 0x400 * p
/-- R59 of 02_boolean_processors.md. -/
abbrev TEAM_BP_ERR_STRIDE (p : Nat) : Nat := 0x4000CC + 0x400 * p
/-- R59 of 02_boolean_processors.md. -/
abbrev TEAM_BKP_STAT (p : Nat) : Nat := 0x4000D0 + 0x400 * p
/-- R59 of 02_boolean_processors.md. -/
abbrev TEAM_STEP (p : Nat) : Nat := 0x4000D4 + 0x400 * p
/-- R101 of 03_word_units_and_design_memory.md. -/
abbrev TEAM_WU_ERR (p : Nat) : Nat := 0x400100 + 0x400 * p
/-- R101 of 03_word_units_and_design_memory.md. -/
abbrev TEAM_WU_ERR_LOC (p : Nat) : Nat := 0x400104 + 0x400 * p
/-- R101 of 03_word_units_and_design_memory.md. -/
abbrev TEAM_WU_ERR_STRIDE (p : Nat) : Nat := 0x400108 + 0x400 * p
/-- R101 of 03_word_units_and_design_memory.md. -/
abbrev TEAM_DM_CTL (p : Nat) : Nat := 0x400110 + 0x400 * p
/-- R101 of 03_word_units_and_design_memory.md. -/
abbrev TEAM_DM_STAT (p : Nat) : Nat := 0x400114 + 0x400 * p
/-- R101 of 03_word_units_and_design_memory.md. -/
abbrev TEAM_DM_ERR_ADDR (p : Nat) : Nat := 0x400118 + 0x400 * p
/-- R101 of 03_word_units_and_design_memory.md. -/
abbrev TEAM_DM_CECNT (p : Nat) : Nat := 0x40011C + 0x400 * p
/-- R119 of 04_stride_execution.md. -/
abbrev TEAM_PROG (p : Nat) : Nat := 0x400140 + 0x400 * p
/-- R119 of 04_stride_execution.md. -/
abbrev TEAM_SKEW_CTL (p : Nat) : Nat := 0x400144 + 0x400 * p
/-- R119 of 04_stride_execution.md. -/
abbrev TEAM_STALL_RX (p : Nat) : Nat := 0x400148 + 0x400 * p
/-- R119 of 04_stride_execution.md. -/
abbrev TEAM_STALL_SKEW (p : Nat) : Nat := 0x40014C + 0x400 * p
/-- R119 of 04_stride_execution.md. -/
abbrev TEAM_STALL_LOC (p : Nat) : Nat := 0x400150 + 0x400 * p
/-- R119 of 04_stride_execution.md. -/
abbrev TEAM_BWAIT (p : Nat) : Nat := 0x400154 + 0x400 * p
/-- R119 of 04_stride_execution.md. -/
abbrev TEAM_STRIDE_STAT (p : Nat) : Nat := 0x400158 + 0x400 * p
/-- R119 of 04_stride_execution.md. -/
abbrev TEAM_HANG_CTL (p : Nat) : Nat := 0x40015C + 0x400 * p
/-- R158 of 05_torus_network.md. -/
abbrev RTR_CTL (p : Nat) : Nat := 0x400200 + 0x400 * p
/-- R158 of 05_torus_network.md. -/
abbrev RTR_STAT (p : Nat) : Nat := 0x400204 + 0x400 * p
/-- R158 of 05_torus_network.md. -/
abbrev RTR_ERR (p : Nat) : Nat := 0x400208 + 0x400 * p
/-- R158 of 05_torus_network.md. -/
abbrev RTR_ERR_LOC (p : Nat) : Nat := 0x40020C + 0x400 * p
/-- R158 of 05_torus_network.md. -/
abbrev RTR_SS_IDX (p : Nat) : Nat := 0x400210 + 0x400 * p
/-- R158 of 05_torus_network.md. -/
abbrev RTR_SS_W0 (p : Nat) : Nat := 0x400214 + 0x400 * p
/-- R158 of 05_torus_network.md. -/
abbrev RTR_SS_W1 (p : Nat) : Nat := 0x400218 + 0x400 * p
/-- R158 of 05_torus_network.md. -/
abbrev RTR_SWAP_LO (p : Nat) : Nat := 0x40021C + 0x400 * p
/-- R158 of 05_torus_network.md. -/
abbrev RTR_SWAP_HI (p : Nat) : Nat := 0x400220 + 0x400 * p
/-- R158 of 05_torus_network.md. -/
abbrev RTR_TMO (p : Nat) : Nat := 0x400224 + 0x400 * p
/-- R158 of 05_torus_network.md. -/
abbrev RTR_ABSORB (p : Nat) : Nat := 0x400228 + 0x400 * p
/-- R158 of 05_torus_network.md. -/
abbrev RTR_REPLAY (p : Nat) : Nat := 0x40022C + 0x400 * p
/-- R209 of 07_compiler_contract.md. -/
abbrev TEAM_CHK_CTL (p : Nat) : Nat := 0x400180 + 0x400 * p
/-- R209 of 07_compiler_contract.md. -/
abbrev TEAM_CHK_STAT (p : Nat) : Nat := 0x400184 + 0x400 * p
/-- R209 of 07_compiler_contract.md. -/
abbrev TEAM_CHK_QMAX (p : Nat) : Nat := 0x400188 + 0x400 * p
/-- R209 of 07_compiler_contract.md. -/
abbrev TEAM_CHK_QMAX_LD (p : Nat) : Nat := 0x40018C + 0x400 * p
/-- R462 of 17_clocks_crossings_power.md. -/
abbrev TEAM_PWR (p : Nat) : Nat := 0x4001C0 + 0x400 * p
/-- R120 of 04_stride_execution.md. -/
abbrev CHIP_STRIDE_LO : Nat := 0x100
/-- R120 of 04_stride_execution.md. -/
abbrev CHIP_STRIDE_HI : Nat := 0x104
/-- R159 of 05_torus_network.md. -/
abbrev RTR_REG (p : Nat) : Nat := 0x100000 + 0x4 * p
/-- R159 of 05_torus_network.md. -/
abbrev RTR_SITE (p : Nat) : Nat := 0x100100 + 0x4 * p
/-- R159 of 05_torus_network.md. -/
abbrev RTR_PRB_SEL (p : Nat) : Nat := 0x100200 + 0x20 * p
/-- R159 of 05_torus_network.md. -/
abbrev RTR_PRB_CTL (p : Nat) : Nat := 0x100204 + 0x20 * p
/-- R159 of 05_torus_network.md. -/
abbrev RTR_PRB_MATCH (p : Nat) : Nat := 0x100208 + 0x20 * p
/-- R159 of 05_torus_network.md. -/
abbrev RTR_PRB_MASK (p : Nat) : Nat := 0x10020C + 0x20 * p
/-- R159 of 05_torus_network.md. -/
abbrev RTR_PRB_CNT (p : Nat) : Nat := 0x100210 + 0x20 * p
/-- R182 of 06_domain_scheduler.md. -/
abbrev DS_CTL : Nat := 0x50000
/-- R182 of 06_domain_scheduler.md. -/
abbrev DS_STAT : Nat := 0x50004
/-- R182 of 06_domain_scheduler.md. -/
abbrev DS_TICK : Nat := 0x50008
/-- R182 of 06_domain_scheduler.md. -/
abbrev DS_NOW_LO : Nat := 0x50010
/-- R182 of 06_domain_scheduler.md. -/
abbrev DS_NOW_HI : Nat := 0x50014
/-- R182 of 06_domain_scheduler.md. -/
abbrev DS_HORIZON_LO : Nat := 0x50018
/-- R182 of 06_domain_scheduler.md. -/
abbrev DS_HORIZON_HI : Nat := 0x5001C
/-- R182 of 06_domain_scheduler.md. -/
abbrev DS_SKIP : Nat := 0x50020
/-- R182 of 06_domain_scheduler.md. -/
abbrev DS_ORPHAN : Nat := 0x50024
/-- R182 of 06_domain_scheduler.md. -/
abbrev DS_WAIT : Nat := 0x50028
/-- R182 of 06_domain_scheduler.md. -/
abbrev DS_REFUSED : Nat := 0x5002C
/-- R182 of 06_domain_scheduler.md. -/
abbrev DS_SPT (p : Nat) : Nat := 0x50100 + 0x4 * p
/-- R182 of 06_domain_scheduler.md. -/
abbrev DS_DOM_PERIOD_LO (p : Nat) : Nat := 0x51000 + 0x20 * p
/-- R182 of 06_domain_scheduler.md. -/
abbrev DS_DOM_PERIOD_HI (p : Nat) : Nat := 0x51004 + 0x20 * p
/-- R182 of 06_domain_scheduler.md. -/
abbrev DS_DOM_PHASE_LO (p : Nat) : Nat := 0x51008 + 0x20 * p
/-- R182 of 06_domain_scheduler.md. -/
abbrev DS_DOM_PHASE_HI (p : Nat) : Nat := 0x5100C + 0x20 * p
/-- R182 of 06_domain_scheduler.md. -/
abbrev DS_DOM_DUTY_LO (p : Nat) : Nat := 0x51010 + 0x20 * p
/-- R182 of 06_domain_scheduler.md. -/
abbrev DS_DOM_DUTY_HI (p : Nat) : Nat := 0x51014 + 0x20 * p
/-- R182 of 06_domain_scheduler.md. -/
abbrev DS_DOM_CFG (p : Nat) : Nat := 0x51018 + 0x20 * p
/-- R182 of 06_domain_scheduler.md. -/
abbrev DS_DOM_FLAGS (p : Nat) : Nat := 0x5101C + 0x20 * p
/-- R182 of 06_domain_scheduler.md. -/
abbrev DS_SEL_SMASK (p x : Nat) : Nat := 0x52000 + 0x20 * p + 0x4 * x
/-- R182 of 06_domain_scheduler.md. -/
abbrev DS_SEL_SVAL (p x : Nat) : Nat := 0x5200C + 0x20 * p + 0x4 * x
/-- R182 of 06_domain_scheduler.md. -/
abbrev DS_SEL_CTL (p : Nat) : Nat := 0x52018 + 0x20 * p
/-- R182 of 06_domain_scheduler.md. -/
abbrev DS_TT_CFG (p : Nat) : Nat := 0x53000 + 0x40 * p
/-- R182 of 06_domain_scheduler.md. -/
abbrev DS_TT_LAND (p x : Nat) : Nat := 0x53004 + 0x40 * p + 0x4 * x
/-- R182 of 06_domain_scheduler.md. -/
abbrev DS_MS_W0 (p : Nat) : Nat := 0x54000 + 0x10 * p
/-- R182 of 06_domain_scheduler.md. -/
abbrev DS_MS_W1 (p : Nat) : Nat := 0x54004 + 0x10 * p
/-- R182 of 06_domain_scheduler.md. -/
abbrev DS_MS_W2 (p : Nat) : Nat := 0x54008 + 0x10 * p
/-- R182 of 06_domain_scheduler.md. -/
abbrev DS_MS_W3 (p : Nat) : Nat := 0x5400C + 0x10 * p
/-- R182 of 06_domain_scheduler.md. -/
abbrev DS_DL_W0 (p : Nat) : Nat := 0x55000 + 0x8 * p
/-- R182 of 06_domain_scheduler.md. -/
abbrev DS_DL_W1 (p : Nat) : Nat := 0x55004 + 0x8 * p
/-- R230 of 08_serial_lanes.md. -/
abbrev LD_LANE_CTL (p x : Nat) : Nat := 0x80800 + 0x1000 * p + 0x40 * x
/-- R230 of 08_serial_lanes.md. -/
abbrev LD_LANE_STAT (p x : Nat) : Nat := 0x80804 + 0x1000 * p + 0x40 * x
/-- R230 of 08_serial_lanes.md. -/
abbrev LD_LANE_SWEEP (p x : Nat) : Nat := 0x80808 + 0x1000 * p + 0x40 * x
/-- R230 of 08_serial_lanes.md. -/
abbrev LD_LANE_PRBS (p x : Nat) : Nat := 0x8080C + 0x1000 * p + 0x40 * x
/-- R230 of 08_serial_lanes.md. -/
abbrev LD_LANE_ERR (p x : Nat) : Nat := 0x80810 + 0x1000 * p + 0x40 * x
/-- R230 of 08_serial_lanes.md. -/
abbrev LD_LANE_SYNC_ERR (p x : Nat) : Nat := 0x80814 + 0x1000 * p + 0x40 * x
/-- R230 of 08_serial_lanes.md. -/
abbrev LD_LANE_EVT (p x : Nat) : Nat := 0x80818 + 0x1000 * p + 0x40 * x
/-- R230 of 08_serial_lanes.md. -/
abbrev EL_LANE_CTL (p x : Nat) : Nat := 0xA0800 + 0x1000 * p + 0x40 * x
/-- R230 of 08_serial_lanes.md. -/
abbrev EL_LANE_STAT (p x : Nat) : Nat := 0xA0804 + 0x1000 * p + 0x40 * x
/-- R230 of 08_serial_lanes.md. -/
abbrev EL_LANE_SWEEP (p x : Nat) : Nat := 0xA0808 + 0x1000 * p + 0x40 * x
/-- R230 of 08_serial_lanes.md. -/
abbrev EL_LANE_PRBS (p x : Nat) : Nat := 0xA080C + 0x1000 * p + 0x40 * x
/-- R230 of 08_serial_lanes.md. -/
abbrev EL_LANE_ERR (p x : Nat) : Nat := 0xA0810 + 0x1000 * p + 0x40 * x
/-- R230 of 08_serial_lanes.md. -/
abbrev EL_LANE_SYNC_ERR (p x : Nat) : Nat := 0xA0814 + 0x1000 * p + 0x40 * x
/-- R230 of 08_serial_lanes.md. -/
abbrev EL_LANE_EVT (p x : Nat) : Nat := 0xA0818 + 0x1000 * p + 0x40 * x
/-- R261 of 09_links_and_multichip.md. -/
abbrev LD_LINK_CTL (p : Nat) : Nat := 0x80000 + 0x1000 * p
/-- R261 of 09_links_and_multichip.md. -/
abbrev LD_LINK_STAT (p : Nat) : Nat := 0x80004 + 0x1000 * p
/-- R261 of 09_links_and_multichip.md. -/
abbrev LD_LINK_ERR (p : Nat) : Nat := 0x8000C + 0x1000 * p
/-- R261 of 09_links_and_multichip.md. -/
abbrev LD_LINK_REPLAY (p : Nat) : Nat := 0x80010 + 0x1000 * p
/-- R261 of 09_links_and_multichip.md. -/
abbrev LD_LINK_DESKEW (p : Nat) : Nat := 0x80014 + 0x1000 * p
/-- R261 of 09_links_and_multichip.md. -/
abbrev LD_LINK_PROG (p : Nat) : Nat := 0x80018 + 0x1000 * p
/-- R261 of 09_links_and_multichip.md. -/
abbrev LD_LINK_QOCC (p : Nat) : Nat := 0x8001C + 0x1000 * p
/-- R261 of 09_links_and_multichip.md. -/
abbrev LD_LINK_MAP (p : Nat) : Nat := 0x80008 + 0x1000 * p
/-- R261 of 09_links_and_multichip.md. -/
abbrev EL_LINK_CTL (p : Nat) : Nat := 0xA0000 + 0x1000 * p
/-- R261 of 09_links_and_multichip.md. -/
abbrev EL_LINK_STAT (p : Nat) : Nat := 0xA0004 + 0x1000 * p
/-- R261 of 09_links_and_multichip.md. -/
abbrev EL_LINK_ERR (p : Nat) : Nat := 0xA000C + 0x1000 * p
/-- R261 of 09_links_and_multichip.md. -/
abbrev EL_LINK_REPLAY (p : Nat) : Nat := 0xA0010 + 0x1000 * p
/-- R261 of 09_links_and_multichip.md. -/
abbrev EL_LINK_DESKEW (p : Nat) : Nat := 0xA0014 + 0x1000 * p
/-- R261 of 09_links_and_multichip.md. -/
abbrev EL_LINK_FILL (p : Nat) : Nat := 0xA0020 + 0x1000 * p
/-- R262 of 09_links_and_multichip.md. -/
abbrev LD_HOLD_CTL : Nat := 0x90000
/-- R262 of 09_links_and_multichip.md. -/
abbrev LD_HOLD_STAT : Nat := 0x90004
/-- R262 of 09_links_and_multichip.md. -/
abbrev LD_HOLD_H_LO : Nat := 0x90008
/-- R262 of 09_links_and_multichip.md. -/
abbrev LD_HOLD_H_HI : Nat := 0x9000C
/-- R262 of 09_links_and_multichip.md. -/
abbrev LD_HOLD_RAISED : Nat := 0x90010
/-- R295 of 10_gddr6_memory.md. -/
abbrev GD_CH_CTL (p : Nat) : Nat := 0xC0000 + 0x2000 * p
/-- R295 of 10_gddr6_memory.md. -/
abbrev GD_CH_STAT (p : Nat) : Nat := 0xC0004 + 0x2000 * p
/-- R295 of 10_gddr6_memory.md. -/
abbrev GD_CH_ERRCNT (p : Nat) : Nat := 0xC0008 + 0x2000 * p
/-- R295 of 10_gddr6_memory.md. -/
abbrev GD_REF (p : Nat) : Nat := 0xC000C + 0x2000 * p
/-- R295 of 10_gddr6_memory.md. -/
abbrev GD_HOT (p : Nat) : Nat := 0xC0010 + 0x2000 * p
/-- R295 of 10_gddr6_memory.md. -/
abbrev GD_TRN_CTL (p : Nat) : Nat := 0xC0020 + 0x2000 * p
/-- R295 of 10_gddr6_memory.md. -/
abbrev GD_TRN_RES (p : Nat) : Nat := 0xC0024 + 0x2000 * p
/-- R295 of 10_gddr6_memory.md. -/
abbrev GD_DLY (p x : Nat) : Nat := 0xC0100 + 0x2000 * p + 0x4 * x
/-- R296 of 10_gddr6_memory.md. -/
abbrev GW_CTL (p : Nat) : Nat := 0xE0000 + 0x1000 * p
/-- R296 of 10_gddr6_memory.md. -/
abbrev GW_STAT (p : Nat) : Nat := 0xE0004 + 0x1000 * p
/-- R296 of 10_gddr6_memory.md. -/
abbrev GW_ERR (p : Nat) : Nat := 0xE0008 + 0x1000 * p
/-- R296 of 10_gddr6_memory.md. -/
abbrev GW_WIN (p x : Nat) : Nat := 0xE0100 + 0x1000 * p + 0x4 * x
/-- R312 of 11_trigger_and_capture.md. -/
abbrev CAP_CTL : Nat := 0x60000
/-- R312 of 11_trigger_and_capture.md. -/
abbrev CAP_STAT : Nat := 0x60004
/-- R312 of 11_trigger_and_capture.md. -/
abbrev CAP_RGN : Nat := 0x60008
/-- R312 of 11_trigger_and_capture.md. -/
abbrev CAP_GEOM : Nat := 0x6000C
/-- R312 of 11_trigger_and_capture.md. -/
abbrev CAP_POST : Nat := 0x60010
/-- R312 of 11_trigger_and_capture.md. -/
abbrev CAP_START_LO : Nat := 0x60014
/-- R312 of 11_trigger_and_capture.md. -/
abbrev CAP_START_HI : Nat := 0x60018
/-- R312 of 11_trigger_and_capture.md. -/
abbrev CAP_TRIG_LO : Nat := 0x60020
/-- R312 of 11_trigger_and_capture.md. -/
abbrev CAP_TRIG_HI : Nat := 0x60024
/-- R312 of 11_trigger_and_capture.md. -/
abbrev CAP_STOP_STRIDE_LO : Nat := 0x60028
/-- R312 of 11_trigger_and_capture.md. -/
abbrev CAP_STOP_STRIDE_HI : Nat := 0x6002C
/-- R312 of 11_trigger_and_capture.md. -/
abbrev CAP_TRIG_SLOT : Nat := 0x60030
/-- R312 of 11_trigger_and_capture.md. -/
abbrev CAP_LAST_SLOT : Nat := 0x60034
/-- R312 of 11_trigger_and_capture.md. -/
abbrev CAP_RECCNT : Nat := 0x60038
/-- R312 of 11_trigger_and_capture.md. -/
abbrev CAP_TRIG_CTL : Nat := 0x60040
/-- R312 of 11_trigger_and_capture.md. -/
abbrev CAP_SEQ_N : Nat := 0x60044
/-- R312 of 11_trigger_and_capture.md. -/
abbrev CAP_SEL (p : Nat) : Nat := 0x60100 + 0x4 * p
/-- R312 of 11_trigger_and_capture.md. -/
abbrev CAP_TWSEL (p : Nat) : Nat := 0x60200 + 0x4 * p
/-- R312 of 11_trigger_and_capture.md. -/
abbrev CAP_VAL (p x : Nat) : Nat := 0x61000 + 0x200 * p + 0x4 * x
/-- R312 of 11_trigger_and_capture.md. -/
abbrev CAP_CARE (p x : Nat) : Nat := 0x61100 + 0x200 * p + 0x4 * x
/-- R338 of 12_hitch_fabric.md. -/
abbrev HT_CTL : Nat := 0x140000
/-- R338 of 12_hitch_fabric.md. -/
abbrev HT_STAT : Nat := 0x140004
/-- R338 of 12_hitch_fabric.md. -/
abbrev HT_FPLL : Nat := 0x140040
/-- R338 of 12_hitch_fabric.md. -/
abbrev HT_PR : Nat := 0x1400A0
/-- R338 of 12_hitch_fabric.md. -/
abbrev HT_CONT : Nat := 0x1400A4
/-- R338 of 12_hitch_fabric.md. -/
abbrev HT_HP_STAT : Nat := 0x1400B0
/-- R338 of 12_hitch_fabric.md. -/
abbrev HT_TK_STAT : Nat := 0x1400B4
/-- R338 of 12_hitch_fabric.md. -/
abbrev HT_BANK (p : Nat) : Nat := 0x140010 + 0x4 * p
/-- R338 of 12_hitch_fabric.md. -/
abbrev HT_FCLK (p : Nat) : Nat := 0x140050 + 0x4 * p
/-- R338 of 12_hitch_fabric.md. -/
abbrev HT_TREE (p : Nat) : Nat := 0x140070 + 0x4 * p
/-- R338 of 12_hitch_fabric.md. -/
abbrev HT_STRM_W0 (p : Nat) : Nat := 0x1400C0 + 0x8 * p
/-- R338 of 12_hitch_fabric.md. -/
abbrev HT_STRM_W1 (p : Nat) : Nat := 0x1400C4 + 0x8 * p
/-- R357 of 13_time_base.md. -/
abbrev TB_CTL : Nat := 0x40000
/-- R357 of 13_time_base.md. -/
abbrev TB_STAT : Nat := 0x40004
/-- R357 of 13_time_base.md. -/
abbrev TB_INC : Nat := 0x40008
/-- R357 of 13_time_base.md. -/
abbrev TB_ADJ : Nat := 0x4000C
/-- R357 of 13_time_base.md. -/
abbrev TB_SET_SEC_LO : Nat := 0x40010
/-- R357 of 13_time_base.md. -/
abbrev TB_SET_SEC_HI : Nat := 0x40014
/-- R357 of 13_time_base.md. -/
abbrev TB_SET_NS : Nat := 0x40018
/-- R357 of 13_time_base.md. -/
abbrev TB_SET_FRAC : Nat := 0x4001C
/-- R357 of 13_time_base.md. -/
abbrev TB_NOW_NS : Nat := 0x40020
/-- R357 of 13_time_base.md. -/
abbrev TB_NOW_SEC_LO : Nat := 0x40024
/-- R357 of 13_time_base.md. -/
abbrev TB_NOW_SEC_HI : Nat := 0x40028
/-- R357 of 13_time_base.md. -/
abbrev TB_NOW_FRAC : Nat := 0x4002C
/-- R357 of 13_time_base.md. -/
abbrev TB_NOW_NR : Nat := 0x40030
/-- R357 of 13_time_base.md. -/
abbrev TB_TXQ_W0 : Nat := 0x40040
/-- R357 of 13_time_base.md. -/
abbrev TB_TXQ_W1 : Nat := 0x40044
/-- R357 of 13_time_base.md. -/
abbrev TB_TXQ_W2 : Nat := 0x40048
/-- R357 of 13_time_base.md. -/
abbrev TB_TXQ_W3 : Nat := 0x4004C
/-- R357 of 13_time_base.md. -/
abbrev TB_TXQ_LOST : Nat := 0x40050
/-- R357 of 13_time_base.md. -/
abbrev TB_SB_CTL : Nat := 0x40060
/-- R357 of 13_time_base.md. -/
abbrev TB_SB_N : Nat := 0x40064
/-- R357 of 13_time_base.md. -/
abbrev TB_SB_STRIDE : Nat := 0x40068
/-- R357 of 13_time_base.md. -/
abbrev TB_SB_NS : Nat := 0x4006C
/-- R357 of 13_time_base.md. -/
abbrev TB_SB_SEC_LO : Nat := 0x40070
/-- R357 of 13_time_base.md. -/
abbrev TB_SB_SEC_HI : Nat := 0x40074
/-- R357 of 13_time_base.md. -/
abbrev TB_SB_FRAC : Nat := 0x40078
/-- R357 of 13_time_base.md. -/
abbrev TB_CMP_CTL (p : Nat) : Nat := 0x40080 + 0x10 * p
/-- R357 of 13_time_base.md. -/
abbrev TB_CMP_TGT (p : Nat) : Nat := 0x40084 + 0x10 * p
/-- R357 of 13_time_base.md. -/
abbrev TB_CMP_PER (p : Nat) : Nat := 0x40088 + 0x10 * p
/-- R357 of 13_time_base.md. -/
abbrev TP_CTL : Nat := 0x40100
/-- R357 of 13_time_base.md. -/
abbrev TP_STAT : Nat := 0x40104
/-- R357 of 13_time_base.md. -/
abbrev TP_CNT : Nat := 0x40108
/-- R357 of 13_time_base.md. -/
abbrev TP_TXD (p : Nat) : Nat := 0x40200 + 0x4 * p
/-- R357 of 13_time_base.md. -/
abbrev TP_RXD_W0 (p : Nat) : Nat := 0x40300 + 0x10 * p
/-- R357 of 13_time_base.md. -/
abbrev TP_RXD_W1 (p : Nat) : Nat := 0x40304 + 0x10 * p
/-- R357 of 13_time_base.md. -/
abbrev TP_RXD_W2 (p : Nat) : Nat := 0x40308 + 0x10 * p
/-- R357 of 13_time_base.md. -/
abbrev TP_RXD_W3 (p : Nat) : Nat := 0x4030C + 0x10 * p
/-- R385 of 14_host_interface.md. -/
abbrev MBX_DB (p : Nat) : Nat := 0x12000 + 0x3000 * p
/-- R385 of 14_host_interface.md. -/
abbrev MBX_CMD_CI (p : Nat) : Nat := 0x12004 + 0x3000 * p
/-- R385 of 14_host_interface.md. -/
abbrev MBX_RSP_PI (p : Nat) : Nat := 0x12008 + 0x3000 * p
/-- R385 of 14_host_interface.md. -/
abbrev MBX_RSP_CI (p : Nat) : Nat := 0x1200C + 0x3000 * p
/-- R385 of 14_host_interface.md. -/
abbrev MBX_CTL (p : Nat) : Nat := 0x12010 + 0x3000 * p
/-- R385 of 14_host_interface.md. -/
abbrev MBX_STAT (p : Nat) : Nat := 0x12014 + 0x3000 * p
/-- R385 of 14_host_interface.md. -/
abbrev MBX_EVTLOST (p : Nat) : Nat := 0x12018 + 0x3000 * p
/-- R386 of 14_host_interface.md. -/
abbrev PE_INT_STAT_LO : Nat := 0x1C000
/-- R386 of 14_host_interface.md. -/
abbrev PE_INT_STAT_HI : Nat := 0x1C004
/-- R386 of 14_host_interface.md. -/
abbrev PE_INT_EN_LO : Nat := 0x1C008
/-- R386 of 14_host_interface.md. -/
abbrev PE_INT_EN_HI : Nat := 0x1C00C
/-- R386 of 14_host_interface.md. -/
abbrev PE_FENCE : Nat := 0x1C010
/-- R386 of 14_host_interface.md. -/
abbrev PE_ERR : Nat := 0x1C020
/-- R386 of 14_host_interface.md. -/
abbrev PE_ERR_INFO : Nat := 0x1C024
/-- R386 of 14_host_interface.md. -/
abbrev PE_LINK : Nat := 0x1C030
/-- R438 of 16_modes_and_bringup.md. -/
abbrev CHIP_MODE : Nat := 0x20
/-- R438 of 16_modes_and_bringup.md. -/
abbrev CHIP_RST : Nat := 0x24
/-- R438 of 16_modes_and_bringup.md. -/
abbrev CHIP_BOOT : Nat := 0x28
/-- R461 of 17_clocks_crossings_power.md. -/
abbrev CHIP_CLK_STAT : Nat := 0x40
/-- R461 of 17_clocks_crossings_power.md. -/
abbrev CHIP_CLK_ERR : Nat := 0x44
/-- R461 of 17_clocks_crossings_power.md. -/
abbrev CHIP_CDC_STAT : Nat := 0x48
/-- R461 of 17_clocks_crossings_power.md. -/
abbrev CHIP_CDC_LOC : Nat := 0x4C
/-- R461 of 17_clocks_crossings_power.md. -/
abbrev CHIP_THERM : Nat := 0x50
/-- R461 of 17_clocks_crossings_power.md. -/
abbrev CHIP_THERM_CTL : Nat := 0x54
/-- R483 of 18_faults_and_saddlebag.md. -/
abbrev CHIP_SPOIL_LO : Nat := 0x60
/-- R483 of 18_faults_and_saddlebag.md. -/
abbrev CHIP_SPOIL_HI : Nat := 0x64
/-- R483 of 18_faults_and_saddlebag.md. -/
abbrev CHIP_SPOIL_CTL : Nat := 0x68
/-- R483 of 18_faults_and_saddlebag.md. -/
abbrev SB_STAT : Nat := 0x200
/-- R483 of 18_faults_and_saddlebag.md. -/
abbrev SB_SEQ : Nat := 0x204
/-- R483 of 18_faults_and_saddlebag.md. -/
abbrev SB_DROP : Nat := 0x208
/-- R483 of 18_faults_and_saddlebag.md. -/
abbrev SB_FREEZE : Nat := 0x20C
/-- R483 of 18_faults_and_saddlebag.md. -/
abbrev SB_ALERT_STAT : Nat := 0x210
/-- R483 of 18_faults_and_saddlebag.md. -/
abbrev SB_ALERT_EN : Nat := 0x214
/-- R483 of 18_faults_and_saddlebag.md. -/
abbrev SB_WR (p x : Nat) : Nat := 0x240 + 0x10 * p + 0x4 * x
/-- R484 of 18_faults_and_saddlebag.md. -/
abbrev GRM_WDT_CTL (p : Nat) : Nat := 0x180100 + 0x10 * p
/-- R484 of 18_faults_and_saddlebag.md. -/
abbrev GRM_WDT_KICK (p : Nat) : Nat := 0x180104 + 0x10 * p
/-- R484 of 18_faults_and_saddlebag.md. -/
abbrev GRM_WDT_STAT (p : Nat) : Nat := 0x180108 + 0x10 * p
/-- R484 of 18_faults_and_saddlebag.md. -/
abbrev GRM_WDT_PC (p : Nat) : Nat := 0x18010C + 0x10 * p
/-- R497 of 19_groom_trace.md. -/
abbrev GRM_TRC_CTL : Nat := 0x180200
/-- R497 of 19_groom_trace.md. -/
abbrev GRM_TRC_STAT : Nat := 0x180204
/-- R497 of 19_groom_trace.md. -/
abbrev GRM_TRC_WPTR : Nat := 0x180208
/-- R497 of 19_groom_trace.md. -/
abbrev GRM_TRC_RGN : Nat := 0x18020C
/-- R497 of 19_groom_trace.md. -/
abbrev GRM_TRC_DROP (p : Nat) : Nat := 0x180220 + 0x4 * p
/-- R511 of 20_security.md. -/
abbrev SEC_STAT : Nat := 0x1C0000
/-- R511 of 20_security.md. -/
abbrev SEC_TAMPER : Nat := 0x1C0004
/-- R511 of 20_security.md. -/
abbrev SEC_WIPES : Nat := 0x1C0008
/-- R522 of 21_address_map.md. -/
abbrev CHIP_ID_LO : Nat := 0x0
/-- R522 of 21_address_map.md. -/
abbrev CHIP_ID_HI : Nat := 0x4
/-- R522 of 21_address_map.md. -/
abbrev CHIP_ID_INFO : Nat := 0x8
/-- R522 of 21_address_map.md. -/
abbrev CHIP_ROWMAP_LO : Nat := 0x10
/-- R522 of 21_address_map.md. -/
abbrev CHIP_ROWMAP_HI : Nat := 0x14
/-- R523 of 21_address_map.md. -/
abbrev GRM_GDWIN (p : Nat) : Nat := 0x180000 + 0x4 * p

end Adr

namespace Reg

abbrev TEAM_BP_CTL_BKP_EN (p : Nat) : Fld := ⟨(Adr.TEAM_BP_CTL p), 0, 0⟩
abbrev TEAM_BP_ERR_COMB_FWD (p : Nat) : Fld := ⟨(Adr.TEAM_BP_ERR p), 3, 3⟩
abbrev TEAM_BP_ERR_SEND_DUP (p : Nat) : Fld := ⟨(Adr.TEAM_BP_ERR p), 2, 2⟩
abbrev TEAM_BP_ERR_ILL_OPND (p : Nat) : Fld := ⟨(Adr.TEAM_BP_ERR p), 1, 1⟩
abbrev TEAM_BP_ERR_ILL_SIDX (p : Nat) : Fld := ⟨(Adr.TEAM_BP_ERR p), 0, 0⟩
abbrev TEAM_BP_ERR_LOC_VALID (p : Nat) : Fld := ⟨(Adr.TEAM_BP_ERR_LOC p), 31, 31⟩
abbrev TEAM_BP_ERR_LOC_KIND (p : Nat) : Fld := ⟨(Adr.TEAM_BP_ERR_LOC p), 19, 18⟩
abbrev TEAM_BP_ERR_LOC_OPND (p : Nat) : Fld := ⟨(Adr.TEAM_BP_ERR_LOC p), 17, 16⟩
abbrev TEAM_BP_ERR_LOC_BP (p : Nat) : Fld := ⟨(Adr.TEAM_BP_ERR_LOC p), 15, 10⟩
abbrev TEAM_BP_ERR_LOC_ADDR (p : Nat) : Fld := ⟨(Adr.TEAM_BP_ERR_LOC p), 9, 0⟩
abbrev TEAM_BP_ERR_STRIDE_STRIDE (p : Nat) : Fld := ⟨(Adr.TEAM_BP_ERR_STRIDE p), 31, 0⟩
abbrev TEAM_BKP_STAT_HIT (p : Nat) : Fld := ⟨(Adr.TEAM_BKP_STAT p), 31, 31⟩
abbrev TEAM_BKP_STAT_MULTI (p : Nat) : Fld := ⟨(Adr.TEAM_BKP_STAT p), 16, 16⟩
abbrev TEAM_BKP_STAT_BP (p : Nat) : Fld := ⟨(Adr.TEAM_BKP_STAT p), 15, 10⟩
abbrev TEAM_BKP_STAT_ADDR (p : Nat) : Fld := ⟨(Adr.TEAM_BKP_STAT p), 9, 0⟩
abbrev TEAM_STEP_HALT_ALL (p : Nat) : Fld := ⟨(Adr.TEAM_STEP p), 14, 14⟩
abbrev TEAM_STEP_STATE (p : Nat) : Fld := ⟨(Adr.TEAM_STEP p), 13, 11⟩
abbrev TEAM_STEP_STEP (p : Nat) : Fld := ⟨(Adr.TEAM_STEP p), 10, 0⟩
abbrev TEAM_WU_ERR_GRSP_OVF (p : Nat) : Fld := ⟨(Adr.TEAM_WU_ERR p), 5, 5⟩
abbrev TEAM_WU_ERR_GRSP_LEFT (p : Nat) : Fld := ⟨(Adr.TEAM_WU_ERR p), 4, 4⟩
abbrev TEAM_WU_ERR_CARRY_LEFT (p : Nat) : Fld := ⟨(Adr.TEAM_WU_ERR p), 3, 3⟩
abbrev TEAM_WU_ERR_CARRY_OVF (p : Nat) : Fld := ⟨(Adr.TEAM_WU_ERR p), 2, 2⟩
abbrev TEAM_WU_ERR_ILL_WSRC (p : Nat) : Fld := ⟨(Adr.TEAM_WU_ERR p), 1, 1⟩
abbrev TEAM_WU_ERR_ILL_WOP (p : Nat) : Fld := ⟨(Adr.TEAM_WU_ERR p), 0, 0⟩
abbrev TEAM_WU_ERR_LOC_VALID (p : Nat) : Fld := ⟨(Adr.TEAM_WU_ERR_LOC p), 31, 31⟩
abbrev TEAM_WU_ERR_LOC_KIND (p : Nat) : Fld := ⟨(Adr.TEAM_WU_ERR_LOC p), 18, 16⟩
abbrev TEAM_WU_ERR_LOC_OPND (p : Nat) : Fld := ⟨(Adr.TEAM_WU_ERR_LOC p), 11, 10⟩
abbrev TEAM_WU_ERR_LOC_ADDR (p : Nat) : Fld := ⟨(Adr.TEAM_WU_ERR_LOC p), 9, 0⟩
abbrev TEAM_WU_ERR_STRIDE_STRIDE (p : Nat) : Fld := ⟨(Adr.TEAM_WU_ERR_STRIDE p), 31, 0⟩
abbrev TEAM_DM_CTL_PATROL_PAUSE (p : Nat) : Fld := ⟨(Adr.TEAM_DM_CTL p), 13, 6⟩
abbrev TEAM_DM_CTL_IS_PATROL_EN (p : Nat) : Fld := ⟨(Adr.TEAM_DM_CTL p), 5, 5⟩
abbrev TEAM_DM_CTL_PATROL_EN (p : Nat) : Fld := ⟨(Adr.TEAM_DM_CTL p), 4, 4⟩
abbrev TEAM_DM_CTL_BANK1_PWR (p : Nat) : Fld := ⟨(Adr.TEAM_DM_CTL p), 3, 2⟩
abbrev TEAM_DM_CTL_BANK0_PWR (p : Nat) : Fld := ⟨(Adr.TEAM_DM_CTL p), 1, 0⟩
abbrev TEAM_DM_STAT_IS_CE (p : Nat) : Fld := ⟨(Adr.TEAM_DM_STAT p), 9, 9⟩
abbrev TEAM_DM_STAT_HOST_WR_DROP (p : Nat) : Fld := ⟨(Adr.TEAM_DM_STAT p), 8, 8⟩
abbrev TEAM_DM_STAT_DMA_FORCED (p : Nat) : Fld := ⟨(Adr.TEAM_DM_STAT p), 7, 7⟩
abbrev TEAM_DM_STAT_BANK_OFF (p : Nat) : Fld := ⟨(Adr.TEAM_DM_STAT p), 6, 6⟩
abbrev TEAM_DM_STAT_PATROL_FAIL (p : Nat) : Fld := ⟨(Adr.TEAM_DM_STAT p), 5, 5⟩
abbrev TEAM_DM_STAT_UE (p : Nat) : Fld := ⟨(Adr.TEAM_DM_STAT p), 4, 4⟩
abbrev TEAM_DM_STAT_CE (p : Nat) : Fld := ⟨(Adr.TEAM_DM_STAT p), 3, 3⟩
abbrev TEAM_DM_STAT_BUSY (p : Nat) : Fld := ⟨(Adr.TEAM_DM_STAT p), 2, 2⟩
abbrev TEAM_DM_STAT_BANK1_READY (p : Nat) : Fld := ⟨(Adr.TEAM_DM_STAT p), 1, 1⟩
abbrev TEAM_DM_STAT_BANK0_READY (p : Nat) : Fld := ⟨(Adr.TEAM_DM_STAT p), 0, 0⟩
abbrev TEAM_DM_ERR_ADDR_VALID (p : Nat) : Fld := ⟨(Adr.TEAM_DM_ERR_ADDR p), 31, 31⟩
abbrev TEAM_DM_ERR_ADDR_KIND (p : Nat) : Fld := ⟨(Adr.TEAM_DM_ERR_ADDR p), 18, 16⟩
abbrev TEAM_DM_ERR_ADDR_PORT (p : Nat) : Fld := ⟨(Adr.TEAM_DM_ERR_ADDR p), 15, 15⟩
abbrev TEAM_DM_ERR_ADDR_ADDR (p : Nat) : Fld := ⟨(Adr.TEAM_DM_ERR_ADDR p), 14, 0⟩
abbrev TEAM_DM_CECNT_IS_CECNT (p : Nat) : Fld := ⟨(Adr.TEAM_DM_CECNT p), 31, 16⟩
abbrev TEAM_DM_CECNT_DM_CECNT (p : Nat) : Fld := ⟨(Adr.TEAM_DM_CECNT p), 15, 0⟩
abbrev TEAM_PROG_PROG (p : Nat) : Fld := ⟨(Adr.TEAM_PROG p), 31, 0⟩
abbrev TEAM_SKEW_CTL_SH_DOWN (p : Nat) : Fld := ⟨(Adr.TEAM_SKEW_CTL p), 12, 8⟩
abbrev TEAM_SKEW_CTL_DOWN (p : Nat) : Fld := ⟨(Adr.TEAM_SKEW_CTL p), 4, 0⟩
abbrev TEAM_STALL_RX_COUNT (p : Nat) : Fld := ⟨(Adr.TEAM_STALL_RX p), 31, 0⟩
abbrev TEAM_STALL_SKEW_COUNT (p : Nat) : Fld := ⟨(Adr.TEAM_STALL_SKEW p), 31, 0⟩
abbrev TEAM_STALL_LOC_COUNT (p : Nat) : Fld := ⟨(Adr.TEAM_STALL_LOC p), 31, 0⟩
abbrev TEAM_BWAIT_COUNT (p : Nat) : Fld := ⟨(Adr.TEAM_BWAIT p), 31, 0⟩
abbrev TEAM_STRIDE_STAT_HUNG (p : Nat) : Fld := ⟨(Adr.TEAM_STRIDE_STAT p), 31, 31⟩
abbrev TEAM_STRIDE_STAT_WAIT_CAUSE (p : Nat) : Fld := ⟨(Adr.TEAM_STRIDE_STAT p), 10, 8⟩
abbrev TEAM_STRIDE_STAT_STRIDE (p : Nat) : Fld := ⟨(Adr.TEAM_STRIDE_STAT p), 7, 0⟩
abbrev TEAM_HANG_CTL_HANG_LIMIT (p : Nat) : Fld := ⟨(Adr.TEAM_HANG_CTL p), 7, 0⟩
abbrev RTR_CTL_SWAP_ARM (p : Nat) : Fld := ⟨(Adr.RTR_CTL p), 3, 3⟩
abbrev RTR_CTL_FREEZE (p : Nat) : Fld := ⟨(Adr.RTR_CTL p), 2, 2⟩
abbrev RTR_CTL_ISOLATE_ATT (p : Nat) : Fld := ⟨(Adr.RTR_CTL p), 1, 1⟩
abbrev RTR_CTL_ISOLATE (p : Nat) : Fld := ⟨(Adr.RTR_CTL p), 0, 0⟩
abbrev RTR_STAT_FRZ_LATE (p : Nat) : Fld := ⟨(Adr.RTR_STAT p), 4, 4⟩
abbrev RTR_STAT_TMO_LATE (p : Nat) : Fld := ⟨(Adr.RTR_STAT p), 3, 3⟩
abbrev RTR_STAT_DEAD (p : Nat) : Fld := ⟨(Adr.RTR_STAT p), 2, 2⟩
abbrev RTR_STAT_SWAPPED (p : Nat) : Fld := ⟨(Adr.RTR_STAT p), 1, 1⟩
abbrev RTR_STAT_FROZEN (p : Nat) : Fld := ⟨(Adr.RTR_STAT p), 0, 0⟩
abbrev RTR_ERR_FRZ_REFUSED (p : Nat) : Fld := ⟨(Adr.RTR_ERR p), 10, 10⟩
abbrev RTR_ERR_DEAD_STATIC (p : Nat) : Fld := ⟨(Adr.RTR_ERR p), 9, 9⟩
abbrev RTR_ERR_LINK_PERSIST (p : Nat) : Fld := ⟨(Adr.RTR_ERR p), 8, 8⟩
abbrev RTR_ERR_FLIT_CE (p : Nat) : Fld := ⟨(Adr.RTR_ERR p), 7, 7⟩
abbrev RTR_ERR_ARM_STALE (p : Nat) : Fld := ⟨(Adr.RTR_ERR p), 6, 6⟩
abbrev RTR_ERR_SCAN_ERR (p : Nat) : Fld := ⟨(Adr.RTR_ERR p), 5, 5⟩
abbrev RTR_ERR_SS_LOCKED (p : Nat) : Fld := ⟨(Adr.RTR_ERR p), 4, 4⟩
abbrev RTR_ERR_SLOT_ILL (p : Nat) : Fld := ⟨(Adr.RTR_ERR p), 3, 3⟩
abbrev RTR_ERR_COLLIDE (p : Nat) : Fld := ⟨(Adr.RTR_ERR p), 2, 2⟩
abbrev RTR_ERR_QOVF (p : Nat) : Fld := ⟨(Adr.RTR_ERR p), 1, 1⟩
abbrev RTR_ERR_LOC_VALID (p : Nat) : Fld := ⟨(Adr.RTR_ERR_LOC p), 31, 31⟩
abbrev RTR_ERR_LOC_KIND (p : Nat) : Fld := ⟨(Adr.RTR_ERR_LOC p), 30, 29⟩
abbrev RTR_ERR_LOC_PORT (p : Nat) : Fld := ⟨(Adr.RTR_ERR_LOC p), 28, 26⟩
abbrev RTR_ERR_LOC_ADDR (p : Nat) : Fld := ⟨(Adr.RTR_ERR_LOC p), 25, 16⟩
abbrev RTR_ERR_LOC_PROG (p : Nat) : Fld := ⟨(Adr.RTR_ERR_LOC p), 15, 0⟩
abbrev RTR_SS_IDX_SET (p : Nat) : Fld := ⟨(Adr.RTR_SS_IDX p), 9, 9⟩
abbrev RTR_SS_IDX_INDEX (p : Nat) : Fld := ⟨(Adr.RTR_SS_IDX p), 8, 0⟩
abbrev RTR_SS_W0_WORD (p : Nat) : Fld := ⟨(Adr.RTR_SS_W0 p), 23, 0⟩
abbrev RTR_SS_W1_WORD (p : Nat) : Fld := ⟨(Adr.RTR_SS_W1 p), 23, 0⟩
abbrev RTR_SWAP_LO_STRIDE (p : Nat) : Fld := ⟨(Adr.RTR_SWAP_LO p), 31, 0⟩
abbrev RTR_SWAP_HI_STRIDE (p : Nat) : Fld := ⟨(Adr.RTR_SWAP_HI p), 31, 0⟩
abbrev RTR_TMO_TGT_TMO (p : Nat) : Fld := ⟨(Adr.RTR_TMO p), 7, 0⟩
abbrev RTR_ABSORB_BAD_PKT (p : Nat) : Fld := ⟨(Adr.RTR_ABSORB p), 31, 24⟩
abbrev RTR_ABSORB_OTHER (p : Nat) : Fld := ⟨(Adr.RTR_ABSORB p), 23, 12⟩
abbrev RTR_ABSORB_REQ (p : Nat) : Fld := ⟨(Adr.RTR_ABSORB p), 11, 0⟩
abbrev RTR_REPLAY_COUNT (p : Nat) : Fld := ⟨(Adr.RTR_REPLAY p), 31, 0⟩
abbrev TEAM_CHK_CTL_QB_EN (p : Nat) : Fld := ⟨(Adr.TEAM_CHK_CTL p), 1, 1⟩
abbrev TEAM_CHK_CTL_COMB_EN (p : Nat) : Fld := ⟨(Adr.TEAM_CHK_CTL p), 0, 0⟩
abbrev TEAM_CHK_STAT_HALT (p : Nat) : Fld := ⟨(Adr.TEAM_CHK_STAT p), 31, 31⟩
abbrev TEAM_CHK_STAT_QBOUND (p : Nat) : Fld := ⟨(Adr.TEAM_CHK_STAT p), 3, 3⟩
abbrev TEAM_CHK_STAT_QB_PORT (p : Nat) : Fld := ⟨(Adr.TEAM_CHK_STAT p), 2, 0⟩
abbrev TEAM_CHK_QMAX_WEST (p : Nat) : Fld := ⟨(Adr.TEAM_CHK_QMAX p), 19, 15⟩
abbrev TEAM_CHK_QMAX_EAST (p : Nat) : Fld := ⟨(Adr.TEAM_CHK_QMAX p), 14, 10⟩
abbrev TEAM_CHK_QMAX_SOUTH (p : Nat) : Fld := ⟨(Adr.TEAM_CHK_QMAX p), 9, 5⟩
abbrev TEAM_CHK_QMAX_NORTH (p : Nat) : Fld := ⟨(Adr.TEAM_CHK_QMAX p), 4, 0⟩
abbrev TEAM_CHK_QMAX_LD_BOUND (p : Nat) : Fld := ⟨(Adr.TEAM_CHK_QMAX_LD p), 8, 0⟩
abbrev TEAM_PWR_PWR_REFUSED (p : Nat) : Fld := ⟨(Adr.TEAM_PWR p), 3, 3⟩
abbrev TEAM_PWR_STATE (p : Nat) : Fld := ⟨(Adr.TEAM_PWR p), 2, 1⟩
abbrev TEAM_PWR_EN (p : Nat) : Fld := ⟨(Adr.TEAM_PWR p), 0, 0⟩
abbrev CHIP_STRIDE_LO_STRIDE_LO : Fld := ⟨Adr.CHIP_STRIDE_LO, 31, 0⟩
abbrev CHIP_STRIDE_HI_STRIDE_HI : Fld := ⟨Adr.CHIP_STRIDE_HI, 31, 0⟩
abbrev RTR_REG_EXCESS (p : Nat) : Fld := ⟨(Adr.RTR_REG p), 16, 16⟩
abbrev RTR_REG_BURST (p : Nat) : Fld := ⟨(Adr.RTR_REG p), 15, 8⟩
abbrev RTR_REG_RATE (p : Nat) : Fld := ⟨(Adr.RTR_REG p), 7, 0⟩
abbrev RTR_SITE_VALID (p : Nat) : Fld := ⟨(Adr.RTR_SITE p), 31, 31⟩
abbrev RTR_SITE_Y (p : Nat) : Fld := ⟨(Adr.RTR_SITE p), 9, 5⟩
abbrev RTR_SITE_X (p : Nat) : Fld := ⟨(Adr.RTR_SITE p), 4, 0⟩
abbrev RTR_PRB_SEL_DIR (p : Nat) : Fld := ⟨(Adr.RTR_PRB_SEL p), 14, 14⟩
abbrev RTR_PRB_SEL_PORT (p : Nat) : Fld := ⟨(Adr.RTR_PRB_SEL p), 13, 11⟩
abbrev RTR_PRB_SEL_TEAM (p : Nat) : Fld := ⟨(Adr.RTR_PRB_SEL p), 9, 0⟩
abbrev RTR_PRB_CTL_DROP (p : Nat) : Fld := ⟨(Adr.RTR_PRB_CTL p), 31, 16⟩
abbrev RTR_PRB_CTL_STATIC (p : Nat) : Fld := ⟨(Adr.RTR_PRB_CTL p), 3, 3⟩
abbrev RTR_PRB_CTL_MODE (p : Nat) : Fld := ⟨(Adr.RTR_PRB_CTL p), 2, 1⟩
abbrev RTR_PRB_CTL_EN (p : Nat) : Fld := ⟨(Adr.RTR_PRB_CTL p), 0, 0⟩
abbrev RTR_PRB_MATCH_VALUE (p : Nat) : Fld := ⟨(Adr.RTR_PRB_MATCH p), 23, 0⟩
abbrev RTR_PRB_MASK_VALUE (p : Nat) : Fld := ⟨(Adr.RTR_PRB_MASK p), 23, 0⟩
abbrev RTR_PRB_CNT_COUNT (p : Nat) : Fld := ⟨(Adr.RTR_PRB_CNT p), 31, 0⟩
abbrev DS_CTL_LOCK : Fld := ⟨Adr.DS_CTL, 2, 2⟩
abbrev DS_CTL_HORIZON_EN : Fld := ⟨Adr.DS_CTL, 1, 1⟩
abbrev DS_CTL_EN : Fld := ⟨Adr.DS_CTL, 0, 0⟩
abbrev DS_STAT_LATE : Fld := ⟨Adr.DS_STAT, 7, 7⟩
abbrev DS_STAT_SPIN : Fld := ⟨Adr.DS_STAT, 6, 6⟩
abbrev DS_STAT_SEL_MISS : Fld := ⟨Adr.DS_STAT, 5, 5⟩
abbrev DS_STAT_STATE : Fld := ⟨Adr.DS_STAT, 3, 0⟩
abbrev DS_TICK_TICK_FS : Fld := ⟨Adr.DS_TICK, 19, 0⟩
abbrev DS_NOW_LO_NOW_LO : Fld := ⟨Adr.DS_NOW_LO, 31, 0⟩
abbrev DS_NOW_HI_EPOCH : Fld := ⟨Adr.DS_NOW_HI, 31, 16⟩
abbrev DS_NOW_HI_NOW_HI : Fld := ⟨Adr.DS_NOW_HI, 15, 0⟩
abbrev DS_HORIZON_LO_HORIZON : Fld := ⟨Adr.DS_HORIZON_LO, 31, 0⟩
abbrev DS_HORIZON_HI_HORIZON : Fld := ⟨Adr.DS_HORIZON_HI, 31, 0⟩
abbrev DS_SKIP_COUNT : Fld := ⟨Adr.DS_SKIP, 31, 0⟩
abbrev DS_ORPHAN_COUNT : Fld := ⟨Adr.DS_ORPHAN, 31, 0⟩
abbrev DS_WAIT_COUNT : Fld := ⟨Adr.DS_WAIT, 31, 0⟩
abbrev DS_REFUSED_COUNT : Fld := ⟨Adr.DS_REFUSED, 31, 0⟩
abbrev DS_SPT_LCODE (p : Nat) : Fld := ⟨(Adr.DS_SPT p), 15, 10⟩
abbrev DS_SPT_START (p : Nat) : Fld := ⟨(Adr.DS_SPT p), 9, 0⟩
abbrev DS_DOM_PERIOD_LO_VALUE (p : Nat) : Fld := ⟨(Adr.DS_DOM_PERIOD_LO p), 31, 0⟩
abbrev DS_DOM_PERIOD_HI_VALUE (p : Nat) : Fld := ⟨(Adr.DS_DOM_PERIOD_HI p), 15, 0⟩
abbrev DS_DOM_PHASE_LO_VALUE (p : Nat) : Fld := ⟨(Adr.DS_DOM_PHASE_LO p), 31, 0⟩
abbrev DS_DOM_PHASE_HI_VALUE (p : Nat) : Fld := ⟨(Adr.DS_DOM_PHASE_HI p), 15, 0⟩
abbrev DS_DOM_DUTY_LO_VALUE (p : Nat) : Fld := ⟨(Adr.DS_DOM_DUTY_LO p), 31, 0⟩
abbrev DS_DOM_DUTY_HI_VALUE (p : Nat) : Fld := ⟨(Adr.DS_DOM_DUTY_HI p), 15, 0⟩
abbrev DS_DOM_CFG_TEAM (p : Nat) : Fld := ⟨(Adr.DS_DOM_CFG p), 24, 15⟩
abbrev DS_DOM_CFG_TAPBIT (p : Nat) : Fld := ⟨(Adr.DS_DOM_CFG p), 14, 8⟩
abbrev DS_DOM_CFG_EN_INIT (p : Nat) : Fld := ⟨(Adr.DS_DOM_CFG p), 7, 7⟩
abbrev DS_DOM_CFG_AUTOCLR (p : Nat) : Fld := ⟨(Adr.DS_DOM_CFG p), 6, 6⟩
abbrev DS_DOM_CFG_MASK (p : Nat) : Fld := ⟨(Adr.DS_DOM_CFG p), 5, 2⟩
abbrev DS_DOM_CFG_EDGES (p : Nat) : Fld := ⟨(Adr.DS_DOM_CFG p), 1, 0⟩
abbrev DS_DOM_FLAGS_HOLD_CLEAR (p : Nat) : Fld := ⟨(Adr.DS_DOM_FLAGS p), 3, 3⟩
abbrev DS_DOM_FLAGS_HOST_GO (p : Nat) : Fld := ⟨(Adr.DS_DOM_FLAGS p), 2, 2⟩
abbrev DS_DOM_FLAGS_ENABLE (p : Nat) : Fld := ⟨(Adr.DS_DOM_FLAGS p), 1, 1⟩
abbrev DS_DOM_FLAGS_EDGE (p : Nat) : Fld := ⟨(Adr.DS_DOM_FLAGS p), 0, 0⟩
abbrev DS_SEL_SMASK_VALUE (p x : Nat) : Fld := ⟨(Adr.DS_SEL_SMASK p x), 31, 0⟩
abbrev DS_SEL_SVAL_VALUE (p x : Nat) : Fld := ⟨(Adr.DS_SEL_SVAL p x), 31, 0⟩
abbrev DS_SEL_CTL_VALID (p : Nat) : Fld := ⟨(Adr.DS_SEL_CTL p), 31, 31⟩
abbrev DS_SEL_CTL_PROG (p : Nat) : Fld := ⟨(Adr.DS_SEL_CTL p), 5, 0⟩
abbrev DS_TT_CFG_HITCH (p : Nat) : Fld := ⟨(Adr.DS_TT_CFG p), 15, 8⟩
abbrev DS_TT_CFG_OPND_MASK (p : Nat) : Fld := ⟨(Adr.DS_TT_CFG p), 7, 0⟩
abbrev DS_TT_LAND_TEAM (p x : Nat) : Fld := ⟨(Adr.DS_TT_LAND p x), 24, 15⟩
abbrev DS_TT_LAND_LAND (p x : Nat) : Fld := ⟨(Adr.DS_TT_LAND p x), 14, 0⟩
abbrev DS_MS_W0_TAG_LO (p : Nat) : Fld := ⟨(Adr.DS_MS_W0 p), 31, 0⟩
abbrev DS_MS_W1_TAG_HI (p : Nat) : Fld := ⟨(Adr.DS_MS_W1 p), 31, 0⟩
abbrev DS_MS_W2_VALID (p : Nat) : Fld := ⟨(Adr.DS_MS_W2 p), 31, 31⟩
abbrev DS_MS_W2_SRC (p : Nat) : Fld := ⟨(Adr.DS_MS_W2 p), 30, 30⟩
abbrev DS_MS_W2_OPND (p : Nat) : Fld := ⟨(Adr.DS_MS_W2 p), 26, 24⟩
abbrev DS_MS_W2_DATA (p : Nat) : Fld := ⟨(Adr.DS_MS_W2 p), 23, 0⟩
abbrev DS_MS_W3_TASK (p : Nat) : Fld := ⟨(Adr.DS_MS_W3 p), 4, 0⟩
abbrev DS_DL_W0_TIME_LO (p : Nat) : Fld := ⟨(Adr.DS_DL_W0 p), 31, 0⟩
abbrev DS_DL_W1_VALID (p : Nat) : Fld := ⟨(Adr.DS_DL_W1 p), 31, 31⟩
abbrev DS_DL_W1_KIND (p : Nat) : Fld := ⟨(Adr.DS_DL_W1 p), 22, 22⟩
abbrev DS_DL_W1_DOM (p : Nat) : Fld := ⟨(Adr.DS_DL_W1 p), 21, 16⟩
abbrev DS_DL_W1_TIME_HI (p : Nat) : Fld := ⟨(Adr.DS_DL_W1 p), 15, 0⟩
abbrev LD_LANE_CTL_TEST (p x : Nat) : Fld := ⟨(Adr.LD_LANE_CTL p x), 18, 18⟩
abbrev LD_LANE_CTL_LOOP (p x : Nat) : Fld := ⟨(Adr.LD_LANE_CTL p x), 17, 16⟩
abbrev LD_LANE_CTL_SWEEP_LIM (p x : Nat) : Fld := ⟨(Adr.LD_LANE_CTL p x), 15, 12⟩
abbrev LD_LANE_CTL_EQ_SET (p x : Nat) : Fld := ⟨(Adr.LD_LANE_CTL p x), 11, 8⟩
abbrev LD_LANE_CTL_EQ_FIX (p x : Nat) : Fld := ⟨(Adr.LD_LANE_CTL p x), 7, 7⟩
abbrev LD_LANE_CTL_TX_SWING (p x : Nat) : Fld := ⟨(Adr.LD_LANE_CTL p x), 4, 3⟩
abbrev LD_LANE_CTL_RATE (p x : Nat) : Fld := ⟨(Adr.LD_LANE_CTL p x), 2, 1⟩
abbrev LD_LANE_CTL_EN (p x : Nat) : Fld := ⟨(Adr.LD_LANE_CTL p x), 0, 0⟩
abbrev LD_LANE_STAT_LATE_ACQ (p x : Nat) : Fld := ⟨(Adr.LD_LANE_STAT p x), 21, 21⟩
abbrev LD_LANE_STAT_NO_SETTING (p x : Nat) : Fld := ⟨(Adr.LD_LANE_STAT p x), 20, 20⟩
abbrev LD_LANE_STAT_HI_ERR (p x : Nat) : Fld := ⟨(Adr.LD_LANE_STAT p x), 19, 19⟩
abbrev LD_LANE_STAT_LOCK_LOST (p x : Nat) : Fld := ⟨(Adr.LD_LANE_STAT p x), 18, 18⟩
abbrev LD_LANE_STAT_CFG_ERR (p x : Nat) : Fld := ⟨(Adr.LD_LANE_STAT p x), 17, 17⟩
abbrev LD_LANE_STAT_MISWIRE (p x : Nat) : Fld := ⟨(Adr.LD_LANE_STAT p x), 16, 16⟩
abbrev LD_LANE_STAT_PEER_LINK (p x : Nat) : Fld := ⟨(Adr.LD_LANE_STAT p x), 15, 12⟩
abbrev LD_LANE_STAT_PEER_RDY (p x : Nat) : Fld := ⟨(Adr.LD_LANE_STAT p x), 11, 11⟩
abbrev LD_LANE_STAT_RX_INV (p x : Nat) : Fld := ⟨(Adr.LD_LANE_STAT p x), 10, 10⟩
abbrev LD_LANE_STAT_BLOCK_LOCK (p x : Nat) : Fld := ⟨(Adr.LD_LANE_STAT p x), 9, 9⟩
abbrev LD_LANE_STAT_CDR_LOCK (p x : Nat) : Fld := ⟨(Adr.LD_LANE_STAT p x), 8, 8⟩
abbrev LD_LANE_STAT_EQ_CUR (p x : Nat) : Fld := ⟨(Adr.LD_LANE_STAT p x), 7, 4⟩
abbrev LD_LANE_STAT_STATE (p x : Nat) : Fld := ⟨(Adr.LD_LANE_STAT p x), 3, 0⟩
abbrev LD_LANE_SWEEP_SWEEPS (p x : Nat) : Fld := ⟨(Adr.LD_LANE_SWEEP p x), 27, 20⟩
abbrev LD_LANE_SWEEP_CHOSEN (p x : Nat) : Fld := ⟨(Adr.LD_LANE_SWEEP p x), 19, 16⟩
abbrev LD_LANE_SWEEP_PASS_MAP (p x : Nat) : Fld := ⟨(Adr.LD_LANE_SWEEP p x), 15, 0⟩
abbrev LD_LANE_PRBS_CHK_INV (p x : Nat) : Fld := ⟨(Adr.LD_LANE_PRBS p x), 11, 11⟩
abbrev LD_LANE_PRBS_CHK_LOCK (p x : Nat) : Fld := ⟨(Adr.LD_LANE_PRBS p x), 10, 10⟩
abbrev LD_LANE_PRBS_INJ_RATE (p x : Nat) : Fld := ⟨(Adr.LD_LANE_PRBS p x), 9, 5⟩
abbrev LD_LANE_PRBS_INJ_ONE (p x : Nat) : Fld := ⟨(Adr.LD_LANE_PRBS p x), 4, 4⟩
abbrev LD_LANE_PRBS_POLY (p x : Nat) : Fld := ⟨(Adr.LD_LANE_PRBS p x), 3, 2⟩
abbrev LD_LANE_PRBS_CHK_EN (p x : Nat) : Fld := ⟨(Adr.LD_LANE_PRBS p x), 1, 1⟩
abbrev LD_LANE_PRBS_GEN_EN (p x : Nat) : Fld := ⟨(Adr.LD_LANE_PRBS p x), 0, 0⟩
abbrev LD_LANE_ERR_COUNT (p x : Nat) : Fld := ⟨(Adr.LD_LANE_ERR p x), 31, 0⟩
abbrev LD_LANE_SYNC_ERR_COUNT (p x : Nat) : Fld := ⟨(Adr.LD_LANE_SYNC_ERR p x), 31, 0⟩
abbrev LD_LANE_EVT_RETRAINS (p x : Nat) : Fld := ⟨(Adr.LD_LANE_EVT p x), 31, 16⟩
abbrev LD_LANE_EVT_LOCK_LOSSES (p x : Nat) : Fld := ⟨(Adr.LD_LANE_EVT p x), 15, 0⟩
abbrev EL_LANE_CTL_TEST (p x : Nat) : Fld := ⟨(Adr.EL_LANE_CTL p x), 18, 18⟩
abbrev EL_LANE_CTL_LOOP (p x : Nat) : Fld := ⟨(Adr.EL_LANE_CTL p x), 17, 16⟩
abbrev EL_LANE_CTL_SWEEP_LIM (p x : Nat) : Fld := ⟨(Adr.EL_LANE_CTL p x), 15, 12⟩
abbrev EL_LANE_CTL_EQ_SET (p x : Nat) : Fld := ⟨(Adr.EL_LANE_CTL p x), 11, 8⟩
abbrev EL_LANE_CTL_EQ_FIX (p x : Nat) : Fld := ⟨(Adr.EL_LANE_CTL p x), 7, 7⟩
abbrev EL_LANE_CTL_TX_SWING (p x : Nat) : Fld := ⟨(Adr.EL_LANE_CTL p x), 4, 3⟩
abbrev EL_LANE_CTL_RATE (p x : Nat) : Fld := ⟨(Adr.EL_LANE_CTL p x), 2, 1⟩
abbrev EL_LANE_CTL_EN (p x : Nat) : Fld := ⟨(Adr.EL_LANE_CTL p x), 0, 0⟩
abbrev EL_LANE_STAT_LATE_ACQ (p x : Nat) : Fld := ⟨(Adr.EL_LANE_STAT p x), 21, 21⟩
abbrev EL_LANE_STAT_NO_SETTING (p x : Nat) : Fld := ⟨(Adr.EL_LANE_STAT p x), 20, 20⟩
abbrev EL_LANE_STAT_HI_ERR (p x : Nat) : Fld := ⟨(Adr.EL_LANE_STAT p x), 19, 19⟩
abbrev EL_LANE_STAT_LOCK_LOST (p x : Nat) : Fld := ⟨(Adr.EL_LANE_STAT p x), 18, 18⟩
abbrev EL_LANE_STAT_CFG_ERR (p x : Nat) : Fld := ⟨(Adr.EL_LANE_STAT p x), 17, 17⟩
abbrev EL_LANE_STAT_MISWIRE (p x : Nat) : Fld := ⟨(Adr.EL_LANE_STAT p x), 16, 16⟩
abbrev EL_LANE_STAT_PEER_LINK (p x : Nat) : Fld := ⟨(Adr.EL_LANE_STAT p x), 15, 12⟩
abbrev EL_LANE_STAT_PEER_RDY (p x : Nat) : Fld := ⟨(Adr.EL_LANE_STAT p x), 11, 11⟩
abbrev EL_LANE_STAT_RX_INV (p x : Nat) : Fld := ⟨(Adr.EL_LANE_STAT p x), 10, 10⟩
abbrev EL_LANE_STAT_BLOCK_LOCK (p x : Nat) : Fld := ⟨(Adr.EL_LANE_STAT p x), 9, 9⟩
abbrev EL_LANE_STAT_CDR_LOCK (p x : Nat) : Fld := ⟨(Adr.EL_LANE_STAT p x), 8, 8⟩
abbrev EL_LANE_STAT_EQ_CUR (p x : Nat) : Fld := ⟨(Adr.EL_LANE_STAT p x), 7, 4⟩
abbrev EL_LANE_STAT_STATE (p x : Nat) : Fld := ⟨(Adr.EL_LANE_STAT p x), 3, 0⟩
abbrev EL_LANE_SWEEP_SWEEPS (p x : Nat) : Fld := ⟨(Adr.EL_LANE_SWEEP p x), 27, 20⟩
abbrev EL_LANE_SWEEP_CHOSEN (p x : Nat) : Fld := ⟨(Adr.EL_LANE_SWEEP p x), 19, 16⟩
abbrev EL_LANE_SWEEP_PASS_MAP (p x : Nat) : Fld := ⟨(Adr.EL_LANE_SWEEP p x), 15, 0⟩
abbrev EL_LANE_PRBS_CHK_INV (p x : Nat) : Fld := ⟨(Adr.EL_LANE_PRBS p x), 11, 11⟩
abbrev EL_LANE_PRBS_CHK_LOCK (p x : Nat) : Fld := ⟨(Adr.EL_LANE_PRBS p x), 10, 10⟩
abbrev EL_LANE_PRBS_INJ_RATE (p x : Nat) : Fld := ⟨(Adr.EL_LANE_PRBS p x), 9, 5⟩
abbrev EL_LANE_PRBS_INJ_ONE (p x : Nat) : Fld := ⟨(Adr.EL_LANE_PRBS p x), 4, 4⟩
abbrev EL_LANE_PRBS_POLY (p x : Nat) : Fld := ⟨(Adr.EL_LANE_PRBS p x), 3, 2⟩
abbrev EL_LANE_PRBS_CHK_EN (p x : Nat) : Fld := ⟨(Adr.EL_LANE_PRBS p x), 1, 1⟩
abbrev EL_LANE_PRBS_GEN_EN (p x : Nat) : Fld := ⟨(Adr.EL_LANE_PRBS p x), 0, 0⟩
abbrev EL_LANE_ERR_COUNT (p x : Nat) : Fld := ⟨(Adr.EL_LANE_ERR p x), 31, 0⟩
abbrev EL_LANE_SYNC_ERR_COUNT (p x : Nat) : Fld := ⟨(Adr.EL_LANE_SYNC_ERR p x), 31, 0⟩
abbrev EL_LANE_EVT_RETRAINS (p x : Nat) : Fld := ⟨(Adr.EL_LANE_EVT p x), 31, 16⟩
abbrev EL_LANE_EVT_LOCK_LOSSES (p x : Nat) : Fld := ⟨(Adr.EL_LANE_EVT p x), 15, 0⟩
abbrev LD_LINK_CTL_QRX_EN (p : Nat) : Fld := ⟨(Adr.LD_LINK_CTL p), 17, 17⟩
abbrev LD_LINK_CTL_PEER_CHK (p : Nat) : Fld := ⟨(Adr.LD_LINK_CTL p), 16, 16⟩
abbrev LD_LINK_CTL_PEER_PART_EXP (p : Nat) : Fld := ⟨(Adr.LD_LINK_CTL p), 15, 8⟩
abbrev LD_LINK_CTL_PEER_LINK_EXP (p : Nat) : Fld := ⟨(Adr.LD_LINK_CTL p), 7, 4⟩
abbrev LD_LINK_CTL_EN (p : Nat) : Fld := ⟨(Adr.LD_LINK_CTL p), 0, 0⟩
abbrev LD_LINK_STAT_PEER_PART (p : Nat) : Fld := ⟨(Adr.LD_LINK_STAT p), 31, 24⟩
abbrev LD_LINK_STAT_PEER_LINK (p : Nat) : Fld := ⟨(Adr.LD_LINK_STAT p), 23, 20⟩
abbrev LD_LINK_STAT_ALIGNED (p : Nat) : Fld := ⟨(Adr.LD_LINK_STAT p), 19, 19⟩
abbrev LD_LINK_STAT_SUBST (p : Nat) : Fld := ⟨(Adr.LD_LINK_STAT p), 18, 18⟩
abbrev LD_LINK_STAT_SPARE (p : Nat) : Fld := ⟨(Adr.LD_LINK_STAT p), 17, 14⟩
abbrev LD_LINK_STAT_STATE (p : Nat) : Fld := ⟨(Adr.LD_LINK_STAT p), 2, 0⟩
abbrev LD_LINK_ERR_SLIP (p : Nat) : Fld := ⟨(Adr.LD_LINK_ERR p), 15, 15⟩
abbrev LD_LINK_ERR_ACK_STALL (p : Nat) : Fld := ⟨(Adr.LD_LINK_ERR p), 14, 14⟩
abbrev LD_LINK_ERR_DIVERGE (p : Nat) : Fld := ⟨(Adr.LD_LINK_ERR p), 13, 13⟩
abbrev LD_LINK_ERR_MISCABLE (p : Nat) : Fld := ⟨(Adr.LD_LINK_ERR p), 12, 12⟩
abbrev LD_LINK_ERR_ALIGN_MISMATCH (p : Nat) : Fld := ⟨(Adr.LD_LINK_ERR p), 11, 11⟩
abbrev LD_LINK_ERR_QOVF (p : Nat) : Fld := ⟨(Adr.LD_LINK_ERR p), 10, 10⟩
abbrev LD_LINK_ERR_SKEW (p : Nat) : Fld := ⟨(Adr.LD_LINK_ERR p), 9, 9⟩
abbrev LD_LINK_ERR_LINK_PERSIST (p : Nat) : Fld := ⟨(Adr.LD_LINK_ERR p), 8, 8⟩
abbrev LD_LINK_ERR_MSG_ILL (p : Nat) : Fld := ⟨(Adr.LD_LINK_ERR p), 7, 7⟩
abbrev LD_LINK_ERR_CREDIT_OVF (p : Nat) : Fld := ⟨(Adr.LD_LINK_ERR p), 6, 6⟩
abbrev LD_LINK_ERR_ACK_ILL (p : Nat) : Fld := ⟨(Adr.LD_LINK_ERR p), 5, 5⟩
abbrev LD_LINK_ERR_ILL_CELL (p : Nat) : Fld := ⟨(Adr.LD_LINK_ERR p), 4, 4⟩
abbrev LD_LINK_ERR_ILL_BLOCK (p : Nat) : Fld := ⟨(Adr.LD_LINK_ERR p), 3, 3⟩
abbrev LD_LINK_ERR_SEQ_ERR (p : Nat) : Fld := ⟨(Adr.LD_LINK_ERR p), 2, 2⟩
abbrev LD_LINK_ERR_HDR_ERR (p : Nat) : Fld := ⟨(Adr.LD_LINK_ERR p), 1, 1⟩
abbrev LD_LINK_ERR_FCRC_ERR (p : Nat) : Fld := ⟨(Adr.LD_LINK_ERR p), 0, 0⟩
abbrev LD_LINK_REPLAY_RESENT (p : Nat) : Fld := ⟨(Adr.LD_LINK_REPLAY p), 31, 16⟩
abbrev LD_LINK_REPLAY_FAILED (p : Nat) : Fld := ⟨(Adr.LD_LINK_REPLAY p), 15, 0⟩
abbrev LD_LINK_DESKEW_SKEW_SPARE (p : Nat) : Fld := ⟨(Adr.LD_LINK_DESKEW p), 20, 16⟩
abbrev LD_LINK_DESKEW_SKEW_MAX (p : Nat) : Fld := ⟨(Adr.LD_LINK_DESKEW p), 12, 8⟩
abbrev LD_LINK_DESKEW_RELEASE (p : Nat) : Fld := ⟨(Adr.LD_LINK_DESKEW p), 4, 0⟩
abbrev LD_LINK_PROG_PEER_PROG (p : Nat) : Fld := ⟨(Adr.LD_LINK_PROG p), 31, 0⟩
abbrev LD_LINK_QOCC_PEAK (p : Nat) : Fld := ⟨(Adr.LD_LINK_QOCC p), 24, 16⟩
abbrev LD_LINK_QOCC_OCC (p : Nat) : Fld := ⟨(Adr.LD_LINK_QOCC p), 8, 0⟩
abbrev LD_LINK_MAP_POS0 (p : Nat) : Fld := ⟨(Adr.LD_LINK_MAP p), 3, 0⟩
abbrev LD_LINK_MAP_POS1 (p : Nat) : Fld := ⟨(Adr.LD_LINK_MAP p), 7, 4⟩
abbrev LD_LINK_MAP_POS2 (p : Nat) : Fld := ⟨(Adr.LD_LINK_MAP p), 11, 8⟩
abbrev LD_LINK_MAP_POS3 (p : Nat) : Fld := ⟨(Adr.LD_LINK_MAP p), 15, 12⟩
abbrev LD_LINK_MAP_POS4 (p : Nat) : Fld := ⟨(Adr.LD_LINK_MAP p), 19, 16⟩
abbrev LD_LINK_MAP_POS5 (p : Nat) : Fld := ⟨(Adr.LD_LINK_MAP p), 23, 20⟩
abbrev LD_LINK_MAP_POS6 (p : Nat) : Fld := ⟨(Adr.LD_LINK_MAP p), 27, 24⟩
abbrev LD_LINK_MAP_POS7 (p : Nat) : Fld := ⟨(Adr.LD_LINK_MAP p), 31, 28⟩
abbrev EL_LINK_CTL_WIDTH (p : Nat) : Fld := ⟨(Adr.EL_LINK_CTL p), 2, 1⟩
abbrev EL_LINK_CTL_EN (p : Nat) : Fld := ⟨(Adr.EL_LINK_CTL p), 0, 0⟩
abbrev EL_LINK_STAT_LANES (p : Nat) : Fld := ⟨(Adr.EL_LINK_STAT p), 8, 5⟩
abbrev EL_LINK_STAT_WIDTH (p : Nat) : Fld := ⟨(Adr.EL_LINK_STAT p), 4, 3⟩
abbrev EL_LINK_STAT_STATE (p : Nat) : Fld := ⟨(Adr.EL_LINK_STAT p), 2, 0⟩
abbrev EL_LINK_ERR_SLIP (p : Nat) : Fld := ⟨(Adr.EL_LINK_ERR p), 15, 15⟩
abbrev EL_LINK_ERR_ACK_STALL (p : Nat) : Fld := ⟨(Adr.EL_LINK_ERR p), 14, 14⟩
abbrev EL_LINK_ERR_DIVERGE (p : Nat) : Fld := ⟨(Adr.EL_LINK_ERR p), 13, 13⟩
abbrev EL_LINK_ERR_MISCABLE (p : Nat) : Fld := ⟨(Adr.EL_LINK_ERR p), 12, 12⟩
abbrev EL_LINK_ERR_ALIGN_MISMATCH (p : Nat) : Fld := ⟨(Adr.EL_LINK_ERR p), 11, 11⟩
abbrev EL_LINK_ERR_QOVF (p : Nat) : Fld := ⟨(Adr.EL_LINK_ERR p), 10, 10⟩
abbrev EL_LINK_ERR_SKEW (p : Nat) : Fld := ⟨(Adr.EL_LINK_ERR p), 9, 9⟩
abbrev EL_LINK_ERR_LINK_PERSIST (p : Nat) : Fld := ⟨(Adr.EL_LINK_ERR p), 8, 8⟩
abbrev EL_LINK_ERR_MSG_ILL (p : Nat) : Fld := ⟨(Adr.EL_LINK_ERR p), 7, 7⟩
abbrev EL_LINK_ERR_CREDIT_OVF (p : Nat) : Fld := ⟨(Adr.EL_LINK_ERR p), 6, 6⟩
abbrev EL_LINK_ERR_ACK_ILL (p : Nat) : Fld := ⟨(Adr.EL_LINK_ERR p), 5, 5⟩
abbrev EL_LINK_ERR_ILL_CELL (p : Nat) : Fld := ⟨(Adr.EL_LINK_ERR p), 4, 4⟩
abbrev EL_LINK_ERR_ILL_BLOCK (p : Nat) : Fld := ⟨(Adr.EL_LINK_ERR p), 3, 3⟩
abbrev EL_LINK_ERR_SEQ_ERR (p : Nat) : Fld := ⟨(Adr.EL_LINK_ERR p), 2, 2⟩
abbrev EL_LINK_ERR_HDR_ERR (p : Nat) : Fld := ⟨(Adr.EL_LINK_ERR p), 1, 1⟩
abbrev EL_LINK_ERR_FCRC_ERR (p : Nat) : Fld := ⟨(Adr.EL_LINK_ERR p), 0, 0⟩
abbrev EL_LINK_REPLAY_RESENT (p : Nat) : Fld := ⟨(Adr.EL_LINK_REPLAY p), 31, 16⟩
abbrev EL_LINK_REPLAY_FAILED (p : Nat) : Fld := ⟨(Adr.EL_LINK_REPLAY p), 15, 0⟩
abbrev EL_LINK_DESKEW_SKEW_SPARE (p : Nat) : Fld := ⟨(Adr.EL_LINK_DESKEW p), 20, 16⟩
abbrev EL_LINK_DESKEW_SKEW_MAX (p : Nat) : Fld := ⟨(Adr.EL_LINK_DESKEW p), 12, 8⟩
abbrev EL_LINK_DESKEW_RELEASE (p : Nat) : Fld := ⟨(Adr.EL_LINK_DESKEW p), 4, 0⟩
abbrev EL_LINK_FILL_DUPLICATED (p : Nat) : Fld := ⟨(Adr.EL_LINK_FILL p), 31, 16⟩
abbrev EL_LINK_FILL_DELETED (p : Nat) : Fld := ⟨(Adr.EL_LINK_FILL p), 15, 0⟩
abbrev LD_HOLD_CTL_REASON : Fld := ⟨Adr.LD_HOLD_CTL, 13, 10⟩
abbrev LD_HOLD_CTL_RELEASE : Fld := ⟨Adr.LD_HOLD_CTL, 9, 9⟩
abbrev LD_HOLD_CTL_HOLD : Fld := ⟨Adr.LD_HOLD_CTL, 8, 8⟩
abbrev LD_HOLD_CTL_HOLD_LEAD : Fld := ⟨Adr.LD_HOLD_CTL, 7, 0⟩
abbrev LD_HOLD_STAT_HELD : Fld := ⟨Adr.LD_HOLD_STAT, 31, 31⟩
abbrev LD_HOLD_STAT_AT_H : Fld := ⟨Adr.LD_HOLD_STAT, 30, 30⟩
abbrev LD_HOLD_STAT_EPOCH : Fld := ⟨Adr.LD_HOLD_STAT, 15, 0⟩
abbrev LD_HOLD_H_LO_H : Fld := ⟨Adr.LD_HOLD_H_LO, 31, 0⟩
abbrev LD_HOLD_H_HI_H : Fld := ⟨Adr.LD_HOLD_H_HI, 31, 0⟩
abbrev LD_HOLD_RAISED_COUNT : Fld := ⟨Adr.LD_HOLD_RAISED, 15, 0⟩
abbrev GD_CH_CTL_PAUSE (p : Nat) : Fld := ⟨(Adr.GD_CH_CTL p), 13, 13⟩
abbrev GD_CH_CTL_SREF (p : Nat) : Fld := ⟨(Adr.GD_CH_CTL p), 12, 12⟩
abbrev GD_CH_CTL_PARITY_EN (p : Nat) : Fld := ⟨(Adr.GD_CH_CTL p), 11, 11⟩
abbrev GD_CH_CTL_DBI_EN (p : Nat) : Fld := ⟨(Adr.GD_CH_CTL p), 10, 10⟩
abbrev GD_CH_CTL_CLAMSHELL (p : Nat) : Fld := ⟨(Adr.GD_CH_CTL p), 9, 9⟩
abbrev GD_CH_CTL_DENSITY (p : Nat) : Fld := ⟨(Adr.GD_CH_CTL p), 8, 7⟩
abbrev GD_CH_CTL_RATE (p : Nat) : Fld := ⟨(Adr.GD_CH_CTL p), 6, 4⟩
abbrev GD_CH_CTL_EN (p : Nat) : Fld := ⟨(Adr.GD_CH_CTL p), 0, 0⟩
abbrev GD_CH_STAT_CFG_ERR (p : Nat) : Fld := ⟨(Adr.GD_CH_STAT p), 11, 11⟩
abbrev GD_CH_STAT_PAUSE_LATE (p : Nat) : Fld := ⟨(Adr.GD_CH_STAT p), 10, 10⟩
abbrev GD_CH_STAT_PAUSE_TMO (p : Nat) : Fld := ⟨(Adr.GD_CH_STAT p), 9, 9⟩
abbrev GD_CH_STAT_DLY_LOCKED (p : Nat) : Fld := ⟨(Adr.GD_CH_STAT p), 8, 8⟩
abbrev GD_CH_STAT_CA_FAIL (p : Nat) : Fld := ⟨(Adr.GD_CH_STAT p), 7, 7⟩
abbrev GD_CH_STAT_CRC_FAIL (p : Nat) : Fld := ⟨(Adr.GD_CH_STAT p), 6, 6⟩
abbrev GD_CH_STAT_STATE (p : Nat) : Fld := ⟨(Adr.GD_CH_STAT p), 2, 0⟩
abbrev GD_CH_ERRCNT_CA_REPLAY (p : Nat) : Fld := ⟨(Adr.GD_CH_ERRCNT p), 31, 16⟩
abbrev GD_CH_ERRCNT_CRC_REPLAY (p : Nat) : Fld := ⟨(Adr.GD_CH_ERRCNT p), 15, 0⟩
abbrev GD_REF_FORCED (p : Nat) : Fld := ⟨(Adr.GD_REF p), 31, 16⟩
abbrev GD_REF_DEBT (p : Nat) : Fld := ⟨(Adr.GD_REF p), 3, 0⟩
abbrev GD_HOT_HOT_BANK (p : Nat) : Fld := ⟨(Adr.GD_HOT p), 19, 16⟩
abbrev GD_HOT_HOT_WIN (p : Nat) : Fld := ⟨(Adr.GD_HOT p), 15, 0⟩
abbrev GD_TRN_CTL_GO (p : Nat) : Fld := ⟨(Adr.GD_TRN_CTL p), 3, 3⟩
abbrev GD_TRN_CTL_OP (p : Nat) : Fld := ⟨(Adr.GD_TRN_CTL p), 2, 0⟩
abbrev GD_TRN_RES_DONE (p : Nat) : Fld := ⟨(Adr.GD_TRN_RES p), 31, 31⟩
abbrev GD_TRN_RES_PASS (p : Nat) : Fld := ⟨(Adr.GD_TRN_RES p), 19, 0⟩
abbrev GD_DLY_DELAY (p x : Nat) : Fld := ⟨(Adr.GD_DLY p x), 7, 0⟩
abbrev GW_CTL_CAP_SHARE (p : Nat) : Fld := ⟨(Adr.GW_CTL p), 15, 8⟩
abbrev GW_CTL_DYN_MIN (p : Nat) : Fld := ⟨(Adr.GW_CTL p), 7, 4⟩
abbrev GW_CTL_LOCK (p : Nat) : Fld := ⟨(Adr.GW_CTL p), 3, 3⟩
abbrev GW_CTL_SEED (p : Nat) : Fld := ⟨(Adr.GW_CTL p), 1, 0⟩
abbrev GW_STAT_SQ_PEAK (p : Nat) : Fld := ⟨(Adr.GW_STAT p), 22, 16⟩
abbrev GW_STAT_SQ_OCC (p : Nat) : Fld := ⟨(Adr.GW_STAT p), 6, 0⟩
abbrev GW_ERR_DATA_ERROR (p : Nat) : Fld := ⟨(Adr.GW_ERR p), 2, 2⟩
abbrev GW_ERR_GW_MISMATCH (p : Nat) : Fld := ⟨(Adr.GW_ERR p), 1, 1⟩
abbrev GW_ERR_OUT_OF_REGION (p : Nat) : Fld := ⟨(Adr.GW_ERR p), 0, 0⟩
abbrev GW_WIN_VALID (p x : Nat) : Fld := ⟨(Adr.GW_WIN p x), 31, 31⟩
abbrev GW_WIN_KIND (p x : Nat) : Fld := ⟨(Adr.GW_WIN p x), 30, 28⟩
abbrev GW_WIN_SCHED (p x : Nat) : Fld := ⟨(Adr.GW_WIN p x), 27, 27⟩
abbrev GW_WIN_SIZE (p x : Nat) : Fld := ⟨(Adr.GW_WIN p x), 11, 6⟩
abbrev GW_WIN_BASE (p x : Nat) : Fld := ⟨(Adr.GW_WIN p x), 5, 0⟩
abbrev CAP_CTL_SPILL_EN : Fld := ⟨Adr.CAP_CTL, 4, 4⟩
abbrev CAP_CTL_DISARM : Fld := ⟨Adr.CAP_CTL, 3, 3⟩
abbrev CAP_CTL_FORCE : Fld := ⟨Adr.CAP_CTL, 2, 2⟩
abbrev CAP_CTL_STOP : Fld := ⟨Adr.CAP_CTL, 1, 1⟩
abbrev CAP_CTL_ARM : Fld := ⟨Adr.CAP_CTL, 0, 0⟩
abbrev CAP_STAT_ARM_REFUSED : Fld := ⟨Adr.CAP_STAT, 7, 7⟩
abbrev CAP_STAT_FORCE_IGN : Fld := ⟨Adr.CAP_STAT, 6, 6⟩
abbrev CAP_STAT_CFG_LOCKED : Fld := ⟨Adr.CAP_STAT, 5, 5⟩
abbrev CAP_STAT_OVF : Fld := ⟨Adr.CAP_STAT, 4, 4⟩
abbrev CAP_STAT_TRIGGERED : Fld := ⟨Adr.CAP_STAT, 3, 3⟩
abbrev CAP_STAT_STATE : Fld := ⟨Adr.CAP_STAT, 2, 0⟩
abbrev CAP_RGN_SIZE : Fld := ⟨Adr.CAP_RGN, 23, 16⟩
abbrev CAP_RGN_BASE : Fld := ⟨Adr.CAP_RGN, 13, 8⟩
abbrev CAP_RGN_LOG2N : Fld := ⟨Adr.CAP_RGN, 7, 6⟩
abbrev CAP_RGN_C0 : Fld := ⟨Adr.CAP_RGN, 3, 0⟩
abbrev CAP_GEOM_RS : Fld := ⟨Adr.CAP_GEOM, 31, 26⟩
abbrev CAP_GEOM_NSLOT : Fld := ⟨Adr.CAP_GEOM, 25, 0⟩
abbrev CAP_POST_POST : Fld := ⟨Adr.CAP_POST, 25, 0⟩
abbrev CAP_START_LO_START : Fld := ⟨Adr.CAP_START_LO, 31, 0⟩
abbrev CAP_START_HI_START : Fld := ⟨Adr.CAP_START_HI, 31, 0⟩
abbrev CAP_TRIG_LO_STRIDE : Fld := ⟨Adr.CAP_TRIG_LO, 31, 0⟩
abbrev CAP_TRIG_HI_STRIDE : Fld := ⟨Adr.CAP_TRIG_HI, 31, 0⟩
abbrev CAP_STOP_STRIDE_LO_STRIDE : Fld := ⟨Adr.CAP_STOP_STRIDE_LO, 31, 0⟩
abbrev CAP_STOP_STRIDE_HI_STRIDE : Fld := ⟨Adr.CAP_STOP_STRIDE_HI, 31, 0⟩
abbrev CAP_TRIG_SLOT_SLOT : Fld := ⟨Adr.CAP_TRIG_SLOT, 25, 0⟩
abbrev CAP_LAST_SLOT_SLOT : Fld := ⟨Adr.CAP_LAST_SLOT, 25, 0⟩
abbrev CAP_RECCNT_COUNT : Fld := ⟨Adr.CAP_RECCNT, 31, 0⟩
abbrev CAP_TRIG_CTL_SEQ_B : Fld := ⟨Adr.CAP_TRIG_CTL, 8, 7⟩
abbrev CAP_TRIG_CTL_SEQ_A : Fld := ⟨Adr.CAP_TRIG_CTL, 6, 5⟩
abbrev CAP_TRIG_CTL_MODE : Fld := ⟨Adr.CAP_TRIG_CTL, 4, 4⟩
abbrev CAP_TRIG_CTL_PEN : Fld := ⟨Adr.CAP_TRIG_CTL, 3, 0⟩
abbrev CAP_SEQ_N_N : Fld := ⟨Adr.CAP_SEQ_N, 15, 0⟩
abbrev CAP_SEL_SEL (p : Nat) : Fld := ⟨(Adr.CAP_SEL p), 31, 0⟩
abbrev CAP_TWSEL_WORD (p : Nat) : Fld := ⟨(Adr.CAP_TWSEL p), 11, 0⟩
abbrev CAP_VAL_VALUE (p x : Nat) : Fld := ⟨(Adr.CAP_VAL p x), 23, 0⟩
abbrev CAP_CARE_VALUE (p x : Nat) : Fld := ⟨(Adr.CAP_CARE p x), 23, 0⟩
abbrev HT_CTL_QSTOP : Fld := ⟨Adr.HT_CTL, 1, 1⟩
abbrev HT_CTL_HITCH_GO : Fld := ⟨Adr.HT_CTL, 0, 0⟩
abbrev HT_STAT_EXTEST_REFUSED : Fld := ⟨Adr.HT_STAT, 20, 20⟩
abbrev HT_STAT_FCLK_ERR : Fld := ⟨Adr.HT_STAT, 19, 19⟩
abbrev HT_STAT_PR_HELD : Fld := ⟨Adr.HT_STAT, 18, 18⟩
abbrev HT_STAT_CONTENTION : Fld := ⟨Adr.HT_STAT, 17, 17⟩
abbrev HT_STAT_BANK_VFAULT : Fld := ⟨Adr.HT_STAT, 15, 8⟩
abbrev HT_STAT_RELEASED : Fld := ⟨Adr.HT_STAT, 7, 0⟩
abbrev HT_FPLL_LOCKED : Fld := ⟨Adr.HT_FPLL, 9, 9⟩
abbrev HT_FPLL_EN : Fld := ⟨Adr.HT_FPLL, 8, 8⟩
abbrev HT_FPLL_M : Fld := ⟨Adr.HT_FPLL, 4, 0⟩
abbrev HT_PR_HOLD : Fld := ⟨Adr.HT_PR, 7, 7⟩
abbrev HT_PR_REGION : Fld := ⟨Adr.HT_PR, 6, 0⟩
abbrev HT_CONT_VALID : Fld := ⟨Adr.HT_CONT, 31, 31⟩
abbrev HT_CONT_REARM : Fld := ⟨Adr.HT_CONT, 30, 30⟩
abbrev HT_CONT_COUNT : Fld := ⟨Adr.HT_CONT, 25, 16⟩
abbrev HT_CONT_LINE : Fld := ⟨Adr.HT_CONT, 9, 0⟩
abbrev HT_HP_STAT_LAST : Fld := ⟨Adr.HT_HP_STAT, 23, 16⟩
abbrev HT_HP_STAT_HP_SKIP : Fld := ⟨Adr.HT_HP_STAT, 15, 0⟩
abbrev HT_TK_STAT_OCC : Fld := ⟨Adr.HT_TK_STAT, 4, 0⟩
abbrev HT_BANK_RELEASE (p : Nat) : Fld := ⟨(Adr.HT_BANK p), 2, 2⟩
abbrev HT_BANK_VOLT (p : Nat) : Fld := ⟨(Adr.HT_BANK p), 1, 0⟩
abbrev HT_FCLK_EN (p : Nat) : Fld := ⟨(Adr.HT_FCLK p), 8, 8⟩
abbrev HT_FCLK_D (p : Nat) : Fld := ⟨(Adr.HT_FCLK p), 7, 0⟩
abbrev HT_TREE_STOPPED (p : Nat) : Fld := ⟨(Adr.HT_TREE p), 20, 20⟩
abbrev HT_TREE_TREE (p : Nat) : Fld := ⟨(Adr.HT_TREE p), 19, 0⟩
abbrev HT_STRM_W0_TX_DROP (p : Nat) : Fld := ⟨(Adr.HT_STRM_W0 p), 31, 16⟩
abbrev HT_STRM_W0_RX_DROP (p : Nat) : Fld := ⟨(Adr.HT_STRM_W0 p), 15, 0⟩
abbrev HT_STRM_W1_RX_OCC (p : Nat) : Fld := ⟨(Adr.HT_STRM_W1 p), 21, 16⟩
abbrev HT_STRM_W1_TX_BAD (p : Nat) : Fld := ⟨(Adr.HT_STRM_W1 p), 15, 0⟩
abbrev TB_CTL_SET : Fld := ⟨Adr.TB_CTL, 1, 1⟩
abbrev TB_CTL_EN : Fld := ⟨Adr.TB_CTL, 0, 0⟩
abbrev TB_STAT_TXQ_CNT : Fld := ⟨Adr.TB_STAT, 10, 6⟩
abbrev TB_STAT_TXQ_OVF : Fld := ⟨Adr.TB_STAT, 5, 5⟩
abbrev TB_STAT_SET_ERR : Fld := ⟨Adr.TB_STAT, 4, 4⟩
abbrev TB_STAT_ADJ_ERR : Fld := ⟨Adr.TB_STAT, 3, 3⟩
abbrev TB_STAT_ADJ_LOST : Fld := ⟨Adr.TB_STAT, 2, 2⟩
abbrev TB_STAT_ADJ_PEND : Fld := ⟨Adr.TB_STAT, 1, 1⟩
abbrev TB_STAT_SET_PEND : Fld := ⟨Adr.TB_STAT, 0, 0⟩
abbrev TB_INC_INC : Fld := ⟨Adr.TB_INC, 31, 0⟩
abbrev TB_ADJ_ADJ : Fld := ⟨Adr.TB_ADJ, 31, 0⟩
abbrev TB_SET_SEC_LO_SEC : Fld := ⟨Adr.TB_SET_SEC_LO, 31, 0⟩
abbrev TB_SET_SEC_HI_SEC : Fld := ⟨Adr.TB_SET_SEC_HI, 15, 0⟩
abbrev TB_SET_NS_NS : Fld := ⟨Adr.TB_SET_NS, 31, 0⟩
abbrev TB_SET_FRAC_FRAC : Fld := ⟨Adr.TB_SET_FRAC, 23, 0⟩
abbrev TB_NOW_NS_NS : Fld := ⟨Adr.TB_NOW_NS, 31, 0⟩
abbrev TB_NOW_SEC_LO_SEC : Fld := ⟨Adr.TB_NOW_SEC_LO, 31, 0⟩
abbrev TB_NOW_SEC_HI_SEC : Fld := ⟨Adr.TB_NOW_SEC_HI, 15, 0⟩
abbrev TB_NOW_FRAC_FRAC : Fld := ⟨Adr.TB_NOW_FRAC, 23, 0⟩
abbrev TB_NOW_NR_NR : Fld := ⟨Adr.TB_NOW_NR, 31, 0⟩
abbrev TB_TXQ_W0_VALID : Fld := ⟨Adr.TB_TXQ_W0, 31, 31⟩
abbrev TB_TXQ_W0_SRC : Fld := ⟨Adr.TB_TXQ_W0, 28, 24⟩
abbrev TB_TXQ_W0_ID : Fld := ⟨Adr.TB_TXQ_W0, 23, 16⟩
abbrev TB_TXQ_W0_SEC_HI : Fld := ⟨Adr.TB_TXQ_W0, 15, 0⟩
abbrev TB_TXQ_W1_SEC_LO : Fld := ⟨Adr.TB_TXQ_W1, 31, 0⟩
abbrev TB_TXQ_W2_NS : Fld := ⟨Adr.TB_TXQ_W2, 31, 0⟩
abbrev TB_TXQ_W3_FRAC : Fld := ⟨Adr.TB_TXQ_W3, 23, 0⟩
abbrev TB_TXQ_LOST_COUNT : Fld := ⟨Adr.TB_TXQ_LOST, 31, 0⟩
abbrev TB_SB_CTL_FROZEN : Fld := ⟨Adr.TB_SB_CTL, 1, 1⟩
abbrev TB_SB_CTL_SMK_ARM : Fld := ⟨Adr.TB_SB_CTL, 0, 0⟩
abbrev TB_SB_N_SMK_N : Fld := ⟨Adr.TB_SB_N, 31, 0⟩
abbrev TB_SB_STRIDE_STRIDE : Fld := ⟨Adr.TB_SB_STRIDE, 31, 0⟩
abbrev TB_SB_NS_NS : Fld := ⟨Adr.TB_SB_NS, 31, 0⟩
abbrev TB_SB_SEC_LO_SEC : Fld := ⟨Adr.TB_SB_SEC_LO, 31, 0⟩
abbrev TB_SB_SEC_HI_SEC : Fld := ⟨Adr.TB_SB_SEC_HI, 15, 0⟩
abbrev TB_SB_FRAC_FRAC : Fld := ⟨Adr.TB_SB_FRAC, 23, 0⟩
abbrev TB_CMP_CTL_JUMPED (p : Nat) : Fld := ⟨(Adr.TB_CMP_CTL p), 3, 3⟩
abbrev TB_CMP_CTL_FIRED (p : Nat) : Fld := ⟨(Adr.TB_CMP_CTL p), 2, 2⟩
abbrev TB_CMP_CTL_PERIODIC (p : Nat) : Fld := ⟨(Adr.TB_CMP_CTL p), 1, 1⟩
abbrev TB_CMP_CTL_ARM (p : Nat) : Fld := ⟨(Adr.TB_CMP_CTL p), 0, 0⟩
abbrev TB_CMP_TGT_TARGET (p : Nat) : Fld := ⟨(Adr.TB_CMP_TGT p), 31, 0⟩
abbrev TB_CMP_PER_PERIOD (p : Nat) : Fld := ⟨(Adr.TB_CMP_PER p), 31, 0⟩
abbrev TP_CTL_EN : Fld := ⟨Adr.TP_CTL, 0, 0⟩
abbrev TP_STAT_LINK_UP : Fld := ⟨Adr.TP_STAT, 2, 2⟩
abbrev TP_STAT_HI_BER : Fld := ⟨Adr.TP_STAT, 1, 1⟩
abbrev TP_STAT_BLOCK_LOCK : Fld := ⟨Adr.TP_STAT, 0, 0⟩
abbrev TP_CNT_TX_BAD : Fld := ⟨Adr.TP_CNT, 31, 24⟩
abbrev TP_CNT_RX_DROP : Fld := ⟨Adr.TP_CNT, 23, 16⟩
abbrev TP_CNT_FCS_ERR : Fld := ⟨Adr.TP_CNT, 15, 0⟩
abbrev TP_TXD_GO (p : Nat) : Fld := ⟨(Adr.TP_TXD p), 31, 31⟩
abbrev TP_TXD_STAMP (p : Nat) : Fld := ⟨(Adr.TP_TXD p), 30, 30⟩
abbrev TP_TXD_ID (p : Nat) : Fld := ⟨(Adr.TP_TXD p), 23, 16⟩
abbrev TP_TXD_LEN (p : Nat) : Fld := ⟨(Adr.TP_TXD p), 11, 0⟩
abbrev TP_RXD_W0_FULL (p : Nat) : Fld := ⟨(Adr.TP_RXD_W0 p), 31, 31⟩
abbrev TP_RXD_W0_LEN (p : Nat) : Fld := ⟨(Adr.TP_RXD_W0 p), 27, 16⟩
abbrev TP_RXD_W0_SEC_HI (p : Nat) : Fld := ⟨(Adr.TP_RXD_W0 p), 15, 0⟩
abbrev TP_RXD_W1_SEC_LO (p : Nat) : Fld := ⟨(Adr.TP_RXD_W1 p), 31, 0⟩
abbrev TP_RXD_W2_NS (p : Nat) : Fld := ⟨(Adr.TP_RXD_W2 p), 31, 0⟩
abbrev TP_RXD_W3_FRAC (p : Nat) : Fld := ⟨(Adr.TP_RXD_W3 p), 23, 0⟩
abbrev MBX_DB_CMD_PI (p : Nat) : Fld := ⟨(Adr.MBX_DB p), 6, 0⟩
abbrev MBX_CMD_CI_INDEX (p : Nat) : Fld := ⟨(Adr.MBX_CMD_CI p), 6, 0⟩
abbrev MBX_RSP_PI_INDEX (p : Nat) : Fld := ⟨(Adr.MBX_RSP_PI p), 6, 0⟩
abbrev MBX_RSP_CI_RSP_CI (p : Nat) : Fld := ⟨(Adr.MBX_RSP_CI p), 6, 0⟩
abbrev MBX_CTL_RESET (p : Nat) : Fld := ⟨(Adr.MBX_CTL p), 0, 0⟩
abbrev MBX_STAT_CI_RANGE (p : Nat) : Fld := ⟨(Adr.MBX_STAT p), 7, 7⟩
abbrev MBX_STAT_RSP_WR (p : Nat) : Fld := ⟨(Adr.MBX_STAT p), 6, 6⟩
abbrev MBX_STAT_SLOT_WR (p : Nat) : Fld := ⟨(Adr.MBX_STAT p), 5, 5⟩
abbrev MBX_STAT_DB_RANGE (p : Nat) : Fld := ⟨(Adr.MBX_STAT p), 4, 4⟩
abbrev MBX_STAT_EVT_LOST (p : Nat) : Fld := ⟨(Adr.MBX_STAT p), 3, 3⟩
abbrev MBX_STAT_RESTARTED (p : Nat) : Fld := ⟨(Adr.MBX_STAT p), 2, 2⟩
abbrev MBX_STAT_RESET_BUSY (p : Nat) : Fld := ⟨(Adr.MBX_STAT p), 1, 1⟩
abbrev MBX_STAT_READY (p : Nat) : Fld := ⟨(Adr.MBX_STAT p), 0, 0⟩
abbrev MBX_EVTLOST_COUNT (p : Nat) : Fld := ⟨(Adr.MBX_EVTLOST p), 31, 0⟩
abbrev PE_INT_STAT_LO_CAUSE : Fld := ⟨Adr.PE_INT_STAT_LO, 31, 0⟩
abbrev PE_INT_STAT_HI_CAUSE : Fld := ⟨Adr.PE_INT_STAT_HI, 31, 0⟩
abbrev PE_INT_EN_LO_EN : Fld := ⟨Adr.PE_INT_EN_LO, 31, 0⟩
abbrev PE_INT_EN_HI_EN : Fld := ⟨Adr.PE_INT_EN_HI, 31, 0⟩
abbrev PE_FENCE_FENCE : Fld := ⟨Adr.PE_FENCE, 31, 0⟩
abbrev PE_ERR_BAR4_ERR : Fld := ⟨Adr.PE_ERR, 3, 3⟩
abbrev PE_ERR_BAR2_REFUSED : Fld := ⟨Adr.PE_ERR, 2, 2⟩
abbrev PE_ERR_UNALIGNED : Fld := ⟨Adr.PE_ERR, 1, 1⟩
abbrev PE_ERR_WR_REFUSED : Fld := ⟨Adr.PE_ERR, 0, 0⟩
abbrev PE_ERR_INFO_VALID : Fld := ⟨Adr.PE_ERR_INFO, 31, 31⟩
abbrev PE_ERR_INFO_KIND : Fld := ⟨Adr.PE_ERR_INFO, 30, 29⟩
abbrev PE_ERR_INFO_STATUS : Fld := ⟨Adr.PE_ERR_INFO, 28, 24⟩
abbrev PE_ERR_INFO_WHERE : Fld := ⟨Adr.PE_ERR_INFO, 23, 0⟩
abbrev PE_LINK_WIDTH : Fld := ⟨Adr.PE_LINK, 7, 4⟩
abbrev PE_LINK_SPEED : Fld := ⟨Adr.PE_LINK, 2, 0⟩
abbrev CHIP_MODE_QCAUSE : Fld := ⟨Adr.CHIP_MODE, 31, 16⟩
abbrev CHIP_MODE_SVC_CHG : Fld := ⟨Adr.CHIP_MODE, 7, 7⟩
abbrev CHIP_MODE_SVC : Fld := ⟨Adr.CHIP_MODE, 6, 6⟩
abbrev CHIP_MODE_AT_REST : Fld := ⟨Adr.CHIP_MODE, 5, 5⟩
abbrev CHIP_MODE_VERIFIED : Fld := ⟨Adr.CHIP_MODE, 4, 4⟩
abbrev CHIP_MODE_BOOT_DONE : Fld := ⟨Adr.CHIP_MODE, 3, 3⟩
abbrev CHIP_MODE_MODE : Fld := ⟨Adr.CHIP_MODE, 2, 0⟩
abbrev CHIP_RST_WARM_COUNT : Fld := ⟨Adr.CHIP_RST, 15, 8⟩
abbrev CHIP_RST_CAUSE : Fld := ⟨Adr.CHIP_RST, 3, 0⟩
abbrev CHIP_BOOT_FAILED : Fld := ⟨Adr.CHIP_BOOT, 31, 31⟩
abbrev CHIP_BOOT_ERR : Fld := ⟨Adr.CHIP_BOOT, 23, 16⟩
abbrev CHIP_BOOT_SLOT : Fld := ⟨Adr.CHIP_BOOT, 8, 8⟩
abbrev CHIP_BOOT_STAGE : Fld := ⟨Adr.CHIP_BOOT, 3, 0⟩
abbrev CHIP_CLK_STAT_SDIV : Fld := ⟨Adr.CHIP_CLK_STAT, 13, 12⟩
abbrev CHIP_CLK_STAT_HOLDOVER : Fld := ⟨Adr.CHIP_CLK_STAT, 11, 11⟩
abbrev CHIP_CLK_STAT_STEP_LOCK : Fld := ⟨Adr.CHIP_CLK_STAT, 10, 10⟩
abbrev CHIP_CLK_STAT_SYS_LOCK : Fld := ⟨Adr.CHIP_CLK_STAT, 9, 9⟩
abbrev CHIP_CLK_STAT_EREF_OK : Fld := ⟨Adr.CHIP_CLK_STAT, 8, 5⟩
abbrev CHIP_CLK_STAT_TP_OK : Fld := ⟨Adr.CHIP_CLK_STAT, 4, 4⟩
abbrev CHIP_CLK_STAT_PE_OK : Fld := ⟨Adr.CHIP_CLK_STAT, 3, 3⟩
abbrev CHIP_CLK_STAT_LREF_OK : Fld := ⟨Adr.CHIP_CLK_STAT, 2, 2⟩
abbrev CHIP_CLK_STAT_SYS_OK : Fld := ⟨Adr.CHIP_CLK_STAT, 1, 1⟩
abbrev CHIP_CLK_ERR_EREF_LOST : Fld := ⟨Adr.CHIP_CLK_ERR, 8, 5⟩
abbrev CHIP_CLK_ERR_TP_LOST : Fld := ⟨Adr.CHIP_CLK_ERR, 4, 4⟩
abbrev CHIP_CLK_ERR_PE_LOST : Fld := ⟨Adr.CHIP_CLK_ERR, 3, 3⟩
abbrev CHIP_CLK_ERR_LREF_LOST : Fld := ⟨Adr.CHIP_CLK_ERR, 2, 2⟩
abbrev CHIP_CLK_ERR_SYS_LOST : Fld := ⟨Adr.CHIP_CLK_ERR, 1, 1⟩
abbrev CHIP_CDC_STAT_PEER_RESETS : Fld := ⟨Adr.CHIP_CDC_STAT, 31, 16⟩
abbrev CHIP_CDC_STAT_LATE : Fld := ⟨Adr.CHIP_CDC_STAT, 3, 3⟩
abbrev CHIP_CDC_STAT_OVERRUN : Fld := ⟨Adr.CHIP_CDC_STAT, 2, 2⟩
abbrev CHIP_CDC_STAT_STOPPED : Fld := ⟨Adr.CHIP_CDC_STAT, 1, 1⟩
abbrev CHIP_CDC_STAT_PEER_RESET : Fld := ⟨Adr.CHIP_CDC_STAT, 0, 0⟩
abbrev CHIP_CDC_LOC_VALID : Fld := ⟨Adr.CHIP_CDC_LOC, 31, 31⟩
abbrev CHIP_CDC_LOC_KIND : Fld := ⟨Adr.CHIP_CDC_LOC, 29, 28⟩
abbrev CHIP_CDC_LOC_CLASS : Fld := ⟨Adr.CHIP_CDC_LOC, 27, 24⟩
abbrev CHIP_CDC_LOC_INDEX : Fld := ⟨Adr.CHIP_CDC_LOC, 15, 0⟩
abbrev CHIP_THERM_SENSOR : Fld := ⟨Adr.CHIP_THERM, 28, 24⟩
abbrev CHIP_THERM_TJ_MAX : Fld := ⟨Adr.CHIP_THERM, 23, 16⟩
abbrev CHIP_THERM_TRIP : Fld := ⟨Adr.CHIP_THERM, 7, 7⟩
abbrev CHIP_THERM_THERM : Fld := ⟨Adr.CHIP_THERM, 6, 6⟩
abbrev CHIP_THERM_DUTY : Fld := ⟨Adr.CHIP_THERM, 1, 0⟩
abbrev CHIP_THERM_CTL_LOCK : Fld := ⟨Adr.CHIP_THERM_CTL, 31, 31⟩
abbrev CHIP_THERM_CTL_THERM_HI : Fld := ⟨Adr.CHIP_THERM_CTL, 30, 24⟩
abbrev CHIP_THERM_CTL_THR25 : Fld := ⟨Adr.CHIP_THERM_CTL, 22, 16⟩
abbrev CHIP_THERM_CTL_THR50 : Fld := ⟨Adr.CHIP_THERM_CTL, 14, 8⟩
abbrev CHIP_THERM_CTL_THR75 : Fld := ⟨Adr.CHIP_THERM_CTL, 6, 0⟩
abbrev CHIP_SPOIL_LO_STRIDE_LO : Fld := ⟨Adr.CHIP_SPOIL_LO, 31, 0⟩
abbrev CHIP_SPOIL_HI_STRIDE_HI : Fld := ⟨Adr.CHIP_SPOIL_HI, 31, 0⟩
abbrev CHIP_SPOIL_CTL_VALID : Fld := ⟨Adr.CHIP_SPOIL_CTL, 0, 0⟩
abbrev SB_STAT_FROZEN : Fld := ⟨Adr.SB_STAT, 31, 31⟩
abbrev SB_STAT_WRAPPED : Fld := ⟨Adr.SB_STAT, 30, 30⟩
abbrev SB_STAT_EMPTY : Fld := ⟨Adr.SB_STAT, 13, 13⟩
abbrev SB_STAT_NEWEST : Fld := ⟨Adr.SB_STAT, 12, 0⟩
abbrev SB_SEQ_NEXT : Fld := ⟨Adr.SB_SEQ, 15, 0⟩
abbrev SB_DROP_SUPPRESSED : Fld := ⟨Adr.SB_DROP, 31, 16⟩
abbrev SB_DROP_DROPPED : Fld := ⟨Adr.SB_DROP, 15, 0⟩
abbrev SB_FREEZE_VALID : Fld := ⟨Adr.SB_FREEZE, 31, 31⟩
abbrev SB_FREEZE_INDEX : Fld := ⟨Adr.SB_FREEZE, 12, 0⟩
abbrev SB_ALERT_STAT_CAUSE : Fld := ⟨Adr.SB_ALERT_STAT, 6, 0⟩
abbrev SB_ALERT_EN_ALERT_SEV : Fld := ⟨Adr.SB_ALERT_EN, 10, 8⟩
abbrev SB_ALERT_EN_EN : Fld := ⟨Adr.SB_ALERT_EN, 6, 0⟩
abbrev SB_WR_WORD (p x : Nat) : Fld := ⟨(Adr.SB_WR p x), 31, 0⟩
abbrev GRM_WDT_CTL_LOCK (p : Nat) : Fld := ⟨(Adr.GRM_WDT_CTL p), 31, 31⟩
abbrev GRM_WDT_CTL_TIMEOUT (p : Nat) : Fld := ⟨(Adr.GRM_WDT_CTL p), 9, 0⟩
abbrev GRM_WDT_KICK_KICK (p : Nat) : Fld := ⟨(Adr.GRM_WDT_KICK p), 0, 0⟩
abbrev GRM_WDT_STAT_RESTARTS (p : Nat) : Fld := ⟨(Adr.GRM_WDT_STAT p), 31, 16⟩
abbrev GRM_WDT_STAT_LATE (p : Nat) : Fld := ⟨(Adr.GRM_WDT_STAT p), 8, 8⟩
abbrev GRM_WDT_STAT_RECENT (p : Nat) : Fld := ⟨(Adr.GRM_WDT_STAT p), 7, 0⟩
abbrev GRM_WDT_PC_PC (p : Nat) : Fld := ⟨(Adr.GRM_WDT_PC p), 31, 0⟩
abbrev GRM_TRC_CTL_WRAP : Fld := ⟨Adr.GRM_TRC_CTL, 17, 17⟩
abbrev GRM_TRC_CTL_CYC_EN : Fld := ⟨Adr.GRM_TRC_CTL, 16, 16⟩
abbrev GRM_TRC_CTL_PRI : Fld := ⟨Adr.GRM_TRC_CTL, 15, 8⟩
abbrev GRM_TRC_CTL_GEN : Fld := ⟨Adr.GRM_TRC_CTL, 7, 4⟩
abbrev GRM_TRC_CTL_SINK : Fld := ⟨Adr.GRM_TRC_CTL, 1, 0⟩
abbrev GRM_TRC_STAT_FULL : Fld := ⟨Adr.GRM_TRC_STAT, 19, 19⟩
abbrev GRM_TRC_STAT_DROPPED : Fld := ⟨Adr.GRM_TRC_STAT, 18, 18⟩
abbrev GRM_TRC_STAT_WRAPPED : Fld := ⟨Adr.GRM_TRC_STAT, 17, 17⟩
abbrev GRM_TRC_STAT_CFG_LOCKED : Fld := ⟨Adr.GRM_TRC_STAT, 16, 16⟩
abbrev GRM_TRC_STAT_FREE : Fld := ⟨Adr.GRM_TRC_STAT, 13, 0⟩
abbrev GRM_TRC_WPTR_OFFSET : Fld := ⟨Adr.GRM_TRC_WPTR, 31, 0⟩
abbrev GRM_TRC_RGN_SIZE : Fld := ⟨Adr.GRM_TRC_RGN, 23, 16⟩
abbrev GRM_TRC_RGN_BASE : Fld := ⟨Adr.GRM_TRC_RGN, 13, 8⟩
abbrev GRM_TRC_RGN_LOG2N : Fld := ⟨Adr.GRM_TRC_RGN, 7, 6⟩
abbrev GRM_TRC_RGN_C0 : Fld := ⟨Adr.GRM_TRC_RGN, 3, 0⟩
abbrev GRM_TRC_DROP_COUNT (p : Nat) : Fld := ⟨(Adr.GRM_TRC_DROP p), 31, 0⟩
abbrev SEC_STAT_SLOTS : Fld := ⟨Adr.SEC_STAT, 17, 2⟩
abbrev SEC_STAT_LC : Fld := ⟨Adr.SEC_STAT, 1, 0⟩
abbrev SEC_TAMPER_MASK : Fld := ⟨Adr.SEC_TAMPER, 3, 0⟩
abbrev SEC_WIPES_COUNT : Fld := ⟨Adr.SEC_WIPES, 31, 0⟩
abbrev CHIP_ID_LO_SERIAL : Fld := ⟨Adr.CHIP_ID_LO, 31, 0⟩
abbrev CHIP_ID_HI_SERIAL : Fld := ⟨Adr.CHIP_ID_HI, 31, 0⟩
abbrev CHIP_ID_INFO_STEPPING : Fld := ⟨Adr.CHIP_ID_INFO, 23, 16⟩
abbrev CHIP_ID_INFO_GRADE : Fld := ⟨Adr.CHIP_ID_INFO, 15, 0⟩
abbrev CHIP_ROWMAP_LO_USABLE : Fld := ⟨Adr.CHIP_ROWMAP_LO, 31, 0⟩
abbrev CHIP_ROWMAP_HI_USABLE : Fld := ⟨Adr.CHIP_ROWMAP_HI, 1, 0⟩
abbrev GRM_GDWIN_BASE (p : Nat) : Fld := ⟨(Adr.GRM_GDWIN p), 5, 0⟩

end Reg

/-- Registers of the CHIP (chapters 4, 16, 17, 18 and 21), part 0. -/
def regs_chip_0 : List RegDesc :=
  [
    ⟨0x100, [], [⟨31, 0, .rw, 0⟩]⟩,
    ⟨0x104, [], [⟨31, 0, .rw, 0⟩]⟩,
    ⟨0x20, [], [⟨31, 16, .ro, 0⟩, ⟨7, 7, .ro, 0⟩, ⟨6, 6, .ro, 0⟩, ⟨5, 5, .ro, 0⟩, ⟨4, 4, .ro, 0⟩, ⟨3, 3, .ro, 0⟩, ⟨2, 0, .ro, 0⟩]⟩,
    ⟨0x24, [], [⟨15, 8, .ro, 0⟩, ⟨3, 0, .ro, 0⟩]⟩,
    ⟨0x28, [], [⟨31, 31, .ro, 0⟩, ⟨23, 16, .ro, 0⟩, ⟨8, 8, .ro, 0⟩, ⟨3, 0, .ro, 0⟩]⟩,
    ⟨0x40, [], [⟨13, 12, .ro, 0⟩, ⟨11, 11, .ro, 0⟩, ⟨10, 10, .ro, 0⟩, ⟨9, 9, .ro, 0⟩, ⟨8, 5, .ro, 0⟩, ⟨4, 4, .ro, 0⟩, ⟨3, 3, .ro, 0⟩, ⟨2, 2, .ro, 0⟩, ⟨1, 1, .ro, 0⟩]⟩,
    ⟨0x44, [], [⟨8, 5, .w1c, 0⟩, ⟨4, 4, .w1c, 0⟩, ⟨3, 3, .w1c, 0⟩, ⟨2, 2, .w1c, 0⟩, ⟨1, 1, .w1c, 0⟩]⟩,
    ⟨0x48, [], [⟨31, 16, .rc, 0⟩, ⟨3, 3, .w1c, 0⟩, ⟨2, 2, .w1c, 0⟩, ⟨1, 1, .w1c, 0⟩, ⟨0, 0, .w1c, 0⟩]⟩,
    ⟨0x4C, [], [⟨31, 31, .w1c, 0⟩, ⟨29, 28, .ro, 0⟩, ⟨27, 24, .ro, 0⟩, ⟨15, 0, .ro, 0⟩]⟩,
    ⟨0x50, [], [⟨28, 24, .ro, 0⟩, ⟨23, 16, .ro, 0⟩, ⟨7, 7, .w1c, 0⟩, ⟨6, 6, .ro, 0⟩, ⟨1, 0, .ro, 0⟩]⟩,
    ⟨0x54, [], [⟨31, 31, .w1s, 0⟩, ⟨30, 24, .rwl, 105⟩, ⟨22, 16, .rwl, 103⟩, ⟨14, 8, .rwl, 100⟩, ⟨6, 0, .rwl, 95⟩]⟩,
    ⟨0x60, [], [⟨31, 0, .rw, 0⟩]⟩,
    ⟨0x64, [], [⟨31, 0, .rw, 0⟩]⟩,
    ⟨0x68, [], [⟨0, 0, .rw, 0⟩]⟩,
    ⟨0x200, [], [⟨31, 31, .ro, 0⟩, ⟨30, 30, .ro, 0⟩, ⟨13, 13, .ro, 1⟩, ⟨12, 0, .ro, 0⟩]⟩,
    ⟨0x204, [], [⟨15, 0, .ro, 0⟩]⟩,
    ⟨0x208, [], [⟨31, 16, .rc, 0⟩, ⟨15, 0, .rc, 0⟩]⟩,
    ⟨0x20C, [], [⟨31, 31, .ro, 0⟩, ⟨12, 0, .ro, 0⟩]⟩,
    ⟨0x210, [], [⟨6, 0, .w1c, 0⟩]⟩,
    ⟨0x214, [], [⟨10, 8, .rw, 5⟩, ⟨6, 0, .rw, 127⟩]⟩
  ]

/-- Registers of the CHIP (chapters 4, 16, 17, 18 and 21), part 1. -/
def regs_chip_1 : List RegDesc :=
  [
    ⟨0x240, [(4, 0x10), (4, 0x4)], [⟨31, 0, .rw, 0⟩]⟩,
    ⟨0x0, [], [⟨31, 0, .ro, 0⟩]⟩,
    ⟨0x4, [], [⟨31, 0, .ro, 0⟩]⟩,
    ⟨0x8, [], [⟨23, 16, .ro, 0⟩, ⟨15, 0, .ro, 0⟩]⟩,
    ⟨0x10, [], [⟨31, 0, .ro, 0⟩]⟩,
    ⟨0x14, [], [⟨1, 0, .ro, 0⟩]⟩
  ]

/-- Registers of the CHIP (chapters 4, 16, 17, 18 and 21). -/
def regs_chip : List RegDesc := regs_chip_0 ++ regs_chip_1

/-- Registers of the mailbox and endpoint (chapter 14), part 0. -/
def regs_mbx_0 : List RegDesc :=
  [
    ⟨0x12000, [(4, 0x3000)], [⟨6, 0, .rw, 0⟩]⟩,
    ⟨0x12004, [(4, 0x3000)], [⟨6, 0, .ro, 0⟩]⟩,
    ⟨0x12008, [(4, 0x3000)], [⟨6, 0, .ro, 0⟩]⟩,
    ⟨0x1200C, [(4, 0x3000)], [⟨6, 0, .rw, 0⟩]⟩,
    ⟨0x12010, [(4, 0x3000)], [⟨0, 0, .wo, 0⟩]⟩,
    ⟨0x12014, [(4, 0x3000)], [⟨7, 7, .w1c, 0⟩, ⟨6, 6, .w1c, 0⟩, ⟨5, 5, .w1c, 0⟩, ⟨4, 4, .w1c, 0⟩, ⟨3, 3, .w1c, 0⟩, ⟨2, 2, .w1c, 0⟩, ⟨1, 1, .ro, 0⟩, ⟨0, 0, .ro, 0⟩]⟩,
    ⟨0x12018, [(4, 0x3000)], [⟨31, 0, .rc, 0⟩]⟩,
    ⟨0x1C000, [], [⟨31, 0, .w1c, 0⟩]⟩,
    ⟨0x1C004, [], [⟨31, 0, .w1c, 0⟩]⟩,
    ⟨0x1C008, [], [⟨31, 0, .rw, 0⟩]⟩,
    ⟨0x1C00C, [], [⟨31, 0, .rw, 0⟩]⟩,
    ⟨0x1C010, [], [⟨31, 0, .ro, 0⟩]⟩,
    ⟨0x1C020, [], [⟨3, 3, .w1c, 0⟩, ⟨2, 2, .w1c, 0⟩, ⟨1, 1, .w1c, 0⟩, ⟨0, 0, .w1c, 0⟩]⟩,
    ⟨0x1C024, [], [⟨31, 31, .w1c, 0⟩, ⟨30, 29, .ro, 0⟩, ⟨28, 24, .ro, 0⟩, ⟨23, 0, .ro, 0⟩]⟩,
    ⟨0x1C030, [], [⟨7, 4, .ro, 0⟩, ⟨2, 0, .ro, 0⟩]⟩
  ]

/-- Registers of the mailbox and endpoint (chapter 14). -/
def regs_mbx : List RegDesc := regs_mbx_0

/-- Registers of the Time Base (chapter 13), part 0. -/
def regs_tb_0 : List RegDesc :=
  [
    ⟨0x40000, [], [⟨1, 1, .wo, 0⟩, ⟨0, 0, .rw, 0⟩]⟩,
    ⟨0x40004, [], [⟨10, 6, .ro, 0⟩, ⟨5, 5, .w1c, 0⟩, ⟨4, 4, .w1c, 0⟩, ⟨3, 3, .w1c, 0⟩, ⟨2, 2, .w1c, 0⟩, ⟨1, 1, .ro, 0⟩, ⟨0, 0, .ro, 0⟩]⟩,
    ⟨0x40008, [], [⟨31, 0, .rw, 107374182⟩]⟩,
    ⟨0x4000C, [], [⟨31, 0, .wo, 0⟩]⟩,
    ⟨0x40010, [], [⟨31, 0, .rw, 0⟩]⟩,
    ⟨0x40014, [], [⟨15, 0, .rw, 0⟩]⟩,
    ⟨0x40018, [], [⟨31, 0, .rw, 0⟩]⟩,
    ⟨0x4001C, [], [⟨23, 0, .rw, 0⟩]⟩,
    ⟨0x40020, [], [⟨31, 0, .ro, 0⟩]⟩,
    ⟨0x40024, [], [⟨31, 0, .ro, 0⟩]⟩,
    ⟨0x40028, [], [⟨15, 0, .ro, 0⟩]⟩,
    ⟨0x4002C, [], [⟨23, 0, .ro, 0⟩]⟩,
    ⟨0x40030, [], [⟨31, 0, .ro, 0⟩]⟩,
    ⟨0x40040, [], [⟨31, 31, .ro, 0⟩, ⟨28, 24, .ro, 0⟩, ⟨23, 16, .ro, 0⟩, ⟨15, 0, .ro, 0⟩]⟩,
    ⟨0x40044, [], [⟨31, 0, .ro, 0⟩]⟩,
    ⟨0x40048, [], [⟨31, 0, .ro, 0⟩]⟩,
    ⟨0x4004C, [], [⟨23, 0, .ro, 0⟩]⟩,
    ⟨0x40050, [], [⟨31, 0, .rc, 0⟩]⟩,
    ⟨0x40060, [], [⟨1, 1, .ro, 0⟩, ⟨0, 0, .rw, 0⟩]⟩,
    ⟨0x40064, [], [⟨31, 0, .rw, 0⟩]⟩
  ]

/-- Registers of the Time Base (chapter 13), part 1. -/
def regs_tb_1 : List RegDesc :=
  [
    ⟨0x40068, [], [⟨31, 0, .ro, 0⟩]⟩,
    ⟨0x4006C, [], [⟨31, 0, .ro, 0⟩]⟩,
    ⟨0x40070, [], [⟨31, 0, .ro, 0⟩]⟩,
    ⟨0x40074, [], [⟨15, 0, .ro, 0⟩]⟩,
    ⟨0x40078, [], [⟨23, 0, .ro, 0⟩]⟩,
    ⟨0x40080, [(8, 0x10)], [⟨3, 3, .w1c, 0⟩, ⟨2, 2, .w1c, 0⟩, ⟨1, 1, .rw, 0⟩, ⟨0, 0, .rw, 0⟩]⟩,
    ⟨0x40084, [(8, 0x10)], [⟨31, 0, .rw, 0⟩]⟩,
    ⟨0x40088, [(8, 0x10)], [⟨31, 0, .rw, 0⟩]⟩,
    ⟨0x40100, [], [⟨0, 0, .rw, 0⟩]⟩,
    ⟨0x40104, [], [⟨2, 2, .ro, 0⟩, ⟨1, 1, .ro, 0⟩, ⟨0, 0, .ro, 0⟩]⟩,
    ⟨0x40108, [], [⟨31, 24, .rc, 0⟩, ⟨23, 16, .rc, 0⟩, ⟨15, 0, .rc, 0⟩]⟩,
    ⟨0x40200, [(8, 0x4)], [⟨31, 31, .w1s, 0⟩, ⟨30, 30, .rw, 0⟩, ⟨23, 16, .rw, 0⟩, ⟨11, 0, .rw, 0⟩]⟩,
    ⟨0x40300, [(16, 0x10)], [⟨31, 31, .w1c, 0⟩, ⟨27, 16, .ro, 0⟩, ⟨15, 0, .ro, 0⟩]⟩,
    ⟨0x40304, [(16, 0x10)], [⟨31, 0, .ro, 0⟩]⟩,
    ⟨0x40308, [(16, 0x10)], [⟨31, 0, .ro, 0⟩]⟩,
    ⟨0x4030C, [(16, 0x10)], [⟨23, 0, .ro, 0⟩]⟩
  ]

/-- Registers of the Time Base (chapter 13). -/
def regs_tb : List RegDesc := regs_tb_0 ++ regs_tb_1

/-- Registers of the Domain Scheduler (chapter 6), part 0. -/
def regs_ds_0 : List RegDesc :=
  [
    ⟨0x50000, [], [⟨2, 2, .w1s, 0⟩, ⟨1, 1, .rw, 0⟩, ⟨0, 0, .rw, 0⟩]⟩,
    ⟨0x50004, [], [⟨7, 7, .w1c, 0⟩, ⟨6, 6, .w1c, 0⟩, ⟨5, 5, .w1c, 0⟩, ⟨3, 0, .ro, 0⟩]⟩,
    ⟨0x50008, [], [⟨19, 0, .rwl, 1000⟩]⟩,
    ⟨0x50010, [], [⟨31, 0, .ro, 0⟩]⟩,
    ⟨0x50014, [], [⟨31, 16, .ro, 0⟩, ⟨15, 0, .ro, 0⟩]⟩,
    ⟨0x50018, [], [⟨31, 0, .rw, 0⟩]⟩,
    ⟨0x5001C, [], [⟨31, 0, .rw, 0⟩]⟩,
    ⟨0x50020, [], [⟨31, 0, .rc, 0⟩]⟩,
    ⟨0x50024, [], [⟨31, 0, .rc, 0⟩]⟩,
    ⟨0x50028, [], [⟨31, 0, .rc, 0⟩]⟩,
    ⟨0x5002C, [], [⟨31, 0, .rc, 0⟩]⟩,
    ⟨0x50100, [(64, 0x4)], [⟨15, 10, .rwl, 0⟩, ⟨9, 0, .rwl, 0⟩]⟩,
    ⟨0x51000, [(64, 0x20)], [⟨31, 0, .rwl, 0⟩]⟩,
    ⟨0x51004, [(64, 0x20)], [⟨15, 0, .rwl, 0⟩]⟩,
    ⟨0x51008, [(64, 0x20)], [⟨31, 0, .rwl, 0⟩]⟩,
    ⟨0x5100C, [(64, 0x20)], [⟨15, 0, .rwl, 0⟩]⟩,
    ⟨0x51010, [(64, 0x20)], [⟨31, 0, .rwl, 0⟩]⟩,
    ⟨0x51014, [(64, 0x20)], [⟨15, 0, .rwl, 0⟩]⟩,
    ⟨0x51018, [(64, 0x20)], [⟨24, 15, .rwl, 0⟩, ⟨14, 8, .rwl, 0⟩, ⟨7, 7, .rwl, 0⟩, ⟨6, 6, .rwl, 0⟩, ⟨5, 2, .rwl, 0⟩, ⟨1, 0, .rwl, 0⟩]⟩,
    ⟨0x5101C, [(64, 0x20)], [⟨3, 3, .ro, 1⟩, ⟨2, 2, .rw, 0⟩, ⟨1, 1, .ro, 0⟩, ⟨0, 0, .ro, 0⟩]⟩
  ]

/-- Registers of the Domain Scheduler (chapter 6), part 1. -/
def regs_ds_1 : List RegDesc :=
  [
    ⟨0x52000, [(64, 0x20), (3, 0x4)], [⟨31, 0, .rwl, 0⟩]⟩,
    ⟨0x5200C, [(64, 0x20), (3, 0x4)], [⟨31, 0, .rwl, 0⟩]⟩,
    ⟨0x52018, [(64, 0x20)], [⟨31, 31, .rwl, 0⟩, ⟨5, 0, .rwl, 0⟩]⟩,
    ⟨0x53000, [(32, 0x40)], [⟨15, 8, .rwl, 0⟩, ⟨7, 0, .rwl, 0⟩]⟩,
    ⟨0x53004, [(32, 0x40), (8, 0x4)], [⟨24, 15, .rwl, 0⟩, ⟨14, 0, .rwl, 0⟩]⟩,
    ⟨0x54000, [(256, 0x10)], [⟨31, 0, .ro, 0⟩]⟩,
    ⟨0x54004, [(256, 0x10)], [⟨31, 0, .ro, 0⟩]⟩,
    ⟨0x54008, [(256, 0x10)], [⟨31, 31, .ro, 0⟩, ⟨30, 30, .ro, 0⟩, ⟨26, 24, .ro, 0⟩, ⟨23, 0, .ro, 0⟩]⟩,
    ⟨0x5400C, [(256, 0x10)], [⟨4, 0, .ro, 0⟩]⟩,
    ⟨0x55000, [(128, 0x8)], [⟨31, 0, .ro, 0⟩]⟩,
    ⟨0x55004, [(128, 0x8)], [⟨31, 31, .ro, 0⟩, ⟨22, 22, .ro, 0⟩, ⟨21, 16, .ro, 0⟩, ⟨15, 0, .ro, 0⟩]⟩
  ]

/-- Registers of the Domain Scheduler (chapter 6). -/
def regs_ds : List RegDesc := regs_ds_0 ++ regs_ds_1

/-- Registers of the capture (chapter 11), part 0. -/
def regs_cap_0 : List RegDesc :=
  [
    ⟨0x60000, [], [⟨4, 4, .rw, 0⟩, ⟨3, 3, .wo, 0⟩, ⟨2, 2, .wo, 0⟩, ⟨1, 1, .wo, 0⟩, ⟨0, 0, .wo, 0⟩]⟩,
    ⟨0x60004, [], [⟨7, 7, .w1c, 0⟩, ⟨6, 6, .w1c, 0⟩, ⟨5, 5, .w1c, 0⟩, ⟨4, 4, .ro, 0⟩, ⟨3, 3, .ro, 0⟩, ⟨2, 0, .ro, 0⟩]⟩,
    ⟨0x60008, [], [⟨23, 16, .rw, 0⟩, ⟨13, 8, .rw, 0⟩, ⟨7, 6, .rw, 0⟩, ⟨3, 0, .rw, 0⟩]⟩,
    ⟨0x6000C, [], [⟨31, 26, .ro, 0⟩, ⟨25, 0, .ro, 0⟩]⟩,
    ⟨0x60010, [], [⟨25, 0, .rw, 0⟩]⟩,
    ⟨0x60014, [], [⟨31, 0, .rw, 0⟩]⟩,
    ⟨0x60018, [], [⟨31, 0, .rw, 0⟩]⟩,
    ⟨0x60020, [], [⟨31, 0, .ro, 0⟩]⟩,
    ⟨0x60024, [], [⟨31, 0, .ro, 0⟩]⟩,
    ⟨0x60028, [], [⟨31, 0, .ro, 0⟩]⟩,
    ⟨0x6002C, [], [⟨31, 0, .ro, 0⟩]⟩,
    ⟨0x60030, [], [⟨25, 0, .ro, 0⟩]⟩,
    ⟨0x60034, [], [⟨25, 0, .ro, 0⟩]⟩,
    ⟨0x60038, [], [⟨31, 0, .ro, 0⟩]⟩,
    ⟨0x60040, [], [⟨8, 7, .rw, 0⟩, ⟨6, 5, .rw, 0⟩, ⟨4, 4, .rw, 0⟩, ⟨3, 0, .rw, 0⟩]⟩,
    ⟨0x60044, [], [⟨15, 0, .rw, 1⟩]⟩,
    ⟨0x60100, [(32, 0x4)], [⟨31, 0, .rw, 0⟩]⟩,
    ⟨0x60200, [(64, 0x4)], [⟨11, 0, .rw, 0⟩]⟩,
    ⟨0x61000, [(4, 0x200), (64, 0x4)], [⟨23, 0, .rw, 0⟩]⟩,
    ⟨0x61100, [(4, 0x200), (64, 0x4)], [⟨23, 0, .rw, 0⟩]⟩
  ]

/-- Registers of the capture (chapter 11). -/
def regs_cap : List RegDesc := regs_cap_0

/-- Registers of the lead links and their lanes (chapters 8 and 9), part 0. -/
def regs_ld_0 : List RegDesc :=
  [
    ⟨0x80800, [(16, 0x1000), (9, 0x40)], [⟨18, 18, .rw, 0⟩, ⟨17, 16, .rw, 0⟩, ⟨15, 12, .rw, 0⟩, ⟨11, 8, .rw, 8⟩, ⟨7, 7, .rw, 0⟩, ⟨4, 3, .rw, 2⟩, ⟨2, 1, .rw, 0⟩, ⟨0, 0, .rw, 0⟩]⟩,
    ⟨0x80804, [(16, 0x1000), (9, 0x40)], [⟨21, 21, .w1c, 0⟩, ⟨20, 20, .w1c, 0⟩, ⟨19, 19, .w1c, 0⟩, ⟨18, 18, .w1c, 0⟩, ⟨17, 17, .w1c, 0⟩, ⟨16, 16, .w1c, 0⟩, ⟨15, 12, .ro, 0⟩, ⟨11, 11, .ro, 0⟩, ⟨10, 10, .ro, 0⟩, ⟨9, 9, .ro, 0⟩, ⟨8, 8, .ro, 0⟩, ⟨7, 4, .ro, 0⟩, ⟨3, 0, .ro, 0⟩]⟩,
    ⟨0x80808, [(16, 0x1000), (9, 0x40)], [⟨27, 20, .ro, 0⟩, ⟨19, 16, .ro, 0⟩, ⟨15, 0, .ro, 0⟩]⟩,
    ⟨0x8080C, [(16, 0x1000), (9, 0x40)], [⟨11, 11, .ro, 0⟩, ⟨10, 10, .ro, 0⟩, ⟨9, 5, .rw, 0⟩, ⟨4, 4, .wo, 0⟩, ⟨3, 2, .rw, 3⟩, ⟨1, 1, .rw, 0⟩, ⟨0, 0, .rw, 0⟩]⟩,
    ⟨0x80810, [(16, 0x1000), (9, 0x40)], [⟨31, 0, .rc, 0⟩]⟩,
    ⟨0x80814, [(16, 0x1000), (9, 0x40)], [⟨31, 0, .rc, 0⟩]⟩,
    ⟨0x80818, [(16, 0x1000), (9, 0x40)], [⟨31, 16, .rc, 0⟩, ⟨15, 0, .rc, 0⟩]⟩,
    ⟨0x80000, [(16, 0x1000)], [⟨17, 17, .rw, 0⟩, ⟨16, 16, .rw, 0⟩, ⟨15, 8, .rw, 0⟩, ⟨7, 4, .rw, 0⟩, ⟨0, 0, .rw, 0⟩]⟩,
    ⟨0x80004, [(16, 0x1000)], [⟨31, 24, .ro, 0⟩, ⟨23, 20, .ro, 0⟩, ⟨19, 19, .ro, 0⟩, ⟨18, 18, .w1c, 0⟩, ⟨17, 14, .ro, 15⟩, ⟨2, 0, .ro, 0⟩]⟩,
    ⟨0x8000C, [(16, 0x1000)], [⟨15, 15, .w1c, 0⟩, ⟨14, 14, .w1c, 0⟩, ⟨13, 13, .w1c, 0⟩, ⟨12, 12, .w1c, 0⟩, ⟨11, 11, .w1c, 0⟩, ⟨10, 10, .w1c, 0⟩, ⟨9, 9, .w1c, 0⟩, ⟨8, 8, .w1c, 0⟩, ⟨7, 7, .w1c, 0⟩, ⟨6, 6, .w1c, 0⟩, ⟨5, 5, .w1c, 0⟩, ⟨4, 4, .w1c, 0⟩, ⟨3, 3, .w1c, 0⟩, ⟨2, 2, .w1c, 0⟩, ⟨1, 1, .w1c, 0⟩, ⟨0, 0, .w1c, 0⟩]⟩,
    ⟨0x80010, [(16, 0x1000)], [⟨31, 16, .rc, 0⟩, ⟨15, 0, .rc, 0⟩]⟩,
    ⟨0x80014, [(16, 0x1000)], [⟨20, 16, .ro, 0⟩, ⟨12, 8, .ro, 0⟩, ⟨4, 0, .ro, 0⟩]⟩,
    ⟨0x80018, [(16, 0x1000)], [⟨31, 0, .ro, 0⟩]⟩,
    ⟨0x8001C, [(16, 0x1000)], [⟨24, 16, .rc, 0⟩, ⟨8, 0, .ro, 0⟩]⟩,
    ⟨0x80008, [(16, 0x1000)], [⟨3, 0, .ro, 0⟩, ⟨7, 4, .ro, 1⟩, ⟨11, 8, .ro, 2⟩, ⟨15, 12, .ro, 3⟩, ⟨19, 16, .ro, 4⟩, ⟨23, 20, .ro, 5⟩, ⟨27, 24, .ro, 6⟩, ⟨31, 28, .ro, 7⟩]⟩
  ]

/-- Registers of the lead links and their lanes (chapters 8 and 9). -/
def regs_ld : List RegDesc := regs_ld_0

/-- Registers of the hold (chapter 9), part 0. -/
def regs_hold_0 : List RegDesc :=
  [
    ⟨0x90000, [], [⟨13, 10, .rw, 0⟩, ⟨9, 9, .wo, 0⟩, ⟨8, 8, .wo, 0⟩, ⟨7, 0, .rw, 4⟩]⟩,
    ⟨0x90004, [], [⟨31, 31, .ro, 0⟩, ⟨30, 30, .ro, 0⟩, ⟨15, 0, .ro, 0⟩]⟩,
    ⟨0x90008, [], [⟨31, 0, .ro, 0⟩]⟩,
    ⟨0x9000C, [], [⟨31, 0, .ro, 0⟩]⟩,
    ⟨0x90010, [], [⟨15, 0, .rc, 0⟩]⟩
  ]

/-- Registers of the hold (chapter 9). -/
def regs_hold : List RegDesc := regs_hold_0

/-- Registers of the elastic links (chapters 8 and 9), part 0. -/
def regs_el_0 : List RegDesc :=
  [
    ⟨0xA0800, [(4, 0x1000), (4, 0x40)], [⟨18, 18, .rw, 0⟩, ⟨17, 16, .rw, 0⟩, ⟨15, 12, .rw, 0⟩, ⟨11, 8, .rw, 8⟩, ⟨7, 7, .rw, 0⟩, ⟨4, 3, .rw, 2⟩, ⟨2, 1, .rw, 0⟩, ⟨0, 0, .rw, 0⟩]⟩,
    ⟨0xA0804, [(4, 0x1000), (4, 0x40)], [⟨21, 21, .w1c, 0⟩, ⟨20, 20, .w1c, 0⟩, ⟨19, 19, .w1c, 0⟩, ⟨18, 18, .w1c, 0⟩, ⟨17, 17, .w1c, 0⟩, ⟨16, 16, .w1c, 0⟩, ⟨15, 12, .ro, 0⟩, ⟨11, 11, .ro, 0⟩, ⟨10, 10, .ro, 0⟩, ⟨9, 9, .ro, 0⟩, ⟨8, 8, .ro, 0⟩, ⟨7, 4, .ro, 0⟩, ⟨3, 0, .ro, 0⟩]⟩,
    ⟨0xA0808, [(4, 0x1000), (4, 0x40)], [⟨27, 20, .ro, 0⟩, ⟨19, 16, .ro, 0⟩, ⟨15, 0, .ro, 0⟩]⟩,
    ⟨0xA080C, [(4, 0x1000), (4, 0x40)], [⟨11, 11, .ro, 0⟩, ⟨10, 10, .ro, 0⟩, ⟨9, 5, .rw, 0⟩, ⟨4, 4, .wo, 0⟩, ⟨3, 2, .rw, 3⟩, ⟨1, 1, .rw, 0⟩, ⟨0, 0, .rw, 0⟩]⟩,
    ⟨0xA0810, [(4, 0x1000), (4, 0x40)], [⟨31, 0, .rc, 0⟩]⟩,
    ⟨0xA0814, [(4, 0x1000), (4, 0x40)], [⟨31, 0, .rc, 0⟩]⟩,
    ⟨0xA0818, [(4, 0x1000), (4, 0x40)], [⟨31, 16, .rc, 0⟩, ⟨15, 0, .rc, 0⟩]⟩,
    ⟨0xA0000, [(4, 0x1000)], [⟨2, 1, .rw, 0⟩, ⟨0, 0, .rw, 0⟩]⟩,
    ⟨0xA0004, [(4, 0x1000)], [⟨8, 5, .ro, 0⟩, ⟨4, 3, .ro, 0⟩, ⟨2, 0, .ro, 0⟩]⟩,
    ⟨0xA000C, [(4, 0x1000)], [⟨15, 15, .w1c, 0⟩, ⟨14, 14, .w1c, 0⟩, ⟨13, 13, .w1c, 0⟩, ⟨12, 12, .w1c, 0⟩, ⟨11, 11, .w1c, 0⟩, ⟨10, 10, .w1c, 0⟩, ⟨9, 9, .w1c, 0⟩, ⟨8, 8, .w1c, 0⟩, ⟨7, 7, .w1c, 0⟩, ⟨6, 6, .w1c, 0⟩, ⟨5, 5, .w1c, 0⟩, ⟨4, 4, .w1c, 0⟩, ⟨3, 3, .w1c, 0⟩, ⟨2, 2, .w1c, 0⟩, ⟨1, 1, .w1c, 0⟩, ⟨0, 0, .w1c, 0⟩]⟩,
    ⟨0xA0010, [(4, 0x1000)], [⟨31, 16, .rc, 0⟩, ⟨15, 0, .rc, 0⟩]⟩,
    ⟨0xA0014, [(4, 0x1000)], [⟨20, 16, .ro, 0⟩, ⟨12, 8, .ro, 0⟩, ⟨4, 0, .ro, 0⟩]⟩,
    ⟨0xA0020, [(4, 0x1000)], [⟨31, 16, .rc, 0⟩, ⟨15, 0, .rc, 0⟩]⟩
  ]

/-- Registers of the elastic links (chapters 8 and 9). -/
def regs_el : List RegDesc := regs_el_0

/-- Registers of the GDDR6 channels (chapter 10), part 0. -/
def regs_gd_0 : List RegDesc :=
  [
    ⟨0xC0000, [(16, 0x2000)], [⟨13, 13, .rw, 0⟩, ⟨12, 12, .rw, 0⟩, ⟨11, 11, .rw, 0⟩, ⟨10, 10, .rw, 0⟩, ⟨9, 9, .rw, 0⟩, ⟨8, 7, .rw, 0⟩, ⟨6, 4, .rw, 0⟩, ⟨0, 0, .rw, 0⟩]⟩,
    ⟨0xC0004, [(16, 0x2000)], [⟨11, 11, .w1c, 0⟩, ⟨10, 10, .w1c, 0⟩, ⟨9, 9, .w1c, 0⟩, ⟨8, 8, .w1c, 0⟩, ⟨7, 7, .w1c, 0⟩, ⟨6, 6, .w1c, 0⟩, ⟨2, 0, .ro, 0⟩]⟩,
    ⟨0xC0008, [(16, 0x2000)], [⟨31, 16, .rc, 0⟩, ⟨15, 0, .rc, 0⟩]⟩,
    ⟨0xC000C, [(16, 0x2000)], [⟨31, 16, .rc, 0⟩, ⟨3, 0, .ro, 0⟩]⟩,
    ⟨0xC0010, [(16, 0x2000)], [⟨19, 16, .ro, 0⟩, ⟨15, 0, .rc, 0⟩]⟩,
    ⟨0xC0020, [(16, 0x2000)], [⟨3, 3, .wo, 0⟩, ⟨2, 0, .rw, 0⟩]⟩,
    ⟨0xC0024, [(16, 0x2000)], [⟨31, 31, .ro, 0⟩, ⟨19, 0, .ro, 0⟩]⟩,
    ⟨0xC0100, [(16, 0x2000), (20, 0x4)], [⟨7, 0, .rw, 0⟩]⟩,
    ⟨0xC0180, [(16, 0x2000), (18, 0x4)], [⟨7, 0, .rw, 0⟩]⟩,
    ⟨0xC0200, [(16, 0x2000), (10, 0x4)], [⟨7, 0, .rw, 0⟩]⟩,
    ⟨0xC0240, [(16, 0x2000), (1, 0x4)], [⟨7, 0, .rw, 0⟩]⟩
  ]

/-- Registers of the GDDR6 channels (chapter 10). -/
def regs_gd : List RegDesc := regs_gd_0

/-- Registers of the gateways (chapter 10), part 0. -/
def regs_gw_0 : List RegDesc :=
  [
    ⟨0xE0000, [(16, 0x1000)], [⟨15, 8, .rw, 20⟩, ⟨7, 4, .rw, 15⟩, ⟨3, 3, .w1s, 0⟩, ⟨1, 0, .rwl, 0⟩]⟩,
    ⟨0xE0004, [(16, 0x1000)], [⟨22, 16, .rc, 0⟩, ⟨6, 0, .ro, 0⟩]⟩,
    ⟨0xE0008, [(16, 0x1000)], [⟨2, 2, .w1c, 0⟩, ⟨1, 1, .w1c, 0⟩, ⟨0, 0, .w1c, 0⟩]⟩,
    ⟨0xE0100, [(16, 0x1000), (16, 0x4)], [⟨31, 31, .rw, 0⟩, ⟨30, 28, .rw, 0⟩, ⟨27, 27, .rw, 0⟩, ⟨11, 6, .rw, 0⟩, ⟨5, 0, .rw, 0⟩]⟩
  ]

/-- Registers of the gateways (chapter 10). -/
def regs_gw : List RegDesc := regs_gw_0

/-- Registers of the router common (chapter 5), part 0. -/
def regs_rtr_0 : List RegDesc :=
  [
    ⟨0x100000, [(7, 0x4)], [⟨16, 16, .rw, 1⟩, ⟨15, 8, .rw, 8⟩, ⟨7, 0, .rw, 0⟩]⟩,
    ⟨0x100100, [(36, 0x4)], [⟨31, 31, .rw, 0⟩, ⟨9, 5, .rw, 0⟩, ⟨4, 0, .rw, 0⟩]⟩,
    ⟨0x100200, [(8, 0x20)], [⟨14, 14, .rw, 0⟩, ⟨13, 11, .rw, 0⟩, ⟨9, 0, .rw, 0⟩]⟩,
    ⟨0x100204, [(8, 0x20)], [⟨31, 16, .rc, 0⟩, ⟨3, 3, .rw, 0⟩, ⟨2, 1, .rw, 0⟩, ⟨0, 0, .rw, 0⟩]⟩,
    ⟨0x100208, [(8, 0x20)], [⟨23, 0, .rw, 0⟩]⟩,
    ⟨0x10020C, [(8, 0x20)], [⟨23, 0, .rw, 0⟩]⟩,
    ⟨0x100210, [(8, 0x20)], [⟨31, 0, .rc, 0⟩]⟩
  ]

/-- Registers of the router common (chapter 5). -/
def regs_rtr : List RegDesc := regs_rtr_0

/-- Registers of the Hitch (chapter 12), part 0. -/
def regs_ht_0 : List RegDesc :=
  [
    ⟨0x140000, [], [⟨1, 1, .rw, 0⟩, ⟨0, 0, .rw, 0⟩]⟩,
    ⟨0x140004, [], [⟨20, 20, .w1c, 0⟩, ⟨19, 19, .w1c, 0⟩, ⟨18, 18, .ro, 0⟩, ⟨17, 17, .w1c, 0⟩, ⟨15, 8, .w1c, 0⟩, ⟨7, 0, .ro, 0⟩]⟩,
    ⟨0x140040, [], [⟨9, 9, .ro, 0⟩, ⟨8, 8, .rw, 0⟩, ⟨4, 0, .rw, 8⟩]⟩,
    ⟨0x1400A0, [], [⟨7, 7, .rw, 0⟩, ⟨6, 0, .rw, 0⟩]⟩,
    ⟨0x1400A4, [], [⟨31, 31, .w1c, 0⟩, ⟨30, 30, .wo, 0⟩, ⟨25, 16, .rc, 0⟩, ⟨9, 0, .ro, 0⟩]⟩,
    ⟨0x1400B0, [], [⟨23, 16, .ro, 0⟩, ⟨15, 0, .rc, 0⟩]⟩,
    ⟨0x1400B4, [], [⟨4, 0, .ro, 0⟩]⟩,
    ⟨0x140010, [(8, 0x4)], [⟨2, 2, .rw, 0⟩, ⟨1, 0, .rw, 0⟩]⟩,
    ⟨0x140050, [(4, 0x4)], [⟨8, 8, .rw, 0⟩, ⟨7, 0, .rw, 2⟩]⟩,
    ⟨0x140070, [(8, 0x4)], [⟨20, 20, .w1c, 0⟩, ⟨19, 0, .rw, 0⟩]⟩,
    ⟨0x1400C0, [(4, 0x8)], [⟨31, 16, .rc, 0⟩, ⟨15, 0, .rc, 0⟩]⟩,
    ⟨0x1400C4, [(4, 0x8)], [⟨21, 16, .ro, 0⟩, ⟨15, 0, .rc, 0⟩]⟩
  ]

/-- Registers of the Hitch (chapter 12). -/
def regs_ht : List RegDesc := regs_ht_0

/-- Registers of the Groom (chapters 18, 19 and 21), part 0. -/
def regs_grm_0 : List RegDesc :=
  [
    ⟨0x180100, [(4, 0x10)], [⟨31, 31, .w1s, 0⟩, ⟨9, 0, .rwl, 500⟩]⟩,
    ⟨0x180104, [(4, 0x10)], [⟨0, 0, .wo, 0⟩]⟩,
    ⟨0x180108, [(4, 0x10)], [⟨31, 16, .ro, 0⟩, ⟨8, 8, .w1c, 0⟩, ⟨7, 0, .ro, 0⟩]⟩,
    ⟨0x18010C, [(4, 0x10)], [⟨31, 0, .ro, 0⟩]⟩,
    ⟨0x180200, [], [⟨17, 17, .rw, 1⟩, ⟨16, 16, .rw, 1⟩, ⟨15, 8, .rw, 27⟩, ⟨7, 4, .rw, 0⟩, ⟨1, 0, .rw, 0⟩]⟩,
    ⟨0x180204, [], [⟨19, 19, .w1c, 0⟩, ⟨18, 18, .w1c, 0⟩, ⟨17, 17, .ro, 0⟩, ⟨16, 16, .w1c, 0⟩, ⟨13, 0, .ro, 8192⟩]⟩,
    ⟨0x180208, [], [⟨31, 0, .ro, 0⟩]⟩,
    ⟨0x18020C, [], [⟨23, 16, .rw, 0⟩, ⟨13, 8, .rw, 0⟩, ⟨7, 6, .rw, 0⟩, ⟨3, 0, .rw, 0⟩]⟩,
    ⟨0x180220, [(4, 0x4)], [⟨31, 0, .rc, 0⟩]⟩,
    ⟨0x180000, [(4, 0x4)], [⟨5, 0, .rw, 0⟩]⟩
  ]

/-- Registers of the Groom (chapters 18, 19 and 21). -/
def regs_grm : List RegDesc := regs_grm_0

/-- Registers of the security (chapter 20), part 0. -/
def regs_sec_0 : List RegDesc :=
  [
    ⟨0x1C0000, [], [⟨17, 2, .ro, 0⟩, ⟨1, 0, .ro, 0⟩]⟩,
    ⟨0x1C0004, [], [⟨3, 0, .w1c, 0⟩]⟩,
    ⟨0x1C0008, [], [⟨31, 0, .ro, 0⟩]⟩
  ]

/-- Registers of the security (chapter 20). -/
def regs_sec : List RegDesc := regs_sec_0

/-- Registers of the Team and router windows (chapters 2 to 5, 7 and 17), part 0. -/
def regs_team_0 : List RegDesc :=
  [
    ⟨0x4000C0, [(1024, 0x400)], [⟨0, 0, .rw, 0⟩]⟩,
    ⟨0x4000C4, [(1024, 0x400)], [⟨3, 3, .w1c, 0⟩, ⟨2, 2, .w1c, 0⟩, ⟨1, 1, .w1c, 0⟩, ⟨0, 0, .w1c, 0⟩]⟩,
    ⟨0x4000C8, [(1024, 0x400)], [⟨31, 31, .w1c, 0⟩, ⟨19, 18, .ro, 0⟩, ⟨17, 16, .ro, 0⟩, ⟨15, 10, .ro, 0⟩, ⟨9, 0, .ro, 0⟩]⟩,
    ⟨0x4000CC, [(1024, 0x400)], [⟨31, 0, .ro, 0⟩]⟩,
    ⟨0x4000D0, [(1024, 0x400)], [⟨31, 31, .w1c, 0⟩, ⟨16, 16, .ro, 0⟩, ⟨15, 10, .ro, 0⟩, ⟨9, 0, .ro, 0⟩]⟩,
    ⟨0x4000D4, [(1024, 0x400)], [⟨14, 14, .ro, 0⟩, ⟨13, 11, .ro, 0⟩, ⟨10, 0, .ro, 0⟩]⟩,
    ⟨0x400100, [(1024, 0x400)], [⟨5, 5, .w1c, 0⟩, ⟨4, 4, .w1c, 0⟩, ⟨3, 3, .w1c, 0⟩, ⟨2, 2, .w1c, 0⟩, ⟨1, 1, .w1c, 0⟩, ⟨0, 0, .w1c, 0⟩]⟩,
    ⟨0x400104, [(1024, 0x400)], [⟨31, 31, .w1c, 0⟩, ⟨18, 16, .ro, 0⟩, ⟨11, 10, .ro, 0⟩, ⟨9, 0, .ro, 0⟩]⟩,
    ⟨0x400108, [(1024, 0x400)], [⟨31, 0, .ro, 0⟩]⟩,
    ⟨0x400110, [(1024, 0x400)], [⟨13, 6, .rw, 0⟩, ⟨5, 5, .rw, 0⟩, ⟨4, 4, .rw, 0⟩, ⟨3, 2, .rw, 0⟩, ⟨1, 0, .rw, 0⟩]⟩,
    ⟨0x400114, [(1024, 0x400)], [⟨9, 9, .w1c, 0⟩, ⟨8, 8, .w1c, 0⟩, ⟨7, 7, .w1c, 0⟩, ⟨6, 6, .w1c, 0⟩, ⟨5, 5, .w1c, 0⟩, ⟨4, 4, .w1c, 0⟩, ⟨3, 3, .w1c, 0⟩, ⟨2, 2, .w1c, 0⟩, ⟨1, 1, .ro, 0⟩, ⟨0, 0, .ro, 0⟩]⟩,
    ⟨0x400118, [(1024, 0x400)], [⟨31, 31, .w1c, 0⟩, ⟨18, 16, .ro, 0⟩, ⟨15, 15, .ro, 0⟩, ⟨14, 0, .ro, 0⟩]⟩,
    ⟨0x40011C, [(1024, 0x400)], [⟨31, 16, .rc, 0⟩, ⟨15, 0, .rc, 0⟩]⟩,
    ⟨0x400140, [(1024, 0x400)], [⟨31, 0, .ro, 0⟩]⟩,
    ⟨0x400144, [(1024, 0x400)], [⟨12, 8, .rw, 0⟩, ⟨4, 0, .rw, 0⟩]⟩,
    ⟨0x400148, [(1024, 0x400)], [⟨31, 0, .rc, 0⟩]⟩,
    ⟨0x40014C, [(1024, 0x400)], [⟨31, 0, .rc, 0⟩]⟩,
    ⟨0x400150, [(1024, 0x400)], [⟨31, 0, .rc, 0⟩]⟩,
    ⟨0x400154, [(1024, 0x400)], [⟨31, 0, .rc, 0⟩]⟩,
    ⟨0x400158, [(1024, 0x400)], [⟨31, 31, .w1c, 0⟩, ⟨10, 8, .ro, 0⟩, ⟨7, 0, .ro, 0⟩]⟩
  ]

/-- Registers of the Team and router windows (chapters 2 to 5, 7 and 17), part 1. -/
def regs_team_1 : List RegDesc :=
  [
    ⟨0x40015C, [(1024, 0x400)], [⟨7, 0, .rw, 16⟩]⟩,
    ⟨0x400200, [(1024, 0x400)], [⟨3, 3, .w1s, 0⟩, ⟨2, 2, .rw, 0⟩, ⟨1, 1, .rw, 0⟩, ⟨0, 0, .rw, 0⟩]⟩,
    ⟨0x400204, [(1024, 0x400)], [⟨4, 4, .w1c, 0⟩, ⟨3, 3, .w1c, 0⟩, ⟨2, 2, .w1c, 0⟩, ⟨1, 1, .w1c, 0⟩, ⟨0, 0, .ro, 0⟩]⟩,
    ⟨0x400208, [(1024, 0x400)], [⟨10, 10, .w1c, 0⟩, ⟨9, 9, .w1c, 0⟩, ⟨8, 8, .w1c, 0⟩, ⟨7, 7, .w1c, 0⟩, ⟨6, 6, .w1c, 0⟩, ⟨5, 5, .w1c, 0⟩, ⟨4, 4, .w1c, 0⟩, ⟨3, 3, .w1c, 0⟩, ⟨2, 2, .w1c, 0⟩, ⟨1, 1, .w1c, 0⟩]⟩,
    ⟨0x40020C, [(1024, 0x400)], [⟨31, 31, .w1c, 0⟩, ⟨30, 29, .ro, 0⟩, ⟨28, 26, .ro, 0⟩, ⟨25, 16, .ro, 0⟩, ⟨15, 0, .ro, 0⟩]⟩,
    ⟨0x400210, [(1024, 0x400)], [⟨9, 9, .rw, 0⟩, ⟨8, 0, .rw, 0⟩]⟩,
    ⟨0x400214, [(1024, 0x400)], [⟨23, 0, .rw, 0⟩]⟩,
    ⟨0x400218, [(1024, 0x400)], [⟨23, 0, .rw, 0⟩]⟩,
    ⟨0x40021C, [(1024, 0x400)], [⟨31, 0, .rw, 0⟩]⟩,
    ⟨0x400220, [(1024, 0x400)], [⟨31, 0, .rw, 0⟩]⟩,
    ⟨0x400224, [(1024, 0x400)], [⟨7, 0, .rw, 64⟩]⟩,
    ⟨0x400228, [(1024, 0x400)], [⟨31, 24, .rc, 0⟩, ⟨23, 12, .rc, 0⟩, ⟨11, 0, .rc, 0⟩]⟩,
    ⟨0x40022C, [(1024, 0x400)], [⟨31, 0, .rc, 0⟩]⟩,
    ⟨0x400180, [(1024, 0x400)], [⟨1, 1, .rw, 0⟩, ⟨0, 0, .rw, 0⟩]⟩,
    ⟨0x400184, [(1024, 0x400)], [⟨31, 31, .ro, 0⟩, ⟨3, 3, .w1c, 0⟩, ⟨2, 0, .ro, 0⟩]⟩,
    ⟨0x400188, [(1024, 0x400)], [⟨19, 15, .rw, 24⟩, ⟨14, 10, .rw, 24⟩, ⟨9, 5, .rw, 24⟩, ⟨4, 0, .rw, 24⟩]⟩,
    ⟨0x40018C, [(1024, 0x400)], [⟨8, 0, .rw, 256⟩]⟩,
    ⟨0x4001C0, [(1024, 0x400)], [⟨3, 3, .w1c, 0⟩, ⟨2, 1, .ro, 0⟩, ⟨0, 0, .rw, 0⟩]⟩
  ]

/-- Registers of the Team and router windows (chapters 2 to 5, 7 and 17). -/
def regs_team : List RegDesc := regs_team_0 ++ regs_team_1

/-- The registers of the block whose window holds the address (R512). -/
def regBlock (a : Nat) : List RegDesc :=
  if 0x0 ≤ a ∧ a < 0x10000 then regs_chip
  else if 0x10000 ≤ a ∧ a < 0x20000 then regs_mbx
  else if 0x40000 ≤ a ∧ a < 0x50000 then regs_tb
  else if 0x50000 ≤ a ∧ a < 0x60000 then regs_ds
  else if 0x60000 ≤ a ∧ a < 0x70000 then regs_cap
  else if 0x80000 ≤ a ∧ a < 0x90000 then regs_ld
  else if 0x90000 ≤ a ∧ a < 0xA0000 then regs_hold
  else if 0xA0000 ≤ a ∧ a < 0xC0000 then regs_el
  else if 0xC0000 ≤ a ∧ a < 0xE0000 then regs_gd
  else if 0xE0000 ≤ a ∧ a < 0x100000 then regs_gw
  else if 0x100000 ≤ a ∧ a < 0x140000 then regs_rtr
  else if 0x140000 ≤ a ∧ a < 0x180000 then regs_ht
  else if 0x180000 ≤ a ∧ a < 0x1C0000 then regs_grm
  else if 0x1C0000 ≤ a ∧ a < 0x200000 then regs_sec
  else if 0x400000 ≤ a ∧ a < 0x500000 then regs_team
  else []

/-- The offset left of an array of registers is 0 after each index has taken its multiple of its stride. -/
def dimsHit : List (Nat × Nat) → Nat → Bool
  | [], off => off == 0
  | (c, st) :: ds, off => decide (off / st < c) && dimsHit ds (off % st)

/-- The address is one of the registers of the row. -/
def descHit (d : RegDesc) (a : Nat) : Bool := decide (d.base ≤ a) && dimsHit d.dims (a - d.base)

/-- The row of the map an address belongs to. -/
def findReg (a : Nat) : Option RegDesc := (regBlock a).find? (fun d => descHit d a)

/-- The word that fields at their reset values make. -/
def resetOf : List RegField → Nat
  | [] => 0
  | f :: fs => f.reset * 2 ^ f.lo + resetOf fs

/-- The value a register holds after reset; an address of the register file without a register reads 0 (R6). -/
def regReset (a : Nat) : BitVec 32 :=
  match findReg a with
  | some d => BitVec.ofNat 32 (resetOf d.fields)
  | none => 0

end Sys2Proof.Machine
end

