-- ==== Sys2Proof/Machine/State.lean ====
section
/-! DEFINITION. The state of the block: the register file of BAR0, the state that no register holds (one record per
Team, router, lane, link, channel, mailbox and so on), and the queue of waiting commands.  Arrays of like units are
sparse tables (Machine/Table.lean) whose unlisted entries are the unit's reset value. -/
namespace Sys2Proof.Machine

/-- Why a command stops with a fault.  No command does: the spec gives every one of them an effect, the effect on a unit that the
grade lacks being none. -/
inductive Fault
deriving DecidableEq, Repr

/-- Why a command is refused. -/
inductive Refusal where
  /-- The command has no meaning yet.  Raised by the arms of Machine/Dispatch.lean only.  Safe. -/
  | notModelled (mnemonic : String)
deriving DecidableEq, Repr

/-! ### Teams (chapters 2, 3, 4 and 7) -/

/-- One entry of the gateway response queue (R77, R280). -/
structure GwRsp where
  tag : Nat          -- bits [7:0] of the stride number of the request
  rseq : Nat         -- sequence number RSEQ
  data : W24
deriving DecidableEq, Repr

/-- The descriptor of a stride: start step S, length L, bits [1:0] of the stride number (R178). -/
structure Desc where
  start : Nat
  len : Nat
  tag : Nat
deriving DecidableEq, Repr

/-- Who waits for a design-memory access of R87. -/
inductive DmaSrc where
  | groom                             -- firmware
  | host                              -- a read through BAR4
  | landing                           -- a landing write of the scheduler (R171)
  | packet (p : Packet)               -- a dynamic request (R139)
deriving DecidableEq, Repr

/-- What a design-memory access does to its words (R90). -/
inductive DmaKind where
  | read | write | setBits | clearBits
deriving DecidableEq, Repr

/-- One waiting access of R87, word by word. -/
structure DmaReq where
  src : DmaSrc
  kind : DmaKind
  addr : Nat          -- address of the next word
  left : Nat          -- words still to serve
  data : List W24     -- words still to write
  got : List W24      -- words read so far
deriving DecidableEq, Repr

/-- A bank's power and contents beyond its register fields (R97, R547). -/
structure Bank where
  valid : Bool       -- contents valid under R547
  init : Bool        -- initialising for 16,384 cycles
  back : Bool        -- returning from RETENTION in 64 cycles
deriving DecidableEq, Repr

/-- The state of one Team that no register holds. -/
structure Team where
  active : Bool                    -- a stride is in progress or the Team stands in END
  gen : Nat                        -- 0: stores hold defined contents; k: undefined contents k (R194, R456)
  store : List (Nat × BitVec 72)   -- Instruction Stores, key 1,024 * unit + address (R33, R61)
  stage : List (Nat × W24)         -- staging registers: 0, 1 BP words 0, 1; 2, 3 WU words 0, 1 (R35, R62)
  sm : List (Nat × BitVec 64)      -- Signal Memory, row a: bit b is location a of BP b (R38)
  mask : List (Nat × BitVec 64)    -- state mask, coded as sm (R205)
  busBp : BitVec 64                -- Team Bus bits 0 to 63 (R40)
  busWu : W24                      -- Team Bus bits 64 to 87 (R67)
  rs : BitVec 1024                 -- Receive Store values (R41)
  rsHave : BitVec 1024             -- Receive Store presence bits (R41)
  send : BitVec 120                -- send register (R48)
  hin : W24                        -- Hitch Port input word (R44)
  hinNext : Option W24             -- HIN of the next stride, once latched (R113)
  wr : List (Nat × W24)            -- Word Register File (R63)
  flagC : Bool                     -- carry flag (R64)
  flagV : Bool                     -- signed overflow flag (R64)
  dmrd : W24                       -- port A read data (R79)
  rmrd : W24                       -- remote read data (R83)
  pbrd : W24                       -- port B read register (R83)
  dmrdNext : Option W24            -- data DMRD takes at the end of the next step (R79)
  pbrdNext : Option W24            -- data PBRD takes at the end of the next step (R83)
  rmw : Option (Nat × W24)         -- write of the last step's RMW: address and new word (R79)
  rmwDone : Bool                   -- that write has been made in a stall cycle (R79)
  pbOut : BitVec 43                -- port B output register (R81, R84)
  gwReq : BitVec 120               -- gateway request register, as its flit (R276)
  nGreq : Nat                      -- GREQ reads issued in this stride (R276)
  nPick : Nat                      -- GPICKs executed in this stride (R77)
  carryQ : List (Bool × Bool)      -- carry queue: carry, tag (R73)
  carryIn : List (Bool × Bool)     -- carries in the crossing toward this Team (R72)
  gwQ : List GwRsp                 -- gateway response queue (R77)
  stride : W64                     -- the Team's stride number (R111)
  start : Nat                      -- start step S of the stride in progress
  len : Nat                        -- length L of the stride in progress
  slot : Option Desc               -- Next-Stride slot (R111, R178)
  hat : List (Nat × BitVec 32)     -- progress counts received, by port; 4: lead-link partner (R108)
  hungSent : Bool                  -- STRIDE_HUNG reported in this stride (R118)
  halted : Bool                    -- stopped by its own breakpoint or check report (R55, R204)
  tap : BitVec 96                  -- tap register (R297)
  ring : List (Nat × BitVec 96)    -- samples on the tap ring, oldest first, each with its stride (R299)
  passNow : Bool                   -- every condition of R111 held as the cycle of step L - 1 began
  dm : List (Nat × W24)            -- design memory, 15-bit address (R78)
  bank0 : Bank
  bank1 : Bank
  dma : List DmaReq                -- waiting accesses, oldest first (R87)
  patrolAt : Nat                   -- next 256-word region of the patrol test, 0 to 127 (R94)
  patrolSave : List W24            -- save buffer of the patrol test (R94)
  isPatrolAt : Nat                 -- next entry of the Instruction Store patrol: 1,024 * unit + address (R96)
  isRegionAt : Nat                 -- next region of its test in IDLE: 4 * unit + region of 256 entries (R96)
  switching : Bool                 -- the Team switch is opening or closing (R455)
deriving DecidableEq, Repr

/-- A Team after reset: powered off, no stride, every value zero (R12, R455). -/
def Team.reset : Team where
  active := false
  gen := 0
  store := []
  stage := []
  sm := []
  mask := []
  busBp := 0
  busWu := 0
  rs := 0
  rsHave := 0
  send := 0
  hin := 0
  hinNext := none
  wr := []
  flagC := false
  flagV := false
  dmrd := 0
  rmrd := 0
  pbrd := 0
  dmrdNext := none
  pbrdNext := none
  rmw := none
  rmwDone := false
  pbOut := 0
  gwReq := 0
  nGreq := 0
  nPick := 0
  carryQ := []
  carryIn := []
  gwQ := []
  stride := 0
  start := 0
  len := 0
  slot := none
  hat := []
  hungSent := false
  halted := false
  tap := 0
  ring := []
  passNow := false
  dm := []
  bank0 := ⟨false, false, false⟩
  bank1 := ⟨false, false, false⟩
  dma := []
  patrolAt := 0
  patrolSave := []
  isPatrolAt := 0
  isRegionAt := 0
  switching := false

/-! ### Routers (chapter 5) -/

/-- One flit on a neighbour link: its place in the link's sequence, its 3-bit link tag and its payload (R124). -/
structure XFlit where
  seq : Nat
  tag : Nat
  data : Flit
deriving DecidableEq, Repr

/-- The state of one router that no register holds.  Tables are keyed by port code, or by 2 * port + VC. -/
structure Router where
  gen : Nat                          -- 0: defined Slot Schedule contents; k: undefined contents k (R194)
  act : List (Nat × BitVec 48)       -- active set: entry e, word 0 in [23:0], word 1 in [47:24] (R129)
  shd : List (Nat × BitVec 48)       -- shadow set (R129)
  w0 : W24                           -- staged word 0 (R136)
  scan : Bool                        -- the 512-cycle check of the shadow set is running (R137)
  inq : List (Nat × List Flit)       -- static receive queues, by input port (R128)
  matched : List (Nat × Nat)         -- local-output SIGNAL entries served in this stride, by input port (R103)
  wire : List (Nat × List XFlit)     -- flits in the crossing toward this router, by input port (R121)
  rxSeq : List (Nat × Nat)           -- flits taken, by input port (R125)
  await : List (Nat × Bool)          -- a replay is awaited, by input port (R125)
  fails : List (Nat × Nat)           -- failures in a row of the same flit, by input port (R126)
  txSeq : List (Nat × Nat)           -- flits sent, by output port (R125)
  kept : List (Nat × List XFlit)     -- last 16 flits sent, by output port (R125)
  dyn : List (Nat × List Packet)     -- dynamic packets held, by 2 * input port + VC (R145)
  part : List (Nat × List Flit)      -- flits of a packet still arriving, by 2 * input port + VC
  used : List (Nat × Nat)            -- flits of the neighbour's buffer without credit, by 2 * output port + VC (R145)
  owed : List (Nat × Nat)            -- credits in the crossing back to this router, by 2 * output port + VC
  keptCr : List (Nat × Nat)          -- credits not returned while FREEZE is 1, by 2 * input port + VC (R153)
  inject : List Packet               -- packets waiting at the local injection points (R148)
  rr : List (Nat × Nat)              -- round-robin position, by output port (R146)
  tokens : List (Nat × Nat)          -- regulator tokens, by 8 * point + class; point 0 Team, 1 attached block (R148)
  arrived : List Packet              -- packets that have reached their destination router (R150)
  boxT : List Packet                 -- completions and responses delivered to the Team's side (R141)
  boxA : List Packet                 -- packets delivered to the attached block (R141, R147)
  drain : Bool                       -- FREEZE has been 1 for 2,048 cycles (R153)
deriving DecidableEq, Repr

/-- A router after reset: no entries, empty queues, full credit toward every neighbour (R145). -/
def Router.reset : Router where
  gen := 0
  act := []
  shd := []
  w0 := 0
  scan := false
  inq := []
  matched := []
  wire := []
  rxSeq := []
  await := []
  fails := []
  txSeq := []
  kept := []
  dyn := []
  part := []
  used := []
  owed := []
  keptCr := []
  inject := []
  rr := []
  tokens := []
  arrived := []
  boxT := []
  boxA := []
  drain := false

/-! ### Domain Scheduler (chapter 6) -/

/-- A token of the matching store (R167). -/
structure Token where
  task : Nat
  opnd : Nat
  data : W24
  hitch : Bool
  tag : Nat
deriving DecidableEq, Repr

/-- An entry of the delay list: edge time, domain, falling edge (R162). -/
structure Edge where
  time : Nat
  dom : Nat
  falling : Bool
deriving DecidableEq, Repr

/-- What a decision whose descriptor is not issued yet changed (R256): the delay list, DS_NOW, EPOCH and the number of decisions
before it, the time points it skipped, and the domains whose HOST_GO it cleared. -/
structure Prior where
  delay : List Edge
  now : Nat
  epoch : Nat
  decided : Nat
  skips : Nat
  go : List Nat
deriving DecidableEq, Repr

/-- The state of the Domain Scheduler that no register holds. -/
structure Sched where
  delay : List Edge                 -- the delay list, sorted (R163)
  store : List (Nat × Option Token) -- the matching store, by entry (R167)
  lastTag : Option Nat              -- last stride number whose tokens were consumed (R168)
  due : Option Nat                  -- the tag whose consumption is due (R112, R171)
  tasks : BitVec 32                 -- tasks made ready by the last tag consumed (R171)
  skipped : Nat                     -- time points skipped in a row in this decision (R177)
  samples : List (Nat × Nat)        -- ENABLE bits arrived: key 2 * domain + parity of the stride, value 2 * tag + bit + 1
  decided : Nat                     -- decisions since LOAD or a restore, up to 2 (R165)
  wanted : Option Nat               -- the stride whose decision is due
  choice : Option (BitVec 24 × Nat) -- the decided descriptor word and its stride, not yet issued (R178)
  prior : Option Prior              -- what that decision changed (R256)
  flight : Option (BitVec 24)       -- the descriptor in flight toward the Teams (R178)
  got : List Nat                    -- Teams it has reached
  issued : Nat                      -- I, the last stride whose descriptor was issued (R255)
  anyIssued : Bool                  -- a descriptor has been issued since the run started
  first : Bool                      -- the boundary into the first stride of a run is not complete (R180)
  horizonLo : BitVec 32             -- staged low half of DS_HORIZON (R182)
  ready : BitVec 96                 -- READY of the latest decision (R175)
  nows : List (Nat × Nat)           -- DS_NOW of the last strides decided, by stride modulo 4 (R304)
deriving DecidableEq, Repr

/-- The scheduler after reset: nothing decided, an empty store and an empty delay list. -/
def Sched.reset : Sched where
  delay := []
  store := []
  lastTag := none
  due := none
  tasks := 0
  skipped := 0
  samples := []
  decided := 0
  wanted := none
  choice := none
  prior := none
  flight := none
  got := []
  issued := 0
  anyIssued := false
  first := false
  horizonLo := 0
  ready := 0
  nows := []

/-! ### Serial lanes (chapter 8): lead lane k of link n is 9 n + k, elastic lane k of link n is 144 + 4 n + k -/

/-- A self-synchronising PRBS checker (R227). -/
structure Prbs where
  hist : Nat  -- the bits received last, the latest in bit 0
  run : Nat  -- consecutive bits as predicted
  runInv : Nat  -- consecutive bits as predicted for the complement
  locked : Bool
  inv : Bool  -- locked to the complement
  last : List Bool  -- which of the last 64 bits since the lock were wrong
deriving DecidableEq, Repr

/-- The reset value of `Prbs`. -/
def Prbs.reset : Prbs where
  hist := 0
  run := 0
  runInv := 0
  locked := false
  inv := false
  last := []

/-- The state of one lane that no register holds. -/
structure Lane where
  rate : Nat  -- RATE, LOOP, EQ_FIX and EQ_SET as sampled when the lane left OFF (R219)
  loop : Nat
  eqFix : Bool
  eqSet : Nat
  next : Nat  -- settings tried in this sweep (R220)
  pass : Nat  -- settings that passed in this sweep, bit i
  tries : Nat  -- the procedure's own count of sweeps (R220)
  missed : Bool  -- a miswired block came for the setting in hand, or an error in CONFIRM (R217, R220)
  rdyGot : Nat  -- consecutive valid training blocks with RDY = 1 (R221)
  rdySent : Bool  -- 16 training blocks with RDY = 1 have been sent (R221)
  train : Nat  -- consecutive valid training blocks in ACTIVE (R222)
  arrive : Nat  -- block time at which the last valid training block marked a frame start (R241)
  fill : Nat  -- blocks in the receive buffer of an elastic lane (R244)
  flip : Bool  -- INJ_ONE waits for the next transmitted bit or block (R228)
  chk : Prbs  -- the checker: on pattern blocks, or of TEST (R220, R227)
  gen : Nat  -- the generator's last 31 bits in TEST, the latest in bit 0 (R227)
  pat : Nat  -- the same of the pattern blocks it sends (R216)
  sent : Nat  -- bits sent in TEST (R228)
  out : List Bool  -- the bits that its transmit pins sent in the last run of TEST (the model's own record)
  group : List W64  -- the payloads of the training group sent last (R216; the model's own record)
deriving DecidableEq, Repr

/-- The reset value of `Lane`. -/
def Lane.reset : Lane where
  rate := 0
  loop := 0
  eqFix := false
  eqSet := 8
  next := 0
  pass := 0
  tries := 0
  missed := false
  rdyGot := 0
  rdySent := false
  train := 0
  arrive := 0
  fill := 8
  flip := false
  chk := Prbs.reset
  gen := 0
  pat := 0
  sent := 0
  out := []
  group := []

/-! ### Links (chapter 9): lead links 0 to 15, elastic links 16 to 19 -/

/-- A cell of a dynamic packet waiting to cross a link (R235, R237). -/
structure LCell where
  isHead : Bool
  isCompl : Bool     -- it belongs to a completion, which goes before other packets (R237)
  flit : Flit
deriving DecidableEq, Repr

/-- A frame of a link: its sequence number and its content cells (R232, R235). -/
structure LFrame where
  fseq : Nat
  cells : List (BitVec 128)
deriving DecidableEq, Repr

/-- A request that came over the link and whose completion is awaited (R246). -/
structure Forward where
  tag : Nat
  back : BitVec 24   -- the request's E-word with SRC and STGT, to be restored
deriving DecidableEq, Repr

/-- The state of one link that no register holds. -/
structure Link where
  txStatic : List Flit  -- static flits waiting (R249)
  txMsg : List Flit  -- message payloads waiting
  tx0 : List Packet  -- dynamic packets waiting on VC0
  tx1 : List Packet  -- and on VC1
  cur0 : List LCell  -- cells of the packet being sent on VC0
  cur1 : List LCell  -- and on VC1
  going0 : Option Packet  -- that packet itself on VC0
  going1 : Option Packet  -- and on VC1
  turn1 : Bool  -- the round robin of R237 is at VC1
  fseq : Nat  -- FSEQ of the next new frame
  kept : List LFrame  -- frames sent and not acknowledged, oldest first (R239)
  resend : Option Nat  -- FSEQ of the next frame to be sent again (R239)
  lastCrc : Word  -- CRC-32 of the content of the frame sent last (R234)
  outHeads : List W64  -- header blocks of the frame sent last, by header position
  outCells : List (BitVec 128)  -- its content cells
  outFill : Bool  -- it carried a filler row (R243)
  subLeft : Nat  -- frames that still carry SUBREQ = 1 (R242)
  subPos : Nat
  sentV0 : Nat  -- cells sent of each kind, modulo 256 (R247)
  sentV1 : Nat
  sentM : Nat
  peerV0 : Nat  -- the partner's counts of INFO position 3
  peerV1 : Nat
  peerM : Nat
  peerS : Nat  -- the partner's STRCNT, elastic links
  rxLast : Nat  -- FSEQ of the last accepted frame
  rxHeld : Option LFrame  -- the frame that waits for its FCRC (R238)
  heldAt : Nat  -- its receive stamp in units of 2^-24 ns (R260)
  rxFail : Bool  -- a frame failed and is awaited again (R238)
  rxFails : Nat  -- failures in a row of the same frame (R240)
  accV0 : Nat  -- cells accepted of each kind, modulo 256
  accV1 : Nat
  accM : Nat
  accS : Nat  -- stream cells accepted, modulo 65,536
  buf0 : Nat  -- receive buffer cells in use (R247)
  buf1 : Nat
  rx0 : List Flit  -- flits of a packet still arriving on VC0
  rx1 : List Flit  -- and on VC1
  over0 : Nat  -- of these, cells beyond the credit (R248)
  over1 : Nat
  rxMsg : List (Nat × Flit)  -- messages accepted and not yet handled, with the stamp of their frame
  qrx : List Flit  -- lead-link receive queue of 256 flits (R249)
  fwd : List Forward  -- forwarded requests outstanding, up to 64 (R246)
  fwdWait : List Packet  -- requests that wait for one of these 64 places
  sysId : Option W64  -- SYS_ID of the last ALIGN_ID
  peerN0 : Option (W64 × Nat)  -- N0 and EPOCH of the last ALIGN_N0
  aligning : Bool  -- ALIGN_ID and ALIGN_N0 go out once per frame (R251)
  strides : List (Nat × Nat)  -- progress counts at the last 16 STRIDE strides (R253)
  early : List (Nat × Nat)  -- counts received for strides that the chip has yet to reach (R254)
  earliest : Nat  -- block time of the earliest lane at link-up (R241)
  wantFw : Bool  -- firmware commanded that change (R225)
  want : Option Nat  -- width code that takes effect at the next frame start (R245)
  timeIn : List (Nat × Flit)  -- TIME messages delivered to Groom 1, with their receive stamps
  fwIn : List Flit  -- FW messages delivered to Groom 1
deriving DecidableEq, Repr

/-- The reset value of `Link`. -/
def Link.reset : Link where
  txStatic := []
  txMsg := []
  tx0 := []
  tx1 := []
  cur0 := []
  cur1 := []
  going0 := none
  going1 := none
  turn1 := false
  fseq := 0
  kept := []
  resend := none
  lastCrc := 0
  outHeads := []
  outCells := []
  outFill := false
  subLeft := 0
  subPos := 0
  sentV0 := 0
  sentV1 := 0
  sentM := 0
  peerV0 := 0
  peerV1 := 0
  peerM := 0
  peerS := 0
  rxLast := 255
  rxHeld := none
  heldAt := 0
  rxFail := false
  rxFails := 0
  accV0 := 0
  accV1 := 0
  accM := 0
  accS := 0
  buf0 := 0
  buf1 := 0
  rx0 := []
  rx1 := []
  over0 := 0
  over1 := 0
  rxMsg := []
  qrx := []
  fwd := []
  fwdWait := []
  sysId := none
  peerN0 := none
  aligning := false
  strides := []
  early := []
  earliest := 0
  wantFw := false
  want := none
  timeIn := []
  fwIn := []

/-! ### GDDR6 channels and gateways (chapter 10) -/

/-- A dynamic request at a gateway: a packet's words or a capture burst (R268, R282). -/
structure DynReq where
  seq : Nat            -- place in the order of arrival at the channel
  pkt : Option Packet  -- the request; none for one of the host port, a capture burst or a trace block
  host : Option (Nat × Nat)  -- the transfer of the host port that it belongs to, and its place in that transfer (R363)
  addr : Nat           -- channel byte address of the next byte to move
  left : Nat           -- bytes still to move
  write : Bool
  data : List Byte     -- bytes still to write
  got : List Byte      -- bytes read so far
  cap : Bool           -- a burst to a window of the capture kind (R282 rule 5)
  aged : Bool          -- it has waited 4 us (R282 rule 1)
  bad : Bool           -- one of its bursts ended with DATA_ERROR
deriving DecidableEq, Repr

/-- A burst on its way to or from the device, until its EDC CRC is checked (R285). -/
structure Burst where
  addr : Nat                 -- channel byte address
  len : Nat
  write : Bool
  got : List Byte            -- bytes read
  sched : Option Flit        -- the scheduled request
  dyn : Option DynReq        -- or the dynamic request, after this burst
deriving DecidableEq, Repr

/-- The state of one channel and its gateway that no register holds. -/
structure Channel where
  seq : Nat  -- requests accepted so far, for rule 3 of R282
  sq : List (Nat × Flit)  -- scheduled queue of 64: place in the order and payload (R278)
  dyn : List DynReq  -- dynamic requests waiting, oldest first
  flight : List Burst  -- bursts whose CRC is not checked yet, oldest first
  rsp : List Packet  -- responses not yet sent (R280)
  consec : Nat  -- scheduled bursts since the last dynamic one (R282 rule 4)
  rows : List (Nat × Option Nat)  -- open row by bank
  owed : List Nat  -- banks owed a refresh, longest first (R283)
  force : Bool  -- the next refresh is forced, ahead of every request (R283)
  nextBank : Nat  -- the bank that the next refresh interval owes
  bursts : Nat  -- bursts of this window of 4,096 (R294)
  closed : List (Option Nat)  -- windows that have ended and are not reported yet, each with its hot bank
  perBank : List (Nat × Nat)  -- and by bank
  alerts : Nat  -- consecutive command-address parity alerts (R286)
  retry : List Nat  -- command retry buffer: addresses of the last 64 commands (R286)
  pauseDue : Bool  -- a PAUSE write waits for the stride boundary (R291)
  pausing : Bool  -- PAUSE has taken effect and the bursts issued are completing (R291)
  trainOp : Nat  -- measurement step in progress (R289)
  probeAt : List (Nat × Nat)  -- trace records stored, by probe (R155)
deriving DecidableEq, Repr

/-- The reset value of `Channel`. -/
def Channel.reset : Channel where
  seq := 0
  sq := []
  dyn := []
  flight := []
  rsp := []
  consec := 0
  rows := []
  owed := []
  force := false
  nextBank := 0
  bursts := 0
  closed := []
  perBank := []
  alerts := 0
  retry := []
  pauseDue := false
  pausing := false
  trainOp := 0
  probeAt := []

/-! ### Trigger and capture (chapter 11) -/

/-- A capture record whose samples have all arrived (R304). -/
structure CapRec where
  stride : Nat
  trig : Bool
  forced : Bool
  pats : Nat          -- patterns matched, bit p
  now : Nat           -- DS_NOW of the stride
  taps : List (BitVec 96)
deriving DecidableEq, Repr

/-- The state of the capture engine and the trigger unit that no register holds. -/
structure Capture where
  taps : List (Nat × BitVec 96)  -- the last sample of each Team that the rings delivered (R299)
  decided : Option Nat  -- the last stride whose trigger decision was made
  lastA : Option Nat  -- the last armed stride in which pattern A matched (R301)
  force : Bool  -- a FORCE write waits for the next trigger decision (R301)
  stop : Bool  -- a STOP write waits for the next record (R309)
  ready : List CapRec  -- complete records, oldest first
  staging : List (Nat × DynReq)  -- 32-byte bursts not yet written: the channel and the request (R308)
  ending : Option (Nat × Nat)  -- the state entered once the staging buffer is written, and its last stride (R306, R308)
  seq : Nat  -- records stored since arming (R304)
  postLeft : Nat  -- records still to follow in POST (R306)
  region : Option Nat  -- handle of the capture region (R303)
deriving DecidableEq, Repr

/-- The reset value of `Capture`. -/
def Capture.reset : Capture where
  taps := []
  decided := none
  lastA := none
  force := false
  stop := false
  ready := []
  staging := []
  ending := none
  seq := 0
  postLeft := 0
  region := none

/-! ### Hitch fabric (chapter 12) -/

/-- A token that the token port holds (R327). -/
structure PortTok where
  task : Nat
  opnd : Nat
  data : W24
deriving DecidableEq, Repr

/-- A stream cell: stream, NBYTES - 1, data (R235, R328). -/
structure SCell where
  stream : Nat
  nb : Nat
  data : BitVec 112
deriving DecidableEq, Repr

/-- The state of one regional clock tree (R322, R323). -/
structure TreeSt where
  sel : Nat       -- the source in force
  last0 : Bool    -- levels of the two sources
  last1 : Bool
  inp : Bool      -- level that enters the divider
  cnt : Nat       -- input periods of this output period
  div : Nat       -- divider in force; 0 before the first rising edge
deriving DecidableEq, Repr

/-- A tree that has not run. -/
def TreeSt.reset : TreeSt := ⟨0, false, false, false, 0, 0⟩

/-- The state of the Hitch fabric that no register holds.  Configuration memory is not mapped (R338). -/
structure Hitch where
  cells : List (Nat × Word)  -- cell words (R314)
  conns : List (Nat × List (Nat × Option Nat))  -- sources of each sink wire, with the enable of a tri-state driver (R317, R318)
  pins : List (Nat × Word)  -- pin words (R329)
  q : List (Nat × Bool)  -- flip-flop outputs, by cell (R313, R334)
  o : List (Nat × Bool)  -- look-up table outputs, by cell (R315)
  ram : List (Nat × Option Bool)  -- RAM bits, by 32 * cell + word, once written (R315)
  ramGen : Nat  -- generation of the undefined contents of the others
  clks : List (Nat × Bool)  -- level at each clock sink, by wire ID
  pads : BitVec 256  -- levels that the outside gives the pins
  drv : List (Nat × Option Bool)  -- level that the device drives on each pin; none for high impedance
  pinIn : List (Nat × Bool)  -- captured IN wires, by 4 * pin + i (R329, R330)
  pinOut : List (Nat × Bool)  -- captured OUT wires, by 4 * pin + i
  fcnt : List (Nat × Nat)  -- VCO periods of this period of each FCLK (R321)
  fdiv : List (Nat × Nat)  -- its divider in force; 0 while it is off
  tree : List (Nat × TreeSt)  -- regional clock trees (R322)
  hin : List (Nat × Nat)  -- HIN map: key 32 * Team + bit, value 1 + input signal (R324)
  hout : List (Nat × Nat)  -- HOUT map: key output signal, value 1 + 32 * Team + bit (R324)
  off : List Nat  -- long lines whose drivers the contention monitor has disabled (R319)
  hpi : BitVec 1536  -- HPI_HELD (R326)
  hpo : BitVec 1536  -- HPO wires (R325)
  hpStride : Nat  -- HP_STRIDE
  outTgl : Bool  -- HP_OUT_TGL
  inTgl : Bool  -- HP_IN_TGL
  outSet : BitVec 1536  -- output set in assembly (R111)
  ready : Option (Nat × BitVec 1536)  -- output set received and not shown: stride, values (R325)
  toks : List PortTok  -- token port, up to 16 (R327)
  rx : List (Nat × List SCell)  -- receive stream ports, by elastic link (R328)
  tx : List (Nat × List SCell)  -- transmit stream ports, by elastic link (R328)
  trees : List (Nat × Nat)  -- trees that switch: 1 until the old source falls, 2 until the new one does (R323)
  extest : Bool  -- EXTEST holds the pins (R337)
  bscan : BitVec 256  -- the boundary output cells of the pins (R537)
  bscanOe : BitVec 256  -- their boundary output-enable cells (R537)
  rail : List (Nat × Nat)  -- VDDIO_HT of each bank in mV (R331)
deriving DecidableEq, Repr

/-- The reset value of `Hitch`. -/
def Hitch.reset : Hitch where
  cells := []
  conns := []
  pins := []
  q := []
  o := []
  ram := []
  ramGen := 0
  clks := []
  pads := 0
  drv := []
  pinIn := []
  pinOut := []
  fcnt := []
  fdiv := []
  tree := []
  hin := []
  hout := []
  off := []
  hpi := 0
  hpo := 0
  hpStride := 0
  outTgl := false
  inTgl := false
  outSet := 0
  ready := none
  toks := []
  rx := []
  tx := []
  trees := []
  extest := false
  bscan := 0
  bscanOe := 0
  rail := []

/-! ### Time Base and time port (chapter 13) -/

/-- A stamp (R339, R345). -/
structure Stamp where
  sec : Nat  -- seconds, 48 bits
  ns : Nat  -- nanoseconds below 10^9
  frac : Nat  -- units of 2^-24 ns
deriving DecidableEq, Repr

/-- The reset value of `Stamp`. -/
def Stamp.reset : Stamp where
  sec := 0
  ns := 0
  frac := 0

/-- An entry of the transmit stamp queue (R348). -/
structure TxStamp where
  src : Nat
  id : Nat
  at_ : Stamp
deriving DecidableEq, Repr

/-- The state of the Time Base and the time port that no register holds. -/
structure TimeBase where
  now : Stamp  -- the value after the last update
  adj : Option Int  -- pending offset in ns (R341)
  set : Option Stamp  -- pending load (R341)
  incPend : Bool  -- a new INC waits for the next update (R341)
  past : List (Stamp × Nat)  -- the values after the last updates and the INC of each, newest first, for stamps (R345)
  irqs : List (Nat × Nat)  -- interrupts raised to Groom 1, counted by compare unit (R350)
  txq : List TxStamp  -- transmit stamp queue, oldest first, up to 16 (R348)
  owner : List (Nat × Nat)  -- compare units allocated to the host: 1, with NOTIFY 2 (R352)
  goOrder : List Nat  -- transmit buffers with GO set, in order (R355)
  nextRx : Nat  -- next receive buffer in ring order (R356)
  buf : List (Nat × Byte)  -- contents of the buffers by block offset, 0x4000 to 0xFFFF
  sent : List Byte  -- the frame sent last, from its preamble to its FCS (the model's own record)
  line : List RxBlock  -- its blocks as they left the time port (the model's own record)
deriving DecidableEq, Repr

/-- The reset value of `TimeBase`. -/
def TimeBase.reset : TimeBase where
  now := Stamp.reset
  adj := none
  set := none
  incPend := false
  past := []
  irqs := []
  txq := []
  owner := []
  goOrder := []
  nextRx := 0
  buf := []
  sent := []
  line := []

/-! ### GDDR6 regions (R273) -/

/-- A region of Groom 2's allocation table. -/
structure Region where
  handle : Nat
  kind : Nat       -- window kind
  n : Nat          -- channels: 1, 2, 4, 8 or 16
  c0 : Nat         -- first channel
  base : Nat       -- first 64 MiB unit of its window in each channel
  units : Nat      -- units in each channel
  host : Bool      -- held by the host
deriving DecidableEq, Repr

/-! ### Groom trace (chapter 19) and the Secure Store (chapter 20) -/

/-- The trace of one Groom. -/
structure Tracer where
  atoms : List Bool  -- pending atoms, oldest first (R487)
  now : Nat  -- Groom cycles since the reference cycle (R488)
  last : Nat  -- of these, up to the last pending atom
  lastAt : Stamp  -- the Time Base at the last pending atom (R489)
  lost : Bool  -- the count is lost: a DROP, a sleep or a restart since the reference cycle (R489)
  since : Nat  -- bytes of the stream after the last SYNC (R490)
  asleep : Bool  -- it waits for an interrupt (R491)
  dropping : Bool  -- it drops packets (R493)
  dropped : Nat  -- bytes discarded since it began to drop
  blk : List Byte  -- payload of the block in assembly (R494)
  blkSync : Bool  -- SYNC of that block
deriving DecidableEq, Repr

/-- The reset value of `Tracer`. -/
def Tracer.reset : Tracer where
  atoms := []
  now := 0
  last := 0
  lastAt := Stamp.reset
  lost := false
  since := 0
  asleep := false
  dropping := false
  dropped := 0
  blk := []
  blkSync := false

/-- The trace unit. -/
structure Trace where
  gr : List (Nat × Tracer)  -- by Groom
  fifo : List (Nat × List Byte)  -- packets in the FIFO, with their Groom (R493)
  buf : List (Nat × BitVec 256)  -- the on-chip trace buffer, by block
  stopped : Bool  -- the sink stopped full (R494)
deriving DecidableEq, Repr

/-- The reset value of `Trace`. -/
def Trace.reset : Trace where
  gr := []
  fifo := []
  buf := []
  stopped := false

/-- The Secure Store and the secrets of Groom 0 (R500, R510). -/
structure Secure where
  rootKey : BitVec 776  -- firmware root key, 97 bytes
  slots : List (Nat × BitVec 256)  -- image keys
  nonce : W64  -- RET_NONCE
deriving DecidableEq, Repr

/-- The reset value of `Secure`. -/
def Secure.reset : Secure where
  rootKey := 0
  slots := []
  nonce := 0

/-! ### The Saddlebag's requests, events and mailboxes (chapters 14, 15 and 18) -/

/-- A requested Saddlebag record: source, class, code and ARG (R474, R475). -/
structure SbReq where
  src : Nat
  sev : Nat
  code : Nat
  arg : BitVec 48
  last : Bool         -- the freezing record (R479)
deriving DecidableEq, Repr

/-- The state of the Saddlebag that no register holds (R474 to R482). -/
structure Saddle where
  ring : List (Nat × BitVec 128)   -- records by index
  reqs : List SbReq                -- requested records not yet written, oldest first
  unfrozen : Option Nat            -- an UNFROZEN record comes next, with SB_DROP.DROPPED at the release
  inSecond : List (Nat × Nat)      -- SEV 0 to 2 records of this second, by Groom (R478)
  held : List (Nat × Nat)          -- suppressed records of this second, by Groom (R478)
  araDone : Bool                   -- ALERT_N released since the last cause bit set (R473)
  smbIndex : Nat                   -- the SMBus record index (R481)
  smbAddr : Option Nat             -- the assigned SMBus address (R481)
  jtagIndex : Nat                  -- the index of SBACC (R482)
  qcause : Nat                     -- QCAUSE, kept in the always-on domain (R481)
deriving DecidableEq, Repr

def Saddle.reset : Saddle where
  ring := []
  reqs := []
  unfrozen := none
  inSecond := []
  held := []
  araDone := false
  smbIndex := 0
  smbAddr := none
  jtagIndex := 0
  qcause := 0

/-- A queued event: code, result bytes used, RESULT as a number with byte 16 lowest (R374, R418). -/
structure Event where
  code : Nat
  len : Nat
  result : Nat
deriving DecidableEq, Repr

/-- A command that a Groom has taken and not yet answered (R372). -/
structure Taken where
  desc : BitVec 512
  started : Bool
  mute : Bool                      -- its response is discarded (R380, R382)
  note : Nat                       -- what its completion needs besides the descriptor
  late : Bool                      -- its work completes in the Groom cycle in which its deadline expires (R376)
  cut : Bool                       -- a reset of the endpoint has abandoned its host-memory transfers (R382)
deriving DecidableEq, Repr

/-- The state of a mailbox that no register holds (R369 to R381). -/
structure Mailbox where
  cmd : List (Nat × BitVec 512)    -- command slots
  rsp : List (Nat × BitVec 512)    -- response slots
  taken : List Taken               -- commands taken and not answered, in ring order
  events : List Event              -- event queue of 256 (R377)
  evtLost : Bool                   -- the next event carries EVT_LOST
  vectors : List (Nat × Nat)       -- event code to vector (R418), 0 for none
  restarting : Bool                -- the serving Groom is restarting (R381)
deriving DecidableEq, Repr

def Mailbox.reset : Mailbox where
  cmd := []
  rsp := []
  taken := []
  events := []
  evtLost := false
  vectors := []
  restarting := false

/-- A transfer of the host port with the channels: a BAR2 read or a MEM_COPY (R363, R412). -/
structure HostTx where
  id : Nat
  copy : Bool
  size : Nat
  got : List (Nat × List Byte)     -- bytes read, each run with its place
  left : Nat                       -- requests not answered yet
  masked : List Nat                -- places whose byte reads 0 (R6)
  failed : Bool                    -- a burst failed its four reissues
deriving DecidableEq, Repr

/-- The PCI Express endpoint's state outside BAR0's registers (R358 to R360, R384). -/
structure Pcie where
  busMaster : Bool
  msixEnable : Bool
  linkUp : Bool
  msix : List (Nat × BitVec 32)    -- MSI-X table words by byte offset (R362)
  pba : BitVec 64                  -- pending bits
  bar2En : Bool                    -- BAR2 implemented (boot header)
  viewIs : Bool                    -- BAR4 shows the Instruction Store view (R365)
  fnMask : Bool                    -- MSI-X function mask
  ltssm : Bool                     -- link training is enabled (R426)
  d3 : Bool                        -- the power state is D3hot (R358)
  cfg : List (Nat × BitVec 32)     -- the other bits of the configuration space that the host writes (R358, R360)
  retry : Bool                     -- configuration requests get Retry Status (R426)
  ssvid : Nat                      -- Subsystem Vendor ID and Subsystem ID (R358)
  ssid : Nat
  sent : List (W64 × Word)         -- MSI-X messages sent, newest first (the model's own record)
  wrote : List (W64 × List Byte)   -- host memory written, newest first (the model's own record)
  txs : List HostTx                -- transfers of the host port under way, oldest first
  txSeq : Nat                      -- the number of the next one; 0 stands for the writes of BAR2
deriving DecidableEq, Repr

def Pcie.reset : Pcie where
  busMaster := false
  msixEnable := false
  linkUp := false
  msix := []
  pba := 0
  bar2En := true
  viewIs := false
  fnMask := false
  ltssm := false
  d3 := false
  cfg := []
  retry := false
  ssvid := 0x1FC6
  ssid := 0
  sent := []
  wrote := []
  txs := []
  txSeq := 1

/-! ### Chip-wide state -/

/-- The fuses: grade (true: JFC3-768), serial, stepping, usable rows, lifecycle, anti-rollback version, keys. -/
structure Fuses where
  small : Bool
  serial : W64
  stepping : Nat
  rows : BitVec 34
  lifecycle : Nat
  minVersion : Nat
  rootKey : BitVec 776             -- the fuses' copy of the firmware root key (R502)
  kek : BitVec 256                 -- the key-encryption key (R508)
deriving DecidableEq, Repr

def Fuses.reset : Fuses where
  small := false
  serial := 0
  stepping := 0
  rows := BitVec.allOnes 34
  lifecycle := 0
  minVersion := 0
  rootKey := 0
  kek := 0

/-- Where a probe in TRACE mode writes its records (R155, R416). -/
structure Probe where
  region : Nat       -- handle of its region
  base : Nat         -- device address of its first byte
  k : Nat            -- log2 of the number of its channels (R272)
  size : Nat         -- its size in bytes
  next : Nat         -- offset of the next record
deriving DecidableEq, Repr

/-- The loaded image, as the loader keeps it (chapter 7). -/
structure Image where
  id : W64
  sys : W64
  part : Nat
  npart : Nat
  seed : Word
  hasMask : Bool                   -- it carries STATE_MASK (R208)
  teams : List Nat                 -- Teams that it uses
  links : List Nat                 -- lead links that it uses
  gws : List Nat                   -- gateways that it uses
  moved : List (Nat × Nat)         -- segments that R195 moved: 2^15 * Team + preferred base, size in words
  regions : List (Nat × Nat)       -- its REGION numbers and the handles of their design regions
deriving DecidableEq, Repr

/-- Chip-wide state that no register holds. -/
structure Chip where
  rowMap : List Nat  -- physical row of each virtual row, from boot stage 5 (R16)
  strideLo : Word  -- staged low half of the stride number (R120)
  haltBkp : Bool  -- a breakpoint halt is in effect (R55)
  haltChk : Bool  -- a check halt is in effect (R204)
  halted : Bool  -- the always-on halt (R471)
  hinLatched : Bool  -- the Hitch input latch for the next stride has taken place (R113)
  runMode : Nat  -- MODE of the last RUN_START (R401)
  restored : Bool  -- SNAPSHOT mode after a restore (R422)
  image : Option Image  -- the verified image
  n0 : Option Nat  -- first stride of the run being started (R251)
  stepTo : Option Nat  -- hold stride of a STEP_STRIDES in progress (R403)
  inReset : Bool  -- RST_N or PWR_OK is low (R424)
  warm : Bool  -- a warm reset is in progress (R425)
  oldMode : Nat  -- the mode in which the warm reset began (R425)
  mark : Bool  -- STRIDE_MARK pulsed at the last boundary (R115)
  holdReason : Nat  -- REASON of the hold in effect (R255, R418)
  gdRate : Nat  -- GDDR6 RATE of the boot configuration (R427)
  holdPart : Nat  -- PART of the chip that originated it
  regions : List Region  -- the allocation table of Groom 2, which it keeps in GDDR6 (R273, R424)
  traceRegion : Option Nat  -- handle of the trace region (TRACE_CFG)
  drift : Nat  -- drift-compensation interval in seconds, 0 for off (DRIFT_CFG)
  fwVersion : Word  -- VERSION of the running firmware slot (R503)
  warmReq : Nat  -- a warm reset is asked for: its CAUSE (R397, R481)
  stopped : List Nat  -- blocks whose clock has stopped: a Team, 1024 the scheduler, 1025 + c GDDR6 (R521)
  disarmed : List Nat  -- crossings that wait to re-arm: 2^16 * CLASS + INDEX (R450)
  hot : Nat  -- samples in a row of 115 degrees or more, up to 3 (R460)
  cool : Option Nat  -- sample intervals for which TJ_MAX has stayed below the threshold (R458)
  aonNew : Nat  -- thermal samples until THERM_N and ALERT_N leave high impedance (R459)
  vddAon : Bool  -- VDD_AON is up
  wdt : List (Nat × Nat)  -- microseconds that the watchdog of each Groom has counted (R467)
  ceMinute : List (Nat × Nat)  -- corrections of this minute, by Team (R476)
  coldBoot : Bool  -- the boot in progress is a cold one (R426)
  jtagIr : Nat  -- JTAG instruction in force (R536)
  jtagDr : BitVec 144  -- its data register, as last captured (R482, R536)
  bootHdr : List Byte  -- the boot header that the boot ROM has read (R427)
deriving DecidableEq, Repr

/-- The reset value of `Chip`. -/
def Chip.reset : Chip where
  rowMap := []
  strideLo := 0
  haltBkp := false
  haltChk := false
  halted := false
  hinLatched := false
  runMode := 0
  restored := false
  image := none
  n0 := none
  stepTo := none
  inReset := false
  warm := false
  oldMode := 0
  mark := false
  holdReason := 0
  gdRate := 0
  holdPart := 0
  regions := []
  traceRegion := none
  drift := 0
  fwVersion := 0
  warmReq := 0
  stopped := []
  disarmed := []
  hot := 0
  cool := none
  aonNew := 0
  vddAon := true
  wdt := []
  ceMinute := []
  coldBoot := true
  jtagIr := 2
  jtagDr := 0
  bootHdr := []

/-! ### The whole block -/

/-- The state of the block. -/
structure State where
  regs : List (Nat × Word)  -- the register file of BAR0, by address (Machine/Regs.lean)
  latch : List (Nat × Word)  -- latched upper halves, by 2^24 * agent + address (R520)
  teams : List (Nat × Team)  -- Teams, by Team ID
  routers : List (Nat × Router)  -- routers, by Team ID
  chip : Chip
  fuses : Fuses
  ds : Sched
  cap : Capture
  lanes : List (Nat × Lane)  -- serial lanes
  tb : TimeBase
  chans : List (Nat × Channel)  -- GDDR6 channels 0 to 15 with their gateways
  ht : Hitch  -- the Hitch fabric
  hotRecord : Bool  -- a BANK_HOTSPOT record was written in this minute (R294)
  probes : List (Nat × Option Probe)  -- trace regions of the probes 0 to 7
  links : List (Nat × Link)  -- lead links 0 to 15, elastic links 16 to 19
  boxes : List (Nat × Mailbox)  -- mailboxes 0 to 3
  pcie : Pcie
  sb : Saddle
  trace : Trace  -- the Groom trace unit
  sec : Secure
  gddr : List Host.Cell  -- GDDR6 contents by device address D (R271)
  rdata : List Word  -- data that reads have returned since the last of them began (the model's own field)
  free : Nat  -- free values used so far (the model's own field)
  pending : List Instr  -- waiting commands, first in, first out
deriving DecidableEq, Repr

/-- The reset value of `State`. -/
def State.reset : State where
  regs := []
  latch := []
  teams := []
  routers := []
  chip := Chip.reset
  fuses := Fuses.reset
  ds := Sched.reset
  cap := Capture.reset
  lanes := []
  tb := TimeBase.reset
  chans := []
  ht := Hitch.reset
  hotRecord := false
  probes := []
  links := []
  boxes := []
  pcie := Pcie.reset
  sb := Saddle.reset
  trace := Trace.reset
  sec := Secure.reset
  gddr := []
  rdata := []
  free := 0
  pending := []

end Sys2Proof.Machine
end

