-- ==== Sys2Proof/Machine/Ops.lean ====
section
/-! DEFINITION. The named operations over the state: registers and their fields, one unit of an array of like units,
free values, GDDR6 bytes, and the modes. -/
namespace Sys2Proof.Machine

/-- What a meaning answers. -/
abbrev Out := Host.Outcome State Fault Refusal

/-! ### Registers -/

/-- The stored value of the register at an address. -/
def State.rd (s : State) (a : Nat) : Word := Tab.get regReset s.regs a

/-- The state with a register's stored value replaced. -/
def State.wr (s : State) (a : Nat) (v : Word) : State := { s with regs := Tab.set regReset s.regs a v }

/-- A word with bits `[hi:lo]` replaced. -/
def setBits (w : Word) (hi lo v : Nat) : Word :=
  BitVec.ofNat 32 (w.toNat - bits w.toNat hi lo * 2 ^ lo + v % 2 ^ (hi + 1 - lo) * 2 ^ lo)

/-- A field's value. -/
def State.get (s : State) (f : Fld) : Nat := bits (s.rd f.addr).toNat f.hi f.lo

/-- A one-bit field is 1. -/
def State.on (s : State) (f : Fld) : Bool := s.get f != 0

/-- The state with a field's value replaced. -/
def State.put (s : State) (f : Fld) (v : Nat) : State := s.wr f.addr (setBits (s.rd f.addr) f.hi f.lo v)

/-- A one-bit field set to 1. -/
def State.set1 (s : State) (f : Fld) : State := s.put f 1

/-- A one-bit field cleared. -/
def State.clr (s : State) (f : Fld) : State := s.put f 0

/-- A one-bit field set to 1 when `b` holds. -/
def State.set1If (s : State) (b : Bool) (f : Fld) : State := if b then s.set1 f else s

/-- A counter raised by `k`, stopping at the greatest value of its field (saturating counters). -/
def State.sat (s : State) (f : Fld) (k : Nat) : State := s.put f (satAdd (f.hi + 1 - f.lo) (s.get f) k)

/-- The number that a low and a high register hold together. -/
def State.pair (s : State) (lo hi : Nat) : Nat := (s.rd lo).toNat + 2 ^ 32 * (s.rd hi).toNat

/-- A low and a high register written together. -/
def State.putPair (s : State) (lo hi v : Nat) : State :=
  (s.wr lo (BitVec.ofNat 32 v)).wr hi (BitVec.ofNat 32 (v / 2 ^ 32))

/-- Every register from `a`, `n` of them `st` apart, back at its reset value. -/
def State.resetRegs (s : State) (a st : Nat) : Nat → State
  | 0 => s
  | n + 1 => (s.wr (a + st * n) (regReset (a + st * n))).resetRegs a st n

/-- Every stored register with an address that `keep` does not name, back at its reset value. -/
def State.dropRegs (s : State) (keep : Nat → Bool) : State :=
  { s with regs := s.regs.filter (fun p => keep p.1) }

/-! ### One unit of an array -/

def State.team (s : State) (t : Nat) : Team := Tab.get (fun _ => Team.reset) s.teams t

def State.setTeam (s : State) (t : Nat) (m : Team) : State :=
  { s with teams := Tab.set (fun _ => Team.reset) s.teams t m }

def State.onTeam (s : State) (t : Nat) (f : Team → Team) : State := s.setTeam t (f (s.team t))

def State.router (s : State) (t : Nat) : Router := Tab.get (fun _ => Router.reset) s.routers t

def State.setRouter (s : State) (t : Nat) (m : Router) : State :=
  { s with routers := Tab.set (fun _ => Router.reset) s.routers t m }

def State.onRouter (s : State) (t : Nat) (f : Router → Router) : State := s.setRouter t (f (s.router t))

def State.link (s : State) (n : Nat) : Link := Tab.get (fun _ => Link.reset) s.links n

def State.setLink (s : State) (n : Nat) (m : Link) : State :=
  { s with links := Tab.set (fun _ => Link.reset) s.links n m }

def State.onLink (s : State) (n : Nat) (f : Link → Link) : State := s.setLink n (f (s.link n))

def State.box (s : State) (m : Nat) : Mailbox := Tab.get (fun _ => Mailbox.reset) s.boxes m

def State.setBox (s : State) (m : Nat) (b : Mailbox) : State :=
  { s with boxes := Tab.set (fun _ => Mailbox.reset) s.boxes m b }

def State.onBox (s : State) (m : Nat) (f : Mailbox → Mailbox) : State := s.setBox m (f (s.box m))

def State.chan (s : State) (c : Nat) : Channel := Tab.get (fun _ => Channel.reset) s.chans c

def State.setChan (s : State) (c : Nat) (v : Channel) : State :=
  { s with chans := Tab.set (fun _ => Channel.reset) s.chans c v }

def State.onChan (s : State) (c : Nat) (f : Channel → Channel) : State := s.setChan c (f (s.chan c))

/-- An entry of a table of numbers, lists or values whose unlisted entries are the type's default. -/
def look {α : Type} [Inhabited α] (t : List (Nat × α)) (k : Nat) : α := Tab.get (fun _ => default) t k

/-- The table with one entry replaced. -/
def upd {α : Type} [Inhabited α] [DecidableEq α] (t : List (Nat × α)) (k : Nat) (v : α) : List (Nat × α) :=
  Tab.set (fun _ => default) t k v

/-- Do `f` for each number below `n`, the least first. -/
def State.each (s : State) (n : Nat) (f : Nat → State → State) : State := (List.range n).foldl (fun s i => f i s) s

/-- R450: the crossing of a CLASS and INDEX of R444 carries traffic: it does not wait to re-arm. -/
def State.armed (s : State) (cls idx : Nat) : Bool := !s.chip.disarmed.contains (2 ^ 16 * cls + idx)

/-! ### Free values -/

/-- The state after one free value has been used. -/
def State.spend (s : State) : State := { s with free := s.free + 1 }

/-- The state after `n` free values have been used. -/
def State.spendN (s : State) (n : Nat) : State := { s with free := s.free + n }

/-! ### GDDR6 contents, by device address D (R271) -/

/-- What a byte of GDDR6 that nothing has written reads as: 0 (DESIGN CHOICE: the spec gives no contents). -/
def gddrReset (_ : Nat) : Byte := 0

def State.mem (s : State) (d : Nat) : Byte := Tab.get gddrReset s.gddr d

def State.setMem (s : State) (d : Nat) (b : Byte) : State := { s with gddr := Tab.set gddrReset s.gddr d b }

/-- `n` bytes from device address `d`. -/
def State.memBytes (s : State) (d n : Nat) : List Byte := (List.range n).map (fun i => s.mem (d + i))

/-- Bytes written from device address `d` upwards. -/
def State.setMemBytes (s : State) (d : Nat) : List Byte → State
  | [] => s
  | b :: bs => (s.setMem d b).setMemBytes (d + 1) bs

/-! ### Grade, Teams and modes -/

/-- The number of Teams of the grade (R1). -/
def State.nTeams (s : State) : Nat := if s.fuses.small then 768 else 1024

/-- The number of mapped rows of the grade (R15). -/
def State.nRows (s : State) : Nat := if s.fuses.small then 24 else 32

/-- Mode codes (R391). -/
abbrev mIdle : Nat := 0
abbrev mWalk : Nat := 1
abbrev mLoad : Nat := 2
abbrev mRun : Nat := 3
abbrev mStep : Nat := 4
abbrev mCheck : Nat := 5
abbrev mSnapshot : Nat := 6
abbrev mQuarantine : Nat := 7

def State.mode (s : State) : Nat := s.get Reg.CHIP_MODE_MODE

/-- STEP at rest (R391). -/
def State.atRest (s : State) : Bool := s.mode == mStep && s.on Reg.CHIP_MODE_AT_REST

/-- A mode in which strides run: WALK, RUN, STEP and CHECK.  The always-on halt freezes the array (R471). -/
def State.strideMode (s : State) : Bool :=
  !s.chip.halted && (s.mode == mWalk || s.mode == mRun || s.mode == mStep || s.mode == mCheck)

/-- The chip's stride number (R19, R120). -/
def State.stride (s : State) : Nat := s.pair Adr.CHIP_STRIDE_LO Adr.CHIP_STRIDE_HI

/-- The lead links that the loaded image uses. -/
def State.usedLinks (s : State) : List Nat :=
  match s.chip.image with
  | some i => i.links
  | none => []

/-- The Teams that the loaded image uses. -/
def State.usedTeams (s : State) : List Nat :=
  match s.chip.image with
  | some i => i.teams
  | none => []

/-- The Teams that take part in strides: every Team of the chip that is powered (R112, R455). -/
def State.runTeams (s : State) : List Nat := (List.range s.nTeams).filter (fun t => s.get (Reg.TEAM_PWR_STATE t) == 1)

/-- A lead link is UP, with or without its spare. -/
def State.linkUp (s : State) (n : Nat) : Bool :=
  s.get (Reg.LD_LINK_STAT_STATE n) == 1 || s.get (Reg.LD_LINK_STAT_STATE n) == 2

/-- R471: a write by the host through BAR0 reaches no register in the always-on halt. -/
def State.unlessHalted (s : State) (f : State → State) : Out := .next (if s.chip.halted then s else f s)

/-- The meaning `f` of a command that names Team `t`.  Where the grade has no Team `t`, no unit is there to do anything: its
rows are not mapped and writes there are ignored (R15). -/
def onMapped (t : Nat) (s : State) (f : State → State) : Out :=
  .next (if t < s.nTeams then f s else s)

end Sys2Proof.Machine
end

