-- ==== Sys2Proof/Machine/Packet.lean ====
section
/-! DEFINITION. Dynamic packets (R139 to R144): their fields, completions, the grid and the dimension-order route, the
sites of attached blocks (R122), and the queue of packets that wait at a router's local injection points. -/
namespace Sys2Proof.Machine

/-- A word from (lowest bit, width, value) fields. -/
def packBits (l : List (Nat × Nat × Nat)) : Nat := l.foldl (fun n p => n + p.2.2 % 2 ^ p.2.1 * 2 ^ p.1) 0

/-! ### Fields of a packet -/

/-- Bits `[hi:lo]` of a head flit. -/
def hf (p : Packet) (hi lo : Nat) : Nat := bits p.head.toNat hi lo

/-- The header, head flit bits [119:96] (R139). -/
def pHeader (p : Packet) : Nat := hf p 119 96
def pDX (p : Packet) : Nat := hf p 100 96
def pDY (p : Packet) : Nat := hf p 105 101
def pTGT (p : Packet) : Nat := hf p 107 106
def pVC (p : Packet) : Nat := hf p 108 108
def pPRI (p : Packet) : Nat := hf p 109 109
def pLEN (p : Packet) : Nat := hf p 112 110
def pTYPE (p : Packet) : Nat := hf p 116 113
def pCLASS (p : Packet) : Nat := hf p 119 117
/-- The route-back word (R140). -/
def pSRC (p : Packet) : Nat := hf p 81 72
def pSTGT (p : Packet) : Nat := hf p 83 82
def pTAG (p : Packet) : Nat := hf p 91 84
def pSTATUS (p : Packet) : Nat := hf p 95 92
def pE2 (p : Packet) : Nat := hf p 71 48
def pE1 (p : Packet) : Nat := hf p 47 24
def pE0 (p : Packet) : Nat := hf p 23 0
/-- The 48-bit word address of a request. -/
def pAddr (p : Packet) : Nat := pE2 p * 2 ^ 24 + pE1 p
/-- The number of words N of a request (CTL, R140). -/
def pCount (p : Packet) : Nat := pE0 p % 16 + 1
def isReq (p : Packet) : Bool := pTYPE p == 0 || pTYPE p == 1
/-- RD_CPL, WR_ACK and ERR_CPL. -/
def isCpl (p : Packet) : Bool := pTYPE p == 2 || pTYPE p == 3 || pTYPE p == 4

/-- The 24-bit words of the body flits, lowest first (R140). -/
def bodyWords (p : Packet) : List W24 :=
  p.body.flatMap (fun f => (List.range 5).map (fun i => BitVec.ofNat 24 (f.toNat / 2 ^ (24 * i))))

/-- Body flits that hold words, five to a flit. -/
def toFlits : Nat → List W24 → List Flit
  | 0, _ => []
  | n + 1, ws =>
    if ws.isEmpty then []
    else BitVec.ofNat 120 ((ws.take 5).foldr (fun w n => n * 2 ^ 24 + w.toNat) 0) :: toFlits n (ws.drop 5)

/-- A packet from its fields. -/
def mkPacket (dest tgt type cls src stgt tag status e2 e1 e0 : Nat) (body : List Flit) : Packet :=
  { head := BitVec.ofNat 120 (packBits [(96, 5, dest % 32), (101, 5, dest / 32), (106, 2, tgt), (110, 3, body.length),
      (113, 4, type), (117, 3, cls), (72, 10, src), (82, 2, stgt), (84, 8, tag), (92, 4, status), (48, 24, e2),
      (24, 24, e1), (0, 24, e0)])
    body := body }

/-- R141: a completion of a request, from the router of Team `t`. -/
def complete (t : Nat) (r : Packet) (type status e1 e0 : Nat) (body : List Flit) : Packet :=
  mkPacket (pSRC r) (pSTGT r) type 7 t (pTGT r) (pTAG r) status (pE0 r) e1 e0 body

/-- The error completion of a request. -/
def errCpl (t : Nat) (r : Packet) (status : Nat) : Packet := complete t r 4 status 0 0 []

/-- The read completion that carries words, with its STATUS. -/
def readCpl (t : Nat) (r : Packet) (status : Nat) (ws : List W24) : Packet :=
  complete t r 2 status ((ws[0]?).getD 0).toNat ((ws[1]?).getD 0).toNat (toFlits 4 (ws.drop 2))

/-- The acknowledgement of a write. -/
def writeAck (t : Nat) (r : Packet) : Packet := complete t r 3 0 0 0 []

/-! ### The grid and the route -/

/-- The Team one hop away through port 0 north, 1 south, 2 east, 3 west (R121). -/
def State.nb (s : State) (t port : Nat) : Nat :=
  let x := t % 32
  let y := t / 32
  let r := s.nRows
  match port with
  | 0 => (y + r - 1) % r * 32 + x
  | 1 => (y + 1) % r * 32 + x
  | 2 => y * 32 + (x + 1) % 32
  | _ => y * 32 + (x + 31) % 32

/-- The port of the neighbour that faces a port. -/
def facing (port : Nat) : Nat :=
  match port with
  | 0 => 1
  | 1 => 0
  | 2 => 3
  | _ => 2

/-- R143: the output port of a packet at Team `t`: along X by the shorter way, then along Y; 4 at the destination. -/
def State.routePort (s : State) (t : Nat) (p : Packet) : Nat :=
  let dx := (pDX p + 32 - t % 32) % 32
  let r := s.nRows
  let dy := (pDY p % r + r - t / 32 % r) % r
  if dx ≠ 0 then (if dx ≤ 16 then 2 else 3)
  else if dy ≠ 0 then (if dy ≤ r / 2 then 1 else 0)
  else 4

/-- The hop through `port` from Team `t` crosses the dateline of its dimension (R144). -/
def State.dateline (s : State) (t port : Nat) : Bool :=
  match port with
  | 0 => t / 32 == 0
  | 1 => t / 32 == s.nRows - 1
  | 2 => t % 32 == 31
  | _ => t % 32 == 0

/-- R144: the virtual channel of the hop: VC1 on and after the dateline of the dimension, VC0 on entering one. -/
def State.outVC (s : State) (t inPort vc port : Nat) : Nat :=
  if s.dateline t port then 1
  else if inPort < 4 && (inPort / 2 == port / 2) then vc
  else 0

/-! ### Attached blocks (R122) -/

/-- The Team of the router that block `n` of RTR_SITE is attached to. -/
def State.site (s : State) (n : Nat) : Option Nat :=
  if s.on (Reg.RTR_SITE_VALID n) then some (s.get (Reg.RTR_SITE_Y n) * 32 + s.get (Reg.RTR_SITE_X n)) else none

/-- The block attached to the router of Team `t`: 0 to 15 gateway, 16 to 31 lead link, 32 to 35 management hub. -/
def State.attached (s : State) (t : Nat) : Option Nat := (List.range 36).find? (fun n => s.site n == some t)

/-- R148: a packet waits at the local injection points of the router of Team `t`. -/
def State.wait (s : State) (t : Nat) (p : Packet) : State := s.onRouter t (fun r => { r with inject := r.inject ++ [p] })

/-- A packet from attached block `n` waits at its site; an unattached block sends nothing. -/
def State.waitAt (s : State) (n : Nat) (p : Packet) : State :=
  match s.site n with
  | some t => s.wait t p
  | none => s

end Sys2Proof.Machine
end

