-- ==== Sys2Proof/Machine/Report.lean ====
section
/-! DEFINITION. Telling the host and the Saddlebag: interrupt causes and messages (R383, R384), events (R377, R418),
responses (R372, R374), requests for Saddlebag records (R475, R478), the class SPOILED (R464), alert causes (R473). -/
namespace Sys2Proof.Machine

/-! ### Interrupts -/

/-- The register and bit of vector v's cause. -/
def causeFld (v : Nat) : Fld :=
  if v < 32 then ⟨Adr.PE_INT_STAT_LO, v, v⟩ else ⟨Adr.PE_INT_STAT_HI, v - 32, v - 32⟩

/-- The register and bit of vector v's enable. -/
def enableFld (v : Nat) : Fld :=
  if v < 32 then ⟨Adr.PE_INT_EN_LO, v, v⟩ else ⟨Adr.PE_INT_EN_HI, v - 32, v - 32⟩

/-- A word of the MSI-X table (R362), by byte offset; every vector is masked after reset, as the PCI Express
specification lays down. -/
def msixReset (off : Nat) : Word := if off % 16 = 12 then 1 else 0

def State.msixWord (s : State) (off : Nat) : Word := Tab.get msixReset s.pcie.msix off

/-- Vector v is masked in the MSI-X table or by the function mask. -/
def State.masked (s : State) (v : Nat) : Bool := s.pcie.fnMask || (s.msixWord (16 * v + 12)).getLsbD 0

/-- R359: the function issues requests: Bus Master Enable is 1 and its power state is D0. -/
def State.mayMaster (s : State) : Bool := s.pcie.busMaster && !s.pcie.d3

/-- The message of vector v leaves the device. -/
def State.emitMsg (s : State) (v : Nat) : State :=
  { s with pcie := { s.pcie with
      sent := (s.msixWord (16 * v + 4) ++ s.msixWord (16 * v), s.msixWord (16 * v + 8)) :: s.pcie.sent } }

/-- R384: the message of vector v is sent, or its pending bit sets while it is masked.  No message in the always-on halt
(R471). -/
def State.sendMsg (s : State) (v : Nat) : State :=
  if s.on (enableFld v) && s.pcie.msixEnable && s.mayMaster && !s.chip.halted then
    if s.masked v then { s with pcie := { s.pcie with pba := s.pcie.pba ||| BitVec.ofNat 64 (2 ^ v) } }
    else s.emitMsg v
  else s

/-- R383, R384: cause bit v sets; going from 0 to 1 it sends the vector's message. -/
def State.raise (s : State) (v : Nat) : State :=
  if s.on (causeFld v) then s else (s.set1 (causeFld v)).sendMsg v

/-- A PE_ERR bit sets, the first since VALID was cleared is kept in PE_ERR_INFO, and vector 9 is raised (R383, R386).
`kind`: 0 WR_REFUSED, 1 UNALIGNED, 2 BAR2_REFUSED, 3 BAR4_ERR. -/
def State.peErr (s : State) (kind status loc : Nat) : State :=
  let f : Fld := ⟨Adr.PE_ERR, kind, kind⟩
  let s1 := if s.on Reg.PE_ERR_INFO_VALID then s
    else (((s.set1 Reg.PE_ERR_INFO_VALID).put Reg.PE_ERR_INFO_KIND kind).put Reg.PE_ERR_INFO_STATUS status).put
      Reg.PE_ERR_INFO_WHERE loc
  if s.on f then s1 else (s1.set1 f).raise 9

/-! ### Events -/

/-- A result of an event or a response from bytes at offsets from 16: (offset, count, value) triples. -/
def packBytes (l : List (Nat × Nat × Nat)) : Nat :=
  l.foldl (fun n p => n + p.2.2 % 256 ^ p.2.1 * 256 ^ (p.1 - 16)) 0

/-- R377: an event joins the event queue of its mailbox, or is lost when 256 events wait there. -/
def State.postEvent (s : State) (m : Nat) (e : Event) : State :=
  if (s.box m).events.length < 256 then s.onBox m (fun b => { b with events := b.events ++ [e] })
  else ((s.sat (Reg.MBX_EVTLOST_COUNT m) 1).set1 (Reg.MBX_STAT_EVT_LOST m)).onBox m (fun b => { b with evtLost := true })

/-! ### Saddlebag requests -/

/-- The freezing record has been requested or written (R479). -/
def State.sbClosed (s : State) : Bool := s.on Reg.SB_STAT_FROZEN || s.sb.reqs.any (·.last)

/-- R475: a record is requested; while the Saddlebag is frozen it is counted in DROPPED instead. -/
def State.request (s : State) (r : SbReq) : State :=
  if s.sbClosed then s.sat Reg.SB_DROP_DROPPED 1
  else { s with sb := { s.sb with reqs := s.sb.reqs ++ [r] } }

/-- The 48 ARG bits: bytes 10 and 11, then bytes 12 to 15. -/
def argOf (lo hi : Nat) : BitVec 48 := BitVec.ofNat 48 (lo % 65536 + 65536 * hi)

/-- A record by hardware (SRC 4), which is never suppressed (R478). -/
def State.hwRec (s : State) (sev code : Nat) (arg : BitVec 48) : State := s.request ⟨4, sev, code, arg, false⟩

/-- R478: a record by Groom g; beyond 64 records of SEV 0 to 2 in one second it is suppressed and counted. -/
def State.groomRec (s : State) (g sev code : Nat) (arg : BitVec 48) : State :=
  if sev ≤ 2 then
    if look s.sb.inSecond g < 64 then
      ({ s with sb := { s.sb with inSecond := upd s.sb.inSecond g (look s.sb.inSecond g + 1) } } : State).request
        ⟨g, sev, code, arg, false⟩
    else ({ s with sb := { s.sb with held := upd s.sb.held g (look s.sb.held g + 1) } } : State).sat
        Reg.SB_DROP_SUPPRESSED 1
  else s.request ⟨g, sev, code, arg, false⟩

/-- R473: an alert cause bit sets; ALERT_N goes low again when the bit was 0. -/
def State.alert (s : State) (c : Nat) : State :=
  let f : Fld := ⟨Adr.SB_ALERT_STAT, c, c⟩
  if s.on f then s else { s.set1 f with sb := { s.sb with araDone := false } }

/-- R473: ALERT_N is low: not while VDD_AON is down nor in the first 100 us after it rises. -/
def State.alertLow (s : State) : Bool :=
  s.get Reg.SB_ALERT_STAT_CAUSE &&& s.get Reg.SB_ALERT_EN_EN != 0 && !s.sb.araDone && s.chip.vddAon && s.chip.aonNew == 0

/-- R464: the first SPOILED fault after an image load is recorded in CHIP_SPOIL. -/
def State.spoil (s : State) (n : Nat) : State :=
  if s.on Reg.CHIP_SPOIL_CTL_VALID then s
  else (s.putPair Adr.CHIP_SPOIL_LO Adr.CHIP_SPOIL_HI n).set1 Reg.CHIP_SPOIL_CTL_VALID

/-! ### Responses and mode changes -/

/-- A response descriptor (R374). -/
structure Resp where
  status : Nat
  detail : Nat      -- bytes 10 to 15, byte 10 lowest
  len : Nat
  result : Nat      -- bytes 16 to 63, byte 16 lowest
deriving DecidableEq, Repr

/-- An OK response without results. -/
def okResp : Resp := ⟨0, 0, 0, 0⟩

/-- An error response with DETAIL bytes 10 and 11, 12 and 13, 14 and 15. -/
def errResp (status d10 d12 d14 : Nat) : Resp :=
  ⟨status, d10 % 65536 + 65536 * (d12 % 65536) + 2 ^ 32 * (d14 % 65536), 0, 0⟩

/-- An OK response with results. -/
def okWith (len result : Nat) : Resp := ⟨0, 0, len, result⟩

/-- The 64 bytes of a response or an event. -/
def respDesc (opcode tag flags : Nat) (r : Resp) : BitVec 512 :=
  BitVec.ofNat 512 (opcode % 65536 + 2 ^ 16 * (tag % 65536) + 2 ^ 32 * (r.len % 65536) + 2 ^ 48 * (flags % 65536)
    + 2 ^ 64 * (r.status % 65536) + 2 ^ 80 * (r.detail % 2 ^ 48) + 2 ^ 128 * (r.result % 2 ^ 384))

/-- The next response slot takes a descriptor, RSP_PI advances and vector m is raised (R370, R383). -/
def State.postSlot (s : State) (m : Nat) (d : BitVec 512) : State :=
  let i := s.get (Reg.MBX_RSP_PI_INDEX m)
  ((s.onBox m (fun b => { b with rsp := upd b.rsp (i % 64) d })).put (Reg.MBX_RSP_PI_INDEX m) ((i + 1) % 128)).raise m

/-- Bytes `[lo, lo + n)` of a descriptor as a number. -/
def fieldOf (d : BitVec 512) (lo n : Nat) : Nat := d.toNat / 256 ^ lo % 256 ^ n

/-- R372, R374: the response of a command is posted in the slot reserved for it; a muted command's is discarded, and one
whose work completed at its deadline carries LATE (R376). -/
def State.respond (s : State) (m : Nat) (c : Taken) (late : Bool) (r : Resp) : State :=
  if c.mute then s
  else s.postSlot m (respDesc (fieldOf c.desc 0 2) (fieldOf c.desc 2 2) (4 * ofBool (late || c.late)) r)

/-- The taken command at place `i` of mailbox m leaves the list with its response. -/
def State.finishAt (s : State) (m i : Nat) (r : Resp) : State :=
  match (s.box m).taken[i]? with
  | some c => (s.onBox m (fun b => { b with taken := b.taken.eraseIdx i })).respond m c false r
  | none => s

/-- The opcodes of Groom 3's long commands (R393). -/
def longOps : List Nat := [0x0201, 0x0204, 0x0301, 0x0302, 0x0304, 0x0306, 0x030A, 0x030B, 0x0801]

/-- Where the long command in progress stands in mailbox 3. -/
def State.longAt (s : State) : Option Nat :=
  (s.box 3).taken.findIdx? (fun c => c.started && longOps.contains (fieldOf c.desc 0 2))

/-- The long command in progress ends with a response (R392, R393). -/
def State.endLong (s : State) (r : Resp) : State :=
  match s.longAt with
  | some i => { s.finishAt 3 i r with chip := { s.chip with stepTo := none } }
  | none => s

/-- R54: BKP_EN is cleared in every Team. -/
def State.disarm (s : State) : State :=
  (List.range s.nTeams).foldl (fun s t => if s.on (Reg.TEAM_BP_CTL_BKP_EN t) then s.clr (Reg.TEAM_BP_CTL_BKP_EN t) else s) s

/-- A staging register where nothing is listed: 0, 1 BP words 0, 1; 2, 3 WU words 0, 1. -/
def stageDef (gen k : Nat) : W24 := if gen = 0 then 0 else Config.freeStage gen k

/-- The staging registers cleared (R35). -/
def Team.clearStage (m : Team) : Team :=
  { m with stage := (List.range 4).foldl (fun l k => Tab.set (stageDef m.gen) l k 0) m.stage }

/-- R365: on leaving IDLE, BAR4 returns to the design-memory view and every staging register clears. -/
def State.leaveIdle (s : State) : State :=
  s.teams.foldl (fun s p => s.onTeam p.1 Team.clearStage) { s with pcie := { s.pcie with viewIs := false } }

/-- R54, R337, R423, R476: a mode change shows in CHIP_MODE, then posts MODE_CHANGE and requests its record. -/
def State.setMode (s : State) (m : Nat) : State :=
  let old := s.mode
  if old = m then s
  else
    let s0 := if old = mStep then s.disarm else s
    let s1 : State := if s0.ht.extest && m != mIdle && m != mQuarantine then { s0 with ht := { s0.ht with extest := false } } else s0
    let s2 := if old = mIdle then s1.leaveIdle else s1
    ((s2.put Reg.CHIP_MODE_MODE m).groomRec 3 0 0x01 (argOf (old + 256 * m) s.stride)).postEvent 3
      ⟨0x0001, 16, packBytes [(16, 1, old), (17, 1, m), (24, 8, s.stride)]⟩

end Sys2Proof.Machine
end

