-- ==== Sys2Proof/Machine/Capture.lean ====
section
/-! DEFINITION. The trigger and capture engine (chapter 11). -/
namespace Sys2Proof.Machine

/-! ### Channel states (R295) -/

abbrev gOff : Nat := 0
abbrev gTrain : Nat := 1
abbrev gReady : Nat := 2
abbrev gPaused : Nat := 3
abbrev gSref : Nat := 4
abbrev gDisabled : Nat := 5
abbrev gFailed : Nat := 6

def State.chanState (s : State) (c : Nat) : Nat := s.get (Reg.GD_CH_STAT_STATE c)
def State.setChanState (s : State) (c st : Nat) : State := s.put (Reg.GD_CH_STAT_STATE c) st

/-- Capture states (R305). -/
abbrev cIdle : Nat := 0
abbrev cArmed : Nat := 1
abbrev cPost : Nat := 2
abbrev cDone : Nat := 3
abbrev cOvf : Nat := 4
abbrev cStopped : Nat := 5
abbrev cDisabled : Nat := 6

def State.capState (s : State) : Nat := s.get Reg.CAP_STAT_STATE

/-- The Teams whose bit is 1 in CAP_SEL, ascending; bits above the grade are ignored (R298). -/
def State.capTeams (s : State) : List Nat :=
  (List.range s.nTeams).filter (fun t => (s.rd (Adr.CAP_SEL (t / 32))).getLsbD (t % 32))

/-- R303: the record size in bytes for NSEL Teams. -/
def recSize (nsel : Nat) : Nat := 256 * ((32 + 12 * nsel + 255) / 256)

/-- XOR of the `k`-bit groups of `x` (R272); `fuel` bounds the number of groups. -/
def foldBits (k : Nat) : Nat → Nat → Nat
  | 0, _ => 0
  | fuel + 1, x => x % 2 ^ k ^^^ foldBits k fuel (x / 2 ^ k)

/-- R272: the device address of offset `o` of an interleaved region over 2^k channels from `c0`, whose window starts at
channel byte address `base`. -/
def interleave (c0 k base o : Nat) : Nat :=
  let c := c0 + (bits o (7 + k) 8 ^^^ foldBits k 36 (o / 2 ^ (8 + k)))
  2 ^ 32 * c + (base + o / 2 ^ (8 + k) * 256 + o % 256)

/-- The device address of offset `o` of the capture region (CAP_RGN): BASE holds gateway word address bits [29:24]. -/
def State.capAddr (s : State) (o : Nat) : Nat :=
  interleave (s.get Reg.CAP_RGN_C0) (s.get Reg.CAP_RGN_LOG2N + 1) (s.get Reg.CAP_RGN_BASE * 2 ^ 26) o

/-- The tap sample of a global tap word w (R298). -/
def State.tapWord (s : State) (w : Nat) : Nat :=
  let t := w / 4
  if t < s.nTeams then bits (Tab.get (fun _ => 0) s.cap.taps t).toNat (24 * (w % 4) + 23) (24 * (w % 4)) else 0

/-- R300: pattern p matches the samples of the stride that is complete. -/
def State.patMatch (s : State) (p : Nat) : Bool :=
  (List.range 64).all (fun i =>
    let care := (s.rd (Adr.CAP_CARE p i)).toNat % 2 ^ 24
    let w := s.get (Reg.CAP_TWSEL_WORD i)
    w / 4 ≥ s.nTeams || s.tapWord w &&& care == (s.rd (Adr.CAP_VAL p i)).toNat % 2 ^ 24 &&& care)

/-- Every pattern that is enabled and matches, bit p (R300). -/
def State.patMask (s : State) : Nat :=
  ((List.range 4).filter (fun p => bit (s.get Reg.CAP_TRIG_CTL_PEN) p && s.patMatch p)).foldl (fun n p => n + 2 ^ p) 0

/-- SEQ_N, of which 0 acts as 1. -/
def State.seqN (s : State) : Nat := max 1 (s.get Reg.CAP_SEQ_N_N)

/-- R301: the trigger fires at stride n under the mode, with the patterns of `mask`. -/
def State.fires (s : State) (n mask : Nat) : Bool :=
  if s.get Reg.CAP_TRIG_CTL_MODE = 0 then mask != 0
  else
    let a := s.get Reg.CAP_TRIG_CTL_SEQ_A
    let b := s.get Reg.CAP_TRIG_CTL_SEQ_B
    bit (s.get Reg.CAP_TRIG_CTL_PEN) a && bit mask b &&
      match s.cap.lastA with
      | some m => decide (m < n ∧ n - m ≤ s.seqN)
      | none => false

/-- The state that the trigger unit sees: a record that carries the trigger and is not stored yet has begun POST; capture that writes
its last records takes none. -/
def State.trigState (s : State) : Nat :=
  match s.cap.ending with
  | some e => e.1
  | none => if s.capState = cArmed ∧ s.cap.ready.any (·.trig) then cPost else s.capState

/-- R299, R301, R305: the samples of stride n are all there: the trigger unit decides, and the record of the stride is
complete when capture runs.  A FORCE write fires here. -/
def State.decideTrigger (s : State) (n : Nat) (now : Nat) : State :=
  let st := s.trigState
  let live := st == cPost || (st == cArmed && decide (s.pair Adr.CAP_START_LO Adr.CAP_START_HI ≤ n))
  let mask := s.patMask
  let forced := st == cArmed && s.cap.force
  let fire := st == cArmed && ((live && s.fires n mask) || forced)
  let r : CapRec := ⟨n, fire, forced, mask, now, s.capTeams.map (fun t => Tab.get (fun _ => 0) s.cap.taps t)⟩
  { s with cap := { s.cap with
      decided := some n
      force := if st == cArmed then false else s.cap.force
      lastA := if live && bit mask (s.get Reg.CAP_TRIG_CTL_SEQ_A) then some n else s.cap.lastA
      ready := if live || forced then s.cap.ready ++ [r] else s.cap.ready } }

/-- No Team of the run has a sample of stride n, or of one before it, on its ring. -/
def State.tapsIn (s : State) (n : Nat) : Bool := s.runTeams.all (fun t => (s.team t).ring.all (fun p => decide (n < p.1)))

/-- The sample of stride n may be delivered: the chip has completed the boundary at which it was taken, and every sample of an earlier
stride is there (R299 delivers each within 64 cycles and a stride has at least 64 steps: DEDUCED). -/
def State.tapReady (s : State) (n : Nat) : Bool :=
  decide (n < s.stride) && s.runTeams.all (fun t => (s.team t).ring.all (fun p => decide (n ≤ p.1)))

/-- DS_NOW of a stride (R304). -/
def State.nowOf (s : State) (n : Nat) : Nat := Tab.get (fun _ => 0) s.ds.nows (n % 4)

/-- R299: the tap ring delivers the oldest sample of Team `t`, after the chip has completed the boundary at which it was taken.
The Domain Scheduler takes the ENABLE bits of gated domains from it (R165); the last sample of the stride is the
moment of the trigger decision. -/
def State.tapArrival (t : Nat) (s : State) : State :=
  let m := s.team t
  match m.ring with
  | [] => s
  | (n, v) :: rest =>
   if s.tapReady n then
    let s1 := s.setTeam t { m with ring := rest }
    let doms := (List.range 64).filter (fun d => s.get (Reg.DS_DOM_CFG_TEAM d) == t)
    let samp := doms.foldl (fun l d => Tab.set (fun _ => 0) l (2 * d + n % 2)
      (2 * n + ofBool (v.getLsbD (s.get (Reg.DS_DOM_CFG_TAPBIT d))) + 1)) s.ds.samples
    let s2 : State := { s1 with cap := { s1.cap with taps := Tab.set (fun _ => 0) s1.cap.taps t v }
                                ds := { s1.ds with samples := samp } }
    if s2.tapsIn n && s2.cap.decided != some n then s2.decideTrigger n (s2.nowOf n) else s2
   else s

def execTapSampleArrival (t : Fin 1024) (s : State) : Out :=
  onMapped t s (fun s => if s.armed 2 t then s.tapArrival t else s)

/-! ### Records -/

/-- The bytes of a record (R304). -/
def recBytes (r : CapRec) (seq : Nat) (ovf stop : Bool) : List Byte :=
  let flags := ofBool r.trig + 2 * ofBool ovf + 4 * r.pats + 64 * ofBool r.forced + 128 * ofBool stop
  let size := recSize r.taps.length
  let b := leBytes 8 r.stride ++ leBytes 4 flags ++ leBytes 2 r.taps.length ++ leBytes 2 0 ++ leBytes 6 r.now
    ++ leBytes 2 0 ++ leBytes 4 seq ++ leBytes 4 0 ++ r.taps.flatMap (fun t => leBytes 12 t.toNat)
  b ++ leBytes (size - b.length) 0

/-- A record cut into 32-byte bursts with their device addresses. -/
def State.bursts (s : State) (slot rs : Nat) (b : List Byte) : List (Nat × List Byte) :=
  (List.range (rs / 32)).map (fun i => (s.capAddr (slot * rs + 32 * i), (b.drop (32 * i)).take 32))

/-- Bursts enter the staging buffer in order, each as a request of its channel; a FAILED channel drops writes (R287). -/
def State.stage (s : State) (bs : List (Nat × List Byte)) : State :=
  bs.foldl (fun s b =>
    let c := b.1 / 2 ^ 32
    if s.chanState c = gFailed then s
    else
      let q : DynReq := ⟨(s.chan c).seq, none, none, b.1 % 2 ^ 32, b.2.length, true, b.2, [], true, false, false⟩
      let s1 := s.onChan c (fun v => { v with seq := v.seq + 1 })
      { s1 with cap := { s1.cap with staging := s1.cap.staging ++ [(c, q)] } }) s

/-- R306, R308, R310: once the staging buffer is written, capture enters DONE or the stopped state that it ends in, OVF says whether
the stop was an overflow, and Groom 2 posts CAP_STOPPED (R418). -/
def State.capSettle (s : State) : State :=
  match s.cap.ending with
  | some (st, stride) =>
    if s.cap.staging.isEmpty then
      ((({ s with cap := { s.cap with ending := none } } : State).put Reg.CAP_STAT_STATE st).put Reg.CAP_STAT_OVF
        (ofBool (st == cOvf))).postEvent 2 ⟨0x0024, 16, packBytes [(16, 1, st), (24, 8, stride)]⟩
    else s
  | none => s

/-- Capture is to end in DONE or a stopped state: no later record is kept, and the staging buffer is written out first. -/
def State.capStop (s : State) (st stride : Nat) : State :=
  (({ s with cap := { s.cap with ready := [], stop := false, force := false, ending := some (st, stride) } } : State).putPair
    Adr.CAP_STOP_STRIDE_LO Adr.CAP_STOP_STRIDE_HI stride).capSettle

/-- R307: full ports spill bursts as CAP_OVF packets from management hub 2. -/
def capOvf (d : Nat) (site : Nat) (hub : Nat) (b : List Byte) : Packet :=
  mkPacket site 1 6 2 hub 1 0 0 (d / 2 ^ 12) (bits d 11 5) (ofLeBytes (b.take 3))
    [BitVec.ofNat 120 (ofLeBytes ((b.drop 3).take 15)), BitVec.ofNat 120 (ofLeBytes ((b.drop 18).take 14))]

/-- The place of the first staged burst for channel `c`. -/
def burstFor (c : Nat) (l : List (Nat × DynReq)) : Option Nat := l.findIdx? (fun b => b.1 == c)

/-- CAPTURE_SPILL (R307): for every channel whose capture port is full, one staged burst leaves as a CAP_OVF packet while
SPILL_EN is 1. -/
def State.spill (s : State) (full : List Nat) : State :=
  if s.on Reg.CAP_CTL_SPILL_EN then
    full.foldl (fun s c =>
      match burstFor c s.cap.staging, s.site c, s.site 34 with
      | some i, some site, some hub =>
        match s.cap.staging[i]? with
        | some b => ({ s with cap := { s.cap with staging := s.cap.staging.eraseIdx i } } : State).wait hub
            (capOvf (2 ^ 32 * c + b.2.addr) site hub b.2.data)
        | none => s
      | _, _, _ => s) s
  else s

/-- R308, R309: the oldest complete record is stored; overflow, a STOP write or the end of POST ends capture. -/
def State.capRecord (full : List Nat) (s : State) : State :=
  match s.cap.ready with
  | [] => s
  | r :: rest =>
    let st := s.capState
    if (st = cArmed ∨ st = cPost) ∧ s.cap.ending.isNone then
      let rs := s.get Reg.CAP_GEOM_RS * 256
      let nslot := s.get Reg.CAP_GEOM_NSLOT
      let slot := s.cap.seq % 2 ^ 32 % nslot
      let free := 4194304 - 32 * s.cap.staging.length
      let ovf := decide (free < 2 * rs)
      let stop := s.cap.stop && !ovf
      let s1 := ({ s with cap := { s.cap with ready := rest, seq := s.cap.seq + 1 } } : State).stage
        (s.bursts slot rs (recBytes r s.cap.seq ovf stop))
      let s2 := ((s1.sat Reg.CAP_RECCNT_COUNT 1).put Reg.CAP_LAST_SLOT_SLOT slot).putPair Adr.CAP_STOP_STRIDE_LO
        Adr.CAP_STOP_STRIDE_HI r.stride
      let s3 := if r.trig then
          let flags := 1 + 2 * ofBool ovf + 4 * r.pats + 64 * ofBool r.forced + 128 * ofBool stop
          ((((s2.putPair Adr.CAP_TRIG_LO Adr.CAP_TRIG_HI r.stride).put Reg.CAP_TRIG_SLOT_SLOT slot).set1
            Reg.CAP_STAT_TRIGGERED).put Reg.CAP_STAT_STATE cPost).postEvent 2
            ⟨0x0023, 13, packBytes [(16, 8, r.stride), (24, 4, slot), (28, 1, flags)]⟩
        else s2
      let left := if r.trig then s.get Reg.CAP_POST_POST else s.cap.postLeft - 1
      let s4 : State := { s3 with cap := { s3.cap with postLeft := left } }
      if ovf then s4.capStop cOvf r.stride
      else if stop then s4.capStop cStopped r.stride
      else if (r.trig || st == cPost) && left == 0 then s4.capStop cDone r.stride
      else (s4.spill full).capSettle
    else { s with cap := { s.cap with ready := rest } }

/-- A CAPTURE_RECORD without a record still spills (R307). -/
def State.captureRecord (full : List Nat) (s : State) : State :=
  if s.cap.ready = [] then (s.spill full).capSettle else s.capRecord full

def execCaptureRecord (full : List Nat) (s : State) : Out := .next (s.captureRecord full)

/-! ### Control (R305, R306, R309, R312) -/

/-- R303: CAP_RGN gives a region of the allocation table of the capture kind. -/
def State.capRegionOk (s : State) : Bool :=
  s.chip.regions.any (fun r => r.kind == 1 && r.n == 2 ^ (s.get Reg.CAP_RGN_LOG2N + 1) && r.c0 == s.get Reg.CAP_RGN_C0
    && r.base == s.get Reg.CAP_RGN_BASE && r.n * r.units == s.get Reg.CAP_RGN_SIZE)

/-- R306, R303: arming computes RS and NSLOT and is refused unless STATE is IDLE, a region is allocated and POST fits. -/
def State.capArm (s : State) : State :=
  let nsel := s.capTeams.length
  let rs := recSize nsel
  let nslot := s.get Reg.CAP_RGN_SIZE * 2 ^ 26 / rs
  if s.capState = cIdle ∧ s.cap.region.isSome ∧ s.capRegionOk ∧ s.get Reg.CAP_POST_POST < nslot then
    let s1 := (((s.put Reg.CAP_GEOM_RS (rs / 256)).put Reg.CAP_GEOM_NSLOT nslot).put Reg.CAP_STAT_STATE cArmed).clr
      Reg.CAP_STAT_TRIGGERED
    let s2 := s1.put Reg.CAP_RECCNT_COUNT 0
    { s2 with cap := { s2.cap with lastA := none, force := false, stop := false, ready := [], ending := none, seq := 0
                                   postLeft := 0 } }
  else s.set1 Reg.CAP_STAT_ARM_REFUSED

def execCapArm (s : State) : Out := .next s.capArm

/-- R309: a STOP write takes effect at the first record completed after it. -/
def State.capStopReq (s : State) : State :=
  if (s.capState = cArmed ∨ s.capState = cPost) ∧ s.cap.ending.isNone then { s with cap := { s.cap with stop := true } } else s

def execCapStop (s : State) : Out := .next s.capStopReq

/-- R301, R309: a FORCE write; in POST, DONE or a stopped state it is ignored and FORCE_IGN sets. -/
def State.capForce (s : State) : State :=
  let st := s.trigState
  if st = cArmed then { s with cap := { s.cap with force := true } }
  else if st = cPost ∨ st = cDone ∨ st = cOvf ∨ st = cStopped then s.set1 Reg.CAP_STAT_FORCE_IGN
  else s

def execCapForce (s : State) : Out := .next s.capForce

/-- R305, R312: from DONE or a stopped state to IDLE. -/
def State.capDisarm (s : State) : State :=
  let st := s.capState
  if st = cDone ∨ st = cOvf ∨ st = cStopped then s.put Reg.CAP_STAT_STATE cIdle else s

def execCapDisarm (s : State) : Out := .next s.capDisarm

end Sys2Proof.Machine
end

