-- ==== Sys2Proof/Machine/HitchCfg.lean ====
section
/-! DEFINITION. The configuration of the Hitch fabric: wires, legal connections, records and their checks (R313 to R318,
R329, R332, R333), and the release of banks (R331, R336). -/
namespace Sys2Proof.Machine

/-! ### Wires (R316) -/

def wCLASS (w : Nat) : Nat := bits w 23 21
def wCELL (w : Nat) : Nat := bits w 20 6
def wSUB (w : Nat) : Nat := bits w 3 0
def wREGION (w : Nat) : Nat := bits w 20 14
def wPIN (w : Nat) : Nat := bits w 13 6
def wPORT (w : Nat) : Nat := bits w 13 0

/-- The role of a wire or port signal. -/
inductive Role where
  | source | sink | both | clock
deriving DecidableEq, Repr

/-- A port signal of the table of R324: its role, and the regions it is attached to: none for all, else the first region
and their number. -/
def portInfo (p : Nat) : Option (Role × Option (Nat × Nat)) :=
  let inR (a n : Nat) : Bool := decide (a ≤ p ∧ p < a + n)
  if p < 1536 then some (.sink, some (p / 12, 1))
  else if inR 0x800 1536 then some (.source, some ((p - 0x800) / 12, 1))
  else if p = 0x1000 ∨ p = 0x1100 then some (.clock, none)
  else if p = 0x1001 ∨ p = 0x1101 ∨ inR 0x1110 5 ∨ inR 0x1118 3 ∨ inR 0x1120 24 then some (.sink, none)
  else if p = 0x1002 ∨ p = 0x1003 ∨ inR 0x1010 8 ∨ p = 0x1102 then some (.source, none)
  else if inR 0x2000 0x1000 then
    let n := (p - 0x2000) / 0x400
    let o := (p - 0x2000) % 0x400
    let oR (a k : Nat) : Bool := decide (a ≤ o ∧ o < a + k)
    let at_ : Option (Nat × Nat) := some (32 * n, 32)
    if o = 0 ∨ o = 0x200 then some (.clock, at_)
    else if o = 1 ∨ oR 0x10 4 ∨ oR 0x18 4 ∨ oR 0x80 112 ∨ o = 0x202 then some (.source, at_)
    else if o = 2 ∨ o = 0x201 ∨ oR 0x210 4 ∨ oR 0x218 4 ∨ oR 0x280 112 then some (.sink, at_)
    else none
  else none

/-- R316: a legal wire ID, with its role. -/
def wireRole (w : Nat) : Option Role :=
  if 2 ^ 24 ≤ w then none
  else match wCLASS w with
    | 0 => if bits w 5 4 = 0 ∧ wSUB w ≤ 1 then some .source else none
    | 1 => if bits w 5 4 = 0 ∧ wSUB w ≤ 6 then some (if wSUB w = 4 then .clock else .sink) else none
    | 2 => if bits w 13 7 = 0 then some .both else none
    | 3 => if bits w 20 10 = 0 then some .both else none
    | 4 =>
      if bits w 20 14 = 0 ∧ bits w 5 4 = 0 ∧ wSUB w ≤ 9 then
        some (if wSUB w ≤ 3 then .source else if wSUB w = 9 then .clock else .sink)
      else none
    | 5 => if bits w 20 14 = 0 then (portInfo (wPORT w)).map (·.1) else none
    | 6 => if bits w 20 4 = 0 ∧ (wSUB w ≤ 3 ∨ 8 ≤ wSUB w) then some .source else none
    | _ => none

/-- The region that a pin is attached to (R316). -/
def pinRegion (k : Nat) : Nat := 16 * (k / 32) + k % 32 / 2

/-- The wire is attached to, or lies in, region r. -/
def attachedTo (w r : Nat) : Bool :=
  match wCLASS w with
  | 0 => wCELL w / 256 == r
  | 1 => wCELL w / 256 == r
  | 2 => wREGION w == r
  | 3 => true
  | 4 => pinRegion (wPIN w) == r
  | 5 =>
    match portInfo (wPORT w) with
    | some (_, none) => true
    | some (_, some (a, n)) => decide (a ≤ r ∧ r < a + n)
    | none => false
  | _ => true

/-- R317, R320: a source that a sink allows; any source may feed a clock sink. -/
def connLegal (sink src : Nat) : Bool :=
  let clk := wireRole sink == some .clock && (wireRole src == some .source || wireRole src == some .both)
  match wCLASS sink with
  | 1 =>
    let r := wCELL sink / 256
    clk || (wCLASS src == 0 && wCELL src / 16 == wCELL sink / 16)
      || ([2, 4, 5].contains (wCLASS src) && attachedTo src r) || wCLASS src == 3
  | 2 => [0, 4, 5].contains (wCLASS src) && attachedTo src (wREGION sink)
  | 3 => [0, 4, 5].contains (wCLASS src)
  | 4 => clk || ([0, 2].contains (wCLASS src) && attachedTo src (pinRegion (wPIN sink))) || wCLASS src == 3
  | 5 => clk || ([0, 2].contains (wCLASS src) && (List.range 128).any (fun r => attachedTo sink r && attachedTo src r))
      || wCLASS src == 3
  | _ => false

/-! ### Records (R332) -/

/-- One record: TYPE, FLAGS, the reserved bytes, A, B, C. -/
structure HRec where
  type : Nat
  flags : Nat
  rsv : Nat
  a : Nat
  b : Nat
  c : Nat
deriving DecidableEq, Repr

/-- The records in a section, and whether its length is whole. -/
def hRecs : Nat → List Byte → List HRec
  | 0, _ => []
  | n + 1, bs =>
    if bs.isEmpty then []
    else
      let f (o k : Nat) : Nat := ofLeBytes ((bs.drop o).take k)
      ⟨f 0 1, f 1 1, f 2 2, f 4 4, f 8 4, f 12 4⟩ :: hRecs n (bs.drop 16)

/-- DIR of a pin under the PIN records. -/
def pinDir (rs : List HRec) (k : Nat) : Nat :=
  match rs.find? (fun r => r.type == 3 && r.a == k) with
  | some r => bits r.b 2 0
  | none => 0

def cellMode (rs : List HRec) (c : Nat) : Nat :=
  match rs.find? (fun r => r.type == 1 && r.a == c) with
  | some r => bits r.b 20 19
  | none => 0

def bankVolt (rs : List HRec) (b : Nat) : Nat :=
  match rs.find? (fun r => r.type == 4 && r.a == b) with
  | some r => bits r.b 1 0
  | none => 0

/-- R318: a record of a tri-state driver: a cell output onto a long line with an enable of its cluster. -/
def triLegal (r : HRec) : Bool :=
  if r.flags = 1 then
    wCLASS r.a == 3 && wCLASS r.b == 0 && wCLASS r.c == 0 && wireRole r.c == some .source && wCELL r.c / 16 == wCELL r.b / 16
  else r.flags == 0 && r.c == 0

/-- The rules of one tree source code (R322). -/
def treeSrcOk (v : Nat) : Bool := decide (v ≤ 3) || decide (8 ≤ v ∧ v ≤ 23)

/-- R332, R333: FORMAT of one record among `rs`, the records of both sections. -/
def recFormat (nTeams : Nat) (rs : List HRec) (r : HRec) : Bool :=
  r.rsv == 0 &&
  match r.type with
  | 0x01 =>
    r.flags == 0 && r.c == 0 && decide (r.a < 32768) && decide (r.b < 2 ^ 21) &&
      (match bits r.b 20 19 with
        | 2 => cellMode rs (r.a / 2 * 2) == 2 && cellMode rs (r.a / 2 * 2 + 1) == 2
        | 3 => cellMode rs (r.a / 2 * 2) == 3 && cellMode rs (r.a / 2 * 2 + 1) == 3
        | _ => true)
  | 0x02 =>
    match wireRole r.a, wireRole r.b with
    | some ra, some rb => triLegal r && (ra == .source || rb == .sink || rb == .clock || connLegal r.a r.b)
    | _, _ => false
  | 0x03 =>
    r.flags == 0 && r.c == 0 && decide (r.a < 256) && decide (r.b < 2 ^ 15) && decide (bits r.b 2 0 ≤ 5) &&
      !(bits r.b 2 0 == 5 && bankVolt rs (r.a / 32) != 2)
  | 0x04 => r.flags == 0 && r.c == 0 && decide (r.a < 8) && decide (r.b < 8) && decide (bits r.b 1 0 ≤ 2)
  | 0x05 =>
    r.flags == 0 && r.c == 0 && decide (r.a < 8) && decide (r.b < 2 ^ 20) && treeSrcOk (bits r.b 4 0) && treeSrcOk (bits r.b 9 5)
  | 0x06 => r.flags == 0 && r.c == 0 && decide (r.a ≤ 4)
  | 0x10 => r.flags == 0 && decide (r.a < nTeams) && decide (r.b < 24) && decide (r.c < 1536)
  | 0x11 => r.flags == 0 && decide (r.a < 1536) && decide (r.b < nTeams) && decide (r.c < 24)
  | _ => false

/-- R333: HITCH_DIR of one record. -/
def recDir (rs : List HRec) (r : HRec) : Bool :=
  match r.type with
  | 0x02 =>
    let pinSink : Bool := wCLASS r.a == 4 && (
      let d := pinDir rs (wPIN r.a)
      (decide (4 ≤ wSUB r.a ∧ wSUB r.a ≤ 8) && (d == 1 || d == 4)) || ((wSUB r.a == 6 || wSUB r.a == 7) && decide (1 ≤ d ∧ d ≤ 3)))
    let pinSrc : Bool := wCLASS r.b == 4 && (
      let d := pinDir rs (wPIN r.b)
      d == 2 || d == 5 || ((wSUB r.b == 2 || wSUB r.b == 3) && decide (1 ≤ d ∧ d ≤ 3)))
    !(wireRole r.a == some .source || wireRole r.b == some .sink || wireRole r.b == some .clock || pinSink || pinSrc)
  | 0x03 => !(bits r.b 2 0 != 0 && r.a % 2 == 1 && (decide (4 ≤ bits r.b 2 0) || decide (4 ≤ pinDir rs (r.a - 1))))
  | _ => true

/-- Two records of one kind name one item. -/
def sameItem (r q : HRec) : Bool :=
  r.type == q.type &&
  match r.type with
  | 0x02 => wCLASS r.a != 3 && r.a == q.a
  | 0x10 => r.a == q.a && r.b == q.b
  | _ => r.a == q.a

def anyTwice (p : HRec → Bool) : List HRec → Bool
  | [] => false
  | r :: rs => (p r && rs.any (sameItem r)) || anyTwice p rs

/-- The reasons of R193 that the Hitch checks give. -/
inductive HBad where
  | format | dir | contend
deriving DecidableEq, Repr

/-- R333: the first mistake of the Hitch sections: FORMAT before HITCH_DIR before HITCH_CONTEND (DESIGN CHOICE: the spec
gives no order among them). -/
def hitchBad (nTeams : Nat) (rs : List HRec) : Option HBad :=
  let lines := (rs.filter (fun r => r.type == 2 && wCLASS r.a == 3)).map (·.a)
  let drivers (l : Nat) : List HRec := rs.filter (fun r => r.type == 2 && r.a == l)
  if !rs.all (recFormat nTeams rs) || lines.any (fun l => decide (16 < (drivers l).length)) then some .format
  else if !rs.all (recDir rs) || anyTwice (fun r => r.type == 0x10 || r.type == 0x11) rs then some .dir
  else if anyTwice (fun r => decide (1 ≤ r.type ∧ r.type ≤ 5)) rs ||
      lines.any (fun l => decide (1 < (drivers l).length) && (drivers l).any (fun r => r.flags == 0)) then some .contend
  else none

/-! ### Applying records -/

/-- A CELL or CONN record written into configuration memory; a CONN replaces nothing on a long line, it adds a driver. -/
def Hitch.apply (h : Hitch) (r : HRec) : Hitch :=
  match r.type with
  | 0x01 => { h with cells := upd h.cells r.a (BitVec.ofNat 32 r.b) }
  | 0x02 =>
    let d : Nat × Option Nat := (r.b, if r.flags = 1 then some r.c else none)
    { h with conns := upd h.conns r.a (if wCLASS r.a = 3 then look h.conns r.a ++ [d] else [d]) }
  | 0x03 => { h with pins := upd h.pins r.a (BitVec.ofNat 32 r.b) }
  | 0x10 => { h with hin := upd h.hin (32 * r.a + r.b) (r.c + 1) }
  | 0x11 => { h with hout := upd h.hout r.a (32 * r.b + r.c + 1) }
  | _ => h

/-- FF_INIT of cell c. -/
def Hitch.ffInit (h : Hitch) (c : Nat) : Bool := (look h.cells c).getLsbD 16

/-- Every flip-flop at FF_INIT (R334), and no wire driven. -/
def Hitch.hold (h : Hitch) : Hitch :=
  { h with q := h.cells.foldl (fun l p => upd l p.1 (p.2.getLsbD 16)) [] }

/-- The flip-flops of region r at FF_INIT (R335). -/
def Hitch.holdRegion (h : Hitch) (r : Nat) : Hitch :=
  { h with q := (h.cells.filter (fun p => p.1 / 256 == r)).foldl (fun l p => upd l p.1 (p.2.getLsbD 16))
                  (h.q.filter (fun p => p.1 / 256 != r))
           ram := h.ram.filter (fun p => p.1 / 32 / 256 != r) }

/-! ### Banks (R331, R336) -/

/-- R336: the fabric is stopped in QUARANTINE. -/
def State.hitchStopped (s : State) : Bool := s.mode == mQuarantine && s.on Reg.HT_CTL_QSTOP

/-- The voltage of a code of VOLT in mV; 3 is illegal (R331). -/
def voltOf (code : Nat) : Option Nat := if code = 0 then some 1200 else if code = 1 then some 1500 else if code = 2 then some 1800 else none

/-- R331: VDDIO_HT[b] lies within 10 % of VOLT. -/
def State.railOk (s : State) (b : Nat) : Bool :=
  match voltOf (s.get (Reg.HT_BANK_VOLT b)) with
  | some v => decide (9 * v ≤ 10 * look s.ht.rail b ∧ 10 * look s.ht.rail b ≤ 11 * v)
  | none => false

/-- R331: bank b is released. -/
def State.bankReleased (s : State) (b : Nat) : Bool :=
  s.on (Reg.HT_BANK_RELEASE b) && s.on Reg.HT_CTL_HITCH_GO && s.railOk b && !s.hitchStopped

/-- HT_STAT.RELEASED follows, and a stopped fabric holds its flip-flops (R331, R336). -/
def State.hitchBanks (s : State) : State :=
  let s1 := s.put Reg.HT_STAT_RELEASED ((List.range 8).foldl (fun n b => n + ofBool (s.bankReleased b) * 2 ^ b) 0)
  if s1.hitchStopped then { s1 with ht := s1.ht.hold } else s1

end Sys2Proof.Machine
end

