-- ==== Sys2Proof/Machine/Hold.lean ====
section
/-! DEFINITION. Messages between chips and system holds (chapter 9, R248 to R259, R262). -/
namespace Sys2Proof.Machine

/-! ### Message payloads (the message table of chapter 9) -/

def msgAlignId (sys part lnk : Nat) : Flit := BitVec.ofNat 120 (packBits [(0, 8, 1), (16, 64, sys), (80, 8, part), (88, 4, lnk)])
def msgAlignN0 (n0 epoch : Nat) : Flit := BitVec.ofNat 120 (packBits [(0, 8, 2), (16, 64, n0), (80, 16, epoch)])
def msgStride (n count : Nat) : Flit := BitVec.ofNat 120 (packBits [(0, 8, 3), (16, 64, n), (80, 32, count)])
def msgHold (h epoch part reason : Nat) : Flit :=
  BitVec.ofNat 120 (packBits [(0, 8, 4), (16, 64, h), (80, 16, epoch), (96, 8, part), (104, 4, reason)])
def msgRelease (epoch : Nat) : Flit := BitVec.ofNat 120 (packBits [(0, 8, 5), (80, 16, epoch)])

/-- HOLD reasons. -/
abbrev rHost : Nat := 0
abbrev rStep : Nat := 1
abbrev rBkp : Nat := 2
abbrev rCheck : Nat := 3
abbrev rFault : Nat := 4
abbrev rLinkDown : Nat := 5

/-- A message joins the queue of a link. -/
def State.say (s : State) (n : Nat) (m : Flit) : State := s.onLink n (fun l => { l with txMsg := l.txMsg ++ [m] })

/-- A message on each of the links. -/
def State.sayAll (s : State) (ns : List Nat) (m : Flit) : State := ns.foldl (fun s n => s.say n m) s

/-! ### Holds -/

def State.held (s : State) : Bool := s.on Reg.LD_HOLD_STAT_HELD
def State.holdH (s : State) : Nat := s.pair Adr.LD_HOLD_H_LO Adr.LD_HOLD_H_HI
def State.epoch (s : State) : Nat := s.get Reg.LD_HOLD_STAT_EPOCH

/-- PART of the loaded image. -/
def State.part (s : State) : Nat :=
  match s.chip.image with
  | some i => i.part
  | none => 0

/-- R256: a decision whose descriptor the hold in effect bars has not been made: the time points that it consumed, the HOST_GO flags
that it cleared and DS_SKIP are as before it, and it is due again. -/
def State.undecide (s : State) : State :=
  match s.ds.choice, s.ds.prior with
  | some (_, k), some p =>
    if s.held && decide (s.holdH ≤ k) then
      let s1 : State := { s with ds := { s.ds with
        choice := none, prior := none, wanted := some k, delay := p.delay, decided := p.decided } }
      let s2 := ((s1.wr Adr.DS_NOW_LO (BitVec.ofNat 32 p.now)).put Reg.DS_NOW_HI_NOW_HI (p.now / 2 ^ 32)).put Reg.DS_NOW_HI_EPOCH p.epoch
      let s3 := s2.put Reg.DS_SKIP_COUNT (s2.get Reg.DS_SKIP_COUNT - p.skips)
      s3.each 64 (fun d s => s.set1If (p.go.contains d) (Reg.DS_DOM_FLAGS_HOST_GO d))
    else s
  | _, _ => s

/-- HOLD_CLEAR reads 0: the decision of stride H is due, or every Team waits at the boundary into H (R164, R256). -/
def State.holdShown (s : State) : Bool :=
  s.held && (s.on Reg.LD_HOLD_STAT_AT_H || (match s.ds.wanted with | some k => decide (s.holdH ≤ k) | none => false))

/-- R255: a hold at `h` is adopted when none is in effect or `h` exceeds H; when the descriptor of `h` is already issued,
H is I + 1 and LD_HOLD_RAISED counts.  HOLD goes out on every link of `via`. -/
def State.adoptHold (s : State) (h reason part : Nat) (via : List Nat) : State :=
  let late := decide (h ≤ s.ds.issued) && s.ds.anyIssued
  let hh := if late then s.ds.issued + 1 else h
  if s.held && decide (hh ≤ s.holdH) then s
  else
    let s1 := if late then s.sat Reg.LD_HOLD_RAISED_COUNT 1 else s
    let s2 := ((s1.set1 Reg.LD_HOLD_STAT_HELD).clr Reg.LD_HOLD_STAT_AT_H).putPair Adr.LD_HOLD_H_LO Adr.LD_HOLD_H_HI hh
    let s3 : State := { s2 with chip := { s2.chip with holdReason := reason, holdPart := part } }
    s3.undecide.sayAll via (msgHold hh s.epoch part reason)

/-- The stride after the last one whose descriptor has been issued: I + 1, or the chip's stride when none has. -/
def State.nextIssue (s : State) : Nat := if s.ds.anyIssued then s.ds.issued + 1 else s.stride

/-- A hold that this chip originates at H = I + HOLD_LEAD (R255). -/
def State.requestHold (s : State) (reason : Nat) : State :=
  s.adoptHold (if s.ds.anyIssued then s.ds.issued + s.get Reg.LD_HOLD_CTL_HOLD_LEAD else s.stride) reason s.part s.usedLinks

/-- R257: the end of a hold: HOLD_CLEAR shows, EPOCH rises, RELEASE goes out with the old EPOCH.  Without a hold nothing
happens. -/
def State.release (s : State) : State :=
  if s.held then
    let e := s.epoch
    (((s.clr Reg.LD_HOLD_STAT_HELD).clr Reg.LD_HOLD_STAT_AT_H).put Reg.LD_HOLD_STAT_EPOCH (e + 1)).sayAll s.usedLinks
      (msgRelease e)
  else s

/-- R255, R259, R262: a write of LD_HOLD_CTL with HOLD = 1, with the REASON of the register. -/
def State.holdRequest (s : State) : State := s.requestHold (s.get Reg.LD_HOLD_CTL_REASON)

def execHoldRequest (s : State) : Out := .next s.holdRequest

/-- R257, R262: a write of LD_HOLD_CTL with RELEASE = 1. -/
def execReleaseRequest (s : State) : Out := .next s.release

end Sys2Proof.Machine
end

