-- ==== Sys2Proof/Machine/Quarantine.lean ====
section
/-! DEFINITION. Entry to QUARANTINE (R435, R470), the always-on halt (R471), FAULT_N (R472). -/
namespace Sys2Proof.Machine

/-- QUARANTINE causes (R470). -/
abbrev qIsUe : Nat := 1
abbrev qIslandStop : Nat := 2
abbrev qLinkDown : Nat := 3
abbrev qDeadStatic : Nat := 4
abbrev qDiverge : Nat := 5
abbrev qRefLoss : Nat := 6
abbrev qThermalTrip : Nat := 7
abbrev qHostAbort : Nat := 8
abbrev qTamper : Nat := 9

/-- The REASON of the HOLD that a cause sends (R435). -/
def causeReason (cause : Nat) : Nat :=
  if cause = qLinkDown then rLinkDown else if cause = qHostAbort then rHost else rFault

/-- R472: FAULT_N is driven low. -/
def State.faultLow (s : State) : Bool :=
  (s.mode == mQuarantine || s.chip.halted || s.on Reg.CHIP_BOOT_FAILED) && s.chip.vddAon

/-- The freezing record: nothing requested after it is written (R479). -/
def State.freezeRec (s : State) (src sev code : Nat) (arg : BitVec 48) : State :=
  if s.sbClosed then s.sat Reg.SB_DROP_DROPPED 1
  else { s with sb := { s.sb with reqs := s.sb.reqs ++ [⟨src, sev, code, arg, true⟩] } }

/-- The long command in progress ends with NOT_IN_MODE and the new mode (R392). -/
def State.endLongMode (s : State) (mode : Nat) : State := s.endLong (errResp 0x10 mode 0 0)

/-- Every complete record is stored. -/
def State.storeReady (s : State) : State := s.cap.ready.foldl (fun s _ => s.capRecord []) s

/-- R435: capture stores its complete records, and enters STOPPED_HOST once its staging buffer is written (R310). -/
def State.capQuarantine (s : State) : State :=
  let s1 := s.storeReady
  if (s1.capState = cArmed ∨ s1.capState = cPost) ∧ s1.cap.ending.isNone then
    s1.capStop cStopped (s1.pair Adr.CAP_STOP_STRIDE_LO Adr.CAP_STOP_STRIDE_HI)
  else s1

/-- Entry to QUARANTINE with a cause of R470 and its detail.  A cause after the first adds a QUARANTINE record only. -/
def State.enterQuarantine (s : State) (cause cinfo : Nat) : State :=
  if s.chip.halted then s
  else if s.mode = mQuarantine then s.hwRec 6 0x02 (argOf cause cinfo)
  else
    let s1 := s.clr Reg.DS_CTL_EN
    let s2 := s1.adoptHold s1.nextIssue (causeReason cause) s1.part (s1.usedLinks.filter s1.linkUp)
    let s3 := ((s2.freezeRec 4 6 0x02 (argOf cause cinfo)).alert 0).capQuarantine
    let s4 := (s3.put Reg.CHIP_MODE_QCAUSE cause).clr Reg.CHIP_MODE_AT_REST
    let s5 : State := { s4 with sb := { s4.sb with qcause := cause }, chip := { s4.chip with restored := false } }
    let s6 := (s5.setMode mQuarantine).hitchBanks.postEvent 3 ⟨0x0002, 16, packBytes [(16, 2, cause), (24, 8, s.stride)]⟩
    (s6.raise 8).endLongMode mQuarantine

/-- R471: the always-on halt, with the HALT record. -/
def State.halt (s : State) (why groom : Nat) : State :=
  if s.chip.halted then s
  else
    let s1 := s.freezeRec 4 6 0x03 (argOf (why + 256 * groom) 0)
    { s1 with chip := { s1.chip with halted := true } }

end Sys2Proof.Machine
end

