-- ==== Sys2Proof/Machine/Check.lean ====
section
/-! DEFINITION. Reports of the contract (R202, R204): what a run-time report does in CHECK, and the error records of a
router (R128, R134, R158). -/
namespace Sys2Proof.Machine

/-- R204: a report marked "Check halt" in R202, raised by Team `t` or its router, with its report code.  Outside CHECK it
does nothing here. -/
def State.checkReport (s : State) (t code : Nat) : State :=
  if s.mode = mCheck then
    let s1 := s.onTeam t (fun m => { m with halted := true })
    if s.chip.haltChk then s1
    else
      let s2 : State := { s1 with chip := { s1.chip with haltChk := true } }
      let n := (s.team t).stride.toNat
      let s3 := s2.groomRec 3 4 0x16 (argOf t (code + 65536 * (n % 65536)))
      (s3.postEvent 3 ⟨0x0005, 3, packBytes [(16, 2, t), (18, 1, code)]⟩).requestHold rCheck
  else s

/-- The first-error record of a router (RTR_ERR_LOC). KIND: 0 QOVF, 1 COLLIDE, 2 SLOT_ILL, 3 DEAD_STATIC. -/
def State.rtrLoc (s : State) (t kind port addr : Nat) : State :=
  if s.on (Reg.RTR_ERR_LOC_VALID t) then s
  else ((((s.set1 (Reg.RTR_ERR_LOC_VALID t)).put (Reg.RTR_ERR_LOC_KIND t) kind).put (Reg.RTR_ERR_LOC_PORT t) port).put
    (Reg.RTR_ERR_LOC_ADDR t) addr).put (Reg.RTR_ERR_LOC_PROG t) (s.rd (Adr.TEAM_PROG t)).toNat

/-- R128, R134, R202, R464: QOVF (flag bit 1), COLLIDE (2) or SLOT_ILL (3) of a router: the flag, the first-error record, one
Saddlebag record as the flag rises, the class SPOILED, and the check halt. -/
def State.rtrFault (s : State) (t b kind port addr : Nat) : State :=
  let f : Fld := ⟨Adr.RTR_ERR t, b, b⟩
  let s1 := (s.set1 f).rtrLoc t kind port addr
  let spoils := b == 1 || s.mode != mCheck
  let s2 := if s.on f then s1
    else s1.groomRec 3 (if spoils then 5 else 4) 0x17 (argOf t (s1.rd (Adr.RTR_ERR_LOC t)).toNat)
  let s3 := if spoils then s2.spoil (s.team t).stride.toNat else s2
  s3.checkReport t (96 + b)

/-- `k` corrections of Team t count in a counter and in the minute (R476). -/
def State.corrected (s : State) (t : Nat) (f : Fld) (k : Nat) : State :=
  { s.sat f k with chip := { s.chip with ceMinute := upd s.chip.ceMinute t (look s.chip.ceMinute t + k) } }

end Sys2Proof.Machine
end

