-- ==== Sys2Proof/Machine/Operands.lean ====
section
/-! DEFINITION. Fields of instructions (R33, R61), the operands of Boolean processors (R46) and of Word Units (R65). -/
namespace Sys2Proof.Machine

/-! ### Instruction Store and Signal Memory -/

/-- The idle instruction of a BP (chapter 2): TT 0, every selector the constant 0, SIDX 127. -/
def idleBp : BitVec 72 := 0x7FC40C40C40C400000#72

/-- The store entry that a key has where nothing is listed: the idle instruction of a BP or NOP of a Word Unit (R189), or
undefined contents (R194, R456). -/
def isDef (gen k : Nat) : BitVec 72 := if gen = 0 then (if k < 65536 then idleBp else 0) else Config.freeIs gen k

/-- The entry at an address of a unit: 0 to 63 BP b, 64 the Word Unit (R33, R61). -/
def Team.entry (m : Team) (unit addr : Nat) : BitVec 72 := Tab.get (isDef m.gen) m.store (1024 * unit + addr)

def Team.setEntry (m : Team) (unit addr : Nat) (v : BitVec 72) : Team :=
  { m with store := Tab.set (isDef m.gen) m.store (1024 * unit + addr) v }

/-- A row of Signal Memories where nothing is listed. -/
def smDef (gen a : Nat) : BitVec 64 := if gen = 0 then 0 else Config.freeSm gen a

/-- Location a of every BP's Signal Memory. -/
def Team.smRow (m : Team) (a : Nat) : BitVec 64 := Tab.get (smDef m.gen) m.sm a

def Team.setSmRow (m : Team) (a : Nat) (v : BitVec 64) : Team := { m with sm := Tab.set (smDef m.gen) m.sm a v }

/-- A Word Register where nothing is listed. -/
def wrDef (gen r : Nat) : W24 := if gen = 0 then 0 else Config.freeWr gen r

def Team.reg (m : Team) (r : Nat) : W24 := Tab.get (wrDef m.gen) m.wr r

def Team.setReg (m : Team) (r : Nat) (v : W24) : Team := { m with wr := Tab.set (wrDef m.gen) m.wr r v }

/-! ### BP instructions (R33, R34) -/

def bTT (e : BitVec 72) : BitVec 16 := e.extractLsb' 0 16
/-- Operand selector 0 A, 1 B, 2 C, 3 D. -/
def bSel (e : BitVec 72) (i : Nat) : Nat := bits e.toNat (27 + 12 * i) (16 + 12 * i)
def bSIDX (e : BitVec 72) : Nat := bits e.toNat 70 64
def bBKP (e : BitVec 72) : Bool := e.getLsbD 71
def selMode (sel : Nat) : Nat := bits sel 11 10
def selIdx (sel : Nat) : Nat := bits sel 9 0

/-- The idle instruction: TT 0, all selectors constant 0, no send. -/
def idleInstr : BitVec 72 := 0x7FC40C40C40C400000#72

/-- R46, R52: the selector is an illegal encoding. -/
def selIll (sel : Nat) : Bool :=
  let i := selIdx sel
  match selMode sel with
  | 1 => decide (88 ≤ i)
  | 3 => decide ((24 ≤ i ∧ i ≤ 31) ∨ (56 ≤ i ∧ i ≤ 63) ∨ 67 ≤ i)
  | _ => false

/-- R41: the operand names a Receive Store location that is not present. -/
def Team.absent (m : Team) (sel : Nat) : Bool := selMode sel == 2 && !m.rsHave.getLsbD (selIdx sel)

/-- R46: the value of an operand of BP b. -/
def Team.operand (m : Team) (b sel : Nat) : Bool :=
  let i := selIdx sel
  match selMode sel with
  | 0 => (m.smRow i).getLsbD b
  | 1 => if i < 64 then m.busBp.getLsbD i else if i < 88 then m.busWu.getLsbD (i - 64) else false
  | 2 => m.rs.getLsbD i
  | _ =>
    if i < 24 then m.hin.getLsbD i
    else if 32 ≤ i ∧ i < 56 then m.dmrd.getLsbD (i - 32)
    else if i = 65 then true
    else if i = 66 then m.stride.getLsbD 0
    else false

/-- R37: the result of a BP instruction. -/
def Team.bpResult (m : Team) (b : Nat) (e : BitVec 72) : Bool :=
  let v (i : Nat) : Nat := ofBool (m.operand b (bSel e i))
  (bTT e).getLsbD (v 3 * 8 + v 2 * 4 + v 1 * 2 + v 0)

/-- R205: the operand raises COMB_FWD at address p of a stride that starts at S. -/
def Team.combFwd (m : Team) (b p sel : Nat) : Bool :=
  let a := selIdx sel
  selMode sel == 0 && (Tab.get (fun _ => 0#64) m.mask a).getLsbD b && !(decide (m.start ≤ a) && decide (a < p))

/-! ### WU instructions (R61) -/

def wOP (e : BitVec 72) : Nat := bits e.toNat 5 0
def wRD (e : BitVec 72) : Nat := bits e.toNat 9 6
def wWEN (e : BitVec 72) : Bool := e.getLsbD 10
def wSA (e : BitVec 72) : Nat := bits e.toNat 16 11
def wSB (e : BitVec 72) : Nat := bits e.toNat 22 17
def wCEN (e : BitVec 72) : Bool := e.getLsbD 23
def wIMM (e : BitVec 72) : W24 := e.extractLsb' 24 24
def wSC (e : BitVec 72) : Nat := bits e.toNat 53 48
def wCI (e : BitVec 72) : Nat := bits e.toNat 55 54
def wMF (e : BitVec 72) : Nat := bits e.toNat 57 56
def wGW (e : BitVec 72) : Nat := bits e.toNat 61 58

/-- R65: the selector is illegal. -/
def srcIll (sel : Nat) : Bool := decide (0x18 ≤ sel)

/-- R65: the operand that a WU source selector chooses. -/
def Team.source (m : Team) (imm : W24) (sel : Nat) : W24 :=
  if sel < 16 then m.reg sel
  else match sel with
    | 0x10 => m.dmrd
    | 0x11 => m.rmrd
    | 0x12 => m.busBp.extractLsb' 0 24
    | 0x13 => m.busBp.extractLsb' 24 24
    | 0x14 => m.busBp.extractLsb' 40 24
    | 0x15 => imm
    | 0x16 => BitVec.ofNat 24 (ofBool m.flagC + 2 * ofBool m.flagV)
    | _ => 0

end Sys2Proof.Machine
end

