-- ==== Sys2Proof/Machine/Flags.lean ====
section
/-! DEFINITION. The sums of the Word Unit with their carry and overflow flags (R64, R68). -/
namespace Sys2Proof.Machine

/-- A sum: Y, C and V of R68. -/
structure Sum where
  y : W24
  c : Bool
  v : Bool
deriving DecidableEq, Repr

/-- R68: A + B' + cin as a 25-bit value. -/
def addSum (a b' : W24) (cin : Bool) : Sum :=
  let n := a.toNat + b'.toNat + ofBool cin
  let y := BitVec.ofNat 24 n
  ⟨y, n.testBit 24, a.msb == b'.msb && y.msb != a.msb⟩

/-- ADD, ADC, SUB and SBC. -/
def isSum (op : Nat) : Bool := decide (1 ≤ op ∧ op ≤ 4)

/-- R68: B' of the operation. -/
def sumB (op : Nat) (b : W24) : W24 := if op = 3 ∨ op = 4 then ~~~b else b

/-- R61, R68: the carry-in of the operation; `west` is the carry that R73 takes. -/
def Team.carryIn? (m : Team) (op ci : Nat) (west : Bool) : Bool :=
  if op = 1 then false
  else if op = 3 then true
  else match ci with
    | 0 => false
    | 1 => true
    | 2 => m.flagC
    | _ => west

/-- R73: the instruction consumes a west carry. -/
def takesCarry (op ci : Nat) : Bool := (op == 2 || op == 4) && ci == 3

end Sys2Proof.Machine
end

