-- ==== Sys2Proof/Machine/Wu.lean ====
section
/-! DEFINITION. The operations of the Word Unit (R66 to R71) that give a result from their operands alone. -/
namespace Sys2Proof.Machine

/-- All ones for a comparison that holds (R66). -/
def maskOf (b : Bool) : W24 := if b then BitVec.allOnes 24 else 0

/-- R66: the operation codes that have a meaning. -/
def opLegal (op : Nat) : Bool :=
  decide (op ≤ 4) || (decide (8 ≤ op) && decide (op ≤ 0x0A)) || (decide (0x0C ≤ op) && decide (op ≤ 0x0E))
  || (decide (0x10 ≤ op) && decide (op ≤ 0x12)) || (decide (0x14 ≤ op) && decide (op ≤ 0x18)) || op == 0x1C
  || (decide (0x20 ≤ op) && decide (op ≤ 0x22)) || (decide (0x24 ≤ op) && decide (op ≤ 0x26))
  || op == 0x28 || op == 0x29

/-- R66, R71: the instruction sets ILL_WOP. -/
def wuIll (op mf : Nat) : Bool := !opLegal op || (op == 0x28 && decide (2 ≤ mf))

/-- R66: the operation writes RD when WEN = 1. -/
def opWrites (op : Nat) : Bool := decide (1 ≤ op) && decide (op ≤ 0x1C) && opLegal op || op == 0x29

/-- R69, R70: results of comparisons, products, logic, shifts and the multiplexer; 0 for every other operation. -/
def wuY (op : Nat) (a b c : W24) : W24 :=
  let n := b.toNat
  match op with
  | 0x08 => maskOf (a == b)
  | 0x09 => maskOf (a.slt b)
  | 0x0A => maskOf (a.ult b)
  | 0x0C => BitVec.ofNat 24 (a.toNat * b.toNat)
  | 0x0D => BitVec.ofNat 24 (a.toNat * b.toNat / 2 ^ 24)
  | 0x0E => BitVec.ofInt 24 (a.toInt * b.toInt / 2 ^ 24)
  | 0x10 => a &&& b
  | 0x11 => a ||| b
  | 0x12 => a ^^^ b
  | 0x14 => if n < 24 then a <<< n else 0
  | 0x15 => if n < 24 then a >>> n else 0
  | 0x16 => if n < 24 then a.sshiftRight n else maskOf a.msb
  | 0x17 => a.rotateLeft (n % 24)
  | 0x18 => a.rotateRight (n % 24)
  | 0x1C => (a &&& c) ||| (b &&& ~~~c)
  | _ => 0

/-- R79: the new word of a read-modify-write with function MF. -/
def rmwNew (mf : Nat) (old b : W24) : W24 :=
  match mf with
  | 0 => old + b
  | 1 => old ||| b
  | 2 => old &&& ~~~b
  | _ => old ^^^ b

end Sys2Proof.Machine
end

