-- ==== Sys2Proof/Machine/Errors.lean ====
section
/-! DEFINITION. First-error records of a Team (R53, R71, R86) and lost pulses (R447). -/
namespace Sys2Proof.Machine

/-- R448: an event of a crossing goes into CHIP_CDC_LOC when VALID is 0, with a CDC record.  KIND: 0 STOPPED, 1 OVERRUN,
2 LATE. -/
def State.cdcLoc (s : State) (kind cls idx sev : Nat) : State :=
  if s.on Reg.CHIP_CDC_LOC_VALID then s
  else ((((s.set1 Reg.CHIP_CDC_LOC_VALID).put Reg.CHIP_CDC_LOC_KIND kind).put Reg.CHIP_CDC_LOC_CLASS cls).put
    Reg.CHIP_CDC_LOC_INDEX idx).groomRec 0 sev 0x42 (argOf (kind + 256 * cls) idx)

/-- R447: an event meets a pulse crossing of class 7 whose acknowledge is awaited. -/
def State.overrun (s : State) (src : Nat) : State :=
  (s.set1 Reg.CHIP_CDC_STAT_OVERRUN).cdcLoc 1 7 (Config.interruptNo src).toNat 2

/-- A BP error: BP, operand (4: none), KIND of TEAM_BP_ERR_LOC (0 ILL_SIDX, 1 ILL_OPND, 2 SEND_DUP, 3 COMB_FWD). -/
structure BpErr where
  bp : Nat
  opnd : Nat
  kind : Nat
deriving DecidableEq, Repr

/-- R53: BP errors of one step, in the order of R53's keys: flags, first-error record, record 0x14, event 0x0006, and the
check halt. -/
def State.bpErrs (s : State) (t p : Nat) (es : List BpErr) : State :=
  match es with
  | [] => s
  | e :: _ =>
    let s1 := es.foldl (fun s e => s.set1 ⟨Adr.TEAM_BP_ERR t, e.kind, e.kind⟩) s
    let s2 :=
      if s1.on (Reg.TEAM_BP_ERR_LOC_VALID t) then s1
      else
        let s3 := (((((s1.set1 (Reg.TEAM_BP_ERR_LOC_VALID t)).put (Reg.TEAM_BP_ERR_LOC_KIND t) e.kind).put
          (Reg.TEAM_BP_ERR_LOC_OPND t) (if e.opnd < 4 then e.opnd else 0)).put (Reg.TEAM_BP_ERR_LOC_BP t) e.bp).put
          (Reg.TEAM_BP_ERR_LOC_ADDR t) p).put (Reg.TEAM_BP_ERR_STRIDE_STRIDE t) (s.team t).stride.toNat
        let loc := (s3.rd (Adr.TEAM_BP_ERR_LOC t)).toNat
        (s3.groomRec 3 4 0x14 (argOf t loc)).postEvent 3
          ⟨0x0006, 12, packBytes [(16, 2, t), (20, 4, loc), (24, 4, (s3.rd (Adr.TEAM_BP_ERR_STRIDE t)).toNat)]⟩
    s2.checkReport t (es.foldl (fun n e => min n e.kind) 3)

/-- A WU error: KIND of TEAM_WU_ERR_LOC, which is also the flag bit, operand and address. -/
structure WuErr where
  kind : Nat
  opnd : Nat
  addr : Nat
deriving DecidableEq, Repr

/-- R71: WU errors of one cycle, the lowest KIND first; `n` is the stride number that TEAM_WU_ERR_STRIDE takes. -/
def State.wuErrs (s : State) (t n : Nat) (es : List WuErr) : State :=
  match es with
  | [] => s
  | e :: _ =>
    let s1 := es.foldl (fun s e => s.set1 ⟨Adr.TEAM_WU_ERR t, e.kind, e.kind⟩) s
    let s2 :=
      if s1.on (Reg.TEAM_WU_ERR_LOC_VALID t) then s1
      else
        let s3 := ((((s1.set1 (Reg.TEAM_WU_ERR_LOC_VALID t)).put (Reg.TEAM_WU_ERR_LOC_KIND t) e.kind).put
          (Reg.TEAM_WU_ERR_LOC_OPND t) e.opnd).put (Reg.TEAM_WU_ERR_LOC_ADDR t) e.addr).put
          (Reg.TEAM_WU_ERR_STRIDE_STRIDE t) n
        let loc := (s3.rd (Adr.TEAM_WU_ERR_LOC t)).toNat
        (s3.groomRec 3 4 0x15 (argOf t loc)).postEvent 3
          ⟨0x0007, 12, packBytes [(16, 2, t), (20, 4, loc), (24, 4, (s3.rd (Adr.TEAM_WU_ERR_STRIDE t)).toNat)]⟩
    s2.checkReport t (32 + e.kind)

/-- R86: the first-error rule of TEAM_DM_ERR_ADDR.  KIND: 0 BUSY, 1 UE, 2 PATROL_FAIL, 3 BANK_OFF; PORT 1: port B. -/
def State.dmLoc (s : State) (t kind port addr : Nat) : State :=
  if s.on (Reg.TEAM_DM_ERR_ADDR_VALID t) then s
  else (((s.set1 (Reg.TEAM_DM_ERR_ADDR_VALID t)).put (Reg.TEAM_DM_ERR_ADDR_KIND t) kind).put
    (Reg.TEAM_DM_ERR_ADDR_PORT t) port).put (Reg.TEAM_DM_ERR_ADDR_ADDR t) addr

/-- R85, R86: both ports on one word: BUSY to port B. -/
def State.dmBusy (s : State) (t addr : Nat) : State :=
  ((s.set1 (Reg.TEAM_DM_STAT_BUSY t)).dmLoc t 0 1 addr).checkReport t (64 + 2)

/-- R92: a corrected read of design memory. -/
def State.dmCorrected (s : State) (t : Nat) : State := (s.corrected t (Reg.TEAM_DM_CECNT_DM_CECNT t) 1).set1 (Reg.TEAM_DM_STAT_CE t)

/-- R93: a double-bit error of design memory: UE, the address, record 0x11, event 0x0008, the class SPOILED. -/
def State.dmUe (s : State) (t port addr : Nat) : State :=
  let s1 := (s.set1 (Reg.TEAM_DM_STAT_UE t)).dmLoc t 1 port addr
  let loc := (s1.rd (Adr.TEAM_DM_ERR_ADDR t)).toNat
  ((s1.groomRec 3 5 0x11 (argOf t (loc % 65536))).postEvent 3 ⟨0x0008, 8, packBytes [(16, 2, t), (20, 4, loc)]⟩).spoil
    (s.team t).stride.toNat

/-- What a read's check does to the state. -/
def State.dmChecked (s : State) (t port addr : Nat) (c : MemCheck) : State :=
  match c with
  | .ok => s
  | .single => s.dmCorrected t
  | .double _ => s.dmUe t port addr

/-- R92, R93: the data that a read returns. -/
def memData (c : MemCheck) (w : W24) : W24 :=
  match c with
  | .double d => d
  | _ => w

/-- R98: a port access to a bank that is not ready. -/
def State.dmBankOff (s : State) (t port addr : Nat) : State := (s.set1 (Reg.TEAM_DM_STAT_BANK_OFF t)).dmLoc t 3 port addr

/-- R36: a corrected entry of an Instruction Store. -/
def State.isCorrected (s : State) (t : Nat) : State := (s.corrected t (Reg.TEAM_DM_CECNT_IS_CECNT t) 1).set1 (Reg.TEAM_DM_STAT_IS_CE t)

/-- R36, R470: a double-bit error of an Instruction Store entry: QUARANTINE with IS_UE. -/
def State.isUe (s : State) (t unit addr : Nat) : State := s.enterQuarantine qIsUe (addr + 2 ^ 10 * unit + 2 ^ 17 * t)

end Sys2Proof.Machine
end

