-- ==== Sys2Proof/Machine/Slots.lean ====
section
/-! DEFINITION. Slot Schedules (R129 to R138): entries, the conditions of R132, the writes of R136 and the arming of a
swap. -/
namespace Sys2Proof.Machine

/-! ### Entries (R129) -/

def eADDR (e : BitVec 48) : Nat := bits e.toNat 9 0
def eIN (e : BitVec 48) : Nat := bits e.toNat 12 10
def eOUT (e : BitVec 48) : Nat := bits e.toNat 15 13
def eKIND (e : BitVec 48) : Nat := bits e.toNat 17 16
def eLSEL (e : BitVec 48) : Nat := bits e.toNat 18 18
def eVALID (e : BitVec 48) : Bool := bit e.toNat 23
def eW1 (e : BitVec 48) : Nat := bits e.toNat 47 24
def eRSBASE (e : BitVec 48) : Nat := bits e.toNat 33 24
def eRSCNT (e : BitVec 48) : Nat := bits e.toNat 40 34
def eSOFF (e : BitVec 48) : Nat := bits e.toNat 47 41

/-- A local-output SIGNAL entry for the Team: it fills Receive Store locations (R131). -/
def eDelivers (e : BitVec 48) : Bool := eOUT e == 4 && eKIND e == 0 && eLSEL e == 0

/-- What an unwritten entry reads as: 0, or undefined contents (R194, R456). -/
def slotDef (gen set e : Nat) : BitVec 48 := if gen = 0 then 0 else Config.freeSlot gen (2 * e + set)

def actEntry (r : Router) (e : Nat) : BitVec 48 := Tab.get (slotDef r.gen 0) r.act e
def shdEntry (r : Router) (e : Nat) : BitVec 48 := Tab.get (slotDef r.gen 1) r.shd e

/-- The valid entries of the active set, in index order (R129). -/
def actValid (r : Router) : List (BitVec 48) := ((List.range 512).map (actEntry r)).filter eVALID
def shdValid (r : Router) : List (BitVec 48) := ((List.range 512).map (shdEntry r)).filter eVALID

/-! ### Legality (R132) -/

/-- The refusal codes of R132. -/
inductive SlotBad where
  | slotOrder | collide | slotIll | rsOverlap | targetOff
deriving DecidableEq, Repr

/-- The fourth, fifth and sixth condition of R132 for one entry; `att` is the block attached to the router. -/
def entryLegal (att : Option Nat) (e : BitVec 48) : Bool :=
  let gw := match att with | some n => decide (n < 16) | none => false
  let ld := match att with | some n => decide (16 ≤ n ∧ n < 32) | none => false
  decide (eIN e ≤ 4) && decide (eOUT e ≤ 4) && decide (eIN e ≠ eOUT e)
  && (eLSEL e == 0 || (eOUT e == 4 && eKIND e == 3 && gw) || (eOUT e == 4 && eKIND e == 0 && ld)
      || (eIN e == 4 && eKIND e == 0 && ld))
  && (!(eKIND e == 3 && eOUT e == 4) || eLSEL e == 1)
  && (bits e.toNat 22 19 == 0)
  && (if eDelivers e then decide (1 ≤ eRSCNT e ∧ eRSCNT e ≤ 120 ∧ eRSBASE e + eRSCNT e ≤ 1024 ∧ eSOFF e + eRSCNT e ≤ 120)
      else eW1 e == 0)

/-- Two valid entries never share ADDR and OUT, or ADDR and IN. -/
def noCollide : List (BitVec 48) → Bool
  | [] => true
  | e :: es => es.all (fun f => !(eADDR e == eADDR f && (eOUT e == eOUT f || eIN e == eIN f))) && noCollide es

def ascending : List (BitVec 48) → Bool
  | e :: f :: es => decide (eADDR e ≤ eADDR f) && ascending (f :: es)
  | _ => true

/-- The Receive Store ranges of delivering entries do not overlap. -/
def noOverlap : List (BitVec 48) → Bool
  | [] => true
  | e :: es => es.all (fun f => decide (eRSBASE e + eRSCNT e ≤ eRSBASE f ∨ eRSBASE f + eRSCNT f ≤ eRSBASE e)) && noOverlap es

/-- The stride programs of a configuration of the DS block, (S, L): the table entries that a valid selection rule takes (R174,
R175); `ds` answers the word at an offset of the block. -/
def programsOf (ds : Nat → Nat) : List (Nat × Nat) :=
  ((List.range 64).filter (fun k => bit (ds (0x2018 + 0x20 * k)) 31)).map (fun k =>
    let e := ds (0x100 + 4 * (ds (0x2018 + 0x20 * k) % 64))
    (bits e 9 0, 16 * (bits e 15 10 + 1)))

/-- The stride programs that the scheduler may dispatch. -/
def State.programs (s : State) : List (Nat × Nat) := programsOf (fun o => (s.rd (0x50000 + o)).toNat)

/-- R132: the first condition that a set of valid entries breaks, at a router with the attached block `att`. -/
def slotSetBad (att : Option Nat) (isolated : Bool) (progs : List (Nat × Nat)) (es : List (BitVec 48)) : Option SlotBad :=
  if !ascending es then some .slotOrder
  else if !noCollide es then some .collide
  else if !es.all (entryLegal att) then some .slotIll
  else if !progs.all (fun p => noOverlap (es.filter (fun e => eDelivers e && decide (p.1 ≤ eADDR e ∧ eADDR e < p.1 + p.2))))
    then some .rsOverlap
  else if isolated && !es.isEmpty then some .targetOff
  else none

def State.setBad (s : State) (t : Nat) (es : List (BitVec 48)) : Option SlotBad :=
  slotSetBad (s.attached t) (s.on (Reg.RTR_CTL_ISOLATE t)) s.programs es

/-! ### Writes (R136) -/

/-- R136: a write of RTR_SS_W0 stages word 0. -/
def State.ssW0 (t : Nat) (w : W24) (s : State) : State := s.onRouter t (fun r => { r with w0 := w })

def execSsW0Write (t : Fin 1024) (w : W24) (s : State) : Out := onMapped t s (State.ssW0 t w)

/-- R136: a write of RTR_SS_W1 writes the entry that RTR_SS_IDX names, where the set may be written. -/
def State.ssW1 (t : Nat) (w : W24) (s : State) : State :=
  let i := s.get (Reg.RTR_SS_IDX_INDEX t)
  let r := s.router t
  let e : BitVec 48 := w ++ r.w0
  let next := (i + 1) % 512
  if s.on (Reg.RTR_SS_IDX_SET t) then
    if s.on (Reg.RTR_CTL_SWAP_ARM t) then s.set1 (Reg.RTR_ERR_SS_LOCKED t)
    else (s.setRouter t { r with shd := Tab.set (slotDef r.gen 1) r.shd i e }).put (Reg.RTR_SS_IDX_INDEX t) next
  else if s.mode = mIdle ∨ s.mode = mLoad then
    (s.setRouter t { r with act := Tab.set (slotDef r.gen 0) r.act i e }).put (Reg.RTR_SS_IDX_INDEX t) next
  else s.set1 (Reg.RTR_ERR_SS_LOCKED t)

def execSsW1Write (t : Fin 1024) (w : W24) (s : State) : Out := onMapped t s (State.ssW1 t w)

/-! ### The swap (R137) -/

/-- The swap stride number (RTR_SWAP). -/
def State.swapStride (s : State) (t : Nat) : Nat := s.pair (Adr.RTR_SWAP_LO t) (Adr.RTR_SWAP_HI t)

/-- R137: SWAP_ARM is set: the check of the shadow set starts, unless the swap stride is too near. -/
def State.swapArm (t : Nat) (s : State) : State :=
  if s.on (Reg.RTR_CTL_SWAP_ARM t) then s
  else if s.swapStride t ≤ (s.team t).stride.toNat + 1 then s.set1 (Reg.RTR_ERR_ARM_STALE t)
  else (s.set1 (Reg.RTR_CTL_SWAP_ARM t)).onRouter t (fun r => { r with scan := true })

def execSwapArm (t : Fin 1024) (s : State) : Out := onMapped t s (State.swapArm t)

/-- R137: the check of the shadow set ends after 512 cycles. -/
def State.swapScan (t : Nat) (s : State) : State :=
  if (s.router t).scan then
    let s1 := s.onRouter t (fun r => { r with scan := false })
    match s.setBad t (shdValid (s.router t)) with
    | some _ => (s1.clr (Reg.RTR_CTL_SWAP_ARM t)).set1 (Reg.RTR_ERR_SCAN_ERR t)
    | none => s1
  else s

def execSwapScanDone (t : Fin 1024) (s : State) : Out := onMapped t s (State.swapScan t)

/-- R137: the exchange as the Team passes the boundary into stride n. -/
def State.swapAt (s : State) (t n : Nat) : State :=
  if s.on (Reg.RTR_CTL_SWAP_ARM t) && s.swapStride t == n then
    let d := s.get (Reg.TEAM_SKEW_CTL_DOWN t)
    let r := s.router t
    let swap (l : List (Nat × BitVec 48)) (src dst : Nat) : List (Nat × BitVec 48) :=
      if r.gen = 0 then l
      else (List.range 512).foldl (fun m e => Tab.set (slotDef r.gen dst) m e (Tab.get (slotDef r.gen src) l e)) []
    (((((s.setRouter t { r with act := swap r.shd 1 0, shd := swap r.act 0 1, scan := false }).put
      (Reg.TEAM_SKEW_CTL_DOWN t) (s.get (Reg.TEAM_SKEW_CTL_SH_DOWN t))).put (Reg.TEAM_SKEW_CTL_SH_DOWN t) d).clr
      (Reg.RTR_CTL_SWAP_ARM t)).set1 (Reg.RTR_STAT_SWAPPED t))
  else s

end Sys2Proof.Machine
end

