-- ==== Sys2Proof/Machine/Router.lean ====
section
/-! DEFINITION. The router's links and its dynamic traffic (R121 to R128, R145 to R156): arrival and replay of flits,
injection, regulators, routing, credits, freezing, isolation and dead targets, probes. -/
namespace Sys2Proof.Machine

/-- The list of `l` at key `k`, with `x` added at its end. -/
def pushAt {α : Type} [DecidableEq α] (l : List (Nat × List α)) (k : Nat) (x : α) : List (Nat × List α) :=
  upd l k (look l k ++ [x])

/-! ### Links between routers (R121, R124, R125) -/

/-- A flit leaves through a neighbour port: it enters the crossing, and the sender keeps its last 16. -/
def State.sendFlit (s : State) (t port tag : Nat) (d : Flit) : State :=
  let r := s.router t
  let x : XFlit := ⟨look r.txSeq port, tag, d⟩
  let s1 := s.setRouter t { r with
    txSeq := upd r.txSeq port (look r.txSeq port + 1)
    kept := upd r.kept port ((look r.kept port ++ [x]).drop ((look r.kept port).length + 1 - 16)) }
  s1.onRouter (s.nb t port) (fun q => { q with wire := pushAt q.wire (facing port) x })

/-- R124: link tags. -/
def tagVC (tag : Nat) : Nat := if 4 ≤ tag then 1 else 0
def tagHead (vc : Nat) : Nat := if vc = 0 then 2 else 6
def tagBody (vc : Nat) : Nat := if vc = 0 then 3 else 7
def tagLegal (tag : Nat) : Bool := tag == 0 || tag == 2 || tag == 3 || tag == 6 || tag == 7

/-- R206: in CHECK with QB_EN, a static queue above its declared bound. -/
def State.qbound (s : State) (t port : Nat) : State :=
  let f : Fld := if port = 0 then Reg.TEAM_CHK_QMAX_NORTH t else if port = 1 then Reg.TEAM_CHK_QMAX_SOUTH t
    else if port = 2 then Reg.TEAM_CHK_QMAX_EAST t else Reg.TEAM_CHK_QMAX_WEST t
  if s.mode == mCheck && s.on (Reg.TEAM_CHK_CTL_QB_EN t) && decide (s.get f < (look (s.router t).inq port).length) then
    ((if s.on (Reg.TEAM_CHK_STAT_QBOUND t) then s else s.put (Reg.TEAM_CHK_STAT_QB_PORT t) port).set1
      (Reg.TEAM_CHK_STAT_QBOUND t)).checkReport t (128 + 3)
  else s

/-- R206: in CHECK with QB_EN, the lead-link receive queue above its declared bound. -/
def State.qboundLd (s : State) (n t : Nat) : State :=
  if s.mode == mCheck && s.on (Reg.TEAM_CHK_CTL_QB_EN t) &&
      decide (s.get (Reg.TEAM_CHK_QMAX_LD_BOUND t) < (s.link n).qrx.length) then
    ((if s.on (Reg.TEAM_CHK_STAT_QBOUND t) then s else s.put (Reg.TEAM_CHK_STAT_QB_PORT t) 4).set1
      (Reg.TEAM_CHK_STAT_QBOUND t)).checkReport t (128 + 3)
  else s

/-- R150: the target of a local-output entry is isolated. -/
def State.deadTarget (s : State) (t : Nat) (e : BitVec 48) : Bool :=
  if eLSEL e = 1 then s.on (Reg.RTR_CTL_ISOLATE_ATT t) else s.on (Reg.RTR_CTL_ISOLATE t)

/-- R150, R151: the flit that a local-output entry takes for an isolated target is discarded: DEAD_STATIC, the first-error
record, and QUARANTINE with the Team and the port. -/
def State.deadStatic (s : State) (t : Nat) (e : BitVec 48) : State :=
  ((s.set1 (Reg.RTR_ERR_DEAD_STATIC t)).rtrLoc t 3 (eIN e) (eADDR e)).enterQuarantine qDeadStatic (t + 1024 * eIN e)

/-- R128: a static flit enters its queue of 24; at a full queue it is discarded. -/
def State.takeStatic (s : State) (t port : Nat) (d : Flit) : State :=
  let r := s.router t
  if 24 ≤ (look r.inq port).length then s.rtrFault t 1 0 port 0
  else (s.setRouter t { r with inq := pushAt r.inq port d }).qbound t port

/-! ### Probes (R155, R156) -/

/-- A head flit with PRI set. -/
def withPRI (p : Packet) (v : Nat) : Packet :=
  { p with head := BitVec.ofNat 120 (p.head.toNat - pPRI p * 2 ^ 109 + v * 2 ^ 109) }

/-- Probe k sees a header. -/
def State.probeHit (s : State) (k h : Nat) : Bool :=
  h &&& s.get (Reg.RTR_PRB_MASK_VALUE k) == s.get (Reg.RTR_PRB_MATCH_VALUE k) &&& s.get (Reg.RTR_PRB_MASK_VALUE k)

/-- Probe k watches this port of this router in this direction (0 input, 1 output). -/
def State.probeAt (s : State) (k t port dir : Nat) : Bool :=
  s.on (Reg.RTR_PRB_CTL_EN k) && s.get (Reg.RTR_PRB_SEL_TEAM k) == t && s.get (Reg.RTR_PRB_SEL_PORT k) == port
    && s.get (Reg.RTR_PRB_SEL_DIR k) == dir

/-- R155: the trace record of a packet: header, SRC, bits [31:8] of the Time Base nanoseconds, placed from bit 0 up in
this order (DESIGN CHOICE: R155 gives no bit places). -/
def State.probeRecord (s : State) (p : Packet) : Nat := pHeader p + 2 ^ 24 * pSRC p + 2 ^ 34 * (s.tb.now.ns / 256)

/-- R140, R155: the PROBE_TR packet of probe k with one record: bits [71:0] of the record from E0 up, and one body flit, the fewest a
PROBE_TR has, of zeros (DESIGN CHOICE: one record in a packet; TAG names the probe, and the gateway keeps its place in the region). -/
def tracePacket (t site k rec : Nat) : Packet :=
  mkPacket site 1 7 6 t 2 k 0 (rec / 2 ^ 48) (rec / 2 ^ 24) rec [0]

/-- R148, R155: the record of probe k leaves with PRI = 1 for the tokens of its two flits, with PRI = 0 where EXCESS lets it, or is
dropped.  DESIGN CHOICE (the rule names only the lack of tokens): a probe without a region, a region whose gateway is attached to no
router, and a draining router drop the record too, and DROP counts it. -/
def State.probeTrace (s : State) (t k : Nat) (p : Packet) : State :=
  let drop := s.sat (Reg.RTR_PRB_CTL_DROP k) 1
  match look s.probes k with
  | none => drop
  | some pr =>
    let d := if pr.k = 0 then pr.base + pr.next else interleave (pr.base / 2 ^ 32) pr.k (pr.base % 2 ^ 32) pr.next
    match s.site (d / 2 ^ 32) with
    | none => drop
    | some site =>
      let r := s.router t
      let paid := decide (2 ≤ look r.tokens 6)
      if r.drain || !(paid || s.on (Reg.RTR_REG_EXCESS 6)) then drop
      else
        let s1 := s.setRouter t { r with
          tokens := if paid then upd r.tokens 6 (look r.tokens 6 - 2) else r.tokens
          dyn := pushAt r.dyn 8 (withPRI (tracePacket t site k (s.probeRecord p)) (ofBool paid)) }
        { s1 with probes := upd s1.probes k (some { pr with next := (pr.next + 8) % pr.size }) }

/-- R155: a packet on a watched port: flits, packets, or a trace record. -/
def State.probePacket (s : State) (t port dir : Nat) (p : Packet) : State :=
  s.each 8 (fun k s =>
    if s.probeAt k t port dir && s.probeHit k (pHeader p) then
      match s.get (Reg.RTR_PRB_CTL_MODE k) with
      | 0 => s.sat (Reg.RTR_PRB_CNT_COUNT k) (p.body.length + 1)
      | 1 => s.sat (Reg.RTR_PRB_CNT_COUNT k) 1
      | 2 => s
      | _ => s.probeTrace t k p
    else s)

/-- R155: the cycles that a packet leaving through a watched port was blocked. -/
def State.probeBlocked (s : State) (t port dir : Nat) (p : Packet) (blocked : Nat) : State :=
  s.each 8 (fun k s =>
    if s.probeAt k t port dir && s.probeHit k (pHeader p) && s.get (Reg.RTR_PRB_CTL_MODE k) == 2 then
      s.sat (Reg.RTR_PRB_CNT_COUNT k) blocked
    else s)

/-- R155, R156: a static flit matches only a counting probe with STATIC = 1.  DESIGN CHOICE: one that counts blocked cycles counts none
for it. -/
def State.probeStatic (s : State) (t port dir : Nat) : State :=
  s.each 8 (fun k s =>
    if s.probeAt k t port dir && s.on (Reg.RTR_PRB_CTL_STATIC k) && decide (s.get (Reg.RTR_PRB_CTL_MODE k) < 2) then
      s.sat (Reg.RTR_PRB_CNT_COUNT k) 1 else s)

/-! ### Buffers and credits (R145, R150, R153) -/

/-- Credits for flits of an input buffer go back to the router upstream; while FREEZE is 1 they are kept (R145, R153). -/
def State.giveCredit (s : State) (t key n : Nat) : State :=
  if s.on (Reg.RTR_CTL_FREEZE t) then
    s.onRouter t (fun r => { r with keptCr := upd r.keptCr key (look r.keptCr key + n) })
  else
    let up := 2 * facing (key / 2) + key % 2
    s.onRouter (s.nb t (key / 2)) (fun r => { r with owed := upd r.owed up (look r.owed up + n) })

/-- A packet enters the torus at the local injection point (port 4). -/
def State.injectLocal (s : State) (t : Nat) (p : Packet) : State :=
  (s.onRouter t (fun r => { r with dyn := pushAt r.dyn 8 p })).probePacket t 4 0 p

/-- R142, R150, R152, R153: the router itself answers a request: an error completion of class 7, which is always injected with
PRI = 1 (R148). -/
def State.routerAnswer (s : State) (t : Nat) (p : Packet) (status : Nat) : State :=
  s.injectLocal t (withPRI (errCpl t p status) 1)

/-- R150, R153: a packet is absorbed and counted; a request is answered with a status. -/
def State.absorb (s : State) (t : Nat) (p : Packet) (status : Nat) : State :=
  if isReq p then (s.sat (Reg.RTR_ABSORB_REQ t) 1).routerAnswer t p status
  else s.sat (Reg.RTR_ABSORB_OTHER t) 1

/-- R145, R155: a dynamic flit arrives; the packet is held once its last flit is here.  A draining router absorbs it (R153). -/
def State.takeDynamic (s : State) (t port tag : Nat) (d : Flit) : State :=
  let key := 2 * port + tagVC tag
  let r := s.router t
  let got := look r.part key ++ [d]
  match got with
  | [] => s
  | h :: body =>
    let p : Packet := ⟨h, body⟩
    if body.length = pLEN p then
      let s1 := (s.setRouter t { r with part := upd r.part key [] }).probePacket t port 0 p
      if r.drain then (s1.absorb t p 2).giveCredit t key (body.length + 1)
      else s1.onRouter t (fun r => { r with dyn := pushAt r.dyn key p })
    else s.setRouter t { r with part := upd r.part key got }

/-- R125, R126: a flit that cannot be corrected: it and the flits behind it are discarded and a replay is asked for.  DESIGN CHOICE:
RTR_REPLAY.COUNT, of which R158 does not say it, stays at its greatest value. -/
def State.flitFail (s : State) (t port : Nat) : State :=
  let r := s.router t
  let n := look r.fails port + 1
  let s1 := (s.setRouter t { r with await := upd r.await port true, fails := upd r.fails port n }).sat
    (Reg.RTR_REPLAY_COUNT t) 1
  if n = 8 then (s1.set1 (Reg.RTR_ERR_LINK_PERSIST t)).groomRec 3 3 0x17 (argOf t port) else s1

/-- R125: the next flit of input `port` arrives. -/
def State.flitReceive (t port : Nat) (c : Check) (s : State) : State :=
  let r := s.router t
  match look r.wire port with
  | [] => s
  | x :: rest =>
    let s0 := s.setRouter t { r with wire := upd r.wire port rest }
    if x.seq ≠ look r.rxSeq port then s0
    else if c = .double ∨ tagLegal x.tag = false then s0.flitFail t port
    else
      let s1 := (s0.onRouter t (fun r => { r with rxSeq := upd r.rxSeq port (x.seq + 1), await := upd r.await port false
                                                  fails := upd r.fails port 0 })).set1If (c == .single) (Reg.RTR_ERR_FLIT_CE t)
      if x.tag = 0 then s1.takeStatic t port x.data else s1.takeDynamic t port x.tag x.data

def execFlitReceive (t : Fin 1024) (port : Fin 4) (c : Check) (s : State) : Out :=
  onMapped t s (fun s => if s.armed 0 (4 * t + port) then s.flitReceive t port c else s)

/-- R125: the replay request reaches the sender, which sends again from the failed flit onwards, in order. -/
def State.replay (t port : Nat) (s : State) : State :=
  let r := s.router t
  if look r.await port then
    let up := s.nb t port
    let again := (look (s.router up).kept (facing port)).filter (fun x => decide (look r.rxSeq port ≤ x.seq))
    s.setRouter t { r with wire := upd r.wire port (look r.wire port ++ again) }
  else s

def execReplayRequest (t : Fin 1024) (port : Fin 4) (s : State) : Out := onMapped t s (State.replay t port)

/-! ### Injection (R142, R148) -/

/-- The injection point of a waiting packet: 1 the attached block, 0 the Team's side, where the router's own completions
(STGT = 2) wait too; isolation stops those of the isolated target alone (R150). -/
def pointOf (p : Packet) : Nat := if pSTGT p = 1 then 1 else 0

def withVC (p : Packet) (v : Nat) : Packet :=
  { p with head := BitVec.ofNat 120 (p.head.toNat - pVC p * 2 ^ 108 + v * 2 ^ 108) }

/-- R142: a packet that may not enter the torus. -/
def State.badDest (s : State) (p : Packet) : Bool :=
  decide (s.nRows ≤ pDY p) || pTGT p == 3 || (pTGT p == 1 && (s.attached (pDY p * 32 + pDX p)).isNone)

/-- R142, R148, R150, R153: the packet at place `i` of the waiting list is injected, where nothing of its point and class
waits before it. -/
def State.packetInject (t i : Nat) (s : State) : State :=
  let r := s.router t
  match r.inject[i]? with
  | none => s
  | some p =>
    let pt := pointOf p
    let blocked := (r.inject.take i).any (fun q => pointOf q == pt && pCLASS q == pCLASS p)
      || s.on (Reg.RTR_CTL_FREEZE t) || (if pt = 1 then s.on (Reg.RTR_CTL_ISOLATE_ATT t) else pSTGT p == 0 && s.on (Reg.RTR_CTL_ISOLATE t))
    if blocked then s
    else
      let r1 := { r with inject := r.inject.eraseIdx i }
      if s.badDest p then
        if isReq p then (s.setRouter t r1).routerAnswer t p 4 else s.setRouter t r1
      else
        let n := p.body.length + 1
        let k := 8 * pt + pCLASS p
        if pCLASS p = 7 then (s.setRouter t r1).injectLocal t (withPRI p 1)
        else if n ≤ look r.tokens k then
          (s.setRouter t { r1 with tokens := upd r1.tokens k (look r.tokens k - n) }).injectLocal t (withPRI p 1)
        else if s.on (Reg.RTR_REG_EXCESS (pCLASS p)) then (s.setRouter t r1).injectLocal t (withPRI p 0)
        else s

def execPacketInject (t : Fin 1024) (i : Nat) (s : State) : Out := onMapped t s (State.packetInject t i)

/-- R148: 256 cycles of the island have passed: every regulator of the router gains RATE tokens, up to BURST. -/
def State.refill (t : Nat) (s : State) : State :=
  let tok := (List.range 2).foldl (fun l pt => (List.range 7).foldl (fun l c =>
    upd l (8 * pt + c) (min (s.get (Reg.RTR_REG_BURST c)) (look l (8 * pt + c) + s.get (Reg.RTR_REG_RATE c)))) l)
    (s.router t).tokens
  s.onRouter t (fun r => { r with tokens := tok })

def execRegulatorRefill (t : Fin 1024) (s : State) : Out := onMapped t s (State.refill t)

/-! ### Routing (R143 to R147) -/

/-- The first packet of priority `pri` in a buffer that wants output `out`. -/
def State.wants (s : State) (t out pri key : Nat) : Option Packet :=
  (look (s.router t).dyn key).find? (fun p => s.routePort t p == out && pPRI p == pri)

/-- R145: credit for the whole packet on its virtual channel of an output. -/
def State.hasCredit (s : State) (t out key : Nat) (p : Packet) : Bool :=
  if out = 4 then true
  else decide (look (s.router t).used (2 * out + s.outVC t (key / 2) (key % 2) out) + p.body.length + 1 ≤ 8)

/-- R146: the packet that an output takes next: of those with PRI = 1 while one of them waits for the output, and of the others else,
by round robin over the buffers, the first that finds credit. -/
def State.pick (s : State) (t out : Nat) : Option (Nat × Packet) :=
  let order := (List.range 10).map (fun i => (look (s.router t).rr out + 1 + i) % 10)
  let pri := ofBool (order.any (fun key => (s.wants t out 1 key).isSome))
  order.findSome? (fun key =>
    match s.wants t out pri key with
    | some p => if s.hasCredit t out key p then some (key, p) else none
    | none => none)

/-- R143 to R146, R153: the router starts the next packet on output `out` (4: local); `blocked` cycles it has waited. -/
def State.packetRoute (t out blocked : Nat) (s : State) : State :=
  if s.on (Reg.RTR_CTL_FREEZE t) && !(s.router t).drain then s
  else
    match s.pick t out with
    | none => s
    | some (key, p) =>
      let n := p.body.length + 1
      let s1 := s.onRouter t (fun r => { r with dyn := upd r.dyn key ((look r.dyn key).erase p), rr := upd r.rr out key })
      let s2 := if key < 8 then s1.giveCredit t key n else s1
      let vc := s.outVC t (key / 2) (key % 2) out
      let q := if out = 4 then p else withVC p vc
      let s3 := ((s2.probeBlocked t (key / 2) 0 p blocked).probeBlocked t out 1 q blocked).probePacket t out 1 q
      if out = 4 then s3.onRouter t (fun r => { r with arrived := r.arrived ++ [p] })
      else
        let s4 := s3.onRouter t (fun r => { r with used := upd r.used (2 * out + vc) (look r.used (2 * out + vc) + n) })
        q.body.foldl (fun s f => s.sendFlit t out (tagBody vc) f) (s4.sendFlit t out (tagHead vc) q.head)

def execPacketRoute (t : Fin 1024) (out : Fin 5) (blocked : Nat) (s : State) : Out :=
  onMapped t s (State.packetRoute t out blocked)

/-- R145: credits in the crossing reach the router. -/
def State.creditReturn (t port vc : Nat) (s : State) : State :=
  let r := s.router t
  let k := 2 * port + vc
  s.setRouter t { r with used := upd r.used k (look r.used k - look r.owed k), owed := upd r.owed k 0 }

def execCreditReturn (t : Fin 1024) (port : Fin 4) (vc : Fin 2) (s : State) : Out :=
  onMapped t s (fun s => if s.armed 0 (4 * t + port) then s.creditReturn t port vc else s)

/-! ### Freezing, isolation, dead targets (R150 to R154) -/

/-- R153: FREEZE clears: kept credits go back, the drain ends. -/
def State.unfreeze (s : State) (t : Nat) : State :=
  let kept := (s.router t).keptCr
  let s1 := ((s.clr (Reg.RTR_CTL_FREEZE t)).clr (Reg.RTR_STAT_FROZEN t)).onRouter t
    (fun r => { r with drain := false, keptCr := [] })
  kept.foldl (fun s p => s.giveCredit t p.1 p.2) s1

/-- R153, R154: the FREEZE bit of a write of RTR_CTL; `late`: it clears in the cycle in which the count reaches 2,048. -/
def State.freezeBit (s : State) (t : Nat) (v : Word) (late : Bool) : State :=
  let was := s.on (Reg.RTR_CTL_FREEZE t)
  if v.getLsbD 2 && !was then (s.set1 (Reg.RTR_CTL_FREEZE t)).set1 (Reg.RTR_STAT_FROZEN t)
  else if !v.getLsbD 2 && was then (s.unfreeze t).set1If (late && !(s.router t).drain) (Reg.RTR_STAT_FRZ_LATE t)
  else s

/-- R137, R150, R153, R154, R454: a write of RTR_CTL.  In a mode with strides a write that sets FREEZE without isolating is
ignored. -/
def State.rtrCtl (s : State) (t : Nat) (v : Word) (late : Bool) : State :=
  if v.getLsbD 2 && !s.on (Reg.RTR_CTL_FREEZE t) && s.strideMode && !(v.getLsbD 0 || v.getLsbD 1) then
    s.set1 (Reg.RTR_ERR_FRZ_REFUSED t)
  else
    let s0 := if !v.getLsbD 0 && s.get (Reg.TEAM_PWR_STATE t) != 1 then s.set1 (Reg.TEAM_PWR_PWR_REFUSED t)
      else s.put (Reg.RTR_CTL_ISOLATE t) (ofBool (v.getLsbD 0))
    let s1 := s0.put (Reg.RTR_CTL_ISOLATE_ATT t) (ofBool (v.getLsbD 1))
    let s2 := s1.freezeBit t v late
    if v.getLsbD 3 then s2.swapArm t else s2

def execFreezeWrite (t : Fin 1024) (v : Word) (late : Bool) (s : State) : Out := onMapped t s (fun s => s.rtrCtl t v late)

/-- R150: a write of RTR_CTL for its isolation bits. -/
def execIsolateWrite (t : Fin 1024) (v : Word) (s : State) : Out := onMapped t s (fun s => s.rtrCtl t v false)

/-- R153: FREEZE has been 1 for 2,048 cycles: every packet held is absorbed. -/
def State.freezeDrain (t : Nat) (s : State) : State :=
  let r := s.router t
  if s.on (Reg.RTR_CTL_FREEZE t) && !r.drain then
    let s1 := s.setRouter t { r with drain := true, dyn := [], arrived := [] }
    let s2 := (List.range 9).foldl (fun s key => (look r.dyn key).foldl (fun s p =>
      let s1 := s.absorb t p 2
      if key < 8 then s1.giveCredit t key (p.body.length + 1) else s1) s) s1
    r.arrived.foldl (fun s p => s.absorb t p 2) s2
  else s

def execFreezeDrain (t : Fin 1024) (s : State) : Out := onMapped t s (State.freezeDrain t)

/-- R152: the router isolates the target that accepted no head flit (1: the attached block), with a record and an event. -/
def State.targetDead (s : State) (t tgt : Nat) : State :=
  let s1 := (if tgt = 1 then s.set1 (Reg.RTR_CTL_ISOLATE_ATT t) else s.set1 (Reg.RTR_CTL_ISOLATE t)).set1 (Reg.RTR_STAT_DEAD t)
  (s1.groomRec 3 3 0x18 (argOf t tgt)).postEvent 3 ⟨0x0009, 3, packBytes [(16, 2, t), (18, 1, tgt)]⟩

/-- R152: the local target did not accept the head flit in time; `late`: it accepted in the cycle of the expiry. -/
def State.targetTimeout (t : Nat) (late : Bool) (s : State) : State :=
  let r := s.router t
  match r.arrived with
  | [] => s
  | p :: rest =>
    if 2 ≤ pTGT p then s
    else if late then s.set1 (Reg.RTR_STAT_TMO_LATE t)
    else
      let s1 := s.setRouter t { r with arrived := rest }
      (if isReq p then s1.routerAnswer t p 3 else s1).targetDead t (pTGT p)

def execTargetTimeout (t : Fin 1024) (late : Bool) (s : State) : Out := onMapped t s (State.targetTimeout t late)

end Sys2Proof.Machine
end

