-- ==== Sys2Proof/Machine/Gddr.lean ====
section
/-! DEFINITION. GDDR6 channels and Memory Gateways (chapter 10): the hash, windows, scheduled and dynamic requests,
refresh, errors, training, drift pauses, self refresh, hot spots. -/
namespace Sys2Proof.Machine

/-! ### Geometry and the hash (R264, R269) -/

/-- RB: row-address bits of the channel. -/
def State.rowBits (s : State) (c : Nat) : Nat := 14 + s.get (Reg.GD_CH_CTL_DENSITY c) + s.get (Reg.GD_CH_CTL_CLAMSHELL c)

/-- Capacity of the channel in bytes: 16 * 2^RB * 2 KiB. -/
def State.capacity (s : State) (c : Nat) : Nat := 16 * 2 ^ s.rowBits c * 2048

/-- Rotation of a `w`-bit number right by `k` places. -/
def ror (w k n : Nat) : Nat := (n / 2 ^ k + n % 2 ^ k * 2 ^ (w - k)) % 2 ^ w

def rowOf (rb b : Nat) : Nat := bits b (14 + rb) 15

/-- R269: the bank of channel byte address b under a seed. -/
def bankOf (seed rb b : Nat) : Nat :=
  let row := rowOf rb b
  let f := match seed with
    | 0 => foldBits 4 8 row
    | 1 => foldBits 4 8 (ror rb 1 row)
    | 2 => foldBits 4 8 (ror rb 2 row) ^^^ bits b 8 5
    | _ => foldBits 4 8 (ror rb 3 row) ^^^ bits b 10 7
  bits b 14 11 ^^^ f

def State.bank (s : State) (c b : Nat) : Nat := bankOf (s.get (Reg.GW_CTL_SEED c)) (s.rowBits c) b
def State.row (s : State) (c b : Nat) : Nat := rowOf (s.rowBits c) b

/-! ### Windows (R273, R275) -/

/-- Window kinds. -/
abbrev kDesign : Nat := 0
abbrev kCapture : Nat := 1
abbrev kSnapshot : Nat := 2
abbrev kTrace : Nat := 3
abbrev kProbe : Nat := 4
abbrev kFirmware : Nat := 5
abbrev kHost : Nat := 6

/-- The window of channel byte addresses [b, b + n) at gateway c: BASE holds word address bits [29:24]. -/
def State.window (s : State) (c b n : Nat) : Option Nat :=
  (List.range 16).find? (fun k => s.on (Reg.GW_WIN_VALID c k) &&
    decide (s.get (Reg.GW_WIN_BASE c k) * 2 ^ 26 ≤ b ∧
      b + n ≤ s.get (Reg.GW_WIN_BASE c k) * 2 ^ 26 + (s.get (Reg.GW_WIN_SIZE c k) + 1) * 2 ^ 26))

/-! ### Bursts -/

/-- R294: the bank that took more than 1,024 of the bursts of a window. -/
def hotBank (perBank : List (Nat × Nat)) : Option Nat := (List.range 16).find? (fun b => decide (1024 < look perBank b))

/-- R294: a burst counts in the window of 4,096, which ends with its 4,096th, and for its bank; the row it opens; the command retry
buffer. -/
def State.countBurst (s : State) (c b : Nat) (sched : Bool) : State :=
  let bank := s.bank c b
  s.onChan c (fun v =>
    let per := upd v.perBank bank (look v.perBank bank + 1)
    let last := decide (4096 ≤ v.bursts + 1)
    { v with
    bursts := if last then 0 else v.bursts + 1
    perBank := if last then [] else per
    closed := if last then v.closed ++ [hotBank per] else v.closed
    rows := upd v.rows bank (some (s.row c b))
    consec := if sched then v.consec + 1 else 0
    retry := (v.retry ++ [b]).drop (v.retry.length + 1 - 64) })

/-- Device address of a channel byte address. -/
def dAddr (c b : Nat) : Nat := 2 ^ 32 * c + b

/-- GW_STAT follows the scheduled queue (R296). -/
def State.sqCount (s : State) (c : Nat) : State :=
  let n := (s.chan c).sq.length
  let s1 := s.put (Reg.GW_STAT_SQ_OCC c) n
  if s.get (Reg.GW_STAT_SQ_PEAK c) < n then s1.put (Reg.GW_STAT_SQ_PEAK c) n else s1

/-- R278: the hand-over of a scheduled request; a flit with VALID = 0 is discarded without a report (R277). -/
def State.handOver (s : State) (c : Nat) (f : Flit) : State :=
  if bit f.toNat 73 then
    (s.onChan c (fun v => { v with sq := v.sq ++ [(v.seq, f)], seq := v.seq + 1 })).sqCount c
  else s

/-- R280: the response to a scheduled read. -/
def gwRsp (c site : Nat) (f : Flit) (status data : Nat) : Packet :=
  let _ := c
  mkPacket (bits f.toNat 105 96) 0 5 5 site 1 (bits f.toNat 95 88) status (bits f.toNat 87 78) (bits f.toNat 47 24) data []

/-- A response waits at the gateway (R280); DATA_ERROR shows in GW_ERR. -/
def State.gwAnswer (s : State) (c : Nat) (f : Flit) (status data : Nat) : State :=
  (match s.site c with
    | some t => s.onChan c (fun v => { v with rsp := v.rsp ++ [gwRsp c t f status data] })
    | none => s).set1If (status == 5) (Reg.GW_ERR_DATA_ERROR c)

/-- R268, R275: why an access of n bytes at B is refused with BAD_ADDRESS. -/
def State.badAddr (s : State) (c w b n : Nat) : Bool := decide (2 ^ 30 ≤ w) || decide (s.capacity c < b + n)

/-- R280: the oldest response leaves the gateway for the torus. -/
def State.gwSend (c : Nat) (s : State) : State :=
  match (s.chan c).rsp with
  | [] => s
  | p :: rest => (s.onChan c (fun v => { v with rsp := rest })).waitAt c p

def execGwRspSend (c : Fin 16) (s : State) : Out := .next (if s.armed 3 c then s.gwSend c else s)

/-! ### Dynamic traffic (R282) -/

/-- The 24-bit words of bytes in containers of four (R6). -/
def wordsOf : List Byte → List W24
  | a :: b :: c :: _ :: rest => (c ++ b ++ a) :: wordsOf rest
  | _ => []

/-- The bytes of words in containers (R6: the high byte is 0). -/
def bytesOfWords (ws : List W24) : List Byte := ws.flatMap (fun w => leBytes 4 w.toNat)

/-- The window that an access of n bytes at B, word address W, falls in; none for an access outside every window (R268, R275). -/
def State.winAt (s : State) (c w b n : Nat) : Option Nat := if s.badAddr c w b n then none else s.window c b n

/-- A dynamic request packet reaches the gateway: it waits in the channel, or is refused with BAD_ADDRESS (R268, R275);
in FAILED every read gets data 0 with DATA_ERROR and every write is dropped (R287). -/
def State.gwAccept (s : State) (c t : Nat) (p : Packet) (w : Nat) : State :=
  let n := pCount p
  let b := 4 * w
  let write := pTYPE p == 1
  if s.chanState c = gFailed then
    if write then s.wait t (writeAck t p) else (s.set1 (Reg.GW_ERR_DATA_ERROR c)).wait t (readCpl t p 5 (List.replicate n 0))
  else
    match s.winAt c w b (4 * n) with
    | none => (s.set1 (Reg.GW_ERR_OUT_OF_REGION c)).wait t (errCpl t p 4)
    | some k => s.onChan c (fun v => { v with
        seq := v.seq + 1
        dyn := v.dyn ++ [⟨v.seq, some p, none, b, 4 * n, write, if write then bytesOfWords ((bodyWords p).take n) else [], [],
          s.get (Reg.GW_WIN_KIND c k) == kCapture, false, false⟩] })

/-- A capture burst or a probe record by packet (R307, R155): bytes written without a completion. -/
def State.gwAcceptBytes (s : State) (d : Nat) (data : List Byte) : State :=
  let c := d / 2 ^ 32
  let b := d % 2 ^ 32
  if s.chanState c = gFailed then s
  else
   match s.window c b data.length with
   | none => s.set1 (Reg.GW_ERR_OUT_OF_REGION c)
   | some k => s.onChan c (fun v => { v with
      seq := v.seq + 1
      dyn := v.dyn ++ [⟨v.seq, none, none, b, data.length, true, data, [], s.get (Reg.GW_WIN_KIND c k) == kCapture, false, false⟩] })

/-- The dynamic requests that wait in a channel, the staged bursts of the capture engine among them. -/
def State.waiting (s : State) (c : Nat) : List DynReq := (s.chan c).dyn ++ (s.cap.staging.filter (fun b => b.1 == c)).map (·.2)

/-- A request still has to touch the 32-byte burst at an address. -/
def touches (r : DynReq) (a : Nat) : Bool := decide (r.addr / 32 ≤ a / 32 ∧ a / 32 ≤ (r.addr + r.left - 1) / 32)

/-- Rule 3 of R282: an access earlier than `seq`, scheduled or dynamic, to the 32-byte burst at `a` waits. -/
def State.behind (s : State) (c seq a : Nat) : Bool :=
  (s.chan c).sq.any (fun r => decide (r.1 < seq) && 4 * bits r.2.toNat 71 24 / 32 == a / 32)
  || (s.waiting c).any (fun r => decide (r.seq < seq) && touches r a)

/-- The oldest of some requests. -/
def oldest (l : List DynReq) : Option DynReq :=
  l.foldl (fun b q => match b with | none => some q | some r => if q.seq < r.seq then some q else some r) none

/-- A transfer of the host port by its number. -/
def State.txOf (s : State) (id : Nat) : Option HostTx := s.pcie.txs.find? (fun x => x.id == id)

/-- The request is one of BAR2: of the host port, and of no MEM_COPY. -/
def State.ofBar2 (s : State) (q : DynReq) : Bool :=
  match q.host with
  | some h => (match s.txOf h.1 with | some x => !x.copy | none => true)
  | none => false

/-- R367: an earlier BAR2 access to the channel waits. -/
def State.bar2Behind (s : State) (c : Nat) (q : DynReq) : Bool :=
  s.ofBar2 q && (s.waiting c).any (fun r => s.ofBar2 r && decide (r.seq < q.seq))

/-- R368: a write of BAR2 has not been performed, the check of its bursts included (R285). -/
def State.hostWrites (s : State) : Bool :=
  (List.range 16).any (fun c => (s.waiting c).any (fun q => q.write && s.ofBar2 q)
    || (s.chan c).flight.any (fun b => b.write && (match b.dyn with | some q => s.ofBar2 q | none => false)))

/-- Rules 1 to 3 and 5, and the order of BAR2 accesses (R367): the dynamic request to serve next. -/
def State.dynPick (s : State) (c : Nat) (capSpent : Bool) : Option DynReq :=
  let can := (s.waiting c).filter (fun q => !s.behind c q.seq q.addr && !(q.cap && capSpent) && !s.bar2Behind c q)
  let hit (q : DynReq) : Bool := look (s.chan c).rows (s.bank c q.addr) == some (s.row c q.addr)
  ((oldest (can.filter (·.aged))).orElse (fun _ => oldest (can.filter hit))).orElse (fun _ => oldest can)

/-- Rule 3 of R282: the oldest scheduled request waits behind an earlier dynamic access to the same burst. -/
def State.schedBehind (s : State) (c : Nat) : Bool :=
  match (s.chan c).sq with
  | r :: _ => s.behind c r.1 (4 * bits r.2.toNat 71 24)
  | [] => false

/-- R279: the oldest scheduled request is checked and issued.  In FAILED a read is answered with DATA_ERROR and a write
dropped (R287).  It waits while the channel serves nothing, while a forced refresh is due (R283), behind an earlier access to the same
burst, and while DYN_MIN lets a dynamic burst that can go, go first (R282). -/
def State.gwServe (c : Nat) (capSpent : Bool) (s : State) : State :=
  let v := s.chan c
  match v.sq with
  | [] => s
  | (_, f) :: rest =>
    let st := s.chanState c
    let w := bits f.toNat 71 24
    let write := bit f.toNat 72
    let s1 := (s.setChan c { v with sq := rest }).sqCount c
    if st = gFailed then (if write then s1 else s1.gwAnswer c f 5 0)
    else if bits f.toNat 77 74 ≠ c then
      let s2 := s1.set1 (Reg.GW_ERR_GW_MISMATCH c)
      if write then s2 else s2.gwAnswer c f 4 0
    else if st ≠ gReady ∨ v.pausing ∨ v.force ∨ s.schedBehind c then s
    else if (s.dynPick c capSpent).isSome && decide (s.get (Reg.GW_CTL_DYN_MIN c) ≤ v.consec) then s
    else
      let b := 4 * w
      let ok := match s.winAt c w b 4 with
        | some k => s.on (Reg.GW_WIN_SCHED c k)
        | none => false
      if ok then
        let s2 := s1.countBurst c b true
        if write then
          (s2.setMemBytes (dAddr c b) (leBytes 4 (bits f.toNat 23 0))).onChan c
            (fun v => { v with flight := v.flight ++ [⟨b, 4, true, [], some f, none⟩] })
        else s2.onChan c (fun v => { v with flight := v.flight ++ [⟨b, 4, false, s.memBytes (dAddr c b) 4, some f, none⟩] })
      else
        let s2 := s1.set1 (Reg.GW_ERR_OUT_OF_REGION c)
        if write then s2 else s2.gwAnswer c f 4 0

def execGwRequestServe (c : Fin 16) (capSpent : Bool) (s : State) : Out := .next (s.gwServe c capSpent)

/-- The bytes of a request's next burst: up to the end of the 32-byte burst. -/
def burstLen (q : DynReq) : Nat := min q.left (32 - q.addr % 32)

/-- The request q of channel c has become q1: it leaves its queue once nothing of it is left. -/
def State.dynPut (s : State) (c : Nat) (q q1 : DynReq) : State :=
  if (s.chan c).dyn.contains q then
    s.onChan c (fun v => { v with dyn := if q1.left = 0 then v.dyn.erase q else v.dyn.map (fun r => if r = q then q1 else r) })
  else
    { s with cap := { s.cap with staging :=
        if q1.left = 0 then s.cap.staging.erase (c, q) else s.cap.staging.map (fun b => if b = (c, q) then (c, q1) else b) } }

/-- R282: the channel issues one dynamic burst: the capture engine's staged bursts take part as requests of the capture
kind, each within a capture window (R303, R275).  `blocked`: the bank of the oldest scheduled request cannot accept a command;
`capSpent`: the limit of rule 5 is reached. -/
def State.dynBurst (c : Nat) (blocked capSpent : Bool) (s : State) : State :=
  let v := s.chan c
  let turn := v.sq.isEmpty || blocked || s.schedBehind c || decide (s.get (Reg.GW_CTL_DYN_MIN c) ≤ v.consec)
  if s.chanState c ≠ gReady ∨ v.pausing ∨ v.force ∨ !turn then s
  else
    match s.dynPick c capSpent with
    | some q =>
      let n := burstLen q
      let q1 := { q with addr := q.addr + n, left := q.left - n, data := q.data.drop n,
                         got := if q.write then [] else q.got ++ s.memBytes (dAddr c q.addr) n }
      let s1 := s.dynPut c q q1
      if !v.dyn.contains q && (s.window c q.addr n).isNone then (s1.set1 (Reg.GW_ERR_OUT_OF_REGION c)).capSettle
      else
        let s2 := s1.onChan c (fun v => { v with flight := v.flight ++ [⟨q.addr, n, q.write, [], none, some q1⟩] })
        let s3 := if q.write then s2.setMemBytes (dAddr c q.addr) (q.data.take n) else s2
        (s3.countBurst c q.addr false).capSettle
    | none => s

def execDynamicBurst (c : Fin 16) (blocked capSpent : Bool) (s : State) : Out := .next (s.dynBurst c blocked capSpent)

/-- R282 rule 1: the oldest dynamic request that has not aged has waited 4 us. -/
def State.dynAged (c : Nat) (s : State) : State :=
  match oldest ((s.waiting c).filter (fun q => !q.aged)) with
  | some q => s.dynPut c q { q with aged := true }
  | none => s

def execDynamicRequestAged (c : Fin 16) (s : State) : Out := .next (s.dynAged c)

/-! ### Errors (R285 to R287) -/

/-! #### Transfers of the host port (R363, R364, R412) -/

/-- Bytes as 32-bit words, the lowest byte first, the last word filled with zeros: the data of a read. -/
def byteWords (bs : List Byte) : List Word :=
  (List.range ((bs.length + 3) / 4)).map (fun i => BitVec.ofNat 32 (ofLeBytes ((bs.drop (4 * i)).take 4)))

/-- The bytes that a transfer has read; bytes not read, and the high bytes of design containers (R6), are 0. -/
def HostTx.bytes (x : HostTx) : List Byte :=
  (List.range x.size).map (fun i =>
    if x.masked.contains i then 0
    else match x.got.find? (fun r => decide (r.1 ≤ i ∧ i < r.1 + r.2.length)) with
      | some r => r.2.getD (i - r.1) 0
      | none => 0)

/-- R363: a request of a transfer is done: the last one of a BAR2 read gives the host its data. -/
def State.hostDone (s : State) (id place : Nat) (bs : List Byte) (bad : Bool) : State :=
  match s.txOf id with
  | none => s
  | some x =>
    let x1 : HostTx := { x with got := x.got ++ [(place, bs)], left := x.left - 1, failed := x.failed || bad }
    if x1.left = 0 ∧ !x.copy then
      { s with pcie := { s.pcie with txs := s.pcie.txs.erase x }, rdata := byteWords x1.bytes }
    else { s with pcie := { s.pcie with txs := s.pcie.txs.map (fun y => if y.id = id then x1 else y) } }

/-- The answer of a dynamic request whose last burst is done. -/
def State.dynAnswer (s : State) (c : Nat) (q : DynReq) (bad : Bool) : State :=
  match q.host with
  | some h => s.hostDone h.1 h.2 (if q.write then [] else q.got) bad
  | none =>
    match q.pkt, s.site c with
    | some p, some t =>
      let s1 := s.set1If bad (Reg.GW_ERR_DATA_ERROR c)
      if q.write then s1.wait t (if bad then errCpl t p 5 else writeAck t p)
      else s1.wait t (readCpl t p (if bad then 5 else 0) (wordsOf q.got))
    | _, _ => s

/-- R412: the request is one of a MEM_COPY. -/
def State.isCopy (s : State) (q : DynReq) : Bool :=
  match q.host with
  | some h => match s.txOf h.1 with | some x => x.copy | none => false
  | none => false

/-- The stride in which a fault of the memory takes effect: the chip's (R464). -/
def State.crcFail (s : State) (c b : Nat) : State :=
  let s1 := ((s.set1 (Reg.GD_CH_STAT_CRC_FAIL c)).groomRec 2 5 0x30 (argOf c (b % 2 ^ 32))).postEvent 2
    ⟨0x0020, 16, packBytes [(16, 1, c), (24, 8, dAddr c b)]⟩
  s1.spoil s.stride

/-- Bytes the spec leaves undefined after a write that failed four reissues (R285). -/
def freeBytes (k n : Nat) : List Byte := (List.range n).map (fun i => Config.freeByte (k + i))

/-- R285: a burst at a device address of a transfer made as a whole, with its CRC mismatches; after four failed reissues of a write the
burst's bytes in the device are undefined. -/
def State.bulkBurst (s : State) (x fails : Nat) (write : Bool) : State :=
  let c := x / 2 ^ 32
  if fails = 0 then s
  else if fails ≤ 4 then s.sat (Reg.GD_CH_ERRCNT_CRC_REPLAY c) 1
  else
    let s1 := s.crcFail c (x % 2 ^ 32)
    if write then (s1.setMemBytes (x / 32 * 32) (freeBytes s1.free 32)).spendN 32 else s1

/-- The rest of a request in the channel learns that one of its bursts failed. -/
def State.markBad (s : State) (c : Nat) (seq : Nat) (q : DynReq) : State :=
  s.onChan c (fun v => { v with dyn := v.dyn.map (fun r => if r.seq = seq then { r with bad := true, got := q.got } else r) })

/-- R285: the EDC CRC of the oldest burst in flight is checked: `fails` mismatches in a row (5: the four reissues failed),
with the bytes last received. -/
def State.crcCheck (c fails : Nat) (last : List Byte) (s : State) : State :=
  let v := s.chan c
  match v.flight with
  | [] => s
  | b :: rest =>
    let s0 := s.setChan c { v with flight := rest }
    let s1 := if 0 < fails ∧ fails ≤ 4 then s0.sat (Reg.GD_CH_ERRCNT_CRC_REPLAY c) 1 else s0
    let bad := decide (5 ≤ fails)
    let s2 := if bad then s1.crcFail c b.addr else s1
    let s3 := if bad && b.write then
        let a := dAddr c (b.addr / 32 * 32)
        (s2.setMemBytes a (freeBytes s2.free 32)).spendN 32
      else s2
    match b.sched, b.dyn with
    | some f, _ =>
      if b.write then s3
      else
        let data := ofLeBytes (if bad then last else b.got) % 2 ^ 24
        s3.gwAnswer c f (if bad then 5 else 0) data
    | none, some q =>
      let q1 := if bad && !q.write then { q with got := q.got.take (q.got.length - b.len) ++ (last ++ b.got).take b.len } else q
      if q.left = 0 then s3.dynAnswer c q1 (bad || q.bad)
      else if bad && s3.isCopy q then
        (s3.onChan c (fun v => { v with dyn := v.dyn.filter (fun r => r.seq != q.seq) })).dynAnswer c
          { q1 with got := q1.got.take (q1.got.length - b.len) } true
      else if bad then s3.markBad c q.seq q1 else s3
    | none, none => s3

def execBurstCrcCheck (c : Fin 16) (fails : Nat) (last : List Byte) (s : State) : Out := .next (s.crcCheck c fails last)

/-- R287: a dynamic request of a channel in FAILED: a read ends with data 0 and DATA_ERROR, a write is dropped and acknowledged. -/
def State.failDyn (s : State) (c : Nat) (q : DynReq) : State :=
  s.dynAnswer c { q with got := leBytes (q.got.length + q.left) 0 } (!q.write)

/-- R287: a burst on its way when the channel fails: a scheduled read is answered, and a request whose last burst it was. -/
def State.failBurst (s : State) (c : Nat) (b : Burst) : State :=
  match b.sched, b.dyn with
  | some f, _ => if b.write then s else s.gwAnswer c f 5 0
  | none, some q => if q.left = 0 then s.failDyn c q else s
  | none, none => s

/-- R287, R291: the channel enters FAILED: the record and the event; what is on its way and what waits is answered, staged bursts are
dropped, and PAUSE clears. -/
def State.chanFail (s : State) (c : Nat) : State :=
  let v := s.chan c
  let s0 : State := { s with cap := { s.cap with staging := s.cap.staging.filter (fun b => b.1 != c) } }
  let s1 := ((s0.setChanState c gFailed).clr (Reg.GD_CH_CTL_PAUSE c)).setChan c { v with
    sq := [], dyn := [], flight := [], pausing := false, pauseDue := false, force := false }
  let s2 := ((s1.sqCount c).groomRec 2 5 0x31 (argOf (c + 256 * gFailed) 0)).postEvent 2
    ⟨0x0021, 2, packBytes [(16, 1, c), (17, 1, gFailed)]⟩
  let s3 := v.flight.foldl (fun s b => s.failBurst c b) s2
  let s4 := v.sq.foldl (fun s r => if bit r.2.toNat 72 then s else s.gwAnswer c r.2 5 0) s3
  ((v.dyn.foldl (fun s q => s.failDyn c q) s4).capSettle).spoil s.stride

/-- R286: a parity alert: the commands are replayed (`again`: another alert came before the replay ended), or the channel
fails after four in a row. -/
def State.caAlert (c : Nat) (again : Bool) (s : State) : State :=
  let v := s.chan c
  if s.on (Reg.GD_CH_CTL_PARITY_EN c) && (s.chanState c == gReady || s.chanState c == gPaused) then
    let n := v.alerts + 1
    if 4 ≤ n then ((s.setChan c { v with alerts := 0 }).set1 (Reg.GD_CH_STAT_CA_FAIL c)).chanFail c
    else if again then s.setChan c { v with alerts := n }
    else (s.setChan c { v with alerts := 0 }).sat (Reg.GD_CH_ERRCNT_CA_REPLAY c) 1
  else s

def execCaParityAlert (c : Fin 16) (again : Bool) (s : State) : Out := .next (s.caAlert c again)

/-! ### Refresh (R283, R284) -/

/-- R283: a bank qualifies: none of the next 16 scheduled requests names it, and no open row in it has a waiting hit. -/
def State.qualifies (s : State) (c bank : Nat) : Bool :=
  let v := s.chan c
  (v.sq.take 16).all (fun r => s.bank c (4 * bits r.2.toNat 71 24) != bank) &&
  match look v.rows bank with
  | none => true
  | some row => (s.waiting c).all (fun q => !(s.bank c q.addr == bank && s.row c q.addr == row))
    && v.sq.all (fun r => !(s.bank c (4 * bits r.2.toNat 71 24) == bank && s.row c (4 * bits r.2.toNat 71 24) == row))

/-- The bank at place i of the banks owed is refreshed: its row closes. -/
def State.refreshAt (s : State) (c i : Nat) : State :=
  let v := s.chan c
  (s.setChan c { v with owed := v.owed.eraseIdx i, rows := upd v.rows ((v.owed[i]?).getD 0) none, force := false }).put
    (Reg.GD_REF_DEBT c) (v.owed.length - 1)

/-- The place of the qualifying bank that has been owed longest. -/
def State.refreshPick (s : State) (c : Nat) : Option Nat := (s.chan c).owed.findIdx? (fun b => s.qualifies c b)

/-- R283: a per-bank refresh interval ends: one more refresh is owed.  When DEBT reaches 8, a bank that qualifies in that cycle
takes the refresh; otherwise the next one is forced. -/
def State.refreshDue (c : Nat) (s : State) : State :=
  let v := s.chan c
  let st := s.chanState c
  if (st = gReady ∨ st = gPaused) ∧ v.owed.length < 8 then
    let s1 := (s.setChan c { v with owed := v.owed ++ [v.nextBank], nextBank := (v.nextBank + 1) % 16 }).put (Reg.GD_REF_DEBT c)
      (v.owed.length + 1)
    if v.owed.length + 1 < 8 then s1
    else
      match s1.refreshPick c with
      | some i => s1.refreshAt c i
      | none => s1.onChan c (fun v => { v with force := true })
  else s

def execRefreshDue (c : Fin 16) (s : State) : Out := .next (s.refreshDue c)

/-- R283, R284: the controller issues REFpb to the qualifying bank owed longest; a forced one goes to the bank owed longest and
counts. -/
def State.refpb (c : Nat) (s : State) : State :=
  let st := s.chanState c
  if st = gReady ∨ st = gPaused then
    if (s.chan c).force then (s.refreshAt c 0).sat (Reg.GD_REF_FORCED c) 1
    else
      match s.refreshPick c with
      | some i => s.refreshAt c i
      | none => s
  else s

def execRefpbIssue (c : Fin 16) (s : State) : Out := .next (s.refpb c)

/-! ### Training, delays, pauses, self refresh (R288 to R293) -/

/-- R289, R295: GO runs a measurement step; it acts only in TRAIN or PAUSED. -/
def State.trainOp (c op : Nat) (s : State) : State :=
  let s1 := s.put (Reg.GD_TRN_CTL_OP c) op
  if (s.chanState c = gTrain ∨ s.chanState c = gPaused) ∧ 1 ≤ op ∧ op ≤ 4 then
    (s1.clr (Reg.GD_TRN_RES_DONE c)).onChan c (fun v => { v with trainOp := op })
  else s1

def execTrainOp (c : Fin 16) (op : Fin 8) (s : State) : Out := .next (s.trainOp c op)

/-- R289: the measurement step ends with a bit per pin. -/
def State.trainOpDone (c pass : Nat) (s : State) : State :=
  if (s.chan c).trainOp = 0 then s
  else ((s.put (Reg.GD_TRN_RES_PASS c) pass).set1 (Reg.GD_TRN_RES_DONE c)).onChan c (fun v => { v with trainOp := 0 })

def execTrainOpDone (c : Fin 16) (pass : Nat) (s : State) : Out := .next (s.trainOpDone c pass)

/-- R288, R295: the places of GD_DLY_n that exist. -/
def dlyExists (n : Nat) : Bool :=
  decide (n < 20) || (decide (32 ≤ n) && decide (n < 50)) || (decide (64 ≤ n) && decide (n < 74)) || n == 80

/-- R288: a delay write takes effect only in OFF, TRAIN or PAUSED. -/
def State.dlyWrite (c n v : Nat) (s : State) : State :=
  let st := s.chanState c
  if !dlyExists n then s
  else if st = gOff ∨ st = gTrain ∨ st = gPaused then s.put (Reg.GD_DLY_DELAY c n) v
  else s.set1 (Reg.GD_CH_STAT_DLY_LOCKED c)

def execGdDlyWrite (c : Fin 16) (n : Fin 128) (v : Byte) (s : State) : Out := .next (s.dlyWrite c n v.toNat)

/-- R291: PAUSE takes effect: only in READY; otherwise PAUSE clears and nothing else happens. -/
def State.pauseEffect (s : State) (c : Nat) : State :=
  let s1 := s.onChan c (fun v => { v with pauseDue := false })
  if s.chanState c = gReady then s1.onChan c (fun v => { v with pausing := true }) else s1.clr (Reg.GD_CH_CTL_PAUSE c)

/-- A stride is in progress in the array. -/
def State.stridesRun (s : State) : Bool := s.strideMode && !s.atRest && s.runTeams.any (fun t => (s.team t).active)

/-- R291: a write that sets PAUSE; while strides run it takes effect when the chip next completes a boundary. -/
def State.pauseWrite (c : Nat) (s : State) : State :=
  if s.on (Reg.GD_CH_CTL_PAUSE c) then s
  else
    let s1 := s.set1 (Reg.GD_CH_CTL_PAUSE c)
    if s.stridesRun then s1.onChan c (fun v => { v with pauseDue := true }) else s1.pauseEffect c

def execPauseWrite (c : Fin 16) (s : State) : Out := .next (s.pauseWrite c)

/-- R291: the boundary at which a waiting PAUSE takes effect. -/
def State.pauseTake (c : Nat) (s : State) : State := if (s.chan c).pauseDue then s.pauseEffect c else s

def execPauseTakeEffect (c : Fin 16) (s : State) : Out := .next (s.pauseTake c)

/-- R291: the bursts issued are complete and every bank is precharged: STATE is PAUSED. -/
def State.pauseReady (c : Nat) (s : State) : State :=
  let v := s.chan c
  if v.pausing ∧ v.flight = [] then (s.setChan c { v with pausing := false, rows := [] }).setChanState c gPaused else s

def execPauseReady (c : Fin 16) (s : State) : Out := .next (s.pauseReady c)

/-- The pause ends and the channel serves again. -/
def State.pauseEnd (s : State) (c : Nat) : State :=
  let s1 := (s.clr (Reg.GD_CH_CTL_PAUSE c)).onChan c (fun v => { v with pausing := false, pauseDue := false, trainOp := 0 })
  if s.chanState c = gPaused then s1.setChanState c gReady else s1

/-- R291: Groom 2 clears PAUSE; `late`: in the cycle of the expiry. -/
def State.pauseClear (c : Nat) (late : Bool) (s : State) : State :=
  if s.on (Reg.GD_CH_CTL_PAUSE c) then (s.pauseEnd c).set1If late (Reg.GD_CH_STAT_PAUSE_LATE c) else s

def execPauseClear (c : Fin 16) (late : Bool) (s : State) : Out := .next (s.pauseClear c late)

/-- R291: PAUSE is still set 40 us after it took effect. -/
def State.pauseTmo (c : Nat) (s : State) : State :=
  if s.on (Reg.GD_CH_CTL_PAUSE c) && !(s.chan c).pauseDue then (s.pauseEnd c).set1 (Reg.GD_CH_STAT_PAUSE_TMO c) else s

def execPauseTimeout (c : Fin 16) (s : State) : Out := .next (s.pauseTmo c)

/-- R292, R295: SREF moves a READY channel into self refresh and out of it. -/
def State.srefWrite (c : Nat) (v : Bool) (s : State) : State :=
  let s1 := s.put (Reg.GD_CH_CTL_SREF c) (ofBool v)
  if v then (if s.chanState c = gReady then ((s1.setChanState c gSref).put (Reg.GD_REF_DEBT c) 0).onChan c (fun k => { k with
      rows := [], owed := [], force := false })
    else s1)
  else if s.chanState c = gSref then s1.setChanState c gReady else s1

def execSrefWrite (c : Fin 16) (v : Bool) (s : State) : Out := .next (s.srefWrite c v)

/-- R295: a DENSITY or RATE that keeps a channel OFF. -/
def State.chanIllegal (s : State) (c : Nat) : Bool :=
  decide (s.get (Reg.GD_CH_CTL_DENSITY c) = 3 ∨ 5 ≤ s.get (Reg.GD_CH_CTL_RATE c))

/-- R289, R295: training of a channel begins; one of an illegal DENSITY or RATE stays OFF with CFG_ERR. -/
def State.trainBegin (s : State) (c : Nat) : State :=
  if s.chanIllegal c then (s.setChanState c gOff).set1 (Reg.GD_CH_STAT_CFG_ERR c) else s.setChanState c gTrain

/-- R289, R293: a channel ends DISABLED with its record, its event and its gateway's target isolated. -/
def State.trainFail (s : State) (c : Nat) : State :=
  let s1 := (((s.setChanState c gDisabled).groomRec 2 3 0x31 (argOf (c + 256 * gDisabled) 0)).postEvent 2
    ⟨0x0021, 2, packBytes [(16, 1, c), (17, 1, gDisabled)]⟩)
  match s.site c with
  | some t => s1.set1 (Reg.RTR_CTL_ISOLATE_ATT t)
  | none => s1

/-- The first longest run of settings that pass: (first, length). -/
def longestRun (m : BitVec 256) : Nat × Nat :=
  ((List.range 256).foldl (fun (r : (Nat × Nat) × (Nat × Nat)) i =>
    if m.getLsbD i then
      let cur := if r.1.2 = 0 then (i, 1) else (r.1.1, r.1.2 + 1)
      (cur, if r.2.2 < cur.2 then cur else r.2)
    else ((0, 0), r.2)) ((0, 0), (0, 0))).2

/-- R289: the pins of a pass in the order of the operations: the delay of each, and its settings that pass. -/
def pinsOf (x : TrainTry) : List (Nat × BitVec 256) :=
  (List.range 10).map (fun i => (64 + i, x.ca.getD i 0)) ++ [(80, x.wck.getD 0 0)]
    ++ (List.range 20).map (fun i => (i, x.rd.getD i 0)) ++ (List.range 18).map (fun i => (32 + i, x.wr.getD i 0))

/-- R289: every pin takes the centre of its longest run; a pin without a run of 8 ends the pass. -/
def State.trainPins (s : State) (c : Nat) : List (Nat × BitVec 256) → State × Bool
  | [] => (s, true)
  | (n, m) :: rest =>
    let r := longestRun m
    if r.2 < 8 then (s, false) else (s.put (Reg.GD_DLY_DELAY c n) (r.1 + (r.2 - 1) / 2)).trainPins c rest

/-- R289: the passes of a channel from the n-th on: READY, or DISABLED after a pin without a setting or the third mismatch. -/
def State.trainFrom (c : Nat) : Nat → List TrainTry → State → State
  | _, [], s => s.trainFail c
  | n, x :: rest, s =>
    let (s1, ok) := s.trainPins c (pinsOf x)
    if !ok then s1.trainFail c
    else if x.mismatch then (if n < 3 then State.trainFrom c (n + 1) rest s1 else s1.trainFail c)
    else s1.setChanState c gReady

/-- R289: the channels in TRAIN finish, each with what its passes measured. -/
def State.trainAll (s : State) (runs : TrainRuns) : State :=
  s.each 16 (fun c s =>
    if s.chanState c = gTrain then
      State.trainFrom c 1 (match runs.find? (fun r => r.1.val == c) with | some r => r.2 | none => []) s
    else s)

/-- R290: the rate of a channel changes: it goes through self refresh and trains. -/
def State.rateChange (s : State) (c rate : Nat) : State :=
  if s.chanState c = gReady ∨ s.chanState c = gSref ∨ s.chanState c = gPaused then
    ((((s.setChanState c gSref).put (Reg.GD_REF_DEBT c) 0).clr (Reg.GD_CH_CTL_PAUSE c)).put (Reg.GD_CH_CTL_RATE c) rate |>.onChan c
      (fun v => { v with rows := [], owed := [], force := false, pausing := false, pauseDue := false, trainOp := 0 })).trainBegin c
  else s

/-! ### Hot spots (R294) -/

/-- R294: the oldest window of 4,096 bursts that has ended: a bank with more than 1,024 counts in HOT_WIN and is latched.  Groom 2
writes the record and posts the event no more than once per minute for the chip. -/
def State.hotWindow (c : Nat) (s : State) : State :=
  let v := s.chan c
  match v.closed with
  | [] => s
  | h :: rest =>
    let s1 := s.setChan c { v with closed := rest }
    match h with
    | none => s1
    | some b =>
      let s2 := (s1.sat (Reg.GD_HOT_HOT_WIN c) 1).put (Reg.GD_HOT_HOT_BANK c) b
      if s.hotRecord then s2
      else
        ((({ s2 with hotRecord := true } : State).groomRec 2 0 0x32
          (argOf (c + 256 * b) (s2.get (Reg.GD_HOT_HOT_WIN c) % 65536))).postEvent 2
          ⟨0x0022, 2, packBytes [(16, 1, c), (17, 1, b)]⟩)

def execHotWindow (c : Fin 16) (s : State) : Out := .next (s.hotWindow c)

end Sys2Proof.Machine
end

