-- ==== Sys2Proof/Machine/Lane.lean ====
section
/-! DEFINITION. Serial lanes (chapter 8) and what the link layer does when a lane leaves or reaches service: links up and
down, spare substitution, elastic width (R224, R225, R241, R242, R245).  Lead lane k of link n is lane 9 n + k; elastic
lane k of link n is lane 144 + 4 n + k.  Links are numbered 0 to 15 lead, 16 to 19 elastic. -/
namespace Sys2Proof.Machine

def State.lane (s : State) (l : Nat) : Lane := Tab.get (fun _ => Lane.reset) s.lanes l

def State.setLane (s : State) (l : Nat) (v : Lane) : State :=
  { s with lanes := Tab.set (fun _ => Lane.reset) s.lanes l v }

def State.onLane (s : State) (l : Nat) (f : Lane → Lane) : State := s.setLane l (f (s.lane l))

/-! ### Numbers and registers -/

def laneLink (l : Nat) : Nat := if l < 144 then l / 9 else 16 + (l - 144) / 4
def laneNo (l : Nat) : Nat := if l < 144 then l % 9 else (l - 144) % 4
/-- CLASS: 0 lead, 1 elastic (R216). -/
def laneClass (l : Nat) : Nat := if l < 144 then 0 else 1
/-- The link's number within its class. -/
def linkNo (n : Nat) : Nat := if n < 16 then n else n - 16
def linkClass (n : Nat) : Nat := if n < 16 then 0 else 1
/-- The lanes of a link, in ascending k. -/
def linkLanes (n : Nat) : List Nat :=
  if n < 16 then (List.range 9).map (fun k => 9 * n + k) else (List.range 4).map (fun k => 144 + 4 * (n - 16) + k)

/-- The lane's register window (R230). -/
def laneAddr (l off : Nat) : Nat :=
  if l < 144 then 0x80000 + 0x1000 * (l / 9) + 0x800 + 0x40 * (l % 9) + off
  else 0xA0000 + 0x1000 * ((l - 144) / 4) + 0x800 + 0x40 * ((l - 144) % 4) + off

def laneCtl (l hi lo : Nat) : Fld := ⟨laneAddr l 0, hi, lo⟩
def laneStat (l hi lo : Nat) : Fld := ⟨laneAddr l 4, hi, lo⟩
def laneSweep (l hi lo : Nat) : Fld := ⟨laneAddr l 8, hi, lo⟩
def lanePrbs (l hi lo : Nat) : Fld := ⟨laneAddr l 0xC, hi, lo⟩
def laneErr (l : Nat) : Fld := ⟨laneAddr l 0x10, 31, 0⟩
def laneSyncErr (l : Nat) : Fld := ⟨laneAddr l 0x14, 31, 0⟩
def laneEvt (l hi lo : Nat) : Fld := ⟨laneAddr l 0x18, hi, lo⟩

/-- The link's registers that both classes have (R261). -/
def linkStat (n : Nat) : Fld := ⟨if n < 16 then Adr.LD_LINK_STAT n else Adr.EL_LINK_STAT (n - 16), 2, 0⟩
def linkErr (n b : Nat) : Fld := ⟨if n < 16 then Adr.LD_LINK_ERR n else Adr.EL_LINK_ERR (n - 16), b, b⟩
def linkReplay (n hi lo : Nat) : Fld := ⟨if n < 16 then Adr.LD_LINK_REPLAY n else Adr.EL_LINK_REPLAY (n - 16), hi, lo⟩
def linkDeskew (n hi lo : Nat) : Fld := ⟨if n < 16 then Adr.LD_LINK_DESKEW n else Adr.EL_LINK_DESKEW (n - 16), hi, lo⟩
def linkEn (n : Nat) : Fld := ⟨if n < 16 then Adr.LD_LINK_CTL n else Adr.EL_LINK_CTL (n - 16), 0, 0⟩

/-- Lane states (R219). -/
abbrev lOff : Nat := 0
abbrev lSweep : Nat := 1
abbrev lConfirm : Nat := 2
abbrev lPeerWait : Nat := 3
abbrev lActive : Nat := 4
abbrev lStandby : Nat := 5
abbrev lFault : Nat := 6
abbrev lFailed : Nat := 7
abbrev lTest : Nat := 8

def State.laneState (s : State) (l : Nat) : Nat := s.get (laneStat l 3 0)
def State.setLaneState (s : State) (l st : Nat) : State := s.put (laneStat l 3 0) st

/-- Link states: 0 DOWN, 1 UP with spare or at 4 lanes, 2 UP without spare or at reduced width, 3 LINK_FAIL. -/
def State.linkState (s : State) (n : Nat) : Nat := s.get (linkStat n)
def State.isUp (s : State) (n : Nat) : Bool := s.linkState n == 1 || s.linkState n == 2

/-- R328: the cells of the transmit stream port of an elastic link that is no longer UP are discarded and counted. -/
def State.dropStream (s : State) (n : Nat) : State :=
  if 16 ≤ n && !s.isUp n then
    ({ s with ht := { s.ht with tx := upd s.ht.tx (n - 16) [] } } : State).sat (Reg.HT_STRM_W0_TX_DROP (n - 16))
      (look s.ht.tx (n - 16)).length
  else s

/-- The block of R122 that the link is: its lead-link site or management hub. -/
def linkBlock (n : Nat) : Nat := if n < 16 then 16 + n else 32 + (n - 16)

/-- The packets that have yet to cross a link, one under way among them. -/
def Link.waiting (k : Link) : List Packet := k.going0.toList ++ k.going1.toList ++ k.tx0 ++ k.tx1

/-- R246: the requests that have yet to cross a link that is no longer UP are answered TARGET_OFF. -/
def State.dropRequests (s : State) (n : Nat) : State :=
  if s.isUp n then s
  else
    ((s.link n).waiting.filter isReq).foldl (fun s p => match s.site (linkBlock n) with | some t => s.wait t (errCpl t p 1) | none => s)
      (s.onLink n (fun k => { k with tx0 := [], tx1 := [], cur0 := [], cur1 := [], going0 := none, going1 := none }))

/-- A change of link STATE posts LINK_CHANGE (R418). -/
def State.setLinkState (s : State) (n st : Nat) : State :=
  let old := s.linkState n
  if old = st then s
  else (((s.put (linkStat n) st).dropStream n).dropRequests n).postEvent 1
    ⟨0x0011, 4, packBytes [(16, 1, linkClass n), (17, 1, linkNo n), (18, 1, old), (19, 1, st)]⟩

/-- The lanes of a link in one of the states. -/
def State.lanesIn (s : State) (n : Nat) (sts : List Nat) : List Nat :=
  (linkLanes n).filter (fun l => sts.contains (s.laneState l))

/-- The mask of a link's physical lanes outside ACTIVE and STANDBY. -/
def State.badMask (s : State) (n : Nat) : Nat :=
  ((linkLanes n).filter (fun l => !([lActive, lStandby].contains (s.laneState l)))).foldl
    (fun m l => m + 2 ^ laneNo l) 0

/-! ### The link layer's answer to its lanes -/

/-- LD_LINK_MAP: the physical lane of logical lane j. -/
def posFld (n j : Nat) : Fld := ⟨Adr.LD_LINK_MAP n, 4 * j + 3, 4 * j⟩

/-- The logical lane that physical lane k carries, if any. -/
def State.logical (s : State) (n k : Nat) : Option Nat := (List.range 8).find? (fun j => s.get (posFld n j) == k)

/-- The lane that the link holds as its spare. -/
def State.spare (s : State) (n : Nat) : Nat := s.get (Reg.LD_LINK_STAT_SPARE n)

/-- R242: the spare in STANDBY takes logical lane j, enters ACTIVE, and SUBREQ goes out for 64 frames. -/
def State.substitute (s : State) (n j : Nat) : State :=
  let sp := s.spare n
  let old := s.get (posFld n j)
  let s1 := ((s.put (posFld n j) sp).put (Reg.LD_LINK_STAT_SPARE n) 0xF).set1 (Reg.LD_LINK_STAT_SUBST n)
  let s2 := ((s1.setLaneState (9 * n + sp) lActive).onLane (9 * n + sp) (fun v => { v with train := 0 })).onLink n (fun l => { l with subLeft := 64, subPos := j })
  let s3 := s2.groomRec 1 2 0x22 (argOf (n + 256 * j) (old + 256 * sp))
  if s.linkState n = 1 then s3.setLinkState n 2 else s3

/-- The spare of a lead link is in STANDBY. -/
def State.spareReady (s : State) (n : Nat) : Bool :=
  s.spare n != 0xF && s.laneState (9 * n + s.spare n) == lStandby

/-- R30, R224, R225, R259: a lead link goes down; outside a service-level change (R430) the chip enters QUARANTINE with the hold of
R259. -/
def State.linkLost (s : State) (n : Nat) : State :=
  let s1 := s.setLinkState n 3
  if n < 16 && !s.on Reg.CHIP_MODE_SVC_CHG then
    s1.enterQuarantine qLinkDown (n + 16 * s.badMask n)
  else s1

/-- R245, R224: the width an elastic link of w working lanes runs at: the code of EL_LINK_CTL.WIDTH. -/
def widthCode (w : Nat) : Nat := if 4 ≤ w then 0 else if 2 ≤ w then 1 else 2

/-- The lanes of a width code. -/
def widthLanes (c : Nat) : Nat := if c = 0 then 4 else if c = 1 then 2 else 1

/-- A lane has left ACTIVE or STANDBY: what the link does in the same cycle (R222, R224, R225, R242, R245).  An elastic link that used
the lane asks for the largest width that its working lanes allow, no wider than firmware has set (DEDUCED). -/
def State.laneLeft (s : State) (l : Nat) (was : Nat) : State :=
  let n := laneLink l
  if !s.isUp n then s
  else if n < 16 then
    let s1 := match s.logical n (laneNo l) with
      | some j => if was = lActive ∧ s.spareReady n then s.substitute n j else s
      | none =>
        if s.spare n = laneNo l then
          let s1 := s.put (Reg.LD_LINK_STAT_SPARE n) 0xF
          if s.linkState n = 1 then s1.setLinkState n 2 else s1
        else s
    if (s1.lanesIn n [lActive, lStandby]).length < 8 then s1.linkLost n else s1
  else
    let w := (s.lanesIn n [lActive]).length
    if w = 0 then s.setLinkState n 3
    else if bit (s.get (Reg.EL_LINK_STAT_LANES (n - 16))) (laneNo l) then
      let c := max (widthCode w) (s.get (Reg.EL_LINK_CTL_WIDTH (n - 16)))
      (s.onLink n (fun k => { k with want := some c, wantFw := k.want.isSome && k.wantFw })).groomRec 1 3 0x24
        (argOf ((n - 16) + 256 * widthLanes c) 0)
    else s

/-- R245: a width asked for on elastic link n that is UP waits for a frame start; the width in force asks for nothing more. -/
def State.wantWidth (s : State) (n w : Nat) : State :=
  if !s.isUp (16 + n) then s
  else if s.get (Reg.EL_LINK_STAT_WIDTH n) ≠ w then s.onLink (16 + n) (fun k => { k with want := some w, wantFw := true })
  else if widthLanes w ≤ (s.lanesIn (16 + n) [lActive]).length then s.onLink (16 + n) (fun k => { k with want := none })
  else s

/-- R232: the cells of a frame on an elastic link at a width code. -/
def widthCells (c : Nat) : Nat := if c = 0 then 62 else if c = 1 then 30 else 14

/-- Cells cut into frames of `n` cells, numbered from `seq` on. -/
def cutFrames (n : Nat) : Nat → Nat → List (BitVec 128) → List LFrame
  | 0, _, _ => []
  | fuel + 1, seq, cs => if cs.isEmpty then [] else ⟨seq % 256, cs.take n⟩ :: cutFrames n fuel (seq + 1) (cs.drop n)

/-- The frames kept for replay are cut again to the content of the new width, numbered on from the oldest of them (R245 has them
replayed and does not say how they fit: DESIGN CHOICE). -/
def Link.recut (k : Link) (c : Nat) : Link :=
  match k.kept with
  | [] => k
  | f :: _ =>
    let cells := k.kept.flatMap (·.cells)
    let fs := cutFrames (widthCells c) cells.length f.fseq cells
    { k with kept := fs, fseq := (f.fseq + fs.length) % 256, resend := k.resend.map (fun _ => f.fseq) }

/-- A lane enters ACTIVE: it has received no training block there (R222). -/
def State.activate (s : State) (l : Nat) : State := (s.setLaneState l lActive).onLane l (fun v => { v with train := 0 })

/-- R225, R245: the width change takes effect at a frame start, on the lowest-numbered working lanes; a lane in STANDBY joins only a
change that firmware commanded. -/
def State.widthChange (n : Nat) (s : State) : State :=
  let k := s.link (16 + n)
  match k.want with
  | none => s
  | some c =>
    let ok := s.lanesIn (16 + n) (if k.wantFw then [lActive, lStandby] else [lActive])
    let use := ok.take (widthLanes c)
    if use.length = widthLanes c then
      let s1 := use.foldl State.activate (s.onLink (16 + n) (fun k => { (k.recut c) with want := none, wantFw := false }))
      let s2 := (s1.put (Reg.EL_LINK_STAT_WIDTH n) c).put (Reg.EL_LINK_STAT_LANES n)
        (use.foldl (fun m l => m + 2 ^ laneNo l) 0)
      s2.setLinkState (16 + n) (if c = 0 then 1 else 2)
    else s

def execWidthChange (n : Fin 4) (s : State) : Out := .next (s.widthChange n)

/-! ### A link comes up (R224, R225, R241, R245) -/

/-- The outcome row of R224 for a lane that has failed. -/
def State.failRow (s : State) (l : Nat) : Nat :=
  let n := laneLink l
  if n < 16 then
    if (s.lanesIn n [lActive, lStandby]).length < 8 then 3
    else if s.spareReady n && (s.logical n (laneNo l)).isSome then 2 else 1
  else if (s.lanesIn n [lActive]).length = 0 then 5 else 4

/-- R224: a lane is in FAILED: NO_SETTING, the record and the event. -/
def State.failLane (s : State) (l : Nat) : State :=
  let row := s.failRow l
  let s1 := (s.setLaneState l lFailed).set1 (laneStat l 20 20)
  let s2 := s1.groomRec 1 3 0x21 (argOf (laneClass l + 256 * linkNo (laneLink l)) (laneNo l + 256 * row))
  s2.postEvent 1 ⟨0x0010, 4, packBytes [(16, 1, laneClass l), (17, 1, linkNo (laneLink l)), (18, 1, laneNo l), (19, 1, lFailed)]⟩

/-- R224: a lead link's spare in STANDBY takes the place of a FAILED lane. -/
def State.replaceFailed (s : State) (n : Nat) : State :=
  match (List.range 8).find? (fun j => s.laneState (9 * n + s.get (posFld n j)) == lFailed) with
  | some j => if s.spareReady n then s.substitute n j else s
  | none => s

/-- The lanes whose arrival R241 measures: those in ACTIVE or STANDBY. -/
def State.arrived (s : State) (n : Nat) : List Nat := s.lanesIn n [lActive, lStandby]

/-- The earliest and the latest arrival of some lanes (R241). -/
def State.firstOf (s : State) (ls : List Nat) : Nat :=
  ((ls.map (fun l => (s.lane l).arrive)).min?).getD 0
def State.lastOf (s : State) (ls : List Nat) : Nat :=
  ((ls.map (fun l => (s.lane l).arrive)).max?).getD 0

/-- R241: lanes more than 24 block times after the earliest set SKEW and are treated as FAILED. -/
def State.dropSkewed (s : State) (n : Nat) : State :=
  let first := s.firstOf (s.arrived n)
  let bad := (s.arrived n).filter (fun l => decide (first + 24 < (s.lane l).arrive))
  bad.foldl (fun s l => s.failLane l) (s.set1If (!bad.isEmpty) (linkErr n 9))

/-- R241: RELEASE is the latest arrival plus 4 block times, counted from the earliest arrival. -/
def State.fixRelease (s : State) (n : Nat) : State :=
  let ls := s.arrived n
  let first := s.firstOf ls
  let s1 := ((s.put (linkDeskew n 12 8) (s.lastOf ls - first)).put (linkDeskew n 4 0) (s.lastOf ls - first + 4)).onLink n
    (fun k => { k with earliest := first })
  if n < 16 && s.spareReady n then s1.put (linkDeskew n 20 16) ((s.lane (9 * n + s.spare n)).arrive - first) else s1

/-- The 8 mapped lanes of a lead link are in ACTIVE. -/
def State.mappedActive (s : State) (n : Nat) : Bool :=
  (List.range 8).all (fun j => s.laneState (9 * n + s.get (posFld n j)) == lActive)

/-- R225, R241: a lead link that is DOWN comes up once its 8 mapped lanes are in ACTIVE; a spare that reaches STANDBY later
joins it, unless it lies more than 24 block times behind: then it sets SKEW and is treated as FAILED. -/
def State.leadRise (s0 : State) (n : Nat) : State :=
  let s := s0.replaceFailed n
  if s.isUp n then
    if s.spareReady n then
      let sp := 9 * n + s.spare n
      if (s.link n).earliest + 24 < (s.lane sp).arrive then ((s.set1 (linkErr n 9)).failLane sp).put (Reg.LD_LINK_STAT_SPARE n) 0xF
      else (s.put (linkDeskew n 20 16) ((s.lane sp).arrive - (s.link n).earliest)).setLinkState n 1
    else s
  else if s.mappedActive n then
    let s1 := (s.dropSkewed n).replaceFailed n
    if s1.mappedActive n then (s1.fixRelease n).setLinkState n (if s1.spareReady n then 1 else 2) else s1
  else s

/-- R245, R224: an elastic link that is DOWN comes up once as many lanes are in ACTIVE as its width asks for, or once every
other lane has FAILED: then at the largest width that the working lanes allow. -/
def State.elasticRise (s : State) (n : Nat) : State :=
  let c := s.get (Reg.EL_LINK_CTL_WIDTH (n - 16))
  let act := s.lanesIn n [lActive]
  if s.isUp n || act.isEmpty then s
  else if decide (widthLanes c ≤ act.length) || decide ((s.lanesIn n [lActive, lFailed]).length = 4) then
    let s1 := s.dropSkewed n
    let act := s1.lanesIn n [lActive]
    let w := max c (widthCode act.length)
    (((s1.put (Reg.EL_LINK_STAT_WIDTH (n - 16)) w).put (Reg.EL_LINK_STAT_LANES (n - 16))
      ((act.take (widthLanes w)).foldl (fun m l => m + 2 ^ laneNo l) 0)).fixRelease n).setLinkState n (if w = 0 then 1 else 2)
  else s

/-- The link layer runs on the lanes in service while EN is 1; LINK_FAIL lasts until the link is taken down. -/
def State.linkRise (s : State) (n : Nat) : State :=
  if !s.on (linkEn n) || s.linkState n == 3 then s
  else if n < 16 then s.leadRise n
  else s.elasticRise n

/-! ### Lane states -/

/-- R222: a fault: STATE FAULT, the named bit, one RETRAINS, the record and the event, and the link layer's answer. -/
def State.laneFault (s : State) (l b code : Nat) : State :=
  let was := s.laneState l
  let s1 := ((s.setLaneState l lFault).set1 (laneStat l b b)).sat (laneEvt l 31 16) 1
  let s2 := s1.groomRec 1 2 0x20 (argOf (laneClass l + 256 * linkNo (laneLink l)) (laneNo l + 256 * code))
  let s3 := s2.postEvent 1 ⟨0x0010, 4, packBytes [(16, 1, laneClass l), (17, 1, linkNo (laneLink l)), (18, 1, laneNo l),
    (19, 1, lFault)]⟩
  s3.laneLeft l was

/-- The settings of one sweep (R220). -/
def candidates (v : Lane) : List Nat := if v.eqFix then [v.eqSet] else List.range 16

/-- R220: the candidate in hand is applied; a fresh checker starts. -/
def State.applyNext (s : State) (l : Nat) : State :=
  match (candidates (s.lane l))[(s.lane l).next]? with
  | some i => (s.onLane l (fun v => { v with missed := false, chk := Prbs.reset })).put (laneStat l 7 4) i
  | none => s

/-- R219: another SWEEP of the procedure of R220. -/
def State.startSweep (s : State) (l : Nat) : State :=
  ((s.setLaneState l lSweep).onLane l (fun v => { v with next := 0, pass := 0, rdyGot := 0, rdySent := false
                                                         train := 0 })).applyNext l

/-- R220: the procedure starts: its count of sweeps is 0. -/
def State.freshSweep (s : State) (l : Nat) : State := (s.startSweep l).onLane l (fun v => { v with tries := 0 })

/-- Where a PRBS sequence begins: the spec does not say; never in the state from which it would stay 0. -/
def prbsSeed (k : Nat) : Nat := (Config.freeW32 k).toNat % 2 ^ 31 ||| 1

/-- R219, R226, R229: EN is set: the lane leaves OFF for SWEEP or TEST with the settings it samples; an illegal RATE, or
LOOP = 3, keeps it in OFF with CFG_ERR. -/
def State.laneEnable (l : Nat) (s : State) : State :=
  let s0 := s.set1 (laneCtl l 0 0)
  let rate := s.get (laneCtl l 2 1)
  let loop := s.get (laneCtl l 17 16)
  if s.laneState l ≠ lOff then s0
  else if rate = 3 ∨ (rate = 1 ∧ l < 144) ∨ loop = 3 then s0.set1 (laneStat l 17 17)
  else
    let v : Lane := { s.lane l with
      rate := rate, loop := loop, eqFix := s.on (laneCtl l 7 7), eqSet := s.get (laneCtl l 11 8)
      gen := prbsSeed s.free, pat := prbsSeed (s.free + 1) }
    let s1 := ((s0.spendN 2).setLane l v).put (laneSweep l 27 20) 0
    if s.on (laneCtl l 18 18) then (s1.setLaneState l lTest).put (laneStat l 7 4) v.eqSet else s1.freshSweep l

def execLaneEnable (l : Fin 160) (s : State) : Out := .next (s.laneEnable l)

/-- R219: clearing EN takes the lane to OFF from every state. -/
def State.laneDisable (l : Nat) (s : State) : State :=
  let was := s.laneState l
  let s1 := ((s.clr (laneCtl l 0 0)).setLaneState l lOff).setLane l Lane.reset
  let s2 := ((s1.put (laneStat l 9 8) 0).clr (laneStat l 10 10)).put (lanePrbs l 11 10) 0
  if was = lActive ∨ was = lStandby then s2.laneLeft l was else s2

def execLaneDisable (l : Fin 160) (s : State) : Out := .next (s.laneDisable l)

/-! #### Training blocks (R216, R217) -/

/-- CRC-8 of R216 over bits [55:0]: polynomial x^8 + x^2 + x + 1, initial value 0xFF, the lowest bit first (R216 gives no
bit order: DESIGN CHOICE). -/
def crc8 : Nat → Nat → Nat → Nat
  | 0, _, c => c
  | n + 1, w, c =>
    let c2 := (2 * c) % 256
    crc8 n (w / 2) (if (c / 128 % 2) ≠ w % 2 then c2 ^^^ 7 else c2)

/-- R217: a training block that a receiver takes as valid. -/
def trainingOk (b : Nat) : Bool :=
  bits b 7 0 == 0xD2 && bits b 23 18 == 0 && bits b 55 40 == 0 && bits b 63 56 == crc8 56 b 255

/-- R217: a training block from another lane number or class. -/
def miswired (l b : Nat) : Bool := bits b 11 8 != laneNo l || bits b 16 16 != laneClass l

/-- A block as the receiver takes it: every bit inverted while RX_INV is 1 (R218). -/
def State.polar (s : State) (l : Nat) (b : W64) : Nat := (if s.on (laneStat l 10 10) then ~~~b else b).toNat

/-- R217, R220: the setting in hand passes: both locks held, a valid training block in the acquisition window, every one of the dwell
valid with the right LANE and CLASS, none with a wrong one at any time, and a clean dwell. -/
def State.settingOk (s : State) (l : Nat) (acq dwell : List W64) (clean : Bool) : Bool :=
  let a := acq.map (s.polar l)
  let d := dwell.map (s.polar l)
  s.on (laneStat l 8 8) && s.on (laneStat l 9 9) && a.any trainingOk && d.all trainingOk
    && !(a ++ d).any (fun b => trainingOk b && miswired l b) && clean && !(s.lane l).missed

/-- R220: the dwell of the setting in hand ends; the next candidate is applied. -/
def State.settingDone (l : Nat) (acq dwell : List W64) (clean late : Bool) (s : State) : State :=
  let v := s.lane l
  match (candidates v)[v.next]? with
  | some i =>
    if s.laneState l = lSweep then
      let s1 := s.setLane l { v with next := v.next + 1
                                     pass := if s.settingOk l acq dwell clean then v.pass + 2 ^ i else v.pass }
      (s1.applyNext l).set1If late (laneStat l 21 21)
    else s
  | none => s

def execSweepSettingDone (l : Fin 160) (acq dwell : List W64) (clean late : Bool) (s : State) : Out :=
  .next (s.settingDone l acq dwell clean late)

/-- The length of the run of passing settings that starts at i. -/
def runFrom (pass : Nat) : Nat → Nat → Nat
  | 0, _ => 0
  | fuel + 1, i => if bit pass i then 1 + runFrom pass fuel (i + 1) else 0

/-- R220: the first longest run of passing settings among those from i: (first, length). -/
def bestRun (pass : Nat) : Nat → Nat → Nat × Nat → Nat × Nat
  | 0, _, best => best
  | fuel + 1, i, best =>
    let r := runFrom pass (16 - i) i
    bestRun pass fuel (i + 1) (if best.2 < r then (i, r) else best)

/-- R220: the setting that a sweep chooses. -/
def chosen (pass : Nat) : Nat :=
  let r := bestRun pass 16 0 (0, 0)
  r.1 + (r.2 - 1) / 2

/-- R224: a lane reaches FAILED, and the outcome for its link. -/
def State.laneFailed (s : State) (l : Nat) : State :=
  ((s.failLane l).laneLeft l (s.laneState l)).linkRise (laneLink l)

/-- The sweep limit is reached (R220, R223). -/
def State.sweepsOut (s : State) (l : Nat) : Bool :=
  s.get (laneCtl l 15 12) != 0 && decide (s.get (laneCtl l 15 12) ≤ (s.lane l).tries)

/-- R220: every candidate has been tried: PASS_MAP, the count of sweeps, and CONFIRM, another sweep or FAILED. -/
def State.sweepDone (l : Nat) (s : State) : State :=
  let v := s.lane l
  if s.laneState l = lSweep ∧ v.next = (candidates v).length then
    let s1 := ((s.put (laneSweep l 15 0) v.pass).sat (laneSweep l 27 20) 1).setLane l
      { v with tries := v.tries + 1, missed := false, chk := Prbs.reset }
    if v.pass = 0 then
      let s2 := s1.set1 (laneStat l 20 20)
      if s2.sweepsOut l then s2.laneFailed l else s2.startSweep l
    else ((s1.put (laneSweep l 19 16) (chosen v.pass)).put (laneStat l 7 4) (chosen v.pass)).setLaneState l lConfirm
  else s

def execSweepDone (l : Fin 160) (s : State) : Out := .next (s.sweepDone l)

/-- R220, R217: CONFIRM ends without an error, or with one: an invalid training block is one too. -/
def State.confirmDone (l : Nat) (ok : Bool) (s : State) : State :=
  if s.laneState l = lConfirm then
    if ok && !(s.lane l).missed then (s.setLaneState l lPeerWait).onLane l (fun v => { v with rdyGot := 0, rdySent := false })
    else if s.sweepsOut l then s.laneFailed l else s.startSweep l
  else s

def execConfirmDone (l : Fin 160) (ok : Bool) (s : State) : Out := .next (s.confirmDone l ok)

/-- R221: PEER_WAIT ends once both counts of 16 are reached: ACTIVE, or STANDBY for the spare and for a lane that
rejoins a link already complete. -/
def State.leavePeerWait (s : State) (l : Nat) : State :=
  let v := s.lane l
  if s.laneState l = lPeerWait ∧ 16 ≤ v.rdyGot ∧ v.rdySent then
    let n := laneLink l
    let s0 := s.setLane l { v with train := 0 }
    if n < 16 then
      if s.spare n = laneNo l then (s0.setLaneState l lStandby).linkRise n
      else if s.spare n = 0xF ∧ s.isUp n ∧ (s.logical n (laneNo l)).isNone then
        ((s0.put (Reg.LD_LINK_STAT_SPARE n) (laneNo l)).setLaneState l lStandby).linkRise n
      else (s0.setLaneState l lActive).linkRise n
    else if s.isUp n then s0.setLaneState l lStandby
    else (s0.setLaneState l lActive).linkRise n
  else s

/-! #### PRBS sequences (R216, R227) -/

/-- The two taps of POLY (R227): bit i of the sequence is the sum of bits i - n and i - m. -/
def prbsTaps (poly : Nat) : Nat × Nat :=
  match poly with
  | 0 => (7, 6)
  | 1 => (15, 14)
  | 2 => (23, 18)
  | _ => (31, 28)

/-- The bit that follows a history in the sequence of POLY. -/
def prbsNext (poly h : Nat) : Nat := (h / 2 ^ ((prbsTaps poly).1 - 1) + h / 2 ^ ((prbsTaps poly).2 - 1)) % 2

/-- A history with one more bit. -/
def prbsPush (h b : Nat) : Nat := (2 * h + b) % 2 ^ 31

/-- n bits of the generator: the bits, the first first, and the history after them. -/
def prbsBits (poly : Nat) : Nat → Nat → List Bool × Nat
  | 0, h => ([], h)
  | n + 1, h =>
    let b := prbsNext poly h
    let r := prbsBits poly n (prbsPush h b)
    ((b == 1) :: r.1, r.2)

/-- R227: the checker takes one bit; with it, whether that bit counts as wrong. -/
def Prbs.take (poly : Nat) (c : Prbs) (b : Bool) : Prbs × Bool :=
  let diff := prbsNext poly c.hist != ofBool b
  let h := prbsPush c.hist (ofBool b)
  if c.locked then
    let wrong := diff != c.inv
    let l := (c.last ++ [wrong]).drop (c.last.length + 1 - 64)
    if 16 ≤ l.countP id then ({ Prbs.reset with hist := h }, wrong) else ({ c with hist := h, last := l }, wrong)
  else
    let r := if diff then 0 else c.run + 1
    let i := if diff then c.runInv + 1 else 0
    ({ c with hist := h, run := r, runInv := i, locked := decide (64 ≤ r ∨ 64 ≤ i), inv := decide (64 ≤ i) }, false)

/-- R227: the checker takes bits; with it, how many of them count as wrong. -/
def Prbs.run_ (poly : Nat) (c : Prbs) (bs : List Bool) : Prbs × Nat :=
  bs.foldl (fun p b => let q := p.1.take poly b; (q.1, p.2 + ofBool q.2)) (c, 0)

/-- The 64 bits of a block, the lowest first (R216 gives no bit order: DESIGN CHOICE). -/
def blockBits (b : Nat) : List Bool := (List.range 64).map (fun i => bit b i)

/-- 64 bits as a block. -/
def bitsBlock (bs : List Bool) : W64 := BitVec.ofNat 64 (bs.foldr (fun b n => ofBool b + 2 * n) 0)

/-! #### What a lane sends (R216, R219, R228, R229) -/

/-- R216: the training block that lane l sends. -/
def State.trainBlock (s : State) (l : Nat) : W64 :=
  let rdy := ofBool (s.laneState l == lPeerWait || s.laneState l == lStandby)
  let b := packBits [(0, 8, 0xD2), (8, 4, laneNo l), (12, 4, linkNo (laneLink l)), (16, 1, laneClass l), (17, 1, rdy),
    (24, 16, (s.rd Adr.CHIP_ID_LO).toNat)]
  BitVec.ofNat 64 (b + 2 ^ 56 * crc8 56 b 255)

/-- R216: the 15 pattern blocks that follow a history of PRBS31, and the history after them. -/
def patBlocks : Nat → Nat → List W64 × Nat
  | 0, h => ([], h)
  | n + 1, h =>
    let r := prbsBits 3 64 h
    let q := patBlocks n r.2
    (bitsBlock r.1 :: q.1, q.2)

/-- R216: one training group is sent: the training block, then 15 pattern blocks. -/
def State.sendGroup (s : State) (l : Nat) : State :=
  let r := patBlocks 15 (s.lane l).pat
  s.onLane l (fun v => { v with group := s.trainBlock l :: r.1, pat := r.2 })

/-- What the transmitter of a lane sends. -/
inductive LaneTx where
  | idle            -- electrical idle
  | groups          -- training groups (R216)
  | link            -- link-layer blocks
  | prbs            -- the PRBS stream
  | echo            -- each recovered bit again
deriving DecidableEq, Repr

/-- R219, R228, R229: what the transmit pins of a lane send in its state. -/
def State.laneTx (s : State) (l : Nat) : LaneTx :=
  let st := s.laneState l
  if st = lOff then .idle
  else if st = lActive then .link
  else if st = lTest then
    (if (s.lane l).loop = 2 then .echo else if (s.lane l).loop = 1 ∨ !s.on (lanePrbs l 0 0) then .idle else .prbs)
  else .groups

/-! #### PEER_WAIT and training blocks received (R217, R221, R222) -/

/-- R221: the lane has sent 16 training blocks with RDY = 1. -/
def State.rdySent (l : Nat) (s : State) : State :=
  if s.laneState l = lPeerWait then
    (((List.range 16).foldl (fun s _ => s.sendGroup l) s).onLane l (fun v => { v with rdySent := true })).leavePeerWait l
  else s

def execRdyBlocksSent (l : Fin 160) (s : State) : Out := .next (s.rdySent l)

/-- The states in which a receiver takes training groups (R219). -/
def takesGroups (st : Nat) : Bool := st != lOff && st != lTest && st != lFault && st != lFailed

/-- R220, R230: the pattern blocks of a training group go through the checker: an error fails CONFIRM, and counts in PEER_WAIT and
STANDBY. -/
def State.patterns (s : State) (l : Nat) (pats : List W64) : State :=
  let r := (s.lane l).chk.run_ 3 (pats.flatMap (fun b => blockBits (s.polar l b)))
  let st := s.laneState l
  let s1 := s.onLane l (fun v => { v with chk := r.1, missed := v.missed || (st == lConfirm && r.2 != 0) })
  if st = lPeerWait ∨ st = lStandby then s1.sat (laneErr l) r.2 else s1

/-- R217: a training block with a wrong CRC, TYPE or reserved bit: 64 wrong pattern bits. -/
def State.badBlock (s : State) (l : Nat) : State :=
  let st := s.laneState l
  let s1 := s.onLane l (fun v => { v with rdyGot := 0, train := 0, missed := v.missed || st == lConfirm })
  if st = lPeerWait ∨ st = lStandby then s1.sat (laneErr l) 64 else s1

/-- R217, R221, R222, R241: a valid training block. -/
def State.goodBlock (s : State) (l b arrive : Nat) : State :=
  let st := s.laneState l
  let rdy := bits b 17 17
  let s1 := ((s.put (laneStat l 15 12) (bits b 15 12)).put (laneStat l 11 11) rdy).set1If (miswired l b) (laneStat l 16 16)
  let s2 := s1.onLane l (fun v => { v with
    missed := v.missed || (miswired l b && st == lSweep), train := if st = lActive then v.train + 1 else 0, arrive := arrive
    rdyGot := if rdy = 1 then v.rdyGot + 1 else 0 })
  if st = lPeerWait then s2.leavePeerWait l
  else if st = lActive ∧ 4 ≤ (s2.lane l).train then
    ((s2.setLaneState l lPeerWait).onLane l (fun v => { v with train := 0, rdyGot := 0, rdySent := false, chk := Prbs.reset })).laneLeft
      l lActive
  else s2

/-- R216, R217: pattern blocks and a training block arrive. -/
def State.training (l : Nat) (block : W64) (pats : List W64) (arrive : Nat) (s : State) : State :=
  if !takesGroups (s.laneState l) || !s.on (laneStat l 9 9) then s
  else
    let s1 := if s.laneState l = lActive then s else s.patterns l pats
    let b := s.polar l block
    if trainingOk b then s1.goodBlock l b arrive else s1.badBlock l

def execTrainingBlockReceive (l : Fin 160) (block : W64) (pats : List W64) (arrive : Nat) (s : State) : Out :=
  .next (s.training l block pats arrive)

/-! #### Locks (R215, R218, R222) -/

/-- A sync header that R218 calls valid. -/
def headValid (h : BitVec 2) : Bool := h == 1 || h == 2

/-- R218: block lock after 64 consecutive valid sync headers, on the true or on the complemented stream, while the receiver searches. -/
def State.lockAcquire (l : Nat) (inverted : Bool) (heads : List (BitVec 2)) (s : State) : State :=
  if takesGroups (s.laneState l) && !s.on (laneStat l 9 9) && decide (64 ≤ heads.length) && (heads.drop (heads.length - 64)).all headValid
  then (s.set1 (laneStat l 9 9)).put (laneStat l 10 10) (ofBool inverted)
  else s

def execBlockLockAcquire (l : Fin 160) (inverted : Bool) (heads : List (BitVec 2)) (s : State) : Out :=
  .next (s.lockAcquire l inverted heads)

/-- A lane that was in service faults, one in PEER_WAIT sweeps again (R222). -/
def State.lostService (s : State) (l b code : Nat) : State :=
  let st := s.laneState l
  if st = lActive ∨ st = lStandby then s.laneFault l b code
  else if st = lPeerWait then s.freshSweep l
  else s

/-- R218: 16 invalid sync headers within 64 consecutive blocks. -/
def lockGone (heads : List (BitVec 2)) : Bool :=
  (List.range heads.length).any (fun i => decide (16 ≤ ((heads.drop i).take 64).countP (fun h => !headValid h)))

/-- R218, R222: sync headers arrive while BLOCK_LOCK is 1: the invalid ones count, 16 within 64 blocks lose block lock, and 16 within
125 us fault a lane in service with lock kept. -/
def State.lockLoss (l : Nat) (inWindow : Bool) (heads : List (BitVec 2)) (s : State) : State :=
  if !takesGroups (s.laneState l) || !s.on (laneStat l 9 9) then s
  else
    let bad := heads.countP (fun h => !headValid h)
    let s1 := s.sat (laneSyncErr l) bad
    if lockGone heads then ((s1.clr (laneStat l 9 9)).sat (laneEvt l 15 0) 1).lostService l 18 1
    else if inWindow && decide (16 ≤ bad) && (s.laneState l == lActive || s.laneState l == lStandby) then s1.laneFault l 19 2
    else s1

def execBlockLockLoss (l : Fin 160) (inWindow : Bool) (heads : List (BitVec 2)) (s : State) : Out :=
  .next (s.lockLoss l inWindow heads)

/-- R215, R222: CDR_LOCK sets or clears; in FAULT and FAILED the receiver does nothing (R219). -/
def State.cdrChange (l : Nat) (locked : Bool) (s : State) : State :=
  let st := s.laneState l
  if st = lOff ∨ st = lFault ∨ st = lFailed then s
  else if locked then s.set1 (laneStat l 8 8)
  else if s.on (laneStat l 8 8) then ((s.clr (laneStat l 8 8)).sat (laneEvt l 15 0) 1).lostService l 18 1
  else s

def execCdrLockChange (l : Fin 160) (locked : Bool) (s : State) : Out := .next (s.cdrChange l locked)

/-- R219, R223: FAULT ends after 1 us; firmware has written SWEEP_LIM = 2 for the retrain. -/
def State.faultEnd (l : Nat) (s : State) : State :=
  if s.laneState l = lFault then (s.put (laneCtl l 15 12) 2).freshSweep l else s

def execFaultTimeout (l : Fin 160) (s : State) : Out := .next (s.faultEnd l)

/-- R228: INJ_ONE inverts the next bit of TEST or of the next link-layer block of ACTIVE; nothing elsewhere. -/
def State.injOne (l : Nat) (s : State) : State :=
  if s.laneState l = lTest ∨ s.laneState l = lActive then s.onLane l (fun v => { v with flip := true }) else s

def execInjOne (l : Fin 160) (s : State) : Out := .next (s.injOne l)

/-- R228: the bits that the generator sends, with the errors that INJ_ONE (the first bit) and INJ_RATE (one bit in every 2^k, the last of
them: DESIGN CHOICE) inject; `n` bits have been sent before. -/
def injected (flip : Bool) (rate n : Nat) (bs : List Bool) : List Bool :=
  let k := if 1 ≤ rate ∧ rate ≤ 3 then 4 else rate
  bs.zipIdx.map (fun p => (p.1 != (flip && p.2 == 0)) != (k != 0 && (n + p.2 + 1) % 2 ^ k == 0))

/-- R227, R228, R229: the bit times of a lane in TEST in which `received` reaches its pins: its generator, the loopbacks and its
checker. -/
def State.prbsLock (l : Nat) (received : List Bool) (s : State) : State :=
  if s.laneState l = lTest then
    let v := s.lane l
    let poly := s.get (lanePrbs l 3 2)
    let genOn := s.on (lanePrbs l 0 0)
    let g := prbsBits poly received.length v.gen
    let own := if genOn then injected v.flip (s.get (lanePrbs l 9 5)) v.sent g.1 else []
    let inp := if v.loop = 1 then own else received
    let c := if s.on (lanePrbs l 1 1) then v.chk.run_ poly inp else (v.chk, 0)
    let s1 := s.setLane l { v with
      gen := if genOn then g.2 else v.gen, sent := v.sent + own.length, flip := v.flip && own.isEmpty, chk := c.1
      out := if v.loop = 2 then received else if v.loop = 1 then [] else own }
    if s.on (lanePrbs l 1 1) then
      ((s1.put (lanePrbs l 10 10) (ofBool c.1.locked)).put (lanePrbs l 11 11) (ofBool (c.1.locked && c.1.inv))).sat (laneErr l) c.2
    else s1
  else s

def execPrbsLockChange (l : Fin 160) (received : List Bool) (s : State) : Out := .next (s.prbsLock l received)

end Sys2Proof.Machine
end

