-- ==== Sys2Proof/Machine/Team.lean ====
section
/-! DEFINITION. One island cycle of a Team (R102 to R110): stalls, the step of BPs, Word Unit, router entries and design
memory ports, reports, breakpoints and the tap sample. -/
namespace Sys2Proof.Machine

/-! ### The entries of a step (R103, R130, R134) -/

/-- The entries that fire at an address: executed, illegal, and ignored at a collision. -/
structure Fired where
  run : List (BitVec 48)
  ill : List (BitVec 48)
  coll : List (BitVec 48)
deriving DecidableEq, Repr

/-- R134: an entry joins the executed ones unless it is illegal or a lower index claims its input or its output.  DESIGN CHOICE
(the rule leaves it open): an entry that is ignored claims nothing against higher indices. -/
def Fired.add (att : Option Nat) (f : Fired) (e : BitVec 48) : Fired :=
  if !entryLegal att e then { f with ill := f.ill ++ [e] }
  else if f.run.any (fun g => eIN g == eIN e || eOUT g == eOUT e) then { f with coll := f.coll ++ [e] }
  else { f with run := f.run ++ [e] }

/-- The entries of a list of valid ones that fire at address p. -/
def firedAt (att : Option Nat) (es : List (BitVec 48)) (p : Nat) : Fired :=
  (es.filter (fun e => eADDR e == p)).foldl (Fired.add att) ⟨[], [], []⟩

def State.fired (s : State) (t p : Nat) : Fired := firedAt (s.attached t) (actValid (s.router t)) p

/-- A local-output SIGNAL entry, for the Team or for the lead link. -/
def eSignalOut (e : BitVec 48) : Bool := eOUT e == 4 && eKIND e == 0

/-- The executed local-output SIGNAL entries of an input port with addresses in [a, a + n), in step order (R103). -/
def State.signals (s : State) (t port a n : Nat) : List (BitVec 48) :=
  let es := actValid (s.router t)
  let att := s.attached t
  (List.range n).flatMap (fun i => (firedAt att es (a + i)).run.filter (fun e => eSignalOut e && eIN e == port))

/-- The lead link attached to the router. -/
def State.leadOf (s : State) (t : Nat) : Option Nat :=
  match s.attached t with
  | some n => if 16 ≤ n ∧ n < 32 then some (n - 16) else none
  | none => none

/-- The flit that an entry at address p takes: the head of its input queue, once the SIGNAL entries of earlier steps have
been served (R103), or of the lead-link receive queue (R249). -/
def State.headFlit (s : State) (t p : Nat) (e : BitVec 48) : Option Flit :=
  if eIN e < 4 then
    if (s.signals t (eIN e) (s.team t).start (p - (s.team t).start)).length ≤ look (s.router t).matched (eIN e) then
      (look (s.router t).inq (eIN e)).head?
    else none
  else
    match s.leadOf t with
    | some n => (s.link n).qrx.head?
    | none => none

/-- The entry takes a flit in its step: transit, port B and gateway local-output entries, lead-link local-input entries. -/
def eTakes (e : BitVec 48) : Bool := (eIN e < 4 && !eSignalOut e) || (eIN e == 4 && eLSEL e == 1)

/-- R150: a local-input entry whose source, the Team or the attached block, is isolated: nothing is injected. -/
def State.deadSource (s : State) (t : Nat) (e : BitVec 48) : Bool :=
  eIN e == 4 && (if eLSEL e = 1 then s.on (Reg.RTR_CTL_ISOLATE_ATT t) else s.on (Reg.RTR_CTL_ISOLATE t))

/-- R103, R104, R278: the entry finds no flit, or the scheduled queue has no free place. -/
def State.entryWaits (s : State) (t p : Nat) (e : BitVec 48) : Bool :=
  !s.deadSource t e && eTakes e && ((s.headFlit t p e).isNone ||
    (eOUT e == 4 && eKIND e == 3 && (match s.attached t with
      | some n => decide (64 ≤ (s.chan n).sq.length)
      | none => false)))

/-! ### Stall conditions (R104) -/

/-- STEP of TEAM_STEP, and the address of the next step (R32). -/
def State.stepNo (s : State) (t : Nat) : Nat := s.get (Reg.TEAM_STEP_STEP t)
def State.stepAddr (s : State) (t : Nat) : Nat := (s.team t).start + s.stepNo t

/-- R41: a BP operand names a location that is not present. -/
def Team.rxAbsent (m : Team) (p : Nat) : Bool :=
  (List.range 64).any (fun b => (List.range 4).any (fun i => m.absent (bSel (m.entry b p) i)))

/-- R73: the oldest carry tagged for the stride. -/
def Team.westCarry (m : Team) : Option (Bool × Bool) := m.carryQ.find? (fun c => c.2 == m.stride.getLsbD 0)

/-- R77: the response that the next GPICK takes. -/
def Team.nextRsp (m : Team) : Option GwRsp := m.gwQ.find? (fun r => r.tag == m.stride.toNat % 256 && r.rseq == m.nPick)

/-- The RX_STALL conditions of R104. -/
def State.rxWaits (s : State) (t : Nat) : Bool :=
  let m := s.team t
  let p := s.stepAddr t
  let w := m.entry 64 p
  m.rxAbsent p || (takesCarry (wOP w) (wCI w) && m.westCarry.isNone) || (wOP w == 0x29 && m.nextRsp.isNone)
  || (s.fired t p).run.any (s.entryWaits t p)

/-- R78: the design-memory address of the WU instruction. -/
def Team.memAddr (m : Team) (w : BitVec 72) : Nat := (m.source (wIMM w) (wSA w) + wIMM w).toNat % 2 ^ 15

/-- The instruction uses port A. -/
def usesA (op : Nat) : Bool := op == 0x20 || op == 0x21 || op == 0x22

/-- R79: the extra cycle between an RMW and a port A access to the same bank. -/
def State.locWaits (s : State) (t : Nat) : Bool :=
  let m := s.team t
  let w := m.entry 64 (s.stepAddr t)
  match m.rmw with
  | some (a, _) => !m.rmwDone && usesA (wOP w) && m.memAddr w / 2 ^ 14 == a / 2 ^ 14
  | none => false

/-- R108: the window condition of one Team of the downstream set; code 4 the lead-link partner. -/
def State.inWindow (s : State) (t port : Nat) : Bool :=
  decide (sint 32 (2 ^ 32 + s.get (Reg.TEAM_PROG_PROG t) - (Tab.get (fun _ => 0#32) (s.team t).hat port).toNat)
    < (if port = 4 then 256 else 16))

/-- R108: the window condition fails. -/
def State.skewWaits (s : State) (t : Nat) : Bool :=
  (List.range 5).any (fun i => bit (s.get (Reg.TEAM_SKEW_CTL_DOWN t)) i && !s.inWindow t i)

/-- Bank b of Team t is ready (R98). -/
def State.bankReady (s : State) (t b : Nat) : Bool := s.on ⟨Adr.TEAM_DM_STAT t, b, b⟩

/-- R79: the write of an RMW in the bank's next port A cycle: the cycle of step s + 1, or the extra cycle before it.  In every
other cycle without a step it stays due (R102). -/
def State.rmwWrite (s : State) (t : Nat) : State :=
  let m := s.team t
  match m.rmw with
  | some (a, w) =>
    if m.rmwDone then s
    else s.setTeam t { m with rmwDone := true
                              dm := if s.bankReady t (a / 2 ^ 14) then Tab.set (fun _ => 0#24) m.dm a w else m.dm }
  | none => s

/-- A stall cycle with its counter and STATE (R104). -/
def State.stall (s : State) (t : Nat) (counter : Fld) (state : Nat) : State :=
  (s.sat counter 1).put (Reg.TEAM_STEP_STATE t) state

/-! ### Boolean processors (R37 to R53) -/

/-- The results of the 64 BPs at address p. -/
def Team.bpResults (m : Team) (p : Nat) : BitVec 64 :=
  BitVec.ofNat 64 ((List.range 64).foldl (fun n b => n + ofBool (m.bpResult b (m.entry b p)) * 2 ^ b) 0)

/-- R47, R49, R52: the send register after the step. -/
def Team.sendAfter (m : Team) (p : Nat) (r : BitVec 64) : BitVec 120 :=
  (List.range 64).foldl (fun v b =>
    let i := bSIDX (m.entry b p)
    if i < 120 then (if r.getLsbD b then v ||| BitVec.twoPow 120 i else v &&& ~~~(BitVec.twoPow 120 i)) else v) m.send

/-- R52, R53: the errors of BP b at address p, in the order of R53; `chk`: COMB_FWD is checked. -/
def Team.bpErrsOf (m : Team) (chk : Bool) (p b : Nat) : List BpErr :=
  let e := m.entry b p
  let i := bSIDX e
  (List.range 4).flatMap (fun k =>
      (if selIll (bSel e k) then [⟨b, k, 1⟩] else []) ++ (if chk && m.combFwd b p (bSel e k) then [⟨b, k, 3⟩] else []))
  ++ (if 120 ≤ i ∧ i < 127 then [⟨b, 4, 0⟩] else [])
  ++ (if i < 120 && (List.range b).all (fun c => bSIDX (m.entry c p) != i)
        && (List.range 64).any (fun c => decide (b < c) && bSIDX (m.entry c p) == i) then [⟨b, 4, 2⟩] else [])

/-- The BP errors of the step, in the order of R53. -/
def Team.bpErrors (m : Team) (chk : Bool) (p : Nat) : List BpErr := (List.range 64).flatMap (m.bpErrsOf chk p)

/-- The BPs whose instruction has BKP = 1. -/
def Team.bkps (m : Team) (p : Nat) : List Nat := (List.range 64).filter (fun b => bBKP (m.entry b p))

/-! ### Design memory ports (R78 to R86, R98) -/

/-- What one port does in a step. -/
structure PortUse where
  addr : Nat
  reads : Bool
  write : Option W24      -- an ST, or a port B write
  rmw : Option (Nat × W24) -- MF and operand of a read-modify-write
deriving DecidableEq, Repr

/-- Port A's access of the step (R79). -/
def Team.portA (m : Team) (w : BitVec 72) : Option PortUse :=
  let b := m.source (wIMM w) (wSB w)
  match wOP w with
  | 0x20 => some ⟨m.memAddr w, true, none, none⟩
  | 0x21 => some ⟨m.memAddr w, false, some b, none⟩
  | 0x22 => some ⟨m.memAddr w, true, none, some (wMF w, b)⟩
  | _ => none

/-- R84: the access that a port B request flit asks for. -/
def portBOf (f : Flit) : Option PortUse :=
  let n := f.toNat
  let a := bits n 38 24
  let d := BitVec.ofNat 24 n
  match bits n 40 39 with
  | 0 => some ⟨a, true, none, none⟩
  | 1 => some ⟨a, false, some d, none⟩
  | 2 => some ⟨a, true, none, some (bits n 42 41, d)⟩
  | _ => none

/-- The request that the port B output register takes (R81, R84).  DESIGN CHOICE (no value is given): DATA of an RLD request and
MF of RLD and RST requests are 0. -/
def Team.pbRequest (m : Team) (w : BitVec 72) : Option (BitVec 43) :=
  let a := m.memAddr w
  let b := (m.source (wIMM w) (wSB w)).toNat
  match wOP w with
  | 0x24 => some (BitVec.ofNat 43 (packBits [(24, 15, a)]))
  | 0x25 => some (BitVec.ofNat 43 (packBits [(0, 24, b), (24, 15, a), (39, 2, 1)]))
  | 0x26 => some (BitVec.ofNat 43 (packBits [(0, 24, b), (24, 15, a), (39, 2, 2), (41, 2, wMF w)]))
  | _ => none

/-- The word of design memory at an address. -/
def Team.word (m : Team) (a : Nat) : W24 := Tab.get (fun _ => 0#24) m.dm a

def Team.setWord (m : Team) (a : Nat) (w : W24) : Team := { m with dm := Tab.set (fun _ => 0#24) m.dm a w }

/-- The use stays a use of the bank only where the bank is ready (R98). -/
def State.served (s : State) (t : Nat) (u : Option PortUse) : Option PortUse :=
  match u with
  | some v => if s.bankReady t (v.addr / 2 ^ 14) then u else none
  | none => none

/-- Port A writes the word at an address in this step: an ST, or the write of the last step's RMW (R80). -/
def Team.aWrites (m : Team) (a : Option PortUse) (addr : Nat) : Bool :=
  (match a with | some u => u.addr == addr && u.write.isSome | none => false)
  || (match m.rmw with | some (x, _) => x == addr | none => false)

def Team.aReads (a : Option PortUse) (addr : Nat) : Bool :=
  match a with | some u => u.addr == addr && u.reads | none => false

def PortUse.writes (u : PortUse) : Bool := u.write.isSome || u.rmw.isSome

/-- R85: the conflict of the step: the word that both ports access, when either writes it. -/
def Team.conflict (m : Team) (a b : Option PortUse) : Option Nat :=
  match b with
  | none => none
  | some v =>
    if m.aWrites a v.addr || (Team.aReads a v.addr && v.writes) then some v.addr else none

/-- The design memory part of a step: port A, then port B (R80, R85, R98), with what their checks find. -/
def State.dmStep (s : State) (t : Nat) (a b : Option PortUse) (c : StepChecks) : State :=
  let m := s.team t
  let ua := s.served t a
  let ub := s.served t b
  let hit := m.conflict ua ub
  -- the write of the last step's RMW and port A
  let s1 := s.rmwWrite t
  let m1 := s1.team t
  let openA := hit.isSome && (match ua, ub with | some u, some v => u.addr == v.addr && u.reads && v.writes | _, _ => false)
  let rdA := match ua with
    | some u => if openA then Config.freeW24 s.free else memData c.portA (m1.word u.addr)
    | none => 0
  let m2 := match ua with
    | some u => match u.write with | some w => m1.setWord u.addr w | none => m1
    | none => m1
  let m3 := { m2 with
    dmrdNext := match a with | some u => if u.reads then some rdA else none | none => none
    rmw := match ua with
      | some u => match u.rmw with | some (mf, x) => some (u.addr, rmwNew mf rdA x) | none => none
      | none => none
    rmwDone := false }
  -- port B
  let openB := match ub with | some v => m.aWrites ua v.addr | none => false
  let rdB := match ub with
    | some v => if openB then Config.freeW24 (s.free + 1) else memData c.portB (m3.word v.addr)
    | none => 0
  let m4 := match ub with
    | some v => match v.write, v.rmw with
      | some w, _ => m3.setWord v.addr w
      | none, some f => m3.setWord v.addr (rmwNew f.1 rdB f.2)
      | none, none => m3
    | none => m3
  let m5 := { m4 with pbrdNext := match b with | some v => if v.reads then some rdB else none | none => none }
  let s2 := (s1.setTeam t m5).spendN (if openA || openB then 2 else 0)
  -- reports, lowest KIND first
  let s3 := match hit with | some x => s2.dmBusy t x | none => s2
  let s4 := match ua with | some u => if u.reads then s3.dmChecked t 0 u.addr c.portA else s3 | none => s3
  let s5 := match ub with | some v => if v.reads then s4.dmChecked t 1 v.addr c.portB else s4 | none => s4
  let s6 := match a with | some u => if ua.isNone then s5.dmBankOff t 0 u.addr else s5 | none => s5
  match b with | some v => if ub.isNone then s6.dmBankOff t 1 v.addr else s6 | none => s6

/-! ### Router entries (R48, R76, R81 to R84, R249, R278) -/

/-- The payload of a local-input entry as the step begins. -/
def Team.payload (m : Team) (kind : Nat) : Flit :=
  match kind with
  | 0 => m.send
  | 1 => m.pbOut.setWidth 120
  | 2 => m.pbrd.setWidth 120
  | _ => m.gwReq

/-- The flit at the head of an entry's queue leaves it. -/
def State.popFor (s : State) (t : Nat) (e : BitVec 48) : State :=
  if eIN e < 4 then s.onRouter t (fun r => { r with inq := upd r.inq (eIN e) ((look r.inq (eIN e)).drop 1) })
  else
    match s.leadOf t with
    | some n => s.onLink n (fun l => { l with qrx := l.qrx.drop 1 })
    | none => s

/-- One executed entry of the step, with the Team as it stood before the step. -/
def State.entryStep (t p : Nat) (m : Team) (s : State) (e : BitVec 48) : State :=
  if s.deadSource t e then s
  else if eTakes e then
    match s.headFlit t p e with
    | none => s
    | some f =>
      let s1 := (s.popFor t e).probeStatic t (eIN e) 0
      if eOUT e < 4 then (s1.sendFlit t (eOUT e) 0 f).probeStatic t (eOUT e) 1
      else if s.deadTarget t e then s1.deadStatic t e
      else
        let s2 := s1.probeStatic t 4 1
        if eKIND e = 2 then s2.onTeam t (fun k => { k with rmrd := f.extractLsb' 0 24 })
        else if eKIND e = 3 then
          match s.attached t with
          | some n => s2.handOver n f
          | none => s2
        else s2
  else if eIN e = 4 then
    let s1 := ((s.probeStatic t 4 0).sendFlit t (eOUT e) 0 (m.payload (eKIND e))).probeStatic t (eOUT e) 1
    if eKIND e = 3 then s1.onTeam t (fun k => { k with gwReq := k.gwReq &&& ~~~(BitVec.twoPow 120 73) }) else s1
  else s

/-- The port B request that an executed entry of the step delivers (R82). -/
def State.pbArrived (s : State) (t p : Nat) (es : List (BitVec 48)) : Option PortUse :=
  match es.find? (fun e => eOUT e == 4 && eKIND e == 1 && !s.deadTarget t e) with
  | some e => match s.headFlit t p e with
    | some f => portBOf f
    | none => none
  | none => none

/-! ### The step -/

/-- The Word Unit's result, carry-out and flags (R66, R68, R77). -/
def Team.wuResult (m : Team) (w : BitVec 72) : Sum :=
  let op := wOP w
  let a := m.source (wIMM w) (wSA w)
  let b := m.source (wIMM w) (wSB w)
  if isSum op then addSum a (sumB op b) (m.carryIn? op (wCI w) (m.westCarry.map (·.1) == some true))
  else if op = 0x29 then ⟨(m.nextRsp.map (·.data)).getD 0, false, false⟩
  else ⟨wuY op a b (m.source (wIMM w) (wSC w)), false, false⟩

/-- R76, R276: the request that GREQ places. -/
def Team.gwRequest (m : Team) (t : Nat) (w : BitVec 72) : BitVec 120 :=
  let a := m.source (wIMM w) (wSA w)
  let b := m.source (wIMM w) (wSB w)
  let wr := wMF w % 2
  BitVec.ofNat 120 (packBits [(0, 24, if wr = 1 then b.toNat else 0), (24, 24, a.toNat), (48, 24, (wIMM w).toNat), (72, 1, wr),
    (73, 1, 1), (74, 4, wGW w), (78, 10, if wr = 1 then 0 else m.nGreq), (88, 8, m.stride.toNat), (96, 10, t)])

/-- What the step writes into the Team apart from design memory: `m` as it stood before the step, `k` after the router's
entries. -/
def Team.commit (m k : Team) (t p : Nat) : Team :=
  let w := m.entry 64 p
  let y := m.wuResult w
  let r := m.bpResults p
  let greq := wOP w == 0x28 && decide (wMF w < 2)
  { k with
    sm := (k.setSmRow p r).sm
    wr := if wWEN w && opWrites (wOP w) then (k.setReg (wRD w) y.y).wr else k.wr
    busBp := r
    busWu := y.y
    send := m.sendAfter p r
    flagC := if isSum (wOP w) then y.c else m.flagC
    flagV := if isSum (wOP w) then y.v else m.flagV
    dmrd := m.dmrdNext.getD m.dmrd
    pbrd := m.pbrdNext.getD m.pbrd
    pbOut := (m.pbRequest w).getD m.pbOut
    gwReq := if greq then m.gwRequest t w else k.gwReq
    nGreq := if greq && wMF w == 0 then m.nGreq + 1 else m.nGreq
    carryQ := if takesCarry (wOP w) (wCI w) then m.carryQ.eraseP (fun c => c.2 == m.stride.getLsbD 0) else m.carryQ
    gwQ := if wOP w == 0x29 then m.gwQ.eraseP (fun g => g.tag == m.stride.toNat % 256 && g.rseq == m.nPick) else m.gwQ
    nPick := if wOP w == 0x29 then m.nPick + 1 else m.nPick }

/-- R71: the WU errors of the instruction at address p. -/
def wuErrors (w : BitVec 72) (p : Nat) : List WuErr :=
  (if wuIll (wOP w) (wMF w) then [⟨0, 0, p⟩] else [])
  ++ (if srcIll (wSA w) then [⟨1, 0, p⟩] else if srcIll (wSB w) then [⟨1, 1, p⟩] else if srcIll (wSC w) then [⟨1, 2, p⟩]
      else [])

/-- R403: a STEP_STRIDES in progress responds as a breakpoint halt begins. -/
def State.stepCmdHalt (s : State) (t : Nat) : State :=
  match s.longAt with
  | some i =>
    if (((s.box 3).taken[i]?).map (fun c => fieldOf c.desc 0 2)) = some 0x0304 then
      s.endLong ⟨0, 1, 8, (s.team t).stride.toNat⟩
    else s
  | none => s

/-- R55: the Team has executed a step with BKP = 1: it halts, and a breakpoint halt of the array starts. -/
def State.bkpHit (s : State) (t p : Nat) (bs : List Nat) : State :=
  let s1 := ((((s.set1 (Reg.TEAM_BKP_STAT_HIT t)).put (Reg.TEAM_BKP_STAT_MULTI t) (ofBool (decide (1 < bs.length)))).put
    (Reg.TEAM_BKP_STAT_BP t) (bs.headD 0)).put (Reg.TEAM_BKP_STAT_ADDR t) p).onTeam t (fun m => { m with halted := true })
  if s1.chip.haltBkp then s1
  else
    let s2 : State := { s1 with chip := { s1.chip with haltBkp := true } }
    (((s2.postEvent 3 ⟨0x0004, 8, packBytes [(16, 2, t), (20, 4, (s2.rd (Adr.TEAM_BKP_STAT t)).toNat)]⟩).adoptHold
      s2.nextIssue rBkp s2.part s2.usedLinks)).stepCmdHalt t

/-- R297: the tap sample at the end of step L - 1. -/
def Team.tapSample (m : Team) : Team :=
  let v := m.send.extractLsb' 112 8 ++ m.busWu ++ m.busBp
  { m with tap := v, ring := m.ring ++ [(m.stride.toNat, v)] }

/-- A report of the step meets the interrupt crossing (R447). -/
def State.stepOverrun (s : State) (t : Nat) (reported awaited : Bool) : State :=
  if reported && awaited then s.overrun t else s

/-- R111: the lowest-numbered condition that fails for passing the boundary; 0: every condition holds. -/
def State.waitCause (s : State) (t : Nat) : Nat :=
  let m := s.team t
  let n := m.stride.toNat
  if (match m.slot with | some d => d.tag != (n + 1) % 4 | none => true) then 1
  else if m.hinNext.isNone then 2
  else if s.stride < n then 3
  else if s.chip.haltBkp || s.chip.haltChk then 4
  else 0

/-- R36: the fetches of a step that needed a correction. -/
def State.isFixed (s : State) (t : Nat) (c : StepChecks) : State := c.isSingle.foldl (fun s _ => s.isCorrected t) s

/-- What the units of Team t do in the step at address p (R102): the router's entries, the writes of the BPs and the Word Unit,
and the carry that leaves toward the east. -/
def State.stepUnits (s : State) (t p : Nat) (c : StepChecks) : State :=
  let m := s.team t
  let w := m.entry 64 p
  let s1 := s.isFixed t c
  let s2 := (s.fired t p).run.foldl (State.entryStep t p m) s1
  let s3 := s2.onTeam t (fun k => m.commit k t p)
  if wCEN w then s3.onTeam (s3.nb t 2) (fun k => { k with carryIn := k.carryIn ++ [((m.wuResult w).c, m.stride.getLsbD 0)] })
  else s3

/-- The progress count and the step number advance (R32, R106); at step L - 1 the Team samples its taps (R111, R297). -/
def State.stepCount (s : State) (t step : Nat) (last pass : Bool) : State :=
  let s1 := ((s.put (Reg.TEAM_PROG_PROG t) (s.get (Reg.TEAM_PROG_PROG t) + 1)).put (Reg.TEAM_STEP_STEP t) (step + 1)).put
    (Reg.TEAM_STEP_STATE t) (if last then 4 else 0)
  if last then s1.onTeam t (fun k => { k.tapSample with passNow := pass }) else s1

/-- The design-memory ports, the errors, the breakpoint and their reports; `m` is the Team before the step, `b` port B's request. -/
def State.stepTell (s : State) (t p : Nat) (m : Team) (f : Fired) (b : Option PortUse) (comb bkp : Bool) (c : StepChecks) : State :=
  let w := m.entry 64 p
  let be := m.bpErrors comb p
  let we := wuErrors w p
  let s1 := ((s.bpErrs t p be).wuErrs t m.stride.toNat we).dmStep t (m.portA w) b c
  let s2 := f.coll.foldl (fun s e => s.rtrFault t 2 1 (eIN e) (eADDR e)) s1
  let s3 := f.ill.foldl (fun s e => s.rtrFault t 3 2 (eIN e) (eADDR e)) s2
  let bs := m.bkps p
  let s4 := if bkp && !bs.isEmpty then s3.bkpHit t p bs else s3
  s4.stepOverrun t (!be.isEmpty || !we.isEmpty) c.ackAwaited

/-- The step itself (R102): `p` is its address. -/
def State.execStep (t p : Nat) (c : StepChecks) (s : State) : State :=
  let f := s.fired t p
  ((s.stepUnits t p c).stepCount t (s.stepNo t) (decide ((s.team t).len ≤ s.stepNo t + 1)) (s.waitCause t == 0)).stepTell t p
    (s.team t) f (s.pbArrived t p f.run) (s.mode == mCheck && s.on (Reg.TEAM_CHK_CTL_COMB_EN t))
    (s.mode == mStep && s.on (Reg.TEAM_BP_CTL_BKP_EN t)) c

/-- A Team that is powered, takes part in strides and stands before a step (R102, R435). -/
def State.canStep (s : State) (t : Nat) : Bool :=
  s.strideMode && (s.team t).active && s.get (Reg.TEAM_PWR_STATE t) == 1 && decide (s.stepNo t < (s.team t).len)

/-- R206: the queues of a router, and of its lead link, are compared with their bounds at the end of a cycle. -/
def State.qboundAll (s : State) (t : Nat) : State :=
  let s1 := (List.range 4).foldl (fun s port => s.qbound t port) s
  match s1.leadOf t with
  | some n => s1.qboundLd n t
  | none => s1

/-- R102, R104: one island cycle of a Team before its boundary.  DESIGN CHOICES, where the rules leave it open: R36's checks are
looked at only in the cycle that would execute the step, and a double-bit error drops the whole step, since QUARANTINE freezes the
array; a cycle in which an RX condition and R79's extra cycle both stand counts in TEAM_STALL_RX. -/
def State.stepCycle (t : Nat) (c : StepChecks) (s : State) : State :=
  if !s.canStep t then s
  else if (s.team t).halted then s.put (Reg.TEAM_STEP_STATE t) 3
  else if s.rxWaits t then s.stall t (Reg.TEAM_STALL_RX_COUNT t) 1
  else if s.locWaits t then (s.rmwWrite t).stall t (Reg.TEAM_STALL_LOC_COUNT t) 1
  else if s.skewWaits t then s.stall t (Reg.TEAM_STALL_SKEW_COUNT t) 2
  else
    match c.isDouble with
    | u :: us => (s.isFixed t c).isUe t (us.foldl min u) (s.stepAddr t)
    | [] => s.execStep t (s.stepAddr t) c

/-- R102, R104, R206: a cycle with what its end compares. -/
def State.stepExecute (t : Nat) (c : StepChecks) (s : State) : State := (s.stepCycle t c).qboundAll t

def execStepExecute (t : Fin 1024) (c : StepChecks) (s : State) : Out := onMapped t s (State.stepExecute t c)

end Sys2Proof.Machine
end

