-- ==== Sys2Proof/Machine/Pcs.lean ====
section
/-! DEFINITION. The MAC and the coding of the time port (R354): preamble, SFD and FCS, and the 64b/66b blocks and the scrambler of IEEE
802.3 Clause 49.  PRESUMED: R354 names the standard and repeats none of its tables. -/
namespace Sys2Proof.Machine

/-- The time port's 10.3125 Gbit/s in units of 1/16 Gbit/s. -/
def tpRate : Nat := 165

/-! ### MAC -/

/-- R354: a frame as the MAC sends it: preamble, SFD, the frame padded to 60 bytes, and its FCS. -/
def macFrame (f : List Byte) : List Byte :=
  let body := f ++ List.replicate (60 - f.length) 0
  List.replicate 7 0x55 ++ 0xD5 :: (body ++ leBytes 4 (crc32 body).toNat)

/-- R356: the last four bytes are the FCS of the bytes before them. -/
def fcsOk (mac : List Byte) : Bool :=
  let n := mac.length - 4
  decide (4 ≤ mac.length) && leBytes 4 (crc32 (mac.take n)).toNat == mac.drop n

/-! ### Blocks -/

/-- The block types of a terminate after 0 to 7 bytes. -/
def termTypes : List Nat := [0x87, 0x99, 0xAA, 0xB4, 0xCC, 0xD2, 0xE1, 0xFF]

/-- The number that bytes spell, lowest first. -/
def bytesNat : List Byte → Nat
  | [] => 0
  | b :: bs => b.toNat + 256 * bytesNat bs

/-- A control block: its type and the bytes after it. -/
def ctlBlock (ty : Nat) (bs : List Byte) : RxBlock := ⟨2, BitVec.ofNat 64 (ty + 256 * bytesNat bs)⟩

/-- The blocks of the bytes after the start block: data blocks of eight bytes, and the terminate. -/
def dataBlocks : Nat → List Byte → List RxBlock
  | 0, _ => []
  | k + 1, bs =>
    if bs.length < 8 then [ctlBlock (termTypes.getD bs.length 0x87) bs]
    else ⟨1, BitVec.ofNat 64 (bytesNat (bs.take 8))⟩ :: dataBlocks k (bs.drop 8)

/-- The blocks of a MAC frame: a start block, in which the start stands for the first byte of the preamble, data and a terminate. -/
def pcsBlocks (mac : List Byte) : List RxBlock := ctlBlock 0x78 ((mac.take 8).drop 1) :: dataBlocks mac.length (mac.drop 8)

/-- The bytes of a frame from its data blocks to its terminate; none where another block stands among them. -/
def frameBytes : List RxBlock → Option (List Byte)
  | [] => none
  | b :: rest =>
    if b.sync = 1 then (frameBytes rest).map (fun bs => leBytes 8 b.body.toNat ++ bs)
    else if b.sync = 2 then
      match termTypes.idxOf? (b.body.toNat % 256) with
      | some k => some ((leBytes 8 b.body.toNat).tail.take k)
      | none => none
    else none

/-- The bytes of a start block after its start, which stands in its first or its fifth byte. -/
def startBytes (b : RxBlock) : Option (List Byte) :=
  let bs := leBytes 8 b.body.toNat
  if b.sync ≠ 2 then none
  else if b.body.toNat % 256 = 0x78 then some (bs.drop 1)
  else if b.body.toNat % 256 = 0x33 ∨ b.body.toNat % 256 = 0x66 then some (bs.drop 5)
  else none

/-- What follows the preamble and the SFD. -/
def afterSfd : List Byte → List Byte
  | [] => []
  | b :: bs => if b = 0xD5 then bs else afterSfd bs

/-- R354, R356: the bytes from the destination address to the FCS of the first frame in the blocks; none without a start.  A frame with a
block that is neither data nor its terminate has no bytes whose FCS could be right. -/
def pcsFrame : List RxBlock → Option (List Byte)
  | [] => none
  | b :: rest =>
    match startBytes b with
    | some bs => some (match frameBytes rest with | some more => afterSfd (bs ++ more) | none => [])
    | none => pcsFrame rest

/-! ### Scrambler: 1 + x^39 + x^58 -/

/-- The state of a scrambler after one line bit: the last 58, the latest in bit 0. -/
def lineState (st : Nat) (b : Bool) : Nat := (2 * st + ofBool b) % 2 ^ 58

/-- What the scrambler adds to the next bit. -/
def lineTap (st : Nat) : Bool := bit st 38 ^^ bit st 57

/-- The 64 bits of a word through the scrambler (or, `back`, the descrambler), lowest first: the state after it, and the bits. -/
def lineWord (back : Bool) (st w : Nat) : Nat × Nat :=
  (List.range 64).foldl (fun (p : Nat × Nat) i =>
    let d := bit w i
    let o := d ^^ lineTap p.1
    (lineState p.1 (if back then d else o), p.2 + 2 ^ i * ofBool o)) (st, 0)

/-- Blocks as they leave the time port; sync headers are not scrambled. -/
def scrambled (st : Nat) : List RxBlock → List RxBlock
  | [] => []
  | b :: rest => let (st1, w) := lineWord false st b.body.toNat; ⟨b.sync, BitVec.ofNat 64 w⟩ :: scrambled st1 rest

/-- Blocks descrambled after the line state given. -/
def descrambledFrom (st : Nat) : List RxBlock → List RxBlock
  | [] => []
  | b :: rest => let (st1, w) := lineWord true st b.body.toNat; ⟨b.sync, BitVec.ofNat 64 w⟩ :: descrambledFrom st1 rest

/-- The blocks after the first one, whose bits set the descrambler. -/
def descrambled : List RxBlock → List RxBlock
  | [] => []
  | b :: rest => descrambledFrom (lineWord true 0 b.body.toNat).1 rest

end Sys2Proof.Machine
end

