-- ==== Sys2Proof/Machine/TimeBase.lean ====
section
/-! DEFINITION. The Time Base, its compare units, the transmit stamp queue and the time port (chapter 13). -/
namespace Sys2Proof.Machine

/-- A nanosecond in units of 2^-24 ns. -/
abbrev nsUnits : Nat := 2 ^ 24
/-- A second in units of 2^-24 ns. -/
abbrev secUnits : Nat := 1000000000 * 2 ^ 24

/-- A stamp as one number of units of 2^-24 ns. -/
def stampUnits (v : Stamp) : Nat := v.sec * secUnits + v.ns * nsUnits + v.frac

/-- The stamp of a number of units; SEC wraps modulo 2^48 (R339). -/
def unitsStamp (u : Nat) : Stamp := ⟨u / secUnits % 2 ^ 48, u % secUnits / nsUnits, u % nsUnits⟩

/-- R340: NR = (SEC * 10^9 + NS) modulo 2^32. -/
def stampNR (v : Stamp) : Nat := (v.sec * 1000000000 + v.ns) % 2 ^ 32

/-- A value moved by a signed number of units. -/
def stampAdd (v : Stamp) (d : Int) : Stamp :=
  unitsStamp (((stampUnits v : Int) + d) % ((2 ^ 48 * secUnits : Nat) : Int)).toNat

/-- The stamp `elapsed` units after the last update. -/
def State.stampAt (s : State) (elapsed : Nat) : Stamp := stampAdd s.tb.now elapsed

/-- R345: a stamp at a moment, measured on a lane of `w` times 1/16 Gbit/s: the value after the update before it, plus its unit
intervals (16 / w ns each), scaled by INC / 6.4 ns with the INC of that update. -/
def State.stampOf (s : State) (m : Moment) (w : Nat) : Stamp :=
  let (v, inc) := s.tb.past[m.back]?.getD (s.tb.now, (s.rd Adr.TB_INC).toNat)
  stampAdd v (m.ui * inc * 5 / (2 * w))

/-- TB_STAT.TXQ_CNT follows the queue (R357). -/
def State.txqCount (s : State) : State := s.put Reg.TB_STAT_TXQ_CNT s.tb.txq.length

/-- R409: a started LINK_TIME that waits for the stamp of this source and ID. -/
def Taken.timing (c : Taken) (src id : Nat) : Bool :=
  c.started && fieldOf c.desc 0 2 == 0x0704 && fieldOf c.desc 8 1 * 16 + fieldOf c.desc 9 1 == src && c.note == id

/-- R348, R349, R409: a transmit stamp enters the queue, or is lost at a full queue; the LINK_TIME that waits for it learns so. -/
def State.pushStamp (s : State) (src id : Nat) (v : Stamp) : State :=
  if s.tb.txq.length < 16 then
    ({ s with tb := { s.tb with txq := s.tb.txq ++ [⟨src, id, v⟩] } } : State).txqCount
  else ((s.set1 Reg.TB_STAT_TXQ_OVF).sat Reg.TB_TXQ_LOST_COUNT 1).onBox 1 (fun b => { b with
    taken := b.taken.map (fun c => if c.timing src id then { c with note := c.note + 256 } else c) })

/-- R350, R351: compare unit k after an update; `jumped` when the update carried a SET or an offset.  A firing raises an interrupt to
Groom 1. -/
def State.compare (s : State) (jumped : Bool) (k : Nat) : State :=
  let target := (s.rd (Adr.TB_CMP_TGT k)).toNat
  if s.on (Reg.TB_CMP_CTL_ARM k) && decide (0 ≤ sint 32 (stampNR s.tb.now + 2 ^ 32 - target)) then
    let s0 := (s.set1 (Reg.TB_CMP_CTL_FIRED k)).set1If jumped (Reg.TB_CMP_CTL_JUMPED k)
    let s1 : State := { s0 with tb := { s0.tb with irqs := upd s0.tb.irqs k (look s0.tb.irqs k + 1) } }
    let s2 := if s.on (Reg.TB_CMP_CTL_PERIODIC k) then
        s1.wr (Adr.TB_CMP_TGT k) (BitVec.ofNat 32 (target + (s.rd (Adr.TB_CMP_PER k)).toNat))
      else s1.clr (Reg.TB_CMP_CTL_ARM k)
    if look s.tb.owner k = 2 then s2.postEvent 1 ⟨0x0012, 8, packBytes [(16, 1, k), (20, 4, target)]⟩ else s2
  else s

/-- R339, R341, R342, R344: one update of the counter at an edge of LREF; none while LREF is stopped. -/
def State.tbUpdate (s : State) : State :=
  if s.on Reg.TB_CTL_EN && s.on Reg.CHIP_CLK_STAT_LREF_OK then
    let (s1, jumped) : State × Bool :=
      match s.tb.set with
      | some v =>
        let s1 := s.set1If s.tb.adj.isSome Reg.TB_STAT_ADJ_LOST
        ({ s1 with tb := { s1.tb with now := v, set := none, adj := none } }, true)
      | none =>
        let off := s.tb.adj.getD 0
        ({ s with tb := { s.tb with
            now := stampAdd s.tb.now ((s.rd Adr.TB_INC).toNat + off * (nsUnits : Nat)), adj := none } }, s.tb.adj.isSome)
    let s2 : State := { s1 with tb := { s1.tb with
      incPend := false, past := ((s1.tb.now, (s.rd Adr.TB_INC).toNat) :: s1.tb.past).take 260 } }
    ((s2.clr Reg.TB_STAT_SET_PEND).clr Reg.TB_STAT_ADJ_PEND).each 8 (fun k s => s.compare jumped k)
  else s

def execTbUpdate (s : State) : Out := .next s.tbUpdate

/-- R341: a write of TB_INC takes effect at the next update. -/
def State.tbInc (v : Word) (s : State) : State := { s.wr Adr.TB_INC v with tb := { s.tb with incPend := true } }

def execTbIncWrite (v : Word) (s : State) : Out := .next (s.tbInc v)

/-- R341, R342: a write of TB_ADJ makes an offset pending, or adds to the pending one, within the range. -/
def State.tbAdj (v : Word) (s : State) : State :=
  let sum := s.tb.adj.getD 0 + v.toInt
  if -999999999 ≤ v.toInt ∧ v.toInt ≤ 999999999 ∧ -999999999 ≤ sum ∧ sum ≤ 999999999 then
    ({ s with tb := { s.tb with adj := some sum } } : State).set1 Reg.TB_STAT_ADJ_PEND
  else s.set1 Reg.TB_STAT_ADJ_ERR

def execTbAdjWrite (v : Word) (s : State) : Out := .next (s.tbAdj v)

/-- R341, R342: a write of 1 to TB_CTL.SET makes the staged value pending. -/
def State.tbSet (s : State) : State :=
  let ns := (s.rd Adr.TB_SET_NS).toNat
  if ns < 1000000000 then
    ({ s with tb := { s.tb with
      set := some ⟨s.pair Adr.TB_SET_SEC_LO Adr.TB_SET_SEC_HI % 2 ^ 48, ns, s.get Reg.TB_SET_FRAC_FRAC⟩ } } : State).set1
      Reg.TB_STAT_SET_PEND
  else s.set1 Reg.TB_STAT_SET_ERR

def execTbSetWrite (s : State) : Out := .next s.tbSet

/-! ### The time port -/

/-- Block lock of Clause 49 (R354): 64 valid sync headers in a row give it, 16 invalid ones in a window of 64 take it.  PRESUMED: the
numbers are those of IEEE 802.3. -/
def tpLocks (locked : Bool) (heads : List (BitVec 2)) : Bool :=
  let ok (h : BitVec 2) : Bool := h == 1 || h == 2
  if locked then (List.range heads.length).all (fun i => decide (((heads.drop i).take 64).countP (fun h => !ok h) < 16))
  else decide (64 ≤ heads.length) && (heads.drop (heads.length - 64)).all ok

/-- R354: the sync headers received decide block lock, and 16 invalid ones within 125 us, while it is held, the high bit error ratio;
both give LINK_UP while the port is enabled. -/
def State.tpLink (heads : List (BitVec 2)) (bad : Nat) (s : State) : State :=
  if s.on Reg.TP_CTL_EN then
    let lock := tpLocks (s.on Reg.TP_STAT_BLOCK_LOCK) heads
    let hiBer := lock && decide (16 ≤ bad)
    ((s.put Reg.TP_STAT_BLOCK_LOCK (ofBool lock)).put Reg.TP_STAT_HI_BER (ofBool hiBer)).put Reg.TP_STAT_LINK_UP
      (ofBool (lock && !hiBer))
  else s

def execTpLinkUpChange (heads : List (BitVec 2)) (bad : Nat) (s : State) : Out := .next (s.tpLink heads bad)

/-- R355: GO of buffer j sets, and the frame takes its place in the order of sending. -/
def State.tpGo (j : Nat) (s : State) : State :=
  if s.on (Reg.TP_TXD_GO j) then s
  else ({ s with tb := { s.tb with goOrder := s.tb.goOrder ++ [j] } } : State).set1 (Reg.TP_TXD_GO j)

def execTpTxGo (j : Fin 8) (s : State) : Out := .next (s.tpGo j)

/-- Bytes of the time-port buffers from a block offset. -/
def State.tpBytes (s : State) (off n : Nat) : List Byte := (List.range n).map (fun i => Tab.get (fun _ => 0) s.tb.buf (off + i))

/-- Bytes stored in a time-port buffer. -/
def State.setTpBytes (s : State) (off : Nat) : List Byte → State
  | [] => s
  | b :: bs => ({ s with tb := { s.tb with buf := Tab.set (fun _ => 0) s.tb.buf off b } } : State).setTpBytes (off + 1) bs

/-- R356: a frame goes to the next buffer in ring order, or is dropped at a FULL one. -/
def State.tpStore (s : State) (frame : List Byte) (v : Stamp) : State :=
  let j := s.tb.nextRx
  if s.on (Reg.TP_RXD_W0_FULL j) then s.sat Reg.TP_CNT_RX_DROP 1
  else
    let s1 := (({ s with tb := { s.tb with nextRx := (j + 1) % 16 } } : State).setTpBytes (0x8000 + 0x800 * j) frame)
    let s2 := ((s1.put (Reg.TP_RXD_W0_LEN j) frame.length).put (Reg.TP_RXD_W0_SEC_HI j) (v.sec / 2 ^ 32)).set1
      (Reg.TP_RXD_W0_FULL j)
    ((s2.put (Reg.TP_RXD_W1_SEC_LO j) v.sec).put (Reg.TP_RXD_W2_NS j) v.ns).put (Reg.TP_RXD_W3_FRAC j) v.frac

/-- R345, R355: the oldest frame's last bit has left: GO clears and the stamp of its first bit after the SFD enters the queue.  A frame
with a LEN outside the range is not sent and counts in TX_BAD.  The scrambler's state as the frame begins is free: it has passed over any
number of idle blocks. -/
def State.tpDone (m : Moment) (s : State) : State :=
  match s.tb.goOrder with
  | [] => s
  | j :: rest =>
    let len := s.get (Reg.TP_TXD_LEN j)
    if len < 60 ∨ 2044 < len then
      ((({ s with tb := { s.tb with goOrder := rest } } : State).clr (Reg.TP_TXD_GO j)).sat Reg.TP_CNT_TX_BAD 1)
    else if s.on Reg.TP_STAT_LINK_UP then
      let mac := macFrame (s.tpBytes (0x4000 + 0x800 * j) len)
      let s1 := (({ s with tb := { s.tb with
        goOrder := rest, sent := mac
        line := scrambled (Config.freeW64 s.free).toNat (pcsBlocks mac) } } : State).spendN 1).clr (Reg.TP_TXD_GO j)
      if s.on (Reg.TP_TXD_STAMP j) then s1.pushStamp 20 (s.get (Reg.TP_TXD_ID j)) (s.stampOf m tpRate) else s1
    else s

def execTpTxDone (at_ : Moment) (s : State) : Out := .next (s.tpDone at_)

/-- R356: a received frame is stored without preamble, SFD and FCS and with the stamp of its first bit after the SFD, or dropped and
counted. -/
def State.tpRx (blocks : List RxBlock) (m : Moment) (s : State) : State :=
  match pcsFrame (descrambled blocks) with
  | none => s
  | some mac =>
    let frame := mac.take (mac.length - 4)
    if !s.on Reg.TP_STAT_LINK_UP then s
    else if !fcsOk mac || decide (frame.length < 60) || decide (2044 < frame.length) then s.sat Reg.TP_CNT_FCS_ERR 1
    else s.tpStore frame (s.stampOf m tpRate)

def execTpRxFrame (blocks : List RxBlock) (at_ : Moment) (s : State) : Out := .next (s.tpRx blocks at_)

/-- R356: writing 1 to FULL frees a receive buffer. -/
def execTpRxFree (j : Fin 16) (s : State) : Out := .next (s.clr (Reg.TP_RXD_W0_FULL j))

end Sys2Proof.Machine
end

