-- ==== Sys2Proof/Machine/Boundary.lean ====
section
/-! DEFINITION. The stride boundary (R111 to R115), what reaches a Team between its steps (R41, R75, R77, R103, R109), and
the hang report (R118). -/
namespace Sys2Proof.Machine

/-! ### Between steps -/

/-- An entry of this port that takes its flit in its step and stands at an address in [a, b). -/
def State.takesBetween (s : State) (t port a b : Nat) : Bool :=
  let es := actValid (s.router t)
  let att := s.attached t
  (List.range (b - a)).any (fun i => (firedAt att es (a + i)).run.any (fun e => eIN e == port && eTakes e))

/-- R131, R41: the flit fills Receive Store locations and their presence bits. -/
def Team.deliver (m : Team) (e : BitVec 48) (f : Flit) : Team :=
  let mask := (2 ^ eRSCNT e - 1) * 2 ^ eRSBASE e
  let val := f.toNat / 2 ^ eSOFF e % 2 ^ eRSCNT e * 2 ^ eRSBASE e
  { m with rs := (m.rs &&& ~~~(BitVec.ofNat 1024 mask)) ||| BitVec.ofNat 1024 val
           rsHave := m.rsHave ||| BitVec.ofNat 1024 mask }

/-- R103, R105: the next local-output SIGNAL entry of an input port takes the flit at the head of its queue, for the
Receive Store or for the lead link (R249), or to be discarded before an isolated target (R150). -/
def State.rsWrite (t port : Nat) (s : State) : State :=
  let m := s.team t
  let r := s.router t
  match (s.signals t port m.start m.len)[look r.matched port]?, (look r.inq port).head? with
  | some e, some f =>
    if !s.strideMode || s.takesBetween t port (s.stepAddr t) (eADDR e) then s
    else
      let s0 := (s.setRouter t { r with inq := upd r.inq port ((look r.inq port).drop 1)
                                        matched := upd r.matched port (look r.matched port + 1) }).probeStatic t port 0
      let s1 := s0.probeStatic t 4 1
      if s.deadTarget t e then s0.deadStatic t e
      else if eLSEL e = 1 then
        match s.leadOf t with
        | some n => s1.onLink n (fun l => { l with txStatic := l.txStatic ++ [f] })
        | none => s1
      else s1.onTeam t (fun m => m.deliver e f)
  | _, _ => s

def execReceiveStoreWrite (t : Fin 1024) (port : Fin 4) (s : State) : Out := onMapped t s (State.rsWrite t port)

/-- R75: the next carry in the crossing toward the Team enters its queue of 32, or is lost. -/
def State.carryArrive (t : Nat) (s : State) : State :=
  let m := s.team t
  match m.carryIn with
  | [] => s
  | c :: rest =>
    if m.carryQ.length < 32 then s.setTeam t { m with carryIn := rest, carryQ := m.carryQ ++ [c] }
    else (s.setTeam t { m with carryIn := rest }).wuErrs t m.stride.toNat [⟨2, 0, 0⟩]

def execCarryArrival (t : Fin 1024) (s : State) : Out :=
  onMapped t s (fun s => if s.armed 1 t then s.carryArrive t else s)

/-- R77, R280: the next gateway response that the router has delivered enters the queue of 16, is discarded as of an ended
stride, or is lost. -/
def State.gwRspArrive (t : Nat) (s : State) : State :=
  let r := s.router t
  match r.boxT.find? (fun p => pTYPE p == 5) with
  | none => s
  | some p =>
    let s1 := s.setRouter t { r with boxT := r.boxT.erase p }
    let m := s.team t
    let n := m.stride.toNat
    if pTAG p ≠ n % 256 then s1.wuErrs t n [⟨4, 0, 0⟩]
    else if m.gwQ.length < 16 then
      s1.setTeam t { m with gwQ := m.gwQ ++ [⟨pTAG p, pE2 p % 1024, BitVec.ofNat 24 (pE0 p)⟩] }
    else s1.wuErrs t n [⟨5, 0, 0⟩]

def execGwRspArrival (t : Fin 1024) (s : State) : Out := onMapped t s (State.gwRspArrive t)

/-- R106, R109: a count that lies between the last one received and the neighbour's own becomes the latest received. -/
def State.progArrive (t port : Nat) (count : Word) (s : State) : State :=
  let old := (Tab.get (fun _ => 0#32) (s.team t).hat port).toNat
  let own := s.get (Reg.TEAM_PROG_PROG (s.nb t port))
  if 0 ≤ sint 32 (count.toNat + 2 ^ 32 - old) ∧ 0 ≤ sint 32 (own + 2 ^ 32 - count.toNat) then
    s.onTeam t (fun m => { m with hat := Tab.set (fun _ => 0#32) m.hat port count })
  else s

def execProgressCountArrival (t : Fin 1024) (port : Fin 4) (count : Word) (s : State) : Out :=
  onMapped t s (State.progArrive t port count)

/-- R118: the record and the event STRIDE_HUNG of a Team, once per stride. -/
def State.hungReport (s : State) (t state : Nat) : State :=
  if (s.team t).hungSent then s
  else
    let n := (s.team t).stride.toNat % 2 ^ 32
    ((s.onTeam t (fun m => { m with hungSent := true })).groomRec 3 4 0x13
      (argOf t (state + 65536 * (n % 65536)))).postEvent 3 ⟨0x0003, 8, packBytes [(16, 2, t), (18, 1, state), (20, 4, n)]⟩

/-- R118: the Team has spent its stall limit in RX_STALL or SKEW_STALL. -/
def State.hang (t : Nat) (s : State) : State :=
  let st := s.get (Reg.TEAM_STEP_STATE t)
  if s.get (Reg.TEAM_HANG_CTL_HANG_LIMIT t) ≠ 0 ∧ (st = 1 ∨ st = 2) ∧ s.canStep t then
    (s.set1 (Reg.TEAM_STRIDE_STAT_HUNG t)).hungReport t st
  else s

def execHangTimerExpiry (t : Fin 1024) (s : State) : Out := onMapped t s (State.hang t)

/-! ### The Team's boundary (R111) -/

/-- R324: the HIN word of a Team from the input signals. -/
def State.hinOf (s : State) (t : Nat) (v : BitVec 1536) : W24 :=
  BitVec.ofNat 24 ((List.range 24).foldl (fun n k =>
    match look s.ht.hin (32 * t + k) with
    | 0 => n
    | i + 1 => n + ofBool (v.getLsbD i) * 2 ^ k) 0)

/-- R111 event 2, R324: the Team's output slice goes into the output set. -/
def State.handSlice (s : State) (t : Nat) : State :=
  let send := (s.team t).send
  { s with ht := { s.ht with
      outSet := s.ht.hout.foldl (fun v p =>
        if (p.2 - 1) / 32 = t then
          (if send.getLsbD (96 + (p.2 - 1) % 32) then v ||| BitVec.twoPow 1536 p.1 else v &&& ~~~(BitVec.twoPow 1536 p.1))
        else v) s.ht.outSet } }

/-- R41, R45, R48, R100: what clears at the boundary, with the new descriptor and the new stride number. -/
def Team.nextStride (m : Team) (d : Desc) : Team :=
  let n := m.stride.toNat
  { m with
    start := d.start, len := d.len, slot := none, stride := BitVec.ofNat 64 (n + 1)
    hin := m.hinNext.getD 0, hinNext := none, passNow := false, hungSent := false
    busBp := 0, busWu := 0, rsHave := 0, send := 0, dmrd := 0, rmrd := 0, pbrd := 0, dmrdNext := none, pbrdNext := none
    pbOut := 0, gwReq := 0, flagC := false, flagV := false, nGreq := 0, nPick := 0
    carryQ := m.carryQ.filter (fun c => c.2 != m.stride.getLsbD 0)
    gwQ := m.gwQ.filter (fun g => g.tag != n % 256) }

/-- R111: the pass. -/
def State.pass (s : State) (t : Nat) : State :=
  let m := s.team t
  let n := m.stride.toNat
  let d := m.slot.getD ⟨0, 0, 0⟩
  let s1 := if m.len = 0 then s else s.handSlice t
  let s2 := s1.swapAt t (n + 1)
  let s3 := (s2.setTeam t (m.nextStride d)).onRouter t (fun r => { r with matched := [] })
  let s4 := (((s3.put (Reg.TEAM_STRIDE_STAT_STRIDE t) (n + 1)).put (Reg.TEAM_STRIDE_STAT_WAIT_CAUSE t) 0).put
    (Reg.TEAM_STEP_STEP t) 0).put (Reg.TEAM_STEP_STATE t) 0
  s4.wuErrs t n ((if m.carryQ.any (fun c => c.2 == m.stride.getLsbD 0) then [⟨3, 0, 0⟩] else [])
    ++ (if m.gwQ.any (fun g => g.tag == n % 256) then [⟨4, 0, 0⟩] else []))

/-- The Team stands after step L - 1, or before the first stride of a run. -/
def State.atEnd (s : State) (t : Nat) : Bool :=
  s.strideMode && (s.team t).active && s.get (Reg.TEAM_PWR_STATE t) == 1 && decide ((s.team t).len ≤ s.stepNo t)

/-- Every Team has passed the boundary that the chip is to complete. -/
def State.allPassed (s : State) : Bool :=
  s.runTeams.all (fun t =>
    let m := s.team t
    if s.ds.first then m.active && m.len != 0 else decide (s.stride < m.stride.toNat))

/-- R112, R180: the stride into which the chip is to complete a boundary that every Team has passed. -/
def State.boundaryInto (s : State) : Option Nat :=
  if s.strideMode && s.on Reg.DS_CTL_EN && !s.runTeams.isEmpty && s.allPassed then
    some (if s.ds.first then s.stride else s.stride + 1)
  else none

/-- R112, R182: DS_STAT.STATE shows CONSUME from the last Team's pass on. -/
def State.consumeShown (s : State) : State := if s.boundaryInto.isSome then s.put Reg.DS_STAT_STATE 1 else s

/-- R111: the pass at the end of the cycle of step L - 1, or one END cycle.  Before the first stride of a run no cycle is
an END cycle. -/
def State.boundary (t : Nat) (s : State) : State :=
  let m := s.team t
  if !s.atEnd t then s
  else if m.passNow then (s.pass t).consumeShown
  else
    let cause := s.waitCause t
    let s2 := if m.len = 0 then s
      else ((s.sat (Reg.TEAM_BWAIT_COUNT t) 1).put (Reg.TEAM_STRIDE_STAT_WAIT_CAUSE t) cause).put (Reg.TEAM_STEP_STATE t) 4
    if cause = 0 then (s2.pass t).consumeShown else s2

def execStrideBoundaryPass (t : Fin 1024) (s : State) : Out := onMapped t s (State.boundary t)

/-! ### The chip's boundary (R112, R180) -/

/-- R254: the partner's count of stride n on a link against the chip's own: one that differs sets DIVERGE, raises a hold with REASON
FAULT and leads to QUARANTINE. -/
def State.strideCheck (s : State) (link n own got : Nat) : State :=
  if own = got then s
  else ((s.set1 (linkErr link 13)).requestHold rFault).enterQuarantine qDiverge (link + 16 * (n % 2 ^ 28))

/-- R253, R254: the chip's own count of stride n is kept on a link, and a count that came early is compared with it. -/
def State.strideKeep (s : State) (link n c : Nat) : State :=
  let early := (s.link link).early
  let s1 := s.onLink link (fun k => { k with strides := ((n, c) :: k.strides).take 16, early := early.filter (fun p => p.1 != n) })
  match early.find? (fun p => p.1 == n) with
  | some p => s1.strideCheck link n c p.2
  | none => s1

/-- R253: STRIDE goes out on the used lead links, and the count is kept for the last 16 such strides.  The count is that of
the first step of stride n. -/
def State.strideSay (s : State) (n : Nat) : State :=
  match s.runTeams with
  | [] => s
  | t :: _ =>
    let c := (s.get (Reg.TEAM_PROG_PROG t) + 2 ^ 32 - s.stepNo t) % 2 ^ 32
    (s.usedLinks.foldl (fun s l => s.strideKeep l n c) s).sayAll s.usedLinks (msgStride n c)

/-- R254: no progress count of an earlier run is kept. -/
def State.forgetStrides (s : State) : State := (List.range 16).foldl (fun s n => s.onLink n (fun l => { l with strides := [], early := [] })) s

/-- R353: the capture of TB_SB. -/
def State.sbCapture (s : State) (n elapsed : Nat) : State :=
  if s.on Reg.TB_SB_CTL_FROZEN then s
  else
    let v := s.stampAt elapsed
    let s1 := ((((s.wr Adr.TB_SB_STRIDE (BitVec.ofNat 32 n)).wr Adr.TB_SB_NS (BitVec.ofNat 32 v.ns)).wr Adr.TB_SB_SEC_LO
      (BitVec.ofNat 32 v.sec)).wr Adr.TB_SB_SEC_HI (BitVec.ofNat 32 (v.sec / 2 ^ 32))).wr Adr.TB_SB_FRAC (BitVec.ofNat 32 v.frac)
    if s.on Reg.TB_SB_CTL_SMK_ARM && s.rd Adr.TB_SB_N == BitVec.ofNat 32 n then s1.set1 Reg.TB_SB_CTL_FROZEN else s1

/-- R325: the fabric receives an output set; a set not yet shown is replaced. -/
def State.giveSet (s : State) (n : Nat) : State :=
  let s1 := if s.ht.ready.isSome then s.sat Reg.HT_HP_STAT_HP_SKIP 1 else s
  { s1 with ht := { s1.ht with ready := some (n, s1.ht.outSet), outSet := 0 } }

/-- R112, R180: what follows event 5 of the boundary into stride n. -/
def State.completeInto (s : State) (n elapsed : Nat) : State :=
  let s1 := if s.ds.first then s else (s.putPair Adr.CHIP_STRIDE_LO Adr.CHIP_STRIDE_HI n).giveSet s.stride
  let s2 : State := { s1 with ds := { s1.ds with first := false }
                              chip := { s1.chip with hinLatched := false, mark := true } }
  let s3 := s2.sbCapture n elapsed
  if n % 1024 = 0 then s3.strideSay n else s3

/-- R112, R180: the chip completes the boundary once the tokens of its stride are consumed (event 5). -/
def State.chipBoundary (elapsed : Nat) (s : State) : State :=
  match s.boundaryInto with
  | some n => if s.ds.due.isNone && s.ds.lastTag == some n then s.completeInto n elapsed else s
  | none => s

def execChipBoundaryComplete (elapsed : Nat) (s : State) : Out := .next (s.chipBoundary elapsed)

/-- R113, R326: the Hitch input latch for the next stride: some Team has reached step L - 32 of the stride that the chip
has begun. -/
def State.hitchLatch (s : State) : State :=
  let due := s.strideMode && !s.chip.hinLatched && !s.ds.first && s.runTeams.any (fun t =>
    let m := s.team t
    m.stride.toNat == s.stride && m.len != 0 && decide (m.len ≤ s.stepNo t + 32))
  if due then
    let v := s.ht.hpi
    let s1 := s.runTeams.foldl (fun k t => k.onTeam t (fun m => { m with hinNext := some (s.hinOf t v) })) s
    { s1 with chip := { s1.chip with hinLatched := true }, ht := { s1.ht with inTgl := !s1.ht.inTgl } }
  else s

def execHitchInputLatch (s : State) : Out := .next s.hitchLatch

end Sys2Proof.Machine
end

