-- ==== Sys2Proof/Machine/DesignMem.lean ====
section
/-! DEFINITION. Writes of Instruction Stores (R35), design memory beyond the ports (R87 to R99, R547), and the chip's stride
number (R120). -/
namespace Sys2Proof.Machine

/-- The Team is powered (R455). -/
def State.teamOn (s : State) (t : Nat) : Bool := s.get (Reg.TEAM_PWR_STATE t) == 1

/-! ### Instruction Stores (R35) -/

/-- R35: Instruction Stores are written in IDLE by the host and in LOAD by the loader. -/
def State.storesOpen (s : State) (t : Nat) : Bool := (s.mode == mIdle || s.mode == mLoad) && s.teamOn t

def State.isStage (t : Nat) (wu : Bool) (k : Nat) (v : W24) (s : State) : State :=
  if s.storesOpen t then
    s.onTeam t (fun m => { m with stage := Tab.set (stageDef m.gen) m.stage (2 * ofBool wu + k) v })
  else s

def execIsStageWrite (t : Fin 1024) (wu : Bool) (k : Fin 2) (v : BitVec 24) (s : State) : Out :=
  onMapped t s (State.isStage t wu k v)

/-- R35: the staged words and word 2 become the entry, and both staging registers clear. -/
def Team.commitEntry (m : Team) (u a : Nat) (v : W24) : Team :=
  let b := if u = 64 then 2 else 0
  let get (k : Nat) : W24 := Tab.get (stageDef m.gen) m.stage (b + k)
  let m1 := m.setEntry u a (v ++ get 1 ++ get 0)
  { m1 with stage := Tab.set (stageDef m.gen) (Tab.set (stageDef m.gen) m1.stage b 0) (b + 1) 0 }

def State.isCommit (t u a : Nat) (v : W24) (s : State) : State :=
  if s.storesOpen t then s.onTeam t (fun m => m.commitEntry u a v) else s

def execIsCommitWrite (t : Fin 1024) (u : Fin 65) (a : Fin 1024) (v : BitVec 24) (s : State) : Out :=
  onMapped t s (State.isCommit t u a v)

/-! ### Design memory by DMA (R87 to R91, R98) -/

/-- R90: the new word of a write. -/
def dmNew (k : DmaKind) (old d : W24) : W24 :=
  match k with
  | .read => old
  | .write => d
  | .setBits => old ||| d
  | .clearBits => old &&& ~~~d

/-- One word written; the read of an alias write reports what its check finds, and a double-bit error gives it the bits as stored
(R91 to R93); a bank that is not ready takes nothing (R98). -/
def State.dmPut (s : State) (t : Nat) (k : DmaKind) (a : Nat) (d : W24) (c : MemCheck) : State :=
  if s.bankReady t (a / 2 ^ 14) then
    let s1 := s.onTeam t (fun m => m.setWord a (dmNew k (memData c (m.word a)) d))
    if k = .write then s1 else s1.dmChecked t 0 a c
  else s

/-- R98: one word read by DMA. -/
def State.dmGet (s : State) (t a : Nat) (c : MemCheck) : W24 :=
  if s.bankReady t (a / 2 ^ 14) then memData c ((s.team t).word a) else 0

/-- R89: the states in which the host may write design memory. -/
def State.hostMayWrite (s : State) : Bool :=
  s.mode == mIdle || s.mode == mLoad || s.mode == mSnapshot || s.mode == mQuarantine || s.atRest

/-- R87: a firmware access waits for a free cycle while strides run, and is served at once otherwise. -/
def State.dmFirmware (s : State) (t : Nat) (src : DmaSrc) (k : DmaKind) (a : Nat) (d : W24) (c : MemCheck) : State :=
  if s.strideMode then s.onTeam t (fun m => { m with dma := m.dma ++ [⟨src, k, a, 1, [d], []⟩] }) else s.dmPut t k a d c

/-- R89, R90: a write through a window. -/
def State.dmWrite (t : Nat) (host : Bool) (k : DmaKind) (a : Nat) (d : W24) (c : MemCheck) (s : State) : State :=
  if host then
    if s.hostMayWrite then s.dmPut t k a d c else s.set1If (s.teamOn t) (Reg.TEAM_DM_STAT_HOST_WR_DROP t)
  else s.dmFirmware t .groom k a d c

def execDmWindowWrite (t : Fin 1024) (host : Bool) (a : BitVec 15) (v : BitVec 24) (s : State) : Out :=
  onMapped t s (State.dmWrite t host .write a.toNat v .ok)

def execDmAliasSet (t : Fin 1024) (host : Bool) (a : BitVec 15) (v : BitVec 24) (c : MemCheck) (s : State) : Out :=
  onMapped t s (State.dmWrite t host .setBits a.toNat v c)

def execDmAliasClear (t : Fin 1024) (host : Bool) (a : BitVec 15) (v : BitVec 24) (c : MemCheck) (s : State) : Out :=
  onMapped t s (State.dmWrite t host .clearBits a.toNat v c)

/-- A served request answers its packet (R141), or returns its data to the host. -/
def State.dmaAnswer (s : State) (t : Nat) (r : DmaReq) : State :=
  match r.src with
  | .host => { s with rdata := s.rdata ++ r.got.map (fun w => w.setWidth 32) }
  | .packet p => s.wait t (if r.kind = .read then readCpl t p 0 r.got else writeAck t p)
  | _ => s

/-- R87: one word of the oldest waiting access is served. -/
def State.dmaServe (t : Nat) (c : MemCheck) (s : State) : State :=
  let m := s.team t
  match m.dma with
  | [] => s
  | r :: rest =>
    let r1 : DmaReq := { r with addr := (r.addr + 1) % 2 ^ 15, left := r.left - 1, data := r.data.drop 1
                                got := if r.kind = .read then r.got ++ [s.dmGet t r.addr c] else r.got }
    let s1 := s.setTeam t { m with dma := if r1.left = 0 then rest else r1 :: rest }
    let s2 := if r.kind ≠ .read then s1.dmPut t r.kind r.addr (r.data.headD 0) c
      else if s.bankReady t (r.addr / 2 ^ 14) then s1.dmChecked t 0 r.addr c else s1
    if r1.left = 0 then s2.dmaAnswer t r1 else s2

/-- The words that Team t still serves up to its last waiting read through BAR4. -/
def Team.hostWords (m : Team) : Nat :=
  (m.dma.foldl (fun p r => (p.1 + r.left, if r.src = .host then p.1 + r.left else p.2)) (0, 0)).2

/-- R367: the host's waiting reads of a Team are performed before its next access to that Team; `c` is what the checks of their words
find. -/
def State.hostCatchUp (s : State) (t : Nat) (c : MemCheck) : State :=
  (List.range (s.team t).hostWords).foldl (fun s _ => s.dmaServe t c) s

def execDmaAccess (t : Fin 1024) (c : MemCheck) (s : State) : Out := onMapped t s (State.dmaServe t c)

/-- R88: the Team inserts a stall cycle and serves the access in it. -/
def State.dmaForce (t : Nat) (c : MemCheck) (s : State) : State :=
  if s.canStep t && !(s.team t).halted && !(s.team t).dma.isEmpty then
    ((s.stall t (Reg.TEAM_STALL_LOC_COUNT t) 1).set1 (Reg.TEAM_DM_STAT_DMA_FORCED t)).dmaServe t c
  else s

def execDmaForced (t : Fin 1024) (c : MemCheck) (s : State) : Out := onMapped t s (State.dmaForce t c)

/-! ### Patrol tests (R94, R96) -/

/-- The next region of the patrol, skipping banks that are not ON; none when no bank is. -/
def State.nextRegion (s : State) (t r : Nat) : Option Nat :=
  (List.range 128).findSome? (fun i => if s.bankReady t ((r + i) % 128 / 64) then some ((r + i) % 128) else none)

/-- R94: PATROL_FAIL, with its record. -/
def State.patrolFail (s : State) (t a : Nat) : State :=
  let s1 := (s.set1 (Reg.TEAM_DM_STAT_PATROL_FAIL t)).dmLoc t 2 0 a
  s1.groomRec 3 3 0x12 (argOf t ((s1.rd (Adr.TEAM_DM_ERR_ADDR t)).toNat % 65536))

/-- R94: one region is saved, tested and restored with fresh check bits. -/
def State.patrol (t fixed : Nat) (ue : List (Fin 256 × BitVec 24)) (bad : List (Fin 256)) (s : State) : State :=
  if s.on (Reg.TEAM_DM_CTL_PATROL_EN t) && s.teamOn t then
    match s.nextRegion t (s.team t).patrolAt with
    | none => s
    | some r =>
      let s1 := s.onTeam t (fun m => { m with patrolAt := (r + 1) % 128 })
      let s2 := if fixed = 0 then s1
        else (s1.corrected t (Reg.TEAM_DM_CECNT_DM_CECNT t) fixed).set1 (Reg.TEAM_DM_STAT_CE t)
      let s3 := ue.foldl (fun s p => (s.onTeam t (fun m => m.setWord (256 * r + p.1) p.2)).dmUe t 0 (256 * r + p.1)) s2
      bad.foldl (fun s p => s.patrolFail t (256 * r + p.val)) s3
  else s

def execPatrolRegion (t : Fin 1024) (fixed : Nat) (ue : List (Fin 256 × BitVec 24)) (bad : List (Fin 256)) (s : State) : Out :=
  onMapped t s (State.patrol t fixed ue bad)

/-- R96: the Instruction Store patrol reads its next entry. -/
def State.isPatrolRead (t : Nat) (c : Check) (s : State) : State :=
  if s.on (Reg.TEAM_DM_CTL_IS_PATROL_EN t) && s.teamOn t then
    let k := (s.team t).isPatrolAt
    let s1 := s.onTeam t (fun m => { m with isPatrolAt := (k + 1) % (65 * 1024) })
    match c with
    | .ok => s1
    | .single => s1.isCorrected t
    | .double => s1.isUe t (k / 1024) (k % 1024)
  else s

/-- R96: in IDLE the next region of 256 entries of an Instruction Store is saved, tested with the patterns of R94 and restored:
`fixed` corrections, `ue` the first entry with a double-bit error, `bad` whether an entry read back wrongly.  The spec gives no address
for TEAM_DM_ERR_ADDR there: a free value. -/
def State.isRegionTest (t fixed : Nat) (ue : Option (Fin 256)) (bad : Bool) (s : State) : State :=
  let r := (s.team t).isRegionAt
  let s1 := s.onTeam t (fun m => { m with isRegionAt := (r + 1) % 260 })
  let s2 := if fixed = 0 then s1
    else (s1.corrected t (Reg.TEAM_DM_CECNT_IS_CECNT t) fixed).set1 (Reg.TEAM_DM_STAT_IS_CE t)
  let s3 := if bad then (s2.patrolFail t (Config.freeW24 s2.free).toNat).spend else s2
  match ue with
  | some e => s3.isUe t (r / 4) (256 * (r % 4) + e)
  | none => s3

/-- R96: the Instruction Store patrol reads its next entry, and in IDLE tests its next region. -/
def State.isPatrolStep (t : Nat) (c : Check) (fixed : Nat) (ue : Option (Fin 256)) (bad : Bool) (s : State) : State :=
  let s1 := s.isPatrolRead t c
  if s.mode == mIdle && s1.mode == mIdle && s.on (Reg.TEAM_DM_CTL_IS_PATROL_EN t) && s.teamOn t then s1.isRegionTest t fixed ue bad
  else s1

def execIsPatrol (t : Fin 1024) (c : Check) (fixed : Nat) (ue : Option (Fin 256)) (bad : Bool) (s : State) : Out :=
  onMapped t s (State.isPatrolStep t c fixed ue bad)

/-! ### Bank power (R97 to R99, R547) -/

def Team.bank (m : Team) (b : Nat) : Bank := if b = 0 then m.bank0 else m.bank1
def Team.setBank (m : Team) (b : Nat) (v : Bank) : Team := if b = 0 then { m with bank0 := v } else { m with bank1 := v }

/-- Every word of a bank 0 (R97). -/
def Team.clearBank (m : Team) (b : Nat) : Team := { m with dm := m.dm.filter (fun p => p.1 / 2 ^ 14 != b) }

def pwrFld (t b : Nat) : Fld := if b = 0 then Reg.TEAM_DM_CTL_BANK0_PWR t else Reg.TEAM_DM_CTL_BANK1_PWR t
def readyFld (t b : Nat) : Fld := ⟨Adr.TEAM_DM_STAT t, b, b⟩

/-- R97, R547: a bank goes to a power state: 0 and 3 OFF, 1 RETENTION, 2 ON. -/
def State.bankPower (s : State) (t b v : Nat) : State :=
  let old := s.get (pwrFld t b)
  let k := (s.team t).bank b
  let s1 := s.put (pwrFld t b) v
  if v = 2 then
    if old = 2 then s1
    else s1.onTeam t (fun m => m.setBank b (if k.valid then ⟨true, false, true⟩ else ⟨false, true, false⟩))
  else
    let keep := v == 1 && k.valid && (old == 2 || old == 1)
    let s2 := s1.clr (readyFld t b)
    s2.onTeam t (fun m => let m1 := m.setBank b ⟨keep, false, false⟩; if keep then m1 else m1.clearBank b)

/-- R99: firmware changes bank states only in IDLE, LOAD, SNAPSHOT and QUARANTINE. -/
def State.bankWrite (t b v : Nat) (s : State) : State :=
  if (s.mode = mIdle ∨ s.mode = mLoad ∨ s.mode = mSnapshot ∨ s.mode = mQuarantine) ∧ s.teamOn t then s.bankPower t b v else s

def execBankPowerWrite (t : Fin 1024) (b : Fin 2) (v : BitVec 2) (s : State) : Out := onMapped t s (State.bankWrite t b v.toNat)

/-- R547: the bank is ready: after an initialisation every word is 0. -/
def State.bankDone (t b : Nat) (s : State) : State :=
  let k := (s.team t).bank b
  if k.init then
    (s.onTeam t (fun m => (m.clearBank b).setBank b ⟨true, false, false⟩)).set1 (readyFld t b)
  else if k.back then (s.onTeam t (fun m => m.setBank b ⟨true, false, false⟩)).set1 (readyFld t b)
  else s

def execBankInitDone (t : Fin 1024) (b : Fin 2) (s : State) : Out := onMapped t s (State.bankDone t b)

/-! ### The chip's stride number (R120) -/

/-- The number of an agent in the latch table (R520). -/
def agentCode (w : Agent) : Nat :=
  match w with
  | .host => 0
  | .groom g => 1 + g
  | .jtag => 5
  | .hub n => 6 + n

/-- R520: the upper half that an agent's read of the lower half latched. -/
def State.latched (s : State) (w : Agent) (a : Nat) : Word := Tab.get (fun _ => 0#32) s.latch (2 ^ 24 * agentCode w + a)

def State.setLatch (s : State) (w : Agent) (a : Nat) (v : Word) : State :=
  { s with latch := Tab.set (fun _ => 0#32) s.latch (2 ^ 24 * agentCode w + a) v }

def State.strideLoWrite (v : Word) (s : State) : State :=
  if s.on Reg.DS_CTL_EN then s else { s with chip := { s.chip with strideLo := v } }

def execChipStrideLoWrite (v : Word) (s : State) : Out := .next (s.strideLoWrite v)

def State.strideHiWrite (v : Word) (s : State) : State :=
  if s.on Reg.DS_CTL_EN then s else (s.wr Adr.CHIP_STRIDE_LO s.chip.strideLo).wr Adr.CHIP_STRIDE_HI v

def execChipStrideHiWrite (v : Word) (s : State) : Out := .next (s.strideHiWrite v)

/-- R120, R520: a read of the lower half of a pair answers it and latches the upper half for the agent. -/
def State.pairRead (w : Agent) (lo hi : Nat) (s : State) : State := { s.setLatch w hi (s.rd hi) with rdata := [s.rd lo] }

def execChipStrideLoRead (who : Agent) (s : State) : Out := .next (s.pairRead who Adr.CHIP_STRIDE_LO Adr.CHIP_STRIDE_HI)

end Sys2Proof.Machine
end

