-- ==== Sys2Proof/Machine/ConfigSpace.lean ====
section
/-! DEFINITION. The configuration space of the PCI Express function (R358, R360).  Its registers are named, not placed: R358 gives the
capabilities and no offsets.  PRESUMED: the fields within a register are those of the PCI Express Base Specification, which R358
names. -/
namespace Sys2Proof.Machine

/-- The PCI Device ID of R358. -/
def State.deviceId (s : State) : Nat := if s.fuses.small then 0x0C31 else 0x0C30

/-- Where the written bits of a register of the configuration space are kept. -/
def cfgKey : CfgReg → Nat
  | .ids => 0 | .command => 1 | .classCode => 2 | .header => 3 | .bar k => 4 + k.val | .subsystem => 10 | .interrupt => 11
  | .pmControl => 12 | .deviceCap => 13 | .deviceControl => 14 | .linkCap => 15 | .linkStatus => 16 | .msixControl => 17
  | .msixTable => 18 | .msixPba => 19 | .serialLo => 20 | .serialHi => 21 | .aerStatus => 22 | .aerMask => 23 | .aerSeverity => 24
  | .aerCorStatus => 25 | .aerCorMask => 26

/-- The value after a reset of the registers whose bits the host writes. -/
def cfgReset (key : Nat) : Word := if key = 14 then 0x2000 else if key = 24 then 0x00462030 else if key = 26 then 0x2000 else 0

/-- The stored bits of a register of the configuration space. -/
def State.cfgHeld (s : State) (r : CfgReg) : Word := Tab.get cfgReset s.pcie.cfg (cfgKey r)

/-- R360: the bits of a BAR that its size leaves to the host; none in a BAR2 that the boot header disables. -/
def barMask (bar2En : Bool) (k : Nat) : Word :=
  match k with
  | 0 => 0xFF000000
  | 1 => 0xFFFFFFFF
  | 2 => 0
  | 3 => if bar2En then 0xFFFFFFF0 else 0
  | 4 => 0xC0000000
  | _ => 0xFFFFFFFF

/-- R360: the fixed bits of a BAR: 64-bit memory, and prefetchable in BAR2. -/
def barType (bar2En : Bool) (k : Nat) : Word :=
  match k with
  | 0 => 0x4
  | 2 => if bar2En then 0xC else 0
  | 4 => 0x4
  | _ => 0

/-- The bits of a register that a configuration write stores: Memory Space Enable, Parity Error Response and SERR# Enable (Bus Master Enable
and the MSI-X bits have their own fields of State); neither ASPM, Relaxed Ordering nor No Snoop,
which R358 and R359 rule out. -/
def cfgMask (bar2En : Bool) : CfgReg → Word
  | .command => 0x142
  | .bar k => barMask bar2En k.val
  | .deviceControl => 0x71EF
  | .linkStatus => 0x00C8
  | .aerMask => 0x07FFF030
  | .aerSeverity => 0x07FFF030
  | .aerCorMask => 0xF1C1
  | _ => 0

/-- R358, R360: what a configuration read returns. -/
def State.cfgRead (s : State) (r : CfgReg) : Word :=
  let held := s.cfgHeld r
  match r with
  | .ids => BitVec.ofNat 32 (0x1FC6 + 2 ^ 16 * s.deviceId)
  | .command => held ||| BitVec.ofNat 32 (4 * ofBool s.pcie.busMaster + 2 ^ 20)
  | .classCode => BitVec.ofNat 32 (2 ^ 8 * 0x120000 + s.fuses.stepping % 2 ^ 8)
  | .header => 0
  | .bar k => (held &&& barMask s.pcie.bar2En k.val) ||| barType s.pcie.bar2En k.val
  | .subsystem => BitVec.ofNat 32 (s.pcie.ssvid + 2 ^ 16 * s.pcie.ssid)
  | .interrupt => 0
  | .pmControl => if s.pcie.d3 then 0xB else 0x8
  | .deviceCap => 0x10008022
  | .linkCap => 0x00400000 + 16 * 16 + 5
  | .linkStatus => held ||| BitVec.ofNat 32 (2 ^ 16 * s.get Reg.PE_LINK_SPEED + 2 ^ 20 * s.get Reg.PE_LINK_WIDTH)
  | .msixControl => BitVec.ofNat 32 (0x11 + 2 ^ 16 * 63 + 2 ^ 30 * ofBool s.pcie.fnMask + 2 ^ 31 * ofBool s.pcie.msixEnable)
  | .msixTable => 0x1D000
  | .msixPba => 0x1E000
  | .serialLo => s.fuses.serial.setWidth 32
  | .serialHi => (s.fuses.serial >>> 32).setWidth 32
  | _ => held

/-- R358: a Max_Payload_Size above 512 bytes and a Max_Read_Request_Size above 4,096 bytes are not stored. -/
def deviceControlOk (v : Word) : Bool := decide (bits v.toNat 7 5 ≤ 2) && decide (bits v.toNat 14 12 ≤ 5)

/-- The stored bits of a register after a configuration write; status bits clear where 1 is written. -/
def State.cfgStore (s : State) (r : CfgReg) (v : Word) : Word :=
  let old := s.cfgHeld r
  let m := cfgMask s.pcie.bar2En r
  match r with
  | .aerStatus => old &&& ~~~v
  | .aerCorStatus => old &&& ~~~v
  | .deviceControl =>
    let keep : Word := if deviceControlOk v then 0 else 0x70E0
    (old &&& (~~~m ||| keep)) ||| (v &&& m &&& ~~~keep)
  | _ => (old &&& ~~~m) ||| (v &&& m)

end Sys2Proof.Machine
end

