-- ==== Sys2Proof/Machine/Mailbox.lean ====
section
/-! DEFINITION. Mailboxes, commands and their checks (R369 to R384, R387 to R393), and the interrupts of the endpoint. -/
namespace Sys2Proof.Machine

/-! ### Rings (R370) -/

def State.cmdPI (s : State) (m : Nat) : Nat := s.get (Reg.MBX_DB_CMD_PI m)
def State.cmdCI (s : State) (m : Nat) : Nat := s.get (Reg.MBX_CMD_CI_INDEX m)
def State.rspPI (s : State) (m : Nat) : Nat := s.get (Reg.MBX_RSP_PI_INDEX m)
def State.rspCI (s : State) (m : Nat) : Nat := s.get (Reg.MBX_RSP_CI_RSP_CI m)

/-- A difference of indices, modulo 128. -/
def ringDist (a b : Nat) : Nat := (a + 128 - b % 128) % 128

/-- Response slots that no response occupies and no command has reserved (R371). -/
def State.freeSlots (s : State) (m : Nat) : Nat :=
  64 - ringDist (s.rspPI m) (s.rspCI m) - ((s.box m).taken.filter (fun c => !c.mute)).length

/-- R379: a breach sets its flag, raises vector 4 + m, and Groom m writes record 0x41. -/
def State.breach (s : State) (m : Nat) (f : Fld) : State :=
  let s1 := (s.set1 f).raise (4 + m)
  s1.groomRec m 0 0x41 (argOf (m + 256 * bits (s1.rd (Adr.MBX_STAT m)).toNat 7 4) 0)

def State.resetBusy (s : State) (m : Nat) : Bool := s.on (Reg.MBX_STAT_RESET_BUSY m)

/-- R378, R380: a doorbell. -/
def State.doorbell (m : Nat) (v : Word) (s : State) : State :=
  if s.resetBusy m then s
  else
    let d := ringDist (v.toNat % 128) (s.cmdCI m)
    if d ≤ 64 ∧ ringDist (s.cmdPI m) (s.cmdCI m) ≤ d then s.put (Reg.MBX_DB_CMD_PI m) v.toNat
    else s.breach m (Reg.MBX_STAT_DB_RANGE m)

def execDoorbell (m : Fin 4) (v : Word) (s : State) : Out := s.unlessHalted (State.doorbell m v)

/-- Command slot i belongs to the device (R370). -/
def State.slotTaken (s : State) (m i : Nat) : Bool :=
  let n := ringDist (s.cmdPI m) (s.cmdCI m)
  decide ((i + 64 - s.cmdCI m % 64) % 64 < n)

/-- R379: a write of one word of a command slot. -/
def State.slotWrite (m w : Nat) (v : Word) (s : State) : State :=
  if s.slotTaken m (w / 16) then s.breach m (Reg.MBX_STAT_SLOT_WR m)
  else
    let lo := 32 * (w % 16)
    s.onBox m (fun b =>
      let old := look b.cmd (w / 16)
      let keep := old.toNat - bits old.toNat (lo + 31) lo * 2 ^ lo
      { b with cmd := upd b.cmd (w / 16) (BitVec.ofNat 512 (keep + v.toNat * 2 ^ lo)) })

def execCommandSlotWrite (m : Fin 4) (w : Fin 1024) (v : Word) (s : State) : Out := s.unlessHalted (State.slotWrite m w v)

/-- R379: a write of RSP_CI. -/
def State.rspCiWrite (m : Nat) (v : Word) (s : State) : State :=
  if ringDist (v.toNat % 128) (s.rspCI m) ≤ ringDist (s.rspPI m) (s.rspCI m) then s.put (Reg.MBX_RSP_CI_RSP_CI m) v.toNat
  else s.breach m (Reg.MBX_STAT_CI_RANGE m)

def execRspCiWrite (m : Fin 4) (v : Word) (s : State) : Out := s.unlessHalted (State.rspCiWrite m v)

/-! ### Commands (R387, R395) -/

/-- A command: opcode, the LENs it may have, its argument fields (offset, bytes, range). -/
structure CmdDesc where
  op : Nat
  lens : List Nat
  args : List (Nat × Nat × (Nat → Bool))

/-- Any value. -/
def anyV (_ : Nat) : Bool := true
def upTo (n v : Nat) : Bool := decide (v ≤ n)
def within (a b v : Nat) : Bool := decide (a ≤ v ∧ v ≤ b)
def oneOf (l : List Nat) (v : Nat) : Bool := l.contains v
/-- A multiple of four (R388). -/
def quad (v : Nat) : Bool := v % 4 == 0
/-- A byte with its bits above `hi` and below `lo` only: bits [hi:lo] must be 0. -/
def zeroIn (hi lo v : Nat) : Bool := bits v hi lo == 0

/-- The fields of one token of TOKEN (R405). -/
def tokenArgs (k : Nat) : List (Nat × Nat × (Nat → Bool)) :=
  [(12 + 16 * k, 1, upTo 31), (13 + 16 * k, 1, upTo 7), (16 + 16 * k, 3, anyV), (20 + 16 * k, 8, anyV)]

/-- The commands of groups 0x01, 0x02 and 0x03, for a chip of `n` Teams. -/
def cmds1 : List CmdDesc :=
  [ ⟨0x0101, [0], []⟩
  , ⟨0x0102, [4], [(8, 2, anyV), (10, 1, fun v => v == 0 || within 16 63 v)]⟩
  , ⟨0x0103, [0], []⟩
  , ⟨0x0201, [32], [(8, 1, upTo 1), (9, 1, anyV), (10, 2, upTo 64), (16, 8, anyV), (24, 8, anyV), (32, 8, anyV)]⟩
  , ⟨0x0202, [0], []⟩
  , ⟨0x0203, [4], [(8, 1, upTo 1)]⟩
  , ⟨0x0204, [0], []⟩
  , ⟨0x0301, [16], [(8, 1, oneOf [1, 3, 4, 5]), (9, 1, anyV), (12, 4, upTo 60000), (16, 8, anyV)]⟩
  , ⟨0x0302, [0], []⟩
  , ⟨0x0303, [0], []⟩
  , ⟨0x0304, [4], [(8, 2, within 1 65535)]⟩
  , ⟨0x0305, [4], [(8, 1, upTo 1)]⟩
  , ⟨0x0306, [0], []⟩
  , ⟨0x0307, [16], [(8, 8, anyV), (16, 8, anyV)]⟩
  , ⟨0x0308, [12], [(8, 8, anyV), (16, 1, upTo 1)]⟩
  , ⟨0x0309, [20, 36, 52], (8, 1, within 1 3) :: (tokenArgs 0 ++ tokenArgs 1 ++ tokenArgs 2)⟩
  , ⟨0x030A, [24], [(8, 1, upTo 1), (12, 4, anyV), (16, 8, anyV), (24, 8, anyV)]⟩
  , ⟨0x030B, [24], [(8, 1, upTo 1), (12, 4, anyV), (16, 8, anyV), (24, 8, anyV)]⟩ ]

/-- The commands of groups 0x04 to 0x07. -/
def cmds2 : List CmdDesc :=
  [ ⟨0x0401, [16], [(8, 1, upTo 1), (9, 1, anyV), (10, 1, upTo 2), (11, 1, upTo 15), (12, 1, anyV), (13, 1, zeroIn 6 4),
      (14, 1, upTo 2), (15, 1, upTo 3), (16, 1, zeroIn 6 4)]⟩
  , ⟨0x0402, [4], [(8, 1, upTo 1), (9, 1, anyV)]⟩
  , ⟨0x0403, [4], [(8, 1, upTo 1), (9, 1, anyV)]⟩
  , ⟨0x0404, [4], [(8, 1, upTo 3), (9, 1, upTo 2)]⟩
  , ⟨0x0405, [12], [(8, 1, upTo 1), (9, 1, anyV), (10, 1, anyV), (11, 1, upTo 1), (12, 1, zeroIn 7 6), (16, 1, upTo 31)]⟩
  , ⟨0x0501, [0], []⟩
  , ⟨0x0502, [8], [(8, 1, oneOf [1, 2, 3, 4, 6]), (9, 1, oneOf [1, 2, 4, 8, 16]), (10, 1, fun v => v ≤ 15 || v == 255),
      (12, 4, within 1 (2 ^ 32))]⟩
  , ⟨0x0503, [4], [(8, 4, anyV)]⟩
  , ⟨0x0504, [24], [(8, 1, upTo 1), (12, 4, fun v => quad v && v != 0), (16, 8, anyV), (24, 8, quad)]⟩
  , ⟨0x0505, [4], [(8, 4, upTo 3600)]⟩
  , ⟨0x0601, [16], [(8, 4, anyV), (16, 8, quad)]⟩
  , ⟨0x0602, [4], [(8, 1, within 1 4)]⟩
  , ⟨0x0603, [0], []⟩
  , ⟨0x0701, [20], [(8, 1, upTo 3), (12, 8, anyV), (20, 4, anyV), (24, 4, anyV)]⟩
  , ⟨0x0702, [16], [(8, 1, upTo 1), (9, 1, upTo 1), (12, 4, anyV), (16, 4, anyV)]⟩
  , ⟨0x0703, [4], [(8, 1, upTo 7)]⟩
  , ⟨0x0704, [4], [(8, 1, upTo 1), (9, 1, anyV)]⟩
  , ⟨0x0705, [16], [(8, 2, within 60 2044), (10, 1, upTo 1), (11, 1, anyV), (16, 8, quad)]⟩
  , ⟨0x0706, [16], [(8, 4, upTo 1000), (12, 4, fun v => quad v && decide (2044 ≤ v)), (16, 8, quad)]⟩ ]

/-- The commands of groups 0x08 to 0x0A. -/
def cmds3 : List CmdDesc :=
  [ ⟨0x0801, [16], [(8, 1, upTo 127), (12, 4, within 1 (2 ^ 32)), (16, 8, quad)]⟩
  , ⟨0x0802, [4], [(8, 1, oneOf [0, 1, 255]), (9, 1, upTo 1)]⟩
  , ⟨0x0803, [4], [(8, 1, upTo 3), (9, 1, upTo 7), (10, 2, anyV)]⟩
  , ⟨0x0901, [16], [(8, 2, upTo 8191), (10, 2, within 1 8192), (16, 8, quad)]⟩
  , ⟨0x0902, [8], [(8, 6, anyV)]⟩
  , ⟨0x0903, [4], [(8, 1, upTo 6), (9, 1, anyV), (10, 1, anyV), (11, 1, upTo 1)]⟩
  , ⟨0x0904, [20], [(8, 1, upTo 7), (9, 1, zeroIn 6 4), (10, 2, anyV), (12, 3, anyV), (16, 3, anyV), (20, 4, anyV)]⟩
  , ⟨0x0905, [8], [(8, 1, upTo 2), (9, 1, upTo 15), (12, 4, anyV)]⟩
  , ⟨0x0906, [4], [(8, 2, anyV), (10, 1, upTo 1)]⟩
  , ⟨0x0907, [8], [(8, 2, anyV), (10, 1, oneOf [0, 2]), (11, 1, within 1 8), (12, 4, anyV)]⟩
  , ⟨0x0A01, [0], []⟩
  , ⟨0x0A02, [44], [(8, 1, upTo 15), (12, 40, anyV)]⟩
  , ⟨0x0A03, [4], [(8, 1, anyV), (10, 2, anyV)]⟩
  , ⟨0x0A04, [16], [(12, 4, fun v => v == 112), (16, 8, quad)]⟩ ]

/-- The command of an opcode. -/
def cmdOf (op : Nat) : Option CmdDesc := (cmds1 ++ cmds2 ++ cmds3).find? (fun c => c.op == op)

/-- R369: the mailbox of a group. -/
def mailboxOf (group : Nat) : Option Nat :=
  if group = 1 ∨ group = 9 ∨ group = 10 then some 0
  else if group = 4 ∨ group = 7 then some 1
  else if group = 5 ∨ group = 6 then some 2
  else if group = 2 ∨ group = 3 ∨ group = 8 then some 3
  else none

/-- The offset of the first argument byte from `i` on that no field names and that is not 0, or of the first field out of
its range (R387). -/
def argBad (args : List (Nat × Nat × (Nat → Bool))) (d : BitVec 512) (last : Nat) : Option Nat :=
  ((List.range last).drop 8).find? (fun i =>
    match args.find? (fun a => a.1 == i) with
    | some a => !a.2.2 (fieldOf d i a.2.1)
    | none => fieldOf d i 1 != 0 && !args.any (fun a => decide (a.1 ≤ i ∧ i < a.1 + a.2.1)))

/-- A link number within its CLASS. -/
def linkArgBad (d : BitVec 512) : Bool := decide ((if fieldOf d 8 1 = 0 then 15 else 3) < fieldOf d 9 1)

/-- Ranges that depend on other fields or on the grade: the offset of the first offending field. -/
def crossBad (op nTeams : Nat) (d : BitVec 512) : Option Nat :=
  let a := fieldOf d
  if op = 0x0201 then
    if a 8 1 = 0 then
      if a 16 8 % 4 ≠ 0 then some 16 else if a 24 8 % 4 ≠ 0 ∨ a 24 8 = 0 then some 24
      else if a 10 2 ≠ 0 ∧ a 32 8 % 4 ≠ 0 then some 32 else none
    else none
  else if op = 0x0307 then (if a 8 8 &&& a 16 8 ≠ 0 then some 8 else none)
  else if op = 0x030A ∨ op = 0x030B then
    if a 8 1 = 1 then (if a 16 8 % 4 ≠ 0 then some 16 else if a 24 8 % 4 ≠ 0 ∨ a 24 8 = 0 then some 24 else none) else none
  else if op = 0x0401 then
    if linkArgBad d then some 9 else if a 8 1 = 0 ∧ a 10 1 = 1 then some 10 else if a 8 1 = 0 ∧ a 14 1 ≠ 0 then some 14 else none
  else if op = 0x0402 ∨ op = 0x0403 ∨ op = 0x0704 then (if linkArgBad d then some 9 else none)
  else if op = 0x0405 then
    if linkArgBad d then some 9 else if (if a 8 1 = 0 then 8 else 3) < a 10 1 then some 10 else none
  else if op = 0x0502 then
    if a 8 1 = 1 ∧ a 9 1 = 1 then some 9 else if a 10 1 ≠ 255 ∧ a 10 1 % a 9 1 ≠ 0 then some 10
    else if a 12 4 % a 9 1 ≠ 0 ∨ (a 8 1 = 1 ∧ 128 < a 12 4) then some 12 else none
  else if op = 0x0803 then (if a 8 1 = 0 ∧ 3 < a 9 1 then some 9 else none)
  else if op = 0x0906 ∨ op = 0x0907 then (if nTeams ≤ a 8 2 then some 8 else none)
  else none

/-- BAD_DESCRIPTOR with its DETAIL bytes. -/
def badDesc (why at_ : Nat) : Resp := errResp 1 why at_ 0

/-- R375, R387, R405: the checks of a descriptor, in their order. -/
def State.descBad (s : State) (m : Nat) (d : BitVec 512) : Option Resp :=
  let op := fieldOf d 0 2
  let len := fieldOf d 4 2
  if 1 < fieldOf d 6 2 then some (badDesc 1 0)
  else if 56 < len ∨ len % 4 ≠ 0 then some (badDesc 2 0)
  else if (match cmdOf op with
      | some c => !c.lens.contains len || (op == 0x0309 && len != 4 + 16 * fieldOf d 8 1)
      | none => false) then some (badDesc 2 0)
  else if fieldOf d (8 + len) (56 - len) ≠ 0 then some (badDesc 3 0)
  else
    match mailboxOf (op / 256) with
    | some k =>
      if k ≠ m then some (errResp 2 k 0 0)
      else
        match cmdOf op with
        | none => some (badDesc 4 0)
        | some c =>
          match argBad c.args d (8 + len), crossBad op s.nTeams d with
          | some i, some j => some (badDesc 5 (min i j))
          | some i, none => some (badDesc 5 i)
          | none, some j => some (badDesc 5 j)
          | none, none => none
    | none => some (badDesc 4 0)

/-- R371: the Groom takes the next command: it reserves a response slot and advances CMD_CI; a malformed descriptor is
answered at once. -/
def State.take (m : Nat) (s : State) : State :=
  let b := s.box m
  if s.cmdPI m = s.cmdCI m ∨ !s.on (Reg.MBX_STAT_READY m) ∨ s.resetBusy m ∨ b.restarting ∨ s.freeSlots m = 0 ∨ s.chip.halted then s
  else
    let d := look b.cmd (s.cmdCI m % 64)
    let s1 := s.put (Reg.MBX_CMD_CI_INDEX m) ((s.cmdCI m + 1) % 128)
    let c : Taken := ⟨d, false, false, 0, false, false⟩
    match s.descBad m d with
    | some r => s1.respond m c false r
    | none => s1.onBox m (fun b => { b with taken := b.taken ++ [c] })

def execCommandTake (m : Fin 4) (s : State) : Out := .next (s.take m)

/-! ### Starting a command (R372, R389 to R393) -/

/-- The opcodes that need a verified image (R389). -/
def needsImage : List Nat := [0x0202, 0x0301, 0x0307, 0x0308, 0x0309, 0x030B]

/-- A link is DOWN. -/
def State.linkDownArg (s : State) (d : BitVec 512) : Bool :=
  let n := fieldOf d 8 1 * 16 + fieldOf d 9 1
  s.get ⟨if n < 16 then Adr.LD_LINK_STAT n else Adr.EL_LINK_STAT (n - 16), 2, 0⟩ == 0

/-- R395: the mode accepts the command.  The need for an image comes after it (R389). -/
def State.modeOk (s : State) (op : Nat) (d : BitVec 512) : Bool :=
  let md := s.mode
  let lead := fieldOf d 8 1 == 0
  if op = 0x0201 then md == mIdle || md == mLoad || s.atRest || md == mQuarantine
  else if op = 0x0203 then md == mIdle
  else if op = 0x0204 then md == mLoad || s.atRest
  else if op = 0x0301 then md == mLoad || (md == mSnapshot && s.chip.restored) || s.atRest
  else if op = 0x0302 then md == mWalk || md == mRun || md == mCheck
  else if op = 0x0303 then s.strideMode
  else if op = 0x0304 ∨ op = 0x0305 then s.atRest
  else if op = 0x0306 then (md == mStep || md == mCheck) && (s.chip.haltBkp || s.chip.haltChk)
  else if op = 0x0307 ∨ op = 0x0308 ∨ op = 0x0309 then md == mLoad || s.strideMode || md == mSnapshot
  else if op = 0x030A then s.atRest
  else if op = 0x030B then md == mLoad || s.atRest
  else if op = 0x0401 then (if lead then md == mIdle || md == mLoad else md != mQuarantine)
  else if op = 0x0402 then (if lead then md == mIdle || md == mLoad || md == mQuarantine else true)
  else if op = 0x0404 then md != mQuarantine
  else if op = 0x0405 then s.linkDownArg d
  else if op = 0x0602 then !(fieldOf d 8 1 == 1 && s.on Reg.CHIP_MODE_SVC)
  else if op = 0x0801 ∨ op = 0x0803 then s.on Reg.HT_CTL_HITCH_GO
  else if op = 0x0904 then bit (fieldOf d 9 1) 7 || md == mIdle || md == mLoad || md == mSnapshot || md == mQuarantine
  else if op = 0x0906 then md == mIdle || md == mLoad
  else if op = 0x0A02 ∨ op = 0x0A03 ∨ op = 0x0A04 then md == mIdle
  else true

/-- R390, R508: the lifecycle state accepts the command. -/
def State.lifeOk (s : State) (op : Nat) : Bool :=
  let lc := s.fuses.lifecycle
  let g := op / 256
  if op = 0x0A02 ∨ op = 0x0A04 then lc == 1 || lc == 2
  else if op = 0x0A03 then decide (lc ≤ 1)
  else if lc = 0 ∨ lc = 3 then g == 1 || g == 9 || g == 10
  else true

/-- R389: lifecycle, mode and image; then, for a long command, RESOURCE_BUSY kind 7 while another is in progress (R393). -/
def State.pre (s : State) (op : Nat) (d : BitVec 512) : Option Resp :=
  if !s.lifeOk op then some (errResp 0x11 s.fuses.lifecycle 0 0)
  else if !s.modeOk op d then some (errResp 0x10 s.mode 0 0)
  else if needsImage.contains op && s.chip.image.isNone then some (errResp 0x12 0 0 0)
  else if longOps.contains op && s.longAt.isSome then some (errResp 0x13 7 0 0)
  else none

/-- R372: the place of the first command of mailbox m not yet started, when it is `op` and may start. -/
def State.startable (s : State) (m op : Nat) : Option (Nat × Taken) :=
  let l := (s.box m).taken
  match l.findIdx? (fun c => !c.started) with
  | none => none
  | some i =>
    match l[i]? with
    | none => none
    | some c =>
      let ordered (c : Taken) : Bool := bit (fieldOf c.desc 6 2) 0
      if fieldOf c.desc 0 2 = op ∧ !(ordered c && 0 < i) ∧ !(l.take i).any ordered ∧ !(s.box m).restarting ∧ !s.chip.halted
      then some (i, c) else none

/-- A command that is done when its row takes place: `f` answers what it does and its response. -/
def State.cmd (m op : Nat) (f : BitVec 512 → State → State × Resp) (s : State) : State :=
  match s.startable m op with
  | none => s
  | some (i, c) =>
    let s1 := s.onBox m (fun b => { b with taken := b.taken.eraseIdx i })
    match s.pre op c.desc with
    | some r => s1.respond m c false r
    | none =>
      let (s2, r) := f c.desc s1
      s2.respond m c false r

/-- The first started command `op` of mailbox m that `poll` completes: it responds. -/
def State.pollStarted (m op : Nat) (poll : Taken → State → Option (State × Resp)) (s : State) : Option State :=
  let l := (s.box m).taken
  match (List.range l.length).findSome? (fun i =>
      match l[i]? with
      | some c => if c.started && fieldOf c.desc 0 2 == op then (poll c s).map (fun p => (i, p)) else none
      | none => none) with
  | some (i, s1, r) => some (s1.finishAt m i r)
  | none => none

/-- A command that goes on after it has started: `start` answers its response when it is done at once, and a note otherwise;
`poll` answers the response of a started command once it is due. -/
def State.cmdLong (m op : Nat) (start : BitVec 512 → State → State × Nat × Option Resp)
    (poll : Taken → State → Option (State × Resp)) (s : State) : State :=
  match s.startable m op with
  | some (i, c) =>
    match s.pre op c.desc with
    | some r => s.finishAt m i r
    | none =>
      let mark (note : Nat) (s : State) : State :=
        s.onBox m (fun b => { b with taken := b.taken.set i { c with started := true, note := note } })
      let (s2, note, r) := start c.desc (mark 0 s)
      match r with
      | some r => s2.finishAt m i r
      | none => mark note s2
  | none => (s.pollStarted m op poll).getD s

/-! ### Events (R377, R418) -/

/-- R377, R418: the oldest event of mailbox m is posted once a slot is free. -/
def State.eventPost (m : Nat) (s : State) : State :=
  let b := s.box m
  match b.events with
  | [] => s
  | e :: rest =>
    if s.freeSlots m = 0 ∨ s.resetBusy m ∨ b.restarting ∨ s.chip.halted then s
    else
      let d := respDesc (0x8000 + e.code) 0 (1 + 2 * ofBool b.evtLost) ⟨0, 0, e.len, e.result⟩
      let s1 := (s.onBox m (fun b => { b with events := rest, evtLost := false })).postSlot m d
      let v := look (s.box 0).vectors e.code
      if v = 0 then s1 else s1.raise v

def execEventPost (m : Fin 4) (s : State) : Out := .next (s.eventPost m)

/-! ### Interrupt enables, MSI-X and resets of the transport -/

/-- R384: EN bits that go from 0 to 1 while their cause is set send their messages. -/
def State.intEn (hi : Bool) (v : Word) (s : State) : State :=
  let a := if hi then Adr.PE_INT_EN_HI else Adr.PE_INT_EN_LO
  let old := s.rd a
  let s1 := s.wr a v
  s1.each 32 (fun j s =>
    let k := if hi then 32 + j else j
    if v.getLsbD j && !old.getLsbD j && s.on (causeFld k) then s.sendMsg k else s)

def execPeIntEnWrite (hi : Bool) (v : Word) (s : State) : Out := s.unlessHalted (State.intEn hi v)

/-- The pending message of vector v leaves when nothing masks it any more. -/
def State.sendPending (s : State) (v : Nat) : State :=
  if s.pcie.pba.getLsbD v && !s.masked v && s.pcie.msixEnable && s.mayMaster && !s.chip.halted then
    ({ s with pcie := { s.pcie with pba := s.pcie.pba &&& ~~~(BitVec.ofNat 64 (2 ^ v)) } } : State).emitMsg v
  else s

/-- R384: the host unmasks a vector. -/
def State.unmask (v : Nat) (s : State) : State :=
  let off := 16 * v + 12
  ({ s with pcie := { s.pcie with
      msix := Tab.set msixReset s.pcie.msix off (setBits (s.msixWord off) 0 0 0) } } : State).sendPending v

def execMsixVectorUnmask (v : Fin 64) (s : State) : Out := s.unlessHalted (State.unmask v)

/-- R380: a mailbox reset begins: responses of commands already taken are discarded. -/
def State.boxReset (m : Nat) (s : State) : State :=
  (s.set1 (Reg.MBX_STAT_RESET_BUSY m)).onBox m (fun b => { b with taken := b.taken.map (fun c => { c with mute := true }) })

def execMailboxReset (m : Fin 4) (s : State) : Out := s.unlessHalted (State.boxReset m)

/-- R380: the indices return to 0, RESET_BUSY clears and the error vector is raised; a restarting Groom does it after its
restart. -/
def State.boxResetDone (m : Nat) (s : State) : State :=
  if s.resetBusy m && !(s.box m).restarting then
    (((((s.put (Reg.MBX_DB_CMD_PI m) 0).put (Reg.MBX_CMD_CI_INDEX m) 0).put (Reg.MBX_RSP_PI_INDEX m) 0).put
      (Reg.MBX_RSP_CI_RSP_CI m) 0).clr (Reg.MBX_STAT_RESET_BUSY m)).raise (4 + m)
  else s

def execMailboxResetDone (m : Fin 4) (s : State) : Out := .next (s.boxResetDone m)

/-- R382: the host-memory transfers of mailbox m's started commands are abandoned. -/
def State.cutHost (s : State) (m : Nat) : State :=
  s.onBox m (fun b => { b with taken := b.taken.map (fun c => { c with cut := c.cut || c.started }) })

/-- R382: what an FLR, a hot reset, a link-down or PE_PERST_N resets: configuration space, MSI-X, PE registers, mailboxes. -/
def State.endpointReset (s : State) (down : Bool) : State :=
  let s1 := s.dropRegs (fun a => !(decide (0x1C000 ≤ a ∧ a < 0x1C040)))
  let s2 : State := { s1 with pcie := { s1.pcie with
    busMaster := false, msixEnable := false, fnMask := false, msix := [], pba := 0, d3 := false, cfg := []
    linkUp := s1.pcie.linkUp && !down, txs := s1.pcie.txs.filter (·.copy) } }
  s2.each 4 (fun m s => (s.boxReset m).cutHost m)

def execFunctionLevelReset (down : Bool) (s : State) : Out := .next (s.endpointReset down)

/-- R534: PE_PERST_N low is a fundamental reset of the endpoint, which acts as R382 gives. -/
def execPePerst (s : State) : Out := .next (s.endpointReset true)

/-- R358, R359, R384: a configuration write: it stores what the register lets it, and pending messages that nothing masks any more leave.
The power state takes D0 and D3hot only. -/
def State.cfgPut (s : State) (r : CfgReg) (v : Word) : State :=
  let p := { s.pcie with cfg := Tab.set cfgReset s.pcie.cfg (cfgKey r) (s.cfgStore r v) }
  { s with pcie :=
    match r with
    | .command => { p with busMaster := v.getLsbD 2 }
    | .msixControl => { p with msixEnable := v.getLsbD 31, fnMask := v.getLsbD 30 }
    | .pmControl => { p with d3 := if bits v.toNat 1 0 = 3 then true else if bits v.toNat 1 0 = 0 then false else p.d3 }
    | _ => p }

/-- R358, R382, R426: a configuration write.  While configuration requests get Retry Status it has no effect; Initiate Function Level Reset
resets. -/
def State.configWrite (r : CfgReg) (v : Word) (s : State) : State :=
  if s.pcie.retry then s
  else
    let s1 := (s.cfgPut r v).each 64 (fun v s => s.sendPending v)
    if r = .deviceControl ∧ v.getLsbD 15 then s1.endpointReset false else s1

def execConfigurationWrite (reg : CfgReg) (v : Word) (s : State) : Out := .next (s.configWrite reg v)

/-- R386: PE_LINK shows the negotiated width and speed. -/
def State.pcieUp (width speed : Nat) (s : State) : State :=
  (({ s with pcie := { s.pcie with linkUp := true } } : State).put Reg.PE_LINK_WIDTH width).put Reg.PE_LINK_SPEED speed

def execPcieLinkUp (width : Fin 17) (speed : Fin 6) (s : State) : Out := .next (s.pcieUp width speed)

/-! ### Host memory (R359) -/

/-- R359, R375: why a transfer with host memory fails: HOST_DMA_ERROR with the completion status. -/
def State.dmaBad (s : State) (d : HostDma) : Option Resp :=
  if !s.mayMaster then some (errResp 5 0 0 0)
  else if d.status ≠ 0 then some (errResp 5 d.status 0 0)
  else none

/-- R382: the response of a command whose transfers a reset of the endpoint has abandoned. -/
def dmaCut : Resp := errResp 5 0 0 0

/-- Bytes written to host memory. -/
def State.toHost (s : State) (a : Nat) (bs : List Byte) : State :=
  { s with pcie := { s.pcie with wrote := (BitVec.ofNat 64 a, bs) :: s.pcie.wrote } }

end Sys2Proof.Machine
end

