-- ==== Sys2Proof/Machine/Power.lean ====
section
/-! DEFINITION. Reference clocks, stopped clocks and one-sided resets of crossings, Team power and temperature (chapter
17). -/
namespace Sys2Proof.Machine

/-! ### Reference clocks (R440) -/

/-- The place of an input in CHIP_CLK_STAT and CHIP_CLK_ERR. -/
def refBit : RefClk → Nat
  | .sys => 1
  | .lref => 2
  | .pe => 3
  | .tp => 4
  | .eref n => 5 + n

def refOk (c : RefClk) : Fld := ⟨Adr.CHIP_CLK_STAT, refBit c, refBit c⟩
def refLost (c : RefClk) : Fld := ⟨Adr.CHIP_CLK_ERR, refBit c, refBit c⟩

/-- Every lane of a link that is in service faults, one that trains sweeps again (R222). -/
def State.faultLanes (s : State) (n : Nat) : State := (linkLanes n).foldl (fun s l => s.lostService l 18 1) s

/-- CHIP_CLK_ERR bits [8:0]. -/
def State.clkErr (s : State) : Nat := bits (s.rd Adr.CHIP_CLK_ERR).toNat 8 0

/-- R440: what follows the loss of an input. -/
def State.refOutcome (s : State) (c : RefClk) : State :=
  match c with
  | .sys => (s.clr Reg.CHIP_CLK_STAT_SYS_LOCK).halt 1 0
  | .lref =>
    let s1 := ((s.set1 Reg.CHIP_CLK_STAT_HOLDOVER).clr Reg.CHIP_CLK_STAT_STEP_LOCK).enterQuarantine qRefLoss s.clkErr
    s1.each 16 (fun n s => s.faultLanes n)
  | .eref n => s.faultLanes (16 + n)
  | .pe => s.endpointReset true
  | .tp => (s.clr Reg.TP_STAT_LINK_UP).clr Reg.TP_STAT_BLOCK_LOCK

/-- R440: an input that is marked present is lost: its bit, the record, the alert and the outcome. -/
def State.refLoss (c : RefClk) (s : State) : State :=
  if s.on (refOk c) then
    let s1 := ((s.clr (refOk c)).set1 (refLost c)).alert 6
    let sev := if c = .sys ∨ c = .lref then 6 else 3
    (s1.hwRec sev 0x43 (argOf s1.clkErr 0)).refOutcome c
  else s

def execReferenceLoss (c : RefClk) (s : State) : Out := .next (s.refLoss c)

/-- R440: an input is marked present; the system PLL locks on SYS_REFCLK, and the step PLL leaves holdover. -/
def State.refReturn (c : RefClk) (s : State) : State :=
  let s1 := s.set1 (refOk c)
  match c with
  | .sys => s1.set1 Reg.CHIP_CLK_STAT_SYS_LOCK
  | .lref => s1.clr Reg.CHIP_CLK_STAT_HOLDOVER
  | _ => s1

def execReferenceReturn (c : RefClk) (s : State) : Out := .next (s.refReturn c)

/-- R440: the step PLL locks on LREF. -/
def execStepPllLock (s : State) : Out :=
  .next (if s.on Reg.CHIP_CLK_STAT_LREF_OK then s.set1 Reg.CHIP_CLK_STAT_STEP_LOCK else s)

/-! ### Stopped clocks and resets of one side (R448 to R451) -/

/-- The Team that a Team-facing crossing belongs to. -/
def crossingTeam (cls idx : Nat) : Option Nat := if cls = 0 then some (idx / 4) else if cls = 1 ∨ cls = 2 then some idx else none

/-- R448: the crossing's monitor runs: it is off toward a Team whose router has ISOLATE = 1. -/
def State.monitored (s : State) (cls idx : Nat) (dead : ClockDomain) : Bool :=
  (match crossingTeam cls idx with
    | some t => decide (t < s.nTeams) && !s.on (Reg.RTR_CTL_ISOLATE t)
    | none => true) &&
  (match dead with
    | .team t => decide (t.val < s.nTeams) && !s.on (Reg.RTR_CTL_ISOLATE t)
    | _ => true)

/-- What is in flight in a crossing is discarded (R448, R450). -/
def State.discard (s : State) (cls idx : Nat) : State :=
  if cls = 0 then
    let t := idx / 4
    let p := idx % 4
    s.onRouter t (fun r => { r with wire := upd r.wire p [], await := upd r.await p false, fails := upd r.fails p 0
                                    rxSeq := upd r.rxSeq p (look (s.router (s.nb t p)).txSeq (facing p)) })
  else if cls = 1 then s.onTeam idx (fun m => { m with carryIn := [] })
  else if cls = 2 then s.onTeam idx (fun m => { m with ring := [] })
  else if cls = 3 then s.onChan idx (fun v => { v with rsp := [] })
  else if cls = 4 then s.onLink idx (fun k => { k with txStatic := [] })
  else s

/-- CINFO of ISLAND_STOP: the crossing that CHIP_CDC_LOC records (R470). -/
def State.cdcInfo (s : State) : Nat := s.get Reg.CHIP_CDC_LOC_INDEX + 2 ^ 16 * s.get Reg.CHIP_CDC_LOC_CLASS

/-- R152: the neighbours isolate a dead site, with the record and the event. -/
def State.isolateDead (s : State) (t : Nat) : State :=
  (((s.set1 (Reg.RTR_CTL_ISOLATE t)).set1 (Reg.RTR_STAT_DEAD t)).groomRec 3 3 0x18 (argOf t 0)).postEvent 3
    ⟨0x0009, 3, packBytes [(16, 2, t), (18, 1, 0)]⟩

/-- R449: what follows a stopped clock. -/
def State.stopOutcome (s : State) (dead : ClockDomain) : State :=
  match dead with
  | .team t => (s.isolateDead t).enterQuarantine qIslandStop s.cdcInfo
  | .scheduler => s.enterQuarantine qIslandStop s.cdcInfo
  | .gddr c => s.chanFail c
  | .link n => s.faultLanes n
  | .pcie => s.endpointReset true
  | .groom | .other => s

/-- R443, R521: the place of a stopped clock in the list of stopped blocks. -/
def stoppedCode : ClockDomain → Option Nat
  | .team t => some t.val
  | .scheduler => some 1024
  | .gddr c => some (1025 + c.val)
  | .groom | .pcie | .link _ | .other => none

/-- R443: a clock that has stopped stays so until the next reset. -/
def State.clockStops (s : State) (dead : ClockDomain) : State :=
  match stoppedCode dead with
  | some k => if s.chip.stopped.contains k then s else { s with chip := { s.chip with stopped := s.chip.stopped ++ [k] } }
  | none => s

/-- R448, R449, R452: the heartbeat timeout of a crossing. -/
def State.heartbeat (cls idx : Nat) (dead : ClockDomain) (late : Bool) (s : State) : State :=
  if !s.monitored cls idx dead then s
  else if late then (s.set1 Reg.CHIP_CDC_STAT_LATE).cdcLoc 2 cls idx 2
  else
    let fatal := match dead with
      | .team _ | .scheduler => true
      | _ => false
    ((((s.set1 Reg.CHIP_CDC_STAT_STOPPED).cdcLoc 0 cls idx (if fatal then 6 else 2)).discard cls idx).clockStops dead).stopOutcome
      dead

def execHeartbeatTimeout (cls : Fin 10) (idx : BitVec 16) (dead : ClockDomain) (late : Bool) (s : State) : Out :=
  .next (s.heartbeat cls idx.toNat dead late)

/-- R450: one side of a crossing is reset: both sides force it idle, and it waits to re-arm. -/
def State.peerReset (cls idx : Nat) (s : State) : State :=
  let s1 := ((s.set1 Reg.CHIP_CDC_STAT_PEER_RESET).sat Reg.CHIP_CDC_STAT_PEER_RESETS 1).discard cls idx
  let s2 := s1.groomRec 0 2 0x42 (argOf (s1.get Reg.CHIP_CDC_LOC_KIND + 256 * cls) idx)
  let k := 2 ^ 16 * cls + idx
  if s2.chip.disarmed.contains k then s2 else { s2 with chip := { s2.chip with disarmed := s2.chip.disarmed ++ [k] } }

def execOneSidedReset (cls : Fin 10) (idx : BitVec 16) (s : State) : Out := .next (s.peerReset cls idx.toNat)

/-- R451: the crossing resumes. -/
def State.crossRearm (cls idx : Nat) (s : State) : State :=
  { s with chip := { s.chip with disarmed := s.chip.disarmed.erase (2 ^ 16 * cls + idx) } }

def execCrossingRearm (cls : Fin 10) (idx : BitVec 16) (s : State) : Out := .next (s.crossRearm cls.val idx.toNat)

/-! ### Team power (R454 to R456) -/

/-- R454, R455: EN of TEAM_PWR closes or opens the switch. -/
def State.teamEn (s : State) (t : Nat) (en : Bool) : State :=
  let was := s.on (Reg.TEAM_PWR_EN t)
  if en = was then s
  else if !en && !s.on (Reg.RTR_CTL_ISOLATE t) then s.set1 (Reg.TEAM_PWR_PWR_REFUSED t)
  else ((s.put (Reg.TEAM_PWR_EN t) (ofBool en)).put (Reg.TEAM_PWR_STATE t) 2).onTeam t (fun m => { m with switching := true })

/-- R454: a write of TEAM_PWR; bit 3 written 1 clears PWR_REFUSED first. -/
def State.teamPwr (t : Nat) (v : Word) (s : State) : State :=
  (if v.getLsbD 3 then s.clr (Reg.TEAM_PWR_PWR_REFUSED t) else s).teamEn t (v.getLsbD 0)

def execTeamPwrWrite (t : Fin 1024) (v : Word) (s : State) : Out := onMapped t s (State.teamPwr t v)

/-- The registers of the Team logic at their reset values: offsets 0x0C0 to 0x18F of its window (R516). -/
def State.resetTeamRegs (s : State) (t : Nat) : State :=
  s.dropRegs (fun a => !decide (0x4000C0 + 0x400 * t ≤ a ∧ a < 0x400190 + 0x400 * t))

/-- Requests that wait for the design memory of a Team that powers off are answered TARGET_OFF (R150). -/
def State.dropDma (s : State) (t : Nat) : State :=
  (s.team t).dma.foldl (fun s r => match r.src with
    | .packet p => s.routerAnswer t p 1
    | .host => let s1 := s.peErr 3 1 t; { s1 with rdata := s1.rdata ++ [0#32] }
    | _ => s) s

/-- R456: a Team that has powered on holds undefined contents. -/
def State.freshTeam (s : State) (t : Nat) : State :=
  (s.resetTeamRegs t).spend.setTeam t { Team.reset with gen := s.free + 1 }

/-- R455, R456: the switch reaches ON or OFF. -/
def State.switchDone (t : Nat) (s : State) : State :=
  if (s.team t).switching then
    if s.on (Reg.TEAM_PWR_EN t) then (s.freshTeam t).put (Reg.TEAM_PWR_STATE t) 1
    else (((s.dropDma t).resetTeamRegs t).setTeam t Team.reset).put (Reg.TEAM_PWR_STATE t) 0
  else s

def execTeamSwitchDone (t : Fin 1024) (s : State) : Out := onMapped t s (State.switchDone t)

/-! ### Temperature (R457 to R460) -/

/-- The highest signed value of a sample and the lowest sensor that gave it. -/
def hottest (temps : List (BitVec 8)) : Option (BitVec 8 × Nat) :=
  (temps.take 20).zipIdx.foldl (fun best p =>
    match best with
    | none => some p
    | some b => if b.1.toInt < p.1.toInt then some p else best) none

/-- The threshold of a duty code above 0. -/
def State.dutyThr (s : State) (code : Nat) : Nat :=
  s.get (if code = 1 then Reg.CHIP_THERM_CTL_THR75 else if code = 2 then Reg.CHIP_THERM_CTL_THR50 else Reg.CHIP_THERM_CTL_THR25)

/-- The duty code that a temperature asks for (R458). -/
def State.dutyFor (s : State) (t : Int) : Nat :=
  if (s.dutyThr 3 : Int) ≤ t then 3 else if (s.dutyThr 2 : Int) ≤ t then 2 else if (s.dutyThr 1 : Int) ≤ t then 1 else 0

/-- R458: the duty falls at once; it rises by one step after 10 ms, 200 sample intervals, at least 3 degrees below the
threshold of the duty in force. -/
def State.throttle (s : State) (t : Int) : State :=
  let cur := s.get Reg.CHIP_THERM_DUTY
  let setCool (c : Option Nat) (s : State) : State := { s with chip := { s.chip with cool := c } }
  if cur < s.dutyFor t then setCool none (s.put Reg.CHIP_THERM_DUTY (s.dutyFor t))
  else if 0 < cur ∧ t ≤ (s.dutyThr cur : Int) - 3 then
    match s.chip.cool with
    | none => setCool (some 0) s
    | some k => if k + 1 < 200 then setCool (some (k + 1)) s else setCool none (s.put Reg.CHIP_THERM_DUTY (cur - 1))
  else setCool none s

/-- Duty in percent. -/
def State.dutyPct (s : State) : Nat := 100 - 25 * s.get Reg.CHIP_THERM_DUTY

/-- R459: THERM_N by its comparators. -/
def State.thermPin (s : State) (t : Int) : State :=
  let hi : Int := s.get Reg.CHIP_THERM_CTL_THERM_HI
  if hi ≤ t then s.set1 Reg.CHIP_THERM_THERM else if t < hi - 5 then s.clr Reg.CHIP_THERM_THERM else s

/-- R458, R459, R473, R476: what a change of duty or of THERM_N tells. -/
def State.thermTell (s old : State) (tj : BitVec 8) (sensor : Nat) : State :=
  let dutyNew := s.get Reg.CHIP_THERM_DUTY != old.get Reg.CHIP_THERM_DUTY
  let pinNew := s.get Reg.CHIP_THERM_THERM != old.get Reg.CHIP_THERM_THERM
  let s1 := if dutyNew || (pinNew && s.on Reg.CHIP_THERM_THERM) then s.alert 3 else s
  let s2 := if dutyNew then s1.postEvent 0 ⟨0x0031, 2, packBytes [(16, 1, s.dutyPct), (17, 1, tj.toNat)]⟩ else s1
  if dutyNew || pinNew then
    s2.groomRec 0 0 0x50 (argOf (s.dutyPct + 256 * tj.toNat) (sensor + 256 * s.get Reg.CHIP_THERM_THERM))
  else s2

/-- R460: two samples in a row at 115 degrees or more trip. -/
def State.trip (s : State) (tj : BitVec 8) (sensor : Nat) : State :=
  let hot := if 115 ≤ tj.toInt then min 3 (s.chip.hot + 1) else 0
  let s1 : State := { s with chip := { s.chip with hot := hot } }
  if hot = 2 then (s1.set1 Reg.CHIP_THERM_TRIP).enterQuarantine qThermalTrip (tj.toNat + 256 * sensor) else s1

/-- R457 to R460: a sample of the sensors. -/
def State.thermal (temps : List (BitVec 8)) (s : State) : State :=
  match hottest temps with
  | none => s
  | some (tj, k) =>
    let s1 := (s.put Reg.CHIP_THERM_TJ_MAX tj.toNat).put Reg.CHIP_THERM_SENSOR k
    let s2 : State := { s1 with chip := { s1.chip with aonNew := s1.chip.aonNew - 1 } }
    ((((s2.throttle tj.toInt).thermPin tj.toInt).thermTell s tj k)).trip tj k

def execThermalSample (temps : List (BitVec 8)) (s : State) : Out := .next (s.thermal temps)

/-- R459: THERM_N is driven low: not while VDD_AON is down nor in the first 100 us after it rises. -/
def State.thermLow (s : State) : Bool := s.on Reg.CHIP_THERM_THERM && s.chip.vddAon && s.chip.aonNew == 0

end Sys2Proof.Machine
end

