-- ==== Sys2Proof/Machine/RegWrite.lean ====
section
/-! DEFINITION. What a write does to the stored fields of a register by their access codes (R7 to R11). -/
namespace Sys2Proof.Machine

/-- The LOCK bit of the block of a register (R10): the DS block, a gateway, the thermal thresholds, a watchdog. -/
def lockOf (a : Nat) : Option Fld :=
  if 0x50000 ≤ a ∧ a < 0x60000 then some Reg.DS_CTL_LOCK
  else if 0xE0000 ≤ a ∧ a < 0xF0000 then some (Reg.GW_CTL_LOCK ((a - 0xE0000) / 0x1000))
  else if a = Adr.CHIP_THERM_CTL then some Reg.CHIP_THERM_CTL_LOCK
  else if 0x180100 ≤ a ∧ a < 0x180140 then some (Reg.GRM_WDT_CTL_LOCK ((a - 0x180100) / 16))
  else none

/-- The LOCK bit of a register's block is 1. -/
def State.locked (s : State) (a : Nat) : Bool :=
  match lockOf a with
  | some f => s.on f
  | none => false

/-- R7: one field of a register after a write of `v`. -/
def writeField (lock : Bool) (v : Nat) (w : Word) (f : RegField) : Word :=
  let old := bits w.toNat f.hi f.lo
  let new := bits v f.hi f.lo
  match f.acc with
  | .rw => setBits w f.hi f.lo new
  | .rwl => if lock then w else setBits w f.hi f.lo new
  | .w1c => setBits w f.hi f.lo (old - (old &&& new))
  | .w1s => setBits w f.hi f.lo (old ||| new)
  | .ro | .wo | .rc => w

/-- R7, R11: a register after a write of `v`. -/
def State.writeFields (s : State) (a v : Nat) : State :=
  match findReg a with
  | some d => s.wr a (d.fields.foldl (writeField (s.locked a) v) (s.rd a))
  | none => s

/-- R7: one field of a register after a read: an RC field clears. -/
def readField (w : Word) (f : RegField) : Word := if f.acc = .rc then setBits w f.hi f.lo 0 else w

/-- R7: a read clears the RC fields of a register. -/
def State.readClear (s : State) (a : Nat) : State :=
  match findReg a with
  | some d => if d.fields.any (fun f => f.acc == .rc) then s.wr a (d.fields.foldl readField (s.rd a)) else s
  | none => s

/-- R7: what a read shows of a register's stored word: WO fields read 0. -/
def State.readable (s : State) (a : Nat) : Word :=
  match findReg a with
  | some d => d.fields.foldl (fun w f => if f.acc = .wo then setBits w f.hi f.lo 0 else w) (s.rd a)
  | none => 0

end Sys2Proof.Machine
end

