-- ==== Sys2Proof/Machine/Region.lean ====
section
/-! DEFINITION. GDDR6 regions (R272 to R275), host access to GDDR6 (R364), and the memory and capture commands (R411 to
R413). -/
namespace Sys2Proof.Machine

/-! ### The allocation table (R273) -/

/-- Bytes of an allocation unit. -/
abbrev unitBytes : Nat := 2 ^ 26

/-- Channel c may take part in an allocation: READY or PAUSED. -/
def State.chanServes (s : State) (c : Nat) : Bool := s.chanState c == gReady || s.chanState c == gPaused

/-- The channels of a region. -/
def regionChans (n c0 : Nat) : List Nat := (List.range n).map (fun i => c0 + i)

/-- A region of `units` units at unit `b` of the channels from c0 overlaps a region of the table. -/
def State.overlaps (s : State) (n c0 b units : Nat) : Bool :=
  s.chip.regions.any (fun r => decide (c0 < r.c0 + r.n ∧ r.c0 < c0 + n ∧ b < r.base + r.units ∧ r.base < b + units))

/-- The first window of gateway c that is not in use. -/
def State.freeWin (s : State) (c : Nat) : Option Nat := (List.range 16).find? (fun k => !s.on (Reg.GW_WIN_VALID c k))

/-- The lowest unit at which a region of `units` units fits in the channels from c0. -/
def State.fitAt (s : State) (n c0 units : Nat) : Option Nat :=
  let cs := regionChans n c0
  if cs.all (fun c => s.chanServes c && (s.freeWin c).isSome) then
    (List.range 64).find? (fun b => cs.all (fun c => decide ((b + units) * unitBytes ≤ s.capacity c)) && !s.overlaps n c0 b units)
  else none

/-- The first channel and the unit of an allocation; c0 = 255 is any. -/
def State.place (s : State) (n c0 units : Nat) : Option (Nat × Nat) :=
  let starts := if c0 = 255 then (List.range (16 / n)).map (fun i => n * i) else [c0]
  starts.findSome? (fun c => (s.fitAt n c units).map (fun b => (c, b)))

/-- The least positive number that names no region. -/
def State.newHandle (s : State) : Nat :=
  ((List.range (s.chip.regions.length + 1)).find? (fun h => s.chip.regions.all (fun r => r.handle != h + 1))).getD 0 + 1

/-- R275: the window of a region in gateway c. -/
def State.openWin (s : State) (kind b units c : Nat) : State :=
  match s.freeWin c with
  | some k =>
    ((((s.put (Reg.GW_WIN_BASE c k) b).put (Reg.GW_WIN_SIZE c k) (units - 1)).put (Reg.GW_WIN_KIND c k) kind).put
      (Reg.GW_WIN_SCHED c k) (ofBool (kind == kDesign))).set1 (Reg.GW_WIN_VALID c k)
  | none => s

/-- R273: an allocation, with the region it makes; none where it is refused. -/
def State.allocate (s : State) (kind n c0 units : Nat) (host : Bool) : Option (State × Region) :=
  match s.place n c0 units with
  | none => none
  | some (c, b) =>
    let r : Region := ⟨s.newHandle, kind, n, c, b, units, host⟩
    let s1 := (regionChans n c).foldl (fun s c => s.openWin kind b units c) s
    some ({ s1 with chip := { s1.chip with regions := s1.chip.regions ++ [r] } }, r)

/-- The windows of gateway c that start at unit b close. -/
def State.closeWin (s : State) (b c : Nat) : State :=
  s.each 16 (fun k s => if s.on (Reg.GW_WIN_VALID c k) && s.get (Reg.GW_WIN_BASE c k) == b then s.wr (Adr.GW_WIN c k) 0 else s)

def State.regionOf (s : State) (h : Nat) : Option Region := s.chip.regions.find? (fun r => r.handle == h)

/-- A region goes back to free space, with its windows. -/
def State.freeRegion (s : State) (h : Nat) : State :=
  match s.regionOf h with
  | none => s
  | some r =>
    let s1 := (regionChans r.n r.c0).foldl (fun s c => s.closeWin r.base c) s
    { s1 with chip := { s1.chip with regions := s1.chip.regions.filter (fun q => q.handle != h) }
              cap := { s1.cap with region := if s1.cap.region = some h then none else s1.cap.region } }

/-- The device address of the first byte of a region. -/
def regionD (r : Region) : Nat := dAddr r.c0 (r.base * unitBytes)

/-- A region of the kind that the host holds. -/
def State.hostRegion (s : State) (h kind : Nat) : Option Region :=
  match s.regionOf h with
  | some r => if r.host && r.kind == kind then some r else none
  | none => none

/-- log2 of the number of channels. -/
def log2n (n : Nat) : Nat := if n = 16 then 4 else if n = 8 then 3 else if n = 4 then 2 else if n = 2 then 1 else 0

/-- R272: the device address of offset o of a region. -/
def regionAddr (r : Region) (o : Nat) : Nat :=
  if r.n = 1 then regionD r + o else interleave r.c0 (log2n r.n) (r.base * unitBytes) o

/-- The size of a region in bytes, over all its channels. -/
def regionSize (r : Region) : Nat := r.n * r.units * unitBytes

/-! ### Host access to GDDR6 (R364) -/

/-- The kind of the window that a byte falls in, when the host port may reach it.  An access to a PAUSED channel waits until the
pause ends (chapter 10): it is served. -/
def State.hostKind (s : State) (d : Nat) : Option Nat :=
  let c := d / 2 ^ 32
  let b := d % 2 ^ 32
  if c < 16 ∧ s.chanServes c ∧ b < s.capacity c then
    (s.window c b 1).bind (fun k => let kind := s.get (Reg.GW_WIN_KIND c k); if kind = kFirmware then none else some kind)
  else none

/-- R364, R6: a byte as the host reads it; none where the read is refused. -/
def State.hostRd (s : State) (d : Nat) : Option Byte :=
  match s.hostKind d with
  | none => none
  | some k => some (if k = kDesign ∧ d % 4 = 3 then 0 else s.mem d)

/-- R364: the host may write a byte. -/
def State.hostWrOk (s : State) (d : Nat) : Bool :=
  match s.hostKind d with
  | none => false
  | some k => k == kHost || (k == kDesign && s.hostMayWrite)

/-- R364, R6: a byte as the host writes it. -/
def State.hostWr (s : State) (d : Nat) (v : Byte) : State :=
  if s.hostWrOk d then s.setMem d (if s.hostKind d = some kDesign ∧ d % 4 = 3 then 0 else v) else s

/-- The first n bytes that a transfer brought; bytes that it did not bring read 0. -/
def dmaBytes (d : HostDma) (n : Nat) : List Byte := (d.data ++ List.replicate (n - d.data.length) 0).take n

/-! ### Transfers of the host port (R363, R412) -/

/-- The runs of an access of n bytes: consecutive bytes of one channel that are served, each run with its place and its length. -/
def runsOf (ok : Nat → Bool) (d n : Nat) : List (Nat × Nat) :=
  (List.range n).foldr (fun i l =>
    if ok (d + i) then
      match l with
      | (p, m) :: rest => if p = i + 1 ∧ (d + i) / 2 ^ 32 = (d + p) / 2 ^ 32 then (i, m + 1) :: rest else (i, 1) :: l
      | [] => [(i, 1)]
    else l) []

/-- A run waits in its channel as dynamic traffic, in the kind of its window (R363); a write of BAR2 names transfer 0. -/
def State.hostQueue (s : State) (tx : Option Nat) (d : Nat) (data : Option (List Byte)) (r : Nat × Nat) : State :=
  let x := d + r.1
  let c := x / 2 ^ 32
  s.onChan c (fun v => { v with
    seq := v.seq + 1
    dyn := v.dyn ++ [⟨v.seq, none, some (tx.getD 0, r.1), x % 2 ^ 32, r.2, data.isSome,
      match data with | some bs => (bs.drop r.1).take r.2 | none => [], [], s.hostKind x == some kCapture, false, false⟩] })

/-- The data of a write, the high byte of each design container 0 (R6). -/
def State.hostBytes (s : State) (d : Nat) (bs : List Byte) : List Byte :=
  bs.zipIdx.map (fun p => if s.hostKind (d + p.2) = some kDesign ∧ (d + p.2) % 4 = 3 then 0 else p.1)

/-- A transfer of the host port begins: its requests wait in their channels. -/
def State.hostBegin (s : State) (copy : Bool) (d n : Nat) (data : Option (List Byte)) (runs : List (Nat × Nat)) : State :=
  let id := s.pcie.txSeq
  let masked := (List.range n).filter (fun i => s.hostKind (d + i) = some kDesign ∧ (d + i) % 4 = 3)
  let s1 : State := { s with pcie := { s.pcie with
    txSeq := id + 1
    txs := s.pcie.txs ++ [⟨id, copy, n, [], runs.length, if data.isNone then masked else [], false⟩] } }
  runs.foldl (fun s r => s.hostQueue (some id) d (data.map (s.hostBytes d)) r) s1

/-! ### Transfers with a region made as a whole (R406, R431, R433) -/

/-- Nothing waits in a channel that serves, and it is not paused: a transfer made as a whole may use it (R282, R291). -/
def State.quiet (s : State) (c : Nat) : Bool :=
  s.chanState c == gFailed ||
    (s.chanState c == gReady && !(s.chan c).pausing && (s.chan c).sq.isEmpty && (s.waiting c).isEmpty)

/-- So may it use every channel of a region. -/
def State.regionQuiet (s : State) (r : Region) : Bool := (regionChans r.n r.c0).all s.quiet

/-- The bursts of such a transfer count (R294). -/
def State.bulkCount (s : State) (addr : Nat → Nat) (n : Nat) : State :=
  (List.range ((n + 31) / 32)).foldl (fun s i => s.countBurst (addr (32 * i) / 2 ^ 32) (addr (32 * i) % 2 ^ 32) false) s

/-- A mismatch is of one of its bursts. -/
def ofBulk (addr : Nat → Nat) (n : Nat) (e : HostCrc) : Bool :=
  (List.range ((n + 31) / 32)).any (fun i => addr (32 * i) / 32 == e.at_ / 32)

/-- R285: the mismatches of its bursts. -/
def State.bulkCrc (s : State) (addr : Nat → Nat) (n : Nat) (write : Bool) (crc : List HostCrc) : State :=
  (crc.filter (ofBulk addr n)).foldl (fun s e => s.bulkBurst e.at_ e.fails write) s

/-- A byte as such a read receives it: one of a burst that failed four reissues as last received (R285), one of a FAILED channel 0
(R287). -/
def State.bulkByte (s : State) (crc : List HostCrc) (d : Nat) : Byte :=
  if s.chanState (d / 2 ^ 32) = gFailed then 0
  else match crc.find? (fun e => decide (5 ≤ e.fails) && e.at_ / 32 == d / 32) with
    | some e => e.last.getD (d % 32) 0
    | none => s.mem d

/-- Bytes written into a region from an offset; a FAILED channel drops them (R287). -/
def State.toRegion (s : State) (r : Region) (o : Nat) (bs : List Byte) (crc : List HostCrc) : State :=
  let addr := fun i => regionAddr r (o + i)
  ((bs.zipIdx.foldl (fun s p => if s.chanState (addr p.2 / 2 ^ 32) = gFailed then s else s.setMem (addr p.2) p.1) s).bulkCount addr
    bs.length).bulkCrc addr bs.length true crc

/-- Bytes of a region as they are read, and the state after that. -/
def State.fromRegion (s : State) (r : Region) (o n : Nat) (crc : List HostCrc) : State × List Byte :=
  let addr := fun i => regionAddr r (o + i)
  ((s.bulkCount addr n).bulkCrc addr n false crc, (List.range n).map (fun i => s.bulkByte crc (addr i)))

/-! ### Memory commands -/

/-- 64 MiB units of the channels in service that no region holds. -/
def State.freeUnits (s : State) : Nat :=
  (List.range 16).foldl (fun n c =>
    if s.chanServes c then
      n + (s.capacity c / unitBytes - s.chip.regions.foldl (fun m r => if r.c0 ≤ c ∧ c < r.c0 + r.n then m + r.units else m) 0)
    else n) 0

/-- MEM_INFO (R395). -/
def State.memInfo (_ : BitVec 512) (s : State) : State × Resp :=
  let st := (List.range 16).map (fun c => (16 + c, 1, s.chanState c))
  (s, okWith 26 (packBytes (st ++ [(32, 4, s.capacity 0 / 2 ^ 20), (36, 1, s.get (Reg.GD_CH_CTL_RATE 0)),
    (37, 1, s.get (Reg.GD_CH_CTL_CLAMSHELL 0)), (38, 4, s.freeUnits)])))

def execMemInfo (s : State) : Out := .next (s.cmd 2 0x0501 State.memInfo)

/-- R411: REGION_ALLOC. -/
def State.regionAlloc (d : BitVec 512) (s : State) : State × Resp :=
  let n := fieldOf d 9 1
  match s.allocate (fieldOf d 8 1) n (fieldOf d 10 1) (fieldOf d 12 4 / n) true with
  | none => (s, errResp 0x13 1 0 0)
  | some (s1, r) => (s1, okWith 16 (packBytes [(16, 4, r.handle), (20, 1, r.c0), (21, 1, r.n), (24, 8, regionD r)]))

def execRegionAlloc (s : State) : Out := .next (s.cmd 2 0x0502 State.regionAlloc)

/-- A region that an armed capture, a probe or trace uses (R411). -/
def State.regionBusy (s : State) (r : Region) : Bool :=
  (s.cap.region == some r.handle && (s.capState == cArmed || s.capState == cPost)) ||
  (List.range 8).any (fun k => match look s.probes k with | some p => p.region == r.handle | none => false) ||
  s.chip.traceRegion == some r.handle

/-- NOT_ALLOCATED with the value given. -/
def notHeld (v : Nat) : Resp := errResp 0x14 v (v / 65536) 0

/-- R411: REGION_FREE. -/
def State.regionFree (d : BitVec 512) (s : State) : State × Resp :=
  let h := fieldOf d 8 4
  match s.regionOf h with
  | some r =>
    if !r.host then (s, notHeld h) else if s.regionBusy r then (s, errResp 0x13 5 0 0) else (s.freeRegion h, okResp)
  | none => (s, notHeld h)

def execRegionFree (s : State) : Out := .next (s.cmd 2 0x0503 State.regionFree)

/-- R412: MEM_COPY starts: its bytes wait in their channel as one request; the note is the number of its transfer. -/
def State.copyBegin (dma : HostDma) (d : BitVec 512) (s : State) : State × Nat × Option Resp :=
  let len := fieldOf d 12 4
  let a := fieldOf d 16 8
  let read := fieldOf d 8 1 == 0
  if 2 ^ 32 < a % 2 ^ 32 + len ∨ !((List.range len).all (fun i => if read then (s.hostRd (a + i)).isSome else s.hostWrOk (a + i))) then
    (s, 0, some (errResp 0x1F 0 0 0))
  else
    match s.dmaBad (if read then { dma with status := 0 } else dma) with
    | some r => (s, 0, some r)
    | none =>
      if len = 0 then (s, 0, some okResp)
      else (s.hostBegin true a len (if read then none else some (dmaBytes dma len)) [(0, len)], s.pcie.txSeq, none)

/-- R412: the copy is over: a read has its bytes written to host memory, up to an uncorrected error, which ends the copy. -/
def State.copyPoll (c : Taken) (s : State) : Option (State × Resp) :=
  match s.txOf c.note with
  | none => none
  | some x =>
    if x.left = 0 then
      let s1 : State := { s with pcie := { s.pcie with txs := s.pcie.txs.erase x } }
      let n := if x.failed then x.got.foldl (fun n r => n + r.2.length) 0 else x.size
      if c.cut ∨ (fieldOf c.desc 8 1 = 0 ∧ !s.mayMaster) then some (s1, dmaCut)
      else some (if fieldOf c.desc 8 1 = 0 then s1.toHost (fieldOf c.desc 24 8) (x.bytes.take n) else s1,
        if x.failed then errResp 0x20 0 0 0 else okResp)
    else none

def execMemCopy (dma : HostDma) (s : State) : Out := .next (s.cmdLong 2 0x0504 (State.copyBegin dma) State.copyPoll)

/-- DRIFT_CFG (R395). -/
def State.driftCfg (d : BitVec 512) (s : State) : State × Resp :=
  ({ s with chip := { s.chip with drift := fieldOf d 8 4 } }, okResp)

def execDriftCfg (s : State) : Out := .next (s.cmd 2 0x0505 State.driftCfg)

/-! ### Capture commands (R413) -/

/-- Words of 4 bytes. -/
def words4 : List Byte → List Nat
  | a :: b :: c :: d :: rest => ofLeBytes [a, b, c, d] :: words4 rest
  | _ => []

/-- The registers of the configuration block, in its order, SPILL_EN at the place of CAP_CTL. -/
def capBlock : List Nat :=
  (List.range 32).map Adr.CAP_SEL ++ (List.range 64).map Adr.CAP_TWSEL
    ++ (List.range 4).flatMap (fun p => (List.range 64).map (Adr.CAP_VAL p))
    ++ (List.range 4).flatMap (fun p => (List.range 64).map (Adr.CAP_CARE p))
    ++ [Adr.CAP_TRIG_CTL, Adr.CAP_SEQ_N, Adr.CAP_POST, Adr.CAP_CTL, Adr.CAP_START_LO, Adr.CAP_START_HI]

/-- R413: CAP_CONFIG. -/
def State.capConfig (dma : HostDma) (d : BitVec 512) (s : State) : State × Resp :=
  let st := s.capState
  if st ≠ cIdle ∧ st ≠ cDisabled then (s, errResp 0x13 4 st 0)
  else
    match s.hostRegion (fieldOf d 8 4) kCapture with
    | none => (s, notHeld (fieldOf d 8 4))
    | some r =>
      match s.dmaBad dma with
      | some e => (s, e)
      | none =>
        let s1 := ((capBlock.zip (words4 (dmaBytes dma 2456))).foldl (fun s p =>
          if p.1 = Adr.CAP_CTL then s.put Reg.CAP_CTL_SPILL_EN (p.2 % 2) else s.writeFields p.1 p.2) s)
        let s2 := (((s1.put Reg.CAP_RGN_SIZE (r.n * r.units)).put Reg.CAP_RGN_BASE r.base).put Reg.CAP_RGN_LOG2N
          (log2n r.n - 1)).put Reg.CAP_RGN_C0 r.c0
        ({ s2 with cap := { s2.cap with region := some r.handle } }, okResp)

def execCapConfig (dma : HostDma) (s : State) : Out := .next (s.cmd 2 0x0601 (State.capConfig dma))

/-- The response of CAP_CTL: STATE after the action. -/
def State.capAnswer (s : State) : Resp := okWith 1 s.capState

/-- R413: CAP_CTL, with the response of every action but a STOP that waits for its last record. -/
def State.capCtl (d : BitVec 512) (s : State) : State × Nat × Option Resp :=
  let act := fieldOf d 8 1
  if act = 1 then
    if s.cap.region.isNone then (s, 0, some (notHeld 0))
    else
      let s1 := s.capArm
      (s1, 0, some (if s.capState = cIdle ∧ s1.capState = cArmed then s1.capAnswer else errResp 0x13 4 s.capState 0))
  else if act = 2 then
    if s.capState = cArmed ∨ s.capState = cPost then (s.capStopReq, 0, none) else (s, 0, some s.capAnswer)
  else if act = 3 then
    let st := s.trigState
    let ign := st == cPost || st == cDone || st == cOvf || st == cStopped
    let s1 := s.capForce
    (s1, 0, some { s1.capAnswer with detail := ofBool ign })
  else let s1 := s.capDisarm; (s1, 0, some s1.capAnswer)

/-- R413: the last record of a STOP is written. -/
def State.capCtlPoll (_ : Taken) (s : State) : Option (State × Resp) :=
  if s.capState = cArmed ∨ s.capState = cPost then none else some (s, s.capAnswer)

def execCapCtl (s : State) : Out := .next (s.cmdLong 2 0x0602 State.capCtl State.capCtlPoll)

/-- CAP_STATUS (R395). -/
def State.capStatus (_ : BitVec 512) (s : State) : State × Resp :=
  (s, okWith 32 (packBytes [(16, 1, s.capState), (17, 1, s.get Reg.CAP_STAT_TRIGGERED + 2 * s.get Reg.CAP_STAT_OVF),
    (20, 4, s.get Reg.CAP_GEOM_NSLOT), (24, 4, 256 * s.get Reg.CAP_GEOM_RS),
    (28, 8, s.pair Adr.CAP_TRIG_LO Adr.CAP_TRIG_HI), (36, 4, s.get Reg.CAP_TRIG_SLOT_SLOT),
    (40, 4, s.get Reg.CAP_LAST_SLOT_SLOT), (44, 4, s.get Reg.CAP_RECCNT_COUNT)]))

def execCapStatus (s : State) : Out := .next (s.cmd 2 0x0603 State.capStatus)

end Sys2Proof.Machine
end

