-- ==== Sys2Proof/Machine/DiagCmd.lean ====
section
/-! DEFINITION. The system commands of group 0x01 and the diagnostic commands of group 0x09 (R149, R156, R365, R397, R415
to R418, R455, R477), and the information commands of an image (R395). -/
namespace Sys2Proof.Machine

/-! ### System and image information -/

/-- R395: GET_INFO. -/
def State.getInfo (_ : BitVec 512) (s : State) : State × Resp :=
  (s, okWith 26 (packBytes [(16, 2, s.deviceId), (18, 1, s.mode), (19, 1, s.fuses.lifecycle), (20, 4, s.chip.fwVersion.toNat),
    (24, 8, s.fuses.serial.toNat), (32, 8, s.stride), (40, 1, s.dutyPct), (41, 1, s.get Reg.CHIP_THERM_TJ_MAX)]))

def execGetInfo (s : State) : Out := .next (s.cmd 0 0x0101 State.getInfo)

/-- R418: SET_EVENT_VECTOR. -/
def State.setVector (d : BitVec 512) (s : State) : State × Resp :=
  (s.onBox 0 (fun b => { b with vectors := upd b.vectors (fieldOf d 8 2) (fieldOf d 10 1) }), okResp)

def execSetEventVector (s : State) : Out := .next (s.cmd 0 0x0102 State.setVector)

/-- R397: WARM_RESET: the answer goes out and the warm reset is asked for with CAUSE 3 (R438). -/
def State.askReset (_ : BitVec 512) (s : State) : State × Resp :=
  ({ s with chip := { s.chip with warmReq := 3 } }, okResp)

def execWarmReset (s : State) : Out := .next (s.cmd 0 0x0103 State.askReset)

/-- The results of IMAGE_LOAD and IMAGE_INFO. -/
def imageResp (i : Image) : Resp :=
  okWith 21 (packBytes [(16, 8, i.id.toNat), (24, 8, i.sys.toNat), (32, 2, i.part), (34, 2, i.npart), (36, 1, i.seed.toNat)])

/-- R395: IMAGE_INFO. -/
def State.imageInfo (_ : BitVec 512) (s : State) : State × Resp :=
  match s.chip.image with
  | some i => (s, imageResp i)
  | none => (s, errResp 0x12 0 0 0)

def execImageInfo (s : State) : Out := .next (s.cmd 3 0x0202 State.imageInfo)

/-- R365: APERTURE. -/
def State.aperture (d : BitVec 512) (s : State) : State × Resp :=
  ({ s with pcie := { s.pcie with viewIs := fieldOf d 8 1 == 1 } }, okResp)

def execAperture (s : State) : Out := .next (s.cmd 3 0x0203 State.aperture)

/-! ### The Saddlebag (R415, R477) -/

/-- Record i of the ring, 0 where none has been written. -/
def State.ringAt (s : State) (i : Nat) : BitVec 128 := Tab.get (fun _ => 0) s.sb.ring i

/-- R415: SB_READ copies COUNT records from FIRST on, wrapping at 8,192. -/
def State.sbReadCmd (d : BitVec 512) (s : State) : State × Resp :=
  match s.dmaBad ⟨0, []⟩ with
  | some r => (s, r)
  | none =>
    let recs := (List.range (fieldOf d 10 2)).flatMap (fun i => leBytes 16 (s.ringAt ((fieldOf d 8 2 + i) % 8192)).toNat)
    (s.toHost (fieldOf d 16 8) recs,
      okWith 3 (packBytes [(16, 2, s.get Reg.SB_STAT_NEWEST), (18, 1, s.get Reg.SB_STAT_FROZEN)]))

def execSbRead (s : State) : Out := .next (s.cmd 0 0x0901 State.sbReadCmd)

/-- R477: SB_MARK. -/
def State.sbMark (d : BitVec 512) (s : State) : State × Resp :=
  if s.on Reg.SB_STAT_FROZEN then (s, ⟨0, 1, 0, 0⟩)
  else (s.groomRec 0 0 0x70 (BitVec.ofNat 48 (fieldOf d 8 6)), okResp)

def execSbMark (s : State) : Out := .next (s.cmd 0 0x0902 State.sbMark)

/-! ### Regulators and probes (R149, R415, R416) -/

/-- The sum of the rates of the regulators, class c taken as `rate`. -/
def State.rateSum (s : State) (c rate : Nat) : Nat :=
  (List.range 7).foldl (fun n k => n + if k = c then rate else s.get (Reg.RTR_REG_RATE k)) 0

/-- R149, R415: REG_SET.  `tooMuch`: the first link, by Team and port, on which the contracted rates with the new setting are
more than its static slots leave free; none where every rate is 0. -/
def State.regSet (tooMuch : Option (Fin 1024 × Fin 4)) (d : BitVec 512) (s : State) : State × Resp :=
  let c := fieldOf d 8 1
  match tooMuch, s.rateSum c (fieldOf d 10 1) with
  | some (t, p), _ + 1 => (s, errResp 0x21 t p 0)
  | _, _ => (((s.put (Reg.RTR_REG_BURST c) (fieldOf d 9 1)).put (Reg.RTR_REG_RATE c) (fieldOf d 10 1)).put
      (Reg.RTR_REG_EXCESS c) (fieldOf d 11 1), okResp)

def execRegSet (tooMuch : Option (Fin 1024 × Fin 4)) (s : State) : Out := .next (s.cmd 0 0x0903 (State.regSet tooMuch))

/-- R416: PROBE_CFG. -/
def State.probeCfg (d : BitVec 512) (s : State) : State × Resp :=
  let k := fieldOf d 8 1
  let b := fieldOf d 9 1
  if bit b 7 then (s.put (Reg.RTR_PRB_CTL_EN k) (b % 2), okResp)
  else
    let mode := bits b 3 2
    let h := fieldOf d 20 4
    match (if mode = 3 then (s.hostRegion h kProbe).map some else some none) with
    | none => (s, notHeld h)
    | some r =>
      let p := r.map (fun r => (⟨h, regionD r, log2n r.n, regionSize r, 0⟩ : Probe))
      let s0 := s.each 16 (fun c s => s.onChan c (fun v => { v with probeAt := upd v.probeAt k 0 }))
      let s1 := ((s0.writeFields (Adr.RTR_PRB_SEL k) (fieldOf d 10 2)).put (Reg.RTR_PRB_MATCH_VALUE k) (fieldOf d 12 4)).put
        (Reg.RTR_PRB_MASK_VALUE k) (fieldOf d 16 4)
      let s2 := ((s1.put (Reg.RTR_PRB_CTL_STATIC k) (bits b 1 1)).put (Reg.RTR_PRB_CTL_MODE k) mode).put
        (Reg.RTR_PRB_CTL_EN k) (b % 2)
      ({ s2 with probes := upd s2.probes k p }, okResp)

def execProbeCfg (s : State) : Out := .next (s.cmd 0 0x0904 State.probeCfg)

/-! ### Team power (R455) -/

/-- R455: the sequence begins: the Team is isolated, its banks go OFF and the switch opens; or the switch closes.  A Team
that the image uses answers RESOURCE_BUSY kind 8 (R416). -/
def State.teamPowerBegin (d : BitVec 512) (s : State) : State × Nat × Option Resp :=
  let t := fieldOf d 8 2
  if s.usedTeams.contains t then (s, 0, some (errResp 0x13 8 0 0))
  else if fieldOf d 10 1 = 0 then
    if s.get (Reg.TEAM_PWR_STATE t) = 0 ∧ !s.on (Reg.TEAM_PWR_EN t) then (s.set1 (Reg.RTR_CTL_ISOLATE t), 0, some okResp)
    else ((((s.set1 (Reg.RTR_CTL_ISOLATE t)).bankPower t 0 0).bankPower t 1 0).teamEn t false, 0, none)
  else if s.get (Reg.TEAM_PWR_STATE t) = 1 ∧ s.on (Reg.TEAM_PWR_EN t) then (s.clr (Reg.RTR_CTL_ISOLATE t), 0, some okResp)
  else (s.teamEn t true, 0, none)

/-- R455: the switch has reached its end; a Team that is ON is no longer isolated. -/
def State.teamPowerPoll (c : Taken) (s : State) : Option (State × Resp) :=
  let t := fieldOf c.desc 8 2
  if (s.team t).switching then none
  else if fieldOf c.desc 10 1 = 1 then (if s.get (Reg.TEAM_PWR_STATE t) = 1 then some (s.clr (Reg.RTR_CTL_ISOLATE t), okResp) else none)
  else if s.get (Reg.TEAM_PWR_STATE t) = 0 then some (s, okResp) else none

def execTeamPower (s : State) : Out := .next (s.cmdLong 0 0x0906 State.teamPowerBegin State.teamPowerPoll)

/-! ### Debug reads (R417) -/

/-- The management hub that the debug reads of Groom 0 leave from: the first attached one. -/
def State.debugHub (s : State) : Option Nat := [32, 33, 34, 35].findSome? s.site

/-- The tags of the debug reads that are on their way. -/
def State.debugTags (s : State) : List Nat :=
  ((s.box 0).taken.filter (fun c => c.started && fieldOf c.desc 0 2 == 0x0907)).map (fun c => c.note)

/-- R417: one RD_REQ in class 4.  Without an attached hub none can leave, and the deadline ends the command. -/
def State.debugBegin (d : BitVec 512) (s : State) : State × Nat × Option Resp :=
  match s.debugHub with
  | none => (s, 0, none)
  | some h =>
    let tag := ((List.range 255).find? (fun k => !s.debugTags.contains (k + 1))).getD 0 + 1
    let a := fieldOf d 12 4
    (s.wait h (mkPacket (fieldOf d 8 2) (fieldOf d 10 1) 0 4 h 1 tag 0 (a / 2 ^ 24) a (fieldOf d 11 1 - 1) []), tag, none)

/-- The response that a completion brings (R141, R417): word i at 16 + 4 i. -/
def debugResp (n : Nat) (p : Packet) : Resp :=
  if pSTATUS p = 0 ∧ pTYPE p = 2 then
    let ws := (BitVec.ofNat 24 (pE1 p) :: BitVec.ofNat 24 (pE0 p) :: bodyWords p).take n
    okWith (4 * n) (packBytes (ws.zipIdx.map (fun q => (16 + 4 * q.2, 4, q.1.toNat))))
  else errResp (0x1B + pSTATUS p) 0 0 0

/-- R417: the completion has reached the hub. -/
def State.debugPoll (c : Taken) (s : State) : Option (State × Resp) :=
  match s.debugHub with
  | none => none
  | some h =>
    match (s.router h).boxA.findIdx? (fun p => isCpl p && pTAG p == c.note && c.note != 0) with
    | none => none
    | some i =>
      match (s.router h).boxA[i]? with
      | none => none
      | some p => some (s.onRouter h (fun r => { r with boxA := r.boxA.eraseIdx i }), debugResp (fieldOf c.desc 11 1) p)

/-- R417: DEBUG_READ; a completion goes to the command that waits for it. -/
def execDebugRead (s : State) : Out :=
  .next ((s.pollStarted 0 0x0907 State.debugPoll).getD (s.cmdLong 0 0x0907 State.debugBegin State.debugPoll))

end Sys2Proof.Machine
end

