-- ==== Sys2Proof/Machine/Sched.lean ====
section
/-! DEFINITION. The Domain Scheduler (chapter 6): tokens, consumption, decisions, descriptors, the start of a run. -/
namespace Sys2Proof.Machine

/-- DS_STAT.STATE. -/
abbrev dStopped : Nat := 0
abbrev dConsume : Nat := 1
abbrev dWaitHorizon : Nat := 2
abbrev dWaitInput : Nat := 3
abbrev dWaitFlag : Nat := 4
abbrev dDecide : Nat := 5
abbrev dIssued : Nat := 6

def State.dsState (s : State) (v : Nat) : State := s.put Reg.DS_STAT_STATE v

/-! ### Emulated time and the delay list (R160 to R163) -/

/-- DS_NOW, a 48-bit count of ticks. -/
def State.dsNow (s : State) : Nat := (s.rd Adr.DS_NOW_LO).toNat + 2 ^ 32 * s.get Reg.DS_NOW_HI_NOW_HI

/-- DS_NOW takes a time point; a wrap raises EPOCH (R160). -/
def State.setNow (s : State) (v : Nat) : State :=
  let e := s.get Reg.DS_NOW_HI_EPOCH + ofBool (decide (v < s.dsNow))
  ((s.wr Adr.DS_NOW_LO (BitVec.ofNat 32 v)).put Reg.DS_NOW_HI_NOW_HI (v / 2 ^ 32)).put Reg.DS_NOW_HI_EPOCH e

def State.period (s : State) (d : Nat) : Nat := (s.rd (Adr.DS_DOM_PERIOD_LO d)).toNat + 2 ^ 32 * s.get (Reg.DS_DOM_PERIOD_HI_VALUE d)
def State.phase (s : State) (d : Nat) : Nat := (s.rd (Adr.DS_DOM_PHASE_LO d)).toNat + 2 ^ 32 * s.get (Reg.DS_DOM_PHASE_HI_VALUE d)
def State.duty (s : State) (d : Nat) : Nat := (s.rd (Adr.DS_DOM_DUTY_LO d)).toNat + 2 ^ 32 * s.get (Reg.DS_DOM_DUTY_HI_VALUE d)

/-- R160, R163: the order of the delay list at time `now`: the signed distance, the domain, rising before falling. -/
def edgeKey (now : Nat) (e : Edge) : Nat :=
  ((e.time + 2 ^ 48 - now % 2 ^ 48) % 2 ^ 48 * 64 + e.dom) * 2 + ofBool e.falling

def insertEdge (now : Nat) (e : Edge) : List Edge → List Edge
  | [] => [e]
  | f :: fs => if edgeKey now e < edgeKey now f then e :: f :: fs else f :: insertEdge now e fs

/-- R162: the first edges of every domain, by EDGES.  DESIGN CHOICE (the rule does not say when): the run from LOAD that begins fills
the delay list with them. -/
def State.firstEdges (s : State) : List Edge :=
  (List.range 64).foldl (fun l d =>
    let k := s.get (Reg.DS_DOM_CFG_EDGES d)
    let l1 := if bit k 0 then insertEdge 0 ⟨s.phase d % 2 ^ 48, d, false⟩ l else l
    if bit k 1 then insertEdge 0 ⟨(s.phase d + s.duty d) % 2 ^ 48, d, true⟩ l1 else l1) []

/-- R163: the entries of the time point, the entries with the earliest time. -/
def timePoint (l : List Edge) : List Edge :=
  match l with
  | [] => []
  | e :: _ => l.takeWhile (fun f => f.time == e.time)

/-- The due domains of a time point. -/
def dueDoms (l : List Edge) : List Nat := (timePoint l).map (·.dom)

/-- R162, R163: a time point is consumed whole; each domain's next edge of the kind comes PERIOD later. -/
def State.consumePoint (s : State) : State :=
  match s.ds.delay with
  | [] => s
  | e :: _ =>
    let tp := timePoint s.ds.delay
    let rest := s.ds.delay.drop tp.length
    let l := tp.foldl (fun l f => insertEdge e.time { f with time := (f.time + s.period f.dom) % 2 ^ 48 } l) rest
    ({ s with ds := { s.ds with delay := l } } : State).setNow e.time

/-! ### Flags (R164 to R166) -/

/-- MASK of a domain: bit 0 EDGE, 1 ENABLE, 2 HOST_GO, 3 HOLD_CLEAR. -/
def State.domMask (s : State) (d : Nat) : Nat := s.get (Reg.DS_DOM_CFG_MASK d)

/-- R165: ENABLE of domain d for the decision of stride k: none while the sample has not arrived. -/
def State.enableOf (s : State) (d k : Nat) : Option Bool :=
  if s.ds.decided < 2 then some (s.on (Reg.DS_DOM_CFG_EN_INIT d))
  else
    let v := look s.ds.samples (2 * d + k % 2)
    if v = 2 * (k - 2) + 1 then some false else if v = 2 * (k - 2) + 2 then some true else none

/-- The domains with edges whose MASK holds ENABLE. -/
def State.gatedDoms (s : State) : List Nat :=
  (List.range 64).filter (fun d => s.get (Reg.DS_DOM_CFG_EDGES d) != 0 && bit (s.domMask d) 1)

/-- R166: a due domain lacks a Wait flag that its MASK names. -/
def State.flagWaits (s : State) : Bool :=
  (dueDoms s.ds.delay).any (fun d => bit (s.domMask d) 2 && !s.on (Reg.DS_DOM_FLAGS_HOST_GO d))

/-- R166: the due domains that are not gated in the decision of stride k. -/
def State.readyDoms (s : State) (k : Nat) : List Nat :=
  (dueDoms s.ds.delay).filter (fun d => !(bit (s.domMask d) 1 && s.enableOf d k == some false))

/-! ### Tokens (R167 to R173) -/

/-- The valid tokens of the matching store, with their entries. -/
def State.tokens (s : State) : List (Nat × Token) := s.ds.store.filterMap (fun p => p.2.map (fun t => (p.1, t)))

/-- The refusals of R168. -/
inductive TokBad where
  | bad | dup | late | full
deriving DecidableEq, Repr

/-- The lowest free entry of the matching store. -/
def State.freeEntry (s : State) : Option Nat := (List.range 256).find? (fun e => (look s.ds.store e).isNone)

/-- R168: why a token is refused.  DESIGN CHOICE: where two rows of the table hold at once, the upper row is given. -/
def State.tokenBad (s : State) (k : Token) : Option TokBad :=
  if !bit (s.get (Reg.DS_TT_CFG_OPND_MASK k.task)) k.opnd then some .bad
  else if bit (s.get (Reg.DS_TT_CFG_HITCH k.task)) k.opnd != k.hitch then some .bad
  else if s.tokens.any (fun p => p.2.task == k.task && p.2.opnd == k.opnd && p.2.tag == k.tag) then some .dup
  else if (match s.ds.lastTag with | some t => decide (k.tag ≤ t) | none => false) then some .late
  else if s.freeEntry.isNone then some .full
  else none

/-- R168: a token goes into a free entry. -/
def State.storeToken (s : State) (k : Token) : State :=
  match s.freeEntry with
  | some e => { s with ds := { s.ds with store := upd s.ds.store e (some k) } }
  | none => s

/-- R170: the smallest stride number whose consumption has not begun.  DESIGN CHOICE (the rule leaves it open): before any
consumption of a run, with N0 not known yet, the tag is 0. -/
def State.nextTag (s : State) : Nat :=
  match s.ds.due, s.ds.lastTag with
  | some t, _ => t
  | none, some t => t + 1
  | none, none => 0

/-- HT_TK_STAT.OCC follows the token port. -/
def State.tkCount (s : State) : State := s.put Reg.HT_TK_STAT_OCC s.ht.toks.length

/-- R170, R327: the oldest token of the token port reaches the scheduler. -/
def State.hitchToken (s : State) : State :=
  match s.ht.toks with
  | [] => s
  | p :: rest =>
    let s1 := ({ s with ht := { s.ht with toks := rest } } : State).tkCount
    let k : Token := ⟨p.task, p.opnd, p.data, true, s.nextTag⟩
    match s.tokenBad k with
    | some _ => s1.sat Reg.DS_REFUSED_COUNT 1
    | none => s1.storeToken k

def execHitchTokenAccept (s : State) : Out := .next s.hitchToken

/-- R173: horizon gating. -/
def State.horizonOk (s : State) (t : Nat) : Bool :=
  !s.on Reg.DS_CTL_HORIZON_EN || decide (t ≤ s.pair Adr.DS_HORIZON_LO Adr.DS_HORIZON_HI)

/-- R171: the tasks whose declared operands all have a token tagged t. -/
def State.readyTasks (s : State) (t : Nat) : List Nat :=
  let ks := s.tokens
  (List.range 32).filter (fun j =>
    let m := s.get (Reg.DS_TT_CFG_OPND_MASK j)
    m != 0 && (List.range 8).all (fun o => !bit m o || ks.any (fun p => p.2.task == j && p.2.opnd == o && p.2.tag == t)))

/-- R171 step 2: the landing writes of a ready task. -/
def State.land (s : State) (t j : Nat) : State :=
  s.tokens.foldl (fun s p =>
    if p.2.task = j ∧ p.2.tag = t then
      s.dmFirmware (s.get (Reg.DS_TT_LAND_TEAM j p.2.opnd)) .landing .write
        (s.get (Reg.DS_TT_LAND_LAND j p.2.opnd) + (t + 1) % 2) p.2.data .ok
    else s) s

/-- R171: consumption of tag t. -/
def State.consume (s : State) (t : Nat) : State :=
  let js := s.readyTasks t
  let orphans := (s.tokens.filter (fun p => p.2.tag == t && !js.contains p.2.task)).length
  let s1 := js.foldl (fun s j => s.land t j) s
  let s2 := if orphans = 0 then s1 else s1.sat Reg.DS_ORPHAN_COUNT orphans
  { s2 with ds := { s2.ds with
      store := s2.ds.store.filter (fun p => match p.2 with | some k => k.tag != t | none => true)
      lastTag := some t, due := none, wanted := some (t + 1)
      tasks := BitVec.ofNat 32 (js.foldl (fun n j => n + 2 ^ j) 0) } }

/-- The tag whose consumption is due: N0 - 1 as a run from LOAD begins (R180), or that of the boundary which every Team has
passed (R112). -/
def State.dueTag (s : State) : Option Nat :=
  match s.ds.due, s.boundaryInto with
  | some t, _ => some t
  | none, some n => if s.ds.lastTag == some n then none else some n
  | none, none => none

/-- R171, R173, R169: the consumption that is due. -/
def State.tokenConsumption (late : Bool) (s : State) : State :=
  match s.dueTag with
  | none => s
  | some t =>
    if !s.on Reg.DS_CTL_EN then s
    else if s.horizonOk t then
      let s1 := s.set1If (late && s.tokens.any (fun p => p.2.tag == t)) Reg.DS_STAT_LATE
      (s1.consume t).dsState dWaitInput
    else s.dsState dWaitHorizon

def execTokenConsumption (late : Bool) (s : State) : Out := .next (s.tokenConsumption late)

/-! ### Decisions (R174 to R177) -/

/-- READY as a number: bit d domain d, bit 64 + j task j. -/
def readyBits (doms : List Nat) (tasks : BitVec 32) : Nat :=
  (List.range 64).foldl (fun n d => n + (if doms.contains d then 2 ^ d else 0)) 0 + 2 ^ 64 * tasks.toNat

def State.smask (s : State) (k : Nat) : Nat :=
  (s.rd (Adr.DS_SEL_SMASK k 0)).toNat + 2 ^ 32 * (s.rd (Adr.DS_SEL_SMASK k 1)).toNat + 2 ^ 64 * (s.rd (Adr.DS_SEL_SMASK k 2)).toNat

def State.sval (s : State) (k : Nat) : Nat :=
  (s.rd (Adr.DS_SEL_SVAL k 0)).toNat + 2 ^ 32 * (s.rd (Adr.DS_SEL_SVAL k 1)).toNat + 2 ^ 64 * (s.rd (Adr.DS_SEL_SVAL k 2)).toNat

/-- R175: the lowest valid rule that matches READY, as its PROG. -/
def State.ruleOf (s : State) (ready : Nat) : Option Nat :=
  ((List.range 64).find? (fun k => s.on (Reg.DS_SEL_CTL_VALID k) && ready &&& s.smask k == s.sval k)).map
    (fun k => s.get (Reg.DS_SEL_CTL_PROG k))

/-- R178: the descriptor word of program table entry `p` for stride k. -/
def State.descOf (s : State) (p k : Nat) : BitVec 24 :=
  BitVec.ofNat 24 (packBits [(0, 10, s.get (Reg.DS_SPT_START p)), (10, 6, s.get (Reg.DS_SPT_LCODE p)), (16, 6, p), (22, 2, k)])

/-- R175, R177: the scheduler stops; Groom 3 writes DS_STOP and posts the event. -/
def State.dsStop (s : State) (flag : Fld) (why event k : Nat) (ready : Nat) : State :=
  let s1 := (s.set1 flag).dsState dStopped
  let s2 : State := { s1 with ds := { s1.ds with wanted := none } }
  (s2.groomRec 3 4 0x19 (argOf why k)).postEvent 3 ⟨event, 24, packBytes [(16, 12, ready), (32, 8, k)]⟩

/-- What follows the search for a time point with a stride (R175, R176). -/
def State.choose (s : State) (k : Nat) (doms : List Nat) : State :=
  let auto := doms.filter (fun d => s.on (Reg.DS_DOM_CFG_AUTOCLR d) && s.on (Reg.DS_DOM_FLAGS_HOST_GO d))
  let s0 := auto.foldl (fun s d => s.clr (Reg.DS_DOM_FLAGS_HOST_GO d)) s
  let s1 := s.gatedDoms.foldl (fun x d => x.put (Reg.DS_DOM_FLAGS_ENABLE d) (ofBool (s.enableOf d k == some true))) s0
  let ready := readyBits doms s.ds.tasks
  let s2 : State := { s1 with ds := { s1.ds with ready := BitVec.ofNat 96 ready, skipped := 0 } }
  match s.ruleOf ready with
  | none => s2.dsStop Reg.DS_STAT_SEL_MISS 1 0x000A k ready
  | some p =>
    ({ s2 with ds := { s2.ds with
        choice := some (s.descOf p k, k), wanted := none, decided := min 2 (s2.ds.decided + 1)
        prior := s.ds.prior.map (fun q => { q with go := auto, skips := s.ds.skipped - q.skips })
        nows := upd s2.ds.nows (k % 4) s2.dsNow } } : State).dsState dDecide

/-- R176: the loop over time points; `fuel` bounds the time points that may still be skipped. -/
def State.search (s : State) (k : Nat) : Nat → State
  | 0 => s.dsStop Reg.DS_STAT_SPIN 2 0x000B k 0
  | fuel + 1 =>
    if s.flagWaits then s.dsState dWaitFlag
    else
      let doms := s.readyDoms k
      let s1 := s.consumePoint
      if doms.isEmpty && s.ds.tasks == 0 then
        let s2 := (s1.sat Reg.DS_SKIP_COUNT 1)
        State.search { s2 with ds := { s2.ds with skipped := s2.ds.skipped + 1 } } k fuel
      else s1.choose k doms

/-- R256: a hold bars the decision of stride k. -/
def State.holdBars (s : State) (k : Nat) : Bool := s.held && decide (s.holdH ≤ k)

/-- What a hold that is adopted before the descriptor is issued puts back (R256). -/
def State.priorOf (s : State) : Prior := ⟨s.ds.delay, s.dsNow, s.get Reg.DS_NOW_HI_EPOCH, s.ds.decided, s.ds.skipped, []⟩

/-- R165, R176: the decision that is due; `waiting` cycles have been spent under R166 before it.  DESIGN CHOICE (R166 and R256 leave
it open): while a hold bars the decision STATE shows WAIT_FLAG and DS_WAIT counts, whatever the masks name. -/
def State.decideStride (waiting : Nat) (s : State) : State :=
  match s.ds.wanted with
  | none => s
  | some k =>
    if !s.on Reg.DS_CTL_EN then s
    else
      let s0 := if s.get Reg.DS_STAT_STATE = dWaitFlag then s.sat Reg.DS_WAIT_COUNT waiting else s
      if s.holdBars k then s0.dsState dWaitFlag
      else if s.gatedDoms.any (fun d => (s.enableOf d k).isNone) then s0.dsState dWaitInput
      else
        let s1 : State := { s0 with ds := { s0.ds with prior := some s0.priorOf } }
        if s.ds.delay.isEmpty then s1.choose k [] else s1.search k (65536 - s.ds.skipped)

def execDsDecision (waiting : Nat) (s : State) : Out := .next (s.decideStride waiting)

/-! ### Descriptors (R117, R178) -/

/-- R171: a landing write has not completed. -/
def State.landing (s : State) : Bool :=
  s.runTeams.any (fun t => (s.team t).dma.any (fun r => match r.src with | .landing => true | _ => false))

/-- The duty of the thermal throttle in percent (R117). -/
def State.dutyPercent (s : State) : Nat :=
  match s.get Reg.CHIP_THERM_DUTY with
  | 0 => 100
  | 1 => 75
  | 2 => 50
  | _ => 25

/-- R117: L / d cycles have passed since the last descriptor. -/
def State.throttleOk (s : State) (w : BitVec 24) (cycles : Nat) : Bool :=
  !s.ds.anyIssued ||
    decide (16 * (bits w.toNat 15 10 + 1) * 100 ≤ cycles * s.dutyPercent)

/-- R171, R178, R256: the descriptor goes out, unless a hold stands at its stride. -/
def State.issue (cycles : Nat) (s : State) : State :=
  match s.ds.choice with
  | some (w, k) =>
    if !s.on Reg.DS_CTL_EN then s
    else if s.holdBars k then s.dsState dWaitFlag
    else if s.landing then s.dsState dWaitInput
    else if s.throttleOk w cycles then
      ({ s with ds := { s.ds with choice := none, prior := none, flight := some w, got := [], issued := k, anyIssued := true } } : State).dsState
        dIssued
    else s
  | none => s

def execDescriptorIssue (cycles : Nat) (s : State) : Out := .next (s.issue cycles)

/-- R178: the word that arrives goes into the Next-Stride slot, or is discarded for its TAG. -/
def State.takeDesc (s : State) (t : Nat) (w : BitVec 24) : State :=
  let m := s.team t
  if bits w.toNat 23 22 = (m.stride.toNat + 1) % 4 then
    s.setTeam t { m with slot := some ⟨bits w.toNat 9 0, 16 * (bits w.toNat 15 10 + 1), bits w.toNat 23 22⟩ }
  else (s.set1 (Reg.TEAM_STRIDE_STAT_HUNG t)).hungReport t 4

/-- R178: the descriptor in flight reaches Team `t`, once. -/
def State.descArrive (t : Nat) (s : State) : State :=
  match s.ds.flight with
  | some w =>
    if !s.ds.got.contains t && s.runTeams.contains t then
      let got := t :: s.ds.got
      let all := s.runTeams.all (fun u => got.contains u)
      let s1 : State := { s with ds := { s.ds with got := if all then [] else got, flight := if all then none else some w } }
      s1.takeDesc t w
    else s
  | none => s

def execDescriptorArrival (t : Fin 1024) (s : State) : Out :=
  onMapped t s (fun s => if s.armed 2 t then s.descArrive t else s)

/-! ### Registers (R182) -/

def execDsNowLoRead (who : Agent) (s : State) : Out := .next (s.pairRead who Adr.DS_NOW_LO Adr.DS_NOW_HI)

/-- R182: the horizon takes effect when its upper half is written. -/
def State.horizonHi (v : Word) (s : State) : State :=
  (s.wr Adr.DS_HORIZON_LO s.ds.horizonLo).wr Adr.DS_HORIZON_HI v

def execDsHorizonHiWrite (v : Word) (s : State) : Out := .next (s.horizonHi v)

/-! ### The start of a run (R106, R180) -/

/-- R106, R113, R180: every Team stands before the first stride. -/
def State.armTeams (s : State) (n0 : Nat) : State :=
  s.runTeams.foldl (fun s t =>
    let s1 := s.onTeam t (fun m => { m with
      active := true, len := 0, start := 0, stride := BitVec.ofNat 64 (n0 + 2 ^ 64 - 1), slot := none, hinNext := some 0
      hat := [], passNow := false, halted := false, hungSent := false, rs := 0, rsHave := 0, carryQ := [], carryIn := []
      gwQ := [], ring := [], rmw := none, rmwDone := false })
    (((s1.put (Reg.TEAM_PROG_PROG t) 0).put (Reg.TEAM_STEP_STEP t) 0).put (Reg.TEAM_STEP_STATE t) 5).put
      (Reg.TEAM_STRIDE_STAT_STRIDE t) (n0 + 255)) s

/-- R180: the scheduler begins a run from LOAD at N0, or from a restore at H (`restored`). -/
def State.beginRun (s : State) (n0 : Nat) (restored : Bool) : State :=
  let s0 := (s.putPair Adr.CHIP_STRIDE_LO Adr.CHIP_STRIDE_HI n0).armTeams n0
  let s1 := { (s0.forgetStrides) with cap := { s0.cap with decided := none } }
  let d := s1.ds
  let ds1 : Sched := { d with
    first := true, choice := none, prior := none, flight := none, got := [], anyIssued := false, issued := 0, skipped := 0 }
  let ds2 : Sched := if restored then { ds1 with due := none, wanted := some n0 }
    else { ds1 with due := some (n0 - 1), wanted := none, decided := 0, delay := s1.firstEdges, lastTag := none, tasks := 0 }
  ({ s1 with ds := ds2 }.set1 Reg.DS_CTL_EN).dsState (if restored then dDecide else dConsume)

end Sys2Proof.Machine
end

