-- ==== Sys2Proof/Machine/Wires.lean ====
section
/-! DEFINITION. The wires of the Hitch fabric: what every wire carries, how cells, RAM, flip-flops and pins follow (R314, R315, R318,
R319, R321, R322, R329, R330), and the levels at the pins (R331, R334, R337). -/
namespace Sys2Proof.Machine

/-! ### Clocks (R321, R322) -/

def Hitch.treeOf (h : Hitch) (t : Nat) : TreeSt := Tab.get (fun _ => TreeSt.reset) h.tree t
def Hitch.setTree (h : Hitch) (t : Nat) (v : TreeSt) : Hitch := { h with tree := Tab.set (fun _ => TreeSt.reset) h.tree t v }
/-- Tree t does not switch. -/
def Hitch.noSwitch (h : Hitch) (t : Nat) : Hitch := { h with trees := upd h.trees t 0 }

/-- R321: the PLL and output k run, with M from 8 to 16 and D from 2 to 128. -/
def State.fclkSet (s : State) (k : Nat) : Bool :=
  let m := s.get Reg.HT_FPLL_M
  let d := s.get (Reg.HT_FCLK_D k)
  s.on Reg.HT_FPLL_EN && s.on (Reg.HT_FCLK_EN k) && decide (8 ≤ m ∧ m ≤ 16) && decide (2 ≤ d ∧ d ≤ 128)

/-- R321: the result of output k exceeds 400 MHz; the VCO runs at M times 100 MHz. -/
def State.fclkFast (s : State) (k : Nat) : Bool := s.fclkSet k && decide (4 * s.get (Reg.HT_FCLK_D k) < s.get Reg.HT_FPLL_M)

/-- The level of FCLKk: high for the first ⌈D / 2⌉ VCO periods of its period (DESIGN CHOICE: R321 gives no duty). -/
def Hitch.fclk (h : Hitch) (k : Nat) : Bool := look h.fdiv k != 0 && decide (look h.fcnt k < (look h.fdiv k + 1) / 2)

/-- The level of a divider's output (R322). -/
def TreeSt.out (t : TreeSt) : Bool := t.div != 0 && (if t.div = 1 then t.inp else decide (t.cnt < (t.div + 1) / 2))

/-! ### What a wire carries -/

/-- What the fabric sees from outside its own wires at one moment. -/
structure FabricEnv where
  held : Option Nat        -- the region that partial configuration holds (R335)
  treeOn : Nat → Bool      -- EN of a tree (R322)
  released : Nat → Bool    -- a bank is released (R331)
  port : Nat → Bool        -- the source signals of the ports (R324)
  wild : Nat → Bool        -- free values

/-- Region r is held. -/
def FabricEnv.holds (e : FabricEnv) (r : Nat) : Bool := e.held == some r

/-- The level at a pin: what the device drives, or what the outside gives. -/
def Hitch.pad (h : Hitch) (k : Nat) : Bool := match look h.drv k with | some b => b | none => h.pads.getLsbD k

def Hitch.pinWord (h : Hitch) (k : Nat) : Nat := (look h.pins k).toNat
/-- DIR and DDR of a pin (R329). -/
def Hitch.dirOf (h : Hitch) (k : Nat) : Nat := bits (h.pinWord k) 2 0
def Hitch.ddr (h : Hitch) (k : Nat) : Bool := bit (h.pinWord k) 3

/-- R329, R330: IN wire i of a pin: the pad itself, or what PCLK has captured. -/
def Hitch.pinSrc (h : Hitch) (k i : Nat) : Bool :=
  if h.dirOf k = 4 ∨ h.ddr k then look h.pinIn (4 * k + i) else decide (i = 0) && h.pad k

/-- A source wire other than a track or a long line. -/
def Hitch.base (h : Hitch) (e : FabricEnv) (w : Nat) : Bool :=
  match wCLASS w with
  | 0 => if e.holds (wCELL w / 256) then false else if wSUB w = 0 then look h.o (wCELL w) else look h.q (wCELL w)
  | 4 => h.pinSrc (wPIN w) (wSUB w)
  | 5 => e.port (wPORT w)
  | 6 => if wSUB w < 4 then h.fclk (wSUB w) else e.treeOn (wSUB w - 8) && (h.treeOf (wSUB w - 8)).out
  | _ => false

/-- R318, R335: a driver of a long line is enabled. -/
def Hitch.drives (h : Hitch) (e : FabricEnv) (d : Nat × Option Nat) : Bool :=
  !(wCLASS d.1 == 0 && e.holds (wCELL d.1 / 256)) && (match d.2 with | some en => h.base e en | none => true)

/-- The enabled drivers of long line n. -/
def Hitch.enabled (h : Hitch) (e : FabricEnv) (n : Nat) : List (Nat × Option Nat) :=
  if h.off.contains n then [] else (look h.conns (0x600000 + n)).filter (h.drives e)

/-- R318, R319: what a long line reads: 0 with no driver enabled, a free value with more than one. -/
def Hitch.line (h : Hitch) (e : FabricEnv) (n : Nat) : Bool :=
  match h.enabled e n with
  | [] => false
  | [d] => h.base e d.1
  | _ => e.wild n

/-- R318: the source of a sink other than a long line. -/
def Hitch.feeds (h : Hitch) (w : Nat) : Option Nat := match look h.conns w with | d :: _ => some d.1 | [] => none

/-- What a source wire carries. -/
def Hitch.src (h : Hitch) (e : FabricEnv) (w : Nat) : Bool :=
  match wCLASS w with
  | 2 => (match h.feeds w with | some b => h.base e b | none => false)
  | 3 => h.line e (bits w 9 0)
  | _ => h.base e w

/-- R318: what a sink reads; 0 without a source. -/
def Hitch.sink (h : Hitch) (e : FabricEnv) (w : Nat) : Bool := match h.feeds w with | some v => h.src e v | none => false

/-- The wire ID of a cell's input, a pin's wire and a port signal (R316). -/
def cellWire (c sub : Nat) : Nat := 2 ^ 21 + 64 * c + sub
def pinWire (k sub : Nat) : Nat := 4 * 2 ^ 21 + 64 * k + sub
def portWire (p : Nat) : Nat := 5 * 2 ^ 21 + p

/-- A clock sink rises, or falls (R314, R329). -/
def Hitch.rises (h : Hitch) (e : FabricEnv) (w : Nat) : Bool := !look h.clks w && h.sink e w
def Hitch.falls (h : Hitch) (e : FabricEnv) (w : Nat) : Bool := look h.clks w && !h.sink e w

/-! ### Cells (R314, R315) -/

def Hitch.modeOf (h : Hitch) (c : Nat) : Nat := bits (look h.cells c).toNat 20 19

/-- D·8 + C·4 + B·2 + A of a cell. -/
def Hitch.index (h : Hitch) (e : FabricEnv) (c : Nat) : Nat :=
  (List.range 4).foldl (fun n i => n + ofBool (h.sink e (cellWire c i)) * 2 ^ i) 0

/-- The cell whose CLK, CE and address a cell uses: the even one of a pair. -/
def Hitch.lead (h : Hitch) (c : Nat) : Nat := if 2 ≤ h.modeOf c then c / 2 * 2 else c

/-- R315: the place in RAM that a cell's O reads. -/
def Hitch.ramKey (h : Hitch) (e : FabricEnv) (c : Nat) : Nat :=
  let m := h.lead c
  if h.modeOf c = 2 then 32 * m + h.index e m + 16 * ofBool (h.sink e (cellWire (m + 1) 0)) else 32 * c + h.index e m

/-- A RAM bit; one that nothing has written is undefined (R315). -/
def Hitch.ramBit (h : Hitch) (k : Nat) : Bool := match look h.ram k with | some b => b | none => Config.freeRam h.ramGen k

/-- R314, R315: O of a cell. -/
def Hitch.cellO (h : Hitch) (e : FabricEnv) (c : Nat) : Bool :=
  if h.modeOf c = 0 then (look h.cells c).getLsbD (h.index e c) else h.ramBit (h.ramKey e c)

/-- R314: an edge on which a cell's flip-flop and RAM act. -/
def Hitch.active (h : Hitch) (e : FabricEnv) (c : Nat) : Bool :=
  let w := cellWire (h.lead c) 4
  !e.holds (c / 256) && (if (look h.cells c).getLsbD 17 then h.falls e w else h.rises e w)

/-- R314, R315, R334, R335: Q of a cell after a moment in which the flip-flops run, or are held. -/
def Hitch.nextQ (h : Hitch) (e : FabricEnv) (run : Bool) (c : Nat) : Bool :=
  if !run || e.holds (c / 256) then h.ffInit c
  else if h.active e c && !(h.modeOf c == 0 && (look h.cells c).getLsbD 18 && !h.sink e (cellWire c 5)) then look h.o c
  else look h.q c

/-- R315: the RAM bits that a cell writes at an active edge with CE = 1. -/
def Hitch.ramWrites (h : Hitch) (e : FabricEnv) (c : Nat) : List (Nat × Bool) :=
  let m := h.modeOf c
  if m = 0 ∨ (2 ≤ m ∧ c % 2 = 1) ∨ !(h.active e c && h.sink e (cellWire c 5)) then []
  else if m = 3 then [(h.ramKey e c, h.sink e (cellWire c 6)), (h.ramKey e (c + 1), h.sink e (cellWire (c + 1) 6))]
  else [(h.ramKey e c, h.sink e (cellWire c 6))]

/-! ### Pins (R329, R330) -/

/-- What PCLK captures into the IN wires of a pin. -/
def Hitch.pinCapture (h : Hitch) (e : FabricEnv) (k : Nat) : List (Nat × Bool) :=
  let w := pinWire k 9
  if h.dirOf k = 4 then (if h.rises e w then (List.range 4).map (fun i => (4 * k + i, e.wild (2 ^ 12 + 4 * k + i))) else [])
  else if h.ddr k then
    (if h.rises e w then [(4 * k, h.pad k)] else if h.falls e w then [(4 * k + 1, h.pad k)] else [])
  else []

/-- What PCLK captures from the OUT wires of a pin. -/
def Hitch.pinLaunch (h : Hitch) (e : FabricEnv) (k : Nat) : List (Nat × Bool) :=
  let w := pinWire k 9
  if h.dirOf k = 5 then (if h.rises e w then (List.range 4).map (fun i => (4 * k + i, h.sink e (pinWire k (4 + i)))) else [])
  else if h.ddr k then
    (if h.rises e w then [(4 * k, h.sink e (pinWire k 4))] else if h.falls e w then [(4 * k + 1, h.sink e (pinWire k 5))] else [])
  else []

/-- The bit that a pin sends now: OUT0 itself; with DDR OUT0 while PCLK is high and OUT1 while it is low; of an LVDS pair the first
bit of each half period. -/
def Hitch.pinLevel (h : Hitch) (e : FabricEnv) (k : Nat) : Bool :=
  let hi := h.sink e (pinWire k 9)
  if h.dirOf k = 5 then look h.pinOut (4 * k + if hi then 0 else 2)
  else if h.ddr k then look h.pinOut (4 * k + if hi then 0 else 1)
  else h.sink e (pinWire k 4)

/-- R329 to R331: what the fabric drives on a pin. -/
def Hitch.pinDrive (h : Hitch) (e : FabricEnv) (k : Nat) : Option Bool :=
  let d := h.dirOf k
  if !e.released (k / 32) then none
  else if k % 2 = 1 ∧ h.dirOf (k - 1) = 5 then some (!h.pinLevel e (k - 1))
  else if d = 2 ∨ d = 5 ∨ (d = 3 ∧ h.sink e (pinWire k 8)) then some (h.pinLevel e k)
  else none

/-! ### Settling -/

/-- One moment: every cell, RAM bit, flip-flop and pin follows what the wires carried before it. -/
def fabricMoment (e : FabricEnv) (run : Bool) (h : Hitch) : Hitch :=
  let cs := h.cells.map (·.1)
  let ks := h.pins.map (·.1)
  { h with
    q := cs.foldl (fun l c => upd l c (h.nextQ e run c)) h.q
    o := cs.foldl (fun l c => upd l c (h.cellO e c)) h.o
    ram := if run then (cs.flatMap (h.ramWrites e)).foldl (fun l p => upd l p.1 (some p.2)) h.ram else h.ram
    pinIn := if run then (ks.flatMap (h.pinCapture e)).foldl (fun l p => upd l p.1 p.2) h.pinIn else h.pinIn
    pinOut := if run then (ks.flatMap (h.pinLaunch e)).foldl (fun l p => upd l p.1 p.2) h.pinOut else h.pinOut
    drv := (ks ++ ks.map (· + 1)).foldl (fun l k => upd l k (h.pinDrive e k)) h.drv
    clks := ((h.conns.map (·.1)).filter (fun w => wireRole w == some .clock)).foldl (fun l w => upd l w (h.sink e w)) h.clks }

/-- Moments until nothing changes, or the fuel is spent: a ring of look-up tables never settles. -/
def fabricRun (e : FabricEnv) (run : Bool) : Nat → Hitch → Hitch
  | 0, h => h
  | n + 1, h => let h1 := fabricMoment e run h; if h1 = h then h else fabricRun e run n h1

/-- The fabric settles. -/
def settleFabric (e : FabricEnv) (run : Bool) (h : Hitch) : Hitch := fabricRun e run (2 * h.cells.length + 8) h

/-! ### The fabric's surroundings -/

/-- R324 to R328, R549: the source signals of the ports. -/
def State.portSource (s : State) (p : Nat) : Bool :=
  let n := (p - 0x2000) / 0x400
  let o := (p - 0x2000) % 0x400
  if 0x800 ≤ p ∧ p < 0x800 + 1536 then s.ht.hpo.getLsbD (p - 0x800)
  else if p = 0x1002 then s.ht.inTgl
  else if p = 0x1003 then s.ht.outTgl
  else if 0x1010 ≤ p ∧ p < 0x1018 then bit s.ht.hpStride (p - 0x1010)
  else if p = 0x1102 then s.on Reg.HT_CTL_HITCH_GO && decide (s.ht.toks.length < 16)
  else if 0x2000 ≤ p ∧ p < 0x3000 then
    let c : SCell := (look s.ht.rx n).headD ⟨0, 0, 0⟩
    if o = 1 then s.on Reg.HT_CTL_HITCH_GO && !(look s.ht.rx n).isEmpty
    else if 0x10 ≤ o ∧ o < 0x14 then bit c.stream (o - 0x10)
    else if 0x18 ≤ o ∧ o < 0x1C then bit c.nb (o - 0x18)
    else if 0x80 ≤ o ∧ o < 0xF0 then c.data.getLsbD (o - 0x80)
    else if o = 0x202 then s.on Reg.HT_CTL_HITCH_GO && (!s.isUp (16 + n) || decide ((look s.ht.tx n).length < 32))
    else false
  else false

/-- What the fabric sees now. -/
def State.fabric (s : State) : FabricEnv :=
  { held := if s.on Reg.HT_PR_HOLD then some (s.get Reg.HT_PR_REGION) else none
    treeOn := fun t => bit (s.get (Reg.HT_TREE_TREE t)) 19
    released := s.bankReleased
    port := s.portSource
    wild := Config.freeWire s.free }

/-- R319: more than one driver of long line n is enabled. -/
def State.contends (s : State) (n : Nat) : Bool := decide (1 < (s.ht.enabled s.fabric n).length)

/-! ### The levels at the pins (R331, R334, R337) -/

/-- What a pin of the device does: driven, or high-impedance with a weak pull. -/
inductive PinState where
  | drive (b : Bool)
  | z (pull : Nat)      -- 0 none, 1 pull-down, 2 pull-up, 3 keeper
deriving DecidableEq, Repr

/-- R329, R331, R334, R337, R536: a Hitch pin: its boundary cells' value where boundary scan holds it (none under HIGHZ), high impedance with its weak pull-down in a bank that is
not released, else as configured. -/
def State.pinState (s : State) (k : Nat) : PinState :=
  if s.ht.extest then
    if s.ht.bscanOe.getLsbD k && s.chip.jtagIr != 3 then .drive (s.ht.bscan.getLsbD k) else .z 0
  else if !s.bankReleased (k / 32) then .z 1
  else match look s.ht.drv k with
    | some b => .drive b
    | none => .z (bits (s.ht.pinWord k) 7 6)

end Sys2Proof.Machine
end

