-- ==== Sys2Proof/Machine/Hitch.lean ====
section
/-! DEFINITION. The Hitch fabric's release, its ports, its clocks' registers and its commands (R319 to R337, R414, R549). -/
namespace Sys2Proof.Machine

def State.hitchGo (s : State) : Bool := s.on Reg.HT_CTL_HITCH_GO

/-- R334, R549: HITCH_GO clears: flip-flops held, ports emptied, HPO, HP_STRIDE and the toggles back to 0. -/
def State.hitchHold (s : State) : State :=
  let h := s.ht.hold
  let s1 := ({ s with ht := { h with
    o := [], ram := [], clks := [], drv := [], pinIn := [], pinOut := [], fcnt := [], fdiv := [], tree := [], trees := [], off := []
    hpi := 0, hpo := 0, hpStride := 0, outTgl := false, inTgl := false, ready := none, toks := [], rx := [], tx := [] } }
      : State).clr Reg.HT_CTL_HITCH_GO
  ((((List.range 4).foldl (fun s n => s.put (Reg.HT_STRM_W1_RX_OCC n) 0) s1).tkCount).put Reg.HT_HP_STAT_LAST 0).hitchBanks

/-- R331, R334: HITCH_GO is set: flip-flops start at FF_INIT with undefined RAM, banks in range may be released, the others set
BANK_VFAULT; every wire settles before a clock edge counts. -/
def State.hitchRelease (s : State) : State :=
  let s1 := (({ s with ht := { s.ht.hold with ramGen := s.free } } : State).spend).set1 Reg.HT_CTL_HITCH_GO
  let bad := (List.range 8).foldl (fun n b => n + ofBool (!s.railOk b) * 2 ^ b) 0
  let s2 := (s1.put Reg.HT_STAT_BANK_VFAULT (s1.get Reg.HT_STAT_BANK_VFAULT ||| bad)).hitchBanks
  { s2 with ht := settleFabric s2.fabric false s2.ht }

def State.hitchGoWrite (v : Bool) (s : State) : State :=
  if v then (if s.hitchGo then s else s.hitchRelease) else (if s.hitchGo then s.hitchHold else s)

def execHitchGoWrite (v : Bool) (s : State) : Out := .next (s.hitchGoWrite v)

/-- R336: a write of QSTOP. -/
def State.qstop (v : Bool) (s : State) : State := (s.put Reg.HT_CTL_QSTOP (ofBool v)).hitchBanks

def execQstopWrite (v : Bool) (s : State) : Out := .next (s.qstop v)

/-- R331: the supply of a bank changes to a voltage in mV. -/
def State.railChange (b mv : Nat) (s : State) : State :=
  ({ s with ht := { s.ht with rail := upd s.ht.rail b mv } } : State).hitchBanks

def execVddioHtChange (b : Fin 8) (mv : Nat) (s : State) : Out := .next (s.railChange b mv)

/-! ### Partial configuration (R335, R414) -/

/-- R335: a region is held; while HOLD is 1 a further write of REGION is ignored. -/
def State.prHold (r : Nat) (s : State) : State :=
  if s.on Reg.HT_PR_HOLD then s
  else
    let s1 := ((s.put Reg.HT_PR_REGION r).set1 Reg.HT_PR_HOLD).set1 Reg.HT_STAT_PR_HELD
    { s1 with ht := s1.ht.holdRegion r }

def execPrHold (r : Fin 128) (s : State) : Out := .next (s.prHold r)

/-- R335: HOLD clears: the region starts with its new FF_INIT values. -/
def State.prRelease (s : State) : State :=
  if s.on Reg.HT_PR_HOLD then
    let r := s.get Reg.HT_PR_REGION
    let s1 := (s.clr Reg.HT_PR_HOLD).clr Reg.HT_STAT_PR_HELD
    { s1 with ht := s1.ht.holdRegion r }
  else s

def execPrRelease (s : State) : Out := .next s.prRelease

/-- The sink lies in region r, or the source is a cell output of r. -/
def connOf (q : HRec) (r : Nat) : Bool :=
  ([1, 2, 4, 5].contains (wCLASS q.a) && attachedTo q.a r) || (wCLASS q.b == 0 && wCELL q.b / 256 == r)

/-- R335: a record of a partial configuration that is refused: outside region r, against R317, or a second source of a
sink that is no long line, among those the region keeps (`h`) and those before it (`before`). -/
def partialBad (h : Hitch) (nTeams r : Nat) (all before : List HRec) (q : HRec) : Bool :=
  match q.type with
  | 0x01 => !(recFormat nTeams all q && q.a / 256 == r)
  | 0x02 =>
    !(recFormat nTeams all q && recDir all q && connOf q r) ||
      (wCLASS q.a != 3 && (before.any (fun p => p.type == 2 && p.a == q.a) ||
        (look h.conns q.a).any (fun d => !(d.1 == q.b) && !(wCLASS q.a == 1 && wCELL q.a / 256 == r))))
  | _ => true

/-- The index of the first refused record. -/
def firstBad (h : Hitch) (nTeams r : Nat) (all : List HRec) : Nat → List HRec → List HRec → Option Nat
  | _, _, [] => none
  | i, before, q :: qs => if partialBad h nTeams r all before q then some i else firstBad h nTeams r all (i + 1) (before ++ [q]) qs

/-- What a partial configuration leaves of region r: cells without a record and connections into r and from its cells go. -/
def Hitch.clearRegion (h : Hitch) (r : Nat) : Hitch :=
  { h with cells := h.cells.filter (fun p => p.1 / 256 != r)
           conns := (h.conns.filter (fun p => !(wCLASS p.1 == 1 && wCELL p.1 / 256 == r) && !(wCLASS p.1 == 2 && wREGION p.1 == r))).foldl
             (fun l p => upd l p.1 (p.2.filter (fun d => !(wCLASS d.1 == 0 && wCELL d.1 / 256 == r)))) [] }

/-- R414: the transfer of the started HT_PARTIAL is complete. -/
def State.partialEnd (dma : HostDma) (d : BitVec 512) (s : State) : State × Resp :=
  match s.dmaBad dma with
  | some r => (s, r)
  | none =>
    let r := fieldOf d 8 1
    let n := fieldOf d 12 4
    let rs := hRecs n ((dma.data ++ leBytes (16 * n - dma.data.length) 0).take (16 * n))
    let h := s.ht.clearRegion r
    match firstBad h s.nTeams r rs 0 [] rs with
    | some i => (s, errResp 1 5 i (i / 65536))
    | none =>
      let s1 := s.prHold r
      let s2 : State := { s1 with ht := rs.foldl Hitch.apply (s1.ht.clearRegion r) }
      (s2.prRelease, okResp)

/-- The started HT_PARTIAL ends; a reset of the endpoint has abandoned its transfer (R382). -/
def State.partialPoll (dma : HostDma) (c : Taken) (s : State) : Option (State × Resp) :=
  some (if c.cut then (s, dmaCut) else s.partialEnd dma c.desc)

def execHtPartial (dma : HostDma) (s : State) : Out :=
  .next (s.cmdLong 3 0x0801 (fun _ s => (s, 0, none)) (State.partialPoll dma))

/-! ### Contention (R319) -/

/-- R319: more than one driver of a long line is enabled: the monitor disables every driver of it. -/
def State.contend (line : Nat) (s : State) : State :=
  if s.hitchGo && s.contends line then
    let first := !s.on Reg.HT_CONT_VALID
    let s1 := (({ s with ht := { s.ht with off := s.ht.off ++ [line] } } : State).set1 Reg.HT_STAT_CONTENTION).sat Reg.HT_CONT_COUNT 1
    if first then
      let s2 := (s1.set1 Reg.HT_CONT_VALID).put Reg.HT_CONT_LINE line
      let n := s2.get Reg.HT_CONT_COUNT
      (s2.groomRec 3 4 0x1A (argOf line n)).postEvent 3 ⟨0x000D, 4, packBytes [(16, 2, line), (18, 2, n)]⟩
    else s1
  else s

def execContentionDetect (line : Fin 1024) (s : State) : Out := .next (s.contend line)

/-- R319: REARM enables every disabled driver again. -/
def State.rearm (s : State) : State := { s with ht := { s.ht with off := [] } }

def execRearm (s : State) : Out := .next s.rearm

/-! ### Hitch Port (R325, R326) -/

/-- R325: the HPO wires take the output set at one HPCLK edge. -/
def State.hpoUpdate (s : State) : State :=
  match s.ht.ready with
  | some (n, v) =>
    if s.hitchGo then
      ({ s with ht := { s.ht with hpo := v, hpStride := n % 256, outTgl := !s.ht.outTgl, ready := none } } : State).put
        Reg.HT_HP_STAT_LAST n
    else s
  | none => s

def execHpoUpdate (s : State) : Out := .next s.hpoUpdate

/-- R326, R549: HP_LOAD copies every HPI sink into HPI_HELD. -/
def State.hpLoad (v : BitVec 1536) (s : State) : State := if s.hitchGo then { s with ht := { s.ht with hpi := v } } else s

def execHpLoad (v : BitVec 1536) (s : State) : Out := .next (s.hpLoad v)

/-! ### Token and stream ports (R327, R328, R549) -/

def State.tokenTake (task opnd : Nat) (data : W24) (s : State) : State :=
  if s.hitchGo && decide (s.ht.toks.length < 16) then
    ({ s with ht := { s.ht with toks := s.ht.toks ++ [⟨task, opnd, data⟩] } } : State).tkCount
  else s

def execTokenPortTake (task : BitVec 5) (opnd : BitVec 3) (data : BitVec 24) (s : State) : Out :=
  .next (s.tokenTake task.toNat opnd.toNat data)

/-- R328: the head cell of a receive stream port is taken. -/
def State.rxTake (n : Nat) (s : State) : State :=
  match look s.ht.rx n with
  | _ :: rest =>
    if s.hitchGo then
      ({ s with ht := { s.ht with rx := upd s.ht.rx n rest } } : State).put (Reg.HT_STRM_W1_RX_OCC n) rest.length
    else s
  | [] => s

def execStreamRxTake (n : Fin 4) (s : State) : Out := .next (s.rxTake n)

/-- R328: a transmit stream port takes a cell, or discards it while the link is not UP or for NB of 14 or 15. -/
def State.txTake (n stream nb : Nat) (data : BitVec 112) (s : State) : State :=
  if !s.hitchGo then s
  else if !s.isUp (16 + n) then s.sat (Reg.HT_STRM_W0_TX_DROP n) 1
  else if 32 ≤ (look s.ht.tx n).length then s
  else if 14 ≤ nb then s.sat (Reg.HT_STRM_W1_TX_BAD n) 1
  else { s with ht := { s.ht with tx := upd s.ht.tx n (look s.ht.tx n ++ [⟨stream, nb, data⟩]) } }

def execStreamTxTake (n : Fin 4) (stream nb : BitVec 4) (data : BitVec 112) (s : State) : Out :=
  .next (s.txTake n stream.toNat nb.toNat data)

/-! ### Clocks (R321 to R323) -/

/-- R322, R323: TREE of tree t is written; a change of SEL on a running tree keeps its output low until it has switched. -/
def State.treeWrite (s : State) (t v : Nat) : State :=
  let s1 := s.put (Reg.HT_TREE_TREE t) v
  if (s.ht.treeOf t).sel != bits v 10 10 && bit v 19 then
    (if look s.ht.trees t = 0 then { s1 with ht := { s1.ht with trees := upd s1.ht.trees t 1 } } else s1)
  else { s1 with ht := (s1.ht.setTree t { s1.ht.treeOf t with sel := bits v 10 10 }).noSwitch t }

/-- R323: the tree follows its new source. -/
def State.treeDone (s : State) (t : Nat) : State :=
  { s with ht := (s.ht.setTree t { s.ht.treeOf t with sel := s.get (Reg.HT_TREE_TREE t) / 2 ^ 10 % 2 }).noSwitch t }

def execTreeSwitch (t : Fin 8) (s : State) : Out := .next (s.treeDone t)

/-- R323: the tree switches at the 4,096th cycle and sets STOPPED. -/
def State.treeForce (t : Nat) (s : State) : State :=
  if look s.ht.trees t = 0 then s else (s.treeDone t).set1 (Reg.HT_TREE_STOPPED t)

def execTreeSwitchTimeout (t : Fin 8) (s : State) : Out := .next (s.treeForce t)

/-- R321: an output above 400 MHz sets FCLK_ERR. -/
def State.fclkErr (s : State) : State := s.set1If ((List.range 4).any s.fclkFast) Reg.HT_STAT_FCLK_ERR

/-- R321: D of FCLK k; an output above 400 MHz stays low and sets FCLK_ERR. -/
def State.fclkWrite (s : State) (k d : Nat) : State := (s.put (Reg.HT_FCLK_D k) d).fclkErr

/-- R414: HT_CLOCK. -/
def State.htClock (d : BitVec 512) (s : State) : State × Resp :=
  let k := fieldOf d 8 1
  let i := fieldOf d 9 1
  let v := fieldOf d 10 2
  let t := s.get (Reg.HT_TREE_TREE i)
  if k = 0 then (if 2 ≤ v ∧ v ≤ 128 then (s.fclkWrite i v, okResp) else (s, badDesc 5 10))
  else if k = 1 then (if v ≤ 1 then (s.treeWrite i (t - bits t 10 10 * 2 ^ 10 + v * 2 ^ 10), okResp) else (s, badDesc 5 10))
  else if k = 2 then (if v ≤ 255 then (s.treeWrite i (t - bits t 18 11 * 2 ^ 11 + v * 2 ^ 11), okResp) else (s, badDesc 5 10))
  else (if v ≤ 1 then (s.treeWrite i (t - bits t 19 19 * 2 ^ 19 + v * 2 ^ 19), okResp) else (s, badDesc 5 10))

def execHtClock (s : State) : Out := .next (s.cmd 3 0x0803 State.htClock)

/-- HT_CTL: QSTOP and REARM. -/
def State.htCtl (d : BitVec 512) (s : State) : State × Resp :=
  let s1 := if fieldOf d 8 1 = 255 then s else s.qstop (fieldOf d 8 1 == 1)
  (if fieldOf d 9 1 = 1 then s1.rearm else s1, okResp)

def execHtCtl (s : State) : Out := .next (s.cmd 3 0x0802 State.htCtl)

/-! ### Boundary scan (R337) -/

/-- R337, R537: EXTEST, with the values of its output cells and output-enable cells, takes the Hitch pins in IDLE and QUARANTINE only. -/
def State.extest (v oe : BitVec 256) (s : State) : State :=
  if s.mode = mIdle ∨ s.mode = mQuarantine then { s with ht := { s.ht with extest := true, bscan := v, bscanOe := oe } }
  else ({ s with ht := { s.ht with bscan := v, bscanOe := oe } } : State).set1 Reg.HT_STAT_EXTEST_REFUSED

def execExtest (v oe : BitVec 256) (s : State) : Out :=
  .next { s.extest v oe with chip := { s.chip with jtagIr := 0 } }

end Sys2Proof.Machine
end

