-- ==== Sys2Proof/Machine/Link.lean ====
section
/-! DEFINITION. The link layer of lead and elastic links (chapter 9, R231 to R260): header blocks, cells, frames sent and
received, replay, credits, packets between chips.  Links are numbered 0 to 15 lead, 16 to 19 elastic. -/
namespace Sys2Proof.Machine

/-! ### Header blocks and checks (R233, R234, R238) -/

/-- FCRC over the content of a frame, each cell's bytes lowest first. -/
def frameCrc (cells : List (BitVec 128)) : Word := crc32 (cells.flatMap (fun c => leBytes 16 c.toNat))

/-- R233: a header block. -/
def headerBlock (fseq lpos : Nat) (subreq : Bool) (subpos info : Nat) : W64 :=
  let w := packBits [(0, 8, 0x4B), (8, 8, fseq), (16, 3, lpos), (19, 1, ofBool subreq), (20, 3, subpos), (24, 32, info)]
  BitVec.ofNat 64 (w + 2 ^ 56 * crc8 56 w 255)

def hFSEQ (h : W64) : Nat := bits h.toNat 15 8
def hLPOS (h : W64) : Nat := bits h.toNat 18 16
def hSUBREQ (h : W64) : Bool := bit h.toNat 19
def hSUBPOS (h : W64) : Nat := bits h.toNat 22 20
def hINFO (h : W64) : Nat := bits h.toNat 55 24

/-- A header block on its own is valid: its type, its reserved bit, its CRC (R234). -/
def headerOk (h : W64) : Bool :=
  bits h.toNat 7 0 == 0x4B && !bit h.toNat 23 && bits h.toNat 63 56 == crc8 56 h.toNat 255

/-- Two header blocks agree in FSEQ, SUBREQ and SUBPOS. -/
def headerAgree (a b : W64) : Bool := hFSEQ a == hFSEQ b && hSUBREQ a == hSUBREQ b && hSUBPOS a == hSUBPOS b

/-- R234: the header blocks that the receiver does not ignore: the valid ones, when they all agree.  One that differs from another is
ignored, and so is that other. -/
def goodHeads (hs : List W64) : List W64 :=
  let ok := hs.filter headerOk
  ok.filter (fun h => ok.all (headerAgree h))

/-! ### Kinds of blocks (R231) -/

/-- The kinds of R231. -/
inductive BlockKind where
  | data
  | header
  | filler
  | training
deriving DecidableEq, Repr

/-- R231: the kind of a block that a lane in ACTIVE receives; none for an illegal one. -/
def kindOf (b : RxBlock) : Option BlockKind :=
  if b.sync = 1 then some .data
  else if b.sync = 2 then
    match bits b.body.toNat 7 0 with
    | 0x4B => some .header
    | 0x1E => if bits b.body.toNat 63 8 = 0 then some .filler else none
    | 0xD2 => some .training
    | _ => none
  else none

/-- A block may stand where a block of kind k stands; a training block anywhere, since R222 takes it (R231). -/
def standsAs (k : BlockKind) (b : RxBlock) : Bool := kindOf b == some k || kindOf b == some .training

/-- R231, R248: the frame holds an illegal block, or a filler row on a lead link. -/
def illegalFrame (f : RxFrame) (n : Nat) : Bool :=
  !(f.heads.all (fun h => standsAs .header h.2) && f.content.all (standsAs .data) && f.filler.all (standsAs .filler))
    || (decide (n < 16) && !f.filler.isEmpty)

/-- The header blocks of the frame. -/
def headersOf (f : RxFrame) : List W64 := (f.heads.filter (fun h => kindOf h.2 == some .header)).map (·.2.body)

/-- R235: two consecutive blocks of the content stream make a cell, the first its low half. -/
def pairUp : List RxBlock → List (BitVec 128)
  | a :: b :: rest => BitVec.ofNat 128 (a.body.toNat + 2 ^ 64 * b.body.toNat) :: pairUp rest
  | _ => []

/-! ### Cells (R235) -/

def cKIND (c : BitVec 128) : Nat := bits c.toNat 122 120
def cPay (c : BitVec 128) : Flit := c.setWidth 120
def mkCell (kind : Nat) (p : Flit) : BitVec 128 := BitVec.ofNat 128 (p.toNat + kind * 2 ^ 120)
/-- The idle cell. -/
def idleCell : BitVec 128 := mkCell 1 0
def cellOfStream (c : SCell) : BitVec 128 :=
  mkCell 5 (BitVec.ofNat 120 (c.data.toNat + 2 ^ 112 * (c.nb % 16) + 2 ^ 116 * (c.stream % 16)))
def streamOfCell (c : BitVec 128) : SCell :=
  ⟨bits c.toNat 119 116, bits c.toNat 115 112, BitVec.ofNat 112 c.toNat⟩

/-- MTYPE of a message. -/
def mTYPE (m : Flit) : Nat := bits m.toNat 7 0

/-- R232: cells per frame. -/
def State.frameCells (s : State) (n : Nat) : Nat :=
  if n < 16 then 124
  else widthCells (s.get (Reg.EL_LINK_STAT_WIDTH (n - 16)))

/-- The number of header positions of a link. -/
def headCount (n : Nat) : Nat := if n < 16 then 8 else 4

/-! ### Sending (R237, R239, R243, R247) -/

/-- The cells of a packet as they cross a link. -/
def cellsOf (p : Packet) : List LCell :=
  ⟨true, isCpl p, p.head⟩ :: p.body.map (fun f => ⟨false, isCpl p, f⟩)

/-- A packet joins the queue of its virtual channel. -/
def Link.push (k : Link) (p : Packet) : Link :=
  if pVC p = 0 then { k with tx0 := k.tx0 ++ [p] } else { k with tx1 := k.tx1 ++ [p] }

/-- On a channel with no packet under way, the first waiting completion comes next, else the first packet. -/
def nextPacket (ps : List Packet) : Option (Packet × List Packet) :=
  match ps.findIdx? isCpl with
  | some i => (ps[i]?).map (fun p => (p, ps.eraseIdx i))
  | none =>
    match ps with
    | [] => none
    | p :: t => some (p, t)

/-- What a virtual channel would send next: the cells from there on of the packet under way, or else those of the next one; with
that packet, and the packets left waiting. -/
def Link.vcNext (k : Link) (vc : Nat) : List LCell × Option Packet × List Packet :=
  let (cur, going, tx) := if vc = 0 then (k.cur0, k.going0, k.tx0) else (k.cur1, k.going1, k.tx1)
  if cur = [] then
    match nextPacket tx with
    | some (p, t) => (cellsOf p, some p, t)
    | none => ([], none, tx)
  else (cur, going, tx)

/-- R247: the partner has room for one more cell of a kind. -/
def roomFor (sent peer size : Nat) : Bool := decide ((sent + 256 - peer % 256) % 256 < size)

/-- The cell of VC `vc` that may go now. -/
def Link.vcCell (k : Link) (vc : Nat) : Option LCell :=
  if (if vc = 0 then roomFor k.sentV0 k.peerV0 32 else roomFor k.sentV1 k.peerV1 32) then (k.vcNext vc).1.head? else none

/-- The link after that cell has gone. -/
def Link.vcSent (k : Link) (vc : Nat) : Link :=
  let (cells, p, tx) := k.vcNext vc
  let rest := cells.drop 1
  let going := if rest = [] then none else p
  if vc = 0 then { k with cur0 := rest, going0 := going, tx0 := tx, sentV0 := (k.sentV0 + 1) % 256, turn1 := true }
  else { k with cur1 := rest, going1 := going, tx1 := tx, sentV1 := (k.sentV1 + 1) % 256, turn1 := false }

def vcCellBits (vc : Nat) (c : LCell) : BitVec 128 :=
  mkCell (if vc = 0 then (if c.isHead then 2 else 3) else (if c.isHead then 6 else 7)) c.flit

/-- The virtual channel whose cell goes next: completions first, else by round robin. -/
def Link.vcTurn (k : Link) : Option Nat :=
  let order := if k.turn1 then [1, 0] else [0, 1]
  let compl (vc : Nat) : Bool := match k.vcCell vc with | some c => c.isCompl | none => false
  (order.find? compl).orElse (fun _ => order.find? (fun vc => (k.vcCell vc).isSome))

/-- R237, R346: the next content cell; `timed`: the frame already carries a TIME message.  The third value is the identifier
of a TIME message. -/
def State.nextCell (s : State) (n : Nat) (timed : Bool) : State × BitVec 128 × Option Nat :=
  let k := s.link n
  match k.txStatic with
  | f :: rest => (s.setLink n { k with txStatic := rest }, mkCell 0 f, none)
  | [] =>
    let msg := match k.txMsg with
      | m :: _ => roomFor k.sentM k.peerM 16 && !(timed && mTYPE m == 6)
      | [] => false
    if msg then
      match k.txMsg with
      | m :: rest =>
        (s.setLink n { k with txMsg := rest, sentM := (k.sentM + 1) % 256 }, mkCell 4 m,
          if mTYPE m = 6 then some (bits m.toNat 15 8) else none)
      | [] => (s, idleCell, none)
    else
      match k.vcTurn with
      | some vc =>
        match k.vcCell vc with
        | some c => (s.setLink n (k.vcSent vc), vcCellBits vc c, none)
        | none => (s, idleCell, none)
      | none =>
        let q := look s.ht.tx (n - 16)
        match (if n < 16 then none else q.head?) with
        | some c =>
          ({ s with ht := { s.ht with tx := upd s.ht.tx (n - 16) (q.drop 1) } }, cellOfStream c, none)
        | none => (s, idleCell, none)

/-- The content of a new frame: its cells, last first, and the identifier of its TIME message. -/
def State.fillFrame (s : State) (n : Nat) : Nat → List (BitVec 128) → Option Nat → State × List (BitVec 128) × Option Nat
  | 0, acc, id => (s, acc.reverse, id)
  | fuel + 1, acc, id =>
    let (s1, c, i) := s.nextCell n id.isSome
    s1.fillFrame n fuel (c :: acc) (id.orElse (fun _ => i))

/-- The identifier of the TIME message that a frame carries. -/
def timeOf (cells : List (BitVec 128)) : Option Nat :=
  (cells.find? (fun c => cKIND c == 4 && mTYPE (cPay c) == 6)).map (fun c => bits c.toNat 15 8)

/-- R234: INFO of header position p. -/
def State.infoOf (s : State) (n p : Nat) : Nat :=
  let k := s.link n
  match p with
  | 0 => k.lastCrc.toNat
  | 1 => k.rxLast % 256 + 256 * ofBool k.rxFail
  | 2 =>
    if n < 16 then
      match s.site (16 + n) with
      | some t => s.get (Reg.TEAM_PROG_PROG t)
      | none => 0
    else k.accS % 65536
  | 3 => k.accV0 % 256 + 2 ^ 8 * (k.accV1 % 256) + 2 ^ 16 * (k.accM % 256)
  | _ => 0

/-- The logical lane that physical lane k of a link carries. -/
def State.lanePos (s : State) (n k : Nat) : Option Nat :=
  if n < 16 then s.logical n k
  else
    let used := s.get (Reg.EL_LINK_STAT_LANES (n - 16))
    if bit used k then some ((List.range k).filter (fun i => bit used i)).length else none

/-- R210, R345: a stamp of a frame of link n, in the unit intervals of the lane that carries position 0. -/
def State.linkStamp (s : State) (n : Nat) (m : Moment) : Stamp :=
  match (linkLanes n).find? (fun l => s.lanePos n (laneNo l) == some 0) with
  | some l => s.stampOf m (128 * 2 ^ (s.lane l).rate)
  | none => s.stampOf m 128

/-- R228: INJ_ONE waits on the lane that sends header position p first. -/
def State.flipsAt (s : State) (n p : Nat) : Bool :=
  (linkLanes n).any (fun l => (s.lane l).flip && s.laneState l == lActive && s.lanePos n (laneNo l) == some p)

/-- A frame leaves with fresh header blocks (R234, R239), bit 32 of one inverted where INJ_ONE waits (R228), and its TIME
message is stamped (R260). -/
def State.sendFrame (s : State) (n : Nat) (f : LFrame) (m : Moment) : State :=
  let k := s.link n
  let heads := (List.range (headCount n)).map (fun p =>
    headerBlock f.fseq p (decide (0 < k.subLeft)) (if 0 < k.subLeft then k.subPos else 0) (s.infoOf n p) ^^^
      (if s.flipsAt n p then 0x100000000#64 else 0#64))
  let s1 := s.setLink n { k with
    lastCrc := frameCrc f.cells, outHeads := heads, outCells := f.cells, subLeft := k.subLeft - 1
    outFill := decide (16 ≤ n) && f.fseq % 4 == 0 }
  let s2 := (linkLanes n).foldl (fun s l => if s.laneState l = lActive then s.onLane l (fun v => { v with flip := false }) else s) s1
  match timeOf f.cells with
  | some id => s2.pushStamp n id (s.linkStamp n m)
  | none => s2

/-- R246: requests that waited too long for one of the 64 places are answered. -/
def State.expireForward (s : State) (n expired : Nat) : State :=
  let k := s.link n
  let gone := k.fwdWait.take expired
  match s.site (linkBlock n) with
  | none => s
  | some t =>
    let k1 := gone.foldl (fun (k : Link) p =>
      let c := p.body.length + 1
      let k := k.push (errCpl t p 1)
      if pVC p = 0 then { k with buf0 := k.buf0 - c, accV0 := (k.accV0 + c) % 256 }
      else { k with buf1 := k.buf1 - c, accV1 := (k.accV1 + c) % 256 }) { k with fwdWait := k.fwdWait.drop expired }
    s.setLink n k1

/-- R246: of the requests that have waited to cross, the oldest `stuck` have waited too long and are answered. -/
def State.expireSend (s : State) (n stuck : Nat) : State :=
  let k := s.link n
  let gone := ((k.tx0 ++ k.tx1).filter isReq).take stuck
  match s.site (linkBlock n) with
  | none => s
  | some t =>
    gone.foldl (fun s p => s.wait t (errCpl t p 1))
      (s.setLink n (gone.foldl (fun (k : Link) p => { k with tx0 := k.tx0.erase p, tx1 := if k.tx0.contains p then k.tx1 else k.tx1.erase p }) k))

/-- R251: the alignment messages of a frame. -/
def State.alignMsgs (s : State) (n : Nat) : State :=
  match s.chip.image, s.chip.n0 with
  | some i, some n0 =>
    if (s.link n).aligning then (s.say n (msgAlignId i.sys.toNat i.part n)).say n (msgAlignN0 n0 s.epoch) else s
  | _, _ => s

/-- R239: a frame start: a frame that the partner asked for again, the oldest of 64 unacknowledged frames, or a new one. -/
def State.transmit (n : Nat) (m : Moment) (expired stuck : Nat) (s0 : State) : State :=
  if !s0.isUp n then s0
  else
    let s := (s0.expireForward n expired).expireSend n stuck
    let k := s.link n
    let again : Option Nat := match k.resend with
      | some q => some q
      | none => if 64 ≤ k.kept.length then (k.kept.head?).map (·.fseq) else none
    match again with
    | some q =>
      match k.kept.findIdx? (fun f => f.fseq == q) with
      | some i =>
        match k.kept[i]? with
        | some f =>
          let next := (k.kept[i + 1]?).map (·.fseq)
          let s1 := (s.setLink n { k with resend := next }).set1If k.resend.isNone (linkErr n 14)
          (s1.sat (linkReplay n 31 16) 1).sendFrame n f m
        | none => s
      | none => s.setLink n { k with resend := none }
    | none =>
      let s1 := s.alignMsgs n
      let (s2, cells, _) := s1.fillFrame n (s.frameCells n) [] none
      let f : LFrame := ⟨k.fseq, cells⟩
      (s2.onLink n (fun k => { k with fseq := (k.fseq + 1) % 256, kept := k.kept ++ [f] })).sendFrame n f m

def execFrameTransmit (n : Fin 20) (at_ : Moment) (expired stuck : Nat) (s : State) : Out :=
  .next (s.transmit n at_ expired stuck)

/-! ### Packets from the partner (R246, R248) -/

/-- The request of a partner as the endpoint injects it: destination, target and word address from the address bits, its own
site as SRC, its own TAG. -/
def forwarded (site tag : Nat) (p : Packet) : Packet :=
  mkPacket (bits (pAddr p) 45 41 * 32 + bits (pAddr p) 40 36) (bits (pAddr p) 47 46) (pTYPE p) (pCLASS p) site 1 tag 0
    (pE2 p % 2 ^ 12) (pE1 p) (pE0 p) p.body

/-- The completion of a forwarded request, with the original source and TAG restored. -/
def restored (f : Forward) (c : Packet) : Packet :=
  mkPacket (bits f.back.toNat 9 0) (bits f.back.toNat 11 10) (pTYPE c) (pCLASS c) (pSRC c) (pSTGT c) (bits f.back.toNat 19 12)
    (pSTATUS c) (pE2 c) (pE1 c) (pE0 c) c.body

/-- The lowest forwarding tag that is free. -/
def freeTag (fs : List Forward) : Option Nat := (List.range 64).find? (fun t => fs.all (fun f => f.tag != t))

/-- The cells of a packet leave the receive buffer. -/
def Link.freeCells (k : Link) (p : Packet) (excess : Nat) : Link :=
  let c := p.body.length + 1 - excess
  if pVC p = 0 then { k with buf0 := k.buf0 - c, accV0 := (k.accV0 + c) % 256 }
  else { k with buf1 := k.buf1 - c, accV1 := (k.accV1 + c) % 256 }

/-- R246: a request is injected at the site, or waits for one of 64 places. -/
def State.forwardIn (s : State) (n t : Nat) (p : Packet) : State :=
  let k := s.link n
  match freeTag k.fwd with
  | some tag =>
    let k1 : Link := { k with fwd := k.fwd ++ [⟨tag, BitVec.ofNat 24 (p.head.toNat / 2 ^ 72)⟩] }
    (s.setLink n (k1.freeCells p 0)).wait t (forwarded t tag p)
  | none => s.setLink n { k with fwdWait := k.fwdWait ++ [p] }

/-- The oldest request that waits for a place of link n is injected, with the link otherwise as `k`. -/
def State.forwardNext (s : State) (n t : Nat) (k : Link) : State :=
  match k.fwdWait with
  | p :: rest => (s.setLink n { k with fwdWait := rest }).forwardIn n t p
  | [] => s.setLink n k

/-- R246: the completion of a forwarded request goes back over the link, and the oldest waiting request takes its place. -/
def State.forwardBack (s : State) (n t : Nat) (c : Packet) : State :=
  let k := s.link n
  match k.fwd.find? (fun f => f.tag == pTAG c) with
  | none => s
  | some f => s.forwardNext n t (({ k with fwd := k.fwd.erase f } : Link).push (restored f c))

/-- A packet has arrived over a link: `excess` of its cells lay beyond the credit.  On an elastic link only completions of the
window of R517 are expected; a request of the equipment is answered BAD_ADDRESS (DESIGN CHOICE: the spec gives none). -/
def State.packetIn (s : State) (n excess : Nat) (p : Packet) : State :=
  match s.site (linkBlock n) with
  | none => s.onLink n (·.freeCells p excess)
  | some t =>
    if 0 < excess then
      s.onLink n (fun k => let k := k.freeCells p excess; if isReq p then k.push (errCpl t p 5) else k)
    else if isReq p then
      if n < 16 then s.forwardIn n t p else s.onLink n (fun k => (k.freeCells p 0).push (errCpl t p 4))
    else (s.onLink n (·.freeCells p 0)).wait t p

/-- A cell of a dynamic packet (R235, R247, R248). -/
def State.vcIn (s : State) (n vc : Nat) (f : Flit) : State :=
  let k := s.link n
  let (rx, buf, excess) := if vc = 0 then (k.rx0, k.buf0, k.over0) else (k.rx1, k.buf1, k.over1)
  let beyond := decide (32 ≤ buf)
  let rx1 := rx ++ [f]
  let buf1 := if beyond then buf else buf + 1
  let over1 := excess + ofBool beyond
  let s1 := s.set1If beyond (linkErr n 6)
  match rx1 with
  | [] => s
  | h :: body =>
    let p := withVC ⟨h, body⟩ vc
    let done := body.length == pLEN p
    let k1 := if vc = 0 then { k with rx0 := if done then [] else rx1, buf0 := buf1, over0 := if done then 0 else over1 }
      else { k with rx1 := if done then [] else rx1, buf1 := buf1, over1 := if done then 0 else over1 }
    let s2 := s1.setLink n k1
    if done then s2.packetIn n over1 p else s2

/-! ### Receiving (R238, R244, R248, R249) -/

/-- R249, R248: a static flit enters the lead-link receive queue while QRX_EN is 1. -/
def State.staticIn (s : State) (n : Nat) (f : Flit) : State :=
  if !s.on (Reg.LD_LINK_CTL_QRX_EN n) then s
  else
    let k := s.link n
    match s.site (16 + n) with
    | none => s
    | some t =>
      if 256 ≤ k.qrx.length then
        ((s.set1 (linkErr n 10)).spoil (s.team t).stride.toNat).checkReport t (160 + 10)
      else
        let len := k.qrx.length + 1
        let s1 := s.setLink n { k with qrx := k.qrx ++ [f] }
        let s2 := if s.get (Reg.LD_LINK_QOCC_PEAK n) < len then s1.put (Reg.LD_LINK_QOCC_PEAK n) len else s1
        s2.qboundLd n t

/-- R248: a message cell: kept for its handling, discarded for an unknown MTYPE, absorbed beyond the credit. -/
def State.msgIn (s : State) (n stamp : Nat) (m : Flit) : State :=
  let k := s.link n
  if 16 ≤ k.rxMsg.length then s.set1 (linkErr n 6)
  else if 1 ≤ mTYPE m ∧ mTYPE m ≤ 7 then s.setLink n { k with rxMsg := k.rxMsg ++ [(stamp, m)] }
  else (s.setLink n { k with accM := (k.accM + 1) % 256 }).set1 (linkErr n 7)

/-- R328, R549: a stream cell enters the receive stream port, or is discarded and counted. -/
def State.streamIn (s : State) (n : Nat) (c : SCell) : State :=
  let e := n - 16
  let q := look s.ht.rx e
  if !s.on Reg.HT_CTL_HITCH_GO || decide (32 ≤ q.length) then s.sat (Reg.HT_STRM_W0_RX_DROP e) 1
  else
    (({ s with ht := { s.ht with rx := upd s.ht.rx e (q ++ [c]) } } : State).put (Reg.HT_STRM_W1_RX_OCC e) (q.length + 1)).onLink n
      (fun k => { k with accS := (k.accS + 1) % 65536 })

/-- One content cell is passed on. -/
def State.cellIn (s : State) (n stamp : Nat) (c : BitVec 128) : State :=
  if bits c.toNat 127 123 ≠ 0 then s.set1 (linkErr n 4)
  else
    match cKIND c with
    | 0 => if n < 16 then s.staticIn n (cPay c) else s.set1 (linkErr n 4)
    | 1 => s
    | 4 => s.msgIn n stamp (cPay c)
    | 5 => if n < 16 then s.set1 (linkErr n 4) else s.streamIn n (streamOfCell c)
    | 2 => s.vcIn n 0 (cPay c)
    | 3 => s.vcIn n 0 (cPay c)
    | _ => s.vcIn n 1 (cPay c)

/-- The held frame's FCRC is right: its content is passed on. -/
def State.acceptFrame (s : State) (n : Nat) (f : LFrame) : State :=
  let stamp := (s.link n).heldAt
  f.cells.foldl (fun s c => s.cellIn n stamp c)
    (s.onLink n (fun k => { k with rxLast := f.fseq, rxHeld := none, rxFails := 0 }))

/-- R238, R240: the frame after the last accepted one fails. -/
def State.failFrame (s : State) (n : Nat) (flag : Option Nat) : State :=
  let k := s.link n
  let s0 := match flag with | some b => s.set1 (linkErr n b) | none => s
  let s1 := (s0.setLink n { k with rxHeld := none, rxFail := true, rxFails := k.rxFails + 1 }).sat (linkReplay n 15 0) 1
  if k.rxFails + 1 = 8 then
    (s1.set1 (linkErr n 8)).groomRec 1 3 0x23 (argOf (linkClass n + 256 * linkNo n) ((k.rxLast + 1) % 256))
  else s1

/-- R239, R248: ACKSEQ and NAK of a valid header: frames it covers leave the store; NAK asks for the frames after it. -/
def State.ackIn (s : State) (n ack : Nat) (nak : Bool) : State :=
  let k := s.link n
  let oldest := match k.kept.head? with | some f => f.fseq | none => k.fseq
  let dist := (ack + 1 + 256 - oldest % 256) % 256
  if k.kept.length < dist then s.set1 (linkErr n 5)
  else
    let kept := k.kept.drop dist
    let resend := if nak then (kept.head?).map (·.fseq)
      else match k.resend with
        | some q => if kept.any (fun f => f.fseq == q) then some q else none
        | none => none
    s.setLink n { k with kept := kept, resend := resend }

/-- R234, R242, R250: what a frame's valid header blocks say. -/
def State.headIn (s : State) (n : Nat) (h : W64) : State :=
  let i := hINFO h
  match hLPOS h with
  | 1 => s.ackIn n (i % 256) (bit i 8)
  | 2 =>
    if n < 16 then
      let s1 := s.wr (Adr.LD_LINK_PROG n) (BitVec.ofNat 32 i)
      match s.site (16 + n) with
      | some t => s1.onTeam t (fun m => { m with hat := Tab.set (fun _ => 0#32) m.hat 4 (BitVec.ofNat 32 i) })
      | none => s1
    else s.onLink n (fun k => { k with peerS := i % 65536 })
  | 3 => s.onLink n (fun k => { k with peerV0 := bits i 7 0, peerV1 := bits i 15 8, peerM := bits i 23 16 })
  | _ => s

/-- R242: a valid header with SUBREQ makes the chip substitute too, once, while its spare is in STANDBY. -/
def State.subReqIn (s : State) (n : Nat) (h : W64) : State :=
  if n < 16 && hSUBREQ h && s.spareReady n then s.substitute n (hSUBPOS h) else s

/-! #### The receive buffers of an elastic link (R244) -/

/-- The lanes of an elastic link that are in use. -/
def State.usedLanes (s : State) (n : Nat) : List Nat :=
  (linkLanes n).filter (fun l => bit (s.get (Reg.EL_LINK_STAT_LANES (n - 16))) (laneNo l))

/-- A buffer of 16 blocks that has filled by `drift` overflows or runs empty. -/
def slips (fill : Nat) (drift : Int) : Bool := decide ((fill : Int) + drift ≤ 0) || decide (16 < (fill : Int) + drift)

/-- What a buffer holds after a drift: one that slipped is centred again (DESIGN CHOICE: the spec does not say). -/
def refilled (fill : Nat) (drift : Int) : Nat := if slips fill drift then 8 else ((fill : Int) + drift).toNat

/-- R244: some buffer of an elastic link slips. -/
def State.slipIn (s : State) (n : Nat) (drift : Int) : Bool :=
  decide (16 ≤ n) && (s.usedLanes n).any (fun l => slips (s.lane l).fill drift)

/-- R244: the buffers of an elastic link fill by `drift` blocks, and a filler row is deleted or written twice: one row counts once. -/
def State.fillIn (s : State) (n : Nat) (row : Bool) (drift : Int) : State :=
  if n < 16 then s
  else
    let ls := s.usedLanes n
    let s1 := ls.foldl (fun s l => s.onLane l (fun v => { v with fill := refilled v.fill drift })) (s.set1If (s.slipIn n drift) (linkErr n 15))
    if row then
      let del := ls.any (fun l => decide (8 < (s1.lane l).fill))
      let dup := ls.any (fun l => decide ((s1.lane l).fill < 8))
      let s2 := ls.foldl (fun s l => s.onLane l (fun v => { v with
        fill := if 8 < v.fill then v.fill - 1 else if v.fill < 8 then v.fill + 1 else 8 })) s1
      let s3 := if del then s2.sat (Reg.EL_LINK_FILL_DELETED (n - 16)) 1 else s2
      if dup then s3.sat (Reg.EL_LINK_FILL_DUPLICATED (n - 16)) 1 else s3
    else s1

/-- R222: a header block on a lane ends a row of training blocks there. -/
def State.headLanes (s : State) (n : Nat) (f : RxFrame) : State :=
  (f.heads.filter (fun h => kindOf h.2 == some .header)).foldl (fun s h =>
    match (linkLanes n)[h.1]? with
    | some l => s.onLane l (fun v => { v with train := 0 })
    | none => s) s

/-- R238: what becomes of the frame held and of the frame that arrives; `h0` is its header block of position 0,
`ill` the flag of an illegal block or a slipped buffer. -/
def State.frameIn (s : State) (n : Nat) (h0 : Option W64) (ill : Option Nat) (cells : List (BitVec 128)) (at_ : Nat) : State :=
  let k := s.link n
  match h0 with
  | none => if k.rxFail then s else s.failFrame n none
  | some h =>
    let crcBad := match k.rxHeld with
      | some f => frameCrc f.cells != BitVec.ofNat 32 (hINFO h)
      | none => false
    if crcBad then s.failFrame n (some 0)
    else
      let s1 := match k.rxHeld with | some f => s.acceptFrame n f | none => s
      let k1 := s1.link n
      if hFSEQ h ≠ (k1.rxLast + 1) % 256 then (if k1.rxFail then s1 else s1.failFrame n (some 2))
      else if ill.isSome then s1.failFrame n ill
      else s1.setLink n { k1 with rxHeld := some ⟨hFSEQ h, cells⟩, heldAt := at_, rxFail := false }

/-- R238: a frame arrives. -/
def State.receive (n : Nat) (f : RxFrame) (m : Moment) (s : State) : State :=
  if !s.isUp n then s
  else
    let heads := headersOf f
    let good := goodHeads heads
    let slip := s.slipIn n f.drift
    let s1 := ((s.set1If (decide (good.length < heads.length)) (linkErr n 1)).set1If (illegalFrame f n) (linkErr n 3)).fillIn n
      (!f.filler.isEmpty) f.drift
    let s2 := good.foldl (fun s h => s.headIn n h) (s1.headLanes n f)
    let s3 := match good with | h :: _ => s2.subReqIn n h | [] => s2
    s3.frameIn n (good.find? (fun h => hLPOS h == 0)) (if illegalFrame f n then some 3 else if slip then some 0 else none)
      (pairUp f.content) (stampUnits (s.linkStamp n m))

def execFrameReceive (n : Fin 20) (f : RxFrame) (at_ : Moment) (s : State) : Out := .next (s.receive n f at_)

end Sys2Proof.Machine
end

