-- ==== Sys2Proof/Machine/Run.lean ====
section
/-! DEFINITION. Messages between chips as they are handled (R251 to R257, R347), the start of a run, and the run-control
commands (R400 to R405, R421, R430). -/
namespace Sys2Proof.Machine

/-! ### Messages -/

/-- The message at the front of link n when its MTYPE is `t`, with its stamp. -/
def State.msgAt (s : State) (n t : Nat) : Option (Nat × Flit) :=
  match (s.link n).rxMsg with
  | m :: _ => if mTYPE m.2 = t then some m else none
  | [] => none

/-- The message at the front has been handled. -/
def State.msgDone (s : State) (n : Nat) : State :=
  s.onLink n (fun k => { k with rxMsg := k.rxMsg.drop 1, accM := (k.accM + 1) % 256 })

/-- The long command in progress, when its opcode is `op`: its descriptor. -/
def State.longDesc (s : State) (op : Nat) : Option (BitVec 512) :=
  match s.longAt with
  | some i =>
    match (s.box 3).taken[i]? with
    | some c => if fieldOf c.desc 0 2 = op then some c.desc else none
    | none => none
  | none => none

/-- R251: alignment ends on every link. -/
def State.stopAlign (s : State) : State :=
  let s1 := (List.range 16).foldl (fun s n => if (s.link n).aligning then s.onLink n (fun k => { k with aligning := false }) else s) s
  { s1 with chip := { s1.chip with n0 := none } }

/-- R252: the run start is refused. -/
def State.refuseAlign (s : State) (n b status : Nat) : State :=
  let s1 := s.set1 (linkErr n b)
  if (s1.longDesc 0x0301).isSome then (s1.stopAlign).endLong (errResp status n 0 0) else s1

/-- R251, R252: what the alignment messages of link n say so far. -/
def State.checkAlign (s : State) (n : Nat) : State :=
  let k := s.link n
  match s.chip.image, s.chip.n0 with
  | some i, some n0 =>
    if !k.aligning then s
    else if (match k.sysId with | some v => v != i.sys | none => false) then s.refuseAlign n 11 0x16
    else if (match k.peerN0 with | some v => v.1.toNat != n0 || v.2 != s.epoch | none => false) then s.refuseAlign n 11 0x16
    else if k.sysId.isSome && s.on (Reg.LD_LINK_CTL_PEER_CHK n) &&
        (s.get (Reg.LD_LINK_STAT_PEER_PART n) != s.get (Reg.LD_LINK_CTL_PEER_PART_EXP n) ||
          s.get (Reg.LD_LINK_STAT_PEER_LINK n) != s.get (Reg.LD_LINK_CTL_PEER_LINK_EXP n)) then s.refuseAlign n 12 0x17
    else if k.sysId.isSome && k.peerN0.isSome then s.set1 (Reg.LD_LINK_STAT_ALIGNED n)
    else s
  | _, _ => s

/-- R251: ALIGN_ID is recorded and checked. -/
def State.alignIdIn (n : Nat) (s : State) : State :=
  match s.msgAt n 1 with
  | some (_, m) =>
    let s1 := ((s.msgDone n).put (Reg.LD_LINK_STAT_PEER_PART n) (bits m.toNat 87 80)).put (Reg.LD_LINK_STAT_PEER_LINK n)
      (bits m.toNat 91 88)
    (s1.onLink n (fun k => { k with sysId := some (BitVec.ofNat 64 (bits m.toNat 79 16)) })).checkAlign n
  | none => s

def execAlignId (n : Fin 16) (s : State) : Out := .next (s.alignIdIn n)

/-- R252: ALIGN_N0 is recorded and checked. -/
def State.alignN0In (n : Nat) (s : State) : State :=
  match s.msgAt n 2 with
  | some (_, m) =>
    ((s.msgDone n).onLink n (fun k =>
      { k with peerN0 := some (BitVec.ofNat 64 (bits m.toNat 79 16), bits m.toNat 95 80) })).checkAlign n
  | none => s

def execAlignN0 (n : Fin 16) (s : State) : Out := .next (s.alignN0In n)

/-- R254: a STRIDE count that differs from the chip's own leads to QUARANTINE.  A stride older than the 16 kept is ignored; the
count of a stride that the chip has yet to reach is kept until it does (R254 compares it with the chip's own; when it waits and for
how long is not said: DEDUCED). -/
def State.strideIn (n : Nat) (s : State) : State :=
  match s.msgAt n 3 with
  | some (_, m) =>
    let s1 := s.msgDone n
    let at_ := bits m.toNat 79 16
    let k := s.link n
    match k.strides.find? (fun p => p.1 == at_) with
    | some p => s1.strideCheck n at_ p.2 (bits m.toNat 111 80)
    | none =>
      if k.strides.all (fun p => decide (p.1 < at_)) then s1.onLink n (fun k => { k with early := k.early ++ [(at_, bits m.toNat 111 80)] })
      else s1
  | none => s

def execStride (n : Fin 16) (s : State) : Out := .next (s.strideIn n)

/-- The divider of a mode with strides (R420, R441): 0 for 1.25 GHz, 1 for 625 MHz, 2 for 312.5 MHz. -/
def State.divOf (s : State) (mode : Nat) : Nat := if s.on Reg.CHIP_MODE_SVC then 2 else if mode = mCheck then 1 else 0

/-- The device enters a mode with strides running. -/
def State.enterRun (s : State) (mode : Nat) : State :=
  let s1 := (s.put Reg.CHIP_CLK_STAT_SDIV (s.divOf mode)).clr Reg.CHIP_MODE_AT_REST
  s1.setMode mode

/-- R401: at rest, a release by a partner returns the chip to the mode of its last RUN_START. -/
def State.leaveRest (s : State) : State := if s.atRest then s.enterRun s.chip.runMode else s

/-- R255: a HOLD at rest raises H: strides run again until it is reached. -/
def State.unrest (s : State) : State :=
  if s.atRest && s.held && !s.on Reg.LD_HOLD_STAT_AT_H then s.clr Reg.CHIP_MODE_AT_REST else s

/-- R255: a HOLD of the chip's EPOCH is adopted when its H is greater; one of an older EPOCH is ignored; one of a newer
EPOCH acts as a RELEASE followed by that HOLD.  EPOCHs are compared as numbers modulo 2^16. -/
def State.holdIn (n : Nat) (s : State) : State :=
  match s.msgAt n 4 with
  | some (_, m) =>
    let s1 := s.msgDone n
    let e := bits m.toNat 95 80
    let d := (e + 2 ^ 16 - s.epoch) % 2 ^ 16
    let adopt (s : State) : State :=
      (s.adoptHold (bits m.toNat 79 16) (bits m.toNat 107 104) (bits m.toNat 103 96) s.usedLinks).unrest
    if d = 0 then adopt s1
    else if d < 2 ^ 15 then adopt ((s1.release).leaveRest)
    else s1
  | none => s

def execHold (n : Fin 16) (s : State) : Out := .next (s.holdIn n)

/-- R257: a RELEASE of the chip's EPOCH ends its hold; one of an older EPOCH is ignored, as is one without a hold. -/
def State.releaseIn (n : Nat) (s : State) : State :=
  match s.msgAt n 5 with
  | some (_, m) =>
    let s1 := s.msgDone n
    if bits m.toNat 95 80 = s1.epoch ∧ s1.held then s1.release.leaveRest else s1
  | none => s

def execRelease (n : Fin 16) (s : State) : Out := .next (s.releaseIn n)

/-- A TIME message with KIND, ID, REF_ID and a stamp in units of 2^-8 ns. -/
def timeMsgOf (kind id ref v : Nat) : Flit :=
  BitVec.ofNat 120 (packBits [(0, 8, 6), (8, 8, id), (16, 2, kind), (24, 8, ref), (32, 48, v / (256 * 1000000000)),
    (80, 32, v / 256 % 1000000000), (112, 8, v % 256)])

/-- R347, R260: a TIME message is delivered to Groom 1 with its receive stamp; the partner that receives a SYNC sends its own DREQ.
DEDUCED: it does so as the SYNC is delivered. -/
def State.timeMsg (n : Nat) (id : Byte) (s : State) : State :=
  match s.msgAt n 6 with
  | some m =>
    let s1 := (s.msgDone n).onLink n (fun k => { k with timeIn := k.timeIn ++ [m] })
    if bits m.2.toNat 17 16 = 0 then s1.say n (timeMsgOf 2 id.toNat 0 0) else s1
  | none => s

def execTime (n : Fin 20) (id : Byte) (s : State) : Out := .next (s.timeMsg n id)

/-- An FW message is delivered to Groom 1. -/
def State.fwMsg (n : Nat) (s : State) : State :=
  match s.msgAt n 7 with
  | some m => (s.msgDone n).onLink n (fun k => { k with fwIn := k.fwIn ++ [m.2] })
  | none => s

def execFw (n : Fin 20) (s : State) : Out := .next (s.fwMsg n)

/-! ### Reaching the hold (R256, R401, R403) -/

/-- R256: every Team waits at the boundary into H: before the first stride of a run, or in an END cycle. -/
def State.allAtH (s : State) : Bool :=
  s.runTeams.all (fun t => s.atEnd t && decide ((s.team t).stride.toNat + 1 = s.holdH)
    && ((s.team t).len == 0 || s.get (Reg.TEAM_STRIDE_STAT_WAIT_CAUSE t) != 0))

/-- R401: STEP at rest: leaving CHECK, the divider returns to that of STEP.  DESIGN CHOICE: the write of an RMW of the last step is made
as the array comes to rest. -/
def State.enterRest (s : State) : State :=
  (((s.runTeams.foldl State.rmwWrite s).put Reg.CHIP_CLK_STAT_SDIV (s.divOf mStep)).set1 Reg.CHIP_MODE_AT_REST).setMode mStep

/-- R256, R401, R403, R418: AT_H sets, the event HOLD_AT, STEP at rest, and the response of RUN_STOP or STEP_STRIDES. -/
def State.atH (s : State) : State :=
  if s.held && !s.on Reg.LD_HOLD_STAT_AT_H && s.strideMode && !s.chip.haltBkp && !s.chip.haltChk && !s.runTeams.isEmpty && s.allAtH
  then
    let h := s.holdH
    let s1 := (s.set1 Reg.LD_HOLD_STAT_AT_H).postEvent 3
      ⟨0x000C, 10, packBytes [(16, 8, h), (24, 1, s.chip.holdReason), (25, 1, s.chip.holdPart)]⟩
    let s2 := s1.enterRest
    if (s2.longDesc 0x0302).isSome ∨ (s2.longDesc 0x0304).isSome then s2.endLong (okWith 8 h) else s2
  else s

def execAtHReached (s : State) : Out := .next s.atH

/-! ### RUN_START (R400, R430) -/

/-- The service level of a mode: REDUCED in WALK. -/
def levelOf (mode : Nat) : Nat := if mode = mWalk then 1 else 0

/-- The first stride of a RUN_START: N0 from LOAD, the stride of the restore, or the stride at whose boundary the array
waits. -/
def State.firstStride (s : State) (n0 : Nat) : Nat :=
  if s.mode = mLoad then n0 else if s.mode = mSnapshot then s.stride else s.stride + 1

/-- R430 step 1: a used link goes down and its lanes start again at the new rate, with SWEEP_LIM = 0. -/
def State.relink (s : State) (n rate : Nat) : State :=
  let s1 := (linkLanes n).foldl (fun s l => s.laneDisable l) (s.setLinkState n 0)
  let s2 := s1.setLink n Link.reset
  let s3 := s2.wr (Adr.LD_LINK_MAP n) (regReset (Adr.LD_LINK_MAP n))
  let s4 := s3.put (Reg.LD_LINK_STAT_SPARE n) 8
  (linkLanes n).foldl (fun s l => (((s.put (laneCtl l 2 1) rate).put (laneCtl l 15 12) 0).put (laneStat l 20 20) 0).laneEnable l) s4

/-- R430, R290: the service level changes: links retrain, channels go through self refresh and train at the new rate, the divider and
capture follow. -/
def State.changeLevel (s : State) (lv : Nat) : State :=
  let s1 := s.set1 Reg.CHIP_MODE_SVC_CHG
  let s2 := s1.usedLinks.foldl (fun s n => s.relink n (if lv = 1 then 0 else 2)) s1
  let s3 := s2.each 16 (fun c s => s.rateChange c (if lv = 1 then 0 else s.chip.gdRate))
  let s4 := s3.put Reg.CHIP_MODE_SVC lv
  let s5 := s4.put Reg.CHIP_CLK_STAT_SDIV (if lv = 1 then 2 else 0)
  let s6 := if lv = 1 then ({ s5.storeReady with cap := { s5.storeReady.cap with ready := [], stop := false, force := false, ending := none } } : State)
    else s5
  if lv = 1 then s6.put Reg.CAP_STAT_STATE cDisabled
  else if s6.capState = cDisabled then s6.put Reg.CAP_STAT_STATE cIdle else s6

/-- R210: the used lead links with a lane at 32 Gbit/s. -/
def State.fastLinks (s : State) : List Nat :=
  s.usedLinks.filter (fun n => (linkLanes n).any (fun l => s.laneState l != lOff && (s.lane l).rate != 0))

/-- R210, R430 step 1: WALK finds the service level REDUCED already, and its fast lead links start again at 8 Gbit/s (R210 gives lead
lanes that rate in WALK and names no step that sets it here: DEDUCED). -/
def State.slowLinks (s : State) : State := s.fastLinks.foldl (fun s n => s.relink n 0) (s.set1 Reg.CHIP_MODE_SVC_CHG)

/-- The first used link that is not UP. -/
def State.badLink (s : State) : Option Nat := s.usedLinks.find? (fun n => !s.isUp n)

/-- LINK_FAILED with the mask of lanes out of service. -/
def State.linkFailed (s : State) (n : Nat) : Resp := errResp 0x18 n (s.badMask n) 0

/-- R251: alignment begins with first stride n0. -/
def State.startAlign (s : State) (n0 : Nat) : State :=
  let s1 : State := { s with chip := { s.chip with n0 := some n0 } }
  s1.usedLinks.foldl (fun s n => (s.onLink n (fun k => { k with aligning := true, sysId := none, peerN0 := none })).clr
    (Reg.LD_LINK_STAT_ALIGNED n)) s1

/-- Bytes 16 to 23 of the descriptor break the rule for N0. -/
def State.n0Bad (s : State) (n0 : Nat) : Bool := if s.mode = mLoad then n0 == 0 else n0 != 0

/-- R400: the command starts. -/
def State.runStartBegin (d : BitVec 512) (s : State) : State × Nat × Option Resp :=
  let mode := fieldOf d 8 1
  let lead := fieldOf d 9 1
  let n0 := fieldOf d 16 8
  if s.n0Bad n0 then (s, 0, some (badDesc 5 16))
  else if mode == mCheck && (match s.chip.image with | some i => !i.hasMask | none => true) then (s, 0, some (errResp 0x19 0 0 0))
  else
    let s1 := if lead = 0 then s else s.put Reg.LD_HOLD_CTL_HOLD_LEAD lead
    if s1.get Reg.CHIP_MODE_SVC ≠ levelOf mode then
      (s1.changeLevel (levelOf mode), 1, none)
    else if mode == mWalk && !s1.fastLinks.isEmpty then (s1.slowLinks, 1, none)
    else
      match s1.badLink with
      | some n => (s, 0, some (s.linkFailed n))
      | none => (s1.startAlign (s.firstStride n0), 0, none)

/-- R400, R430: a RUN_START that waits for its links: every one UP, or one that failed. -/
def State.runStartPoll (c : Taken) (s : State) : Option (State × Resp) :=
  if !s.on Reg.CHIP_MODE_SVC_CHG then none
  else
    match s.usedLinks.find? (fun n => s.linkState n == 3) with
    | some n => some (s.clr Reg.CHIP_MODE_SVC_CHG, s.linkFailed n)
    | none => let _ := c; none

/-- R430: the links of a service-level change are UP, and no channel trains: alignment begins. -/
def State.levelDone (s : State) : State :=
  match s.longDesc 0x0301 with
  | some d =>
    if s.on Reg.CHIP_MODE_SVC_CHG && s.badLink.isNone && (List.range 16).all (fun c => s.chanState c != gTrain) then
      (s.clr Reg.CHIP_MODE_SVC_CHG).startAlign (s.firstStride (fieldOf d 16 8))
    else s
  | none => s

/-- R289, R430 step 2: in a look after that at which RUN_START began, the channels of a service-level change end their training. -/
def State.levelTrain (s : State) (runs : TrainRuns) : State :=
  if (s.longDesc 0x0301).isSome && s.on Reg.CHIP_MODE_SVC_CHG then s.trainAll runs else s

def execRunStart (runs : TrainRuns) (s : State) : Out :=
  .next (((s.levelTrain runs).cmdLong 3 0x0301 State.runStartBegin State.runStartPoll).levelDone)

/-- R180, R400 steps 4 and 5: every used link is ALIGNED: the run begins and RUN_START responds. -/
def State.dsEnable (s : State) : State :=
  match s.longDesc 0x0301, s.chip.n0 with
  | some d, some n0 =>
    if s.usedLinks.all (fun n => s.isUp n && s.on (Reg.LD_LINK_STAT_ALIGNED n)) then
      let mode := fieldOf d 8 1
      let s1 := if s.mode = mLoad then s.beginRun n0 false
        else if s.mode = mSnapshot then
          ({ s with ds := { s.ds with decided := 2 }, chip := { s.chip with restored := false } } : State).release.beginRun n0 true
        else s.release.set1 Reg.DS_CTL_EN
      let s2 : State := { s1.stopAlign with chip := { s1.stopAlign.chip with runMode := mode } }
      let s3 := s2.enterRun mode
      let s4 := if mode = mStep then s3.adoptHold (n0 + 1) rStep s3.part s3.usedLinks else s3
      s4.endLong (okWith 8 n0)
    else s
  | _, _ => s

def execDsEnable (s : State) : Out := .next s.dsEnable

/-! ### The other run-control commands -/

/-- R401: RUN_STOP adopts a hold with REASON HOST; AT_H_REACHED answers it. -/
def execRunStop (s : State) : Out :=
  .next (s.cmdLong 3 0x0302 (fun _ s => (s.requestHold rHost, 0, none)) (fun _ _ => none))

/-- R402, R393: RUN_ABORT ends the long command with ABORTED and enters QUARANTINE with HOST_ABORT. -/
def execRunAbort (s : State) : Out :=
  .next (s.cmd 3 0x0303 (fun _ s => ((s.endLong (errResp 0x22 0 0 0)).enterQuarantine qHostAbort 0, okResp)))

/-- R403: STEP_STRIDES adopts a hold at n + COUNT; strides run until it is reached. -/
def State.stepStrides (d : BitVec 512) (s : State) : State × Nat × Option Resp :=
  let h := s.stride + 1 + fieldOf d 8 2
  let s1 := (s.adoptHold h rStep s.part s.usedLinks).clr Reg.CHIP_MODE_AT_REST
  ({ s1 with chip := { s1.chip with stepTo := some h } }, 0, none)

def execStepStrides (s : State) : Out := .next (s.cmdLong 3 0x0304 State.stepStrides (fun _ _ => none))

/-- R403, R54: BKP_ARM sets or clears BKP_EN in every Team. -/
def State.bkpArm (d : BitVec 512) (s : State) : State × Resp :=
  ((List.range s.nTeams).foldl (fun s t => s.put (Reg.TEAM_BP_CTL_BKP_EN t) (fieldOf d 8 1)) s, okResp)

def execBkpArm (s : State) : Out := .next (s.cmd 3 0x0305 State.bkpArm)

/-- R58, R207: the halt ends and every Team continues. -/
def State.haltContinue (s : State) : State :=
  let s1 : State := { s with chip := { s.chip with haltBkp := false, haltChk := false } }
  s1.runTeams.foldl (fun s t => if (s.team t).halted then s.onTeam t (fun m => { m with halted := false }) else s) s1

def execHaltContinue (s : State) : Out :=
  .next (s.cmdLong 3 0x0306 (fun _ s => (s.haltContinue, 0, some okResp)) (fun _ _ => none))

/-- R404: SET and CLEAR of HOST_GO together. -/
def State.hostGo (d : BitVec 512) (s : State) : State × Resp :=
  (s.each 64 (fun k s => if bit (fieldOf d 8 8) k then s.set1 (Reg.DS_DOM_FLAGS_HOST_GO k)
    else if bit (fieldOf d 16 8) k then s.clr (Reg.DS_DOM_FLAGS_HOST_GO k) else s), okResp)

def execHostGo (s : State) : Out := .next (s.cmd 3 0x0307 State.hostGo)

/-- R404, R173: HORIZON; while gating is on, a value below the horizon is refused. -/
def State.horizonCmd (d : BitVec 512) (s : State) : State × Resp :=
  if s.on Reg.DS_CTL_HORIZON_EN && decide (fieldOf d 8 8 < s.pair Adr.DS_HORIZON_LO Adr.DS_HORIZON_HI) then (s, badDesc 5 8)
  else ((s.putPair Adr.DS_HORIZON_LO Adr.DS_HORIZON_HI (fieldOf d 8 8)).put Reg.DS_CTL_HORIZON_EN (fieldOf d 16 1), okResp)

def execHorizon (s : State) : Out := .next (s.cmd 3 0x0308 State.horizonCmd)

/-- Token k of a TOKEN descriptor. -/
def tokenOf (d : BitVec 512) (k : Nat) : Token :=
  ⟨fieldOf d (12 + 16 * k) 1, fieldOf d (13 + 16 * k) 1, BitVec.ofNat 24 (fieldOf d (16 + 16 * k) 4), false, fieldOf d (20 + 16 * k) 8⟩

/-- R169: a token accepted in the cycle in which its tag's consumption begins. -/
def State.tokenLate (s : State) (k : Token) (late : BitVec 3) (i : Nat) : Bool :=
  late.getLsbD i && s.dueTag == some k.tag

/-- R405: tokens from index i on, with the LATE bits so far. -/
def State.submit (s : State) (d : BitVec 512) (late : BitVec 3) : Nat → Nat → Nat → State × Resp
  | 0, i, m => (s, okWith 2 (i + 256 * m))
  | fuel + 1, i, m =>
    let k := tokenOf d i
    match s.tokenBad k with
    | some .bad => (s, ⟨1, 5 + 2 ^ 16 * (12 + 16 * i), 2, i + 256 * m⟩)
    | some .dup => (s, ⟨0x1A, i, 2, i + 256 * m⟩)
    | some .late => (s, ⟨0x1B, i, 2, i + 256 * m⟩)
    | some .full => (s, ⟨0x13, 3, 2, i + 256 * m⟩)
    | none =>
      let l := s.tokenLate k late i
      State.submit ((s.storeToken k).set1If l Reg.DS_STAT_LATE) d late fuel (i + 1) (m + (if l then 2 ^ i else 0))

/-- R405: TOKEN submits its tokens in order, up to the first refusal. -/
def execToken (late : BitVec 3) (s : State) : Out :=
  .next (s.cmd 3 0x0309 (fun d s => s.submit d late (fieldOf d 8 1) 0 0))

end Sys2Proof.Machine
end

