-- ==== Sys2Proof/Machine/LinkCmd.lean ====
section
/-! DEFINITION. The link commands (R407, R409). -/
namespace Sys2Proof.Machine

/-- The link that a descriptor names by CLASS and link: 0 to 15 lead, 16 to 19 elastic. -/
def argLink (d : BitVec 512) : Nat := 16 * fieldOf d 8 1 + fieldOf d 9 1

/-- The link layer of a link that is down starts again; requests that had yet to cross it are answered (R246). -/
def State.dropLink (s : State) (n : Nat) : State := (s.dropRequests n).setLink n Link.reset

/-- The link goes to DOWN by command: its lanes go to OFF, and its state starts again. -/
def State.takeDown (s : State) (n : Nat) : State :=
  let s1 := ((s.clr (linkEn n)).setLinkState n 0).dropLink n
  let s2 := (linkLanes n).foldl (fun s l => s.laneDisable l) s1
  if n < 16 then
    ((s2.wr (Adr.LD_LINK_MAP n) (regReset (Adr.LD_LINK_MAP n))).put (Reg.LD_LINK_STAT_SPARE n) 8).clr
      (Reg.LD_LINK_STAT_ALIGNED n)
  else s2

/-- The mask of ACTIVE lanes. -/
def State.activeMask (s : State) (n : Nat) : Nat := (s.lanesIn n [lActive]).foldl (fun m l => m + 2 ^ laneNo l) 0

/-- STATE, SPARE and the ACTIVE lanes, bytes 16 to 19; an elastic link has no spare: the byte is open there. -/
def State.linkBytes (s : State) (n : Nat) : List (Nat × Nat × Nat) :=
  [(16, 1, s.linkState n), (17, 1, if n < 16 then s.spare n else (Config.freeW32 s.free).toNat), (18, 2, s.activeMask n)]

/-- CHOSEN of every lane, four bits each. -/
def State.chosenBits (s : State) (n : Nat) : Nat :=
  (linkLanes n).foldl (fun m l => m + s.get (laneSweep l 19 16) * 16 ^ laneNo l) 0

/-- R407: LINK_UP begins. -/
def State.linkUpBegin (d : BitVec 512) (s : State) : State × Nat × Option Resp :=
  let n := argLink d
  if s.linkState n ≠ 0 ∨ s.on (linkEn n) then (s, 0, some (errResp 0x13 9 0 0))
  else
    let eq := fieldOf d 16 1
    let s1 := if n < 16 then
        (((s.put (Reg.LD_LINK_CTL_PEER_PART_EXP n) (fieldOf d 12 1)).put (Reg.LD_LINK_CTL_PEER_LINK_EXP n)
          (bits (fieldOf d 13 1) 3 0)).put (Reg.LD_LINK_CTL_PEER_CHK n) (bits (fieldOf d 13 1) 7 7)).put
          (Reg.LD_LINK_STAT_SPARE n) 8
      else s.put (Reg.EL_LINK_CTL_WIDTH (n - 16)) (fieldOf d 14 1)
    let s2 := s1.set1 (linkEn n)
    let s3 := (linkLanes n).foldl (fun s l =>
      ((((((s.put (laneCtl l 2 1) (fieldOf d 10 1)).put (laneCtl l 15 12) (fieldOf d 11 1)).put (laneCtl l 4 3)
        (fieldOf d 15 1)).put (laneCtl l 11 8) (bits eq 3 0)).put (laneCtl l 7 7) (bits eq 7 7)).put (laneCtl l 18 16) 0).laneEnable l)
      s2
    (s3, 0, none)

/-- R407: the link is UP, or too few of its lanes can reach service any more. -/
def State.linkUpPoll (c : Taken) (s : State) : Option (State × Resp) :=
  let n := argLink c.desc
  let failed := (s.lanesIn n [lFailed]).length
  if s.isUp n then
    some (s.spend, okWith 9 (packBytes (s.linkBytes n ++ [(20, 5, s.chosenBits n)])))
  else if (if n < 16 then 1 < failed else 3 < failed) ∨ s.linkState n = 3 then
    some (s.setLinkState n 3, errResp 0x18 (linkNo n) (s.badMask n) 0)
  else none

def execLinkUp (s : State) : Out := .next (s.cmdLong 1 0x0401 State.linkUpBegin State.linkUpPoll)

/-- LINK_DOWN (R395). -/
def execLinkDown (s : State) : Out := .next (s.cmd 1 0x0402 (fun d s => (s.takeDown (argLink d), okResp)))

/-- LINK_STATUS (R395): the read of LD_LINK_REPLAY clears its counts (R7). -/
def State.linkStatus (d : BitVec 512) (s : State) : State × Resp :=
  let n := argLink d
  let map := if n < 16 then (s.rd (Adr.LD_LINK_MAP n)).toNat else (Config.freeW32 (s.free + 1)).toNat
  let r := okWith 16 (packBytes (s.linkBytes n ++ [(20, 4, map), (24, 8, s.get (linkReplay n 31 0))]))
  ((s.put (linkReplay n 31 0) 0).spend.spend, r)

def execLinkStatus (s : State) : Out := .next (s.cmd 1 0x0403 State.linkStatus)

/-- R245: ELASTIC_WIDTH; on a link that is UP it responds once the width has changed at a frame start. -/
def State.elasticWidth (d : BitVec 512) (s : State) : State × Nat × Option Resp :=
  let n := fieldOf d 8 1
  let w := fieldOf d 9 1
  let s1 := s.put (Reg.EL_LINK_CTL_WIDTH n) w
  (s1.wantWidth n w, 0, if s.isUp (16 + n) && s.get (Reg.EL_LINK_STAT_WIDTH n) != w then none else some okResp)

def State.elasticPoll (c : Taken) (s : State) : Option (State × Resp) :=
  if s.get (Reg.EL_LINK_STAT_WIDTH (fieldOf c.desc 8 1)) = fieldOf c.desc 9 1 then some (s, okResp) else none

def execElasticWidth (s : State) : Out := .next (s.cmdLong 1 0x0404 State.elasticWidth State.elasticPoll)

/-- R407, R228, R229: LANE_TEST starts or stops TEST; a stop returns the bit errors, whose read clears them. -/
def State.laneTest (d : BitVec 512) (s : State) : State × Resp :=
  let n := argLink d
  let l := (if n < 16 then 9 * n else 144 + 4 * (n - 16)) + fieldOf d 10 1
  let b := fieldOf d 12 1
  if fieldOf d 11 1 = 1 then
    let s1 := if s.laneState l = lOff then s else s.laneDisable l
    let s2 := ((((s1.set1 (laneCtl l 18 18)).put (laneCtl l 17 16) (bits b 5 4)).put (lanePrbs l 3 2) (bits b 1 0)).put
      (lanePrbs l 0 0) (bits b 2 2)).put (lanePrbs l 1 1) (bits b 3 3)
    ((s2.put (lanePrbs l 9 5) (fieldOf d 16 1)).laneEnable l, okResp)
  else
    let errs := s.get (laneErr l)
    (((s.put (laneErr l) 0).laneDisable l).put (laneCtl l 18 16) 0, okWith 4 (packBytes [(16, 4, errs)]))

def execLaneTest (s : State) : Out := .next (s.cmd 1 0x0405 State.laneTest)

/-! ### LINK_TIME (R347, R409) -/

/-- A stamp in units of 2^-8 ns, as a TIME message carries it (R347). -/
def carried (v : Stamp) : Nat := stampUnits v / 2 ^ 16

/-- The link of a LINK_TIME is UP, and its SYNC waits for a frame, or LINK_FAILED. -/
def State.linkTimeBegin (id : Byte) (d : BitVec 512) (s : State) : State × Nat × Option Resp :=
  let n := argLink d
  if s.isUp n then (s.say n (timeMsgOf 0 id.toNat 0 0), id.toNat, none)
  else (s, 0, some (errResp 0x18 (linkNo n) (s.badMask n) 0))

/-- R260, R347, R409: a LINK_TIME whose DREQ has come: FOLLOW carries t1, the last transmit stamp of the SYNC's ID, and DRESP t4, the
receive stamp of the DREQ; with the partner's stamps t2 and t3 (`far`, units of 2^-8 ns) the response holds the offset and the delay in
units of 2^-16 ns.  A transmit stamp lost under R349 (note 256 and above) ends the command with TIMEOUT. -/
def State.linkTimePoll (far : Option (Nat × Nat)) (c : Taken) (s : State) : Option (State × Resp) :=
  let n := argLink c.desc
  if 256 ≤ c.note then some (s, errResp 4 0 0 0)
  else
    match far, (s.tb.txq.filter (fun e => e.src == n && e.id == c.note)).getLast?,
      (s.link n).timeIn.find? (fun m => bits m.2.toNat 17 16 == 2) with
    | some (t2, t3), some e, some m =>
      let t1 : Nat := carried e.at_
      let t4 : Nat := m.1 / 2 ^ 16
      let fwd : Int := (t2 : Int) - t1
      let bwd : Int := (t4 : Int) - t3
      let s1 := (s.say n (timeMsgOf 1 c.note c.note t1)).say n (timeMsgOf 3 c.note (bits m.2.toNat 15 8) t4)
      let s2 := s1.onLink n (fun k => { k with timeIn := k.timeIn.erase m })
      let s3 := ({ s2 with tb := { s2.tb with txq := s2.tb.txq.filter (fun e => !(e.src == n && e.id == c.note)) } } : State).txqCount
      some (s3, okWith 17 (packBytes [(16, 8, wrap 64 ((fwd - bwd) * 128)), (24, 8, wrap 64 ((fwd + bwd) * 128)), (32, 1, c.note)]))
    | _, _, _ => none

def execLinkTime (id : Byte) (far : Option (Nat × Nat)) (s : State) : Out :=
  .next (s.cmdLong 1 0x0704 (State.linkTimeBegin id) (State.linkTimePoll far))

end Sys2Proof.Machine
end

