-- ==== Sys2Proof/Machine/Trace.lean ====
section
/-! DEFINITION. The Groom trace unit (R485 to R497): packets, cycle counts, full syncs, drops, blocks and sinks. -/
namespace Sys2Proof.Machine

def State.tracer (s : State) (g : Nat) : Tracer := Tab.get (fun _ => Tracer.reset) s.trace.gr g

def State.setTracer (s : State) (g : Nat) (v : Tracer) : State :=
  { s with trace := { s.trace with gr := Tab.set (fun _ => Tracer.reset) s.trace.gr g v } }

def State.onTracer (s : State) (g : Nat) (f : Tracer → Tracer) : State := s.setTracer g (f (s.tracer g))

/-- Groom g is traced: its bit of GEN. -/
def State.traced (s : State) (g : Nat) : Bool := bit (s.get Reg.GRM_TRC_CTL_GEN) g

/-! ### The sink (R494, R495) -/

/-- Bytes of the FIFO that are free. -/
def State.trcFree (s : State) : Nat := 8192 - s.trace.fifo.foldl (fun n p => n + p.2.length) 0

/-- GRM_TRC_STAT.FREE. -/
def State.trcStat (s : State) : State := s.put Reg.GRM_TRC_STAT_FREE s.trcFree

/-- The size of the sink in bytes. -/
def State.sinkSize (s : State) : Nat :=
  if s.get Reg.GRM_TRC_CTL_SINK = 1 then 65536 else s.get Reg.GRM_TRC_RGN_SIZE * unitBytes

/-- R495: a block goes to the selected sink. -/
def State.sinkWrite (s : State) (o : Nat) (bs : List Byte) : State :=
  if s.get Reg.GRM_TRC_CTL_SINK = 1 then
    { s with trace := { s.trace with buf := Tab.set (fun _ => 0) s.trace.buf (o / 32) (BitVec.ofNat 256 (ofLeBytes bs)) } }
  else
    s.gwAcceptBytes (interleave (s.get Reg.GRM_TRC_RGN_C0) (s.get Reg.GRM_TRC_RGN_LOG2N + 1)
      (s.get Reg.GRM_TRC_RGN_BASE * unitBytes) o) bs

/-- R494: the offset of the next block; a full sink wraps or stops. -/
def State.advance (s : State) : State :=
  let o := s.get Reg.GRM_TRC_WPTR_OFFSET + 32
  if o < s.sinkSize then s.put Reg.GRM_TRC_WPTR_OFFSET o
  else if s.on Reg.GRM_TRC_CTL_WRAP then (s.put Reg.GRM_TRC_WPTR_OFFSET 0).set1 Reg.GRM_TRC_STAT_WRAPPED
  else ({ s with trace := { s.trace with stopped := true } } : State).set1 Reg.GRM_TRC_STAT_FULL

/-- R494: the current block of Groom g is written as it stands. -/
def State.writeBlock (s : State) (g : Nat) : State :=
  let r := s.tracer g
  let n := r.blk.length
  if n = 0 ∨ s.trace.stopped then s
  else
    let hdr := BitVec.ofNat 8 (g + 4 * ofBool r.blkSync + 8 * n)
    ((s.setTracer g { r with blk := [], blkSync := false }).sinkWrite (s.get Reg.GRM_TRC_WPTR_OFFSET)
      (hdr :: r.blk ++ List.replicate (31 - n) 0)).advance

/-- A byte of Groom g's stream enters its block, which is written once it holds 31; a stopped sink takes nothing. -/
def State.blockByte (g : Nat) (s : State) (b : Byte) : State :=
  if s.trace.stopped then s
  else
    let s1 := s.onTracer g (fun r => { r with blk := r.blk ++ [b] })
    if (s1.tracer g).blk.length = 31 then s1.writeBlock g else s1

/-- R494: the oldest packet leaves the FIFO; a SYNC packet begins a fresh block. -/
def State.drainOne (s : State) : State :=
  match s.trace.fifo with
  | [] => s
  | (g, bs) :: rest =>
    if s.trace.stopped then s
    else
      let s1 := if bs.head? = some 0x08 then (s.writeBlock g).onTracer g (fun r => { r with blkSync := true }) else s
      let s2 : State := { s1 with trace := { s1.trace with fifo := rest } }
      bs.foldl (State.blockByte g) s2

/-- The FIFO drains, at most `n` packets. -/
def State.drain (s : State) : Nat → State
  | 0 => s
  | n + 1 => if s.trace.fifo.isEmpty then s else s.drainOne.drain n

/-- Packets leave the FIFO until a block has been written. -/
def State.drainBlock (s : State) (o : Nat) (wraps : Bool) : Nat → State
  | 0 => s
  | n + 1 =>
    if s.trace.fifo.isEmpty || s.get Reg.GRM_TRC_WPTR_OFFSET != o || s.trace.stopped || s.on Reg.GRM_TRC_STAT_WRAPPED != wraps
    then s else s.drainOne.drainBlock o wraps n

/-! ### Packets (R486, R493) -/

/-- The free space below which a Groom drops a packet of n bytes, by its priority. -/
def dropBelow (pri n : Nat) : Nat := if pri = 0 then 2048 else if pri = 1 then 1024 else if pri = 2 then 512 else n

/-- The free space at which a dropping Groom resumes. -/
def resumeAt (pri : Nat) : Nat := if pri = 0 then 3072 else if pri = 1 then 2048 else if pri = 2 then 1536 else 1024

/-- PRI_g. -/
def State.trcPri (s : State) (g : Nat) : Nat := bits (s.get Reg.GRM_TRC_CTL_PRI) (2 * g + 1) (2 * g)

/-- R493: a packet enters the FIFO whole, or is dropped; nothing enters for a stopped sink (R494). -/
def State.emit (s : State) (g : Nat) (bs : List Byte) : State :=
  let r := s.tracer g
  if s.trace.stopped then s
  else if r.dropping || decide (s.trcFree < dropBelow (s.trcPri g) bs.length) then
    s.setTracer g { r with dropping := true, dropped := r.dropped + bs.length }
  else
    let since := if bs.head? = some 0x08 then 0 else r.since + bs.length
    let s1 := s.setTracer g { r with since := since }
    let s2 : State := { s1 with trace := { s1.trace with fifo := s1.trace.fifo ++ [(g, bs)] } }
    (if s2.get Reg.GRM_TRC_CTL_SINK = 1 then s2.drain 8192 else s2).trcStat

/-- ADDR: address bits [31:2] in place, REASON in bits [1:0]. -/
def pktAddr (a : Word) (reason : Nat) : List Byte := 0x30 :: leBytes 4 (a.toNat / 4 * 4 + reason)

/-- EXC. -/
def pktExc (addr handler : Word) (cause : Byte) : List Byte := 0x31 :: leBytes 4 addr.toNat ++ leBytes 4 handler.toNat ++ [cause]

/-- CYC: the count in the fewest bytes that hold it. -/
def pktCyc (n : Nat) : List Byte :=
  let k := if n < 256 then 1 else if n < 65536 then 2 else if n < 16777216 then 3 else 4
  BitVec.ofNat 8 (0x33 + k) :: leBytes k n

/-- TS: the Time Base NS[31:0], then SEC[15:0]. -/
def pktTs (t : Stamp) : List Byte := 0x39 :: leBytes 4 t.ns ++ leBytes 2 t.sec

/-- DROP. -/
def pktDrop (n reason : Nat) : List Byte := 0x3A :: leBytes 2 (min n 65535) ++ leBytes 1 reason

/-- ATOM, the oldest atom in bit 0 (R487). -/
def pktAtom (l : List Bool) : List Byte :=
  [BitVec.ofNat 8 (0x20 + (l.length - 1)), BitVec.ofNat 8 (l.foldr (fun b n => 2 * n + ofBool b) 0)]

/-- R488, R489: the CYC before a packet whose event took place `n` cycles after the reference cycle, or the TS in its place
when the count is lost; the event is the new reference. -/
def State.count (s : State) (g n : Nat) (at_ : Stamp) : State :=
  let r := s.tracer g
  if s.on Reg.GRM_TRC_CTL_CYC_EN then
    (s.emit g (if r.lost || decide (2 ^ 28 ≤ n) then pktTs at_ else pktCyc n)).onTracer g
      (fun r => { r with now := r.now - n, last := r.last - n, lost := false })
  else s

/-- R487: the pending atoms leave. -/
def State.flushAtoms (s : State) (g : Nat) : State :=
  let r := s.tracer g
  if r.atoms.isEmpty then s
  else ((s.count g r.last r.lastAt).emit g (pktAtom r.atoms)).onTracer g (fun r => { r with atoms := [], last := 0 })

/-- R490: a full sync: SYNC, ADDR, TS. -/
def State.fullSync (s : State) (g reason : Nat) (a : Word) : State :=
  ((((s.flushAtoms g).emit g [0x08, BitVec.ofNat 8 g]).emit g (pktAddr a reason)).emit g (pktTs s.tb.now)).onTracer g
    (fun r => { r with now := 0, last := 0, lost := false })

/-- R490: a full sync is due once 4,096 bytes have followed the last SYNC. -/
def State.periodic (s : State) (g : Nat) (next : Word) : State :=
  let r := s.tracer g
  if decide (4096 ≤ r.since) && !r.dropping then s.fullSync g 0 next else s

/-- The Groom's cycles that have passed, for an event of a Groom that is traced and awake. -/
def State.groomEvent (s : State) (g cycles : Nat) (f : State → State) : State :=
  if s.traced g && !(s.tracer g).asleep then f (s.onTracer g (fun r => { r with now := r.now + cycles })) else s

/-! ### Events of a Groom -/

/-- R487: a conditional direct branch gives an atom; eight of them make a packet. -/
def State.condBranch (g : Nat) (taken : Bool) (cycles : Nat) (next : Word) (s : State) : State :=
  s.groomEvent g cycles (fun s =>
    let s1 := s.onTracer g (fun r => { r with atoms := r.atoms ++ [taken], last := r.now, lastAt := s.tb.now })
    if (s1.tracer g).atoms.length = 8 then (s1.flushAtoms g).periodic g next else s1)

def execConditionalBranch (g : Fin 4) (taken : Bool) (cycles : Nat) (next : Word) (s : State) : Out :=
  .next (s.condBranch g taken cycles next)

/-- A packet with its count, behind the pending atoms. -/
def State.counted (s : State) (g : Nat) (bs : List Byte) : State :=
  let s1 := s.flushAtoms g
  (s1.count g (s1.tracer g).now s1.tb.now).emit g bs

/-- R485: an indirect branch. -/
def State.indirect (g cycles : Nat) (target : Word) (s : State) : State :=
  s.groomEvent g cycles (fun s => (s.counted g (pktAddr target 1)).periodic g target)

def execIndirectBranch (g : Fin 4) (cycles : Nat) (target : Word) (s : State) : Out := .next (s.indirect g cycles target)

/-- R486: an exception or interrupt. -/
def State.excTaken (g cycles : Nat) (addr handler : Word) (cause : Byte) (s : State) : State :=
  s.groomEvent g cycles (fun s => (s.counted g (pktExc addr handler cause)).periodic g handler)

def execExceptionTaken (g : Fin 4) (cycles : Nat) (addr handler : Word) (cause : Byte) (s : State) : Out :=
  .next (s.excTaken g cycles addr handler cause)

/-- R491: wait for interrupt: the pending packets, then SLEEP. -/
def State.sleep (g cycles : Nat) (s : State) : State :=
  (s.groomEvent g cycles (fun s => s.counted g [0x3B])).onTracer g (fun r => { r with asleep := true, lost := true })

def execWaitForInterrupt (g : Fin 4) (cycles : Nat) (s : State) : Out := .next (s.sleep g cycles)

/-- R491: wake: a full sync with REASON 3. -/
def State.wakeUp (g : Nat) (a : Word) (s : State) : State :=
  if (s.tracer g).asleep then
    let s1 := s.onTracer g (fun r => { r with asleep := false })
    if s1.traced g then s1.fullSync g 3 a else s1
  else s

def execWake (g : Fin 4) (addr : Word) (s : State) : Out := .next (s.wakeUp g addr)

/-- R490, R492, R493: DROP with its reason and the bytes lost, then a full sync at `next`. -/
def State.dropSync (s : State) (g n reason : Nat) (next : Word) : State :=
  ((((s.emit g (pktDrop n reason)).sat (Reg.GRM_TRC_DROP_COUNT g) n)).onTracer g (fun r => { r with lost := true })).fullSync g 0 next

/-- R493: a dropping Groom resumes. -/
def State.trcResume (g : Nat) (next : Word) (s : State) : State :=
  let r := s.tracer g
  if r.dropping && s.traced g && !r.asleep && !s.trace.stopped && decide (resumeAt (s.trcPri g) ≤ s.trcFree) then
    ((s.setTracer g { r with dropping := false, dropped := 0 }).dropSync g r.dropped 1 next).set1 Reg.GRM_TRC_STAT_DROPPED
  else s

def execTraceDrop (g : Fin 4) (next : Word) (s : State) : Out := .next (s.trcResume g next)

/-- R492: the restart of Groom g: its pending atoms go, then DROP with reason 2 and a full sync.  Every packet enters the FIFO
whole, so no bytes of a part of one are lost. -/
def State.trcRestart (s : State) (g : Nat) (at_ : Word) : State :=
  let s1 := s.onTracer g (fun r => { r with atoms := [], last := 0, asleep := false, lost := true })
  if s1.traced g then s1.dropSync g 0 2 at_ else s1

/-- R494, R496: a block is written once it is full, or 1 us after its first byte. -/
def State.blockFlush (g : Nat) (aged : Bool) (s : State) : State :=
  let sink := s.get Reg.GRM_TRC_CTL_SINK
  if sink = 0 ∨ sink = 3 then s
  else
    let o := s.get Reg.GRM_TRC_WPTR_OFFSET
    let w := s.on Reg.GRM_TRC_STAT_WRAPPED
    let s1 := s.drainBlock o w 8192
    (if s1.get Reg.GRM_TRC_WPTR_OFFSET = o ∧ s1.on Reg.GRM_TRC_STAT_WRAPPED = w ∧ aged then s1.writeBlock g else s1).trcStat

def execTraceBlockFlush (g : Fin 4) (aged : Bool) (s : State) : Out := .next (s.blockFlush g aged)

/-! ### Configuration (R496) -/

/-- A bit of GEN sets: its Groom's trace begins with a full sync, at once or with its next wake (R490, R491). -/
def State.genOn (s : State) (next : List Word) (g : Nat) : State :=
  let s1 := (s.put Reg.GRM_TRC_CTL_GEN (s.get Reg.GRM_TRC_CTL_GEN ||| 2 ^ g)).onTracer g (fun r =>
    { Tracer.reset with asleep := r.asleep, blk := r.blk, blkSync := r.blkSync })
  if (s1.tracer g).asleep then s1 else s1.fullSync g 0 ((next[g]?).getD 0)

/-- A bit of GEN clears, after the pending atoms. -/
def State.genOff (s : State) (g : Nat) : State :=
  let s1 := if (s.tracer g).asleep then s else s.flushAtoms g
  s1.put Reg.GRM_TRC_CTL_GEN (s1.get Reg.GRM_TRC_CTL_GEN &&& (15 - 2 ^ g))

/-- GEN takes a new value. -/
def State.genWrite (s : State) (v : Nat) (next : List Word) : State :=
  s.each 4 (fun g s => if bit v g && !s.traced g then s.genOn next g else if !bit v g && s.traced g then s.genOff g else s)

/-- A write of SINK: the sink begins at offset 0. -/
def State.sinkNew (s : State) (sink wrap cyc : Nat) : State :=
  let s1 := (((s.put Reg.GRM_TRC_CTL_SINK sink).put Reg.GRM_TRC_CTL_WRAP wrap).put Reg.GRM_TRC_CTL_CYC_EN cyc).put
    Reg.GRM_TRC_WPTR_OFFSET 0
  ({ s1 with trace := { s1.trace with stopped := false } } : State).clr Reg.GRM_TRC_STAT_WRAPPED

/-- R496: a write of GRM_TRC_CTL. -/
def State.trcCtl (v : Word) (next : List Word) (s : State) : State :=
  let sink := bits v.toNat 1 0
  let cyc := bits v.toNat 16 16
  let wrap := bits v.toNat 17 17
  let s1 := s.put Reg.GRM_TRC_CTL_PRI (bits v.toNat 15 8)
  let s2 := if s.get Reg.GRM_TRC_CTL_GEN = 0 then s1.sinkNew sink wrap cyc
    else s1.set1If (sink != s.get Reg.GRM_TRC_CTL_SINK || cyc != s.get Reg.GRM_TRC_CTL_CYC_EN || wrap != s.get Reg.GRM_TRC_CTL_WRAP)
      Reg.GRM_TRC_STAT_CFG_LOCKED
  s2.genWrite (bits v.toNat 7 4) next

def execTraceCtlWrite (v : Word) (next : List Word) (s : State) : Out := .next (s.trcCtl v next)

/-- R496: the region registers. -/
def State.trcRegion (s : State) (r : Region) : State :=
  let s1 := (((s.put Reg.GRM_TRC_RGN_SIZE (r.n * r.units)).put Reg.GRM_TRC_RGN_BASE r.base).put Reg.GRM_TRC_RGN_LOG2N
    (log2n r.n - 1)).put Reg.GRM_TRC_RGN_C0 r.c0
  { s1 with chip := { s1.chip with traceRegion := some r.handle } }

/-- R496: TRACE_CFG clears GEN, writes SINK, the region and GEN, sets CYC_EN and WRAP, and leaves PRI at its reset value. -/
def State.traceCfg (next : List Word) (d : BitVec 512) (s : State) : State × Resp :=
  let sink := fieldOf d 8 1
  let h := fieldOf d 12 4
  let go (s : State) : State × Resp :=
    (((s.sinkNew sink 1 1).put Reg.GRM_TRC_CTL_PRI 0x1B).genWrite (fieldOf d 9 1) next, okResp)
  if sink = 2 then
    match s.hostRegion h kTrace with
    | some r => if r.n = 1 then (s, notHeld h) else go ((s.genWrite 0 next).trcRegion r)
    | none => (s, notHeld h)
  else
    let s1 := s.genWrite 0 next
    go { s1 with chip := { s1.chip with traceRegion := none } }

def execTraceCfg (next : List Word) (s : State) : Out := .next (s.cmd 0 0x0905 (State.traceCfg next))

end Sys2Proof.Machine
end

