-- ==== Sys2Proof/Machine/Saddlebag.lean ====
section
/-! DEFINITION. The Saddlebag, the Groom watchdogs, the SMBus target and JTAG (R463 to R484, R536). -/
namespace Sys2Proof.Machine

/-! ### Records (R474, R475, R479) -/

/-- R474: the 16 bytes of a record. -/
def recordOf (seq code src sev : Nat) (tbv : Bool) (stamp : Nat) (arg : BitVec 48) : BitVec 128 :=
  BitVec.ofNat 128 (packBits [(0, 16, seq), (16, 8, code), (24, 4, src), (28, 3, sev), (31, 1, ofBool tbv), (32, 48, stamp),
    (80, 48, arg.toNat)])

/-- R474: STAMP: the Time Base while it runs, else the cycles of the always-on oscillator. -/
def State.recStamp (s : State) (cycles : BitVec 48) : Bool × Nat :=
  if s.on Reg.TB_CTL_EN then (true, s.tb.now.ns + 2 ^ 32 * (s.tb.now.sec % 2 ^ 16)) else (false, cycles.toNat)

/-- The index that the next record takes. -/
def State.nextIndex (s : State) : Nat := if s.on Reg.SB_STAT_EMPTY then 0 else (s.get Reg.SB_STAT_NEWEST + 1) % 8192

/-- R475: a record is written whole, with SEQ, TBV and STAMP. -/
def State.writeRecord (s : State) (cycles : BitVec 48) (r : SbReq) : State :=
  let i := s.nextIndex
  let seq := s.get Reg.SB_SEQ_NEXT
  let st := s.recStamp cycles
  let w := recordOf seq r.code r.src r.sev st.1 st.2 r.arg
  let s1 : State := { s with sb := { s.sb with ring := Tab.set (fun _ => 0) s.sb.ring i w } }
  let s2 := (((s1.put Reg.SB_STAT_NEWEST i).clr Reg.SB_STAT_EMPTY).put Reg.SB_SEQ_NEXT (seq + 1)).set1If (i == 8191)
    Reg.SB_STAT_WRAPPED
  if s.get Reg.SB_ALERT_EN_ALERT_SEV ≤ r.sev then s2.alert 2 else s2

/-- R479: the freeze after the freezing record. -/
def State.freeze (s : State) : State :=
  (((s.set1 Reg.SB_STAT_FROZEN).set1 Reg.SB_FREEZE_VALID).put Reg.SB_FREEZE_INDEX (s.get Reg.SB_STAT_NEWEST)).alert 1

/-- R475, R479: the next record: UNFROZEN after a release, else the oldest request. -/
def State.sbRecord (cycles : BitVec 48) (s : State) : State :=
  if s.on Reg.SB_STAT_FROZEN || !s.chip.vddAon then s
  else
    match s.sb.unfrozen, s.sb.reqs with
    | some n, _ =>
      ({ s with sb := { s.sb with unfrozen := none } } : State).writeRecord cycles ⟨4, 0, 0x07, argOf n 0, false⟩
    | none, r :: rest =>
      let s1 := ({ s with sb := { s.sb with reqs := rest } } : State).writeRecord cycles r
      if r.last then s1.freeze else s1
    | none, [] => s

def execSaddlebagRecord (cycles : BitVec 48) (s : State) : Out := .next (s.sbRecord cycles)

/-- R475, R478: a Groom's write of W3 requests the record of its four words. -/
def State.sbWr (g : Nat) (v : Word) (s : State) : State :=
  let w0 := (s.rd (Adr.SB_WR g 0)).toNat
  (s.wr (Adr.SB_WR g 3) v).groomRec g (bits w0 30 28) (bits w0 23 16) (argOf (bits (s.rd (Adr.SB_WR g 2)).toNat 31 16) v.toNat)

def execSbWrW3Write (g : Fin 4) (v : Word) (s : State) : Out := .next (s.sbWr g v)

/-- R478: the second ends: one SUPPRESSED record where records were suppressed. -/
def State.secondEnd (g : Nat) (s : State) : State :=
  let n := look s.sb.held g
  let s1 : State := { s with sb := { s.sb with inSecond := upd s.sb.inSecond g 0, held := upd s.sb.held g 0 } }
  if n = 0 then s1 else s1.request ⟨g, 0, 0x06, argOf (min n 65535) 0, false⟩

def execSuppressionSecondEnd (g : Fin 4) (s : State) : Out := .next (s.secondEnd g)

/-- The Team with the most corrections of the minute, the lowest Team ID first. -/
def mostCorrected (l : List (Nat × Nat)) : Nat × Nat := l.foldl (fun b p => if b.2 < p.2 then p else b) (0, 0)

/-- R476: the minute ends: CE_SUMMARY where a correction counter rose; the BANK_HOTSPOT of R294 may come again. -/
def State.ceSummary (s : State) : State :=
  let l := s.chip.ceMinute
  let s1 : State := { s with chip := { s.chip with ceMinute := [] }, hotRecord := false }
  if l.isEmpty then s1
  else s1.groomRec 3 1 0x10 (argOf (mostCorrected l).1 (min (l.foldl (fun n p => n + p.2) 0) (2 ^ 32 - 1)))

def execCeSummary (s : State) : Out := .next s.ceSummary

/-- A record of the ring; an index that holds none reads 0. -/
def State.sbRec (s : State) (i : Nat) : BitVec 128 := Tab.get (fun _ => 0#128) s.sb.ring i

/-- Word w of a record. -/
def recWord (r : BitVec 128) (w : Nat) : Word := BitVec.ofNat 32 (r.toNat / 2 ^ (32 * w))

/-- R480: a read of word 0 of record i latches words 1 to 3 for the reader. -/
def State.sbRead (who : Agent) (i : Nat) (s : State) : State :=
  let r := s.sbRec i
  let s1 := ((s.setLatch who 0x20004 (recWord r 1)).setLatch who 0x20008 (recWord r 2)).setLatch who 0x2000C (recWord r 3)
  { s1 with rdata := [recWord r 0] }

def execSbRecordRead (who : Agent) (i : Fin 8192) (s : State) : Out := .next (s.sbRead who i)

/-! ### The SMBus target (R473, R481) -/

/-- Bytes read over SMBus. -/
def State.answer (s : State) (bs : List Byte) : State := { s with rdata := bs.map (fun b => b.setWidth 32) }

/-- R481: the target serves its commands once ARP has assigned an address, while VDD_AON is up. -/
def State.smbusOn (s : State) : Bool := s.chip.vddAon && s.sb.smbAddr.isSome

def State.smbusStatus (s : State) : State :=
  let flags := ofBool (s.on Reg.SB_STAT_FROZEN) + 2 * ofBool s.faultLow
    + 4 * ofBool (s.on Reg.CHIP_THERM_THERM && s.chip.vddAon && s.chip.aonNew == 0) + 8 * ofBool s.chip.halted
    + 16 * s.get Reg.CHIP_MODE_BOOT_DONE
  s.answer (leBytes 1 (if s.chip.halted then 0xFF else s.mode) ++ leBytes 1 flags ++ leBytes 2 (s.get Reg.SB_STAT_NEWEST)
    ++ leBytes 2 s.sb.qcause ++ leBytes 1 (s.get Reg.CHIP_THERM_TJ_MAX) ++ leBytes 1 (s.get Reg.CHIP_THERM_DUTY)
    ++ leBytes 4 (s.rd Adr.SB_DROP).toNat)

def execSmbusStatus (s : State) : Out := .next (if s.smbusOn then s.smbusStatus else s)

def State.smbusIndex (v : Nat) (s : State) : State := if v ≤ 8191 then { s with sb := { s.sb with smbIndex := v } } else s

def execSmbusSetIndex (v : BitVec 16) (pecOk : Bool) (s : State) : Out :=
  .next (if s.smbusOn && pecOk then s.smbusIndex v.toNat else s)

def State.smbusRecord (s : State) : State :=
  let i := s.sb.smbIndex
  ({ s with sb := { s.sb with smbIndex := (i + 1) % 8192 } } : State).answer (leBytes 16 (s.sbRec i).toNat)

def execSmbusReadRecord (s : State) : Out := .next (if s.smbusOn then s.smbusRecord else s)

def execSmbusAlertStat (s : State) : Out :=
  .next (if s.smbusOn then s.answer (leBytes 1 (s.rd Adr.SB_ALERT_STAT).toNat) else s)

def State.alertClr (v : Nat) (s : State) : State :=
  let old := s.get Reg.SB_ALERT_STAT_CAUSE
  s.put Reg.SB_ALERT_STAT_CAUSE (old - (old &&& v % 128))

def execSmbusAlertClr (v : Byte) (pecOk : Bool) (s : State) : Out :=
  .next (if s.smbusOn && pecOk then s.alertClr v.toNat else s)

/-- R479: the release of the freeze. -/
def State.release479 (s : State) : State :=
  if s.on Reg.SB_STAT_FROZEN then
    let s1 := (s.clr Reg.SB_STAT_FROZEN).clr Reg.SB_FREEZE_VALID
    { s1 with sb := { s1.sb with unfrozen := some (s.get Reg.SB_DROP_DROPPED) } }
  else s

def execUnfreeze (v : Byte) (pecOk : Bool) (s : State) : Out :=
  .next (if s.smbusOn && pecOk && v == 0xA5#8 then s.release479 else s)

/-- R481, R428: the board controller asks for a warm reset. -/
def State.askWarm (s : State) : State :=
  if s.chip.halted || (s.chip.coldBoot && !s.on Reg.CHIP_MODE_BOOT_DONE) || s.on Reg.CHIP_BOOT_FAILED || s.chip.inReset then s
  else { s with chip := { s.chip with warmReq := 4 } }

def execSmbusWarmReset (v : Byte) (pecOk : Bool) (s : State) : Out :=
  .next (if s.smbusOn && pecOk && v == 0x5A#8 then s.askWarm else s)

def execSmbusChipId (s : State) : Out := .next (if s.smbusOn then s.answer (leBytes 8 s.fuses.serial.toNat) else s)

/-- R481: ARP assigns the dynamic address. -/
def execSmbusArpAssign (addr : BitVec 7) (s : State) : Out :=
  .next (if s.chip.vddAon then { s with sb := { s.sb with smbAddr := some addr.toNat } } else s)

/-- The SMBus Device Default Address, 0b1100001. -/
abbrev smbDefault : Nat := 0x61

/-- R473, R481: the target, while it drives ALERT_N low, answers the Alert Response Address and releases ALERT_N. -/
def State.alertResponse (s : State) : State :=
  if s.alertLow then
    ({ s with sb := { s.sb with araDone := true } } : State).answer (leBytes 1 (s.sb.smbAddr.getD smbDefault))
  else s

def execAlertResponseRead (s : State) : Out := .next s.alertResponse

/-! ### JTAG (R482, R536) -/

/-- The boundary-scan instructions let go of the pins. -/
def State.dropPins (s : State) : State := { s with ht := { s.ht with extest := false } }

/-- R482: Capture-DR of SBACC. -/
def State.sbaccCapture (s : State) : State :=
  let i := s.sb.jtagIndex
  let v := BitVec.ofNat 144 ((s.sbRec i).toNat + i * 2 ^ 128 + s.get Reg.SB_STAT_FROZEN * 2 ^ 141)
  { s.dropPins with chip := { s.chip with jtagIr := 0x20, jtagDr := v } }

def execSbaccCapture (s : State) : Out := .next (if s.chip.vddAon then s.sbaccCapture else s)

/-- R482: Update-DR of SBACC. -/
def execSbaccUpdate (v : BitVec 144) (s : State) : Out :=
  .next (if s.chip.vddAon then
    { s.dropPins with sb := { s.sb with jtagIndex := bits v.toNat 140 128 }, chip := { s.chip with jtagIr := 0x20, jtagDr := v } } else s)

/-- R536: the instruction that a code selects in a lifecycle state: a code outside the table, or one closed in DEPLOYED, acts
as BYPASS. -/
def jtagOf (lc code : Nat) : Nat :=
  if code = 0 ∨ code = 1 ∨ code = 0x20 then code
  else if lc = 2 then 0xFF
  else if code ≤ 4 ∨ (0x40 ≤ code ∧ code ≤ 0x7F) then code
  else 0xFF

/-- R536: the IDCODE register. -/
def State.idcode (s : State) : Nat :=
  packBits [(28, 4, s.fuses.stepping), (12, 16, if s.fuses.small then 0x0C31 else 0x0C30), (1, 11, 0x4E5), (0, 1, 1)]

/-- R536, R537, R337: an instruction is loaded; EXTEST, HIGHZ and CLAMP take the scanned pins in IDLE and QUARANTINE, every other one
returns them. -/
def State.jtagLoad (code : Option Byte) (s : State) : State :=
  let i := jtagOf s.fuses.lifecycle (match code with | some c => c.toNat | none => 2)
  let s1 : State := { s with chip := { s.chip with
    jtagIr := i, jtagDr := if i = 2 then BitVec.ofNat 144 s.idcode else if i = 1 then s.chip.jtagDr else 0 } }
  if i = 0 ∨ i = 3 ∨ i = 4 then
    if s.mode = mIdle ∨ s.mode = mQuarantine then { s1 with ht := { s1.ht with extest := true } }
    else s1.set1 Reg.HT_STAT_EXTEST_REFUSED
  else s1.dropPins

def execJtagInstructionLoad (code : Option Byte) (s : State) : Out := .next (if s.chip.vddAon then s.jtagLoad code else s)

/-! ### Groom watchdogs (R467 to R469) -/

/-- R484: TIMEOUT in force. -/
def State.wdtLimit (s : State) (g : Nat) : Nat := max 100 (min 500 (s.get (Reg.GRM_WDT_CTL_TIMEOUT g)))

def State.setWdt (s : State) (g us : Nat) : State := { s with chip := { s.chip with wdt := upd s.chip.wdt g us } }

/-- R467: KICK restarts the count. -/
def execWatchdogKick (g : Fin 4) (v : Word) (s : State) : Out := .next (if v.getLsbD 0 then s.setWdt g.val 0 else s)

/-- R469: a failed restart. -/
def State.restartFailed (s : State) (g : Nat) : State := (s.alert 5).halt 2 g

/-- R467, R468: the Groom restarts: its queued events are lost, and its mailbox waits for it. -/
def State.groomDown (s : State) (g : Nat) : State :=
  (s.sat (Reg.MBX_EVTLOST_COUNT g) (s.box g).events.length).onBox g (fun b => { b with
    events := [], evtLost := true, restarting := true })

/-- R467, R469: an expiry of the watchdog. -/
def State.wdtExpire (s : State) (g pc recent : Nat) (digestOk : Bool) (at_ : Word) : State :=
  if 2 ≤ recent then s.restartFailed g
  else
    let a := pc / 4 * 4 % 2 ^ 22
    let s1 := ((s.setWdt g 0).wr (Adr.GRM_WDT_PC g) (BitVec.ofNat 32 a)).hwRec 2 0x40 (argOf (g + 256 * (recent + 1)) a)
    let s2 := (s1.sat (Reg.GRM_WDT_STAT_RESTARTS g) 1).put (Reg.GRM_WDT_STAT_RECENT g) (recent + 1)
    if digestOk then (s2.groomDown g).trcRestart g at_ else (s2.groomDown g).restartFailed g

/-- R467, R452: the watchdog counts on; at TIMEOUT it expires, unless a kick falls in the same cycle. -/
def State.wdtCount (g us pc recent : Nat) (digestOk kick : Bool) (at_ : Word) (s : State) : State :=
  if s.chip.halted || (s.box g).restarting then s
  else
    let n := look s.chip.wdt g + us
    if n < s.wdtLimit g then s.setWdt g n
    else if kick then (s.setWdt g 0).set1 (Reg.GRM_WDT_STAT_LATE g)
    else s.wdtExpire g pc recent digestOk at_

def execWatchdogExpiry (g : Fin 4) (us pc recent : Nat) (digestOk kick : Bool) (at_ : Word) (s : State) : Out :=
  .next (s.wdtCount g us pc recent digestOk kick at_)

/-- R381: every command taken and not completed is answered with GROOM_RESTART, in ring order. -/
def State.answerRestart (s : State) (g : Nat) : State :=
  let l := (s.box g).taken
  l.foldl (fun s c => s.respond g c false (errResp 3 0 0 0)) (s.onBox g (fun b => { b with taken := [], restarting := false }))

/-- R381, R418, R468: the restarted Groom serves again; what a long command of Groom 3 had begun ends with it. -/
def State.groomUp (g : Nat) (s : State) : State :=
  if (s.box g).restarting && !s.chip.halted then
    let s1 := (((s.answerRestart g).set1 (Reg.MBX_STAT_RESTARTED g)).alert 5).postEvent 0 ⟨0x0030, 1, packBytes [(16, 1, g)]⟩
    if g = 3 then
      let s2 := s1.stopAlign.clr Reg.CHIP_MODE_SVC_CHG
      { s2 with chip := { s2.chip with stepTo := none } }
    else s1
  else s

def execGroomRestart (g : Fin 4) (s : State) : Out := .next (s.groomUp g)

/-- R469: the restart takes longer than 300 us. -/
def execGroomRestartTimeout (g : Fin 4) (s : State) : Out :=
  .next (if (s.box g).restarting && !s.chip.halted then s.restartFailed g else s)

end Sys2Proof.Machine
end

