-- ==== Sys2Proof/Machine/RegAccess.lean ====
section
/-! DEFINITION. Reads and writes of BAR0 by an agent (R7 to R11, R29, R361, R362, R512 to R523): which register an offset
names, what a read returns and does, who may write, and what a write does: a register whose writes have a meaning of
their own goes to that meaning, every other one follows the access codes of its fields. -/
namespace Sys2Proof.Machine

/-! ### Which register (R514 to R516, R519) -/

/-- The Team whose window an offset of the Team arrays lies in: a virtual window directly, a physical one under the row map
(R515, R516); none for an unmapped row. -/
def State.windowTeam (s : State) (a : Nat) : Option Nat :=
  if 0x400000 ≤ a ∧ a < 0x500000 then
    (let t := (a - 0x400000) / 0x400; if t < s.nTeams then some t else none)
  else
    let p := (a - 0x500000) / 0x400
    (s.chip.rowMap.findIdx? (· == p / 32)).map (fun v => 32 * v + p % 32)

/-- An offset of one of the two Team arrays. -/
def inTeams (a : Nat) : Bool := decide (0x400000 ≤ a ∧ a < 0x610000)

/-- The virtual-window offset of an offset of a Team array. -/
def virt (t a : Nat) : Nat := 0x400000 + 0x400 * t + a % 0x400

/-- R519: an offset that names a register or a buffer. -/
def State.named (s : State) (a : Nat) : Bool :=
  if inTeams a then
    (decide (0x500000 ≤ a) || decide ((a - 0x400000) / 0x400 < s.nTeams)) && (findReg (virt 0 a)).isSome
  else
    (findReg a).isSome
      || (decide (0x10000 ≤ a ∧ a < 0x1C000) && decide ((a - 0x10000) % 0x3000 < 0x2000))
      || decide (0x1D000 ≤ a ∧ a < 0x1D400) || decide (0x1E000 ≤ a ∧ a < 0x1E008)
      || decide (0x20000 ≤ a ∧ a < 0x40000) || decide (0x44000 ≤ a ∧ a < 0x50000) || decide (0x190000 ≤ a ∧ a < 0x1A0000)

/-! ### What a read returns -/

/-- R59: TEAM_STEP: HALT_ALL; STATE 5 while no stride is in progress, and 3 in a Team that a halt keeps from its next step. -/
def State.viewStep (s : State) (t : Nat) : Word :=
  let m := s.team t
  let w := setBits (s.readable (Adr.TEAM_STEP t)) 14 14 (ofBool (s.chip.haltBkp || s.chip.haltChk))
  if !(m.active && m.len != 0) then setBits w 13 11 5
  else if m.halted && decide (s.get (Reg.TEAM_STEP_STEP t) < m.len) then setBits w 13 11 3
  else w

/-- A register of Team t's window; the registers of an unpowered Team read 0 (R516). -/
def State.viewTeam (s : State) (t a : Nat) : Word :=
  let o := a % 0x400
  if 0xC0 ≤ o ∧ o < 0x190 ∧ !s.teamOn t then 0
  else if o = 0xD4 then s.viewStep t
  else if o = 0x158 then setBits (s.readable (virt t a)) 10 8 (if s.atEnd t && (s.team t).len != 0 then s.get (Reg.TEAM_STRIDE_STAT_WAIT_CAUSE t) else 0)
  else if o = 0x184 then setBits (s.readable (Adr.TEAM_CHK_STAT t)) 31 31 (ofBool s.chip.haltChk)
  else if o = 0x214 ∨ o = 0x218 then
    let r := s.router t
    let i := s.get (Reg.RTR_SS_IDX_INDEX t)
    let e := if s.on (Reg.RTR_SS_IDX_SET t) then shdEntry r i else actEntry r i
    BitVec.ofNat 32 (if o = 0x214 then bits e.toNat 23 0 else bits e.toNat 47 24)
  else s.readable (virt t a)

/-- R182: the read-out windows of the matching store and the delay list, and the flags of a domain. -/
def State.viewDs (s : State) (a : Nat) : Word :=
  if 0x54000 ≤ a ∧ a < 0x55000 then
    match look s.ds.store ((a - 0x54000) / 16) with
    | none => 0
    | some k =>
      let w := a % 16 / 4
      BitVec.ofNat 32 (if w = 0 then k.tag else if w = 1 then k.tag / 2 ^ 32
        else if w = 2 then packBits [(31, 1, 1), (30, 1, ofBool k.hitch), (24, 3, k.opnd), (0, 24, k.data.toNat)] else k.task)
  else if 0x55000 ≤ a ∧ a < 0x55400 then
    match s.ds.delay[(a - 0x55000) / 8]? with
    | none => 0
    | some e =>
      BitVec.ofNat 32 (if a % 8 = 0 then e.time
        else packBits [(31, 1, 1), (22, 1, ofBool e.falling), (16, 6, e.dom), (0, 16, e.time / 2 ^ 32)])
  else if 0x51000 ≤ a ∧ a < 0x51800 ∧ a % 0x20 = 0x1C then
    let d := (a - 0x51000) / 0x20
    setBits (setBits (s.readable a) 3 3 (ofBool !s.holdShown)) 0 0 (ofBool ((dueDoms s.ds.delay).contains d))
  else s.readable a

/-- The oldest transmit stamp, in TB_TXQ_W0 to W3 (R348, R357). -/
def State.viewTxq (s : State) (w : Nat) : Word :=
  match s.tb.txq with
  | [] => 0
  | e :: _ =>
    BitVec.ofNat 32 (if w = 0 then packBits [(31, 1, 1), (24, 5, e.src), (16, 8, e.id), (0, 16, e.at_.sec / 2 ^ 32)]
      else if w = 1 then e.at_.sec else if w = 2 then e.at_.ns else e.at_.frac)

/-- The upper words of the registers whose lowest word a read latches (R343, R353, R480, R520): they read as latched. -/
def latchedAddrs : List Nat :=
  [Adr.CHIP_STRIDE_HI, Adr.DS_NOW_HI, Adr.LD_HOLD_H_HI, Adr.CAP_TRIG_HI, Adr.CAP_STOP_STRIDE_HI, Adr.CHIP_SPOIL_HI,
    Adr.CHIP_ID_HI, Adr.TB_NOW_SEC_LO, Adr.TB_NOW_SEC_HI, Adr.TB_NOW_FRAC, Adr.TB_NOW_NR, Adr.TB_SB_NS, Adr.TB_SB_SEC_LO,
    Adr.TB_SB_SEC_HI, Adr.TB_SB_FRAC]

/-- R361 to R362: mailbox slots and registers. -/
def State.viewBox (s : State) (a : Nat) : Word :=
  let m := (a - 0x10000) / 0x3000
  let o := (a - 0x10000) % 0x3000
  let word (l : List (Nat × BitVec 512)) (o : Nat) : Word := BitVec.ofNat 32 ((look l (o / 64)).toNat / 2 ^ (8 * (o % 64)))
  if o < 0x1000 then word (s.box m).cmd o else if o < 0x2000 then word (s.box m).rsp (o - 0x1000) else s.readable a

/-- HT_FPLL.LOCKED: the PLL is locked while it is enabled with a multiplier of 8 to 16 (R321). -/
def State.viewFpll (s : State) : Word :=
  let m := s.get Reg.HT_FPLL_M
  setBits (s.readable Adr.HT_FPLL) 9 9 (ofBool (s.on Reg.HT_FPLL_EN && decide (8 ≤ m ∧ m ≤ 16)))

/-- What a read of an offset by an agent returns. -/
def State.peek (s : State) (who : Agent) (a : Nat) : Word :=
  if inTeams a then (match s.windowTeam a with | some t => s.viewTeam t a | none => 0)
  else if latchedAddrs.contains a then s.latched who a
  else if 0x10000 ≤ a ∧ a < 0x1C000 then s.viewBox a
  else if 0x1D000 ≤ a ∧ a < 0x1D400 then s.msixWord (a - 0x1D000)
  else if a = 0x1E000 then BitVec.ofNat 32 s.pcie.pba.toNat
  else if a = 0x1E004 then BitVec.ofNat 32 (s.pcie.pba.toNat / 2 ^ 32)
  else if 0x20000 ≤ a ∧ a < 0x40000 then
    (if a % 16 = 0 then recWord (s.sbRec ((a - 0x20000) / 16)) 0 else s.latched who (0x20000 + a % 16))
  else if a = Adr.TB_NOW_NS then BitVec.ofNat 32 s.tb.now.ns
  else if Adr.TB_TXQ_W0 ≤ a ∧ a ≤ Adr.TB_TXQ_W3 then s.viewTxq ((a - Adr.TB_TXQ_W0) / 4)
  else if 0x44000 ≤ a ∧ a < 0x50000 then BitVec.ofNat 32 (ofLeBytes (s.tpBytes (a - 0x40000) 4))
  else if 0x50000 ≤ a ∧ a < 0x60000 then s.viewDs a
  else if 0x80000 ≤ a ∧ a < 0x90000 ∧ a % 0x1000 = 0x1C then
    setBits (s.readable a) 8 0 (s.link ((a - 0x80000) / 0x1000)).qrx.length
  else if a = Adr.HT_FPLL then s.viewFpll
  else if 0x190000 ≤ a ∧ a < 0x1A0000 then
    BitVec.ofNat 32 ((Tab.get (fun _ => 0#256) s.trace.buf ((a - 0x190000) / 32)).toNat / 2 ^ (8 * (a % 32)))
  else s.readable a

/-! ### What a read does -/

/-- The upper words that a read of a lowest word latches, with their values (R343, R353, R480, R520). -/
def State.latches (s : State) (a : Nat) : List (Nat × Word) :=
  if a = Adr.CHIP_STRIDE_LO then [(Adr.CHIP_STRIDE_HI, s.rd Adr.CHIP_STRIDE_HI)]
  else if a = Adr.DS_NOW_LO then [(Adr.DS_NOW_HI, s.rd Adr.DS_NOW_HI)]
  else if a = Adr.LD_HOLD_H_LO then [(Adr.LD_HOLD_H_HI, s.rd Adr.LD_HOLD_H_HI)]
  else if a = Adr.CAP_TRIG_LO then [(Adr.CAP_TRIG_HI, s.rd Adr.CAP_TRIG_HI)]
  else if a = Adr.CAP_STOP_STRIDE_LO then [(Adr.CAP_STOP_STRIDE_HI, s.rd Adr.CAP_STOP_STRIDE_HI)]
  else if a = Adr.CHIP_SPOIL_LO then [(Adr.CHIP_SPOIL_HI, s.rd Adr.CHIP_SPOIL_HI)]
  else if a = Adr.CHIP_ID_LO then [(Adr.CHIP_ID_HI, s.rd Adr.CHIP_ID_HI)]
  else if a = Adr.TB_NOW_NS then
    [(Adr.TB_NOW_SEC_LO, BitVec.ofNat 32 s.tb.now.sec), (Adr.TB_NOW_SEC_HI, BitVec.ofNat 32 (s.tb.now.sec / 2 ^ 32)),
      (Adr.TB_NOW_FRAC, BitVec.ofNat 32 s.tb.now.frac), (Adr.TB_NOW_NR, BitVec.ofNat 32 (stampNR s.tb.now))]
  else if a = Adr.TB_SB_STRIDE then
    [Adr.TB_SB_NS, Adr.TB_SB_SEC_LO, Adr.TB_SB_SEC_HI, Adr.TB_SB_FRAC].map (fun b => (b, s.rd b))
  else if 0x20000 ≤ a ∧ a < 0x40000 ∧ a % 16 = 0 then
    let r := s.sbRec ((a - 0x20000) / 16)
    [(0x20004, recWord r 1), (0x20008, recWord r 2), (0x2000C, recWord r 3)]
  else []

/-- R348: the oldest transmit stamp leaves the queue. -/
def State.txqPop (s : State) : State := ({ s with tb := { s.tb with txq := s.tb.txq.drop 1 } } : State).txqCount

/-- The register that a read's RC fields belong to: none in an unpowered Team (R516). -/
def State.rcAddr (s : State) (a : Nat) : Option Nat :=
  if inTeams a then
    match s.windowTeam a with
    | some t => if 0xC0 ≤ a % 0x400 ∧ a % 0x400 < 0x190 ∧ !s.teamOn t then none else some (virt t a)
    | none => none
  else some a

/-- A read of 4 bytes by an agent: its value, the latches it sets, the RC fields it clears, the stamp it takes (R7, R343,
R348, R520). -/
def State.readReg (s : State) (who : Agent) (a : Nat) : State :=
  let v := s.peek who a
  let s1 := (s.latches a).foldl (fun s p => s.setLatch who p.1 p.2) s
  let s2 := match s1.rcAddr a with | some b => s1.readClear b | none => s1
  let s3 := if a = Adr.TB_TXQ_W3 then s2.txqPop else s2
  { s3 with rdata := s.rdata ++ [v] }

/-! ### Blocks whose clock has stopped (R443, R448, R521) -/

/-- The block whose clock serves an offset: a Team island, the scheduler island (1,024), a GDDR6 controller with its gateway
(1,025 and up). -/
def State.clockOf (s : State) (a : Nat) : Option Nat :=
  if inTeams a then s.windowTeam a
  else if 0x50000 ≤ a ∧ a < 0x80000 then some 1024
  else if 0xC0000 ≤ a ∧ a < 0xE0000 then some (1025 + (a - 0xC0000) / 0x2000)
  else if 0xE0000 ≤ a ∧ a < 0xF0000 then some (1025 + (a - 0xE0000) / 0x1000)
  else none

/-- The offset lies in a block whose clock has stopped. -/
def State.deadBlock (s : State) (a : Nat) : Bool :=
  match s.clockOf a with
  | some k => s.chip.stopped.contains k
  | none => false

/-- R521: a register access to a block whose clock has stopped ends at the heartbeat timeout: CLASS 6, and INDEX is bits
[23:16] of the offset (R444). -/
def State.busTimeout (s : State) (a : Nat) : State := (s.set1 Reg.CHIP_CDC_STAT_STOPPED).cdcLoc 0 6 (a / 2 ^ 16 % 256) 2

/-- A read that reaches the register bus. -/
def State.busRead (s : State) (who : Agent) (a : Nat) : State :=
  if s.deadBlock a then { s.busTimeout a with rdata := s.rdata ++ [0#32] } else s.readReg who a

/-- The host waits for BAR4 reads of the Team whose window an offset lies in. -/
def State.waitedFor (s : State) (who : Agent) (a : Nat) : Bool :=
  who == .host && inTeams a && (match s.windowTeam a with | some t => (s.team t).hostWords != 0 | none => false)

/-- R367: the host's waiting BAR4 reads of the Team whose window an offset lies in are performed first. -/
def State.hostFirst (s : State) (who : Agent) (a : Nat) : State :=
  if who == .host && inTeams a then
    match s.windowTeam a with
    | some t => s.hostCatchUp t .ok
    | none => s
  else s

/-- R361, R471: a read by an agent.  In the always-on halt a read by the host returns all ones and reaches no register; one
that is not aligned returns 0.  The host's read of PE_FENCE gets no data while a write of BAR2 has not been performed (R368). -/
def State.agentRead (s : State) (who : Agent) (a : Nat) : State :=
  if s.chip.halted && who == .host then { s with rdata := [0xFFFFFFFF#32] }
  else if a % 4 ≠ 0 ∧ who == .host then { s.peErr 1 0 a with rdata := [0#32] }
  else if who == .host && a == Adr.PE_FENCE && s.hostWrites then { s with rdata := [] }
  else ((if s.waitedFor who a then s else { s with rdata := [] }).hostFirst who a).busRead who (a / 4 * 4)

/-! ### What a write does -/

/-- R97, R101: TEAM_DM_CTL: the bank power fields act under R99. -/
def State.dmCtlWrite (s : State) (t : Nat) (v : Word) : State :=
  (((s.bankWrite t 0 (bits v.toNat 1 0)).bankWrite t 1 (bits v.toNat 3 2)).put (Reg.TEAM_DM_CTL_PATROL_PAUSE t)
    (bits v.toNat 13 6)).put ⟨Adr.TEAM_DM_CTL t, 5, 4⟩ (bits v.toNat 5 4)

/-- A register of Team t's window. -/
def State.storeTeam (s : State) (t a : Nat) (v : Word) : State :=
  let o := a % 0x400
  if 0xC0 ≤ o ∧ o < 0x190 ∧ !s.teamOn t then s
  else if o = 0x110 then s.dmCtlWrite t v
  else if o = 0x1C0 then s.teamPwr t v
  else if o = 0x200 then s.rtrCtl t v false
  else if o = 0x214 then s.ssW0 t (v.setWidth 24)
  else if o = 0x218 then s.ssW1 t (v.setWidth 24)
  else s.writeFields (virt t a) v.toNat

/-- The value of a write with one bit left as the register has it. -/
def State.keepBit (s : State) (a k : Nat) (v : Word) : Nat := (setBits v k k (bits (s.rd a).toNat k k)).toNat

/-- R219, R228: a register of lane l. -/
def State.storeLane (s : State) (l o a : Nat) (v : Word) : State :=
  if o = 0 then
    let s1 := s.writeFields a (s.keepBit a 0 v)
    if v.getLsbD 0 == s.on (laneCtl l 0 0) then s1 else if v.getLsbD 0 then s1.laneEnable l else s1.laneDisable l
  else if o = 0x0C then (let s1 := s.writeFields a v.toNat; if v.getLsbD 4 then s1.injOne l else s1)
  else s.writeFields a v.toNat

/-- A register of link n: clearing EN takes the link down, setting it lets the link rise; a new WIDTH of an elastic link that
is UP waits for a frame start (R245), and WIDTH = 3 is ignored and sets CFG_ERR on lane 0 (R261). -/
def State.storeLink (s : State) (n a : Nat) (v : Word) : State :=
  if a % 0x1000 = 0 then
    let ill := decide (16 ≤ n ∧ bits v.toNat 2 1 = 3)
    let v1 := if ill then setBits v 2 1 (s.get (Reg.EL_LINK_CTL_WIDTH (n - 16))) else v
    let s1 := (s.writeFields a v1.toNat).set1If ill (laneStat (144 + 4 * (n - 16)) 17 17)
    let s2 := if s.on (linkEn n) == v.getLsbD 0 then s1 else if v.getLsbD 0 then s1.linkRise n else s1.takeDown n
    if 16 ≤ n then s2.wantWidth (n - 16) (bits v1.toNat 2 1) else s2
  else s.writeFields a v.toNat

/-- The registers of lead or elastic links. -/
def State.storeLinks (s : State) (lead : Bool) (p o a : Nat) (v : Word) : State :=
  let n := if lead then p else 16 + p
  if o < 0x800 then s.storeLink n a v
  else
    let x := (o - 0x800) / 0x40
    if (if lead then 9 else 4) ≤ x then s else s.storeLane (if lead then 9 * p + x else 144 + 4 * p + x) (o % 0x40) a v

/-- R255, R257, R262: LD_HOLD_CTL; with both bits the hold in effect ends and a new one begins in the new EPOCH. -/
def State.storeHold (s : State) (v : Word) : State :=
  let s1 := s.writeFields Adr.LD_HOLD_CTL v.toNat
  let s2 := if v.getLsbD 9 then s1.release else s1
  if v.getLsbD 8 then s2.holdRequest else s2

/-- A register of GDDR6 channel c. -/
def State.storeGddr (s : State) (c o a : Nat) (v : Word) : State :=
  if o = 0 then
    let s1 := s.writeFields a (setBits (BitVec.ofNat 32 (s.keepBit a 12 v)) 13 13 (s.get (Reg.GD_CH_CTL_PAUSE c))).toNat
    let s2 := if v.getLsbD 13 then s1.pauseWrite c else s1.pauseClear c false
    let s3 := s2.set1If (s2.chanIllegal c) (Reg.GD_CH_STAT_CFG_ERR c)
    if v.getLsbD 12 == s.on (Reg.GD_CH_CTL_SREF c) then s3 else s3.srefWrite c (v.getLsbD 12)
  else if o = 0x20 then
    (if v.getLsbD 3 then s.trainOp c (bits v.toNat 2 0) else s.put (Reg.GD_TRN_CTL_OP c) (bits v.toNat 2 0))
  else if 0x100 ≤ o then s.dlyWrite c ((o - 0x100) / 4) (bits v.toNat 7 0)
  else s.writeFields a v.toNat

/-- R310: the capture registers that take a write only in IDLE and DISABLED. -/
def capGuarded (a : Nat) : Bool :=
  a == Adr.CAP_RGN || a == Adr.CAP_POST || a == Adr.CAP_START_LO || a == Adr.CAP_START_HI || a == Adr.CAP_TRIG_CTL
    || a == Adr.CAP_SEQ_N || (decide (0x60100 ≤ a) && (findReg a).isSome)

/-- A register of the capture engine (R310, R312). -/
def State.storeCap (s : State) (a : Nat) (v : Word) : State :=
  if capGuarded a then
    (if s.capState = cIdle ∨ s.capState = cDisabled then s.writeFields a v.toNat else s.set1 Reg.CAP_STAT_CFG_LOCKED)
  else if a = Adr.CAP_CTL then
    let s1 := s.writeFields a v.toNat
    let s2 := if v.getLsbD 0 then s1.capArm else s1
    let s3 := if v.getLsbD 1 then s2.capStopReq else s2
    let s4 := if v.getLsbD 2 then s3.capForce else s3
    if v.getLsbD 3 then s4.capDisarm else s4
  else s.writeFields a v.toNat

/-- A register of the Hitch fabric (R319, R321 to R323, R331, R334 to R336). -/
def State.storeHitch (s : State) (a : Nat) (v : Word) : State :=
  if a = Adr.HT_CTL then (s.hitchGoWrite (v.getLsbD 0)).qstop (v.getLsbD 1)
  else if a = Adr.HT_FPLL then (s.writeFields a v.toNat).fclkErr
  else if a = Adr.HT_PR then 
    (if v.getLsbD 7 then s.prHold (bits v.toNat 6 0)
      else if s.on Reg.HT_PR_HOLD then s.prRelease else s.put Reg.HT_PR_REGION (bits v.toNat 6 0))
  else if a = Adr.HT_CONT then (let s1 := s.writeFields a v.toNat; if v.getLsbD 30 then s1.rearm else s1)
  else if Adr.HT_BANK 0 ≤ a ∧ a < Adr.HT_BANK 8 then (s.writeFields a v.toNat).hitchBanks
  else if Adr.HT_FCLK 0 ≤ a ∧ a < Adr.HT_FCLK 4 then (s.writeFields a v.toNat).fclkErr
  else if Adr.HT_TREE 0 ≤ a ∧ a < Adr.HT_TREE 8 then
    let t := (a - Adr.HT_TREE 0) / 4
    (s.set1If false (Reg.HT_TREE_STOPPED t)).wr a (setBits (s.rd a) 20 20 (ofBool (s.on (Reg.HT_TREE_STOPPED t) && !v.getLsbD 20)))
      |>.treeWrite t (bits v.toNat 19 0)
  else s.writeFields a v.toNat

/-- A register or a buffer of the Time Base and the time port (R341, R353 to R357). -/
def State.storeTime (s : State) (a : Nat) (v : Word) : State :=
  if a = Adr.TB_CTL then (let s1 := s.writeFields a v.toNat; if v.getLsbD 1 then s1.tbSet else s1)
  else if a = Adr.TB_INC then s.tbInc v
  else if a = Adr.TB_ADJ then s.tbAdj v
  else if a = Adr.TB_SB_CTL then
    (let s1 := s.writeFields a v.toNat; if v.getLsbD 0 then s1 else s1.clr Reg.TB_SB_CTL_FROZEN)
  else if a = Adr.TP_CTL then
    (let s1 := s.writeFields a v.toNat; if v.getLsbD 0 then s1 else ((s1.clr Reg.TP_STAT_LINK_UP).clr Reg.TP_STAT_HI_BER).clr Reg.TP_STAT_BLOCK_LOCK)
  else if Adr.TP_TXD 0 ≤ a ∧ a < Adr.TP_TXD 8 then
    (let s1 := s.writeFields a (s.keepBit a 31 v); if v.getLsbD 31 then s1.tpGo ((a - Adr.TP_TXD 0) / 4) else s1)
  else if 0x44000 ≤ a ∧ a < 0x48000 then s.setTpBytes (a - 0x40000) (leBytes 4 v.toNat)
  else s.writeFields a v.toNat

/-- A slot or a register of a mailbox (R361, R378 to R380). -/
def State.storeBox (s : State) (a : Nat) (v : Word) : State :=
  let m := (a - 0x10000) / 0x3000
  let o := (a - 0x10000) % 0x3000
  if o < 0x1000 then s.slotWrite m (o / 4) v
  else if o = 0x2000 then s.doorbell m v
  else if o = 0x200C then s.rspCiWrite m v
  else if o = 0x2010 then (if v.getLsbD 0 then s.boxReset m else s)
  else s.writeFields a v.toNat

/-- R362, R384: a word of the MSI-X table: addresses are aligned to 4 bytes, and of the vector control word only the mask bit
is held; a pending message that is no longer masked leaves. -/
def State.storeMsix (s : State) (o : Nat) (v : Word) : State :=
  let w := if o % 16 = 12 then v &&& 1 else if o % 16 = 0 then v &&& ~~~3 else v
  ({ s with pcie := { s.pcie with msix := Tab.set msixReset s.pcie.msix o w } } : State).sendPending (o / 16)

/-- R461: CHIP_THERM_CTL takes only values with THR75 < THR50 < THR25 and THR25 at most THERM_HI. -/
def State.storeTherm (s : State) (v : Word) : State :=
  let s1 := s.writeFields Adr.CHIP_THERM_CTL v.toNat
  if s1.dutyThr 1 < s1.dutyThr 2 ∧ s1.dutyThr 2 < s1.dutyThr 3 ∧ s1.dutyThr 3 ≤ s1.get Reg.CHIP_THERM_CTL_THERM_HI then s1
  else s

/-- A register of the CHIP block (R120, R458, R475, R483). -/
def State.storeChip (s : State) (a : Nat) (v : Word) : State :=
  if a = Adr.CHIP_STRIDE_LO then s.strideLoWrite v
  else if a = Adr.CHIP_STRIDE_HI then s.strideHiWrite v
  else if a = Adr.CHIP_THERM_CTL then s.storeTherm v
  else if Adr.SB_WR 0 0 ≤ a ∧ a < Adr.SB_WR 4 0 then
    (if a % 16 = 12 then s.sbWr ((a - Adr.SB_WR 0 0) / 16) v else s.wr a v)
  else s.writeFields a v.toNat

/-- A register of the GRM block (R467, R496, R523); the full syncs that a write of GRM_TRC_CTL begins take the addresses of
the Grooms' next instructions, which a register write does not bring: free values. -/
def State.storeGroom (s : State) (a : Nat) (v : Word) : State :=
  if 0x180100 ≤ a ∧ a < 0x180140 ∧ a % 16 = 4 then (if v.getLsbD 0 then s.setWdt ((a - 0x180100) / 16) 0 else s)
  else if a = Adr.GRM_TRC_CTL then
    (s.spendN 4).trcCtl v ((List.range 4).map (fun g => Config.freeW32 (s.free + g)))
  else if a = Adr.GRM_TRC_RGN then
    (if s.get Reg.GRM_TRC_CTL_GEN = 0 then s.writeFields a v.toNat else s.set1 Reg.GRM_TRC_STAT_CFG_LOCKED)
  else s.writeFields a v.toNat

/-- A write of 4 bytes that is taken. -/
def State.storeReg (s : State) (a : Nat) (v : Word) : State :=
  if inTeams a then (match s.windowTeam a with | some t => s.storeTeam t a v | none => s)
  else if a < 0x10000 then s.storeChip a v
  else if a < 0x1C000 then s.storeBox a v
  else if a < 0x1D000 then
    (if a = Adr.PE_INT_EN_LO then s.intEn false v else if a = Adr.PE_INT_EN_HI then s.intEn true v else s.writeFields a v.toNat)
  else if a < 0x1D400 then s.storeMsix (a - 0x1D000) v
  else if a < 0x40000 then s
  else if a < 0x50000 then s.storeTime a v
  else if a < 0x60000 then
    (if a = Adr.DS_HORIZON_LO then { s with ds := { s.ds with horizonLo := v } } else if a = Adr.DS_HORIZON_HI then s.horizonHi v
      else s.writeFields a v.toNat)
  else if a < 0x80000 then s.storeCap a v
  else if a < 0x90000 then s.storeLinks true ((a - 0x80000) / 0x1000) (a % 0x1000) a v
  else if a < 0xA0000 then (if a = Adr.LD_HOLD_CTL then s.storeHold v else s.writeFields a v.toNat)
  else if a < 0xC0000 then s.storeLinks false ((a - 0xA0000) / 0x1000) (a % 0x1000) a v
  else if a < 0xE0000 then s.storeGddr ((a - 0xC0000) / 0x2000) (a % 0x2000) a v
  else if a < 0x140000 then s.writeFields a v.toNat
  else if a < 0x180000 then s.storeHitch a v
  else if a < 0x190000 then s.storeGroom a v
  else s.writeFields a v.toNat

/-- A write that reaches the register bus. -/
def State.busWrite (s : State) (a : Nat) (v : Word) : State := if s.deadBlock a then s.busTimeout a else s.storeReg a v

/-! ### Who may write (R29, R362, R518) -/

/-- R518: the registers that the hardware reserves to particular Grooms: the SEC block to Groom 0, SB_WR_g and GRM_GDWIN_g to
Groom g. -/
def reservedTo (a : Nat) : Option Nat :=
  if 0x1C0000 ≤ a ∧ a < 0x1D0000 then some 0
  else if Adr.SB_WR 0 0 ≤ a ∧ a < Adr.SB_WR 4 0 then some ((a - Adr.SB_WR 0 0) / 16)
  else if Adr.GRM_GDWIN 0 ≤ a ∧ a < Adr.GRM_GDWIN 4 then some ((a - Adr.GRM_GDWIN 0) / 4)
  else none

/-- R362, R519: a host write to an offset is taken. -/
def State.hostMay (s : State) (a : Nat) : Bool :=
  if !s.named a then false
  else if 0x10000 ≤ a ∧ a < 0x1C000 then
    let o := (a - 0x10000) % 0x3000
    decide (o < 0x1000) || decide (0x2000 ≤ o)
  else if 0x1C000 ≤ a ∧ a < 0x1F000 then true
  else s.fuses.lifecycle == 0 && (reservedTo a).isNone

/-- R518: a write by an agent other than the host is taken.  The TAP's instructions give no register write (R536). -/
def agentMay (who : Agent) (a : Nat) : Bool :=
  match who with
  | .host | .jtag => false
  | .groom g => match reservedTo a with | some k => g.val == k | none => true
  | .hub _ => (reservedTo a).isNone

/-- R362, R379: a host write that is refused; one to a response slot breaks the mailbox protocol too. -/
def State.refuseHost (s : State) (a : Nat) : State :=
  let s1 := if 0x10000 ≤ a ∧ a < 0x1C000 ∧ 0x1000 ≤ (a - 0x10000) % 0x3000 ∧ (a - 0x10000) % 0x3000 < 0x2000 then
      s.breach ((a - 0x10000) / 0x3000) (Reg.MBX_STAT_RSP_WR ((a - 0x10000) / 0x3000)) else s
  s1.peErr 0 0 a

/-- R361, R362, R471, R518: a write of 4 bytes by an agent. -/
def State.agentWrite (s : State) (who : Agent) (a : Nat) (v : Word) : State :=
  let b := a / 4 * 4
  if who == .host then
    if s.chip.halted then s else if a % 4 ≠ 0 then s.peErr 1 0 a 
    else if s.hostMay b then (s.hostFirst who b).busWrite b v else s.refuseHost b
  else if agentMay who b then s.busWrite b v else s

/-! ### Sizes (R361) -/

/-- R361: an access of the host of n bytes at offset a has a size and an alignment that BAR0 accepts. -/
def sizeOk (write : Bool) (a n : Nat) : Bool :=
  decide ((n = 4 ∧ a % 4 = 0) ∨ (n = 8 ∧ a % 8 = 0)) || (write && decide (8 < n ∧ n % 4 = 0 ∧ a % 4 = 0))

/-- R361: a write of n bytes: a series of 4-byte writes in ascending order. -/
def State.agentWrites (s : State) (who : Agent) (a n : Nat) (vs : List Word) : State :=
  if who == .host && s.chip.halted then s
  else if who == .host && !sizeOk true a n then s.peErr 1 0 a
  else ((List.range (n / 4)).zip vs).foldl (fun s p => s.agentWrite who (a + 4 * p.1) p.2) s

/-- R361: a read of n bytes: 4 bytes, or 8 bytes as two reads, the lower address first. -/
def State.agentReads (s : State) (who : Agent) (a n : Nat) : State :=
  if who == .host && s.chip.halted then { s with rdata := List.replicate ((n + 3) / 4) 0xFFFFFFFF#32 }
  else if who == .host && !sizeOk false a n then { s.peErr 1 0 a with rdata := List.replicate ((n + 3) / 4) 0#32 }
  else
    let r := (List.range (n / 4)).foldl (fun p i =>
      let s1 := State.agentRead p.1 who (a + 4 * i)
      (s1, p.2 ++ s1.rdata)) (s, [])
    { r.1 with rdata := r.2 }

/-! ### The commands -/

def execRegisterWrite (who : Agent) (a : BitVec 24) (n : Nat) (vs : List Word) (s : State) : Out :=
  .next (s.agentWrites who a.toNat n vs)

def execLatchedPairRead (who : Agent) (a : BitVec 24) (n : Nat) (s : State) : Out := .next (s.agentReads who a.toNat n)

def execRcRegisterRead (who : Agent) (a : BitVec 24) (n : Nat) (s : State) : Out := .next (s.agentReads who a.toNat n)

/-- R343. -/
def execTbNowNsRead (by_ : Agent) (s : State) : Out := .next (s.agentRead by_ Adr.TB_NOW_NS)

/-- R353. -/
def execTbSbStrideRead (by_ : Agent) (s : State) : Out := .next (s.agentRead by_ Adr.TB_SB_STRIDE)

/-- R348. -/
def execTbTxqW3Read (by_ : Agent) (s : State) : Out := .next (s.agentRead by_ Adr.TB_TXQ_W3)

/-- R368: the read returns 0 once every earlier BAR2 and BAR4 write has been performed, and no data until then. -/
def execPeFenceRead (s : State) : Out :=
  .next (if s.chip.halted then { s with rdata := [0xFFFFFFFF#32] } else if s.hostWrites then { s with rdata := [] }
    else { s with rdata := [0#32] })

end Sys2Proof.Machine
end

