-- ==== Sys2Proof/Machine/Arrival.lean ====
section
/-! DEFINITION. What becomes of a dynamic packet at its destination (R139 to R142, R147, R150, R245, R246, R268, R517): the
Team's design memory and registers, the router's own registers, and the attached block: gateway, lead-link site or
management hub. -/
namespace Sys2Proof.Machine

/-! ### Registers by packet: one register in each word -/

/-- The registers of n words are read, each in the low 24 bits of its word (R6). -/
def State.readWords (s : State) (who : Agent) (a n : Nat) : State × List W24 :=
  let r := (List.range n).foldl (fun (p : State × List W24) i =>
    let s1 := State.busRead { p.1 with rdata := [] } who (a + 4 * i)
    (s1, p.2 ++ [(s1.rdata.headD 0).setWidth 24])) (s, [])
  ({ r.1 with rdata := s.rdata }, r.2)

/-- A request for n words of registers from BAR0 offset a: answered at once; `may`: the write is taken. -/
def State.regRequest (s : State) (t : Nat) (who : Agent) (a : Nat) (may : Nat → Bool) (p : Packet) : State :=
  let n := pCount p
  if !(List.range n).all (fun i => s.named (a + 4 * i)) then s.wait t (errCpl t p 4)
  else if pTYPE p = 0 then (let (s1, ws) := s.readWords who a n; s1.wait t (readCpl t p 0 ws))
  else
    let ws := (bodyWords p).take n
    let s1 := (ws.zipIdx).foldl (fun s q => if may (a + 4 * q.2) then s.busWrite (a + 4 * q.2) (q.1.setWidth 32) else s) s
    s1.wait t (writeAck t p)

/-! ### The Team (TGT = 0) -/

/-- A request to the Team: words 0 to 0x17FFF are the three design-memory windows (R90), words from 0x40000 the Team window
of R514 (DESIGN CHOICE: the spec gives no word addresses). -/
def State.teamRequest (s : State) (t : Nat) (p : Packet) : State :=
  let w := pAddr p
  let n := pCount p
  if w % 0x8000 + n ≤ 0x8000 ∧ w < 0x18000 then
    let kind : DmaKind := if pTYPE p = 0 then .read else if w < 0x8000 then .write else if w < 0x10000 then .setBits else .clearBits
    let ws := if pTYPE p = 0 then [] else (bodyWords p).take n
    s.onTeam t (fun m => { m with dma := m.dma ++ [⟨.packet p, kind, w % 0x8000, n, ws, []⟩] })
  else if 0x40000 ≤ w ∧ w + n ≤ 0x40100 then s.regRequest t (.groom 1) (virt t (4 * (w - 0x40000))) (fun _ => true) p
  else s.wait t (errCpl t p 4)

/-- R77, R147: a packet for the Team's side; of those that are no requests only a gateway response has a use. -/
def State.teamPacket (s : State) (t : Nat) (p : Packet) : State :=
  if isReq p then s.teamRequest t p
  else if pTYPE p = 5 then s.onRouter t (fun r => { r with boxT := r.boxT ++ [p] })
  else s

/-! ### The attached block (TGT = 1) -/

/-- R155: a trace record of the probe that TAG names goes to the next place of the probe's region in this channel. -/
def State.probeStore (s : State) (c : Nat) (p : Packet) : State :=
  match look s.probes (pTAG p) with
  | none => s
  | some pr =>
    let n := look (s.chan c).probeAt (pTAG p)
    (s.onChan c (fun v => { v with probeAt := upd v.probeAt (pTAG p) (n + 1) })).gwAcceptBytes
      (2 ^ 32 * c + pr.base % 2 ^ 32 + 8 * n % (pr.size / 2 ^ pr.k))
      ((leBytes 3 (pE0 p) ++ leBytes 3 (pE1 p) ++ leBytes 3 (pE2 p)).take 8)

/-- R155, R268, R307: a packet for gateway c. -/
def State.gwPacket (s : State) (t c : Nat) (p : Packet) : State :=
  if isReq p then s.gwAccept c t p (pAddr p)
  else if pTYPE p = 6 then
    s.gwAcceptBytes (pE2 p * 2 ^ 12 + pE1 p * 2 ^ 5) ((leBytes 3 (pE0 p) ++ p.body.flatMap (fun f => leBytes 15 f.toNat)).take 32)
  else if pTYPE p = 7 then s.probeStore c p
  else s

/-- R246: the packet comes from the endpoint of a lead link of this chip, which has taken it over that link. -/
def State.forwardedHere (s : State) (p : Packet) : Bool :=
  pSTGT p == 1 && (List.range 16).any (fun n => s.site (16 + n) == some (pSRC p))

/-- R246: a packet for the site of lead link n: a request crosses the link, a completion answers a request that came over it.
Forwarding covers one link: a request that has crossed one is answered TARGET_OFF (the status: DESIGN CHOICE). -/
def State.linkPacket (s : State) (t n : Nat) (p : Packet) : State :=
  if isReq p then (if s.isUp n && !s.forwardedHere p then s.onLink n (·.push p) else s.wait t (errCpl t p 1))
  else if isCpl p then s.forwardBack n t p
  else s

/-- A packet with the top two bits of its address cleared (R517). -/
def windowed (p : Packet) : Packet :=
  mkPacket (pDY p * 32 + pDX p) (pTGT p) (pTYPE p) (pCLASS p) (pSRC p) (pSTGT p) (pTAG p) (pSTATUS p) (pE2 p % 2 ^ 22) (pE1 p)
    (pE0 p) p.body

/-- R517: SRC is the site of a management hub. -/
def State.fromHub (s : State) (p : Packet) : Bool := (List.range 4).any (fun n => s.site (32 + n) == some (pSRC p))

/-- R517: a request to management hub n. -/
def State.hubRequest (s : State) (t : Nat) (n : Fin 4) (p : Packet) : State :=
  let a := pAddr p
  let k := a / 2 ^ 46
  if k = 0 then
    (if s.fromHub p ∧ a < 2 ^ 22 then s.regRequest t (.hub n) (4 * a) (agentMay (.hub n)) p else s.wait t (errCpl t p 4))
  else if k = 1 then
    (if s.isUp (16 + n) then s.onLink (16 + n) (·.push (windowed p)) else s.wait t (errCpl t p 1))
  else if k = 2 ∧ a % 2 ^ 46 < 2 ^ 34 then s.gwAccept (a % 2 ^ 34 / 2 ^ 30) t p (a % 2 ^ 30)
  else s.wait t (errCpl t p 4)

/-- A packet for management hub n: a request of R517, or the completion of a request of its own. -/
def State.hubPacket (s : State) (t : Nat) (n : Fin 4) (p : Packet) : State :=
  if isReq p then s.hubRequest t n p
  else if isCpl p then s.onRouter t (fun r => { r with boxA := r.boxA ++ [p] })
  else s

/-- A packet for the block attached to the router of Team t. -/
def State.attPacket (s : State) (t : Nat) (p : Packet) : State :=
  match s.attached t with
  | none => if isReq p then s.wait t (errCpl t p 4) else s
  | some b =>
    if b < 16 then s.gwPacket t b p
    else if b < 32 then s.linkPacket t (b - 16) p
    else s.hubPacket t (Fin.ofNat 4 (b - 32)) p

/-! ### The router's own registers (TGT = 2) -/

/-- A request to the registers of chapter 5, by their offsets in the Team window. -/
def State.routerRequest (s : State) (t : Nat) (p : Packet) : State :=
  let w := pAddr p
  if !isReq p then s
  else if 0x80 ≤ w ∧ w + pCount p ≤ 0x8C then s.regRequest t (.groom 1) (virt t (4 * w)) (fun _ => true) p
  else s.wait t (errCpl t p 4)

/-! ### Delivery -/

/-- R142, R150, R153, R456: what the destination router does with a packet. -/
def State.deliver (s : State) (t : Nat) (p : Packet) : State :=
  if 8 ≤ pTYPE p ∨ 4 < pLEN p then s.sat (Reg.RTR_ABSORB_BAD_PKT t) 1
  else if (s.router t).drain then s.absorb t p 2
  else if pTGT p = 2 then s.routerRequest t p
  else if pTGT p = 1 then (if s.on (Reg.RTR_CTL_ISOLATE_ATT t) then s.absorb t p 1 else s.attPacket t p)
  else if s.on (Reg.RTR_CTL_ISOLATE t) || !s.teamOn t then s.absorb t p 1
  else s.teamPacket t p

/-- R150: the oldest packet that has reached its destination router. -/
def State.packetArrive (t : Nat) (s : State) : State :=
  match (s.router t).arrived with
  | [] => s
  | p :: rest => (s.onRouter t (fun r => { r with arrived := rest })).deliver t p

def execPacketArrival (t : Fin 1024) (s : State) : Out := onMapped t s (State.packetArrive t)

end Sys2Proof.Machine
end

