-- ==== Sys2Proof/Machine/ImageFmt.lean ====
section
/-! DEFINITION. The image as a byte stream (R187 to R191, R548): header, directory, sections and records, with the checks of
their form (FORMAT, GRADE, SEED, NPART).  A section reader answers the records that a sound section holds. -/
namespace Sys2Proof.Machine

/-- A refusal of R193: its code, the Team and the directory entry it names, 0xFFFF for none (R394). -/
structure Rej where
  code : Nat
  team : Nat
  entry : Nat
deriving DecidableEq, Repr

/-- A little-endian number of `n` bytes at offset `o` (R5). -/
def le (bs : List Byte) (o n : Nat) : Nat := ofLeBytes ((bs.drop o).take n)

/-- `n` bytes at offset `o` are 0. -/
def zeros (bs : List Byte) (o n : Nat) : Bool := ((bs.drop o).take n).all (· == 0)

/-- Whole pieces of `n` bytes. -/
def pieces (n : Nat) (bs : List Byte) : List (List Byte) := (List.range (bs.length / n)).map (fun i => (bs.drop (n * i)).take n)

/-- Every container of 4 bytes has bits [31:24] 0 (R189). -/
def containersOk (bs : List Byte) : Bool := (pieces 4 bs).all (fun c => zeros c 3 1)

/-- The 24-bit words of containers. -/
def words24 (bs : List Byte) : List Nat := (pieces 4 bs).map (fun c => le c 0 3)

/-- No two elements are equal. -/
def distinct : List Nat → Bool
  | [] => true
  | x :: xs => !xs.contains x && distinct xs

/-! ### Header and directory (R187 to R189) -/

/-- A section: its type, its directory entry, its bytes. -/
structure Sect where
  type : Nat
  entry : Nat
  body : List Byte
deriving DecidableEq, Repr

/-- Section types of R188. -/
abbrev sIS : Nat := 1
abbrev sSLOT : Nat := 2
abbrev sSM : Nat := 3
abbrev sWR : Nat := 4
abbrev sSEG : Nat := 5
abbrev sDM : Nat := 6
abbrev sRGN : Nat := 7
abbrev sGD : Nat := 8
abbrev sDS : Nat := 9
abbrev sBANK : Nat := 10
abbrev sHMAP : Nat := 11
abbrev sHCFG : Nat := 12
abbrev sVAR : Nat := 13
abbrev sPATCH : Nat := 14
abbrev sMASK : Nat := 15
abbrev sQB : Nat := 16
abbrev sTAP : Nat := 17

def knownType (t : Nat) : Bool := decide (1 ≤ t ∧ t ≤ 17)

/-- Directory entry i. -/
def dirEntry (p : List Byte) (i : Nat) : List Byte := (p.drop (0x40 + 16 * i)).take 16

def dType (e : List Byte) : Nat := le e 0 2
def dLen (e : List Byte) : Nat := le e 4 4
def dOff (e : List Byte) : Nat := le e 8 8

/-- R188, R189: a breach by entry i of the directory. -/
def dirBad (p : List Byte) (i : Nat) : Bool :=
  let e := dirEntry p i
  let n := le p 0x10 2
  decide (2 ≤ le e 2 2) || dLen e % 4 != 0 || dOff e % 16 != 0 || decide (p.length < dOff e + dLen e)
  || (dLen e != 0 && decide (dOff e < 0x40 + 16 * n))
  || (!knownType (dType e) && le e 2 2 == 1)
  || (List.range i).any (fun j =>
      let f := dirEntry p j
      (dLen e != 0 && dLen f != 0 && decide (dOff e < dOff f + dLen f ∧ dOff f < dOff e + dLen e))
      || (knownType (dType e) && dType e == dType f))

/-- The sections of known types, in directory order. -/
def sections (p : List Byte) : List Sect :=
  (List.range (le p 0x10 2)).filterMap (fun i =>
    let e := dirEntry p i
    if knownType (dType e) then some ⟨dType e, i, (p.drop (dOff e)).take (dLen e)⟩ else none)

/-- R187, R188: FORMAT of the header. -/
def imgHeaderOk (p : List Byte) : Bool :=
  le p 0 4 == 0x52445441 && le p 4 2 == 3 && decide (3 ≤ le p 0x10 2 ∧ le p 0x10 2 ≤ 64) && decide (le p 0x13 1 ≤ 1)
  && le p 0x20 8 == 0x40 && zeros p 0x28 24 && decide (0x40 + 16 * le p 0x10 2 ≤ p.length)

/-- The bytes of a section; none where the image does not carry it. -/
def bodyOf (ss : List Sect) (t : Nat) : List Byte :=
  match ss.find? (fun s => s.type == t) with
  | some s => s.body
  | none => []

/-- The directory entry of a section. -/
def entryOf (ss : List Sect) (t : Nat) : Nat :=
  match ss.find? (fun s => s.type == t) with
  | some s => s.entry
  | none => 0xFFFF

def hasType (ss : List Sect) (t : Nat) : Bool := ss.any (fun s => s.type == t)

/-! ### Blocks (R190) -/

/-- A block: its 8-byte header and its items. -/
structure Block where
  head : List Byte
  items : List (List Byte)
deriving DecidableEq, Repr

/-- The blocks of a section whose items have `size` bytes and whose header gives their number in its bytes 6 and 7 or
(`wide`) 4 to 7; none for a section that is cut short.  The first argument bounds the number of blocks. -/
def blocks (size : Nat) (wide : Bool) : Nat → List Byte → Option (List Block)
  | 0, bs => if bs.isEmpty then some [] else none
  | k + 1, bs =>
    if bs.isEmpty then some []
    else
      let n := if wide then le bs 4 4 else le bs 6 2
      if bs.length < 8 + n * size then none
      else (blocks size wide k (bs.drop (8 + n * size))).map (fun l => ⟨bs.take 8, pieces size ((bs.drop 8).take (n * size))⟩ :: l)

def blocksOf (size : Nat) (wide : Bool) (bs : List Byte) : List Block := (blocks size wide bs.length bs).getD []

/-- R190: an IS block. -/
def isBlockOk (nT : Nat) (b : Block) : Bool :=
  decide (le b.head 0 2 < nT) && decide (le b.head 2 1 ≤ 64) && zeros b.head 3 1
  && decide (1 ≤ le b.head 6 2 ∧ le b.head 4 2 + le b.head 6 2 ≤ 1024) && b.items.all containersOk

/-- R190: a SLOT block. -/
def slotBlockOk (nT : Nat) (b : Block) : Bool :=
  decide (le b.head 0 2 < nT) && decide (le b.head 2 1 ≤ 1) && zeros b.head 3 1
  && decide (le b.head 4 2 + le b.head 6 2 ≤ 512) && b.items.all containersOk

/-- R190: a SITE_VAR block. -/
def varBlockOk (nT : Nat) (b : Block) : Bool :=
  decide (le b.head 0 1 < 32) && zeros b.head 2 2
  && b.items.all (fun i => decide (le i 0 2 < nT) && decide (le i 2 1 ≤ 1) && zeros i 3 1 && decide (le i 4 2 < 512) && zeros i 6 2
      && containersOk (i.drop 8))

def blocksOk (size : Nat) (wide : Bool) (ok : Block → Bool) (bs : List Byte) : Bool :=
  match blocks size wide bs.length bs with
  | some l => l.all ok
  | none => false

/-- An Instruction Store entry of the image. -/
structure IsItem where
  team : Nat
  unit : Nat
  addr : Nat
  entry : BitVec 72
deriving DecidableEq, Repr

/-- A Slot Schedule entry of the image. -/
structure SlotItem where
  team : Nat
  set : Nat
  index : Nat
  entry : BitVec 48
deriving DecidableEq, Repr

/-- A site variant: the site, its Y and its entries. -/
structure VarItem where
  site : Nat
  y : Nat
  items : List SlotItem
deriving DecidableEq, Repr

/-- A word number of containers as a bit string, the first word lowest. -/
def join24 (ws : List Nat) : Nat := ws.foldr (fun w n => n * 2 ^ 24 + w) 0

def readIs (bs : List Byte) : List IsItem :=
  (blocksOf 12 false bs).flatMap (fun b => b.items.zipIdx.map (fun p =>
    ⟨le b.head 0 2, le b.head 2 1, le b.head 4 2 + p.2, BitVec.ofNat 72 (join24 (words24 p.1))⟩))

def readSlots (bs : List Byte) : List SlotItem :=
  (blocksOf 8 false bs).flatMap (fun b => b.items.zipIdx.map (fun p =>
    ⟨le b.head 0 2, le b.head 2 1, le b.head 4 2 + p.2, BitVec.ofNat 48 (join24 (words24 p.1))⟩))

def readVars (bs : List Byte) : List VarItem :=
  (blocksOf 16 true bs).map (fun b =>
    ⟨le b.head 0 1, le b.head 1 1, b.items.map (fun i =>
      ⟨le i 0 2, le i 2 1, le i 4 2, BitVec.ofNat 48 (join24 (words24 (i.drop 8)))⟩)⟩)

/-! ### Records (R191, R548) -/

/-- Records of a fixed length: whole, each sound, no two with one name. -/
def recsOk (size : Nat) (ok : List Byte → Bool) (name : List Byte → Nat) (bs : List Byte) : Bool :=
  bs.length % size == 0 && (pieces size bs).all ok && distinct ((pieces size bs).map name)

/-- SM_INIT and STATE_MASK. -/
def bpMapOk (nT : Nat) (bs : List Byte) : Bool :=
  recsOk 132 (fun r => decide (le r 0 2 < nT) && decide (le r 2 1 < 64) && zeros r 3 1) (fun r => le r 0 3) bs

def wrOk (nT : Nat) (bs : List Byte) : Bool :=
  recsOk 68 (fun r => decide (le r 0 2 < nT) && zeros r 2 2 && containersOk (r.drop 4)) (fun r => le r 0 2) bs

/-- A design-memory segment (R191). -/
structure Seg where
  seg : Nat
  team : Nat
  base : Nat
  size : Nat
  isFixed : Bool
deriving DecidableEq, Repr

def readSegs (bs : List Byte) : List Seg :=
  (pieces 16 bs).map (fun r => ⟨le r 0 2, le r 2 2, le r 4 2, le r 6 2, le r 8 2 == 1⟩)

def segsOk (nT : Nat) (bs : List Byte) : Bool :=
  recsOk 16 (fun r => decide (le r 2 2 < nT) && decide (le r 4 2 < 2 ^ 15) && decide (1 ≤ le r 6 2)
    && decide (le r 4 2 % 2 ^ 14 + le r 6 2 ≤ 2 ^ 14) && decide (le r 8 2 ≤ 1) && zeros r 10 6) (fun r => le r 0 2) bs

/-- DM_INIT: the records, each SEG with its words; none for a section that is not sound. -/
def dmInits (segs : List Seg) : Nat → List Byte → Option (List (Nat × List Nat))
  | 0, bs => if bs.isEmpty then some [] else none
  | k + 1, bs =>
    if bs.isEmpty then some []
    else
      match segs.find? (fun g => g.seg == le bs 0 2) with
      | none => none
      | some g =>
        let n := 4 * g.size
        let ws := (bs.drop 4).take n
        if bs.length < 4 + n ∨ !zeros bs 2 2 ∨ !containersOk ws then none
        else (dmInits segs k (bs.drop (4 + n))).map (fun l => (g.seg, words24 ws) :: l)

/-- A GDDR6 region of the image. -/
structure Rgn where
  region : Nat
  gw : Nat
  mib : Nat
deriving DecidableEq, Repr

def readRgns (bs : List Byte) : List Rgn := (pieces 16 bs).map (fun r => ⟨le r 0 2, le r 2 1, le r 4 4⟩)

def rgnsOk (bs : List Byte) : Bool :=
  recsOk 16 (fun r => decide (le r 2 1 < 16) && zeros r 3 1 && le r 4 4 % 64 == 0 && decide (64 ≤ le r 4 4 ∧ le r 4 4 ≤ 4096)
    && zeros r 8 8) (fun r => le r 0 2) bs

/-- GD_INIT: the records, each REGION with its offset and bytes; none for a section that is not sound. -/
def gdInits (rgns : List Rgn) : Nat → List Byte → Option (List (Nat × Nat × List Byte))
  | 0, bs => if bs.isEmpty then some [] else none
  | k + 1, bs =>
    if bs.isEmpty then some []
    else
      match rgns.find? (fun g => g.region == le bs 0 2) with
      | none => none
      | some g =>
        let n := le bs 4 4
        let m := (n + 3) / 4 * 4
        if bs.length < 16 + m ∨ !zeros bs 2 2 ∨ n = 0 ∨ g.mib * 2 ^ 20 < le bs 8 8 + n ∨ !zeros bs (16 + n) (m - n) then none
        else (gdInits rgns k (bs.drop (16 + m))).map (fun l => (g.region, le bs 8 8, (bs.drop 16).take n) :: l)

/-- No two byte ranges of one region overlap. -/
def rangesApart : List (Nat × Nat × List Byte) → Bool
  | [] => true
  | (r, o, d) :: l => l.all (fun q => q.1 != r || decide (o + d.length ≤ q.2.1 ∨ q.2.1 + q.2.2.length ≤ o)) && rangesApart l

/-- R548: an offset of the DS block that DS_CFG may name. -/
def dsOffsetOk (o : Nat) : Bool :=
  o % 4 == 0 && (o == 8 || decide (0x100 ≤ o ∧ o < 0x200) || decide (0x1000 ≤ o ∧ o < 0x1800 ∧ o % 0x20 ≤ 0x18)
    || decide (0x2000 ≤ o ∧ o < 0x2800 ∧ o % 0x20 ≤ 0x18) || decide (0x3000 ≤ o ∧ o < 0x3800 ∧ o % 0x40 ≤ 0x20))

/-- The bits of a value that no field of a register takes. -/
def strayBits (a v : Nat) : Nat :=
  match findReg a with
  | some d => d.fields.foldl (fun v f => v - bits v f.hi f.lo * 2 ^ f.lo) v
  | none => v

def readDs (bs : List Byte) : List (Nat × Nat) := (pieces 8 bs).map (fun r => (le r 0 4, le r 4 4))

/-- R548: the fields of a DS register that name a Team or a tap bit are in range; those of a domain without EDGES are ignored (R161). -/
def dsRangeOk (nT o v : Nat) : Bool :=
  if 0x1000 ≤ o ∧ o < 0x1800 ∧ o % 0x20 = 0x18 then v % 4 == 0 || (decide (bits v 24 15 < nT) && decide (bits v 14 8 ≤ 95))
  else if 0x3000 ≤ o ∧ o < 0x3800 ∧ o % 0x40 ≠ 0 then decide (bits v 24 15 < nT)
  else true

def dsOk (nT : Nat) (bs : List Byte) : Bool :=
  recsOk 8 (fun r => dsOffsetOk (le r 0 4) && strayBits (0x50000 + le r 0 4) (le r 4 4) == 0 && dsRangeOk nT (le r 0 4) (le r 4 4))
    (fun r => le r 0 4) bs

def readBanks (bs : List Byte) : List (Nat × Nat) := (pieces 4 bs).map (fun r => (le r 0 2, le r 2 1))

def banksOk (nT : Nat) (bs : List Byte) : Bool :=
  recsOk 4 (fun r => decide (le r 0 2 < nT) && decide (le r 2 1 < 16) && zeros r 3 1) (fun r => le r 0 2) bs

def readQb (bs : List Byte) : List (Nat × Nat × Nat) := (pieces 12 bs).map (fun r => (le r 0 2, le r 4 4, le r 8 4))

def qbOk (nT : Nat) (bs : List Byte) : Bool :=
  recsOk 12 (fun r => decide (le r 0 2 < nT) && zeros r 2 2 && decide (le r 4 4 < 2 ^ 20)
    && (List.range 4).all (fun k => decide (bits (le r 4 4) (5 * k + 4) (5 * k) ≤ 24)) && decide (le r 8 4 ≤ 256)) (fun r => le r 0 2) bs

/-- A patch record. -/
structure Patch where
  type : Nat
  team : Nat
  addr : Nat
  id : Nat
deriving DecidableEq, Repr

def readPatches (bs : List Byte) : List Patch := (pieces 16 bs).map (fun r => ⟨le r 0 1, le r 2 2, le r 4 2, le r 6 2⟩)

def patchesOk (nT : Nat) (bs : List Byte) : Bool :=
  bs.length % 16 == 0
  && (pieces 16 bs).all (fun r => decide (1 ≤ le r 0 1 ∧ le r 0 1 ≤ 3) && zeros r 1 1 && decide (le r 2 2 < nT) && zeros r 8 8)

/-! ### The whole image, as step 2 of R192 reads it -/

/-- The form of one section. -/
def sectOk (nT : Nat) (ss : List Sect) (s : Sect) : Bool :=
  let b := s.body
  if s.type = sIS then blocksOk 12 false (isBlockOk nT) b
  else if s.type = sSLOT then blocksOk 8 false (slotBlockOk nT) b
  else if s.type = sVAR then blocksOk 16 true (varBlockOk nT) b
  else if s.type = sSM ∨ s.type = sMASK then bpMapOk nT b
  else if s.type = sWR then wrOk nT b
  else if s.type = sSEG then segsOk nT b
  else if s.type = sDM then
    (match dmInits (readSegs (bodyOf ss sSEG)) b.length b with | some l => distinct (l.map (·.1)) | none => false)
  else if s.type = sRGN then rgnsOk b
  else if s.type = sGD then
    (match gdInits (readRgns (bodyOf ss sRGN)) b.length b with | some l => rangesApart l | none => false)
  else if s.type = sDS then dsOk nT b
  else if s.type = sBANK then banksOk nT b
  else if s.type = sHMAP ∨ s.type = sHCFG then b.length % 16 == 0
  else if s.type = sPATCH then patchesOk nT b
  else if s.type = sQB then qbOk nT b
  else true

/-- R189, R208: a required section is missing. -/
def sectMissing (p : List Byte) (ss : List Sect) : Bool :=
  !hasType ss sIS || !hasType ss sSLOT || !hasType ss sDS
    || (bit (le p 0x13 1) 0 && !(hasType ss sMASK && hasType ss sQB))

/-- R192 step 2: the header, the directory and the form of every section; `grade` is the code of R187. -/
def imageBad (nT grade : Nat) (p : List Byte) : Option Rej :=
  let ss := sections p
  if p.length < 0x40 ∨ !imgHeaderOk p then some ⟨2, 0xFFFF, 0xFFFF⟩
  else
    match (List.range (le p 0x10 2)).find? (dirBad p) with
    | some i => some ⟨2, 0xFFFF, i⟩
    | none =>
      match ss.find? (fun s => !sectOk nT ss s) with
      | some s => some ⟨2, 0xFFFF, s.entry⟩
      | none =>
        if sectMissing p ss then some ⟨2, 0xFFFF, 0xFFFF⟩
        else if le p 6 2 ≠ grade then some ⟨3, 0xFFFF, 0xFFFF⟩
        else if 3 < le p 0x12 1 then some ⟨4, 0xFFFF, 0xFFFF⟩
        else if le p 0x16 2 = 0 ∨ 256 < le p 0x16 2 ∨ le p 0x16 2 ≤ le p 0x14 2 then some ⟨0x15, 0xFFFF, 0xFFFF⟩
        else none

/-- The contents of an image while the loader works on it. -/
structure Img where
  ss : List Sect
  is : List IsItem
  slots : List SlotItem
  vars : List VarItem
  segs : List Seg
  rgns : List Rgn
  ds : List (Nat × Nat)
  patches : List Patch
deriving DecidableEq, Repr

def readImage (p : List Byte) : Img :=
  let ss := sections p
  { ss := ss, is := readIs (bodyOf ss sIS), slots := readSlots (bodyOf ss sSLOT), vars := readVars (bodyOf ss sVAR)
    segs := readSegs (bodyOf ss sSEG), rgns := readRgns (bodyOf ss sRGN), ds := readDs (bodyOf ss sDS)
    patches := readPatches (bodyOf ss sPATCH) }

end Sys2Proof.Machine
end

