-- ==== Sys2Proof/Machine/Security.lean ====
section
/-! DEFINITION. Lifecycle and security (R498 to R511): the Secure Store, wipes, tamper events and the commands of group
0x0A. -/
namespace Sys2Proof.Machine

/-! ### The Secure Store (R500, R501) -/

/-- R501: a wipe, with its SECURITY records as (SEV, byte 10, byte 11). -/
def State.wipe (s : State) (recs : List (Nat × Nat × Nat)) : State :=
  let s1 : State := { s with sec := { s.sec with rootKey := 0, slots := [] } }
  let s2 := (s1.put Reg.SEC_STAT_SLOTS 0).sat Reg.SEC_WIPES_COUNT 1
  recs.foldl (fun s r => s.hwRec r.1 0x60 (argOf (r.2.1 + 256 * r.2.2) 0)) s2

/-- Image key slot j holds a key. -/
def State.slotFull (s : State) (j : Nat) : Bool := bit (s.get Reg.SEC_STAT_SLOTS) j

/-- R500: the key of a slot; an empty slot reads as zeros. -/
def State.imageKey (s : State) (j : Nat) : BitVec 256 := if s.slotFull j then Tab.get (fun _ => 0) s.sec.slots j else 0

/-- RET_NONCE is drawn afresh (R510): a free value. -/
def State.drawNonce (s : State) : State := { s.spend with sec := { s.sec with nonce := Config.freeW64 s.free } }

/-- R498, R503: the fuses take a lifecycle state and, when it is not 0, a new MIN_VERSION. -/
def State.blowFuses (s : State) (lc minv : Nat) : State :=
  ({ s with fuses := { s.fuses with lifecycle := lc, minVersion := if minv = 0 then s.fuses.minVersion else minv } } : State).put
    Reg.SEC_STAT_LC lc

/-! ### Commands (R508 to R510) -/

/-- R508: SEC_STATUS. -/
def State.secStatus (_ : BitVec 512) (s : State) : State × Resp :=
  (s, okWith 24 (packBytes [(16, 1, s.fuses.lifecycle), (18, 2, s.get Reg.SEC_STAT_SLOTS), (20, 1, s.get Reg.SEC_TAMPER_MASK),
    (24, 4, s.get Reg.SEC_WIPES_COUNT), (32, 8, s.sec.nonce.toNat)]))

def execSecStatus (s : State) : Out := .next (s.cmd 0 0x0A01 State.secStatus)

/-- R508, R509: KEY_WRITE unwraps a key into its slot. -/
def State.keyWrite (d : BitVec 512) (s : State) : State × Resp :=
  let j := fieldOf d 8 1
  if s.fuses.lifecycle = 2 ∧ s.slotFull j then (s, errResp 0x11 2 0 0)
  else
    match Config.keyUnwrap s.fuses.kek (BitVec.ofNat 320 (fieldOf d 12 40)) with
    | none => (s, errResp 0x23 0 0 0)
    | some k =>
      let s1 : State := { s with sec := { s.sec with slots := Tab.set (fun _ => 0) s.sec.slots j k } }
      (s1.put Reg.SEC_STAT_SLOTS (s1.get Reg.SEC_STAT_SLOTS ||| 2 ^ j), okResp)

def execKeyWrite (s : State) : Out := .next (s.cmd 0 0x0A02 State.keyWrite)

/-- R509: why an LC_ADVANCE is answered with BAD_DESCRIPTOR: the first offending byte. -/
def State.advanceBad (s : State) (d : BitVec 512) : Option Nat :=
  if fieldOf d 8 1 ≠ s.fuses.lifecycle + 1 then some 8
  else if fieldOf d 10 2 ≠ 0 ∧ fieldOf d 10 2 < s.fuses.minVersion then some 10
  else none

/-- R498, R501, R509: LC_ADVANCE. -/
def State.lcAdvance (d : BitVec 512) (s : State) : State × Resp :=
  match s.advanceBad d with
  | some i => (s, badDesc 5 i)
  | none =>
    let t := fieldOf d 8 1
    ((s.blowFuses t (fieldOf d 10 2)).wipe [(0, 1, t)], okWith 1 t)

def execLcAdvance (s : State) : Out := .next (s.cmd 0 0x0A03 State.lcAdvance)

/-- R510: the token is for this chip and this attempt, and the vendor has signed it. -/
def State.tokenOk (s : State) (tok : List Byte) : Bool :=
  ofLeBytes (tok.take 8) == s.fuses.serial.toNat && ofLeBytes ((tok.drop 8).take 8) == s.sec.nonce.toNat
    && Config.ecdsaOk s.fuses.rootKey (tok.take 16) (tok.drop 16)

/-- R510: LC_RETURN; RET_NONCE is drawn afresh whatever the outcome. -/
def State.lcReturn (dma : HostDma) (d : BitVec 512) (s : State) : State × Resp :=
  match s.dmaBad dma with
  | some r => (s.drawNonce, r)
  | none =>
    if s.tokenOk (dmaBytes dma (fieldOf d 12 4)) then (((s.blowFuses 3 0).wipe [(0, 1, 3)]).drawNonce, okWith 1 3)
    else (s.drawNonce, errResp 0x23 0 0 0)

def execLcReturn (dma : HostDma) (s : State) : Out := .next (s.cmd 0 0x0A04 (State.lcReturn dma))

/-! ### Tamper events (R506, R507) -/

/-- The core runs: it is out of reset and boot has completed. -/
def State.coreRuns (s : State) : Bool := s.on Reg.CHIP_MODE_BOOT_DONE && !s.chip.inReset && !s.chip.halted

/-- R507: the LC_ADVANCE that is due and whose checks pass: its fuse programming may have begun. -/
def State.advanceDue (s : State) : Option (BitVec 512) :=
  match s.startable 0 0x0A03 with
  | some (_, c) => if (s.pre 0x0A03 c.desc).isNone && (s.advanceBad c.desc).isNone then some c.desc else none
  | none => none

/-- R506, R507: detectors fire: the wipe with its record, SEC_TAMPER, and QUARANTINE while the core runs.  An LC_ADVANCE whose
programming has begun completes it: one wipe with two records; the command itself then ends with NOT_IN_MODE. -/
def State.tamper (mask : BitVec 4) (begun : Bool) (s : State) : State :=
  if mask = 0 then s
  else
    let s1 := s.put Reg.SEC_TAMPER_MASK (s.get Reg.SEC_TAMPER_MASK ||| mask.toNat)
    let m := s1.get Reg.SEC_TAMPER_MASK
    let s2 := match (if begun then s.advanceDue else none) with
      | some d => (s1.blowFuses (fieldOf d 8 1) (fieldOf d 10 2)).wipe [(6, 2, m), (0, 1, fieldOf d 8 1)]
      | none => s1.wipe [(6, 2, m)]
    if s.coreRuns then s2.enterQuarantine qTamper m else s2

def execTamper (mask : BitVec 4) (begun : Bool) (s : State) : Out := .next (s.tamper mask begun)

end Sys2Proof.Machine
end

