-- ==== Sys2Proof/Machine/Loader.lean ====
section
/-! DEFINITION. The loader (R184 to R196, R270, R429, R504, R550) and the commands IMAGE_LOAD and IMAGE_UNLOAD (R398, R399,
R436). -/
namespace Sys2Proof.Machine

/-! ### Step 1: the envelope (R504, R505) -/

/-- R504: the plaintext of an image in its envelope, under the key that KEY_SLOT names; none for AUTH. -/
def State.openImage (s : State) (slot : Nat) (p : List Byte) : Option (List Byte) :=
  let n := le p 0x18 8
  if slot ≤ 15 ∧ s.slotFull slot ∧ le p 6 1 = slot ∧ le p 0 4 = 0x45434E45 ∧ le p 4 2 = 1 ∧ zeros p 7 1 ∧ zeros p 0x14 4 ∧
      zeros p 0x20 32 ∧ 0x50 ≤ p.length ∧ p.length = 0x50 + n then
    Config.gcm (s.imageKey slot) ((p.drop 8).take 12) (p.take 0x40) ((p.drop 0x40).take n) (p.drop (0x40 + n))
  else none

/-! ### Step 3: sites and gateways (R123, R293) -/

/-- SITE_ABSENT and GW_ABSENT: the sites that the image names, then its gateways. -/
def State.attachBad (s : State) (g : Img) : Option Rej :=
  let vs := g.vars.map (fun v => (entryOf g.ss sVAR, v.site))
  let rs := g.rgns.map (fun r => (entryOf g.ss sRGN, r.gw))
  let uses := if entryOf g.ss sVAR ≤ entryOf g.ss sRGN then vs ++ rs else rs ++ vs
  match uses.find? (fun u => (s.site u.2).isNone) with
  | some u => some ⟨0xA, 0xFFFF, u.1⟩
  | none =>
    match rs.find? (fun u => !s.chanServes u.2) with
    | some u => some ⟨0x12, 0xFFFF, u.1⟩
    | none => none

/-! ### Step 4: site variants (R186) -/

/-- A static entry that acts at the attached block: it is valid and has LSEL = 1. -/
def SlotItem.atBlock (i : SlotItem) : Bool := eVALID i.entry && eLSEL i.entry == 1

/-- The gateways (0 to 15) and lead links (16 to 31) whose sites static entries of the SLOT section use. -/
def State.usedSites (s : State) (g : Img) : List Nat :=
  (g.slots.filter SlotItem.atBlock).filterMap (fun i => (s.attached i.team).filter (fun n => decide (n < 32)))

/-- The variants that apply: one for each site, with the Y of RTR_SITE_n; of several for one site and Y the first (DESIGN CHOICE). -/
def State.applied (s : State) (g : Img) : List VarItem :=
  (g.vars.filter (fun v => s.get (Reg.RTR_SITE_Y v.site) == v.y)).foldl
    (fun l v => if l.any (fun w => w.site == v.site) then l else l ++ [v]) []

def SlotItem.key (i : SlotItem) : Nat := (i.team * 2 + i.set) * 512 + i.index

/-- R186: FORMAT for two applied entries in one place, then SITE_VARIANT for a used site without a variant for its row. -/
def State.variantBad (s : State) (g : Img) : Option Rej :=
  let ap := s.applied g
  if !distinct ((ap.flatMap (·.items)).map SlotItem.key) then some ⟨2, 0xFFFF, entryOf g.ss sVAR⟩
  else
    let fits (n : Nat) : Bool := ap.any (fun v => v.site == n)
    let inSlot := (s.usedSites g).any (fun n => !fits n)
    let inVar := g.vars.any (fun v => !fits v.site)
    let es := (if inSlot then [entryOf g.ss sSLOT] else []) ++ (if inVar then [entryOf g.ss sVAR] else [])
    match es with
    | [] => none
    | e :: l => some ⟨0xB, 0xFFFF, l.foldl min e⟩

/-- The image with its applied variants among its Slot Schedule entries. -/
def State.withVariants (s : State) (g : Img) : Img := { g with slots := g.slots ++ (s.applied g).flatMap (·.items) }

/-! ### Step 5: placement (R195, R196) -/

/-- A word of the image's DS block, its reset value where the image gives none. -/
def Img.dsAt (g : Img) (o : Nat) : Nat :=
  match g.ds.find? (fun p => p.1 == o) with
  | some p => p.2
  | none => (regReset (0x50000 + o)).toNat

/-- A landing pair: task, operand, Team, LAND. -/
structure Landing where
  task : Nat
  opnd : Nat
  team : Nat
  land : Nat
deriving DecidableEq, Repr

/-- The landing pairs of the declared operands. -/
def Img.landings (g : Img) : List Landing :=
  (List.range 256).filterMap (fun i =>
    let j := i / 8
    let o := i % 8
    if bit (g.dsAt (0x3000 + 0x40 * j)) o then
      (let v := g.dsAt (0x3004 + 0x40 * j + 4 * o); some ⟨j, o, bits v 24 15, bits v 14 0⟩)
    else none)

/-- R195: the placed base of a segment; `excl` holds 2 * Team + bank. -/
def placed (excl : List Nat) (g : Seg) : Nat :=
  if excl.contains (2 * g.team + g.base / 2 ^ 14) && !g.isFixed then g.base ^^^ 0x4000 else g.base

/-- The landing pair moves with the segment: a DM_LAND patch ties it to it. -/
def Img.tied (g : Img) (q : Seg) (l : Landing) : Bool :=
  g.patches.any (fun p => p.type == 2 && p.id == q.seg && bits p.addr 9 5 == l.task && bits p.addr 2 0 == l.opnd)

/-- R195: DM_PLACE for one segment. -/
def Img.placeBad (g : Img) (excl : List Nat) (q : Seg) : Bool :=
  let b := placed excl q
  excl.contains (2 * q.team + b / 2 ^ 14)
  || (b != q.base && (
    g.segs.any (fun o => o.seg != q.seg && o.team == q.team
      && decide (placed excl o < b + q.size ∧ b < placed excl o + o.size))
    || g.landings.any (fun l => l.team == q.team && decide (l.land < b + q.size ∧ b < l.land + 2) && !g.tied q l)))

def Img.placeRej (g : Img) (excl : List Nat) : Option Rej :=
  (g.segs.find? (g.placeBad excl)).map (fun q => ⟨0x11, q.team, entryOf g.ss sSEG⟩)

/-- R196: the design regions, allocated in order; none where one does not fit. -/
def State.allocRegions (s : State) : List Rgn → Option (State × List (Nat × Region))
  | [] => some (s, [])
  | r :: rs =>
    match s.allocate kDesign 1 r.gw (r.mib / 64) false with
    | none => none
    | some (s1, a) => (s1.allocRegions rs).map (fun q => (q.1, (r.region, a) :: q.2))

/-! ### Step 6: patches (R191) -/

def setImm (e : BitVec 72) (v : Nat) : BitVec 72 := BitVec.ofNat 72 (e.toNat - bits e.toNat 47 24 * 2 ^ 24 + v % 2 ^ 24 * 2 ^ 24)

/-- One patch applied; none where its target does not match. -/
def Img.patch (g : Img) (excl : List Nat) (al : List (Nat × Region)) (p : Patch) : Option Img :=
  let off (q : Seg) (x : Nat) : Nat := (x + placed excl q + 2 ^ 15 - q.base) % 2 ^ 15
  if p.type = 2 then
    let o := 0x3004 + 0x40 * bits p.addr 9 5 + 4 * bits p.addr 2 0
    let v := g.dsAt o
    match g.segs.find? (fun q => q.seg == p.id) with
    | some q =>
      if bits p.addr 15 10 = 0 ∧ bits p.addr 4 3 = 0 ∧ bit (g.dsAt (0x3000 + 0x40 * bits p.addr 9 5)) (bits p.addr 2 0) ∧
          p.team = bits v 24 15 then
        some { g with ds := g.ds.filter (fun d => d.1 != o) ++ [(o, v - bits v 14 0 + off q (bits v 14 0))] }
      else none
    | none => none
  else
    match g.is.find? (fun i => i.team == p.team && i.unit == 64 && i.addr == p.addr) with
    | none => none
    | some i =>
      let put (imm : Nat) : Img :=
        { g with is := g.is.map (fun k => if k.team = p.team ∧ k.unit = 64 ∧ k.addr = p.addr then { k with entry := setImm k.entry imm } else k) }
      let imm := (wIMM i.entry).toNat
      if p.type = 1 then
        match g.segs.find? (fun q => q.seg == p.id) with
        | some q => if 0x20 ≤ wOP i.entry ∧ wOP i.entry ≤ 0x26 then some (put (imm / 2 ^ 15 * 2 ^ 15 + off q imm)) else none
        | none => none
      else
        match g.rgns.find? (fun r => r.region == p.id), al.find? (fun r => r.1 == p.id) with
        | some r, some a => if wOP i.entry = 0x28 ∧ wGW i.entry = r.gw then some (put (imm + a.2.base)) else none
        | _, _ => none

/-- Every patch in image order; a refusal for the first whose target does not match. -/
def Img.patchAll (excl : List Nat) (al : List (Nat × Region)) : List Patch → Img → Except Rej Img
  | [], g => .ok g
  | p :: ps, g =>
    match g.patch excl al p with
    | some g1 => Img.patchAll excl al ps g1
    | none => .error ⟨2, p.team, entryOf g.ss sPATCH⟩

/-! ### Step 7: contents -/

/-- One Slot Schedule set of the image, by index. -/
def Img.setTab (g : Img) (t st : Nat) : List (Nat × BitVec 48) :=
  (g.slots.filter (fun i => i.team == t && i.set == st)).foldl (fun l i => Tab.set (fun _ => 0#48) l i.index i.entry) []

def Img.setValid (g : Img) (t st : Nat) : List (BitVec 48) := ((g.setTab t st).map (·.2)).filter eVALID

/-- The code of R193 for a condition of R132. -/
def slotCode : SlotBad → Nat
  | .slotOrder => 5
  | .collide => 6
  | .slotIll => 7
  | .rsOverlap => 8
  | .targetOff => 9

/-- The first of the least codes among mistakes. -/
def leastRej : List Rej → Option Rej
  | [] => none
  | r :: rs =>
    match leastRej rs with
    | some q => if q.code < r.code then some q else some r
    | none => some r

/-- R132 over every set of the image, in image order; the mistake of a set that has it only with its site variants lies in the
SITE_VAR section. -/
def State.setsRej (s : State) (g : Img) : Option Rej :=
  let progs := programsOf g.dsAt
  let g0 : Img := { g with slots := g.slots.take (g.slots.length - ((s.applied g).flatMap (·.items)).length) }
  let bad (g : Img) (k : Nat × Nat) : Option SlotBad :=
    slotSetBad (s.attached k.1) (s.on (Reg.RTR_CTL_ISOLATE k.1)) progs (g.setValid k.1 k.2)
  leastRej (((g.slots.map (fun i => (i.team, i.set))).eraseDups).filterMap (fun k =>
    (bad g k).map (fun b => ⟨slotCode b, k.1, entryOf g.ss (if bad g0 k = some b then sSLOT else sVAR)⟩)))

/-- The valid selection rules. -/
def Img.rules (g : Img) : List Nat := (List.range 64).filter (fun k => bit (g.dsAt (0x2018 + 0x20 * k)) 31)

/-- R174: SPT_RANGE. -/
def Img.sptBad (g : Img) : Bool :=
  (programsOf g.dsAt).any (fun p => decide (p.2 < 64 ∨ 1024 < p.1 + p.2))

/-- A 48-bit value of domain d: 0 PERIOD, 8 PHASE, 16 DUTY. -/
def Img.dom (g : Img) (d o : Nat) : Nat := g.dsAt (0x1000 + 0x20 * d + o) + 2 ^ 32 * g.dsAt (0x1004 + 0x20 * d + o)

/-- R160, R161: DOM_PARAM. -/
def Img.domBad (g : Img) : Bool :=
  !decide (1 ≤ bits (g.dsAt 8) 19 0 ∧ bits (g.dsAt 8) 19 0 ≤ 1000000) || (List.range 64).any (fun d =>
    let cfg := g.dsAt (0x1018 + 0x20 * d)
    let per := g.dom d 0
    cfg % 4 != 0 && !(decide (2 ≤ per ∧ per ≤ 2 ^ 46 ∧ g.dom d 8 < per ∧ 1 ≤ g.dom d 16 ∧ g.dom d 16 < per) && bit cfg 2))

/-- The power state that the image gives a bank: ON for every bank that a segment lies in (R99). -/
def Img.bankCode (g : Img) (excl : List Nat) (t b : Nat) : Nat :=
  if g.segs.any (fun q => q.team == t && placed excl q / 2 ^ 14 == b) then 2
  else
    match (readBanks (bodyOf g.ss sBANK)).find? (fun p => p.1 == t) with
    | some p => bits p.2 (2 * b + 1) (2 * b)
    | none => 0

/-- Two operands share a landing pair. -/
def pairShared : List Landing → Option Landing
  | [] => none
  | l :: ls => if ls.any (fun k => k.team == l.team && k.land / 2 == l.land / 2) then some l else pairShared ls

/-- R172, R550: LAND_OVERLAP. -/
def Img.landBad (g : Img) (excl : List Nat) : Option Landing :=
  (g.landings.find? (fun l => l.land % 2 == 1 || g.bankCode excl l.team (l.land / 2 ^ 14) != 2)).orElse
    (fun _ => pairShared g.landings)

/-- R181: SEL_HITCH. -/
def Img.selBad (g : Img) (npart : Nat) : Bool :=
  decide (1 < npart) && g.rules.any (fun k => (List.range 32).any (fun j =>
    let cfg := g.dsAt (0x3000 + 0x40 * j)
    bit (g.dsAt (0x2008 + 0x20 * k)) j && bits cfg 15 8 &&& bits cfg 7 0 != 0))

/-- The Hitch records of a section. -/
def Img.hitch (g : Img) (t : Nat) : List HRec := hRecs (bodyOf g.ss t).length (bodyOf g.ss t)

/-- R332, R333: the Hitch mistake of a kind, with the directory entry of its section. -/
def Img.hitchRej (nT : Nat) (g : Img) : Option Rej :=
  let cfg := g.hitch sHCFG
  let map := g.hitch sHMAP
  let all := cfg ++ map
  let ec := entryOf g.ss sHCFG
  let em := entryOf g.ss sHMAP
  let first (bc bm : Bool) : Nat := if bc && bm then min ec em else if bm then em else ec
  let fc := !cfg.all (fun r => recFormat nT all r && decide (r.type < 0x10))
  let fm := !map.all (fun r => recFormat nT all r && decide (0x10 ≤ r.type))
  if fc || fm then some ⟨2, 0xFFFF, first fc fm⟩
  else
    match hitchBad nT all with
    | none => none
    | some .format => some ⟨2, 0xFFFF, ec⟩
    | some .dir => some ⟨0x13, 0xFFFF, first (!cfg.all (recDir all)) (anyTwice (fun _ => true) map)⟩
    | some .contend => some ⟨0x14, 0xFFFF, ec⟩

/-- The Word Unit entry of the image with a reserved bit set (R62). -/
def Img.wuRsvd (g : Img) : Option IsItem := g.is.find? (fun i => i.unit == 64 && bits i.entry.toNat 71 62 != 0)

/-- Step 7: every mistake of the contents, the least code first. -/
def State.contentsRej (s : State) (g : Img) (excl : List Nat) (npart : Nat) : Option Rej :=
  let ed := entryOf g.ss sDS
  leastRej ([g.hitchRej s.nTeams, s.setsRej g, g.wuRsvd.map (fun i => ⟨0xC, i.team, entryOf g.ss sIS⟩),
    if g.sptBad then some ⟨0xD, 0xFFFF, ed⟩ else none, if g.domBad then some ⟨0xE, 0xFFFF, ed⟩ else none,
    (g.landBad excl).map (fun l => ⟨0xF, l.team, ed⟩), if g.selBad npart then some ⟨0x10, 0xFFFF, ed⟩ else none].filterMap id)

/-! ### Step 8: writing -/

/-- Bit maps of BPs (R188) as rows: location a of every BP. -/
def bpRows (recs : List (List Byte)) : List (Nat × BitVec 64) :=
  if recs.isEmpty then []
  else (List.range 1024).foldl (fun l a =>
    Tab.set (fun _ => 0#64) l a (BitVec.ofNat 64 (recs.foldl (fun n r => n + le r (4 + a / 8) 1 / 2 ^ (a % 8) % 2 * 2 ^ le r 2 1) 0))) []

def Img.rowsOf (g : Img) (ty t : Nat) : List (Nat × BitVec 64) :=
  bpRows ((pieces 132 (bodyOf g.ss ty)).filter (fun r => le r 0 2 == t))

/-- The design memory of Team t: the initial values at their placed addresses. -/
def Img.dmOf (g : Img) (excl : List Nat) (t : Nat) : List (Nat × W24) :=
  let b := bodyOf g.ss sDM
  ((dmInits g.segs b.length b).getD []).foldl (fun l p =>
    match g.segs.find? (fun q => q.seg == p.1 && q.team == t) with
    | some q => p.2.zipIdx.foldl (fun l w => Tab.set (fun _ => 0#24) l (placed excl q + w.2) (BitVec.ofNat 24 w.1)) l
    | none => l) []

def Img.wrOf (g : Img) (t : Nat) : List (Nat × W24) :=
  match (pieces 68 (bodyOf g.ss sWR)).find? (fun r => le r 0 2 == t) with
  | some r => (words24 (r.drop 4)).zipIdx.foldl (fun l w => Tab.set (fun _ => 0#24) l w.2 (BitVec.ofNat 24 w.1)) []
  | none => []

/-- The Team as step 8 leaves it (R50, R100, R189): defined contents, and what a load does not touch. -/
def Img.team (g : Img) (excl : List Nat) (t : Nat) (m : Team) : Team :=
  { Team.reset with
    store := (g.is.filter (fun i => i.team == t)).foldl (fun l i => Tab.set (isDef 0) l (1024 * i.unit + i.addr) i.entry) []
    sm := g.rowsOf sSM t, mask := g.rowsOf sMASK t, wr := g.wrOf t, dm := g.dmOf excl t
    stride := m.stride, bank0 := m.bank0, bank1 := m.bank1, dma := m.dma
    patrolAt := m.patrolAt, patrolSave := m.patrolSave, isPatrolAt := m.isPatrolAt, isRegionAt := m.isRegionAt, switching := m.switching }

/-- R99: a bank goes to the state that the image gives it; one that goes ON is ready before the first stride. -/
def State.loadBank (s : State) (g : Img) (excl : List Nat) (t b : Nat) : State :=
  (s.bankPower t b (g.bankCode excl t b)).bankDone t b

/-- The gateways (0 to 15) and lead links (16 to 31) that an image uses. -/
def State.imageSites (s : State) (g : Img) : List Nat := ((s.applied g).map (·.site) ++ s.usedSites g).eraseDups

/-- R107: the downstream set of a Team under one set of its router.  A lead link that the image does not use has no partner Team
(DEDUCED). -/
def State.downOf (s : State) (g : Img) (t st : Nat) : Nat :=
  let es := g.setValid t st
  let progs := programsOf g.dsAt
  let cen := g.is.any (fun i => i.team == t && i.unit == 64 && wCEN i.entry
    && progs.any (fun p => decide (p.1 ≤ i.addr ∧ i.addr < p.1 + p.2)))
  let lead := match s.attached t with
    | some n => decide (16 ≤ n ∧ n < 32) && (s.imageSites g).contains n
    | none => false
  let port (k : Nat) : Bool := es.any (fun e => eOUT e == k) || (k == 2 && cen)
  ofBool (port 0) + 2 * ofBool (port 1) + 4 * ofBool (port 2) + 8 * ofBool (port 3) + 16 * ofBool lead

/-- One powered Team with its router and its registers. -/
def State.loadTeam (s : State) (g : Img) (excl : List Nat) (t : Nat) : State :=
  let s1 := (s.loadBank g excl t 0).loadBank g excl t 1
  let s2 := (s1.onTeam t (g.team excl t)).onRouter t (fun r =>
    { r with gen := 0, act := g.setTab t 0, shd := g.setTab t 1, w0 := 0, scan := false, inq := [], matched := [] })
  let q := (readQb (bodyOf g.ss sQB)).find? (fun p => p.1 == t)
  let s3 := match q with
    | some p => (s2.wr (Adr.TEAM_CHK_QMAX t) (BitVec.ofNat 32 p.2.1)).wr (Adr.TEAM_CHK_QMAX_LD t) (BitVec.ofNat 32 p.2.2)
    | none => (s2.wr (Adr.TEAM_CHK_QMAX t) (regReset (Adr.TEAM_CHK_QMAX t))).wr (Adr.TEAM_CHK_QMAX_LD t)
        (regReset (Adr.TEAM_CHK_QMAX_LD t))
  (s3.put (Reg.TEAM_SKEW_CTL_DOWN t) (s.downOf g t 0)).put (Reg.TEAM_SKEW_CTL_SH_DOWN t) (s.downOf g t 1)

/-- A record of HITCH_CFG for a register: BANK, TREE, FCLK. -/
def State.hitchReg (s : State) (r : HRec) : State :=
  if r.type = 4 then s.wr (Adr.HT_BANK r.a) (BitVec.ofNat 32 r.b)
  else if r.type = 5 then s.treeWrite r.a r.b
  else if r.type = 6 then
    (if r.a = 4 then s.put Reg.HT_FPLL_M r.b else (s.put (Reg.HT_FCLK_D r.a) r.b).set1 (Reg.HT_FCLK_EN r.a)).set1 Reg.HT_FPLL_EN
  else s

/-- R332, R334: the fabric as the image configures it. -/
def State.loadHitch (s : State) (g : Img) : State :=
  let rs := g.hitch sHCFG ++ g.hitch sHMAP
  let h : Hitch := { Hitch.reset with rail := s.ht.rail, extest := s.ht.extest, bscan := s.ht.bscan, bscanOe := s.ht.bscanOe }
  let s1 : State := { s with ht := rs.foldl Hitch.apply h }
  let s2 := (s1.each 8 (fun b s => s.wr (Adr.HT_BANK b) 0)).each 8 (fun t s => s.put (Reg.HT_TREE_TREE t) 0)
  (rs.foldl State.hitchReg s2).fclkErr

/-- R182, R192: the DS block, then its LOCK. -/
def State.loadDs (s : State) (g : Img) : State :=
  (g.ds.foldl (fun s p => s.wr (0x50000 + p.1) (BitVec.ofNat 32 p.2)) s).set1 Reg.DS_CTL_LOCK

/-- GD_INIT: initial bytes of the regions, each burst with its EDC CRC (R285). -/
def State.loadGddr (s : State) (g : Img) (al : List (Nat × Region)) (crc : List HostCrc) : State :=
  let b := bodyOf g.ss sGD
  ((gdInits g.rgns b.length b).getD []).foldl (fun s p =>
    match al.find? (fun a => a.1 == p.1) with
    | some a => s.toRegion a.2 p.2.1 p.2.2 crc
    | none => s) s

/-- What the loader keeps of a verified image. -/
def State.imageOf (s : State) (p : List Byte) (g : Img) (excl : List Nat) (al : List (Nat × Region)) : Image :=
  let sites := s.imageSites g
  { id := BitVec.ofNat 64 (le p 8 8), sys := BitVec.ofNat 64 (le p 0x18 8), part := le p 0x14 2, npart := le p 0x16 2
    seed := BitVec.ofNat 32 (le p 0x12 1), hasMask := bit (le p 0x13 1) 0 && hasType g.ss sMASK
    teams := (g.is.map (·.team) ++ g.slots.map (·.team) ++ g.segs.map (·.team) ++ (pieces 68 (bodyOf g.ss sWR)).map (fun r => le r 0 2)
      ++ (pieces 132 (bodyOf g.ss sSM)).map (fun r => le r 0 2)).eraseDups
    links := (sites.filter (fun n => decide (16 ≤ n))).map (· - 16)
    gws := (sites.filter (fun n => decide (n < 16)) ++ g.rgns.map (·.gw)).eraseDups
    moved := (g.segs.filter (fun q => placed excl q != q.base)).map (fun q => (2 ^ 15 * q.team + q.base, q.size))
    regions := al.map (fun a => (a.1, a.2.handle)) }

/-- Step 8 (R192, R270, R334): everything is written, DS_CTL.LOCK and HITCH_GO set, the image is verified. -/
def State.install (s : State) (p : List Byte) (g : Img) (excl : List Nat) (al : List (Nat × Region)) (crc : List HostCrc) : State :=
  let s1 := s.runTeams.foldl (fun s t => s.loadTeam g excl t) s
  let s2 := (((s1.loadDs g).loadGddr g al crc).loadHitch g).each 16 (fun c s =>
    (s.put (Reg.GW_CTL_SEED c) (le p 0x12 1)).set1 (Reg.GW_CTL_LOCK c))
  let s3 : State := { s2 with chip := { s2.chip with image := some (s.imageOf p g excl al) } }
  ((s3.each 16 (fun n s => s.set1 (Reg.LD_LINK_CTL_QRX_EN n))).hitchRelease).set1 Reg.CHIP_MODE_VERIFIED

/-! ### The loader -/

/-- Why a load ends without an image. -/
inductive LoadBad where
  | rejected (r : Rej)
  | noSpace
deriving DecidableEq, Repr

/-- R192: steps 1 to 8 over the bytes of an envelope, with the excluded banks as 2 * Team + bank. -/
def State.load (s : State) (slot : Nat) (env : List Byte) (excl : List Nat) (crc : List HostCrc) : Except LoadBad State :=
  match s.openImage slot env with
  | none => .error (.rejected ⟨1, 0xFFFF, 0xFFFF⟩)
  | some p =>
    match imageBad s.nTeams (if s.fuses.small then 0x300 else 0x400) p with
    | some r => .error (.rejected r)
    | none =>
      let g0 := readImage p
      match (s.attachBad g0).orElse (fun _ => (s.variantBad g0).orElse (fun _ => g0.placeRej excl)) with
      | some r => .error (.rejected r)
      | none =>
        match s.allocRegions g0.rgns with
        | none => .error .noSpace
        | some (s1, al) =>
          match Img.patchAll excl al g0.patches (s.withVariants g0) with
          | .error r => .error (.rejected r)
          | .ok g =>
            match s1.contentsRej g excl (le p 0x16 2) with
            | some r => .error (.rejected r)
            | none => .ok (s1.install p g excl al crc)

/-! ### Entering LOAD and losing an image (R194, R399, R429) -/

/-- The design regions of the image go back to free space. -/
def State.freeDesign (s : State) : State :=
  (s.chip.regions.filter (fun r => r.kind == kDesign && !r.host)).foldl (fun s r => s.freeRegion r.handle) s

/-- R429 step 2: capture returns to IDLE. -/
def State.capIdle (s : State) : State :=
  ({ s with cap := { Capture.reset with region := s.cap.region, staging := s.cap.staging } } : State).put Reg.CAP_STAT_STATE
    (if s.on Reg.CHIP_MODE_SVC then cDisabled else cIdle)

/-- R182: the DS block at its reset values, with LOCK clear. -/
def State.dsReset (s : State) : State := { s.dropRegs (fun a => !decide (0x50000 ≤ a ∧ a < 0x60000)) with ds := Sched.reset }

/-- R429: no image, HITCH_GO clear, capture idle, the old regions free, QRX_EN clear, the DS block reset; no Team is inside a
stride, and no halt is in effect. -/
def State.discardImage (s : State) : State :=
  let s1 := (s.hitchGoWrite false).capIdle.freeDesign
  let s2 := (s1.each 16 (fun n s => s.clr (Reg.LD_LINK_CTL_QRX_EN n))).dsReset
  let s3 := s2.teams.foldl (fun s p => s.onTeam p.1 (fun m => { m with active := false, slot := none, halted := false })) s2
  ({ s3 with chip := { s3.chip with
      image := none, haltBkp := false, haltChk := false, n0 := none, stepTo := none, restored := false, hinLatched := false } } : State).clr
    Reg.CHIP_MODE_VERIFIED

/-- R194: the contents of every Instruction Store and Slot Schedule are undefined: contents of a fresh generation. -/
def State.loseStores (s : State) : State :=
  let g := s.free + 1
  s.runTeams.foldl (fun s t => (s.onTeam t (fun m => { m with gen := g, store := [], stage := [], sm := [], wr := [] })).onRouter t
    (fun r => { r with gen := g, act := [], shd := [] })) s.spend

/-- The registers of the DS block that the loader writes, by offset (R548). -/
def dsOffsets : List Nat := (List.range 0xE00).filterMap (fun i => if dsOffsetOk (4 * i) then some (4 * i) else none)

/-- R194: the contents of every DS register are undefined: free values, in their fields. -/
def State.loseDs (s : State) : State :=
  let n := dsOffsets.length
  let s1 := dsOffsets.zipIdx.foldl (fun s p =>
    let v := (Config.freeW32 (s.free + p.2)).toNat
    s.wr (0x50000 + p.1) (BitVec.ofNat 32 (v - strayBits (0x50000 + p.1) v))) s
  s1.spendN n

/-- R194: the device holds no image. -/
def State.noImage (s : State) : State := (s.discardImage.loseStores).loseDs

/-- R399, R422: no image, and the mode is IDLE. -/
def State.unload (s : State) : State := (s.noImage.clr Reg.CHIP_MODE_AT_REST).setMode mIdle

/-- R258: EPOCH returns to 0 on entry to LOAD and at the start of a restore; no hold outlives it (DEDUCED). -/
def State.clearHold (s : State) : State :=
  ((s.clr Reg.LD_HOLD_STAT_HELD).clr Reg.LD_HOLD_STAT_AT_H).put Reg.LD_HOLD_STAT_EPOCH 0

/-- R429, R436: LOAD is entered from IDLE, LOAD, STEP at rest or QUARANTINE. -/
def State.enterLoad (s : State) : State :=
  let s1 := (s.discardImage.clearHold.clr Reg.CHIP_MODE_AT_REST).put Reg.CHIP_MODE_QCAUSE 0
  (s1.setMode mLoad).hitchBanks

/-! ### Commands -/

/-- The answer of a load that ends without an image. -/
def loadResp : LoadBad → Resp
  | .rejected r => errResp 0x15 r.code r.team r.entry
  | .noSpace => errResp 0x13 1 0 0

/-- Bytes of a host window (R398). -/
def State.inHostWindow (s : State) (d n : Nat) : Bool :=
  (List.range n).all (fun i => s.hostKind (d + i) == some kHost)

/-- R398: the excluded banks as 2 * Team + bank. -/
def exclOf (bs : List Byte) : List Nat := (pieces 2 bs).map (fun e => 2 * bits (le e 0 2) 9 0 + bits (le e 0 2) 14 14)

/-- The bytes that a transfer, or a host window, gives the loader. -/
def State.loadBytes (s : State) (src : Nat) (d : HostDma) (a n : Nat) (crc : List HostCrc) : List Byte :=
  if src = 0 then dmaBytes d n else (List.range n).map (fun i => s.bulkByte crc (a + i))

/-- The loader has read a host window: its bursts count, each with its EDC CRC (R285, R294). -/
def State.loadRead (s : State) (src a n : Nat) (crc : List HostCrc) : State :=
  if src = 0 then s else (s.bulkCount (fun i => a + i) n).bulkCrc (fun i => a + i) n false crc

/-- The channels of the host windows that the loader reads, and every channel of a design region, may be used now. -/
def State.loadQuiet (s : State) : Bool := (List.range 16).all (fun c => !s.chanServes c || s.quiet c)

/-- R398, R429: IMAGE_LOAD starts: its checks, and the entry to LOAD. -/
def State.loadStart (islands : Bool) (d : BitVec 512) (s : State) : State × Nat × Option Resp :=
  let len := fieldOf d 24 8
  let n := 2 * fieldOf d 10 2
  if !(s.on Reg.CHIP_CLK_STAT_STEP_LOCK && s.on Reg.CHIP_CLK_STAT_LREF_OK) || (s.mode == mQuarantine && !islands) then
    (s, 0, some (errResp 0x10 s.mode 0 0))
  else if fieldOf d 8 1 = 1 ∧ !(s.inHostWindow (fieldOf d 16 8) len && s.inHostWindow (fieldOf d 32 8) n) then
    (s, 0, some (errResp 0x1F 0 0 0))
  else (((s.enterLoad.wr Adr.CHIP_SPOIL_LO 0).wr Adr.CHIP_SPOIL_HI 0).clr Reg.CHIP_SPOIL_CTL_VALID, 0, none)

/-- R398, R192: the started IMAGE_LOAD ends: the loader has run. -/
def State.loadEnd (img ex : HostDma) (crc : List HostCrc) (c : Taken) (s0 : State) : Option (State × Resp) :=
  let d := c.desc
  let src := fieldOf d 8 1
  let n := 2 * fieldOf d 10 2
  let s := (s0.loadRead src (fieldOf d 16 8) (fieldOf d 24 8) crc).loadRead src (fieldOf d 32 8) n crc
  if src = 0 ∧ c.cut then some (s0.unload, dmaCut)
  else if !s0.loadQuiet then none
  else match (if src = 0 then (s.dmaBad img).orElse (fun _ => if n = 0 then none else s.dmaBad ex) else none) with
  | some r => some (s.unload, r)
  | none =>
    match s.load (fieldOf d 9 1) (s0.loadBytes src img (fieldOf d 16 8) (fieldOf d 24 8) crc)
        (exclOf (s0.loadBytes src ex (fieldOf d 32 8) n crc)) crc with
    | .error e => some (s.unload, loadResp e)
    | .ok s2 => some (s2, match s2.chip.image with | some i => imageResp i | none => okResp)

def execImageLoad (img excl : HostDma) (islands : Bool) (crc : List HostCrc) (s : State) : Out :=
  .next (s.cmdLong 3 0x0201 (State.loadStart islands) (State.loadEnd img excl crc))

/-- R399: the started IMAGE_UNLOAD ends. -/
def State.imageUnload (_ : Taken) (s : State) : Option (State × Resp) := some (s.unload, okResp)

def execImageUnload (s : State) : Out :=
  .next (s.cmdLong 3 0x0204 (fun _ s => (s, 0, none)) State.imageUnload)

end Sys2Proof.Machine
end

