-- ==== Sys2Proof/Machine/Boot.lean ====
section
/-! DEFINITION. Resets and boot (R16, R122, R274, R287, R292, R344, R424 to R428, R459, R502, R503, R529). -/
namespace Sys2Proof.Machine

/-! ### Cold reset (R12, R424, R529) -/

/-- The registers of the always-on domain that a cold reset keeps: the Saddlebag's and the Secure Store's. -/
def coldKeeps (a : Nat) : Bool :=
  a == Adr.SB_STAT || a == Adr.SB_SEQ || a == Adr.SB_FREEZE || decide (0x1C0000 ≤ a ∧ a < 0x1D0000)

/-- R424: every block outside the always-on domain at its reset state, GDDR6 lost; CHIP_RST.CAUSE 1 for PWR_OK, 2 for RST_N. -/
def State.coldReset (pwr : Bool) (s : State) : State :=
  let c : Chip := { Chip.reset with
    inReset := true, vddAon := s.chip.vddAon, aonNew := s.chip.aonNew, jtagIr := s.chip.jtagIr, jtagDr := s.chip.jtagDr }
  let p : Pcie := { Pcie.reset with sent := s.pcie.sent, wrote := s.pcie.wrote }
  let s1 : State := { State.reset with
    regs := s.regs.filter (fun q => coldKeeps q.1), chip := c, fuses := s.fuses, pcie := p
    sb := { s.sb with inSecond := [], held := [] }, sec := s.sec, ht := { Hitch.reset with rail := s.ht.rail }
    tb := { TimeBase.reset with sent := s.tb.sent }, rdata := s.rdata, free := s.free, pending := s.pending }
  s1.put Reg.CHIP_RST_CAUSE (if pwr then 1 else 2)

def execColdReset (pwr : Bool) (s : State) : Out := .next (s.coldReset pwr)

/-- R426: RST_N rises: boot stage 0 begins. -/
def execResetRelease (s : State) : Out := .next { s with chip := { s.chip with inReset := false } }

/-! ### Warm reset (R258, R292, R334, R344, R424, R425) -/

/-- Registers of the blocks that a warm reset leaves alone: the CHIP block, the mailboxes and PE registers (the mailboxes have
their own reset), the Time Base and its compare units, the GDDR6 channels and gateways, the Secure Store. -/
def warmKeeps (a : Nat) : Bool :=
  decide (a < 0x40100) || decide (0xC0000 ≤ a ∧ a < 0x100000)
    || decide (0x1C0000 ≤ a ∧ a < 0x1D0000)

/-- R380, R424, R425: the mailboxes: indices 0, not READY, no command taken, queued events lost. -/
def State.warmBox (s : State) (m : Nat) : State :=
  let s1 := ((((s.put (Reg.MBX_DB_CMD_PI m) 0).put (Reg.MBX_CMD_CI_INDEX m) 0).put (Reg.MBX_RSP_PI_INDEX m) 0).put
    (Reg.MBX_RSP_CI_RSP_CI m) 0).wr (Adr.MBX_STAT m) (regReset (Adr.MBX_STAT m))
  s1.onBox m (fun b => { b with
    taken := [], events := [], evtLost := b.evtLost || !b.events.isEmpty, vectors := [], restarting := false })

/-- R292: a channel that serves goes into self refresh; what its gateway held is gone, and DEBT and SQ_OCC say so. -/
def State.warmChan (s : State) (c : Nat) : State :=
  let s1 := if s.chanServes c then (s.setChanState c gSref).clr (Reg.GD_CH_CTL_PAUSE c) else s
  ((s1.setChan c Channel.reset).put (Reg.GD_REF_DEBT c) 0).put (Reg.GW_STAT_SQ_OCC c) 0

/-- R425: the transfers of the host port end; a BAR2 read under way completes with 0 and BAR2_REFUSED (DEDUCED). -/
def State.warmHost (s : State) : State :=
  (s.pcie.txs.filter (fun x => !x.copy)).foldl (fun s x => { s.peErr 2 0 0 with rdata := byteWords (List.replicate x.size 0) })
    ({ s with pcie := { s.pcie with txs := [] } } : State)

/-- R424, R425: a warm reset begins: CAUSE and WARM_COUNT, the blocks of the table, the mode in which it began. -/
def State.warmBegin (s : State) : State :=
  let old := s.mode
  let restarts := (List.range 4).map (fun g => s.get (Reg.GRM_WDT_STAT_RESTARTS g))
  let s1 := (s.sat Reg.CHIP_RST_WARM_COUNT 1).put Reg.CHIP_RST_CAUSE s.chip.warmReq
  let s2 := ((s1.hitchGoWrite false).chip.regions.filter (fun r => r.kind == kDesign)).foldl (fun s r => s.freeRegion r.handle)
    (s1.hitchGoWrite false)
  let s3 := (s2.warmHost.each 16 (fun c s => s.warmChan c)).each 4 (fun m s => s.warmBox m)
  let s4 := s3.dropRegs warmKeeps
  let s5 := (restarts.zipIdx).foldl (fun s p => s.put (Reg.GRM_WDT_STAT_RESTARTS p.2) p.1) s4
  let s6 := (((((s5.wr Adr.CHIP_MODE 0).wr Adr.CHIP_BOOT 0).put Reg.CHIP_CLK_STAT_SDIV 0).putPair Adr.CHIP_STRIDE_LO
    Adr.CHIP_STRIDE_HI 0).wr Adr.CHIP_SPOIL_CTL 0).put Reg.TB_STAT_TXQ_CNT 0
  { s6 with
    teams := [], routers := [], lanes := [], links := [], probes := [], ds := Sched.reset, cap := Capture.reset
    trace := Trace.reset, hotRecord := false, ht := { Hitch.reset with rail := s.ht.rail }
    tb := { s6.tb with txq := [], goOrder := [], nextRx := 0, buf := [] }
    sb := { s6.sb with inSecond := [], held := [] }
    pcie := { s6.pcie with viewIs := false }
    chip := { s6.chip with
      rowMap := [], strideLo := 0, haltBkp := false, haltChk := false, hinLatched := false, runMode := 0, restored := false
      image := none, n0 := none, stepTo := none, warm := true, oldMode := old, mark := false, holdReason := 0, holdPart := 0
      traceRegion := none, drift := 0, fwVersion := 0, warmReq := 0, stopped := [], disarmed := [], wdt := [], ceMinute := []
      coldBoot := false
      bootHdr := [] } }

/-- A warm reset is asked for and may begin. -/
def State.warmDue (s : State) : Bool :=
  s.chip.warmReq != 0 && !s.chip.halted && !s.chip.inReset && (s.on Reg.CHIP_MODE_BOOT_DONE || s.chip.warm)
    && !s.on Reg.CHIP_BOOT_FAILED

def execWarmResetBegin (s : State) : Out := .next (if s.warmDue then s.warmBegin else s)

/-! ### VDD_AON (R459, R529) -/

/-- R529: the Saddlebag's records, the Secure Store and the image keys are lost; lifecycle state and fuses are kept. -/
def State.aonLoss (s : State) : State :=
  let s1 := s.dropRegs (fun a => !(decide (0x200 ≤ a ∧ a < 0x218) || decide (0x1C0004 ≤ a ∧ a < 0x1C000C)))
  { s1.put Reg.SEC_STAT_SLOTS 0 with
    sb := Saddle.reset, sec := { s1.sec with rootKey := 0, slots := [] }, chip := { s1.chip with vddAon := false, aonNew := 0 } }

def execVddAonLoss (s : State) : Out := .next s.aonLoss

/-- R459: VDD_AON is up; two thermal samples, 100 us, pass before THERM_N and ALERT_N are driven. -/
def State.aonRise (s : State) : State :=
  if s.chip.vddAon then s else { s with chip := { s.chip with vddAon := true, aonNew := 2 } }

def execVddAonRise (s : State) : Out := .next s.aonRise

/-! ### Boot: stages 0 to 2 -/

/-- The stage in progress (R426). -/
def State.bootStage (s : State) : Nat := s.get Reg.CHIP_BOOT_STAGE

def State.toStage (s : State) (n : Nat) : State := s.put Reg.CHIP_BOOT_STAGE n

/-- R428: the boot fails: the cause, one record by the boot ROM, the alert of R473, FAULT_N; the device stops at this stage. -/
def State.bootFail (s : State) (err : Nat) : State :=
  (((s.set1 Reg.CHIP_BOOT_FAILED).put Reg.CHIP_BOOT_ERR err).freezeRec 5 6 0x05 (argOf (err + 256 * s.bootStage) 0)).alert 4

/-- Stage 0: the fuses are read. -/
def State.readFuses (s : State) : State :=
  let f := s.fuses
  let s1 := (s.putPair Adr.CHIP_ID_LO Adr.CHIP_ID_HI f.serial.toNat).putPair Adr.CHIP_ROWMAP_LO Adr.CHIP_ROWMAP_HI f.rows.toNat
  ((s1.put Reg.CHIP_ID_INFO_GRADE (if f.small then 0x300 else 0x400)).put Reg.CHIP_ID_INFO_STEPPING f.stepping).put Reg.SEC_STAT_LC
    f.lifecycle

/-- R427: the boot header is sound. -/
def bootHeaderOk (h : List Byte) : Bool :=
  le h 0 4 == 0x544F4F42 && le h 4 2 == 1 && decide (le h 6 2 < 4) && decide (le h 0xA 2 < 256) && zeros h 0x20 28
    && h.length == 64 && le h 0x3C 4 == (crc32 (h.take 0x3C)).toNat

/-- R503: a firmware slot verifies under a root key and MIN_VERSION. -/
def slotOk (key : BitVec 776) (minv : Nat) (b : List Byte) : Bool :=
  let n := 0x40 + le b 0xC 4
  le b 0 4 == 0x4D524F47 && le b 4 4 == 1 && decide (minv ≤ le b 10 2) && le b 0xC 4 % 4 == 0 && decide (n + 96 ≤ b.length)
    && Config.ecdsaOk key (b.take n) ((b.drop n).take 96)

/-- R502: the root key is copied from the fuses into an empty slot. -/
def State.copyRootKey (s : State) : State :=
  if s.sec.rootKey = 0 then { s with sec := { s.sec with rootKey := s.fuses.rootKey } } else s

/-- Stage 2: the flash is read and a firmware slot verified (R427, R428, R503). -/
def State.readFlash (s : State) (b : BootIn) : State :=
  if !b.flashOk then s.bootFail 1
  else if !bootHeaderOk b.header then s.bootFail 2
  else
    let s0 := s.copyRootKey
    let s1 : State := { s0 with chip := { s0.chip with bootHdr := b.header } }
    let ok (x : List Byte) : Bool := slotOk s1.sec.rootKey s1.fuses.minVersion x
    let run (s : State) (x : List Byte) : State := { s with chip := { s.chip with fwVersion := BitVec.ofNat 32 (le x 8 4) } }
    if ok b.slotA then (run s1 b.slotA).toStage 3
    else if le b.header 0x1C 4 ≠ 0 ∧ ok b.slotB then (((run s1 b.slotB).set1 Reg.CHIP_BOOT_SLOT).put Reg.CHIP_BOOT_ERR 3).toStage 3
    else s1.bootFail 4

/-! ### Stages 3 and 4 -/

/-- R427: GD_CH_CTL of a channel as the boot header configures it. -/
def State.applyGd (s : State) (h : List Byte) (c : Nat) : State :=
  let g := le h 0xA 2
  let s1 := ((((((s.put (Reg.GD_CH_CTL_EN c) (bits (le h 8 2) c c)).put (Reg.GD_CH_CTL_RATE c)
    (if bit (le h 6 2) 1 then 0 else bits g 2 0)).put (Reg.GD_CH_CTL_DENSITY c) (bits g 4 3)).put (Reg.GD_CH_CTL_CLAMSHELL c)
    (bits g 5 5)).put (Reg.GD_CH_CTL_DBI_EN c) (bits g 6 6))).put (Reg.GD_CH_CTL_PARITY_EN c) (bits g 7 7)
  s1.set1If (s1.chanIllegal c) (Reg.GD_CH_STAT_CFG_ERR c)

/-- R427: what the boot header sets; the GD block keeps its values through a warm reset (R292).  WALK_BOOT leaves the chip at
REDUCED service: 12 Gbit/s and provisional delays (R420, DEDUCED). -/
def State.applyHeader (s : State) : State :=
  let h := s.chip.bootHdr
  let v := le h 0xC 2
  let d := le h 0xE 2
  let dflt := v == 0 && d == 0
  let s1 : State := { s with
    chip := { s.chip with gdRate := bits (le h 0xA 2) 2 0, drift := 10 }
    pcie := { s.pcie with retry := false, bar2En := bit (le h 6 2) 0, ssvid := if dflt then 0x1FC6 else v, ssid := if dflt then 0 else d } }
  let s2 := if s.chip.warm then s1 else s1.each 16 (fun c s => s.applyGd h c)
  let s3 := s2.set1 Reg.CHIP_THERM_CTL_LOCK
  if bit (le h 6 2) 1 && !s.chip.warm then (s3.set1 Reg.CHIP_MODE_SVC).put Reg.CAP_STAT_STATE cDisabled else s3

/-- GDDR6 contents of channel c are lost: what a region that a warm reset keeps holds there is undefined (R287). -/
def State.dropGddr (s : State) (c : Nat) : State :=
  (s.chip.regions.filter (fun r => decide (r.c0 ≤ c ∧ c < r.c0 + r.n))).foldl (fun s r =>
    (s.setMemBytes (dAddr c (r.base * unitBytes)) (freeBytes s.free (r.units * unitBytes))).spendN (r.units * unitBytes))
    ({ s with gddr := s.gddr.filter (fun p => p.1 / 2 ^ 32 != c) } : State)

/-- Stage 4 of a cold boot begins: every enabled channel trains (R289). -/
def State.trainCold (s : State) : State := s.each 16 (fun c s => if s.on (Reg.GD_CH_CTL_EN c) then s.trainBegin c else s)

/-- Stage 4 of a warm reset begins: FAILED channels train and lose their contents (R287). -/
def State.trainWarm (s : State) : State :=
  s.each 16 (fun c s => if s.chanState c = gFailed then (s.dropGddr c).trainBegin c else s)

/-- Stage 4 of a warm reset: channels leave self refresh (R292). -/
def State.leaveSref (s : State) : State := s.each 16 (fun c s => if s.chanState c = gSref then s.setChanState c gReady else s)

/-- R274: the firmware region, unless the table that survived holds it. -/
def State.firmwareRegion (s : State) : State :=
  if s.chip.regions.any (fun r => r.kind == kFirmware) then s
  else
    match (List.range 16).find? (fun c => s.chanState c == gReady) with
    | some c =>
      (match s.allocate kFirmware 1 c 1 false with
      | some (s1, _) => s1
      | none => s)
    | none => s

/-! ### Stages 5 and 6 -/

/-- R16: the physical rows of the virtual rows. -/
def State.mappedRows (s : State) : List Nat :=
  ((List.range 34).filter (fun r => s.fuses.rows.getLsbD r)).take s.nRows

/-- R122: the virtual column of block n and the first of its three physical rows. -/
def siteWindow (n : Nat) : Nat × Nat :=
  if n < 8 then (0, 4 * n + 1)
  else if n < 16 then (15, 4 * (n - 8) + 1)
  else if n < 24 then (31, 4 * (n - 16) + 1)
  else if n < 32 then (16, 4 * (n - 24) + 1)
  else (if n = 32 then 4 else if n = 33 then 11 else if n = 34 then 20 else 27, 15)

/-- R122: block n joins the lowest mapped row of its window, and RTR_SITE_n says where. -/
def State.joinSite (s : State) (n : Nat) : State :=
  let w := siteWindow n
  match (List.range 3).findSome? (fun i => s.chip.rowMap.findIdx? (· == w.2 + i)) with
  | some y => ((s.put (Reg.RTR_SITE_X n) w.1).put (Reg.RTR_SITE_Y n) y).set1 (Reg.RTR_SITE_VALID n)
  | none => s.wr (Adr.RTR_SITE n) 0

/-- R455: the mapped Teams power on, both banks OFF; without LREF every Team stays off (R440). -/
def State.powerTeams (s : State) : State :=
  if s.on Reg.CHIP_CLK_STAT_LREF_OK then
    s.each s.nTeams (fun t s => ((s.freshTeam t).set1 (Reg.TEAM_PWR_EN t)).put (Reg.TEAM_PWR_STATE t) 1)
  else s

/-- R456: a Slot Schedule is undefined after a reset (R424). -/
def State.freshRouters (s : State) : State :=
  let g := s.free + 1
  s.spend.each s.nTeams (fun t s => s.onRouter t (fun r => { r with gen := g }))

/-- R293: the gateway site of a channel that ended DISABLED is isolated. -/
def State.isolateDisabled (s : State) : State :=
  s.each 16 (fun c s =>
    if s.chanState c = gDisabled then
      (match s.site c with
      | some t => s.set1 (Reg.RTR_CTL_ISOLATE_ATT t)
      | none => s)
    else s)

/-- Stage 5: row map, sites, Teams, BAR4 (R16, R17, R122, R365). -/
def State.mapRows (s : State) : State :=
  let s1 : State := { s with chip := { s.chip with rowMap := s.mappedRows }, pcie := { s.pcie with viewIs := false } }
  ((s1.each 36 (fun n s => s.joinSite n)).freshRouters.powerTeams).isolateDisabled

/-- Stage 6: BOOT_DONE, READY, IDLE, the RESET record; after a warm reset MODE_CHANGE from the mode in which it began (R425);
RET_NONCE is drawn afresh (R510). -/
def State.bootEnd (s : State) : State :=
  let s1 := (s.set1 Reg.CHIP_MODE_BOOT_DONE).each 4 (fun m s => s.set1 (Reg.MBX_STAT_READY m))
  let old := s.chip.oldMode
  let s2 := if s.chip.warm then
      (s1.groomRec 3 0 0x01 (argOf old 0)).postEvent 3 ⟨0x0001, 16, packBytes [(16, 1, old), (17, 1, mIdle), (24, 8, 0)]⟩ else s1
  let s3 := s2.groomRec 0 0 0x04 (argOf (s2.get Reg.CHIP_RST_CAUSE + 256 * s2.get Reg.CHIP_RST_WARM_COUNT) 0)
  ({ s3 with chip := { s3.chip with warm := false, oldMode := 0 } } : State).drawNonce

/-- R426: the stage in progress completes, or fails (R428). -/
def State.bootStep (b : BootIn) (s : State) : State :=
  match s.bootStage with
  | 0 => s.readFuses.toStage (if s.chip.warm then 2 else 1)
  | 1 => ({ s with pcie := { s.pcie with ltssm := true, retry := true } } : State).toStage 2
  | 2 => s.readFlash b
  | 3 =>
    if b.groomsUp then
      (if s.chip.warm then s.applyHeader.trainWarm else s.applyHeader.trainCold).toStage 4
    else s.bootFail 5
  | 4 => (((if s.chip.warm then s.leaveSref else s).trainAll b.trained).firmwareRegion).toStage 5
  | 5 => s.mapRows.toStage 6
  | _ => s.bootEnd

/-- The boot goes on: not in reset, not done, not failed, not halted. -/
def State.booting (s : State) : Bool :=
  !s.chip.inReset && !s.on Reg.CHIP_MODE_BOOT_DONE && !s.on Reg.CHIP_BOOT_FAILED && !s.chip.halted

def execBootStageDone (b : BootIn) (s : State) : Out := .next (if s.booting then s.bootStep b else s)

end Sys2Proof.Machine
end

