-- ==== Sys2Proof/Machine/Host.lean ====
section
/-! DEFINITION. Host accesses through BAR2 (R363, R364) and BAR4 (R35, R89, R90, R365, R366), with what a warm reset (R425) and
the always-on halt (R471) make of them. -/
namespace Sys2Proof.Machine

/-! ### BAR2 -/

/-- R364, R425: one byte of a BAR2 access is served. -/
def State.bar2Serves (s : State) (write : Bool) (d : Nat) : Bool :=
  !s.chip.warm && (if write then s.hostWrOk d else (s.hostRd d).isSome)

/-- R275: the gateways of a channel in service at which some byte of an access lies outside every window. -/
def State.outside (s : State) (d n : Nat) : List Nat :=
  (List.range 16).filter (fun c => s.chanServes c && (List.range n).any (fun i =>
    (d + i) / 2 ^ 32 == c && (s.winAt c ((d + i) % 2 ^ 32 / 4) ((d + i) % 2 ^ 32) 1).isNone))

/-- R363, R364: a BAR2 access is served byte by byte: the served bytes wait in their channels as dynamic traffic, a refused byte reads 0
or is not written. -/
def State.bar2 (d n : Nat) (data : Option (List Byte)) (s : State) : State :=
  if s.chip.halted then
    (if data.isNone then { s with rdata := byteWords (List.replicate n 0xFF) } else s)
  else if !s.pcie.bar2En then s
  else
    let runs := runsOf (s.bar2Serves data.isSome) d n
    let s1 := match data with
      | none => if runs.isEmpty then { s with rdata := byteWords (List.replicate n 0) } else s.hostBegin false d n none runs
      | some bs => runs.foldl (fun s r => s.hostQueue none d (some (s.hostBytes d bs)) r) s
    let s2 := if s.chip.warm then s1 else (s.outside d n).foldl (fun s c => s.set1 (Reg.GW_ERR_OUT_OF_REGION c)) s1
    if (List.range n).all (fun i => s.bar2Serves data.isSome (d + i)) then s2 else s2.peErr 2 0 (d / 2 ^ 12)

def execBar2Access (d : BitVec 36) (n : Nat) (data : Option (List Byte)) (s : State) : Out := .next (s.bar2 d.toNat n data)

/-! ### BAR4 -/

/-- R365: what a BAR4 offset within a Team's megabyte shows. -/
inductive Shown where
  | dm (k : DmaKind) (w : Nat)      -- word w of a design-memory window
  | is (u e k : Nat)                -- word k of entry e of unit u
deriving DecidableEq, Repr

/-- R365: BAR4 shows the Instruction Store view. -/
def State.showsStores (s : State) : Bool := s.pcie.viewIs && s.mode == mIdle

/-- R90, R365: the contents at an offset; none for a reserved one. -/
def State.shown (s : State) (o : Nat) : Option Shown :=
  if s.showsStores then
    (if o < 0xC3000 then some (.is (o / 0x3000) (o % 0x3000 / 12) (o % 12 / 4)) else none)
  else if o < 0x20000 then some (.dm .write (o / 4))
  else if o < 0x40000 then some (.dm .setBits ((o - 0x20000) / 4))
  else if o < 0x60000 then some (.dm .clearBits ((o - 0x40000) / 4))
  else none

/-- R143, R148, R366: the routers that a packet from router t passes, its destination last. -/
def State.routersTo (s : State) (p : Packet) : Nat → Nat → List Nat
  | 0, t => [t]
  | k + 1, t =>
    let port := s.routePort t p
    if port = 4 then [t] else t :: s.routersTo p k (s.nb t port)

/-- R153, R366: a class 0 packet from hub h to Team t meets a router that starts no dynamic packet.  DESIGN CHOICE: it is still frozen
when its count reaches 2,048, so that the request is answered ROUTE_FROZEN. -/
def State.frozenWay (s : State) (h t : Nat) : Bool :=
  match s.site (32 + h) with
  | some site => (s.routersTo (mkPacket t 0 0 0 site 1 0 0 0 0 0 []) 32 site).any (fun r => s.on (Reg.RTR_CTL_FREEZE r) || (s.router r).drain)
  | none => false

/-- R150, R153, R366, R456: why a container of Team t's megabyte is not reached from hub h: a completion STATUS, or 0x1F. -/
def State.bar4Fails (s : State) (h t o : Nat) : Option Nat :=
  if s.chip.warm then some 1
  else if !decide (t < s.nTeams) || (s.shown o).isNone then some 0x1F
  else if s.frozenWay h t || (s.router t).drain then some 2
  else if s.on (Reg.RTR_CTL_ISOLATE t) || !s.teamOn t then some 1
  else none

/-- R6, R35, R90: the word that a container reads. -/
def State.bar4Get (s : State) (t o : Nat) (c : MemCheck) : W24 :=
  match s.shown o with
  | some (.dm _ w) => s.dmGet t w c
  | some (.is u e k) => BitVec.ofNat 24 (((s.team t).entry u e).toNat / 2 ^ (24 * k))
  | none => 0

/-- R87, R89: while Teams execute steps a read of design memory waits for a free cycle: the word it waits for. -/
def State.bar4Waits (s : State) (o : Nat) : Option Nat :=
  match s.shown o with
  | some (.dm _ w) => if s.strideMode && !s.atRest then some w else none
  | _ => none

/-- R93: what the check of a design-memory word that is read does. -/
def State.bar4Checked (s : State) (t o : Nat) (c : MemCheck) : State :=
  match s.shown o with
  | some (.dm _ w) => if s.bankReady t (w / 2 ^ 14) then s.dmChecked t 0 w c else s
  | _ => s

/-- R35, R89, R90: a container is written. -/
def State.bar4Put (s : State) (t o : Nat) (v : W24) (c : MemCheck) : State :=
  match s.shown o with
  | some (.dm k w) => s.dmWrite t true k w v c
  | some (.is u e k) => if k = 2 then s.isCommit t u e v else s.isStage t (u == 64) k v
  | none => s

/-- R366: one container of a BAR4 access: read, its word added to the data of the read at once or once it is served (R87), or
written. -/
def State.bar4Word (h a : Nat) (v : Option W24) (c : MemCheck) (s : State) : State :=
  let t := a / 2 ^ 20
  let o := a % 2 ^ 20
  match s.bar4Fails h t o, v with
  | some st, none => { s.peErr 3 st t with rdata := s.rdata ++ [0#32] }
  | some st, some _ => s.peErr 3 st t
  | none, none =>
    match s.bar4Waits o with
    | some w => s.onTeam t (fun m => { m with dma := m.dma ++ [⟨.host, .read, w, 1, [], []⟩] })
    | none => { s.bar4Checked t o c with rdata := s.rdata ++ [(s.bar4Get t o c).setWidth 32] }
  | none, some w => s.bar4Put t o w c

/-- R152, R366: the first container of an access, whose Team does not accept the head flit in time. -/
def State.bar4Dead (h a : Nat) (write : Bool) (s : State) : State :=
  let t := a / 2 ^ 20
  if (s.bar4Fails h t (a % 2 ^ 20)).isSome then s.bar4Word h a (if write then some 0 else none) .ok
  else
    let s1 := (s.targetDead t 0).peErr 3 3 t
    if write then s1 else { s1 with rdata := s1.rdata ++ [0#32] }

/-- R366: one container after another; `dead` is said of the first. -/
def State.bar4Words (h : Nat) (dead : Bool) (c : MemCheck) (l : List (Nat × Option W24)) (s : State) : State :=
  match l, dead with
  | (a, v) :: rest, true => rest.foldl (fun s p => s.bar4Word h p.1 p.2 c) (s.bar4Dead h a v.isSome)
  | l, _ => l.foldl (fun s p => s.bar4Word h p.1 p.2 c) s

/-- R366: a BAR4 access through hub h: whole, aligned 4-byte containers in ascending order. -/
def State.bar4 (a n : Nat) (data : Option (List Byte)) (c : MemCheck) (h : Nat) (dead : Bool) (s : State) : State :=
  let at_ := (List.range (n / 4)).map (fun i => a + 4 * i)
  if s.chip.halted then
    (if data.isNone then { s with rdata := byteWords (List.replicate n 0xFF) } else s)
  else if a % 4 ≠ 0 ∨ n % 4 ≠ 0 then
    (let s1 := s.peErr 3 (if s.chip.warm then 1 else 0x1F) (a / 2 ^ 20)
     if data.isNone then { s1 with rdata := byteWords (List.replicate n 0) } else s1)
  else
    match data with
    | none => State.bar4Words h dead c (at_.map (fun x => (x, none)))
        (at_.foldl (fun s x => s.hostCatchUp (x / 2 ^ 20) c)
          (if at_.any (fun x => (s.team (x / 2 ^ 20)).hostWords != 0) then s else { s with rdata := [] }))
    | some bs => State.bar4Words h dead c ((at_.zip (words4 bs)).map (fun p => (p.1, some (BitVec.ofNat 24 p.2))))
        (at_.foldl (fun s x => s.hostCatchUp (x / 2 ^ 20) c) s)

def execBar4Access (a : BitVec 30) (n : Nat) (data : Option (List Byte)) (c : MemCheck) (hub : Fin 4) (dead : Bool) (s : State) : Out :=
  .next (s.bar4 a.toNat n data c hub dead)

end Sys2Proof.Machine
end

