-- ==== Sys2Proof/Machine/Snapshot.lean ====
section
/-! DEFINITION. Snapshots (R406, R431 to R433): the layout, SNAPSHOT_SAVE and SNAPSHOT_RESTORE. -/
namespace Sys2Proof.Machine

/-- Zero bytes up to a length. -/
def padTo (n : Nat) (bs : List Byte) : List Byte := bs ++ List.replicate (n - bs.length) 0

/-- Bytes of bits, the first bit lowest in the first byte. -/
def bitBytes (n : Nat) (f : Nat → Bool) : List Byte :=
  (List.range n).map (fun k => BitVec.ofNat 8 ((List.range 8).foldl (fun v j => v + ofBool (f (8 * k + j)) * 2 ^ j) 0))

/-- Bit i of bytes. -/
def byteBit (bs : List Byte) (i : Nat) : Bool := ((bs[i / 8]?).getD 0).getLsbD (i % 8)

/-- The length of a snapshot of T Teams (R431). -/
def snapLen (T : Nat) : Nat := 0x5000 + T * 139328 + 0x1000

/-! ### Placed addresses (R195, R431, R433) -/

/-- The loaded image moved the segment that holds preferred address a of Team t. -/
def State.movedAt (s : State) (t a : Nat) : Bool :=
  match s.chip.image with
  | some i => i.moved.any (fun q => decide (q.1 ≤ 2 ^ 15 * t + a ∧ 2 ^ 15 * t + a < q.1 + q.2))
  | none => false

/-- The placed address of a preferred one. -/
def State.placedAt (s : State) (t a : Nat) : Nat := if s.movedAt t a then a ^^^ 0x4000 else a

/-! ### What a snapshot holds (R431) -/

/-- ENABLE of domain d as sampled at the end of stride k: `back` decisions before H; the first two decisions after a load take
EN_INIT (R165). -/
def State.savedEnable (s : State) (h back d : Nat) : Bool :=
  if s.ds.decided < back then s.on (Reg.DS_DOM_CFG_EN_INIT d)
  else look s.ds.samples (2 * d + (h - back) % 2) == 2 * (h - back) + 2

/-- The Domain Scheduler section. -/
def State.snapDs (s : State) (h : Nat) : List Byte :=
  let word (a : Nat) : List Byte := leBytes 4 (s.viewDs a).toNat
  padTo 0x4000 (leBytes 6 s.dsNow ++ leBytes 2 (s.get Reg.DS_NOW_HI_EPOCH)
    ++ leBytes 8 (s.pair Adr.DS_HORIZON_LO Adr.DS_HORIZON_HI) ++ leBytes 4 (s.get Reg.DS_CTL_HORIZON_EN)
    ++ leBytes 4 s.ds.tasks.toNat ++ leBytes 8 (s.ds.lastTag.getD (h - 1)) ++ bitBytes 8 (fun d => s.on (Reg.DS_DOM_FLAGS_HOST_GO d))
    ++ bitBytes 8 (s.savedEnable h 2) ++ bitBytes 8 (s.savedEnable h 1) ++ leBytes 8 0
    ++ (List.range 256).flatMap (fun i => word (0x55000 + 4 * i)) ++ (List.range 1024).flatMap (fun i => word (0x54000 + 4 * i)))

/-- Signal Memory of one Team. -/
def State.snapSm (s : State) (t : Nat) : List Byte :=
  (List.range 64).flatMap (fun b => bitBytes 128 (fun a => ((s.team t).smRow a).getLsbD b))

def State.snapWr (s : State) (t : Nat) : List Byte := (List.range 16).flatMap (fun r => leBytes 4 ((s.team t).reg r).toNat)

/-- What a snapshot's reads of design memory find: the Team, the address, and what the check says. -/
abbrev Finds : Type := List (Fin 1024 × Fin 32768 × MemCheck)

/-- The finding for a word; none for a word whose check is clean. -/
def findAt (fs : Finds) (t p : Nat) : MemCheck :=
  match fs.find? (fun f => f.1.val == t && f.2.1.val == p) with
  | some f => f.2.2
  | none => .ok

/-- Design memory of one Team at preferred addresses, as the reads return it (R92, R93); banks that are not ON hold 0. -/
def State.snapDm (s : State) (fs : Finds) (t : Nat) : List Byte :=
  (List.range 32768).flatMap (fun a =>
    let p := s.placedAt t a
    leBytes 4 (if s.bankReady t (p / 2 ^ 14) then (memData (findAt fs t p) ((s.team t).word p)).toNat else 0))

/-- R92, R93: what the reads of the snapshot find is reported. -/
def State.snapFound (s : State) (fs : Finds) : State :=
  fs.foldl (fun s f =>
    if decide (f.1.val < s.nTeams) && s.bankReady f.1 (f.2.1 / 2 ^ 14) then s.dmChecked f.1 0 f.2.1 f.2.2 else s) s

/-- The flip-flops of the fabric. -/
def State.snapHitch (s : State) : List Byte := bitBytes 4096 (fun c => look s.ht.q c)

/-- Every byte from 0x1000 to the end. -/
def State.snapBody (s : State) (fs : Finds) (h : Nat) : List Byte :=
  let ts := List.range s.nTeams
  s.snapDs h ++ ts.flatMap s.snapSm ++ ts.flatMap s.snapWr ++ ts.flatMap (s.snapDm fs) ++ s.snapHitch

/-- One region entry of the header. -/
def State.snapRegion (s : State) (p : Nat × Nat) : List Byte :=
  match s.regionOf p.2 with
  | some r => leBytes 2 p.1 ++ leBytes 1 r.c0 ++ leBytes 1 0 ++ leBytes 4 (64 * r.units) ++ leBytes 8 (regionD r)
  | none => leBytes 16 0

def gradeCode (s : State) : Nat := if s.fuses.small then 0x300 else 0x400

/-- The header of a snapshot of image i at H. -/
def State.snapHead (s : State) (i : Image) (h : Nat) (body : List Byte) : List Byte :=
  padTo 0x1000 (padTo 0x40 (leBytes 4 0x50414E53 ++ leBytes 2 1 ++ leBytes 2 (gradeCode s) ++ leBytes 8 i.id.toNat ++ leBytes 8 i.sys.toNat
    ++ leBytes 2 i.part ++ leBytes 2 i.npart ++ leBytes 4 (crc32 body).toNat ++ leBytes 8 h ++ leBytes 8 (0x1000 + body.length))
    ++ (i.regions.take 64).flatMap s.snapRegion)

/-- The snapshot of the chip at H. -/
def State.snapshot (s : State) (fs : Finds) (h : Nat) : List Byte :=
  match s.chip.image with
  | some i => let b := s.snapBody fs h; s.snapHead i h b ++ b
  | none => []

/-! ### SNAPSHOT_SAVE (R406, R432) -/

/-- Why the place that a snapshot command names is refused: NOT_ALLOCATED, a region of another kind, too short (R406). -/
def State.placeRefused (s : State) (d : BitVec 512) (n : Nat) : Option Resp :=
  if fieldOf d 24 8 < n then some (errResp 0x1F 0 0 0)
  else if fieldOf d 8 1 = 1 then none
  else
    match s.regionOf (fieldOf d 12 4) with
    | none => some (notHeld (fieldOf d 12 4))
    | some r =>
      if !r.host then some (notHeld (fieldOf d 12 4))
      else if r.kind ≠ kSnapshot ∨ regionSize r < fieldOf d 16 8 + n then some (errResp 0x1F 0 0 0)
      else none

/-- The region of a snapshot command's place may be used now: nothing waits in its channels. -/
def State.placeQuiet (s : State) (d : BitVec 512) : Bool :=
  fieldOf d 8 1 == 1 || (match s.regionOf (fieldOf d 12 4) with | some r => s.regionQuiet r | none => true)

/-- The consumption of tag H - 1 and its landing writes are complete (R171, R431). -/
def State.settled (s : State) : Bool :=
  s.dueTag.isNone && s.runTeams.all (fun t => (s.team t).dma.all (fun r => r.src != .landing))

/-- R406: back to STEP at rest. -/
def State.backToStep (s : State) : State := (s.set1 Reg.CHIP_MODE_AT_REST).setMode mStep

/-- R432: the snapshot is written, and STEP at rest entered again; nothing goes to host memory while Bus Master Enable is 0
(R359). -/
def State.saveNow (s0 : State) (fs : Finds) (crc : List HostCrc) (d : BitVec 512) : State × Resp :=
  let h := s0.stride + 1
  let bs := s0.snapshot fs h
  let s := s0.snapFound fs
  if fieldOf d 8 1 = 1 then
    if s.mayMaster then ((s.toHost (fieldOf d 16 8) bs).backToStep, okWith 16 (packBytes [(16, 8, bs.length), (24, 8, h)]))
    else (s.backToStep, errResp 5 0 0 0)
  else
    ((match s.regionOf (fieldOf d 12 4) with
      | some r => s.toRegion r (fieldOf d 16 8) bs crc
      | none => s).backToStep, okWith 16 (packBytes [(16, 8, bs.length), (24, 8, h)]))

/-- R406: SNAPSHOT_SAVE starts and enters SNAPSHOT. -/
def State.saveBegin (d : BitVec 512) (s : State) : State × Nat × Option Resp :=
  match s.placeRefused d (snapLen s.nTeams) with
  | some r => (s, 0, some r)
  | none =>
    if fieldOf d 8 1 = 1 ∧ !s.mayMaster then (s, 0, some (errResp 5 0 0 0))
    else ((s.clr Reg.CHIP_MODE_AT_REST).setMode mSnapshot, 0, none)

/-- The started SNAPSHOT_SAVE ends; it waits for the consumption of tag H - 1. -/
def State.savePoll (fs : Finds) (crc : List HostCrc) (c : Taken) (s : State) : Option (State × Resp) :=
  if fieldOf c.desc 8 1 = 1 ∧ c.cut then some (s.backToStep, dmaCut)
  else if s.settled && s.placeQuiet c.desc then some (s.saveNow fs crc c.desc) else none

def execSnapshotSave (finds : List (Fin 1024 × Fin 32768 × MemCheck)) (crc : List HostCrc) (s : State) : Out :=
  .next (s.cmdLong 3 0x030A State.saveBegin (State.savePoll finds crc))

/-! ### SNAPSHOT_RESTORE (R406, R433) -/

/-- R433: why a snapshot does not fit the loaded image, or does not read right. -/
def State.snapBad (s : State) (bs : List Byte) : Option Resp :=
  match s.chip.image with
  | none => some (errResp 0x12 0 0 0)
  | some i =>
    if le bs 0 4 ≠ 0x50414E53 ∨ le bs 4 2 ≠ 1 ∨ le bs 6 2 ≠ gradeCode s ∨ le bs 8 8 ≠ i.id.toNat ∨ le bs 0x18 2 ≠ i.part then
      some (errResp 0x15 2 0xFFFF 0xFFFF)
    else if le bs 0x1C 4 ≠ (crc32 ((bs.drop 0x1000).take (snapLen s.nTeams - 0x1000))).toNat then some (errResp 0x20 0 0 0)
    else none

/-- Entries of the delay list from their read-out (R182). -/
def snapDelay (bs : List Byte) : List Edge :=
  (pieces 8 (bs.take 1024)).filterMap (fun e =>
    let w1 := le e 4 4
    if bit w1 31 then some ⟨le e 0 4 + 2 ^ 32 * bits w1 15 0, bits w1 21 16, bit w1 22⟩ else none)

/-- Entries of the matching store from their read-out (R182). -/
def snapStore (bs : List Byte) : List (Nat × Option Token) :=
  (pieces 16 (bs.take 4096)).zipIdx.foldl (fun l p =>
    let w2 := le p.1 8 4
    if bit w2 31 then
      upd l p.2 (some ⟨le p.1 12 1 % 32, bits w2 26 24, BitVec.ofNat 24 w2, bit w2 30, le p.1 0 8⟩)
    else l) []

/-- The Domain Scheduler as a snapshot gives it; the decisions of strides H and H + 1 take ENABLE from the saved values. -/
def State.restoreDs (s : State) (h : Nat) (b : List Byte) : State :=
  let s1 := ((s.wr Adr.DS_NOW_LO (BitVec.ofNat 32 (le b 0 4))).put Reg.DS_NOW_HI_NOW_HI (le b 4 2)).put Reg.DS_NOW_HI_EPOCH (le b 6 2)
  let s2 := (s1.putPair Adr.DS_HORIZON_LO Adr.DS_HORIZON_HI (le b 8 8)).put Reg.DS_CTL_HORIZON_EN (le b 0x10 1 % 2)
  let s3 := s2.each 64 (fun d s => s.put (Reg.DS_DOM_FLAGS_HOST_GO d) (ofBool (byteBit (b.drop 0x20) d)))
  let smp := (List.range 64).foldl (fun l d =>
    upd (upd l (2 * d + h % 2) (2 * (h - 2) + ofBool (byteBit (b.drop 0x28) d) + 1)) (2 * d + (h + 1) % 2)
      (2 * (h - 1) + ofBool (byteBit (b.drop 0x30) d) + 1)) []
  { s3 with ds := { Sched.reset with
      delay := snapDelay (b.drop 0x40), store := snapStore (b.drop 0x440), lastTag := some (le b 0x18 8)
      tasks := BitVec.ofNat 32 (le b 0x14 4), samples := smp, decided := 2, nows := s3.ds.nows, horizonLo := BitVec.ofNat 32 (le b 8 4) } }

/-- The saved word that lands at address p of Team t: a moved segment's word at its placed address, every other word at its
own. -/
def State.savedWord (s : State) (t : Nat) (b : List Byte) (p : Nat) : W24 :=
  let from_ := if s.movedAt t (p ^^^ 0x4000) then p ^^^ 0x4000 else p
  BitVec.ofNat 24 (le b (4 * from_) 3)

/-- Signal Memory, Word Register File and design memory of Team t. -/
def State.restoreTeam (s : State) (t : Nat) (smB wrB dmB : List Byte) : State :=
  if s.teamOn t then
    let rows := (List.range 1024).foldl (fun l a => Tab.set (fun _ => 0#64) l a
      (BitVec.ofNat 64 ((List.range 64).foldl (fun n b => n + ofBool (byteBit smB (1024 * b + a)) * 2 ^ b) 0))) []
    let regs := (List.range 16).foldl (fun l r => Tab.set (fun _ => 0#24) l r (BitVec.ofNat 24 (le wrB (4 * r) 3))) []
    let words := (List.range 32768).foldl (fun l p =>
      if s.bankReady t (p / 2 ^ 14) then Tab.set (fun _ => 0#24) l p (s.savedWord t dmB p) else l) []
    s.onTeam t (fun m => { m with sm := rows, wr := regs, dm := words })
  else s

/-- R433: the sections are written in layout order; the chip's stride number becomes H. -/
def State.restoreNow (s : State) (bs : List Byte) : State × Resp :=
  let T := s.nTeams
  let h := le bs 0x20 8
  let s1 := (s.clearHold.clr Reg.CHIP_MODE_AT_REST).setMode mSnapshot
  let s2 := s1.restoreDs h (bs.drop 0x1000)
  let s3 := s2.each T (fun t s => s.restoreTeam t ((bs.drop (0x5000 + 8192 * t)).take 8192)
    ((bs.drop (0x5000 + 8192 * T + 64 * t)).take 64) ((bs.drop (0x5000 + 8256 * T + 131072 * t)).take 131072))
  let ff := bs.drop (0x5000 + 139328 * T)
  let q := (List.range 32768).foldl (fun l c => if byteBit ff c then upd l c true else l) []
  let s4 : State := { s3 with
    ht := { s3.ht with q := q }
    chip := { s3.chip with restored := true, haltBkp := false, haltChk := false }
    cap := { s3.cap with decided := none } }
  (s4.putPair Adr.CHIP_STRIDE_LO Adr.CHIP_STRIDE_HI h, okWith 16 (packBytes [(16, 8, snapLen T), (24, 8, h)]))

/-- R406, R258: SNAPSHOT_RESTORE starts, and EPOCH returns to 0. -/
def State.restoreStart (d : BitVec 512) (s : State) : State × Nat × Option Resp :=
  match s.placeRefused d (snapLen s.nTeams) with
  | some r => (s, 0, some r)
  | none => (s.put Reg.LD_HOLD_STAT_EPOCH 0, 0, none)

/-- R406, R433: the started SNAPSHOT_RESTORE ends. -/
def State.restoreEnd (dma : HostDma) (crc : List HostCrc) (d : BitVec 512) (s0 : State) : State × Resp :=
  let n := snapLen s0.nTeams
  let (s, inRegion) := match (if fieldOf d 8 1 = 1 then none else s0.regionOf (fieldOf d 12 4)) with
    | some r => s0.fromRegion r (fieldOf d 16 8) n crc
    | none => (s0, [])
  match (if fieldOf d 8 1 = 1 then s.dmaBad dma else none) with
  | some r => (s, r)
  | none =>
    let bs := if fieldOf d 8 1 = 1 then dmaBytes dma n else inRegion
    match s.snapBad bs with
    | some r => (s, r)
    | none => s.restoreNow bs

/-- The restore reads its place once it may. -/
def State.restorePoll (dma : HostDma) (crc : List HostCrc) (c : Taken) (s : State) : Option (State × Resp) :=
  if fieldOf c.desc 8 1 = 1 ∧ c.cut then some (s, dmaCut)
  else if s.placeQuiet c.desc then some (s.restoreEnd dma crc c.desc) else none

def execSnapshotRestore (dma : HostDma) (crc : List HostCrc) (s : State) : Out :=
  .next (s.cmdLong 3 0x030B State.restoreStart (State.restorePoll dma crc))

end Sys2Proof.Machine
end

