-- ==== Sys2Proof/Machine/TimeCmd.lean ====
section
/-! DEFINITION. The time commands (R408, R410). -/
namespace Sys2Proof.Machine

/-- The signed value of four bytes. -/
def sArg (d : BitVec 512) (lo : Nat) : Int := sint 32 (fieldOf d lo 4)

/-- R408, R342: the offset of the first illegal byte of a TB_SET. -/
def State.tbSetBad (s : State) (d : BitVec 512) : Option Nat :=
  let k := fieldOf d 8 1
  let legal (v : Int) : Bool := decide (-999999999 ≤ v ∧ v ≤ 999999999)
  if k = 0 then
    if 2 ^ 48 ≤ fieldOf d 12 8 then some 12 else if 1000000000 ≤ fieldOf d 20 4 then some 20
    else if 2 ^ 24 ≤ fieldOf d 24 4 then some 24 else none
  else if k = 2 then (if legal (sArg d 12) && legal (s.tb.adj.getD 0 + sArg d 12) then none else some 12)
  else if k = 3 then (if 1 < fieldOf d 12 8 then some 12 else none)
  else none

/-- R341, R408: TB_SET writes its value; a value that an update applies is answered after that update. -/
def State.tbSetCmd (d : BitVec 512) (s : State) : State × Nat × Option Resp :=
  match s.tbSetBad d with
  | some i => (s, 0, some (badDesc 5 i))
  | none =>
    let k := fieldOf d 8 1
    if k = 0 then
      let s1 := s.putPair Adr.TB_SET_SEC_LO Adr.TB_SET_SEC_HI (fieldOf d 12 8)
      (((s1.wr Adr.TB_SET_NS (BitVec.ofNat 32 (fieldOf d 20 4))).wr Adr.TB_SET_FRAC (BitVec.ofNat 32 (fieldOf d 24 4))).tbSet, 0, none)
    else if k = 1 then (s.tbInc (BitVec.ofNat 32 (fieldOf d 12 4)), 0, none)
    else if k = 2 then (s.tbAdj (BitVec.ofNat 32 (fieldOf d 12 4)), 0, none)
    else (s.put Reg.TB_CTL_EN (fieldOf d 12 1), 0, some okResp)

def State.tbSetPoll (c : Taken) (s : State) : Option (State × Resp) :=
  let k := fieldOf c.desc 8 1
  let waits := if k = 0 then s.tb.set.isSome else if k = 1 then s.tb.incPend else s.tb.adj.isSome
  if waits then none else some (s, okResp)

def execTbSet (s : State) : Out := .next (s.cmdLong 1 0x0701 State.tbSetCmd State.tbSetPoll)

/-- R408, R352: CMP_ALLOC. -/
def State.cmpAlloc (d : BitVec 512) (s : State) : State × Resp :=
  match (List.range 8).find? (fun k => look s.tb.owner k == 0) with
  | none => (s, errResp 0x13 2 0 0)
  | some k =>
    let s1 : State := { s with tb := { s.tb with owner := upd s.tb.owner k (1 + fieldOf d 9 1) } }
    let s2 := (s1.wr (Adr.TB_CMP_TGT k) (BitVec.ofNat 32 (fieldOf d 12 4))).wr (Adr.TB_CMP_PER k) (BitVec.ofNat 32 (fieldOf d 16 4))
    ((s2.put (Reg.TB_CMP_CTL_PERIODIC k) (fieldOf d 8 1)).set1 (Reg.TB_CMP_CTL_ARM k), okWith 1 (packBytes [(16, 1, k)]))

def execCmpAlloc (s : State) : Out := .next (s.cmd 1 0x0702 State.cmpAlloc)

/-- CMP_FREE. -/
def State.cmpFree (d : BitVec 512) (s : State) : State × Resp :=
  let k := fieldOf d 8 1
  if look s.tb.owner k = 0 then (s, notHeld k)
  else (({ s with tb := { s.tb with owner := upd s.tb.owner k 0 } } : State).clr (Reg.TB_CMP_CTL_ARM k), okResp)

/-- R408: the events of earlier firings of the unit that the next command frees still wait. -/
def State.cmpWaits (s : State) : Bool :=
  match s.startable 1 0x0703 with
  | some (_, c) => (s.box 1).events.any (fun e => e.code == 0x12 && e.result % 256 == fieldOf c.desc 8 1)
  | none => false

/-- R408: CMP_FREE is answered after the events of the firings before it. -/
def execCmpFree (s : State) : Out := .next (if s.cmpWaits then s.eventPost 1 else s.cmd 1 0x0703 State.cmpFree)

/-! ### The time port (R410) -/

/-- A transmit buffer that is free. -/
def State.freeTx (s : State) : Option Nat := (List.range 8).find? (fun j => !s.on (Reg.TP_TXD_GO j))

/-- R410: TP_TX places the frame and sets GO. -/
def State.tpTxBegin (dma : HostDma) (d : BitVec 512) (s : State) : State × Nat × Option Resp :=
  match s.dmaBad dma, s.freeTx with
  | some r, _ => (s, 0, some r)
  | none, none => (s, 0, none)
  | none, some j =>
    let n := fieldOf d 8 2
    let s1 := s.setTpBytes (0x4000 + 0x800 * j) (dmaBytes dma n)
    let s2 := ((s1.put (Reg.TP_TXD_LEN j) n).put (Reg.TP_TXD_STAMP j) (fieldOf d 10 1)).put (Reg.TP_TXD_ID j) (fieldOf d 11 1)
    (s2.tpGo j, j + 1, none)

/-- R410: GO has cleared; the frame's stamp leaves the queue with the response. -/
def State.tpTxPoll (c : Taken) (s : State) : Option (State × Resp) :=
  if c.note = 0 ∨ s.on (Reg.TP_TXD_GO (c.note - 1)) then none
  else if fieldOf c.desc 10 1 = 0 then some (s, okResp)
  else
    match s.tb.txq.find? (fun e => e.src == 20 && e.id == fieldOf c.desc 11 1) with
    | none => none
    | some e =>
      some (({ s with tb := { s.tb with txq := s.tb.txq.erase e } } : State).txqCount,
        okWith 16 (packBytes [(16, 6, e.at_.sec), (24, 4, e.at_.ns), (28, 4, e.at_.frac)]))

/-- R410: TP_TX; while no transmit buffer is free the command does not start. -/
def execTpTx (dma : HostDma) (s : State) : Out :=
  .next (if (s.startable 1 0x0705).isSome && s.freeTx.isNone then (s.pollStarted 1 0x0705 State.tpTxPoll).getD s
    else s.cmdLong 1 0x0705 (State.tpTxBegin dma) State.tpTxPoll)

/-- The oldest stored frame's buffer. -/
def State.oldestRx (s : State) : Option Nat :=
  ((List.range 16).map (fun i => (s.tb.nextRx + i) % 16)).find? (fun j => s.on (Reg.TP_RXD_W0_FULL j))

/-- R410: the oldest stored frame goes to host memory and its buffer is free. -/
def State.tpRxTake (c : BitVec 512) (s : State) : Option (State × Resp) :=
  match s.oldestRx with
  | none => none
  | some j =>
    match s.dmaBad ⟨0, []⟩ with
    | some r => some (s, r)
    | none =>
      let n := s.get (Reg.TP_RXD_W0_LEN j)
      let s1 := (s.toHost (fieldOf c 16 8) (s.tpBytes (0x8000 + 0x800 * j) n)).clr (Reg.TP_RXD_W0_FULL j)
      some (s1, okWith 16 (packBytes [(16, 2, n), (18, 6, s.get (Reg.TP_RXD_W0_SEC_HI j) * 2 ^ 32 + s.get (Reg.TP_RXD_W1_SEC_LO j)),
        (24, 4, s.get (Reg.TP_RXD_W2_NS j)), (28, 4, s.get (Reg.TP_RXD_W3_FRAC j))]))

/-- The response of a TP_RX without a frame. -/
def noFrame : Resp := okWith 16 0

/-- R410: TP_RX. -/
def State.tpRxBegin (d : BitVec 512) (s : State) : State × Nat × Option Resp :=
  match s.tpRxTake d with
  | some (s1, r) => (s1, 0, some r)
  | none => (s, 0, if fieldOf d 8 4 = 0 then some noFrame else none)

def State.tpRxPoll (c : Taken) (s : State) : Option (State × Resp) := s.tpRxTake c.desc

/-- R410: TP_RX; a frame goes to the oldest command that waits for one. -/
def execTpRx (s : State) : Out :=
  .next ((s.pollStarted 1 0x0706 State.tpRxPoll).getD (s.cmdLong 1 0x0706 State.tpRxBegin State.tpRxPoll))

/-- R410: WAIT_MS of the oldest waiting TP_RX runs out. -/
def execTpRxWaitExpiry (s : State) : Out :=
  .next ((s.pollStarted 1 0x0706 (fun c s => if (s.tpRxTake c.desc).isSome then s.tpRxTake c.desc else some (s, noFrame))).getD s)

end Sys2Proof.Machine
end

