-- ==== Sys2Proof/Machine/Timeout.lean ====
section
/-! DEFINITION. The deadline of a command (R376, R396, R410). -/
namespace Sys2Proof.Machine

/-- The response of TIMEOUT. -/
def timeoutResp : Resp := errResp 4 0 0 0

/-- The taken command `i` of mailbox m answers with FLAGS.LATE as given. -/
def State.finishLate (s : State) (m i : Nat) (late : Bool) (r : Resp) : State :=
  match (s.box m).taken[i]? with
  | some c => (s.onBox m (fun b => { b with taken := b.taken.eraseIdx i })).respond m c late r
  | none => s

/-- The taken command `i` of mailbox m with its response discarded. -/
def State.muted (s : State) (m i : Nat) : State :=
  s.onBox m (fun b => { b with taken := b.taken.modify i (fun c => { c with mute := true }) })

/-- R376: a started run-control command whose work completes now: the state after that work, and its own response. -/
def State.lateRun (s : State) (i op : Nat) : Option (State × Resp) :=
  if op = 0x0301 then
    let s1 := (s.muted 3 i).dsEnable
    if (s1.longDesc op).isNone then some (s1, okWith 8 (s.chip.n0.getD 0)) else none
  else if op = 0x0302 ∨ op = 0x0304 then
    let s1 := (s.muted 3 i).atH
    if (s1.longDesc op).isNone then some (s1, okWith 8 s.holdH) else none
  else none

/-- R376: the Groom finds a started command's work complete in the cycle in which its deadline expires. -/
def State.latePoll (s : State) (c : Taken) : Option (State × Resp) :=
  let op := fieldOf c.desc 0 2
  if op = 0x0301 then s.runStartPoll c
  else if op = 0x030A then s.savePoll [] [] c
  else if op = 0x0504 then s.copyPoll c
  else if op = 0x0401 then s.linkUpPoll c
  else if op = 0x0404 then s.elasticPoll c
  else if op = 0x0602 then s.capCtlPoll c
  else if op = 0x0701 then s.tbSetPoll c
  else if op = 0x0705 then s.tpTxPoll c
  else if op = 0x0706 then s.tpRxPoll c
  else if op = 0x0906 then s.teamPowerPoll c
  else if op = 0x0907 then s.debugPoll c
  else none

/-- R410: the frame of a TP_TX is withdrawn unsent. -/
def State.withdraw (s : State) (j : Nat) : State :=
  ({ s with tb := { s.tb with goOrder := s.tb.goOrder.erase j } } : State).clr (Reg.TP_TXD_GO j)

/-- R396: the place that a SNAPSHOT_SAVE names holds undefined contents: free bytes in a device region (host memory is outside
the model). -/
def State.scramble (s : State) (d : BitVec 512) : State :=
  match (if fieldOf d 8 1 = 1 then none else s.regionOf (fieldOf d 12 4)) with
  | some r =>
    let n := snapLen s.nTeams
    (s.toRegion r (fieldOf d 16 8) (freeBytes s.free n) []).spendN n
  | none => s

/-- R396: the outcome of a started command at TIMEOUT (IMAGE_LOAD and SNAPSHOT_RESTORE: no image, and IDLE, R194). -/
def State.cutShort (s : State) (c : Taken) : State :=
  let op := fieldOf c.desc 0 2
  if op = 0x0301 then (s.clr Reg.CHIP_MODE_SVC_CHG).stopAlign
  else if op = 0x0304 then { s with chip := { s.chip with stepTo := none } }
  else if op = 0x0201 ∨ op = 0x030B then s.unload
  else if op = 0x030A then (s.scramble c.desc).backToStep
  else if op = 0x0705 ∧ c.note ≠ 0 ∧ s.on (Reg.TP_TXD_GO (c.note - 1)) then s.withdraw (c.note - 1)
  else s

/-- R376: the work of the taken command `i` completes in this Groom cycle: its response will carry LATE. -/
def State.lateAt (s : State) (m i : Nat) : State :=
  s.onBox m (fun b => { b with taken := b.taken.modify i (fun c => { c with late := true }) })

/-- R376, R396: the deadline of the `i`-th taken command of mailbox m expires: it ends with TIMEOUT, unless its work completes in the same
cycle, as `done` says or as the state shows. -/
def State.deadline (m i : Nat) (done : Bool) (s : State) : State :=
  if s.chip.halted || (s.box m).restarting then s
  else
    match (s.box m).taken[i]? with
    | none => s
    | some c =>
      let op := fieldOf c.desc 0 2
      if c.started then
        match s.lateRun i op, s.latePoll c with
        | some (s1, r), _ => s1.respond m c true r
        | none, some (s1, r) => s1.finishLate m i true r
        | none, none => if done then s.lateAt m i else (s.cutShort c).finishLate m i false timeoutResp
      else if done then s.lateAt m i
      else s.finishLate m i false timeoutResp

def execCommandTimeout (m : Fin 4) (i : Nat) (done : Bool) (s : State) : Out := .next (s.deadline m i done)

end Sys2Proof.Machine
end

