-- ==== Sys2Proof/Machine/Dispatch.lean ====
section
/-! DEFINITION. One arm per command, each a direct call of its meaning. -/
namespace Sys2Proof.Machine

/-- The effect of a command on everything but the queue. -/
def exec (i : Instr) (s : State) : Host.Outcome State Fault Refusal :=
  match i with
  | .stepExecute t c => Sys2Proof.Machine.execStepExecute t c s
  | .hangTimerExpiry t => Sys2Proof.Machine.execHangTimerExpiry t s
  | .strideBoundaryPass t => Sys2Proof.Machine.execStrideBoundaryPass t s
  | .chipBoundaryComplete elapsed => Sys2Proof.Machine.execChipBoundaryComplete elapsed s
  | .tokenConsumption late => Sys2Proof.Machine.execTokenConsumption late s
  | .dsDecision waiting => Sys2Proof.Machine.execDsDecision waiting s
  | .descriptorIssue cycles => Sys2Proof.Machine.execDescriptorIssue cycles s
  | .descriptorArrival t => Sys2Proof.Machine.execDescriptorArrival t s
  | .hitchInputLatch => Sys2Proof.Machine.execHitchInputLatch s
  | .receiveStoreWrite t port => Sys2Proof.Machine.execReceiveStoreWrite t port s
  | .flitReceive t port c => Sys2Proof.Machine.execFlitReceive t port c s
  | .replayRequest t port => Sys2Proof.Machine.execReplayRequest t port s
  | .carryArrival t => Sys2Proof.Machine.execCarryArrival t s
  | .gwRspArrival t => Sys2Proof.Machine.execGwRspArrival t s
  | .packetInject t place => Sys2Proof.Machine.execPacketInject t place s
  | .regulatorRefill t => Sys2Proof.Machine.execRegulatorRefill t s
  | .packetRoute t out blocked => Sys2Proof.Machine.execPacketRoute t out blocked s
  | .packetArrival t => Sys2Proof.Machine.execPacketArrival t s
  | .targetTimeout t late => Sys2Proof.Machine.execTargetTimeout t late s
  | .freezeWrite t v late => Sys2Proof.Machine.execFreezeWrite t v late s
  | .freezeDrain t => Sys2Proof.Machine.execFreezeDrain t s
  | .isolateWrite t v => Sys2Proof.Machine.execIsolateWrite t v s
  | .ssW0Write t w => Sys2Proof.Machine.execSsW0Write t w s
  | .ssW1Write t w => Sys2Proof.Machine.execSsW1Write t w s
  | .swapArm t => Sys2Proof.Machine.execSwapArm t s
  | .swapScanDone t => Sys2Proof.Machine.execSwapScanDone t s
  | .isStageWrite t wu k v => Sys2Proof.Machine.execIsStageWrite t wu k v s
  | .isCommitWrite t u a v => Sys2Proof.Machine.execIsCommitWrite t u a v s
  | .dmWindowWrite t host a v => Sys2Proof.Machine.execDmWindowWrite t host a v s
  | .dmAliasSet t host a v c => Sys2Proof.Machine.execDmAliasSet t host a v c s
  | .dmAliasClear t host a v c => Sys2Proof.Machine.execDmAliasClear t host a v c s
  | .dmaAccess t c => Sys2Proof.Machine.execDmaAccess t c s
  | .dmaForced t c => Sys2Proof.Machine.execDmaForced t c s
  | .patrolRegion t fixed ue bad => Sys2Proof.Machine.execPatrolRegion t fixed ue bad s
  | .isPatrol t c fixed ue bad => Sys2Proof.Machine.execIsPatrol t c fixed ue bad s
  | .bankPowerWrite t b v => Sys2Proof.Machine.execBankPowerWrite t b v s
  | .bankInitDone t b => Sys2Proof.Machine.execBankInitDone t b s
  | .chipStrideLoWrite v => Sys2Proof.Machine.execChipStrideLoWrite v s
  | .chipStrideHiWrite v => Sys2Proof.Machine.execChipStrideHiWrite v s
  | .chipStrideLoRead who => Sys2Proof.Machine.execChipStrideLoRead who s
  | .dsNowLoRead who => Sys2Proof.Machine.execDsNowLoRead who s
  | .dsHorizonHiWrite v => Sys2Proof.Machine.execDsHorizonHiWrite v s
  | .dsEnable => Sys2Proof.Machine.execDsEnable s
  | .hitchTokenAccept => Sys2Proof.Machine.execHitchTokenAccept s
  | .tapSampleArrival t => Sys2Proof.Machine.execTapSampleArrival t s
  | .captureRecord full => Sys2Proof.Machine.execCaptureRecord full s
  | .capArm => Sys2Proof.Machine.execCapArm s
  | .capStop => Sys2Proof.Machine.execCapStop s
  | .capForce => Sys2Proof.Machine.execCapForce s
  | .capDisarm => Sys2Proof.Machine.execCapDisarm s
  | .laneEnable l => Sys2Proof.Machine.execLaneEnable l s
  | .laneDisable l => Sys2Proof.Machine.execLaneDisable l s
  | .sweepSettingDone l acq dwell clean late => Sys2Proof.Machine.execSweepSettingDone l acq dwell clean late s
  | .sweepDone l => Sys2Proof.Machine.execSweepDone l s
  | .confirmDone l ok => Sys2Proof.Machine.execConfirmDone l ok s
  | .trainingBlockReceive l block pats arrive => Sys2Proof.Machine.execTrainingBlockReceive l block pats arrive s
  | .blockLockLoss l inWindow heads => Sys2Proof.Machine.execBlockLockLoss l inWindow heads s
  | .faultTimeout l => Sys2Proof.Machine.execFaultTimeout l s
  | .cdrLockChange l locked => Sys2Proof.Machine.execCdrLockChange l locked s
  | .injOne l => Sys2Proof.Machine.execInjOne l s
  | .frameTransmit n at_ expired stuck => Sys2Proof.Machine.execFrameTransmit n at_ expired stuck s
  | .frameReceive n f at_ => Sys2Proof.Machine.execFrameReceive n f at_ s
  | .widthChange n => Sys2Proof.Machine.execWidthChange n s
  | .alignId n => Sys2Proof.Machine.execAlignId n s
  | .alignN0 n => Sys2Proof.Machine.execAlignN0 n s
  | .stride n => Sys2Proof.Machine.execStride n s
  | .hold n => Sys2Proof.Machine.execHold n s
  | .release n => Sys2Proof.Machine.execRelease n s
  | .time n id => Sys2Proof.Machine.execTime n id s
  | .fw n => Sys2Proof.Machine.execFw n s
  | .holdRequest => Sys2Proof.Machine.execHoldRequest s
  | .releaseRequest => Sys2Proof.Machine.execReleaseRequest s
  | .atHReached => Sys2Proof.Machine.execAtHReached s
  | .gwRequestServe c capSpent => Sys2Proof.Machine.execGwRequestServe c capSpent s
  | .gwRspSend c => Sys2Proof.Machine.execGwRspSend c s
  | .dynamicBurst c blocked capSpent => Sys2Proof.Machine.execDynamicBurst c blocked capSpent s
  | .dynamicRequestAged c => Sys2Proof.Machine.execDynamicRequestAged c s
  | .refreshDue c => Sys2Proof.Machine.execRefreshDue c s
  | .refpbIssue c => Sys2Proof.Machine.execRefpbIssue c s
  | .burstCrcCheck c fails last => Sys2Proof.Machine.execBurstCrcCheck c fails last s
  | .caParityAlert c again => Sys2Proof.Machine.execCaParityAlert c again s
  | .trainOp c op => Sys2Proof.Machine.execTrainOp c op s
  | .trainOpDone c pass => Sys2Proof.Machine.execTrainOpDone c pass s
  | .gdDlyWrite c n v => Sys2Proof.Machine.execGdDlyWrite c n v s
  | .pauseWrite c => Sys2Proof.Machine.execPauseWrite c s
  | .pauseTakeEffect c => Sys2Proof.Machine.execPauseTakeEffect c s
  | .pauseReady c => Sys2Proof.Machine.execPauseReady c s
  | .pauseClear c late => Sys2Proof.Machine.execPauseClear c late s
  | .pauseTimeout c => Sys2Proof.Machine.execPauseTimeout c s
  | .srefWrite c v => Sys2Proof.Machine.execSrefWrite c v s
  | .hotWindow c => Sys2Proof.Machine.execHotWindow c s
  | .hitchGoWrite v => Sys2Proof.Machine.execHitchGoWrite v s
  | .qstopWrite v => Sys2Proof.Machine.execQstopWrite v s
  | .prHold r => Sys2Proof.Machine.execPrHold r s
  | .prRelease => Sys2Proof.Machine.execPrRelease s
  | .contentionDetect line => Sys2Proof.Machine.execContentionDetect line s
  | .rearm => Sys2Proof.Machine.execRearm s
  | .hpoUpdate => Sys2Proof.Machine.execHpoUpdate s
  | .hpLoad v => Sys2Proof.Machine.execHpLoad v s
  | .tokenPortTake task opnd data => Sys2Proof.Machine.execTokenPortTake task opnd data s
  | .streamRxTake n => Sys2Proof.Machine.execStreamRxTake n s
  | .streamTxTake n stream nb data => Sys2Proof.Machine.execStreamTxTake n stream nb data s
  | .treeSwitch t => Sys2Proof.Machine.execTreeSwitch t s
  | .treeSwitchTimeout t => Sys2Proof.Machine.execTreeSwitchTimeout t s
  | .extest v oe => Sys2Proof.Machine.execExtest v oe s
  | .tbUpdate => Sys2Proof.Machine.execTbUpdate s
  | .tbIncWrite v => Sys2Proof.Machine.execTbIncWrite v s
  | .tbAdjWrite v => Sys2Proof.Machine.execTbAdjWrite v s
  | .tbSetWrite => Sys2Proof.Machine.execTbSetWrite s
  | .tbNowNsRead by_ => Sys2Proof.Machine.execTbNowNsRead by_ s
  | .tbSbStrideRead by_ => Sys2Proof.Machine.execTbSbStrideRead by_ s
  | .tbTxqW3Read by_ => Sys2Proof.Machine.execTbTxqW3Read by_ s
  | .tpTxGo j => Sys2Proof.Machine.execTpTxGo j s
  | .tpTxDone at_ => Sys2Proof.Machine.execTpTxDone at_ s
  | .tpRxFrame blocks at_ => Sys2Proof.Machine.execTpRxFrame blocks at_ s
  | .tpRxFree j => Sys2Proof.Machine.execTpRxFree j s
  | .registerWrite who a n vs => Sys2Proof.Machine.execRegisterWrite who a n vs s
  | .latchedPairRead who a n => Sys2Proof.Machine.execLatchedPairRead who a n s
  | .bar2Access d n data => Sys2Proof.Machine.execBar2Access d n data s
  | .bar4Access a n data c hub dead => Sys2Proof.Machine.execBar4Access a n data c hub dead s
  | .peFenceRead => Sys2Proof.Machine.execPeFenceRead s
  | .commandSlotWrite m w v => Sys2Proof.Machine.execCommandSlotWrite m w v s
  | .doorbell m v => Sys2Proof.Machine.execDoorbell m v s
  | .rspCiWrite m v => Sys2Proof.Machine.execRspCiWrite m v s
  | .commandTake m => Sys2Proof.Machine.execCommandTake m s
  | .commandTimeout m place done => Sys2Proof.Machine.execCommandTimeout m place done s
  | .eventPost m => Sys2Proof.Machine.execEventPost m s
  | .peIntEnWrite hi v => Sys2Proof.Machine.execPeIntEnWrite hi v s
  | .mailboxReset m => Sys2Proof.Machine.execMailboxReset m s
  | .mailboxResetDone m => Sys2Proof.Machine.execMailboxResetDone m s
  | .functionLevelReset down => Sys2Proof.Machine.execFunctionLevelReset down s
  | .pePerst => Sys2Proof.Machine.execPePerst s
  | .getInfo => Sys2Proof.Machine.execGetInfo s
  | .setEventVector => Sys2Proof.Machine.execSetEventVector s
  | .warmReset => Sys2Proof.Machine.execWarmReset s
  | .imageLoad img excl islands crc => Sys2Proof.Machine.execImageLoad img excl islands crc s
  | .imageInfo => Sys2Proof.Machine.execImageInfo s
  | .aperture => Sys2Proof.Machine.execAperture s
  | .imageUnload => Sys2Proof.Machine.execImageUnload s
  | .runStart runs => Sys2Proof.Machine.execRunStart runs s
  | .runStop => Sys2Proof.Machine.execRunStop s
  | .runAbort => Sys2Proof.Machine.execRunAbort s
  | .stepStrides => Sys2Proof.Machine.execStepStrides s
  | .bkpArm => Sys2Proof.Machine.execBkpArm s
  | .haltContinue => Sys2Proof.Machine.execHaltContinue s
  | .hostGo => Sys2Proof.Machine.execHostGo s
  | .horizon => Sys2Proof.Machine.execHorizon s
  | .token late => Sys2Proof.Machine.execToken late s
  | .snapshotSave finds crc => Sys2Proof.Machine.execSnapshotSave finds crc s
  | .snapshotRestore dma crc => Sys2Proof.Machine.execSnapshotRestore dma crc s
  | .linkUp => Sys2Proof.Machine.execLinkUp s
  | .linkDown => Sys2Proof.Machine.execLinkDown s
  | .linkStatus => Sys2Proof.Machine.execLinkStatus s
  | .elasticWidth => Sys2Proof.Machine.execElasticWidth s
  | .laneTest => Sys2Proof.Machine.execLaneTest s
  | .memInfo => Sys2Proof.Machine.execMemInfo s
  | .regionAlloc => Sys2Proof.Machine.execRegionAlloc s
  | .regionFree => Sys2Proof.Machine.execRegionFree s
  | .memCopy dma => Sys2Proof.Machine.execMemCopy dma s
  | .driftCfg => Sys2Proof.Machine.execDriftCfg s
  | .capConfig dma => Sys2Proof.Machine.execCapConfig dma s
  | .capCtl => Sys2Proof.Machine.execCapCtl s
  | .capStatus => Sys2Proof.Machine.execCapStatus s
  | .tbSet => Sys2Proof.Machine.execTbSet s
  | .cmpAlloc => Sys2Proof.Machine.execCmpAlloc s
  | .cmpFree => Sys2Proof.Machine.execCmpFree s
  | .linkTime id far => Sys2Proof.Machine.execLinkTime id far s
  | .tpTx dma => Sys2Proof.Machine.execTpTx dma s
  | .tpRx => Sys2Proof.Machine.execTpRx s
  | .htPartial dma => Sys2Proof.Machine.execHtPartial dma s
  | .htCtl => Sys2Proof.Machine.execHtCtl s
  | .htClock => Sys2Proof.Machine.execHtClock s
  | .sbRead => Sys2Proof.Machine.execSbRead s
  | .sbMark => Sys2Proof.Machine.execSbMark s
  | .regSet tooMuch => Sys2Proof.Machine.execRegSet tooMuch s
  | .probeCfg => Sys2Proof.Machine.execProbeCfg s
  | .traceCfg next => Sys2Proof.Machine.execTraceCfg next s
  | .teamPower => Sys2Proof.Machine.execTeamPower s
  | .debugRead => Sys2Proof.Machine.execDebugRead s
  | .secStatus => Sys2Proof.Machine.execSecStatus s
  | .keyWrite => Sys2Proof.Machine.execKeyWrite s
  | .lcAdvance => Sys2Proof.Machine.execLcAdvance s
  | .lcReturn dma => Sys2Proof.Machine.execLcReturn dma s
  | .coldReset pwr => Sys2Proof.Machine.execColdReset pwr s
  | .warmResetBegin => Sys2Proof.Machine.execWarmResetBegin s
  | .bootStageDone b => Sys2Proof.Machine.execBootStageDone b s
  | .referenceLoss c => Sys2Proof.Machine.execReferenceLoss c s
  | .referenceReturn c => Sys2Proof.Machine.execReferenceReturn c s
  | .heartbeatTimeout cls idx dead late => Sys2Proof.Machine.execHeartbeatTimeout cls idx dead late s
  | .oneSidedReset cls idx => Sys2Proof.Machine.execOneSidedReset cls idx s
  | .crossingRearm cls idx => Sys2Proof.Machine.execCrossingRearm cls idx s
  | .teamPwrWrite t v => Sys2Proof.Machine.execTeamPwrWrite t v s
  | .teamSwitchDone t => Sys2Proof.Machine.execTeamSwitchDone t s
  | .thermalSample temps => Sys2Proof.Machine.execThermalSample temps s
  | .tamper mask begun => Sys2Proof.Machine.execTamper mask begun s
  | .watchdogExpiry g us pc recent digestOk kick at_ => Sys2Proof.Machine.execWatchdogExpiry g us pc recent digestOk kick at_ s
  | .watchdogKick g v => Sys2Proof.Machine.execWatchdogKick g v s
  | .groomRestart g => Sys2Proof.Machine.execGroomRestart g s
  | .groomRestartTimeout g => Sys2Proof.Machine.execGroomRestartTimeout g s
  | .sbWrW3Write g v => Sys2Proof.Machine.execSbWrW3Write g v s
  | .saddlebagRecord cycles => Sys2Proof.Machine.execSaddlebagRecord cycles s
  | .suppressionSecondEnd g => Sys2Proof.Machine.execSuppressionSecondEnd g s
  | .ceSummary => Sys2Proof.Machine.execCeSummary s
  | .sbRecordRead who place => Sys2Proof.Machine.execSbRecordRead who place s
  | .smbusStatus => Sys2Proof.Machine.execSmbusStatus s
  | .smbusSetIndex v pecOk => Sys2Proof.Machine.execSmbusSetIndex v pecOk s
  | .smbusReadRecord => Sys2Proof.Machine.execSmbusReadRecord s
  | .smbusAlertStat => Sys2Proof.Machine.execSmbusAlertStat s
  | .smbusAlertClr v pecOk => Sys2Proof.Machine.execSmbusAlertClr v pecOk s
  | .unfreeze v pecOk => Sys2Proof.Machine.execUnfreeze v pecOk s
  | .smbusWarmReset v pecOk => Sys2Proof.Machine.execSmbusWarmReset v pecOk s
  | .smbusChipId => Sys2Proof.Machine.execSmbusChipId s
  | .alertResponseRead => Sys2Proof.Machine.execAlertResponseRead s
  | .sbaccCapture => Sys2Proof.Machine.execSbaccCapture s
  | .sbaccUpdate v => Sys2Proof.Machine.execSbaccUpdate v s
  | .conditionalBranch g taken cycles next => Sys2Proof.Machine.execConditionalBranch g taken cycles next s
  | .indirectBranch g cycles target => Sys2Proof.Machine.execIndirectBranch g cycles target s
  | .exceptionTaken g cycles addr handler cause => Sys2Proof.Machine.execExceptionTaken g cycles addr handler cause s
  | .waitForInterrupt g cycles => Sys2Proof.Machine.execWaitForInterrupt g cycles s
  | .wake g addr => Sys2Proof.Machine.execWake g addr s
  | .traceDrop g next => Sys2Proof.Machine.execTraceDrop g next s
  | .traceBlockFlush g aged => Sys2Proof.Machine.execTraceBlockFlush g aged s
  | .traceCtlWrite v next => Sys2Proof.Machine.execTraceCtlWrite v next s
  | .progressCountArrival t port count => Sys2Proof.Machine.execProgressCountArrival t port count s
  | .creditReturn t port vc => Sys2Proof.Machine.execCreditReturn t port vc s
  | .blockLockAcquire l inverted heads => Sys2Proof.Machine.execBlockLockAcquire l inverted heads s
  | .prbsLockChange l received => Sys2Proof.Machine.execPrbsLockChange l received s
  | .rdyBlocksSent l => Sys2Proof.Machine.execRdyBlocksSent l s
  | .tpLinkUpChange heads bad => Sys2Proof.Machine.execTpLinkUpChange heads bad s
  | .vddioHtChange b mv => Sys2Proof.Machine.execVddioHtChange b mv s
  | .vddAonLoss => Sys2Proof.Machine.execVddAonLoss s
  | .vddAonRise => Sys2Proof.Machine.execVddAonRise s
  | .resetRelease => Sys2Proof.Machine.execResetRelease s
  | .stepPllLock => Sys2Proof.Machine.execStepPllLock s
  | .rcRegisterRead who a n => Sys2Proof.Machine.execRcRegisterRead who a n s
  | .configurationWrite reg v => Sys2Proof.Machine.execConfigurationWrite reg v s
  | .msixVectorUnmask v => Sys2Proof.Machine.execMsixVectorUnmask v s
  | .pcieLinkUp width speed => Sys2Proof.Machine.execPcieLinkUp width speed s
  | .smbusArpAssign addr => Sys2Proof.Machine.execSmbusArpAssign addr s
  | .jtagInstructionLoad code => Sys2Proof.Machine.execJtagInstructionLoad code s
  | .tpRxWaitExpiry => Sys2Proof.Machine.execTpRxWaitExpiry s

end Sys2Proof.Machine
end

