-- ==== Sys2Proof/Machine/Fabric.lean ====
section
/-! DEFINITION. A tick: what happens with no command waiting.  The spec gives the fabric clocks of its own and no command for their
edges: a step on an empty queue is one VCO period of the fabric clock generator, with one HCLK edge (DESIGN CHOICE). -/
namespace Sys2Proof.Machine

/-! ### Clocks (R321 to R323) -/

/-- R321: one VCO period of output k: it counts to its divider, and takes a new D at the end of a whole period. -/
def State.fclkTick (s : State) (k : Nat) (h : Hitch) : Hitch :=
  if s.fclkSet k && !s.fclkFast k then
    if look h.fcnt k + 1 < look h.fdiv k then { h with fcnt := upd h.fcnt k (look h.fcnt k + 1) }
    else { h with fcnt := upd h.fcnt k 0, fdiv := upd h.fdiv k (s.get (Reg.HT_FCLK_D k)) }
  else { h with fcnt := upd h.fcnt k 0, fdiv := upd h.fdiv k 0 }

/-- R322: the level of a source code of a tree. -/
def Hitch.treeSource (h : Hitch) (code : Nat) : Bool :=
  if code < 4 then h.fclk code else h.pad (32 * ((code - 8) / 2) + (code - 8) % 2)

/-- R322, R323: a tree sees the levels of its sources: a switch waits for the old source's falling edge, then, its output low, for the
new one's; the divider counts rising edges and takes a new DIV at the end of a whole output period. -/
def State.treeTick (s : State) (t : Nat) (h : Hitch) : Hitch :=
  let w := s.get (Reg.HT_TREE_TREE t)
  let v := h.treeOf t
  let l0 := h.treeSource (bits w 4 0)
  let l1 := h.treeSource (bits w 9 5)
  let fall (k : Nat) : Bool := if k = 0 then v.last0 && !l0 else v.last1 && !l1
  let new := bits w 10 10
  let st := look h.trees t
  let st1 := if st = 1 ∧ fall v.sel then 2 else if st = 2 ∧ fall new then 0 else st
  let sel := if st = 2 ∧ st1 = 0 then new else v.sel
  let inp := if st1 = 2 then false else if sel = 0 then l0 else l1
  let rise := inp && !v.inp
  let v1 : TreeSt := { v with sel := sel, last0 := l0, last1 := l1, inp := inp }
  let v2 : TreeSt :=
    if !bit w 19 then { v1 with cnt := 0, div := 0 }
    else if !rise then v1
    else if v1.cnt + 1 < v1.div then { v1 with cnt := v1.cnt + 1 }
    else { v1 with cnt := 0, div := bits w 18 11 + 1 }
  { (h.setTree t v2) with trees := upd h.trees t st1 }

/-- The clocks of a tick. -/
def State.clockTick (s : State) (h : Hitch) : Hitch :=
  (List.range 8).foldl (fun h t => s.treeTick t h) ((List.range 4).foldl (fun h k => s.fclkTick k h) h)

/-! ### Ports (R325 to R328) -/

/-- A number on the sinks of consecutive port signals. -/
def Hitch.portBits (h : Hitch) (e : FabricEnv) (p n : Nat) : Nat :=
  (List.range n).foldl (fun v i => v + ofBool (h.sink e (portWire (p + i))) * 2 ^ i) 0

/-- R325, R326: an HPCLK edge: HP_LOAD copies the HPI sinks, and the HPO wires take a waiting output set. -/
def State.hpEdge (h : Hitch) (e : FabricEnv) (s : State) : State :=
  (if h.sink e (portWire 0x1001) then s.hpLoad (BitVec.ofNat 1536 (h.portBits e 0 1536)) else s).hpoUpdate

/-- R327: a TKCLK edge. -/
def State.tkEdge (h : Hitch) (e : FabricEnv) (s : State) : State :=
  if h.sink e (portWire 0x1101) then
    s.tokenTake (h.portBits e 0x1110 5) (h.portBits e 0x1118 3) (BitVec.ofNat 24 (h.portBits e 0x1120 24))
  else s

/-- R328: an RXCLK edge and a TXCLK edge of elastic link n. -/
def State.rxEdge (h : Hitch) (e : FabricEnv) (n : Nat) (s : State) : State :=
  if h.sink e (portWire (0x2002 + 0x400 * n)) then s.rxTake n else s

def State.txEdge (h : Hitch) (e : FabricEnv) (n : Nat) (s : State) : State :=
  let p := 0x2000 + 0x400 * n
  if h.sink e (portWire (p + 0x201)) then
    s.txTake n (h.portBits e (p + 0x210) 4) (h.portBits e (p + 0x218) 4) (BitVec.ofNat 112 (h.portBits e (p + 0x280) 112))
  else s

/-- The ports whose clocks rose in this tick take what the wires `h` carried before it. -/
def State.portTick (h : Hitch) (e : FabricEnv) (s : State) : State :=
  let rose (p : Nat) : Bool := !look h.clks (portWire p) && look s.ht.clks (portWire p)
  let s1 := if rose 0x1000 then s.hpEdge h e else s
  let s2 := if rose 0x1100 then s1.tkEdge h e else s1
  s2.each 4 (fun n s =>
    let s1 := if rose (0x2000 + 0x400 * n) then s.rxEdge h e n else s
    if rose (0x2200 + 0x400 * n) then s1.txEdge h e n else s1)

/-! ### The tick -/

/-- R319: the contention monitor looks at every long line that has drivers. -/
def State.monitor (s : State) : State :=
  ((s.ht.conns.map (·.1)).filter (fun w => wCLASS w == 3)).foldl (fun s w => s.contend (bits w 9 0)) s

/-- R315, R318 to R330: the fabric runs for one tick: clocks and pads move, the wires settle, the ports and the monitor act; QSTOP holds
the flip-flops (R336). -/
def State.fabricTick (s : State) : State :=
  if s.hitchGo then
    let e := s.fabric
    let h := s.ht
    let h1 := settleFabric e (!s.hitchStopped) { s.clockTick h with pads := Config.freePads s.free }
    ((({ s with ht := h1 } : State).portTick h e).monitor).spend
  else s

/-- A tick: STRIDE_MARK's pulse ends (R115), and the fabric runs. -/
def State.tick (s : State) : State := ({ s with chip := { s.chip with mark := false } } : State).fabricTick

end Sys2Proof.Machine
end

