-- ==== Sys2Proof/Safety.lean ====
section
/-! DEFINITION. What a sound state is, and what a run may end in. -/
namespace Sys2Proof.Machine

/-- The canonical form of GDDR6 contents: addresses strictly rising, no byte equal to what an unlisted address reads as. -/
def Memory.wf (m : List Host.Cell) : Bool := Tab.wf gddrReset m

/-- A sound state: the register file and GDDR6 contents are in canonical form, so that equal contents are equal data. -/
def State.wf (s : State) : Bool := Tab.wf regReset s.regs && Memory.wf s.gddr

/-- The newest response or event of mailbox m: the slot before RSP_PI (R370). -/
def State.newest (s : State) (m : Nat) : BitVec 512 :=
  look (s.box m).rsp ((s.get (Reg.MBX_RSP_PI_INDEX m) + 127) % 128 % 64)

/-- The response `r` of the taken command `c` (R372, R374). -/
def Taken.answer (c : Taken) (r : Resp) : BitVec 512 := respDesc (fieldOf c.desc 0 2) (fieldOf c.desc 2 2) 0 r

/-- `c`, at place `i` of mailbox m, is the oldest command not yet started; its opcode is `op`, it may start, and the checks of
lifecycle, mode, image and long command pass (R372, R389, R393); its response is wanted. -/
def State.turn (s : State) (m op i : Nat) (c : Taken) : Prop :=
  s.startable m op = some (i, c) ∧ s.pre op c.desc = none ∧ c.mute = false

/-- The state without the taken command at place `i` of mailbox m. -/
def State.less (s : State) (m i : Nat) : State := s.onBox m (fun b => { b with taken := b.taken.eraseIdx i })

/-- The state in which the taken command `c` at place `i` of mailbox m has started, with a note of its own. -/
def State.started (s : State) (m i note : Nat) (c : Taken) : State :=
  s.onBox m (fun b => { b with taken := b.taken.set i { c with started := true, note := note } })

/-- `c`, of opcode `op`, is the only command that mailbox m has taken; it has started, and its response is wanted. -/
def State.due (s : State) (m op : Nat) (c : Taken) : Prop :=
  (s.box m).taken = [c] ∧ c.started = true ∧ fieldOf c.desc 0 2 = op ∧ c.mute = false

/-- From `s` to `u` every register outside the list reads as before. -/
def State.keepsRegs (s u : State) (l : List Nat) : Prop := ∀ a, a ∉ l → u.rd a = s.rd a

/-- From `s` to `u` Team t has spent a cycle without a step (R102, R104): the counter `f` rises and stops at its greatest value,
TEAM_STEP.STATE takes `state`, and nothing else changes (R102). -/
def State.stalls (s u : State) (t : Nat) (f : Fld) (state : Nat) : Prop :=
  u.get f = satAdd 32 (s.get f) 1 ∧ u.get (Reg.TEAM_STEP_STATE t) = state ∧ u.stepNo t = s.stepNo t
    ∧ s.keepsRegs u [f.addr, Adr.TEAM_STEP t] ∧ u = { s with regs := u.regs }

/-- The Team that a command names. -/
def teamOf (i : Instr) : Option Nat :=
  match i with
  | .stepExecute t _ | .hangTimerExpiry t | .strideBoundaryPass t | .descriptorArrival t | .receiveStoreWrite t _
  | .flitReceive t _ _ | .replayRequest t _ | .carryArrival t | .gwRspArrival t | .packetInject t _ | .regulatorRefill t
  | .packetRoute t _ _ | .packetArrival t | .targetTimeout t _ | .freezeWrite t _ _ | .freezeDrain t | .isolateWrite t _
  | .ssW0Write t _ | .ssW1Write t _ | .swapArm t | .swapScanDone t | .isStageWrite t _ _ _ | .isCommitWrite t _ _ _
  | .dmWindowWrite t _ _ _ | .dmAliasSet t _ _ _ _ | .dmAliasClear t _ _ _ _ | .dmaAccess t _ | .dmaForced t _
  | .patrolRegion t _ _ _ | .isPatrol t _ _ _ _ | .bankPowerWrite t _ _ | .bankInitDone t _ | .tapSampleArrival t
  | .teamPwrWrite t _ | .teamSwitchDone t | .progressCountArrival t _ _ | .creditReturn t _ _ => some t.val
  | _ => none

/-- A step that does not stop. -/
def completes (s : State) : Bool :=
  match step s with
  | .next _ => true
  | .fault _ => false
  | .refused _ => false

end Sys2Proof.Machine
end

