-- ==== Sys2Proof/Certificates/Slice0/Obligations.lean ====
section
/-! DEFINITION. What is claimed of the block: the spec's rules as statements about `exec`, `step` and the shared operations. -/
section
open Sys2Proof Sys2Proof.Machine

/-! ### The queue, reset and the whole machine -/

/-- With command c at the front of its queue, a step of the block is exec of c on the state with the rest of the queue; on an
empty queue a step is a tick of the block's own clocks (the queue and the tick are the model's choice, log entry 1). (Rests
on 95_what_each_step_holds.md, 00_scope.md.) -/
def Obligations.FrontCommandRuns : Prop :=
  (∀ (c : Instr) (rest : List Instr) (s : State), s.pending = c :: rest → step s = exec c { s with pending := rest })
  ∧ ∀ s : State, s.pending = [] → step s = .next s.tick

/-- After reset every register reads as its table of the spec says: the mode is IDLE and not at rest, no hold is in effect,
HOLD_LEAD is 4, the scheduler is disabled, the stride number is 0, every watchdog timeout is 500 ms, the Saddlebag is not
frozen, every queue is empty, and the state is in canonical form (registers whose table gives a dash: log entry 2). (Rests on
R424, R7, R61, R120, R391, R479, 17_clocks_crossings_power.md.) -/
def Obligations.ResetState : Prop :=
  State.reset.wf = true ∧ State.reset.mode = mIdle ∧ State.reset.atRest = false ∧ State.reset.held = false
  ∧ State.reset.get Reg.LD_HOLD_CTL_HOLD_LEAD = 4
  ∧ State.reset.on Reg.DS_CTL_EN = false ∧ State.reset.stride = 0
  ∧ (∀ g : Fin 4, State.reset.get (Reg.GRM_WDT_CTL_TIMEOUT g.val) = 500)
  ∧ State.reset.on Reg.SB_STAT_FROZEN = false ∧ State.reset.pending = [] ∧ (∀ m : Fin 4, State.reset.box m.val = Mailbox.reset)
  ∧ ∀ a, State.reset.rd a = regReset a

/-- Whatever the state, if its register file and GDDR6 contents are in canonical form (addresses strictly rising, no entry equal
to what an unlisted address reads as) and a step answers a next state, that state is in canonical form too, so that equal
contents stay equal data. (Rests on R7, R271, 14_host_interface.md.) -/
def Obligations.SoundnessIsKept : Prop :=
  ∀ s t : State, s.wf = true → step s = .next t → t.wf = true

/-- Whatever the command and the state, when exec answers a next state, the queue of waiting commands and the grade of the chip
are as before, and the count of free values used has not fallen (so no free value is used twice; the count is the model's own
field, log entry 4). (Rests on R1, 95_what_each_step_holds.md.) -/
def Obligations.QueueAndGradeAreKept : Prop :=
  ∀ (c : Instr) (s t : State), exec c s = .next t →
    t.pending = s.pending ∧ t.fuses.small = s.fuses.small ∧ s.free ≤ t.free

/-- Whatever the command and the state, exec answers a next state: no command stops the block. A command that names a Team which
the 768 grade does not have leaves the state as it is (log entry 5). (Rests on R1, R15.) -/
def Obligations.EveryCommandCompletes : Prop :=
  (∀ (c : Instr) (s : State), ∃ t, exec c s = .next t)
  ∧ ∀ (c : Instr) (s : State) (n : Nat), teamOf c = some n → s.nTeams ≤ n → exec c s = .next s

/-! ### Steps of a Team -/

/-- A Team before its next step that is halted by a breakpoint or a check report executes nothing and shows STATE 3. Otherwise,
with a flit, carry, response or Receive Store location missing (R104) the cycle counts in RX_STALL with STATE 1; else,
waiting for its bank behind a read-modify-write, in LOC_STALL with STATE 1; else, with a Team downstream too far behind
(R108), in SKEW_STALL with STATE 2. Exactly one counter rises and, apart from TEAM_STEP, nothing else changes, but that in a
LOC_STALL cycle the word of the read-modify-write is written; at the end of every cycle the queues of the router are compared
with their bounds. (Rests on R102, R104, R204, R55, 04_stride_execution.md.) -/
def Obligations.CyclesWithoutStepCountOneStall : Prop :=
  ∀ (t : Fin 1024) (c : StepChecks) (s : State), t.val < s.nTeams → s.canStep t = true →
    ((s.team t).halted = true → ∃ u, exec (.stepExecute t c) s = .next (u.qboundAll t) ∧ u.get (Reg.TEAM_STEP_STATE t) = 3
      ∧ u.stepNo t = s.stepNo t ∧ s.keepsRegs u [Adr.TEAM_STEP t] ∧ u = { s with regs := u.regs })
    ∧ ((s.team t).halted = false →
      (s.rxWaits t = true → ∃ u, exec (.stepExecute t c) s = .next (u.qboundAll t) ∧ s.stalls u t (Reg.TEAM_STALL_RX_COUNT t) 1)
      ∧ (s.rxWaits t = false → s.locWaits t = true →
        ∃ u, exec (.stepExecute t c) s = .next (u.qboundAll t) ∧ (s.rmwWrite t).stalls u t (Reg.TEAM_STALL_LOC_COUNT t) 1)
      ∧ (s.rxWaits t = false → s.locWaits t = false → s.skewWaits t = true →
        ∃ u, exec (.stepExecute t c) s = .next (u.qboundAll t) ∧ s.stalls u t (Reg.TEAM_STALL_SKEW_COUNT t) 2))

/-- A Team before step s of its stride, neither halted nor stalled, whose fetched entries show no double-bit error, executes the
instruction at address p = start + s: the step number and the progress count advance by one, STATE becomes END after step L -
1 and RUN before it, every BP result goes to its Signal Memory, the Team Bus and the send register, the Word Unit result goes
to the Team Bus and, with WEN, to its Word Register, C and V change for sums alone, the read registers take the words of the
last step, a carry-out with CEN goes toward the east Team, every other Team is otherwise unchanged, and the descriptor and
stride number stay. A word of its design memory that no ST of port A, no write through port B and no waiting
read-modify-write addresses stays as it is. (Rests on R37, R40, R47, R63, R64, R66, R72, R79, R83, R102, R106, R107.) -/
def Obligations.StepRunsInstruction : Prop :=
  ∀ (t : Fin 1024) (c : StepChecks) (s : State), t.val < s.nTeams → s.canStep t = true → (s.team t).halted = false →
    s.rxWaits t = false → s.locWaits t = false → s.skewWaits t = false → c.isDouble = [] →
    ∃ u, exec (.stepExecute t c) s = .next u ∧
      let m := s.team t
      let k := u.team t
      let p := s.stepAddr t
      let w := m.entry 64 p
      u.get (Reg.TEAM_PROG_PROG t) = (s.get (Reg.TEAM_PROG_PROG t) + 1) % 2 ^ 32
      ∧ u.stepNo t = (s.stepNo t + 1) % 2 ^ 11
      ∧ u.get (Reg.TEAM_STEP_STATE t) = (if m.len ≤ s.stepNo t + 1 then 4 else 0)
      ∧ k.busBp = m.bpResults p ∧ k.send = m.sendAfter p (m.bpResults p) ∧ k.busWu = (m.wuResult w).y
      ∧ (∀ a, k.smRow a = if a = p then m.bpResults p else m.smRow a)
      ∧ (∀ r, k.reg r = if r = wRD w ∧ wWEN w = true ∧ opWrites (wOP w) = true then (m.wuResult w).y else m.reg r)
      ∧ k.flagC = (if isSum (wOP w) then (m.wuResult w).c else m.flagC)
      ∧ k.flagV = (if isSum (wOP w) then (m.wuResult w).v else m.flagV)
      ∧ k.dmrd = m.dmrdNext.getD m.dmrd ∧ k.pbrd = m.pbrdNext.getD m.pbrd
      ∧ (u.team (s.nb t 2)).carryIn = (s.team (s.nb t 2)).carryIn
          ++ (if wCEN w then [((m.wuResult w).c, m.stride.getLsbD 0)] else [])
      ∧ (∀ x : Nat, x ≠ t.val → x ≠ s.nb t 2 → u.team x = s.team x)
      ∧ k.start = m.start ∧ k.len = m.len ∧ k.slot = m.slot ∧ k.stride = m.stride ∧ k.rs = m.rs ∧ k.rsHave = m.rsHave
      ∧ ∀ a : Nat, (∀ x d, m.rmw = some (x, d) → x ≠ a) → (∀ q, m.portA w = some q → q.write.isSome = true → q.addr ≠ a)
        → (∀ q, s.pbArrived t p (s.fired t p).run = some q → q.writes = true → q.addr ≠ a) → k.word a = m.word a

/-! ### Boundaries and what reaches a Team -/

/-- A Team that stands after the last step of its stride and whose conditions of R111 do not all hold spends an END cycle: BWAIT
rises, WAIT_CAUSE takes the lowest-numbered condition that fails (1 no descriptor of the next stride, 2 no HIN, 3 the chip
has not completed the boundary into this stride, 4 a halt), STATE is END, and the Team keeps its stride number. (Rests on
R111, R114, R55, R204.) -/
def Obligations.BoundaryWaitShowsItsCause : Prop :=
  ∀ (t : Fin 1024) (s : State), t.val < s.nTeams → s.atEnd t = true → (s.team t).passNow = false → (s.team t).len ≠ 0 →
    s.waitCause t ≠ 0 →
    ∃ u, exec (.strideBoundaryPass t) s = .next u
      ∧ u.get (Reg.TEAM_BWAIT_COUNT t) = satAdd 32 (s.get (Reg.TEAM_BWAIT_COUNT t)) 1
      ∧ u.get (Reg.TEAM_STRIDE_STAT_WAIT_CAUSE t) = s.waitCause t % 8 ∧ u.get (Reg.TEAM_STEP_STATE t) = 4
      ∧ (u.team t).stride = (s.team t).stride
      ∧ s.keepsRegs u [Adr.TEAM_BWAIT t, Adr.TEAM_STRIDE_STAT t, Adr.TEAM_STEP t]
      ∧ u = { s with regs := u.regs }

/-- A Team after its last step that may pass (the conditions of R111 hold, or held as that step's cycle began) takes the
descriptor in its Next-Stride slot, raises its stride number by one, takes HIN, shows WAIT_CAUSE 0 and stands before step 0,
with STATE 0; the Team Bus, the presence bits, the send register, the flags, the read registers and the counts of gateway
accesses are 0, carries and gateway responses of the ended stride are gone; Signal Memory, the Word Registers, design memory
and the Receive Store values stay, and so does every other Team. (Rests on R41, R45, R48, R64, R73, R77, R83, R100, R111.) -/
def Obligations.BoundaryPassBeginsNextStride : Prop :=
  ∀ (t : Fin 1024) (s : State), t.val < s.nTeams → s.atEnd t = true → (s.team t).passNow = true ∨ s.waitCause t = 0 →
    ∃ u, exec (.strideBoundaryPass t) s = .next u ∧
      let m := s.team t
      let k := u.team t
      let d := m.slot.getD ⟨0, 0, 0⟩
      k.stride = BitVec.ofNat 64 (m.stride.toNat + 1) ∧ k.start = d.start ∧ k.len = d.len ∧ k.slot = none
      ∧ k.hin = m.hinNext.getD 0 ∧ k.hinNext = none
      ∧ u.get (Reg.TEAM_STRIDE_STAT_STRIDE t) = (m.stride.toNat + 1) % 2 ^ 8 ∧ u.get (Reg.TEAM_STRIDE_STAT_WAIT_CAUSE t) = 0
      ∧ u.stepNo t = 0 ∧ u.get (Reg.TEAM_STEP_STATE t) = 0
      ∧ k.busBp = 0 ∧ k.busWu = 0 ∧ k.rsHave = 0 ∧ k.send = 0 ∧ k.flagC = false ∧ k.flagV = false ∧ k.dmrd = 0 ∧ k.rmrd = 0
      ∧ k.pbrd = 0 ∧ k.nGreq = 0 ∧ k.nPick = 0
      ∧ k.carryQ = m.carryQ.filter (fun c => c.2 != m.stride.getLsbD 0)
      ∧ k.gwQ = m.gwQ.filter (fun g => g.tag != m.stride.toNat % 256)
      ∧ k.sm = m.sm ∧ k.wr = m.wr ∧ k.dm = m.dm ∧ k.rs = m.rs ∧ ∀ x : Nat, x ≠ t.val → u.team x = s.team x

/-- In a mode with strides, with the scheduler enabled, every Team of the run past the boundary and the tokens of the new stride
consumed, the chip's stride number rises by one, the output set of the ended stride is handed to the fabric (a set that it
has not taken is replaced and counted in HP_SKIP), STRIDE_MARK pulses, the input latch is open again, TB_SB captures the
boundary and, every 1024 strides, STRIDE goes out on the used lead links; at the boundary before the first stride of a run
the stride number and the output set stay and the rest is the same. While some Team has not passed, or the tokens are not yet
consumed, nothing changes. When the first Team of the run comes within 32 steps of the end of its stride, every Team of the
run takes its word of the input signals. (Rests on R112, R113, R115, R171, R253, R325, R353.) -/
def Obligations.ChipCompletesBoundary : Prop :=
  (∀ (e : Nat) (s : State), s.strideMode = true → s.on Reg.DS_CTL_EN = true → s.runTeams.isEmpty = false →
    s.allPassed = true → s.ds.first = false → s.ds.due = none → s.ds.lastTag = some (s.stride + 1) →
    exec (.chipBoundaryComplete e) s = .next
      (let n := s.stride + 1
       let a := s.putPair Adr.CHIP_STRIDE_LO Adr.CHIP_STRIDE_HI n
       let b := if s.ht.ready.isSome then a.sat Reg.HT_HP_STAT_HP_SKIP 1 else a
       let c : State := { b with ht := { s.ht with ready := some (s.stride, s.ht.outSet), outSet := 0 }
                                 ds := { s.ds with first := false }, chip := { s.chip with hinLatched := false, mark := true } }
       let d := c.sbCapture n e
       if n % 1024 = 0 then d.strideSay n else d))
  ∧ (∀ (e : Nat) (s : State), s.strideMode = true → s.on Reg.DS_CTL_EN = true → s.runTeams.isEmpty = false →
    s.allPassed = true → s.ds.first = true → s.ds.due = none → s.ds.lastTag = some s.stride →
    exec (.chipBoundaryComplete e) s = .next
      (let c : State := { s with ds := { s.ds with first := false }, chip := { s.chip with hinLatched := false, mark := true } }
       let d := c.sbCapture s.stride e
       if s.stride % 1024 = 0 then d.strideSay s.stride else d))
  ∧ (∀ (e : Nat) (s : State), s.allPassed = false ∨ s.ds.due ≠ none → exec (.chipBoundaryComplete e) s = .next s)
  ∧ (∀ s : State, s.strideMode = true → s.chip.hinLatched = false → s.ds.first = false →
    (∃ t ∈ s.runTeams, (s.team t).stride.toNat = s.stride ∧ (s.team t).len ≠ 0 ∧ (s.team t).len ≤ s.stepNo t + 32) →
    exec .hitchInputLatch s = .next
      (let a := s.runTeams.foldl (fun k t => k.onTeam t (fun m => { m with hinNext := some (s.hinOf t s.ht.hpi) })) s
       { a with chip := { a.chip with hinLatched := true }, ht := { a.ht with inTgl := !a.ht.inTgl } }))
  ∧ ∀ s : State, s.chip.hinLatched = true → exec .hitchInputLatch s = .next s

/-- In a mode with strides, the flit at the head of an input queue fills the Receive Store locations of the next local-output
SIGNAL entry of that port, once no entry that stands between takes a flit of the port; of an entry with LSEL = 1 it goes to
the lead link; where the target is isolated the flit is discarded, DEAD_STATIC sets and the device enters QUARANTINE. A carry
in the crossing enters the carry queue of 32, or is lost and reported at a full queue. A gateway response of the stride in
progress enters the queue of 16; one of an ended stride, or at a full queue, is discarded and reported. A progress count that
lies between the last one received and the neighbour's own becomes the latest. (Rests on R41, R75, R77, R103, R105, R106,
R109, R131, R150, R151, R249, R280.) -/
def Obligations.ItemsReachTheTeam : Prop :=
  (∀ (t : Fin 1024) (p : Fin 4) (s : State) (e : BitVec 48) (f : Flit), t.val < s.nTeams → s.strideMode = true →
    (s.signals t p (s.team t).start (s.team t).len)[look (s.router t).matched p]? = some e → (look (s.router t).inq p).head? = some f →
    s.takesBetween t p (s.stepAddr t) (eADDR e) = false →
    let a := (s.setRouter t { s.router t with
        inq := upd (s.router t).inq p ((look (s.router t).inq p).drop 1)
        matched := upd (s.router t).matched p (look (s.router t).matched p + 1) }).probeStatic t p 0
    (s.deadTarget t e = false → eLSEL e ≠ 1 → exec (.receiveStoreWrite t p) s = .next ((a.probeStatic t 4 1).onTeam t (fun m => m.deliver e f)))
    ∧ (∀ n, s.deadTarget t e = false → eLSEL e = 1 → s.leadOf t = some n →
      exec (.receiveStoreWrite t p) s = .next ((a.probeStatic t 4 1).onLink n (fun l => { l with txStatic := l.txStatic ++ [f] })))
    ∧ (s.deadTarget t e = true → exec (.receiveStoreWrite t p) s = .next
        (((a.set1 (Reg.RTR_ERR_DEAD_STATIC t)).rtrLoc t 3 (eIN e) (eADDR e)).enterQuarantine qDeadStatic (t + 1024 * eIN e))))
  ∧ (∀ (t : Fin 1024) (s : State) (c : Bool × Bool) (rest : List (Bool × Bool)), t.val < s.nTeams → s.armed 1 t = true →
    (s.team t).carryIn = c :: rest →
    ((s.team t).carryQ.length < 32 →
      exec (.carryArrival t) s = .next (s.setTeam t { s.team t with carryIn := rest, carryQ := (s.team t).carryQ ++ [c] }))
    ∧ (32 ≤ (s.team t).carryQ.length →
      exec (.carryArrival t) s = .next ((s.setTeam t { s.team t with carryIn := rest }).wuErrs t (s.team t).stride.toNat [⟨2, 0, 0⟩])))
  ∧ (∀ (t : Fin 1024) (s : State) (p : Packet), t.val < s.nTeams → (s.router t).boxT.find? (fun p => pTYPE p == 5) = some p →
    let a := s.setRouter t { s.router t with boxT := (s.router t).boxT.erase p }
    (pTAG p = (s.team t).stride.toNat % 256 → (s.team t).gwQ.length < 16 →
      exec (.gwRspArrival t) s = .next (a.setTeam t
        { s.team t with gwQ := (s.team t).gwQ ++ [⟨pTAG p, pE2 p % 1024, BitVec.ofNat 24 (pE0 p)⟩] }))
    ∧ (pTAG p = (s.team t).stride.toNat % 256 → 16 ≤ (s.team t).gwQ.length →
      exec (.gwRspArrival t) s = .next (a.wuErrs t (s.team t).stride.toNat [⟨5, 0, 0⟩]))
    ∧ (pTAG p ≠ (s.team t).stride.toNat % 256 →
      exec (.gwRspArrival t) s = .next (a.wuErrs t (s.team t).stride.toNat [⟨4, 0, 0⟩])))
  ∧ ∀ (t : Fin 1024) (p : Fin 4) (c : Word) (s : State), t.val < s.nTeams →
    0 ≤ sint 32 (c.toNat + 2 ^ 32 - (Tab.get (fun _ => 0#32) (s.team t).hat p).toNat) →
    0 ≤ sint 32 (s.get (Reg.TEAM_PROG_PROG (s.nb t p)) + 2 ^ 32 - c.toNat) →
    exec (.progressCountArrival t p c) s
      = .next (s.onTeam t (fun m => { m with hat := Tab.set (fun _ => 0#32) m.hat p.val c }))

/-- When a Team before a step has spent its limit in RX_STALL or SKEW_STALL and HANG_LIMIT is not 0, HUNG sets; the first time in
the stride Groom 3 also requests record 0x13 and queues the event STRIDE_HUNG with the Team, STATE and stride number; with
HANG_LIMIT 0 nothing changes. (Rests on R118, R418, R476.) -/
def Obligations.HangReportsOncePerStride : Prop :=
  (∀ (t : Fin 1024) (s : State), t.val < s.nTeams → s.get (Reg.TEAM_HANG_CTL_HANG_LIMIT t) ≠ 0 → s.canStep t = true →
    s.get (Reg.TEAM_STEP_STATE t) = 1 ∨ s.get (Reg.TEAM_STEP_STATE t) = 2 →
    ((s.team t).hungSent = false →
      exec (.hangTimerExpiry t) s = .next ((((s.set1 (Reg.TEAM_STRIDE_STAT_HUNG t)).onTeam t (fun m => { m with hungSent := true })).groomRec
          3 4 0x13 (argOf t (s.get (Reg.TEAM_STEP_STATE t) + 65536 * ((s.team t).stride.toNat % 2 ^ 32 % 65536)))).postEvent 3
        ⟨0x0003, 8, packBytes [(16, 2, t), (18, 1, s.get (Reg.TEAM_STEP_STATE t)), (20, 4, (s.team t).stride.toNat % 2 ^ 32)]⟩))
    ∧ ((s.team t).hungSent = true → exec (.hangTimerExpiry t) s = .next (s.set1 (Reg.TEAM_STRIDE_STAT_HUNG t))))
  ∧ ∀ (t : Fin 1024) (s : State), t.val < s.nTeams → s.get (Reg.TEAM_HANG_CTL_HANG_LIMIT t) = 0 → exec (.hangTimerExpiry t) s = .next s

/-! ### The Domain Scheduler -/

/-- The oldest token of the token port leaves it and OCC follows; its tag is the smallest stride number whose consumption has not
begun. With no reason to refuse it, it takes the lowest free entry of the matching store; for any reason of R168 it is
discarded and REFUSED rises. With an empty port nothing happens. (Rests on R168, R170, R327.) -/
def Obligations.TokensEnterTheStore : Prop :=
  (∀ (s : State) (p : PortTok) (rest : List PortTok), s.ht.toks = p :: rest →
    let a := ({ s with ht := { s.ht with toks := rest } } : State).put Reg.HT_TK_STAT_OCC rest.length
    let k : Token := ⟨p.task, p.opnd, p.data, true, s.nextTag⟩
    (∀ e, s.tokenBad k = none → s.freeEntry = some e →
      exec .hitchTokenAccept s = .next { a with ds := { s.ds with store := upd s.ds.store e (some k) } })
    ∧ (s.tokenBad k ≠ none → exec .hitchTokenAccept s = .next (a.sat Reg.DS_REFUSED_COUNT 1)))
  ∧ ∀ s : State, s.ht.toks = [] → exec .hitchTokenAccept s = .next s

/-- The tag t that is due is the one that waits from the start of the run, else that of the boundary every Team has passed. Its
consumption waits while the horizon lies before t (STATE 2). Otherwise every ready task of t lands its tokens in the half of
its location that the stride selects, the tokens tagged t leave the store, those of tasks that are not ready count in ORPHAN,
the set of ready tasks is kept for the decision of stride t + 1, which is now wanted, and STATE is 3; a consumption that
comes late while tokens wait for it sets LATE. A disabled scheduler does nothing, and nothing happens when no tag is due.
(Rests on R169, R171, R173.) -/
def Obligations.ConsumptionTakesTheTokens : Prop :=
  (∀ (late : Bool) (s : State), s.dueTag = none → exec (.tokenConsumption late) s = .next s)
  ∧ (∀ (s : State) (t : Nat), s.ds.due = some t → s.dueTag = some t)
  ∧ (∀ (s : State) (n : Nat), s.ds.due = none → s.boundaryInto = some n → s.ds.lastTag ≠ some n → s.dueTag = some n)
  ∧ ∀ (late : Bool) (s : State) (t : Nat), s.dueTag = some t →
    (s.on Reg.DS_CTL_EN = false → exec (.tokenConsumption late) s = .next s)
    ∧ (s.on Reg.DS_CTL_EN = true → s.horizonOk t = false → exec (.tokenConsumption late) s = .next (s.put Reg.DS_STAT_STATE 2))
    ∧ (s.on Reg.DS_CTL_EN = true → s.horizonOk t = true → exec (.tokenConsumption late) s = .next
        (let a := s.set1If (late && s.tokens.any (fun p => p.2.tag == t)) Reg.DS_STAT_LATE
         let js := a.readyTasks t
         let lost := (a.tokens.filter (fun p => p.2.tag == t && !js.contains p.2.task)).length
         let b := js.foldl (fun s j => s.land t j) a
         let c := if lost = 0 then b else b.sat Reg.DS_ORPHAN_COUNT lost
         ({ c with ds := { c.ds with store := c.ds.store.filter (fun p => match p.2 with | some k => k.tag != t | none => true)
                                     lastTag := some t, due := none, wanted := some (t + 1)
                                     tasks := BitVec.ofNat 32 (js.foldl (fun n j => n + 2 ^ j) 0) } } : State).put
           Reg.DS_STAT_STATE 3))

/-- A disabled scheduler, or one with no stride wanted, does nothing. For the stride k that is wanted: a hold at or before k
keeps the scheduler in STATE 4; a gated domain whose ENABLE sample has not arrived, in STATE 3; a due domain without its Wait
flag, in STATE 4. Otherwise the time point is consumed. When it makes a domain or a task ready and a valid rule equals READY
under its mask, the program of the lowest such rule becomes the descriptor of stride k, which waits to be issued in STATE 5,
with READY and the DS_NOW of the stride kept; when no valid rule does, the scheduler stops in STATE 0 with SEL_MISS set and
no stride wanted. (Rests on R163, R165, R166, R174, R175, R176, R178, R256.) -/
def Obligations.DecisionChoosesTheProgram : Prop :=
  (∀ (waiting : Nat) (s : State), (s.ds.wanted = none ∨ s.on Reg.DS_CTL_EN = false) → exec (.dsDecision waiting) s = .next s)
  ∧ ∀ (waiting : Nat) (s : State) (k : Nat), s.ds.wanted = some k → s.on Reg.DS_CTL_EN = true →
    let a := if s.get Reg.DS_STAT_STATE = 4 then s.sat Reg.DS_WAIT_COUNT waiting else s
    (s.held = true → s.holdH ≤ k → exec (.dsDecision waiting) s = .next (a.put Reg.DS_STAT_STATE 4))
    ∧ (s.holdBars k = false → (∃ d ∈ s.gatedDoms, s.enableOf d k = none) → exec (.dsDecision waiting) s = .next (a.put Reg.DS_STAT_STATE 3))
    ∧ (s.holdBars k = false → (∀ d ∈ s.gatedDoms, (s.enableOf d k).isSome = true) → s.ds.delay ≠ [] → s.ds.skipped < 65536 →
        s.get Reg.DS_STAT_STATE ≠ 4 →
        (s.flagWaits = true → exec (.dsDecision waiting) s = .next
          (({ s with ds := { s.ds with prior := some s.priorOf } } : State).put Reg.DS_STAT_STATE 4))
        ∧ (s.flagWaits = false → (s.readyDoms k ≠ [] ∨ s.ds.tasks ≠ 0) →
            (∀ n p, n < 64 → s.on (Reg.DS_SEL_CTL_VALID n) = true → s.get (Reg.DS_SEL_CTL_PROG n) = p →
              readyBits (s.readyDoms k) s.ds.tasks &&& s.smask n = s.sval n →
              (∀ j, j < n → s.on (Reg.DS_SEL_CTL_VALID j) = true → readyBits (s.readyDoms k) s.ds.tasks &&& s.smask j ≠ s.sval j) →
              ∃ u, exec (.dsDecision waiting) s = .next u ∧ u.ds.choice = some (s.descOf p k, k) ∧ u.ds.wanted = none
                ∧ u.ds.ready = BitVec.ofNat 96 (readyBits (s.readyDoms k) s.ds.tasks) ∧ u.ds.skipped = 0
                ∧ look u.ds.nows (k % 4) = u.dsNow ∧ u.dsNow = (timePoint s.ds.delay).head?.elim 0 (fun e => e.time % 2 ^ 48)
                ∧ u.get Reg.DS_STAT_STATE = 5 ∧ u.teams = s.teams ∧ u.routers = s.routers ∧ u.gddr = s.gddr)
            ∧ ((∀ n, n < 64 → s.on (Reg.DS_SEL_CTL_VALID n) = true → readyBits (s.readyDoms k) s.ds.tasks &&& s.smask n ≠ s.sval n) →
              ∃ u, exec (.dsDecision waiting) s = .next u ∧ u.ds.choice = s.ds.choice ∧ u.ds.wanted = none
                ∧ u.ds.ready = BitVec.ofNat 96 (readyBits (s.readyDoms k) s.ds.tasks)
                ∧ u.on Reg.DS_STAT_SEL_MISS = true ∧ u.get Reg.DS_STAT_STATE = 0 ∧ u.teams = s.teams ∧ u.routers = s.routers
                ∧ u.gddr = s.gddr)))

/-- While a hold stands at its stride the chosen descriptor waits in STATE 4, while a landing write is open in STATE 3, and while
the throttle is not satisfied it waits; a disabled scheduler issues nothing. Otherwise the word goes out: it is in flight to
every Team, its stride counts as issued, and STATE is 6. A word that reaches a Team it has not reached, with the TAG of the
Team's next stride, fills the Next-Stride slot (start, L = 16 * (LCODE + 1), TAG); the last Team of the run ends the flight.
One with another TAG is discarded, with HUNG and the report of a hang in STATE 4. A Team that holds the word, and a Team that
the chip lacks, take nothing. A read of DS_NOW_LO answers it and keeps DS_NOW_HI for the same agent; a write of DS_HORIZON_HI
takes both halves. (Rests on R117, R162, R178, R182, R59, R256.) -/
def Obligations.DescriptorsReachEveryTeam : Prop :=
  (∀ (cycles : Nat) (s : State) (w : BitVec 24) (k : Nat), s.ds.choice = some (w, k) →
    (s.on Reg.DS_CTL_EN = false → exec (.descriptorIssue cycles) s = .next s)
    ∧ (s.on Reg.DS_CTL_EN = true →
      (s.holdBars k = true → exec (.descriptorIssue cycles) s = .next (s.put Reg.DS_STAT_STATE 4))
      ∧ (s.holdBars k = false → s.landing = true → exec (.descriptorIssue cycles) s = .next (s.put Reg.DS_STAT_STATE 3))
      ∧ (s.holdBars k = false → s.landing = false → s.throttleOk w cycles = false → exec (.descriptorIssue cycles) s = .next s)
      ∧ (s.holdBars k = false → s.landing = false → s.throttleOk w cycles = true →
        exec (.descriptorIssue cycles) s = .next (({ s with ds := { s.ds with
          choice := none, prior := none, flight := some w, got := [], issued := k, anyIssued := true } } : State).put
            Reg.DS_STAT_STATE 6))))
  ∧ (∀ (t : Fin 1024) (w : BitVec 24) (s : State), t.val < s.nTeams → s.armed 2 t = true → s.ds.flight = some w →
    (t.val ∈ s.ds.got → exec (.descriptorArrival t) s = .next s)
    ∧ (t.val ∉ s.ds.got → t.val ∈ s.runTeams →
      let last := s.runTeams.all (fun u => (t.val :: s.ds.got).contains u)
      let a : State := { s with ds := { s.ds with got := if last then [] else t.val :: s.ds.got
                                                  flight := if last then none else some w } }
      (bits w.toNat 23 22 = ((s.team t).stride.toNat + 1) % 4 → exec (.descriptorArrival t) s = .next (a.setTeam t
        { s.team t with slot := some ⟨bits w.toNat 9 0, 16 * (bits w.toNat 15 10 + 1), bits w.toNat 23 22⟩ }))
      ∧ (bits w.toNat 23 22 ≠ ((s.team t).stride.toNat + 1) % 4 →
        exec (.descriptorArrival t) s = .next ((a.set1 (Reg.TEAM_STRIDE_STAT_HUNG t)).hungReport t 4))))
  ∧ (∀ (t : Fin 1024) (s : State), ¬ t.val < s.nTeams → exec (.descriptorArrival t) s = .next s)
  ∧ (∀ (who : Agent) (s : State), exec (.dsNowLoRead who) s
      = .next { s.setLatch who Adr.DS_NOW_HI (s.rd Adr.DS_NOW_HI) with rdata := [s.rd Adr.DS_NOW_LO] })
  ∧ ∀ (v : Word) (s : State), exec (.dsHorizonHiWrite v) s
      = .next ((s.wr Adr.DS_HORIZON_LO s.ds.horizonLo).wr Adr.DS_HORIZON_HI v)

/-! ### Routers -/

/-- RTR_SS_W0 stages word 0; a write of RTR_SS_W1 then writes the entry that RTR_SS_IDX names, shadow set unless SWAP_ARM is 1,
active set in IDLE and LOAD alone, and INDEX advances modulo 512; else SS_LOCKED sets and nothing is written. Arming a swap
whose stride lies beyond the next one sets SWAP_ARM and starts the check of the shadow set; a nearer one sets ARM_STALE. An
armed swap is not armed again. A check that finds a broken condition clears SWAP_ARM and sets SCAN_ERR; one that finds none
ends, and none ends that has not begun. (Rests on R136, R137, R132.) -/
def Obligations.SlotEntriesAreWritten : Prop :=
  ∀ (t : Fin 1024) (s : State), t.val < s.nTeams →
    let r := s.router t
    let i := s.get (Reg.RTR_SS_IDX_INDEX t)
    (∀ w, exec (.ssW0Write t w) s = .next (s.setRouter t { r with w0 := w }))
    ∧ (∀ w, s.on (Reg.RTR_SS_IDX_SET t) = true → s.on (Reg.RTR_CTL_SWAP_ARM t) = false → exec (.ssW1Write t w) s = .next
        ((s.setRouter t { r with shd := Tab.set (slotDef r.gen 1) r.shd i (w ++ r.w0) }).put (Reg.RTR_SS_IDX_INDEX t) ((i + 1) % 512)))
    ∧ (∀ w, s.on (Reg.RTR_SS_IDX_SET t) = false → s.mode = mIdle ∨ s.mode = mLoad → exec (.ssW1Write t w) s = .next
        ((s.setRouter t { r with act := Tab.set (slotDef r.gen 0) r.act i (w ++ r.w0) }).put (Reg.RTR_SS_IDX_INDEX t) ((i + 1) % 512)))
    ∧ (∀ w, (s.on (Reg.RTR_SS_IDX_SET t) = true ∧ s.on (Reg.RTR_CTL_SWAP_ARM t) = true)
        ∨ (s.on (Reg.RTR_SS_IDX_SET t) = false ∧ s.mode ≠ mIdle ∧ s.mode ≠ mLoad) →
        exec (.ssW1Write t w) s = .next (s.set1 (Reg.RTR_ERR_SS_LOCKED t)))
    ∧ (s.on (Reg.RTR_CTL_SWAP_ARM t) = false → (s.team t).stride.toNat + 1 < s.swapStride t →
        exec (.swapArm t) s = .next ((s.set1 (Reg.RTR_CTL_SWAP_ARM t)).setRouter t { r with scan := true }))
    ∧ (s.on (Reg.RTR_CTL_SWAP_ARM t) = false → s.swapStride t ≤ (s.team t).stride.toNat + 1 →
        exec (.swapArm t) s = .next (s.set1 (Reg.RTR_ERR_ARM_STALE t)))
    ∧ (s.on (Reg.RTR_CTL_SWAP_ARM t) = true → exec (.swapArm t) s = .next s)
    ∧ (r.scan = false → exec (.swapScanDone t) s = .next s)
    ∧ (r.scan = true → s.setBad t (shdValid r) = none → exec (.swapScanDone t) s = .next (s.setRouter t { r with scan := false }))
    ∧ (r.scan = true → s.setBad t (shdValid r) ≠ none → exec (.swapScanDone t) s = .next
        (((s.setRouter t { r with scan := false }).clr (Reg.RTR_CTL_SWAP_ARM t)).set1 (Reg.RTR_ERR_SCAN_ERR t)))

/-- The next flit in the crossing toward a port leaves it; one out of order is dropped; one with a double-bit error or an illegal
tag is refused, REPLAY rises, and the eighth failure in a row sets LINK_PERSIST with record 0x17. One in order is counted, a
corrected one with FLIT_CE. A static flit enters the static queue of 24, or at a full queue is the fault QOVF. A dynamic flit
joins the packet of its virtual channel; the last one makes it whole, the probes of the input see it, and it waits for
routing, or is absorbed with its credits returned where the router drains. A replay request makes the sender send again, in
order, what the port still waits for. Returned credits lower the credits used. A crossing that has not re-armed carries
nothing. (Rests on R121, R124, R125, R126, R128, R145, R153, R155.) -/
def Obligations.FlitsAreChecked : Prop :=
  ∀ (t : Fin 1024) (p : Fin 4) (s : State), t.val < s.nTeams →
    let r := s.router t
    (∀ (c : Check) (x : XFlit) (rest : List XFlit), s.armed 0 (4 * t + p) = true → look r.wire p = x :: rest →
      (x.seq ≠ look r.rxSeq p → exec (.flitReceive t p c) s = .next (s.setRouter t { r with wire := upd r.wire p rest }))
      ∧ (x.seq = look r.rxSeq p → c = .double ∨ tagLegal x.tag = false →
          let n := look r.fails p + 1
          let b := (s.setRouter t { r with wire := upd r.wire p rest, await := upd r.await p true, fails := upd r.fails p n }).sat
            (Reg.RTR_REPLAY_COUNT t) 1
          exec (.flitReceive t p c) s = .next
            (if n = 8 then (b.set1 (Reg.RTR_ERR_LINK_PERSIST t)).groomRec 3 3 0x17 (argOf t p) else b))
      ∧ (x.seq = look r.rxSeq p → c ≠ .double → tagLegal x.tag = true →
          let q := { r with wire := upd r.wire p rest, rxSeq := upd r.rxSeq p (x.seq + 1), await := upd r.await p false
                            fails := upd r.fails p 0 }
          let b := (s.setRouter t q).set1If (c == .single) (Reg.RTR_ERR_FLIT_CE t)
          (x.tag = 0 → 24 ≤ (look r.inq p).length → exec (.flitReceive t p c) s = .next (b.rtrFault t 1 0 p 0))
          ∧ (x.tag = 0 → (look r.inq p).length < 24 → exec (.flitReceive t p c) s
              = .next ((b.setRouter t { q with inq := pushAt r.inq p x.data }).qbound t p))
          ∧ (x.tag ≠ 0 → ∀ h body, look r.part (2 * p + tagVC x.tag) ++ [x.data] = h :: body →
              let k := 2 * p + tagVC x.tag
              (body.length ≠ pLEN ⟨h, body⟩ → exec (.flitReceive t p c) s
                = .next (b.setRouter t { q with part := upd r.part k (h :: body) }))
              ∧ (body.length = pLEN ⟨h, body⟩ →
                let d := (b.setRouter t { q with part := upd r.part k [] }).probePacket t p 0 ⟨h, body⟩
                r.drain = false → exec (.flitReceive t p c) s
                  = .next (d.onRouter t (fun r => { r with dyn := pushAt r.dyn k ⟨h, body⟩ })))
              ∧ (body.length = pLEN ⟨h, body⟩ →
                let d := (b.setRouter t { q with part := upd r.part k [] }).probePacket t p 0 ⟨h, body⟩
                r.drain = true → exec (.flitReceive t p c) s
                  = .next ((d.absorb t ⟨h, body⟩ 2).giveCredit t k (body.length + 1))))))
    ∧ (∀ c : Check, s.armed 0 (4 * t + p) = false ∨ look r.wire p = [] → exec (.flitReceive t p c) s = .next s)
    ∧ (look r.await p = true → exec (.replayRequest t p) s = .next (s.setRouter t { r with
        wire := upd r.wire p (look r.wire p ++
          (look (s.router (s.nb t p)).kept (facing p)).filter (fun x => decide (look r.rxSeq p ≤ x.seq))) }))
    ∧ (look r.await p = false → exec (.replayRequest t p) s = .next s)
    ∧ (∀ vc : Fin 2, s.armed 0 (4 * t + p) = true → exec (.creditReturn t p vc) s = .next (s.setRouter t { r with
        used := upd r.used (2 * p + vc) (look r.used (2 * p + vc) - look r.owed (2 * p + vc)), owed := upd r.owed (2 * p + vc) 0 }))
    ∧ ∀ vc : Fin 2, s.armed 0 (4 * t + p) = false → exec (.creditReturn t p vc) s = .next s

/-- A waiting packet stays while one of its point and class precedes it, its router is frozen or its point is isolated. Else it
leaves the waiting list: to a destination that does not exist, a request is answered with status 4 by the router and another
packet is dropped; of CLASS 7 it enters the local input with PRI 1; of another CLASS with PRI 1 at the cost of its flits in
tokens, or with PRI 0 where EXCESS allows it; else it waits. A refill adds RATE tokens up to BURST at both points. What an
output chooses is a packet that waits in the buffer for that output and finds credit, and one with PRI 0 only while none with
PRI 1 waits for it. The chosen packet leaves its buffer, credits go back for a neighbour buffer, the probes see it; on the
local output it arrives, on another it uses credits of its virtual channel and its flits are sent in order. With nothing to
choose, or frozen and not draining, an output does nothing. Where no probe is enabled, probes change nothing. (Rests on R142,
R143, R145, R146, R148, R150, R153, R155.) -/
def Obligations.PacketsAreInjectedAndRouted : Prop :=
  (∀ (t : Fin 1024) (i : Nat) (s : State), t.val < s.nTeams →
    let r := s.router t
    (r.inject[i]? = none → exec (.packetInject t i) s = .next s)
    ∧ ∀ p : Packet, r.inject[i]? = some p →
      let n := p.body.length + 1
      let k := 8 * pointOf p + pCLASS p
      let prior := (r.inject.take i).any (fun q => pointOf q == pointOf p && pCLASS q == pCLASS p)
      let a := s.setRouter t { r with inject := r.inject.eraseIdx i }
      (prior = true ∨ s.on (Reg.RTR_CTL_FREEZE t) = true ∨ (pSTGT p = 1 ∧ s.on (Reg.RTR_CTL_ISOLATE_ATT t) = true)
        ∨ (pSTGT p = 0 ∧ s.on (Reg.RTR_CTL_ISOLATE t) = true) → exec (.packetInject t i) s = .next s)
      ∧ (prior = false → s.on (Reg.RTR_CTL_FREEZE t) = false → (pSTGT p = 1 → s.on (Reg.RTR_CTL_ISOLATE_ATT t) = false) →
        (pSTGT p = 0 → s.on (Reg.RTR_CTL_ISOLATE t) = false) →
        (s.badDest p = true → isReq p = true → exec (.packetInject t i) s = .next (a.injectLocal t (withPRI (errCpl t p 4) 1)))
        ∧ (s.badDest p = true → isReq p = false → exec (.packetInject t i) s = .next a)
        ∧ (s.badDest p = false → pCLASS p = 7 → exec (.packetInject t i) s = .next (a.injectLocal t (withPRI p 1)))
        ∧ (s.badDest p = false → pCLASS p ≠ 7 → n ≤ look r.tokens k → exec (.packetInject t i) s = .next ((s.setRouter t { r with
          inject := r.inject.eraseIdx i, tokens := upd r.tokens k (look r.tokens k - n) }).injectLocal t (withPRI p 1)))
        ∧ (s.badDest p = false → pCLASS p ≠ 7 → look r.tokens k < n →
          (s.on (Reg.RTR_REG_EXCESS (pCLASS p)) = true → exec (.packetInject t i) s = .next (a.injectLocal t (withPRI p 0)))
          ∧ (s.on (Reg.RTR_REG_EXCESS (pCLASS p)) = false → exec (.packetInject t i) s = .next s))))
  ∧ (∀ (t : Fin 1024) (s : State), t.val < s.nTeams → ∃ l, exec (.regulatorRefill t) s
      = .next (s.setRouter t { s.router t with tokens := l })
      ∧ ∀ (pt : Fin 2) (c : Fin 7), look l (8 * pt + c)
          = min (s.get (Reg.RTR_REG_BURST c)) (look (s.router t).tokens (8 * pt + c) + s.get (Reg.RTR_REG_RATE c)))
  ∧ (∀ (t : Fin 1024) (out : Fin 5) (b : Nat) (s : State), t.val < s.nTeams →
      ((s.on (Reg.RTR_CTL_FREEZE t) = true ∧ (s.router t).drain = false) ∨ s.pick t out = none →
        exec (.packetRoute t out b) s = .next s)
      ∧ ∀ (key : Nat) (p : Packet), s.pick t out = some (key, p) →
        (p ∈ look (s.router t).dyn key ∧ s.routePort t p = out ∧ s.hasCredit t out key p = true
          ∧ (pPRI p = 0 → ∀ j, j < 10 → ∀ q ∈ look (s.router t).dyn j, ¬ (s.routePort t q = out ∧ pPRI q = 1)))
        ∧ (s.on (Reg.RTR_CTL_FREEZE t) = false ∨ (s.router t).drain = true →
          let n := p.body.length + 1
          let vc := s.outVC t (key / 2) (key % 2) out
          let q := if out = 4 then p else withVC p vc
          let a := s.setRouter t { s.router t with
            dyn := upd (s.router t).dyn key ((look (s.router t).dyn key).erase p), rr := upd (s.router t).rr out key }
          let c := if key < 8 then a.giveCredit t key n else a
          let d := ((c.probeBlocked t (key / 2) 0 p b).probeBlocked t out 1 q b).probePacket t out 1 q
          (out = 4 → exec (.packetRoute t out b) s = .next (d.onRouter t (fun r => { r with arrived := r.arrived ++ [p] })))
          ∧ (out ≠ 4 → exec (.packetRoute t out b) s = .next (q.body.foldl (fun s f => s.sendFlit t out (tagBody vc) f)
              ((d.onRouter t (fun r => { r with used := upd r.used (2 * out + vc) (look r.used (2 * out + vc) + n) })).sendFlit
                t out (tagHead vc) q.head)))))
  ∧ ∀ (t port dir b : Nat) (p : Packet) (s : State), (∀ k : Fin 8, s.on (Reg.RTR_PRB_CTL_EN k) = false) →
      s.probePacket t port dir p = s ∧ s.probeBlocked t port dir p b = s
      ∧ s.injectLocal t p = s.onRouter t (fun r => { r with dyn := pushAt r.dyn 8 p })

/-- A write of RTR_CTL that sets FREEZE and no isolation in a mode with strides is refused with FRZ_REFUSED. Another write puts
the isolation bits it gives, but for a write that ends the isolation of a Team that is not on (PWR_REFUSED); sets FREEZE with
FROZEN, or clears it: the kept credits go back, the drain ends, and FRZ_LATE sets where the 2,048th cycle coincided; and arms
the swap where it sets SWAP_ARM. At the 2,048th cycle every packet held is absorbed: a request is answered with status 2 and
counted in REQ, another counted in OTHER, and the credits of a neighbour buffer return. A local target that does not accept
in time is dead: a request is answered with status 3 by the router, its isolation bit and DEAD set, record 0x18 is requested
and the event TARGET_DEAD queued; an acceptance in the very cycle shows in TMO_LATE alone. (Rests on R137, R150, R151, R152,
R153, R154, R454.) -/
def Obligations.FreezingAndIsolation : Prop :=
  ∀ (t : Fin 1024) (s : State), t.val < s.nTeams →
    let r := s.router t
    (∀ (v : Word) (late : Bool),
        let refused := v.getLsbD 2 = true ∧ s.on (Reg.RTR_CTL_FREEZE t) = false ∧ s.strideMode = true ∧ v.getLsbD 0 = false
          ∧ v.getLsbD 1 = false
        (refused → exec (.freezeWrite t v late) s = .next (s.set1 (Reg.RTR_ERR_FRZ_REFUSED t)))
        ∧ (refused → exec (.isolateWrite t v) s = .next (s.set1 (Reg.RTR_ERR_FRZ_REFUSED t)))
        ∧ (¬ refused →
          let a := (if v.getLsbD 0 = false ∧ s.get (Reg.TEAM_PWR_STATE t) ≠ 1 then s.set1 (Reg.TEAM_PWR_PWR_REFUSED t)
            else s.put (Reg.RTR_CTL_ISOLATE t) (ofBool (v.getLsbD 0))).put (Reg.RTR_CTL_ISOLATE_ATT t) (ofBool (v.getLsbD 1))
          let b (late : Bool) := if v.getLsbD 2 = true ∧ s.on (Reg.RTR_CTL_FREEZE t) = false then
              (a.set1 (Reg.RTR_CTL_FREEZE t)).set1 (Reg.RTR_STAT_FROZEN t)
            else if v.getLsbD 2 = false ∧ s.on (Reg.RTR_CTL_FREEZE t) = true then
              (a.unfreeze t).set1If (late && !r.drain) (Reg.RTR_STAT_FRZ_LATE t)
            else a
          exec (.freezeWrite t v late) s = .next (if v.getLsbD 3 = true then (b late).swapArm t else b late)
          ∧ exec (.isolateWrite t v) s = .next (if v.getLsbD 3 = true then (b false).swapArm t else b false)))
    ∧ s.unfreeze t = r.keptCr.foldl (fun s p => s.giveCredit t p.1 p.2)
        (((s.clr (Reg.RTR_CTL_FREEZE t)).clr (Reg.RTR_STAT_FROZEN t)).setRouter t { r with drain := false, keptCr := [] })
    ∧ (s.on (Reg.RTR_CTL_FREEZE t) = false ∨ r.drain = true → exec (.freezeDrain t) s = .next s)
    ∧ (s.on (Reg.RTR_CTL_FREEZE t) = true → r.drain = false → exec (.freezeDrain t) s = .next
        (r.arrived.foldl (fun s p => s.absorb t p 2)
          ((List.range 9).foldl (fun s key => (look r.dyn key).foldl (fun s p =>
              if key < 8 then (s.absorb t p 2).giveCredit t key (p.body.length + 1) else s.absorb t p 2) s)
            (s.setRouter t { r with drain := true, dyn := [], arrived := [] }))))
    ∧ (∀ (p : Packet) (n : Nat), (isReq p = true → s.absorb t p n
            = (s.sat (Reg.RTR_ABSORB_REQ t) 1).injectLocal t (withPRI (errCpl t p n) 1))
        ∧ (isReq p = false → s.absorb t p n = s.sat (Reg.RTR_ABSORB_OTHER t) 1))
    ∧ (∀ late : Bool, r.arrived = [] ∨ (∃ p rest, r.arrived = p :: rest ∧ 2 ≤ pTGT p) → exec (.targetTimeout t late) s = .next s)
    ∧ (∀ (p : Packet) (rest : List Packet), r.arrived = p :: rest → pTGT p < 2 →
      exec (.targetTimeout t true) s = .next (s.set1 (Reg.RTR_STAT_TMO_LATE t))
      ∧ exec (.targetTimeout t false) s = .next
          (let a := s.setRouter t { r with arrived := rest }
           let b := if isReq p = true then a.injectLocal t (withPRI (errCpl t p 3) 1) else a
           let c := b.set1 (if pTGT p = 1 then Reg.RTR_CTL_ISOLATE_ATT t else Reg.RTR_CTL_ISOLATE t)
           ((c.set1 (Reg.RTR_STAT_DEAD t)).groomRec 3 3 0x18 (argOf t (pTGT p))).postEvent 3
             ⟨0x0009, 3, packBytes [(16, 2, t), (18, 1, pTGT p)]⟩))

/-! ### The units of a Team and its memories -/

/-- The result of BP b at address p is TT[i] of its instruction, where i = D*8 + C*4 + B*2 + A for the values of its operands A,
B, C and D; so bit b of the 64 results of a step is that bit. (R37) -/
def Obligations.BpResultIsItsTruthTable : Prop :=
  ∀ (m : Team) (p : Nat) (b : Fin 64),
    let e := m.entry b p
    let v (i : Nat) : Nat := if m.operand b (bSel e i) then 1 else 0
    (m.bpResults p).getLsbD b = (bTT e).getLsbD (v 3 * 8 + v 2 * 4 + v 1 * 2 + v 0)

/-- For an operation code 1 to 4 the sum is A + B' + cin with B' = B for ADD and ADC and NOT B for SUB and SBC, and cin 0 for
ADD, 1 for SUB and the carry that CI selects (0, 1, the C flag, the west carry) for ADC and SBC: Y is sum[23:0], C is
sum[24], and V is 1 exactly when A and B' have one sign and Y the other, which is when the exact signed sum does not fit 24
bits. After a subtraction C = 1 means that no borrow occurred. Every other operation sends a carry-out of 0 under CEN and
ignores CI. (R68) -/
def Obligations.SumsCarryAndOverflow : Prop :=
  (∀ (m : Team) (w : BitVec 72),
    let a := m.source (wIMM w) (wSA w)
    let b := m.source (wIMM w) (wSB w)
    let b' := if wOP w = 3 ∨ wOP w = 4 then ~~~b else b
    let cin : Bool := if wOP w = 1 then false else if wOP w = 3 then true
      else if wCI w = 0 then false else if wCI w = 1 then true else if wCI w = 2 then m.flagC
      else m.westCarry.map (·.1) == some true
    let n := a.toNat + b'.toNat + (if cin then 1 else 0)
    let r := m.wuResult w
    1 ≤ wOP w → wOP w ≤ 4 →
      r.y.toNat = n % 2 ^ 24 ∧ (r.c = true ↔ 2 ^ 24 ≤ n) ∧ (r.v = true ↔ a.msb = b'.msb ∧ r.y.msb ≠ a.msb)
      ∧ (r.v = true ↔ a.toInt + b'.toInt + (if cin then 1 else 0) < -(2 ^ 23) ∨ 2 ^ 23 ≤ a.toInt + b'.toInt + (if cin then 1 else 0))
      ∧ (wOP w = 3 → r.y = a - b ∧ (r.c = true ↔ b.toNat ≤ a.toNat)))
  ∧ ∀ (m : Team) (w v : BitVec 72), ¬ (1 ≤ wOP w ∧ wOP w ≤ 4) → (m.wuResult w).c = false
      ∧ (wOP v = wOP w → wIMM v = wIMM w → wSA v = wSA w → wSB v = wSB w → wSC v = wSC w → m.wuResult v = m.wuResult w)

/-- CMPLTS and MULHS treat A and B as two's-complement numbers, CMPLTU, MULL and MULHU as unsigned numbers: MULHU and MULL
together are the unsigned product, MULHS and MULL together the signed product, so MULL, its low 24 bits, is the same for
both. (R69) -/
def Obligations.ComparisonsAndProducts : Prop :=
  ∀ (m : Team) (w : BitVec 72),
    let a := m.source (wIMM w) (wSA w)
    let b := m.source (wIMM w) (wSB w)
    let y := (m.wuResult w).y
    let low : W24 := BitVec.ofNat 24 (a.toNat * b.toNat)
    (wOP w = 0x08 → y = if a = b then BitVec.allOnes 24 else 0)
    ∧ (wOP w = 0x09 → y = if a.toInt < b.toInt then BitVec.allOnes 24 else 0)
    ∧ (wOP w = 0x0A → y = if a.toNat < b.toNat then BitVec.allOnes 24 else 0)
    ∧ (wOP w = 0x0C → y = low)
    ∧ (wOP w = 0x0D → y.toNat * 2 ^ 24 + low.toNat = a.toNat * b.toNat)
    ∧ (wOP w = 0x0E → y.toInt * 2 ^ 24 + low.toNat = a.toInt * b.toInt)

/-- With n the whole of B as an unsigned number: SHL gives (A * 2^n)[23:0], SHR A shifted right with zeros in, SAR A shifted
right with copies of A[23] in (so all ones or 0 for n of 24 and more), ROL and ROR A rotated by n mod 24. (R70) -/
def Obligations.ShiftsAndRotates : Prop :=
  ∀ (m : Team) (w : BitVec 72),
    let a := m.source (wIMM w) (wSA w)
    let n := (m.source (wIMM w) (wSB w)).toNat
    let y := (m.wuResult w).y
    (wOP w = 0x14 → y.toNat = a.toNat * 2 ^ n % 2 ^ 24)
    ∧ (wOP w = 0x15 → y.toNat = a.toNat / 2 ^ n)
    ∧ (wOP w = 0x16 → ∀ i : Nat, i < 24 → y.getLsbD i = if i + n < 24 then a.getLsbD (i + n) else a.getLsbD 23)
    ∧ (wOP w = 0x17 → ∀ i : Nat, i < 24 → y.getLsbD ((i + n) % 24) = a.getLsbD i)
    ∧ (wOP w = 0x18 → ∀ i : Nat, i < 24 → y.getLsbD i = a.getLsbD ((i + n) % 24))

/-- While DS_CTL.EN is 0, a write of CHIP_STRIDE_LO stages the low half and changes no register, and a write of CHIP_STRIDE_HI
writes both halves together; while EN is 1 both change nothing. A read of CHIP_STRIDE_LO answers it and latches
CHIP_STRIDE_HI for the reader. (R120) -/
def Obligations.StrideNumberIsWrittenWhole : Prop :=
  (∀ (v : Word) (s : State), s.on Reg.DS_CTL_EN = false →
      exec (.chipStrideLoWrite v) s = .next { s with chip := { s.chip with strideLo := v } }
      ∧ ∃ u, exec (.chipStrideHiWrite v) s = .next u ∧ u.stride = s.chip.strideLo.toNat + 2 ^ 32 * v.toNat
        ∧ s.keepsRegs u [Adr.CHIP_STRIDE_LO, Adr.CHIP_STRIDE_HI] ∧ u = { s with regs := u.regs })
  ∧ (∀ (v : Word) (s : State), s.on Reg.DS_CTL_EN = true →
      exec (.chipStrideLoWrite v) s = .next s ∧ exec (.chipStrideHiWrite v) s = .next s)
  ∧ ∀ (who : Agent) (s : State), ∃ u, exec (.chipStrideLoRead who) s = .next u ∧ u.rdata = [s.rd Adr.CHIP_STRIDE_LO]
      ∧ u.latched who Adr.CHIP_STRIDE_HI = s.rd Adr.CHIP_STRIDE_HI ∧ u = { s with latch := u.latch, rdata := u.rdata }

/-- For a powered Team in IDLE or LOAD a write of word 0 or 1 goes to its staging register; a write of word 2 makes the staged
words and it the entry and clears both staging registers; in any other mode, or with the Team off, nothing changes. (Rests on
R35, 02_boolean_processors.md.) -/
def Obligations.InstructionStoresAreWritten : Prop :=
  ∀ (t : Fin 1024) (s : State), t.val < s.nTeams →
    let m := s.team t
    (s.mode = mIdle ∨ s.mode = mLoad → s.get (Reg.TEAM_PWR_STATE t) = 1 →
      (∀ (wu : Bool) (k : Fin 2) (v : W24), exec (.isStageWrite t wu k v) s = .next (s.setTeam t { m with
        stage := Tab.set (stageDef m.gen) m.stage (2 * ofBool wu + k) v }))
      ∧ ∀ (u : Fin 65) (a : Fin 1024) (v : W24), ∃ k : Team, exec (.isCommitWrite t u a v) s = .next (s.setTeam t k)
        ∧ (∀ (x y : Nat), y < 1024 → k.entry x y = if x = u ∧ y = a then
            v ++ Tab.get (stageDef m.gen) m.stage (if u.val = 64 then 3 else 1) ++ Tab.get (stageDef m.gen) m.stage (if u.val = 64 then 2 else 0)
            else m.entry x y)
        ∧ Tab.get (stageDef m.gen) k.stage (if u.val = 64 then 3 else 1) = 0 ∧ Tab.get (stageDef m.gen) k.stage (if u.val = 64 then 2 else 0) = 0
        ∧ k = { m with store := k.store, stage := k.stage })
    ∧ ((s.mode ≠ mIdle ∧ s.mode ≠ mLoad) ∨ s.get (Reg.TEAM_PWR_STATE t) ≠ 1 →
      (∀ (wu : Bool) (k : Fin 2) (v : W24), exec (.isStageWrite t wu k v) s = .next s)
      ∧ ∀ (u : Fin 65) (a : Fin 1024) (v : W24), exec (.isCommitWrite t u a v) s = .next s)

/-- A host write in IDLE, LOAD, SNAPSHOT, QUARANTINE or STEP at rest, and a firmware write while no strides run, writes, sets or
clears bits of the word in a ready bank at once, and is discarded at a bank that is not ready; the alias writes report what
their read finds. A host write in any other state changes nothing and sets HOST_WR_DROP of a powered Team. A firmware write
while strides run waits in the Team's queue. The oldest waiting access is served one word at a time: a read takes the word as
its check gives it, 0 from a bank that is not ready; a write stores it; the last word answers the host, with the words it
read, or the packet, and firmware and landing writes need no answer. A forced access costs a LOC_STALL cycle, sets DMA_FORCED
and is then served. (Rests on R87, R88, R89, R90, R91, R92, R93, R98, R141.) -/
def Obligations.DesignMemoryByDma : Prop :=
  ∀ (t : Fin 1024) (s : State), t.val < s.nTeams →
    let m := s.team t
    (∀ (host : Bool) (a : BitVec 15) (v : BitVec 24) (c : MemCheck), (if host then s.hostMayWrite = true else s.strideMode = false) →
      (s.bankReady t (a.toNat / 2 ^ 14) = true →
        exec (.dmWindowWrite t host a v) s = .next (s.setTeam t (m.setWord a.toNat v))
        ∧ exec (.dmAliasSet t host a v c) s = .next ((s.setTeam t (m.setWord a.toNat (memData c (m.word a.toNat) ||| v))).dmChecked t 0 a.toNat c)
        ∧ exec (.dmAliasClear t host a v c) s
            = .next ((s.setTeam t (m.setWord a.toNat (memData c (m.word a.toNat) &&& ~~~v))).dmChecked t 0 a.toNat c))
      ∧ (s.bankReady t (a.toNat / 2 ^ 14) = false → exec (.dmWindowWrite t host a v) s = .next s
        ∧ exec (.dmAliasSet t host a v c) s = .next s ∧ exec (.dmAliasClear t host a v c) s = .next s))
    ∧ (∀ (a : BitVec 15) (v : BitVec 24) (c : MemCheck), s.hostMayWrite = false →
      let u := if s.teamOn t = true then s.set1 (Reg.TEAM_DM_STAT_HOST_WR_DROP t) else s
      exec (.dmWindowWrite t true a v) s = .next u ∧ exec (.dmAliasSet t true a v c) s = .next u
      ∧ exec (.dmAliasClear t true a v c) s = .next u)
    ∧ (∀ (a : BitVec 15) (v : BitVec 24) (c : MemCheck), s.strideMode = true →
      exec (.dmWindowWrite t false a v) s = .next (s.setTeam t { m with dma := m.dma ++ [⟨.groom, .write, a.toNat, 1, [v], []⟩] })
      ∧ exec (.dmAliasSet t false a v c) s = .next (s.setTeam t { m with dma := m.dma ++ [⟨.groom, .setBits, a.toNat, 1, [v], []⟩] })
      ∧ exec (.dmAliasClear t false a v c) s
          = .next (s.setTeam t { m with dma := m.dma ++ [⟨.groom, .clearBits, a.toNat, 1, [v], []⟩] }))
    ∧ (∀ c : MemCheck, m.dma = [] → exec (.dmaAccess t c) s = .next s)
    ∧ (∀ (c : MemCheck) (r : DmaReq) (rest : List DmaReq), m.dma = r :: rest →
      let ready := s.bankReady t (r.addr / 2 ^ 14)
      let old := memData c (m.word r.addr)
      let q (got : List W24) : DmaReq := ⟨r.src, r.kind, (r.addr + 1) % 2 ^ 15, r.left - 1, r.data.drop 1, got⟩
      let b (got : List W24) : Team := { m with dma := if r.left - 1 = 0 then rest else q got :: rest }
      let fin (got : List W24) (u : State) : State := if r.left - 1 = 0 then u.dmaAnswer t (q got) else u
      (r.kind = .read → ready = true → exec (.dmaAccess t c) s
          = .next (fin (r.got ++ [old]) ((s.setTeam t (b (r.got ++ [old]))).dmChecked t 0 r.addr c)))
      ∧ (r.kind = .read → ready = false → exec (.dmaAccess t c) s = .next (fin (r.got ++ [0]) (s.setTeam t (b (r.got ++ [0])))))
      ∧ (r.kind = .write → ready = true → exec (.dmaAccess t c) s
          = .next (fin r.got (s.setTeam t ((b r.got).setWord r.addr (r.data.headD 0)))))
      ∧ (r.kind = .setBits → ready = true → exec (.dmaAccess t c) s
          = .next (fin r.got ((s.setTeam t ((b r.got).setWord r.addr (old ||| r.data.headD 0))).dmChecked t 0 r.addr c)))
      ∧ (r.kind = .clearBits → ready = true → exec (.dmaAccess t c) s
          = .next (fin r.got ((s.setTeam t ((b r.got).setWord r.addr (old &&& ~~~(r.data.headD 0)))).dmChecked t 0 r.addr c)))
      ∧ (r.kind ≠ .read → ready = false → exec (.dmaAccess t c) s = .next (fin r.got (s.setTeam t (b r.got)))))
    ∧ (∀ r : DmaReq, (r.src = .host → s.dmaAnswer t r = { s with rdata := s.rdata ++ r.got.map (fun w => w.setWidth 32) })
      ∧ (∀ p, r.src = .packet p → s.dmaAnswer t r = s.wait t (if r.kind = .read then readCpl t p 0 r.got else writeAck t p))
      ∧ (r.src = .groom ∨ r.src = .landing → s.dmaAnswer t r = s))
    ∧ (∀ (a : Nat) (w d : W24), memData .ok w = w ∧ memData .single w = w ∧ memData (.double d) w = d ∧ s.dmChecked t 0 a .ok = s
      ∧ s.dmChecked t 0 a .single = s.dmCorrected t ∧ s.dmChecked t 0 a (.double d) = s.dmUe t 0 a)
    ∧ ∀ c : MemCheck,
      (s.canStep t = true ∧ m.halted = false ∧ m.dma ≠ [] →
        exec (.dmaForced t c) s = exec (.dmaAccess t c) ((s.stall t (Reg.TEAM_STALL_LOC_COUNT t) 1).set1 (Reg.TEAM_DM_STAT_DMA_FORCED t)))
      ∧ (¬ (s.canStep t = true ∧ m.halted = false ∧ m.dma ≠ []) → exec (.dmaForced t c) s = .next s)

/-- The design-memory patrol of a powered Team tests its next region with a ready bank, counts what it corrects, records every
double-bit error and every word that reads back wrongly, and moves on; switched off, or with no bank ready, it does nothing.
The Instruction Store patrol moves to its next entry, counts a correction and treats a double-bit error as R36 does; in IDLE
it also tests its next region of 256 entries. A bank switched OFF (0 or 3) loses its words and its readiness; in RETENTION it
keeps what it holds; switched ON it is ready only when its initialisation is done, and then holds 0 everywhere, or keeps what
it kept. Outside IDLE, LOAD, SNAPSHOT and QUARANTINE, and with the Team off, a write of a bank's state changes nothing. (That
a region test of an Instruction Store gives its PATROL_FAIL a free address is the model's choice: the spec gives none.)
(Rests on R94, R96, R97, R98, R99, R547.) -/
def Obligations.PatrolsAndBankPower : Prop :=
  ∀ (t : Fin 1024) (s : State), t.val < s.nTeams →
    let m := s.team t
    (∀ (n : Nat) (ue : List (Fin 256 × BitVec 24)) (bad : List (Fin 256)),
      (s.on (Reg.TEAM_DM_CTL_PATROL_EN t) = false ∨ s.teamOn t = false ∨ s.nextRegion t m.patrolAt = none →
        exec (.patrolRegion t n ue bad) s = .next s)
      ∧ ∀ r : Nat, s.on (Reg.TEAM_DM_CTL_PATROL_EN t) = true → s.teamOn t = true → s.nextRegion t m.patrolAt = some r →
        let a := s.setTeam t { m with patrolAt := (r + 1) % 128 }
        let b := if n = 0 then a else (a.corrected t (Reg.TEAM_DM_CECNT_DM_CECNT t) n).set1 (Reg.TEAM_DM_STAT_CE t)
        exec (.patrolRegion t n ue bad) s = .next (bad.foldl (fun u p => u.patrolFail t (256 * r + p.val))
          (ue.foldl (fun u p => (u.onTeam t (fun m => m.setWord (256 * r + p.1) p.2)).dmUe t 0 (256 * r + p.1)) b)))
    ∧ (∀ (c : Check) (n : Nat) (ue : Option (Fin 256)) (bad : Bool),
      (s.on (Reg.TEAM_DM_CTL_IS_PATROL_EN t) = false ∨ s.teamOn t = false → exec (.isPatrol t c n ue bad) s = .next s)
      ∧ (s.on (Reg.TEAM_DM_CTL_IS_PATROL_EN t) = true → s.teamOn t = true →
        let a := s.setTeam t { m with isPatrolAt := (m.isPatrolAt + 1) % (65 * 1024) }
        let b := match c with
          | .ok => a
          | .single => (a.corrected t (Reg.TEAM_DM_CECNT_IS_CECNT t) 1).set1 (Reg.TEAM_DM_STAT_IS_CE t)
          | .double => a.isUe t (m.isPatrolAt / 1024) (m.isPatrolAt % 1024)
        (s.mode ≠ mIdle → exec (.isPatrol t c n ue bad) s = .next b)
        ∧ (s.mode = mIdle → b.mode ≠ mIdle → exec (.isPatrol t c n ue bad) s = .next b)
        ∧ (s.mode = mIdle → b.mode = mIdle →
          let r := (b.team t).isRegionAt
          let d := b.setTeam t { b.team t with isRegionAt := (r + 1) % 260 }
          let e := if n = 0 then d else (d.corrected t (Reg.TEAM_DM_CECNT_IS_CECNT t) n).set1 (Reg.TEAM_DM_STAT_IS_CE t)
          let f := if bad = true then (e.patrolFail t (Config.freeW24 e.free).toNat).spend else e
          exec (.isPatrol t c n ue bad) s = .next (match ue with | some x => f.isUe t (r / 4) (256 * (r % 4) + x) | none => f))))
    ∧ (∀ (b : Fin 2) (v : BitVec 2), s.mode = mIdle ∨ s.mode = mLoad ∨ s.mode = mSnapshot ∨ s.mode = mQuarantine → s.teamOn t = true →
      let a := s.put (pwrFld t b) v.toNat
      (v = 2 → s.get (pwrFld t b) = 2 → exec (.bankPowerWrite t b v) s = .next a)
      ∧ (v = 2 → s.get (pwrFld t b) ≠ 2 → exec (.bankPowerWrite t b v) s = .next (a.setTeam t
          (m.setBank b (if (m.bank b).valid = true then ⟨true, false, true⟩ else ⟨false, true, false⟩))))
      ∧ (v = 1 → (m.bank b).valid = true → s.get (pwrFld t b) = 2 ∨ s.get (pwrFld t b) = 1 →
          exec (.bankPowerWrite t b v) s = .next ((a.clr (readyFld t b)).setTeam t (m.setBank b ⟨true, false, false⟩)))
      ∧ (v = 0 ∨ v = 3 ∨ (v = 1 ∧ ((m.bank b).valid = false ∨ (s.get (pwrFld t b) ≠ 2 ∧ s.get (pwrFld t b) ≠ 1))) →
          exec (.bankPowerWrite t b v) s
            = .next ((a.clr (readyFld t b)).setTeam t ((m.setBank b ⟨false, false, false⟩).clearBank b))))
    ∧ (∀ (b : Fin 2) (v : BitVec 2),
      s.teamOn t = false ∨ (s.mode ≠ mIdle ∧ s.mode ≠ mLoad ∧ s.mode ≠ mSnapshot ∧ s.mode ≠ mQuarantine) →
      exec (.bankPowerWrite t b v) s = .next s)
    ∧ ∀ b : Fin 2,
      ((m.bank b).init = true →
        exec (.bankInitDone t b) s = .next ((s.setTeam t ((m.clearBank b).setBank b ⟨true, false, false⟩)).set1 (readyFld t b))
        ∧ ∀ a : Nat, a / 2 ^ 14 = b → ((m.clearBank b).setBank b ⟨true, false, false⟩).word a = 0)
      ∧ ((m.bank b).init = false → (m.bank b).back = true →
        exec (.bankInitDone t b) s = .next ((s.setTeam t (m.setBank b ⟨true, false, false⟩)).set1 (readyFld t b)))
      ∧ ((m.bank b).init = false → (m.bank b).back = false → exec (.bankInitDone t b) s = .next s)

/-! ### Capture and lanes -/

/-- Arming from IDLE with a capture region that CAP_RGN names and POST below NSLOT computes RS and NSLOT, clears TRIGGERED and
RECCNT, forgets what an earlier capture left and enters ARMED; otherwise ARM_REFUSED sets and nothing else changes. A STOP
write in ARMED or POST is kept for the next complete record, elsewhere, and while capture writes its last records, it does
nothing. A FORCE write in ARMED, with no trigger record waiting, is kept; in POST, which a waiting trigger record has begun,
DONE or a stopped state, or while capture goes there, FORCE_IGN sets; in IDLE and DISABLED it does nothing. Disarming takes
DONE and the stopped states to IDLE and leaves every other state. (Rests on R301, R303, R305, R306, R309, R312.) -/
def Obligations.CaptureIsControlled : Prop :=
  ∀ s : State,
    (let rs := recSize s.capTeams.length
     let n := s.get Reg.CAP_RGN_SIZE * 2 ^ 26 / rs
     (s.get Reg.CAP_STAT_STATE = 0 → s.cap.region.isSome = true → s.capRegionOk = true → s.get Reg.CAP_POST_POST < n →
       exec .capArm s = .next
         { (((((s.put Reg.CAP_GEOM_RS (rs / 256)).put Reg.CAP_GEOM_NSLOT n).put Reg.CAP_STAT_STATE 1).clr
             Reg.CAP_STAT_TRIGGERED).put Reg.CAP_RECCNT_COUNT 0) with
           cap := { s.cap with lastA := none, force := false, stop := false, ready := [], ending := none, seq := 0, postLeft := 0 } })
     ∧ (s.get Reg.CAP_STAT_STATE ≠ 0 ∨ s.cap.region.isSome = false ∨ s.capRegionOk = false ∨ n ≤ s.get Reg.CAP_POST_POST →
       exec .capArm s = .next (s.set1 Reg.CAP_STAT_ARM_REFUSED)))
    ∧ (s.get Reg.CAP_STAT_STATE = 1 ∨ s.get Reg.CAP_STAT_STATE = 2 → s.cap.ending = none →
      exec .capStop s = .next { s with cap := { s.cap with stop := true } })
    ∧ ((s.get Reg.CAP_STAT_STATE ≠ 1 ∧ s.get Reg.CAP_STAT_STATE ≠ 2) ∨ s.cap.ending ≠ none → exec .capStop s = .next s)
    ∧ (s.cap.ending = none →
      (s.get Reg.CAP_STAT_STATE = 1 → (∀ r ∈ s.cap.ready, r.trig = false) → exec .capForce s = .next { s with cap := { s.cap with force := true } })
      ∧ (s.get Reg.CAP_STAT_STATE = 1 → (∃ r ∈ s.cap.ready, r.trig = true) → exec .capForce s = .next (s.set1 Reg.CAP_STAT_FORCE_IGN))
      ∧ (2 ≤ s.get Reg.CAP_STAT_STATE → s.get Reg.CAP_STAT_STATE ≤ 5 → exec .capForce s = .next (s.set1 Reg.CAP_STAT_FORCE_IGN))
      ∧ (s.get Reg.CAP_STAT_STATE = 0 ∨ 5 < s.get Reg.CAP_STAT_STATE → exec .capForce s = .next s))
    ∧ (∀ st n : Nat, s.cap.ending = some (st, n) → 2 ≤ st → st ≤ 5 → exec .capForce s = .next (s.set1 Reg.CAP_STAT_FORCE_IGN))
    ∧ (3 ≤ s.get Reg.CAP_STAT_STATE → s.get Reg.CAP_STAT_STATE ≤ 5 → exec .capDisarm s = .next (s.put Reg.CAP_STAT_STATE 0))
    ∧ (s.get Reg.CAP_STAT_STATE < 3 ∨ 5 < s.get Reg.CAP_STAT_STATE → exec .capDisarm s = .next s)

/-- The oldest sample on a Team's ring, of a completed stride with no sample of an earlier one outstanding, reaches the capture
engine and the scheduler's ENABLE samples; the last one of its stride is the moment of the trigger decision, which makes the
record of a stride that capture covers. The oldest complete record in ARMED or POST goes, with its flags and its sequence
number, into the staging buffer at slot SEQ modulo NSLOT; RECCNT, LAST_SLOT and CAP_STOP_STRIDE follow. One with the trigger
makes TRIG, TRIG_SLOT and TRIGGERED, queues the event CAP_TRIGGERED and enters POST. Less room than two records ends capture
in OVF, a STOP write in STOPPED, and the last record after the trigger in DONE, entered with its event once the staging
buffer is written. In another state the record is dropped. (Rests on R165, R299, R301, R302, R303, R304, R305, R308, R309.) -/
def Obligations.CaptureRecordsAreStored : Prop :=
  (∀ (t : Fin 1024) (s : State), t.val < s.nTeams →
    (s.armed 2 t = false ∨ (s.team t).ring = [] → exec (.tapSampleArrival t) s = .next s)
    ∧ ∀ (n : Nat) (v : BitVec 96) (rest : List (Nat × BitVec 96)), s.armed 2 t = true → (s.team t).ring = (n, v) :: rest →
      (¬ (n < s.stride ∧ ∀ u ∈ s.runTeams, ∀ p ∈ (s.team u).ring, n ≤ p.1) → exec (.tapSampleArrival t) s = .next s)
      ∧ (n < s.stride → (∀ u ∈ s.runTeams, ∀ p ∈ (s.team u).ring, n ≤ p.1) →
        let doms := (List.range 64).filter (fun d => s.get (Reg.DS_DOM_CFG_TEAM d) == t)
        let bit d := ofBool (v.getLsbD (s.get (Reg.DS_DOM_CFG_TAPBIT d)))
        let samp := doms.foldl (fun l d => Tab.set (fun _ => 0) l (2 * d + n % 2) (2 * n + bit d + 1)) s.ds.samples
        let a : State := { s.setTeam t { s.team t with ring := rest } with
          cap := { s.cap with taps := Tab.set (fun _ => 0) s.cap.taps t v }, ds := { s.ds with samples := samp } }
        (a.tapsIn n = false ∨ s.cap.decided = some n → exec (.tapSampleArrival t) s = .next a)
        ∧ (a.tapsIn n = true → s.cap.decided ≠ some n →
          let live := a.trigState == 2 || (a.trigState == 1 && decide (a.pair Adr.CAP_START_LO Adr.CAP_START_HI ≤ n))
          let forced := a.trigState == 1 && s.cap.force
          let fire := a.trigState == 1 && ((live && a.fires n a.patMask) || forced)
          exec (.tapSampleArrival t) s = .next { a with cap := { a.cap with
            decided := some n
            force := if a.trigState == 1 then false else s.cap.force
            lastA := if live && Machine.bit a.patMask (s.get Reg.CAP_TRIG_CTL_SEQ_A) then some n else s.cap.lastA
            ready := if live || forced then s.cap.ready ++ [⟨n, fire, forced, a.patMask, a.nowOf n,
              a.capTeams.map (fun t => Tab.get (fun _ => 0) a.cap.taps t)⟩] else s.cap.ready } })))
  ∧ (∀ (full : List Nat) (s : State), s.cap.ready = [] → exec (.captureRecord full) s = .next (s.spill full).capSettle)
  ∧ (∀ (full : List Nat) (s : State) (r : CapRec) (rest : List CapRec), s.cap.ready = r :: rest →
    let st := s.get Reg.CAP_STAT_STATE
    let rs := s.get Reg.CAP_GEOM_RS * 256
    let slot := s.cap.seq % 2 ^ 32 % s.get Reg.CAP_GEOM_NSLOT
    let ovf := decide (4194304 - 32 * s.cap.staging.length < 2 * rs)
    let stop := s.cap.stop && !ovf
    let a := ({ s with cap := { s.cap with ready := rest, seq := s.cap.seq + 1 } } : State).stage
      (s.bursts slot rs (recBytes r s.cap.seq ovf stop))
    let b := ((a.sat Reg.CAP_RECCNT_COUNT 1).put Reg.CAP_LAST_SLOT_SLOT slot).putPair Adr.CAP_STOP_STRIDE_LO Adr.CAP_STOP_STRIDE_HI r.stride
    let c := if r.trig = true then
        ((((b.putPair Adr.CAP_TRIG_LO Adr.CAP_TRIG_HI r.stride).put Reg.CAP_TRIG_SLOT_SLOT slot).set1
          Reg.CAP_STAT_TRIGGERED).put Reg.CAP_STAT_STATE 2).postEvent 2 ⟨0x0023, 13, packBytes [(16, 8, r.stride), (24, 4, slot),
            (28, 1, 1 + 2 * ofBool ovf + 4 * r.pats + 64 * ofBool r.forced + 128 * ofBool stop)]⟩
      else b
    let left := if r.trig = true then s.get Reg.CAP_POST_POST else s.cap.postLeft - 1
    let d : State := { c with cap := { c.cap with postLeft := left } }
    ((st = 1 ∨ st = 2) → s.cap.ending = none →
      (ovf = true → exec (.captureRecord full) s = .next (d.capStop 4 r.stride))
      ∧ (ovf = false → s.cap.stop = true → exec (.captureRecord full) s = .next (d.capStop 5 r.stride))
      ∧ (ovf = false → s.cap.stop = false → (r.trig = true ∨ st = 2) → left = 0 →
          exec (.captureRecord full) s = .next (d.capStop 3 r.stride))
      ∧ (ovf = false → s.cap.stop = false → ¬ ((r.trig = true ∨ st = 2) ∧ left = 0) →
          exec (.captureRecord full) s = .next (d.spill full).capSettle))
    ∧ ((st ≠ 1 ∧ st ≠ 2) ∨ s.cap.ending ≠ none → exec (.captureRecord full) s = .next { s with cap := { s.cap with ready := rest } }))
  ∧ ∀ (s : State) (st n : Nat),
    s.capStop st n = (({ s with cap := { s.cap with ready := [], stop := false, force := false, ending := some (st, n) } } : State).putPair
      Adr.CAP_STOP_STRIDE_LO Adr.CAP_STOP_STRIDE_HI n).capSettle
    ∧ (s.cap.ending = some (st, n) → s.cap.staging = [] → s.capSettle
      = ((({ s with cap := { s.cap with ending := none } } : State).put Reg.CAP_STAT_STATE st).put Reg.CAP_STAT_OVF
          (if st = 4 then 1 else 0)).postEvent 2 ⟨0x0024, 16, packBytes [(16, 1, st), (24, 8, n)]⟩)
    ∧ (s.cap.ending = none ∨ s.cap.staging ≠ [] → s.capSettle = s)

/-- Setting EN of a lane in OFF samples its settings and begins a sweep, or enters TEST; an illegal RATE or LOOP leaves it in OFF
with CFG_ERR; elsewhere only EN sets. Clearing EN takes it to OFF, and its link answers if it was in service. A sweep starts
with its first candidate applied. At the end of a dwell the setting has passed when both locks hold, the acquisition window
held a valid training block, every dwell block is valid, none is from a wrong LANE or CLASS, and the dwell is clean; the next
candidate is applied. The end of a sweep writes PASS_MAP: with a passing setting the chosen one is applied and CONFIRM
entered, with none NO_SETTING sets, and the lane fails at its limit of sweeps or sweeps again. CONFIRM ends without an error
in PEER_WAIT, or like that. A lane in PEER_WAIT that has both counts enters ACTIVE, or STANDBY. Valid training blocks count
toward PEER_WAIT's and ACTIVE's counts; one that is not valid clears them. (Rests on R216, R217, R219, R220, R221, R226,
R229, R241.) -/
def Obligations.LanesTrain : Prop :=
  ∀ (l : Fin 160) (s : State),
    let v := s.lane l
    let e := s.set1 (laneCtl l 0 0)
    let rate := s.get (laneCtl l 2 1)
    let loop := s.get (laneCtl l 17 16)
    let w : Lane := { v with rate := rate, loop := loop, eqFix := s.on (laneCtl l 7 7), eqSet := s.get (laneCtl l 11 8)
                             gen := prbsSeed s.free, pat := prbsSeed (s.free + 1) }
    let a := ((e.spendN 2).setLane l w).put (laneSweep l 27 20) 0
    (s.laneState l ≠ lOff → exec (.laneEnable l) s = .next e)
    ∧ (s.laneState l = lOff → rate = 3 ∨ (rate = 1 ∧ l.val < 144) ∨ loop = 3 → exec (.laneEnable l) s = .next (e.set1 (laneStat l 17 17)))
    ∧ (s.laneState l = lOff → ¬ (rate = 3 ∨ (rate = 1 ∧ l.val < 144) ∨ loop = 3) →
      (s.on (laneCtl l 18 18) = true → exec (.laneEnable l) s
          = .next ((a.put (laneStat l 3 0) lTest).put (laneStat l 7 4) (s.get (laneCtl l 11 8))))
      ∧ (s.on (laneCtl l 18 18) = false → exec (.laneEnable l) s = .next (a.freshSweep l)))
    ∧ (s.startSweep l = (((s.put (laneStat l 3 0) lSweep).setLane l { v with
          next := 0, pass := 0, rdyGot := 0, rdySent := false, train := 0 })).applyNext l
      ∧ s.freshSweep l = (s.startSweep l).onLane l (fun v => { v with tries := 0 })
      ∧ (∀ i, (candidates v)[v.next]? = some i →
          s.applyNext l = (s.setLane l { v with missed := false, chk := Prbs.reset }).put (laneStat l 7 4) i)
      ∧ ((candidates v)[v.next]? = none → s.applyNext l = s)
      ∧ candidates v = if v.eqFix then [v.eqSet] else List.range 16)
    ∧ (let b := ((((((s.clr (laneCtl l 0 0)).put (laneStat l 3 0) lOff).setLane l Lane.reset).put (laneStat l 9 8) 0).clr (laneStat l 10 10)).put
        (lanePrbs l 11 10) 0)
       (s.laneState l ≠ lActive → s.laneState l ≠ lStandby → exec (.laneDisable l) s = .next b)
       ∧ (s.laneState l = lActive ∨ s.laneState l = lStandby → exec (.laneDisable l) s = .next (b.laneLeft l (s.laneState l))))
    ∧ (∀ (acq dwell : List W64) (clean late : Bool),
      (∀ i : Nat, s.laneState l = lSweep → (candidates v)[v.next]? = some i → exec (.sweepSettingDone l acq dwell clean late) s
        = .next (((s.setLane l { v with
            next := v.next + 1, pass := if s.settingOk l acq dwell clean then v.pass + 2 ^ i else v.pass }).applyNext l).set1If late
              (laneStat l 21 21)))
      ∧ (s.laneState l ≠ lSweep ∨ (candidates v)[v.next]? = none → exec (.sweepSettingDone l acq dwell clean late) s = .next s)
      ∧ (s.settingOk l acq dwell clean = true ↔ s.on (laneStat l 8 8) = true ∧ s.on (laneStat l 9 9) = true
          ∧ (∃ b ∈ acq, trainingOk (s.polar l b) = true) ∧ (∀ b ∈ dwell, trainingOk (s.polar l b) = true)
          ∧ (∀ b ∈ acq ++ dwell, trainingOk (s.polar l b) = true → miswired l (s.polar l b) = false) ∧ clean = true ∧ v.missed = false))
    ∧ (let b := ((s.put (laneSweep l 15 0) v.pass).sat (laneSweep l 27 20) 1).setLane l
        { v with tries := v.tries + 1, missed := false, chk := Prbs.reset }
      (s.laneState l = lSweep → v.next = (candidates v).length → v.pass ≠ 0 → exec (.sweepDone l) s = .next
        (((b.put (laneSweep l 19 16) (chosen v.pass)).put (laneStat l 7 4) (chosen v.pass)).put (laneStat l 3 0) lConfirm))
      ∧ (s.laneState l = lSweep → v.next = (candidates v).length → v.pass = 0 → exec (.sweepDone l) s = .next
        (if (b.set1 (laneStat l 20 20)).sweepsOut l then (b.set1 (laneStat l 20 20)).laneFailed l else (b.set1 (laneStat l 20 20)).startSweep l))
      ∧ (s.laneState l ≠ lSweep ∨ v.next ≠ (candidates v).length → exec (.sweepDone l) s = .next s))
    ∧ (∀ ok : Bool,
      (s.laneState l = lConfirm → ok = true → v.missed = false → exec (.confirmDone l ok) s
        = .next ((s.put (laneStat l 3 0) lPeerWait).setLane l { v with rdyGot := 0, rdySent := false }))
      ∧ (s.laneState l = lConfirm → ok = false ∨ v.missed = true →
        exec (.confirmDone l ok) s = .next (if s.sweepsOut l then s.laneFailed l else s.startSweep l))
      ∧ (s.laneState l ≠ lConfirm → exec (.confirmDone l ok) s = .next s))
    ∧ (s.laneState l = lPeerWait → exec (.rdyBlocksSent l) s
        = .next ((((List.range 16).foldl (fun u _ => u.sendGroup l) s).onLane l (fun v => { v with rdySent := true })).leavePeerWait l))
    ∧ (s.laneState l ≠ lPeerWait → exec (.rdyBlocksSent l) s = .next s)
    ∧ (let n := laneLink l
       let b := s.setLane l { v with train := 0 }
       let full := s.laneState l = lPeerWait ∧ 16 ≤ v.rdyGot ∧ v.rdySent = true
       (¬ full → s.leavePeerWait l = s)
       ∧ (full → n < 16 → s.spare n = laneNo l → s.leavePeerWait l = (b.put (laneStat l 3 0) lStandby).linkRise n)
       ∧ (full → n < 16 → s.spare n ≠ laneNo l → ¬ (s.spare n = 0xF ∧ s.isUp n = true ∧ s.logical n (laneNo l) = none) →
            s.leavePeerWait l = (b.put (laneStat l 3 0) lActive).linkRise n)
       ∧ (full → n < 16 → s.spare n ≠ laneNo l → s.spare n = 0xF → s.isUp n = true → s.logical n (laneNo l) = none → s.leavePeerWait l
            = ((b.put (Reg.LD_LINK_STAT_SPARE n) (laneNo l)).put (laneStat l 3 0) lStandby).linkRise n)
       ∧ (full → 16 ≤ n → s.isUp n = true → s.leavePeerWait l = b.put (laneStat l 3 0) lStandby)
       ∧ (full → 16 ≤ n → s.isUp n = false → s.leavePeerWait l = (b.put (laneStat l 3 0) lActive).linkRise n))
    ∧ (∀ (b : W64) (pats : List W64) (at_ : Nat),
        (takesGroups (s.laneState l) = false ∨ s.on (laneStat l 9 9) = false → exec (.trainingBlockReceive l b pats at_) s = .next s)
        ∧ (takesGroups (s.laneState l) = true → s.on (laneStat l 9 9) = true →
          let x := if s.laneState l = lActive then s else s.patterns l pats
          (trainingOk (s.polar l b) = true → exec (.trainingBlockReceive l b pats at_) s = .next (x.goodBlock l (s.polar l b) at_))
          ∧ (trainingOk (s.polar l b) = false → exec (.trainingBlockReceive l b pats at_) s = .next (x.badBlock l))))
    ∧ s.badBlock l = (let x := s.setLane l { v with rdyGot := 0, train := 0, missed := v.missed || s.laneState l == lConfirm }
        if s.laneState l = lPeerWait ∨ s.laneState l = lStandby then x.sat (laneErr l) 64 else x)
    ∧ ∀ b at_ : Nat,
        let x := (((s.put (laneStat l 15 12) (bits b 15 12)).put (laneStat l 11 11) (bits b 17 17)).set1If (miswired l b) (laneStat l 16 16)).setLane
          l { v with missed := v.missed || (miswired l b && s.laneState l == lSweep)
                     train := if s.laneState l = lActive then v.train + 1 else 0, arrive := at_
                     rdyGot := if bits b 17 17 = 1 then v.rdyGot + 1 else 0 }
        (s.laneState l = lPeerWait → s.goodBlock l b at_ = x.leavePeerWait l)
        ∧ (s.laneState l = lActive → 4 ≤ v.train + 1 → s.goodBlock l b at_ = ((x.put (laneStat l 3 0) lPeerWait).onLane l (fun v => { v with
            train := 0, rdyGot := 0, rdySent := false, chk := Prbs.reset })).laneLeft l lActive)
        ∧ (s.laneState l ≠ lPeerWait → ¬ (s.laneState l = lActive ∧ 4 ≤ v.train + 1) → s.goodBlock l b at_ = x)

/-- While a receiver that takes training groups searches, 64 valid sync headers in a row set BLOCK_LOCK and the polarity. Headers
that arrive with block lock count the invalid ones: 16 within 64 lose block lock and count an event, 16 within the window
fault a lane in service. CDR_LOCK follows the receiver outside OFF, FAULT and FAILED, and its loss counts too. Losing a lock
is in ACTIVE or STANDBY a fault: STATE FAULT, its bit, one more retrain, record 0x20, the event LANE_CHANGE, and what the
link does without the lane; in PEER_WAIT it is a new sweep, elsewhere nothing more. After the fault time a lane sweeps again
with SWEEP_LIM 2. INJ_ONE is kept in TEST and ACTIVE alone. In TEST the generator goes on while GEN_EN is 1, and the checker
takes the received bits, or the lane's own under LOOP 1, and shows its lock and polarity and counts the wrong bits while
CHK_EN is 1. (Rests on R215, R218, R219, R222, R223, R227, R228, R229.) -/
def Obligations.LanesInService : Prop :=
  ∀ (l : Fin 160) (s : State),
    let v := s.lane l
    (∀ (inv : Bool) (h : List (BitVec 2)),
      (takesGroups (s.laneState l) = true → s.on (laneStat l 9 9) = false → 64 ≤ h.length → (h.drop (h.length - 64)).all headValid = true →
        exec (.blockLockAcquire l inv h) s = .next ((s.set1 (laneStat l 9 9)).put (laneStat l 10 10) (ofBool inv)))
      ∧ (takesGroups (s.laneState l) = false ∨ s.on (laneStat l 9 9) = true ∨ h.length < 64 ∨ (h.drop (h.length - 64)).all headValid = false →
        exec (.blockLockAcquire l inv h) s = .next s))
    ∧ (∀ (w : Bool) (h : List (BitVec 2)),
      (takesGroups (s.laneState l) = false ∨ s.on (laneStat l 9 9) = false → exec (.blockLockLoss l w h) s = .next s)
      ∧ (takesGroups (s.laneState l) = true → s.on (laneStat l 9 9) = true →
        let bad := h.countP (fun x => !headValid x)
        let a := s.sat (laneSyncErr l) bad
        let serving := s.laneState l = lActive ∨ s.laneState l = lStandby
        (lockGone h = true → exec (.blockLockLoss l w h) s = .next (((a.clr (laneStat l 9 9)).sat (laneEvt l 15 0) 1).lostService l 18 1))
        ∧ (lockGone h = false → w = true → 16 ≤ bad → serving → exec (.blockLockLoss l w h) s = .next (a.laneFault l 19 2))
        ∧ (lockGone h = false → ¬ (w = true ∧ 16 ≤ bad ∧ serving) → exec (.blockLockLoss l w h) s = .next a)))
    ∧ (∀ c : Bool, s.laneState l = lOff ∨ s.laneState l = lFault ∨ s.laneState l = lFailed → exec (.cdrLockChange l c) s = .next s)
    ∧ (s.laneState l ≠ lOff → s.laneState l ≠ lFault → s.laneState l ≠ lFailed →
      exec (.cdrLockChange l true) s = .next (s.set1 (laneStat l 8 8))
      ∧ (s.on (laneStat l 8 8) = true →
        exec (.cdrLockChange l false) s = .next (((s.clr (laneStat l 8 8)).sat (laneEvt l 15 0) 1).lostService l 18 1))
      ∧ (s.on (laneStat l 8 8) = false → exec (.cdrLockChange l false) s = .next s))
    ∧ (∀ b c : Nat,
      s.laneFault l b c = (((((s.put (laneStat l 3 0) lFault).set1 (laneStat l b b)).sat (laneEvt l 31 16) 1).groomRec 1 2 0x20
          (argOf (laneClass l + 256 * linkNo (laneLink l)) (laneNo l + 256 * c))).postEvent 1
        ⟨0x0010, 4, packBytes [(16, 1, laneClass l), (17, 1, linkNo (laneLink l)), (18, 1, laneNo l), (19, 1, lFault)]⟩).laneLeft l
          (s.laneState l)
      ∧ (s.laneState l = lActive ∨ s.laneState l = lStandby → s.lostService l b c = s.laneFault l b c)
      ∧ (s.laneState l = lPeerWait → s.lostService l b c = s.freshSweep l)
      ∧ (s.laneState l ≠ lActive → s.laneState l ≠ lStandby → s.laneState l ≠ lPeerWait → s.lostService l b c = s))
    ∧ (s.laneState l = lFault → exec (.faultTimeout l) s = .next ((s.put (laneCtl l 15 12) 2).freshSweep l))
    ∧ (s.laneState l ≠ lFault → exec (.faultTimeout l) s = .next s)
    ∧ (s.laneState l = lTest ∨ s.laneState l = lActive → exec (.injOne l) s = .next (s.setLane l { v with flip := true }))
    ∧ (s.laneState l ≠ lTest → s.laneState l ≠ lActive → exec (.injOne l) s = .next s)
    ∧ ∀ bs : List Bool,
      (s.laneState l ≠ lTest → exec (.prbsLockChange l bs) s = .next s)
      ∧ (s.laneState l = lTest →
        let poly := s.get (lanePrbs l 3 2)
        let g := prbsBits poly bs.length v.gen
        let own := if s.on (lanePrbs l 0 0) then injected v.flip (s.get (lanePrbs l 9 5)) v.sent g.1 else []
        let c := if s.on (lanePrbs l 1 1) then v.chk.run_ poly (if v.loop = 1 then own else bs) else (v.chk, 0)
        let a := s.setLane l { v with
          gen := if s.on (lanePrbs l 0 0) then g.2 else v.gen, sent := v.sent + own.length, flip := v.flip && own.isEmpty, chk := c.1
          out := if v.loop = 2 then bs else if v.loop = 1 then [] else own }
        (s.on (lanePrbs l 1 1) = true → exec (.prbsLockChange l bs) s = .next
          (((a.put (lanePrbs l 10 10) (ofBool c.1.locked)).put (lanePrbs l 11 11) (ofBool (c.1.locked && c.1.inv))).sat (laneErr l) c.2))
        ∧ (s.on (lanePrbs l 1 1) = false → exec (.prbsLockChange l bs) s = .next a))

/-! ### Messages and holds -/

/-- A command that handles one type of message does nothing while another, or none, is at the front. ALIGN_ID records PART, LINK
and the SYSTEM_ID of its sender, ALIGN_N0 records N0 and EPOCH; during a run start another SYSTEM_ID, N0 or EPOCH than the
chip's own refuses it with status 0x16, another PART or LINK than the expected ones with 0x17 where they are checked, and
what agrees whole sets ALIGNED. A STRIDE count that differs from the one kept sets DIVERGE, raises a hold with REASON FAULT
and leads to QUARANTINE; an equal count changes nothing more; the count of a stride still to come is kept. A HOLD of the
chip's EPOCH is adopted, one of a newer EPOCH after a release, one of an older EPOCH is ignored. A RELEASE of the chip's
EPOCH ends its hold, another does nothing. TIME messages are delivered with their stamp, a SYNC answered by a DREQ, FW
messages delivered. (That the DREQ follows at once, and that early counts are kept, is the model's reading: log entries.)
(Rests on R251, R252, R254, R255, R257, R260, R347.) -/
def Obligations.MessagesBetweenChips : Prop :=
  (∀ (n : Fin 16) (s : State), (∀ p, (s.link n).rxMsg.head? = some p → mTYPE p.2 ≠ 1) → exec (.alignId n) s = .next s)
  ∧ (∀ (n : Fin 16) (s : State), (∀ p, (s.link n).rxMsg.head? = some p → mTYPE p.2 ≠ 2) → exec (.alignN0 n) s = .next s)
  ∧ (∀ (n : Fin 16) (s : State), (∀ p, (s.link n).rxMsg.head? = some p → mTYPE p.2 ≠ 3) → exec (.stride n) s = .next s)
  ∧ (∀ (n : Fin 16) (s : State), (∀ p, (s.link n).rxMsg.head? = some p → mTYPE p.2 ≠ 4) → exec (.hold n) s = .next s)
  ∧ (∀ (n : Fin 16) (s : State), (∀ p, (s.link n).rxMsg.head? = some p → mTYPE p.2 ≠ 5) → exec (.release n) s = .next s)
  ∧ (∀ (n : Fin 20) (id : Byte) (s : State), (∀ p, (s.link n).rxMsg.head? = some p → mTYPE p.2 ≠ 6) → exec (.time n id) s = .next s)
  ∧ (∀ (n : Fin 20) (s : State), (∀ p, (s.link n).rxMsg.head? = some p → mTYPE p.2 ≠ 7) → exec (.fw n) s = .next s)
  ∧ (∀ (n : Fin 16) (s : State) (at_ : Nat) (m : Flit), (s.link n).rxMsg.head? = some (at_, m) →
    let d := s.msgDone n
    let k := s.link n
    let fld hi lo := bits m.toNat hi lo
    (mTYPE m = 1 → exec (.alignId n) s = .next
      ((((d.put (Reg.LD_LINK_STAT_PEER_PART n) (fld 87 80)).put (Reg.LD_LINK_STAT_PEER_LINK n) (fld 91 88)).onLink n
        (fun k => { k with sysId := some (BitVec.ofNat 64 (fld 79 16)) })).checkAlign n))
    ∧ (mTYPE m = 2 → exec (.alignN0 n) s = .next
      ((d.onLink n (fun k => { k with peerN0 := some (BitVec.ofNat 64 (fld 79 16), fld 95 80) })).checkAlign n))
    ∧ (mTYPE m = 3 → (∀ p, k.strides.find? (fun p => p.1 == fld 79 16) = some p → exec (.stride n) s = .next
          (if p.2 = fld 111 80 then d else ((d.set1 (linkErr n 13)).requestHold rFault).enterQuarantine qDiverge (n + 16 * bits m.toNat 43 16)))
      ∧ ((∀ p ∈ k.strides, p.1 < fld 79 16) →
          exec (.stride n) s = .next (d.onLink n (fun k => { k with early := k.early ++ [(fld 79 16, fld 111 80)] })))
      ∧ (k.strides.find? (fun p => p.1 == fld 79 16) = none → (∃ p ∈ k.strides, fld 79 16 ≤ p.1) → exec (.stride n) s = .next d))
    ∧ (mTYPE m = 4 → s.epoch < 2 ^ 16 →
      (fld 95 80 = s.epoch → exec (.hold n) s = .next ((d.adoptHold (fld 79 16) (fld 107 104) (fld 103 96) d.usedLinks).unrest))
      ∧ (0 < (fld 95 80 + 2 ^ 16 - s.epoch) % 2 ^ 16 → (fld 95 80 + 2 ^ 16 - s.epoch) % 2 ^ 16 < 2 ^ 15 →
          let u := d.release.leaveRest
          exec (.hold n) s = .next ((u.adoptHold (fld 79 16) (fld 107 104) (fld 103 96) u.usedLinks).unrest))
      ∧ (2 ^ 15 ≤ (fld 95 80 + 2 ^ 16 - s.epoch) % 2 ^ 16 → exec (.hold n) s = .next d))
    ∧ (mTYPE m = 5 → (fld 95 80 = s.epoch → s.held = true → exec (.release n) s = .next d.release.leaveRest)
      ∧ (fld 95 80 ≠ s.epoch ∨ s.held = false → exec (.release n) s = .next d)))
  ∧ (∀ (n : Fin 16) (u : State),
    let k := u.link n
    (k.aligning = false ∨ u.chip.image = none ∨ u.chip.n0 = none → u.checkAlign n = u)
    ∧ (k.aligning = true → ∀ (i : Image) (n0 : Nat), u.chip.image = some i → u.chip.n0 = some n0 →
      let wrong := u.on (Reg.LD_LINK_CTL_PEER_CHK n) = true ∧
        (u.get (Reg.LD_LINK_STAT_PEER_PART n) ≠ u.get (Reg.LD_LINK_CTL_PEER_PART_EXP n)
          ∨ u.get (Reg.LD_LINK_STAT_PEER_LINK n) ≠ u.get (Reg.LD_LINK_CTL_PEER_LINK_EXP n))
      (∀ v, k.sysId = some v → v ≠ i.sys → u.checkAlign n = u.refuseAlign n 11 0x16)
      ∧ ((k.sysId = none ∨ k.sysId = some i.sys) → ∀ v, k.peerN0 = some v → v.1.toNat ≠ n0 ∨ v.2 ≠ u.epoch →
          u.checkAlign n = u.refuseAlign n 11 0x16)
      ∧ (k.sysId = some i.sys → wrong → k.peerN0 = none → u.checkAlign n = u.refuseAlign n 12 0x17)
      ∧ (k.sysId = some i.sys → ∀ v, k.peerN0 = some v → v.1.toNat = n0 → v.2 = u.epoch →
          (wrong → u.checkAlign n = u.refuseAlign n 12 0x17)
          ∧ (¬ wrong → u.checkAlign n = u.set1 (Reg.LD_LINK_STAT_ALIGNED n)))))
  ∧ ∀ (n : Fin 20) (id : Byte) (s : State) (at_ : Nat) (m : Flit), (s.link n).rxMsg.head? = some (at_, m) →
    let d := s.msgDone n
    let e := d.onLink n (fun k => { k with timeIn := k.timeIn ++ [(at_, m)] })
    (mTYPE m = 6 → exec (.time n id) s = .next (if bits m.toNat 17 16 = 0 then e.say n (timeMsgOf 2 id.toNat 0 0) else e))
    ∧ (mTYPE m = 7 → exec (.fw n) s = .next (d.onLink n (fun k => { k with fwIn := k.fwIn ++ [m] })))

/-- A write of HOLD asks for a hold at the last issued stride plus HOLD_LEAD, or at the chip's stride when none has been issued.
A hold is adopted when none is in effect or it lies later: HELD sets, AT_H clears, H shows, a decision made for H or later
but not issued is undone, and HOLD goes out on every used link; for a stride already issued H is the next one and RAISED
counts. A hold at H or earlier changes nothing. When every Team waits at the boundary into H, AT_H sets, the event HOLD_AT is
queued, the chip stands in STEP at rest with AT_REST 1, and a RUN_STOP or STEP_STRIDES that waits for it responds. A write of
RELEASE ends a hold: HELD and AT_H clear, EPOCH rises modulo 2^16 and RELEASE goes out with the old EPOCH; without a hold it
does nothing. (Rests on R255, R256, R257, R262, R401.) -/
def Obligations.HoldsAreRequestedAndReached : Prop :=
  ∀ s : State,
    exec .holdRequest s = .next (s.adoptHold
      (if s.ds.anyIssued then s.ds.issued + s.get Reg.LD_HOLD_CTL_HOLD_LEAD else s.stride) (s.get Reg.LD_HOLD_CTL_REASON) s.part s.usedLinks)
    ∧ (∀ (h r p : Nat) (via : List Nat),
      let late := h ≤ s.ds.issued ∧ s.ds.anyIssued = true
      let hh := if late then s.ds.issued + 1 else h
      (s.held = true → hh ≤ s.holdH → s.adoptHold h r p via = s)
      ∧ (s.held = false ∨ s.holdH < hh → s.adoptHold h r p via
        = ({ ((((if late then s.sat Reg.LD_HOLD_RAISED_COUNT 1 else s).set1 Reg.LD_HOLD_STAT_HELD).clr Reg.LD_HOLD_STAT_AT_H).putPair
            Adr.LD_HOLD_H_LO Adr.LD_HOLD_H_HI hh) with
          chip := { s.chip with holdReason := r, holdPart := p } } : State).undecide.sayAll via (msgHold hh s.epoch p r)))
    ∧ (s.ds.choice = none ∨ s.ds.prior = none ∨ s.held = false → s.undecide = s)
    ∧ (∀ (w : BitVec 24) (k : Nat) (p : Prior), s.ds.choice = some (w, k) → s.ds.prior = some p →
      (k < s.holdH → s.undecide = s)
      ∧ (s.held = true → s.holdH ≤ k → s.undecide.ds = { s.ds with
          choice := none, prior := none, wanted := some k, delay := p.delay, decided := p.decided }
        ∧ s.undecide = { s with regs := s.undecide.regs, ds := s.undecide.ds }))
    ∧ (s.held = true → exec .releaseRequest s = .next
      ((((s.clr Reg.LD_HOLD_STAT_HELD).clr Reg.LD_HOLD_STAT_AT_H).put Reg.LD_HOLD_STAT_EPOCH (s.epoch + 1)).sayAll s.usedLinks
        (msgRelease s.epoch)))
    ∧ (s.held = false → exec .releaseRequest s = .next s)
    ∧ (let reached := s.held = true ∧ s.on Reg.LD_HOLD_STAT_AT_H = false ∧ s.strideMode = true ∧ s.chip.haltBkp = false
          ∧ s.chip.haltChk = false ∧ s.runTeams ≠ [] ∧ s.allAtH = true
       let a := ((s.set1 Reg.LD_HOLD_STAT_AT_H).postEvent 3
          ⟨0x000C, 10, packBytes [(16, 8, s.holdH), (24, 1, s.chip.holdReason), (25, 1, s.chip.holdPart)]⟩).enterRest
       (¬ reached → exec .atHReached s = .next s)
       ∧ (reached → a.longDesc 0x0302 = none → a.longDesc 0x0304 = none → exec .atHReached s = .next a)
       ∧ (reached → a.longDesc 0x0302 ≠ none ∨ a.longDesc 0x0304 ≠ none → exec .atHReached s = .next (a.endLong (okWith 8 s.holdH))))
    ∧ s.enterRest = (((s.runTeams.foldl State.rmwWrite s).put Reg.CHIP_CLK_STAT_SDIV (s.divOf mStep)).set1 Reg.CHIP_MODE_AT_REST).setMode mStep

/-! ### Frames and GDDR6 -/

/-- A link that is not UP sends and takes no frame. At a frame start of one that is UP, a frame that the partner asked for again,
or the oldest of 64 unacknowledged ones (with its flag), leaves again and counts in REPLAY; otherwise a new frame leaves with
the next FSEQ and is kept. Of a frame that arrives, the valid header blocks that agree are heard, with HDR_ERR for the others
and ILL_BLOCK for an illegal block; an elastic link's buffers follow. The frame held before is accepted when the next header
tells its FCRC, and fails with the CRC flag when not. The frame that arrives is held when it is in order; out of order it
fails with a flag, with an illegal block or a slipped buffer with theirs, and without a valid header block of position 0 with
none, unless the link is discarding. The eighth failure in a row sets LINK_PERSIST and requests record 0x23. A width change
waits for enough working lanes and takes the lowest. (Rests on R225, R234, R238, R239, R240, R244, R245, R246, R248.) -/
def Obligations.FramesAreHeldAcceptedAndSentAgain : Prop :=
  (∀ (n : Fin 20) (s : State) (m : Moment) (ex st : Nat) (f : RxFrame), s.isUp n = false →
      exec (.frameTransmit n m ex st) s = .next s ∧ exec (.frameReceive n f m) s = .next s)
  ∧ (∀ (n : Fin 20) (s : State) (m : Moment) (ex st : Nat), s.isUp n = true →
    let a := (s.expireForward n ex).expireSend n st
    let k := a.link n
    (∀ q : Nat, k.resend = some q ∨ (k.resend = none ∧ 64 ≤ k.kept.length ∧ k.kept.head?.map (·.fseq) = some q) →
      (∀ (i : Nat) (f : LFrame), k.kept.findIdx? (fun f => f.fseq == q) = some i → k.kept[i]? = some f →
        exec (.frameTransmit n m ex st) s = .next
          ((((a.setLink n { k with resend := (k.kept[i + 1]?).map (·.fseq) }).set1If k.resend.isNone (linkErr n 14)).sat
            (linkReplay n 31 16) 1).sendFrame n f m))
      ∧ (k.kept.findIdx? (fun f => f.fseq == q) = none →
          exec (.frameTransmit n m ex st) s = .next (a.setLink n { k with resend := none })))
    ∧ (k.resend = none → k.kept.length < 64 →
      let p := (a.alignMsgs n).fillFrame n (a.frameCells n) [] none
      exec (.frameTransmit n m ex st) s = .next ((p.1.onLink n (fun k' => { k' with
        fseq := (k'.fseq + 1) % 256, kept := k'.kept ++ [⟨k.fseq, p.2.1⟩] })).sendFrame n ⟨k.fseq, p.2.1⟩ m)))
  ∧ (∀ (n : Fin 20) (s : State) (m : Moment) (f : RxFrame), s.isUp n = true →
    let good := goodHeads (headersOf f)
    let a := ((s.set1If (decide (good.length < (headersOf f).length)) (linkErr n 1)).set1If (illegalFrame f n) (linkErr n 3)).fillIn n
      (!f.filler.isEmpty) f.drift
    let b := good.foldl (fun u h => u.headIn n h) (a.headLanes n f)
    let c := match good with | h :: _ => b.subReqIn n h | [] => b
    exec (.frameReceive n f m) s = .next (c.frameIn n (good.find? (fun h => hLPOS h == 0))
      (if illegalFrame f n then some 3 else if s.slipIn n f.drift then some 0 else none) (pairUp f.content) (stampUnits (s.linkStamp n m))))
  ∧ (∀ (n at_ : Nat) (s : State) (ill : Option Nat) (cells : List (BitVec 128)),
    let k := s.link n
    (k.rxFail = true → s.frameIn n none ill cells at_ = s)
    ∧ (k.rxFail = false → s.frameIn n none ill cells at_ = s.failFrame n none)
    ∧ ∀ h : W64,
      (∀ g : LFrame, k.rxHeld = some g → frameCrc g.cells ≠ BitVec.ofNat 32 (hINFO h) →
        s.frameIn n (some h) ill cells at_ = s.failFrame n (some 0))
      ∧ ((∀ g : LFrame, k.rxHeld = some g → frameCrc g.cells = BitVec.ofNat 32 (hINFO h)) →
        let a := match k.rxHeld with | some g => s.acceptFrame n g | none => s
        (hFSEQ h = ((a.link n).rxLast + 1) % 256 → ill = none → s.frameIn n (some h) ill cells at_
          = a.setLink n { a.link n with rxHeld := some ⟨hFSEQ h, cells⟩, heldAt := at_, rxFail := false })
        ∧ (hFSEQ h = ((a.link n).rxLast + 1) % 256 → ill ≠ none → s.frameIn n (some h) ill cells at_ = a.failFrame n ill)
        ∧ (hFSEQ h ≠ ((a.link n).rxLast + 1) % 256 → (a.link n).rxFail = true → s.frameIn n (some h) ill cells at_ = a)
        ∧ (hFSEQ h ≠ ((a.link n).rxLast + 1) % 256 → (a.link n).rxFail = false → s.frameIn n (some h) ill cells at_ = a.failFrame n (some 2))))
  ∧ (∀ (n : Nat) (s : State) (b : Option Nat),
    let k := s.link n
    let a := ((match b with | some b => s.set1 (linkErr n b) | none => s).setLink n { k with
      rxHeld := none, rxFail := true, rxFails := k.rxFails + 1 }).sat (linkReplay n 15 0) 1
    s.failFrame n b = if k.rxFails + 1 = 8 then
      (a.set1 (linkErr n 8)).groomRec 1 3 0x23 (argOf (linkClass n + 256 * linkNo n) ((k.rxLast + 1) % 256)) else a)
  ∧ ∀ (e : Fin 4) (s : State),
    ((s.link (16 + e)).want = none → exec (.widthChange e) s = .next s)
    ∧ (∀ c, (s.link (16 + e)).want = some c →
      let lanes := s.lanesIn (16 + e) (if (s.link (16 + e)).wantFw then [lActive, lStandby] else [lActive])
      let use := lanes.take (widthLanes c)
      (use.length ≠ widthLanes c → exec (.widthChange e) s = .next s)
      ∧ (use.length = widthLanes c → exec (.widthChange e) s = .next
        ((((use.foldl State.activate (s.onLink (16 + e) (fun k => { k.recut c with want := none, wantFw := false }))).put
          (Reg.EL_LINK_STAT_WIDTH e) c).put (Reg.EL_LINK_STAT_LANES e) (use.foldl (fun m l => m + 2 ^ laneNo l) 0)).setLinkState
          (16 + e) (if c = 0 then 1 else 2))))

/-- In FAILED the oldest scheduled request is answered DATA_ERROR, a write dropped. Aimed at another gateway it sets GW_MISMATCH,
and a read is answered BAD_ADDRESS. Else it waits while the channel serves nothing, a forced refresh is due, an earlier
access to its burst waits, or a dynamic burst goes first. Inside a window that admits scheduled traffic it is issued: a write
stores four bytes, a read takes four bytes into flight; elsewhere OUT_OF_REGION sets and a read is answered BAD_ADDRESS. The
oldest response leaves for the torus. When the oldest burst in flight is checked, 1 to 4 mismatches count once in CRC_REPLAY,
and five are the failure of R285 with the written burst's bytes undefined; then a scheduled read is answered, and a dynamic
request once its last burst is done. A window of 4,096 bursts that ended only ends, or latches the bank that took more than
1,024, with the record and the event once a minute. (Rests on R268, R275, R277, R279, R280, R282, R283, R285, R287, R294.) -/
def Obligations.ScheduledRequestsAreServed : Prop :=
  ∀ (c : Fin 16) (s : State),
    let v := s.chan c
    (∀ cs : Bool, v.sq = [] → exec (.gwRequestServe c cs) s = .next s)
    ∧ (∀ (cs : Bool) (q : Nat) (f : Flit) (rest : List (Nat × Flit)), v.sq = (q, f) :: rest →
      let w := bits f.toNat 71 24
      let s1 := (s.setChan c { v with sq := rest }).sqCount c
      let barred := s.chanState c ≠ gReady ∨ v.pausing = true ∨ v.force = true ∨ s.behind c q (4 * w) = true
        ∨ ((s.dynPick c cs).isSome = true ∧ s.get (Reg.GW_CTL_DYN_MIN c) ≤ v.consec)
      let here := s.chanState c ≠ gFailed ∧ bits f.toNat 77 74 = c
      (s.chanState c = gFailed → (bit f.toNat 72 = true → exec (.gwRequestServe c cs) s = .next s1)
        ∧ (bit f.toNat 72 = false → exec (.gwRequestServe c cs) s = .next (s1.gwAnswer c f 5 0)))
      ∧ (s.chanState c ≠ gFailed → bits f.toNat 77 74 ≠ c →
        (bit f.toNat 72 = true → exec (.gwRequestServe c cs) s = .next (s1.set1 (Reg.GW_ERR_GW_MISMATCH c)))
        ∧ (bit f.toNat 72 = false → exec (.gwRequestServe c cs) s = .next ((s1.set1 (Reg.GW_ERR_GW_MISMATCH c)).gwAnswer c f 4 0)))
      ∧ (here → barred → exec (.gwRequestServe c cs) s = .next s)
      ∧ (here → ¬ barred → w < 2 ^ 30 → 4 * w + 4 ≤ s.capacity c →
        ∀ k, s.window c (4 * w) 4 = some k → s.on (Reg.GW_WIN_SCHED c k) = true →
        (bit f.toNat 72 = true → exec (.gwRequestServe c cs) s = .next
          (((s1.countBurst c (4 * w) true).setMemBytes (dAddr c (4 * w)) (leBytes 4 (bits f.toNat 23 0))).onChan c
            (fun v => { v with flight := v.flight ++ [⟨4 * w, 4, true, [], some f, none⟩] })))
        ∧ (bit f.toNat 72 = false → exec (.gwRequestServe c cs) s = .next
          ((s1.countBurst c (4 * w) true).onChan c (fun v => { v with
            flight := v.flight ++ [⟨4 * w, 4, false, s.memBytes (dAddr c (4 * w)) 4, some f, none⟩] }))))
      ∧ (here → ¬ barred → 2 ^ 30 ≤ w ∨ s.capacity c < 4 * w + 4 ∨ s.window c (4 * w) 4 = none
          ∨ (∃ k, s.window c (4 * w) 4 = some k ∧ s.on (Reg.GW_WIN_SCHED c k) = false) →
        (bit f.toNat 72 = true → exec (.gwRequestServe c cs) s = .next (s1.set1 (Reg.GW_ERR_OUT_OF_REGION c)))
        ∧ (bit f.toNat 72 = false → exec (.gwRequestServe c cs) s = .next ((s1.set1 (Reg.GW_ERR_OUT_OF_REGION c)).gwAnswer c f 4 0))))
    ∧ (∀ p rest, s.armed 3 c = true → v.rsp = p :: rest →
        exec (.gwRspSend c) s = .next ((s.onChan c (fun v => { v with rsp := rest })).waitAt c p))
    ∧ (s.armed 3 c = false ∨ v.rsp = [] → exec (.gwRspSend c) s = .next s)
    ∧ (∀ n last, v.flight = [] → exec (.burstCrcCheck c n last) s = .next s)
    ∧ (∀ b rest n last, v.flight = b :: rest →
      let a := s.setChan c { v with flight := rest }
      let a1 := if 0 < n ∧ n ≤ 4 then a.sat (Reg.GD_CH_ERRCNT_CRC_REPLAY c) 1 else if 5 ≤ n then a.crcFail c b.addr else a
      let a2 := if 5 ≤ n ∧ b.write = true then (a1.setMemBytes (dAddr c (b.addr / 32 * 32)) (freeBytes a1.free 32)).spendN 32 else a1
      (∀ f, b.sched = some f →
        (b.write = true → exec (.burstCrcCheck c n last) s = .next a2)
        ∧ (b.write = false → n ≤ 4 → exec (.burstCrcCheck c n last) s = .next (a2.gwAnswer c f 0 (ofLeBytes b.got % 2 ^ 24)))
        ∧ (b.write = false → 5 ≤ n → exec (.burstCrcCheck c n last) s = .next (a2.gwAnswer c f 5 (ofLeBytes last % 2 ^ 24))))
      ∧ (b.sched = none → b.dyn = none → exec (.burstCrcCheck c n last) s = .next a2)
      ∧ (∀ q, b.sched = none → b.dyn = some q → n ≤ 4 → exec (.burstCrcCheck c n last) s
          = .next (if q.left = 0 then a2.dynAnswer c q q.bad else a2))
      ∧ (∀ q, b.sched = none → b.dyn = some q → 5 ≤ n →
        let q1 := if q.write then q else { q with got := q.got.take (q.got.length - b.len) ++ (last ++ b.got).take b.len }
        (q.left = 0 → exec (.burstCrcCheck c n last) s = .next (a2.dynAnswer c q1 true))
        ∧ (q.left ≠ 0 → a2.isCopy q = true → exec (.burstCrcCheck c n last) s
          = .next ((a2.onChan c (fun v => { v with dyn := v.dyn.filter (fun r => r.seq != q.seq) })).dynAnswer c
            { q1 with got := q1.got.take (q1.got.length - b.len) } true))
        ∧ (q.left ≠ 0 → a2.isCopy q = false → exec (.burstCrcCheck c n last) s = .next (a2.markBad c q.seq q1))))
    ∧ (v.closed = [] → exec (.hotWindow c) s = .next s)
    ∧ (∀ rest, v.closed = none :: rest → exec (.hotWindow c) s = .next (s.setChan c { v with closed := rest }))
    ∧ (∀ b rest, v.closed = some b :: rest →
      let a := ((s.setChan c { v with closed := rest }).sat (Reg.GD_HOT_HOT_WIN c) 1).put (Reg.GD_HOT_HOT_BANK c) b
      exec (.hotWindow c) s = .next (if s.hotRecord = true then a else
        ((({ a with hotRecord := true } : State).groomRec 2 0 0x32 (argOf (c + 256 * b) (a.get (Reg.GD_HOT_HOT_WIN c) % 65536))).postEvent 2
          ⟨0x0022, 2, packBytes [(16, 1, c), (17, 1, b)]⟩)))

/-- A READY channel whose turn it is, with no scheduled request, a blocked bank, rule 3 or DYN_MIN, issues the next burst of the
dynamic request that the rules of R282 pick: up to the end of its 32-byte burst, a write storing its bytes, a read taking
them; a staged capture burst outside every window sets OUT_OF_REGION instead. Else nothing happens. The oldest dynamic
request not yet aged ages. A refresh interval that ends owes one more refresh to the next bank in turn; when DEBT reaches 8 a
qualifying bank takes one, or the next is forced. REFpb goes to the qualifying bank owed longest, a forced one to the bank
owed longest, counting in FORCED; with none qualifying it waits. A parity alert of a channel that checks parity counts in
CA_REPLAY once its replay ends, and the fourth in a row fails the channel: CA_FAIL and FAILED. (Rests on R282, R283, R284,
R286, R287, R291, R294, R303.) -/
def Obligations.DynamicTrafficAndRefresh : Prop :=
  ∀ (c : Fin 16) (s : State),
    let v := s.chan c
    let ready := s.chanState c = gReady ∨ s.chanState c = gPaused
    (∀ bl cap : Bool,
      let turn := s.chanState c = gReady ∧ v.pausing = false ∧ v.force = false ∧
        (v.sq = [] ∨ bl = true ∨ s.schedBehind c = true ∨ s.get (Reg.GW_CTL_DYN_MIN c) ≤ v.consec)
      (¬ turn ∨ s.dynPick c cap = none → exec (.dynamicBurst c bl cap) s = .next s)
      ∧ (turn → ∀ q : DynReq, s.dynPick c cap = some q →
        let n := min q.left (32 - q.addr % 32)
        let q1 := { q with
          addr := q.addr + n, left := q.left - n, data := q.data.drop n
          got := if q.write then [] else q.got ++ s.memBytes (dAddr c q.addr) n }
        let a := s.dynPut c q q1
        let b := a.onChan c (fun v => { v with flight := v.flight ++ [⟨q.addr, n, q.write, [], none, some q1⟩] })
        (q ∉ v.dyn → s.window c q.addr n = none → exec (.dynamicBurst c bl cap) s = .next (a.set1 (Reg.GW_ERR_OUT_OF_REGION c)).capSettle)
        ∧ (q ∈ v.dyn ∨ s.window c q.addr n ≠ none → exec (.dynamicBurst c bl cap) s = .next
            ((if q.write then b.setMemBytes (dAddr c q.addr) (q.data.take n) else b).countBurst c q.addr false).capSettle)))
    ∧ (oldest ((s.waiting c).filter (fun q => !q.aged)) = none → exec (.dynamicRequestAged c) s = .next s)
    ∧ (∀ q, oldest ((s.waiting c).filter (fun q => !q.aged)) = some q →
        exec (.dynamicRequestAged c) s = .next (s.dynPut c q { q with aged := true }))
    ∧ (∀ q q1 : DynReq,
      (q ∈ v.dyn → s.dynPut c q q1 = s.setChan c { v with
        dyn := if q1.left = 0 then v.dyn.erase q else v.dyn.map (fun r => if r = q then q1 else r) })
      ∧ (let left := if q1.left = 0 then s.cap.staging.erase (c.val, q)
          else s.cap.staging.map (fun b => if b = (c.val, q) then (c.val, q1) else b)
        q ∉ v.dyn → s.dynPut c q q1 = { s with cap := { s.cap with staging := left } }))
    ∧ (¬ ready ∨ 8 ≤ v.owed.length → exec (.refreshDue c) s = .next s)
    ∧ (let a := (s.setChan c { v with owed := v.owed ++ [v.nextBank], nextBank := (v.nextBank + 1) % 16 }).put (Reg.GD_REF_DEBT c)
          (v.owed.length + 1)
      (ready → v.owed.length < 7 → exec (.refreshDue c) s = .next a)
      ∧ (ready → v.owed.length = 7 → ∀ i, (a.chan c).owed.findIdx? (fun b => a.qualifies c b) = some i →
          exec (.refreshDue c) s = .next (a.refreshAt c i))
      ∧ (ready → v.owed.length = 7 → (a.chan c).owed.findIdx? (fun b => a.qualifies c b) = none →
          exec (.refreshDue c) s = .next (a.onChan c (fun v => { v with force := true }))))
    ∧ (∀ i b, v.owed[i]? = some b → s.refreshAt c i = (s.setChan c { v with
        owed := v.owed.eraseIdx i, rows := upd v.rows b none, force := false }).put (Reg.GD_REF_DEBT c) (v.owed.length - 1))
    ∧ (¬ ready → exec (.refpbIssue c) s = .next s)
    ∧ (ready → v.force = true → exec (.refpbIssue c) s = .next ((s.refreshAt c 0).sat (Reg.GD_REF_FORCED c) 1))
    ∧ (ready → v.force = false → ∀ i, v.owed.findIdx? (fun b => s.qualifies c b) = some i →
        exec (.refpbIssue c) s = .next (s.refreshAt c i))
    ∧ (v.force = false → v.owed.findIdx? (fun b => s.qualifies c b) = none → exec (.refpbIssue c) s = .next s)
    ∧ (∀ again : Bool,
      (¬ ready ∨ s.on (Reg.GD_CH_CTL_PARITY_EN c) = false → exec (.caParityAlert c again) s = .next s)
      ∧ (ready → s.on (Reg.GD_CH_CTL_PARITY_EN c) = true → 3 ≤ v.alerts → exec (.caParityAlert c again) s = .next
        (((s.setChan c { v with alerts := 0 }).set1 (Reg.GD_CH_STAT_CA_FAIL c)).chanFail c))
      ∧ (ready → s.on (Reg.GD_CH_CTL_PARITY_EN c) = true → v.alerts < 3 → again = true →
          exec (.caParityAlert c again) s = .next (s.setChan c { v with alerts := v.alerts + 1 }))
      ∧ (ready → s.on (Reg.GD_CH_CTL_PARITY_EN c) = true → v.alerts < 3 → again = false → exec (.caParityAlert c again) s = .next
        ((s.setChan c { v with alerts := 0 }).sat (Reg.GD_CH_ERRCNT_CA_REPLAY c) 1)))

/-- Every write of GD_TRN_CTL stores OP; an OP of 1 to 4 runs a step in TRAIN or PAUSED, whose end sets DONE and PASS; without a
step running nothing ends. A delay write takes effect in OFF, TRAIN and PAUSED, elsewhere DLY_LOCKED sets; a GD_DLY_n that
does not exist takes nothing. PAUSE set while strides run waits for the boundary; else it takes effect at once; set again it
does nothing. It takes effect in READY alone: the channel issues no more, and once its bursts are done it is PAUSED;
elsewhere PAUSE clears. Clearing PAUSE ends the pause, a PAUSED channel returning to READY, with PAUSE_LATE in the cycle of
the expiry; 40 us of pause end it with PAUSE_TMO; with PAUSE clear neither does anything. SREF moves a READY channel into
self refresh and out of it; in the other states only the bit changes. (Rests on R288, R289, R291, R292, R295.) -/
def Obligations.TrainingPausesAndSelfRefresh : Prop :=
  ∀ (c : Fin 16) (s : State),
    let v := s.chan c
    let ends := ((s.clr (Reg.GD_CH_CTL_PAUSE c)).onChan c (fun v => { v with pausing := false, pauseDue := false, trainOp := 0 }))
    let resumed := if s.chanState c = gPaused then ends.put (Reg.GD_CH_STAT_STATE c) gReady else ends
    let free := s.chanState c = gOff ∨ s.chanState c = gTrain ∨ s.chanState c = gPaused
    (∀ op : Fin 8,
      let runs := (s.chanState c = gTrain ∨ s.chanState c = gPaused) ∧ 1 ≤ op.val ∧ op.val ≤ 4
      (runs → exec (.trainOp c op) s = .next
        (((s.put (Reg.GD_TRN_CTL_OP c) op).clr (Reg.GD_TRN_RES_DONE c)).onChan c (fun v => { v with trainOp := op })))
      ∧ (¬ runs → exec (.trainOp c op) s = .next (s.put (Reg.GD_TRN_CTL_OP c) op)))
    ∧ (∀ pass, exec (.trainOpDone c pass) s = .next (if v.trainOp = 0 then s else
        (((s.put (Reg.GD_TRN_RES_PASS c) pass).set1 (Reg.GD_TRN_RES_DONE c)).onChan c (fun v => { v with trainOp := 0 }))))
    ∧ (∀ (n : Fin 128) (b : Byte),
      (dlyExists n = false → exec (.gdDlyWrite c n b) s = .next s)
      ∧ (dlyExists n = true → free → exec (.gdDlyWrite c n b) s = .next (s.put (Reg.GD_DLY_DELAY c n) b.toNat))
      ∧ (dlyExists n = true → ¬ free → exec (.gdDlyWrite c n b) s = .next (s.set1 (Reg.GD_CH_STAT_DLY_LOCKED c))))
    ∧ (s.on (Reg.GD_CH_CTL_PAUSE c) = true → exec (.pauseWrite c) s = .next s)
    ∧ (s.on (Reg.GD_CH_CTL_PAUSE c) = false → s.stridesRun = true → exec (.pauseWrite c) s = .next
        ((s.set1 (Reg.GD_CH_CTL_PAUSE c)).onChan c (fun v => { v with pauseDue := true })))
    ∧ (s.on (Reg.GD_CH_CTL_PAUSE c) = false → s.stridesRun = false → exec (.pauseWrite c) s = .next
        ((s.set1 (Reg.GD_CH_CTL_PAUSE c)).pauseEffect c))
    ∧ (∀ a : State,
      (a.chanState c = gReady → a.pauseEffect c = a.setChan c { a.chan c with pauseDue := false, pausing := true })
      ∧ (a.chanState c ≠ gReady → a.pauseEffect c = (a.setChan c { a.chan c with pauseDue := false }).clr (Reg.GD_CH_CTL_PAUSE c)))
    ∧ exec (.pauseTakeEffect c) s = .next (if v.pauseDue then s.pauseEffect c else s)
    ∧ (v.pausing = true → v.flight = [] → exec (.pauseReady c) s = .next
        ((s.setChan c { v with pausing := false, rows := [] }).put (Reg.GD_CH_STAT_STATE c) gPaused))
    ∧ (v.pausing = false ∨ v.flight ≠ [] → exec (.pauseReady c) s = .next s)
    ∧ (∀ late, exec (.pauseClear c late) s = .next (if s.on (Reg.GD_CH_CTL_PAUSE c) then
        (if late then resumed.set1 (Reg.GD_CH_STAT_PAUSE_LATE c) else resumed) else s))
    ∧ (s.on (Reg.GD_CH_CTL_PAUSE c) = true → v.pauseDue = false → exec (.pauseTimeout c) s = .next
        (resumed.set1 (Reg.GD_CH_STAT_PAUSE_TMO c)))
    ∧ (s.on (Reg.GD_CH_CTL_PAUSE c) = false ∨ v.pauseDue = true → exec (.pauseTimeout c) s = .next s)
    ∧ (s.chanState c = gReady → exec (.srefWrite c true) s = .next
        ((((s.put (Reg.GD_CH_CTL_SREF c) 1).put (Reg.GD_CH_STAT_STATE c) gSref).put (Reg.GD_REF_DEBT c) 0).onChan c (fun k => { k with
          rows := [], owed := [], force := false })))
    ∧ (s.chanState c ≠ gReady → exec (.srefWrite c true) s = .next (s.put (Reg.GD_CH_CTL_SREF c) 1))
    ∧ (s.chanState c = gSref → exec (.srefWrite c false) s = .next
        ((s.put (Reg.GD_CH_CTL_SREF c) 0).put (Reg.GD_CH_STAT_STATE c) gReady))
    ∧ (s.chanState c ≠ gSref → exec (.srefWrite c false) s = .next (s.put (Reg.GD_CH_CTL_SREF c) 0))

/-! ### The Hitch fabric -/

/-- Setting HITCH_GO starts the flip-flops at FF_INIT with undefined RAM, releases the banks whose supply is within 10 % of VOLT,
the others setting BANK_VFAULT, and lets the wires settle; clearing it holds the flip-flops, empties every port and takes
HPO, HP_STRIDE and the toggles to 0; a write that changes nothing does nothing. QSTOP and a supply that changes act on the
banks. With HITCH_GO 0 no port moves. With HITCH_GO 1: the HPO wires take a ready output set and the output toggle changes;
HP_LOAD copies the HPI sinks; the token port takes a token while fewer than 16 wait; a receive stream port gives its head
cell to the fabric; a transmit port takes a cell for an UP link while fewer than 32 wait, counts one with NB 14 or 15 in
TX_BAD, and one for a link that is not UP in TX_DROP. (Rests on R325, R326, R327, R328, R331, R334, R336, R549.) -/
def Obligations.HitchPortsMoveData : Prop :=
  ∀ s : State,
    let h := s.ht
    let go := s.on Reg.HT_CTL_HITCH_GO
    (go = false → exec (.hitchGoWrite true) s = .next
      (let s1 := ({ s with ht := { h.hold with ramGen := s.free }, free := s.free + 1 } : State).set1 Reg.HT_CTL_HITCH_GO
       let bad := (List.range 8).foldl (fun n b => n + ofBool (!s.railOk b) * 2 ^ b) 0
       let s2 := (s1.put Reg.HT_STAT_BANK_VFAULT (s1.get Reg.HT_STAT_BANK_VFAULT ||| bad)).hitchBanks
       { s2 with ht := settleFabric s2.fabric false s2.ht }))
    ∧ (go = true → exec (.hitchGoWrite true) s = .next s)
    ∧ (go = true → exec (.hitchGoWrite false) s = .next
      (let s1 := ({ s with ht := { h.hold with
          o := [], ram := [], clks := [], drv := [], pinIn := [], pinOut := [], fcnt := [], fdiv := [], tree := [], trees := [], off := []
          hpi := 0, hpo := 0, hpStride := 0, outTgl := false, inTgl := false, ready := none, toks := [], rx := [], tx := [] } }
          : State).clr Reg.HT_CTL_HITCH_GO
       (((s1.each 4 (fun n s => s.put (Reg.HT_STRM_W1_RX_OCC n) 0)).put Reg.HT_TK_STAT_OCC 0).put Reg.HT_HP_STAT_LAST 0).hitchBanks))
    ∧ (go = false → exec (.hitchGoWrite false) s = .next s)
    ∧ (∀ v, exec (.qstopWrite v) s = .next (s.put Reg.HT_CTL_QSTOP (ofBool v)).hitchBanks)
    ∧ (∀ b mv, exec (.vddioHtChange b mv) s = .next ({ s with ht := { h with rail := upd h.rail b mv } } : State).hitchBanks)
    ∧ (∀ b, s.railOk b = (match s.get (Reg.HT_BANK_VOLT b) with
        | 0 => decide (10800 ≤ 10 * look h.rail b ∧ 10 * look h.rail b ≤ 13200)
        | 1 => decide (13500 ≤ 10 * look h.rail b ∧ 10 * look h.rail b ≤ 16500)
        | 2 => decide (16200 ≤ 10 * look h.rail b ∧ 10 * look h.rail b ≤ 19800)
        | _ => false))
    ∧ (let released := (List.range 8).foldl (fun n b => n + ofBool (s.on (Reg.HT_BANK_RELEASE b) && go && s.railOk b && !s.hitchStopped) * 2 ^ b) 0
      let s1 := s.put Reg.HT_STAT_RELEASED released
      s.hitchBanks = if s1.mode = mQuarantine ∧ s1.on Reg.HT_CTL_QSTOP = true then { s1 with ht := s1.ht.hold } else s1)
    ∧ (go = false ∨ h.ready = none → exec .hpoUpdate s = .next s)
    ∧ (go = true → ∀ n v, h.ready = some (n, v) → exec .hpoUpdate s = .next (({ s with ht := { h with
        hpo := v, hpStride := n % 256, outTgl := !h.outTgl, ready := none } } : State).put Reg.HT_HP_STAT_LAST n))
    ∧ (∀ v, exec (.hpLoad v) s = .next (if go then { s with ht := { h with hpi := v } } else s))
    ∧ (∀ task opnd data,
      (go = true → h.toks.length < 16 → exec (.tokenPortTake task opnd data) s = .next
        (({ s with ht := { h with toks := h.toks ++ [⟨task.toNat, opnd.toNat, data⟩] } } : State).put Reg.HT_TK_STAT_OCC
          (h.toks.length + 1)))
      ∧ (go = false ∨ 16 ≤ h.toks.length → exec (.tokenPortTake task opnd data) s = .next s))
    ∧ ∀ (n : Fin 4),
      (∀ x rest, go = true → look h.rx n = x :: rest → exec (.streamRxTake n) s = .next
        (({ s with ht := { h with rx := upd h.rx n rest } } : State).put (Reg.HT_STRM_W1_RX_OCC n) rest.length))
      ∧ (go = false ∨ look h.rx n = [] → exec (.streamRxTake n) s = .next s)
      ∧ ∀ stream nb data,
        (go = false → exec (.streamTxTake n stream nb data) s = .next s)
        ∧ (go = true → s.isUp (16 + n) = false → exec (.streamTxTake n stream nb data) s = .next (s.sat (Reg.HT_STRM_W0_TX_DROP n) 1))
        ∧ (go = true → s.isUp (16 + n) = true → 32 ≤ (look h.tx n).length → exec (.streamTxTake n stream nb data) s = .next s)
        ∧ (go = true → s.isUp (16 + n) = true → (look h.tx n).length < 32 → 14 ≤ nb.toNat →
          exec (.streamTxTake n stream nb data) s = .next (s.sat (Reg.HT_STRM_W1_TX_BAD n) 1))
        ∧ (go = true → s.isUp (16 + n) = true → (look h.tx n).length < 32 → nb.toNat < 14 →
          exec (.streamTxTake n stream nb data) s = .next
            { s with ht := { h with tx := upd h.tx n (look h.tx n ++ [⟨stream.toNat, nb.toNat, data⟩]) } })

/-- HOLD of HT_PR holds a region: its flip-flops start at FF_INIT; its end releases it with its new FF_INIT values; while HOLD is
1 another is ignored. More than one enabled driver on a long line: its drivers are disabled and counted, and the first since
VALID was cleared names the line in HT_CONT, requests record 0x1A and queues an event; else nothing happens. REARM enables
every driver. A clock tree that ends a switch follows its new source; a forced switch sets STOPPED. EXTEST takes the pins in
IDLE and QUARANTINE; in every other mode EXTEST_REFUSED sets. HT_CTL writes QSTOP and REARM. HT_CLOCK writes a divider, a
source, a division or an enable, and a value out of its range is BAD_DESCRIPTOR. HT_PARTIAL starts, and ends: abandoned or
failed transfers with HOST_DMA_ERROR, a refused record with its index and nothing applied, else the region is held, its old
records go, the new ones are applied and it is released. (Rests on R319, R321, R322, R323, R335, R337, R382, R414, R537.) -/
def Obligations.HitchRegionsClocksAndContention : Prop :=
  (∀ s : State,
    (∀ r : Fin 128, s.on Reg.HT_PR_HOLD = false → exec (.prHold r) s = .next
      (let s1 := ((s.put Reg.HT_PR_REGION r).set1 Reg.HT_PR_HOLD).set1 Reg.HT_STAT_PR_HELD
       { s1 with ht := s.ht.holdRegion r }))
    ∧ (∀ r : Fin 128, s.on Reg.HT_PR_HOLD = true → exec (.prHold r) s = .next s)
    ∧ (s.on Reg.HT_PR_HOLD = true → exec .prRelease s = .next
      (let s1 := (s.clr Reg.HT_PR_HOLD).clr Reg.HT_STAT_PR_HELD
       { s1 with ht := s.ht.holdRegion (s.get Reg.HT_PR_REGION) }))
    ∧ (s.on Reg.HT_PR_HOLD = false → exec .prRelease s = .next s)
    ∧ (∀ l : Fin 1024,
      let s1 := (({ s with ht := { s.ht with off := s.ht.off ++ [l.val] } } : State).set1 Reg.HT_STAT_CONTENTION).sat Reg.HT_CONT_COUNT 1
      let s2 := (s1.set1 Reg.HT_CONT_VALID).put Reg.HT_CONT_LINE l
      let n := s2.get Reg.HT_CONT_COUNT
      let clash := s.on Reg.HT_CTL_HITCH_GO = true ∧ 1 < (s.ht.enabled s.fabric l).length
      (¬ clash → exec (.contentionDetect l) s = .next s)
      ∧ (clash → s.on Reg.HT_CONT_VALID = true → exec (.contentionDetect l) s = .next s1)
      ∧ (clash → s.on Reg.HT_CONT_VALID = false → exec (.contentionDetect l) s = .next
          ((s2.groomRec 3 4 0x1A (argOf l n)).postEvent 3 ⟨0x000D, 4, packBytes [(16, 2, l), (18, 2, n)]⟩)))
    ∧ exec .rearm s = .next { s with ht := { s.ht with off := [] } }
    ∧ (∀ t : Fin 8,
      let now : TreeSt := { s.ht.treeOf t with sel := s.get (Reg.HT_TREE_TREE t) / 2 ^ 10 % 2 }
      let a : State := { s with ht := { s.ht.setTree t now with trees := upd s.ht.trees t 0 } }
      exec (.treeSwitch t) s = .next a
      ∧ exec (.treeSwitchTimeout t) s = .next (if look s.ht.trees t = 0 then s else a.set1 (Reg.HT_TREE_STOPPED t)))
    ∧ (∀ v oe, s.mode = mIdle ∨ s.mode = mQuarantine → exec (.extest v oe) s = .next
      { s with ht := { s.ht with extest := true, bscan := v, bscanOe := oe }, chip := { s.chip with jtagIr := 0 } })
    ∧ (∀ v oe, s.mode ≠ mIdle → s.mode ≠ mQuarantine → exec (.extest v oe) s = .next
      { (s.set1 Reg.HT_STAT_EXTEST_REFUSED) with ht := { s.ht with bscan := v, bscanOe := oe }, chip := { s.chip with jtagIr := 0 } }))
  ∧ (∀ (s : State) (i : Nat) (c : Taken),
    let d := c.desc
    let u := s.less 3 i
    let k := fieldOf d 8 1
    let n := fieldOf d 9 1
    let v := fieldOf d 10 2
    let w := u.get (Reg.HT_TREE_TREE n)
    let done := fun (a : State) (r : Resp) => exec .htClock s = .next (a.respond 3 c false r)
    (s.turn 3 0x0802 i c → exec .htCtl s = .next
      ((let a := if k = 255 then u else (u.put Reg.HT_CTL_QSTOP (ofBool (k == 1))).hitchBanks
        if n = 1 then { a with ht := { a.ht with off := [] } } else a).respond 3 c false okResp))
    ∧ (s.turn 3 0x0803 i c →
      (k = 0 → 2 ≤ v → v ≤ 128 → done ((u.put (Reg.HT_FCLK_D n) v).fclkErr) okResp)
      ∧ (k = 1 → v ≤ 1 → done (u.treeWrite n (w - bits w 10 10 * 2 ^ 10 + v * 2 ^ 10)) okResp)
      ∧ (k = 2 → v ≤ 255 → done (u.treeWrite n (w - bits w 18 11 * 2 ^ 11 + v * 2 ^ 11)) okResp)
      ∧ (3 ≤ k → v ≤ 1 → done (u.treeWrite n (w - bits w 19 19 * 2 ^ 19 + v * 2 ^ 19)) okResp)
      ∧ ((k = 0 ∧ (v < 2 ∨ 128 < v)) ∨ (k = 1 ∧ 1 < v) ∨ (k = 2 ∧ 255 < v) ∨ (3 ≤ k ∧ 1 < v) → done u (badDesc 5 10)))
    ∧ (∀ (a : State) (t x : Nat), bit x 19 = true → (a.ht.treeOf t).sel ≠ bits x 10 10 → look a.ht.trees t = 0 →
      a.treeWrite t x = { (a.put (Reg.HT_TREE_TREE t) x) with ht := { a.ht with trees := upd a.ht.trees t 1 } })
    ∧ (∀ dma, s.turn 3 0x0801 i c → exec (.htPartial dma) s = .next ((s.started 3 i 0 c).started 3 i 0 c)))
  ∧ ∀ (s : State) (c : Taken) (dma : HostDma), s.due 3 0x0801 c →
    let d := c.desc
    let r := fieldOf d 8 1
    let n := fieldOf d 12 4
    let rs := hRecs n ((dma.data ++ leBytes (16 * n - dma.data.length) 0).take (16 * n))
    let ends := fun (a : State) (x : Resp) => exec (.htPartial dma) s = .next (a.finishAt 3 0 x)
    (c.cut = true → ends s (errResp 5 0 0 0))
    ∧ (c.cut = false → s.mayMaster = false → ends s (errResp 5 0 0 0))
    ∧ (c.cut = false → s.mayMaster = true → dma.status ≠ 0 → ends s (errResp 5 dma.status 0 0))
    ∧ (c.cut = false → s.mayMaster = true → dma.status = 0 →
      (∀ i, firstBad (s.ht.clearRegion r) s.nTeams r rs 0 [] rs = some i → ends s (errResp 1 5 i (i / 65536)))
      ∧ (firstBad (s.ht.clearRegion r) s.nTeams r rs 0 [] rs = none →
        ends (let s1 := s.prHold r
          ({ s1 with ht := rs.foldl Hitch.apply (s1.ht.clearRegion r) } : State).prRelease) okResp))

/-! ### Time -/

/-- At an edge of LREF with EN 1 the Time Base takes a pending SET value, else grows by INC and a pending offset; the pending
signs clear, ADJ_LOST sets when a SET discards an offset, and the compare units act; with EN 0, or while LREF is stopped,
nothing changes. Writes of TB_INC, TB_ADJ and SET act at the next update; a TB_ADJ out of range, alone or with the pending
offset, or a SET of 10^9 ns or more only sets its error flag. A stamp is the value after the update before it plus its unit
intervals, scaled by INC / 6.4 ns. A read of TB_NOW_NS returns NS and latches for its agent the other words, a read of
TB_SB_STRIDE latches the stamp of the stride, and a read of TB_TXQ_W3 takes the oldest transmit stamp; in the always-on halt
the host reads ones. (Rests on R339, R341, R342, R343, R344, R345, R348, R353, R471.) -/
def Obligations.TimeBaseAdvances : Prop :=
  ∀ s : State,
    let ends (x : State) (jumped : Bool) : State :=
      let y : State := { x with tb := { x.tb with incPend := false, past := ((x.tb.now, (s.rd Adr.TB_INC).toNat) :: x.tb.past).take 260 } }
      ((y.clr Reg.TB_STAT_SET_PEND).clr Reg.TB_STAT_ADJ_PEND).each 8 (fun k u => u.compare jumped k)
    let off := s.tb.adj.getD 0
    let runs := s.on Reg.TB_CTL_EN = true ∧ s.on Reg.CHIP_CLK_STAT_LREF_OK = true
    (¬ runs → exec .tbUpdate s = .next s)
    ∧ (runs → s.tb.set = none → exec .tbUpdate s = .next (ends { s with tb := { s.tb with
        now := stampAdd s.tb.now ((s.rd Adr.TB_INC).toNat + off * 2 ^ 24), adj := none } } s.tb.adj.isSome))
    ∧ (∀ v, runs → s.tb.set = some v → exec .tbUpdate s = .next (ends
        { (s.set1If s.tb.adj.isSome Reg.TB_STAT_ADJ_LOST) with tb := { s.tb with now := v, set := none, adj := none } } true))
    ∧ (∀ v, exec (.tbIncWrite v) s = .next { (s.wr Adr.TB_INC v) with tb := { s.tb with incPend := true } })
    ∧ (∀ v : Word,
      let legal := -999999999 ≤ v.toInt ∧ v.toInt ≤ 999999999 ∧ -999999999 ≤ off + v.toInt ∧ off + v.toInt ≤ 999999999
      (legal → exec (.tbAdjWrite v) s = .next (({ s with tb := { s.tb with adj := some (off + v.toInt) } } : State).set1 Reg.TB_STAT_ADJ_PEND))
      ∧ (¬ legal → exec (.tbAdjWrite v) s = .next (s.set1 Reg.TB_STAT_ADJ_ERR)))
    ∧ ((s.rd Adr.TB_SET_NS).toNat < 1000000000 →
        let v : Stamp := ⟨s.pair Adr.TB_SET_SEC_LO Adr.TB_SET_SEC_HI % 2 ^ 48, (s.rd Adr.TB_SET_NS).toNat, s.get Reg.TB_SET_FRAC_FRAC⟩
        exec .tbSetWrite s = .next (({ s with tb := { s.tb with set := some v } } : State).set1 Reg.TB_STAT_SET_PEND))
    ∧ (1000000000 ≤ (s.rd Adr.TB_SET_NS).toNat → exec .tbSetWrite s = .next (s.set1 Reg.TB_STAT_SET_ERR))
    ∧ (∀ (m : Moment) (w : Nat) (v : Stamp) (inc : Nat), s.tb.past[m.back]? = some (v, inc) →
        s.stampOf m w = stampAdd v (m.ui * inc * 5 / (2 * w)))
    ∧ (∀ who, s.chip.halted = false →
      (∃ t, exec (.tbNowNsRead who) s = .next t ∧ t.rdata = [BitVec.ofNat 32 s.tb.now.ns]
        ∧ t.latched who Adr.TB_NOW_SEC_LO = BitVec.ofNat 32 s.tb.now.sec ∧ t.latched who Adr.TB_NOW_FRAC = BitVec.ofNat 32 s.tb.now.frac
        ∧ t.latched who Adr.TB_NOW_SEC_HI = BitVec.ofNat 32 (s.tb.now.sec / 2 ^ 32)
        ∧ t.latched who Adr.TB_NOW_NR = BitVec.ofNat 32 (s.tb.now.sec * 1000000000 + s.tb.now.ns) ∧ t.tb = s.tb)
      ∧ (∃ t, exec (.tbSbStrideRead who) s = .next t ∧ t.rdata = [s.readable Adr.TB_SB_STRIDE]
        ∧ t.latched who Adr.TB_SB_NS = s.rd Adr.TB_SB_NS ∧ t.latched who Adr.TB_SB_FRAC = s.rd Adr.TB_SB_FRAC ∧ t.tb = s.tb)
      ∧ ∃ t, exec (.tbTxqW3Read who) s = .next t ∧ t.rdata = [s.viewTxq 3] ∧ t.tb = { s.tb with txq := s.tb.txq.drop 1 })
    ∧ (s.chip.halted = true →
      exec (.tbNowNsRead .host) s = .next { s with rdata := [0xFFFFFFFF#32] }
      ∧ exec (.tbSbStrideRead .host) s = .next { s with rdata := [0xFFFFFFFF#32] }
      ∧ exec (.tbTxqW3Read .host) s = .next { s with rdata := [0xFFFFFFFF#32] })

/-- The sync headers received decide block lock; with it, and fewer than 16 invalid headers in 125 us, LINK_UP is 1 while the
port is enabled; a disabled port keeps its status. GO of a transmit buffer places its frame in the order of sending; set
again it does nothing. While LINK_UP is 1 the oldest frame of a legal LEN leaves as preamble, SFD, frame and FCS in scrambled
blocks, GO clears and, with STAMP, its stamp enters the queue; while it is 0 the frame waits; a frame of an illegal LEN
counts in TX_BAD. Received blocks without a start hold no frame. While LINK_UP is 1, a frame of a legal length with a right
FCS is stored without its FCS in the next buffer with its length and stamp and FULL sets, or counts in RX_DROP at a full
buffer; a wrong FCS or length counts in FCS_ERR. Writing 1 to FULL frees the buffer. (Rests on R345, R348, R354, R355, R356.) -/
def Obligations.TimePortMovesFrames : Prop :=
  ∀ s : State,
    (∀ heads bad, s.on Reg.TP_CTL_EN = true →
      let lock := tpLocks (s.on Reg.TP_STAT_BLOCK_LOCK) heads
      let hb := lock && decide (16 ≤ bad)
      exec (.tpLinkUpChange heads bad) s = .next
      (((s.put Reg.TP_STAT_BLOCK_LOCK (ofBool lock)).put Reg.TP_STAT_HI_BER (ofBool hb)).put Reg.TP_STAT_LINK_UP (ofBool (lock && !hb))))
    ∧ (∀ heads bad, s.on Reg.TP_CTL_EN = false → exec (.tpLinkUpChange heads bad) s = .next s)
    ∧ (∀ j : Fin 8, exec (.tpTxGo j) s = .next (if s.on (Reg.TP_TXD_GO j) then s else
      ({ s with tb := { s.tb with goOrder := s.tb.goOrder ++ [j.val] } } : State).set1 (Reg.TP_TXD_GO j)))
    ∧ (∀ at_, s.tb.goOrder = [] → exec (.tpTxDone at_) s = .next s)
    ∧ (∀ (j : Nat) (rest : List Nat) (at_ : Moment), s.tb.goOrder = j :: rest →
      let n := s.get (Reg.TP_TXD_LEN j)
      let mac := macFrame (s.tpBytes (0x4000 + 0x800 * j) n)
      let a := ({ s with free := s.free + 1, tb := { s.tb with
        goOrder := rest, sent := mac, line := scrambled (Config.freeW64 s.free).toNat (pcsBlocks mac) } } : State).clr (Reg.TP_TXD_GO j)
      (60 ≤ n → n ≤ 2044 → s.on Reg.TP_STAT_LINK_UP = true → exec (.tpTxDone at_) s = .next
        (if s.on (Reg.TP_TXD_STAMP j) then a.pushStamp 20 (s.get (Reg.TP_TXD_ID j)) (s.stampOf at_ 165) else a))
      ∧ (60 ≤ n → n ≤ 2044 → s.on Reg.TP_STAT_LINK_UP = false → exec (.tpTxDone at_) s = .next s)
      ∧ (n < 60 ∨ 2044 < n → exec (.tpTxDone at_) s = .next
        ((({ s with tb := { s.tb with goOrder := rest } } : State).clr (Reg.TP_TXD_GO j)).sat Reg.TP_CNT_TX_BAD 1)))
    ∧ (∀ src id v,
      (s.tb.txq.length < 16 → s.pushStamp src id v = ({ s with tb := { s.tb with txq := s.tb.txq ++ [⟨src, id, v⟩] } } : State).put
        Reg.TB_STAT_TXQ_CNT (s.tb.txq.length + 1))
      ∧ (16 ≤ s.tb.txq.length → s.pushStamp src id v = ((s.set1 Reg.TB_STAT_TXQ_OVF).sat Reg.TB_TXQ_LOST_COUNT 1).onBox 1 (fun b => { b with
        taken := b.taken.map (fun c => if c.timing src id then { c with note := c.note + 256 } else c) })))
    ∧ (∀ (blocks : List RxBlock) (at_ : Moment), pcsFrame (descrambled blocks) = none ∨ s.on Reg.TP_STAT_LINK_UP = false →
        exec (.tpRxFrame blocks at_) s = .next s)
    ∧ (∀ (blocks : List RxBlock) (at_ : Moment) (mac : List Byte), pcsFrame (descrambled blocks) = some mac →
      s.on Reg.TP_STAT_LINK_UP = true →
      let frame := mac.take (mac.length - 4)
      let good := fcsOk mac = true ∧ 60 ≤ frame.length ∧ frame.length ≤ 2044
      let j := s.tb.nextRx
      let v := s.stampOf at_ 165
      (¬ good → exec (.tpRxFrame blocks at_) s = .next (s.sat Reg.TP_CNT_FCS_ERR 1))
      ∧ (good → s.on (Reg.TP_RXD_W0_FULL j) = true → exec (.tpRxFrame blocks at_) s = .next (s.sat Reg.TP_CNT_RX_DROP 1))
      ∧ (good → s.on (Reg.TP_RXD_W0_FULL j) = false → exec (.tpRxFrame blocks at_) s = .next
        (((((((({ s with tb := { s.tb with nextRx := (j + 1) % 16 } } : State).setTpBytes (0x8000 + 0x800 * j) frame).put
          (Reg.TP_RXD_W0_LEN j) frame.length).put (Reg.TP_RXD_W0_SEC_HI j) (v.sec / 2 ^ 32)).set1 (Reg.TP_RXD_W0_FULL j)).put
          (Reg.TP_RXD_W1_SEC_LO j) v.sec).put (Reg.TP_RXD_W2_NS j) v.ns).put (Reg.TP_RXD_W3_FRAC j) v.frac)))
    ∧ ∀ j : Fin 16, exec (.tpRxFree j) s = .next (s.clr (Reg.TP_RXD_W0_FULL j))

/-- TB_SET of an illegal value answers BAD_DESCRIPTOR; EN is written and answered at once; a value, INC and an offset are staged
and answered when an update has applied them. CMP_ALLOC gives the lowest free unit, its target and period, armed, to the
class asked for; without one it answers RESOURCE_BUSY. CMP_FREE waits for the events of earlier firings of its unit, then
frees a unit held and answers NOT_ALLOCATED for another. TP_TX waits for a free buffer, answers a failed transfer with
HOST_DMA_ERROR, else puts its frame into the buffer with GO; once GO has cleared it answers, with the stamp from the queue
where one was asked for. TP_RX hands the oldest stored frame to host memory and frees its buffer, or answers HOST_DMA_ERROR;
without a frame it answers LEN 0 when WAIT_MS is 0 or runs out, and else waits. (Rests on R341, R342, R352, R359, R408,
R410.) -/
def Obligations.TimeCommandsAnswer : Prop :=
  (∀ (s : State) (i : Nat) (c : Taken),
    let d := c.desc
    let u := s.less 1 i
    let v := s.started 1 i 0 c
    (s.turn 1 0x0701 i c →
      (∀ x, s.tbSetBad d = some x → exec .tbSet s = .next (v.finishAt 1 i (badDesc 5 x)))
      ∧ (s.tbSetBad d = none → fieldOf d 8 1 = 0 → exec .tbSet s = .next
        ((((v.putPair Adr.TB_SET_SEC_LO Adr.TB_SET_SEC_HI (fieldOf d 12 8)).wr Adr.TB_SET_NS (BitVec.ofNat 32 (fieldOf d 20 4))).wr
          Adr.TB_SET_FRAC (BitVec.ofNat 32 (fieldOf d 24 4))).tbSet.started 1 i 0 c))
      ∧ (s.tbSetBad d = none → fieldOf d 8 1 = 1 → exec .tbSet s = .next ((v.tbInc (BitVec.ofNat 32 (fieldOf d 12 4))).started 1 i 0 c))
      ∧ (s.tbSetBad d = none → fieldOf d 8 1 = 2 → exec .tbSet s = .next ((v.tbAdj (BitVec.ofNat 32 (fieldOf d 12 4))).started 1 i 0 c))
      ∧ (s.tbSetBad d = none → 3 ≤ fieldOf d 8 1 → exec .tbSet s = .next ((v.put Reg.TB_CTL_EN (fieldOf d 12 1)).finishAt 1 i okResp)))
    ∧ (let sum := s.tb.adj.getD 0 + sint 32 (fieldOf d 12 4)
      let off := sint 32 (fieldOf d 12 4)
      (fieldOf d 8 1 = 0 → (s.tbSetBad d = none ↔ fieldOf d 12 8 < 2 ^ 48 ∧ fieldOf d 20 4 < 1000000000 ∧ fieldOf d 24 4 < 2 ^ 24))
      ∧ (fieldOf d 8 1 = 1 → s.tbSetBad d = none)
      ∧ (fieldOf d 8 1 = 2 → (s.tbSetBad d = none ↔
        (-999999999 ≤ off ∧ off ≤ 999999999) ∧ -999999999 ≤ sum ∧ sum ≤ 999999999))
      ∧ (fieldOf d 8 1 = 3 → (s.tbSetBad d = none ↔ fieldOf d 12 8 ≤ 1)))
    ∧ (s.turn 1 0x0702 i c →
      (∀ k, (List.range 8).find? (fun k => look s.tb.owner k == 0) = some k →
        let a := ({ u with tb := { u.tb with owner := upd u.tb.owner k (1 + fieldOf d 9 1) } } : State)
        let b := (a.wr (Adr.TB_CMP_TGT k) (BitVec.ofNat 32 (fieldOf d 12 4))).wr (Adr.TB_CMP_PER k) (BitVec.ofNat 32 (fieldOf d 16 4))
        exec .cmpAlloc s = .next (((b.put (Reg.TB_CMP_CTL_PERIODIC k) (fieldOf d 8 1)).set1 (Reg.TB_CMP_CTL_ARM k)).respond 1 c false
          (okWith 1 (packBytes [(16, 1, k)]))))
      ∧ ((∀ k < 8, look s.tb.owner k ≠ 0) → exec .cmpAlloc s = .next (u.respond 1 c false (errResp 0x13 2 0 0))))
    ∧ (s.turn 1 0x0703 i c →
      let k := fieldOf d 8 1
      let waits := ∃ e ∈ (s.box 1).events, e.code = 0x12 ∧ e.result % 256 = k
      (waits → exec .cmpFree s = .next (s.eventPost 1))
      ∧ (¬ waits → look s.tb.owner k ≠ 0 → exec .cmpFree s = .next
        ((({ u with tb := { u.tb with owner := upd u.tb.owner k 0 } } : State).clr (Reg.TB_CMP_CTL_ARM k)).respond 1 c false okResp))
      ∧ (¬ waits → look s.tb.owner k = 0 → exec .cmpFree s = .next (u.respond 1 c false (errResp 0x14 k 0 0))))
    ∧ (∀ dma : HostDma, s.turn 1 0x0705 i c →
      (s.freeTx = none → exec (.tpTx dma) s = .next ((s.pollStarted 1 0x0705 State.tpTxPoll).getD s))
      ∧ (∀ j r, s.freeTx = some j → s.dmaBad dma = some r → exec (.tpTx dma) s = .next (v.finishAt 1 i r))
      ∧ (∀ j, s.freeTx = some j → s.dmaBad dma = none →
        let n := fieldOf d 8 2
        let a := v.setTpBytes (0x4000 + 0x800 * j) (dmaBytes dma n)
        let b := ((a.put (Reg.TP_TXD_LEN j) n).put (Reg.TP_TXD_STAMP j) (fieldOf d 10 1)).put (Reg.TP_TXD_ID j) (fieldOf d 11 1)
        exec (.tpTx dma) s = .next ((b.tpGo j).started 1 i (j + 1) c)))
    ∧ (∀ dma : HostDma, s.dmaBad dma = if s.mayMaster then (if dma.status = 0 then none else some (errResp 5 dma.status 0 0))
        else some (errResp 5 0 0 0))
    ∧ (s.turn 1 0x0706 i c → s.pollStarted 1 0x0706 State.tpRxPoll = none →
      (∀ p, v.tpRxTake d = some p → exec .tpRx s = .next (p.1.finishAt 1 i p.2))
      ∧ (v.tpRxTake d = none → fieldOf d 8 4 = 0 → exec .tpRx s = .next (v.finishAt 1 i (okWith 16 0)))
      ∧ (v.tpRxTake d = none → fieldOf d 8 4 ≠ 0 → exec .tpRx s = .next (v.started 1 i 0 c)))
    ∧ (s.oldestRx = none → s.tpRxTake d = none)
    ∧ (∀ j, s.oldestRx = some j → s.mayMaster = false → s.tpRxTake d = some (s, errResp 5 0 0 0))
    ∧ (∀ j, s.oldestRx = some j → s.mayMaster = true →
      let n := s.get (Reg.TP_RXD_W0_LEN j)
      s.tpRxTake d = some ((s.toHost (fieldOf d 16 8) (s.tpBytes (0x8000 + 0x800 * j) n)).clr (Reg.TP_RXD_W0_FULL j),
        okWith 16 (packBytes [(16, 2, n), (18, 6, s.get (Reg.TP_RXD_W0_SEC_HI j) * 2 ^ 32 + s.get (Reg.TP_RXD_W1_SEC_LO j)),
          (24, 4, s.get (Reg.TP_RXD_W2_NS j)), (28, 4, s.get (Reg.TP_RXD_W3_FRAC j))]))))
  ∧ ∀ (s : State) (c : Taken),
    let d := c.desc
    let k := fieldOf d 8 1
    (s.due 1 0x0701 c →
      let waits := if k = 0 then s.tb.set.isSome else if k = 1 then s.tb.incPend else s.tb.adj.isSome
      exec .tbSet s = .next (if waits then s else s.finishAt 1 0 okResp))
    ∧ (∀ dma, s.due 1 0x0705 c →
      let busy := c.note = 0 ∨ s.on (Reg.TP_TXD_GO (c.note - 1)) = true
      (busy → exec (.tpTx dma) s = .next s)
      ∧ (¬ busy → fieldOf d 10 1 = 0 → exec (.tpTx dma) s = .next (s.finishAt 1 0 okResp))
      ∧ (¬ busy → fieldOf d 10 1 ≠ 0 → s.tb.txq.find? (fun e => e.src == 20 && e.id == fieldOf d 11 1) = none →
        exec (.tpTx dma) s = .next s)
      ∧ (∀ e, ¬ busy → fieldOf d 10 1 ≠ 0 → s.tb.txq.find? (fun e => e.src == 20 && e.id == fieldOf d 11 1) = some e →
        exec (.tpTx dma) s = .next ((({ s with tb := { s.tb with txq := s.tb.txq.erase e } } : State).put Reg.TB_STAT_TXQ_CNT
          (s.tb.txq.erase e).length).finishAt 1 0 (okWith 16 (packBytes [(16, 6, e.at_.sec), (24, 4, e.at_.ns), (28, 4, e.at_.frac)])))))
    ∧ (s.due 1 0x0706 c →
      (∀ p, s.tpRxTake d = some p → exec .tpRx s = .next (p.1.finishAt 1 0 p.2) ∧ exec .tpRxWaitExpiry s = .next (p.1.finishAt 1 0 p.2))
      ∧ (s.tpRxTake d = none → exec .tpRx s = .next s ∧ exec .tpRxWaitExpiry s = .next (s.finishAt 1 0 (okWith 16 0))))
    ∧ ((∀ x ∈ (s.box 1).taken, x.started = false) → exec .tpRxWaitExpiry s = .next s)

/-! ### The host interface -/

/-- BAR0 takes aligned 4-byte and 8-byte accesses, and longer writes; the host's others have no effect but PE_ERR. A read returns
the register: a latch read keeps its pair for the agent, RC fields clear. A write acts by the register's fields, or as R362,
R518 and R519 refuse it. In the always-on halt the host reads ones and writes nothing. In a block whose clock has stopped a
read returns 0, a write changes nothing, and STOPPED sets with CLASS 6. The host's waiting BAR4 reads of a Team come before
its next access to that Team. A PE_FENCE read returns 0 once no BAR2 write waits or awaits its check, and no data before. The
served bytes of a BAR2 access wait in their channels as dynamic traffic, served in order in each; refused ones read 0 or are
lost, with PE_ERR; with BAR2 off nothing happens. A BAR4 access reads or writes the containers of its Team in ascending
order, and one that fails reads 0 with PE_ERR. (Rests on R7, R29, R361, R362, R364, R366, R367, R368, R471, R518, R520,
R521.) -/
def Obligations.RegistersAreReadAndWritten : Prop :=
  (∀ (who : Agent) (a : BitVec 24) (n : Nat) (s : State),
    exec (.latchedPairRead who a n) s = .next (s.agentReads who a.toNat n)
    ∧ exec (.rcRegisterRead who a n) s = .next (s.agentReads who a.toNat n)
    ∧ (s.chip.halted = true → s.agentReads .host a.toNat n = { s with rdata := List.replicate ((n + 3) / 4) 0xFFFFFFFF#32 }
      ∧ ∀ vs, exec (.registerWrite .host a n vs) s = .next s)
    ∧ (sizeOk false a.toNat n = true ↔ (n = 4 ∧ a.toNat % 4 = 0) ∨ (n = 8 ∧ a.toNat % 8 = 0))
    ∧ (sizeOk true a.toNat n = true ↔ (n = 4 ∧ a.toNat % 4 = 0) ∨ (n = 8 ∧ a.toNat % 8 = 0) ∨ (8 < n ∧ n % 4 = 0 ∧ a.toNat % 4 = 0))
    ∧ (s.chip.halted = false → sizeOk false a.toNat n = false → s.agentReads .host a.toNat n
        = { s.peErr 1 0 a.toNat with rdata := List.replicate ((n + 3) / 4) 0#32 })
    ∧ (s.chip.halted = false → sizeOk true a.toNat n = false → ∀ vs, exec (.registerWrite .host a n vs) s = .next (s.peErr 1 0 a.toNat))
    ∧ (∀ vs, who ≠ .host ∨ (s.chip.halted = false ∧ sizeOk true a.toNat n = true) → exec (.registerWrite who a n vs) s
        = .next (((List.range (n / 4)).zip vs).foldl (fun u p => u.agentWrite who (a.toNat + 4 * p.1) p.2) s))
    ∧ (who ≠ .host ∨ (s.chip.halted = false ∧ a.toNat % 4 = 0) → s.agentReads who a.toNat 4 = s.agentRead who a.toNat)
    ∧ (who ≠ .host ∨ (s.chip.halted = false ∧ a.toNat % 8 = 0) →
      let s1 := s.agentRead who a.toNat
      let s2 := s1.agentRead who (a.toNat + 4)
      s.agentReads who a.toNat 8 = { s2 with rdata := s1.rdata ++ s2.rdata }))
  ∧ (∀ (who : Agent) (a : Nat) (s : State), a % 4 = 0 →
    let u := (s.set1 Reg.CHIP_CDC_STAT_STOPPED).cdcLoc 0 6 (a / 2 ^ 16 % 256) 2
    (who ≠ .host ∨ (s.chip.halted = false ∧ inTeams a = false ∧ (a ≠ Adr.PE_FENCE ∨ s.hostWrites = false)) → s.agentRead who a = ({ s with rdata := [] } : State).busRead who a)
    ∧ (∀ t, s.chip.halted = false → inTeams a = true → s.windowTeam a = some t → s.agentRead .host a
        = ((if (s.team t).hostWords = 0 then ({ s with rdata := [] } : State) else s).hostCatchUp t .ok).busRead .host a)
    ∧ (s.deadBlock a = true → s.busRead who a = { u with rdata := s.rdata ++ [0#32] } ∧ ∀ v, s.busWrite a v = u)
    ∧ (s.deadBlock a = false → s.busRead who a = s.readReg who a ∧ ∀ v, s.busWrite a v = s.storeReg a v)
    ∧ (s.readReg who a).rdata = s.rdata ++ [s.peek who a]
    ∧ (∀ v, s.chip.halted = false → s.hostMay a = false → s.agentWrite .host a v = s.refuseHost a)
    ∧ (∀ v, s.chip.halted = false → s.hostMay a = true → inTeams a = false → s.agentWrite .host a v = s.busWrite a v)
    ∧ (∀ v t, s.chip.halted = false → s.hostMay a = true → inTeams a = true → s.windowTeam a = some t →
        s.agentWrite .host a v = (s.hostCatchUp t .ok).busWrite a v)
    ∧ (∀ v, who ≠ .host → s.agentWrite who a v = if agentMay who a then s.busWrite a v else s))
  ∧ (∀ (g : Fin 4) (v : Word) (s : State),
      exec (.registerWrite (.groom g) (BitVec.ofNat 24 Adr.TB_SET_NS) 4 [v]) s = .next (s.wr Adr.TB_SET_NS v))
  ∧ (∀ (who : Agent) (s : State), s.chip.halted = false → ∃ t, exec (.latchedPairRead who (BitVec.ofNat 24 Adr.LD_HOLD_H_LO) 4) s = .next t
      ∧ t.latched who Adr.LD_HOLD_H_HI = s.rd Adr.LD_HOLD_H_HI ∧ t.regs = s.regs)
  ∧ (∀ (who : Agent) (s : State) (n : Fin 4), s.chip.halted = false → ∃ t,
      exec (.rcRegisterRead who (BitVec.ofNat 24 (Adr.EL_LINK_REPLAY n)) 4) s = .next t
      ∧ t.rdata = [s.rd (Adr.EL_LINK_REPLAY n)] ∧ t.rd (Adr.EL_LINK_REPLAY n) = 0)
  ∧ (∀ s : State, exec .peFenceRead s = .next (if s.chip.halted then { s with rdata := [0xFFFFFFFF#32] }
    else if s.hostWrites then { s with rdata := [] } else { s with rdata := [0#32] })
    ∧ (s.hostWrites = true ↔ ∃ c : Fin 16, (∃ q ∈ s.waiting c, q.write = true ∧ s.ofBar2 q = true)
      ∨ ∃ b ∈ (s.chan c).flight, ∃ q, b.write = true ∧ b.dyn = some q ∧ s.ofBar2 q = true)
    ∧ ∀ (c : Fin 16) (cs : Bool) (q r : DynReq), s.dynPick c cs = some q → s.ofBar2 q = true → r ∈ s.waiting c → s.ofBar2 r = true →
        q.seq ≤ r.seq)
  ∧ (∀ (d : BitVec 36) (n : Nat) (s : State),
    let x := d.toNat
    (s.chip.halted = true → exec (.bar2Access d n none) s = .next { s with rdata := byteWords (List.replicate n 0xFF) }
      ∧ ∀ bs, exec (.bar2Access d n (some bs)) s = .next s)
    ∧ (∀ data, s.chip.halted = false → s.pcie.bar2En = false → exec (.bar2Access d n data) s = .next s)
    ∧ (∀ data, s.chip.halted = false → s.pcie.bar2En = true →
      let runs := runsOf (s.bar2Serves data.isSome) x n
      let a := match data with
        | none => if runs.isEmpty then { s with rdata := byteWords (List.replicate n 0) } else s.hostBegin false x n none runs
        | some bs => runs.foldl (fun u r => u.hostQueue none x (some (s.hostBytes x bs)) r) s
      let b := if s.chip.warm then a else (s.outside x n).foldl (fun u c => u.set1 (Reg.GW_ERR_OUT_OF_REGION c)) a
      exec (.bar2Access d n data) s = .next
        (if (List.range n).all (fun i => s.bar2Serves data.isSome (x + i)) then b else b.peErr 2 0 (x / 2 ^ 12)))
    ∧ (s.bar2Serves false x = true ↔ s.chip.warm = false ∧ s.hostKind x ≠ none)
    ∧ (s.bar2Serves true x = true ↔ s.chip.warm = false ∧
        (s.hostKind x = some kHost ∨ (s.hostKind x = some kDesign ∧ s.hostMayWrite = true))))
  ∧ ∀ (a : BitVec 30) (n : Nat) (c : MemCheck) (h : Fin 4) (dead : Bool) (s : State),
    let ats := (List.range (n / 4)).map (fun i => a.toNat + 4 * i)
    let first := fun (u : State) => ats.foldl (fun u x => u.hostCatchUp (x / 2 ^ 20) c) u
    (s.chip.halted = true → exec (.bar4Access a n none c h dead) s = .next { s with rdata := byteWords (List.replicate n 0xFF) }
      ∧ ∀ bs, exec (.bar4Access a n (some bs) c h dead) s = .next s)
    ∧ (s.chip.halted = false → a.toNat % 4 ≠ 0 ∨ n % 4 ≠ 0 →
      let e := s.peErr 3 (if s.chip.warm then 1 else 0x1F) (a.toNat / 2 ^ 20)
      exec (.bar4Access a n none c h dead) s = .next { e with rdata := byteWords (List.replicate n 0) }
      ∧ ∀ bs, exec (.bar4Access a n (some bs) c h dead) s = .next e)
    ∧ (s.chip.halted = false → a.toNat % 4 = 0 → n % 4 = 0 →
      exec (.bar4Access a n none c h dead) s = .next (State.bar4Words h dead c (ats.map (fun x => (x, none)))
        (first (if ats.any (fun x => (s.team (x / 2 ^ 20)).hostWords != 0) then s else { s with rdata := [] })))
      ∧ ∀ bs, exec (.bar4Access a n (some bs) c h dead) s = .next (State.bar4Words h dead c
        ((ats.zip (words4 bs)).map (fun p => (p.1, some (BitVec.ofNat 24 p.2)))) (first s)))
    ∧ State.bar4Words h dead c [] s = s
    ∧ (∀ x v rest, State.bar4Words h dead c ((x, v) :: rest) s
        = State.bar4Words h false c rest (if dead then s.bar4Dead h x v.isSome else s.bar4Word h x v c))
    ∧ (let t := a.toNat / 2 ^ 20
      let o := a.toNat % 2 ^ 20
      (∀ st, s.bar4Fails h t o = some st →
        s.bar4Word h a.toNat none c = { s.peErr 3 st t with rdata := s.rdata ++ [0#32] }
        ∧ ∀ v, s.bar4Word h a.toNat (some v) c = s.peErr 3 st t)
      ∧ (∀ w, s.bar4Fails h t o = none → s.bar4Waits o = some w →
        s.bar4Word h a.toNat none c = s.onTeam t (fun m => { m with dma := m.dma ++ [⟨.host, .read, w, 1, [], []⟩] }))
      ∧ (s.bar4Fails h t o = none → s.bar4Waits o = none →
        s.bar4Word h a.toNat none c = { s.bar4Checked t o c with rdata := s.rdata ++ [(s.bar4Get t o c).setWidth 32] })
      ∧ (∀ v, s.bar4Fails h t o = none → s.bar4Word h a.toNat (some v) c = s.bar4Put t o v c)
      ∧ (s.bar4Fails h t o = none →
        let e := (s.targetDead t 0).peErr 3 3 t
        s.bar4Dead h a.toNat true = e ∧ s.bar4Dead h a.toNat false = { e with rdata := e.rdata ++ [0#32] }))

/-- A host write to a free command slot stores its word, one to a slot the device holds is a breach. A doorbell or RSP_CI within
its range is taken, else it is a breach; RESET_BUSY drops a doorbell; the always-on halt drops all host writes. A Groom takes
the command at CMD_CI when a response slot is free: it joins the commands taken, or a malformed one is answered at once; else
nothing happens. An answer fills the slot at RSP_PI, RSP_PI advances modulo 128 and vector m is raised; a muted one is
discarded; an event is posted in the same way, with its own vector. At its deadline a command answers TIMEOUT, carries LATE
when its work completes in that cycle, or, started, ends as R396 gives. A mailbox reset sets RESET_BUSY and mutes the
commands taken; its end returns the indices to 0 and raises vector 4 + m. A command starts in ring order, ordered ones alone,
after the checks of lifecycle, mode, image and long command in this order; its row does nothing while it may not start,
answers the first check that fails, or has its meaning; a started one is looked at again. (Rests on R370, R371, R372, R374,
R376, R377, R378, R379, R380, R389, R393, R471.) -/
def Obligations.MailboxTransportCarriesCommands : Prop :=
  ∀ (m : Fin 4) (s : State),
    let b := s.box m
    (∀ (w : Fin 1024) v, s.chip.halted = false → s.slotTaken m (w / 16) = true →
      exec (.commandSlotWrite m w v) s = .next (s.breach m (Reg.MBX_STAT_SLOT_WR m)))
    ∧ (∀ (w : Fin 1024) (v : Word), s.chip.halted = false → s.slotTaken m (w / 16) = false → ∃ t, exec (.commandSlotWrite m w v) s = .next t
      ∧ fieldOf (look (t.box m).cmd (w / 16)) (4 * (w % 16)) 4 = v.toNat ∧ t.regs = s.regs
      ∧ ∀ j, j ≠ w / 16 → look (t.box m).cmd j = look b.cmd j)
    ∧ (∀ v : Word,
      let d := ringDist (v.toNat % 128) (s.cmdCI m)
      let legal := d ≤ 64 ∧ ringDist (s.cmdPI m) (s.cmdCI m) ≤ d
      (s.chip.halted = false → s.resetBusy m = true → exec (.doorbell m v) s = .next s)
      ∧ (s.chip.halted = false → s.resetBusy m = false → legal → exec (.doorbell m v) s = .next (s.put (Reg.MBX_DB_CMD_PI m) v.toNat))
      ∧ (s.chip.halted = false → s.resetBusy m = false → ¬ legal → exec (.doorbell m v) s = .next (s.breach m (Reg.MBX_STAT_DB_RANGE m))))
    ∧ (∀ v : Word,
      let legal := ringDist (v.toNat % 128) (s.rspCI m) ≤ ringDist (s.rspPI m) (s.rspCI m)
      (s.chip.halted = false → legal → exec (.rspCiWrite m v) s = .next (s.put (Reg.MBX_RSP_CI_RSP_CI m) v.toNat))
      ∧ (s.chip.halted = false → ¬ legal → exec (.rspCiWrite m v) s = .next (s.breach m (Reg.MBX_STAT_CI_RANGE m))))
    ∧ (s.chip.halted = true → (∀ w v, exec (.commandSlotWrite m w v) s = .next s) ∧ (∀ v, exec (.doorbell m v) s = .next s)
      ∧ (∀ v, exec (.rspCiWrite m v) s = .next s) ∧ exec (.mailboxReset m) s = .next s)
    ∧ (let ready := s.cmdPI m ≠ s.cmdCI m ∧ s.on (Reg.MBX_STAT_READY m) = true ∧ s.resetBusy m = false ∧ b.restarting = false ∧
          s.freeSlots m ≠ 0 ∧ s.chip.halted = false
      let d := look b.cmd (s.cmdCI m % 64)
      let s1 := s.put (Reg.MBX_CMD_CI_INDEX m) ((s.cmdCI m + 1) % 128)
      (¬ ready → exec (.commandTake m) s = .next s)
      ∧ (ready → s.descBad m d = none →
        exec (.commandTake m) s = .next (s1.setBox m { b with taken := b.taken ++ [⟨d, false, false, 0, false, false⟩] }))
      ∧ ∀ r, ready → s.descBad m d = some r →
        exec (.commandTake m) s = .next (s1.respond m ⟨d, false, false, 0, false, false⟩ false r))
    ∧ (∀ (c : Taken) (late : Bool) (r : Resp),
      let i := s.get (Reg.MBX_RSP_PI_INDEX m)
      let x := respDesc (fieldOf c.desc 0 2) (fieldOf c.desc 2 2) (4 * ofBool (late || c.late)) r
      (c.mute = true → s.respond m c late r = s)
      ∧ (c.mute = false → s.respond m c late r = ((s.setBox m { b with rsp := upd b.rsp (i % 64) x }).put (Reg.MBX_RSP_PI_INDEX m)
        ((i + 1) % 128)).raise m))
    ∧ (let held := s.freeSlots m = 0 ∨ s.resetBusy m = true ∨ b.restarting = true ∨ s.chip.halted = true
      (b.events = [] ∨ held → exec (.eventPost m) s = .next s)
      ∧ ∀ e rest, b.events = e :: rest → ¬ held →
        let a := (s.setBox m { b with events := rest, evtLost := false }).postSlot m
          (respDesc (0x8000 + e.code) 0 (1 + 2 * ofBool b.evtLost) ⟨0, 0, e.len, e.result⟩)
        exec (.eventPost m) s = .next (if look (s.box 0).vectors e.code = 0 then a else a.raise (look (s.box 0).vectors e.code)))
    ∧ (∀ i done, s.chip.halted = true ∨ b.restarting = true ∨ b.taken[i]? = none → exec (.commandTimeout m i done) s = .next s)
    ∧ (∀ i c, s.chip.halted = false → b.restarting = false → b.taken[i]? = some c →
      let op := fieldOf c.desc 0 2
      (c.started = false → exec (.commandTimeout m i false) s = .next ((s.less m i).respond m c false (errResp 4 0 0 0))
        ∧ exec (.commandTimeout m i true) s = .next (s.lateAt m i))
      ∧ (c.started = true → ∀ done,
        (∀ p, s.lateRun i op = some p → exec (.commandTimeout m i done) s = .next (p.1.respond m c true p.2))
        ∧ (∀ p, s.lateRun i op = none → s.latePoll c = some p → exec (.commandTimeout m i done) s = .next (p.1.finishLate m i true p.2))
        ∧ (s.lateRun i op = none → s.latePoll c = none → exec (.commandTimeout m i done) s = .next
          (if done then s.lateAt m i else (s.cutShort c).finishLate m i false (errResp 4 0 0 0)))))
    ∧ (s.chip.halted = false → exec (.mailboxReset m) s = .next ((s.set1 (Reg.MBX_STAT_RESET_BUSY m)).setBox m { b with
        taken := b.taken.map (fun c => { c with mute := true }) }))
    ∧ (s.resetBusy m = true → b.restarting = false → exec (.mailboxResetDone m) s = .next
      ((((((s.put (Reg.MBX_DB_CMD_PI m) 0).put (Reg.MBX_CMD_CI_INDEX m) 0).put (Reg.MBX_RSP_PI_INDEX m) 0).put
        (Reg.MBX_RSP_CI_RSP_CI m) 0).clr (Reg.MBX_STAT_RESET_BUSY m)).raise (4 + m)))
    ∧ (s.resetBusy m = false ∨ b.restarting = true → exec (.mailboxResetDone m) s = .next s)
    ∧ (∀ op i c, s.startable m op = some (i, c) ↔ b.taken[i]? = some c ∧ c.started = false
      ∧ (∀ j x, j < i → b.taken[j]? = some x → x.started = true ∧ bit (fieldOf x.desc 6 2) 0 = false)
      ∧ fieldOf c.desc 0 2 = op ∧ (bit (fieldOf c.desc 6 2) 0 = true → i = 0) ∧ b.restarting = false ∧ s.chip.halted = false)
    ∧ (∀ op d, s.pre op d = if s.lifeOk op = false then some (errResp 0x11 s.fuses.lifecycle 0 0)
        else if s.modeOk op d = false then some (errResp 0x10 s.mode 0 0)
        else if op ∈ needsImage ∧ s.chip.image = none then some (errResp 0x12 0 0 0)
        else if op ∈ longOps ∧ s.longAt ≠ none then some (errResp 0x13 7 0 0) else none)
    ∧ (∀ op (f : BitVec 512 → State → State × Resp), (s.startable m op = none → s.cmd m op f = s)
      ∧ ∀ i c, s.startable m op = some (i, c) →
        (∀ r, s.pre op c.desc = some r → s.cmd m op f = (s.less m i).respond m c false r)
        ∧ (s.pre op c.desc = none → s.cmd m op f = (f c.desc (s.less m i)).1.respond m c false (f c.desc (s.less m i)).2))
    ∧ (∀ op (start : BitVec 512 → State → State × Nat × Option Resp) (poll : Taken → State → Option (State × Resp)),
      (s.startable m op = none → s.cmdLong m op start poll = (s.pollStarted m op poll).getD s)
      ∧ (∀ i c, s.startable m op = some (i, c) →
        let x := start c.desc (s.started m i 0 c)
        (∀ r, s.pre op c.desc = some r → s.cmdLong m op start poll = s.finishAt m i r)
        ∧ (∀ r, s.pre op c.desc = none → x.2.2 = some r → s.cmdLong m op start poll = x.1.finishAt m i r)
        ∧ (s.pre op c.desc = none → x.2.2 = none → s.cmdLong m op start poll = x.1.started m i x.2.1 c))
      ∧ (∀ i c p, b.taken[i]? = some c → c.started = true → fieldOf c.desc 0 2 = op → poll c s = some p →
        (∀ j x, j < i → b.taken[j]? = some x → x.started = false ∨ fieldOf x.desc 0 2 ≠ op ∨ poll x s = none) →
        s.pollStarted m op poll = some (p.1.finishAt m i p.2))
      ∧ ((∀ x ∈ b.taken, x.started = false ∨ fieldOf x.desc 0 2 ≠ op ∨ poll x s = none) → s.pollStarted m op poll = none))

/-- A write of PE_INT_EN takes the value; bits that go from 0 to 1 while their cause is set send their messages; in the always-on
halt it and an unmasking change nothing. A configuration write stores the bits of its register that the host may write: Bus
Master Enable, MSI-X Enable, the function mask and the power state act; pending messages that nothing masks any more leave,
and the same at the unmasking of a vector; while configuration requests get Retry Status it has no effect, and Initiate
Function Level Reset resets. A Function Level Reset, hot reset or PE_PERST_N takes configuration space, the PE registers and
the MSI-X table to their reset values, abandons host transfers and begins a reset of all four mailboxes, every other register
staying; the latter two take the link down. The link comes up with its width and speed in PE_LINK. (Rests on R358, R359,
R382, R383, R384, R386, R426, R471, R534.) -/
def Obligations.EndpointInterruptsAndResets : Prop :=
  ∀ s : State,
    (s.chip.halted = true → (∀ hi v, exec (.peIntEnWrite hi v) s = .next s) ∧ ∀ v, exec (.msixVectorUnmask v) s = .next s)
    ∧ (s.chip.halted = false → ∀ v, exec (.peIntEnWrite false v) s = .next ((s.wr Adr.PE_INT_EN_LO v).each 32 (fun j u =>
      if v.getLsbD j && !(s.rd Adr.PE_INT_EN_LO).getLsbD j && u.on (causeFld j) then u.sendMsg j else u)))
    ∧ (s.chip.halted = false → ∀ v, exec (.peIntEnWrite true v) s = .next ((s.wr Adr.PE_INT_EN_HI v).each 32 (fun j u =>
      if v.getLsbD j && !(s.rd Adr.PE_INT_EN_HI).getLsbD j && u.on (causeFld (32 + j)) then u.sendMsg (32 + j) else u)))
    ∧ (∀ r v, s.pcie.retry = true → exec (.configurationWrite r v) s = .next s)
    ∧ (∀ r v, s.pcie.retry = false →
      let a := (s.cfgPut r v).each 64 (fun k u => u.sendPending k)
      exec (.configurationWrite r v) s = if r = .deviceControl ∧ v.getLsbD 15 = true then exec (.functionLevelReset false) a else .next a)
    ∧ (∀ v,
      let low := if bits v.toNat 1 0 = 3 then true else if bits v.toNat 1 0 = 0 then false else s.pcie.d3
      let p (r : CfgReg) : Pcie := { s.pcie with cfg := Tab.set cfgReset s.pcie.cfg (cfgKey r) (s.cfgStore r v) }
      s.cfgPut .command v = { s with pcie := { p .command with busMaster := v.getLsbD 2 } }
      ∧ s.cfgPut .msixControl v = { s with pcie := { p .msixControl with msixEnable := v.getLsbD 31, fnMask := v.getLsbD 30 } }
      ∧ s.cfgPut .pmControl v = { s with pcie := { p .pmControl with d3 := low } }
      ∧ ∀ r, r ≠ .command → r ≠ .msixControl → r ≠ .pmControl → s.cfgPut r v = { s with pcie := p r })
    ∧ (∀ v : Fin 64, s.pcie.pba.getLsbD v = false → ∃ t, exec (.msixVectorUnmask v) s = .next t
      ∧ (s.chip.halted = false → (t.msixWord (16 * v + 12)).getLsbD 0 = false) ∧ t.pcie.sent = s.pcie.sent ∧ t.regs = s.regs)
    ∧ (∀ v : Fin 64, s.pcie.pba.getLsbD v = true → s.pcie.fnMask = false → s.pcie.msixEnable = true → s.mayMaster = true →
      s.chip.halted = false → ∃ t, exec (.msixVectorUnmask v) s = .next t ∧ t.pcie.pba.getLsbD v = false
      ∧ t.pcie.sent = (s.msixWord (16 * v + 4) ++ s.msixWord (16 * v), s.msixWord (16 * v + 8)) :: s.pcie.sent)
    ∧ (∀ v : Fin 64, s.chip.halted = false → s.pcie.fnMask = true ∨ s.pcie.msixEnable = false ∨ s.mayMaster = false →
      exec (.msixVectorUnmask v) s = .next { s with pcie := { s.pcie with
        msix := Tab.set msixReset s.pcie.msix (16 * v + 12) (setBits (s.msixWord (16 * v + 12)) 0 0 0) } })
    ∧ (∀ down,
      let x := (({ (s.dropRegs (fun a => !(decide (0x1C000 ≤ a ∧ a < 0x1C040)))) with pcie := { s.pcie with
        busMaster := false, msixEnable := false, fnMask := false, msix := [], pba := 0, d3 := false, cfg := []
        linkUp := s.pcie.linkUp && !down, txs := s.pcie.txs.filter (·.copy) } } : State).each 4
          (fun m u => (u.boxReset m).onBox m (fun b => { b with taken := b.taken.map (fun c => { c with cut := c.cut || c.started }) })))
      exec (.functionLevelReset down) s = .next x ∧ (down = true → exec .pePerst s = .next x))
    ∧ ∀ (w : Fin 17) (sp : Fin 6), exec (.pcieLinkUp w sp) s = .next
      ((({ s with pcie := { s.pcie with linkUp := true } } : State).put Reg.PE_LINK_WIDTH w).put Reg.PE_LINK_SPEED sp)

/-! ### Run and link commands -/

/-- RUN_START with a legal N0, its level unchanged and its links UP begins alignment; a used link that is not UP answers
LINK_FAILED, an illegal N0 BAD_DESCRIPTOR. With every used link ALIGNED, and not before, a run begins: from LOAD with N0,
from a restore or from STEP at rest by a release, in the mode asked for, STEP with a hold at N0 + 1, and RUN_START answers
N0. RUN_STOP asks for a hold with REASON HOST and goes on; STEP_STRIDES adopts a hold COUNT strides ahead and leaves rest.
RUN_ABORT ends the long command with ABORTED and enters QUARANTINE. BKP_ARM, HALT_CONTINUE and HOST_GO act and answer;
HORIZON below the horizon in force is BAD_DESCRIPTOR; TOKEN stores its tokens in order up to the first refusal. A RUN_START
whose service level differs changes it first, WALK slows fast links, CHECK without a state mask is NO_STATE_MASK; it goes on
when every link is UP and no channel trains. Each command row is the shared handling of R372 with these meanings. (Rests on
R180, R257, R400, R401, R402, R403, R404, R405, R430.) -/
def Obligations.RunCommandsAct : Prop :=
  ∀ (s : State) (i : Nat) (c : Taken),
    let d := c.desc
    let u := s.less 3 i
    let b := s.started 3 i 0 c
    (s.turn 3 0x0301 i c → s.on Reg.CHIP_MODE_SVC_CHG = false → ∀ runs,
      (s.n0Bad (fieldOf d 16 8) = true → exec (.runStart runs) s = .next (b.finishAt 3 i (badDesc 5 16)))
      ∧ (s.n0Bad (fieldOf d 16 8) = false → fieldOf d 8 1 ≠ mCheck → fieldOf d 9 1 = 0 →
          s.get Reg.CHIP_MODE_SVC = levelOf (fieldOf d 8 1) → fieldOf d 8 1 ≠ mWalk ∨ s.fastLinks = [] →
        (∀ n, s.badLink = some n → exec (.runStart runs) s = .next (b.finishAt 3 i (s.linkFailed n)))
        ∧ (s.badLink = none → exec (.runStart runs) s = .next ((b.startAlign (s.firstStride (fieldOf d 16 8))).started 3 i 0 c))))
    ∧ (s.longDesc 0x0301 = none ∨ s.chip.n0 = none → exec .dsEnable s = .next s)
    ∧ (∀ (e : BitVec 512) (n0 : Nat), s.longDesc 0x0301 = some e → s.chip.n0 = some n0 →
      let mode := fieldOf e 8 1
      let ready := ∀ n ∈ s.usedLinks, s.isUp n = true ∧ s.on (Reg.LD_LINK_STAT_ALIGNED n) = true
      let run (x : State) : State :=
        let y := ({ x.stopAlign with chip := { x.stopAlign.chip with runMode := mode } } : State).enterRun mode
        (if mode = mStep then y.adoptHold (n0 + 1) rStep y.part y.usedLinks else y).endLong (okWith 8 n0)
      (¬ ready → exec .dsEnable s = .next s)
      ∧ (ready → s.mode = mLoad → exec .dsEnable s = .next (run (s.beginRun n0 false)))
      ∧ (ready → s.mode = mSnapshot → exec .dsEnable s = .next (run
        (({ s with ds := { s.ds with decided := 2 }, chip := { s.chip with restored := false } } : State).release.beginRun n0 true)))
      ∧ (ready → s.mode ≠ mLoad → s.mode ≠ mSnapshot → exec .dsEnable s = .next (run (s.release.set1 Reg.DS_CTL_EN))))
    ∧ (s.turn 3 0x0302 i c → exec .runStop s = .next ((b.requestHold rHost).started 3 i 0 c))
    ∧ (s.turn 3 0x0303 i c → exec .runAbort s = .next
      (((u.endLong (errResp 0x22 0 0 0)).enterQuarantine qHostAbort 0).respond 3 c false okResp))
    ∧ (s.turn 3 0x0304 i c →
      let h := s.stride + 1 + fieldOf d 8 2
      let a := (b.adoptHold h rStep s.part s.usedLinks).clr Reg.CHIP_MODE_AT_REST
      exec .stepStrides s = .next (({ a with chip := { a.chip with stepTo := some h } } : State).started 3 i 0 c))
    ∧ (s.turn 3 0x0305 i c → exec .bkpArm s = .next
      ((u.each s.nTeams (fun t x => x.put (Reg.TEAM_BP_CTL_BKP_EN t) (fieldOf d 8 1))).respond 3 c false okResp))
    ∧ (s.turn 3 0x0306 i c → exec .haltContinue s = .next (b.haltContinue.finishAt 3 i okResp))
    ∧ (s.turn 3 0x0307 i c → exec .hostGo s = .next ((u.each 64 (fun k x =>
        if bit (fieldOf d 8 8) k then x.set1 (Reg.DS_DOM_FLAGS_HOST_GO k)
        else if bit (fieldOf d 16 8) k then x.clr (Reg.DS_DOM_FLAGS_HOST_GO k) else x)).respond 3 c false okResp))
    ∧ (s.turn 3 0x0308 i c →
      (s.on Reg.DS_CTL_HORIZON_EN = false ∨ s.pair Adr.DS_HORIZON_LO Adr.DS_HORIZON_HI ≤ fieldOf d 8 8 →
        exec .horizon s = .next (((u.putPair Adr.DS_HORIZON_LO Adr.DS_HORIZON_HI (fieldOf d 8 8)).put Reg.DS_CTL_HORIZON_EN
          (fieldOf d 16 1)).respond 3 c false okResp))
      ∧ (s.on Reg.DS_CTL_HORIZON_EN = true → fieldOf d 8 8 < s.pair Adr.DS_HORIZON_LO Adr.DS_HORIZON_HI →
        exec .horizon s = .next (u.respond 3 c false (badDesc 5 8))))
    ∧ (∀ late, s.turn 3 0x0309 i c → exec (.token late) s = .next
        ((u.submit d late (fieldOf d 8 1) 0 0).1.respond 3 c false (u.submit d late (fieldOf d 8 1) 0 0).2))
    ∧ (∀ (late : BitVec 3) (n k m : Nat),
      let x := tokenOf d k
      let l := late.getLsbD k && s.dueTag == some x.tag
      s.submit d late 0 k m = (s, okWith 2 (k + 256 * m))
      ∧ (s.tokenBad x = none → s.submit d late (n + 1) k m
          = ((s.storeToken x).set1If l Reg.DS_STAT_LATE).submit d late n (k + 1) (m + (if l then 2 ^ k else 0)))
      ∧ (s.tokenBad x = some .bad → s.submit d late (n + 1) k m = (s, ⟨1, 5 + 2 ^ 16 * (12 + 16 * k), 2, k + 256 * m⟩))
      ∧ (s.tokenBad x = some .dup → s.submit d late (n + 1) k m = (s, ⟨0x1A, k, 2, k + 256 * m⟩))
      ∧ (s.tokenBad x = some .late → s.submit d late (n + 1) k m = (s, ⟨0x1B, k, 2, k + 256 * m⟩))
      ∧ (s.tokenBad x = some .full → s.submit d late (n + 1) k m = (s, ⟨0x13, 3, 2, k + 256 * m⟩)))
    ∧ (let mode := fieldOf d 8 1
      let n0 := fieldOf d 16 8
      let x := if fieldOf d 9 1 = 0 then s else s.put Reg.LD_HOLD_CTL_HOLD_LEAD (fieldOf d 9 1)
      let masked := mode ≠ mCheck ∨ ∃ g, s.chip.image = some g ∧ g.hasMask = true
      let same := x.get Reg.CHIP_MODE_SVC = levelOf mode
      let slow := mode = mWalk ∧ x.fastLinks ≠ []
      (s.n0Bad n0 = true ↔ (s.mode = mLoad ∧ n0 = 0) ∨ (s.mode ≠ mLoad ∧ n0 ≠ 0))
      ∧ (s.n0Bad n0 = true → s.runStartBegin d = (s, 0, some (badDesc 5 16)))
      ∧ (s.n0Bad n0 = false → ¬ masked → s.runStartBegin d = (s, 0, some (errResp 0x19 0 0 0)))
      ∧ (s.n0Bad n0 = false → masked → ¬ same → s.runStartBegin d = (x.changeLevel (levelOf mode), 1, none))
      ∧ (s.n0Bad n0 = false → masked → same → slow → s.runStartBegin d = (x.slowLinks, 1, none))
      ∧ (s.n0Bad n0 = false → masked → same → ¬ slow →
        (∀ n, x.badLink = some n → s.runStartBegin d = (s, 0, some (s.linkFailed n)))
        ∧ (x.badLink = none → s.runStartBegin d = (x.startAlign (s.firstStride n0), 0, none))))
    ∧ s.runStartPoll c = (if s.on Reg.CHIP_MODE_SVC_CHG = true then
        (s.usedLinks.find? (fun n => s.linkState n == 3)).map (fun n => (s.clr Reg.CHIP_MODE_SVC_CHG, s.linkFailed n)) else none)
    ∧ (∀ e, s.longDesc 0x0301 = some e → s.on Reg.CHIP_MODE_SVC_CHG = true → s.badLink = none →
        (∀ k < 16, s.chanState k ≠ gTrain) →
        s.levelDone = (s.clr Reg.CHIP_MODE_SVC_CHG).startAlign (s.firstStride (fieldOf e 16 8)))
    ∧ (s.longDesc 0x0301 = none ∨ s.on Reg.CHIP_MODE_SVC_CHG = false ∨ s.badLink ≠ none ∨ (∃ k < 16, s.chanState k = gTrain) →
        s.levelDone = s)
    ∧ (∀ runs, s.levelTrain runs = if (s.longDesc 0x0301).isSome && s.on Reg.CHIP_MODE_SVC_CHG then s.trainAll runs else s)
    ∧ (∀ runs, exec (.runStart runs) s
        = .next (((s.levelTrain runs).cmdLong 3 0x0301 State.runStartBegin State.runStartPoll).levelDone))
    ∧ exec .runStop s = .next (s.cmdLong 3 0x0302 (fun _ x => (x.requestHold rHost, 0, none)) (fun _ _ => none))
    ∧ exec .runAbort s = .next (s.cmd 3 0x0303 (fun _ x => ((x.endLong (errResp 0x22 0 0 0)).enterQuarantine qHostAbort 0, okResp)))
    ∧ exec .stepStrides s = .next (s.cmdLong 3 0x0304 State.stepStrides (fun _ _ => none))
    ∧ exec .bkpArm s = .next (s.cmd 3 0x0305 State.bkpArm)
    ∧ exec .haltContinue s = .next (s.cmdLong 3 0x0306 (fun _ x => (x.haltContinue, 0, some okResp)) (fun _ _ => none))
    ∧ exec .hostGo s = .next (s.cmd 3 0x0307 State.hostGo)
    ∧ exec .horizon s = .next (s.cmd 3 0x0308 State.horizonCmd)
    ∧ ∀ late, exec (.token late) s = .next (s.cmd 3 0x0309 (fun e x => x.submit e late (fieldOf e 8 1) 0 0))

/-- LINK_UP on a link that is not DOWN answers RESOURCE_BUSY; else it writes the link's and its lanes' settings and enables them;
once the link is UP it answers its state, spare, lanes and chosen settings; once too many lanes have failed it answers
LINK_FAILED and leaves the link in LINK_FAIL; else it waits. LINK_DOWN takes the link down. LINK_STATUS answers the same with
the lane map and the replay counts, which it clears; what the spec gives no elastic link, SPARE and MAP, is free there.
ELASTIC_WIDTH writes the width and answers, waiting for the frame start on an UP link of another width. LANE_TEST starts a
test with its pattern and rate; a stop answers the bit errors and clears them. LINK_TIME answers LINK_FAILED on a link that
is not UP, else says SYNC; with the DREQ come it says FOLLOW and DRESP and answers offset and delay; a lost stamp gives
TIMEOUT. (Rests on R228, R229, R245, R260, R347, R395, R407, R409.) -/
def Obligations.LinkCommandsAct : Prop :=
  ∀ (s : State) (i : Nat) (c : Taken),
    let d := c.desc
    let n := 16 * fieldOf d 8 1 + fieldOf d 9 1
    let u := s.less 1 i
    let b := s.started 1 i 0 c
    let state := [(16, 1, s.linkState n), (17, 1, if n < 16 then s.spare n else (Config.freeW32 s.free).toNat), (18, 2, s.activeMask n)]
    (s.turn 1 0x0401 i c → s.linkState n ≠ 0 ∨ s.on (linkEn n) = true → exec .linkUp s = .next (b.finishAt 1 i (errResp 0x13 9 0 0)))
    ∧ (s.turn 1 0x0401 i c → s.linkState n = 0 → s.on (linkEn n) = false →
      let q := fieldOf d 16 1
      let x := if n < 16 then
          (((b.put (Reg.LD_LINK_CTL_PEER_PART_EXP n) (fieldOf d 12 1)).put (Reg.LD_LINK_CTL_PEER_LINK_EXP n)
            (bits (fieldOf d 13 1) 3 0)).put (Reg.LD_LINK_CTL_PEER_CHK n) (bits (fieldOf d 13 1) 7 7)).put
            (Reg.LD_LINK_STAT_SPARE n) 8
        else b.put (Reg.EL_LINK_CTL_WIDTH (n - 16)) (fieldOf d 14 1)
      exec .linkUp s = .next (((linkLanes n).foldl (fun y l =>
        ((((((y.put (laneCtl l 2 1) (fieldOf d 10 1)).put (laneCtl l 15 12) (fieldOf d 11 1)).put (laneCtl l 4 3)
          (fieldOf d 15 1)).put (laneCtl l 11 8) (bits q 3 0)).put (laneCtl l 7 7) (bits q 7 7)).put (laneCtl l 18 16) 0).laneEnable l)
        (x.set1 (linkEn n))).started 1 i 0 c))
    ∧ (s.due 1 0x0401 c →
      let lost := (if n < 16 then 1 < (s.lanesIn n [lFailed]).length else 3 < (s.lanesIn n [lFailed]).length) ∨ s.linkState n = 3
      (s.isUp n = true → exec .linkUp s = .next (s.spend.finishAt 1 0 (okWith 9 (packBytes (state ++ [(20, 5, s.chosenBits n)])))))
      ∧ (s.isUp n = false → lost → exec .linkUp s = .next
        ((s.setLinkState n 3).finishAt 1 0 (errResp 0x18 (linkNo n) (s.badMask n) 0)))
      ∧ (s.isUp n = false → ¬ lost → exec .linkUp s = .next s))
    ∧ (s.turn 1 0x0402 i c → exec .linkDown s = .next ((u.takeDown n).respond 1 c false okResp))
    ∧ (s.turn 1 0x0403 i c → exec .linkStatus s = .next (((u.put (linkReplay n 31 0) 0).spend.spend).respond 1 c false
      (okWith 16 (packBytes (state ++ [(20, 4, if n < 16 then (s.rd (Adr.LD_LINK_MAP n)).toNat else (Config.freeW32 (s.free + 1)).toNat),
        (24, 8, s.get (linkReplay n 31 0))])))))
    ∧ (s.turn 1 0x0404 i c →
      let e := fieldOf d 8 1
      let w := fieldOf d 9 1
      let x := b.put (Reg.EL_LINK_CTL_WIDTH e) w
      (s.isUp (16 + e) = false → exec .elasticWidth s = .next (x.finishAt 1 i okResp))
      ∧ (s.isUp (16 + e) = true → s.get (Reg.EL_LINK_STAT_WIDTH e) ≠ w →
        exec .elasticWidth s = .next ((x.onLink (16 + e) (fun k => { k with want := some w, wantFw := true })).started 1 i 0 c))
      ∧ (s.isUp (16 + e) = true → s.get (Reg.EL_LINK_STAT_WIDTH e) = w →
        exec .elasticWidth s = .next ((if widthLanes w ≤ (s.lanesIn (16 + e) [lActive]).length then
          x.onLink (16 + e) (fun k => { k with want := none }) else x).finishAt 1 i okResp)))
    ∧ (s.due 1 0x0404 c → exec .elasticWidth s = .next
      (if s.get (Reg.EL_LINK_STAT_WIDTH (fieldOf d 8 1)) = fieldOf d 9 1 then s.finishAt 1 0 okResp else s))
    ∧ (s.turn 1 0x0405 i c →
      let l := (if n < 16 then 9 * n else 144 + 4 * (n - 16)) + fieldOf d 10 1
      let v := fieldOf d 12 1
      (fieldOf d 11 1 ≠ 1 → exec .laneTest s = .next ((((u.put (laneErr l) 0).laneDisable l).put (laneCtl l 18 16) 0).respond 1 c false
        (okWith 4 (packBytes [(16, 4, s.get (laneErr l))]))))
      ∧ (fieldOf d 11 1 = 1 →
        let x := if s.laneState l = lOff then u else u.laneDisable l
        let y := ((((x.set1 (laneCtl l 18 18)).put (laneCtl l 17 16) (bits v 5 4)).put (lanePrbs l 3 2) (bits v 1 0)).put
          (lanePrbs l 0 0) (bits v 2 2)).put (lanePrbs l 1 1) (bits v 3 3)
        exec .laneTest s = .next (((y.put (lanePrbs l 9 5) (fieldOf d 16 1)).laneEnable l).respond 1 c false okResp)))
    ∧ (∀ id far, s.turn 1 0x0704 i c → s.isUp n = true → exec (.linkTime id far) s = .next
      ((b.say n (timeMsgOf 0 id.toNat 0 0)).started 1 i id.toNat c))
    ∧ (∀ id far, s.turn 1 0x0704 i c → s.isUp n = false → exec (.linkTime id far) s = .next
      (b.finishAt 1 i (errResp 0x18 (linkNo n) (s.badMask n) 0)))
    ∧ (s.due 1 0x0704 c →
      let sent := (s.tb.txq.filter (fun e => e.src == n && e.id == c.note)).getLast?
      let asked := (s.link n).timeIn.find? (fun m => bits m.2.toNat 17 16 == 2)
      (∀ id far, 256 ≤ c.note → exec (.linkTime id far) s = .next (s.finishAt 1 0 (errResp 4 0 0 0)))
      ∧ (∀ id far, c.note < 256 → far = none ∨ sent = none ∨ asked = none → exec (.linkTime id far) s = .next s)
      ∧ (∀ id (t2 t3 : Nat) e m, c.note < 256 → sent = some e → asked = some m →
        let t1 : Nat := carried e.at_
        let t4 : Nat := m.1 / 2 ^ 16
        let fwd : Int := (t2 : Int) - t1
        let bwd : Int := (t4 : Int) - t3
        let x := ((s.say n (timeMsgOf 1 c.note c.note t1)).say n (timeMsgOf 3 c.note (bits m.2.toNat 15 8) t4)).onLink n
          (fun k => { k with timeIn := k.timeIn.erase m })
        let left := x.tb.txq.filter (fun e => !(e.src == n && e.id == c.note))
        exec (.linkTime id (some (t2, t3))) s = .next ((({ x with tb := { x.tb with txq := left } } : State).put Reg.TB_STAT_TXQ_CNT
          left.length).finishAt 1 0 (okWith 17 (packBytes [(16, 8, wrap 64 ((fwd - bwd) * 128)), (24, 8, wrap 64 ((fwd + bwd) * 128)),
            (32, 1, c.note)])))))
    ∧ exec .linkUp s = .next (s.cmdLong 1 0x0401 State.linkUpBegin State.linkUpPoll)
    ∧ exec .linkDown s = .next (s.cmd 1 0x0402 (fun e x => (x.takeDown (argLink e), okResp)))
    ∧ exec .linkStatus s = .next (s.cmd 1 0x0403 State.linkStatus)
    ∧ exec .elasticWidth s = .next (s.cmdLong 1 0x0404 State.elasticWidth State.elasticPoll)
    ∧ exec .laneTest s = .next (s.cmd 1 0x0405 State.laneTest)
    ∧ ∀ id far, exec (.linkTime id far) s = .next (s.cmdLong 1 0x0704 (State.linkTimeBegin id) (State.linkTimePoll far))

/-! ### Memory and capture commands -/

/-- MEM_INFO answers the channels' states, capacity, rate, clamshell and free units and changes nothing else. REGION_ALLOC places
a region, opens its windows and answers its handle, channels and device address; without a place it answers RESOURCE_BUSY.
REGION_FREE frees a region of the host that nothing uses; one in use answers RESOURCE_BUSY, another handle NOT_ALLOCATED.
MEM_COPY of a range the host may not reach answers BAD_ADDRESS, without DMA the DMA error, of 0 bytes OK; else its bytes wait
in their channel, and when all are done it answers, a read after its bytes are posted to host memory, with DATA_ERROR after
an uncorrected burst; a cut transfer answers DMA_ERROR. CAP_CONFIG outside IDLE and DISABLED answers the state, without a
region of the host NOT_ALLOCATED; else it writes the configuration block and the region. DRIFT_CFG keeps its value; CAP_CTL
arms, stops, forces or disarms and answers the state, a STOP of a running capture when its last record is written. CAP_STATUS
answers its registers. Each row is the shared handling of R372 with these meanings. (Rests on R273, R282, R364, R382, R395,
R411, R412, R413.) -/
def Obligations.MemoryAndCaptureCommandsAct : Prop :=
  ∀ (s : State) (i : Nat) (c : Taken),
    let d := c.desc
    let u := s.less 2 i
    let b := s.started 2 i 0 c
    (∀ dma, exec .memInfo s = .next (s.cmd 2 0x0501 State.memInfo) ∧ exec .regionAlloc s = .next (s.cmd 2 0x0502 State.regionAlloc)
      ∧ exec .regionFree s = .next (s.cmd 2 0x0503 State.regionFree)
      ∧ exec (.memCopy dma) s = .next (s.cmdLong 2 0x0504 (State.copyBegin dma) State.copyPoll)
      ∧ exec .driftCfg s = .next (s.cmd 2 0x0505 State.driftCfg)
      ∧ exec (.capConfig dma) s = .next (s.cmd 2 0x0601 (State.capConfig dma))
      ∧ exec .capCtl s = .next (s.cmdLong 2 0x0602 State.capCtl State.capCtlPoll)
      ∧ exec .capStatus s = .next (s.cmd 2 0x0603 State.capStatus))
    ∧ (s.turn 2 0x0501 i c → exec .memInfo s = .next (u.respond 2 c false (okWith 26 (packBytes
      ((List.range 16).map (fun k => (16 + k, 1, s.chanState k)) ++ [(32, 4, s.capacity 0 / 2 ^ 20),
        (36, 1, s.get (Reg.GD_CH_CTL_RATE 0)), (37, 1, s.get (Reg.GD_CH_CTL_CLAMSHELL 0)), (38, 4, s.freeUnits)])))))
    ∧ (s.turn 2 0x0502 i c →
      let n := fieldOf d 9 1
      let units := fieldOf d 12 4 / n
      (∀ c0 base, s.place n (fieldOf d 10 1) units = some (c0, base) →
        let r : Region := ⟨s.newHandle, fieldOf d 8 1, n, c0, base, units, true⟩
        let a := (regionChans n c0).foldl (fun x k => x.openWin (fieldOf d 8 1) base units k) u
        exec .regionAlloc s = .next (({ a with chip := { a.chip with regions := a.chip.regions ++ [r] } } : State).respond 2 c false
          (okWith 16 (packBytes [(16, 4, s.newHandle), (20, 1, c0), (21, 1, n), (24, 8, regionD r)]))))
      ∧ (s.place n (fieldOf d 10 1) units = none → exec .regionAlloc s = .next (u.respond 2 c false (errResp 0x13 1 0 0))))
    ∧ (s.turn 2 0x0503 i c →
      let no := u.respond 2 c false (notHeld (fieldOf d 8 4))
      (∀ r, s.regionOf (fieldOf d 8 4) = some r →
        (r.host = false → exec .regionFree s = .next no)
        ∧ (r.host = true → s.regionBusy r = true → exec .regionFree s = .next (u.respond 2 c false (errResp 0x13 5 0 0)))
        ∧ (r.host = true → s.regionBusy r = false →
          exec .regionFree s = .next ((u.freeRegion (fieldOf d 8 4)).respond 2 c false okResp)))
      ∧ (s.regionOf (fieldOf d 8 4) = none → exec .regionFree s = .next no))
    ∧ (∀ dma, s.turn 2 0x0504 i c →
      let len := fieldOf d 12 4
      let a := fieldOf d 16 8
      let read := fieldOf d 8 1 == 0
      let reach := a % 2 ^ 32 + len ≤ 2 ^ 32 ∧ ∀ k < len, if read then (s.hostRd (a + k)).isSome = true else s.hostWrOk (a + k) = true
      let bad := s.dmaBad (if read then { dma with status := 0 } else dma)
      (¬ reach → exec (.memCopy dma) s = .next (b.finishAt 2 i (errResp 0x1F 0 0 0)))
      ∧ (∀ r, reach → bad = some r → exec (.memCopy dma) s = .next (b.finishAt 2 i r))
      ∧ (reach → bad = none → len = 0 → exec (.memCopy dma) s = .next (b.finishAt 2 i okResp))
      ∧ (reach → bad = none → len ≠ 0 → exec (.memCopy dma) s = .next
        ((b.hostBegin true a len (if read then none else some (dmaBytes dma len)) [(0, len)]).started 2 i s.pcie.txSeq c)))
    ∧ (∀ dma, s.due 2 0x0504 c →
      (s.txOf c.note = none → exec (.memCopy dma) s = .next s)
      ∧ (∀ x, s.txOf c.note = some x →
        let o : State := { s with pcie := { s.pcie with txs := s.pcie.txs.erase x } }
        let n := if x.failed then x.got.foldl (fun n r => n + r.2.length) 0 else x.size
        let cut : Prop := c.cut = true ∨ fieldOf d 8 1 = 0 ∧ s.mayMaster = false
        (x.left ≠ 0 → exec (.memCopy dma) s = .next s)
        ∧ (x.left = 0 → cut → exec (.memCopy dma) s = .next (o.finishAt 2 0 dmaCut))
        ∧ (x.left = 0 → ¬ cut → exec (.memCopy dma) s = .next
          ((if fieldOf d 8 1 = 0 then o.toHost (fieldOf d 24 8) (x.bytes.take n) else o).finishAt 2 0
            (if x.failed then errResp 0x20 0 0 0 else okResp)))))
    ∧ (s.turn 2 0x0505 i c → exec .driftCfg s = .next
      (({ u with chip := { u.chip with drift := fieldOf d 8 4 } } : State).respond 2 c false okResp))
    ∧ (∀ dma, s.turn 2 0x0601 i c →
      (s.capState ≠ cIdle → s.capState ≠ cDisabled →
        exec (.capConfig dma) s = .next (u.respond 2 c false (errResp 0x13 4 s.capState 0)))
      ∧ (s.capState = cIdle ∨ s.capState = cDisabled →
        (s.hostRegion (fieldOf d 8 4) kCapture = none →
          exec (.capConfig dma) s = .next (u.respond 2 c false (notHeld (fieldOf d 8 4))))
        ∧ (∀ r e, s.hostRegion (fieldOf d 8 4) kCapture = some r → s.dmaBad dma = some e →
          exec (.capConfig dma) s = .next (u.respond 2 c false e))
        ∧ (∀ r, s.hostRegion (fieldOf d 8 4) kCapture = some r → s.dmaBad dma = none →
          let a := (capBlock.zip (words4 (dmaBytes dma 2456))).foldl (fun x p =>
            if p.1 = Adr.CAP_CTL then x.put Reg.CAP_CTL_SPILL_EN (p.2 % 2) else x.writeFields p.1 p.2) u
          let e := (((a.put Reg.CAP_RGN_SIZE (r.n * r.units)).put Reg.CAP_RGN_BASE r.base).put Reg.CAP_RGN_LOG2N (log2n r.n - 1)).put
            Reg.CAP_RGN_C0 r.c0
          exec (.capConfig dma) s = .next
            (({ e with cap := { e.cap with region := some r.handle } } : State).respond 2 c false okResp))))
    ∧ (s.turn 2 0x0602 i c →
      let act := fieldOf d 8 1
      let run : Prop := s.capState = cArmed ∨ s.capState = cPost
      (act = 1 → s.cap.region = none → exec .capCtl s = .next (b.finishAt 2 i (notHeld 0)))
      ∧ (act = 1 → s.cap.region ≠ none → exec .capCtl s = .next (b.capArm.finishAt 2 i
          (if s.capState = cIdle ∧ b.capArm.capState = cArmed then okWith 1 b.capArm.capState else errResp 0x13 4 s.capState 0)))
      ∧ (act = 2 → run → exec .capCtl s = .next (b.capStopReq.started 2 i 0 c))
      ∧ (act = 2 → ¬ run → exec .capCtl s = .next (b.finishAt 2 i (okWith 1 s.capState)))
      ∧ (act = 3 → exec .capCtl s = .next (b.capForce.finishAt 2 i { okWith 1 b.capForce.capState with
          detail := ofBool (s.trigState == cPost || s.trigState == cDone || s.trigState == cOvf || s.trigState == cStopped) }))
      ∧ (act ≠ 1 → act ≠ 2 → act ≠ 3 → exec .capCtl s = .next (b.capDisarm.finishAt 2 i (okWith 1 b.capDisarm.capState))))
    ∧ (s.due 2 0x0602 c → exec .capCtl s = .next
      (if s.capState = cArmed ∨ s.capState = cPost then s else s.finishAt 2 0 (okWith 1 s.capState)))
    ∧ (s.turn 2 0x0603 i c → exec .capStatus s = .next (u.respond 2 c false (okWith 32 (packBytes
      [(16, 1, s.capState), (17, 1, s.get Reg.CAP_STAT_TRIGGERED + 2 * s.get Reg.CAP_STAT_OVF), (20, 4, s.get Reg.CAP_GEOM_NSLOT),
        (24, 4, 256 * s.get Reg.CAP_GEOM_RS), (28, 8, s.pair Adr.CAP_TRIG_LO Adr.CAP_TRIG_HI), (36, 4, s.get Reg.CAP_TRIG_SLOT_SLOT),
        (40, 4, s.get Reg.CAP_LAST_SLOT_SLOT), (44, 4, s.get Reg.CAP_RECCNT_COUNT)]))))

/-! ### Image, diagnostic and security commands -/

/-- GET_INFO answers device, mode, lifecycle, firmware, serial number, stride, duty and temperature; IMAGE_INFO the identity of
the image or NO_IMAGE; SET_EVENT_VECTOR and APERTURE take their values; WARM_RESET answers and asks for the reset with CAUSE
3. IMAGE_LOAD starts by entering LOAD without an image while the step clock is locked (in QUARANTINE only where the islands
allow it), else answers NOT_IN_MODE; a host window not held is BAD_ADDRESS; its end reads and verifies the bytes, and answers
the image or, with no image left, the reason; a cut or refused transfer leaves no image. IMAGE_UNLOAD ends in IDLE without an
image. SNAPSHOT_SAVE with a place that fits and, for host memory, Bus Master Enable enters SNAPSHOT and, once consumption has
settled and the place is quiet, writes the snapshot and returns to STEP at rest. SNAPSHOT_RESTORE sets EPOCH to 0 and writes
a snapshot that fits, else it answers why not. Each row is the shared handling of R372 with these meanings. (Rests on R359,
R365, R382, R395, R398, R399, R406, R418, R429, R432, R433, R438.) -/
def Obligations.ImageAndSystemCommandsAct : Prop :=
  ∀ (s : State) (i : Nat) (c : Taken),
    let d := c.desc
    let b := s.started 3 i 0 c
    (∀ img ex isl crc finds dma, exec .getInfo s = .next (s.cmd 0 0x0101 State.getInfo)
      ∧ exec .setEventVector s = .next (s.cmd 0 0x0102 State.setVector) ∧ exec .warmReset s = .next (s.cmd 0 0x0103 State.askReset)
      ∧ exec .imageInfo s = .next (s.cmd 3 0x0202 State.imageInfo) ∧ exec .aperture s = .next (s.cmd 3 0x0203 State.aperture)
      ∧ exec (.imageLoad img ex isl crc) s = .next (s.cmdLong 3 0x0201 (State.loadStart isl) (State.loadEnd img ex crc))
      ∧ exec .imageUnload s = .next (s.cmdLong 3 0x0204 (fun _ s => (s, 0, none)) State.imageUnload)
      ∧ exec (.snapshotSave finds crc) s = .next (s.cmdLong 3 0x030A State.saveBegin (State.savePoll finds crc))
      ∧ exec (.snapshotRestore dma crc) s = .next (s.cmdLong 3 0x030B State.restoreStart (State.restorePoll dma crc)))
    ∧ (s.turn 0 0x0101 i c → exec .getInfo s = .next ((s.less 0 i).respond 0 c false (okWith 26 (packBytes
      [(16, 2, if s.fuses.small then 0x0C31 else 0x0C30), (18, 1, s.mode), (19, 1, s.fuses.lifecycle),
        (20, 4, s.chip.fwVersion.toNat), (24, 8, s.fuses.serial.toNat), (32, 8, s.stride), (40, 1, s.dutyPct),
        (41, 1, s.get Reg.CHIP_THERM_TJ_MAX)]))))
    ∧ (s.turn 0 0x0102 i c → exec .setEventVector s = .next (((s.less 0 i).onBox 0 (fun b => { b with
        vectors := upd b.vectors (fieldOf d 8 2) (fieldOf d 10 1) })).respond 0 c false okResp))
    ∧ (s.turn 0 0x0103 i c → exec .warmReset s = .next
      (({ s.less 0 i with chip := { s.chip with warmReq := 3 } } : State).respond 0 c false okResp))
    ∧ (∀ g, s.turn 3 0x0202 i c → s.chip.image = some g → exec .imageInfo s = .next
      ((s.less 3 i).respond 3 c false (okWith 21 (packBytes
        [(16, 8, g.id.toNat), (24, 8, g.sys.toNat), (32, 2, g.part), (34, 2, g.npart), (36, 1, g.seed.toNat)]))))
    ∧ (s.startable 3 0x0202 = some (i, c) → s.lifeOk 0x0202 = true → s.chip.image = none → exec .imageInfo s = .next
      ((s.less 3 i).respond 3 c false (errResp 0x12 0 0 0)))
    ∧ (s.turn 3 0x0203 i c → exec .aperture s = .next
      (({ s.less 3 i with pcie := { s.pcie with viewIs := fieldOf d 8 1 == 1 } } : State).respond 3 c false okResp))
    ∧ (∀ img ex isl crc, s.turn 3 0x0201 i c →
      let may : Prop := s.on Reg.CHIP_CLK_STAT_STEP_LOCK = true ∧ s.on Reg.CHIP_CLK_STAT_LREF_OK = true
        ∧ (s.mode = mQuarantine → isl = true)
      let held : Prop := fieldOf d 8 1 = 1 → (∀ k < fieldOf d 24 8, s.hostKind (fieldOf d 16 8 + k) = some kHost)
        ∧ ∀ k < 2 * fieldOf d 10 2, s.hostKind (fieldOf d 32 8 + k) = some kHost
      (¬ may → exec (.imageLoad img ex isl crc) s = .next (b.finishAt 3 i (errResp 0x10 s.mode 0 0)))
      ∧ (may → ¬ held → exec (.imageLoad img ex isl crc) s = .next (b.finishAt 3 i (errResp 0x1F 0 0 0)))
      ∧ (may → held → exec (.imageLoad img ex isl crc) s = .next
        ((((b.enterLoad.wr Adr.CHIP_SPOIL_LO 0).wr Adr.CHIP_SPOIL_HI 0).clr Reg.CHIP_SPOIL_CTL_VALID).started 3 i 0 c)))
    ∧ (∀ img ex isl crc, s.due 3 0x0201 c →
      let src := fieldOf d 8 1
      let n := 2 * fieldOf d 10 2
      let r := (s.loadRead src (fieldOf d 16 8) (fieldOf d 24 8) crc).loadRead src (fieldOf d 32 8) n crc
      let cut : Prop := src = 0 ∧ c.cut = true
      let bad := if src = 0 then (r.dmaBad img).orElse (fun _ => if n = 0 then none else r.dmaBad ex) else none
      (cut → exec (.imageLoad img ex isl crc) s = .next (s.unload.finishAt 3 0 dmaCut))
      ∧ (¬ cut → s.loadQuiet = false → exec (.imageLoad img ex isl crc) s = .next s)
      ∧ (∀ e, ¬ cut → s.loadQuiet = true → bad = some e → exec (.imageLoad img ex isl crc) s = .next (r.unload.finishAt 3 0 e))
      ∧ (¬ cut → s.loadQuiet = true → bad = none → exec (.imageLoad img ex isl crc) s = .next
        (match r.load (fieldOf d 9 1) (s.loadBytes src img (fieldOf d 16 8) (fieldOf d 24 8) crc)
            (exclOf (s.loadBytes src ex (fieldOf d 32 8) n crc)) crc with
         | .error e => r.unload.finishAt 3 0 (loadResp e)
         | .ok t => t.finishAt 3 0 (match t.chip.image with | some g => imageResp g | none => okResp))))
    ∧ (s.turn 3 0x0204 i c → exec .imageUnload s = .next (b.started 3 i 0 c))
    ∧ (s.due 3 0x0204 c → exec .imageUnload s = .next (s.unload.finishAt 3 0 okResp))
    ∧ (∀ finds crc, s.turn 3 0x030A i c →
      (∀ r, s.placeRefused d (snapLen s.nTeams) = some r → exec (.snapshotSave finds crc) s = .next (b.finishAt 3 i r))
      ∧ (s.placeRefused d (snapLen s.nTeams) = none → fieldOf d 8 1 = 1 → s.mayMaster = false →
        exec (.snapshotSave finds crc) s = .next (b.finishAt 3 i (errResp 5 0 0 0)))
      ∧ (s.placeRefused d (snapLen s.nTeams) = none → fieldOf d 8 1 = 1 → s.mayMaster = true →
        exec (.snapshotSave finds crc) s = .next (((b.clr Reg.CHIP_MODE_AT_REST).setMode mSnapshot).started 3 i 0 c))
      ∧ (s.placeRefused d (snapLen s.nTeams) = none → fieldOf d 8 1 ≠ 1 →
        exec (.snapshotSave finds crc) s = .next (((b.clr Reg.CHIP_MODE_AT_REST).setMode mSnapshot).started 3 i 0 c)))
    ∧ (∀ finds crc, s.due 3 0x030A c →
      let cut : Prop := fieldOf d 8 1 = 1 ∧ c.cut = true
      let may : Prop := s.settled = true ∧ s.placeQuiet d = true
      let bs := s.snapshot finds (s.stride + 1)
      let f := s.snapFound finds
      let ok := okWith 16 (packBytes [(16, 8, bs.length), (24, 8, s.stride + 1)])
      (cut → exec (.snapshotSave finds crc) s = .next (s.backToStep.finishAt 3 0 dmaCut))
      ∧ (¬ cut → ¬ may → exec (.snapshotSave finds crc) s = .next s)
      ∧ (¬ cut → may → fieldOf d 8 1 = 1 → f.mayMaster = true →
        exec (.snapshotSave finds crc) s = .next ((f.toHost (fieldOf d 16 8) bs).backToStep.finishAt 3 0 ok))
      ∧ (¬ cut → may → fieldOf d 8 1 = 1 → f.mayMaster = false →
        exec (.snapshotSave finds crc) s = .next (f.backToStep.finishAt 3 0 (errResp 5 0 0 0)))
      ∧ (¬ cut → may → fieldOf d 8 1 ≠ 1 → exec (.snapshotSave finds crc) s = .next
        ((match f.regionOf (fieldOf d 12 4) with
          | some r => f.toRegion r (fieldOf d 16 8) bs crc
          | none => f).backToStep.finishAt 3 0 ok)))
    ∧ (s.backToStep = (s.set1 Reg.CHIP_MODE_AT_REST).setMode mStep)
    ∧ (∀ dma crc, s.turn 3 0x030B i c →
      (∀ r, s.placeRefused d (snapLen s.nTeams) = some r → exec (.snapshotRestore dma crc) s = .next (b.finishAt 3 i r))
      ∧ (s.placeRefused d (snapLen s.nTeams) = none → exec (.snapshotRestore dma crc) s = .next
        ((b.put Reg.LD_HOLD_STAT_EPOCH 0).started 3 i 0 c)))
    ∧ (∀ dma crc, s.due 3 0x030B c →
      let cut : Prop := fieldOf d 8 1 = 1 ∧ c.cut = true
      let n := snapLen s.nTeams
      (cut → exec (.snapshotRestore dma crc) s = .next (s.finishAt 3 0 dmaCut))
      ∧ (¬ cut → s.placeQuiet d = false → exec (.snapshotRestore dma crc) s = .next s)
      ∧ (∀ e, ¬ cut → fieldOf d 8 1 = 1 → s.dmaBad dma = some e → exec (.snapshotRestore dma crc) s = .next (s.finishAt 3 0 e))
      ∧ (¬ cut → fieldOf d 8 1 = 1 → s.dmaBad dma = none → exec (.snapshotRestore dma crc) s = .next
        (match s.snapBad (dmaBytes dma n) with
         | some r => s.finishAt 3 0 r
         | none => (s.restoreNow (dmaBytes dma n)).1.finishAt 3 0 (s.restoreNow (dmaBytes dma n)).2))
      ∧ (fieldOf d 8 1 ≠ 1 → s.placeQuiet d = true →
        let f := match s.regionOf (fieldOf d 12 4) with
          | some r => s.fromRegion r (fieldOf d 16 8) n crc
          | none => (s, [])
        exec (.snapshotRestore dma crc) s = .next
          (match f.1.snapBad f.2 with
           | some r => f.1.finishAt 3 0 r
           | none => (f.1.restoreNow f.2).1.finishAt 3 0 (f.1.restoreNow f.2).2)))

/-- SB_READ posts COUNT records from FIRST on to host memory and answers NEWEST and FROZEN; without mastering it answers
DMA_ERROR. SB_MARK requests a record 0x70 with the host's bytes, or answers DETAIL 1 while the Saddlebag is frozen. REG_SET
writes a regulator unless a link would be overloaded. PROBE_CFG writes a probe (in MODE 3 with a held probe region), or its
enable alone. TRACE_CFG clears GEN, writes the sink, CYC_EN and WRAP, restores PRI and sets GEN; the region sink needs a held
trace region of more than one channel. TEAM_POWER of a Team in use is RESOURCE_BUSY; else it isolates a running Team, turns
its banks off and opens its switch, or closes the switch, and answers once the Team is off, or on and no longer isolated; at
once where it is there already. DEBUG_READ sends one read request from the first hub with a free tag and answers with the
words of the completion of its tag. Each row is the shared handling of R372 with these meanings. (Rests on R149, R359, R415,
R416, R417, R455, R477, R496.) -/
def Obligations.DiagnosticCommandsAct : Prop :=
  ∀ (s : State) (i : Nat) (c : Taken),
    let d := c.desc
    let u := s.less 0 i
    let b := s.started 0 i 0 c
    (∀ m next, exec .sbRead s = .next (s.cmd 0 0x0901 State.sbReadCmd) ∧ exec .sbMark s = .next (s.cmd 0 0x0902 State.sbMark)
      ∧ exec (.regSet m) s = .next (s.cmd 0 0x0903 (State.regSet m)) ∧ exec .probeCfg s = .next (s.cmd 0 0x0904 State.probeCfg)
      ∧ exec (.traceCfg next) s = .next (s.cmd 0 0x0905 (State.traceCfg next))
      ∧ exec .teamPower s = .next (s.cmdLong 0 0x0906 State.teamPowerBegin State.teamPowerPoll)
      ∧ exec .debugRead s = .next
        ((s.pollStarted 0 0x0907 State.debugPoll).getD (s.cmdLong 0 0x0907 State.debugBegin State.debugPoll)))
    ∧ (s.turn 0 0x0901 i c → s.mayMaster = false → exec .sbRead s = .next (u.respond 0 c false (errResp 5 0 0 0)))
    ∧ (s.turn 0 0x0901 i c → s.mayMaster = true → exec .sbRead s = .next
      ((u.toHost (fieldOf d 16 8) ((List.range (fieldOf d 10 2)).flatMap (fun k =>
        leBytes 16 (s.ringAt ((fieldOf d 8 2 + k) % 8192)).toNat))).respond 0 c false
        (okWith 3 (packBytes [(16, 2, s.get Reg.SB_STAT_NEWEST), (18, 1, s.get Reg.SB_STAT_FROZEN)]))))
    ∧ (s.turn 0 0x0902 i c → s.on Reg.SB_STAT_FROZEN = false → exec .sbMark s = .next
      ((u.groomRec 0 0 0x70 (BitVec.ofNat 48 (fieldOf d 8 6))).respond 0 c false okResp))
    ∧ (s.turn 0 0x0902 i c → s.on Reg.SB_STAT_FROZEN = true → exec .sbMark s = .next (u.respond 0 c false ⟨0, 1, 0, 0⟩))
    ∧ (∀ m, s.turn 0 0x0903 i c → m = none ∨ s.rateSum (fieldOf d 8 1) (fieldOf d 10 1) = 0 → exec (.regSet m) s = .next
      ((((u.put (Reg.RTR_REG_BURST (fieldOf d 8 1)) (fieldOf d 9 1)).put (Reg.RTR_REG_RATE (fieldOf d 8 1)) (fieldOf d 10 1)).put
        (Reg.RTR_REG_EXCESS (fieldOf d 8 1)) (fieldOf d 11 1)).respond 0 c false okResp))
    ∧ (∀ t p, s.turn 0 0x0903 i c → s.rateSum (fieldOf d 8 1) (fieldOf d 10 1) ≠ 0 → exec (.regSet (some (t, p))) s = .next
      (u.respond 0 c false (errResp 0x21 t p 0)))
    ∧ (s.turn 0 0x0904 i c →
      let k := fieldOf d 8 1
      let q := fieldOf d 9 1
      let h := fieldOf d 20 4
      let written (p : Option Probe) : State :=
        let s0 := u.each 16 (fun c x => x.onChan c (fun v => { v with probeAt := upd v.probeAt k 0 }))
        let s1 := ((s0.writeFields (Adr.RTR_PRB_SEL k) (fieldOf d 10 2)).put (Reg.RTR_PRB_MATCH_VALUE k) (fieldOf d 12 4)).put
          (Reg.RTR_PRB_MASK_VALUE k) (fieldOf d 16 4)
        let s2 := ((s1.put (Reg.RTR_PRB_CTL_STATIC k) (bits q 1 1)).put (Reg.RTR_PRB_CTL_MODE k) (bits q 3 2)).put
          (Reg.RTR_PRB_CTL_EN k) (q % 2)
        { s2 with probes := upd s2.probes k p }
      (bit q 7 = true → exec .probeCfg s = .next ((u.put (Reg.RTR_PRB_CTL_EN k) (q % 2)).respond 0 c false okResp))
      ∧ (bit q 7 = false → bits q 3 2 ≠ 3 → exec .probeCfg s = .next ((written none).respond 0 c false okResp))
      ∧ (bit q 7 = false → bits q 3 2 = 3 → s.hostRegion h kProbe = none →
        exec .probeCfg s = .next (u.respond 0 c false (notHeld h)))
      ∧ (∀ r, bit q 7 = false → bits q 3 2 = 3 → s.hostRegion h kProbe = some r → exec .probeCfg s = .next
        ((written (some ⟨h, regionD r, log2n r.n, regionSize r, 0⟩)).respond 0 c false okResp)))
    ∧ (∀ next, s.turn 0 0x0905 i c →
      let h := fieldOf d 12 4
      let go (x : State) : State :=
        ((((x.sinkNew (fieldOf d 8 1) 1 1).put Reg.GRM_TRC_CTL_PRI 0x1B).genWrite (fieldOf d 9 1) next).respond 0 c false okResp)
      let off := u.genWrite 0 next
      let no := u.respond 0 c false (notHeld h)
      (fieldOf d 8 1 ≠ 2 → exec (.traceCfg next) s = .next (go { off with chip := { off.chip with traceRegion := none } }))
      ∧ (fieldOf d 8 1 = 2 → s.hostRegion h kTrace = none → exec (.traceCfg next) s = .next no)
      ∧ (∀ r, fieldOf d 8 1 = 2 → s.hostRegion h kTrace = some r → r.n = 1 → exec (.traceCfg next) s = .next no)
      ∧ (∀ r, fieldOf d 8 1 = 2 → s.hostRegion h kTrace = some r → r.n ≠ 1 →
        exec (.traceCfg next) s = .next (go (off.trcRegion r))))
    ∧ (s.turn 0 0x0906 i c →
      let t := fieldOf d 8 2
      let off : Prop := s.get (Reg.TEAM_PWR_STATE t) = 0 ∧ s.on (Reg.TEAM_PWR_EN t) = false
      let up : Prop := s.get (Reg.TEAM_PWR_STATE t) = 1 ∧ s.on (Reg.TEAM_PWR_EN t) = true
      let iso := b.set1 (Reg.RTR_CTL_ISOLATE t)
      (t ∈ s.usedTeams → exec .teamPower s = .next (b.finishAt 0 i (errResp 0x13 8 0 0)))
      ∧ (t ∉ s.usedTeams → fieldOf d 10 1 = 0 → off → exec .teamPower s = .next (iso.finishAt 0 i okResp))
      ∧ (t ∉ s.usedTeams → fieldOf d 10 1 = 0 → ¬ off → exec .teamPower s = .next
        ((((iso.bankPower t 0 0).bankPower t 1 0).teamEn t false).started 0 i 0 c))
      ∧ (t ∉ s.usedTeams → fieldOf d 10 1 ≠ 0 → up →
        exec .teamPower s = .next ((b.clr (Reg.RTR_CTL_ISOLATE t)).finishAt 0 i okResp))
      ∧ (t ∉ s.usedTeams → fieldOf d 10 1 ≠ 0 → ¬ up → exec .teamPower s = .next ((b.teamEn t true).started 0 i 0 c)))
    ∧ (s.due 0 0x0906 c →
      let t := fieldOf d 8 2
      let st := s.get (Reg.TEAM_PWR_STATE t)
      ((s.team t).switching = true → exec .teamPower s = .next s)
      ∧ ((s.team t).switching = false → fieldOf d 10 1 = 1 →
        (st = 1 → exec .teamPower s = .next ((s.clr (Reg.RTR_CTL_ISOLATE t)).finishAt 0 0 okResp))
        ∧ (st ≠ 1 → exec .teamPower s = .next s))
      ∧ ((s.team t).switching = false → fieldOf d 10 1 ≠ 1 →
        (st = 0 → exec .teamPower s = .next (s.finishAt 0 0 okResp)) ∧ (st ≠ 0 → exec .teamPower s = .next s)))
    ∧ (s.turn 0 0x0907 i c → s.pollStarted 0 0x0907 State.debugPoll = none →
      (s.debugHub = none → exec .debugRead s = .next (b.started 0 i 0 c))
      ∧ (∀ h, s.debugHub = some h →
        let tag := ((List.range 255).find? (fun k => !b.debugTags.contains (k + 1))).getD 0 + 1
        exec .debugRead s = .next
          ((b.wait h (mkPacket (fieldOf d 8 2) (fieldOf d 10 1) 0 4 h 1 tag 0 (fieldOf d 12 4 / 2 ^ 24) (fieldOf d 12 4)
            (fieldOf d 11 1 - 1) [])).started 0 i tag c)))
    ∧ (s.due 0 0x0907 c →
      (s.debugHub = none → exec .debugRead s = .next s)
      ∧ (∀ h, s.debugHub = some h →
        let mine (p : Packet) := isCpl p && pTAG p == c.note && c.note != 0
        ((s.router h).boxA.findIdx? mine = none → exec .debugRead s = .next s)
        ∧ (∀ k p, (s.router h).boxA.findIdx? mine = some k → (s.router h).boxA[k]? = some p → exec .debugRead s = .next
          ((s.onRouter h (fun r => { r with boxA := r.boxA.eraseIdx k })).finishAt 0 0 (debugResp (fieldOf d 11 1) p)))))

/-- SEC_STATUS answers lifecycle, slots, tamper mask, wipes and the nonce. KEY_WRITE in the field with the slot full is
NOT_IN_LIFECYCLE; else it puts an unwrapped key into its slot and marks it, and a key that does not unwrap answers
BAD_SIGNATURE. LC_ADVANCE to the next state with a version not below the fused one blows the fuses and wipes the store, with
a record; another state or a lower version is BAD_DESCRIPTOR. LC_RETURN with a good token enters state 3 and wipes, else it
is BAD_SIGNATURE or the DMA error; whatever the outcome RET_NONCE is drawn afresh. A wipe clears the root key and every slot.
A tamper event wipes the store with a record, sets its bits in SEC_TAMPER and, while the core runs, leads to QUARANTINE; with
an LC_ADVANCE begun it also completes that, with two records. No detector, no effect. (Rests on R498, R500, R501, R506, R507,
R508, R509, R510.) -/
def Obligations.SecurityActs : Prop :=
  (∀ (s : State) (i : Nat) (c : Taken),
    let d := c.desc
    let u := s.less 0 i
    (∀ dma, exec .secStatus s = .next (s.cmd 0 0x0A01 State.secStatus) ∧ exec .keyWrite s = .next (s.cmd 0 0x0A02 State.keyWrite)
      ∧ exec .lcAdvance s = .next (s.cmd 0 0x0A03 State.lcAdvance)
      ∧ exec (.lcReturn dma) s = .next (s.cmd 0 0x0A04 (State.lcReturn dma)))
    ∧ (s.turn 0 0x0A01 i c → exec .secStatus s = .next (u.respond 0 c false (okWith 24 (packBytes
      [(16, 1, s.fuses.lifecycle), (18, 2, s.get Reg.SEC_STAT_SLOTS), (20, 1, s.get Reg.SEC_TAMPER_MASK),
        (24, 4, s.get Reg.SEC_WIPES_COUNT), (32, 8, s.sec.nonce.toNat)]))))
    ∧ (s.turn 0 0x0A02 i c →
      let kept : Prop := s.fuses.lifecycle = 2 ∧ s.slotFull (fieldOf d 8 1) = true
      (kept → exec .keyWrite s = .next (u.respond 0 c false (errResp 0x11 2 0 0)))
      ∧ (¬ kept → exec .keyWrite s = .next
        (match Config.keyUnwrap s.fuses.kek (BitVec.ofNat 320 (fieldOf d 12 40)) with
         | none => u.respond 0 c false (errResp 0x23 0 0 0)
         | some k => (({ u with sec := { u.sec with slots := Tab.set (fun _ => 0) u.sec.slots (fieldOf d 8 1) k } } : State).put
             Reg.SEC_STAT_SLOTS (s.get Reg.SEC_STAT_SLOTS ||| 2 ^ fieldOf d 8 1)).respond 0 c false okResp)))
    ∧ (s.turn 0 0x0A03 i c →
      let t := fieldOf d 8 1
      let old : Prop := fieldOf d 10 2 ≠ 0 ∧ fieldOf d 10 2 < s.fuses.minVersion
      (t = s.fuses.lifecycle + 1 → ¬ old → exec .lcAdvance s = .next
        (((u.blowFuses t (fieldOf d 10 2)).wipe [(0, 1, t)]).respond 0 c false (okWith 1 t)))
      ∧ (t = s.fuses.lifecycle + 1 → old → exec .lcAdvance s = .next (u.respond 0 c false (badDesc 5 10)))
      ∧ (t ≠ s.fuses.lifecycle + 1 → exec .lcAdvance s = .next (u.respond 0 c false (badDesc 5 8))))
    ∧ (∀ dma, s.turn 0 0x0A04 i c →
      (∀ r, s.dmaBad dma = some r → exec (.lcReturn dma) s = .next (u.drawNonce.respond 0 c false r))
      ∧ (s.dmaBad dma = none → exec (.lcReturn dma) s = .next
        (if s.tokenOk (dmaBytes dma (fieldOf d 12 4)) = true then
          (((u.blowFuses 3 0).wipe [(0, 1, 3)]).drawNonce).respond 0 c false (okWith 1 3)
         else u.drawNonce.respond 0 c false (errResp 0x23 0 0 0)))))
  ∧ (∀ (s : State) (recs : List (Nat × Nat × Nat)), (s.wipe recs).sec.rootKey = 0 ∧ (s.wipe recs).sec.slots = [] ∧
      (s.wipe recs).get Reg.SEC_STAT_SLOTS = 0)
  ∧ (∀ s : State, s.drawNonce = { s with free := s.free + 1, sec := { s.sec with nonce := Config.freeW64 s.free } })
  ∧ (∀ (s : State) (t v : Nat), s.blowFuses t v = ({ s with fuses := { s.fuses with
      lifecycle := t, minVersion := if v = 0 then s.fuses.minVersion else v } } : State).put Reg.SEC_STAT_LC t)
  ∧ (∀ (s : State) (b : Bool), exec (.tamper 0 b) s = .next s)
  ∧ ∀ (s : State) (mask : BitVec 4) (b : Bool), mask ≠ 0 →
    let s1 := s.put Reg.SEC_TAMPER_MASK (s.get Reg.SEC_TAMPER_MASK ||| mask.toNat)
    let m := s1.get Reg.SEC_TAMPER_MASK
    let after (x : State) : State := if s.coreRuns then x.enterQuarantine qTamper m else x
    (b = false ∨ s.advanceDue = none → exec (.tamper mask b) s = .next (after (s1.wipe [(6, 2, m)])))
    ∧ (∀ d, b = true → s.advanceDue = some d → exec (.tamper mask b) s = .next
      (after ((s1.blowFuses (fieldOf d 8 1) (fieldOf d 10 2)).wipe [(6, 2, m), (0, 1, fieldOf d 8 1)])))

/-! ### Trace, resets, clocks and power -/

/-- A conditional branch of a traced, awake Groom adds an atom, the eighth of which makes a packet; an indirect branch gives ADDR
with REASON 1, an exception EXC, each behind the pending atoms and its cycle count, and a full sync where one is due; of
another Groom they change nothing. Wait for interrupt gives SLEEP, from a traced Groom that is awake, and the Groom sleeps;
the wake of a traced Groom gives a full sync with REASON 3. A packet enters the FIFO whole while there is room above the
Groom's limit, else it is dropped and counted. A dropping Groom resumes with DROP and a full sync, once there is room. A
block is written when full, and when aged; without a sink nothing is. A write of GRM_TRC_CTL with GEN 0 starts the sink anew;
with GEN not 0 a new SINK, CYC_EN or WRAP sets CFG_LOCKED; each Groom whose bit of GEN changes begins with a full sync or
ends behind its atoms. (Rests on R485, R486, R487, R488, R490, R491, R493, R494, R495, R496.) -/
def Obligations.GroomTraceIsWritten : Prop :=
  (∀ (g : Fin 4) (s : State),
    let r := s.tracer g
    let busy : Prop := s.traced g = true ∧ r.asleep = false
    let at_ (cy : Nat) : State := s.setTracer g { r with now := r.now + cy }
    (∀ (taken : Bool) (cy : Nat) (next : Word), busy →
      let x := s.setTracer g { r with now := r.now + cy, atoms := r.atoms ++ [taken], last := r.now + cy, lastAt := s.tb.now }
      (r.atoms.length ≠ 7 → exec (.conditionalBranch g taken cy next) s = .next x)
      ∧ (r.atoms.length = 7 → exec (.conditionalBranch g taken cy next) s = .next ((x.flushAtoms g).periodic g next)))
    ∧ (∀ cy a h cause, busy →
      exec (.indirectBranch g cy a) s = .next (((at_ cy).counted g (pktAddr a 1)).periodic g a)
      ∧ exec (.exceptionTaken g cy a h cause) s = .next (((at_ cy).counted g (pktExc a h cause)).periodic g h)
      ∧ exec (.waitForInterrupt g cy) s = .next (((at_ cy).counted g [0x3B]).onTracer g (fun r => { r with asleep := true, lost := true })))
    ∧ (∀ taken cy next a h cause, ¬ busy → exec (.conditionalBranch g taken cy next) s = .next s
      ∧ exec (.indirectBranch g cy a) s = .next s ∧ exec (.exceptionTaken g cy a h cause) s = .next s
      ∧ exec (.waitForInterrupt g cy) s = .next (s.setTracer g { r with asleep := true, lost := true }))
    ∧ (∀ bs, s.counted g bs =
      let x := s.flushAtoms g
      (x.count g (x.tracer g).now x.tb.now).emit g bs)
    ∧ (∀ next, s.periodic g next = if 4096 ≤ r.since ∧ r.dropping = false then s.fullSync g 0 next else s)
    ∧ (∀ a, (r.asleep = false → exec (.wake g a) s = .next s)
      ∧ (r.asleep = true → s.traced g = true → exec (.wake g a) s = .next ((s.setTracer g { r with asleep := false }).fullSync g 3 a))
      ∧ (r.asleep = true → s.traced g = false → exec (.wake g a) s = .next (s.setTracer g { r with asleep := false })))
    ∧ (∀ next,
      let may : Prop := r.dropping = true ∧ busy ∧ s.trace.stopped = false ∧ resumeAt (s.trcPri g) ≤ s.trcFree
      (may → exec (.traceDrop g next) s = .next
        (((s.setTracer g { r with dropping := false, dropped := 0 }).dropSync g r.dropped 1 next).set1 Reg.GRM_TRC_STAT_DROPPED))
      ∧ (¬ may → exec (.traceDrop g next) s = .next s))
    ∧ (∀ aged, let sink := s.get Reg.GRM_TRC_CTL_SINK
      let x := s.drainBlock (s.get Reg.GRM_TRC_WPTR_OFFSET) (s.on Reg.GRM_TRC_STAT_WRAPPED) 8192
      let none_ : Prop := x.get Reg.GRM_TRC_WPTR_OFFSET = s.get Reg.GRM_TRC_WPTR_OFFSET
        ∧ x.on Reg.GRM_TRC_STAT_WRAPPED = s.on Reg.GRM_TRC_STAT_WRAPPED
      (sink = 0 ∨ sink = 3 → exec (.traceBlockFlush g aged) s = .next s)
      ∧ (sink = 1 ∨ sink = 2 → none_ → aged = true → exec (.traceBlockFlush g aged) s = .next (x.writeBlock g).trcStat)
      ∧ (sink = 1 ∨ sink = 2 → ¬ (none_ ∧ aged = true) → exec (.traceBlockFlush g aged) s = .next x.trcStat))
    ∧ (s.get Reg.GRM_TRC_CTL_SINK = 2 → s.trace.fifo = [] → exec (.traceBlockFlush g true) s = .next (s.writeBlock g).trcStat)
    ∧ ∀ bs : List Byte,
      let full : Prop := r.dropping = true ∨ s.trcFree < dropBelow (s.trcPri g) bs.length
      let s1 := s.setTracer g { r with since := if bs.head? = some 0x08 then 0 else r.since + bs.length }
      let s2 : State := { s1 with trace := { s1.trace with fifo := s1.trace.fifo ++ [(g.val, bs)] } }
      (s.trace.stopped = true → s.emit g bs = s)
      ∧ (s.trace.stopped = false → full →
        s.emit g bs = s.setTracer g { r with dropping := true, dropped := r.dropped + bs.length })
      ∧ (s.trace.stopped = false → ¬ full →
        s.emit g bs = (if s2.get Reg.GRM_TRC_CTL_SINK = 1 then s2.drain 8192 else s2).trcStat))
  ∧ ∀ (s : State) (v : Word) (next : List Word),
    let w := s.put Reg.GRM_TRC_CTL_PRI (bits v.toNat 15 8)
    let other : Prop := bits v.toNat 1 0 ≠ s.get Reg.GRM_TRC_CTL_SINK ∨ bits v.toNat 16 16 ≠ s.get Reg.GRM_TRC_CTL_CYC_EN
      ∨ bits v.toNat 17 17 ≠ s.get Reg.GRM_TRC_CTL_WRAP
    (s.get Reg.GRM_TRC_CTL_GEN = 0 → exec (.traceCtlWrite v next) s = .next
      ((w.sinkNew (bits v.toNat 1 0) (bits v.toNat 17 17) (bits v.toNat 16 16)).genWrite (bits v.toNat 7 4) next))
    ∧ (s.get Reg.GRM_TRC_CTL_GEN ≠ 0 → other → exec (.traceCtlWrite v next) s = .next
      ((w.set1 Reg.GRM_TRC_STAT_CFG_LOCKED).genWrite (bits v.toNat 7 4) next))
    ∧ (s.get Reg.GRM_TRC_CTL_GEN ≠ 0 → ¬ other → exec (.traceCtlWrite v next) s = .next (w.genWrite (bits v.toNat 7 4) next))
    ∧ (∀ n, s.genWrite n next = s.each 4 (fun g x =>
        if bit n g && !x.traced g then x.genOn next g else if !bit n g && x.traced g then x.genOff g else x))

/-- A cold reset takes every block outside the always-on domain to its reset state, with its cause in CHIP_RST; the fuses, the
Saddlebag and the Secure Store stay, and the rise of RST_N starts the boot. Stage 0 completes into stage 1, or 2 after a warm
reset, stage 1 into 2; stage 2 runs a firmware slot that verifies, or fails with 1, 2 or 4; stage 3 applies the header and
trains, or without its Grooms fails with 5; stage 4 ends training and places the firmware region; stage 5 maps the rows of
the fuses; the last sets BOOT_DONE and every READY, requests the RESET record and draws RET_NONCE. A boot that does not go on
changes nothing. A warm reset that is due begins: IDLE without an image, WARM_COUNT one more, the boot at stage 0. The loss
of VDD_AON empties the Saddlebag and the key slots; its rise starts 100 us. (Rests on R16, R380, R424, R425, R426, R427,
R428, R440, R459, R503, R510, R529.) -/
def Obligations.ResetsAndBoot : Prop :=
  (∀ (pwr : Bool) (s : State), ∃ t, exec (.coldReset pwr) s = .next t ∧ t.get Reg.CHIP_RST_CAUSE = (if pwr then 1 else 2)
      ∧ t.fuses = s.fuses ∧ t.sec = s.sec ∧ t.sb.ring = s.sb.ring ∧ t.chip.inReset = true ∧ t.chip.image = none ∧ t.gddr = []
      ∧ t.teams = [] ∧ t.routers = [] ∧ t.links = [] ∧ t.boxes = State.reset.boxes ∧ t.pending = s.pending
      ∧ ∀ a, coldKeeps a = false → a ≠ Adr.CHIP_RST → t.rd a = regReset a)
  ∧ (∀ s : State, exec .resetRelease s = .next { s with chip := { s.chip with inReset := false } })
  ∧ (∀ (s : State) (b : BootIn),
      let goes : Prop := s.chip.inReset = false ∧ s.on Reg.CHIP_MODE_BOOT_DONE = false ∧ s.on Reg.CHIP_BOOT_FAILED = false
        ∧ s.chip.halted = false
      let stage := s.get Reg.CHIP_BOOT_STAGE
      let goto (x : State) (n : Nat) : Host.Outcome State Fault Refusal := .next (x.put Reg.CHIP_BOOT_STAGE n)
      let fails (x : State) (e : Nat) : Host.Outcome State Fault Refusal := .next
        ((((x.set1 Reg.CHIP_BOOT_FAILED).put Reg.CHIP_BOOT_ERR e).freezeRec 5 6 0x05 (argOf (e + 256 * stage) 0)).alert 4)
      (¬ goes → exec (.bootStageDone b) s = .next s)
      ∧ (goes → stage = 0 → exec (.bootStageDone b) s = goto s.readFuses (if s.chip.warm then 2 else 1))
      ∧ (goes → stage = 1 → exec (.bootStageDone b) s = goto { s with pcie := { s.pcie with ltssm := true, retry := true } } 2)
      ∧ (goes → stage = 2 →
        let k := s.copyRootKey
        let h : State := { k with chip := { k.chip with bootHdr := b.header } }
        let ok (x : List Byte) : Bool := slotOk h.sec.rootKey h.fuses.minVersion x
        let run (x : List Byte) : State := { h with chip := { h.chip with fwVersion := BitVec.ofNat 32 (le x 8 4) } }
        (b.flashOk = false → exec (.bootStageDone b) s = fails s 1)
        ∧ (b.flashOk = true → bootHeaderOk b.header = false → exec (.bootStageDone b) s = fails s 2)
        ∧ (b.flashOk = true → bootHeaderOk b.header = true → exec (.bootStageDone b) s =
            if ok b.slotA = true then goto (run b.slotA) 3
            else if le b.header 0x1C 4 ≠ 0 ∧ ok b.slotB = true then
              goto (((run b.slotB).set1 Reg.CHIP_BOOT_SLOT).put Reg.CHIP_BOOT_ERR 3) 3
            else .next (h.bootFail 4)))
      ∧ (goes → stage = 3 → b.groomsUp = false → exec (.bootStageDone b) s = fails s 5)
      ∧ (goes → stage = 3 → b.groomsUp = true → exec (.bootStageDone b) s
        = goto (if s.chip.warm then s.applyHeader.trainWarm else s.applyHeader.trainCold) 4)
      ∧ (goes → stage = 4 → exec (.bootStageDone b) s
        = goto (((if s.chip.warm then s.leaveSref else s).trainAll b.trained).firmwareRegion) 5)
      ∧ (goes → stage = 5 → exec (.bootStageDone b) s = goto s.mapRows 6)
      ∧ (goes → 6 ≤ stage → ∃ t, exec (.bootStageDone b) s = .next t ∧ t = s.bootEnd ∧ t.on Reg.CHIP_MODE_BOOT_DONE = true
          ∧ (∀ m < 4, t.on (Reg.MBX_STAT_READY m) = true) ∧ t.chip.warm = false ∧ t.sec.nonce = Config.freeW64 s.free))
  ∧ (∀ s : State,
      let due : Prop := s.chip.warmReq ≠ 0 ∧ s.chip.halted = false ∧ s.chip.inReset = false
        ∧ (s.on Reg.CHIP_MODE_BOOT_DONE = true ∨ s.chip.warm = true) ∧ s.on Reg.CHIP_BOOT_FAILED = false
      (due → ∃ t, exec .warmResetBegin s = .next t ∧ t.mode = mIdle ∧ t.chip.image = none
        ∧ t.get Reg.CHIP_BOOT_STAGE = 0 ∧ t.on Reg.CHIP_MODE_BOOT_DONE = false ∧ t.chip.warm = true ∧ t.chip.oldMode = s.mode
        ∧ t.chip.warmReq = 0 ∧ t.fuses = s.fuses ∧ t.sb.ring = s.sb.ring ∧ t.teams = [] ∧ t.pending = s.pending
        ∧ t.get Reg.CHIP_RST_WARM_COUNT = satAdd (Reg.CHIP_RST_WARM_COUNT.hi + 1 - Reg.CHIP_RST_WARM_COUNT.lo)
            (s.get Reg.CHIP_RST_WARM_COUNT) 1)
      ∧ (¬ due → exec .warmResetBegin s = .next s))
  ∧ (∀ s : State, ∃ t, exec .vddAonLoss s = .next t ∧ t.sb = Saddle.reset ∧ t.sec.rootKey = 0 ∧ t.sec.slots = []
      ∧ t.get Reg.SEC_STAT_SLOTS = 0 ∧ t.fuses = s.fuses ∧ t.chip.vddAon = false)
  ∧ ∀ s : State, exec .vddAonRise s = .next (if s.chip.vddAon then s else { s with chip := { s.chip with vddAon := true, aonNew := 2 } })

/-- A missing heartbeat of a monitored crossing sets STOPPED, records the crossing, discards what is in flight and notes the
stopped block: a dead Team is isolated with record 0x18 and, like a dead scheduler, leads to QUARANTINE; a dead channel
fails, a dead link's lanes fault, a dead PCIe clock resets the endpoint, other clocks have no further effect; in the cycle of
the expiry it only sets LATE; a crossing that is not monitored changes nothing. A one-sided reset sets PEER_RESET, counts,
discards, requests record 0x42 and keeps the crossing idle until it re-arms. A write of TEAM_PWR clears PWR_REFUSED where
asked; clearing EN of a Team that is not isolated then only sets PWR_REFUSED; else the switch moves. At its end the Team is
ON with undefined contents and its registers reset, or OFF with nothing kept; its waiting requests are answered. (Rests on
R443, R448, R449, R450, R451, R452, R454, R455, R456.) -/
def Obligations.CrossingsAndTeamPower : Prop :=
  (∀ (s : State) (cls : Fin 10) (idx : BitVec 16) (dead : ClockDomain),
    let fatal : Bool := match dead with
      | .team _ | .scheduler => true
      | _ => false
    let x := (((s.set1 Reg.CHIP_CDC_STAT_STOPPED).cdcLoc 0 cls idx.toNat (if fatal then 6 else 2)).discard cls idx.toNat).clockStops dead
    (s.monitored cls idx.toNat dead = false → ∀ late, exec (.heartbeatTimeout cls idx dead late) s = .next s)
    ∧ (s.monitored cls idx.toNat dead = true → exec (.heartbeatTimeout cls idx dead true) s = .next
      ((s.set1 Reg.CHIP_CDC_STAT_LATE).cdcLoc 2 cls idx.toNat 2))
    ∧ (s.monitored cls idx.toNat dead = true → exec (.heartbeatTimeout cls idx dead false) s = .next
      (match dead with
       | .team t =>
         let b := (((x.set1 (Reg.RTR_CTL_ISOLATE t)).set1 (Reg.RTR_STAT_DEAD t)).groomRec 3 3 0x18 (argOf t 0)).postEvent 3
           ⟨0x0009, 3, packBytes [(16, 2, t), (18, 1, 0)]⟩
         b.enterQuarantine qIslandStop b.cdcInfo
       | .scheduler => x.enterQuarantine qIslandStop x.cdcInfo
       | .gddr c => x.chanFail c
       | .link n => x.faultLanes n
       | .pcie => x.endpointReset true
       | .groom | .other => x))
    ∧ (s.cdcInfo = s.get Reg.CHIP_CDC_LOC_INDEX + 2 ^ 16 * s.get Reg.CHIP_CDC_LOC_CLASS))
  ∧ (∀ (s : State) (cls : Fin 10) (idx : BitVec 16) (t : Fin 1024), s.on (Reg.RTR_CTL_ISOLATE t) = true → ∀ late,
      exec (.heartbeatTimeout cls idx (.team t) late) s = .next s)
  ∧ (∀ (s : State) (t : Nat), (s.clockStops .groom = s ∧ s.clockStops .other = s ∧ s.clockStops .pcie = s)
      ∧ ∀ t : Fin 1024, s.clockStops (.team t) = if s.chip.stopped.contains t.val then s
        else { s with chip := { s.chip with stopped := s.chip.stopped ++ [t.val] } })
  ∧ (∀ (s : State) (cls : Fin 10) (idx : BitVec 16),
      let a := ((s.set1 Reg.CHIP_CDC_STAT_PEER_RESET).sat Reg.CHIP_CDC_STAT_PEER_RESETS 1).discard cls idx.toNat
      let b := a.groomRec 0 2 0x42 (argOf (a.get Reg.CHIP_CDC_LOC_KIND + 256 * cls) idx.toNat)
      let k := 2 ^ 16 * cls.val + idx.toNat
      exec (.oneSidedReset cls idx) s = .next (if b.chip.disarmed.contains k then b
        else { b with chip := { b.chip with disarmed := b.chip.disarmed ++ [k] } })
      ∧ (∃ t, exec (.oneSidedReset cls idx) s = .next t ∧ t.on Reg.CHIP_CDC_STAT_PEER_RESET = true ∧ t.armed cls idx.toNat = false
        ∧ t.get Reg.CHIP_CDC_STAT_PEER_RESETS = satAdd (Reg.CHIP_CDC_STAT_PEER_RESETS.hi + 1 - Reg.CHIP_CDC_STAT_PEER_RESETS.lo)
          (s.get Reg.CHIP_CDC_STAT_PEER_RESETS) 1)
      ∧ exec (.crossingRearm cls idx) s = .next { s with chip := { s.chip with disarmed := s.chip.disarmed.erase k } })
  ∧ (∀ (s : State) (t : Fin 1024) (v : Word), s.nTeams ≤ t.val →
      exec (.teamPwrWrite t v) s = .next s ∧ exec (.teamSwitchDone t) s = .next s)
  ∧ ∀ (s : State) (t : Fin 1024), t.val < s.nTeams →
    let moves (en : Bool) (x : State) : State :=
      ((x.put (Reg.TEAM_PWR_EN t) (ofBool en)).put (Reg.TEAM_PWR_STATE t) 2).onTeam t (fun m => { m with switching := true })
    (∀ v : Word,
      let en := v.getLsbD 0
      let x := if v.getLsbD 3 then s.clr (Reg.TEAM_PWR_PWR_REFUSED t) else s
      let was := x.on (Reg.TEAM_PWR_EN t)
      let iso := x.on (Reg.RTR_CTL_ISOLATE t)
      (en = was → exec (.teamPwrWrite t v) s = .next x)
      ∧ (en = true → was = false → exec (.teamPwrWrite t v) s = .next (moves true x))
      ∧ (en = false → was = true → iso = true → exec (.teamPwrWrite t v) s = .next (moves false x))
      ∧ (en = false → was = true → iso = false → exec (.teamPwrWrite t v) s = .next (x.set1 (Reg.TEAM_PWR_PWR_REFUSED t))))
    ∧ ((s.team t).switching = true → s.on (Reg.TEAM_PWR_EN t) = true → exec (.teamSwitchDone t) s = .next
        (((({ (s.resetTeamRegs t) with free := s.free + 1 } : State).setTeam t { Team.reset with gen := s.free + 1 })).put
          (Reg.TEAM_PWR_STATE t) 1))
    ∧ ((s.team t).switching = true → s.on (Reg.TEAM_PWR_EN t) = false → exec (.teamSwitchDone t) s = .next
        ((((s.dropDma t).resetTeamRegs t).setTeam t Team.reset).put (Reg.TEAM_PWR_STATE t) 0))
    ∧ ((s.team t).switching = false → exec (.teamSwitchDone t) s = .next s)

/-- The loss of a reference clock that is present clears its sign, sets its error bit, alerts and requests record 0x43; SYS halts
the core, LREF leads to holdover and QUARANTINE and faults the lanes, EREF n faults the lanes of its link, PE resets the
endpoint, TP ends the test port's link. A return sets the sign again, with the system PLL's lock, or the end of holdover;
LREF lets the step PLL lock. A sample writes TJ_MAX and SENSOR; the duty falls at once to what the temperature asks for, and
rises a step after 200 cool samples; THERM follows its comparators; a change is told; two samples at 115 degrees trip into
QUARANTINE. No sensor, no effect. A watchdog counts on; a kick restarts it, in the cycle of the expiry with LATE; at an
expiry it writes GRM_WDT_PC, counts, requests record 0x40 and restarts the Groom, the third in 10 s halts. The restarted
Groom answers what it had taken with GROOM_RESTART; one that does not come back halts. (Rests on R222, R381, R440, R457,
R458, R459, R460, R467, R468, R469.) -/
def Obligations.ClocksTemperatureAndWatchdogs : Prop :=
  (∀ s : State,
    (∀ k, s.on (refOk k) = true →
      let a := ((s.clr (refOk k)).set1 (refLost k)).alert 6
      let b := a.hwRec (if k = .sys ∨ k = .lref then 6 else 3) 0x43 (argOf a.clkErr 0)
      exec (.referenceLoss k) s = .next (match k with
        | .sys => (b.clr Reg.CHIP_CLK_STAT_SYS_LOCK).halt 1 0
        | .lref =>
          let q := ((b.set1 Reg.CHIP_CLK_STAT_HOLDOVER).clr Reg.CHIP_CLK_STAT_STEP_LOCK).enterQuarantine qRefLoss b.clkErr
          q.each 16 (fun n x => x.faultLanes n)
        | .eref n => b.faultLanes (16 + n)
        | .pe => b.endpointReset true
        | .tp => (b.clr Reg.TP_STAT_LINK_UP).clr Reg.TP_STAT_BLOCK_LOCK))
    ∧ (s.on (refOk .sys) = true → s.chip.halted = false → ∃ t, exec (.referenceLoss .sys) s = .next t ∧ t.chip.halted = true
      ∧ t.on (refOk .sys) = false ∧ t.on (refLost .sys) = true ∧ t.on Reg.CHIP_CLK_STAT_SYS_LOCK = false)
    ∧ (∀ k, s.on (refOk k) = false → exec (.referenceLoss k) s = .next s)
    ∧ (∀ k, exec (.referenceReturn k) s = .next (match k with
        | .sys => (s.set1 (refOk .sys)).set1 Reg.CHIP_CLK_STAT_SYS_LOCK
        | .lref => (s.set1 (refOk .lref)).clr Reg.CHIP_CLK_STAT_HOLDOVER
        | k => s.set1 (refOk k)))
    ∧ (s.on Reg.CHIP_CLK_STAT_LREF_OK = true → exec .stepPllLock s = .next (s.set1 Reg.CHIP_CLK_STAT_STEP_LOCK))
    ∧ (s.on Reg.CHIP_CLK_STAT_LREF_OK = false → exec .stepPllLock s = .next s)
    ∧ (∀ temps, hottest temps = none → exec (.thermalSample temps) s = .next s)
    ∧ (∀ temps tj k, hottest temps = some (tj, k) →
      let a := (s.put Reg.CHIP_THERM_TJ_MAX tj.toNat).put Reg.CHIP_THERM_SENSOR k
      let b : State := { a with chip := { a.chip with aonNew := s.chip.aonNew - 1 } }
      exec (.thermalSample temps) s = .next (((((b.throttle tj.toInt).thermPin tj.toInt).thermTell s tj k)).trip tj k))
    ∧ (∀ t : Int,
      let cur := s.get Reg.CHIP_THERM_DUTY
      let cool (c : Option Nat) (x : State) : State := { x with chip := { x.chip with cool := c } }
      let low : Prop := 0 < cur ∧ t ≤ (s.dutyThr cur : Int) - 3
      (cur < s.dutyFor t → s.throttle t = cool none (s.put Reg.CHIP_THERM_DUTY (s.dutyFor t)))
      ∧ (s.dutyFor t ≤ cur → ¬ low → s.throttle t = cool none s)
      ∧ (s.dutyFor t ≤ cur → low → s.chip.cool = none → s.throttle t = cool (some 0) s)
      ∧ (∀ n, s.dutyFor t ≤ cur → low → s.chip.cool = some n → n + 1 < 200 → s.throttle t = cool (some (n + 1)) s)
      ∧ (∀ n, s.dutyFor t ≤ cur → low → s.chip.cool = some n → 200 ≤ n + 1 →
        s.throttle t = cool none (s.put Reg.CHIP_THERM_DUTY (cur - 1)))
      ∧ (s.dutyFor t = if (s.dutyThr 3 : Int) ≤ t then 3 else if (s.dutyThr 2 : Int) ≤ t then 2
          else if (s.dutyThr 1 : Int) ≤ t then 1 else 0)
      ∧ (s.thermPin t = if (s.get Reg.CHIP_THERM_CTL_THERM_HI : Int) ≤ t then s.set1 Reg.CHIP_THERM_THERM
          else if t < (s.get Reg.CHIP_THERM_CTL_THERM_HI : Int) - 5 then s.clr Reg.CHIP_THERM_THERM else s))
    ∧ (∀ (old : State) (tj : BitVec 8) (k : Nat),
      let d : Bool := s.get Reg.CHIP_THERM_DUTY != old.get Reg.CHIP_THERM_DUTY
      let p : Bool := s.get Reg.CHIP_THERM_THERM != old.get Reg.CHIP_THERM_THERM
      let a := if d || (p && s.on Reg.CHIP_THERM_THERM) then s.alert 3 else s
      let b := if d then a.postEvent 0 ⟨0x0031, 2, packBytes [(16, 1, s.dutyPct), (17, 1, tj.toNat)]⟩ else a
      let hot := if 115 ≤ tj.toInt then min 3 (s.chip.hot + 1) else 0
      let h : State := { s with chip := { s.chip with hot := hot } }
      s.thermTell old tj k = (if d || p then b.groomRec 0 0 0x50 (argOf (s.dutyPct + 256 * tj.toNat)
          (k + 256 * s.get Reg.CHIP_THERM_THERM)) else b)
      ∧ s.trip tj k = (if hot = 2 then (h.set1 Reg.CHIP_THERM_TRIP).enterQuarantine qThermalTrip (tj.toNat + 256 * k) else h))
    ∧ (∀ (temps : List (BitVec 8)) (tj : BitVec 8) (k : Nat), hottest temps = some (tj, k) → tj.toInt < s.dutyThr 1 →
      s.dutyThr 1 < s.dutyThr 2 → s.dutyThr 2 < s.dutyThr 3 → s.get Reg.CHIP_THERM_DUTY = 0 → s.on Reg.CHIP_THERM_THERM = false →
      tj.toInt < s.get Reg.CHIP_THERM_CTL_THERM_HI → tj.toInt < 115 → s.chip.aonNew = 0 → ∃ t, exec (.thermalSample temps) s = .next t
        ∧ t.get Reg.CHIP_THERM_TJ_MAX = tj.toNat ∧ t.get Reg.CHIP_THERM_SENSOR = k % 32 ∧ t.get Reg.CHIP_THERM_DUTY = 0
        ∧ t.sb = s.sb ∧ t.boxes = s.boxes ∧ t.mode = s.mode))
  ∧ ∀ (s : State) (g : Fin 4),
    let wdt (n : Nat) : State := { s with chip := { s.chip with wdt := upd s.chip.wdt g n } }
    let back : Prop := (s.box g).restarting = true ∧ s.chip.halted = false
    let up : State :=
      let a := (s.box g).taken.foldl (fun x c => x.respond g c false (errResp 3 0 0 0)) (s.onBox g (fun b => { b with
        taken := [], restarting := false }))
      ((a.set1 (Reg.MBX_STAT_RESTARTED g)).alert 5).postEvent 0 ⟨0x0030, 1, packBytes [(16, 1, g)]⟩
    (∀ v : Word, exec (.watchdogKick g v) s = .next (if v.getLsbD 0 then wdt 0 else s))
    ∧ (s.chip.halted = true ∨ (s.box g).restarting = true → ∀ us pc recent ok kick at_,
        exec (.watchdogExpiry g us pc recent ok kick at_) s = .next s)
    ∧ (s.chip.halted = false → (s.box g).restarting = false → ∀ us pc recent ok at_,
      (∀ kick, look s.chip.wdt g + us < s.wdtLimit g → exec (.watchdogExpiry g us pc recent ok kick at_) s = .next
        (wdt (look s.chip.wdt g + us)))
      ∧ (s.wdtLimit g ≤ look s.chip.wdt g + us → exec (.watchdogExpiry g us pc recent ok true at_) s = .next
        ((wdt 0).set1 (Reg.GRM_WDT_STAT_LATE g)))
      ∧ (s.wdtLimit g ≤ look s.chip.wdt g + us → 2 ≤ recent → exec (.watchdogExpiry g us pc recent ok false at_) s = .next
        ((s.alert 5).halt 2 g))
      ∧ (s.wdtLimit g ≤ look s.chip.wdt g + us → recent < 2 →
        let a := pc / 4 * 4 % 2 ^ 22
        let s1 := ((wdt 0).wr (Adr.GRM_WDT_PC g) (BitVec.ofNat 32 a)).hwRec 2 0x40 (argOf (g + 256 * (recent + 1)) a)
        let s2 := (s1.sat (Reg.GRM_WDT_STAT_RESTARTS g) 1).put (Reg.GRM_WDT_STAT_RECENT g) (recent + 1)
        let s3 := (s2.sat (Reg.MBX_EVTLOST_COUNT g) (s2.box g).events.length).onBox g (fun b => { b with
          events := [], evtLost := true, restarting := true })
        exec (.watchdogExpiry g us pc recent true false at_) s = .next (s3.trcRestart g at_)
        ∧ exec (.watchdogExpiry g us pc recent false false at_) s = .next ((s3.alert 5).halt 2 g)))
    ∧ (back → g ≠ 3 → exec (.groomRestart g) s = .next up)
    ∧ (back → g = 3 → exec (.groomRestart g) s = .next
      (let x := up.stopAlign.clr Reg.CHIP_MODE_SVC_CHG
       { x with chip := { x.chip with stepTo := none } }))
    ∧ (back → exec (.groomRestartTimeout g) s = .next ((s.alert 5).halt 2 g))
    ∧ (¬ back → exec (.groomRestart g) s = .next s ∧ exec (.groomRestartTimeout g) s = .next s)

/-! ### The Saddlebag, the board and packets -/

/-- A Groom's write of W3 requests the record of its four words. The oldest request becomes the next record, whole, with SEQ, the
Time Base or the always-on count as STAMP; NEWEST and SEQ_NEXT advance, EMPTY clears, index 8191 sets WRAPPED, and a record
at or above ALERT_SEV alerts; the freezing record freezes the ring at its index; after a release UNFROZEN comes first. While
frozen, without VDD_AON or without a request nothing is written. At the end of a Groom's second its suppressed records give
one SUPPRESSED record. The minute's corrections give one CE_SUMMARY, without corrections none. A read of word 0 of a record
returns it and latches the other words for the reader. (Rests on R294, R459, R474, R475, R476, R478, R479, R480.) -/
def Obligations.SaddlebagRecordsAreKept : Prop :=
  ∀ s : State,
    (∀ (g : Fin 4) (v : Word), exec (.sbWrW3Write g v) s = .next
      (let w0 := (s.rd (Adr.SB_WR g 0)).toNat
       (s.wr (Adr.SB_WR g 3) v).groomRec g (bits w0 30 28) (bits w0 23 16) (argOf (bits (s.rd (Adr.SB_WR g 2)).toNat 31 16) v.toNat)))
    ∧ (∀ (cy : BitVec 48) (r : SbReq),
      let i := if s.on Reg.SB_STAT_EMPTY then 0 else (s.get Reg.SB_STAT_NEWEST + 1) % 8192
      let st := s.recStamp cy
      let w := recordOf (s.get Reg.SB_SEQ_NEXT) r.code r.src r.sev st.1 st.2 r.arg
      let a : State := { s with sb := { s.sb with ring := Tab.set (fun _ => 0) s.sb.ring i w } }
      let b := (((a.put Reg.SB_STAT_NEWEST i).clr Reg.SB_STAT_EMPTY).put Reg.SB_SEQ_NEXT (s.get Reg.SB_SEQ_NEXT + 1)).set1If
        (i == 8191) Reg.SB_STAT_WRAPPED
      s.writeRecord cy r = (if s.get Reg.SB_ALERT_EN_ALERT_SEV ≤ r.sev then b.alert 2 else b)
      ∧ st = (if s.on Reg.TB_CTL_EN then (true, s.tb.now.ns + 2 ^ 32 * (s.tb.now.sec % 2 ^ 16)) else (false, cy.toNat)))
    ∧ (∀ cy : BitVec 48,
      let may : Prop := s.on Reg.SB_STAT_FROZEN = false ∧ s.chip.vddAon = true
      (¬ may → exec (.saddlebagRecord cy) s = .next s)
      ∧ (may → s.sb.unfrozen = none → s.sb.reqs = [] → exec (.saddlebagRecord cy) s = .next s)
      ∧ (∀ n, may → s.sb.unfrozen = some n → exec (.saddlebagRecord cy) s = .next
        (({ s with sb := { s.sb with unfrozen := none } } : State).writeRecord cy ⟨4, 0, 0x07, argOf n 0, false⟩))
      ∧ (∀ r rest, may → s.sb.unfrozen = none → s.sb.reqs = r :: rest →
        let x := ({ s with sb := { s.sb with reqs := rest } } : State).writeRecord cy r
        (r.last = false → exec (.saddlebagRecord cy) s = .next x)
        ∧ (r.last = true → exec (.saddlebagRecord cy) s = .next
          ((((x.set1 Reg.SB_STAT_FROZEN).set1 Reg.SB_FREEZE_VALID).put Reg.SB_FREEZE_INDEX (x.get Reg.SB_STAT_NEWEST)).alert 1))))
    ∧ (∀ g : Fin 4,
      let n := look s.sb.held g
      let a : State := { s with sb := { s.sb with inSecond := upd s.sb.inSecond g 0, held := upd s.sb.held g 0 } }
      (n = 0 → exec (.suppressionSecondEnd g) s = .next a)
      ∧ (n ≠ 0 → exec (.suppressionSecondEnd g) s = .next (a.request ⟨g, 0, 0x06, argOf (min n 65535) 0, false⟩)))
    ∧ (let a : State := { s with chip := { s.chip with ceMinute := [] }, hotRecord := false }
      (s.chip.ceMinute = [] → exec .ceSummary s = .next a)
      ∧ (s.chip.ceMinute ≠ [] → exec .ceSummary s = .next (a.groomRec 3 1 0x10 (argOf (mostCorrected s.chip.ceMinute).1
          (min (s.chip.ceMinute.foldl (fun n p => n + p.2) 0) (2 ^ 32 - 1))))))
    ∧ ∀ (who : Agent) (i : Fin 8192), ∃ t, exec (.sbRecordRead who i) s = .next t ∧ t.rdata = [recWord (s.sbRec i) 0]
      ∧ t.latched who 0x20004 = recWord (s.sbRec i) 1 ∧ t.latched who 0x20008 = recWord (s.sbRec i) 2
      ∧ t.latched who 0x2000C = recWord (s.sbRec i) 3 ∧ t.regs = s.regs

/-- While VDD_AON is up and an address is assigned, STATUS answers mode, flags, NEWEST, the cause of QUARANTINE, temperature,
duty and SB_DROP; SET_INDEX and READ_RECORD give records in turn; ALERT_STAT, ALERT_CLR, UNFREEZE, WARM_RESET and CHIP_ID act
and answer; a command with a wrong PEC, value or index, and without an address every command, does nothing. ARP assigns the
address. The target answers the Alert Response Address while it drives ALERT_N low. SBACC captures the record at its index
and takes a new index. A code loads the instruction it selects in the lifecycle state, else BYPASS; IDCODE loads the
identity; EXTEST, HIGHZ and CLAMP take the pins in IDLE and QUARANTINE, elsewhere they set EXTEST_REFUSED; every other
instruction returns them. Without VDD_AON none acts. (Rests on R337, R428, R473, R479, R480, R481, R482, R536, R537.) -/
def Obligations.BoardAndTestAccess : Prop :=
  (∀ s : State, s.chip.vddAon = true → s.sb.smbAddr.isSome = true →
    (let flags := ofBool (s.on Reg.SB_STAT_FROZEN) + 2 * ofBool s.faultLow
       + 4 * ofBool (s.on Reg.CHIP_THERM_THERM && s.chip.vddAon && s.chip.aonNew == 0) + 8 * ofBool s.chip.halted
       + 16 * s.get Reg.CHIP_MODE_BOOT_DONE
     exec .smbusStatus s = .next (s.answer (leBytes 1 (if s.chip.halted then 0xFF else s.mode) ++ leBytes 1 flags
       ++ leBytes 2 (s.get Reg.SB_STAT_NEWEST) ++ leBytes 2 s.sb.qcause ++ leBytes 1 (s.get Reg.CHIP_THERM_TJ_MAX)
       ++ leBytes 1 (s.get Reg.CHIP_THERM_DUTY) ++ leBytes 4 (s.rd Adr.SB_DROP).toNat)))
    ∧ (∀ v : BitVec 16, exec (.smbusSetIndex v true) s = .next
      (if v.toNat ≤ 8191 then { s with sb := { s.sb with smbIndex := v.toNat } } else s))
    ∧ exec .smbusReadRecord s = .next
      (({ s with sb := { s.sb with smbIndex := (s.sb.smbIndex + 1) % 8192 } } : State).answer (leBytes 16 (s.sbRec s.sb.smbIndex).toNat))
    ∧ exec .smbusAlertStat s = .next (s.answer (leBytes 1 (s.rd Adr.SB_ALERT_STAT).toNat))
    ∧ (∀ v : Byte, exec (.smbusAlertClr v true) s = .next (s.put Reg.SB_ALERT_STAT_CAUSE
        (s.get Reg.SB_ALERT_STAT_CAUSE - (s.get Reg.SB_ALERT_STAT_CAUSE &&& v.toNat % 128))))
    ∧ (exec (.unfreeze 0xA5 true) s = .next (if s.on Reg.SB_STAT_FROZEN then
      { (s.clr Reg.SB_STAT_FROZEN).clr Reg.SB_FREEZE_VALID with sb := { s.sb with unfrozen := some (s.get Reg.SB_DROP_DROPPED) } } else s))
    ∧ (let no : Prop := s.chip.halted = true ∨ (s.chip.coldBoot = true ∧ s.on Reg.CHIP_MODE_BOOT_DONE = false)
        ∨ s.on Reg.CHIP_BOOT_FAILED = true ∨ s.chip.inReset = true
      (¬ no → exec (.smbusWarmReset 0x5A true) s = .next { s with chip := { s.chip with warmReq := 4 } })
      ∧ (no → exec (.smbusWarmReset 0x5A true) s = .next s))
    ∧ exec .smbusChipId s = .next (s.answer (leBytes 8 s.fuses.serial.toNat))
    ∧ (∀ v w, exec (.smbusSetIndex v false) s = .next s ∧ exec (.smbusAlertClr w false) s = .next s ∧ exec (.unfreeze w false) s = .next s
      ∧ exec (.smbusWarmReset w false) s = .next s)
    ∧ (∀ v : Byte, v ≠ 0xA5 → exec (.unfreeze v true) s = .next s)
    ∧ (∀ v : Byte, v ≠ 0x5A → exec (.smbusWarmReset v true) s = .next s))
  ∧ (∀ (s : State) v w pec, s.chip.vddAon = false ∨ s.sb.smbAddr = none → exec .smbusStatus s = .next s
      ∧ exec (.smbusSetIndex v pec) s = .next s ∧ exec .smbusReadRecord s = .next s ∧ exec .smbusAlertStat s = .next s
      ∧ exec (.smbusAlertClr w pec) s = .next s ∧ exec (.unfreeze w pec) s = .next s ∧ exec (.smbusWarmReset w pec) s = .next s
      ∧ exec .smbusChipId s = .next s)
  ∧ ∀ s : State,
    (s.alertLow = true → exec .alertResponseRead s = .next
      (({ s with sb := { s.sb with araDone := true } } : State).answer (leBytes 1 (s.sb.smbAddr.getD 0x61))))
    ∧ (s.alertLow = false → exec .alertResponseRead s = .next s)
    ∧ (s.chip.vddAon = false → ∀ a v code, exec (.smbusArpAssign a) s = .next s ∧ exec .sbaccCapture s = .next s
      ∧ exec (.sbaccUpdate v) s = .next s ∧ exec (.jtagInstructionLoad code) s = .next s)
    ∧ (s.chip.vddAon = true →
      (∀ a : BitVec 7, exec (.smbusArpAssign a) s = .next { s with sb := { s.sb with smbAddr := some a.toNat } })
      ∧ (let v := BitVec.ofNat 144 ((s.sbRec s.sb.jtagIndex).toNat + s.sb.jtagIndex * 2 ^ 128 + s.get Reg.SB_STAT_FROZEN * 2 ^ 141)
         exec .sbaccCapture s = .next { s with
           ht := { s.ht with extest := false }, chip := { s.chip with jtagIr := 0x20, jtagDr := v } })
      ∧ (∀ v : BitVec 144, exec (.sbaccUpdate v) s = .next { s with
           ht := { s.ht with extest := false }, sb := { s.sb with jtagIndex := bits v.toNat 140 128 }
           chip := { s.chip with jtagIr := 0x20, jtagDr := v } })
      ∧ (∀ code : Option Byte,
        let i := jtagOf s.fuses.lifecycle (match code with | some c => c.toNat | none => 2)
        let x : State := { s with chip := { s.chip with
          jtagIr := i, jtagDr := if i = 2 then BitVec.ofNat 144 s.idcode else if i = 1 then s.chip.jtagDr else 0 } }
        (i ≠ 0 → i ≠ 3 → i ≠ 4 → exec (.jtagInstructionLoad code) s = .next { x with ht := { s.ht with extest := false } })
        ∧ (i = 0 ∨ i = 3 ∨ i = 4 →
          (s.mode = mIdle ∨ s.mode = mQuarantine →
            exec (.jtagInstructionLoad code) s = .next { x with ht := { s.ht with extest := true } })
          ∧ (s.mode ≠ mIdle → s.mode ≠ mQuarantine →
            exec (.jtagInstructionLoad code) s = .next (x.set1 Reg.HT_STAT_EXTEST_REFUSED))))
      ∧ (s.fuses.lifecycle ≠ 2 → exec (.jtagInstructionLoad none) s = .next { s with
           ht := { s.ht with extest := false }, chip := { s.chip with jtagIr := 2, jtagDr := BitVec.ofNat 144 s.idcode } })
      ∧ (s.fuses.lifecycle ≠ 2 → s.mode = mIdle → exec (.jtagInstructionLoad (some 3)) s = .next { s with
           ht := { s.ht with extest := true }, chip := { s.chip with jtagIr := 3, jtagDr := 0 } }))
  ∧ ∀ (lc code : Nat), code < 256 → jtagOf lc code =
      if code = 0 ∨ code = 1 ∨ code = 0x20 then code
      else if lc ≠ 2 ∧ (code ≤ 4 ∨ (0x40 ≤ code ∧ code ≤ 0x7F)) then code else 0xFF

/-- The oldest packet that has arrived leaves the list. One of an illegal TYPE or LEN is absorbed and counted in BAD_PKT; at a
router that has drained after FREEZE it is absorbed with ROUTE_FROZEN, at an isolated target or an unpowered Team with
TARGET_OFF. A design-memory request for a Team waits for its memory, one to the Team window is a register request, another is
answered BAD_ADDRESS; a gateway response waits for the Team. A gateway takes requests, capture bursts and probe records; a
lead-link site sends requests over its link, or answers TARGET_OFF, and completions back; a hub takes the completion of its
own request, and requests of R517. A request to the router's own registers is a register request, outside their window
BAD_ADDRESS. What has no use is dropped. The word addresses of the Team window are the model's choice. (Rests on R139, R142,
R147, R150, R153, R155, R246, R268, R307, R456, R517.) -/
def Obligations.PacketsAreDelivered : Prop :=
  (∀ (t : Fin 1024) (s : State), s.nTeams ≤ t.val ∨ (s.router t).arrived = [] → exec (.packetArrival t) s = .next s)
  ∧ ∀ (t : Fin 1024) (s : State) (p : Packet) (rest : List Packet), t.val < s.nTeams → (s.router t).arrived = p :: rest →
    let a := s.onRouter t (fun r => { r with arrived := rest })
    let go (x : State) : Prop := exec (.packetArrival t) s = .next x
    let legal : Prop := pTYPE p < 8 ∧ pLEN p ≤ 4
    let open_ : Prop := legal ∧ (s.router t).drain = false
    let att : Prop := open_ ∧ pTGT p = 1 ∧ s.on (Reg.RTR_CTL_ISOLATE_ATT t) = false
    let team : Prop := open_ ∧ pTGT p ≠ 1 ∧ pTGT p ≠ 2 ∧ s.on (Reg.RTR_CTL_ISOLATE t) = false ∧ s.teamOn t = true
    let w := pAddr p
    let n := pCount p
    (¬ legal → go (a.sat (Reg.RTR_ABSORB_BAD_PKT t) 1))
    ∧ (legal → (s.router t).drain = true → go (a.absorb t p 2))
    ∧ (open_ → pTGT p = 1 → s.on (Reg.RTR_CTL_ISOLATE_ATT t) = true → go (a.absorb t p 1))
    ∧ (open_ → pTGT p ≠ 1 → pTGT p ≠ 2 → s.on (Reg.RTR_CTL_ISOLATE t) = true ∨ s.teamOn t = false → go (a.absorb t p 1))
    ∧ (team →
      (isReq p = true → w % 0x8000 + n ≤ 0x8000 → w < 0x18000 → go (a.onTeam t (fun m => { m with dma := m.dma ++
        [⟨.packet p, if pTYPE p = 0 then .read else if w < 0x8000 then .write else if w < 0x10000 then .setBits else .clearBits,
          w % 0x8000, n, if pTYPE p = 0 then [] else (bodyWords p).take n, []⟩] })))
      ∧ (isReq p = true → ¬ (w % 0x8000 + n ≤ 0x8000 ∧ w < 0x18000) →
        (0x40000 ≤ w → w + n ≤ 0x40100 → go (a.regRequest t (.groom 1) (virt t (4 * (w - 0x40000))) (fun _ => true) p))
        ∧ (¬ (0x40000 ≤ w ∧ w + n ≤ 0x40100) → go (a.wait t (errCpl t p 4))))
      ∧ (pTYPE p = 5 → go (a.onRouter t (fun r => { r with boxT := r.boxT ++ [p] })))
      ∧ (isReq p = false → pTYPE p ≠ 5 → go a))
    ∧ (att → s.attached t = none → go (if isReq p then a.wait t (errCpl t p 4) else a))
    ∧ (∀ c, att → s.attached t = some c → c < 16 →
      (isReq p = true → go (a.gwAccept c t p w))
      ∧ (pTYPE p = 6 → go (a.gwAcceptBytes (pE2 p * 2 ^ 12 + pE1 p * 2 ^ 5)
        ((leBytes 3 (pE0 p) ++ p.body.flatMap (fun f => leBytes 15 f.toNat)).take 32)))
      ∧ (pTYPE p = 7 → go (a.probeStore c p))
      ∧ (isReq p = false → pTYPE p ≠ 6 → pTYPE p ≠ 7 → go a))
    ∧ (∀ k, att → s.attached t = some (16 + k) → k < 16 →
      (isReq p = true → a.isUp k = true → a.forwardedHere p = false → go (a.onLink k (·.push p)))
      ∧ (isReq p = true → a.isUp k = false ∨ a.forwardedHere p = true → go (a.wait t (errCpl t p 1)))
      ∧ (isCpl p = true → go (a.forwardBack k t p))
      ∧ (isReq p = false → isCpl p = false → go a))
    ∧ (∀ h : Fin 4, att → s.attached t = some (32 + h.val) →
      (isCpl p = true → go (a.onRouter t (fun r => { r with boxA := r.boxA ++ [p] })))
      ∧ (isReq p = true → w / 2 ^ 46 = 0 →
        (a.fromHub p = true → w < 2 ^ 22 → go (a.regRequest t (.hub h) (4 * w) (agentMay (.hub h)) p))
        ∧ (a.fromHub p = false ∨ 2 ^ 22 ≤ w → go (a.wait t (errCpl t p 4))))
      ∧ (isReq p = true → w / 2 ^ 46 = 1 →
        (a.isUp (16 + h.val) = true → go (a.onLink (16 + h.val) (·.push (windowed p))))
        ∧ (a.isUp (16 + h.val) = false → go (a.wait t (errCpl t p 1))))
      ∧ (isReq p = true → w / 2 ^ 46 = 2 →
        (w % 2 ^ 46 < 2 ^ 34 → go (a.gwAccept (w % 2 ^ 34 / 2 ^ 30) t p (w % 2 ^ 30)))
        ∧ (2 ^ 34 ≤ w % 2 ^ 46 → go (a.wait t (errCpl t p 4))))
      ∧ (isReq p = true → 3 ≤ w / 2 ^ 46 → go (a.wait t (errCpl t p 4)))
      ∧ (isReq p = false → isCpl p = false → go a))
    ∧ (open_ → pTGT p = 2 →
      (isReq p = false → go a)
      ∧ (isReq p = true → 0x80 ≤ w → w + n ≤ 0x8C → go (a.regRequest t (.groom 1) (virt t (4 * w)) (fun _ => true) p))
      ∧ (isReq p = true → ¬ (0x80 ≤ w ∧ w + n ≤ 0x8C) → go (a.wait t (errCpl t p 4))))

/-! ### Quarantine -/

/-- Outside QUARANTINE and the always-on halt, a fault puts the device into QUARANTINE: the scheduler is disabled, a hold is in
effect (the adoption of a hold at I + 1 is the model's reading, log entry 8), QCAUSE and its always-on copy hold the cause, a
snapshot counts as not restored, and the scheduler's lists but for a decision that the hold undoes, the Time Base, the fuses
and the keys stay. In QUARANTINE a further fault adds its record and changes nothing else; RUN_ABORT enters QUARANTINE with
cause HOST_ABORT and answers OK; after the halt nothing happens. (Rests on R256, R310, R435, R470, R434,
18_faults_and_saddlebag.md.) -/
def Obligations.QuarantineIsEntered : Prop :=
  (∀ (s : State) (cause cinfo : Nat), s.chip.halted = false → s.mode ≠ mQuarantine →
    let u := s.enterQuarantine cause cinfo
    u.mode = mQuarantine ∧ u.on Reg.DS_CTL_EN = false ∧ u.held = true ∧ u.get Reg.CHIP_MODE_QCAUSE = cause % 2 ^ 16
      ∧ u.sb.qcause = cause ∧ u.chip.restored = false ∧ u.on Reg.CHIP_MODE_AT_REST = false ∧ u.tb = s.tb
      ∧ u.ds = { s.ds with
          choice := u.ds.choice, prior := u.ds.prior, wanted := u.ds.wanted, delay := u.ds.delay, decided := u.ds.decided }
      ∧ (s.ds.choice = none → u.ds = s.ds)
      ∧ u.fuses = s.fuses ∧ u.sec = s.sec ∧ u.chip.image = s.chip.image)
  ∧ (∀ (s : State) (cause cinfo : Nat), s.chip.halted = false → s.mode = mQuarantine →
    s.enterQuarantine cause cinfo = s.hwRec 6 0x02 (argOf cause cinfo))
  ∧ (∀ (s : State) (cause cinfo : Nat), s.chip.halted = true → s.enterQuarantine cause cinfo = s)
  ∧ ∀ (s : State) (i : Nat) (c : Taken), s.turn 3 0x0303 i c →
    ∃ t, exec .runAbort s = .next t ∧ t.mode = mQuarantine ∧ t.on Reg.DS_CTL_EN = false

end
end

