-- ==== Sys2Proof/Laws/Table.lean ====
section
/-! SUPPORT. Sparse tables: a read after a write, and that every operation keeps the canonical form. -/
namespace Sys2Proof.Machine

variable {α : Type}

theorem Tab.get_erase_same (d : Nat → α) (t : List (Nat × α)) (k : Nat) : Tab.get d (Tab.erase t k) k = d k := by
  induction t with
  | nil => rfl
  | cons p t ih =>
    simp only [Tab.erase]
    split
    · exact ih
    · next h => simp [Tab.get, h, ih]

theorem Tab.get_erase_other (d : Nat → α) (t : List (Nat × α)) {j k : Nat} (h : j ≠ k) :
    Tab.get d (Tab.erase t k) j = Tab.get d t j := by
  induction t with
  | nil => rfl
  | cons p t ih =>
    simp only [Tab.erase]
    split
    · next e => subst e; simp [Tab.get, h, ih]
    · simp [Tab.get, ih]

theorem Tab.get_insert_same (d : Nat → α) (t : List (Nat × α)) (k : Nat) (v : α) (h : ∀ p ∈ t, p.1 ≠ k) :
    Tab.get d (Tab.insert t k v) k = v := by
  induction t with
  | nil => simp [Tab.insert, Tab.get]
  | cons p t ih =>
    have hp : k ≠ p.1 := fun e => h p (by simp) e.symm
    simp only [Tab.insert]
    split
    · simp [Tab.get]
    · simp [Tab.get, hp, ih (fun q hq => h q (by simp [hq]))]

theorem Tab.get_insert_other (d : Nat → α) (t : List (Nat × α)) {j k : Nat} (v : α) (h : j ≠ k) :
    Tab.get d (Tab.insert t k v) j = Tab.get d t j := by
  induction t with
  | nil => simp [Tab.insert, Tab.get, h]
  | cons p t ih =>
    simp only [Tab.insert]
    split
    · simp [Tab.get, h]
    · simp [Tab.get, ih]

theorem Tab.erase_ne (t : List (Nat × α)) (k : Nat) : ∀ p ∈ Tab.erase t k, p.1 ≠ k := by
  induction t with
  | nil => simp [Tab.erase]
  | cons p t ih =>
    simp only [Tab.erase]
    split
    · exact ih
    · next h =>
      intro q hq
      rcases List.mem_cons.mp hq with rfl | hq
      · exact fun e => h e.symm
      · exact ih q hq

/-- A read of the key that was written gives the value written. -/
@[simp] theorem Tab.get_set_same [DecidableEq α] (d : Nat → α) (t : List (Nat × α)) (k : Nat) (v : α) :
    Tab.get d (Tab.set d t k v) k = v := by
  unfold Tab.set
  split
  · next h => rw [Tab.get_erase_same, h]
  · exact Tab.get_insert_same d _ k v (Tab.erase_ne t k)

/-- A write leaves every other key alone. -/
theorem Tab.get_set_other [DecidableEq α] (d : Nat → α) (t : List (Nat × α)) {j k : Nat} (v : α) (h : j ≠ k) :
    Tab.get d (Tab.set d t k v) j = Tab.get d t j := by
  unfold Tab.set
  split
  · exact Tab.get_erase_other d t h
  · rw [Tab.get_insert_other d _ v h, Tab.get_erase_other d t h]

theorem Tab.get_set [DecidableEq α] (d : Nat → α) (t : List (Nat × α)) (j k : Nat) (v : α) :
    Tab.get d (Tab.set d t k v) j = if j = k then v else Tab.get d t j := by
  split
  · next h => subst h; exact Tab.get_set_same d t j v
  · next h => exact Tab.get_set_other d t v h

/-! ### The canonical form -/

theorem Tab.above_trans {j k : Nat} (t : List (Nat × α)) (h : j ≤ k) (ha : Tab.above k t = true) : Tab.above j t = true := by
  induction t with
  | nil => rfl
  | cons p t ih =>
    simp only [Tab.above, Bool.and_eq_true, decide_eq_true_eq] at ha ⊢
    exact ⟨by omega, ih ha.2⟩

theorem Tab.above_erase {j : Nat} (t : List (Nat × α)) (k : Nat) (h : Tab.above j t = true) :
    Tab.above j (Tab.erase t k) = true := by
  induction t with
  | nil => rfl
  | cons p t ih =>
    simp only [Tab.above, Bool.and_eq_true, decide_eq_true_eq] at h
    simp only [Tab.erase]
    split
    · exact ih h.2
    · simp [Tab.above, h.1, ih h.2]

theorem Tab.above_insert {j k : Nat} (t : List (Nat × α)) (v : α) (h : Tab.above j t = true) (hk : j < k) :
    Tab.above j (Tab.insert t k v) = true := by
  induction t with
  | nil => simp [Tab.insert, Tab.above, hk]
  | cons p t ih =>
    simp only [Tab.above, Bool.and_eq_true, decide_eq_true_eq] at h
    simp only [Tab.insert]
    split
    · simp [Tab.above, hk, h.1, h.2]
    · simp [Tab.above, h.1, ih h.2]

theorem Tab.above_filter {j : Nat} (t : List (Nat × α)) (f : Nat × α → Bool) (h : Tab.above j t = true) :
    Tab.above j (t.filter f) = true := by
  induction t with
  | nil => rfl
  | cons p t ih =>
    simp only [Tab.above, Bool.and_eq_true, decide_eq_true_eq] at h
    simp only [List.filter]
    split
    · simp [Tab.above, h.1, ih h.2]
    · exact ih h.2

variable [DecidableEq α]

theorem Tab.wf_erase (d : Nat → α) (t : List (Nat × α)) (k : Nat) (h : Tab.wf d t = true) : Tab.wf d (Tab.erase t k) = true := by
  induction t with
  | nil => rfl
  | cons p t ih =>
    simp only [Tab.wf, Bool.and_eq_true, decide_eq_true_eq] at h
    simp only [Tab.erase]
    split
    · exact ih h.2
    · simp [Tab.wf, h.1.1, Tab.above_erase t k h.1.2, ih h.2]

theorem Tab.wf_insert (d : Nat → α) (t : List (Nat × α)) (k : Nat) (v : α) (h : Tab.wf d t = true) (hv : v ≠ d k)
    (hk : ∀ p ∈ t, p.1 ≠ k) : Tab.wf d (Tab.insert t k v) = true := by
  induction t with
  | nil => simp [Tab.insert, Tab.wf, Tab.above, hv]
  | cons p t ih =>
    simp only [Tab.wf, Bool.and_eq_true, decide_eq_true_eq] at h
    have hp := hk p (by simp)
    simp only [Tab.insert]
    split
    · next hl => simp [Tab.wf, Tab.above, hv, hl, h.1.1, h.1.2, h.2, Tab.above_trans t (Nat.le_of_lt hl) h.1.2]
    · next hl =>
      have := Tab.above_insert t v h.1.2 (show p.1 < k by omega)
      simp [Tab.wf, h.1.1, this, ih h.2 (fun q hq => hk q (by simp [hq]))]

/-- A write keeps the canonical form. -/
theorem Tab.wf_set (d : Nat → α) (t : List (Nat × α)) (k : Nat) (v : α) (h : Tab.wf d t = true) :
    Tab.wf d (Tab.set d t k v) = true := by
  unfold Tab.set
  split
  · exact Tab.wf_erase d t k h
  · next hv => exact Tab.wf_insert d _ k v (Tab.wf_erase d t k h) hv (Tab.erase_ne t k)

/-- Leaving entries out keeps the canonical form. -/
theorem Tab.wf_filter (d : Nat → α) (t : List (Nat × α)) (f : Nat × α → Bool) (h : Tab.wf d t = true) :
    Tab.wf d (t.filter f) = true := by
  induction t with
  | nil => rfl
  | cons p t ih =>
    simp only [Tab.wf, Bool.and_eq_true, decide_eq_true_eq] at h
    simp only [List.filter]
    split
    · simp [Tab.wf, h.1.1, Tab.above_filter t f h.1.2, ih h.2]
    · exact ih h.2

/-- In canonical form, equal contents are equal data. -/
theorem Tab.wf_ext (d : Nat → α) : ∀ {t u : List (Nat × α)}, Tab.wf d t = true → Tab.wf d u = true →
    (∀ k, Tab.get d t k = Tab.get d u k) → t = u := by
  have low : ∀ (l : List (Nat × α)) (k : Nat), Tab.above k l = true → ∀ i, i ≤ k → Tab.get d l i = d i := by
    intro l k
    induction l with
    | nil => intro _ _ _; rfl
    | cons p l ih =>
      intro ha i hi
      simp only [Tab.above, Bool.and_eq_true, decide_eq_true_eq] at ha
      have : i ≠ p.1 := by omega
      simp [Tab.get, this, ih ha.2 i hi]
  intro t
  induction t with
  | nil =>
    intro u _ hu he
    cases u with
    | nil => rfl
    | cons q u =>
      simp only [Tab.wf, Bool.and_eq_true, decide_eq_true_eq] at hu
      have := he q.1
      simp [Tab.get] at this
      exact absurd this.symm hu.1.1
  | cons p t ih =>
    intro u ht hu he
    cases u with
    | nil =>
      simp only [Tab.wf, Bool.and_eq_true, decide_eq_true_eq] at ht
      have := he p.1
      simp [Tab.get] at this
      exact absurd this ht.1.1
    | cons q u =>
      simp only [Tab.wf, Bool.and_eq_true, decide_eq_true_eq] at ht hu
      have hk : p.1 = q.1 := by
        rcases Nat.lt_trichotomy p.1 q.1 with h | h | h
        · have e := he p.1
          have ne : p.1 ≠ q.1 := by omega
          simp [Tab.get, ne, low u q.1 hu.1.2 p.1 (by omega)] at e
          exact absurd e ht.1.1
        · exact h
        · have e := he q.1
          have ne : q.1 ≠ p.1 := by omega
          simp [Tab.get, ne, low t p.1 ht.1.2 q.1 (by omega)] at e
          exact absurd e.symm hu.1.1
      have hv : p.2 = q.2 := by
        have e := he p.1
        simp [Tab.get, hk] at e
        exact e
      have htl : t = u := ih ht.2 hu.2 (fun k => by
        by_cases h : k = p.1
        · subst h
          rw [low t _ ht.1.2 _ (Nat.le_refl _), low u q.1 hu.1.2 _ (by omega)]
        · have e := he k
          have h2 : k ≠ q.1 := by omega
          simpa [Tab.get, h, h2] using e)
      rw [htl, Prod.ext hk hv]

end Sys2Proof.Machine
end

