-- ==== Sys2Proof/Laws/Regs.lean ====
section
/-! SUPPORT. The algebra of registers and their fields: what a field reads after a field is written. -/
namespace Sys2Proof.Machine

/-! ### Bits of a word -/

theorem bits_lt (n hi lo : Nat) : bits n hi lo < 2 ^ (hi + 1 - lo) := Nat.mod_lt _ (Nat.two_pow_pos _)

/-- A word is what stands above a field, the field, and what stands below it. -/
theorem bits_split (n : Nat) {hi lo : Nat} (h : lo ≤ hi) :
    n = n / 2 ^ (hi + 1) * 2 ^ (hi + 1) + bits n hi lo * 2 ^ lo + n % 2 ^ lo := by
  unfold bits
  have e : 2 ^ (hi + 1) = 2 ^ lo * 2 ^ (hi + 1 - lo) := by rw [← Nat.pow_add]; congr 1; omega
  rw [e, ← Nat.div_div_eq_div_mul]
  have h1 := Nat.div_add_mod n (2 ^ lo)
  have h2 := Nat.div_add_mod (n / 2 ^ lo) (2 ^ (hi + 1 - lo))
  calc n = 2 ^ lo * (n / 2 ^ lo) + n % 2 ^ lo := h1.symm
    _ = 2 ^ lo * (2 ^ (hi + 1 - lo) * (n / 2 ^ lo / 2 ^ (hi + 1 - lo)) + n / 2 ^ lo % 2 ^ (hi + 1 - lo)) + n % 2 ^ lo := by
        rw [h2]
    _ = _ := by rw [Nat.mul_add, ← Nat.mul_assoc]; simp only [Nat.mul_comm]

/-- A word with a field replaced, as a number. -/
theorem setBits_toNat (w : Word) {hi lo : Nat} (v : Nat) (h : lo ≤ hi) (h32 : hi < 32) :
    (setBits w hi lo v).toNat =
      w.toNat / 2 ^ (hi + 1) * 2 ^ (hi + 1) + v % 2 ^ (hi + 1 - lo) * 2 ^ lo + w.toNat % 2 ^ lo := by
  have e : (2 : Nat) ^ (hi + 1) = 2 ^ (hi + 1 - lo) * 2 ^ lo := by rw [← Nat.pow_add]; congr 1; omega
  have hs := bits_split w.toNat h
  have hv : v % 2 ^ (hi + 1 - lo) * 2 ^ lo + w.toNat % 2 ^ lo < 2 ^ (hi + 1) := by
    have a : v % 2 ^ (hi + 1 - lo) + 1 ≤ 2 ^ (hi + 1 - lo) := Nat.mod_lt _ (Nat.two_pow_pos _)
    have b : w.toNat % 2 ^ lo < 2 ^ lo := Nat.mod_lt _ (Nat.two_pow_pos _)
    have c : (v % 2 ^ (hi + 1 - lo) + 1) * 2 ^ lo ≤ 2 ^ (hi + 1 - lo) * 2 ^ lo := Nat.mul_le_mul_right _ a
    rw [Nat.add_mul, Nat.one_mul] at c
    omega
  have ht : w.toNat / 2 ^ (hi + 1) + 1 ≤ 2 ^ (32 - (hi + 1)) := by
    have : w.toNat < 2 ^ (hi + 1) * 2 ^ (32 - (hi + 1)) := by
      rw [← Nat.pow_add]
      have : hi + 1 + (32 - (hi + 1)) = 32 := by omega
      rw [this]; exact w.isLt
    exact Nat.div_lt_of_lt_mul this
  have hb : (w.toNat / 2 ^ (hi + 1) + 1) * 2 ^ (hi + 1) ≤ 2 ^ 32 := by
    have := Nat.mul_le_mul_right (2 ^ (hi + 1)) ht
    rw [← Nat.pow_add] at this
    have e2 : 32 - (hi + 1) + (hi + 1) = 32 := by omega
    rwa [e2] at this
  rw [Nat.add_mul, Nat.one_mul] at hb
  unfold setBits
  rw [BitVec.toNat_ofNat]
  have hle : bits w.toNat hi lo * 2 ^ lo ≤ w.toNat := by omega
  rw [Nat.mod_eq_of_lt (by omega)]
  omega

theorem bits_setBits_same (w : Word) {hi lo : Nat} (v : Nat) (h : lo ≤ hi) (h32 : hi < 32) :
    bits (setBits w hi lo v).toNat hi lo = v % 2 ^ (hi + 1 - lo) := by
  have e : (2 : Nat) ^ (hi + 1) = 2 ^ (hi + 1 - lo) * 2 ^ lo := by rw [← Nat.pow_add]; congr 1; omega
  rw [setBits_toNat w v h h32, e]
  unfold bits
  rw [← Nat.mul_assoc, ← Nat.add_mul, Nat.add_comm, Nat.add_mul_div_right _ _ (Nat.two_pow_pos _),
    Nat.div_eq_of_lt (Nat.mod_lt _ (Nat.two_pow_pos _)), Nat.zero_add, Nat.mul_add_mod_self_right, Nat.mod_mod]

theorem bits_setBits_above (w : Word) {hi lo h2 l2 : Nat} (v : Nat) (h : lo ≤ hi) (h32 : hi < 32) (ha : hi < l2) :
    bits (setBits w hi lo v).toNat h2 l2 = bits w.toNat h2 l2 := by
  have e : (2 : Nat) ^ (hi + 1) = 2 ^ (hi + 1 - lo) * 2 ^ lo := by rw [← Nat.pow_add]; congr 1; omega
  have el : (2 : Nat) ^ l2 = 2 ^ (hi + 1) * 2 ^ (l2 - (hi + 1)) := by rw [← Nat.pow_add]; congr 1; omega
  have hv : v % 2 ^ (hi + 1 - lo) * 2 ^ lo + w.toNat % 2 ^ lo < 2 ^ (hi + 1) := by
    have a : v % 2 ^ (hi + 1 - lo) + 1 ≤ 2 ^ (hi + 1 - lo) := Nat.mod_lt _ (Nat.two_pow_pos _)
    have b : w.toNat % 2 ^ lo < 2 ^ lo := Nat.mod_lt _ (Nat.two_pow_pos _)
    have c : (v % 2 ^ (hi + 1 - lo) + 1) * 2 ^ lo ≤ 2 ^ (hi + 1 - lo) * 2 ^ lo := Nat.mul_le_mul_right _ a
    rw [Nat.add_mul, Nat.one_mul] at c
    omega
  have k : (setBits w hi lo v).toNat / 2 ^ l2 = w.toNat / 2 ^ l2 := by
    rw [setBits_toNat w v h h32, el, ← Nat.div_div_eq_div_mul, ← Nat.div_div_eq_div_mul, Nat.add_assoc,
      Nat.add_comm, Nat.add_mul_div_right _ _ (Nat.two_pow_pos _), Nat.div_eq_of_lt hv, Nat.zero_add]
  unfold bits
  rw [k]

theorem bits_setBits_below (w : Word) {hi lo h2 l2 : Nat} (v : Nat) (h : lo ≤ hi) (h32 : hi < 32) (hb : h2 < lo) :
    bits (setBits w hi lo v).toNat h2 l2 = bits w.toNat h2 l2 := by
  by_cases hl : l2 ≤ h2
  · have low : ∀ n, bits n h2 l2 = n % 2 ^ lo / 2 ^ l2 % 2 ^ (h2 + 1 - l2) := by
      intro n
      unfold bits
      have el : (2 : Nat) ^ lo = 2 ^ l2 * 2 ^ (lo - l2) := by rw [← Nat.pow_add]; congr 1; omega
      rw [el, Nat.mod_mul_right_div_self]
      rw [Nat.mod_mod_of_dvd]
      exact Nat.pow_dvd_pow 2 (by omega)
    have k : (setBits w hi lo v).toNat % 2 ^ lo = w.toNat % 2 ^ lo := by
      have e : (2 : Nat) ^ (hi + 1) = 2 ^ (hi + 1 - lo) * 2 ^ lo := by rw [← Nat.pow_add]; congr 1; omega
      rw [setBits_toNat w v h h32, e, ← Nat.mul_assoc, ← Nat.add_mul, Nat.mul_add_mod_self_right, Nat.mod_mod]
    rw [low, low, k]
  · unfold bits
    have : h2 + 1 - l2 = 0 := by omega
    simp [this, Nat.mod_one]

/-! ### Registers -/

@[simp] theorem State.rd_wr_same (s : State) (a : Nat) (v : Word) : (s.wr a v).rd a = v := by
  simp [State.rd, State.wr]

theorem State.rd_wr_other (s : State) {a b : Nat} (v : Word) (h : b ≠ a) : (s.wr a v).rd b = s.rd b := by
  simp [State.rd, State.wr, Tab.get_set_other, h]

/-- The bits of a field lie in a word of 32 bits. -/
abbrev Fld.ok (f : Fld) : Prop := f.lo ≤ f.hi ∧ f.hi < 32

/-- Two fields share no bit. -/
abbrev Fld.apart (f g : Fld) : Prop := f.addr ≠ g.addr ∨ f.hi < g.lo ∨ g.hi < f.lo

theorem State.rd_put_other (s : State) {f : Fld} (v : Nat) {b : Nat} (h : b ≠ f.addr) : (s.put f v).rd b = s.rd b :=
  State.rd_wr_other s _ h

/-- A field reads as it was written, in its width. -/
theorem State.get_put_same (s : State) {f : Fld} (v : Nat) (hf : f.ok) : (s.put f v).get f = v % 2 ^ (f.hi + 1 - f.lo) := by
  simp [State.get, State.put, bits_setBits_same _ v hf.1 hf.2]

/-- A write of a field leaves every field that shares no bit with it alone. -/
theorem State.get_put_other (s : State) {f g : Fld} (v : Nat) (hf : f.ok) (h : f.apart g) :
    (s.put f v).get g = s.get g := by
  by_cases ha : g.addr = f.addr
  · rcases h with h | h | h
    · exact absurd ha.symm h
    · simp [State.get, State.put, ha, bits_setBits_above _ v hf.1 hf.2 h]
    · simp [State.get, State.put, ha, bits_setBits_below _ v hf.1 hf.2 h]
  · simp [State.get, State.rd_put_other s v ha]

theorem State.on_set1_same (s : State) {f : Fld} (hf : f.ok) : (s.set1 f).on f = true := by
  have : 1 % 2 ^ (f.hi + 1 - f.lo) = 1 := by
    have h1 : 1 ≤ f.hi + 1 - f.lo := by have := hf.1; omega
    exact Nat.mod_eq_of_lt (Nat.one_lt_two_pow (by omega))
  simp [State.on, State.set1, State.get_put_same s 1 hf, this]

theorem State.on_clr_same (s : State) {f : Fld} (hf : f.ok) : (s.clr f).on f = false := by
  simp [State.on, State.clr, State.get_put_same s 0 hf]

theorem State.on_set1_other (s : State) {f g : Fld} (hf : f.ok) (h : f.apart g) : (s.set1 f).on g = s.on g := by
  simp [State.on, State.set1, State.get_put_other s 1 hf h]

theorem State.on_clr_other (s : State) {f g : Fld} (hf : f.ok) (h : f.apart g) : (s.clr f).on g = s.on g := by
  simp [State.on, State.clr, State.get_put_other s 0 hf h]

/-! ### GDDR6 bytes -/

@[simp] theorem State.mem_setMem_same (s : State) (d : Nat) (b : Byte) : (s.setMem d b).mem d = b := by
  simp [State.mem, State.setMem]

theorem State.mem_setMem_other (s : State) {d e : Nat} (b : Byte) (h : e ≠ d) : (s.setMem d b).mem e = s.mem e := by
  simp [State.mem, State.setMem, Tab.get_set_other, h]

theorem State.mem_setMemBytes_other (s : State) (d : Nat) (bs : List Byte) {e : Nat} (h : e < d ∨ d + bs.length ≤ e) :
    (s.setMemBytes d bs).mem e = s.mem e := by
  induction bs generalizing s d with
  | nil => rfl
  | cons b bs ih =>
    simp only [State.setMemBytes, List.length_cons] at h ⊢
    rw [ih _ _ (by omega), State.mem_setMem_other s b (by omega)]

/-- A byte of a write reads as written. -/
theorem State.mem_setMemBytes_same (s : State) (d : Nat) (bs : List Byte) {i : Nat} (h : i < bs.length) :
    (s.setMemBytes d bs).mem (d + i) = bs[i] := by
  induction bs generalizing s d i with
  | nil => simp at h
  | cons b bs ih =>
    simp only [State.setMemBytes]
    cases i with
    | zero => rw [Nat.add_zero, State.mem_setMemBytes_other _ _ _ (by omega)]; simp
    | succ i =>
      have h2 : i < bs.length := by simpa using h
      have := ih (s.setMem d b) (d + 1) h2
      rw [show d + (i + 1) = d + 1 + i by omega, this]; rfl

/-! ### One unit of an array -/

@[simp] theorem State.team_setTeam_same (s : State) (t : Nat) (m : Team) : (s.setTeam t m).team t = m := by
  simp [State.team, State.setTeam]

theorem State.team_setTeam_other (s : State) {t u : Nat} (m : Team) (h : u ≠ t) : (s.setTeam t m).team u = s.team u := by
  simp [State.team, State.setTeam, Tab.get_set_other, h]

@[simp] theorem State.router_setRouter_same (s : State) (t : Nat) (m : Router) : (s.setRouter t m).router t = m := by
  simp [State.router, State.setRouter]

theorem State.router_setRouter_other (s : State) {t u : Nat} (m : Router) (h : u ≠ t) :
    (s.setRouter t m).router u = s.router u := by
  simp [State.router, State.setRouter, Tab.get_set_other, h]

@[simp] theorem State.link_setLink_same (s : State) (n : Nat) (m : Link) : (s.setLink n m).link n = m := by
  simp [State.link, State.setLink]

theorem State.link_setLink_other (s : State) {n k : Nat} (m : Link) (h : k ≠ n) : (s.setLink n m).link k = s.link k := by
  simp [State.link, State.setLink, Tab.get_set_other, h]

@[simp] theorem State.box_setBox_same (s : State) (m : Nat) (b : Mailbox) : (s.setBox m b).box m = b := by
  simp [State.box, State.setBox]

theorem State.box_setBox_other (s : State) {m k : Nat} (b : Mailbox) (h : k ≠ m) : (s.setBox m b).box k = s.box k := by
  simp [State.box, State.setBox, Tab.get_set_other, h]

@[simp] theorem look_upd_same {α : Type} [Inhabited α] [DecidableEq α] (t : List (Nat × α)) (k : Nat) (v : α) :
    look (upd t k v) k = v := by simp [look, upd]

theorem look_upd_other {α : Type} [Inhabited α] [DecidableEq α] (t : List (Nat × α)) {j k : Nat} (v : α) (h : j ≠ k) :
    look (upd t k v) j = look t j := by simp [look, upd, Tab.get_set_other, h]

end Sys2Proof.Machine
end

