-- ==== Sys2Proof/Laws/State.lean ====
section
/-! SUPPORT. What each update of the state leaves alone: one lemma per field per update. -/
namespace Sys2Proof.Machine

variable (s : State)

/-! ### `wr` -/

@[simp] theorem State.wr_latch (a : Nat) (v : Word) : (s.wr a v).latch = s.latch := rfl
@[simp] theorem State.wr_teams (a : Nat) (v : Word) : (s.wr a v).teams = s.teams := rfl
@[simp] theorem State.wr_routers (a : Nat) (v : Word) : (s.wr a v).routers = s.routers := rfl
@[simp] theorem State.wr_chip (a : Nat) (v : Word) : (s.wr a v).chip = s.chip := rfl
@[simp] theorem State.wr_fuses (a : Nat) (v : Word) : (s.wr a v).fuses = s.fuses := rfl
@[simp] theorem State.wr_ds (a : Nat) (v : Word) : (s.wr a v).ds = s.ds := rfl
@[simp] theorem State.wr_cap (a : Nat) (v : Word) : (s.wr a v).cap = s.cap := rfl
@[simp] theorem State.wr_lanes (a : Nat) (v : Word) : (s.wr a v).lanes = s.lanes := rfl
@[simp] theorem State.wr_tb (a : Nat) (v : Word) : (s.wr a v).tb = s.tb := rfl
@[simp] theorem State.wr_chans (a : Nat) (v : Word) : (s.wr a v).chans = s.chans := rfl
@[simp] theorem State.wr_ht (a : Nat) (v : Word) : (s.wr a v).ht = s.ht := rfl
@[simp] theorem State.wr_hotRecord (a : Nat) (v : Word) : (s.wr a v).hotRecord = s.hotRecord := rfl
@[simp] theorem State.wr_probes (a : Nat) (v : Word) : (s.wr a v).probes = s.probes := rfl
@[simp] theorem State.wr_links (a : Nat) (v : Word) : (s.wr a v).links = s.links := rfl
@[simp] theorem State.wr_boxes (a : Nat) (v : Word) : (s.wr a v).boxes = s.boxes := rfl
@[simp] theorem State.wr_pcie (a : Nat) (v : Word) : (s.wr a v).pcie = s.pcie := rfl
@[simp] theorem State.wr_sb (a : Nat) (v : Word) : (s.wr a v).sb = s.sb := rfl
@[simp] theorem State.wr_trace (a : Nat) (v : Word) : (s.wr a v).trace = s.trace := rfl
@[simp] theorem State.wr_sec (a : Nat) (v : Word) : (s.wr a v).sec = s.sec := rfl
@[simp] theorem State.wr_gddr (a : Nat) (v : Word) : (s.wr a v).gddr = s.gddr := rfl
@[simp] theorem State.wr_rdata (a : Nat) (v : Word) : (s.wr a v).rdata = s.rdata := rfl
@[simp] theorem State.wr_free (a : Nat) (v : Word) : (s.wr a v).free = s.free := rfl
@[simp] theorem State.wr_pending (a : Nat) (v : Word) : (s.wr a v).pending = s.pending := rfl

/-! ### `put` -/

@[simp] theorem State.put_latch (f : Fld) (v : Nat) : (s.put f v).latch = s.latch := rfl
@[simp] theorem State.put_teams (f : Fld) (v : Nat) : (s.put f v).teams = s.teams := rfl
@[simp] theorem State.put_routers (f : Fld) (v : Nat) : (s.put f v).routers = s.routers := rfl
@[simp] theorem State.put_chip (f : Fld) (v : Nat) : (s.put f v).chip = s.chip := rfl
@[simp] theorem State.put_fuses (f : Fld) (v : Nat) : (s.put f v).fuses = s.fuses := rfl
@[simp] theorem State.put_ds (f : Fld) (v : Nat) : (s.put f v).ds = s.ds := rfl
@[simp] theorem State.put_cap (f : Fld) (v : Nat) : (s.put f v).cap = s.cap := rfl
@[simp] theorem State.put_lanes (f : Fld) (v : Nat) : (s.put f v).lanes = s.lanes := rfl
@[simp] theorem State.put_tb (f : Fld) (v : Nat) : (s.put f v).tb = s.tb := rfl
@[simp] theorem State.put_chans (f : Fld) (v : Nat) : (s.put f v).chans = s.chans := rfl
@[simp] theorem State.put_ht (f : Fld) (v : Nat) : (s.put f v).ht = s.ht := rfl
@[simp] theorem State.put_hotRecord (f : Fld) (v : Nat) : (s.put f v).hotRecord = s.hotRecord := rfl
@[simp] theorem State.put_probes (f : Fld) (v : Nat) : (s.put f v).probes = s.probes := rfl
@[simp] theorem State.put_links (f : Fld) (v : Nat) : (s.put f v).links = s.links := rfl
@[simp] theorem State.put_boxes (f : Fld) (v : Nat) : (s.put f v).boxes = s.boxes := rfl
@[simp] theorem State.put_pcie (f : Fld) (v : Nat) : (s.put f v).pcie = s.pcie := rfl
@[simp] theorem State.put_sb (f : Fld) (v : Nat) : (s.put f v).sb = s.sb := rfl
@[simp] theorem State.put_trace (f : Fld) (v : Nat) : (s.put f v).trace = s.trace := rfl
@[simp] theorem State.put_sec (f : Fld) (v : Nat) : (s.put f v).sec = s.sec := rfl
@[simp] theorem State.put_gddr (f : Fld) (v : Nat) : (s.put f v).gddr = s.gddr := rfl
@[simp] theorem State.put_rdata (f : Fld) (v : Nat) : (s.put f v).rdata = s.rdata := rfl
@[simp] theorem State.put_free (f : Fld) (v : Nat) : (s.put f v).free = s.free := rfl
@[simp] theorem State.put_pending (f : Fld) (v : Nat) : (s.put f v).pending = s.pending := rfl

/-! ### `set1` -/

@[simp] theorem State.set1_latch (f : Fld) : (s.set1 f).latch = s.latch := rfl
@[simp] theorem State.set1_teams (f : Fld) : (s.set1 f).teams = s.teams := rfl
@[simp] theorem State.set1_routers (f : Fld) : (s.set1 f).routers = s.routers := rfl
@[simp] theorem State.set1_chip (f : Fld) : (s.set1 f).chip = s.chip := rfl
@[simp] theorem State.set1_fuses (f : Fld) : (s.set1 f).fuses = s.fuses := rfl
@[simp] theorem State.set1_ds (f : Fld) : (s.set1 f).ds = s.ds := rfl
@[simp] theorem State.set1_cap (f : Fld) : (s.set1 f).cap = s.cap := rfl
@[simp] theorem State.set1_lanes (f : Fld) : (s.set1 f).lanes = s.lanes := rfl
@[simp] theorem State.set1_tb (f : Fld) : (s.set1 f).tb = s.tb := rfl
@[simp] theorem State.set1_chans (f : Fld) : (s.set1 f).chans = s.chans := rfl
@[simp] theorem State.set1_ht (f : Fld) : (s.set1 f).ht = s.ht := rfl
@[simp] theorem State.set1_hotRecord (f : Fld) : (s.set1 f).hotRecord = s.hotRecord := rfl
@[simp] theorem State.set1_probes (f : Fld) : (s.set1 f).probes = s.probes := rfl
@[simp] theorem State.set1_links (f : Fld) : (s.set1 f).links = s.links := rfl
@[simp] theorem State.set1_boxes (f : Fld) : (s.set1 f).boxes = s.boxes := rfl
@[simp] theorem State.set1_pcie (f : Fld) : (s.set1 f).pcie = s.pcie := rfl
@[simp] theorem State.set1_sb (f : Fld) : (s.set1 f).sb = s.sb := rfl
@[simp] theorem State.set1_trace (f : Fld) : (s.set1 f).trace = s.trace := rfl
@[simp] theorem State.set1_sec (f : Fld) : (s.set1 f).sec = s.sec := rfl
@[simp] theorem State.set1_gddr (f : Fld) : (s.set1 f).gddr = s.gddr := rfl
@[simp] theorem State.set1_rdata (f : Fld) : (s.set1 f).rdata = s.rdata := rfl
@[simp] theorem State.set1_free (f : Fld) : (s.set1 f).free = s.free := rfl
@[simp] theorem State.set1_pending (f : Fld) : (s.set1 f).pending = s.pending := rfl

/-! ### `clr` -/

@[simp] theorem State.clr_latch (f : Fld) : (s.clr f).latch = s.latch := rfl
@[simp] theorem State.clr_teams (f : Fld) : (s.clr f).teams = s.teams := rfl
@[simp] theorem State.clr_routers (f : Fld) : (s.clr f).routers = s.routers := rfl
@[simp] theorem State.clr_chip (f : Fld) : (s.clr f).chip = s.chip := rfl
@[simp] theorem State.clr_fuses (f : Fld) : (s.clr f).fuses = s.fuses := rfl
@[simp] theorem State.clr_ds (f : Fld) : (s.clr f).ds = s.ds := rfl
@[simp] theorem State.clr_cap (f : Fld) : (s.clr f).cap = s.cap := rfl
@[simp] theorem State.clr_lanes (f : Fld) : (s.clr f).lanes = s.lanes := rfl
@[simp] theorem State.clr_tb (f : Fld) : (s.clr f).tb = s.tb := rfl
@[simp] theorem State.clr_chans (f : Fld) : (s.clr f).chans = s.chans := rfl
@[simp] theorem State.clr_ht (f : Fld) : (s.clr f).ht = s.ht := rfl
@[simp] theorem State.clr_hotRecord (f : Fld) : (s.clr f).hotRecord = s.hotRecord := rfl
@[simp] theorem State.clr_probes (f : Fld) : (s.clr f).probes = s.probes := rfl
@[simp] theorem State.clr_links (f : Fld) : (s.clr f).links = s.links := rfl
@[simp] theorem State.clr_boxes (f : Fld) : (s.clr f).boxes = s.boxes := rfl
@[simp] theorem State.clr_pcie (f : Fld) : (s.clr f).pcie = s.pcie := rfl
@[simp] theorem State.clr_sb (f : Fld) : (s.clr f).sb = s.sb := rfl
@[simp] theorem State.clr_trace (f : Fld) : (s.clr f).trace = s.trace := rfl
@[simp] theorem State.clr_sec (f : Fld) : (s.clr f).sec = s.sec := rfl
@[simp] theorem State.clr_gddr (f : Fld) : (s.clr f).gddr = s.gddr := rfl
@[simp] theorem State.clr_rdata (f : Fld) : (s.clr f).rdata = s.rdata := rfl
@[simp] theorem State.clr_free (f : Fld) : (s.clr f).free = s.free := rfl
@[simp] theorem State.clr_pending (f : Fld) : (s.clr f).pending = s.pending := rfl

/-! ### `sat` -/

@[simp] theorem State.sat_latch (f : Fld) (k : Nat) : (s.sat f k).latch = s.latch := rfl
@[simp] theorem State.sat_teams (f : Fld) (k : Nat) : (s.sat f k).teams = s.teams := rfl
@[simp] theorem State.sat_routers (f : Fld) (k : Nat) : (s.sat f k).routers = s.routers := rfl
@[simp] theorem State.sat_chip (f : Fld) (k : Nat) : (s.sat f k).chip = s.chip := rfl
@[simp] theorem State.sat_fuses (f : Fld) (k : Nat) : (s.sat f k).fuses = s.fuses := rfl
@[simp] theorem State.sat_ds (f : Fld) (k : Nat) : (s.sat f k).ds = s.ds := rfl
@[simp] theorem State.sat_cap (f : Fld) (k : Nat) : (s.sat f k).cap = s.cap := rfl
@[simp] theorem State.sat_lanes (f : Fld) (k : Nat) : (s.sat f k).lanes = s.lanes := rfl
@[simp] theorem State.sat_tb (f : Fld) (k : Nat) : (s.sat f k).tb = s.tb := rfl
@[simp] theorem State.sat_chans (f : Fld) (k : Nat) : (s.sat f k).chans = s.chans := rfl
@[simp] theorem State.sat_ht (f : Fld) (k : Nat) : (s.sat f k).ht = s.ht := rfl
@[simp] theorem State.sat_hotRecord (f : Fld) (k : Nat) : (s.sat f k).hotRecord = s.hotRecord := rfl
@[simp] theorem State.sat_probes (f : Fld) (k : Nat) : (s.sat f k).probes = s.probes := rfl
@[simp] theorem State.sat_links (f : Fld) (k : Nat) : (s.sat f k).links = s.links := rfl
@[simp] theorem State.sat_boxes (f : Fld) (k : Nat) : (s.sat f k).boxes = s.boxes := rfl
@[simp] theorem State.sat_pcie (f : Fld) (k : Nat) : (s.sat f k).pcie = s.pcie := rfl
@[simp] theorem State.sat_sb (f : Fld) (k : Nat) : (s.sat f k).sb = s.sb := rfl
@[simp] theorem State.sat_trace (f : Fld) (k : Nat) : (s.sat f k).trace = s.trace := rfl
@[simp] theorem State.sat_sec (f : Fld) (k : Nat) : (s.sat f k).sec = s.sec := rfl
@[simp] theorem State.sat_gddr (f : Fld) (k : Nat) : (s.sat f k).gddr = s.gddr := rfl
@[simp] theorem State.sat_rdata (f : Fld) (k : Nat) : (s.sat f k).rdata = s.rdata := rfl
@[simp] theorem State.sat_free (f : Fld) (k : Nat) : (s.sat f k).free = s.free := rfl
@[simp] theorem State.sat_pending (f : Fld) (k : Nat) : (s.sat f k).pending = s.pending := rfl

/-! ### `putPair` -/

@[simp] theorem State.putPair_latch (lo hi v : Nat) : (s.putPair lo hi v).latch = s.latch := rfl
@[simp] theorem State.putPair_teams (lo hi v : Nat) : (s.putPair lo hi v).teams = s.teams := rfl
@[simp] theorem State.putPair_routers (lo hi v : Nat) : (s.putPair lo hi v).routers = s.routers := rfl
@[simp] theorem State.putPair_chip (lo hi v : Nat) : (s.putPair lo hi v).chip = s.chip := rfl
@[simp] theorem State.putPair_fuses (lo hi v : Nat) : (s.putPair lo hi v).fuses = s.fuses := rfl
@[simp] theorem State.putPair_ds (lo hi v : Nat) : (s.putPair lo hi v).ds = s.ds := rfl
@[simp] theorem State.putPair_cap (lo hi v : Nat) : (s.putPair lo hi v).cap = s.cap := rfl
@[simp] theorem State.putPair_lanes (lo hi v : Nat) : (s.putPair lo hi v).lanes = s.lanes := rfl
@[simp] theorem State.putPair_tb (lo hi v : Nat) : (s.putPair lo hi v).tb = s.tb := rfl
@[simp] theorem State.putPair_chans (lo hi v : Nat) : (s.putPair lo hi v).chans = s.chans := rfl
@[simp] theorem State.putPair_ht (lo hi v : Nat) : (s.putPair lo hi v).ht = s.ht := rfl
@[simp] theorem State.putPair_hotRecord (lo hi v : Nat) : (s.putPair lo hi v).hotRecord = s.hotRecord := rfl
@[simp] theorem State.putPair_probes (lo hi v : Nat) : (s.putPair lo hi v).probes = s.probes := rfl
@[simp] theorem State.putPair_links (lo hi v : Nat) : (s.putPair lo hi v).links = s.links := rfl
@[simp] theorem State.putPair_boxes (lo hi v : Nat) : (s.putPair lo hi v).boxes = s.boxes := rfl
@[simp] theorem State.putPair_pcie (lo hi v : Nat) : (s.putPair lo hi v).pcie = s.pcie := rfl
@[simp] theorem State.putPair_sb (lo hi v : Nat) : (s.putPair lo hi v).sb = s.sb := rfl
@[simp] theorem State.putPair_trace (lo hi v : Nat) : (s.putPair lo hi v).trace = s.trace := rfl
@[simp] theorem State.putPair_sec (lo hi v : Nat) : (s.putPair lo hi v).sec = s.sec := rfl
@[simp] theorem State.putPair_gddr (lo hi v : Nat) : (s.putPair lo hi v).gddr = s.gddr := rfl
@[simp] theorem State.putPair_rdata (lo hi v : Nat) : (s.putPair lo hi v).rdata = s.rdata := rfl
@[simp] theorem State.putPair_free (lo hi v : Nat) : (s.putPair lo hi v).free = s.free := rfl
@[simp] theorem State.putPair_pending (lo hi v : Nat) : (s.putPair lo hi v).pending = s.pending := rfl

/-! ### `dropRegs` -/

@[simp] theorem State.dropRegs_latch (keep : Nat → Bool) : (s.dropRegs keep).latch = s.latch := rfl
@[simp] theorem State.dropRegs_teams (keep : Nat → Bool) : (s.dropRegs keep).teams = s.teams := rfl
@[simp] theorem State.dropRegs_routers (keep : Nat → Bool) : (s.dropRegs keep).routers = s.routers := rfl
@[simp] theorem State.dropRegs_chip (keep : Nat → Bool) : (s.dropRegs keep).chip = s.chip := rfl
@[simp] theorem State.dropRegs_fuses (keep : Nat → Bool) : (s.dropRegs keep).fuses = s.fuses := rfl
@[simp] theorem State.dropRegs_ds (keep : Nat → Bool) : (s.dropRegs keep).ds = s.ds := rfl
@[simp] theorem State.dropRegs_cap (keep : Nat → Bool) : (s.dropRegs keep).cap = s.cap := rfl
@[simp] theorem State.dropRegs_lanes (keep : Nat → Bool) : (s.dropRegs keep).lanes = s.lanes := rfl
@[simp] theorem State.dropRegs_tb (keep : Nat → Bool) : (s.dropRegs keep).tb = s.tb := rfl
@[simp] theorem State.dropRegs_chans (keep : Nat → Bool) : (s.dropRegs keep).chans = s.chans := rfl
@[simp] theorem State.dropRegs_ht (keep : Nat → Bool) : (s.dropRegs keep).ht = s.ht := rfl
@[simp] theorem State.dropRegs_hotRecord (keep : Nat → Bool) : (s.dropRegs keep).hotRecord = s.hotRecord := rfl
@[simp] theorem State.dropRegs_probes (keep : Nat → Bool) : (s.dropRegs keep).probes = s.probes := rfl
@[simp] theorem State.dropRegs_links (keep : Nat → Bool) : (s.dropRegs keep).links = s.links := rfl
@[simp] theorem State.dropRegs_boxes (keep : Nat → Bool) : (s.dropRegs keep).boxes = s.boxes := rfl
@[simp] theorem State.dropRegs_pcie (keep : Nat → Bool) : (s.dropRegs keep).pcie = s.pcie := rfl
@[simp] theorem State.dropRegs_sb (keep : Nat → Bool) : (s.dropRegs keep).sb = s.sb := rfl
@[simp] theorem State.dropRegs_trace (keep : Nat → Bool) : (s.dropRegs keep).trace = s.trace := rfl
@[simp] theorem State.dropRegs_sec (keep : Nat → Bool) : (s.dropRegs keep).sec = s.sec := rfl
@[simp] theorem State.dropRegs_gddr (keep : Nat → Bool) : (s.dropRegs keep).gddr = s.gddr := rfl
@[simp] theorem State.dropRegs_rdata (keep : Nat → Bool) : (s.dropRegs keep).rdata = s.rdata := rfl
@[simp] theorem State.dropRegs_free (keep : Nat → Bool) : (s.dropRegs keep).free = s.free := rfl
@[simp] theorem State.dropRegs_pending (keep : Nat → Bool) : (s.dropRegs keep).pending = s.pending := rfl

/-! ### `setTeam` -/

@[simp] theorem State.setTeam_regs (t : Nat) (m : Team) : (s.setTeam t m).regs = s.regs := rfl
@[simp] theorem State.setTeam_latch (t : Nat) (m : Team) : (s.setTeam t m).latch = s.latch := rfl
@[simp] theorem State.setTeam_routers (t : Nat) (m : Team) : (s.setTeam t m).routers = s.routers := rfl
@[simp] theorem State.setTeam_chip (t : Nat) (m : Team) : (s.setTeam t m).chip = s.chip := rfl
@[simp] theorem State.setTeam_fuses (t : Nat) (m : Team) : (s.setTeam t m).fuses = s.fuses := rfl
@[simp] theorem State.setTeam_ds (t : Nat) (m : Team) : (s.setTeam t m).ds = s.ds := rfl
@[simp] theorem State.setTeam_cap (t : Nat) (m : Team) : (s.setTeam t m).cap = s.cap := rfl
@[simp] theorem State.setTeam_lanes (t : Nat) (m : Team) : (s.setTeam t m).lanes = s.lanes := rfl
@[simp] theorem State.setTeam_tb (t : Nat) (m : Team) : (s.setTeam t m).tb = s.tb := rfl
@[simp] theorem State.setTeam_chans (t : Nat) (m : Team) : (s.setTeam t m).chans = s.chans := rfl
@[simp] theorem State.setTeam_ht (t : Nat) (m : Team) : (s.setTeam t m).ht = s.ht := rfl
@[simp] theorem State.setTeam_hotRecord (t : Nat) (m : Team) : (s.setTeam t m).hotRecord = s.hotRecord := rfl
@[simp] theorem State.setTeam_probes (t : Nat) (m : Team) : (s.setTeam t m).probes = s.probes := rfl
@[simp] theorem State.setTeam_links (t : Nat) (m : Team) : (s.setTeam t m).links = s.links := rfl
@[simp] theorem State.setTeam_boxes (t : Nat) (m : Team) : (s.setTeam t m).boxes = s.boxes := rfl
@[simp] theorem State.setTeam_pcie (t : Nat) (m : Team) : (s.setTeam t m).pcie = s.pcie := rfl
@[simp] theorem State.setTeam_sb (t : Nat) (m : Team) : (s.setTeam t m).sb = s.sb := rfl
@[simp] theorem State.setTeam_trace (t : Nat) (m : Team) : (s.setTeam t m).trace = s.trace := rfl
@[simp] theorem State.setTeam_sec (t : Nat) (m : Team) : (s.setTeam t m).sec = s.sec := rfl
@[simp] theorem State.setTeam_gddr (t : Nat) (m : Team) : (s.setTeam t m).gddr = s.gddr := rfl
@[simp] theorem State.setTeam_rdata (t : Nat) (m : Team) : (s.setTeam t m).rdata = s.rdata := rfl
@[simp] theorem State.setTeam_free (t : Nat) (m : Team) : (s.setTeam t m).free = s.free := rfl
@[simp] theorem State.setTeam_pending (t : Nat) (m : Team) : (s.setTeam t m).pending = s.pending := rfl

/-! ### `onTeam` -/

@[simp] theorem State.onTeam_regs (t : Nat) (f : Team → Team) : (s.onTeam t f).regs = s.regs := rfl
@[simp] theorem State.onTeam_latch (t : Nat) (f : Team → Team) : (s.onTeam t f).latch = s.latch := rfl
@[simp] theorem State.onTeam_routers (t : Nat) (f : Team → Team) : (s.onTeam t f).routers = s.routers := rfl
@[simp] theorem State.onTeam_chip (t : Nat) (f : Team → Team) : (s.onTeam t f).chip = s.chip := rfl
@[simp] theorem State.onTeam_fuses (t : Nat) (f : Team → Team) : (s.onTeam t f).fuses = s.fuses := rfl
@[simp] theorem State.onTeam_ds (t : Nat) (f : Team → Team) : (s.onTeam t f).ds = s.ds := rfl
@[simp] theorem State.onTeam_cap (t : Nat) (f : Team → Team) : (s.onTeam t f).cap = s.cap := rfl
@[simp] theorem State.onTeam_lanes (t : Nat) (f : Team → Team) : (s.onTeam t f).lanes = s.lanes := rfl
@[simp] theorem State.onTeam_tb (t : Nat) (f : Team → Team) : (s.onTeam t f).tb = s.tb := rfl
@[simp] theorem State.onTeam_chans (t : Nat) (f : Team → Team) : (s.onTeam t f).chans = s.chans := rfl
@[simp] theorem State.onTeam_ht (t : Nat) (f : Team → Team) : (s.onTeam t f).ht = s.ht := rfl
@[simp] theorem State.onTeam_hotRecord (t : Nat) (f : Team → Team) : (s.onTeam t f).hotRecord = s.hotRecord := rfl
@[simp] theorem State.onTeam_probes (t : Nat) (f : Team → Team) : (s.onTeam t f).probes = s.probes := rfl
@[simp] theorem State.onTeam_links (t : Nat) (f : Team → Team) : (s.onTeam t f).links = s.links := rfl
@[simp] theorem State.onTeam_boxes (t : Nat) (f : Team → Team) : (s.onTeam t f).boxes = s.boxes := rfl
@[simp] theorem State.onTeam_pcie (t : Nat) (f : Team → Team) : (s.onTeam t f).pcie = s.pcie := rfl
@[simp] theorem State.onTeam_sb (t : Nat) (f : Team → Team) : (s.onTeam t f).sb = s.sb := rfl
@[simp] theorem State.onTeam_trace (t : Nat) (f : Team → Team) : (s.onTeam t f).trace = s.trace := rfl
@[simp] theorem State.onTeam_sec (t : Nat) (f : Team → Team) : (s.onTeam t f).sec = s.sec := rfl
@[simp] theorem State.onTeam_gddr (t : Nat) (f : Team → Team) : (s.onTeam t f).gddr = s.gddr := rfl
@[simp] theorem State.onTeam_rdata (t : Nat) (f : Team → Team) : (s.onTeam t f).rdata = s.rdata := rfl
@[simp] theorem State.onTeam_free (t : Nat) (f : Team → Team) : (s.onTeam t f).free = s.free := rfl
@[simp] theorem State.onTeam_pending (t : Nat) (f : Team → Team) : (s.onTeam t f).pending = s.pending := rfl

/-! ### `setRouter` -/

@[simp] theorem State.setRouter_regs (t : Nat) (m : Router) : (s.setRouter t m).regs = s.regs := rfl
@[simp] theorem State.setRouter_latch (t : Nat) (m : Router) : (s.setRouter t m).latch = s.latch := rfl
@[simp] theorem State.setRouter_teams (t : Nat) (m : Router) : (s.setRouter t m).teams = s.teams := rfl
@[simp] theorem State.setRouter_chip (t : Nat) (m : Router) : (s.setRouter t m).chip = s.chip := rfl
@[simp] theorem State.setRouter_fuses (t : Nat) (m : Router) : (s.setRouter t m).fuses = s.fuses := rfl
@[simp] theorem State.setRouter_ds (t : Nat) (m : Router) : (s.setRouter t m).ds = s.ds := rfl
@[simp] theorem State.setRouter_cap (t : Nat) (m : Router) : (s.setRouter t m).cap = s.cap := rfl
@[simp] theorem State.setRouter_lanes (t : Nat) (m : Router) : (s.setRouter t m).lanes = s.lanes := rfl
@[simp] theorem State.setRouter_tb (t : Nat) (m : Router) : (s.setRouter t m).tb = s.tb := rfl
@[simp] theorem State.setRouter_chans (t : Nat) (m : Router) : (s.setRouter t m).chans = s.chans := rfl
@[simp] theorem State.setRouter_ht (t : Nat) (m : Router) : (s.setRouter t m).ht = s.ht := rfl
@[simp] theorem State.setRouter_hotRecord (t : Nat) (m : Router) : (s.setRouter t m).hotRecord = s.hotRecord := rfl
@[simp] theorem State.setRouter_probes (t : Nat) (m : Router) : (s.setRouter t m).probes = s.probes := rfl
@[simp] theorem State.setRouter_links (t : Nat) (m : Router) : (s.setRouter t m).links = s.links := rfl
@[simp] theorem State.setRouter_boxes (t : Nat) (m : Router) : (s.setRouter t m).boxes = s.boxes := rfl
@[simp] theorem State.setRouter_pcie (t : Nat) (m : Router) : (s.setRouter t m).pcie = s.pcie := rfl
@[simp] theorem State.setRouter_sb (t : Nat) (m : Router) : (s.setRouter t m).sb = s.sb := rfl
@[simp] theorem State.setRouter_trace (t : Nat) (m : Router) : (s.setRouter t m).trace = s.trace := rfl
@[simp] theorem State.setRouter_sec (t : Nat) (m : Router) : (s.setRouter t m).sec = s.sec := rfl
@[simp] theorem State.setRouter_gddr (t : Nat) (m : Router) : (s.setRouter t m).gddr = s.gddr := rfl
@[simp] theorem State.setRouter_rdata (t : Nat) (m : Router) : (s.setRouter t m).rdata = s.rdata := rfl
@[simp] theorem State.setRouter_free (t : Nat) (m : Router) : (s.setRouter t m).free = s.free := rfl
@[simp] theorem State.setRouter_pending (t : Nat) (m : Router) : (s.setRouter t m).pending = s.pending := rfl

/-! ### `onRouter` -/

@[simp] theorem State.onRouter_regs (t : Nat) (f : Router → Router) : (s.onRouter t f).regs = s.regs := rfl
@[simp] theorem State.onRouter_latch (t : Nat) (f : Router → Router) : (s.onRouter t f).latch = s.latch := rfl
@[simp] theorem State.onRouter_teams (t : Nat) (f : Router → Router) : (s.onRouter t f).teams = s.teams := rfl
@[simp] theorem State.onRouter_chip (t : Nat) (f : Router → Router) : (s.onRouter t f).chip = s.chip := rfl
@[simp] theorem State.onRouter_fuses (t : Nat) (f : Router → Router) : (s.onRouter t f).fuses = s.fuses := rfl
@[simp] theorem State.onRouter_ds (t : Nat) (f : Router → Router) : (s.onRouter t f).ds = s.ds := rfl
@[simp] theorem State.onRouter_cap (t : Nat) (f : Router → Router) : (s.onRouter t f).cap = s.cap := rfl
@[simp] theorem State.onRouter_lanes (t : Nat) (f : Router → Router) : (s.onRouter t f).lanes = s.lanes := rfl
@[simp] theorem State.onRouter_tb (t : Nat) (f : Router → Router) : (s.onRouter t f).tb = s.tb := rfl
@[simp] theorem State.onRouter_chans (t : Nat) (f : Router → Router) : (s.onRouter t f).chans = s.chans := rfl
@[simp] theorem State.onRouter_ht (t : Nat) (f : Router → Router) : (s.onRouter t f).ht = s.ht := rfl
@[simp] theorem State.onRouter_hotRecord (t : Nat) (f : Router → Router) : (s.onRouter t f).hotRecord = s.hotRecord := rfl
@[simp] theorem State.onRouter_probes (t : Nat) (f : Router → Router) : (s.onRouter t f).probes = s.probes := rfl
@[simp] theorem State.onRouter_links (t : Nat) (f : Router → Router) : (s.onRouter t f).links = s.links := rfl
@[simp] theorem State.onRouter_boxes (t : Nat) (f : Router → Router) : (s.onRouter t f).boxes = s.boxes := rfl
@[simp] theorem State.onRouter_pcie (t : Nat) (f : Router → Router) : (s.onRouter t f).pcie = s.pcie := rfl
@[simp] theorem State.onRouter_sb (t : Nat) (f : Router → Router) : (s.onRouter t f).sb = s.sb := rfl
@[simp] theorem State.onRouter_trace (t : Nat) (f : Router → Router) : (s.onRouter t f).trace = s.trace := rfl
@[simp] theorem State.onRouter_sec (t : Nat) (f : Router → Router) : (s.onRouter t f).sec = s.sec := rfl
@[simp] theorem State.onRouter_gddr (t : Nat) (f : Router → Router) : (s.onRouter t f).gddr = s.gddr := rfl
@[simp] theorem State.onRouter_rdata (t : Nat) (f : Router → Router) : (s.onRouter t f).rdata = s.rdata := rfl
@[simp] theorem State.onRouter_free (t : Nat) (f : Router → Router) : (s.onRouter t f).free = s.free := rfl
@[simp] theorem State.onRouter_pending (t : Nat) (f : Router → Router) : (s.onRouter t f).pending = s.pending := rfl

/-! ### `setLink` -/

@[simp] theorem State.setLink_regs (n : Nat) (m : Link) : (s.setLink n m).regs = s.regs := rfl
@[simp] theorem State.setLink_latch (n : Nat) (m : Link) : (s.setLink n m).latch = s.latch := rfl
@[simp] theorem State.setLink_teams (n : Nat) (m : Link) : (s.setLink n m).teams = s.teams := rfl
@[simp] theorem State.setLink_routers (n : Nat) (m : Link) : (s.setLink n m).routers = s.routers := rfl
@[simp] theorem State.setLink_chip (n : Nat) (m : Link) : (s.setLink n m).chip = s.chip := rfl
@[simp] theorem State.setLink_fuses (n : Nat) (m : Link) : (s.setLink n m).fuses = s.fuses := rfl
@[simp] theorem State.setLink_ds (n : Nat) (m : Link) : (s.setLink n m).ds = s.ds := rfl
@[simp] theorem State.setLink_cap (n : Nat) (m : Link) : (s.setLink n m).cap = s.cap := rfl
@[simp] theorem State.setLink_lanes (n : Nat) (m : Link) : (s.setLink n m).lanes = s.lanes := rfl
@[simp] theorem State.setLink_tb (n : Nat) (m : Link) : (s.setLink n m).tb = s.tb := rfl
@[simp] theorem State.setLink_chans (n : Nat) (m : Link) : (s.setLink n m).chans = s.chans := rfl
@[simp] theorem State.setLink_ht (n : Nat) (m : Link) : (s.setLink n m).ht = s.ht := rfl
@[simp] theorem State.setLink_hotRecord (n : Nat) (m : Link) : (s.setLink n m).hotRecord = s.hotRecord := rfl
@[simp] theorem State.setLink_probes (n : Nat) (m : Link) : (s.setLink n m).probes = s.probes := rfl
@[simp] theorem State.setLink_boxes (n : Nat) (m : Link) : (s.setLink n m).boxes = s.boxes := rfl
@[simp] theorem State.setLink_pcie (n : Nat) (m : Link) : (s.setLink n m).pcie = s.pcie := rfl
@[simp] theorem State.setLink_sb (n : Nat) (m : Link) : (s.setLink n m).sb = s.sb := rfl
@[simp] theorem State.setLink_trace (n : Nat) (m : Link) : (s.setLink n m).trace = s.trace := rfl
@[simp] theorem State.setLink_sec (n : Nat) (m : Link) : (s.setLink n m).sec = s.sec := rfl
@[simp] theorem State.setLink_gddr (n : Nat) (m : Link) : (s.setLink n m).gddr = s.gddr := rfl
@[simp] theorem State.setLink_rdata (n : Nat) (m : Link) : (s.setLink n m).rdata = s.rdata := rfl
@[simp] theorem State.setLink_free (n : Nat) (m : Link) : (s.setLink n m).free = s.free := rfl
@[simp] theorem State.setLink_pending (n : Nat) (m : Link) : (s.setLink n m).pending = s.pending := rfl

/-! ### `onLink` -/

@[simp] theorem State.onLink_regs (n : Nat) (f : Link → Link) : (s.onLink n f).regs = s.regs := rfl
@[simp] theorem State.onLink_latch (n : Nat) (f : Link → Link) : (s.onLink n f).latch = s.latch := rfl
@[simp] theorem State.onLink_teams (n : Nat) (f : Link → Link) : (s.onLink n f).teams = s.teams := rfl
@[simp] theorem State.onLink_routers (n : Nat) (f : Link → Link) : (s.onLink n f).routers = s.routers := rfl
@[simp] theorem State.onLink_chip (n : Nat) (f : Link → Link) : (s.onLink n f).chip = s.chip := rfl
@[simp] theorem State.onLink_fuses (n : Nat) (f : Link → Link) : (s.onLink n f).fuses = s.fuses := rfl
@[simp] theorem State.onLink_ds (n : Nat) (f : Link → Link) : (s.onLink n f).ds = s.ds := rfl
@[simp] theorem State.onLink_cap (n : Nat) (f : Link → Link) : (s.onLink n f).cap = s.cap := rfl
@[simp] theorem State.onLink_lanes (n : Nat) (f : Link → Link) : (s.onLink n f).lanes = s.lanes := rfl
@[simp] theorem State.onLink_tb (n : Nat) (f : Link → Link) : (s.onLink n f).tb = s.tb := rfl
@[simp] theorem State.onLink_chans (n : Nat) (f : Link → Link) : (s.onLink n f).chans = s.chans := rfl
@[simp] theorem State.onLink_ht (n : Nat) (f : Link → Link) : (s.onLink n f).ht = s.ht := rfl
@[simp] theorem State.onLink_hotRecord (n : Nat) (f : Link → Link) : (s.onLink n f).hotRecord = s.hotRecord := rfl
@[simp] theorem State.onLink_probes (n : Nat) (f : Link → Link) : (s.onLink n f).probes = s.probes := rfl
@[simp] theorem State.onLink_boxes (n : Nat) (f : Link → Link) : (s.onLink n f).boxes = s.boxes := rfl
@[simp] theorem State.onLink_pcie (n : Nat) (f : Link → Link) : (s.onLink n f).pcie = s.pcie := rfl
@[simp] theorem State.onLink_sb (n : Nat) (f : Link → Link) : (s.onLink n f).sb = s.sb := rfl
@[simp] theorem State.onLink_trace (n : Nat) (f : Link → Link) : (s.onLink n f).trace = s.trace := rfl
@[simp] theorem State.onLink_sec (n : Nat) (f : Link → Link) : (s.onLink n f).sec = s.sec := rfl
@[simp] theorem State.onLink_gddr (n : Nat) (f : Link → Link) : (s.onLink n f).gddr = s.gddr := rfl
@[simp] theorem State.onLink_rdata (n : Nat) (f : Link → Link) : (s.onLink n f).rdata = s.rdata := rfl
@[simp] theorem State.onLink_free (n : Nat) (f : Link → Link) : (s.onLink n f).free = s.free := rfl
@[simp] theorem State.onLink_pending (n : Nat) (f : Link → Link) : (s.onLink n f).pending = s.pending := rfl

/-! ### `setBox` -/

@[simp] theorem State.setBox_regs (m : Nat) (b : Mailbox) : (s.setBox m b).regs = s.regs := rfl
@[simp] theorem State.setBox_latch (m : Nat) (b : Mailbox) : (s.setBox m b).latch = s.latch := rfl
@[simp] theorem State.setBox_teams (m : Nat) (b : Mailbox) : (s.setBox m b).teams = s.teams := rfl
@[simp] theorem State.setBox_routers (m : Nat) (b : Mailbox) : (s.setBox m b).routers = s.routers := rfl
@[simp] theorem State.setBox_chip (m : Nat) (b : Mailbox) : (s.setBox m b).chip = s.chip := rfl
@[simp] theorem State.setBox_fuses (m : Nat) (b : Mailbox) : (s.setBox m b).fuses = s.fuses := rfl
@[simp] theorem State.setBox_ds (m : Nat) (b : Mailbox) : (s.setBox m b).ds = s.ds := rfl
@[simp] theorem State.setBox_cap (m : Nat) (b : Mailbox) : (s.setBox m b).cap = s.cap := rfl
@[simp] theorem State.setBox_lanes (m : Nat) (b : Mailbox) : (s.setBox m b).lanes = s.lanes := rfl
@[simp] theorem State.setBox_tb (m : Nat) (b : Mailbox) : (s.setBox m b).tb = s.tb := rfl
@[simp] theorem State.setBox_chans (m : Nat) (b : Mailbox) : (s.setBox m b).chans = s.chans := rfl
@[simp] theorem State.setBox_ht (m : Nat) (b : Mailbox) : (s.setBox m b).ht = s.ht := rfl
@[simp] theorem State.setBox_hotRecord (m : Nat) (b : Mailbox) : (s.setBox m b).hotRecord = s.hotRecord := rfl
@[simp] theorem State.setBox_probes (m : Nat) (b : Mailbox) : (s.setBox m b).probes = s.probes := rfl
@[simp] theorem State.setBox_links (m : Nat) (b : Mailbox) : (s.setBox m b).links = s.links := rfl
@[simp] theorem State.setBox_pcie (m : Nat) (b : Mailbox) : (s.setBox m b).pcie = s.pcie := rfl
@[simp] theorem State.setBox_sb (m : Nat) (b : Mailbox) : (s.setBox m b).sb = s.sb := rfl
@[simp] theorem State.setBox_trace (m : Nat) (b : Mailbox) : (s.setBox m b).trace = s.trace := rfl
@[simp] theorem State.setBox_sec (m : Nat) (b : Mailbox) : (s.setBox m b).sec = s.sec := rfl
@[simp] theorem State.setBox_gddr (m : Nat) (b : Mailbox) : (s.setBox m b).gddr = s.gddr := rfl
@[simp] theorem State.setBox_rdata (m : Nat) (b : Mailbox) : (s.setBox m b).rdata = s.rdata := rfl
@[simp] theorem State.setBox_free (m : Nat) (b : Mailbox) : (s.setBox m b).free = s.free := rfl
@[simp] theorem State.setBox_pending (m : Nat) (b : Mailbox) : (s.setBox m b).pending = s.pending := rfl

/-! ### `onBox` -/

@[simp] theorem State.onBox_regs (m : Nat) (f : Mailbox → Mailbox) : (s.onBox m f).regs = s.regs := rfl
@[simp] theorem State.onBox_latch (m : Nat) (f : Mailbox → Mailbox) : (s.onBox m f).latch = s.latch := rfl
@[simp] theorem State.onBox_teams (m : Nat) (f : Mailbox → Mailbox) : (s.onBox m f).teams = s.teams := rfl
@[simp] theorem State.onBox_routers (m : Nat) (f : Mailbox → Mailbox) : (s.onBox m f).routers = s.routers := rfl
@[simp] theorem State.onBox_chip (m : Nat) (f : Mailbox → Mailbox) : (s.onBox m f).chip = s.chip := rfl
@[simp] theorem State.onBox_fuses (m : Nat) (f : Mailbox → Mailbox) : (s.onBox m f).fuses = s.fuses := rfl
@[simp] theorem State.onBox_ds (m : Nat) (f : Mailbox → Mailbox) : (s.onBox m f).ds = s.ds := rfl
@[simp] theorem State.onBox_cap (m : Nat) (f : Mailbox → Mailbox) : (s.onBox m f).cap = s.cap := rfl
@[simp] theorem State.onBox_lanes (m : Nat) (f : Mailbox → Mailbox) : (s.onBox m f).lanes = s.lanes := rfl
@[simp] theorem State.onBox_tb (m : Nat) (f : Mailbox → Mailbox) : (s.onBox m f).tb = s.tb := rfl
@[simp] theorem State.onBox_chans (m : Nat) (f : Mailbox → Mailbox) : (s.onBox m f).chans = s.chans := rfl
@[simp] theorem State.onBox_ht (m : Nat) (f : Mailbox → Mailbox) : (s.onBox m f).ht = s.ht := rfl
@[simp] theorem State.onBox_hotRecord (m : Nat) (f : Mailbox → Mailbox) : (s.onBox m f).hotRecord = s.hotRecord := rfl
@[simp] theorem State.onBox_probes (m : Nat) (f : Mailbox → Mailbox) : (s.onBox m f).probes = s.probes := rfl
@[simp] theorem State.onBox_links (m : Nat) (f : Mailbox → Mailbox) : (s.onBox m f).links = s.links := rfl
@[simp] theorem State.onBox_pcie (m : Nat) (f : Mailbox → Mailbox) : (s.onBox m f).pcie = s.pcie := rfl
@[simp] theorem State.onBox_sb (m : Nat) (f : Mailbox → Mailbox) : (s.onBox m f).sb = s.sb := rfl
@[simp] theorem State.onBox_trace (m : Nat) (f : Mailbox → Mailbox) : (s.onBox m f).trace = s.trace := rfl
@[simp] theorem State.onBox_sec (m : Nat) (f : Mailbox → Mailbox) : (s.onBox m f).sec = s.sec := rfl
@[simp] theorem State.onBox_gddr (m : Nat) (f : Mailbox → Mailbox) : (s.onBox m f).gddr = s.gddr := rfl
@[simp] theorem State.onBox_rdata (m : Nat) (f : Mailbox → Mailbox) : (s.onBox m f).rdata = s.rdata := rfl
@[simp] theorem State.onBox_free (m : Nat) (f : Mailbox → Mailbox) : (s.onBox m f).free = s.free := rfl
@[simp] theorem State.onBox_pending (m : Nat) (f : Mailbox → Mailbox) : (s.onBox m f).pending = s.pending := rfl

/-! ### `setChan` -/

@[simp] theorem State.setChan_regs (c : Nat) (v : Channel) : (s.setChan c v).regs = s.regs := rfl
@[simp] theorem State.setChan_latch (c : Nat) (v : Channel) : (s.setChan c v).latch = s.latch := rfl
@[simp] theorem State.setChan_teams (c : Nat) (v : Channel) : (s.setChan c v).teams = s.teams := rfl
@[simp] theorem State.setChan_routers (c : Nat) (v : Channel) : (s.setChan c v).routers = s.routers := rfl
@[simp] theorem State.setChan_chip (c : Nat) (v : Channel) : (s.setChan c v).chip = s.chip := rfl
@[simp] theorem State.setChan_fuses (c : Nat) (v : Channel) : (s.setChan c v).fuses = s.fuses := rfl
@[simp] theorem State.setChan_ds (c : Nat) (v : Channel) : (s.setChan c v).ds = s.ds := rfl
@[simp] theorem State.setChan_cap (c : Nat) (v : Channel) : (s.setChan c v).cap = s.cap := rfl
@[simp] theorem State.setChan_lanes (c : Nat) (v : Channel) : (s.setChan c v).lanes = s.lanes := rfl
@[simp] theorem State.setChan_tb (c : Nat) (v : Channel) : (s.setChan c v).tb = s.tb := rfl
@[simp] theorem State.setChan_ht (c : Nat) (v : Channel) : (s.setChan c v).ht = s.ht := rfl
@[simp] theorem State.setChan_hotRecord (c : Nat) (v : Channel) : (s.setChan c v).hotRecord = s.hotRecord := rfl
@[simp] theorem State.setChan_probes (c : Nat) (v : Channel) : (s.setChan c v).probes = s.probes := rfl
@[simp] theorem State.setChan_links (c : Nat) (v : Channel) : (s.setChan c v).links = s.links := rfl
@[simp] theorem State.setChan_boxes (c : Nat) (v : Channel) : (s.setChan c v).boxes = s.boxes := rfl
@[simp] theorem State.setChan_pcie (c : Nat) (v : Channel) : (s.setChan c v).pcie = s.pcie := rfl
@[simp] theorem State.setChan_sb (c : Nat) (v : Channel) : (s.setChan c v).sb = s.sb := rfl
@[simp] theorem State.setChan_trace (c : Nat) (v : Channel) : (s.setChan c v).trace = s.trace := rfl
@[simp] theorem State.setChan_sec (c : Nat) (v : Channel) : (s.setChan c v).sec = s.sec := rfl
@[simp] theorem State.setChan_gddr (c : Nat) (v : Channel) : (s.setChan c v).gddr = s.gddr := rfl
@[simp] theorem State.setChan_rdata (c : Nat) (v : Channel) : (s.setChan c v).rdata = s.rdata := rfl
@[simp] theorem State.setChan_free (c : Nat) (v : Channel) : (s.setChan c v).free = s.free := rfl
@[simp] theorem State.setChan_pending (c : Nat) (v : Channel) : (s.setChan c v).pending = s.pending := rfl

/-! ### `onChan` -/

@[simp] theorem State.onChan_regs (c : Nat) (f : Channel → Channel) : (s.onChan c f).regs = s.regs := rfl
@[simp] theorem State.onChan_latch (c : Nat) (f : Channel → Channel) : (s.onChan c f).latch = s.latch := rfl
@[simp] theorem State.onChan_teams (c : Nat) (f : Channel → Channel) : (s.onChan c f).teams = s.teams := rfl
@[simp] theorem State.onChan_routers (c : Nat) (f : Channel → Channel) : (s.onChan c f).routers = s.routers := rfl
@[simp] theorem State.onChan_chip (c : Nat) (f : Channel → Channel) : (s.onChan c f).chip = s.chip := rfl
@[simp] theorem State.onChan_fuses (c : Nat) (f : Channel → Channel) : (s.onChan c f).fuses = s.fuses := rfl
@[simp] theorem State.onChan_ds (c : Nat) (f : Channel → Channel) : (s.onChan c f).ds = s.ds := rfl
@[simp] theorem State.onChan_cap (c : Nat) (f : Channel → Channel) : (s.onChan c f).cap = s.cap := rfl
@[simp] theorem State.onChan_lanes (c : Nat) (f : Channel → Channel) : (s.onChan c f).lanes = s.lanes := rfl
@[simp] theorem State.onChan_tb (c : Nat) (f : Channel → Channel) : (s.onChan c f).tb = s.tb := rfl
@[simp] theorem State.onChan_ht (c : Nat) (f : Channel → Channel) : (s.onChan c f).ht = s.ht := rfl
@[simp] theorem State.onChan_hotRecord (c : Nat) (f : Channel → Channel) : (s.onChan c f).hotRecord = s.hotRecord := rfl
@[simp] theorem State.onChan_probes (c : Nat) (f : Channel → Channel) : (s.onChan c f).probes = s.probes := rfl
@[simp] theorem State.onChan_links (c : Nat) (f : Channel → Channel) : (s.onChan c f).links = s.links := rfl
@[simp] theorem State.onChan_boxes (c : Nat) (f : Channel → Channel) : (s.onChan c f).boxes = s.boxes := rfl
@[simp] theorem State.onChan_pcie (c : Nat) (f : Channel → Channel) : (s.onChan c f).pcie = s.pcie := rfl
@[simp] theorem State.onChan_sb (c : Nat) (f : Channel → Channel) : (s.onChan c f).sb = s.sb := rfl
@[simp] theorem State.onChan_trace (c : Nat) (f : Channel → Channel) : (s.onChan c f).trace = s.trace := rfl
@[simp] theorem State.onChan_sec (c : Nat) (f : Channel → Channel) : (s.onChan c f).sec = s.sec := rfl
@[simp] theorem State.onChan_gddr (c : Nat) (f : Channel → Channel) : (s.onChan c f).gddr = s.gddr := rfl
@[simp] theorem State.onChan_rdata (c : Nat) (f : Channel → Channel) : (s.onChan c f).rdata = s.rdata := rfl
@[simp] theorem State.onChan_free (c : Nat) (f : Channel → Channel) : (s.onChan c f).free = s.free := rfl
@[simp] theorem State.onChan_pending (c : Nat) (f : Channel → Channel) : (s.onChan c f).pending = s.pending := rfl

/-! ### `spend` -/

@[simp] theorem State.spend_regs : (s.spend).regs = s.regs := rfl
@[simp] theorem State.spend_latch : (s.spend).latch = s.latch := rfl
@[simp] theorem State.spend_teams : (s.spend).teams = s.teams := rfl
@[simp] theorem State.spend_routers : (s.spend).routers = s.routers := rfl
@[simp] theorem State.spend_chip : (s.spend).chip = s.chip := rfl
@[simp] theorem State.spend_fuses : (s.spend).fuses = s.fuses := rfl
@[simp] theorem State.spend_ds : (s.spend).ds = s.ds := rfl
@[simp] theorem State.spend_cap : (s.spend).cap = s.cap := rfl
@[simp] theorem State.spend_lanes : (s.spend).lanes = s.lanes := rfl
@[simp] theorem State.spend_tb : (s.spend).tb = s.tb := rfl
@[simp] theorem State.spend_chans : (s.spend).chans = s.chans := rfl
@[simp] theorem State.spend_ht : (s.spend).ht = s.ht := rfl
@[simp] theorem State.spend_hotRecord : (s.spend).hotRecord = s.hotRecord := rfl
@[simp] theorem State.spend_probes : (s.spend).probes = s.probes := rfl
@[simp] theorem State.spend_links : (s.spend).links = s.links := rfl
@[simp] theorem State.spend_boxes : (s.spend).boxes = s.boxes := rfl
@[simp] theorem State.spend_pcie : (s.spend).pcie = s.pcie := rfl
@[simp] theorem State.spend_sb : (s.spend).sb = s.sb := rfl
@[simp] theorem State.spend_trace : (s.spend).trace = s.trace := rfl
@[simp] theorem State.spend_sec : (s.spend).sec = s.sec := rfl
@[simp] theorem State.spend_gddr : (s.spend).gddr = s.gddr := rfl
@[simp] theorem State.spend_rdata : (s.spend).rdata = s.rdata := rfl
@[simp] theorem State.spend_pending : (s.spend).pending = s.pending := rfl

/-! ### `spendN` -/

@[simp] theorem State.spendN_regs (n : Nat) : (s.spendN n).regs = s.regs := rfl
@[simp] theorem State.spendN_latch (n : Nat) : (s.spendN n).latch = s.latch := rfl
@[simp] theorem State.spendN_teams (n : Nat) : (s.spendN n).teams = s.teams := rfl
@[simp] theorem State.spendN_routers (n : Nat) : (s.spendN n).routers = s.routers := rfl
@[simp] theorem State.spendN_chip (n : Nat) : (s.spendN n).chip = s.chip := rfl
@[simp] theorem State.spendN_fuses (n : Nat) : (s.spendN n).fuses = s.fuses := rfl
@[simp] theorem State.spendN_ds (n : Nat) : (s.spendN n).ds = s.ds := rfl
@[simp] theorem State.spendN_cap (n : Nat) : (s.spendN n).cap = s.cap := rfl
@[simp] theorem State.spendN_lanes (n : Nat) : (s.spendN n).lanes = s.lanes := rfl
@[simp] theorem State.spendN_tb (n : Nat) : (s.spendN n).tb = s.tb := rfl
@[simp] theorem State.spendN_chans (n : Nat) : (s.spendN n).chans = s.chans := rfl
@[simp] theorem State.spendN_ht (n : Nat) : (s.spendN n).ht = s.ht := rfl
@[simp] theorem State.spendN_hotRecord (n : Nat) : (s.spendN n).hotRecord = s.hotRecord := rfl
@[simp] theorem State.spendN_probes (n : Nat) : (s.spendN n).probes = s.probes := rfl
@[simp] theorem State.spendN_links (n : Nat) : (s.spendN n).links = s.links := rfl
@[simp] theorem State.spendN_boxes (n : Nat) : (s.spendN n).boxes = s.boxes := rfl
@[simp] theorem State.spendN_pcie (n : Nat) : (s.spendN n).pcie = s.pcie := rfl
@[simp] theorem State.spendN_sb (n : Nat) : (s.spendN n).sb = s.sb := rfl
@[simp] theorem State.spendN_trace (n : Nat) : (s.spendN n).trace = s.trace := rfl
@[simp] theorem State.spendN_sec (n : Nat) : (s.spendN n).sec = s.sec := rfl
@[simp] theorem State.spendN_gddr (n : Nat) : (s.spendN n).gddr = s.gddr := rfl
@[simp] theorem State.spendN_rdata (n : Nat) : (s.spendN n).rdata = s.rdata := rfl
@[simp] theorem State.spendN_pending (n : Nat) : (s.spendN n).pending = s.pending := rfl

/-! ### `setMem` -/

@[simp] theorem State.setMem_regs (d : Nat) (b : Byte) : (s.setMem d b).regs = s.regs := rfl
@[simp] theorem State.setMem_latch (d : Nat) (b : Byte) : (s.setMem d b).latch = s.latch := rfl
@[simp] theorem State.setMem_teams (d : Nat) (b : Byte) : (s.setMem d b).teams = s.teams := rfl
@[simp] theorem State.setMem_routers (d : Nat) (b : Byte) : (s.setMem d b).routers = s.routers := rfl
@[simp] theorem State.setMem_chip (d : Nat) (b : Byte) : (s.setMem d b).chip = s.chip := rfl
@[simp] theorem State.setMem_fuses (d : Nat) (b : Byte) : (s.setMem d b).fuses = s.fuses := rfl
@[simp] theorem State.setMem_ds (d : Nat) (b : Byte) : (s.setMem d b).ds = s.ds := rfl
@[simp] theorem State.setMem_cap (d : Nat) (b : Byte) : (s.setMem d b).cap = s.cap := rfl
@[simp] theorem State.setMem_lanes (d : Nat) (b : Byte) : (s.setMem d b).lanes = s.lanes := rfl
@[simp] theorem State.setMem_tb (d : Nat) (b : Byte) : (s.setMem d b).tb = s.tb := rfl
@[simp] theorem State.setMem_chans (d : Nat) (b : Byte) : (s.setMem d b).chans = s.chans := rfl
@[simp] theorem State.setMem_ht (d : Nat) (b : Byte) : (s.setMem d b).ht = s.ht := rfl
@[simp] theorem State.setMem_hotRecord (d : Nat) (b : Byte) : (s.setMem d b).hotRecord = s.hotRecord := rfl
@[simp] theorem State.setMem_probes (d : Nat) (b : Byte) : (s.setMem d b).probes = s.probes := rfl
@[simp] theorem State.setMem_links (d : Nat) (b : Byte) : (s.setMem d b).links = s.links := rfl
@[simp] theorem State.setMem_boxes (d : Nat) (b : Byte) : (s.setMem d b).boxes = s.boxes := rfl
@[simp] theorem State.setMem_pcie (d : Nat) (b : Byte) : (s.setMem d b).pcie = s.pcie := rfl
@[simp] theorem State.setMem_sb (d : Nat) (b : Byte) : (s.setMem d b).sb = s.sb := rfl
@[simp] theorem State.setMem_trace (d : Nat) (b : Byte) : (s.setMem d b).trace = s.trace := rfl
@[simp] theorem State.setMem_sec (d : Nat) (b : Byte) : (s.setMem d b).sec = s.sec := rfl
@[simp] theorem State.setMem_rdata (d : Nat) (b : Byte) : (s.setMem d b).rdata = s.rdata := rfl
@[simp] theorem State.setMem_free (d : Nat) (b : Byte) : (s.setMem d b).free = s.free := rfl
@[simp] theorem State.setMem_pending (d : Nat) (b : Byte) : (s.setMem d b).pending = s.pending := rfl

/-! ### `set1If` -/

@[simp] theorem State.set1If_latch (c : Bool) (f : Fld) : (s.set1If c f).latch = s.latch := by cases c <;> rfl
@[simp] theorem State.set1If_teams (c : Bool) (f : Fld) : (s.set1If c f).teams = s.teams := by cases c <;> rfl
@[simp] theorem State.set1If_routers (c : Bool) (f : Fld) : (s.set1If c f).routers = s.routers := by cases c <;> rfl
@[simp] theorem State.set1If_chip (c : Bool) (f : Fld) : (s.set1If c f).chip = s.chip := by cases c <;> rfl
@[simp] theorem State.set1If_fuses (c : Bool) (f : Fld) : (s.set1If c f).fuses = s.fuses := by cases c <;> rfl
@[simp] theorem State.set1If_ds (c : Bool) (f : Fld) : (s.set1If c f).ds = s.ds := by cases c <;> rfl
@[simp] theorem State.set1If_cap (c : Bool) (f : Fld) : (s.set1If c f).cap = s.cap := by cases c <;> rfl
@[simp] theorem State.set1If_lanes (c : Bool) (f : Fld) : (s.set1If c f).lanes = s.lanes := by cases c <;> rfl
@[simp] theorem State.set1If_tb (c : Bool) (f : Fld) : (s.set1If c f).tb = s.tb := by cases c <;> rfl
@[simp] theorem State.set1If_chans (c : Bool) (f : Fld) : (s.set1If c f).chans = s.chans := by cases c <;> rfl
@[simp] theorem State.set1If_ht (c : Bool) (f : Fld) : (s.set1If c f).ht = s.ht := by cases c <;> rfl
@[simp] theorem State.set1If_hotRecord (c : Bool) (f : Fld) : (s.set1If c f).hotRecord = s.hotRecord := by cases c <;> rfl
@[simp] theorem State.set1If_probes (c : Bool) (f : Fld) : (s.set1If c f).probes = s.probes := by cases c <;> rfl
@[simp] theorem State.set1If_links (c : Bool) (f : Fld) : (s.set1If c f).links = s.links := by cases c <;> rfl
@[simp] theorem State.set1If_boxes (c : Bool) (f : Fld) : (s.set1If c f).boxes = s.boxes := by cases c <;> rfl
@[simp] theorem State.set1If_pcie (c : Bool) (f : Fld) : (s.set1If c f).pcie = s.pcie := by cases c <;> rfl
@[simp] theorem State.set1If_sb (c : Bool) (f : Fld) : (s.set1If c f).sb = s.sb := by cases c <;> rfl
@[simp] theorem State.set1If_trace (c : Bool) (f : Fld) : (s.set1If c f).trace = s.trace := by cases c <;> rfl
@[simp] theorem State.set1If_sec (c : Bool) (f : Fld) : (s.set1If c f).sec = s.sec := by cases c <;> rfl
@[simp] theorem State.set1If_gddr (c : Bool) (f : Fld) : (s.set1If c f).gddr = s.gddr := by cases c <;> rfl
@[simp] theorem State.set1If_rdata (c : Bool) (f : Fld) : (s.set1If c f).rdata = s.rdata := by cases c <;> rfl
@[simp] theorem State.set1If_free (c : Bool) (f : Fld) : (s.set1If c f).free = s.free := by cases c <;> rfl
@[simp] theorem State.set1If_pending (c : Bool) (f : Fld) : (s.set1If c f).pending = s.pending := by cases c <;> rfl

/-! ### `setMemBytes` -/

theorem State.setMemBytes_eq (d : Nat) (bs : List Byte) : s.setMemBytes d bs = { s with gddr := (s.setMemBytes d bs).gddr } := by
  induction bs generalizing s d with
  | nil => rfl
  | cons b bs ih => simp only [State.setMemBytes]; rw [ih]; rfl

@[simp] theorem State.setMemBytes_regs (d : Nat) (bs : List Byte) : (s.setMemBytes d bs).regs = s.regs := by rw [State.setMemBytes_eq]
@[simp] theorem State.setMemBytes_latch (d : Nat) (bs : List Byte) : (s.setMemBytes d bs).latch = s.latch := by rw [State.setMemBytes_eq]
@[simp] theorem State.setMemBytes_teams (d : Nat) (bs : List Byte) : (s.setMemBytes d bs).teams = s.teams := by rw [State.setMemBytes_eq]
@[simp] theorem State.setMemBytes_routers (d : Nat) (bs : List Byte) : (s.setMemBytes d bs).routers = s.routers := by rw [State.setMemBytes_eq]
@[simp] theorem State.setMemBytes_chip (d : Nat) (bs : List Byte) : (s.setMemBytes d bs).chip = s.chip := by rw [State.setMemBytes_eq]
@[simp] theorem State.setMemBytes_fuses (d : Nat) (bs : List Byte) : (s.setMemBytes d bs).fuses = s.fuses := by rw [State.setMemBytes_eq]
@[simp] theorem State.setMemBytes_ds (d : Nat) (bs : List Byte) : (s.setMemBytes d bs).ds = s.ds := by rw [State.setMemBytes_eq]
@[simp] theorem State.setMemBytes_cap (d : Nat) (bs : List Byte) : (s.setMemBytes d bs).cap = s.cap := by rw [State.setMemBytes_eq]
@[simp] theorem State.setMemBytes_lanes (d : Nat) (bs : List Byte) : (s.setMemBytes d bs).lanes = s.lanes := by rw [State.setMemBytes_eq]
@[simp] theorem State.setMemBytes_tb (d : Nat) (bs : List Byte) : (s.setMemBytes d bs).tb = s.tb := by rw [State.setMemBytes_eq]
@[simp] theorem State.setMemBytes_chans (d : Nat) (bs : List Byte) : (s.setMemBytes d bs).chans = s.chans := by rw [State.setMemBytes_eq]
@[simp] theorem State.setMemBytes_ht (d : Nat) (bs : List Byte) : (s.setMemBytes d bs).ht = s.ht := by rw [State.setMemBytes_eq]
@[simp] theorem State.setMemBytes_hotRecord (d : Nat) (bs : List Byte) : (s.setMemBytes d bs).hotRecord = s.hotRecord := by rw [State.setMemBytes_eq]
@[simp] theorem State.setMemBytes_probes (d : Nat) (bs : List Byte) : (s.setMemBytes d bs).probes = s.probes := by rw [State.setMemBytes_eq]
@[simp] theorem State.setMemBytes_links (d : Nat) (bs : List Byte) : (s.setMemBytes d bs).links = s.links := by rw [State.setMemBytes_eq]
@[simp] theorem State.setMemBytes_boxes (d : Nat) (bs : List Byte) : (s.setMemBytes d bs).boxes = s.boxes := by rw [State.setMemBytes_eq]
@[simp] theorem State.setMemBytes_pcie (d : Nat) (bs : List Byte) : (s.setMemBytes d bs).pcie = s.pcie := by rw [State.setMemBytes_eq]
@[simp] theorem State.setMemBytes_sb (d : Nat) (bs : List Byte) : (s.setMemBytes d bs).sb = s.sb := by rw [State.setMemBytes_eq]
@[simp] theorem State.setMemBytes_trace (d : Nat) (bs : List Byte) : (s.setMemBytes d bs).trace = s.trace := by rw [State.setMemBytes_eq]
@[simp] theorem State.setMemBytes_sec (d : Nat) (bs : List Byte) : (s.setMemBytes d bs).sec = s.sec := by rw [State.setMemBytes_eq]
@[simp] theorem State.setMemBytes_rdata (d : Nat) (bs : List Byte) : (s.setMemBytes d bs).rdata = s.rdata := by rw [State.setMemBytes_eq]
@[simp] theorem State.setMemBytes_free (d : Nat) (bs : List Byte) : (s.setMemBytes d bs).free = s.free := by rw [State.setMemBytes_eq]
@[simp] theorem State.setMemBytes_pending (d : Nat) (bs : List Byte) : (s.setMemBytes d bs).pending = s.pending := by rw [State.setMemBytes_eq]

end Sys2Proof.Machine
end

