-- ==== Sys2Proof/Laws/Twice.lean ====
section
/-! SUPPORT. An entry written twice holds the second value; what an entry reads as after a write; registers and units do
not depend on each other. -/
namespace Sys2Proof.Machine

variable {α : Type}

theorem Tab.erase_erase (t : List (Nat × α)) (k : Nat) : Tab.erase (Tab.erase t k) k = Tab.erase t k := by
  induction t with
  | nil => rfl
  | cons p t ih =>
    obtain ⟨j, v⟩ := p
    by_cases h : k = j <;> simp [Tab.erase, h]
    · rw [h] at ih; exact ih
    · exact ih

theorem Tab.erase_insert (t : List (Nat × α)) (k : Nat) (v : α) : Tab.erase (Tab.insert t k v) k = Tab.erase t k := by
  induction t with
  | nil => simp [Tab.insert, Tab.erase]
  | cons p t ih =>
    obtain ⟨j, w⟩ := p
    by_cases h : k < j
    · simp [Tab.insert, h, Tab.erase]
    · by_cases e : k = j
      · subst e; simp [Tab.insert, Tab.erase, ih]
      · simp [Tab.insert, h, Tab.erase, e, ih]

@[simp] theorem Tab.set_set [DecidableEq α] (d : Nat → α) (t : List (Nat × α)) (k : Nat) (v w : α) :
    Tab.set d (Tab.set d t k v) k w = Tab.set d t k w := by
  have h : Tab.erase (Tab.set d t k v) k = Tab.erase t k := by
    unfold Tab.set; split
    · exact Tab.erase_erase t k
    · rw [Tab.erase_insert, Tab.erase_erase]
  rw [Tab.set, h]; rfl

@[simp] theorem look_nil [Inhabited α] (k : Nat) : look ([] : List (Nat × α)) k = default := rfl
@[simp] theorem upd_upd [Inhabited α] [DecidableEq α] (t : List (Nat × α)) (k : Nat) (v w : α) : upd (upd t k v) k w = upd t k w :=
  Tab.set_set _ _ _ _ _

variable (s : State)

@[simp] theorem State.setTeam_setTeam (t : Nat) (m n : Team) : (s.setTeam t m).setTeam t n = s.setTeam t n := by
  simp only [State.setTeam, Tab.set_set]
@[simp] theorem State.setRouter_setRouter (t : Nat) (m n : Router) : (s.setRouter t m).setRouter t n = s.setRouter t n := by
  simp only [State.setRouter, Tab.set_set]
@[simp] theorem State.setLink_setLink (t : Nat) (m n : Link) : (s.setLink t m).setLink t n = s.setLink t n := by
  simp only [State.setLink, Tab.set_set]
@[simp] theorem State.setBox_setBox (t : Nat) (m n : Mailbox) : (s.setBox t m).setBox t n = s.setBox t n := by
  simp only [State.setBox, Tab.set_set]
@[simp] theorem State.setChan_setChan (t : Nat) (m n : Channel) : (s.setChan t m).setChan t n = s.setChan t n := by
  simp only [State.setChan, Tab.set_set]
@[simp] theorem State.setLane_setLane (t : Nat) (m n : Lane) : (s.setLane t m).setLane t n = s.setLane t n := by
  simp only [State.setLane, Tab.set_set]
@[simp] theorem State.chan_setChan_same (t : Nat) (m : Channel) : (s.setChan t m).chan t = m := Tab.get_set_same _ _ _ _
@[simp] theorem State.lane_setLane_same (t : Nat) (m : Lane) : (s.setLane t m).lane t = m := Tab.get_set_same _ _ _ _

/-! ### A unit's contents after a write of registers, and registers after a write of a unit -/

@[simp] theorem State.team_wr (t a : Nat) (v : Word) : (s.wr a v).team t = s.team t := rfl
@[simp] theorem State.team_put (t : Nat) (f : Fld) (v : Nat) : (s.put f v).team t = s.team t := rfl
@[simp] theorem State.team_set1 (t : Nat) (f : Fld) : (s.set1 f).team t = s.team t := rfl
@[simp] theorem State.team_clr (t : Nat) (f : Fld) : (s.clr f).team t = s.team t := rfl
@[simp] theorem State.team_sat (t : Nat) (f : Fld) (k : Nat) : (s.sat f k).team t = s.team t := rfl
@[simp] theorem State.team_setRouter (t u : Nat) (m : Router) : (s.setRouter u m).team t = s.team t := rfl
@[simp] theorem State.router_put (t : Nat) (f : Fld) (v : Nat) : (s.put f v).router t = s.router t := rfl
@[simp] theorem State.router_wr (t a : Nat) (v : Word) : (s.wr a v).router t = s.router t := rfl
@[simp] theorem State.router_set1 (t : Nat) (f : Fld) : (s.set1 f).router t = s.router t := rfl
@[simp] theorem State.router_clr (t : Nat) (f : Fld) : (s.clr f).router t = s.router t := rfl
@[simp] theorem State.router_sat (t : Nat) (f : Fld) (k : Nat) : (s.sat f k).router t = s.router t := rfl
@[simp] theorem State.router_setTeam (t u : Nat) (m : Team) : (s.setTeam u m).router t = s.router t := rfl
@[simp] theorem State.rd_setTeam (t a : Nat) (m : Team) : (s.setTeam t m).rd a = s.rd a := rfl
@[simp] theorem State.rd_setRouter (t a : Nat) (m : Router) : (s.setRouter t m).rd a = s.rd a := rfl
@[simp] theorem State.get_setTeam (t : Nat) (m : Team) (f : Fld) : (s.setTeam t m).get f = s.get f := rfl
@[simp] theorem State.get_setRouter (t : Nat) (m : Router) (f : Fld) : (s.setRouter t m).get f = s.get f := rfl
@[simp] theorem State.on_setTeam (t : Nat) (m : Team) (f : Fld) : (s.setTeam t m).on f = s.on f := rfl
@[simp] theorem State.on_setRouter (t : Nat) (m : Router) (f : Fld) : (s.setRouter t m).on f = s.on f := rfl
@[simp] theorem State.mode_setTeam (t : Nat) (m : Team) : (s.setTeam t m).mode = s.mode := rfl
@[simp] theorem State.mode_setRouter (t : Nat) (m : Router) : (s.setRouter t m).mode = s.mode := rfl
@[simp] theorem State.get_setLink (t : Nat) (m : Link) (f : Fld) : (s.setLink t m).get f = s.get f := rfl
@[simp] theorem State.get_setBox (t : Nat) (m : Mailbox) (f : Fld) : (s.setBox t m).get f = s.get f := rfl
@[simp] theorem State.get_setChan (t : Nat) (m : Channel) (f : Fld) : (s.setChan t m).get f = s.get f := rfl
@[simp] theorem State.get_setLane (t : Nat) (m : Lane) (f : Fld) : (s.setLane t m).get f = s.get f := rfl
@[simp] theorem State.rd_setLink (t a : Nat) (m : Link) : (s.setLink t m).rd a = s.rd a := rfl
@[simp] theorem State.rd_setBox (t a : Nat) (m : Mailbox) : (s.setBox t m).rd a = s.rd a := rfl
@[simp] theorem State.rd_setChan (t a : Nat) (m : Channel) : (s.setChan t m).rd a = s.rd a := rfl
@[simp] theorem State.rd_setLane (t a : Nat) (m : Lane) : (s.setLane t m).rd a = s.rd a := rfl
@[simp] theorem State.onRouter_def (t : Nat) (f : Router → Router) : s.onRouter t f = s.setRouter t (f (s.router t)) := rfl
@[simp] theorem State.onTeam_def (t : Nat) (f : Team → Team) : s.onTeam t f = s.setTeam t (f (s.team t)) := rfl
@[simp] theorem State.onLink_def (t : Nat) (f : Link → Link) : s.onLink t f = s.setLink t (f (s.link t)) := rfl
@[simp] theorem State.onBox_def (t : Nat) (f : Mailbox → Mailbox) : s.onBox t f = s.setBox t (f (s.box t)) := rfl
@[simp] theorem State.set1If_true (f : Fld) : s.set1If true f = s.set1 f := rfl
@[simp] theorem State.set1If_false (f : Fld) : s.set1If false f = s := rfl

end Sys2Proof.Machine
end

