-- ==== Sys2Proof/Laws/Commands.lean ====
section
/-! SUPPORT. A command whose turn it is: what the shared parts of the commands' meanings answer (R372, R393). -/
namespace Sys2Proof.Machine

variable {s : State} {m op i : Nat} {c : Taken}

/-- A command that names a Team of the chip has its meaning. -/
theorem onMapped_on {t : Nat} (h : t < s.nTeams) (f : State → State) : onMapped t s f = .next (f s) :=
  congrArg Host.Outcome.next (if_pos h)

/-- A command that names a Team that the grade does not have changes nothing (R15). -/
theorem onMapped_off {t : Nat} (h : ¬ t < s.nTeams) (f : State → State) : onMapped t s f = .next s :=
  congrArg Host.Outcome.next (if_neg h)

/-- A command that is done at once. -/
theorem State.cmd_turn (h : s.turn m op i c) (f : BitVec 512 → State → State × Resp) :
    s.cmd m op f = (f c.desc (s.less m i)).1.respond m c false (f c.desc (s.less m i)).2 := by
  unfold State.cmd; rw [h.1]; dsimp only; rw [h.2.1]; rfl

/-- A long command that answers when it starts. -/
theorem State.cmdLong_done (h : s.turn m op i c) {start : BitVec 512 → State → State × Nat × Option Resp}
    {poll : Taken → State → Option (State × Resp)} {u : State} {n : Nat} {r : Resp}
    (e : start c.desc (s.started m i 0 c) = (u, n, some r)) : s.cmdLong m op start poll = u.finishAt m i r := by
  unfold State.cmdLong; rw [h.1]; dsimp only; rw [h.2.1]; dsimp only
  rw [show (s.onBox m fun b => { b with taken := b.taken.set i { c with started := true, note := 0 } }) = s.started m i 0 c from rfl, e]

/-- A long command that goes on after it has started. -/
theorem State.cmdLong_goes (h : s.turn m op i c) {start : BitVec 512 → State → State × Nat × Option Resp}
    {poll : Taken → State → Option (State × Resp)} {u : State} {n : Nat}
    (e : start c.desc (s.started m i 0 c) = (u, n, none)) : s.cmdLong m op start poll = u.started m i n c := by
  unfold State.cmdLong; rw [h.1]; dsimp only; rw [h.2.1]; dsimp only
  rw [show (s.onBox m fun b => { b with taken := b.taken.set i { c with started := true, note := 0 } }) = s.started m i 0 c from rfl, e]
  rfl

/-- Nothing of the mailbox may start while its only command has started. -/
theorem State.startable_due (h : s.due m op c) : s.startable m op = none := by
  unfold State.startable; rw [h.1]; simp [List.findIdx?_cons, h.2.1]

/-- The only command of a mailbox is looked at again. -/
theorem State.pollStarted_due (h : s.due m op c) (poll : Taken → State → Option (State × Resp)) :
    s.pollStarted m op poll = (poll c s).map (fun p => p.1.finishAt m 0 p.2) := by
  unfold State.pollStarted; rw [h.1]; dsimp only
  have e : List.range [c].length = [0] := rfl
  rw [e]; simp only [List.findSome?_cons, List.findSome?_nil, List.getElem?_cons_zero, h.2.1, h.2.2.1]
  cases poll c s <;> simp

theorem State.cmdLong_due (h : s.due m op c) {start : BitVec 512 → State → State × Nat × Option Resp}
    {poll : Taken → State → Option (State × Resp)} :
    s.cmdLong m op start poll = ((poll c s).map (fun p => p.1.finishAt m 0 p.2)).getD s := by
  unfold State.cmdLong; rw [State.startable_due h]; dsimp only; rw [State.pollStarted_due h]

/-- The last command of a mailbox leaves with its response. -/
theorem State.finishAt_at {u : State} {r : Resp} (h : (u.box m).taken[i]? = some c) :
    u.finishAt m i r = (u.less m i).respond m c false r := by
  unfold State.finishAt; rw [h]; rfl

end Sys2Proof.Machine
end

