-- ==== Sys2Proof/Laws/Frames.lean ====
section
/-! SUPPORT. What the operations that tell the host and the Saddlebag something leave alone, and what they do: the frames of
Machine/Report.lean and of the first-error records. -/
namespace Sys2Proof.Machine

variable (s : State)

/-- The registers are the same. -/
theorem State.rd_eq {s t : State} (h : t.regs = s.regs) (a : Nat) : t.rd a = s.rd a := by simp [State.rd, h]

theorem State.get_eq {s t : State} (h : t.regs = s.regs) (f : Fld) : t.get f = s.get f := by simp [State.get, State.rd_eq h]

theorem State.get_eq_of_rd {s t : State} {f : Fld} (h : t.rd f.addr = s.rd f.addr) : t.get f = s.get f := by
  simp [State.get, h]

theorem State.wr_ex (a : Nat) (v : Word) : ∃ r, s.wr a v = { s with regs := r } := ⟨_, rfl⟩

theorem State.put_ex (f : Fld) (v : Nat) : ∃ r, s.put f v = { s with regs := r } := State.wr_ex s _ _

theorem State.set1_ex (f : Fld) : ∃ r, s.set1 f = { s with regs := r } := State.wr_ex s _ _

theorem State.sat_ex (f : Fld) (k : Nat) : ∃ r, s.sat f k = { s with regs := r } := State.wr_ex s _ _

theorem State.putPair_ex (lo hi v : Nat) : ∃ r, s.putPair lo hi v = { s with regs := r } := State.wr_ex (s.wr _ _) _ _

/-- Fields written one after another change the register file only. -/
theorem State.puts_ex (l : List (Fld × Nat)) : ∃ r, l.foldl (fun s p => s.put p.1 p.2) s = { s with regs := r } := by
  induction l generalizing s with
  | nil => exact ⟨_, rfl⟩
  | cons p l ih =>
    obtain ⟨r, h⟩ := State.put_ex s p.1 p.2
    obtain ⟨r', h'⟩ := ih (s.put p.1 p.2)
    exact ⟨r', by rw [List.foldl_cons, h', h]⟩

theorem causeFld_ok (v : Nat) (h : v < 64) : (causeFld v).ok := by
  unfold causeFld; split <;> constructor <;> simp <;> omega

/-! ### `request` -/

theorem State.request_ex (q : SbReq) : ∃ x0 x1, s.request q = { s with regs := x0, sb := x1 } := by
  unfold State.request; split
  · obtain ⟨r, h⟩ := State.sat_ex s Reg.SB_DROP_DROPPED 1
    rw [h]; exact ⟨_, _, rfl⟩
  · exact ⟨_, _, rfl⟩

@[simp] theorem State.request_latch (q : SbReq) : (s.request q).latch = s.latch := by
  obtain ⟨_, _, h⟩ := State.request_ex s q; rw [h]
@[simp] theorem State.request_teams (q : SbReq) : (s.request q).teams = s.teams := by
  obtain ⟨_, _, h⟩ := State.request_ex s q; rw [h]
@[simp] theorem State.request_routers (q : SbReq) : (s.request q).routers = s.routers := by
  obtain ⟨_, _, h⟩ := State.request_ex s q; rw [h]
@[simp] theorem State.request_chip (q : SbReq) : (s.request q).chip = s.chip := by
  obtain ⟨_, _, h⟩ := State.request_ex s q; rw [h]
@[simp] theorem State.request_fuses (q : SbReq) : (s.request q).fuses = s.fuses := by
  obtain ⟨_, _, h⟩ := State.request_ex s q; rw [h]
@[simp] theorem State.request_ds (q : SbReq) : (s.request q).ds = s.ds := by
  obtain ⟨_, _, h⟩ := State.request_ex s q; rw [h]
@[simp] theorem State.request_cap (q : SbReq) : (s.request q).cap = s.cap := by
  obtain ⟨_, _, h⟩ := State.request_ex s q; rw [h]
@[simp] theorem State.request_lanes (q : SbReq) : (s.request q).lanes = s.lanes := by
  obtain ⟨_, _, h⟩ := State.request_ex s q; rw [h]
@[simp] theorem State.request_tb (q : SbReq) : (s.request q).tb = s.tb := by
  obtain ⟨_, _, h⟩ := State.request_ex s q; rw [h]
@[simp] theorem State.request_chans (q : SbReq) : (s.request q).chans = s.chans := by
  obtain ⟨_, _, h⟩ := State.request_ex s q; rw [h]
@[simp] theorem State.request_ht (q : SbReq) : (s.request q).ht = s.ht := by
  obtain ⟨_, _, h⟩ := State.request_ex s q; rw [h]
@[simp] theorem State.request_hotRecord (q : SbReq) : (s.request q).hotRecord = s.hotRecord := by
  obtain ⟨_, _, h⟩ := State.request_ex s q; rw [h]
@[simp] theorem State.request_probes (q : SbReq) : (s.request q).probes = s.probes := by
  obtain ⟨_, _, h⟩ := State.request_ex s q; rw [h]
@[simp] theorem State.request_links (q : SbReq) : (s.request q).links = s.links := by
  obtain ⟨_, _, h⟩ := State.request_ex s q; rw [h]
@[simp] theorem State.request_boxes (q : SbReq) : (s.request q).boxes = s.boxes := by
  obtain ⟨_, _, h⟩ := State.request_ex s q; rw [h]
@[simp] theorem State.request_pcie (q : SbReq) : (s.request q).pcie = s.pcie := by
  obtain ⟨_, _, h⟩ := State.request_ex s q; rw [h]
@[simp] theorem State.request_trace (q : SbReq) : (s.request q).trace = s.trace := by
  obtain ⟨_, _, h⟩ := State.request_ex s q; rw [h]
@[simp] theorem State.request_sec (q : SbReq) : (s.request q).sec = s.sec := by
  obtain ⟨_, _, h⟩ := State.request_ex s q; rw [h]
@[simp] theorem State.request_gddr (q : SbReq) : (s.request q).gddr = s.gddr := by
  obtain ⟨_, _, h⟩ := State.request_ex s q; rw [h]
@[simp] theorem State.request_rdata (q : SbReq) : (s.request q).rdata = s.rdata := by
  obtain ⟨_, _, h⟩ := State.request_ex s q; rw [h]
@[simp] theorem State.request_free (q : SbReq) : (s.request q).free = s.free := by
  obtain ⟨_, _, h⟩ := State.request_ex s q; rw [h]
@[simp] theorem State.request_pending (q : SbReq) : (s.request q).pending = s.pending := by
  obtain ⟨_, _, h⟩ := State.request_ex s q; rw [h]

theorem State.request_rd (q : SbReq) {a₀ : Nat} (h0 : a₀ ≠ Adr.SB_DROP) : (s.request q).rd a₀ = s.rd a₀ := by
  unfold State.request; split
  · exact State.rd_put_other _ _ h0
  · rfl

/-! ### `hwRec` -/

theorem State.hwRec_ex (sev code : Nat) (arg : BitVec 48) : ∃ x0 x1, s.hwRec sev code arg = { s with regs := x0, sb := x1 } := by
  exact State.request_ex _ _

@[simp] theorem State.hwRec_latch (sev code : Nat) (arg : BitVec 48) : (s.hwRec sev code arg).latch = s.latch := by
  obtain ⟨_, _, h⟩ := State.hwRec_ex s sev code arg; rw [h]
@[simp] theorem State.hwRec_teams (sev code : Nat) (arg : BitVec 48) : (s.hwRec sev code arg).teams = s.teams := by
  obtain ⟨_, _, h⟩ := State.hwRec_ex s sev code arg; rw [h]
@[simp] theorem State.hwRec_routers (sev code : Nat) (arg : BitVec 48) : (s.hwRec sev code arg).routers = s.routers := by
  obtain ⟨_, _, h⟩ := State.hwRec_ex s sev code arg; rw [h]
@[simp] theorem State.hwRec_chip (sev code : Nat) (arg : BitVec 48) : (s.hwRec sev code arg).chip = s.chip := by
  obtain ⟨_, _, h⟩ := State.hwRec_ex s sev code arg; rw [h]
@[simp] theorem State.hwRec_fuses (sev code : Nat) (arg : BitVec 48) : (s.hwRec sev code arg).fuses = s.fuses := by
  obtain ⟨_, _, h⟩ := State.hwRec_ex s sev code arg; rw [h]
@[simp] theorem State.hwRec_ds (sev code : Nat) (arg : BitVec 48) : (s.hwRec sev code arg).ds = s.ds := by
  obtain ⟨_, _, h⟩ := State.hwRec_ex s sev code arg; rw [h]
@[simp] theorem State.hwRec_cap (sev code : Nat) (arg : BitVec 48) : (s.hwRec sev code arg).cap = s.cap := by
  obtain ⟨_, _, h⟩ := State.hwRec_ex s sev code arg; rw [h]
@[simp] theorem State.hwRec_lanes (sev code : Nat) (arg : BitVec 48) : (s.hwRec sev code arg).lanes = s.lanes := by
  obtain ⟨_, _, h⟩ := State.hwRec_ex s sev code arg; rw [h]
@[simp] theorem State.hwRec_tb (sev code : Nat) (arg : BitVec 48) : (s.hwRec sev code arg).tb = s.tb := by
  obtain ⟨_, _, h⟩ := State.hwRec_ex s sev code arg; rw [h]
@[simp] theorem State.hwRec_chans (sev code : Nat) (arg : BitVec 48) : (s.hwRec sev code arg).chans = s.chans := by
  obtain ⟨_, _, h⟩ := State.hwRec_ex s sev code arg; rw [h]
@[simp] theorem State.hwRec_ht (sev code : Nat) (arg : BitVec 48) : (s.hwRec sev code arg).ht = s.ht := by
  obtain ⟨_, _, h⟩ := State.hwRec_ex s sev code arg; rw [h]
@[simp] theorem State.hwRec_hotRecord (sev code : Nat) (arg : BitVec 48) : (s.hwRec sev code arg).hotRecord = s.hotRecord := by
  obtain ⟨_, _, h⟩ := State.hwRec_ex s sev code arg; rw [h]
@[simp] theorem State.hwRec_probes (sev code : Nat) (arg : BitVec 48) : (s.hwRec sev code arg).probes = s.probes := by
  obtain ⟨_, _, h⟩ := State.hwRec_ex s sev code arg; rw [h]
@[simp] theorem State.hwRec_links (sev code : Nat) (arg : BitVec 48) : (s.hwRec sev code arg).links = s.links := by
  obtain ⟨_, _, h⟩ := State.hwRec_ex s sev code arg; rw [h]
@[simp] theorem State.hwRec_boxes (sev code : Nat) (arg : BitVec 48) : (s.hwRec sev code arg).boxes = s.boxes := by
  obtain ⟨_, _, h⟩ := State.hwRec_ex s sev code arg; rw [h]
@[simp] theorem State.hwRec_pcie (sev code : Nat) (arg : BitVec 48) : (s.hwRec sev code arg).pcie = s.pcie := by
  obtain ⟨_, _, h⟩ := State.hwRec_ex s sev code arg; rw [h]
@[simp] theorem State.hwRec_trace (sev code : Nat) (arg : BitVec 48) : (s.hwRec sev code arg).trace = s.trace := by
  obtain ⟨_, _, h⟩ := State.hwRec_ex s sev code arg; rw [h]
@[simp] theorem State.hwRec_sec (sev code : Nat) (arg : BitVec 48) : (s.hwRec sev code arg).sec = s.sec := by
  obtain ⟨_, _, h⟩ := State.hwRec_ex s sev code arg; rw [h]
@[simp] theorem State.hwRec_gddr (sev code : Nat) (arg : BitVec 48) : (s.hwRec sev code arg).gddr = s.gddr := by
  obtain ⟨_, _, h⟩ := State.hwRec_ex s sev code arg; rw [h]
@[simp] theorem State.hwRec_rdata (sev code : Nat) (arg : BitVec 48) : (s.hwRec sev code arg).rdata = s.rdata := by
  obtain ⟨_, _, h⟩ := State.hwRec_ex s sev code arg; rw [h]
@[simp] theorem State.hwRec_free (sev code : Nat) (arg : BitVec 48) : (s.hwRec sev code arg).free = s.free := by
  obtain ⟨_, _, h⟩ := State.hwRec_ex s sev code arg; rw [h]
@[simp] theorem State.hwRec_pending (sev code : Nat) (arg : BitVec 48) : (s.hwRec sev code arg).pending = s.pending := by
  obtain ⟨_, _, h⟩ := State.hwRec_ex s sev code arg; rw [h]

theorem State.hwRec_rd (sev code : Nat) (arg : BitVec 48) {a₀ : Nat} (h0 : a₀ ≠ Adr.SB_DROP) : (s.hwRec sev code arg).rd a₀ = s.rd a₀ := by
  exact State.request_rd _ _ h0

/-! ### `groomRec` -/

theorem State.groomRec_ex (g sev code : Nat) (arg : BitVec 48) : ∃ x0 x1, s.groomRec g sev code arg = { s with regs := x0, sb := x1 } := by
  unfold State.groomRec
  split
  · split
    · obtain ⟨r, b, h⟩ := State.request_ex ({ s with sb := { s.sb with inSecond := upd s.sb.inSecond g (look s.sb.inSecond g + 1) } }) ⟨g, sev, code, arg, false⟩
      rw [h]; exact ⟨_, _, rfl⟩
    · obtain ⟨r, h⟩ := State.sat_ex { s with sb := { s.sb with held := upd s.sb.held g (look s.sb.held g + 1) } } Reg.SB_DROP_SUPPRESSED 1
      rw [h]; exact ⟨_, _, rfl⟩
  · exact State.request_ex _ _

@[simp] theorem State.groomRec_latch (g sev code : Nat) (arg : BitVec 48) : (s.groomRec g sev code arg).latch = s.latch := by
  obtain ⟨_, _, h⟩ := State.groomRec_ex s g sev code arg; rw [h]
@[simp] theorem State.groomRec_teams (g sev code : Nat) (arg : BitVec 48) : (s.groomRec g sev code arg).teams = s.teams := by
  obtain ⟨_, _, h⟩ := State.groomRec_ex s g sev code arg; rw [h]
@[simp] theorem State.groomRec_routers (g sev code : Nat) (arg : BitVec 48) : (s.groomRec g sev code arg).routers = s.routers := by
  obtain ⟨_, _, h⟩ := State.groomRec_ex s g sev code arg; rw [h]
@[simp] theorem State.groomRec_chip (g sev code : Nat) (arg : BitVec 48) : (s.groomRec g sev code arg).chip = s.chip := by
  obtain ⟨_, _, h⟩ := State.groomRec_ex s g sev code arg; rw [h]
@[simp] theorem State.groomRec_fuses (g sev code : Nat) (arg : BitVec 48) : (s.groomRec g sev code arg).fuses = s.fuses := by
  obtain ⟨_, _, h⟩ := State.groomRec_ex s g sev code arg; rw [h]
@[simp] theorem State.groomRec_ds (g sev code : Nat) (arg : BitVec 48) : (s.groomRec g sev code arg).ds = s.ds := by
  obtain ⟨_, _, h⟩ := State.groomRec_ex s g sev code arg; rw [h]
@[simp] theorem State.groomRec_cap (g sev code : Nat) (arg : BitVec 48) : (s.groomRec g sev code arg).cap = s.cap := by
  obtain ⟨_, _, h⟩ := State.groomRec_ex s g sev code arg; rw [h]
@[simp] theorem State.groomRec_lanes (g sev code : Nat) (arg : BitVec 48) : (s.groomRec g sev code arg).lanes = s.lanes := by
  obtain ⟨_, _, h⟩ := State.groomRec_ex s g sev code arg; rw [h]
@[simp] theorem State.groomRec_tb (g sev code : Nat) (arg : BitVec 48) : (s.groomRec g sev code arg).tb = s.tb := by
  obtain ⟨_, _, h⟩ := State.groomRec_ex s g sev code arg; rw [h]
@[simp] theorem State.groomRec_chans (g sev code : Nat) (arg : BitVec 48) : (s.groomRec g sev code arg).chans = s.chans := by
  obtain ⟨_, _, h⟩ := State.groomRec_ex s g sev code arg; rw [h]
@[simp] theorem State.groomRec_ht (g sev code : Nat) (arg : BitVec 48) : (s.groomRec g sev code arg).ht = s.ht := by
  obtain ⟨_, _, h⟩ := State.groomRec_ex s g sev code arg; rw [h]
@[simp] theorem State.groomRec_hotRecord (g sev code : Nat) (arg : BitVec 48) : (s.groomRec g sev code arg).hotRecord = s.hotRecord := by
  obtain ⟨_, _, h⟩ := State.groomRec_ex s g sev code arg; rw [h]
@[simp] theorem State.groomRec_probes (g sev code : Nat) (arg : BitVec 48) : (s.groomRec g sev code arg).probes = s.probes := by
  obtain ⟨_, _, h⟩ := State.groomRec_ex s g sev code arg; rw [h]
@[simp] theorem State.groomRec_links (g sev code : Nat) (arg : BitVec 48) : (s.groomRec g sev code arg).links = s.links := by
  obtain ⟨_, _, h⟩ := State.groomRec_ex s g sev code arg; rw [h]
@[simp] theorem State.groomRec_boxes (g sev code : Nat) (arg : BitVec 48) : (s.groomRec g sev code arg).boxes = s.boxes := by
  obtain ⟨_, _, h⟩ := State.groomRec_ex s g sev code arg; rw [h]
@[simp] theorem State.groomRec_pcie (g sev code : Nat) (arg : BitVec 48) : (s.groomRec g sev code arg).pcie = s.pcie := by
  obtain ⟨_, _, h⟩ := State.groomRec_ex s g sev code arg; rw [h]
@[simp] theorem State.groomRec_trace (g sev code : Nat) (arg : BitVec 48) : (s.groomRec g sev code arg).trace = s.trace := by
  obtain ⟨_, _, h⟩ := State.groomRec_ex s g sev code arg; rw [h]
@[simp] theorem State.groomRec_sec (g sev code : Nat) (arg : BitVec 48) : (s.groomRec g sev code arg).sec = s.sec := by
  obtain ⟨_, _, h⟩ := State.groomRec_ex s g sev code arg; rw [h]
@[simp] theorem State.groomRec_gddr (g sev code : Nat) (arg : BitVec 48) : (s.groomRec g sev code arg).gddr = s.gddr := by
  obtain ⟨_, _, h⟩ := State.groomRec_ex s g sev code arg; rw [h]
@[simp] theorem State.groomRec_rdata (g sev code : Nat) (arg : BitVec 48) : (s.groomRec g sev code arg).rdata = s.rdata := by
  obtain ⟨_, _, h⟩ := State.groomRec_ex s g sev code arg; rw [h]
@[simp] theorem State.groomRec_free (g sev code : Nat) (arg : BitVec 48) : (s.groomRec g sev code arg).free = s.free := by
  obtain ⟨_, _, h⟩ := State.groomRec_ex s g sev code arg; rw [h]
@[simp] theorem State.groomRec_pending (g sev code : Nat) (arg : BitVec 48) : (s.groomRec g sev code arg).pending = s.pending := by
  obtain ⟨_, _, h⟩ := State.groomRec_ex s g sev code arg; rw [h]

theorem State.groomRec_rd (g sev code : Nat) (arg : BitVec 48) {a₀ : Nat} (h0 : a₀ ≠ Adr.SB_DROP) : (s.groomRec g sev code arg).rd a₀ = s.rd a₀ := by
  unfold State.groomRec
  split
  · split
    · exact State.request_rd _ _ h0
    · exact State.rd_put_other _ _ h0
  · exact State.request_rd _ _ h0

/-! ### `freezeRec` -/

theorem State.freezeRec_ex (src sev code : Nat) (arg : BitVec 48) : ∃ x0 x1, s.freezeRec src sev code arg = { s with regs := x0, sb := x1 } := by
  unfold State.freezeRec; split
  · obtain ⟨r, h⟩ := State.sat_ex s Reg.SB_DROP_DROPPED 1
    rw [h]; exact ⟨_, _, rfl⟩
  · exact ⟨_, _, rfl⟩

@[simp] theorem State.freezeRec_latch (src sev code : Nat) (arg : BitVec 48) : (s.freezeRec src sev code arg).latch = s.latch := by
  obtain ⟨_, _, h⟩ := State.freezeRec_ex s src sev code arg; rw [h]
@[simp] theorem State.freezeRec_teams (src sev code : Nat) (arg : BitVec 48) : (s.freezeRec src sev code arg).teams = s.teams := by
  obtain ⟨_, _, h⟩ := State.freezeRec_ex s src sev code arg; rw [h]
@[simp] theorem State.freezeRec_routers (src sev code : Nat) (arg : BitVec 48) : (s.freezeRec src sev code arg).routers = s.routers := by
  obtain ⟨_, _, h⟩ := State.freezeRec_ex s src sev code arg; rw [h]
@[simp] theorem State.freezeRec_chip (src sev code : Nat) (arg : BitVec 48) : (s.freezeRec src sev code arg).chip = s.chip := by
  obtain ⟨_, _, h⟩ := State.freezeRec_ex s src sev code arg; rw [h]
@[simp] theorem State.freezeRec_fuses (src sev code : Nat) (arg : BitVec 48) : (s.freezeRec src sev code arg).fuses = s.fuses := by
  obtain ⟨_, _, h⟩ := State.freezeRec_ex s src sev code arg; rw [h]
@[simp] theorem State.freezeRec_ds (src sev code : Nat) (arg : BitVec 48) : (s.freezeRec src sev code arg).ds = s.ds := by
  obtain ⟨_, _, h⟩ := State.freezeRec_ex s src sev code arg; rw [h]
@[simp] theorem State.freezeRec_cap (src sev code : Nat) (arg : BitVec 48) : (s.freezeRec src sev code arg).cap = s.cap := by
  obtain ⟨_, _, h⟩ := State.freezeRec_ex s src sev code arg; rw [h]
@[simp] theorem State.freezeRec_lanes (src sev code : Nat) (arg : BitVec 48) : (s.freezeRec src sev code arg).lanes = s.lanes := by
  obtain ⟨_, _, h⟩ := State.freezeRec_ex s src sev code arg; rw [h]
@[simp] theorem State.freezeRec_tb (src sev code : Nat) (arg : BitVec 48) : (s.freezeRec src sev code arg).tb = s.tb := by
  obtain ⟨_, _, h⟩ := State.freezeRec_ex s src sev code arg; rw [h]
@[simp] theorem State.freezeRec_chans (src sev code : Nat) (arg : BitVec 48) : (s.freezeRec src sev code arg).chans = s.chans := by
  obtain ⟨_, _, h⟩ := State.freezeRec_ex s src sev code arg; rw [h]
@[simp] theorem State.freezeRec_ht (src sev code : Nat) (arg : BitVec 48) : (s.freezeRec src sev code arg).ht = s.ht := by
  obtain ⟨_, _, h⟩ := State.freezeRec_ex s src sev code arg; rw [h]
@[simp] theorem State.freezeRec_hotRecord (src sev code : Nat) (arg : BitVec 48) : (s.freezeRec src sev code arg).hotRecord = s.hotRecord := by
  obtain ⟨_, _, h⟩ := State.freezeRec_ex s src sev code arg; rw [h]
@[simp] theorem State.freezeRec_probes (src sev code : Nat) (arg : BitVec 48) : (s.freezeRec src sev code arg).probes = s.probes := by
  obtain ⟨_, _, h⟩ := State.freezeRec_ex s src sev code arg; rw [h]
@[simp] theorem State.freezeRec_links (src sev code : Nat) (arg : BitVec 48) : (s.freezeRec src sev code arg).links = s.links := by
  obtain ⟨_, _, h⟩ := State.freezeRec_ex s src sev code arg; rw [h]
@[simp] theorem State.freezeRec_boxes (src sev code : Nat) (arg : BitVec 48) : (s.freezeRec src sev code arg).boxes = s.boxes := by
  obtain ⟨_, _, h⟩ := State.freezeRec_ex s src sev code arg; rw [h]
@[simp] theorem State.freezeRec_pcie (src sev code : Nat) (arg : BitVec 48) : (s.freezeRec src sev code arg).pcie = s.pcie := by
  obtain ⟨_, _, h⟩ := State.freezeRec_ex s src sev code arg; rw [h]
@[simp] theorem State.freezeRec_trace (src sev code : Nat) (arg : BitVec 48) : (s.freezeRec src sev code arg).trace = s.trace := by
  obtain ⟨_, _, h⟩ := State.freezeRec_ex s src sev code arg; rw [h]
@[simp] theorem State.freezeRec_sec (src sev code : Nat) (arg : BitVec 48) : (s.freezeRec src sev code arg).sec = s.sec := by
  obtain ⟨_, _, h⟩ := State.freezeRec_ex s src sev code arg; rw [h]
@[simp] theorem State.freezeRec_gddr (src sev code : Nat) (arg : BitVec 48) : (s.freezeRec src sev code arg).gddr = s.gddr := by
  obtain ⟨_, _, h⟩ := State.freezeRec_ex s src sev code arg; rw [h]
@[simp] theorem State.freezeRec_rdata (src sev code : Nat) (arg : BitVec 48) : (s.freezeRec src sev code arg).rdata = s.rdata := by
  obtain ⟨_, _, h⟩ := State.freezeRec_ex s src sev code arg; rw [h]
@[simp] theorem State.freezeRec_free (src sev code : Nat) (arg : BitVec 48) : (s.freezeRec src sev code arg).free = s.free := by
  obtain ⟨_, _, h⟩ := State.freezeRec_ex s src sev code arg; rw [h]
@[simp] theorem State.freezeRec_pending (src sev code : Nat) (arg : BitVec 48) : (s.freezeRec src sev code arg).pending = s.pending := by
  obtain ⟨_, _, h⟩ := State.freezeRec_ex s src sev code arg; rw [h]

theorem State.freezeRec_rd (src sev code : Nat) (arg : BitVec 48) {a₀ : Nat} (h0 : a₀ ≠ Adr.SB_DROP) : (s.freezeRec src sev code arg).rd a₀ = s.rd a₀ := by
  unfold State.freezeRec; split
  · exact State.rd_put_other _ _ h0
  · rfl

/-! ### `postEvent` -/

theorem State.postEvent_ex (m : Nat) (e : Event) : ∃ x0 x1, s.postEvent m e = { s with regs := x0, boxes := x1 } := by
  unfold State.postEvent; split
  · exact ⟨_, _, rfl⟩
  · obtain ⟨r, h⟩ := State.sat_ex s (Reg.MBX_EVTLOST_COUNT m) 1
    obtain ⟨r', h'⟩ := State.set1_ex (s.sat (Reg.MBX_EVTLOST_COUNT m) 1) (Reg.MBX_STAT_EVT_LOST m)
    rw [h', h]; exact ⟨_, _, rfl⟩

@[simp] theorem State.postEvent_latch (m : Nat) (e : Event) : (s.postEvent m e).latch = s.latch := by
  obtain ⟨_, _, h⟩ := State.postEvent_ex s m e; rw [h]
@[simp] theorem State.postEvent_teams (m : Nat) (e : Event) : (s.postEvent m e).teams = s.teams := by
  obtain ⟨_, _, h⟩ := State.postEvent_ex s m e; rw [h]
@[simp] theorem State.postEvent_routers (m : Nat) (e : Event) : (s.postEvent m e).routers = s.routers := by
  obtain ⟨_, _, h⟩ := State.postEvent_ex s m e; rw [h]
@[simp] theorem State.postEvent_chip (m : Nat) (e : Event) : (s.postEvent m e).chip = s.chip := by
  obtain ⟨_, _, h⟩ := State.postEvent_ex s m e; rw [h]
@[simp] theorem State.postEvent_fuses (m : Nat) (e : Event) : (s.postEvent m e).fuses = s.fuses := by
  obtain ⟨_, _, h⟩ := State.postEvent_ex s m e; rw [h]
@[simp] theorem State.postEvent_ds (m : Nat) (e : Event) : (s.postEvent m e).ds = s.ds := by
  obtain ⟨_, _, h⟩ := State.postEvent_ex s m e; rw [h]
@[simp] theorem State.postEvent_cap (m : Nat) (e : Event) : (s.postEvent m e).cap = s.cap := by
  obtain ⟨_, _, h⟩ := State.postEvent_ex s m e; rw [h]
@[simp] theorem State.postEvent_lanes (m : Nat) (e : Event) : (s.postEvent m e).lanes = s.lanes := by
  obtain ⟨_, _, h⟩ := State.postEvent_ex s m e; rw [h]
@[simp] theorem State.postEvent_tb (m : Nat) (e : Event) : (s.postEvent m e).tb = s.tb := by
  obtain ⟨_, _, h⟩ := State.postEvent_ex s m e; rw [h]
@[simp] theorem State.postEvent_chans (m : Nat) (e : Event) : (s.postEvent m e).chans = s.chans := by
  obtain ⟨_, _, h⟩ := State.postEvent_ex s m e; rw [h]
@[simp] theorem State.postEvent_ht (m : Nat) (e : Event) : (s.postEvent m e).ht = s.ht := by
  obtain ⟨_, _, h⟩ := State.postEvent_ex s m e; rw [h]
@[simp] theorem State.postEvent_hotRecord (m : Nat) (e : Event) : (s.postEvent m e).hotRecord = s.hotRecord := by
  obtain ⟨_, _, h⟩ := State.postEvent_ex s m e; rw [h]
@[simp] theorem State.postEvent_probes (m : Nat) (e : Event) : (s.postEvent m e).probes = s.probes := by
  obtain ⟨_, _, h⟩ := State.postEvent_ex s m e; rw [h]
@[simp] theorem State.postEvent_links (m : Nat) (e : Event) : (s.postEvent m e).links = s.links := by
  obtain ⟨_, _, h⟩ := State.postEvent_ex s m e; rw [h]
@[simp] theorem State.postEvent_pcie (m : Nat) (e : Event) : (s.postEvent m e).pcie = s.pcie := by
  obtain ⟨_, _, h⟩ := State.postEvent_ex s m e; rw [h]
@[simp] theorem State.postEvent_sb (m : Nat) (e : Event) : (s.postEvent m e).sb = s.sb := by
  obtain ⟨_, _, h⟩ := State.postEvent_ex s m e; rw [h]
@[simp] theorem State.postEvent_trace (m : Nat) (e : Event) : (s.postEvent m e).trace = s.trace := by
  obtain ⟨_, _, h⟩ := State.postEvent_ex s m e; rw [h]
@[simp] theorem State.postEvent_sec (m : Nat) (e : Event) : (s.postEvent m e).sec = s.sec := by
  obtain ⟨_, _, h⟩ := State.postEvent_ex s m e; rw [h]
@[simp] theorem State.postEvent_gddr (m : Nat) (e : Event) : (s.postEvent m e).gddr = s.gddr := by
  obtain ⟨_, _, h⟩ := State.postEvent_ex s m e; rw [h]
@[simp] theorem State.postEvent_rdata (m : Nat) (e : Event) : (s.postEvent m e).rdata = s.rdata := by
  obtain ⟨_, _, h⟩ := State.postEvent_ex s m e; rw [h]
@[simp] theorem State.postEvent_free (m : Nat) (e : Event) : (s.postEvent m e).free = s.free := by
  obtain ⟨_, _, h⟩ := State.postEvent_ex s m e; rw [h]
@[simp] theorem State.postEvent_pending (m : Nat) (e : Event) : (s.postEvent m e).pending = s.pending := by
  obtain ⟨_, _, h⟩ := State.postEvent_ex s m e; rw [h]

theorem State.postEvent_rd (m : Nat) (e : Event) {a₀ : Nat} (h0 : a₀ ≠ Adr.MBX_EVTLOST m) (h1 : a₀ ≠ Adr.MBX_STAT m) : (s.postEvent m e).rd a₀ = s.rd a₀ := by
  unfold State.postEvent; split
  · rfl
  · exact (State.rd_put_other _ _ h1).trans (State.rd_put_other _ _ h0)

/-! ### `alert` -/

theorem State.alert_ex (c : Nat) : ∃ x0 x1, s.alert c = { s with regs := x0, sb := x1 } := by
  unfold State.alert; dsimp only; split
  · exact ⟨_, _, rfl⟩
  · obtain ⟨r, h⟩ := State.set1_ex s ⟨Adr.SB_ALERT_STAT, c, c⟩
    rw [h]; exact ⟨_, _, rfl⟩

@[simp] theorem State.alert_latch (c : Nat) : (s.alert c).latch = s.latch := by
  obtain ⟨_, _, h⟩ := State.alert_ex s c; rw [h]
@[simp] theorem State.alert_teams (c : Nat) : (s.alert c).teams = s.teams := by
  obtain ⟨_, _, h⟩ := State.alert_ex s c; rw [h]
@[simp] theorem State.alert_routers (c : Nat) : (s.alert c).routers = s.routers := by
  obtain ⟨_, _, h⟩ := State.alert_ex s c; rw [h]
@[simp] theorem State.alert_chip (c : Nat) : (s.alert c).chip = s.chip := by
  obtain ⟨_, _, h⟩ := State.alert_ex s c; rw [h]
@[simp] theorem State.alert_fuses (c : Nat) : (s.alert c).fuses = s.fuses := by
  obtain ⟨_, _, h⟩ := State.alert_ex s c; rw [h]
@[simp] theorem State.alert_ds (c : Nat) : (s.alert c).ds = s.ds := by
  obtain ⟨_, _, h⟩ := State.alert_ex s c; rw [h]
@[simp] theorem State.alert_cap (c : Nat) : (s.alert c).cap = s.cap := by
  obtain ⟨_, _, h⟩ := State.alert_ex s c; rw [h]
@[simp] theorem State.alert_lanes (c : Nat) : (s.alert c).lanes = s.lanes := by
  obtain ⟨_, _, h⟩ := State.alert_ex s c; rw [h]
@[simp] theorem State.alert_tb (c : Nat) : (s.alert c).tb = s.tb := by
  obtain ⟨_, _, h⟩ := State.alert_ex s c; rw [h]
@[simp] theorem State.alert_chans (c : Nat) : (s.alert c).chans = s.chans := by
  obtain ⟨_, _, h⟩ := State.alert_ex s c; rw [h]
@[simp] theorem State.alert_ht (c : Nat) : (s.alert c).ht = s.ht := by
  obtain ⟨_, _, h⟩ := State.alert_ex s c; rw [h]
@[simp] theorem State.alert_hotRecord (c : Nat) : (s.alert c).hotRecord = s.hotRecord := by
  obtain ⟨_, _, h⟩ := State.alert_ex s c; rw [h]
@[simp] theorem State.alert_probes (c : Nat) : (s.alert c).probes = s.probes := by
  obtain ⟨_, _, h⟩ := State.alert_ex s c; rw [h]
@[simp] theorem State.alert_links (c : Nat) : (s.alert c).links = s.links := by
  obtain ⟨_, _, h⟩ := State.alert_ex s c; rw [h]
@[simp] theorem State.alert_boxes (c : Nat) : (s.alert c).boxes = s.boxes := by
  obtain ⟨_, _, h⟩ := State.alert_ex s c; rw [h]
@[simp] theorem State.alert_pcie (c : Nat) : (s.alert c).pcie = s.pcie := by
  obtain ⟨_, _, h⟩ := State.alert_ex s c; rw [h]
@[simp] theorem State.alert_trace (c : Nat) : (s.alert c).trace = s.trace := by
  obtain ⟨_, _, h⟩ := State.alert_ex s c; rw [h]
@[simp] theorem State.alert_sec (c : Nat) : (s.alert c).sec = s.sec := by
  obtain ⟨_, _, h⟩ := State.alert_ex s c; rw [h]
@[simp] theorem State.alert_gddr (c : Nat) : (s.alert c).gddr = s.gddr := by
  obtain ⟨_, _, h⟩ := State.alert_ex s c; rw [h]
@[simp] theorem State.alert_rdata (c : Nat) : (s.alert c).rdata = s.rdata := by
  obtain ⟨_, _, h⟩ := State.alert_ex s c; rw [h]
@[simp] theorem State.alert_free (c : Nat) : (s.alert c).free = s.free := by
  obtain ⟨_, _, h⟩ := State.alert_ex s c; rw [h]
@[simp] theorem State.alert_pending (c : Nat) : (s.alert c).pending = s.pending := by
  obtain ⟨_, _, h⟩ := State.alert_ex s c; rw [h]

theorem State.alert_rd (c : Nat) {a₀ : Nat} (h0 : a₀ ≠ Adr.SB_ALERT_STAT) : (s.alert c).rd a₀ = s.rd a₀ := by
  unfold State.alert; dsimp only; split
  · rfl
  · have h1 := State.rd_put_other s (f := ⟨Adr.SB_ALERT_STAT, c, c⟩) 1 h0
    simp only [State.rd] at h1 ⊢
    exact h1

/-! ### `emitMsg` -/

theorem State.emitMsg_ex (v : Nat) : ∃ x0, s.emitMsg v = { s with pcie := x0 } := by
  exact ⟨_, rfl⟩

@[simp] theorem State.emitMsg_regs (v : Nat) : (s.emitMsg v).regs = s.regs := by
  obtain ⟨_, h⟩ := State.emitMsg_ex s v; rw [h]
@[simp] theorem State.emitMsg_latch (v : Nat) : (s.emitMsg v).latch = s.latch := by
  obtain ⟨_, h⟩ := State.emitMsg_ex s v; rw [h]
@[simp] theorem State.emitMsg_teams (v : Nat) : (s.emitMsg v).teams = s.teams := by
  obtain ⟨_, h⟩ := State.emitMsg_ex s v; rw [h]
@[simp] theorem State.emitMsg_routers (v : Nat) : (s.emitMsg v).routers = s.routers := by
  obtain ⟨_, h⟩ := State.emitMsg_ex s v; rw [h]
@[simp] theorem State.emitMsg_chip (v : Nat) : (s.emitMsg v).chip = s.chip := by
  obtain ⟨_, h⟩ := State.emitMsg_ex s v; rw [h]
@[simp] theorem State.emitMsg_fuses (v : Nat) : (s.emitMsg v).fuses = s.fuses := by
  obtain ⟨_, h⟩ := State.emitMsg_ex s v; rw [h]
@[simp] theorem State.emitMsg_ds (v : Nat) : (s.emitMsg v).ds = s.ds := by
  obtain ⟨_, h⟩ := State.emitMsg_ex s v; rw [h]
@[simp] theorem State.emitMsg_cap (v : Nat) : (s.emitMsg v).cap = s.cap := by
  obtain ⟨_, h⟩ := State.emitMsg_ex s v; rw [h]
@[simp] theorem State.emitMsg_lanes (v : Nat) : (s.emitMsg v).lanes = s.lanes := by
  obtain ⟨_, h⟩ := State.emitMsg_ex s v; rw [h]
@[simp] theorem State.emitMsg_tb (v : Nat) : (s.emitMsg v).tb = s.tb := by
  obtain ⟨_, h⟩ := State.emitMsg_ex s v; rw [h]
@[simp] theorem State.emitMsg_chans (v : Nat) : (s.emitMsg v).chans = s.chans := by
  obtain ⟨_, h⟩ := State.emitMsg_ex s v; rw [h]
@[simp] theorem State.emitMsg_ht (v : Nat) : (s.emitMsg v).ht = s.ht := by
  obtain ⟨_, h⟩ := State.emitMsg_ex s v; rw [h]
@[simp] theorem State.emitMsg_hotRecord (v : Nat) : (s.emitMsg v).hotRecord = s.hotRecord := by
  obtain ⟨_, h⟩ := State.emitMsg_ex s v; rw [h]
@[simp] theorem State.emitMsg_probes (v : Nat) : (s.emitMsg v).probes = s.probes := by
  obtain ⟨_, h⟩ := State.emitMsg_ex s v; rw [h]
@[simp] theorem State.emitMsg_links (v : Nat) : (s.emitMsg v).links = s.links := by
  obtain ⟨_, h⟩ := State.emitMsg_ex s v; rw [h]
@[simp] theorem State.emitMsg_boxes (v : Nat) : (s.emitMsg v).boxes = s.boxes := by
  obtain ⟨_, h⟩ := State.emitMsg_ex s v; rw [h]
@[simp] theorem State.emitMsg_sb (v : Nat) : (s.emitMsg v).sb = s.sb := by
  obtain ⟨_, h⟩ := State.emitMsg_ex s v; rw [h]
@[simp] theorem State.emitMsg_trace (v : Nat) : (s.emitMsg v).trace = s.trace := by
  obtain ⟨_, h⟩ := State.emitMsg_ex s v; rw [h]
@[simp] theorem State.emitMsg_sec (v : Nat) : (s.emitMsg v).sec = s.sec := by
  obtain ⟨_, h⟩ := State.emitMsg_ex s v; rw [h]
@[simp] theorem State.emitMsg_gddr (v : Nat) : (s.emitMsg v).gddr = s.gddr := by
  obtain ⟨_, h⟩ := State.emitMsg_ex s v; rw [h]
@[simp] theorem State.emitMsg_rdata (v : Nat) : (s.emitMsg v).rdata = s.rdata := by
  obtain ⟨_, h⟩ := State.emitMsg_ex s v; rw [h]
@[simp] theorem State.emitMsg_free (v : Nat) : (s.emitMsg v).free = s.free := by
  obtain ⟨_, h⟩ := State.emitMsg_ex s v; rw [h]
@[simp] theorem State.emitMsg_pending (v : Nat) : (s.emitMsg v).pending = s.pending := by
  obtain ⟨_, h⟩ := State.emitMsg_ex s v; rw [h]

/-! ### `sendMsg` -/

theorem State.sendMsg_ex (v : Nat) : ∃ x0, s.sendMsg v = { s with pcie := x0 } := by
  unfold State.sendMsg; (repeat' split) <;> exact ⟨_, rfl⟩

@[simp] theorem State.sendMsg_regs (v : Nat) : (s.sendMsg v).regs = s.regs := by
  obtain ⟨_, h⟩ := State.sendMsg_ex s v; rw [h]
@[simp] theorem State.sendMsg_latch (v : Nat) : (s.sendMsg v).latch = s.latch := by
  obtain ⟨_, h⟩ := State.sendMsg_ex s v; rw [h]
@[simp] theorem State.sendMsg_teams (v : Nat) : (s.sendMsg v).teams = s.teams := by
  obtain ⟨_, h⟩ := State.sendMsg_ex s v; rw [h]
@[simp] theorem State.sendMsg_routers (v : Nat) : (s.sendMsg v).routers = s.routers := by
  obtain ⟨_, h⟩ := State.sendMsg_ex s v; rw [h]
@[simp] theorem State.sendMsg_chip (v : Nat) : (s.sendMsg v).chip = s.chip := by
  obtain ⟨_, h⟩ := State.sendMsg_ex s v; rw [h]
@[simp] theorem State.sendMsg_fuses (v : Nat) : (s.sendMsg v).fuses = s.fuses := by
  obtain ⟨_, h⟩ := State.sendMsg_ex s v; rw [h]
@[simp] theorem State.sendMsg_ds (v : Nat) : (s.sendMsg v).ds = s.ds := by
  obtain ⟨_, h⟩ := State.sendMsg_ex s v; rw [h]
@[simp] theorem State.sendMsg_cap (v : Nat) : (s.sendMsg v).cap = s.cap := by
  obtain ⟨_, h⟩ := State.sendMsg_ex s v; rw [h]
@[simp] theorem State.sendMsg_lanes (v : Nat) : (s.sendMsg v).lanes = s.lanes := by
  obtain ⟨_, h⟩ := State.sendMsg_ex s v; rw [h]
@[simp] theorem State.sendMsg_tb (v : Nat) : (s.sendMsg v).tb = s.tb := by
  obtain ⟨_, h⟩ := State.sendMsg_ex s v; rw [h]
@[simp] theorem State.sendMsg_chans (v : Nat) : (s.sendMsg v).chans = s.chans := by
  obtain ⟨_, h⟩ := State.sendMsg_ex s v; rw [h]
@[simp] theorem State.sendMsg_ht (v : Nat) : (s.sendMsg v).ht = s.ht := by
  obtain ⟨_, h⟩ := State.sendMsg_ex s v; rw [h]
@[simp] theorem State.sendMsg_hotRecord (v : Nat) : (s.sendMsg v).hotRecord = s.hotRecord := by
  obtain ⟨_, h⟩ := State.sendMsg_ex s v; rw [h]
@[simp] theorem State.sendMsg_probes (v : Nat) : (s.sendMsg v).probes = s.probes := by
  obtain ⟨_, h⟩ := State.sendMsg_ex s v; rw [h]
@[simp] theorem State.sendMsg_links (v : Nat) : (s.sendMsg v).links = s.links := by
  obtain ⟨_, h⟩ := State.sendMsg_ex s v; rw [h]
@[simp] theorem State.sendMsg_boxes (v : Nat) : (s.sendMsg v).boxes = s.boxes := by
  obtain ⟨_, h⟩ := State.sendMsg_ex s v; rw [h]
@[simp] theorem State.sendMsg_sb (v : Nat) : (s.sendMsg v).sb = s.sb := by
  obtain ⟨_, h⟩ := State.sendMsg_ex s v; rw [h]
@[simp] theorem State.sendMsg_trace (v : Nat) : (s.sendMsg v).trace = s.trace := by
  obtain ⟨_, h⟩ := State.sendMsg_ex s v; rw [h]
@[simp] theorem State.sendMsg_sec (v : Nat) : (s.sendMsg v).sec = s.sec := by
  obtain ⟨_, h⟩ := State.sendMsg_ex s v; rw [h]
@[simp] theorem State.sendMsg_gddr (v : Nat) : (s.sendMsg v).gddr = s.gddr := by
  obtain ⟨_, h⟩ := State.sendMsg_ex s v; rw [h]
@[simp] theorem State.sendMsg_rdata (v : Nat) : (s.sendMsg v).rdata = s.rdata := by
  obtain ⟨_, h⟩ := State.sendMsg_ex s v; rw [h]
@[simp] theorem State.sendMsg_free (v : Nat) : (s.sendMsg v).free = s.free := by
  obtain ⟨_, h⟩ := State.sendMsg_ex s v; rw [h]
@[simp] theorem State.sendMsg_pending (v : Nat) : (s.sendMsg v).pending = s.pending := by
  obtain ⟨_, h⟩ := State.sendMsg_ex s v; rw [h]

/-! ### `raise` -/

theorem State.raise_ex (v : Nat) : ∃ x0 x1, s.raise v = { s with regs := x0, pcie := x1 } := by
  unfold State.raise; split
  · exact ⟨_, _, rfl⟩
  · obtain ⟨p, h⟩ := State.sendMsg_ex (s.set1 (causeFld v)) v
    obtain ⟨r, h'⟩ := State.set1_ex s (causeFld v)
    rw [h, h']; exact ⟨_, _, rfl⟩

@[simp] theorem State.raise_latch (v : Nat) : (s.raise v).latch = s.latch := by
  obtain ⟨_, _, h⟩ := State.raise_ex s v; rw [h]
@[simp] theorem State.raise_teams (v : Nat) : (s.raise v).teams = s.teams := by
  obtain ⟨_, _, h⟩ := State.raise_ex s v; rw [h]
@[simp] theorem State.raise_routers (v : Nat) : (s.raise v).routers = s.routers := by
  obtain ⟨_, _, h⟩ := State.raise_ex s v; rw [h]
@[simp] theorem State.raise_chip (v : Nat) : (s.raise v).chip = s.chip := by
  obtain ⟨_, _, h⟩ := State.raise_ex s v; rw [h]
@[simp] theorem State.raise_fuses (v : Nat) : (s.raise v).fuses = s.fuses := by
  obtain ⟨_, _, h⟩ := State.raise_ex s v; rw [h]
@[simp] theorem State.raise_ds (v : Nat) : (s.raise v).ds = s.ds := by
  obtain ⟨_, _, h⟩ := State.raise_ex s v; rw [h]
@[simp] theorem State.raise_cap (v : Nat) : (s.raise v).cap = s.cap := by
  obtain ⟨_, _, h⟩ := State.raise_ex s v; rw [h]
@[simp] theorem State.raise_lanes (v : Nat) : (s.raise v).lanes = s.lanes := by
  obtain ⟨_, _, h⟩ := State.raise_ex s v; rw [h]
@[simp] theorem State.raise_tb (v : Nat) : (s.raise v).tb = s.tb := by
  obtain ⟨_, _, h⟩ := State.raise_ex s v; rw [h]
@[simp] theorem State.raise_chans (v : Nat) : (s.raise v).chans = s.chans := by
  obtain ⟨_, _, h⟩ := State.raise_ex s v; rw [h]
@[simp] theorem State.raise_ht (v : Nat) : (s.raise v).ht = s.ht := by
  obtain ⟨_, _, h⟩ := State.raise_ex s v; rw [h]
@[simp] theorem State.raise_hotRecord (v : Nat) : (s.raise v).hotRecord = s.hotRecord := by
  obtain ⟨_, _, h⟩ := State.raise_ex s v; rw [h]
@[simp] theorem State.raise_probes (v : Nat) : (s.raise v).probes = s.probes := by
  obtain ⟨_, _, h⟩ := State.raise_ex s v; rw [h]
@[simp] theorem State.raise_links (v : Nat) : (s.raise v).links = s.links := by
  obtain ⟨_, _, h⟩ := State.raise_ex s v; rw [h]
@[simp] theorem State.raise_boxes (v : Nat) : (s.raise v).boxes = s.boxes := by
  obtain ⟨_, _, h⟩ := State.raise_ex s v; rw [h]
@[simp] theorem State.raise_sb (v : Nat) : (s.raise v).sb = s.sb := by
  obtain ⟨_, _, h⟩ := State.raise_ex s v; rw [h]
@[simp] theorem State.raise_trace (v : Nat) : (s.raise v).trace = s.trace := by
  obtain ⟨_, _, h⟩ := State.raise_ex s v; rw [h]
@[simp] theorem State.raise_sec (v : Nat) : (s.raise v).sec = s.sec := by
  obtain ⟨_, _, h⟩ := State.raise_ex s v; rw [h]
@[simp] theorem State.raise_gddr (v : Nat) : (s.raise v).gddr = s.gddr := by
  obtain ⟨_, _, h⟩ := State.raise_ex s v; rw [h]
@[simp] theorem State.raise_rdata (v : Nat) : (s.raise v).rdata = s.rdata := by
  obtain ⟨_, _, h⟩ := State.raise_ex s v; rw [h]
@[simp] theorem State.raise_free (v : Nat) : (s.raise v).free = s.free := by
  obtain ⟨_, _, h⟩ := State.raise_ex s v; rw [h]
@[simp] theorem State.raise_pending (v : Nat) : (s.raise v).pending = s.pending := by
  obtain ⟨_, _, h⟩ := State.raise_ex s v; rw [h]

theorem State.raise_rd (v : Nat) {a₀ : Nat} (h0 : a₀ ≠ (causeFld v).addr) : (s.raise v).rd a₀ = s.rd a₀ := by
  unfold State.raise; split
  · rfl
  · rw [State.rd_eq (State.sendMsg_regs _ _)]; exact State.rd_put_other _ _ h0

/-! ### `peErr` -/

theorem State.peErr_ex (kind status loc : Nat) : ∃ x0 x1, s.peErr kind status loc = { s with regs := x0, pcie := x1 } := by
  unfold State.peErr
  extract_lets f s1
  have h1 : ∃ r, s1 = { s with regs := r } := by
    simp only [s1]
    split
    · exact ⟨_, rfl⟩
    · exact State.puts_ex s [(Reg.PE_ERR_INFO_VALID, 1), (Reg.PE_ERR_INFO_KIND, kind), (Reg.PE_ERR_INFO_STATUS, status), (Reg.PE_ERR_INFO_WHERE, loc)]
  clear_value s1 f
  obtain ⟨r, rfl⟩ := h1
  split
  · exact ⟨_, _, rfl⟩
  · obtain ⟨r', p, h⟩ := State.raise_ex (({ s with regs := r } : State).set1 f) 9
    obtain ⟨r'', h'⟩ := State.set1_ex { s with regs := r } f
    rw [h, h']; exact ⟨_, _, rfl⟩

@[simp] theorem State.peErr_latch (kind status loc : Nat) : (s.peErr kind status loc).latch = s.latch := by
  obtain ⟨_, _, h⟩ := State.peErr_ex s kind status loc; rw [h]
@[simp] theorem State.peErr_teams (kind status loc : Nat) : (s.peErr kind status loc).teams = s.teams := by
  obtain ⟨_, _, h⟩ := State.peErr_ex s kind status loc; rw [h]
@[simp] theorem State.peErr_routers (kind status loc : Nat) : (s.peErr kind status loc).routers = s.routers := by
  obtain ⟨_, _, h⟩ := State.peErr_ex s kind status loc; rw [h]
@[simp] theorem State.peErr_chip (kind status loc : Nat) : (s.peErr kind status loc).chip = s.chip := by
  obtain ⟨_, _, h⟩ := State.peErr_ex s kind status loc; rw [h]
@[simp] theorem State.peErr_fuses (kind status loc : Nat) : (s.peErr kind status loc).fuses = s.fuses := by
  obtain ⟨_, _, h⟩ := State.peErr_ex s kind status loc; rw [h]
@[simp] theorem State.peErr_ds (kind status loc : Nat) : (s.peErr kind status loc).ds = s.ds := by
  obtain ⟨_, _, h⟩ := State.peErr_ex s kind status loc; rw [h]
@[simp] theorem State.peErr_cap (kind status loc : Nat) : (s.peErr kind status loc).cap = s.cap := by
  obtain ⟨_, _, h⟩ := State.peErr_ex s kind status loc; rw [h]
@[simp] theorem State.peErr_lanes (kind status loc : Nat) : (s.peErr kind status loc).lanes = s.lanes := by
  obtain ⟨_, _, h⟩ := State.peErr_ex s kind status loc; rw [h]
@[simp] theorem State.peErr_tb (kind status loc : Nat) : (s.peErr kind status loc).tb = s.tb := by
  obtain ⟨_, _, h⟩ := State.peErr_ex s kind status loc; rw [h]
@[simp] theorem State.peErr_chans (kind status loc : Nat) : (s.peErr kind status loc).chans = s.chans := by
  obtain ⟨_, _, h⟩ := State.peErr_ex s kind status loc; rw [h]
@[simp] theorem State.peErr_ht (kind status loc : Nat) : (s.peErr kind status loc).ht = s.ht := by
  obtain ⟨_, _, h⟩ := State.peErr_ex s kind status loc; rw [h]
@[simp] theorem State.peErr_hotRecord (kind status loc : Nat) : (s.peErr kind status loc).hotRecord = s.hotRecord := by
  obtain ⟨_, _, h⟩ := State.peErr_ex s kind status loc; rw [h]
@[simp] theorem State.peErr_probes (kind status loc : Nat) : (s.peErr kind status loc).probes = s.probes := by
  obtain ⟨_, _, h⟩ := State.peErr_ex s kind status loc; rw [h]
@[simp] theorem State.peErr_links (kind status loc : Nat) : (s.peErr kind status loc).links = s.links := by
  obtain ⟨_, _, h⟩ := State.peErr_ex s kind status loc; rw [h]
@[simp] theorem State.peErr_boxes (kind status loc : Nat) : (s.peErr kind status loc).boxes = s.boxes := by
  obtain ⟨_, _, h⟩ := State.peErr_ex s kind status loc; rw [h]
@[simp] theorem State.peErr_sb (kind status loc : Nat) : (s.peErr kind status loc).sb = s.sb := by
  obtain ⟨_, _, h⟩ := State.peErr_ex s kind status loc; rw [h]
@[simp] theorem State.peErr_trace (kind status loc : Nat) : (s.peErr kind status loc).trace = s.trace := by
  obtain ⟨_, _, h⟩ := State.peErr_ex s kind status loc; rw [h]
@[simp] theorem State.peErr_sec (kind status loc : Nat) : (s.peErr kind status loc).sec = s.sec := by
  obtain ⟨_, _, h⟩ := State.peErr_ex s kind status loc; rw [h]
@[simp] theorem State.peErr_gddr (kind status loc : Nat) : (s.peErr kind status loc).gddr = s.gddr := by
  obtain ⟨_, _, h⟩ := State.peErr_ex s kind status loc; rw [h]
@[simp] theorem State.peErr_rdata (kind status loc : Nat) : (s.peErr kind status loc).rdata = s.rdata := by
  obtain ⟨_, _, h⟩ := State.peErr_ex s kind status loc; rw [h]
@[simp] theorem State.peErr_free (kind status loc : Nat) : (s.peErr kind status loc).free = s.free := by
  obtain ⟨_, _, h⟩ := State.peErr_ex s kind status loc; rw [h]
@[simp] theorem State.peErr_pending (kind status loc : Nat) : (s.peErr kind status loc).pending = s.pending := by
  obtain ⟨_, _, h⟩ := State.peErr_ex s kind status loc; rw [h]

theorem State.peErr_rd (kind status loc : Nat) {a₀ : Nat} (h0 : a₀ ≠ Adr.PE_ERR) (h1 : a₀ ≠ Adr.PE_ERR_INFO) (h2 : a₀ ≠ Adr.PE_INT_STAT_LO) : (s.peErr kind status loc).rd a₀ = s.rd a₀ := by
  have h3 : a₀ ≠ (causeFld 9).addr := h2
  unfold State.peErr; dsimp only
  split
  · split
    · rfl
    · simp only [State.set1]; rw [State.rd_put_other _ _ h1, State.rd_put_other _ _ h1, State.rd_put_other _ _ h1, State.rd_put_other _ _ h1]
  · rw [State.raise_rd _ _ h3, State.set1, State.rd_put_other _ _ h0]
    split
    · rfl
    · simp only [State.set1]; rw [State.rd_put_other _ _ h1, State.rd_put_other _ _ h1, State.rd_put_other _ _ h1, State.rd_put_other _ _ h1]

/-! ### `spoil` -/

theorem State.spoil_ex (n : Nat) : ∃ x0, s.spoil n = { s with regs := x0 } := by
  unfold State.spoil; split
  · exact ⟨_, rfl⟩
  · obtain ⟨r, h⟩ := State.set1_ex (s.putPair Adr.CHIP_SPOIL_LO Adr.CHIP_SPOIL_HI n) Reg.CHIP_SPOIL_CTL_VALID
    obtain ⟨r', h'⟩ := State.putPair_ex s Adr.CHIP_SPOIL_LO Adr.CHIP_SPOIL_HI n
    rw [h, h']; exact ⟨_, rfl⟩

@[simp] theorem State.spoil_latch (n : Nat) : (s.spoil n).latch = s.latch := by
  obtain ⟨_, h⟩ := State.spoil_ex s n; rw [h]
@[simp] theorem State.spoil_teams (n : Nat) : (s.spoil n).teams = s.teams := by
  obtain ⟨_, h⟩ := State.spoil_ex s n; rw [h]
@[simp] theorem State.spoil_routers (n : Nat) : (s.spoil n).routers = s.routers := by
  obtain ⟨_, h⟩ := State.spoil_ex s n; rw [h]
@[simp] theorem State.spoil_chip (n : Nat) : (s.spoil n).chip = s.chip := by
  obtain ⟨_, h⟩ := State.spoil_ex s n; rw [h]
@[simp] theorem State.spoil_fuses (n : Nat) : (s.spoil n).fuses = s.fuses := by
  obtain ⟨_, h⟩ := State.spoil_ex s n; rw [h]
@[simp] theorem State.spoil_ds (n : Nat) : (s.spoil n).ds = s.ds := by
  obtain ⟨_, h⟩ := State.spoil_ex s n; rw [h]
@[simp] theorem State.spoil_cap (n : Nat) : (s.spoil n).cap = s.cap := by
  obtain ⟨_, h⟩ := State.spoil_ex s n; rw [h]
@[simp] theorem State.spoil_lanes (n : Nat) : (s.spoil n).lanes = s.lanes := by
  obtain ⟨_, h⟩ := State.spoil_ex s n; rw [h]
@[simp] theorem State.spoil_tb (n : Nat) : (s.spoil n).tb = s.tb := by
  obtain ⟨_, h⟩ := State.spoil_ex s n; rw [h]
@[simp] theorem State.spoil_chans (n : Nat) : (s.spoil n).chans = s.chans := by
  obtain ⟨_, h⟩ := State.spoil_ex s n; rw [h]
@[simp] theorem State.spoil_ht (n : Nat) : (s.spoil n).ht = s.ht := by
  obtain ⟨_, h⟩ := State.spoil_ex s n; rw [h]
@[simp] theorem State.spoil_hotRecord (n : Nat) : (s.spoil n).hotRecord = s.hotRecord := by
  obtain ⟨_, h⟩ := State.spoil_ex s n; rw [h]
@[simp] theorem State.spoil_probes (n : Nat) : (s.spoil n).probes = s.probes := by
  obtain ⟨_, h⟩ := State.spoil_ex s n; rw [h]
@[simp] theorem State.spoil_links (n : Nat) : (s.spoil n).links = s.links := by
  obtain ⟨_, h⟩ := State.spoil_ex s n; rw [h]
@[simp] theorem State.spoil_boxes (n : Nat) : (s.spoil n).boxes = s.boxes := by
  obtain ⟨_, h⟩ := State.spoil_ex s n; rw [h]
@[simp] theorem State.spoil_pcie (n : Nat) : (s.spoil n).pcie = s.pcie := by
  obtain ⟨_, h⟩ := State.spoil_ex s n; rw [h]
@[simp] theorem State.spoil_sb (n : Nat) : (s.spoil n).sb = s.sb := by
  obtain ⟨_, h⟩ := State.spoil_ex s n; rw [h]
@[simp] theorem State.spoil_trace (n : Nat) : (s.spoil n).trace = s.trace := by
  obtain ⟨_, h⟩ := State.spoil_ex s n; rw [h]
@[simp] theorem State.spoil_sec (n : Nat) : (s.spoil n).sec = s.sec := by
  obtain ⟨_, h⟩ := State.spoil_ex s n; rw [h]
@[simp] theorem State.spoil_gddr (n : Nat) : (s.spoil n).gddr = s.gddr := by
  obtain ⟨_, h⟩ := State.spoil_ex s n; rw [h]
@[simp] theorem State.spoil_rdata (n : Nat) : (s.spoil n).rdata = s.rdata := by
  obtain ⟨_, h⟩ := State.spoil_ex s n; rw [h]
@[simp] theorem State.spoil_free (n : Nat) : (s.spoil n).free = s.free := by
  obtain ⟨_, h⟩ := State.spoil_ex s n; rw [h]
@[simp] theorem State.spoil_pending (n : Nat) : (s.spoil n).pending = s.pending := by
  obtain ⟨_, h⟩ := State.spoil_ex s n; rw [h]

theorem State.spoil_rd (n : Nat) {a₀ : Nat} (h0 : a₀ ≠ Adr.CHIP_SPOIL_LO) (h1 : a₀ ≠ Adr.CHIP_SPOIL_HI) (h2 : a₀ ≠ Adr.CHIP_SPOIL_CTL) : (s.spoil n).rd a₀ = s.rd a₀ := by
  unfold State.spoil; split
  · rfl
  · rw [State.set1, State.rd_put_other _ _ h2, State.putPair, State.rd_wr_other _ _ h1, State.rd_wr_other _ _ h0]

/-! ### `postSlot` -/

theorem State.postSlot_ex (m : Nat) (d : BitVec 512) : ∃ x0 x1 x2, s.postSlot m d = { s with regs := x0, boxes := x1, pcie := x2 } := by
  unfold State.postSlot; dsimp only
  obtain ⟨r, p, h⟩ := State.raise_ex ((s.onBox m (fun b => { b with rsp := upd b.rsp (s.get (Reg.MBX_RSP_PI_INDEX m) % 64) d })).put
    (Reg.MBX_RSP_PI_INDEX m) ((s.get (Reg.MBX_RSP_PI_INDEX m) + 1) % 128)) m
  obtain ⟨r', h'⟩ := State.put_ex (s.onBox m (fun b => { b with rsp := upd b.rsp (s.get (Reg.MBX_RSP_PI_INDEX m) % 64) d }))
    (Reg.MBX_RSP_PI_INDEX m) ((s.get (Reg.MBX_RSP_PI_INDEX m) + 1) % 128)
  rw [h, h']; exact ⟨_, _, _, rfl⟩

@[simp] theorem State.postSlot_latch (m : Nat) (d : BitVec 512) : (s.postSlot m d).latch = s.latch := by
  obtain ⟨_, _, _, h⟩ := State.postSlot_ex s m d; rw [h]
@[simp] theorem State.postSlot_teams (m : Nat) (d : BitVec 512) : (s.postSlot m d).teams = s.teams := by
  obtain ⟨_, _, _, h⟩ := State.postSlot_ex s m d; rw [h]
@[simp] theorem State.postSlot_routers (m : Nat) (d : BitVec 512) : (s.postSlot m d).routers = s.routers := by
  obtain ⟨_, _, _, h⟩ := State.postSlot_ex s m d; rw [h]
@[simp] theorem State.postSlot_chip (m : Nat) (d : BitVec 512) : (s.postSlot m d).chip = s.chip := by
  obtain ⟨_, _, _, h⟩ := State.postSlot_ex s m d; rw [h]
@[simp] theorem State.postSlot_fuses (m : Nat) (d : BitVec 512) : (s.postSlot m d).fuses = s.fuses := by
  obtain ⟨_, _, _, h⟩ := State.postSlot_ex s m d; rw [h]
@[simp] theorem State.postSlot_ds (m : Nat) (d : BitVec 512) : (s.postSlot m d).ds = s.ds := by
  obtain ⟨_, _, _, h⟩ := State.postSlot_ex s m d; rw [h]
@[simp] theorem State.postSlot_cap (m : Nat) (d : BitVec 512) : (s.postSlot m d).cap = s.cap := by
  obtain ⟨_, _, _, h⟩ := State.postSlot_ex s m d; rw [h]
@[simp] theorem State.postSlot_lanes (m : Nat) (d : BitVec 512) : (s.postSlot m d).lanes = s.lanes := by
  obtain ⟨_, _, _, h⟩ := State.postSlot_ex s m d; rw [h]
@[simp] theorem State.postSlot_tb (m : Nat) (d : BitVec 512) : (s.postSlot m d).tb = s.tb := by
  obtain ⟨_, _, _, h⟩ := State.postSlot_ex s m d; rw [h]
@[simp] theorem State.postSlot_chans (m : Nat) (d : BitVec 512) : (s.postSlot m d).chans = s.chans := by
  obtain ⟨_, _, _, h⟩ := State.postSlot_ex s m d; rw [h]
@[simp] theorem State.postSlot_ht (m : Nat) (d : BitVec 512) : (s.postSlot m d).ht = s.ht := by
  obtain ⟨_, _, _, h⟩ := State.postSlot_ex s m d; rw [h]
@[simp] theorem State.postSlot_hotRecord (m : Nat) (d : BitVec 512) : (s.postSlot m d).hotRecord = s.hotRecord := by
  obtain ⟨_, _, _, h⟩ := State.postSlot_ex s m d; rw [h]
@[simp] theorem State.postSlot_probes (m : Nat) (d : BitVec 512) : (s.postSlot m d).probes = s.probes := by
  obtain ⟨_, _, _, h⟩ := State.postSlot_ex s m d; rw [h]
@[simp] theorem State.postSlot_links (m : Nat) (d : BitVec 512) : (s.postSlot m d).links = s.links := by
  obtain ⟨_, _, _, h⟩ := State.postSlot_ex s m d; rw [h]
@[simp] theorem State.postSlot_sb (m : Nat) (d : BitVec 512) : (s.postSlot m d).sb = s.sb := by
  obtain ⟨_, _, _, h⟩ := State.postSlot_ex s m d; rw [h]
@[simp] theorem State.postSlot_trace (m : Nat) (d : BitVec 512) : (s.postSlot m d).trace = s.trace := by
  obtain ⟨_, _, _, h⟩ := State.postSlot_ex s m d; rw [h]
@[simp] theorem State.postSlot_sec (m : Nat) (d : BitVec 512) : (s.postSlot m d).sec = s.sec := by
  obtain ⟨_, _, _, h⟩ := State.postSlot_ex s m d; rw [h]
@[simp] theorem State.postSlot_gddr (m : Nat) (d : BitVec 512) : (s.postSlot m d).gddr = s.gddr := by
  obtain ⟨_, _, _, h⟩ := State.postSlot_ex s m d; rw [h]
@[simp] theorem State.postSlot_rdata (m : Nat) (d : BitVec 512) : (s.postSlot m d).rdata = s.rdata := by
  obtain ⟨_, _, _, h⟩ := State.postSlot_ex s m d; rw [h]
@[simp] theorem State.postSlot_free (m : Nat) (d : BitVec 512) : (s.postSlot m d).free = s.free := by
  obtain ⟨_, _, _, h⟩ := State.postSlot_ex s m d; rw [h]
@[simp] theorem State.postSlot_pending (m : Nat) (d : BitVec 512) : (s.postSlot m d).pending = s.pending := by
  obtain ⟨_, _, _, h⟩ := State.postSlot_ex s m d; rw [h]

theorem State.postSlot_rd (m : Nat) (d : BitVec 512) {a₀ : Nat} (h0 : a₀ ≠ Adr.MBX_RSP_PI m) (h1 : a₀ ≠ (causeFld m).addr) : (s.postSlot m d).rd a₀ = s.rd a₀ := by
  unfold State.postSlot; dsimp only
  rw [State.raise_rd _ _ h1, State.rd_put_other _ _ h0]; rfl

/-! ### `respond` -/

theorem State.respond_ex (m : Nat) (c : Taken) (late : Bool) (a : Resp) : ∃ x0 x1 x2, s.respond m c late a = { s with regs := x0, boxes := x1, pcie := x2 } := by
  unfold State.respond; split
  · exact ⟨_, _, _, rfl⟩
  · exact State.postSlot_ex _ _ _

@[simp] theorem State.respond_latch (m : Nat) (c : Taken) (late : Bool) (a : Resp) : (s.respond m c late a).latch = s.latch := by
  obtain ⟨_, _, _, h⟩ := State.respond_ex s m c late a; rw [h]
@[simp] theorem State.respond_teams (m : Nat) (c : Taken) (late : Bool) (a : Resp) : (s.respond m c late a).teams = s.teams := by
  obtain ⟨_, _, _, h⟩ := State.respond_ex s m c late a; rw [h]
@[simp] theorem State.respond_routers (m : Nat) (c : Taken) (late : Bool) (a : Resp) : (s.respond m c late a).routers = s.routers := by
  obtain ⟨_, _, _, h⟩ := State.respond_ex s m c late a; rw [h]
@[simp] theorem State.respond_chip (m : Nat) (c : Taken) (late : Bool) (a : Resp) : (s.respond m c late a).chip = s.chip := by
  obtain ⟨_, _, _, h⟩ := State.respond_ex s m c late a; rw [h]
@[simp] theorem State.respond_fuses (m : Nat) (c : Taken) (late : Bool) (a : Resp) : (s.respond m c late a).fuses = s.fuses := by
  obtain ⟨_, _, _, h⟩ := State.respond_ex s m c late a; rw [h]
@[simp] theorem State.respond_ds (m : Nat) (c : Taken) (late : Bool) (a : Resp) : (s.respond m c late a).ds = s.ds := by
  obtain ⟨_, _, _, h⟩ := State.respond_ex s m c late a; rw [h]
@[simp] theorem State.respond_cap (m : Nat) (c : Taken) (late : Bool) (a : Resp) : (s.respond m c late a).cap = s.cap := by
  obtain ⟨_, _, _, h⟩ := State.respond_ex s m c late a; rw [h]
@[simp] theorem State.respond_lanes (m : Nat) (c : Taken) (late : Bool) (a : Resp) : (s.respond m c late a).lanes = s.lanes := by
  obtain ⟨_, _, _, h⟩ := State.respond_ex s m c late a; rw [h]
@[simp] theorem State.respond_tb (m : Nat) (c : Taken) (late : Bool) (a : Resp) : (s.respond m c late a).tb = s.tb := by
  obtain ⟨_, _, _, h⟩ := State.respond_ex s m c late a; rw [h]
@[simp] theorem State.respond_chans (m : Nat) (c : Taken) (late : Bool) (a : Resp) : (s.respond m c late a).chans = s.chans := by
  obtain ⟨_, _, _, h⟩ := State.respond_ex s m c late a; rw [h]
@[simp] theorem State.respond_ht (m : Nat) (c : Taken) (late : Bool) (a : Resp) : (s.respond m c late a).ht = s.ht := by
  obtain ⟨_, _, _, h⟩ := State.respond_ex s m c late a; rw [h]
@[simp] theorem State.respond_hotRecord (m : Nat) (c : Taken) (late : Bool) (a : Resp) : (s.respond m c late a).hotRecord = s.hotRecord := by
  obtain ⟨_, _, _, h⟩ := State.respond_ex s m c late a; rw [h]
@[simp] theorem State.respond_probes (m : Nat) (c : Taken) (late : Bool) (a : Resp) : (s.respond m c late a).probes = s.probes := by
  obtain ⟨_, _, _, h⟩ := State.respond_ex s m c late a; rw [h]
@[simp] theorem State.respond_links (m : Nat) (c : Taken) (late : Bool) (a : Resp) : (s.respond m c late a).links = s.links := by
  obtain ⟨_, _, _, h⟩ := State.respond_ex s m c late a; rw [h]
@[simp] theorem State.respond_sb (m : Nat) (c : Taken) (late : Bool) (a : Resp) : (s.respond m c late a).sb = s.sb := by
  obtain ⟨_, _, _, h⟩ := State.respond_ex s m c late a; rw [h]
@[simp] theorem State.respond_trace (m : Nat) (c : Taken) (late : Bool) (a : Resp) : (s.respond m c late a).trace = s.trace := by
  obtain ⟨_, _, _, h⟩ := State.respond_ex s m c late a; rw [h]
@[simp] theorem State.respond_sec (m : Nat) (c : Taken) (late : Bool) (a : Resp) : (s.respond m c late a).sec = s.sec := by
  obtain ⟨_, _, _, h⟩ := State.respond_ex s m c late a; rw [h]
@[simp] theorem State.respond_gddr (m : Nat) (c : Taken) (late : Bool) (a : Resp) : (s.respond m c late a).gddr = s.gddr := by
  obtain ⟨_, _, _, h⟩ := State.respond_ex s m c late a; rw [h]
@[simp] theorem State.respond_rdata (m : Nat) (c : Taken) (late : Bool) (a : Resp) : (s.respond m c late a).rdata = s.rdata := by
  obtain ⟨_, _, _, h⟩ := State.respond_ex s m c late a; rw [h]
@[simp] theorem State.respond_free (m : Nat) (c : Taken) (late : Bool) (a : Resp) : (s.respond m c late a).free = s.free := by
  obtain ⟨_, _, _, h⟩ := State.respond_ex s m c late a; rw [h]
@[simp] theorem State.respond_pending (m : Nat) (c : Taken) (late : Bool) (a : Resp) : (s.respond m c late a).pending = s.pending := by
  obtain ⟨_, _, _, h⟩ := State.respond_ex s m c late a; rw [h]

theorem State.respond_rd (m : Nat) (c : Taken) (late : Bool) (a : Resp) {a₀ : Nat} (h0 : a₀ ≠ Adr.MBX_RSP_PI m) (h1 : a₀ ≠ (causeFld m).addr) : (s.respond m c late a).rd a₀ = s.rd a₀ := by
  unfold State.respond; split
  · rfl
  · exact State.postSlot_rd _ _ _ h0 h1

/-! ### `cdcLoc` -/

theorem State.cdcLoc_ex (kind cls idx sev : Nat) : ∃ x0 x1, s.cdcLoc kind cls idx sev = { s with regs := x0, sb := x1 } := by
  unfold State.cdcLoc; split
  · exact ⟨_, _, rfl⟩
  · obtain ⟨r, h⟩ := State.puts_ex s [(Reg.CHIP_CDC_LOC_VALID, 1), (Reg.CHIP_CDC_LOC_KIND, kind), (Reg.CHIP_CDC_LOC_CLASS, cls), (Reg.CHIP_CDC_LOC_INDEX, idx)]
    change ((((s.set1 Reg.CHIP_CDC_LOC_VALID).put Reg.CHIP_CDC_LOC_KIND kind).put Reg.CHIP_CDC_LOC_CLASS cls).put
      Reg.CHIP_CDC_LOC_INDEX idx) = _ at h
    obtain ⟨r', b, h'⟩ := State.groomRec_ex { s with regs := r } 0 sev 0x42 (argOf (kind + 256 * cls) idx)
    rw [h, h']; exact ⟨_, _, rfl⟩

@[simp] theorem State.cdcLoc_latch (kind cls idx sev : Nat) : (s.cdcLoc kind cls idx sev).latch = s.latch := by
  obtain ⟨_, _, h⟩ := State.cdcLoc_ex s kind cls idx sev; rw [h]
@[simp] theorem State.cdcLoc_teams (kind cls idx sev : Nat) : (s.cdcLoc kind cls idx sev).teams = s.teams := by
  obtain ⟨_, _, h⟩ := State.cdcLoc_ex s kind cls idx sev; rw [h]
@[simp] theorem State.cdcLoc_routers (kind cls idx sev : Nat) : (s.cdcLoc kind cls idx sev).routers = s.routers := by
  obtain ⟨_, _, h⟩ := State.cdcLoc_ex s kind cls idx sev; rw [h]
@[simp] theorem State.cdcLoc_chip (kind cls idx sev : Nat) : (s.cdcLoc kind cls idx sev).chip = s.chip := by
  obtain ⟨_, _, h⟩ := State.cdcLoc_ex s kind cls idx sev; rw [h]
@[simp] theorem State.cdcLoc_fuses (kind cls idx sev : Nat) : (s.cdcLoc kind cls idx sev).fuses = s.fuses := by
  obtain ⟨_, _, h⟩ := State.cdcLoc_ex s kind cls idx sev; rw [h]
@[simp] theorem State.cdcLoc_ds (kind cls idx sev : Nat) : (s.cdcLoc kind cls idx sev).ds = s.ds := by
  obtain ⟨_, _, h⟩ := State.cdcLoc_ex s kind cls idx sev; rw [h]
@[simp] theorem State.cdcLoc_cap (kind cls idx sev : Nat) : (s.cdcLoc kind cls idx sev).cap = s.cap := by
  obtain ⟨_, _, h⟩ := State.cdcLoc_ex s kind cls idx sev; rw [h]
@[simp] theorem State.cdcLoc_lanes (kind cls idx sev : Nat) : (s.cdcLoc kind cls idx sev).lanes = s.lanes := by
  obtain ⟨_, _, h⟩ := State.cdcLoc_ex s kind cls idx sev; rw [h]
@[simp] theorem State.cdcLoc_tb (kind cls idx sev : Nat) : (s.cdcLoc kind cls idx sev).tb = s.tb := by
  obtain ⟨_, _, h⟩ := State.cdcLoc_ex s kind cls idx sev; rw [h]
@[simp] theorem State.cdcLoc_chans (kind cls idx sev : Nat) : (s.cdcLoc kind cls idx sev).chans = s.chans := by
  obtain ⟨_, _, h⟩ := State.cdcLoc_ex s kind cls idx sev; rw [h]
@[simp] theorem State.cdcLoc_ht (kind cls idx sev : Nat) : (s.cdcLoc kind cls idx sev).ht = s.ht := by
  obtain ⟨_, _, h⟩ := State.cdcLoc_ex s kind cls idx sev; rw [h]
@[simp] theorem State.cdcLoc_hotRecord (kind cls idx sev : Nat) : (s.cdcLoc kind cls idx sev).hotRecord = s.hotRecord := by
  obtain ⟨_, _, h⟩ := State.cdcLoc_ex s kind cls idx sev; rw [h]
@[simp] theorem State.cdcLoc_probes (kind cls idx sev : Nat) : (s.cdcLoc kind cls idx sev).probes = s.probes := by
  obtain ⟨_, _, h⟩ := State.cdcLoc_ex s kind cls idx sev; rw [h]
@[simp] theorem State.cdcLoc_links (kind cls idx sev : Nat) : (s.cdcLoc kind cls idx sev).links = s.links := by
  obtain ⟨_, _, h⟩ := State.cdcLoc_ex s kind cls idx sev; rw [h]
@[simp] theorem State.cdcLoc_boxes (kind cls idx sev : Nat) : (s.cdcLoc kind cls idx sev).boxes = s.boxes := by
  obtain ⟨_, _, h⟩ := State.cdcLoc_ex s kind cls idx sev; rw [h]
@[simp] theorem State.cdcLoc_pcie (kind cls idx sev : Nat) : (s.cdcLoc kind cls idx sev).pcie = s.pcie := by
  obtain ⟨_, _, h⟩ := State.cdcLoc_ex s kind cls idx sev; rw [h]
@[simp] theorem State.cdcLoc_trace (kind cls idx sev : Nat) : (s.cdcLoc kind cls idx sev).trace = s.trace := by
  obtain ⟨_, _, h⟩ := State.cdcLoc_ex s kind cls idx sev; rw [h]
@[simp] theorem State.cdcLoc_sec (kind cls idx sev : Nat) : (s.cdcLoc kind cls idx sev).sec = s.sec := by
  obtain ⟨_, _, h⟩ := State.cdcLoc_ex s kind cls idx sev; rw [h]
@[simp] theorem State.cdcLoc_gddr (kind cls idx sev : Nat) : (s.cdcLoc kind cls idx sev).gddr = s.gddr := by
  obtain ⟨_, _, h⟩ := State.cdcLoc_ex s kind cls idx sev; rw [h]
@[simp] theorem State.cdcLoc_rdata (kind cls idx sev : Nat) : (s.cdcLoc kind cls idx sev).rdata = s.rdata := by
  obtain ⟨_, _, h⟩ := State.cdcLoc_ex s kind cls idx sev; rw [h]
@[simp] theorem State.cdcLoc_free (kind cls idx sev : Nat) : (s.cdcLoc kind cls idx sev).free = s.free := by
  obtain ⟨_, _, h⟩ := State.cdcLoc_ex s kind cls idx sev; rw [h]
@[simp] theorem State.cdcLoc_pending (kind cls idx sev : Nat) : (s.cdcLoc kind cls idx sev).pending = s.pending := by
  obtain ⟨_, _, h⟩ := State.cdcLoc_ex s kind cls idx sev; rw [h]

theorem State.cdcLoc_rd (kind cls idx sev : Nat) {a₀ : Nat} (h0 : a₀ ≠ Adr.CHIP_CDC_LOC) (h1 : a₀ ≠ Adr.SB_DROP) : (s.cdcLoc kind cls idx sev).rd a₀ = s.rd a₀ := by
  unfold State.cdcLoc; split
  · rfl
  · rw [State.groomRec_rd _ _ _ _ _ h1, State.rd_put_other _ _ h0, State.rd_put_other _ _ h0, State.rd_put_other _ _ h0, State.set1, State.rd_put_other _ _ h0]

/-! ### `overrun` -/

theorem State.overrun_ex (src : Nat) : ∃ x0 x1, s.overrun src = { s with regs := x0, sb := x1 } := by
  unfold State.overrun
  obtain ⟨r, b, h⟩ := State.cdcLoc_ex (s.set1 Reg.CHIP_CDC_STAT_OVERRUN) 1 7 (Config.interruptNo src).toNat 2
  obtain ⟨r', h'⟩ := State.set1_ex s Reg.CHIP_CDC_STAT_OVERRUN
  rw [h, h']; exact ⟨_, _, rfl⟩

@[simp] theorem State.overrun_latch (src : Nat) : (s.overrun src).latch = s.latch := by
  obtain ⟨_, _, h⟩ := State.overrun_ex s src; rw [h]
@[simp] theorem State.overrun_teams (src : Nat) : (s.overrun src).teams = s.teams := by
  obtain ⟨_, _, h⟩ := State.overrun_ex s src; rw [h]
@[simp] theorem State.overrun_routers (src : Nat) : (s.overrun src).routers = s.routers := by
  obtain ⟨_, _, h⟩ := State.overrun_ex s src; rw [h]
@[simp] theorem State.overrun_chip (src : Nat) : (s.overrun src).chip = s.chip := by
  obtain ⟨_, _, h⟩ := State.overrun_ex s src; rw [h]
@[simp] theorem State.overrun_fuses (src : Nat) : (s.overrun src).fuses = s.fuses := by
  obtain ⟨_, _, h⟩ := State.overrun_ex s src; rw [h]
@[simp] theorem State.overrun_ds (src : Nat) : (s.overrun src).ds = s.ds := by
  obtain ⟨_, _, h⟩ := State.overrun_ex s src; rw [h]
@[simp] theorem State.overrun_cap (src : Nat) : (s.overrun src).cap = s.cap := by
  obtain ⟨_, _, h⟩ := State.overrun_ex s src; rw [h]
@[simp] theorem State.overrun_lanes (src : Nat) : (s.overrun src).lanes = s.lanes := by
  obtain ⟨_, _, h⟩ := State.overrun_ex s src; rw [h]
@[simp] theorem State.overrun_tb (src : Nat) : (s.overrun src).tb = s.tb := by
  obtain ⟨_, _, h⟩ := State.overrun_ex s src; rw [h]
@[simp] theorem State.overrun_chans (src : Nat) : (s.overrun src).chans = s.chans := by
  obtain ⟨_, _, h⟩ := State.overrun_ex s src; rw [h]
@[simp] theorem State.overrun_ht (src : Nat) : (s.overrun src).ht = s.ht := by
  obtain ⟨_, _, h⟩ := State.overrun_ex s src; rw [h]
@[simp] theorem State.overrun_hotRecord (src : Nat) : (s.overrun src).hotRecord = s.hotRecord := by
  obtain ⟨_, _, h⟩ := State.overrun_ex s src; rw [h]
@[simp] theorem State.overrun_probes (src : Nat) : (s.overrun src).probes = s.probes := by
  obtain ⟨_, _, h⟩ := State.overrun_ex s src; rw [h]
@[simp] theorem State.overrun_links (src : Nat) : (s.overrun src).links = s.links := by
  obtain ⟨_, _, h⟩ := State.overrun_ex s src; rw [h]
@[simp] theorem State.overrun_boxes (src : Nat) : (s.overrun src).boxes = s.boxes := by
  obtain ⟨_, _, h⟩ := State.overrun_ex s src; rw [h]
@[simp] theorem State.overrun_pcie (src : Nat) : (s.overrun src).pcie = s.pcie := by
  obtain ⟨_, _, h⟩ := State.overrun_ex s src; rw [h]
@[simp] theorem State.overrun_trace (src : Nat) : (s.overrun src).trace = s.trace := by
  obtain ⟨_, _, h⟩ := State.overrun_ex s src; rw [h]
@[simp] theorem State.overrun_sec (src : Nat) : (s.overrun src).sec = s.sec := by
  obtain ⟨_, _, h⟩ := State.overrun_ex s src; rw [h]
@[simp] theorem State.overrun_gddr (src : Nat) : (s.overrun src).gddr = s.gddr := by
  obtain ⟨_, _, h⟩ := State.overrun_ex s src; rw [h]
@[simp] theorem State.overrun_rdata (src : Nat) : (s.overrun src).rdata = s.rdata := by
  obtain ⟨_, _, h⟩ := State.overrun_ex s src; rw [h]
@[simp] theorem State.overrun_free (src : Nat) : (s.overrun src).free = s.free := by
  obtain ⟨_, _, h⟩ := State.overrun_ex s src; rw [h]
@[simp] theorem State.overrun_pending (src : Nat) : (s.overrun src).pending = s.pending := by
  obtain ⟨_, _, h⟩ := State.overrun_ex s src; rw [h]

theorem State.overrun_rd (src : Nat) {a₀ : Nat} (h0 : a₀ ≠ Adr.CHIP_CDC_STAT) (h1 : a₀ ≠ Adr.CHIP_CDC_LOC) (h2 : a₀ ≠ Adr.SB_DROP) : (s.overrun src).rd a₀ = s.rd a₀ := by
  unfold State.overrun
  rw [State.cdcLoc_rd _ _ _ _ _ h1 h2, State.set1, State.rd_put_other _ _ h0]

/-! ### `corrected` -/

theorem State.corrected_ex (t : Nat) (f : Fld) (k : Nat) : ∃ x0 x1, s.corrected t f k = { s with regs := x0, chip := x1 } := by
  unfold State.corrected
  obtain ⟨r, h⟩ := State.sat_ex s f k
  rw [h]; exact ⟨_, _, rfl⟩

@[simp] theorem State.corrected_latch (t : Nat) (f : Fld) (k : Nat) : (s.corrected t f k).latch = s.latch := by
  obtain ⟨_, _, h⟩ := State.corrected_ex s t f k; rw [h]
@[simp] theorem State.corrected_teams (t : Nat) (f : Fld) (k : Nat) : (s.corrected t f k).teams = s.teams := by
  obtain ⟨_, _, h⟩ := State.corrected_ex s t f k; rw [h]
@[simp] theorem State.corrected_routers (t : Nat) (f : Fld) (k : Nat) : (s.corrected t f k).routers = s.routers := by
  obtain ⟨_, _, h⟩ := State.corrected_ex s t f k; rw [h]
@[simp] theorem State.corrected_fuses (t : Nat) (f : Fld) (k : Nat) : (s.corrected t f k).fuses = s.fuses := by
  obtain ⟨_, _, h⟩ := State.corrected_ex s t f k; rw [h]
@[simp] theorem State.corrected_ds (t : Nat) (f : Fld) (k : Nat) : (s.corrected t f k).ds = s.ds := by
  obtain ⟨_, _, h⟩ := State.corrected_ex s t f k; rw [h]
@[simp] theorem State.corrected_cap (t : Nat) (f : Fld) (k : Nat) : (s.corrected t f k).cap = s.cap := by
  obtain ⟨_, _, h⟩ := State.corrected_ex s t f k; rw [h]
@[simp] theorem State.corrected_lanes (t : Nat) (f : Fld) (k : Nat) : (s.corrected t f k).lanes = s.lanes := by
  obtain ⟨_, _, h⟩ := State.corrected_ex s t f k; rw [h]
@[simp] theorem State.corrected_tb (t : Nat) (f : Fld) (k : Nat) : (s.corrected t f k).tb = s.tb := by
  obtain ⟨_, _, h⟩ := State.corrected_ex s t f k; rw [h]
@[simp] theorem State.corrected_chans (t : Nat) (f : Fld) (k : Nat) : (s.corrected t f k).chans = s.chans := by
  obtain ⟨_, _, h⟩ := State.corrected_ex s t f k; rw [h]
@[simp] theorem State.corrected_ht (t : Nat) (f : Fld) (k : Nat) : (s.corrected t f k).ht = s.ht := by
  obtain ⟨_, _, h⟩ := State.corrected_ex s t f k; rw [h]
@[simp] theorem State.corrected_hotRecord (t : Nat) (f : Fld) (k : Nat) : (s.corrected t f k).hotRecord = s.hotRecord := by
  obtain ⟨_, _, h⟩ := State.corrected_ex s t f k; rw [h]
@[simp] theorem State.corrected_probes (t : Nat) (f : Fld) (k : Nat) : (s.corrected t f k).probes = s.probes := by
  obtain ⟨_, _, h⟩ := State.corrected_ex s t f k; rw [h]
@[simp] theorem State.corrected_links (t : Nat) (f : Fld) (k : Nat) : (s.corrected t f k).links = s.links := by
  obtain ⟨_, _, h⟩ := State.corrected_ex s t f k; rw [h]
@[simp] theorem State.corrected_boxes (t : Nat) (f : Fld) (k : Nat) : (s.corrected t f k).boxes = s.boxes := by
  obtain ⟨_, _, h⟩ := State.corrected_ex s t f k; rw [h]
@[simp] theorem State.corrected_pcie (t : Nat) (f : Fld) (k : Nat) : (s.corrected t f k).pcie = s.pcie := by
  obtain ⟨_, _, h⟩ := State.corrected_ex s t f k; rw [h]
@[simp] theorem State.corrected_sb (t : Nat) (f : Fld) (k : Nat) : (s.corrected t f k).sb = s.sb := by
  obtain ⟨_, _, h⟩ := State.corrected_ex s t f k; rw [h]
@[simp] theorem State.corrected_trace (t : Nat) (f : Fld) (k : Nat) : (s.corrected t f k).trace = s.trace := by
  obtain ⟨_, _, h⟩ := State.corrected_ex s t f k; rw [h]
@[simp] theorem State.corrected_sec (t : Nat) (f : Fld) (k : Nat) : (s.corrected t f k).sec = s.sec := by
  obtain ⟨_, _, h⟩ := State.corrected_ex s t f k; rw [h]
@[simp] theorem State.corrected_gddr (t : Nat) (f : Fld) (k : Nat) : (s.corrected t f k).gddr = s.gddr := by
  obtain ⟨_, _, h⟩ := State.corrected_ex s t f k; rw [h]
@[simp] theorem State.corrected_rdata (t : Nat) (f : Fld) (k : Nat) : (s.corrected t f k).rdata = s.rdata := by
  obtain ⟨_, _, h⟩ := State.corrected_ex s t f k; rw [h]
@[simp] theorem State.corrected_free (t : Nat) (f : Fld) (k : Nat) : (s.corrected t f k).free = s.free := by
  obtain ⟨_, _, h⟩ := State.corrected_ex s t f k; rw [h]
@[simp] theorem State.corrected_pending (t : Nat) (f : Fld) (k : Nat) : (s.corrected t f k).pending = s.pending := by
  obtain ⟨_, _, h⟩ := State.corrected_ex s t f k; rw [h]

theorem State.corrected_rd (t : Nat) (f : Fld) (k : Nat) {a₀ : Nat} (h0 : a₀ ≠ f.addr) : (s.corrected t f k).rd a₀ = s.rd a₀ := by
  exact State.rd_put_other _ _ h0

/-! ### What they do -/

/-- A request while the Saddlebag is open joins the waiting requests. -/
theorem State.request_open (q : SbReq) (h : s.sbClosed = false) :
    s.request q = { s with sb := { s.sb with reqs := s.sb.reqs ++ [q] } } := by
  simp [State.request, h]

/-- A record by hardware while the Saddlebag is open. -/
theorem State.hwRec_open (sev code : Nat) (arg : BitVec 48) (h : s.sbClosed = false) :
    (s.hwRec sev code arg).sb.reqs = s.sb.reqs ++ [⟨4, sev, code, arg, false⟩] := by
  simp [State.hwRec, State.request_open, h]

/-- A record of SEV 3 or more by a Groom while the Saddlebag is open. -/
theorem State.groomRec_open (g sev code : Nat) (arg : BitVec 48) (hs : 2 < sev) (h : s.sbClosed = false) :
    (s.groomRec g sev code arg).sb.reqs = s.sb.reqs ++ [⟨g, sev, code, arg, false⟩] := by
  have : ¬ sev ≤ 2 := by omega
  simp [State.groomRec, this, State.request_open, h]

/-- An event joins a queue that is not full. -/
theorem State.postEvent_room (m : Nat) (e : Event) (h : (s.box m).events.length < 256) :
    ((s.postEvent m e).box m).events = (s.box m).events ++ [e] := by
  simp [State.postEvent, h, State.onBox]

theorem State.postEvent_box_other (m : Nat) (e : Event) {k : Nat} (h : k ≠ m) : (s.postEvent m e).box k = s.box k := by
  unfold State.postEvent
  split
  · simp [State.onBox, State.box_setBox_other _ _ h]
  · simp only [State.onBox, State.box_setBox_other _ _ h]; rfl

end Sys2Proof.Machine
end

