-- ==== Sys2Proof/Laws/Kept.lean ====
section
/-! SUPPORT. What every operation of the model keeps: the queue of waiting commands, the grade, the count of free values (which
only rises) and the canonical forms of the register file and of GDDR6 (`Kept`).  One lemma per operation, in files of Laws that
follow the files of Machine; this file holds the relation and the operations of Ops. -/
namespace Sys2Proof.Machine

/-- From `s` to `t` the queue and the grade stay, no free value is used again, and canonical forms stay canonical. -/
structure Kept (s t : State) : Prop where
  pending : t.pending = s.pending
  small : t.fuses.small = s.fuses.small
  free : s.free ≤ t.free
  wf : s.wf = true → t.wf = true

/-- `Kept` for the state that a pair holds. -/
structure KeptP {α : Type} (s : State) (p : State × α) : Prop where
  fst : Kept s p.1

/-- `Kept` for the state that an option holds. -/
structure KeptO (s : State) (o : Option State) : Prop where
  of : ∀ t, o = some t → Kept s t

/-- `Kept` for the state of the pair that an option holds. -/
structure KeptOP {α : Type} (s : State) (o : Option (State × α)) : Prop where
  of : ∀ t a, o = some (t, a) → Kept s t

/-- `Kept` for the state that a successful outcome holds. -/
structure KeptE {ε : Type} (s : State) (o : Except ε State) : Prop where
  of : ∀ t, o = .ok t → Kept s t

/-- `Kept` for the state that a meaning goes on in. -/
structure KeptOut (s : State) (o : Out) : Prop where
  of : ∀ t, o = .next t → Kept s t

variable {r s t : State} {α : Type}

theorem Kept.refl (s : State) : Kept s s := ⟨rfl, rfl, Nat.le_refl _, id⟩

theorem Kept.trans (h : Kept r s) (k : Kept s t) : Kept r t :=
  ⟨k.pending.trans h.pending, k.small.trans h.small, Nat.le_trans h.free k.free, fun w => k.wf (h.wf w)⟩

theorem Kept.of_wf (h : Kept r s) (hp : t.pending = s.pending) (hs : t.fuses.small = s.fuses.small) (hf : s.free ≤ t.free)
    (hr : Tab.wf regReset s.regs = true → Tab.wf regReset t.regs = true)
    (hg : Memory.wf s.gddr = true → Memory.wf t.gddr = true) : Kept r t :=
  h.trans ⟨hp, hs, hf, fun w => by
    simp only [State.wf, Bool.and_eq_true] at w ⊢
    exact ⟨hr w.1, hg w.2⟩⟩

/-- An update of fields that `Kept` does not speak of; `fuses` and `free` may change as it says. -/
theorem Kept.record (h : Kept r s) {latch teams routers chip} {fuses : Fuses} {ds cap lanes tb chans ht hotRecord probes links boxes pcie sb trace sec rdata}
    {free : Nat} (hs : fuses.small = s.fuses.small) (hf : s.free ≤ free) :
    Kept r (State.mk s.regs latch teams routers chip fuses ds cap lanes tb chans ht hotRecord probes links boxes pcie sb trace
      sec s.gddr rdata free s.pending) :=
  h.of_wf rfl hs hf id id

/-- An update of fields that `Kept` does not speak of changes nothing that it says. -/
theorem Kept.record_iff {latch teams routers chip} {fuses : Fuses} {ds cap lanes tb chans ht hotRecord probes links boxes pcie sb trace sec rdata}
    (hs : fuses.small = s.fuses.small) :
    Kept r (State.mk s.regs latch teams routers chip fuses ds cap lanes tb chans ht hotRecord probes links boxes pcie sb trace
      sec s.gddr rdata s.free s.pending) ↔ Kept r s :=
  ⟨fun h => ⟨h.pending, hs ▸ h.small, h.free, h.wf⟩, fun h => h.record hs (Nat.le_refl _)⟩

theorem Kept.ite {c : Prop} [Decidable c] {a b : State} (h : Kept r a) (k : Kept r b) : Kept r (if c then a else b) := by
  split <;> assumption

theorem Kept.foldl {f : State → α → State} (l : List α) (h : Kept r s) (hf : ∀ s x, Kept r s → Kept r (f s x)) :
    Kept r (l.foldl f s) := by
  induction l generalizing s with
  | nil => exact h
  | cons x l ih => exact ih (hf s x h)

theorem Kept.foldlP {β : Type} {f : State × β → α → State × β} (l : List α) {p : State × β} (h : KeptP r p)
    (hf : ∀ p x, KeptP r p → KeptP r (f p x)) : KeptP r (l.foldl f p) := by
  induction l generalizing p with
  | nil => exact h
  | cons x l ih => exact ih (hf p x h)

theorem Kept.getD {o : Option State} (h : KeptO r o) (k : Kept r s) : Kept r (o.getD s) := by
  cases o with
  | none => exact k
  | some t => exact h.of t rfl

theorem Kept.of_fst {p : State × α} (h : KeptP r p) : Kept r p.1 := h.fst

theorem KeptP.mk_iff {a : α} : KeptP r (s, a) ↔ Kept r s := ⟨fun h => h.fst, fun h => ⟨h⟩⟩

theorem KeptP.ite {c : Prop} [Decidable c] {a b : State × α} (h : KeptP r a) (k : KeptP r b) :
    KeptP r (if c then a else b) := by
  split <;> assumption

theorem Kept.fst_ite {c : Prop} [Decidable c] {a b : State × α} (h : KeptP r (if c then a else b)) :
    Kept r (if c then a else b).1 := h.fst

theorem KeptP.of_eq {p : State × α} {a : α} (e : p = (s, a)) (h : KeptP r p) : Kept r s := by subst e; exact h.fst

theorem KeptO.none : KeptO r none := ⟨fun _ e => by cases e⟩

theorem KeptO.some (h : Kept r s) : KeptO r (Option.some s) := ⟨fun t e => by cases e; exact h⟩

theorem KeptO.ite {c : Prop} [Decidable c] {a b : Option State} (h : KeptO r a) (k : KeptO r b) :
    KeptO r (if c then a else b) := by
  split <;> assumption

theorem KeptO.of_eq {o : Option State} (e : o = Option.some s) (h : KeptO r o) : Kept r s := h.of s e

theorem KeptOP.none : KeptOP (α := α) r Option.none := ⟨fun _ _ e => by cases e⟩

theorem KeptOP.some {a : α} (h : Kept r s) : KeptOP r (Option.some (s, a)) := ⟨fun t b e => by cases e; exact h⟩

theorem KeptOP.some' {p : State × α} (h : KeptP r p) : KeptOP r (Option.some p) := ⟨fun t b e => by cases e; exact h.fst⟩

theorem KeptOP.ite {c : Prop} [Decidable c] {a b : Option (State × α)} (h : KeptOP r a) (k : KeptOP r b) :
    KeptOP r (if c then a else b) := by
  split <;> assumption

theorem KeptOP.of_eq {o : Option (State × α)} {a : α} (e : o = Option.some (s, a)) (h : KeptOP r o) : Kept r s := h.of s a e

theorem KeptE.error {ε : Type} (e : ε) : KeptE r (.error e) := ⟨fun _ e => by cases e⟩

theorem KeptE.ok {ε : Type} (h : Kept r s) : KeptE (ε := ε) r (.ok s) := ⟨fun t e => by cases e; exact h⟩

theorem KeptE.ite {ε : Type} {c : Prop} [Decidable c] {a b : Except ε State} (h : KeptE r a) (k : KeptE r b) :
    KeptE r (if c then a else b) := by
  split <;> assumption

theorem KeptE.of_eq {ε : Type} {o : Except ε State} (e : o = Except.ok s) (h : KeptE r o) : Kept r s := h.of s e

theorem KeptOut.next (h : Kept r s) : KeptOut r (.next s) := ⟨fun t e => by cases e; exact h⟩

theorem KeptOut.onMapped {f : State → State} (n : Nat) (k : Kept r s) (h : Kept r (f s)) : KeptOut r (onMapped n s f) :=
  KeptOut.next (Kept.ite h k)

theorem State.unlessHalted_kept {f : State → State} (k : Kept r s) (h : Kept r (f s)) : KeptOut r (s.unlessHalted f) :=
  KeptOut.next (Kept.ite k h)

/-! ### The operations of Ops -/

theorem State.wr_kept (a : Nat) (v : Word) (h : Kept r s) : Kept r (s.wr a v) :=
  h.of_wf rfl rfl (Nat.le_refl _) (Tab.wf_set _ _ _ _) id

theorem State.put_kept (f : Fld) (v : Nat) (h : Kept r s) : Kept r (s.put f v) := State.wr_kept _ _ h

theorem State.set1_kept (f : Fld) (h : Kept r s) : Kept r (s.set1 f) := State.wr_kept _ _ h

theorem State.clr_kept (f : Fld) (h : Kept r s) : Kept r (s.clr f) := State.wr_kept _ _ h

theorem State.set1If_kept (b : Bool) (f : Fld) (h : Kept r s) : Kept r (s.set1If b f) := by
  unfold State.set1If
  exact Kept.ite (State.set1_kept f h) h

theorem State.sat_kept (f : Fld) (k : Nat) (h : Kept r s) : Kept r (s.sat f k) := State.put_kept _ _ h

theorem State.putPair_kept (lo hi v : Nat) (h : Kept r s) : Kept r (s.putPair lo hi v) :=
  State.wr_kept _ _ (State.wr_kept _ _ h)

theorem State.resetRegs_kept (a st n : Nat) (h : Kept r s) : Kept r (s.resetRegs a st n) := by
  induction n generalizing s with
  | zero => exact h
  | succ n ih => exact ih (State.wr_kept _ _ h)

theorem State.dropRegs_kept (keep : Nat → Bool) (h : Kept r s) : Kept r (s.dropRegs keep) :=
  h.of_wf rfl rfl (Nat.le_refl _) (Tab.wf_filter _ _ _) id

theorem State.setTeam_kept (n : Nat) (m : Team) (h : Kept r s) : Kept r (s.setTeam n m) := h.record rfl (Nat.le_refl _)

theorem State.onTeam_kept (n : Nat) (f : Team → Team) (h : Kept r s) : Kept r (s.onTeam n f) := h.record rfl (Nat.le_refl _)

theorem State.setRouter_kept (n : Nat) (m : Router) (h : Kept r s) : Kept r (s.setRouter n m) := h.record rfl (Nat.le_refl _)

theorem State.onRouter_kept (n : Nat) (f : Router → Router) (h : Kept r s) : Kept r (s.onRouter n f) :=
  h.record rfl (Nat.le_refl _)

theorem State.setLink_kept (n : Nat) (m : Link) (h : Kept r s) : Kept r (s.setLink n m) := h.record rfl (Nat.le_refl _)

theorem State.onLink_kept (n : Nat) (f : Link → Link) (h : Kept r s) : Kept r (s.onLink n f) := h.record rfl (Nat.le_refl _)

theorem State.setBox_kept (n : Nat) (m : Mailbox) (h : Kept r s) : Kept r (s.setBox n m) := h.record rfl (Nat.le_refl _)

theorem State.onBox_kept (n : Nat) (f : Mailbox → Mailbox) (h : Kept r s) : Kept r (s.onBox n f) :=
  h.record rfl (Nat.le_refl _)

theorem State.setChan_kept (c : Nat) (v : Channel) (h : Kept r s) : Kept r (s.setChan c v) := h.record rfl (Nat.le_refl _)

theorem State.onChan_kept (c : Nat) (f : Channel → Channel) (h : Kept r s) : Kept r (s.onChan c f) :=
  h.record rfl (Nat.le_refl _)

theorem State.each_kept {f : Nat → State → State} (n : Nat) (h : Kept r s) (hf : ∀ i s, Kept r s → Kept r (f i s)) :
    Kept r (s.each n f) :=
  Kept.foldl _ h (fun s i k => hf i s k)

theorem State.spend_kept (h : Kept r s) : Kept r s.spend := h.record rfl (Nat.le_succ _)

theorem State.spendN_kept (n : Nat) (h : Kept r s) : Kept r (s.spendN n) := h.record rfl (Nat.le_add_right _ _)

theorem State.setMem_kept (d : Nat) (b : Byte) (h : Kept r s) : Kept r (s.setMem d b) :=
  h.of_wf rfl rfl (Nat.le_refl _) id (Tab.wf_set _ _ _ _)

theorem State.setMemBytes_kept (d : Nat) (bs : List Byte) (h : Kept r s) : Kept r (s.setMemBytes d bs) := by
  induction bs generalizing s d with
  | nil => exact h
  | cons b bs ih => exact ih _ (State.setMem_kept _ _ h)

/-- Leaving bytes of GDDR6 out keeps what `Kept` says. -/
theorem State.filterGddr_kept (f : Host.Cell → Bool) (h : Kept r s) : Kept r { s with gddr := s.gddr.filter f } :=
  h.of_wf rfl rfl (Nat.le_refl _) id (Tab.wf_filter _ _ _)

end Sys2Proof.Machine
end

