-- ==== Sys2Proof/Laws/KeptPacket.lean ====
section
/-! SUPPORT. What the operations of Machine/Packet.lean keep (`Kept`). -/
namespace Sys2Proof.Machine

variable {r s : State}

theorem State.wait_kept (t : Nat) (p : Packet) (h : Kept r s) : Kept r (State.wait s t p) := by
  unfold State.wait
  try dsimp -iota only
  repeat' with_reducible first
    | assumption
    | intro _
    | apply State.onRouter_kept
    | simp only [Kept.record_iff]

theorem State.waitAt_kept (n : Nat) (p : Packet) (h : Kept r s) : Kept r (State.waitAt s n p) := by
  unfold State.waitAt
  try dsimp -iota only
  repeat' with_reducible first
    | assumption
    | apply State.wait_kept
    | simp only [Kept.record_iff]
    | refine KeptP.of_eq (by assumption) ?_ | refine KeptO.of_eq (by assumption) ?_ | refine KeptOP.of_eq (by assumption) ?_ | refine KeptE.of_eq (by assumption) ?_
    | split

end Sys2Proof.Machine
end

