-- ==== Sys2Proof/Laws/KeptReport.lean ====
section
/-! SUPPORT. What the operations of Machine/Report.lean keep (`Kept`). -/
namespace Sys2Proof.Machine

variable {r s : State}

theorem State.emitMsg_kept (v : Nat) (h : Kept r s) : Kept r (State.emitMsg s v) := by
  unfold State.emitMsg
  try dsimp -iota only
  repeat' with_reducible first
    | assumption
    | simp only [Kept.record_iff]

theorem State.sendMsg_kept (v : Nat) (h : Kept r s) : Kept r (State.sendMsg s v) := by
  unfold State.sendMsg
  try dsimp -iota only
  repeat' with_reducible first
    | assumption
    | apply State.emitMsg_kept | apply Kept.ite
    | simp only [Kept.record_iff]

theorem State.raise_kept (v : Nat) (h : Kept r s) : Kept r (State.raise s v) := by
  unfold State.raise
  try dsimp -iota only
  repeat' with_reducible first
    | assumption
    | apply State.set1_kept | apply State.sendMsg_kept | apply Kept.ite

theorem State.peErr_kept (kind status loc : Nat) (h : Kept r s) : Kept r (State.peErr s kind status loc) := by
  unfold State.peErr
  try dsimp -iota only
  repeat' with_reducible first
    | assumption
    | apply State.put_kept | apply State.set1_kept | apply State.raise_kept | apply Kept.ite
    | simp only [Kept.record_iff]

theorem State.postEvent_kept (m : Nat) (e : Event) (h : Kept r s) : Kept r (State.postEvent s m e) := by
  unfold State.postEvent
  try dsimp -iota only
  repeat' with_reducible first
    | assumption
    | intro _
    | apply State.set1_kept | apply State.sat_kept | apply State.onBox_kept | apply Kept.ite
    | simp only [Kept.record_iff]

theorem State.request_kept (a1 : SbReq) (h : Kept r s) : Kept r (State.request s a1) := by
  unfold State.request
  try dsimp -iota only
  repeat' with_reducible first
    | assumption
    | apply State.sat_kept | apply Kept.ite
    | simp only [Kept.record_iff]

theorem State.hwRec_kept (sev code : Nat) (arg : BitVec 48) (h : Kept r s) : Kept r (State.hwRec s sev code arg) := by
  unfold State.hwRec
  try dsimp -iota only
  repeat' with_reducible first
    | assumption
    | apply State.request_kept
    | simp only [Kept.record_iff]

theorem State.groomRec_kept (g sev code : Nat) (arg : BitVec 48) (h : Kept r s) : Kept r (State.groomRec s g sev code arg) := by
  unfold State.groomRec
  try dsimp -iota only
  repeat' with_reducible first
    | assumption
    | apply State.sat_kept | apply State.request_kept | apply Kept.ite
    | simp only [Kept.record_iff]

theorem State.alert_kept (c : Nat) (h : Kept r s) : Kept r (State.alert s c) := by
  unfold State.alert
  try dsimp -iota only
  repeat' with_reducible first
    | assumption
    | apply State.set1_kept | apply Kept.ite
    | simp only [Kept.record_iff]

theorem State.spoil_kept (n : Nat) (h : Kept r s) : Kept r (State.spoil s n) := by
  unfold State.spoil
  try dsimp -iota only
  repeat' with_reducible first
    | assumption
    | apply State.set1_kept | apply State.putPair_kept | apply Kept.ite

theorem State.postSlot_kept (m : Nat) (d : BitVec 512) (h : Kept r s) : Kept r (State.postSlot s m d) := by
  unfold State.postSlot
  try dsimp -iota only
  repeat' with_reducible first
    | assumption
    | intro _
    | apply State.put_kept | apply State.onBox_kept | apply State.raise_kept
    | simp only [Kept.record_iff]

theorem State.respond_kept (m : Nat) (c : Taken) (late : Bool) (a1 : Resp) (h : Kept r s) : Kept r (State.respond s m c late a1) := by
  unfold State.respond
  try dsimp -iota only
  repeat' with_reducible first
    | assumption
    | apply State.postSlot_kept | apply Kept.ite

theorem State.finishAt_kept (m i : Nat) (a1 : Resp) (h : Kept r s) : Kept r (State.finishAt s m i a1) := by
  unfold State.finishAt
  try dsimp -iota only
  repeat' with_reducible first
    | assumption
    | intro _
    | apply State.onBox_kept | apply State.respond_kept
    | simp only [Kept.record_iff]
    | refine KeptP.of_eq (by assumption) ?_ | refine KeptO.of_eq (by assumption) ?_ | refine KeptOP.of_eq (by assumption) ?_ | refine KeptE.of_eq (by assumption) ?_
    | split

theorem State.endLong_kept (a1 : Resp) (h : Kept r s) : Kept r (State.endLong s a1) := by
  unfold State.endLong
  try dsimp -iota only
  repeat' with_reducible first
    | assumption
    | apply State.finishAt_kept
    | simp only [Kept.record_iff]
    | refine KeptP.of_eq (by assumption) ?_ | refine KeptO.of_eq (by assumption) ?_ | refine KeptOP.of_eq (by assumption) ?_ | refine KeptE.of_eq (by assumption) ?_
    | split

theorem State.disarm_kept (h : Kept r s) : Kept r (State.disarm s) := by
  unfold State.disarm
  try dsimp -iota only
  repeat' with_reducible first
    | assumption
    | intro _
    | apply State.clr_kept | apply Kept.ite | apply Kept.foldl | apply Kept.foldlP

theorem State.leaveIdle_kept (h : Kept r s) : Kept r (State.leaveIdle s) := by
  unfold State.leaveIdle
  try dsimp -iota only
  repeat' with_reducible first
    | assumption
    | intro _
    | apply State.onTeam_kept | apply Kept.foldl | apply Kept.foldlP
    | simp only [Kept.record_iff]

theorem State.setMode_kept (m : Nat) (h : Kept r s) : Kept r (State.setMode s m) := by
  unfold State.setMode
  try dsimp -iota only
  repeat' with_reducible first
    | assumption
    | apply State.put_kept | apply State.postEvent_kept | apply State.groomRec_kept | apply State.disarm_kept | apply State.leaveIdle_kept | apply Kept.ite
    | simp only [Kept.record_iff]

end Sys2Proof.Machine
end

