-- ==== Sys2Proof/Laws/KeptCapture.lean ====
section
/-! SUPPORT. What the operations of Machine/Capture.lean keep (`Kept`). -/
namespace Sys2Proof.Machine

variable {r s : State}

theorem State.setChanState_kept (c st : Nat) (h : Kept r s) : Kept r (State.setChanState s c st) := by
  unfold State.setChanState
  try dsimp -iota only
  repeat' with_reducible first
    | assumption
    | apply State.put_kept

theorem State.decideTrigger_kept (n : Nat) (now : Nat) (h : Kept r s) : Kept r (State.decideTrigger s n now) := by
  unfold State.decideTrigger
  try dsimp -iota only
  repeat' with_reducible first
    | assumption
    | intro _
    | apply Kept.ite
    | simp only [Kept.record_iff]

theorem State.tapArrival_kept (t : Nat) (h : Kept r s) : Kept r (State.tapArrival t s) := by
  unfold State.tapArrival
  try dsimp -iota only
  repeat' with_reducible first
    | assumption
    | intro _
    | apply State.setTeam_kept | apply State.decideTrigger_kept | apply Kept.ite | apply Kept.foldl | apply Kept.foldlP
    | simp only [Kept.record_iff]
    | refine KeptP.of_eq (by assumption) ?_ | refine KeptO.of_eq (by assumption) ?_ | refine KeptOP.of_eq (by assumption) ?_ | refine KeptE.of_eq (by assumption) ?_
    | split

theorem execTapSampleArrival_kept (t : Fin 1024) (s : State) : KeptOut s (execTapSampleArrival t s) := by
  have h := Kept.refl s
  unfold execTapSampleArrival
  try dsimp -iota only
  repeat' with_reducible first
    | assumption
    | intro _
    | apply State.tapArrival_kept | apply KeptOut.next | apply KeptOut.onMapped | apply Kept.ite

theorem State.stage_kept (bs : List (Nat × List Byte)) (h : Kept r s) : Kept r (State.stage s bs) := by
  unfold State.stage
  try dsimp -iota only
  repeat' with_reducible first
    | assumption
    | intro _
    | apply State.onChan_kept | apply Kept.ite | apply Kept.foldl | apply Kept.foldlP
    | simp only [Kept.record_iff]

theorem State.capSettle_kept (h : Kept r s) : Kept r (State.capSettle s) := by
  unfold State.capSettle
  try dsimp -iota only
  repeat' with_reducible first
    | assumption
    | apply State.put_kept | apply State.postEvent_kept | apply Kept.ite
    | simp only [Kept.record_iff]
    | refine KeptP.of_eq (by assumption) ?_ | refine KeptO.of_eq (by assumption) ?_ | refine KeptOP.of_eq (by assumption) ?_ | refine KeptE.of_eq (by assumption) ?_
    | split

theorem State.capStop_kept (st stride : Nat) (h : Kept r s) : Kept r (State.capStop s st stride) := by
  unfold State.capStop
  try dsimp -iota only
  repeat' with_reducible first
    | assumption
    | apply State.putPair_kept | apply State.capSettle_kept
    | simp only [Kept.record_iff]

theorem State.spill_kept (full : List Nat) (h : Kept r s) : Kept r (State.spill s full) := by
  unfold State.spill
  try dsimp -iota only
  repeat' with_reducible first
    | assumption
    | intro _
    | apply State.wait_kept | apply Kept.ite | apply Kept.foldl | apply Kept.foldlP
    | simp only [Kept.record_iff]
    | refine KeptP.of_eq (by assumption) ?_ | refine KeptO.of_eq (by assumption) ?_ | refine KeptOP.of_eq (by assumption) ?_ | refine KeptE.of_eq (by assumption) ?_
    | split

theorem State.capRecord_kept (full : List Nat) (h : Kept r s) : Kept r (State.capRecord full s) := by
  unfold State.capRecord
  try dsimp -iota only
  repeat' with_reducible first
    | assumption
    | apply State.put_kept | apply State.set1_kept | apply State.sat_kept | apply State.putPair_kept | apply State.postEvent_kept | apply State.stage_kept | apply State.capSettle_kept | apply State.capStop_kept | apply State.spill_kept | apply Kept.ite
    | simp only [Kept.record_iff]
    | refine KeptP.of_eq (by assumption) ?_ | refine KeptO.of_eq (by assumption) ?_ | refine KeptOP.of_eq (by assumption) ?_ | refine KeptE.of_eq (by assumption) ?_
    | split

theorem State.captureRecord_kept (full : List Nat) (h : Kept r s) : Kept r (State.captureRecord full s) := by
  unfold State.captureRecord
  try dsimp -iota only
  repeat' with_reducible first
    | assumption
    | apply State.capSettle_kept | apply State.spill_kept | apply State.capRecord_kept | apply Kept.ite

theorem execCaptureRecord_kept (full : List Nat) (s : State) : KeptOut s (execCaptureRecord full s) := by
  have h := Kept.refl s
  unfold execCaptureRecord
  try dsimp -iota only
  repeat' with_reducible first
    | assumption
    | apply State.captureRecord_kept | apply KeptOut.next

theorem State.capArm_kept (h : Kept r s) : Kept r (State.capArm s) := by
  unfold State.capArm
  try dsimp -iota only
  repeat' with_reducible first
    | assumption
    | apply State.put_kept | apply State.set1_kept | apply State.clr_kept | apply Kept.ite
    | simp only [Kept.record_iff]

theorem execCapArm_kept (s : State) : KeptOut s (execCapArm s) := by
  have h := Kept.refl s
  unfold execCapArm
  try dsimp -iota only
  repeat' with_reducible first
    | assumption
    | apply State.capArm_kept | apply KeptOut.next

theorem State.capStopReq_kept (h : Kept r s) : Kept r (State.capStopReq s) := by
  unfold State.capStopReq
  try dsimp -iota only
  repeat' with_reducible first
    | assumption
    | apply Kept.ite
    | simp only [Kept.record_iff]

theorem execCapStop_kept (s : State) : KeptOut s (execCapStop s) := by
  have h := Kept.refl s
  unfold execCapStop
  try dsimp -iota only
  repeat' with_reducible first
    | assumption
    | apply State.capStopReq_kept | apply KeptOut.next

theorem State.capForce_kept (h : Kept r s) : Kept r (State.capForce s) := by
  unfold State.capForce
  try dsimp -iota only
  repeat' with_reducible first
    | assumption
    | apply State.set1_kept | apply Kept.ite
    | simp only [Kept.record_iff]

theorem execCapForce_kept (s : State) : KeptOut s (execCapForce s) := by
  have h := Kept.refl s
  unfold execCapForce
  try dsimp -iota only
  repeat' with_reducible first
    | assumption
    | apply State.capForce_kept | apply KeptOut.next

theorem State.capDisarm_kept (h : Kept r s) : Kept r (State.capDisarm s) := by
  unfold State.capDisarm
  try dsimp -iota only
  repeat' with_reducible first
    | assumption
    | apply State.put_kept | apply Kept.ite

theorem execCapDisarm_kept (s : State) : KeptOut s (execCapDisarm s) := by
  have h := Kept.refl s
  unfold execCapDisarm
  try dsimp -iota only
  repeat' with_reducible first
    | assumption
    | apply State.capDisarm_kept | apply KeptOut.next

end Sys2Proof.Machine
end

