-- ==== Sys2Proof/Laws/KeptHitchCfg.lean ====
section
/-! SUPPORT. What the operations of Machine/HitchCfg.lean keep (`Kept`). -/
namespace Sys2Proof.Machine

variable {r s : State}

theorem State.hitchBanks_kept (h : Kept r s) : Kept r (State.hitchBanks s) := by
  unfold State.hitchBanks
  try dsimp -iota only
  repeat' with_reducible first
    | assumption
    | intro _
    | apply State.put_kept | apply Kept.ite | apply Kept.foldl | apply Kept.foldlP
    | simp only [Kept.record_iff]

end Sys2Proof.Machine
end

