-- ==== Sys2Proof/Laws/KeptHold.lean ====
section
/-! SUPPORT. What the operations of Machine/Hold.lean keep (`Kept`). -/
namespace Sys2Proof.Machine

variable {r s : State}

theorem State.say_kept (n : Nat) (m : Flit) (h : Kept r s) : Kept r (State.say s n m) := by
  unfold State.say
  try dsimp -iota only
  repeat' with_reducible first
    | assumption
    | intro _
    | apply State.onLink_kept
    | simp only [Kept.record_iff]

theorem State.sayAll_kept (ns : List Nat) (m : Flit) (h : Kept r s) : Kept r (State.sayAll s ns m) := by
  unfold State.sayAll
  try dsimp -iota only
  repeat' with_reducible first
    | assumption
    | intro _
    | apply State.say_kept | apply Kept.foldl | apply Kept.foldlP

theorem State.undecide_kept (h : Kept r s) : Kept r (State.undecide s) := by
  unfold State.undecide
  try dsimp -iota only
  repeat' with_reducible first
    | assumption
    | intro _
    | apply State.wr_kept | apply State.put_kept | apply State.set1If_kept | apply State.each_kept | apply Kept.ite
    | simp only [Kept.record_iff]
    | refine KeptP.of_eq (by assumption) ?_ | refine KeptO.of_eq (by assumption) ?_ | refine KeptOP.of_eq (by assumption) ?_ | refine KeptE.of_eq (by assumption) ?_
    | split

theorem State.adoptHold_kept (a1 reason part : Nat) (via : List Nat) (h : Kept r s) : Kept r (State.adoptHold s a1 reason part via) := by
  unfold State.adoptHold
  try dsimp -iota only
  repeat' with_reducible first
    | assumption
    | apply State.set1_kept | apply State.clr_kept | apply State.sat_kept | apply State.putPair_kept | apply State.sayAll_kept | apply State.undecide_kept | apply Kept.ite
    | simp only [Kept.record_iff]

theorem State.requestHold_kept (reason : Nat) (h : Kept r s) : Kept r (State.requestHold s reason) := by
  unfold State.requestHold
  try dsimp -iota only
  repeat' with_reducible first
    | assumption
    | apply State.adoptHold_kept | apply Kept.ite

theorem State.release_kept (h : Kept r s) : Kept r (State.release s) := by
  unfold State.release
  try dsimp -iota only
  repeat' with_reducible first
    | assumption
    | apply State.put_kept | apply State.clr_kept | apply State.sayAll_kept | apply Kept.ite

theorem State.holdRequest_kept (h : Kept r s) : Kept r (State.holdRequest s) := by
  unfold State.holdRequest
  try dsimp -iota only
  repeat' with_reducible first
    | assumption
    | apply State.requestHold_kept

theorem execHoldRequest_kept (s : State) : KeptOut s (execHoldRequest s) := by
  have h := Kept.refl s
  unfold execHoldRequest
  try dsimp -iota only
  repeat' with_reducible first
    | assumption
    | apply State.holdRequest_kept | apply KeptOut.next

theorem execReleaseRequest_kept (s : State) : KeptOut s (execReleaseRequest s) := by
  have h := Kept.refl s
  unfold execReleaseRequest
  try dsimp -iota only
  repeat' with_reducible first
    | assumption
    | apply State.release_kept | apply KeptOut.next

end Sys2Proof.Machine
end

