-- ==== Sys2Proof/Laws/KeptQuarantine.lean ====
section
/-! SUPPORT. What the operations of Machine/Quarantine.lean keep (`Kept`). -/
namespace Sys2Proof.Machine

variable {r s : State}

theorem State.freezeRec_kept (src sev code : Nat) (arg : BitVec 48) (h : Kept r s) : Kept r (State.freezeRec s src sev code arg) := by
  unfold State.freezeRec
  try dsimp -iota only
  repeat' with_reducible first
    | assumption
    | apply State.sat_kept | apply Kept.ite
    | simp only [Kept.record_iff]

theorem State.endLongMode_kept (mode : Nat) (h : Kept r s) : Kept r (State.endLongMode s mode) := by
  unfold State.endLongMode
  try dsimp -iota only
  repeat' with_reducible first
    | assumption
    | apply State.endLong_kept

theorem State.storeReady_kept (h : Kept r s) : Kept r (State.storeReady s) := by
  unfold State.storeReady
  try dsimp -iota only
  repeat' with_reducible first
    | assumption
    | intro _
    | apply State.capRecord_kept | apply Kept.foldl | apply Kept.foldlP

theorem State.capQuarantine_kept (h : Kept r s) : Kept r (State.capQuarantine s) := by
  unfold State.capQuarantine
  try dsimp -iota only
  repeat' with_reducible first
    | assumption
    | apply State.capStop_kept | apply State.storeReady_kept | apply Kept.ite

theorem State.enterQuarantine_kept (cause cinfo : Nat) (h : Kept r s) : Kept r (State.enterQuarantine s cause cinfo) := by
  unfold State.enterQuarantine
  try dsimp -iota only
  repeat' with_reducible first
    | assumption
    | apply State.put_kept | apply State.clr_kept | apply State.raise_kept | apply State.postEvent_kept | apply State.hwRec_kept | apply State.alert_kept | apply State.setMode_kept | apply State.hitchBanks_kept | apply State.adoptHold_kept | apply State.freezeRec_kept | apply State.endLongMode_kept | apply State.capQuarantine_kept | apply Kept.ite
    | simp only [Kept.record_iff]

theorem State.halt_kept (why groom : Nat) (h : Kept r s) : Kept r (State.halt s why groom) := by
  unfold State.halt
  try dsimp -iota only
  repeat' with_reducible first
    | assumption
    | apply State.freezeRec_kept | apply Kept.ite
    | simp only [Kept.record_iff]

end Sys2Proof.Machine
end

