-- ==== Sys2Proof/Laws/KeptCheck.lean ====
section
/-! SUPPORT. What the operations of Machine/Check.lean keep (`Kept`). -/
namespace Sys2Proof.Machine

variable {r s : State}

theorem State.checkReport_kept (t code : Nat) (h : Kept r s) : Kept r (State.checkReport s t code) := by
  unfold State.checkReport
  try dsimp -iota only
  repeat' with_reducible first
    | assumption
    | intro _
    | apply State.onTeam_kept | apply State.postEvent_kept | apply State.groomRec_kept | apply State.requestHold_kept | apply Kept.ite
    | simp only [Kept.record_iff]

theorem State.rtrLoc_kept (t kind port addr : Nat) (h : Kept r s) : Kept r (State.rtrLoc s t kind port addr) := by
  unfold State.rtrLoc
  try dsimp -iota only
  repeat' with_reducible first
    | assumption
    | apply State.put_kept | apply State.set1_kept | apply Kept.ite

theorem State.rtrFault_kept (t b kind port addr : Nat) (h : Kept r s) : Kept r (State.rtrFault s t b kind port addr) := by
  unfold State.rtrFault
  try dsimp -iota only
  repeat' with_reducible first
    | assumption
    | apply State.set1_kept | apply State.groomRec_kept | apply State.spoil_kept | apply State.checkReport_kept | apply State.rtrLoc_kept | apply Kept.ite
    | simp only [Kept.record_iff]

theorem State.corrected_kept (t : Nat) (f : Fld) (k : Nat) (h : Kept r s) : Kept r (State.corrected s t f k) := by
  unfold State.corrected
  try dsimp -iota only
  repeat' with_reducible first
    | assumption
    | apply State.sat_kept
    | simp only [Kept.record_iff]

end Sys2Proof.Machine
end

