-- ==== Sys2Proof/Laws/KeptErrors.lean ====
section
/-! SUPPORT. What the operations of Machine/Errors.lean keep (`Kept`). -/
namespace Sys2Proof.Machine

variable {r s : State}

theorem State.cdcLoc_kept (kind cls idx sev : Nat) (h : Kept r s) : Kept r (State.cdcLoc s kind cls idx sev) := by
  unfold State.cdcLoc
  try dsimp -iota only
  repeat' with_reducible first
    | assumption
    | apply State.put_kept | apply State.set1_kept | apply State.groomRec_kept | apply Kept.ite

theorem State.overrun_kept (src : Nat) (h : Kept r s) : Kept r (State.overrun s src) := by
  unfold State.overrun
  try dsimp -iota only
  repeat' with_reducible first
    | assumption
    | apply State.set1_kept | apply State.cdcLoc_kept

theorem State.bpErrs_kept (t p : Nat) (es : List BpErr) (h : Kept r s) : Kept r (State.bpErrs s t p es) := by
  unfold State.bpErrs
  try dsimp -iota only
  repeat' with_reducible first
    | assumption
    | intro _
    | apply State.put_kept | apply State.set1_kept | apply State.postEvent_kept | apply State.groomRec_kept | apply State.checkReport_kept | apply Kept.ite | apply Kept.foldl | apply Kept.foldlP
    | simp only [Kept.record_iff]
    | refine KeptP.of_eq (by assumption) ?_ | refine KeptO.of_eq (by assumption) ?_ | refine KeptOP.of_eq (by assumption) ?_ | refine KeptE.of_eq (by assumption) ?_
    | split

theorem State.wuErrs_kept (t n : Nat) (es : List WuErr) (h : Kept r s) : Kept r (State.wuErrs s t n es) := by
  unfold State.wuErrs
  try dsimp -iota only
  repeat' with_reducible first
    | assumption
    | intro _
    | apply State.put_kept | apply State.set1_kept | apply State.postEvent_kept | apply State.groomRec_kept | apply State.checkReport_kept | apply Kept.ite | apply Kept.foldl | apply Kept.foldlP
    | simp only [Kept.record_iff]
    | refine KeptP.of_eq (by assumption) ?_ | refine KeptO.of_eq (by assumption) ?_ | refine KeptOP.of_eq (by assumption) ?_ | refine KeptE.of_eq (by assumption) ?_
    | split

theorem State.dmLoc_kept (t kind port addr : Nat) (h : Kept r s) : Kept r (State.dmLoc s t kind port addr) := by
  unfold State.dmLoc
  try dsimp -iota only
  repeat' with_reducible first
    | assumption
    | apply State.put_kept | apply State.set1_kept | apply Kept.ite

theorem State.dmBusy_kept (t addr : Nat) (h : Kept r s) : Kept r (State.dmBusy s t addr) := by
  unfold State.dmBusy
  try dsimp -iota only
  repeat' with_reducible first
    | assumption
    | apply State.set1_kept | apply State.checkReport_kept | apply State.dmLoc_kept

theorem State.dmCorrected_kept (t : Nat) (h : Kept r s) : Kept r (State.dmCorrected s t) := by
  unfold State.dmCorrected
  try dsimp -iota only
  repeat' with_reducible first
    | assumption
    | apply State.set1_kept | apply State.corrected_kept

theorem State.dmUe_kept (t port addr : Nat) (h : Kept r s) : Kept r (State.dmUe s t port addr) := by
  unfold State.dmUe
  try dsimp -iota only
  repeat' with_reducible first
    | assumption
    | apply State.set1_kept | apply State.postEvent_kept | apply State.groomRec_kept | apply State.spoil_kept | apply State.dmLoc_kept
    | simp only [Kept.record_iff]

theorem State.dmChecked_kept (t port addr : Nat) (c : MemCheck) (h : Kept r s) : Kept r (State.dmChecked s t port addr c) := by
  unfold State.dmChecked
  try dsimp -iota only
  repeat' with_reducible first
    | assumption
    | apply State.dmCorrected_kept | apply State.dmUe_kept
    | simp only [Kept.record_iff]
    | refine KeptP.of_eq (by assumption) ?_ | refine KeptO.of_eq (by assumption) ?_ | refine KeptOP.of_eq (by assumption) ?_ | refine KeptE.of_eq (by assumption) ?_
    | split

theorem State.dmBankOff_kept (t port addr : Nat) (h : Kept r s) : Kept r (State.dmBankOff s t port addr) := by
  unfold State.dmBankOff
  try dsimp -iota only
  repeat' with_reducible first
    | assumption
    | apply State.set1_kept | apply State.dmLoc_kept

theorem State.isCorrected_kept (t : Nat) (h : Kept r s) : Kept r (State.isCorrected s t) := by
  unfold State.isCorrected
  try dsimp -iota only
  repeat' with_reducible first
    | assumption
    | apply State.set1_kept | apply State.corrected_kept

theorem State.isUe_kept (t unit addr : Nat) (h : Kept r s) : Kept r (State.isUe s t unit addr) := by
  unfold State.isUe
  try dsimp -iota only
  repeat' with_reducible first
    | assumption
    | apply State.enterQuarantine_kept

end Sys2Proof.Machine
end

