-- ==== Sys2Proof/Laws/KeptSlots.lean ====
section
/-! SUPPORT. What the operations of Machine/Slots.lean keep (`Kept`). -/
namespace Sys2Proof.Machine

variable {r s : State}

theorem State.ssW0_kept (t : Nat) (w : W24) (h : Kept r s) : Kept r (State.ssW0 t w s) := by
  unfold State.ssW0
  try dsimp -iota only
  repeat' with_reducible first
    | assumption
    | intro _
    | apply State.onRouter_kept
    | simp only [Kept.record_iff]

theorem execSsW0Write_kept (t : Fin 1024) (w : W24) (s : State) : KeptOut s (execSsW0Write t w s) := by
  have h := Kept.refl s
  unfold execSsW0Write
  try dsimp -iota only
  repeat' with_reducible first
    | assumption
    | apply State.ssW0_kept | apply KeptOut.next | apply KeptOut.onMapped

theorem State.ssW1_kept (t : Nat) (w : W24) (h : Kept r s) : Kept r (State.ssW1 t w s) := by
  unfold State.ssW1
  try dsimp -iota only
  repeat' with_reducible first
    | assumption
    | apply State.put_kept | apply State.set1_kept | apply State.setRouter_kept | apply Kept.ite
    | simp only [Kept.record_iff]

theorem execSsW1Write_kept (t : Fin 1024) (w : W24) (s : State) : KeptOut s (execSsW1Write t w s) := by
  have h := Kept.refl s
  unfold execSsW1Write
  try dsimp -iota only
  repeat' with_reducible first
    | assumption
    | apply State.ssW1_kept | apply KeptOut.next | apply KeptOut.onMapped

theorem State.swapArm_kept (t : Nat) (h : Kept r s) : Kept r (State.swapArm t s) := by
  unfold State.swapArm
  try dsimp -iota only
  repeat' with_reducible first
    | assumption
    | intro _
    | apply State.set1_kept | apply State.onRouter_kept | apply Kept.ite
    | simp only [Kept.record_iff]

theorem execSwapArm_kept (t : Fin 1024) (s : State) : KeptOut s (execSwapArm t s) := by
  have h := Kept.refl s
  unfold execSwapArm
  try dsimp -iota only
  repeat' with_reducible first
    | assumption
    | apply State.swapArm_kept | apply KeptOut.next | apply KeptOut.onMapped

theorem State.swapScan_kept (t : Nat) (h : Kept r s) : Kept r (State.swapScan t s) := by
  unfold State.swapScan
  try dsimp -iota only
  repeat' with_reducible first
    | assumption
    | intro _
    | apply State.set1_kept | apply State.clr_kept | apply State.onRouter_kept | apply Kept.ite
    | simp only [Kept.record_iff]
    | refine KeptP.of_eq (by assumption) ?_ | refine KeptO.of_eq (by assumption) ?_ | refine KeptOP.of_eq (by assumption) ?_ | refine KeptE.of_eq (by assumption) ?_
    | split

theorem execSwapScanDone_kept (t : Fin 1024) (s : State) : KeptOut s (execSwapScanDone t s) := by
  have h := Kept.refl s
  unfold execSwapScanDone
  try dsimp -iota only
  repeat' with_reducible first
    | assumption
    | apply State.swapScan_kept | apply KeptOut.next | apply KeptOut.onMapped

theorem State.swapAt_kept (t n : Nat) (h : Kept r s) : Kept r (State.swapAt s t n) := by
  unfold State.swapAt
  try dsimp -iota only
  repeat' with_reducible first
    | assumption
    | intro _
    | apply State.put_kept | apply State.set1_kept | apply State.clr_kept | apply State.setRouter_kept | apply Kept.ite | apply Kept.foldl | apply Kept.foldlP
    | simp only [Kept.record_iff]

end Sys2Proof.Machine
end

