-- ==== Sys2Proof/Laws/KeptRouter.lean ====
section
/-! SUPPORT. What the operations of Machine/Router.lean keep (`Kept`). -/
namespace Sys2Proof.Machine

variable {r s : State}

theorem State.sendFlit_kept (t port tag : Nat) (d : Flit) (h : Kept r s) : Kept r (State.sendFlit s t port tag d) := by
  unfold State.sendFlit
  try dsimp -iota only
  repeat' with_reducible first
    | assumption
    | intro _
    | apply State.setRouter_kept | apply State.onRouter_kept
    | simp only [Kept.record_iff]

theorem State.qbound_kept (t port : Nat) (h : Kept r s) : Kept r (State.qbound s t port) := by
  unfold State.qbound
  try dsimp -iota only
  repeat' with_reducible first
    | assumption
    | apply State.put_kept | apply State.set1_kept | apply State.checkReport_kept | apply Kept.ite

theorem State.qboundLd_kept (n t : Nat) (h : Kept r s) : Kept r (State.qboundLd s n t) := by
  unfold State.qboundLd
  try dsimp -iota only
  repeat' with_reducible first
    | assumption
    | apply State.put_kept | apply State.set1_kept | apply State.checkReport_kept | apply Kept.ite

theorem State.deadStatic_kept (t : Nat) (e : BitVec 48) (h : Kept r s) : Kept r (State.deadStatic s t e) := by
  unfold State.deadStatic
  try dsimp -iota only
  repeat' with_reducible first
    | assumption
    | apply State.set1_kept | apply State.enterQuarantine_kept | apply State.rtrLoc_kept

theorem State.takeStatic_kept (t port : Nat) (d : Flit) (h : Kept r s) : Kept r (State.takeStatic s t port d) := by
  unfold State.takeStatic
  try dsimp -iota only
  repeat' with_reducible first
    | assumption
    | apply State.setRouter_kept | apply State.rtrFault_kept | apply State.qbound_kept | apply Kept.ite
    | simp only [Kept.record_iff]

theorem State.probeTrace_kept (t k : Nat) (p : Packet) (h : Kept r s) : Kept r (State.probeTrace s t k p) := by
  unfold State.probeTrace
  try dsimp -iota only
  repeat' with_reducible first
    | assumption
    | apply State.sat_kept | apply State.setRouter_kept | apply Kept.ite
    | simp only [Kept.record_iff]
    | refine KeptP.of_eq (by assumption) ?_ | refine KeptO.of_eq (by assumption) ?_ | refine KeptOP.of_eq (by assumption) ?_ | refine KeptE.of_eq (by assumption) ?_
    | split

theorem State.probePacket_kept (t port dir : Nat) (p : Packet) (h : Kept r s) : Kept r (State.probePacket s t port dir p) := by
  unfold State.probePacket
  try dsimp -iota only
  repeat' with_reducible first
    | assumption
    | intro _
    | apply State.sat_kept | apply State.each_kept | apply State.probeTrace_kept | apply Kept.ite
    | simp only [Kept.record_iff]
    | refine KeptP.of_eq (by assumption) ?_ | refine KeptO.of_eq (by assumption) ?_ | refine KeptOP.of_eq (by assumption) ?_ | refine KeptE.of_eq (by assumption) ?_
    | split

theorem State.probeBlocked_kept (t port dir : Nat) (p : Packet) (blocked : Nat) (h : Kept r s) : Kept r (State.probeBlocked s t port dir p blocked) := by
  unfold State.probeBlocked
  try dsimp -iota only
  repeat' with_reducible first
    | assumption
    | intro _
    | apply State.sat_kept | apply State.each_kept | apply Kept.ite

theorem State.probeStatic_kept (t port dir : Nat) (h : Kept r s) : Kept r (State.probeStatic s t port dir) := by
  unfold State.probeStatic
  try dsimp -iota only
  repeat' with_reducible first
    | assumption
    | intro _
    | apply State.sat_kept | apply State.each_kept | apply Kept.ite

theorem State.giveCredit_kept (t key n : Nat) (h : Kept r s) : Kept r (State.giveCredit s t key n) := by
  unfold State.giveCredit
  try dsimp -iota only
  repeat' with_reducible first
    | assumption
    | intro _
    | apply State.onRouter_kept | apply Kept.ite
    | simp only [Kept.record_iff]

theorem State.injectLocal_kept (t : Nat) (p : Packet) (h : Kept r s) : Kept r (State.injectLocal s t p) := by
  unfold State.injectLocal
  try dsimp -iota only
  repeat' with_reducible first
    | assumption
    | intro _
    | apply State.onRouter_kept | apply State.probePacket_kept
    | simp only [Kept.record_iff]

theorem State.routerAnswer_kept (t : Nat) (p : Packet) (status : Nat) (h : Kept r s) : Kept r (State.routerAnswer s t p status) := by
  unfold State.routerAnswer
  try dsimp -iota only
  repeat' with_reducible first
    | assumption
    | apply State.injectLocal_kept

theorem State.absorb_kept (t : Nat) (p : Packet) (status : Nat) (h : Kept r s) : Kept r (State.absorb s t p status) := by
  unfold State.absorb
  try dsimp -iota only
  repeat' with_reducible first
    | assumption
    | apply State.sat_kept | apply State.routerAnswer_kept | apply Kept.ite

theorem State.takeDynamic_kept (t port tag : Nat) (d : Flit) (h : Kept r s) : Kept r (State.takeDynamic s t port tag d) := by
  unfold State.takeDynamic
  try dsimp -iota only
  repeat' with_reducible first
    | assumption
    | intro _
    | apply State.setRouter_kept | apply State.onRouter_kept | apply State.probePacket_kept | apply State.giveCredit_kept | apply State.absorb_kept | apply Kept.ite
    | simp only [Kept.record_iff]
    | refine KeptP.of_eq (by assumption) ?_ | refine KeptO.of_eq (by assumption) ?_ | refine KeptOP.of_eq (by assumption) ?_ | refine KeptE.of_eq (by assumption) ?_
    | split

theorem State.flitFail_kept (t port : Nat) (h : Kept r s) : Kept r (State.flitFail s t port) := by
  unfold State.flitFail
  try dsimp -iota only
  repeat' with_reducible first
    | assumption
    | apply State.set1_kept | apply State.sat_kept | apply State.setRouter_kept | apply State.groomRec_kept | apply Kept.ite
    | simp only [Kept.record_iff]

theorem State.flitReceive_kept (t port : Nat) (c : Check) (h : Kept r s) : Kept r (State.flitReceive t port c s) := by
  unfold State.flitReceive
  try dsimp -iota only
  repeat' with_reducible first
    | assumption
    | intro _
    | apply State.set1If_kept | apply State.setRouter_kept | apply State.onRouter_kept | apply State.takeStatic_kept | apply State.takeDynamic_kept | apply State.flitFail_kept | apply Kept.ite
    | simp only [Kept.record_iff]
    | refine KeptP.of_eq (by assumption) ?_ | refine KeptO.of_eq (by assumption) ?_ | refine KeptOP.of_eq (by assumption) ?_ | refine KeptE.of_eq (by assumption) ?_
    | split

theorem execFlitReceive_kept (t : Fin 1024) (port : Fin 4) (c : Check) (s : State) : KeptOut s (execFlitReceive t port c s) := by
  have h := Kept.refl s
  unfold execFlitReceive
  try dsimp -iota only
  repeat' with_reducible first
    | assumption
    | intro _
    | apply State.flitReceive_kept | apply KeptOut.next | apply KeptOut.onMapped | apply Kept.ite

theorem State.replay_kept (t port : Nat) (h : Kept r s) : Kept r (State.replay t port s) := by
  unfold State.replay
  try dsimp -iota only
  repeat' with_reducible first
    | assumption
    | intro _
    | apply State.setRouter_kept | apply Kept.ite
    | simp only [Kept.record_iff]

theorem execReplayRequest_kept (t : Fin 1024) (port : Fin 4) (s : State) : KeptOut s (execReplayRequest t port s) := by
  have h := Kept.refl s
  unfold execReplayRequest
  try dsimp -iota only
  repeat' with_reducible first
    | assumption
    | apply State.replay_kept | apply KeptOut.next | apply KeptOut.onMapped

theorem State.packetInject_kept (t i : Nat) (h : Kept r s) : Kept r (State.packetInject t i s) := by
  unfold State.packetInject
  try dsimp -iota only
  repeat' with_reducible first
    | assumption
    | intro _
    | apply State.setRouter_kept | apply State.injectLocal_kept | apply State.routerAnswer_kept | apply Kept.ite
    | simp only [Kept.record_iff]
    | refine KeptP.of_eq (by assumption) ?_ | refine KeptO.of_eq (by assumption) ?_ | refine KeptOP.of_eq (by assumption) ?_ | refine KeptE.of_eq (by assumption) ?_
    | split

theorem execPacketInject_kept (t : Fin 1024) (i : Nat) (s : State) : KeptOut s (execPacketInject t i s) := by
  have h := Kept.refl s
  unfold execPacketInject
  try dsimp -iota only
  repeat' with_reducible first
    | assumption
    | apply State.packetInject_kept | apply KeptOut.next | apply KeptOut.onMapped

theorem State.refill_kept (t : Nat) (h : Kept r s) : Kept r (State.refill t s) := by
  unfold State.refill
  try dsimp -iota only
  repeat' with_reducible first
    | assumption
    | intro _
    | apply State.onRouter_kept | apply Kept.foldl | apply Kept.foldlP
    | simp only [Kept.record_iff]

theorem execRegulatorRefill_kept (t : Fin 1024) (s : State) : KeptOut s (execRegulatorRefill t s) := by
  have h := Kept.refl s
  unfold execRegulatorRefill
  try dsimp -iota only
  repeat' with_reducible first
    | assumption
    | apply State.refill_kept | apply KeptOut.next | apply KeptOut.onMapped

theorem State.packetRoute_kept (t out blocked : Nat) (h : Kept r s) : Kept r (State.packetRoute t out blocked s) := by
  unfold State.packetRoute
  try dsimp -iota only
  repeat' with_reducible first
    | assumption
    | intro _
    | apply State.onRouter_kept | apply State.sendFlit_kept | apply State.probePacket_kept | apply State.probeBlocked_kept | apply State.giveCredit_kept | apply Kept.ite | apply Kept.foldl | apply Kept.foldlP
    | simp only [Kept.record_iff]
    | refine KeptP.of_eq (by assumption) ?_ | refine KeptO.of_eq (by assumption) ?_ | refine KeptOP.of_eq (by assumption) ?_ | refine KeptE.of_eq (by assumption) ?_
    | split

theorem execPacketRoute_kept (t : Fin 1024) (out : Fin 5) (blocked : Nat) (s : State) : KeptOut s (execPacketRoute t out blocked s) := by
  have h := Kept.refl s
  unfold execPacketRoute
  try dsimp -iota only
  repeat' with_reducible first
    | assumption
    | apply State.packetRoute_kept | apply KeptOut.next | apply KeptOut.onMapped

theorem State.creditReturn_kept (t port vc : Nat) (h : Kept r s) : Kept r (State.creditReturn t port vc s) := by
  unfold State.creditReturn
  try dsimp -iota only
  repeat' with_reducible first
    | assumption
    | apply State.setRouter_kept
    | simp only [Kept.record_iff]

theorem execCreditReturn_kept (t : Fin 1024) (port : Fin 4) (vc : Fin 2) (s : State) : KeptOut s (execCreditReturn t port vc s) := by
  have h := Kept.refl s
  unfold execCreditReturn
  try dsimp -iota only
  repeat' with_reducible first
    | assumption
    | intro _
    | apply State.creditReturn_kept | apply KeptOut.next | apply KeptOut.onMapped | apply Kept.ite

theorem State.unfreeze_kept (t : Nat) (h : Kept r s) : Kept r (State.unfreeze s t) := by
  unfold State.unfreeze
  try dsimp -iota only
  repeat' with_reducible first
    | assumption
    | intro _
    | apply State.clr_kept | apply State.onRouter_kept | apply State.giveCredit_kept | apply Kept.foldl | apply Kept.foldlP
    | simp only [Kept.record_iff]

theorem State.freezeBit_kept (t : Nat) (v : Word) (late : Bool) (h : Kept r s) : Kept r (State.freezeBit s t v late) := by
  unfold State.freezeBit
  try dsimp -iota only
  repeat' with_reducible first
    | assumption
    | apply State.set1_kept | apply State.set1If_kept | apply State.unfreeze_kept | apply Kept.ite

theorem State.rtrCtl_kept (t : Nat) (v : Word) (late : Bool) (h : Kept r s) : Kept r (State.rtrCtl s t v late) := by
  unfold State.rtrCtl
  try dsimp -iota only
  repeat' with_reducible first
    | assumption
    | apply State.put_kept | apply State.set1_kept | apply State.swapArm_kept | apply State.freezeBit_kept | apply Kept.ite

theorem execFreezeWrite_kept (t : Fin 1024) (v : Word) (late : Bool) (s : State) : KeptOut s (execFreezeWrite t v late s) := by
  have h := Kept.refl s
  unfold execFreezeWrite
  try dsimp -iota only
  repeat' with_reducible first
    | assumption
    | intro _
    | apply State.rtrCtl_kept | apply KeptOut.next | apply KeptOut.onMapped

theorem execIsolateWrite_kept (t : Fin 1024) (v : Word) (s : State) : KeptOut s (execIsolateWrite t v s) := by
  have h := Kept.refl s
  unfold execIsolateWrite
  try dsimp -iota only
  repeat' with_reducible first
    | assumption
    | intro _
    | apply State.rtrCtl_kept | apply KeptOut.next | apply KeptOut.onMapped

theorem State.freezeDrain_kept (t : Nat) (h : Kept r s) : Kept r (State.freezeDrain t s) := by
  unfold State.freezeDrain
  try dsimp -iota only
  repeat' with_reducible first
    | assumption
    | intro _
    | apply State.setRouter_kept | apply State.giveCredit_kept | apply State.absorb_kept | apply Kept.ite | apply Kept.foldl | apply Kept.foldlP
    | simp only [Kept.record_iff]

theorem execFreezeDrain_kept (t : Fin 1024) (s : State) : KeptOut s (execFreezeDrain t s) := by
  have h := Kept.refl s
  unfold execFreezeDrain
  try dsimp -iota only
  repeat' with_reducible first
    | assumption
    | apply State.freezeDrain_kept | apply KeptOut.next | apply KeptOut.onMapped

theorem State.targetDead_kept (t tgt : Nat) (h : Kept r s) : Kept r (State.targetDead s t tgt) := by
  unfold State.targetDead
  try dsimp -iota only
  repeat' with_reducible first
    | assumption
    | apply State.set1_kept | apply State.postEvent_kept | apply State.groomRec_kept | apply Kept.ite
    | simp only [Kept.record_iff]

theorem State.targetTimeout_kept (t : Nat) (late : Bool) (h : Kept r s) : Kept r (State.targetTimeout t late s) := by
  unfold State.targetTimeout
  try dsimp -iota only
  repeat' with_reducible first
    | assumption
    | apply State.set1_kept | apply State.setRouter_kept | apply State.routerAnswer_kept | apply State.targetDead_kept | apply Kept.ite
    | simp only [Kept.record_iff]
    | refine KeptP.of_eq (by assumption) ?_ | refine KeptO.of_eq (by assumption) ?_ | refine KeptOP.of_eq (by assumption) ?_ | refine KeptE.of_eq (by assumption) ?_
    | split

theorem execTargetTimeout_kept (t : Fin 1024) (late : Bool) (s : State) : KeptOut s (execTargetTimeout t late s) := by
  have h := Kept.refl s
  unfold execTargetTimeout
  try dsimp -iota only
  repeat' with_reducible first
    | assumption
    | apply State.targetTimeout_kept | apply KeptOut.next | apply KeptOut.onMapped

end Sys2Proof.Machine
end

