-- ==== Sys2Proof/Laws/KeptGddr.lean ====
section
/-! SUPPORT. What the operations of Machine/Gddr.lean keep (`Kept`). -/
namespace Sys2Proof.Machine

variable {r s : State}

theorem State.countBurst_kept (c b : Nat) (sched : Bool) (h : Kept r s) : Kept r (State.countBurst s c b sched) := by
  unfold State.countBurst
  try dsimp -iota only
  repeat' with_reducible first
    | assumption
    | intro _
    | apply State.onChan_kept | apply Kept.ite
    | simp only [Kept.record_iff]

theorem State.sqCount_kept (c : Nat) (h : Kept r s) : Kept r (State.sqCount s c) := by
  unfold State.sqCount
  try dsimp -iota only
  repeat' with_reducible first
    | assumption
    | apply State.put_kept | apply Kept.ite

theorem State.handOver_kept (c : Nat) (f : Flit) (h : Kept r s) : Kept r (State.handOver s c f) := by
  unfold State.handOver
  try dsimp -iota only
  repeat' with_reducible first
    | assumption
    | intro _
    | apply State.onChan_kept | apply State.sqCount_kept | apply Kept.ite
    | simp only [Kept.record_iff]

theorem State.gwAnswer_kept (c : Nat) (f : Flit) (status data : Nat) (h : Kept r s) : Kept r (State.gwAnswer s c f status data) := by
  unfold State.gwAnswer
  try dsimp -iota only
  repeat' with_reducible first
    | assumption
    | intro _
    | apply State.set1If_kept | apply State.onChan_kept
    | simp only [Kept.record_iff]
    | refine KeptP.of_eq (by assumption) ?_ | refine KeptO.of_eq (by assumption) ?_ | refine KeptOP.of_eq (by assumption) ?_ | refine KeptE.of_eq (by assumption) ?_
    | split

theorem State.gwSend_kept (c : Nat) (h : Kept r s) : Kept r (State.gwSend c s) := by
  unfold State.gwSend
  try dsimp -iota only
  repeat' with_reducible first
    | assumption
    | intro _
    | apply State.onChan_kept | apply State.waitAt_kept
    | simp only [Kept.record_iff]
    | refine KeptP.of_eq (by assumption) ?_ | refine KeptO.of_eq (by assumption) ?_ | refine KeptOP.of_eq (by assumption) ?_ | refine KeptE.of_eq (by assumption) ?_
    | split

theorem execGwRspSend_kept (c : Fin 16) (s : State) : KeptOut s (execGwRspSend c s) := by
  have h := Kept.refl s
  unfold execGwRspSend
  try dsimp -iota only
  repeat' with_reducible first
    | assumption
    | apply State.gwSend_kept | apply KeptOut.next | apply Kept.ite

theorem State.gwAccept_kept (c t : Nat) (p : Packet) (w : Nat) (h : Kept r s) : Kept r (State.gwAccept s c t p w) := by
  unfold State.gwAccept
  try dsimp -iota only
  repeat' with_reducible first
    | assumption
    | intro _
    | apply State.set1_kept | apply State.onChan_kept | apply State.wait_kept | apply Kept.ite
    | simp only [Kept.record_iff]
    | refine KeptP.of_eq (by assumption) ?_ | refine KeptO.of_eq (by assumption) ?_ | refine KeptOP.of_eq (by assumption) ?_ | refine KeptE.of_eq (by assumption) ?_
    | split

theorem State.gwAcceptBytes_kept (d : Nat) (data : List Byte) (h : Kept r s) : Kept r (State.gwAcceptBytes s d data) := by
  unfold State.gwAcceptBytes
  try dsimp -iota only
  repeat' with_reducible first
    | assumption
    | intro _
    | apply State.set1_kept | apply State.onChan_kept | apply Kept.ite
    | simp only [Kept.record_iff]
    | refine KeptP.of_eq (by assumption) ?_ | refine KeptO.of_eq (by assumption) ?_ | refine KeptOP.of_eq (by assumption) ?_ | refine KeptE.of_eq (by assumption) ?_
    | split

theorem State.gwServe_kept (c : Nat) (capSpent : Bool) (h : Kept r s) : Kept r (State.gwServe c capSpent s) := by
  unfold State.gwServe
  try dsimp -iota only
  repeat' with_reducible first
    | assumption
    | intro _
    | apply State.set1_kept | apply State.setChan_kept | apply State.onChan_kept | apply State.setMemBytes_kept | apply State.countBurst_kept | apply State.sqCount_kept | apply State.gwAnswer_kept | apply Kept.ite
    | simp only [Kept.record_iff]
    | refine KeptP.of_eq (by assumption) ?_ | refine KeptO.of_eq (by assumption) ?_ | refine KeptOP.of_eq (by assumption) ?_ | refine KeptE.of_eq (by assumption) ?_
    | split

theorem execGwRequestServe_kept (c : Fin 16) (capSpent : Bool) (s : State) : KeptOut s (execGwRequestServe c capSpent s) := by
  have h := Kept.refl s
  unfold execGwRequestServe
  try dsimp -iota only
  repeat' with_reducible first
    | assumption
    | apply State.gwServe_kept | apply KeptOut.next

theorem State.dynPut_kept (c : Nat) (q q1 : DynReq) (h : Kept r s) : Kept r (State.dynPut s c q q1) := by
  unfold State.dynPut
  try dsimp -iota only
  repeat' with_reducible first
    | assumption
    | intro _
    | apply State.onChan_kept | apply Kept.ite
    | simp only [Kept.record_iff]

theorem State.dynBurst_kept (c : Nat) (blocked capSpent : Bool) (h : Kept r s) : Kept r (State.dynBurst c blocked capSpent s) := by
  unfold State.dynBurst
  try dsimp -iota only
  repeat' with_reducible first
    | assumption
    | intro _
    | apply State.set1_kept | apply State.onChan_kept | apply State.setMemBytes_kept | apply State.capSettle_kept | apply State.countBurst_kept | apply State.dynPut_kept | apply Kept.ite
    | simp only [Kept.record_iff]
    | refine KeptP.of_eq (by assumption) ?_ | refine KeptO.of_eq (by assumption) ?_ | refine KeptOP.of_eq (by assumption) ?_ | refine KeptE.of_eq (by assumption) ?_
    | split

theorem execDynamicBurst_kept (c : Fin 16) (blocked capSpent : Bool) (s : State) : KeptOut s (execDynamicBurst c blocked capSpent s) := by
  have h := Kept.refl s
  unfold execDynamicBurst
  try dsimp -iota only
  repeat' with_reducible first
    | assumption
    | apply State.dynBurst_kept | apply KeptOut.next

theorem State.dynAged_kept (c : Nat) (h : Kept r s) : Kept r (State.dynAged c s) := by
  unfold State.dynAged
  try dsimp -iota only
  repeat' with_reducible first
    | assumption
    | intro _
    | apply State.dynPut_kept
    | simp only [Kept.record_iff]
    | refine KeptP.of_eq (by assumption) ?_ | refine KeptO.of_eq (by assumption) ?_ | refine KeptOP.of_eq (by assumption) ?_ | refine KeptE.of_eq (by assumption) ?_
    | split

theorem execDynamicRequestAged_kept (c : Fin 16) (s : State) : KeptOut s (execDynamicRequestAged c s) := by
  have h := Kept.refl s
  unfold execDynamicRequestAged
  try dsimp -iota only
  repeat' with_reducible first
    | assumption
    | apply State.dynAged_kept | apply KeptOut.next

theorem State.hostDone_kept (id place : Nat) (bs : List Byte) (bad : Bool) (h : Kept r s) : Kept r (State.hostDone s id place bs bad) := by
  unfold State.hostDone
  try dsimp -iota only
  repeat' with_reducible first
    | assumption
    | intro _
    | apply Kept.ite
    | simp only [Kept.record_iff]
    | refine KeptP.of_eq (by assumption) ?_ | refine KeptO.of_eq (by assumption) ?_ | refine KeptOP.of_eq (by assumption) ?_ | refine KeptE.of_eq (by assumption) ?_
    | split

theorem State.dynAnswer_kept (c : Nat) (q : DynReq) (bad : Bool) (h : Kept r s) : Kept r (State.dynAnswer s c q bad) := by
  unfold State.dynAnswer
  try dsimp -iota only
  repeat' with_reducible first
    | assumption
    | apply State.set1If_kept | apply State.wait_kept | apply State.hostDone_kept | apply Kept.ite
    | simp only [Kept.record_iff]
    | refine KeptP.of_eq (by assumption) ?_ | refine KeptO.of_eq (by assumption) ?_ | refine KeptOP.of_eq (by assumption) ?_ | refine KeptE.of_eq (by assumption) ?_
    | split

theorem State.crcFail_kept (c b : Nat) (h : Kept r s) : Kept r (State.crcFail s c b) := by
  unfold State.crcFail
  try dsimp -iota only
  repeat' with_reducible first
    | assumption
    | apply State.set1_kept | apply State.postEvent_kept | apply State.groomRec_kept | apply State.spoil_kept
    | simp only [Kept.record_iff]

theorem State.bulkBurst_kept (x fails : Nat) (write : Bool) (h : Kept r s) : Kept r (State.bulkBurst s x fails write) := by
  unfold State.bulkBurst
  try dsimp -iota only
  repeat' with_reducible first
    | assumption
    | apply State.sat_kept | apply State.spendN_kept | apply State.setMemBytes_kept | apply State.crcFail_kept | apply Kept.ite

theorem State.markBad_kept (c : Nat) (seq : Nat) (q : DynReq) (h : Kept r s) : Kept r (State.markBad s c seq q) := by
  unfold State.markBad
  try dsimp -iota only
  repeat' with_reducible first
    | assumption
    | intro _
    | apply State.onChan_kept | apply Kept.ite
    | simp only [Kept.record_iff]

theorem State.crcCheck_kept (c fails : Nat) (last : List Byte) (h : Kept r s) : Kept r (State.crcCheck c fails last s) := by
  unfold State.crcCheck
  try dsimp -iota only
  repeat' with_reducible first
    | assumption
    | intro _
    | apply State.sat_kept | apply State.setChan_kept | apply State.onChan_kept | apply State.spendN_kept | apply State.setMemBytes_kept | apply State.gwAnswer_kept | apply State.dynAnswer_kept | apply State.crcFail_kept | apply State.markBad_kept | apply Kept.ite
    | simp only [Kept.record_iff]
    | refine KeptP.of_eq (by assumption) ?_ | refine KeptO.of_eq (by assumption) ?_ | refine KeptOP.of_eq (by assumption) ?_ | refine KeptE.of_eq (by assumption) ?_
    | split

theorem execBurstCrcCheck_kept (c : Fin 16) (fails : Nat) (last : List Byte) (s : State) : KeptOut s (execBurstCrcCheck c fails last s) := by
  have h := Kept.refl s
  unfold execBurstCrcCheck
  try dsimp -iota only
  repeat' with_reducible first
    | assumption
    | apply State.crcCheck_kept | apply KeptOut.next

theorem State.failDyn_kept (c : Nat) (q : DynReq) (h : Kept r s) : Kept r (State.failDyn s c q) := by
  unfold State.failDyn
  try dsimp -iota only
  repeat' with_reducible first
    | assumption
    | apply State.dynAnswer_kept
    | simp only [Kept.record_iff]

theorem State.failBurst_kept (c : Nat) (b : Burst) (h : Kept r s) : Kept r (State.failBurst s c b) := by
  unfold State.failBurst
  try dsimp -iota only
  repeat' with_reducible first
    | assumption
    | apply State.gwAnswer_kept | apply State.failDyn_kept | apply Kept.ite
    | simp only [Kept.record_iff]
    | refine KeptP.of_eq (by assumption) ?_ | refine KeptO.of_eq (by assumption) ?_ | refine KeptOP.of_eq (by assumption) ?_ | refine KeptE.of_eq (by assumption) ?_
    | split

theorem State.chanFail_kept (c : Nat) (h : Kept r s) : Kept r (State.chanFail s c) := by
  unfold State.chanFail
  try dsimp -iota only
  repeat' with_reducible first
    | assumption
    | intro _
    | apply State.clr_kept | apply State.setChan_kept | apply State.postEvent_kept | apply State.groomRec_kept | apply State.spoil_kept | apply State.setChanState_kept | apply State.capSettle_kept | apply State.sqCount_kept | apply State.gwAnswer_kept | apply State.failDyn_kept | apply State.failBurst_kept | apply Kept.ite | apply Kept.foldl | apply Kept.foldlP
    | simp only [Kept.record_iff]

theorem State.caAlert_kept (c : Nat) (again : Bool) (h : Kept r s) : Kept r (State.caAlert c again s) := by
  unfold State.caAlert
  try dsimp -iota only
  repeat' with_reducible first
    | assumption
    | apply State.set1_kept | apply State.sat_kept | apply State.setChan_kept | apply State.chanFail_kept | apply Kept.ite
    | simp only [Kept.record_iff]

theorem execCaParityAlert_kept (c : Fin 16) (again : Bool) (s : State) : KeptOut s (execCaParityAlert c again s) := by
  have h := Kept.refl s
  unfold execCaParityAlert
  try dsimp -iota only
  repeat' with_reducible first
    | assumption
    | apply State.caAlert_kept | apply KeptOut.next

theorem State.refreshAt_kept (c i : Nat) (h : Kept r s) : Kept r (State.refreshAt s c i) := by
  unfold State.refreshAt
  try dsimp -iota only
  repeat' with_reducible first
    | assumption
    | apply State.put_kept | apply State.setChan_kept | apply Kept.getD
    | simp only [Kept.record_iff]

theorem State.refreshDue_kept (c : Nat) (h : Kept r s) : Kept r (State.refreshDue c s) := by
  unfold State.refreshDue
  try dsimp -iota only
  repeat' with_reducible first
    | assumption
    | intro _
    | apply State.put_kept | apply State.setChan_kept | apply State.onChan_kept | apply State.refreshAt_kept | apply Kept.ite
    | simp only [Kept.record_iff]
    | refine KeptP.of_eq (by assumption) ?_ | refine KeptO.of_eq (by assumption) ?_ | refine KeptOP.of_eq (by assumption) ?_ | refine KeptE.of_eq (by assumption) ?_
    | split

theorem execRefreshDue_kept (c : Fin 16) (s : State) : KeptOut s (execRefreshDue c s) := by
  have h := Kept.refl s
  unfold execRefreshDue
  try dsimp -iota only
  repeat' with_reducible first
    | assumption
    | apply State.refreshDue_kept | apply KeptOut.next

theorem State.refpb_kept (c : Nat) (h : Kept r s) : Kept r (State.refpb c s) := by
  unfold State.refpb
  try dsimp -iota only
  repeat' with_reducible first
    | assumption
    | apply State.sat_kept | apply State.refreshAt_kept | apply Kept.ite
    | simp only [Kept.record_iff]
    | refine KeptP.of_eq (by assumption) ?_ | refine KeptO.of_eq (by assumption) ?_ | refine KeptOP.of_eq (by assumption) ?_ | refine KeptE.of_eq (by assumption) ?_
    | split

theorem execRefpbIssue_kept (c : Fin 16) (s : State) : KeptOut s (execRefpbIssue c s) := by
  have h := Kept.refl s
  unfold execRefpbIssue
  try dsimp -iota only
  repeat' with_reducible first
    | assumption
    | apply State.refpb_kept | apply KeptOut.next

theorem State.trainOp_kept (c op : Nat) (h : Kept r s) : Kept r (State.trainOp c op s) := by
  unfold State.trainOp
  try dsimp -iota only
  repeat' with_reducible first
    | assumption
    | intro _
    | apply State.put_kept | apply State.clr_kept | apply State.onChan_kept | apply Kept.ite
    | simp only [Kept.record_iff]

theorem execTrainOp_kept (c : Fin 16) (op : Fin 8) (s : State) : KeptOut s (execTrainOp c op s) := by
  have h := Kept.refl s
  unfold execTrainOp
  try dsimp -iota only
  repeat' with_reducible first
    | assumption
    | apply State.trainOp_kept | apply KeptOut.next

theorem State.trainOpDone_kept (c pass : Nat) (h : Kept r s) : Kept r (State.trainOpDone c pass s) := by
  unfold State.trainOpDone
  try dsimp -iota only
  repeat' with_reducible first
    | assumption
    | intro _
    | apply State.put_kept | apply State.set1_kept | apply State.onChan_kept | apply State.trainOp_kept | apply Kept.ite
    | simp only [Kept.record_iff]

theorem execTrainOpDone_kept (c : Fin 16) (pass : Nat) (s : State) : KeptOut s (execTrainOpDone c pass s) := by
  have h := Kept.refl s
  unfold execTrainOpDone
  try dsimp -iota only
  repeat' with_reducible first
    | assumption
    | apply State.trainOpDone_kept | apply KeptOut.next

theorem State.dlyWrite_kept (c n v : Nat) (h : Kept r s) : Kept r (State.dlyWrite c n v s) := by
  unfold State.dlyWrite
  try dsimp -iota only
  repeat' with_reducible first
    | assumption
    | apply State.put_kept | apply State.set1_kept | apply Kept.ite

theorem execGdDlyWrite_kept (c : Fin 16) (n : Fin 128) (v : Byte) (s : State) : KeptOut s (execGdDlyWrite c n v s) := by
  have h := Kept.refl s
  unfold execGdDlyWrite
  try dsimp -iota only
  repeat' with_reducible first
    | assumption
    | apply State.dlyWrite_kept | apply KeptOut.next

theorem State.pauseEffect_kept (c : Nat) (h : Kept r s) : Kept r (State.pauseEffect s c) := by
  unfold State.pauseEffect
  try dsimp -iota only
  repeat' with_reducible first
    | assumption
    | intro _
    | apply State.clr_kept | apply State.onChan_kept | apply Kept.ite
    | simp only [Kept.record_iff]

theorem State.pauseWrite_kept (c : Nat) (h : Kept r s) : Kept r (State.pauseWrite c s) := by
  unfold State.pauseWrite
  try dsimp -iota only
  repeat' with_reducible first
    | assumption
    | intro _
    | apply State.set1_kept | apply State.onChan_kept | apply State.pauseEffect_kept | apply Kept.ite
    | simp only [Kept.record_iff]

theorem execPauseWrite_kept (c : Fin 16) (s : State) : KeptOut s (execPauseWrite c s) := by
  have h := Kept.refl s
  unfold execPauseWrite
  try dsimp -iota only
  repeat' with_reducible first
    | assumption
    | apply State.pauseWrite_kept | apply KeptOut.next

theorem State.pauseTake_kept (c : Nat) (h : Kept r s) : Kept r (State.pauseTake c s) := by
  unfold State.pauseTake
  try dsimp -iota only
  repeat' with_reducible first
    | assumption
    | apply State.pauseEffect_kept | apply Kept.ite

theorem execPauseTakeEffect_kept (c : Fin 16) (s : State) : KeptOut s (execPauseTakeEffect c s) := by
  have h := Kept.refl s
  unfold execPauseTakeEffect
  try dsimp -iota only
  repeat' with_reducible first
    | assumption
    | apply State.pauseTake_kept | apply KeptOut.next

theorem State.pauseReady_kept (c : Nat) (h : Kept r s) : Kept r (State.pauseReady c s) := by
  unfold State.pauseReady
  try dsimp -iota only
  repeat' with_reducible first
    | assumption
    | apply State.setChan_kept | apply State.setChanState_kept | apply Kept.ite
    | simp only [Kept.record_iff]

theorem execPauseReady_kept (c : Fin 16) (s : State) : KeptOut s (execPauseReady c s) := by
  have h := Kept.refl s
  unfold execPauseReady
  try dsimp -iota only
  repeat' with_reducible first
    | assumption
    | apply State.pauseReady_kept | apply KeptOut.next

theorem State.pauseEnd_kept (c : Nat) (h : Kept r s) : Kept r (State.pauseEnd s c) := by
  unfold State.pauseEnd
  try dsimp -iota only
  repeat' with_reducible first
    | assumption
    | intro _
    | apply State.clr_kept | apply State.onChan_kept | apply State.setChanState_kept | apply State.trainOp_kept | apply Kept.ite
    | simp only [Kept.record_iff]

theorem State.pauseClear_kept (c : Nat) (late : Bool) (h : Kept r s) : Kept r (State.pauseClear c late s) := by
  unfold State.pauseClear
  try dsimp -iota only
  repeat' with_reducible first
    | assumption
    | apply State.set1If_kept | apply State.pauseEnd_kept | apply Kept.ite

theorem execPauseClear_kept (c : Fin 16) (late : Bool) (s : State) : KeptOut s (execPauseClear c late s) := by
  have h := Kept.refl s
  unfold execPauseClear
  try dsimp -iota only
  repeat' with_reducible first
    | assumption
    | apply State.pauseClear_kept | apply KeptOut.next

theorem State.pauseTmo_kept (c : Nat) (h : Kept r s) : Kept r (State.pauseTmo c s) := by
  unfold State.pauseTmo
  try dsimp -iota only
  repeat' with_reducible first
    | assumption
    | apply State.set1_kept | apply State.pauseEnd_kept | apply Kept.ite

theorem execPauseTimeout_kept (c : Fin 16) (s : State) : KeptOut s (execPauseTimeout c s) := by
  have h := Kept.refl s
  unfold execPauseTimeout
  try dsimp -iota only
  repeat' with_reducible first
    | assumption
    | apply State.pauseTmo_kept | apply KeptOut.next

theorem State.srefWrite_kept (c : Nat) (v : Bool) (h : Kept r s) : Kept r (State.srefWrite c v s) := by
  unfold State.srefWrite
  try dsimp -iota only
  repeat' with_reducible first
    | assumption
    | intro _
    | apply State.put_kept | apply State.onChan_kept | apply State.setChanState_kept | apply Kept.ite
    | simp only [Kept.record_iff]

theorem execSrefWrite_kept (c : Fin 16) (v : Bool) (s : State) : KeptOut s (execSrefWrite c v s) := by
  have h := Kept.refl s
  unfold execSrefWrite
  try dsimp -iota only
  repeat' with_reducible first
    | assumption
    | apply State.srefWrite_kept | apply KeptOut.next

theorem State.trainBegin_kept (c : Nat) (h : Kept r s) : Kept r (State.trainBegin s c) := by
  unfold State.trainBegin
  try dsimp -iota only
  repeat' with_reducible first
    | assumption
    | apply State.set1_kept | apply State.setChanState_kept | apply Kept.ite

theorem State.trainFail_kept (c : Nat) (h : Kept r s) : Kept r (State.trainFail s c) := by
  unfold State.trainFail
  try dsimp -iota only
  repeat' with_reducible first
    | assumption
    | apply State.set1_kept | apply State.postEvent_kept | apply State.groomRec_kept | apply State.setChanState_kept
    | simp only [Kept.record_iff]
    | refine KeptP.of_eq (by assumption) ?_ | refine KeptO.of_eq (by assumption) ?_ | refine KeptOP.of_eq (by assumption) ?_ | refine KeptE.of_eq (by assumption) ?_
    | split

theorem State.trainPins_kept (c : Nat) (l : List (Nat × BitVec 256)) (h : Kept r s) : KeptP r (s.trainPins c l) := by
  induction l generalizing s with
  | nil => exact KeptP.mk_iff.2 h
  | cons p rest ih =>
    unfold State.trainPins
    dsimp only
    split
    · exact KeptP.mk_iff.2 h
    · exact ih (State.put_kept _ _ h)

theorem State.trainFrom_kept (c n : Nat) (l : List TrainTry) (h : Kept r s) : Kept r (State.trainFrom c n l s) := by
  induction l generalizing s n with
  | nil => exact State.trainFail_kept _ h
  | cons x rest ih =>
    have k := State.trainPins_kept c (pinsOf x) h
    unfold State.trainFrom
    split
    next s1 ok e =>
    have k1 : Kept r s1 := KeptP.of_eq e k
    split
    · exact State.trainFail_kept _ k1
    · split
      · split
        · exact ih _ k1
        · exact State.trainFail_kept _ k1
      · exact State.setChanState_kept _ _ k1

theorem State.trainAll_kept (runs : TrainRuns) (h : Kept r s) : Kept r (State.trainAll s runs) := by
  unfold State.trainAll
  try dsimp -iota only
  repeat' with_reducible first
    | assumption
    | intro _
    | apply State.each_kept | apply State.trainFrom_kept | apply Kept.ite
    | simp only [Kept.record_iff]
    | refine KeptP.of_eq (by assumption) ?_ | refine KeptO.of_eq (by assumption) ?_ | refine KeptOP.of_eq (by assumption) ?_ | refine KeptE.of_eq (by assumption) ?_
    | split

theorem State.rateChange_kept (c rate : Nat) (h : Kept r s) : Kept r (State.rateChange s c rate) := by
  unfold State.rateChange
  try dsimp -iota only
  repeat' with_reducible first
    | assumption
    | intro _
    | apply State.put_kept | apply State.clr_kept | apply State.onChan_kept | apply State.setChanState_kept | apply State.trainOp_kept | apply State.trainBegin_kept | apply Kept.ite
    | simp only [Kept.record_iff]

theorem State.hotWindow_kept (c : Nat) (h : Kept r s) : Kept r (State.hotWindow c s) := by
  unfold State.hotWindow
  try dsimp -iota only
  repeat' with_reducible first
    | assumption
    | apply State.put_kept | apply State.sat_kept | apply State.setChan_kept | apply State.postEvent_kept | apply State.groomRec_kept | apply Kept.ite
    | simp only [Kept.record_iff]
    | refine KeptP.of_eq (by assumption) ?_ | refine KeptO.of_eq (by assumption) ?_ | refine KeptOP.of_eq (by assumption) ?_ | refine KeptE.of_eq (by assumption) ?_
    | split

theorem execHotWindow_kept (c : Fin 16) (s : State) : KeptOut s (execHotWindow c s) := by
  have h := Kept.refl s
  unfold execHotWindow
  try dsimp -iota only
  repeat' with_reducible first
    | assumption
    | apply State.hotWindow_kept | apply KeptOut.next

end Sys2Proof.Machine
end

