-- ==== Sys2Proof/Laws/KeptLane.lean ====
section
/-! SUPPORT. What the operations of Machine/Lane.lean keep (`Kept`). -/
namespace Sys2Proof.Machine

variable {r s : State}

theorem State.setLane_kept (l : Nat) (v : Lane) (h : Kept r s) : Kept r (State.setLane s l v) := by
  unfold State.setLane
  try dsimp -iota only
  repeat' with_reducible first
    | assumption
    | intro _
    | simp only [Kept.record_iff]

theorem State.onLane_kept (l : Nat) (f : Lane → Lane) (h : Kept r s) : Kept r (State.onLane s l f) := by
  unfold State.onLane
  try dsimp -iota only
  repeat' with_reducible first
    | assumption
    | apply State.setLane_kept

theorem State.setLaneState_kept (l st : Nat) (h : Kept r s) : Kept r (State.setLaneState s l st) := by
  unfold State.setLaneState
  try dsimp -iota only
  repeat' with_reducible first
    | assumption
    | apply State.put_kept

theorem State.dropStream_kept (n : Nat) (h : Kept r s) : Kept r (State.dropStream s n) := by
  unfold State.dropStream
  try dsimp -iota only
  repeat' with_reducible first
    | assumption
    | apply State.sat_kept | apply Kept.ite
    | simp only [Kept.record_iff]

theorem State.dropRequests_kept (n : Nat) (h : Kept r s) : Kept r (State.dropRequests s n) := by
  unfold State.dropRequests
  try dsimp -iota only
  repeat' with_reducible first
    | assumption
    | intro _
    | apply State.onLink_kept | apply State.wait_kept | apply Kept.ite | apply Kept.foldl | apply Kept.foldlP
    | simp only [Kept.record_iff]
    | refine KeptP.of_eq (by assumption) ?_ | refine KeptO.of_eq (by assumption) ?_ | refine KeptOP.of_eq (by assumption) ?_ | refine KeptE.of_eq (by assumption) ?_
    | split

theorem State.setLinkState_kept (n st : Nat) (h : Kept r s) : Kept r (State.setLinkState s n st) := by
  unfold State.setLinkState
  try dsimp -iota only
  repeat' with_reducible first
    | assumption
    | apply State.put_kept | apply State.postEvent_kept | apply State.dropStream_kept | apply State.dropRequests_kept | apply Kept.ite
    | simp only [Kept.record_iff]

theorem State.substitute_kept (n j : Nat) (h : Kept r s) : Kept r (State.substitute s n j) := by
  unfold State.substitute
  try dsimp -iota only
  repeat' with_reducible first
    | assumption
    | intro _
    | apply State.put_kept | apply State.set1_kept | apply State.onLink_kept | apply State.groomRec_kept | apply State.onLane_kept | apply State.setLaneState_kept | apply State.setLinkState_kept | apply Kept.ite
    | simp only [Kept.record_iff]

theorem State.linkLost_kept (n : Nat) (h : Kept r s) : Kept r (State.linkLost s n) := by
  unfold State.linkLost
  try dsimp -iota only
  repeat' with_reducible first
    | assumption
    | apply State.enterQuarantine_kept | apply State.setLinkState_kept | apply Kept.ite

theorem State.laneLeft_kept (l : Nat) (was : Nat) (h : Kept r s) : Kept r (State.laneLeft s l was) := by
  unfold State.laneLeft
  try dsimp -iota only
  repeat' with_reducible first
    | assumption
    | intro _
    | apply State.put_kept | apply State.onLink_kept | apply State.groomRec_kept | apply State.setLinkState_kept | apply State.substitute_kept | apply State.linkLost_kept | apply Kept.ite
    | simp only [Kept.record_iff]
    | refine KeptP.of_eq (by assumption) ?_ | refine KeptO.of_eq (by assumption) ?_ | refine KeptOP.of_eq (by assumption) ?_ | refine KeptE.of_eq (by assumption) ?_
    | split

theorem State.wantWidth_kept (n w : Nat) (h : Kept r s) : Kept r (State.wantWidth s n w) := by
  unfold State.wantWidth
  try dsimp -iota only
  repeat' with_reducible first
    | assumption
    | intro _
    | apply State.onLink_kept | apply Kept.ite
    | simp only [Kept.record_iff]

theorem State.activate_kept (l : Nat) (h : Kept r s) : Kept r (State.activate s l) := by
  unfold State.activate
  try dsimp -iota only
  repeat' with_reducible first
    | assumption
    | intro _
    | apply State.onLane_kept | apply State.setLaneState_kept
    | simp only [Kept.record_iff]

theorem State.widthChange_kept (n : Nat) (h : Kept r s) : Kept r (State.widthChange n s) := by
  unfold State.widthChange
  try dsimp -iota only
  repeat' with_reducible first
    | assumption
    | intro _
    | apply State.put_kept | apply State.onLink_kept | apply State.take_kept | apply State.setLinkState_kept | apply State.activate_kept | apply Kept.ite | apply Kept.foldl | apply Kept.foldlP
    | simp only [Kept.record_iff]
    | refine KeptP.of_eq (by assumption) ?_ | refine KeptO.of_eq (by assumption) ?_ | refine KeptOP.of_eq (by assumption) ?_ | refine KeptE.of_eq (by assumption) ?_
    | split

theorem execWidthChange_kept (n : Fin 4) (s : State) : KeptOut s (execWidthChange n s) := by
  have h := Kept.refl s
  unfold execWidthChange
  try dsimp -iota only
  repeat' with_reducible first
    | assumption
    | apply State.widthChange_kept | apply KeptOut.next

theorem State.failLane_kept (l : Nat) (h : Kept r s) : Kept r (State.failLane s l) := by
  unfold State.failLane
  try dsimp -iota only
  repeat' with_reducible first
    | assumption
    | apply State.set1_kept | apply State.postEvent_kept | apply State.groomRec_kept | apply State.setLaneState_kept
    | simp only [Kept.record_iff]

theorem State.replaceFailed_kept (n : Nat) (h : Kept r s) : Kept r (State.replaceFailed s n) := by
  unfold State.replaceFailed
  try dsimp -iota only
  repeat' with_reducible first
    | assumption
    | intro _
    | apply State.substitute_kept | apply Kept.ite
    | simp only [Kept.record_iff]
    | refine KeptP.of_eq (by assumption) ?_ | refine KeptO.of_eq (by assumption) ?_ | refine KeptOP.of_eq (by assumption) ?_ | refine KeptE.of_eq (by assumption) ?_
    | split

theorem State.dropSkewed_kept (n : Nat) (h : Kept r s) : Kept r (State.dropSkewed s n) := by
  unfold State.dropSkewed
  try dsimp -iota only
  repeat' with_reducible first
    | assumption
    | intro _
    | apply State.set1If_kept | apply State.failLane_kept | apply Kept.foldl | apply Kept.foldlP

theorem State.fixRelease_kept (n : Nat) (h : Kept r s) : Kept r (State.fixRelease s n) := by
  unfold State.fixRelease
  try dsimp -iota only
  repeat' with_reducible first
    | assumption
    | intro _
    | apply State.put_kept | apply State.onLink_kept | apply Kept.ite
    | simp only [Kept.record_iff]

theorem State.leadRise_kept (n : Nat) (h : Kept r s) : Kept r (State.leadRise s n) := by
  unfold State.leadRise
  try dsimp -iota only
  repeat' with_reducible first
    | assumption
    | apply State.put_kept | apply State.set1_kept | apply State.setLinkState_kept | apply State.failLane_kept | apply State.replaceFailed_kept | apply State.dropSkewed_kept | apply State.fixRelease_kept | apply Kept.ite

theorem State.elasticRise_kept (n : Nat) (h : Kept r s) : Kept r (State.elasticRise s n) := by
  unfold State.elasticRise
  try dsimp -iota only
  repeat' with_reducible first
    | assumption
    | intro _
    | apply State.put_kept | apply State.take_kept | apply State.setLinkState_kept | apply State.dropSkewed_kept | apply State.fixRelease_kept | apply Kept.ite | apply Kept.foldl | apply Kept.foldlP

theorem State.linkRise_kept (n : Nat) (h : Kept r s) : Kept r (State.linkRise s n) := by
  unfold State.linkRise
  try dsimp -iota only
  repeat' with_reducible first
    | assumption
    | apply State.leadRise_kept | apply State.elasticRise_kept | apply Kept.ite

theorem State.laneFault_kept (l b code : Nat) (h : Kept r s) : Kept r (State.laneFault s l b code) := by
  unfold State.laneFault
  try dsimp -iota only
  repeat' with_reducible first
    | assumption
    | apply State.set1_kept | apply State.sat_kept | apply State.postEvent_kept | apply State.groomRec_kept | apply State.setLaneState_kept | apply State.laneLeft_kept
    | simp only [Kept.record_iff]

theorem State.applyNext_kept (l : Nat) (h : Kept r s) : Kept r (State.applyNext s l) := by
  unfold State.applyNext
  try dsimp -iota only
  repeat' with_reducible first
    | assumption
    | intro _
    | apply State.put_kept | apply State.onLane_kept
    | simp only [Kept.record_iff]
    | refine KeptP.of_eq (by assumption) ?_ | refine KeptO.of_eq (by assumption) ?_ | refine KeptOP.of_eq (by assumption) ?_ | refine KeptE.of_eq (by assumption) ?_
    | split

theorem State.startSweep_kept (l : Nat) (h : Kept r s) : Kept r (State.startSweep s l) := by
  unfold State.startSweep
  try dsimp -iota only
  repeat' with_reducible first
    | assumption
    | intro _
    | apply State.onLane_kept | apply State.setLaneState_kept | apply State.applyNext_kept
    | simp only [Kept.record_iff]

theorem State.freshSweep_kept (l : Nat) (h : Kept r s) : Kept r (State.freshSweep s l) := by
  unfold State.freshSweep
  try dsimp -iota only
  repeat' with_reducible first
    | assumption
    | intro _
    | apply State.onLane_kept | apply State.startSweep_kept
    | simp only [Kept.record_iff]

theorem State.laneEnable_kept (l : Nat) (h : Kept r s) : Kept r (State.laneEnable l s) := by
  unfold State.laneEnable
  try dsimp -iota only
  repeat' with_reducible first
    | assumption
    | apply State.put_kept | apply State.set1_kept | apply State.spendN_kept | apply State.setLane_kept | apply State.setLaneState_kept | apply State.freshSweep_kept | apply Kept.ite
    | simp only [Kept.record_iff]

theorem execLaneEnable_kept (l : Fin 160) (s : State) : KeptOut s (execLaneEnable l s) := by
  have h := Kept.refl s
  unfold execLaneEnable
  try dsimp -iota only
  repeat' with_reducible first
    | assumption
    | apply State.laneEnable_kept | apply KeptOut.next

theorem State.laneDisable_kept (l : Nat) (h : Kept r s) : Kept r (State.laneDisable l s) := by
  unfold State.laneDisable
  try dsimp -iota only
  repeat' with_reducible first
    | assumption
    | apply State.put_kept | apply State.clr_kept | apply State.setLane_kept | apply State.setLaneState_kept | apply State.laneLeft_kept | apply Kept.ite

theorem execLaneDisable_kept (l : Fin 160) (s : State) : KeptOut s (execLaneDisable l s) := by
  have h := Kept.refl s
  unfold execLaneDisable
  try dsimp -iota only
  repeat' with_reducible first
    | assumption
    | apply State.laneDisable_kept | apply KeptOut.next

theorem State.settingDone_kept (l : Nat) (acq dwell : List W64) (clean late : Bool) (h : Kept r s) : Kept r (State.settingDone l acq dwell clean late s) := by
  unfold State.settingDone
  try dsimp -iota only
  repeat' with_reducible first
    | assumption
    | apply State.set1If_kept | apply State.setLane_kept | apply State.applyNext_kept | apply Kept.ite
    | simp only [Kept.record_iff]
    | refine KeptP.of_eq (by assumption) ?_ | refine KeptO.of_eq (by assumption) ?_ | refine KeptOP.of_eq (by assumption) ?_ | refine KeptE.of_eq (by assumption) ?_
    | split

theorem execSweepSettingDone_kept (l : Fin 160) (acq dwell : List W64) (clean late : Bool) (s : State) : KeptOut s (execSweepSettingDone l acq dwell clean late s) := by
  have h := Kept.refl s
  unfold execSweepSettingDone
  try dsimp -iota only
  repeat' with_reducible first
    | assumption
    | apply State.settingDone_kept | apply KeptOut.next

theorem State.laneFailed_kept (l : Nat) (h : Kept r s) : Kept r (State.laneFailed s l) := by
  unfold State.laneFailed
  try dsimp -iota only
  repeat' with_reducible first
    | assumption
    | apply State.laneLeft_kept | apply State.failLane_kept | apply State.linkRise_kept

theorem State.sweepDone_kept (l : Nat) (h : Kept r s) : Kept r (State.sweepDone l s) := by
  unfold State.sweepDone
  try dsimp -iota only
  repeat' with_reducible first
    | assumption
    | apply State.put_kept | apply State.set1_kept | apply State.sat_kept | apply State.setLane_kept | apply State.setLaneState_kept | apply State.startSweep_kept | apply State.laneFailed_kept | apply Kept.ite
    | simp only [Kept.record_iff]

theorem execSweepDone_kept (l : Fin 160) (s : State) : KeptOut s (execSweepDone l s) := by
  have h := Kept.refl s
  unfold execSweepDone
  try dsimp -iota only
  repeat' with_reducible first
    | assumption
    | apply State.sweepDone_kept | apply KeptOut.next

theorem State.confirmDone_kept (l : Nat) (ok : Bool) (h : Kept r s) : Kept r (State.confirmDone l ok s) := by
  unfold State.confirmDone
  try dsimp -iota only
  repeat' with_reducible first
    | assumption
    | intro _
    | apply State.onLane_kept | apply State.setLaneState_kept | apply State.startSweep_kept | apply State.laneFailed_kept | apply Kept.ite
    | simp only [Kept.record_iff]

theorem execConfirmDone_kept (l : Fin 160) (ok : Bool) (s : State) : KeptOut s (execConfirmDone l ok s) := by
  have h := Kept.refl s
  unfold execConfirmDone
  try dsimp -iota only
  repeat' with_reducible first
    | assumption
    | apply State.confirmDone_kept | apply KeptOut.next

theorem State.leavePeerWait_kept (l : Nat) (h : Kept r s) : Kept r (State.leavePeerWait s l) := by
  unfold State.leavePeerWait
  try dsimp -iota only
  repeat' with_reducible first
    | assumption
    | apply State.put_kept | apply State.setLane_kept | apply State.setLaneState_kept | apply State.linkRise_kept | apply Kept.ite
    | simp only [Kept.record_iff]

theorem State.sendGroup_kept (l : Nat) (h : Kept r s) : Kept r (State.sendGroup s l) := by
  unfold State.sendGroup
  try dsimp -iota only
  repeat' with_reducible first
    | assumption
    | intro _
    | apply State.onLane_kept
    | simp only [Kept.record_iff]

theorem State.rdySent_kept (l : Nat) (h : Kept r s) : Kept r (State.rdySent l s) := by
  unfold State.rdySent
  try dsimp -iota only
  repeat' with_reducible first
    | assumption
    | intro _
    | apply State.onLane_kept | apply State.leavePeerWait_kept | apply State.sendGroup_kept | apply Kept.ite | apply Kept.foldl | apply Kept.foldlP
    | simp only [Kept.record_iff]

theorem execRdyBlocksSent_kept (l : Fin 160) (s : State) : KeptOut s (execRdyBlocksSent l s) := by
  have h := Kept.refl s
  unfold execRdyBlocksSent
  try dsimp -iota only
  repeat' with_reducible first
    | assumption
    | apply State.rdySent_kept | apply KeptOut.next

theorem State.patterns_kept (l : Nat) (pats : List W64) (h : Kept r s) : Kept r (State.patterns s l pats) := by
  unfold State.patterns
  try dsimp -iota only
  repeat' with_reducible first
    | assumption
    | intro _
    | apply State.sat_kept | apply State.onLane_kept | apply Kept.ite
    | simp only [Kept.record_iff]

theorem State.badBlock_kept (l : Nat) (h : Kept r s) : Kept r (State.badBlock s l) := by
  unfold State.badBlock
  try dsimp -iota only
  repeat' with_reducible first
    | assumption
    | intro _
    | apply State.sat_kept | apply State.onLane_kept | apply Kept.ite
    | simp only [Kept.record_iff]

theorem State.goodBlock_kept (l b arrive : Nat) (h : Kept r s) : Kept r (State.goodBlock s l b arrive) := by
  unfold State.goodBlock
  try dsimp -iota only
  repeat' with_reducible first
    | assumption
    | intro _
    | apply State.put_kept | apply State.set1If_kept | apply State.onLane_kept | apply State.setLaneState_kept | apply State.laneLeft_kept | apply State.leavePeerWait_kept | apply State.rdySent_kept | apply Kept.ite
    | simp only [Kept.record_iff]

theorem State.training_kept (l : Nat) (block : W64) (pats : List W64) (arrive : Nat) (h : Kept r s) : Kept r (State.training l block pats arrive s) := by
  unfold State.training
  try dsimp -iota only
  repeat' with_reducible first
    | assumption
    | apply State.patterns_kept | apply State.badBlock_kept | apply State.goodBlock_kept | apply Kept.ite

theorem execTrainingBlockReceive_kept (l : Fin 160) (block : W64) (pats : List W64) (arrive : Nat) (s : State) : KeptOut s (execTrainingBlockReceive l block pats arrive s) := by
  have h := Kept.refl s
  unfold execTrainingBlockReceive
  try dsimp -iota only
  repeat' with_reducible first
    | assumption
    | apply State.training_kept | apply KeptOut.next

theorem State.lockAcquire_kept (l : Nat) (inverted : Bool) (heads : List (BitVec 2)) (h : Kept r s) : Kept r (State.lockAcquire l inverted heads s) := by
  unfold State.lockAcquire
  try dsimp -iota only
  repeat' with_reducible first
    | assumption
    | apply State.put_kept | apply State.set1_kept | apply Kept.ite

theorem execBlockLockAcquire_kept (l : Fin 160) (inverted : Bool) (heads : List (BitVec 2)) (s : State) : KeptOut s (execBlockLockAcquire l inverted heads s) := by
  have h := Kept.refl s
  unfold execBlockLockAcquire
  try dsimp -iota only
  repeat' with_reducible first
    | assumption
    | apply State.lockAcquire_kept | apply KeptOut.next

theorem State.lostService_kept (l b code : Nat) (h : Kept r s) : Kept r (State.lostService s l b code) := by
  unfold State.lostService
  try dsimp -iota only
  repeat' with_reducible first
    | assumption
    | apply State.laneFault_kept | apply State.freshSweep_kept | apply Kept.ite

theorem State.lockLoss_kept (l : Nat) (inWindow : Bool) (heads : List (BitVec 2)) (h : Kept r s) : Kept r (State.lockLoss l inWindow heads s) := by
  unfold State.lockLoss
  try dsimp -iota only
  repeat' with_reducible first
    | assumption
    | intro _
    | apply State.clr_kept | apply State.sat_kept | apply State.laneFault_kept | apply State.lostService_kept | apply Kept.ite

theorem execBlockLockLoss_kept (l : Fin 160) (inWindow : Bool) (heads : List (BitVec 2)) (s : State) : KeptOut s (execBlockLockLoss l inWindow heads s) := by
  have h := Kept.refl s
  unfold execBlockLockLoss
  try dsimp -iota only
  repeat' with_reducible first
    | assumption
    | apply State.lockLoss_kept | apply KeptOut.next

theorem State.cdrChange_kept (l : Nat) (locked : Bool) (h : Kept r s) : Kept r (State.cdrChange l locked s) := by
  unfold State.cdrChange
  try dsimp -iota only
  repeat' with_reducible first
    | assumption
    | apply State.set1_kept | apply State.clr_kept | apply State.sat_kept | apply State.lostService_kept | apply Kept.ite

theorem execCdrLockChange_kept (l : Fin 160) (locked : Bool) (s : State) : KeptOut s (execCdrLockChange l locked s) := by
  have h := Kept.refl s
  unfold execCdrLockChange
  try dsimp -iota only
  repeat' with_reducible first
    | assumption
    | apply State.cdrChange_kept | apply KeptOut.next

theorem State.faultEnd_kept (l : Nat) (h : Kept r s) : Kept r (State.faultEnd l s) := by
  unfold State.faultEnd
  try dsimp -iota only
  repeat' with_reducible first
    | assumption
    | apply State.put_kept | apply State.freshSweep_kept | apply Kept.ite

theorem execFaultTimeout_kept (l : Fin 160) (s : State) : KeptOut s (execFaultTimeout l s) := by
  have h := Kept.refl s
  unfold execFaultTimeout
  try dsimp -iota only
  repeat' with_reducible first
    | assumption
    | apply State.faultEnd_kept | apply KeptOut.next

theorem State.injOne_kept (l : Nat) (h : Kept r s) : Kept r (State.injOne l s) := by
  unfold State.injOne
  try dsimp -iota only
  repeat' with_reducible first
    | assumption
    | intro _
    | apply State.onLane_kept | apply Kept.ite
    | simp only [Kept.record_iff]

theorem execInjOne_kept (l : Fin 160) (s : State) : KeptOut s (execInjOne l s) := by
  have h := Kept.refl s
  unfold execInjOne
  try dsimp -iota only
  repeat' with_reducible first
    | assumption
    | apply State.injOne_kept | apply KeptOut.next

theorem State.prbsLock_kept (l : Nat) (received : List Bool) (h : Kept r s) : Kept r (State.prbsLock l received s) := by
  unfold State.prbsLock
  try dsimp -iota only
  repeat' with_reducible first
    | assumption
    | apply State.put_kept | apply State.sat_kept | apply State.setLane_kept | apply Kept.ite
    | simp only [Kept.record_iff]

theorem execPrbsLockChange_kept (l : Fin 160) (received : List Bool) (s : State) : KeptOut s (execPrbsLockChange l received s) := by
  have h := Kept.refl s
  unfold execPrbsLockChange
  try dsimp -iota only
  repeat' with_reducible first
    | assumption
    | apply State.prbsLock_kept | apply KeptOut.next

end Sys2Proof.Machine
end

