-- ==== Sys2Proof/Laws/KeptTeam.lean ====
section
/-! SUPPORT. What the operations of Machine/Team.lean keep (`Kept`). -/
namespace Sys2Proof.Machine

variable {r s : State}

theorem State.rmwWrite_kept (t : Nat) (h : Kept r s) : Kept r (State.rmwWrite s t) := by
  unfold State.rmwWrite
  try dsimp -iota only
  repeat' with_reducible first
    | assumption
    | intro _
    | apply State.setTeam_kept | apply Kept.ite
    | simp only [Kept.record_iff]
    | refine KeptP.of_eq (by assumption) ?_ | refine KeptO.of_eq (by assumption) ?_ | refine KeptOP.of_eq (by assumption) ?_ | refine KeptE.of_eq (by assumption) ?_
    | split

theorem State.stall_kept (t : Nat) (counter : Fld) (state : Nat) (h : Kept r s) : Kept r (State.stall s t counter state) := by
  unfold State.stall
  try dsimp -iota only
  repeat' with_reducible first
    | assumption
    | apply State.put_kept | apply State.sat_kept

theorem State.dmStep_kept (t : Nat) (a b : Option PortUse) (c : StepChecks) (h : Kept r s) : Kept r (State.dmStep s t a b c) := by
  unfold State.dmStep
  try dsimp -iota only
  repeat' with_reducible first
    | assumption
    | apply State.setTeam_kept | apply State.spendN_kept | apply State.dmBusy_kept | apply State.dmChecked_kept | apply State.dmBankOff_kept | apply State.rmwWrite_kept | apply Kept.ite
    | simp only [Kept.record_iff]
    | refine KeptP.of_eq (by assumption) ?_ | refine KeptO.of_eq (by assumption) ?_ | refine KeptOP.of_eq (by assumption) ?_ | refine KeptE.of_eq (by assumption) ?_
    | split

theorem State.popFor_kept (t : Nat) (e : BitVec 48) (h : Kept r s) : Kept r (State.popFor s t e) := by
  unfold State.popFor
  try dsimp -iota only
  repeat' with_reducible first
    | assumption
    | intro _
    | apply State.onRouter_kept | apply State.onLink_kept | apply Kept.ite
    | simp only [Kept.record_iff]
    | refine KeptP.of_eq (by assumption) ?_ | refine KeptO.of_eq (by assumption) ?_ | refine KeptOP.of_eq (by assumption) ?_ | refine KeptE.of_eq (by assumption) ?_
    | split

theorem State.entryStep_kept (t p : Nat) (m : Team) (e : BitVec 48) (h : Kept r s) : Kept r (State.entryStep t p m s e) := by
  unfold State.entryStep
  try dsimp -iota only
  repeat' with_reducible first
    | assumption
    | intro _
    | apply State.onTeam_kept | apply State.sendFlit_kept | apply State.deadStatic_kept | apply State.probeStatic_kept | apply State.handOver_kept | apply State.popFor_kept | apply Kept.ite
    | simp only [Kept.record_iff]
    | refine KeptP.of_eq (by assumption) ?_ | refine KeptO.of_eq (by assumption) ?_ | refine KeptOP.of_eq (by assumption) ?_ | refine KeptE.of_eq (by assumption) ?_
    | split

theorem State.stepCmdHalt_kept (t : Nat) (h : Kept r s) : Kept r (State.stepCmdHalt s t) := by
  unfold State.stepCmdHalt
  try dsimp -iota only
  repeat' with_reducible first
    | assumption
    | intro _
    | apply State.endLong_kept | apply Kept.ite
    | simp only [Kept.record_iff]
    | refine KeptP.of_eq (by assumption) ?_ | refine KeptO.of_eq (by assumption) ?_ | refine KeptOP.of_eq (by assumption) ?_ | refine KeptE.of_eq (by assumption) ?_
    | split

theorem State.bkpHit_kept (t p : Nat) (bs : List Nat) (h : Kept r s) : Kept r (State.bkpHit s t p bs) := by
  unfold State.bkpHit
  try dsimp -iota only
  repeat' with_reducible first
    | assumption
    | intro _
    | apply State.put_kept | apply State.set1_kept | apply State.onTeam_kept | apply State.postEvent_kept | apply State.adoptHold_kept | apply State.stepCmdHalt_kept | apply Kept.ite
    | simp only [Kept.record_iff]

theorem State.stepOverrun_kept (t : Nat) (reported awaited : Bool) (h : Kept r s) : Kept r (State.stepOverrun s t reported awaited) := by
  unfold State.stepOverrun
  try dsimp -iota only
  repeat' with_reducible first
    | assumption
    | apply State.overrun_kept | apply Kept.ite

theorem State.isFixed_kept (t : Nat) (c : StepChecks) (h : Kept r s) : Kept r (State.isFixed s t c) := by
  unfold State.isFixed
  try dsimp -iota only
  repeat' with_reducible first
    | assumption
    | intro _
    | apply State.isCorrected_kept | apply Kept.foldl | apply Kept.foldlP

theorem State.stepUnits_kept (t p : Nat) (c : StepChecks) (h : Kept r s) : Kept r (State.stepUnits s t p c) := by
  unfold State.stepUnits
  try dsimp -iota only
  repeat' with_reducible first
    | assumption
    | intro _
    | apply State.onTeam_kept | apply State.entryStep_kept | apply State.isFixed_kept | apply Kept.ite | apply Kept.foldl | apply Kept.foldlP
    | simp only [Kept.record_iff]

theorem State.stepCount_kept (t step : Nat) (last pass : Bool) (h : Kept r s) : Kept r (State.stepCount s t step last pass) := by
  unfold State.stepCount
  try dsimp -iota only
  repeat' with_reducible first
    | assumption
    | intro _
    | apply State.put_kept | apply State.onTeam_kept | apply Kept.ite
    | simp only [Kept.record_iff]

theorem State.stepTell_kept (t p : Nat) (m : Team) (f : Fired) (b : Option PortUse) (comb bkp : Bool) (c : StepChecks) (h : Kept r s) : Kept r (State.stepTell s t p m f b comb bkp c) := by
  unfold State.stepTell
  try dsimp -iota only
  repeat' with_reducible first
    | assumption
    | intro _
    | apply State.rtrFault_kept | apply State.bpErrs_kept | apply State.wuErrs_kept | apply State.dmStep_kept | apply State.bkpHit_kept | apply State.stepOverrun_kept | apply Kept.ite | apply Kept.foldl | apply Kept.foldlP

theorem State.execStep_kept (t p : Nat) (c : StepChecks) (h : Kept r s) : Kept r (State.execStep t p c s) := by
  unfold State.execStep
  try dsimp -iota only
  repeat' with_reducible first
    | assumption
    | apply State.stepUnits_kept | apply State.stepCount_kept | apply State.stepTell_kept

theorem State.qboundAll_kept (t : Nat) (h : Kept r s) : Kept r (State.qboundAll s t) := by
  unfold State.qboundAll
  try dsimp -iota only
  repeat' with_reducible first
    | assumption
    | intro _
    | apply State.qbound_kept | apply State.qboundLd_kept | apply Kept.foldl | apply Kept.foldlP
    | simp only [Kept.record_iff]
    | refine KeptP.of_eq (by assumption) ?_ | refine KeptO.of_eq (by assumption) ?_ | refine KeptOP.of_eq (by assumption) ?_ | refine KeptE.of_eq (by assumption) ?_
    | split

theorem State.stepCycle_kept (t : Nat) (c : StepChecks) (h : Kept r s) : Kept r (State.stepCycle t c s) := by
  unfold State.stepCycle
  try dsimp -iota only
  repeat' with_reducible first
    | assumption
    | apply State.put_kept | apply State.isUe_kept | apply State.rmwWrite_kept | apply State.stall_kept | apply State.isFixed_kept | apply State.execStep_kept | apply Kept.ite | apply Kept.foldl | apply Kept.foldlP
    | simp only [Kept.record_iff]
    | refine KeptP.of_eq (by assumption) ?_ | refine KeptO.of_eq (by assumption) ?_ | refine KeptOP.of_eq (by assumption) ?_ | refine KeptE.of_eq (by assumption) ?_
    | split

theorem State.stepExecute_kept (t : Nat) (c : StepChecks) (h : Kept r s) : Kept r (State.stepExecute t c s) := by
  unfold State.stepExecute
  try dsimp -iota only
  repeat' with_reducible first
    | assumption
    | apply State.qboundAll_kept | apply State.stepCycle_kept

theorem execStepExecute_kept (t : Fin 1024) (c : StepChecks) (s : State) : KeptOut s (execStepExecute t c s) := by
  have h := Kept.refl s
  unfold execStepExecute
  try dsimp -iota only
  repeat' with_reducible first
    | assumption
    | apply State.stepExecute_kept | apply KeptOut.next | apply KeptOut.onMapped

end Sys2Proof.Machine
end

