-- ==== Sys2Proof/Laws/KeptTimeBase.lean ====
section
/-! SUPPORT. What the operations of Machine/TimeBase.lean keep (`Kept`). -/
namespace Sys2Proof.Machine

variable {r s : State}

theorem State.txqCount_kept (h : Kept r s) : Kept r (State.txqCount s) := by
  unfold State.txqCount
  try dsimp -iota only
  repeat' with_reducible first
    | assumption
    | apply State.put_kept

theorem State.pushStamp_kept (src id : Nat) (v : Stamp) (h : Kept r s) : Kept r (State.pushStamp s src id v) := by
  unfold State.pushStamp
  try dsimp -iota only
  repeat' with_reducible first
    | assumption
    | intro _
    | apply State.set1_kept | apply State.sat_kept | apply State.onBox_kept | apply State.txqCount_kept | apply Kept.ite
    | simp only [Kept.record_iff]

theorem State.compare_kept (jumped : Bool) (k : Nat) (h : Kept r s) : Kept r (State.compare s jumped k) := by
  unfold State.compare
  try dsimp -iota only
  repeat' with_reducible first
    | assumption
    | apply State.wr_kept | apply State.set1_kept | apply State.clr_kept | apply State.set1If_kept | apply State.postEvent_kept | apply Kept.ite
    | simp only [Kept.record_iff]

theorem State.tbUpdate_kept (h : Kept r s) : Kept r (State.tbUpdate s) := by
  unfold State.tbUpdate
  refine Kept.ite ?_ h
  split
  next s1 jumped e =>
    have k : Kept r s1 := by
      refine KeptP.of_eq e ?_
      split
      · exact ⟨Kept.record (State.set1If_kept _ _ h) rfl (Nat.le_refl _)⟩
      · exact ⟨Kept.record h rfl (Nat.le_refl _)⟩
    exact State.each_kept _ (State.clr_kept _ (State.clr_kept _ (Kept.record k rfl (Nat.le_refl _))))
      (fun _ _ h => State.compare_kept _ _ h)

theorem execTbUpdate_kept (s : State) : KeptOut s (execTbUpdate s) := by
  have h := Kept.refl s
  unfold execTbUpdate
  try dsimp -iota only
  repeat' with_reducible first
    | assumption
    | apply State.tbUpdate_kept | apply KeptOut.next

theorem State.tbInc_kept (v : Word) (h : Kept r s) : Kept r (State.tbInc v s) := by
  unfold State.tbInc
  try dsimp -iota only
  repeat' with_reducible first
    | assumption
    | apply State.wr_kept
    | simp only [Kept.record_iff]

theorem execTbIncWrite_kept (v : Word) (s : State) : KeptOut s (execTbIncWrite v s) := by
  have h := Kept.refl s
  unfold execTbIncWrite
  try dsimp -iota only
  repeat' with_reducible first
    | assumption
    | apply State.tbInc_kept | apply KeptOut.next

theorem State.tbAdj_kept (v : Word) (h : Kept r s) : Kept r (State.tbAdj v s) := by
  unfold State.tbAdj
  try dsimp -iota only
  repeat' with_reducible first
    | assumption
    | apply State.set1_kept | apply Kept.ite | apply Kept.getD
    | simp only [Kept.record_iff]

theorem execTbAdjWrite_kept (v : Word) (s : State) : KeptOut s (execTbAdjWrite v s) := by
  have h := Kept.refl s
  unfold execTbAdjWrite
  try dsimp -iota only
  repeat' with_reducible first
    | assumption
    | apply State.tbAdj_kept | apply KeptOut.next

theorem State.tbSet_kept (h : Kept r s) : Kept r (State.tbSet s) := by
  unfold State.tbSet
  try dsimp -iota only
  repeat' with_reducible first
    | assumption
    | apply State.set1_kept | apply Kept.ite
    | simp only [Kept.record_iff]

theorem execTbSetWrite_kept (s : State) : KeptOut s (execTbSetWrite s) := by
  have h := Kept.refl s
  unfold execTbSetWrite
  try dsimp -iota only
  repeat' with_reducible first
    | assumption
    | apply State.tbSet_kept | apply KeptOut.next

theorem State.tpLink_kept (heads : List (BitVec 2)) (bad : Nat) (h : Kept r s) : Kept r (State.tpLink heads bad s) := by
  unfold State.tpLink
  try dsimp -iota only
  repeat' with_reducible first
    | assumption
    | apply State.put_kept | apply Kept.ite

theorem execTpLinkUpChange_kept (heads : List (BitVec 2)) (bad : Nat) (s : State) : KeptOut s (execTpLinkUpChange heads bad s) := by
  have h := Kept.refl s
  unfold execTpLinkUpChange
  try dsimp -iota only
  repeat' with_reducible first
    | assumption
    | apply State.tpLink_kept | apply KeptOut.next

theorem State.tpGo_kept (j : Nat) (h : Kept r s) : Kept r (State.tpGo j s) := by
  unfold State.tpGo
  try dsimp -iota only
  repeat' with_reducible first
    | assumption
    | apply State.set1_kept | apply Kept.ite
    | simp only [Kept.record_iff]

theorem execTpTxGo_kept (j : Fin 8) (s : State) : KeptOut s (execTpTxGo j s) := by
  have h := Kept.refl s
  unfold execTpTxGo
  try dsimp -iota only
  repeat' with_reducible first
    | assumption
    | apply State.tpGo_kept | apply KeptOut.next

theorem State.setTpBytes_kept (off : Nat) (bs : List Byte) (h : Kept r s) : Kept r (s.setTpBytes off bs) := by
  induction bs generalizing s off with
  | nil => exact h
  | cons b bs ih => exact ih _ (h.record rfl (Nat.le_refl _))

theorem State.tpStore_kept (frame : List Byte) (v : Stamp) (h : Kept r s) : Kept r (State.tpStore s frame v) := by
  unfold State.tpStore
  try dsimp -iota only
  repeat' with_reducible first
    | assumption
    | apply State.put_kept | apply State.set1_kept | apply State.sat_kept | apply State.setTpBytes_kept | apply Kept.ite
    | simp only [Kept.record_iff]

theorem State.tpDone_kept (m : Moment) (h : Kept r s) : Kept r (State.tpDone m s) := by
  unfold State.tpDone
  try dsimp -iota only
  repeat' with_reducible first
    | assumption
    | apply State.clr_kept | apply State.sat_kept | apply State.spendN_kept | apply State.pushStamp_kept | apply Kept.ite
    | simp only [Kept.record_iff]
    | refine KeptP.of_eq (by assumption) ?_ | refine KeptO.of_eq (by assumption) ?_ | refine KeptOP.of_eq (by assumption) ?_ | refine KeptE.of_eq (by assumption) ?_
    | split

theorem execTpTxDone_kept (at_ : Moment) (s : State) : KeptOut s (execTpTxDone at_ s) := by
  have h := Kept.refl s
  unfold execTpTxDone
  try dsimp -iota only
  repeat' with_reducible first
    | assumption
    | apply State.tpDone_kept | apply KeptOut.next

theorem State.tpRx_kept (blocks : List RxBlock) (m : Moment) (h : Kept r s) : Kept r (State.tpRx blocks m s) := by
  unfold State.tpRx
  try dsimp -iota only
  repeat' with_reducible first
    | assumption
    | apply State.sat_kept | apply State.take_kept | apply State.tpStore_kept | apply Kept.ite
    | simp only [Kept.record_iff]
    | refine KeptP.of_eq (by assumption) ?_ | refine KeptO.of_eq (by assumption) ?_ | refine KeptOP.of_eq (by assumption) ?_ | refine KeptE.of_eq (by assumption) ?_
    | split

theorem execTpRxFrame_kept (blocks : List RxBlock) (at_ : Moment) (s : State) : KeptOut s (execTpRxFrame blocks at_ s) := by
  have h := Kept.refl s
  unfold execTpRxFrame
  try dsimp -iota only
  repeat' with_reducible first
    | assumption
    | apply State.tpRx_kept | apply KeptOut.next

theorem execTpRxFree_kept (j : Fin 16) (s : State) : KeptOut s (execTpRxFree j s) := by
  have h := Kept.refl s
  unfold execTpRxFree
  try dsimp -iota only
  repeat' with_reducible first
    | assumption
    | apply State.clr_kept | apply KeptOut.next

end Sys2Proof.Machine
end

