-- ==== Sys2Proof/Laws/KeptBoundary.lean ====
section
/-! SUPPORT. What the operations of Machine/Boundary.lean keep (`Kept`). -/
namespace Sys2Proof.Machine

variable {r s : State}

theorem State.rsWrite_kept (t port : Nat) (h : Kept r s) : Kept r (State.rsWrite t port s) := by
  unfold State.rsWrite
  try dsimp -iota only
  repeat' with_reducible first
    | assumption
    | intro _
    | apply State.onTeam_kept | apply State.setRouter_kept | apply State.onLink_kept | apply State.deadStatic_kept | apply State.probeStatic_kept | apply Kept.ite
    | simp only [Kept.record_iff]
    | refine KeptP.of_eq (by assumption) ?_ | refine KeptO.of_eq (by assumption) ?_ | refine KeptOP.of_eq (by assumption) ?_ | refine KeptE.of_eq (by assumption) ?_
    | split

theorem execReceiveStoreWrite_kept (t : Fin 1024) (port : Fin 4) (s : State) : KeptOut s (execReceiveStoreWrite t port s) := by
  have h := Kept.refl s
  unfold execReceiveStoreWrite
  try dsimp -iota only
  repeat' with_reducible first
    | assumption
    | apply State.rsWrite_kept | apply KeptOut.next | apply KeptOut.onMapped

theorem State.carryArrive_kept (t : Nat) (h : Kept r s) : Kept r (State.carryArrive t s) := by
  unfold State.carryArrive
  try dsimp -iota only
  repeat' with_reducible first
    | assumption
    | apply State.setTeam_kept | apply State.wuErrs_kept | apply Kept.ite
    | simp only [Kept.record_iff]
    | refine KeptP.of_eq (by assumption) ?_ | refine KeptO.of_eq (by assumption) ?_ | refine KeptOP.of_eq (by assumption) ?_ | refine KeptE.of_eq (by assumption) ?_
    | split

theorem execCarryArrival_kept (t : Fin 1024) (s : State) : KeptOut s (execCarryArrival t s) := by
  have h := Kept.refl s
  unfold execCarryArrival
  try dsimp -iota only
  repeat' with_reducible first
    | assumption
    | intro _
    | apply State.carryArrive_kept | apply KeptOut.next | apply KeptOut.onMapped | apply Kept.ite

theorem State.gwRspArrive_kept (t : Nat) (h : Kept r s) : Kept r (State.gwRspArrive t s) := by
  unfold State.gwRspArrive
  try dsimp -iota only
  repeat' with_reducible first
    | assumption
    | intro _
    | apply State.setTeam_kept | apply State.setRouter_kept | apply State.wuErrs_kept | apply Kept.ite
    | simp only [Kept.record_iff]
    | refine KeptP.of_eq (by assumption) ?_ | refine KeptO.of_eq (by assumption) ?_ | refine KeptOP.of_eq (by assumption) ?_ | refine KeptE.of_eq (by assumption) ?_
    | split

theorem execGwRspArrival_kept (t : Fin 1024) (s : State) : KeptOut s (execGwRspArrival t s) := by
  have h := Kept.refl s
  unfold execGwRspArrival
  try dsimp -iota only
  repeat' with_reducible first
    | assumption
    | apply State.gwRspArrive_kept | apply KeptOut.next | apply KeptOut.onMapped

theorem State.progArrive_kept (t port : Nat) (count : Word) (h : Kept r s) : Kept r (State.progArrive t port count s) := by
  unfold State.progArrive
  try dsimp -iota only
  repeat' with_reducible first
    | assumption
    | intro _
    | apply State.onTeam_kept | apply Kept.ite
    | simp only [Kept.record_iff]

theorem execProgressCountArrival_kept (t : Fin 1024) (port : Fin 4) (count : Word) (s : State) : KeptOut s (execProgressCountArrival t port count s) := by
  have h := Kept.refl s
  unfold execProgressCountArrival
  try dsimp -iota only
  repeat' with_reducible first
    | assumption
    | apply State.progArrive_kept | apply KeptOut.next | apply KeptOut.onMapped

theorem State.hungReport_kept (t state : Nat) (h : Kept r s) : Kept r (State.hungReport s t state) := by
  unfold State.hungReport
  try dsimp -iota only
  repeat' with_reducible first
    | assumption
    | intro _
    | apply State.onTeam_kept | apply State.postEvent_kept | apply State.groomRec_kept | apply Kept.ite
    | simp only [Kept.record_iff]

theorem State.hang_kept (t : Nat) (h : Kept r s) : Kept r (State.hang t s) := by
  unfold State.hang
  try dsimp -iota only
  repeat' with_reducible first
    | assumption
    | apply State.set1_kept | apply State.hungReport_kept | apply Kept.ite

theorem execHangTimerExpiry_kept (t : Fin 1024) (s : State) : KeptOut s (execHangTimerExpiry t s) := by
  have h := Kept.refl s
  unfold execHangTimerExpiry
  try dsimp -iota only
  repeat' with_reducible first
    | assumption
    | apply State.hang_kept | apply KeptOut.next | apply KeptOut.onMapped

theorem State.handSlice_kept (t : Nat) (h : Kept r s) : Kept r (State.handSlice s t) := by
  unfold State.handSlice
  try dsimp -iota only
  repeat' with_reducible first
    | assumption
    | intro _
    | apply Kept.ite | apply Kept.foldl | apply Kept.foldlP
    | simp only [Kept.record_iff]

theorem State.pass_kept (t : Nat) (h : Kept r s) : Kept r (State.pass s t) := by
  unfold State.pass
  try dsimp -iota only
  repeat' with_reducible first
    | assumption
    | intro _
    | apply State.put_kept | apply State.setTeam_kept | apply State.onRouter_kept | apply State.swapAt_kept | apply State.wuErrs_kept | apply State.handSlice_kept | apply Kept.ite | apply Kept.getD
    | simp only [Kept.record_iff]

theorem State.consumeShown_kept (h : Kept r s) : Kept r (State.consumeShown s) := by
  unfold State.consumeShown
  try dsimp -iota only
  repeat' with_reducible first
    | assumption
    | apply State.put_kept | apply Kept.ite

theorem State.boundary_kept (t : Nat) (h : Kept r s) : Kept r (State.boundary t s) := by
  unfold State.boundary
  try dsimp -iota only
  repeat' with_reducible first
    | assumption
    | apply State.put_kept | apply State.sat_kept | apply State.pass_kept | apply State.consumeShown_kept | apply Kept.ite

theorem execStrideBoundaryPass_kept (t : Fin 1024) (s : State) : KeptOut s (execStrideBoundaryPass t s) := by
  have h := Kept.refl s
  unfold execStrideBoundaryPass
  try dsimp -iota only
  repeat' with_reducible first
    | assumption
    | apply State.boundary_kept | apply KeptOut.next | apply KeptOut.onMapped

theorem State.strideCheck_kept (link n own got : Nat) (h : Kept r s) : Kept r (State.strideCheck s link n own got) := by
  unfold State.strideCheck
  try dsimp -iota only
  repeat' with_reducible first
    | assumption
    | apply State.set1_kept | apply State.requestHold_kept | apply State.enterQuarantine_kept | apply Kept.ite

theorem State.strideKeep_kept (link n c : Nat) (h : Kept r s) : Kept r (State.strideKeep s link n c) := by
  unfold State.strideKeep
  try dsimp -iota only
  repeat' with_reducible first
    | assumption
    | intro _
    | apply State.onLink_kept | apply State.take_kept | apply State.strideCheck_kept
    | simp only [Kept.record_iff]
    | refine KeptP.of_eq (by assumption) ?_ | refine KeptO.of_eq (by assumption) ?_ | refine KeptOP.of_eq (by assumption) ?_ | refine KeptE.of_eq (by assumption) ?_
    | split

theorem State.strideSay_kept (n : Nat) (h : Kept r s) : Kept r (State.strideSay s n) := by
  unfold State.strideSay
  try dsimp -iota only
  repeat' with_reducible first
    | assumption
    | intro _
    | apply State.sayAll_kept | apply State.strideKeep_kept | apply Kept.foldl | apply Kept.foldlP
    | simp only [Kept.record_iff]
    | refine KeptP.of_eq (by assumption) ?_ | refine KeptO.of_eq (by assumption) ?_ | refine KeptOP.of_eq (by assumption) ?_ | refine KeptE.of_eq (by assumption) ?_
    | split

theorem State.forgetStrides_kept (h : Kept r s) : Kept r (State.forgetStrides s) := by
  unfold State.forgetStrides
  try dsimp -iota only
  repeat' with_reducible first
    | assumption
    | intro _
    | apply State.onLink_kept | apply Kept.foldl | apply Kept.foldlP
    | simp only [Kept.record_iff]

theorem State.sbCapture_kept (n elapsed : Nat) (h : Kept r s) : Kept r (State.sbCapture s n elapsed) := by
  unfold State.sbCapture
  try dsimp -iota only
  repeat' with_reducible first
    | assumption
    | apply State.wr_kept | apply State.set1_kept | apply Kept.ite

theorem State.giveSet_kept (n : Nat) (h : Kept r s) : Kept r (State.giveSet s n) := by
  unfold State.giveSet
  try dsimp -iota only
  repeat' with_reducible first
    | assumption
    | apply State.sat_kept | apply Kept.ite
    | simp only [Kept.record_iff]

theorem State.completeInto_kept (n elapsed : Nat) (h : Kept r s) : Kept r (State.completeInto s n elapsed) := by
  unfold State.completeInto
  try dsimp -iota only
  repeat' with_reducible first
    | assumption
    | apply State.putPair_kept | apply State.strideSay_kept | apply State.sbCapture_kept | apply State.giveSet_kept | apply Kept.ite
    | simp only [Kept.record_iff]

theorem State.chipBoundary_kept (elapsed : Nat) (h : Kept r s) : Kept r (State.chipBoundary elapsed s) := by
  unfold State.chipBoundary
  try dsimp -iota only
  repeat' with_reducible first
    | assumption
    | apply State.completeInto_kept | apply Kept.ite
    | simp only [Kept.record_iff]
    | refine KeptP.of_eq (by assumption) ?_ | refine KeptO.of_eq (by assumption) ?_ | refine KeptOP.of_eq (by assumption) ?_ | refine KeptE.of_eq (by assumption) ?_
    | split

theorem execChipBoundaryComplete_kept (elapsed : Nat) (s : State) : KeptOut s (execChipBoundaryComplete elapsed s) := by
  have h := Kept.refl s
  unfold execChipBoundaryComplete
  try dsimp -iota only
  repeat' with_reducible first
    | assumption
    | apply State.chipBoundary_kept | apply KeptOut.next

theorem State.hitchLatch_kept (h : Kept r s) : Kept r (State.hitchLatch s) := by
  unfold State.hitchLatch
  try dsimp -iota only
  repeat' with_reducible first
    | assumption
    | intro _
    | apply State.onTeam_kept | apply Kept.ite | apply Kept.foldl | apply Kept.foldlP
    | simp only [Kept.record_iff]

theorem execHitchInputLatch_kept (s : State) : KeptOut s (execHitchInputLatch s) := by
  have h := Kept.refl s
  unfold execHitchInputLatch
  try dsimp -iota only
  repeat' with_reducible first
    | assumption
    | apply State.hitchLatch_kept | apply KeptOut.next

end Sys2Proof.Machine
end

