-- ==== Sys2Proof/Laws/KeptDesignMem.lean ====
section
/-! SUPPORT. What the operations of Machine/DesignMem.lean keep (`Kept`). -/
namespace Sys2Proof.Machine

variable {r s : State}

theorem State.isStage_kept (t : Nat) (wu : Bool) (k : Nat) (v : W24) (h : Kept r s) : Kept r (State.isStage t wu k v s) := by
  unfold State.isStage
  try dsimp -iota only
  repeat' with_reducible first
    | assumption
    | intro _
    | apply State.onTeam_kept | apply State.stage_kept | apply Kept.ite
    | simp only [Kept.record_iff]

theorem execIsStageWrite_kept (t : Fin 1024) (wu : Bool) (k : Fin 2) (v : BitVec 24) (s : State) : KeptOut s (execIsStageWrite t wu k v s) := by
  have h := Kept.refl s
  unfold execIsStageWrite
  try dsimp -iota only
  repeat' with_reducible first
    | assumption
    | apply State.isStage_kept | apply KeptOut.next | apply KeptOut.onMapped

theorem State.isCommit_kept (t u a : Nat) (v : W24) (h : Kept r s) : Kept r (State.isCommit t u a v s) := by
  unfold State.isCommit
  try dsimp -iota only
  repeat' with_reducible first
    | assumption
    | intro _
    | apply State.onTeam_kept | apply Kept.ite

theorem execIsCommitWrite_kept (t : Fin 1024) (u : Fin 65) (a : Fin 1024) (v : BitVec 24) (s : State) : KeptOut s (execIsCommitWrite t u a v s) := by
  have h := Kept.refl s
  unfold execIsCommitWrite
  try dsimp -iota only
  repeat' with_reducible first
    | assumption
    | apply State.isCommit_kept | apply KeptOut.next | apply KeptOut.onMapped

theorem State.dmPut_kept (t : Nat) (k : DmaKind) (a : Nat) (d : W24) (c : MemCheck) (h : Kept r s) : Kept r (State.dmPut s t k a d c) := by
  unfold State.dmPut
  try dsimp -iota only
  repeat' with_reducible first
    | assumption
    | intro _
    | apply State.onTeam_kept | apply State.dmChecked_kept | apply Kept.ite

theorem State.dmFirmware_kept (t : Nat) (src : DmaSrc) (k : DmaKind) (a : Nat) (d : W24) (c : MemCheck) (h : Kept r s) : Kept r (State.dmFirmware s t src k a d c) := by
  unfold State.dmFirmware
  try dsimp -iota only
  repeat' with_reducible first
    | assumption
    | intro _
    | apply State.onTeam_kept | apply State.dmPut_kept | apply Kept.ite
    | simp only [Kept.record_iff]

theorem State.dmWrite_kept (t : Nat) (host : Bool) (k : DmaKind) (a : Nat) (d : W24) (c : MemCheck) (h : Kept r s) : Kept r (State.dmWrite t host k a d c s) := by
  unfold State.dmWrite
  try dsimp -iota only
  repeat' with_reducible first
    | assumption
    | apply State.set1If_kept | apply State.dmPut_kept | apply State.dmFirmware_kept | apply Kept.ite

theorem execDmWindowWrite_kept (t : Fin 1024) (host : Bool) (a : BitVec 15) (v : BitVec 24) (s : State) : KeptOut s (execDmWindowWrite t host a v s) := by
  have h := Kept.refl s
  unfold execDmWindowWrite
  try dsimp -iota only
  repeat' with_reducible first
    | assumption
    | apply State.dmWrite_kept | apply KeptOut.next | apply KeptOut.onMapped

theorem execDmAliasSet_kept (t : Fin 1024) (host : Bool) (a : BitVec 15) (v : BitVec 24) (c : MemCheck) (s : State) : KeptOut s (execDmAliasSet t host a v c s) := by
  have h := Kept.refl s
  unfold execDmAliasSet
  try dsimp -iota only
  repeat' with_reducible first
    | assumption
    | apply State.dmWrite_kept | apply KeptOut.next | apply KeptOut.onMapped

theorem execDmAliasClear_kept (t : Fin 1024) (host : Bool) (a : BitVec 15) (v : BitVec 24) (c : MemCheck) (s : State) : KeptOut s (execDmAliasClear t host a v c s) := by
  have h := Kept.refl s
  unfold execDmAliasClear
  try dsimp -iota only
  repeat' with_reducible first
    | assumption
    | apply State.dmWrite_kept | apply KeptOut.next | apply KeptOut.onMapped

theorem State.dmaAnswer_kept (t : Nat) (a1 : DmaReq) (h : Kept r s) : Kept r (State.dmaAnswer s t a1) := by
  unfold State.dmaAnswer
  try dsimp -iota only
  repeat' with_reducible first
    | assumption
    | intro _
    | apply State.wait_kept | apply Kept.ite
    | simp only [Kept.record_iff]
    | refine KeptP.of_eq (by assumption) ?_ | refine KeptO.of_eq (by assumption) ?_ | refine KeptOP.of_eq (by assumption) ?_ | refine KeptE.of_eq (by assumption) ?_
    | split

theorem State.dmaServe_kept (t : Nat) (c : MemCheck) (h : Kept r s) : Kept r (State.dmaServe t c s) := by
  unfold State.dmaServe
  try dsimp -iota only
  repeat' with_reducible first
    | assumption
    | apply State.setTeam_kept | apply State.dmChecked_kept | apply State.dmPut_kept | apply State.dmaAnswer_kept | apply Kept.ite
    | simp only [Kept.record_iff]
    | refine KeptP.of_eq (by assumption) ?_ | refine KeptO.of_eq (by assumption) ?_ | refine KeptOP.of_eq (by assumption) ?_ | refine KeptE.of_eq (by assumption) ?_
    | split

theorem State.hostCatchUp_kept (t : Nat) (c : MemCheck) (h : Kept r s) : Kept r (State.hostCatchUp s t c) := by
  unfold State.hostCatchUp
  try dsimp -iota only
  repeat' with_reducible first
    | assumption
    | intro _
    | apply State.dmaServe_kept | apply Kept.foldl | apply Kept.foldlP

theorem execDmaAccess_kept (t : Fin 1024) (c : MemCheck) (s : State) : KeptOut s (execDmaAccess t c s) := by
  have h := Kept.refl s
  unfold execDmaAccess
  try dsimp -iota only
  repeat' with_reducible first
    | assumption
    | apply State.dmaServe_kept | apply KeptOut.next | apply KeptOut.onMapped

theorem State.dmaForce_kept (t : Nat) (c : MemCheck) (h : Kept r s) : Kept r (State.dmaForce t c s) := by
  unfold State.dmaForce
  try dsimp -iota only
  repeat' with_reducible first
    | assumption
    | apply State.set1_kept | apply State.stall_kept | apply State.dmaServe_kept | apply Kept.ite

theorem execDmaForced_kept (t : Fin 1024) (c : MemCheck) (s : State) : KeptOut s (execDmaForced t c s) := by
  have h := Kept.refl s
  unfold execDmaForced
  try dsimp -iota only
  repeat' with_reducible first
    | assumption
    | apply State.dmaForce_kept | apply KeptOut.next | apply KeptOut.onMapped

theorem State.patrolFail_kept (t a : Nat) (h : Kept r s) : Kept r (State.patrolFail s t a) := by
  unfold State.patrolFail
  try dsimp -iota only
  repeat' with_reducible first
    | assumption
    | apply State.set1_kept | apply State.groomRec_kept | apply State.dmLoc_kept

theorem State.patrol_kept (t fixed : Nat) (ue : List (Fin 256 × BitVec 24)) (bad : List (Fin 256)) (h : Kept r s) : Kept r (State.patrol t fixed ue bad s) := by
  unfold State.patrol
  try dsimp -iota only
  repeat' with_reducible first
    | assumption
    | intro _
    | apply State.set1_kept | apply State.onTeam_kept | apply State.corrected_kept | apply State.dmUe_kept | apply State.patrolFail_kept | apply Kept.ite | apply Kept.foldl | apply Kept.foldlP
    | simp only [Kept.record_iff]
    | refine KeptP.of_eq (by assumption) ?_ | refine KeptO.of_eq (by assumption) ?_ | refine KeptOP.of_eq (by assumption) ?_ | refine KeptE.of_eq (by assumption) ?_
    | split

theorem execPatrolRegion_kept (t : Fin 1024) (fixed : Nat) (ue : List (Fin 256 × BitVec 24)) (bad : List (Fin 256)) (s : State) : KeptOut s (execPatrolRegion t fixed ue bad s) := by
  have h := Kept.refl s
  unfold execPatrolRegion
  try dsimp -iota only
  repeat' with_reducible first
    | assumption
    | apply State.patrol_kept | apply KeptOut.next | apply KeptOut.onMapped

theorem State.isPatrolRead_kept (t : Nat) (c : Check) (h : Kept r s) : Kept r (State.isPatrolRead t c s) := by
  unfold State.isPatrolRead
  try dsimp -iota only
  repeat' with_reducible first
    | assumption
    | intro _
    | apply State.onTeam_kept | apply State.isCorrected_kept | apply State.isUe_kept | apply Kept.ite
    | simp only [Kept.record_iff]
    | refine KeptP.of_eq (by assumption) ?_ | refine KeptO.of_eq (by assumption) ?_ | refine KeptOP.of_eq (by assumption) ?_ | refine KeptE.of_eq (by assumption) ?_
    | split

theorem State.isRegionTest_kept (t fixed : Nat) (ue : Option (Fin 256)) (bad : Bool) (h : Kept r s) : Kept r (State.isRegionTest t fixed ue bad s) := by
  unfold State.isRegionTest
  try dsimp -iota only
  repeat' with_reducible first
    | assumption
    | intro _
    | apply State.set1_kept | apply State.onTeam_kept | apply State.spend_kept | apply State.corrected_kept | apply State.isUe_kept | apply State.patrolFail_kept | apply Kept.ite
    | simp only [Kept.record_iff]
    | refine KeptP.of_eq (by assumption) ?_ | refine KeptO.of_eq (by assumption) ?_ | refine KeptOP.of_eq (by assumption) ?_ | refine KeptE.of_eq (by assumption) ?_
    | split

theorem State.isPatrolStep_kept (t : Nat) (c : Check) (fixed : Nat) (ue : Option (Fin 256)) (bad : Bool) (h : Kept r s) : Kept r (State.isPatrolStep t c fixed ue bad s) := by
  unfold State.isPatrolStep
  try dsimp -iota only
  repeat' with_reducible first
    | assumption
    | apply State.isPatrolRead_kept | apply State.isRegionTest_kept | apply Kept.ite

theorem execIsPatrol_kept (t : Fin 1024) (c : Check) (fixed : Nat) (ue : Option (Fin 256)) (bad : Bool) (s : State) : KeptOut s (execIsPatrol t c fixed ue bad s) := by
  have h := Kept.refl s
  unfold execIsPatrol
  try dsimp -iota only
  repeat' with_reducible first
    | assumption
    | apply State.isPatrolStep_kept | apply KeptOut.next | apply KeptOut.onMapped

theorem State.bankPower_kept (t b v : Nat) (h : Kept r s) : Kept r (State.bankPower s t b v) := by
  unfold State.bankPower
  try dsimp -iota only
  repeat' with_reducible first
    | assumption
    | intro _
    | apply State.put_kept | apply State.clr_kept | apply State.onTeam_kept | apply Kept.ite
    | simp only [Kept.record_iff]

theorem State.bankWrite_kept (t b v : Nat) (h : Kept r s) : Kept r (State.bankWrite t b v s) := by
  unfold State.bankWrite
  try dsimp -iota only
  repeat' with_reducible first
    | assumption
    | apply State.bankPower_kept | apply Kept.ite

theorem execBankPowerWrite_kept (t : Fin 1024) (b : Fin 2) (v : BitVec 2) (s : State) : KeptOut s (execBankPowerWrite t b v s) := by
  have h := Kept.refl s
  unfold execBankPowerWrite
  try dsimp -iota only
  repeat' with_reducible first
    | assumption
    | apply State.bankWrite_kept | apply KeptOut.next | apply KeptOut.onMapped

theorem State.bankDone_kept (t b : Nat) (h : Kept r s) : Kept r (State.bankDone t b s) := by
  unfold State.bankDone
  try dsimp -iota only
  repeat' with_reducible first
    | assumption
    | intro _
    | apply State.set1_kept | apply State.onTeam_kept | apply Kept.ite
    | simp only [Kept.record_iff]

theorem execBankInitDone_kept (t : Fin 1024) (b : Fin 2) (s : State) : KeptOut s (execBankInitDone t b s) := by
  have h := Kept.refl s
  unfold execBankInitDone
  try dsimp -iota only
  repeat' with_reducible first
    | assumption
    | apply State.bankDone_kept | apply KeptOut.next | apply KeptOut.onMapped

theorem State.setLatch_kept (w : Agent) (a : Nat) (v : Word) (h : Kept r s) : Kept r (State.setLatch s w a v) := by
  unfold State.setLatch
  try dsimp -iota only
  repeat' with_reducible first
    | assumption
    | intro _
    | simp only [Kept.record_iff]

theorem State.strideLoWrite_kept (v : Word) (h : Kept r s) : Kept r (State.strideLoWrite v s) := by
  unfold State.strideLoWrite
  try dsimp -iota only
  repeat' with_reducible first
    | assumption
    | apply Kept.ite
    | simp only [Kept.record_iff]

theorem execChipStrideLoWrite_kept (v : Word) (s : State) : KeptOut s (execChipStrideLoWrite v s) := by
  have h := Kept.refl s
  unfold execChipStrideLoWrite
  try dsimp -iota only
  repeat' with_reducible first
    | assumption
    | apply State.strideLoWrite_kept | apply KeptOut.next

theorem State.strideHiWrite_kept (v : Word) (h : Kept r s) : Kept r (State.strideHiWrite v s) := by
  unfold State.strideHiWrite
  try dsimp -iota only
  repeat' with_reducible first
    | assumption
    | apply State.wr_kept | apply Kept.ite

theorem execChipStrideHiWrite_kept (v : Word) (s : State) : KeptOut s (execChipStrideHiWrite v s) := by
  have h := Kept.refl s
  unfold execChipStrideHiWrite
  try dsimp -iota only
  repeat' with_reducible first
    | assumption
    | apply State.strideHiWrite_kept | apply KeptOut.next

theorem State.pairRead_kept (w : Agent) (lo hi : Nat) (h : Kept r s) : Kept r (State.pairRead w lo hi s) := by
  unfold State.pairRead
  try dsimp -iota only
  repeat' with_reducible first
    | assumption
    | apply State.setLatch_kept
    | simp only [Kept.record_iff]

theorem execChipStrideLoRead_kept (who : Agent) (s : State) : KeptOut s (execChipStrideLoRead who s) := by
  have h := Kept.refl s
  unfold execChipStrideLoRead
  try dsimp -iota only
  repeat' with_reducible first
    | assumption
    | apply State.pairRead_kept | apply KeptOut.next

end Sys2Proof.Machine
end

