-- ==== Sys2Proof/Laws/KeptMailbox.lean ====
section
/-! SUPPORT. What the operations of Machine/Mailbox.lean keep (`Kept`). -/
namespace Sys2Proof.Machine

variable {r s : State}

theorem State.breach_kept (m : Nat) (f : Fld) (h : Kept r s) : Kept r (State.breach s m f) := by
  unfold State.breach
  try dsimp -iota only
  repeat' with_reducible first
    | assumption
    | apply State.set1_kept | apply State.raise_kept | apply State.groomRec_kept

theorem State.doorbell_kept (m : Nat) (v : Word) (h : Kept r s) : Kept r (State.doorbell m v s) := by
  unfold State.doorbell
  try dsimp -iota only
  repeat' with_reducible first
    | assumption
    | apply State.put_kept | apply State.breach_kept | apply Kept.ite

theorem execDoorbell_kept (m : Fin 4) (v : Word) (s : State) : KeptOut s (execDoorbell m v s) := by
  have h := Kept.refl s
  unfold execDoorbell
  try dsimp -iota only
  repeat' with_reducible first
    | assumption
    | apply State.doorbell_kept | apply KeptOut.next | apply State.unlessHalted_kept

theorem State.slotWrite_kept (m w : Nat) (v : Word) (h : Kept r s) : Kept r (State.slotWrite m w v s) := by
  unfold State.slotWrite
  try dsimp -iota only
  repeat' with_reducible first
    | assumption
    | intro _
    | apply State.onBox_kept | apply State.breach_kept | apply Kept.ite | apply KeptP.ite
    | simp only [Kept.record_iff, KeptP.mk_iff]

theorem execCommandSlotWrite_kept (m : Fin 4) (w : Fin 1024) (v : Word) (s : State) : KeptOut s (execCommandSlotWrite m w v s) := by
  have h := Kept.refl s
  unfold execCommandSlotWrite
  try dsimp -iota only
  repeat' with_reducible first
    | assumption
    | apply State.slotWrite_kept | apply KeptOut.next | apply State.unlessHalted_kept

theorem State.rspCiWrite_kept (m : Nat) (v : Word) (h : Kept r s) : Kept r (State.rspCiWrite m v s) := by
  unfold State.rspCiWrite
  try dsimp -iota only
  repeat' with_reducible first
    | assumption
    | apply State.put_kept | apply State.breach_kept | apply Kept.ite

theorem execRspCiWrite_kept (m : Fin 4) (v : Word) (s : State) : KeptOut s (execRspCiWrite m v s) := by
  have h := Kept.refl s
  unfold execRspCiWrite
  try dsimp -iota only
  repeat' with_reducible first
    | assumption
    | apply State.rspCiWrite_kept | apply KeptOut.next | apply State.unlessHalted_kept

theorem State.take_kept (m : Nat) (h : Kept r s) : Kept r (State.take m s) := by
  unfold State.take
  try dsimp -iota only
  repeat' with_reducible first
    | assumption
    | intro _
    | apply State.put_kept | apply State.onBox_kept | apply State.respond_kept | apply Kept.ite | apply KeptP.ite
    | simp only [Kept.record_iff, KeptP.mk_iff]
    | refine KeptP.of_eq (by assumption) ?_ | refine KeptO.of_eq (by assumption) ?_ | refine KeptOP.of_eq (by assumption) ?_ | refine KeptE.of_eq (by assumption) ?_
    | split

theorem execCommandTake_kept (m : Fin 4) (s : State) : KeptOut s (execCommandTake m s) := by
  have h := Kept.refl s
  unfold execCommandTake
  try dsimp -iota only
  repeat' with_reducible first
    | assumption
    | apply State.take_kept | apply KeptOut.next

theorem State.cmd_kept {f : BitVec 512 → State → State × Resp} (m op : Nat) (hf : ∀ d s, Kept r s → KeptP r (f d s))
    (h : Kept r s) : Kept r (s.cmd m op f) := by
  unfold State.cmd
  split
  · exact h
  · next i c _ =>
    dsimp only
    split
    · exact State.respond_kept _ _ _ _ (State.onBox_kept _ _ h)
    · exact State.respond_kept _ _ _ _ (hf _ _ (State.onBox_kept _ _ h)).fst

theorem State.pollStarted_kept {poll : Taken → State → Option (State × Resp)} (m op : Nat)
    (hp : ∀ c s, Kept r s → KeptOP r (poll c s)) (h : Kept r s) : KeptO r (s.pollStarted m op poll) := by
  unfold State.pollStarted
  dsimp only
  split
  · next i s1 x e =>
    refine KeptO.some (State.finishAt_kept _ _ _ ?_)
    obtain ⟨j, _, hj⟩ := List.exists_of_findSome?_eq_some e
    split at hj
    · next c _ =>
      split at hj
      · cases hq : poll c s with
        | none => simp [hq] at hj
        | some q =>
          rw [hq] at hj
          simp only [Option.map_some, Option.some.injEq, Prod.mk.injEq] at hj
          exact (hp c s h).of s1 x (by rw [hq, hj.2])
      · cases hj
    · cases hj
  · exact KeptO.none

theorem State.cmdLong_kept {start : BitVec 512 → State → State × Nat × Option Resp} {poll : Taken → State → Option (State × Resp)}
    (m op : Nat) (hs : ∀ d s, Kept r s → KeptP r (start d s)) (hp : ∀ c s, Kept r s → KeptOP r (poll c s))
    (h : Kept r s) : Kept r (s.cmdLong m op start poll) := by
  unfold State.cmdLong
  split
  · next i c _ =>
    split
    · exact State.finishAt_kept _ _ _ h
    · dsimp only
      have k := hs c.desc _ (State.onBox_kept m (fun b => { b with taken := b.taken.set i { c with started := true, note := 0 } }) h)
      split
      · exact State.finishAt_kept _ _ _ k.fst
      · exact State.onBox_kept _ _ k.fst
  · exact Kept.getD (State.pollStarted_kept m op hp h) h

theorem State.eventPost_kept (m : Nat) (h : Kept r s) : Kept r (State.eventPost m s) := by
  unfold State.eventPost
  try dsimp -iota only
  repeat' with_reducible first
    | assumption
    | intro _
    | apply State.onBox_kept | apply State.raise_kept | apply State.postSlot_kept | apply Kept.ite
    | simp only [Kept.record_iff]
    | refine KeptP.of_eq (by assumption) ?_ | refine KeptO.of_eq (by assumption) ?_ | refine KeptOP.of_eq (by assumption) ?_ | refine KeptE.of_eq (by assumption) ?_
    | split

theorem execEventPost_kept (m : Fin 4) (s : State) : KeptOut s (execEventPost m s) := by
  have h := Kept.refl s
  unfold execEventPost
  try dsimp -iota only
  repeat' with_reducible first
    | assumption
    | apply State.eventPost_kept | apply KeptOut.next

theorem State.intEn_kept (hi : Bool) (v : Word) (h : Kept r s) : Kept r (State.intEn hi v s) := by
  unfold State.intEn
  try dsimp -iota only
  repeat' with_reducible first
    | assumption
    | intro _
    | apply State.wr_kept | apply State.each_kept | apply State.sendMsg_kept | apply Kept.ite

theorem execPeIntEnWrite_kept (hi : Bool) (v : Word) (s : State) : KeptOut s (execPeIntEnWrite hi v s) := by
  have h := Kept.refl s
  unfold execPeIntEnWrite
  try dsimp -iota only
  repeat' with_reducible first
    | assumption
    | apply State.intEn_kept | apply KeptOut.next | apply State.unlessHalted_kept

theorem State.sendPending_kept (v : Nat) (h : Kept r s) : Kept r (State.sendPending s v) := by
  unfold State.sendPending
  try dsimp -iota only
  repeat' with_reducible first
    | assumption
    | apply State.emitMsg_kept | apply Kept.ite
    | simp only [Kept.record_iff]

theorem State.unmask_kept (v : Nat) (h : Kept r s) : Kept r (State.unmask v s) := by
  unfold State.unmask
  try dsimp -iota only
  repeat' with_reducible first
    | assumption
    | apply State.sendPending_kept
    | simp only [Kept.record_iff]

theorem execMsixVectorUnmask_kept (v : Fin 64) (s : State) : KeptOut s (execMsixVectorUnmask v s) := by
  have h := Kept.refl s
  unfold execMsixVectorUnmask
  try dsimp -iota only
  repeat' with_reducible first
    | assumption
    | apply State.unmask_kept | apply KeptOut.next | apply State.unlessHalted_kept

theorem State.boxReset_kept (m : Nat) (h : Kept r s) : Kept r (State.boxReset m s) := by
  unfold State.boxReset
  try dsimp -iota only
  repeat' with_reducible first
    | assumption
    | intro _
    | apply State.set1_kept | apply State.onBox_kept
    | simp only [Kept.record_iff]

theorem execMailboxReset_kept (m : Fin 4) (s : State) : KeptOut s (execMailboxReset m s) := by
  have h := Kept.refl s
  unfold execMailboxReset
  try dsimp -iota only
  repeat' with_reducible first
    | assumption
    | apply State.boxReset_kept | apply KeptOut.next | apply State.unlessHalted_kept

theorem State.boxResetDone_kept (m : Nat) (h : Kept r s) : Kept r (State.boxResetDone m s) := by
  unfold State.boxResetDone
  try dsimp -iota only
  repeat' with_reducible first
    | assumption
    | apply State.put_kept | apply State.clr_kept | apply State.raise_kept | apply Kept.ite

theorem execMailboxResetDone_kept (m : Fin 4) (s : State) : KeptOut s (execMailboxResetDone m s) := by
  have h := Kept.refl s
  unfold execMailboxResetDone
  try dsimp -iota only
  repeat' with_reducible first
    | assumption
    | apply State.boxResetDone_kept | apply KeptOut.next

theorem State.cutHost_kept (m : Nat) (h : Kept r s) : Kept r (State.cutHost s m) := by
  unfold State.cutHost
  try dsimp -iota only
  repeat' with_reducible first
    | assumption
    | intro _
    | apply State.onBox_kept
    | simp only [Kept.record_iff]

theorem State.endpointReset_kept (down : Bool) (h : Kept r s) : Kept r (State.endpointReset s down) := by
  unfold State.endpointReset
  try dsimp -iota only
  repeat' with_reducible first
    | assumption
    | intro _
    | apply State.dropRegs_kept | apply State.each_kept | apply State.boxReset_kept | apply State.cutHost_kept
    | simp only [Kept.record_iff]

theorem execFunctionLevelReset_kept (down : Bool) (s : State) : KeptOut s (execFunctionLevelReset down s) := by
  have h := Kept.refl s
  unfold execFunctionLevelReset
  try dsimp -iota only
  repeat' with_reducible first
    | assumption
    | apply State.endpointReset_kept | apply KeptOut.next

theorem execPePerst_kept (s : State) : KeptOut s (execPePerst s) := by
  have h := Kept.refl s
  unfold execPePerst
  try dsimp -iota only
  repeat' with_reducible first
    | assumption
    | apply State.endpointReset_kept | apply KeptOut.next

theorem State.cfgPut_kept (a1 : CfgReg) (v : Word) (h : Kept r s) : Kept r (State.cfgPut s a1 v) := by
  unfold State.cfgPut
  try dsimp -iota only
  repeat' with_reducible first
    | assumption
    | apply Kept.ite
    | simp only [Kept.record_iff]
    | refine KeptP.of_eq (by assumption) ?_ | refine KeptO.of_eq (by assumption) ?_ | refine KeptOP.of_eq (by assumption) ?_ | refine KeptE.of_eq (by assumption) ?_
    | split

theorem State.configWrite_kept (a1 : CfgReg) (v : Word) (h : Kept r s) : Kept r (State.configWrite a1 v s) := by
  unfold State.configWrite
  try dsimp -iota only
  repeat' with_reducible first
    | assumption
    | intro _
    | apply State.each_kept | apply State.sendPending_kept | apply State.endpointReset_kept | apply State.cfgPut_kept | apply Kept.ite

theorem execConfigurationWrite_kept (reg : CfgReg) (v : Word) (s : State) : KeptOut s (execConfigurationWrite reg v s) := by
  have h := Kept.refl s
  unfold execConfigurationWrite
  try dsimp -iota only
  repeat' with_reducible first
    | assumption
    | apply State.configWrite_kept | apply KeptOut.next

theorem State.pcieUp_kept (width speed : Nat) (h : Kept r s) : Kept r (State.pcieUp width speed s) := by
  unfold State.pcieUp
  try dsimp -iota only
  repeat' with_reducible first
    | assumption
    | apply State.put_kept
    | simp only [Kept.record_iff]

theorem execPcieLinkUp_kept (width : Fin 17) (speed : Fin 6) (s : State) : KeptOut s (execPcieLinkUp width speed s) := by
  have h := Kept.refl s
  unfold execPcieLinkUp
  try dsimp -iota only
  repeat' with_reducible first
    | assumption
    | apply State.pcieUp_kept | apply KeptOut.next

theorem State.toHost_kept (a : Nat) (bs : List Byte) (h : Kept r s) : Kept r (State.toHost s a bs) := by
  unfold State.toHost
  try dsimp -iota only
  repeat' with_reducible first
    | assumption
    | simp only [Kept.record_iff]

end Sys2Proof.Machine
end

