-- ==== Sys2Proof/Laws/KeptPower.lean ====
section
/-! SUPPORT. What the operations of Machine/Power.lean keep (`Kept`). -/
namespace Sys2Proof.Machine

variable {r s : State}

theorem State.faultLanes_kept (n : Nat) (h : Kept r s) : Kept r (State.faultLanes s n) := by
  unfold State.faultLanes
  try dsimp -iota only
  repeat' with_reducible first
    | assumption
    | intro _
    | apply State.lostService_kept | apply Kept.foldl | apply Kept.foldlP

theorem State.refOutcome_kept (c : RefClk) (h : Kept r s) : Kept r (State.refOutcome s c) := by
  unfold State.refOutcome
  try dsimp -iota only
  repeat' with_reducible first
    | assumption
    | intro _
    | apply State.set1_kept | apply State.clr_kept | apply State.each_kept | apply State.enterQuarantine_kept | apply State.halt_kept | apply State.endpointReset_kept | apply State.faultLanes_kept
    | simp only [Kept.record_iff]
    | refine KeptP.of_eq (by assumption) ?_ | refine KeptO.of_eq (by assumption) ?_ | refine KeptOP.of_eq (by assumption) ?_ | refine KeptE.of_eq (by assumption) ?_
    | split

theorem State.refLoss_kept (c : RefClk) (h : Kept r s) : Kept r (State.refLoss c s) := by
  unfold State.refLoss
  try dsimp -iota only
  repeat' with_reducible first
    | assumption
    | apply State.set1_kept | apply State.clr_kept | apply State.hwRec_kept | apply State.alert_kept | apply State.refOutcome_kept | apply Kept.ite

theorem execReferenceLoss_kept (c : RefClk) (s : State) : KeptOut s (execReferenceLoss c s) := by
  have h := Kept.refl s
  unfold execReferenceLoss
  try dsimp -iota only
  repeat' with_reducible first
    | assumption
    | apply State.refLoss_kept | apply KeptOut.next

theorem State.refReturn_kept (c : RefClk) (h : Kept r s) : Kept r (State.refReturn c s) := by
  unfold State.refReturn
  try dsimp -iota only
  repeat' with_reducible first
    | assumption
    | apply State.set1_kept | apply State.clr_kept
    | simp only [Kept.record_iff]
    | refine KeptP.of_eq (by assumption) ?_ | refine KeptO.of_eq (by assumption) ?_ | refine KeptOP.of_eq (by assumption) ?_ | refine KeptE.of_eq (by assumption) ?_
    | split

theorem execReferenceReturn_kept (c : RefClk) (s : State) : KeptOut s (execReferenceReturn c s) := by
  have h := Kept.refl s
  unfold execReferenceReturn
  try dsimp -iota only
  repeat' with_reducible first
    | assumption
    | apply State.refReturn_kept | apply KeptOut.next

theorem execStepPllLock_kept (s : State) : KeptOut s (execStepPllLock s) := by
  have h := Kept.refl s
  unfold execStepPllLock
  try dsimp -iota only
  repeat' with_reducible first
    | assumption
    | apply State.set1_kept | apply KeptOut.next | apply Kept.ite

theorem State.discard_kept (cls idx : Nat) (h : Kept r s) : Kept r (State.discard s cls idx) := by
  unfold State.discard
  try dsimp -iota only
  repeat' with_reducible first
    | assumption
    | intro _
    | apply State.onTeam_kept | apply State.onRouter_kept | apply State.onLink_kept | apply State.onChan_kept | apply Kept.ite
    | simp only [Kept.record_iff]

theorem State.isolateDead_kept (t : Nat) (h : Kept r s) : Kept r (State.isolateDead s t) := by
  unfold State.isolateDead
  try dsimp -iota only
  repeat' with_reducible first
    | assumption
    | apply State.set1_kept | apply State.postEvent_kept | apply State.groomRec_kept
    | simp only [Kept.record_iff]

theorem State.stopOutcome_kept (dead : ClockDomain) (h : Kept r s) : Kept r (State.stopOutcome s dead) := by
  unfold State.stopOutcome
  try dsimp -iota only
  repeat' with_reducible first
    | assumption
    | apply State.enterQuarantine_kept | apply State.chanFail_kept | apply State.endpointReset_kept | apply State.faultLanes_kept | apply State.isolateDead_kept
    | simp only [Kept.record_iff]
    | refine KeptP.of_eq (by assumption) ?_ | refine KeptO.of_eq (by assumption) ?_ | refine KeptOP.of_eq (by assumption) ?_ | refine KeptE.of_eq (by assumption) ?_
    | split

theorem State.clockStops_kept (dead : ClockDomain) (h : Kept r s) : Kept r (State.clockStops s dead) := by
  unfold State.clockStops
  try dsimp -iota only
  repeat' with_reducible first
    | assumption
    | apply Kept.ite
    | simp only [Kept.record_iff]
    | refine KeptP.of_eq (by assumption) ?_ | refine KeptO.of_eq (by assumption) ?_ | refine KeptOP.of_eq (by assumption) ?_ | refine KeptE.of_eq (by assumption) ?_
    | split

theorem State.heartbeat_kept (cls idx : Nat) (dead : ClockDomain) (late : Bool) (h : Kept r s) : Kept r (State.heartbeat cls idx dead late s) := by
  unfold State.heartbeat
  try dsimp -iota only
  repeat' with_reducible first
    | assumption
    | apply State.set1_kept | apply State.cdcLoc_kept | apply State.discard_kept | apply State.stopOutcome_kept | apply State.clockStops_kept | apply Kept.ite
    | simp only [Kept.record_iff]
    | refine KeptP.of_eq (by assumption) ?_ | refine KeptO.of_eq (by assumption) ?_ | refine KeptOP.of_eq (by assumption) ?_ | refine KeptE.of_eq (by assumption) ?_
    | split

theorem execHeartbeatTimeout_kept (cls : Fin 10) (idx : BitVec 16) (dead : ClockDomain) (late : Bool) (s : State) : KeptOut s (execHeartbeatTimeout cls idx dead late s) := by
  have h := Kept.refl s
  unfold execHeartbeatTimeout
  try dsimp -iota only
  repeat' with_reducible first
    | assumption
    | apply State.heartbeat_kept | apply KeptOut.next

theorem State.peerReset_kept (cls idx : Nat) (h : Kept r s) : Kept r (State.peerReset cls idx s) := by
  unfold State.peerReset
  try dsimp -iota only
  repeat' with_reducible first
    | assumption
    | apply State.set1_kept | apply State.sat_kept | apply State.groomRec_kept | apply State.discard_kept | apply Kept.ite
    | simp only [Kept.record_iff]

theorem execOneSidedReset_kept (cls : Fin 10) (idx : BitVec 16) (s : State) : KeptOut s (execOneSidedReset cls idx s) := by
  have h := Kept.refl s
  unfold execOneSidedReset
  try dsimp -iota only
  repeat' with_reducible first
    | assumption
    | apply State.peerReset_kept | apply KeptOut.next

theorem State.crossRearm_kept (cls idx : Nat) (h : Kept r s) : Kept r (State.crossRearm cls idx s) := by
  unfold State.crossRearm
  try dsimp -iota only
  repeat' with_reducible first
    | assumption
    | simp only [Kept.record_iff]

theorem execCrossingRearm_kept (cls : Fin 10) (idx : BitVec 16) (s : State) : KeptOut s (execCrossingRearm cls idx s) := by
  have h := Kept.refl s
  unfold execCrossingRearm
  try dsimp -iota only
  repeat' with_reducible first
    | assumption
    | apply State.crossRearm_kept | apply KeptOut.next

theorem State.teamEn_kept (t : Nat) (en : Bool) (h : Kept r s) : Kept r (State.teamEn s t en) := by
  unfold State.teamEn
  try dsimp -iota only
  repeat' with_reducible first
    | assumption
    | intro _
    | apply State.put_kept | apply State.set1_kept | apply State.onTeam_kept | apply Kept.ite
    | simp only [Kept.record_iff]

theorem State.teamPwr_kept (t : Nat) (v : Word) (h : Kept r s) : Kept r (State.teamPwr t v s) := by
  unfold State.teamPwr
  try dsimp -iota only
  repeat' with_reducible first
    | assumption
    | apply State.clr_kept | apply State.teamEn_kept | apply Kept.ite

theorem execTeamPwrWrite_kept (t : Fin 1024) (v : Word) (s : State) : KeptOut s (execTeamPwrWrite t v s) := by
  have h := Kept.refl s
  unfold execTeamPwrWrite
  try dsimp -iota only
  repeat' with_reducible first
    | assumption
    | apply State.teamPwr_kept | apply KeptOut.next | apply KeptOut.onMapped

theorem State.resetTeamRegs_kept (t : Nat) (h : Kept r s) : Kept r (State.resetTeamRegs s t) := by
  unfold State.resetTeamRegs
  try dsimp -iota only
  repeat' with_reducible first
    | assumption
    | intro _
    | apply State.dropRegs_kept

theorem State.dropDma_kept (t : Nat) (h : Kept r s) : Kept r (State.dropDma s t) := by
  unfold State.dropDma
  try dsimp -iota only
  repeat' with_reducible first
    | assumption
    | intro _
    | apply State.peErr_kept | apply State.routerAnswer_kept | apply Kept.foldl | apply Kept.foldlP
    | simp only [Kept.record_iff]
    | refine KeptP.of_eq (by assumption) ?_ | refine KeptO.of_eq (by assumption) ?_ | refine KeptOP.of_eq (by assumption) ?_ | refine KeptE.of_eq (by assumption) ?_
    | split

theorem State.freshTeam_kept (t : Nat) (h : Kept r s) : Kept r (State.freshTeam s t) := by
  unfold State.freshTeam
  try dsimp -iota only
  repeat' with_reducible first
    | assumption
    | apply State.setTeam_kept | apply State.spend_kept | apply State.resetTeamRegs_kept
    | simp only [Kept.record_iff]

theorem State.switchDone_kept (t : Nat) (h : Kept r s) : Kept r (State.switchDone t s) := by
  unfold State.switchDone
  try dsimp -iota only
  repeat' with_reducible first
    | assumption
    | apply State.put_kept | apply State.setTeam_kept | apply State.resetTeamRegs_kept | apply State.dropDma_kept | apply State.freshTeam_kept | apply Kept.ite

theorem execTeamSwitchDone_kept (t : Fin 1024) (s : State) : KeptOut s (execTeamSwitchDone t s) := by
  have h := Kept.refl s
  unfold execTeamSwitchDone
  try dsimp -iota only
  repeat' with_reducible first
    | assumption
    | apply State.switchDone_kept | apply KeptOut.next | apply KeptOut.onMapped

theorem State.throttle_kept (t : Int) (h : Kept r s) : Kept r (State.throttle s t) := by
  unfold State.throttle
  try dsimp -iota only
  repeat' with_reducible first
    | assumption
    | apply State.put_kept | apply Kept.ite
    | simp only [Kept.record_iff]
    | refine KeptP.of_eq (by assumption) ?_ | refine KeptO.of_eq (by assumption) ?_ | refine KeptOP.of_eq (by assumption) ?_ | refine KeptE.of_eq (by assumption) ?_
    | split

theorem State.thermPin_kept (t : Int) (h : Kept r s) : Kept r (State.thermPin s t) := by
  unfold State.thermPin
  try dsimp -iota only
  repeat' with_reducible first
    | assumption
    | apply State.set1_kept | apply State.clr_kept | apply Kept.ite

theorem State.thermTell_kept (old : State) (tj : BitVec 8) (sensor : Nat) (h : Kept r s) : Kept r (s.thermTell old tj sensor) := by
  unfold State.thermTell
  dsimp only
  repeat' first
    | assumption
    | with_reducible first | apply State.groomRec_kept | apply State.postEvent_kept | apply State.alert_kept | apply Kept.ite

theorem State.trip_kept (tj : BitVec 8) (sensor : Nat) (h : Kept r s) : Kept r (State.trip s tj sensor) := by
  unfold State.trip
  try dsimp -iota only
  repeat' with_reducible first
    | assumption
    | apply State.set1_kept | apply State.enterQuarantine_kept | apply Kept.ite
    | simp only [Kept.record_iff]

theorem State.thermal_kept (temps : List (BitVec 8)) (h : Kept r s) : Kept r (State.thermal temps s) := by
  unfold State.thermal
  try dsimp -iota only
  repeat' with_reducible first
    | assumption
    | apply State.put_kept | apply State.throttle_kept | apply State.thermPin_kept | apply State.thermTell_kept | apply State.trip_kept
    | simp only [Kept.record_iff]
    | refine KeptP.of_eq (by assumption) ?_ | refine KeptO.of_eq (by assumption) ?_ | refine KeptOP.of_eq (by assumption) ?_ | refine KeptE.of_eq (by assumption) ?_
    | split

theorem execThermalSample_kept (temps : List (BitVec 8)) (s : State) : KeptOut s (execThermalSample temps s) := by
  have h := Kept.refl s
  unfold execThermalSample
  try dsimp -iota only
  repeat' with_reducible first
    | assumption
    | apply State.thermal_kept | apply KeptOut.next

end Sys2Proof.Machine
end

