-- ==== Sys2Proof/Laws/KeptRegWrite.lean ====
section
/-! SUPPORT. What the operations of Machine/RegWrite.lean keep (`Kept`). -/
namespace Sys2Proof.Machine

variable {r s : State}

theorem State.writeFields_kept (a v : Nat) (h : Kept r s) : Kept r (State.writeFields s a v) := by
  unfold State.writeFields
  try dsimp -iota only
  repeat' with_reducible first
    | assumption
    | apply State.wr_kept | apply Kept.foldl | apply Kept.foldlP
    | simp only [Kept.record_iff]
    | refine KeptP.of_eq (by assumption) ?_ | refine KeptO.of_eq (by assumption) ?_ | refine KeptOP.of_eq (by assumption) ?_ | refine KeptE.of_eq (by assumption) ?_
    | split

theorem State.readClear_kept (a : Nat) (h : Kept r s) : Kept r (State.readClear s a) := by
  unfold State.readClear
  try dsimp -iota only
  repeat' with_reducible first
    | assumption
    | intro _
    | apply State.wr_kept | apply Kept.ite | apply Kept.foldl | apply Kept.foldlP
    | simp only [Kept.record_iff]
    | refine KeptP.of_eq (by assumption) ?_ | refine KeptO.of_eq (by assumption) ?_ | refine KeptOP.of_eq (by assumption) ?_ | refine KeptE.of_eq (by assumption) ?_
    | split

end Sys2Proof.Machine
end

