-- ==== Sys2Proof/Laws/KeptRegion.lean ====
section
/-! SUPPORT. What the operations of Machine/Region.lean keep (`Kept`). -/
namespace Sys2Proof.Machine

variable {r s : State}

theorem State.openWin_kept (kind b units c : Nat) (h : Kept r s) : Kept r (State.openWin s kind b units c) := by
  unfold State.openWin
  try dsimp -iota only
  repeat' with_reducible first
    | assumption
    | apply State.put_kept | apply State.set1_kept
    | simp only [Kept.record_iff]
    | refine KeptP.of_eq (by assumption) ?_ | refine KeptO.of_eq (by assumption) ?_ | refine KeptOP.of_eq (by assumption) ?_ | refine KeptE.of_eq (by assumption) ?_
    | split

theorem State.allocate_kept (kind n c0 units : Nat) (host : Bool) (h : Kept r s) : KeptOP r (State.allocate s kind n c0 units host) := by
  unfold State.allocate
  try dsimp -iota only
  repeat' with_reducible first
    | assumption
    | intro _
    | apply State.openWin_kept | apply KeptOP.some' | apply KeptOP.some | apply Kept.foldl | apply Kept.foldlP | exact KeptOP.none
    | simp only [Kept.record_iff, KeptP.mk_iff]
    | refine KeptP.of_eq (by assumption) ?_ | refine KeptO.of_eq (by assumption) ?_ | refine KeptOP.of_eq (by assumption) ?_ | refine KeptE.of_eq (by assumption) ?_
    | split

theorem State.closeWin_kept (b c : Nat) (h : Kept r s) : Kept r (State.closeWin s b c) := by
  unfold State.closeWin
  try dsimp -iota only
  repeat' with_reducible first
    | assumption
    | intro _
    | apply State.wr_kept | apply State.each_kept | apply Kept.ite

theorem State.freeRegion_kept (a1 : Nat) (h : Kept r s) : Kept r (State.freeRegion s a1) := by
  unfold State.freeRegion
  try dsimp -iota only
  repeat' with_reducible first
    | assumption
    | intro _
    | apply State.closeWin_kept | apply Kept.ite | apply Kept.foldl | apply Kept.foldlP
    | simp only [Kept.record_iff]
    | refine KeptP.of_eq (by assumption) ?_ | refine KeptO.of_eq (by assumption) ?_ | refine KeptOP.of_eq (by assumption) ?_ | refine KeptE.of_eq (by assumption) ?_
    | split

theorem State.hostWr_kept (d : Nat) (v : Byte) (h : Kept r s) : Kept r (State.hostWr s d v) := by
  unfold State.hostWr
  try dsimp -iota only
  repeat' with_reducible first
    | assumption
    | apply State.setMem_kept | apply Kept.ite

theorem State.hostQueue_kept (tx : Option Nat) (d : Nat) (data : Option (List Byte)) (a1 : Nat × Nat) (h : Kept r s) : Kept r (State.hostQueue s tx d data a1) := by
  unfold State.hostQueue
  try dsimp -iota only
  repeat' with_reducible first
    | assumption
    | intro _
    | apply State.onChan_kept | apply State.take_kept | apply Kept.getD
    | simp only [Kept.record_iff]
    | refine KeptP.of_eq (by assumption) ?_ | refine KeptO.of_eq (by assumption) ?_ | refine KeptOP.of_eq (by assumption) ?_ | refine KeptE.of_eq (by assumption) ?_
    | split

theorem State.hostBegin_kept (copy : Bool) (d n : Nat) (data : Option (List Byte)) (runs : List (Nat × Nat)) (h : Kept r s) : Kept r (State.hostBegin s copy d n data runs) := by
  unfold State.hostBegin
  try dsimp -iota only
  repeat' with_reducible first
    | assumption
    | intro _
    | apply State.hostQueue_kept | apply Kept.ite | apply Kept.foldl | apply Kept.foldlP
    | simp only [Kept.record_iff]

theorem State.bulkCount_kept (addr : Nat → Nat) (n : Nat) (h : Kept r s) : Kept r (State.bulkCount s addr n) := by
  unfold State.bulkCount
  try dsimp -iota only
  repeat' with_reducible first
    | assumption
    | intro _
    | apply State.countBurst_kept | apply Kept.foldl | apply Kept.foldlP

theorem State.bulkCrc_kept (addr : Nat → Nat) (n : Nat) (write : Bool) (crc : List HostCrc) (h : Kept r s) : Kept r (State.bulkCrc s addr n write crc) := by
  unfold State.bulkCrc
  try dsimp -iota only
  repeat' with_reducible first
    | assumption
    | intro _
    | apply State.bulkBurst_kept | apply Kept.foldl | apply Kept.foldlP

theorem State.toRegion_kept (a1 : Region) (o : Nat) (bs : List Byte) (crc : List HostCrc) (h : Kept r s) : Kept r (State.toRegion s a1 o bs crc) := by
  unfold State.toRegion
  try dsimp -iota only
  repeat' with_reducible first
    | assumption
    | intro _
    | apply State.setMem_kept | apply State.bulkCount_kept | apply State.bulkCrc_kept | apply Kept.ite | apply Kept.foldl | apply Kept.foldlP

theorem State.fromRegion_kept (a1 : Region) (o n : Nat) (crc : List HostCrc) (h : Kept r s) : KeptP r (State.fromRegion s a1 o n crc) := by
  unfold State.fromRegion
  try dsimp -iota only
  repeat' with_reducible first
    | assumption
    | intro _
    | apply State.bulkCount_kept | apply State.bulkCrc_kept
    | simp only [KeptP.mk_iff]

theorem State.memInfo_kept (a1 : BitVec 512) (h : Kept r s) : KeptP r (State.memInfo a1 s) := by
  unfold State.memInfo
  try dsimp -iota only
  repeat' with_reducible first
    | assumption
    | intro _
    | simp only [KeptP.mk_iff]

theorem execMemInfo_kept (s : State) : KeptOut s (execMemInfo s) := by
  have h := Kept.refl s
  unfold execMemInfo
  try dsimp -iota only
  repeat' with_reducible first
    | assumption
    | intro _
    | apply State.cmd_kept | apply State.memInfo_kept | apply KeptOut.next
    | simp only [KeptP.mk_iff]

theorem State.regionAlloc_kept (d : BitVec 512) (h : Kept r s) : KeptP r (State.regionAlloc d s) := by
  unfold State.regionAlloc
  try dsimp -iota only
  repeat' with_reducible first
    | assumption
    | apply State.allocate_kept
    | simp only [Kept.record_iff, KeptP.mk_iff]
    | refine KeptP.of_eq (by assumption) ?_ | refine KeptO.of_eq (by assumption) ?_ | refine KeptOP.of_eq (by assumption) ?_ | refine KeptE.of_eq (by assumption) ?_
    | split

theorem execRegionAlloc_kept (s : State) : KeptOut s (execRegionAlloc s) := by
  have h := Kept.refl s
  unfold execRegionAlloc
  try dsimp -iota only
  repeat' with_reducible first
    | assumption
    | intro _
    | apply State.cmd_kept | apply State.regionAlloc_kept | apply KeptOut.next
    | simp only [KeptP.mk_iff]

theorem State.regionFree_kept (d : BitVec 512) (h : Kept r s) : KeptP r (State.regionFree d s) := by
  unfold State.regionFree
  try dsimp -iota only
  repeat' with_reducible first
    | assumption
    | apply State.freeRegion_kept | apply Kept.ite | apply KeptP.ite
    | simp only [Kept.record_iff, KeptP.mk_iff]
    | refine KeptP.of_eq (by assumption) ?_ | refine KeptO.of_eq (by assumption) ?_ | refine KeptOP.of_eq (by assumption) ?_ | refine KeptE.of_eq (by assumption) ?_
    | split

theorem execRegionFree_kept (s : State) : KeptOut s (execRegionFree s) := by
  have h := Kept.refl s
  unfold execRegionFree
  try dsimp -iota only
  repeat' with_reducible first
    | assumption
    | intro _
    | apply State.cmd_kept | apply State.regionFree_kept | apply KeptOut.next
    | simp only [KeptP.mk_iff]

theorem State.copyBegin_kept (dma : HostDma) (d : BitVec 512) (h : Kept r s) : KeptP r (State.copyBegin dma d s) := by
  unfold State.copyBegin
  try dsimp -iota only
  repeat' with_reducible first
    | assumption
    | intro _
    | apply State.hostBegin_kept | apply Kept.ite | apply KeptP.ite
    | simp only [Kept.record_iff, KeptP.mk_iff]
    | refine KeptP.of_eq (by assumption) ?_ | refine KeptO.of_eq (by assumption) ?_ | refine KeptOP.of_eq (by assumption) ?_ | refine KeptE.of_eq (by assumption) ?_
    | split

theorem State.copyPoll_kept (c : Taken) (h : Kept r s) : KeptOP r (State.copyPoll c s) := by
  unfold State.copyPoll
  try dsimp -iota only
  repeat' with_reducible first
    | assumption
    | intro _
    | apply State.take_kept | apply State.toHost_kept | apply KeptOP.some' | apply KeptOP.some | apply Kept.ite | apply KeptOP.ite | apply KeptP.ite | apply Kept.foldl | apply Kept.foldlP | exact KeptOP.none
    | simp only [Kept.record_iff, KeptP.mk_iff]
    | refine KeptP.of_eq (by assumption) ?_ | refine KeptO.of_eq (by assumption) ?_ | refine KeptOP.of_eq (by assumption) ?_ | refine KeptE.of_eq (by assumption) ?_
    | split

theorem execMemCopy_kept (dma : HostDma) (s : State) : KeptOut s (execMemCopy dma s) := by
  have h := Kept.refl s
  unfold execMemCopy
  try dsimp -iota only
  repeat' with_reducible first
    | assumption
    | intro _
    | apply State.cmdLong_kept | apply State.copyBegin_kept | apply State.copyPoll_kept | apply KeptOut.next | apply KeptOP.some' | apply KeptOP.some | apply KeptOP.ite | exact KeptOP.none
    | simp only [KeptP.mk_iff]

theorem State.driftCfg_kept (d : BitVec 512) (h : Kept r s) : KeptP r (State.driftCfg d s) := by
  unfold State.driftCfg
  try dsimp -iota only
  repeat' with_reducible first
    | assumption
    | simp only [Kept.record_iff, KeptP.mk_iff]

theorem execDriftCfg_kept (s : State) : KeptOut s (execDriftCfg s) := by
  have h := Kept.refl s
  unfold execDriftCfg
  try dsimp -iota only
  repeat' with_reducible first
    | assumption
    | intro _
    | apply State.cmd_kept | apply State.driftCfg_kept | apply KeptOut.next
    | simp only [KeptP.mk_iff]

theorem State.capConfig_kept (dma : HostDma) (d : BitVec 512) (h : Kept r s) : KeptP r (State.capConfig dma d s) := by
  unfold State.capConfig
  try dsimp -iota only
  repeat' with_reducible first
    | assumption
    | intro _
    | apply State.put_kept | apply State.writeFields_kept | apply Kept.ite | apply KeptP.ite | apply Kept.foldl | apply Kept.foldlP
    | simp only [Kept.record_iff, KeptP.mk_iff]
    | refine KeptP.of_eq (by assumption) ?_ | refine KeptO.of_eq (by assumption) ?_ | refine KeptOP.of_eq (by assumption) ?_ | refine KeptE.of_eq (by assumption) ?_
    | split

theorem execCapConfig_kept (dma : HostDma) (s : State) : KeptOut s (execCapConfig dma s) := by
  have h := Kept.refl s
  unfold execCapConfig
  try dsimp -iota only
  repeat' with_reducible first
    | assumption
    | intro _
    | apply State.cmd_kept | apply State.capConfig_kept | apply KeptOut.next
    | simp only [KeptP.mk_iff]

theorem State.capCtl_kept (d : BitVec 512) (h : Kept r s) : KeptP r (State.capCtl d s) := by
  unfold State.capCtl
  try dsimp -iota only
  repeat' with_reducible first
    | assumption
    | apply State.capArm_kept | apply State.capStopReq_kept | apply State.capForce_kept | apply State.capDisarm_kept | apply Kept.ite | apply KeptP.ite
    | simp only [Kept.record_iff, KeptP.mk_iff]

theorem State.capCtlPoll_kept (a1 : Taken) (h : Kept r s) : KeptOP r (State.capCtlPoll a1 s) := by
  unfold State.capCtlPoll
  try dsimp -iota only
  repeat' with_reducible first
    | assumption
    | apply KeptOP.some' | apply KeptOP.some | apply Kept.ite | apply KeptOP.ite | apply KeptP.ite | exact KeptOP.none
    | simp only [KeptP.mk_iff]

theorem execCapCtl_kept (s : State) : KeptOut s (execCapCtl s) := by
  have h := Kept.refl s
  unfold execCapCtl
  try dsimp -iota only
  repeat' with_reducible first
    | assumption
    | intro _
    | apply State.cmdLong_kept | apply State.capCtl_kept | apply State.capCtlPoll_kept | apply KeptOut.next | apply KeptOP.some' | apply KeptOP.some | apply KeptOP.ite | exact KeptOP.none
    | simp only [KeptP.mk_iff]

theorem State.capStatus_kept (a1 : BitVec 512) (h : Kept r s) : KeptP r (State.capStatus a1 s) := by
  unfold State.capStatus
  try dsimp -iota only
  repeat' with_reducible first
    | assumption
    | simp only [KeptP.mk_iff]

theorem execCapStatus_kept (s : State) : KeptOut s (execCapStatus s) := by
  have h := Kept.refl s
  unfold execCapStatus
  try dsimp -iota only
  repeat' with_reducible first
    | assumption
    | intro _
    | apply State.cmd_kept | apply State.capStatus_kept | apply KeptOut.next
    | simp only [KeptP.mk_iff]

end Sys2Proof.Machine
end

