-- ==== Sys2Proof/Laws/KeptDiagCmd.lean ====
section
/-! SUPPORT. What the operations of Machine/DiagCmd.lean keep (`Kept`). -/
namespace Sys2Proof.Machine

variable {r s : State}

theorem State.getInfo_kept (a1 : BitVec 512) (h : Kept r s) : KeptP r (State.getInfo a1 s) := by
  unfold State.getInfo
  try dsimp -iota only
  repeat' with_reducible first
    | assumption
    | simp only [KeptP.mk_iff]

theorem execGetInfo_kept (s : State) : KeptOut s (execGetInfo s) := by
  have h := Kept.refl s
  unfold execGetInfo
  try dsimp -iota only
  repeat' with_reducible first
    | assumption
    | intro _
    | apply State.cmd_kept | apply State.getInfo_kept | apply KeptOut.next
    | simp only [KeptP.mk_iff]

theorem State.setVector_kept (d : BitVec 512) (h : Kept r s) : KeptP r (State.setVector d s) := by
  unfold State.setVector
  try dsimp -iota only
  repeat' with_reducible first
    | assumption
    | intro _
    | apply State.onBox_kept
    | simp only [Kept.record_iff, KeptP.mk_iff]

theorem execSetEventVector_kept (s : State) : KeptOut s (execSetEventVector s) := by
  have h := Kept.refl s
  unfold execSetEventVector
  try dsimp -iota only
  repeat' with_reducible first
    | assumption
    | intro _
    | apply State.cmd_kept | apply State.setVector_kept | apply KeptOut.next
    | simp only [KeptP.mk_iff]

theorem State.askReset_kept (a1 : BitVec 512) (h : Kept r s) : KeptP r (State.askReset a1 s) := by
  unfold State.askReset
  try dsimp -iota only
  repeat' with_reducible first
    | assumption
    | simp only [Kept.record_iff, KeptP.mk_iff]

theorem execWarmReset_kept (s : State) : KeptOut s (execWarmReset s) := by
  have h := Kept.refl s
  unfold execWarmReset
  try dsimp -iota only
  repeat' with_reducible first
    | assumption
    | intro _
    | apply State.cmd_kept | apply State.askReset_kept | apply KeptOut.next
    | simp only [KeptP.mk_iff]

theorem State.imageInfo_kept (a1 : BitVec 512) (h : Kept r s) : KeptP r (State.imageInfo a1 s) := by
  unfold State.imageInfo
  try dsimp -iota only
  repeat' with_reducible first
    | assumption
    | simp only [Kept.record_iff, KeptP.mk_iff]
    | refine KeptP.of_eq (by assumption) ?_ | refine KeptO.of_eq (by assumption) ?_ | refine KeptOP.of_eq (by assumption) ?_ | refine KeptE.of_eq (by assumption) ?_
    | split

theorem execImageInfo_kept (s : State) : KeptOut s (execImageInfo s) := by
  have h := Kept.refl s
  unfold execImageInfo
  try dsimp -iota only
  repeat' with_reducible first
    | assumption
    | intro _
    | apply State.cmd_kept | apply State.imageInfo_kept | apply KeptOut.next
    | simp only [KeptP.mk_iff]

theorem State.aperture_kept (d : BitVec 512) (h : Kept r s) : KeptP r (State.aperture d s) := by
  unfold State.aperture
  try dsimp -iota only
  repeat' with_reducible first
    | assumption
    | simp only [Kept.record_iff, KeptP.mk_iff]

theorem execAperture_kept (s : State) : KeptOut s (execAperture s) := by
  have h := Kept.refl s
  unfold execAperture
  try dsimp -iota only
  repeat' with_reducible first
    | assumption
    | intro _
    | apply State.cmd_kept | apply State.aperture_kept | apply KeptOut.next
    | simp only [KeptP.mk_iff]

theorem State.sbReadCmd_kept (d : BitVec 512) (h : Kept r s) : KeptP r (State.sbReadCmd d s) := by
  unfold State.sbReadCmd
  try dsimp -iota only
  repeat' with_reducible first
    | assumption
    | intro _
    | apply State.toHost_kept
    | simp only [Kept.record_iff, KeptP.mk_iff]
    | refine KeptP.of_eq (by assumption) ?_ | refine KeptO.of_eq (by assumption) ?_ | refine KeptOP.of_eq (by assumption) ?_ | refine KeptE.of_eq (by assumption) ?_
    | split

theorem execSbRead_kept (s : State) : KeptOut s (execSbRead s) := by
  have h := Kept.refl s
  unfold execSbRead
  try dsimp -iota only
  repeat' with_reducible first
    | assumption
    | intro _
    | apply State.cmd_kept | apply State.sbReadCmd_kept | apply KeptOut.next
    | simp only [KeptP.mk_iff]

theorem State.sbMark_kept (d : BitVec 512) (h : Kept r s) : KeptP r (State.sbMark d s) := by
  unfold State.sbMark
  try dsimp -iota only
  repeat' with_reducible first
    | assumption
    | apply State.groomRec_kept | apply Kept.ite | apply KeptP.ite
    | simp only [Kept.record_iff, KeptP.mk_iff]

theorem execSbMark_kept (s : State) : KeptOut s (execSbMark s) := by
  have h := Kept.refl s
  unfold execSbMark
  try dsimp -iota only
  repeat' with_reducible first
    | assumption
    | intro _
    | apply State.cmd_kept | apply State.sbMark_kept | apply KeptOut.next
    | simp only [KeptP.mk_iff]

theorem State.regSet_kept (tooMuch : Option (Fin 1024 × Fin 4)) (d : BitVec 512) (h : Kept r s) : KeptP r (State.regSet tooMuch d s) := by
  unfold State.regSet
  try dsimp -iota only
  repeat' with_reducible first
    | assumption
    | apply State.put_kept
    | simp only [Kept.record_iff, KeptP.mk_iff]
    | refine KeptP.of_eq (by assumption) ?_ | refine KeptO.of_eq (by assumption) ?_ | refine KeptOP.of_eq (by assumption) ?_ | refine KeptE.of_eq (by assumption) ?_
    | split

theorem execRegSet_kept (tooMuch : Option (Fin 1024 × Fin 4)) (s : State) : KeptOut s (execRegSet tooMuch s) := by
  have h := Kept.refl s
  unfold execRegSet
  try dsimp -iota only
  repeat' with_reducible first
    | assumption
    | intro _
    | apply State.cmd_kept | apply State.regSet_kept | apply KeptOut.next
    | simp only [KeptP.mk_iff]

theorem State.probeCfg_kept (d : BitVec 512) (h : Kept r s) : KeptP r (State.probeCfg d s) := by
  unfold State.probeCfg
  try dsimp -iota only
  repeat' with_reducible first
    | assumption
    | intro _
    | apply State.put_kept | apply State.onChan_kept | apply State.each_kept | apply State.writeFields_kept | apply Kept.ite | apply KeptP.ite
    | simp only [Kept.record_iff, KeptP.mk_iff]
    | refine KeptP.of_eq (by assumption) ?_ | refine KeptO.of_eq (by assumption) ?_ | refine KeptOP.of_eq (by assumption) ?_ | refine KeptE.of_eq (by assumption) ?_
    | split

theorem execProbeCfg_kept (s : State) : KeptOut s (execProbeCfg s) := by
  have h := Kept.refl s
  unfold execProbeCfg
  try dsimp -iota only
  repeat' with_reducible first
    | assumption
    | intro _
    | apply State.cmd_kept | apply State.probeCfg_kept | apply KeptOut.next
    | simp only [KeptP.mk_iff]

theorem State.teamPowerBegin_kept (d : BitVec 512) (h : Kept r s) : KeptP r (State.teamPowerBegin d s) := by
  unfold State.teamPowerBegin
  try dsimp -iota only
  repeat' with_reducible first
    | assumption
    | apply State.set1_kept | apply State.clr_kept | apply State.bankPower_kept | apply State.teamEn_kept | apply Kept.ite | apply KeptP.ite
    | simp only [KeptP.mk_iff]

theorem State.teamPowerPoll_kept (c : Taken) (h : Kept r s) : KeptOP r (State.teamPowerPoll c s) := by
  unfold State.teamPowerPoll
  try dsimp -iota only
  repeat' with_reducible first
    | assumption
    | apply State.clr_kept | apply KeptOP.some' | apply KeptOP.some | apply Kept.ite | apply KeptOP.ite | apply KeptP.ite | exact KeptOP.none
    | simp only [KeptP.mk_iff]

theorem execTeamPower_kept (s : State) : KeptOut s (execTeamPower s) := by
  have h := Kept.refl s
  unfold execTeamPower
  try dsimp -iota only
  repeat' with_reducible first
    | assumption
    | intro _
    | apply State.cmdLong_kept | apply State.teamPowerBegin_kept | apply State.teamPowerPoll_kept | apply KeptOut.next | apply KeptOP.some' | apply KeptOP.some | apply KeptOP.ite | exact KeptOP.none
    | simp only [KeptP.mk_iff]

theorem State.debugBegin_kept (d : BitVec 512) (h : Kept r s) : KeptP r (State.debugBegin d s) := by
  unfold State.debugBegin
  try dsimp -iota only
  repeat' with_reducible first
    | assumption
    | intro _
    | apply State.wait_kept | apply Kept.getD
    | simp only [Kept.record_iff, KeptP.mk_iff]
    | refine KeptP.of_eq (by assumption) ?_ | refine KeptO.of_eq (by assumption) ?_ | refine KeptOP.of_eq (by assumption) ?_ | refine KeptE.of_eq (by assumption) ?_
    | split

theorem State.debugPoll_kept (c : Taken) (h : Kept r s) : KeptOP r (State.debugPoll c s) := by
  unfold State.debugPoll
  try dsimp -iota only
  repeat' with_reducible first
    | assumption
    | intro _
    | apply State.onRouter_kept | apply KeptOP.some' | apply KeptOP.some | exact KeptOP.none
    | simp only [Kept.record_iff, KeptP.mk_iff]
    | refine KeptP.of_eq (by assumption) ?_ | refine KeptO.of_eq (by assumption) ?_ | refine KeptOP.of_eq (by assumption) ?_ | refine KeptE.of_eq (by assumption) ?_
    | split

theorem execDebugRead_kept (s : State) : KeptOut s (execDebugRead s) := by
  have h := Kept.refl s
  unfold execDebugRead
  try dsimp -iota only
  repeat' with_reducible first
    | assumption
    | intro _
    | apply State.pollStarted_kept | apply State.cmdLong_kept | apply State.debugBegin_kept | apply State.debugPoll_kept | apply KeptOut.next | apply KeptOP.some' | apply KeptOP.some | apply Kept.getD | apply KeptOP.ite | exact KeptOP.none
    | simp only [KeptP.mk_iff]

end Sys2Proof.Machine
end

