-- ==== Sys2Proof/Laws/KeptSched.lean ====
section
/-! SUPPORT. What the operations of Machine/Sched.lean keep (`Kept`). -/
namespace Sys2Proof.Machine

variable {r s : State}

theorem State.dsState_kept (v : Nat) (h : Kept r s) : Kept r (State.dsState s v) := by
  unfold State.dsState
  try dsimp -iota only
  repeat' with_reducible first
    | assumption
    | apply State.put_kept

theorem State.setNow_kept (v : Nat) (h : Kept r s) : Kept r (State.setNow s v) := by
  unfold State.setNow
  try dsimp -iota only
  repeat' with_reducible first
    | assumption
    | apply State.wr_kept | apply State.put_kept

theorem State.consumePoint_kept (h : Kept r s) : Kept r (State.consumePoint s) := by
  unfold State.consumePoint
  try dsimp -iota only
  repeat' with_reducible first
    | assumption
    | intro _
    | apply State.setNow_kept | apply Kept.foldl | apply Kept.foldlP
    | simp only [Kept.record_iff]
    | refine KeptP.of_eq (by assumption) ?_ | refine KeptO.of_eq (by assumption) ?_ | refine KeptOP.of_eq (by assumption) ?_ | refine KeptE.of_eq (by assumption) ?_
    | split

theorem State.storeToken_kept (k : Token) (h : Kept r s) : Kept r (State.storeToken s k) := by
  unfold State.storeToken
  try dsimp -iota only
  repeat' with_reducible first
    | assumption
    | simp only [Kept.record_iff]
    | refine KeptP.of_eq (by assumption) ?_ | refine KeptO.of_eq (by assumption) ?_ | refine KeptOP.of_eq (by assumption) ?_ | refine KeptE.of_eq (by assumption) ?_
    | split

theorem State.tkCount_kept (h : Kept r s) : Kept r (State.tkCount s) := by
  unfold State.tkCount
  try dsimp -iota only
  repeat' with_reducible first
    | assumption
    | apply State.put_kept

theorem State.hitchToken_kept (h : Kept r s) : Kept r (State.hitchToken s) := by
  unfold State.hitchToken
  try dsimp -iota only
  repeat' with_reducible first
    | assumption
    | apply State.sat_kept | apply State.storeToken_kept | apply State.tkCount_kept
    | simp only [Kept.record_iff]
    | refine KeptP.of_eq (by assumption) ?_ | refine KeptO.of_eq (by assumption) ?_ | refine KeptOP.of_eq (by assumption) ?_ | refine KeptE.of_eq (by assumption) ?_
    | split

theorem execHitchTokenAccept_kept (s : State) : KeptOut s (execHitchTokenAccept s) := by
  have h := Kept.refl s
  unfold execHitchTokenAccept
  try dsimp -iota only
  repeat' with_reducible first
    | assumption
    | apply State.hitchToken_kept | apply KeptOut.next

theorem State.land_kept (t j : Nat) (h : Kept r s) : Kept r (State.land s t j) := by
  unfold State.land
  try dsimp -iota only
  repeat' with_reducible first
    | assumption
    | intro _
    | apply State.dmFirmware_kept | apply Kept.ite | apply Kept.foldl | apply Kept.foldlP

theorem State.consume_kept (t : Nat) (h : Kept r s) : Kept r (State.consume s t) := by
  unfold State.consume
  try dsimp -iota only
  repeat' with_reducible first
    | assumption
    | intro _
    | apply State.sat_kept | apply State.land_kept | apply Kept.ite | apply Kept.foldl | apply Kept.foldlP
    | simp only [Kept.record_iff]
    | refine KeptP.of_eq (by assumption) ?_ | refine KeptO.of_eq (by assumption) ?_ | refine KeptOP.of_eq (by assumption) ?_ | refine KeptE.of_eq (by assumption) ?_
    | split

theorem State.tokenConsumption_kept (late : Bool) (h : Kept r s) : Kept r (State.tokenConsumption late s) := by
  unfold State.tokenConsumption
  try dsimp -iota only
  repeat' with_reducible first
    | assumption
    | intro _
    | apply State.set1If_kept | apply State.dsState_kept | apply State.consume_kept | apply Kept.ite
    | simp only [Kept.record_iff]
    | refine KeptP.of_eq (by assumption) ?_ | refine KeptO.of_eq (by assumption) ?_ | refine KeptOP.of_eq (by assumption) ?_ | refine KeptE.of_eq (by assumption) ?_
    | split

theorem execTokenConsumption_kept (late : Bool) (s : State) : KeptOut s (execTokenConsumption late s) := by
  have h := Kept.refl s
  unfold execTokenConsumption
  try dsimp -iota only
  repeat' with_reducible first
    | assumption
    | apply State.tokenConsumption_kept | apply KeptOut.next

theorem State.dsStop_kept (flag : Fld) (why event k : Nat) (ready : Nat) (h : Kept r s) : Kept r (State.dsStop s flag why event k ready) := by
  unfold State.dsStop
  try dsimp -iota only
  repeat' with_reducible first
    | assumption
    | apply State.set1_kept | apply State.postEvent_kept | apply State.groomRec_kept | apply State.dsState_kept
    | simp only [Kept.record_iff]

theorem State.choose_kept (k : Nat) (doms : List Nat) (h : Kept r s) : Kept r (State.choose s k doms) := by
  unfold State.choose
  try dsimp -iota only
  repeat' with_reducible first
    | assumption
    | intro _
    | apply State.put_kept | apply State.clr_kept | apply State.dsState_kept | apply State.dsStop_kept | apply Kept.foldl | apply Kept.foldlP
    | simp only [Kept.record_iff]
    | refine KeptP.of_eq (by assumption) ?_ | refine KeptO.of_eq (by assumption) ?_ | refine KeptOP.of_eq (by assumption) ?_ | refine KeptE.of_eq (by assumption) ?_
    | split

theorem State.search_kept (k n : Nat) (h : Kept r s) : Kept r (s.search k n) := by
  induction n generalizing s with
  | zero => exact State.dsStop_kept _ _ _ _ _ h
  | succ n ih =>
    unfold State.search
    dsimp only
    split
    · exact State.dsState_kept _ h
    · split
      · exact ih (Kept.record (State.sat_kept _ _ (State.consumePoint_kept h)) rfl (Nat.le_refl _))
      · exact State.choose_kept _ _ (State.consumePoint_kept h)

theorem State.decideStride_kept (waiting : Nat) (h : Kept r s) : Kept r (State.decideStride waiting s) := by
  unfold State.decideStride
  try dsimp -iota only
  repeat' with_reducible first
    | assumption
    | intro _
    | apply State.sat_kept | apply State.dsState_kept | apply State.choose_kept | apply State.search_kept | apply Kept.ite
    | simp only [Kept.record_iff]
    | refine KeptP.of_eq (by assumption) ?_ | refine KeptO.of_eq (by assumption) ?_ | refine KeptOP.of_eq (by assumption) ?_ | refine KeptE.of_eq (by assumption) ?_
    | split

theorem execDsDecision_kept (waiting : Nat) (s : State) : KeptOut s (execDsDecision waiting s) := by
  have h := Kept.refl s
  unfold execDsDecision
  try dsimp -iota only
  repeat' with_reducible first
    | assumption
    | apply State.decideStride_kept | apply KeptOut.next

theorem State.issue_kept (cycles : Nat) (h : Kept r s) : Kept r (State.issue cycles s) := by
  unfold State.issue
  try dsimp -iota only
  repeat' with_reducible first
    | assumption
    | apply State.dsState_kept | apply Kept.ite
    | simp only [Kept.record_iff]
    | refine KeptP.of_eq (by assumption) ?_ | refine KeptO.of_eq (by assumption) ?_ | refine KeptOP.of_eq (by assumption) ?_ | refine KeptE.of_eq (by assumption) ?_
    | split

theorem execDescriptorIssue_kept (cycles : Nat) (s : State) : KeptOut s (execDescriptorIssue cycles s) := by
  have h := Kept.refl s
  unfold execDescriptorIssue
  try dsimp -iota only
  repeat' with_reducible first
    | assumption
    | apply State.issue_kept | apply KeptOut.next

theorem State.takeDesc_kept (t : Nat) (w : BitVec 24) (h : Kept r s) : Kept r (State.takeDesc s t w) := by
  unfold State.takeDesc
  try dsimp -iota only
  repeat' with_reducible first
    | assumption
    | apply State.set1_kept | apply State.setTeam_kept | apply State.hungReport_kept | apply Kept.ite
    | simp only [Kept.record_iff]

theorem State.descArrive_kept (t : Nat) (h : Kept r s) : Kept r (State.descArrive t s) := by
  unfold State.descArrive
  try dsimp -iota only
  repeat' with_reducible first
    | assumption
    | intro _
    | apply State.takeDesc_kept | apply Kept.ite
    | simp only [Kept.record_iff]
    | refine KeptP.of_eq (by assumption) ?_ | refine KeptO.of_eq (by assumption) ?_ | refine KeptOP.of_eq (by assumption) ?_ | refine KeptE.of_eq (by assumption) ?_
    | split

theorem execDescriptorArrival_kept (t : Fin 1024) (s : State) : KeptOut s (execDescriptorArrival t s) := by
  have h := Kept.refl s
  unfold execDescriptorArrival
  try dsimp -iota only
  repeat' with_reducible first
    | assumption
    | intro _
    | apply State.descArrive_kept | apply KeptOut.next | apply KeptOut.onMapped | apply Kept.ite

theorem execDsNowLoRead_kept (who : Agent) (s : State) : KeptOut s (execDsNowLoRead who s) := by
  have h := Kept.refl s
  unfold execDsNowLoRead
  try dsimp -iota only
  repeat' with_reducible first
    | assumption
    | apply State.pairRead_kept | apply KeptOut.next

theorem State.horizonHi_kept (v : Word) (h : Kept r s) : Kept r (State.horizonHi v s) := by
  unfold State.horizonHi
  try dsimp -iota only
  repeat' with_reducible first
    | assumption
    | apply State.wr_kept

theorem execDsHorizonHiWrite_kept (v : Word) (s : State) : KeptOut s (execDsHorizonHiWrite v s) := by
  have h := Kept.refl s
  unfold execDsHorizonHiWrite
  try dsimp -iota only
  repeat' with_reducible first
    | assumption
    | apply State.horizonHi_kept | apply KeptOut.next

theorem State.armTeams_kept (n0 : Nat) (h : Kept r s) : Kept r (State.armTeams s n0) := by
  unfold State.armTeams
  try dsimp -iota only
  repeat' with_reducible first
    | assumption
    | intro _
    | apply State.put_kept | apply State.onTeam_kept | apply Kept.foldl | apply Kept.foldlP
    | simp only [Kept.record_iff]

theorem State.beginRun_kept (n0 : Nat) (restored : Bool) (h : Kept r s) : Kept r (State.beginRun s n0 restored) := by
  unfold State.beginRun
  try dsimp -iota only
  repeat' with_reducible first
    | assumption
    | apply State.set1_kept | apply State.putPair_kept | apply State.forgetStrides_kept | apply State.dsState_kept | apply State.armTeams_kept | apply Kept.ite
    | simp only [Kept.record_iff]

end Sys2Proof.Machine
end

