-- ==== Sys2Proof/Laws/KeptHitch.lean ====
section
/-! SUPPORT. What the operations of Machine/Hitch.lean keep (`Kept`). -/
namespace Sys2Proof.Machine

variable {r s : State}

theorem State.hitchHold_kept (h : Kept r s) : Kept r (State.hitchHold s) := by
  unfold State.hitchHold
  try dsimp -iota only
  repeat' with_reducible first
    | assumption
    | intro _
    | apply State.put_kept | apply State.clr_kept | apply State.hitchBanks_kept | apply State.tkCount_kept | apply Kept.foldl | apply Kept.foldlP
    | simp only [Kept.record_iff]

theorem State.hitchRelease_kept (h : Kept r s) : Kept r (State.hitchRelease s) := by
  unfold State.hitchRelease
  try dsimp -iota only
  repeat' with_reducible first
    | assumption
    | intro _
    | apply State.put_kept | apply State.set1_kept | apply State.spend_kept | apply State.hitchBanks_kept | apply Kept.foldl | apply Kept.foldlP
    | simp only [Kept.record_iff]

theorem State.hitchGoWrite_kept (v : Bool) (h : Kept r s) : Kept r (State.hitchGoWrite v s) := by
  unfold State.hitchGoWrite
  try dsimp -iota only
  repeat' with_reducible first
    | assumption
    | apply State.hitchHold_kept | apply State.hitchRelease_kept | apply Kept.ite

theorem execHitchGoWrite_kept (v : Bool) (s : State) : KeptOut s (execHitchGoWrite v s) := by
  have h := Kept.refl s
  unfold execHitchGoWrite
  try dsimp -iota only
  repeat' with_reducible first
    | assumption
    | apply State.hitchGoWrite_kept | apply KeptOut.next

theorem State.qstop_kept (v : Bool) (h : Kept r s) : Kept r (State.qstop v s) := by
  unfold State.qstop
  try dsimp -iota only
  repeat' with_reducible first
    | assumption
    | apply State.put_kept | apply State.hitchBanks_kept

theorem execQstopWrite_kept (v : Bool) (s : State) : KeptOut s (execQstopWrite v s) := by
  have h := Kept.refl s
  unfold execQstopWrite
  try dsimp -iota only
  repeat' with_reducible first
    | assumption
    | apply State.qstop_kept | apply KeptOut.next

theorem State.railChange_kept (b mv : Nat) (h : Kept r s) : Kept r (State.railChange b mv s) := by
  unfold State.railChange
  try dsimp -iota only
  repeat' with_reducible first
    | assumption
    | apply State.hitchBanks_kept
    | simp only [Kept.record_iff]

theorem execVddioHtChange_kept (b : Fin 8) (mv : Nat) (s : State) : KeptOut s (execVddioHtChange b mv s) := by
  have h := Kept.refl s
  unfold execVddioHtChange
  try dsimp -iota only
  repeat' with_reducible first
    | assumption
    | apply State.railChange_kept | apply KeptOut.next

theorem State.prHold_kept (a1 : Nat) (h : Kept r s) : Kept r (State.prHold a1 s) := by
  unfold State.prHold
  try dsimp -iota only
  repeat' with_reducible first
    | assumption
    | apply State.put_kept | apply State.set1_kept | apply Kept.ite
    | simp only [Kept.record_iff]

theorem execPrHold_kept (a1 : Fin 128) (s : State) : KeptOut s (execPrHold a1 s) := by
  have h := Kept.refl s
  unfold execPrHold
  try dsimp -iota only
  repeat' with_reducible first
    | assumption
    | apply State.prHold_kept | apply KeptOut.next

theorem State.prRelease_kept (h : Kept r s) : Kept r (State.prRelease s) := by
  unfold State.prRelease
  try dsimp -iota only
  repeat' with_reducible first
    | assumption
    | apply State.clr_kept | apply Kept.ite
    | simp only [Kept.record_iff]

theorem execPrRelease_kept (s : State) : KeptOut s (execPrRelease s) := by
  have h := Kept.refl s
  unfold execPrRelease
  try dsimp -iota only
  repeat' with_reducible first
    | assumption
    | apply State.prRelease_kept | apply KeptOut.next

theorem State.partialEnd_kept (dma : HostDma) (d : BitVec 512) (h : Kept r s) : KeptP r (State.partialEnd dma d s) := by
  unfold State.partialEnd
  try dsimp -iota only
  repeat' with_reducible first
    | assumption
    | apply State.take_kept | apply State.prHold_kept | apply State.prRelease_kept | apply Kept.foldl | apply Kept.foldlP
    | simp only [Kept.record_iff, KeptP.mk_iff]
    | refine KeptP.of_eq (by assumption) ?_ | refine KeptO.of_eq (by assumption) ?_ | refine KeptOP.of_eq (by assumption) ?_ | refine KeptE.of_eq (by assumption) ?_
    | split

theorem State.partialPoll_kept (dma : HostDma) (c : Taken) (h : Kept r s) : KeptOP r (State.partialPoll dma c s) := by
  unfold State.partialPoll
  try dsimp -iota only
  repeat' with_reducible first
    | assumption
    | apply State.partialEnd_kept | apply KeptOP.some' | apply KeptOP.some | apply Kept.ite | apply KeptOP.ite | apply KeptP.ite | exact KeptOP.none
    | simp only [KeptP.mk_iff]

theorem execHtPartial_kept (dma : HostDma) (s : State) : KeptOut s (execHtPartial dma s) := by
  have h := Kept.refl s
  unfold execHtPartial
  try dsimp -iota only
  repeat' with_reducible first
    | assumption
    | intro _
    | apply State.cmdLong_kept | apply State.partialPoll_kept | apply KeptOut.next | apply KeptOP.some' | apply KeptOP.some | apply KeptOP.ite | exact KeptOP.none
    | simp only [KeptP.mk_iff]

theorem State.contend_kept (line : Nat) (h : Kept r s) : Kept r (State.contend line s) := by
  unfold State.contend
  try dsimp -iota only
  repeat' with_reducible first
    | assumption
    | apply State.put_kept | apply State.set1_kept | apply State.sat_kept | apply State.postEvent_kept | apply State.groomRec_kept | apply Kept.ite
    | simp only [Kept.record_iff]

theorem execContentionDetect_kept (line : Fin 1024) (s : State) : KeptOut s (execContentionDetect line s) := by
  have h := Kept.refl s
  unfold execContentionDetect
  try dsimp -iota only
  repeat' with_reducible first
    | assumption
    | apply State.contend_kept | apply KeptOut.next

theorem State.rearm_kept (h : Kept r s) : Kept r (State.rearm s) := by
  unfold State.rearm
  try dsimp -iota only
  repeat' with_reducible first
    | assumption
    | simp only [Kept.record_iff]

theorem execRearm_kept (s : State) : KeptOut s (execRearm s) := by
  have h := Kept.refl s
  unfold execRearm
  try dsimp -iota only
  repeat' with_reducible first
    | assumption
    | apply State.rearm_kept | apply KeptOut.next

theorem State.hpoUpdate_kept (h : Kept r s) : Kept r (State.hpoUpdate s) := by
  unfold State.hpoUpdate
  try dsimp -iota only
  repeat' with_reducible first
    | assumption
    | apply State.put_kept | apply Kept.ite
    | simp only [Kept.record_iff]
    | refine KeptP.of_eq (by assumption) ?_ | refine KeptO.of_eq (by assumption) ?_ | refine KeptOP.of_eq (by assumption) ?_ | refine KeptE.of_eq (by assumption) ?_
    | split

theorem execHpoUpdate_kept (s : State) : KeptOut s (execHpoUpdate s) := by
  have h := Kept.refl s
  unfold execHpoUpdate
  try dsimp -iota only
  repeat' with_reducible first
    | assumption
    | apply State.hpoUpdate_kept | apply KeptOut.next

theorem State.hpLoad_kept (v : BitVec 1536) (h : Kept r s) : Kept r (State.hpLoad v s) := by
  unfold State.hpLoad
  try dsimp -iota only
  repeat' with_reducible first
    | assumption
    | apply Kept.ite
    | simp only [Kept.record_iff]

theorem execHpLoad_kept (v : BitVec 1536) (s : State) : KeptOut s (execHpLoad v s) := by
  have h := Kept.refl s
  unfold execHpLoad
  try dsimp -iota only
  repeat' with_reducible first
    | assumption
    | apply State.hpLoad_kept | apply KeptOut.next

theorem State.tokenTake_kept (task opnd : Nat) (data : W24) (h : Kept r s) : Kept r (State.tokenTake task opnd data s) := by
  unfold State.tokenTake
  try dsimp -iota only
  repeat' with_reducible first
    | assumption
    | apply State.tkCount_kept | apply Kept.ite
    | simp only [Kept.record_iff]

theorem execTokenPortTake_kept (task : BitVec 5) (opnd : BitVec 3) (data : BitVec 24) (s : State) : KeptOut s (execTokenPortTake task opnd data s) := by
  have h := Kept.refl s
  unfold execTokenPortTake
  try dsimp -iota only
  repeat' with_reducible first
    | assumption
    | apply State.tokenTake_kept | apply KeptOut.next

theorem State.rxTake_kept (n : Nat) (h : Kept r s) : Kept r (State.rxTake n s) := by
  unfold State.rxTake
  try dsimp -iota only
  repeat' with_reducible first
    | assumption
    | apply State.put_kept | apply Kept.ite
    | simp only [Kept.record_iff]
    | refine KeptP.of_eq (by assumption) ?_ | refine KeptO.of_eq (by assumption) ?_ | refine KeptOP.of_eq (by assumption) ?_ | refine KeptE.of_eq (by assumption) ?_
    | split

theorem execStreamRxTake_kept (n : Fin 4) (s : State) : KeptOut s (execStreamRxTake n s) := by
  have h := Kept.refl s
  unfold execStreamRxTake
  try dsimp -iota only
  repeat' with_reducible first
    | assumption
    | apply State.rxTake_kept | apply KeptOut.next

theorem State.txTake_kept (n stream nb : Nat) (data : BitVec 112) (h : Kept r s) : Kept r (State.txTake n stream nb data s) := by
  unfold State.txTake
  try dsimp -iota only
  repeat' with_reducible first
    | assumption
    | apply State.sat_kept | apply Kept.ite
    | simp only [Kept.record_iff]

theorem execStreamTxTake_kept (n : Fin 4) (stream nb : BitVec 4) (data : BitVec 112) (s : State) : KeptOut s (execStreamTxTake n stream nb data s) := by
  have h := Kept.refl s
  unfold execStreamTxTake
  try dsimp -iota only
  repeat' with_reducible first
    | assumption
    | apply State.txTake_kept | apply KeptOut.next

theorem State.treeWrite_kept (t v : Nat) (h : Kept r s) : Kept r (State.treeWrite s t v) := by
  unfold State.treeWrite
  try dsimp -iota only
  repeat' with_reducible first
    | assumption
    | apply State.put_kept | apply Kept.ite
    | simp only [Kept.record_iff]

theorem State.treeDone_kept (t : Nat) (h : Kept r s) : Kept r (State.treeDone s t) := by
  unfold State.treeDone
  try dsimp -iota only
  repeat' with_reducible first
    | assumption
    | simp only [Kept.record_iff]

theorem execTreeSwitch_kept (t : Fin 8) (s : State) : KeptOut s (execTreeSwitch t s) := by
  have h := Kept.refl s
  unfold execTreeSwitch
  try dsimp -iota only
  repeat' with_reducible first
    | assumption
    | apply State.treeDone_kept | apply KeptOut.next

theorem State.treeForce_kept (t : Nat) (h : Kept r s) : Kept r (State.treeForce t s) := by
  unfold State.treeForce
  try dsimp -iota only
  repeat' with_reducible first
    | assumption
    | apply State.set1_kept | apply State.treeDone_kept | apply Kept.ite

theorem execTreeSwitchTimeout_kept (t : Fin 8) (s : State) : KeptOut s (execTreeSwitchTimeout t s) := by
  have h := Kept.refl s
  unfold execTreeSwitchTimeout
  try dsimp -iota only
  repeat' with_reducible first
    | assumption
    | apply State.treeForce_kept | apply KeptOut.next

theorem State.fclkErr_kept (h : Kept r s) : Kept r (State.fclkErr s) := by
  unfold State.fclkErr
  try dsimp -iota only
  repeat' with_reducible first
    | assumption
    | apply State.set1If_kept

theorem State.fclkWrite_kept (k d : Nat) (h : Kept r s) : Kept r (State.fclkWrite s k d) := by
  unfold State.fclkWrite
  try dsimp -iota only
  repeat' with_reducible first
    | assumption
    | apply State.put_kept | apply State.fclkErr_kept

theorem State.htClock_kept (d : BitVec 512) (h : Kept r s) : KeptP r (State.htClock d s) := by
  unfold State.htClock
  try dsimp -iota only
  repeat' with_reducible first
    | assumption
    | apply State.treeWrite_kept | apply State.fclkWrite_kept | apply Kept.ite | apply KeptP.ite
    | simp only [KeptP.mk_iff]

theorem execHtClock_kept (s : State) : KeptOut s (execHtClock s) := by
  have h := Kept.refl s
  unfold execHtClock
  try dsimp -iota only
  repeat' with_reducible first
    | assumption
    | intro _
    | apply State.cmd_kept | apply State.htClock_kept | apply KeptOut.next
    | simp only [KeptP.mk_iff]

theorem State.htCtl_kept (d : BitVec 512) (h : Kept r s) : KeptP r (State.htCtl d s) := by
  unfold State.htCtl
  try dsimp -iota only
  repeat' with_reducible first
    | assumption
    | apply State.qstop_kept | apply State.rearm_kept | apply Kept.ite | apply KeptP.ite
    | simp only [KeptP.mk_iff]

theorem execHtCtl_kept (s : State) : KeptOut s (execHtCtl s) := by
  have h := Kept.refl s
  unfold execHtCtl
  try dsimp -iota only
  repeat' with_reducible first
    | assumption
    | intro _
    | apply State.cmd_kept | apply State.htCtl_kept | apply KeptOut.next
    | simp only [KeptP.mk_iff]

theorem State.extest_kept (v oe : BitVec 256) (h : Kept r s) : Kept r (State.extest v oe s) := by
  unfold State.extest
  try dsimp -iota only
  repeat' with_reducible first
    | assumption
    | apply State.set1_kept | apply Kept.ite
    | simp only [Kept.record_iff]

theorem execExtest_kept (v oe : BitVec 256) (s : State) : KeptOut s (execExtest v oe s) := by
  have h := Kept.refl s
  unfold execExtest
  try dsimp -iota only
  repeat' with_reducible first
    | assumption
    | apply State.extest_kept | apply KeptOut.next
    | simp only [Kept.record_iff]

end Sys2Proof.Machine
end

