-- ==== Sys2Proof/Laws/KeptLink.lean ====
section
/-! SUPPORT. What the operations of Machine/Link.lean keep (`Kept`). -/
namespace Sys2Proof.Machine

variable {r s : State}

theorem State.nextCell_kept (n : Nat) (timed : Bool) (h : Kept r s) : KeptP r (State.nextCell s n timed) := by
  unfold State.nextCell
  try dsimp -iota only
  repeat' with_reducible first
    | assumption
    | apply State.setLink_kept | apply Kept.ite | apply KeptP.ite
    | simp only [Kept.record_iff, KeptP.mk_iff]
    | refine KeptP.of_eq (by assumption) ?_ | refine KeptO.of_eq (by assumption) ?_ | refine KeptOP.of_eq (by assumption) ?_ | refine KeptE.of_eq (by assumption) ?_
    | split

theorem State.fillFrame_kept (n k : Nat) (acc : List (BitVec 128)) (id : Option Nat) (h : Kept r s) :
    KeptP r (s.fillFrame n k acc id) := by
  induction k generalizing s acc id with
  | zero => exact ⟨h⟩
  | succ k ih =>
    unfold State.fillFrame
    exact ih _ _ (State.nextCell_kept _ _ h).fst

theorem State.sendFrame_kept (n : Nat) (f : LFrame) (m : Moment) (h : Kept r s) : Kept r (State.sendFrame s n f m) := by
  unfold State.sendFrame
  try dsimp -iota only
  repeat' with_reducible first
    | assumption
    | intro _
    | apply State.setLink_kept | apply State.onLane_kept | apply State.pushStamp_kept | apply Kept.ite | apply Kept.foldl | apply Kept.foldlP
    | simp only [Kept.record_iff]
    | refine KeptP.of_eq (by assumption) ?_ | refine KeptO.of_eq (by assumption) ?_ | refine KeptOP.of_eq (by assumption) ?_ | refine KeptE.of_eq (by assumption) ?_
    | split

theorem State.expireForward_kept (n expired : Nat) (h : Kept r s) : Kept r (State.expireForward s n expired) := by
  unfold State.expireForward
  try dsimp -iota only
  repeat' with_reducible first
    | assumption
    | intro _
    | apply State.setLink_kept | apply State.take_kept | apply Kept.ite | apply Kept.foldl | apply Kept.foldlP
    | simp only [Kept.record_iff]
    | refine KeptP.of_eq (by assumption) ?_ | refine KeptO.of_eq (by assumption) ?_ | refine KeptOP.of_eq (by assumption) ?_ | refine KeptE.of_eq (by assumption) ?_
    | split

theorem State.expireSend_kept (n stuck : Nat) (h : Kept r s) : Kept r (State.expireSend s n stuck) := by
  unfold State.expireSend
  try dsimp -iota only
  repeat' with_reducible first
    | assumption
    | intro _
    | apply State.setLink_kept | apply State.wait_kept | apply State.take_kept | apply Kept.ite | apply Kept.foldl | apply Kept.foldlP
    | simp only [Kept.record_iff]
    | refine KeptP.of_eq (by assumption) ?_ | refine KeptO.of_eq (by assumption) ?_ | refine KeptOP.of_eq (by assumption) ?_ | refine KeptE.of_eq (by assumption) ?_
    | split

theorem State.alignMsgs_kept (n : Nat) (h : Kept r s) : Kept r (State.alignMsgs s n) := by
  unfold State.alignMsgs
  try dsimp -iota only
  repeat' with_reducible first
    | assumption
    | apply State.say_kept | apply Kept.ite
    | simp only [Kept.record_iff]
    | refine KeptP.of_eq (by assumption) ?_ | refine KeptO.of_eq (by assumption) ?_ | refine KeptOP.of_eq (by assumption) ?_ | refine KeptE.of_eq (by assumption) ?_
    | split

theorem State.transmit_kept (n : Nat) (m : Moment) (expired stuck : Nat) (h : Kept r s) : Kept r (State.transmit n m expired stuck s) := by
  unfold State.transmit
  try dsimp -iota only
  repeat' with_reducible first
    | assumption
    | intro _
    | apply State.set1If_kept | apply State.sat_kept | apply State.setLink_kept | apply State.onLink_kept | apply State.fillFrame_kept | apply State.sendFrame_kept | apply State.expireForward_kept | apply State.expireSend_kept | apply State.alignMsgs_kept | apply Kept.ite | apply KeptP.ite | (refine Kept.of_fst ?_; apply State.fillFrame_kept) | apply Kept.fst_ite
    | simp only [Kept.record_iff, KeptP.mk_iff]
    | refine KeptP.of_eq (by assumption) ?_ | refine KeptO.of_eq (by assumption) ?_ | refine KeptOP.of_eq (by assumption) ?_ | refine KeptE.of_eq (by assumption) ?_
    | split

theorem execFrameTransmit_kept (n : Fin 20) (at_ : Moment) (expired stuck : Nat) (s : State) : KeptOut s (execFrameTransmit n at_ expired stuck s) := by
  have h := Kept.refl s
  unfold execFrameTransmit
  try dsimp -iota only
  repeat' with_reducible first
    | assumption
    | apply State.transmit_kept | apply KeptOut.next

theorem State.forwardIn_kept (n t : Nat) (p : Packet) (h : Kept r s) : Kept r (State.forwardIn s n t p) := by
  unfold State.forwardIn
  try dsimp -iota only
  repeat' with_reducible first
    | assumption
    | apply State.setLink_kept | apply State.wait_kept
    | simp only [Kept.record_iff]
    | refine KeptP.of_eq (by assumption) ?_ | refine KeptO.of_eq (by assumption) ?_ | refine KeptOP.of_eq (by assumption) ?_ | refine KeptE.of_eq (by assumption) ?_
    | split

theorem State.forwardNext_kept (n t : Nat) (k : Link) (h : Kept r s) : Kept r (State.forwardNext s n t k) := by
  unfold State.forwardNext
  try dsimp -iota only
  repeat' with_reducible first
    | assumption
    | apply State.setLink_kept | apply State.forwardIn_kept
    | simp only [Kept.record_iff]
    | refine KeptP.of_eq (by assumption) ?_ | refine KeptO.of_eq (by assumption) ?_ | refine KeptOP.of_eq (by assumption) ?_ | refine KeptE.of_eq (by assumption) ?_
    | split

theorem State.forwardBack_kept (n t : Nat) (c : Packet) (h : Kept r s) : Kept r (State.forwardBack s n t c) := by
  unfold State.forwardBack
  try dsimp -iota only
  repeat' with_reducible first
    | assumption
    | intro _
    | apply State.forwardNext_kept
    | simp only [Kept.record_iff]
    | refine KeptP.of_eq (by assumption) ?_ | refine KeptO.of_eq (by assumption) ?_ | refine KeptOP.of_eq (by assumption) ?_ | refine KeptE.of_eq (by assumption) ?_
    | split

theorem State.packetIn_kept (n excess : Nat) (p : Packet) (h : Kept r s) : Kept r (State.packetIn s n excess p) := by
  unfold State.packetIn
  try dsimp -iota only
  repeat' with_reducible first
    | assumption
    | intro _
    | apply State.onLink_kept | apply State.wait_kept | apply State.forwardIn_kept | apply Kept.ite
    | simp only [Kept.record_iff]
    | refine KeptP.of_eq (by assumption) ?_ | refine KeptO.of_eq (by assumption) ?_ | refine KeptOP.of_eq (by assumption) ?_ | refine KeptE.of_eq (by assumption) ?_
    | split

theorem State.vcIn_kept (n vc : Nat) (f : Flit) (h : Kept r s) : Kept r (State.vcIn s n vc f) := by
  unfold State.vcIn
  try dsimp -iota only
  repeat' with_reducible first
    | assumption
    | apply State.set1If_kept | apply State.setLink_kept | apply State.packetIn_kept | apply Kept.ite | apply KeptP.ite | apply Kept.fst_ite
    | simp only [Kept.record_iff, KeptP.mk_iff]
    | refine KeptP.of_eq (by assumption) ?_ | refine KeptO.of_eq (by assumption) ?_ | refine KeptOP.of_eq (by assumption) ?_ | refine KeptE.of_eq (by assumption) ?_
    | split

theorem State.staticIn_kept (n : Nat) (f : Flit) (h : Kept r s) : Kept r (State.staticIn s n f) := by
  unfold State.staticIn
  try dsimp -iota only
  repeat' with_reducible first
    | assumption
    | apply State.put_kept | apply State.set1_kept | apply State.setLink_kept | apply State.spoil_kept | apply State.checkReport_kept | apply State.qboundLd_kept | apply Kept.ite
    | simp only [Kept.record_iff]
    | refine KeptP.of_eq (by assumption) ?_ | refine KeptO.of_eq (by assumption) ?_ | refine KeptOP.of_eq (by assumption) ?_ | refine KeptE.of_eq (by assumption) ?_
    | split

theorem State.msgIn_kept (n stamp : Nat) (m : Flit) (h : Kept r s) : Kept r (State.msgIn s n stamp m) := by
  unfold State.msgIn
  try dsimp -iota only
  repeat' with_reducible first
    | assumption
    | apply State.set1_kept | apply State.setLink_kept | apply Kept.ite
    | simp only [Kept.record_iff]

theorem State.streamIn_kept (n : Nat) (c : SCell) (h : Kept r s) : Kept r (State.streamIn s n c) := by
  unfold State.streamIn
  try dsimp -iota only
  repeat' with_reducible first
    | assumption
    | intro _
    | apply State.put_kept | apply State.sat_kept | apply State.onLink_kept | apply Kept.ite
    | simp only [Kept.record_iff]

theorem State.cellIn_kept (n stamp : Nat) (c : BitVec 128) (h : Kept r s) : Kept r (State.cellIn s n stamp c) := by
  unfold State.cellIn
  try dsimp -iota only
  repeat' with_reducible first
    | assumption
    | apply State.set1_kept | apply State.vcIn_kept | apply State.staticIn_kept | apply State.msgIn_kept | apply State.streamIn_kept | apply Kept.ite
    | simp only [Kept.record_iff]
    | refine KeptP.of_eq (by assumption) ?_ | refine KeptO.of_eq (by assumption) ?_ | refine KeptOP.of_eq (by assumption) ?_ | refine KeptE.of_eq (by assumption) ?_
    | split

theorem State.acceptFrame_kept (n : Nat) (f : LFrame) (h : Kept r s) : Kept r (State.acceptFrame s n f) := by
  unfold State.acceptFrame
  try dsimp -iota only
  repeat' with_reducible first
    | assumption
    | intro _
    | apply State.onLink_kept | apply State.cellIn_kept | apply Kept.foldl | apply Kept.foldlP
    | simp only [Kept.record_iff]

theorem State.failFrame_kept (n : Nat) (flag : Option Nat) (h : Kept r s) : Kept r (State.failFrame s n flag) := by
  unfold State.failFrame
  try dsimp -iota only
  repeat' with_reducible first
    | assumption
    | apply State.set1_kept | apply State.sat_kept | apply State.setLink_kept | apply State.groomRec_kept | apply Kept.ite
    | simp only [Kept.record_iff]
    | refine KeptP.of_eq (by assumption) ?_ | refine KeptO.of_eq (by assumption) ?_ | refine KeptOP.of_eq (by assumption) ?_ | refine KeptE.of_eq (by assumption) ?_
    | split

theorem State.ackIn_kept (n ack : Nat) (nak : Bool) (h : Kept r s) : Kept r (State.ackIn s n ack nak) := by
  unfold State.ackIn
  try dsimp -iota only
  repeat' with_reducible first
    | assumption
    | intro _
    | apply State.set1_kept | apply State.setLink_kept | apply Kept.ite
    | simp only [Kept.record_iff]
    | refine KeptP.of_eq (by assumption) ?_ | refine KeptO.of_eq (by assumption) ?_ | refine KeptOP.of_eq (by assumption) ?_ | refine KeptE.of_eq (by assumption) ?_
    | split

theorem State.headIn_kept (n : Nat) (a1 : W64) (h : Kept r s) : Kept r (State.headIn s n a1) := by
  unfold State.headIn
  try dsimp -iota only
  repeat' with_reducible first
    | assumption
    | intro _
    | apply State.wr_kept | apply State.onTeam_kept | apply State.onLink_kept | apply State.ackIn_kept | apply Kept.ite
    | simp only [Kept.record_iff]
    | refine KeptP.of_eq (by assumption) ?_ | refine KeptO.of_eq (by assumption) ?_ | refine KeptOP.of_eq (by assumption) ?_ | refine KeptE.of_eq (by assumption) ?_
    | split

theorem State.subReqIn_kept (n : Nat) (a1 : W64) (h : Kept r s) : Kept r (State.subReqIn s n a1) := by
  unfold State.subReqIn
  try dsimp -iota only
  repeat' with_reducible first
    | assumption
    | apply State.substitute_kept | apply Kept.ite

theorem State.fillIn_kept (n : Nat) (row : Bool) (drift : Int) (h : Kept r s) : Kept r (State.fillIn s n row drift) := by
  unfold State.fillIn
  try dsimp -iota only
  repeat' with_reducible first
    | assumption
    | intro _
    | apply State.set1If_kept | apply State.sat_kept | apply State.onLane_kept | apply Kept.ite | apply Kept.foldl | apply Kept.foldlP
    | simp only [Kept.record_iff]

theorem State.headLanes_kept (n : Nat) (f : RxFrame) (h : Kept r s) : Kept r (State.headLanes s n f) := by
  unfold State.headLanes
  try dsimp -iota only
  repeat' with_reducible first
    | assumption
    | intro _
    | apply State.onLane_kept | apply Kept.foldl | apply Kept.foldlP
    | simp only [Kept.record_iff]
    | refine KeptP.of_eq (by assumption) ?_ | refine KeptO.of_eq (by assumption) ?_ | refine KeptOP.of_eq (by assumption) ?_ | refine KeptE.of_eq (by assumption) ?_
    | split

theorem State.frameIn_kept (n : Nat) (h0 : Option W64) (ill : Option Nat) (cells : List (BitVec 128)) (at_ : Nat) (h : Kept r s) : Kept r (State.frameIn s n h0 ill cells at_) := by
  unfold State.frameIn
  try dsimp -iota only
  repeat' with_reducible first
    | assumption
    | apply State.setLink_kept | apply State.acceptFrame_kept | apply State.failFrame_kept | apply Kept.ite
    | simp only [Kept.record_iff]
    | refine KeptP.of_eq (by assumption) ?_ | refine KeptO.of_eq (by assumption) ?_ | refine KeptOP.of_eq (by assumption) ?_ | refine KeptE.of_eq (by assumption) ?_
    | split

theorem State.receive_kept (n : Nat) (f : RxFrame) (m : Moment) (h : Kept r s) : Kept r (State.receive n f m s) := by
  unfold State.receive
  try dsimp -iota only
  repeat' with_reducible first
    | assumption
    | intro _
    | apply State.set1If_kept | apply State.headIn_kept | apply State.subReqIn_kept | apply State.fillIn_kept | apply State.headLanes_kept | apply State.frameIn_kept | apply Kept.ite | apply Kept.foldl | apply Kept.foldlP
    | simp only [Kept.record_iff]
    | refine KeptP.of_eq (by assumption) ?_ | refine KeptO.of_eq (by assumption) ?_ | refine KeptOP.of_eq (by assumption) ?_ | refine KeptE.of_eq (by assumption) ?_
    | split

theorem execFrameReceive_kept (n : Fin 20) (f : RxFrame) (at_ : Moment) (s : State) : KeptOut s (execFrameReceive n f at_ s) := by
  have h := Kept.refl s
  unfold execFrameReceive
  try dsimp -iota only
  repeat' with_reducible first
    | assumption
    | apply State.receive_kept | apply KeptOut.next

end Sys2Proof.Machine
end

