-- ==== Sys2Proof/Laws/KeptRun.lean ====
section
/-! SUPPORT. What the operations of Machine/Run.lean keep (`Kept`). -/
namespace Sys2Proof.Machine

variable {r s : State}

theorem State.msgDone_kept (n : Nat) (h : Kept r s) : Kept r (State.msgDone s n) := by
  unfold State.msgDone
  try dsimp -iota only
  repeat' with_reducible first
    | assumption
    | intro _
    | apply State.onLink_kept
    | simp only [Kept.record_iff]

theorem State.stopAlign_kept (h : Kept r s) : Kept r (State.stopAlign s) := by
  unfold State.stopAlign
  try dsimp -iota only
  repeat' with_reducible first
    | assumption
    | intro _
    | apply State.onLink_kept | apply Kept.ite | apply Kept.foldl | apply Kept.foldlP
    | simp only [Kept.record_iff]

theorem State.refuseAlign_kept (n b status : Nat) (h : Kept r s) : Kept r (State.refuseAlign s n b status) := by
  unfold State.refuseAlign
  try dsimp -iota only
  repeat' with_reducible first
    | assumption
    | apply State.set1_kept | apply State.endLong_kept | apply State.stopAlign_kept | apply Kept.ite

theorem State.checkAlign_kept (n : Nat) (h : Kept r s) : Kept r (State.checkAlign s n) := by
  unfold State.checkAlign
  try dsimp -iota only
  repeat' with_reducible first
    | assumption
    | apply State.set1_kept | apply State.refuseAlign_kept | apply Kept.ite
    | simp only [Kept.record_iff]
    | refine KeptP.of_eq (by assumption) ?_ | refine KeptO.of_eq (by assumption) ?_ | refine KeptOP.of_eq (by assumption) ?_ | refine KeptE.of_eq (by assumption) ?_
    | split

theorem State.alignIdIn_kept (n : Nat) (h : Kept r s) : Kept r (State.alignIdIn n s) := by
  unfold State.alignIdIn
  try dsimp -iota only
  repeat' with_reducible first
    | assumption
    | intro _
    | apply State.put_kept | apply State.onLink_kept | apply State.msgDone_kept | apply State.checkAlign_kept
    | simp only [Kept.record_iff]
    | refine KeptP.of_eq (by assumption) ?_ | refine KeptO.of_eq (by assumption) ?_ | refine KeptOP.of_eq (by assumption) ?_ | refine KeptE.of_eq (by assumption) ?_
    | split

theorem execAlignId_kept (n : Fin 16) (s : State) : KeptOut s (execAlignId n s) := by
  have h := Kept.refl s
  unfold execAlignId
  try dsimp -iota only
  repeat' with_reducible first
    | assumption
    | apply State.alignIdIn_kept | apply KeptOut.next

theorem State.alignN0In_kept (n : Nat) (h : Kept r s) : Kept r (State.alignN0In n s) := by
  unfold State.alignN0In
  try dsimp -iota only
  repeat' with_reducible first
    | assumption
    | intro _
    | apply State.onLink_kept | apply State.msgDone_kept | apply State.checkAlign_kept
    | simp only [Kept.record_iff]
    | refine KeptP.of_eq (by assumption) ?_ | refine KeptO.of_eq (by assumption) ?_ | refine KeptOP.of_eq (by assumption) ?_ | refine KeptE.of_eq (by assumption) ?_
    | split

theorem execAlignN0_kept (n : Fin 16) (s : State) : KeptOut s (execAlignN0 n s) := by
  have h := Kept.refl s
  unfold execAlignN0
  try dsimp -iota only
  repeat' with_reducible first
    | assumption
    | apply State.alignN0In_kept | apply KeptOut.next

theorem State.strideIn_kept (n : Nat) (h : Kept r s) : Kept r (State.strideIn n s) := by
  unfold State.strideIn
  try dsimp -iota only
  repeat' with_reducible first
    | assumption
    | intro _
    | apply State.onLink_kept | apply State.strideCheck_kept | apply State.msgDone_kept | apply Kept.ite
    | simp only [Kept.record_iff]
    | refine KeptP.of_eq (by assumption) ?_ | refine KeptO.of_eq (by assumption) ?_ | refine KeptOP.of_eq (by assumption) ?_ | refine KeptE.of_eq (by assumption) ?_
    | split

theorem execStride_kept (n : Fin 16) (s : State) : KeptOut s (execStride n s) := by
  have h := Kept.refl s
  unfold execStride
  try dsimp -iota only
  repeat' with_reducible first
    | assumption
    | apply State.strideIn_kept | apply KeptOut.next

theorem State.enterRun_kept (mode : Nat) (h : Kept r s) : Kept r (State.enterRun s mode) := by
  unfold State.enterRun
  try dsimp -iota only
  repeat' with_reducible first
    | assumption
    | apply State.put_kept | apply State.clr_kept | apply State.setMode_kept

theorem State.leaveRest_kept (h : Kept r s) : Kept r (State.leaveRest s) := by
  unfold State.leaveRest
  try dsimp -iota only
  repeat' with_reducible first
    | assumption
    | apply State.enterRun_kept | apply Kept.ite

theorem State.unrest_kept (h : Kept r s) : Kept r (State.unrest s) := by
  unfold State.unrest
  try dsimp -iota only
  repeat' with_reducible first
    | assumption
    | apply State.clr_kept | apply Kept.ite

theorem State.holdIn_kept (n : Nat) (h : Kept r s) : Kept r (State.holdIn n s) := by
  unfold State.holdIn
  try dsimp -iota only
  repeat' with_reducible first
    | assumption
    | apply State.adoptHold_kept | apply State.release_kept | apply State.msgDone_kept | apply State.leaveRest_kept | apply State.unrest_kept | apply Kept.ite
    | simp only [Kept.record_iff]
    | refine KeptP.of_eq (by assumption) ?_ | refine KeptO.of_eq (by assumption) ?_ | refine KeptOP.of_eq (by assumption) ?_ | refine KeptE.of_eq (by assumption) ?_
    | split

theorem execHold_kept (n : Fin 16) (s : State) : KeptOut s (execHold n s) := by
  have h := Kept.refl s
  unfold execHold
  try dsimp -iota only
  repeat' with_reducible first
    | assumption
    | apply State.holdIn_kept | apply KeptOut.next

theorem State.releaseIn_kept (n : Nat) (h : Kept r s) : Kept r (State.releaseIn n s) := by
  unfold State.releaseIn
  try dsimp -iota only
  repeat' with_reducible first
    | assumption
    | apply State.release_kept | apply State.msgDone_kept | apply State.leaveRest_kept | apply Kept.ite
    | simp only [Kept.record_iff]
    | refine KeptP.of_eq (by assumption) ?_ | refine KeptO.of_eq (by assumption) ?_ | refine KeptOP.of_eq (by assumption) ?_ | refine KeptE.of_eq (by assumption) ?_
    | split

theorem execRelease_kept (n : Fin 16) (s : State) : KeptOut s (execRelease n s) := by
  have h := Kept.refl s
  unfold execRelease
  try dsimp -iota only
  repeat' with_reducible first
    | assumption
    | apply State.releaseIn_kept | apply KeptOut.next

theorem State.timeMsg_kept (n : Nat) (id : Byte) (h : Kept r s) : Kept r (State.timeMsg n id s) := by
  unfold State.timeMsg
  try dsimp -iota only
  repeat' with_reducible first
    | assumption
    | intro _
    | apply State.onLink_kept | apply State.say_kept | apply State.msgDone_kept | apply Kept.ite
    | simp only [Kept.record_iff]
    | refine KeptP.of_eq (by assumption) ?_ | refine KeptO.of_eq (by assumption) ?_ | refine KeptOP.of_eq (by assumption) ?_ | refine KeptE.of_eq (by assumption) ?_
    | split

theorem execTime_kept (n : Fin 20) (id : Byte) (s : State) : KeptOut s (execTime n id s) := by
  have h := Kept.refl s
  unfold execTime
  try dsimp -iota only
  repeat' with_reducible first
    | assumption
    | apply State.timeMsg_kept | apply KeptOut.next

theorem State.fwMsg_kept (n : Nat) (h : Kept r s) : Kept r (State.fwMsg n s) := by
  unfold State.fwMsg
  try dsimp -iota only
  repeat' with_reducible first
    | assumption
    | intro _
    | apply State.onLink_kept | apply State.msgDone_kept
    | simp only [Kept.record_iff]
    | refine KeptP.of_eq (by assumption) ?_ | refine KeptO.of_eq (by assumption) ?_ | refine KeptOP.of_eq (by assumption) ?_ | refine KeptE.of_eq (by assumption) ?_
    | split

theorem execFw_kept (n : Fin 20) (s : State) : KeptOut s (execFw n s) := by
  have h := Kept.refl s
  unfold execFw
  try dsimp -iota only
  repeat' with_reducible first
    | assumption
    | apply State.fwMsg_kept | apply KeptOut.next

theorem State.enterRest_kept (h : Kept r s) : Kept r (State.enterRest s) := by
  unfold State.enterRest
  try dsimp -iota only
  repeat' with_reducible first
    | assumption
    | apply State.put_kept | apply State.set1_kept | apply State.setMode_kept | apply State.rmwWrite_kept | apply Kept.foldl | apply Kept.foldlP

theorem State.atH_kept (h : Kept r s) : Kept r (State.atH s) := by
  unfold State.atH
  try dsimp -iota only
  repeat' with_reducible first
    | assumption
    | apply State.set1_kept | apply State.postEvent_kept | apply State.endLong_kept | apply State.enterRest_kept | apply Kept.ite
    | simp only [Kept.record_iff]

theorem execAtHReached_kept (s : State) : KeptOut s (execAtHReached s) := by
  have h := Kept.refl s
  unfold execAtHReached
  try dsimp -iota only
  repeat' with_reducible first
    | assumption
    | apply State.atH_kept | apply KeptOut.next

theorem State.relink_kept (n rate : Nat) (h : Kept r s) : Kept r (State.relink s n rate) := by
  unfold State.relink
  try dsimp -iota only
  repeat' with_reducible first
    | assumption
    | intro _
    | apply State.wr_kept | apply State.put_kept | apply State.setLink_kept | apply State.setLinkState_kept | apply State.laneEnable_kept | apply State.laneDisable_kept | apply Kept.foldl | apply Kept.foldlP

theorem State.changeLevel_kept (lv : Nat) (h : Kept r s) : Kept r (State.changeLevel s lv) := by
  unfold State.changeLevel
  try dsimp -iota only
  repeat' with_reducible first
    | assumption
    | intro _
    | apply State.put_kept | apply State.set1_kept | apply State.each_kept | apply State.storeReady_kept | apply State.rateChange_kept | apply State.relink_kept | apply Kept.ite | apply Kept.foldl | apply Kept.foldlP
    | simp only [Kept.record_iff]

theorem State.slowLinks_kept (h : Kept r s) : Kept r (State.slowLinks s) := by
  unfold State.slowLinks
  try dsimp -iota only
  repeat' with_reducible first
    | assumption
    | intro _
    | apply State.set1_kept | apply State.relink_kept | apply Kept.foldl | apply Kept.foldlP

theorem State.startAlign_kept (n0 : Nat) (h : Kept r s) : Kept r (State.startAlign s n0) := by
  unfold State.startAlign
  try dsimp -iota only
  repeat' with_reducible first
    | assumption
    | intro _
    | apply State.clr_kept | apply State.onLink_kept | apply Kept.foldl | apply Kept.foldlP
    | simp only [Kept.record_iff]

theorem State.runStartBegin_kept (d : BitVec 512) (h : Kept r s) : KeptP r (State.runStartBegin d s) := by
  unfold State.runStartBegin
  try dsimp -iota only
  repeat' with_reducible first
    | assumption
    | apply State.put_kept | apply State.changeLevel_kept | apply State.slowLinks_kept | apply State.startAlign_kept | apply Kept.ite | apply KeptP.ite
    | simp only [Kept.record_iff, KeptP.mk_iff]
    | refine KeptP.of_eq (by assumption) ?_ | refine KeptO.of_eq (by assumption) ?_ | refine KeptOP.of_eq (by assumption) ?_ | refine KeptE.of_eq (by assumption) ?_
    | split

theorem State.runStartPoll_kept (c : Taken) (h : Kept r s) : KeptOP r (State.runStartPoll c s) := by
  unfold State.runStartPoll
  try dsimp -iota only
  repeat' with_reducible first
    | assumption
    | intro _
    | apply State.clr_kept | apply KeptOP.some' | apply KeptOP.some | apply Kept.ite | apply KeptOP.ite | apply KeptP.ite | exact KeptOP.none
    | simp only [Kept.record_iff, KeptP.mk_iff]
    | refine KeptP.of_eq (by assumption) ?_ | refine KeptO.of_eq (by assumption) ?_ | refine KeptOP.of_eq (by assumption) ?_ | refine KeptE.of_eq (by assumption) ?_
    | split

theorem State.levelDone_kept (h : Kept r s) : Kept r (State.levelDone s) := by
  unfold State.levelDone
  try dsimp -iota only
  repeat' with_reducible first
    | assumption
    | intro _
    | apply State.clr_kept | apply State.startAlign_kept | apply Kept.ite
    | simp only [Kept.record_iff]
    | refine KeptP.of_eq (by assumption) ?_ | refine KeptO.of_eq (by assumption) ?_ | refine KeptOP.of_eq (by assumption) ?_ | refine KeptE.of_eq (by assumption) ?_
    | split

theorem State.levelTrain_kept (runs : TrainRuns) (h : Kept r s) : Kept r (State.levelTrain s runs) := by
  unfold State.levelTrain
  try dsimp -iota only
  repeat' with_reducible first
    | assumption
    | apply State.trainAll_kept | apply Kept.ite

theorem execRunStart_kept (runs : TrainRuns) (s : State) : KeptOut s (execRunStart runs s) := by
  have h := Kept.refl s
  unfold execRunStart
  try dsimp -iota only
  repeat' with_reducible first
    | assumption
    | intro _
    | apply State.cmdLong_kept | apply State.runStartBegin_kept | apply State.runStartPoll_kept | apply State.levelDone_kept | apply State.levelTrain_kept | apply KeptOut.next | apply KeptOP.some' | apply KeptOP.some | apply KeptOP.ite | exact KeptOP.none
    | simp only [KeptP.mk_iff]

theorem State.dsEnable_kept (h : Kept r s) : Kept r (State.dsEnable s) := by
  unfold State.dsEnable
  try dsimp -iota only
  repeat' with_reducible first
    | assumption
    | intro _
    | apply State.set1_kept | apply State.endLong_kept | apply State.adoptHold_kept | apply State.release_kept | apply State.beginRun_kept | apply State.stopAlign_kept | apply State.enterRun_kept | apply Kept.ite
    | simp only [Kept.record_iff]
    | refine KeptP.of_eq (by assumption) ?_ | refine KeptO.of_eq (by assumption) ?_ | refine KeptOP.of_eq (by assumption) ?_ | refine KeptE.of_eq (by assumption) ?_
    | split

theorem execDsEnable_kept (s : State) : KeptOut s (execDsEnable s) := by
  have h := Kept.refl s
  unfold execDsEnable
  try dsimp -iota only
  repeat' with_reducible first
    | assumption
    | apply State.dsEnable_kept | apply KeptOut.next

theorem execRunStop_kept (s : State) : KeptOut s (execRunStop s) := by
  have h := Kept.refl s
  unfold execRunStop
  try dsimp -iota only
  repeat' with_reducible first
    | assumption
    | intro _
    | apply State.requestHold_kept | apply State.cmdLong_kept | apply KeptOut.next | apply KeptOP.some' | apply KeptOP.some | apply KeptOP.ite | exact KeptOP.none
    | simp only [KeptP.mk_iff]

theorem execRunAbort_kept (s : State) : KeptOut s (execRunAbort s) := by
  have h := Kept.refl s
  unfold execRunAbort
  try dsimp -iota only
  repeat' with_reducible first
    | assumption
    | intro _
    | apply State.endLong_kept | apply State.enterQuarantine_kept | apply State.cmd_kept | apply KeptOut.next
    | simp only [KeptP.mk_iff]

theorem State.stepStrides_kept (d : BitVec 512) (h : Kept r s) : KeptP r (State.stepStrides d s) := by
  unfold State.stepStrides
  try dsimp -iota only
  repeat' with_reducible first
    | assumption
    | apply State.clr_kept | apply State.adoptHold_kept
    | simp only [Kept.record_iff, KeptP.mk_iff]

theorem execStepStrides_kept (s : State) : KeptOut s (execStepStrides s) := by
  have h := Kept.refl s
  unfold execStepStrides
  try dsimp -iota only
  repeat' with_reducible first
    | assumption
    | intro _
    | apply State.cmdLong_kept | apply State.stepStrides_kept | apply KeptOut.next | apply KeptOP.some' | apply KeptOP.some | apply KeptOP.ite | exact KeptOP.none
    | simp only [KeptP.mk_iff]

theorem State.bkpArm_kept (d : BitVec 512) (h : Kept r s) : KeptP r (State.bkpArm d s) := by
  unfold State.bkpArm
  try dsimp -iota only
  repeat' with_reducible first
    | assumption
    | intro _
    | apply State.put_kept | apply Kept.foldl | apply Kept.foldlP
    | simp only [KeptP.mk_iff]

theorem execBkpArm_kept (s : State) : KeptOut s (execBkpArm s) := by
  have h := Kept.refl s
  unfold execBkpArm
  try dsimp -iota only
  repeat' with_reducible first
    | assumption
    | intro _
    | apply State.cmd_kept | apply State.bkpArm_kept | apply KeptOut.next
    | simp only [KeptP.mk_iff]

theorem State.haltContinue_kept (h : Kept r s) : Kept r (State.haltContinue s) := by
  unfold State.haltContinue
  try dsimp -iota only
  repeat' with_reducible first
    | assumption
    | intro _
    | apply State.onTeam_kept | apply Kept.ite | apply Kept.foldl | apply Kept.foldlP
    | simp only [Kept.record_iff]

theorem execHaltContinue_kept (s : State) : KeptOut s (execHaltContinue s) := by
  have h := Kept.refl s
  unfold execHaltContinue
  try dsimp -iota only
  repeat' with_reducible first
    | assumption
    | intro _
    | apply State.cmdLong_kept | apply State.haltContinue_kept | apply KeptOut.next | apply KeptOP.some' | apply KeptOP.some | apply KeptOP.ite | exact KeptOP.none
    | simp only [KeptP.mk_iff]

theorem State.hostGo_kept (d : BitVec 512) (h : Kept r s) : KeptP r (State.hostGo d s) := by
  unfold State.hostGo
  try dsimp -iota only
  repeat' with_reducible first
    | assumption
    | intro _
    | apply State.set1_kept | apply State.clr_kept | apply State.each_kept | apply Kept.ite | apply KeptP.ite
    | simp only [KeptP.mk_iff]

theorem execHostGo_kept (s : State) : KeptOut s (execHostGo s) := by
  have h := Kept.refl s
  unfold execHostGo
  try dsimp -iota only
  repeat' with_reducible first
    | assumption
    | intro _
    | apply State.cmd_kept | apply State.hostGo_kept | apply KeptOut.next
    | simp only [KeptP.mk_iff]

theorem State.horizonCmd_kept (d : BitVec 512) (h : Kept r s) : KeptP r (State.horizonCmd d s) := by
  unfold State.horizonCmd
  try dsimp -iota only
  repeat' with_reducible first
    | assumption
    | apply State.put_kept | apply State.putPair_kept | apply Kept.ite | apply KeptP.ite
    | simp only [KeptP.mk_iff]

theorem execHorizon_kept (s : State) : KeptOut s (execHorizon s) := by
  have h := Kept.refl s
  unfold execHorizon
  try dsimp -iota only
  repeat' with_reducible first
    | assumption
    | intro _
    | apply State.cmd_kept | apply State.horizonCmd_kept | apply KeptOut.next
    | simp only [KeptP.mk_iff]

theorem State.submit_kept (d : BitVec 512) (late : BitVec 3) (n i m : Nat) (h : Kept r s) : KeptP r (s.submit d late n i m) := by
  induction n generalizing s i m with
  | zero => exact ⟨h⟩
  | succ n ih =>
    unfold State.submit
    dsimp only
    split
    · exact ⟨h⟩
    · exact ⟨h⟩
    · exact ⟨h⟩
    · exact ⟨h⟩
    · exact ih _ _ (State.set1If_kept _ _ (State.storeToken_kept _ h))

theorem execToken_kept (late : BitVec 3) (s : State) : KeptOut s (execToken late s) := by
  have h := Kept.refl s
  unfold execToken
  try dsimp -iota only
  repeat' with_reducible first
    | assumption
    | intro _
    | apply State.cmd_kept | apply State.submit_kept | apply KeptOut.next
    | simp only [KeptP.mk_iff]

end Sys2Proof.Machine
end

