-- ==== Sys2Proof/Laws/KeptLinkCmd.lean ====
section
/-! SUPPORT. What the operations of Machine/LinkCmd.lean keep (`Kept`). -/
namespace Sys2Proof.Machine

variable {r s : State}

theorem State.dropLink_kept (n : Nat) (h : Kept r s) : Kept r (State.dropLink s n) := by
  unfold State.dropLink
  try dsimp -iota only
  repeat' with_reducible first
    | assumption
    | apply State.setLink_kept | apply State.dropRequests_kept

theorem State.takeDown_kept (n : Nat) (h : Kept r s) : Kept r (State.takeDown s n) := by
  unfold State.takeDown
  try dsimp -iota only
  repeat' with_reducible first
    | assumption
    | intro _
    | apply State.wr_kept | apply State.put_kept | apply State.clr_kept | apply State.setLinkState_kept | apply State.laneDisable_kept | apply State.dropLink_kept | apply Kept.ite | apply Kept.foldl | apply Kept.foldlP

theorem State.linkUpBegin_kept (d : BitVec 512) (h : Kept r s) : KeptP r (State.linkUpBegin d s) := by
  unfold State.linkUpBegin
  try dsimp -iota only
  repeat' with_reducible first
    | assumption
    | intro _
    | apply State.put_kept | apply State.set1_kept | apply State.laneEnable_kept | apply Kept.ite | apply KeptP.ite | apply Kept.foldl | apply Kept.foldlP
    | simp only [KeptP.mk_iff]

theorem State.linkUpPoll_kept (c : Taken) (h : Kept r s) : KeptOP r (State.linkUpPoll c s) := by
  unfold State.linkUpPoll
  try dsimp -iota only
  repeat' with_reducible first
    | assumption
    | apply State.spend_kept | apply State.setLinkState_kept | apply KeptOP.some' | apply KeptOP.some | apply Kept.ite | apply KeptOP.ite | apply KeptP.ite | exact KeptOP.none
    | simp only [KeptP.mk_iff]

theorem execLinkUp_kept (s : State) : KeptOut s (execLinkUp s) := by
  have h := Kept.refl s
  unfold execLinkUp
  try dsimp -iota only
  repeat' with_reducible first
    | assumption
    | intro _
    | apply State.cmdLong_kept | apply State.linkUpBegin_kept | apply State.linkUpPoll_kept | apply KeptOut.next | apply KeptOP.some' | apply KeptOP.some | apply KeptOP.ite | exact KeptOP.none
    | simp only [KeptP.mk_iff]

theorem execLinkDown_kept (s : State) : KeptOut s (execLinkDown s) := by
  have h := Kept.refl s
  unfold execLinkDown
  try dsimp -iota only
  repeat' with_reducible first
    | assumption
    | intro _
    | apply State.cmd_kept | apply State.takeDown_kept | apply KeptOut.next
    | simp only [KeptP.mk_iff]

theorem State.linkStatus_kept (d : BitVec 512) (h : Kept r s) : KeptP r (State.linkStatus d s) := by
  unfold State.linkStatus
  try dsimp -iota only
  repeat' with_reducible first
    | assumption
    | apply State.put_kept | apply State.spend_kept | apply Kept.ite | apply KeptP.ite
    | simp only [KeptP.mk_iff]

theorem execLinkStatus_kept (s : State) : KeptOut s (execLinkStatus s) := by
  have h := Kept.refl s
  unfold execLinkStatus
  try dsimp -iota only
  repeat' with_reducible first
    | assumption
    | intro _
    | apply State.cmd_kept | apply State.linkStatus_kept | apply KeptOut.next
    | simp only [KeptP.mk_iff]

theorem State.elasticWidth_kept (d : BitVec 512) (h : Kept r s) : KeptP r (State.elasticWidth d s) := by
  unfold State.elasticWidth
  try dsimp -iota only
  repeat' with_reducible first
    | assumption
    | apply State.put_kept | apply State.wantWidth_kept | apply Kept.ite | apply KeptP.ite
    | simp only [KeptP.mk_iff]

theorem State.elasticPoll_kept (c : Taken) (h : Kept r s) : KeptOP r (State.elasticPoll c s) := by
  unfold State.elasticPoll
  try dsimp -iota only
  repeat' with_reducible first
    | assumption
    | apply KeptOP.some' | apply KeptOP.some | apply Kept.ite | apply KeptOP.ite | apply KeptP.ite | exact KeptOP.none
    | simp only [KeptP.mk_iff]

theorem execElasticWidth_kept (s : State) : KeptOut s (execElasticWidth s) := by
  have h := Kept.refl s
  unfold execElasticWidth
  try dsimp -iota only
  repeat' with_reducible first
    | assumption
    | intro _
    | apply State.cmdLong_kept | apply State.elasticWidth_kept | apply State.elasticPoll_kept | apply KeptOut.next | apply KeptOP.some' | apply KeptOP.some | apply KeptOP.ite | exact KeptOP.none
    | simp only [KeptP.mk_iff]

theorem State.laneTest_kept (d : BitVec 512) (h : Kept r s) : KeptP r (State.laneTest d s) := by
  unfold State.laneTest
  try dsimp -iota only
  repeat' with_reducible first
    | assumption
    | apply State.put_kept | apply State.set1_kept | apply State.laneEnable_kept | apply State.laneDisable_kept | apply Kept.ite | apply KeptP.ite
    | simp only [KeptP.mk_iff]

theorem execLaneTest_kept (s : State) : KeptOut s (execLaneTest s) := by
  have h := Kept.refl s
  unfold execLaneTest
  try dsimp -iota only
  repeat' with_reducible first
    | assumption
    | intro _
    | apply State.cmd_kept | apply State.laneTest_kept | apply KeptOut.next
    | simp only [KeptP.mk_iff]

theorem State.linkTimeBegin_kept (id : Byte) (d : BitVec 512) (h : Kept r s) : KeptP r (State.linkTimeBegin id d s) := by
  unfold State.linkTimeBegin
  try dsimp -iota only
  repeat' with_reducible first
    | assumption
    | apply State.say_kept | apply Kept.ite | apply KeptP.ite
    | simp only [KeptP.mk_iff]

theorem State.linkTimePoll_kept (far : Option (Nat × Nat)) (c : Taken) (h : Kept r s) : KeptOP r (State.linkTimePoll far c s) := by
  unfold State.linkTimePoll
  try dsimp -iota only
  repeat' with_reducible first
    | assumption
    | intro _
    | apply State.onLink_kept | apply State.say_kept | apply State.txqCount_kept | apply KeptOP.some' | apply KeptOP.some | apply Kept.ite | apply KeptOP.ite | apply KeptP.ite | exact KeptOP.none
    | simp only [Kept.record_iff, KeptP.mk_iff]
    | refine KeptP.of_eq (by assumption) ?_ | refine KeptO.of_eq (by assumption) ?_ | refine KeptOP.of_eq (by assumption) ?_ | refine KeptE.of_eq (by assumption) ?_
    | split

theorem execLinkTime_kept (id : Byte) (far : Option (Nat × Nat)) (s : State) : KeptOut s (execLinkTime id far s) := by
  have h := Kept.refl s
  unfold execLinkTime
  try dsimp -iota only
  repeat' with_reducible first
    | assumption
    | intro _
    | apply State.cmdLong_kept | apply State.linkTimeBegin_kept | apply State.linkTimePoll_kept | apply KeptOut.next | apply KeptOP.some' | apply KeptOP.some | apply KeptOP.ite | exact KeptOP.none
    | simp only [KeptP.mk_iff]

end Sys2Proof.Machine
end

