-- ==== Sys2Proof/Laws/KeptTrace.lean ====
section
/-! SUPPORT. What the operations of Machine/Trace.lean keep (`Kept`). -/
namespace Sys2Proof.Machine

variable {r s : State}

theorem State.setTracer_kept (g : Nat) (v : Tracer) (h : Kept r s) : Kept r (State.setTracer s g v) := by
  unfold State.setTracer
  try dsimp -iota only
  repeat' with_reducible first
    | assumption
    | intro _
    | simp only [Kept.record_iff]

theorem State.onTracer_kept (g : Nat) (f : Tracer → Tracer) (h : Kept r s) : Kept r (State.onTracer s g f) := by
  unfold State.onTracer
  try dsimp -iota only
  repeat' with_reducible first
    | assumption
    | apply State.setTracer_kept

theorem State.trcStat_kept (h : Kept r s) : Kept r (State.trcStat s) := by
  unfold State.trcStat
  try dsimp -iota only
  repeat' with_reducible first
    | assumption
    | apply State.put_kept

theorem State.sinkWrite_kept (o : Nat) (bs : List Byte) (h : Kept r s) : Kept r (State.sinkWrite s o bs) := by
  unfold State.sinkWrite
  try dsimp -iota only
  repeat' with_reducible first
    | assumption
    | intro _
    | apply State.gwAcceptBytes_kept | apply Kept.ite
    | simp only [Kept.record_iff]

theorem State.advance_kept (h : Kept r s) : Kept r (State.advance s) := by
  unfold State.advance
  try dsimp -iota only
  repeat' with_reducible first
    | assumption
    | apply State.put_kept | apply State.set1_kept | apply Kept.ite
    | simp only [Kept.record_iff]

theorem State.writeBlock_kept (g : Nat) (h : Kept r s) : Kept r (State.writeBlock s g) := by
  unfold State.writeBlock
  try dsimp -iota only
  repeat' with_reducible first
    | assumption
    | apply State.setTracer_kept | apply State.sinkWrite_kept | apply State.advance_kept | apply Kept.ite
    | simp only [Kept.record_iff]

theorem State.blockByte_kept (g : Nat) (b : Byte) (h : Kept r s) : Kept r (State.blockByte g s b) := by
  unfold State.blockByte
  try dsimp -iota only
  repeat' with_reducible first
    | assumption
    | intro _
    | apply State.onTracer_kept | apply State.writeBlock_kept | apply Kept.ite
    | simp only [Kept.record_iff]

theorem State.drainOne_kept (h : Kept r s) : Kept r (State.drainOne s) := by
  unfold State.drainOne
  try dsimp -iota only
  repeat' with_reducible first
    | assumption
    | intro _
    | apply State.onTracer_kept | apply State.writeBlock_kept | apply State.blockByte_kept | apply Kept.ite | apply Kept.foldl | apply Kept.foldlP
    | simp only [Kept.record_iff]
    | refine KeptP.of_eq (by assumption) ?_ | refine KeptO.of_eq (by assumption) ?_ | refine KeptOP.of_eq (by assumption) ?_ | refine KeptE.of_eq (by assumption) ?_
    | split

theorem State.drain_kept (n : Nat) (h : Kept r s) : Kept r (s.drain n) := by
  induction n generalizing s with
  | zero => exact h
  | succ n ih => exact Kept.ite h (ih (State.drainOne_kept h))

theorem State.drainBlock_kept (o : Nat) (wraps : Bool) (n : Nat) (h : Kept r s) : Kept r (s.drainBlock o wraps n) := by
  induction n generalizing s with
  | zero => exact h
  | succ n ih => exact Kept.ite h (ih (State.drainOne_kept h))

theorem State.emit_kept (g : Nat) (bs : List Byte) (h : Kept r s) : Kept r (State.emit s g bs) := by
  unfold State.emit
  try dsimp -iota only
  repeat' with_reducible first
    | assumption
    | apply State.setTracer_kept | apply State.trcStat_kept | apply State.drain_kept | apply Kept.ite
    | simp only [Kept.record_iff]

theorem State.count_kept (g n : Nat) (at_ : Stamp) (h : Kept r s) : Kept r (State.count s g n at_) := by
  unfold State.count
  try dsimp -iota only
  repeat' with_reducible first
    | assumption
    | intro _
    | apply State.onTracer_kept | apply State.emit_kept | apply Kept.ite
    | simp only [Kept.record_iff]

theorem State.flushAtoms_kept (g : Nat) (h : Kept r s) : Kept r (State.flushAtoms s g) := by
  unfold State.flushAtoms
  try dsimp -iota only
  repeat' with_reducible first
    | assumption
    | intro _
    | apply State.onTracer_kept | apply State.emit_kept | apply State.count_kept | apply Kept.ite
    | simp only [Kept.record_iff]

theorem State.fullSync_kept (g reason : Nat) (a : Word) (h : Kept r s) : Kept r (State.fullSync s g reason a) := by
  unfold State.fullSync
  try dsimp -iota only
  repeat' with_reducible first
    | assumption
    | intro _
    | apply State.onTracer_kept | apply State.emit_kept | apply State.flushAtoms_kept
    | simp only [Kept.record_iff]

theorem State.periodic_kept (g : Nat) (next : Word) (h : Kept r s) : Kept r (State.periodic s g next) := by
  unfold State.periodic
  try dsimp -iota only
  repeat' with_reducible first
    | assumption
    | apply State.fullSync_kept | apply Kept.ite

theorem State.groomEvent_kept {f : State → State} (g cycles : Nat) (hf : ∀ s, Kept r s → Kept r (f s)) (h : Kept r s) :
    Kept r (s.groomEvent g cycles f) := by
  unfold State.groomEvent
  exact Kept.ite (hf _ (State.onTracer_kept _ _ h)) h

theorem State.condBranch_kept (g : Nat) (taken : Bool) (cycles : Nat) (next : Word) (h : Kept r s) : Kept r (State.condBranch g taken cycles next s) := by
  unfold State.condBranch
  try dsimp -iota only
  repeat' with_reducible first
    | assumption
    | intro _
    | apply State.onTracer_kept | apply State.flushAtoms_kept | apply State.periodic_kept | apply State.groomEvent_kept | apply Kept.ite
    | simp only [Kept.record_iff]

theorem execConditionalBranch_kept (g : Fin 4) (taken : Bool) (cycles : Nat) (next : Word) (s : State) : KeptOut s (execConditionalBranch g taken cycles next s) := by
  have h := Kept.refl s
  unfold execConditionalBranch
  try dsimp -iota only
  repeat' with_reducible first
    | assumption
    | apply State.condBranch_kept | apply KeptOut.next

theorem State.counted_kept (g : Nat) (bs : List Byte) (h : Kept r s) : Kept r (State.counted s g bs) := by
  unfold State.counted
  try dsimp -iota only
  repeat' with_reducible first
    | assumption
    | apply State.emit_kept | apply State.count_kept | apply State.flushAtoms_kept

theorem State.indirect_kept (g cycles : Nat) (target : Word) (h : Kept r s) : Kept r (State.indirect g cycles target s) := by
  unfold State.indirect
  try dsimp -iota only
  repeat' with_reducible first
    | assumption
    | intro _
    | apply State.periodic_kept | apply State.groomEvent_kept | apply State.counted_kept

theorem execIndirectBranch_kept (g : Fin 4) (cycles : Nat) (target : Word) (s : State) : KeptOut s (execIndirectBranch g cycles target s) := by
  have h := Kept.refl s
  unfold execIndirectBranch
  try dsimp -iota only
  repeat' with_reducible first
    | assumption
    | apply State.indirect_kept | apply KeptOut.next

theorem State.excTaken_kept (g cycles : Nat) (addr handler : Word) (cause : Byte) (h : Kept r s) : Kept r (State.excTaken g cycles addr handler cause s) := by
  unfold State.excTaken
  try dsimp -iota only
  repeat' with_reducible first
    | assumption
    | intro _
    | apply State.periodic_kept | apply State.groomEvent_kept | apply State.counted_kept

theorem execExceptionTaken_kept (g : Fin 4) (cycles : Nat) (addr handler : Word) (cause : Byte) (s : State) : KeptOut s (execExceptionTaken g cycles addr handler cause s) := by
  have h := Kept.refl s
  unfold execExceptionTaken
  try dsimp -iota only
  repeat' with_reducible first
    | assumption
    | apply State.excTaken_kept | apply KeptOut.next

theorem State.sleep_kept (g cycles : Nat) (h : Kept r s) : Kept r (State.sleep g cycles s) := by
  unfold State.sleep
  try dsimp -iota only
  repeat' with_reducible first
    | assumption
    | intro _
    | apply State.onTracer_kept | apply State.groomEvent_kept | apply State.counted_kept
    | simp only [Kept.record_iff]

theorem execWaitForInterrupt_kept (g : Fin 4) (cycles : Nat) (s : State) : KeptOut s (execWaitForInterrupt g cycles s) := by
  have h := Kept.refl s
  unfold execWaitForInterrupt
  try dsimp -iota only
  repeat' with_reducible first
    | assumption
    | apply State.sleep_kept | apply KeptOut.next

theorem State.wakeUp_kept (g : Nat) (a : Word) (h : Kept r s) : Kept r (State.wakeUp g a s) := by
  unfold State.wakeUp
  try dsimp -iota only
  repeat' with_reducible first
    | assumption
    | intro _
    | apply State.onTracer_kept | apply State.fullSync_kept | apply Kept.ite
    | simp only [Kept.record_iff]

theorem execWake_kept (g : Fin 4) (addr : Word) (s : State) : KeptOut s (execWake g addr s) := by
  have h := Kept.refl s
  unfold execWake
  try dsimp -iota only
  repeat' with_reducible first
    | assumption
    | apply State.wakeUp_kept | apply KeptOut.next

theorem State.dropSync_kept (g n reason : Nat) (next : Word) (h : Kept r s) : Kept r (State.dropSync s g n reason next) := by
  unfold State.dropSync
  try dsimp -iota only
  repeat' with_reducible first
    | assumption
    | intro _
    | apply State.sat_kept | apply State.onTracer_kept | apply State.emit_kept | apply State.fullSync_kept
    | simp only [Kept.record_iff]

theorem State.trcResume_kept (g : Nat) (next : Word) (h : Kept r s) : Kept r (State.trcResume g next s) := by
  unfold State.trcResume
  try dsimp -iota only
  repeat' with_reducible first
    | assumption
    | apply State.set1_kept | apply State.setTracer_kept | apply State.dropSync_kept | apply Kept.ite
    | simp only [Kept.record_iff]

theorem execTraceDrop_kept (g : Fin 4) (next : Word) (s : State) : KeptOut s (execTraceDrop g next s) := by
  have h := Kept.refl s
  unfold execTraceDrop
  try dsimp -iota only
  repeat' with_reducible first
    | assumption
    | apply State.trcResume_kept | apply KeptOut.next

theorem State.trcRestart_kept (g : Nat) (at_ : Word) (h : Kept r s) : Kept r (State.trcRestart s g at_) := by
  unfold State.trcRestart
  try dsimp -iota only
  repeat' with_reducible first
    | assumption
    | intro _
    | apply State.onTracer_kept | apply State.dropSync_kept | apply Kept.ite
    | simp only [Kept.record_iff]

theorem State.blockFlush_kept (g : Nat) (aged : Bool) (h : Kept r s) : Kept r (State.blockFlush g aged s) := by
  unfold State.blockFlush
  try dsimp -iota only
  repeat' with_reducible first
    | assumption
    | apply State.trcStat_kept | apply State.writeBlock_kept | apply State.drainBlock_kept | apply Kept.ite

theorem execTraceBlockFlush_kept (g : Fin 4) (aged : Bool) (s : State) : KeptOut s (execTraceBlockFlush g aged s) := by
  have h := Kept.refl s
  unfold execTraceBlockFlush
  try dsimp -iota only
  repeat' with_reducible first
    | assumption
    | apply State.blockFlush_kept | apply KeptOut.next

theorem State.genOn_kept (next : List Word) (g : Nat) (h : Kept r s) : Kept r (State.genOn s next g) := by
  unfold State.genOn
  try dsimp -iota only
  repeat' with_reducible first
    | assumption
    | intro _
    | apply State.put_kept | apply State.onTracer_kept | apply State.fullSync_kept | apply Kept.ite | apply Kept.getD
    | simp only [Kept.record_iff]

theorem State.genOff_kept (g : Nat) (h : Kept r s) : Kept r (State.genOff s g) := by
  unfold State.genOff
  try dsimp -iota only
  repeat' with_reducible first
    | assumption
    | apply State.put_kept | apply State.flushAtoms_kept | apply Kept.ite

theorem State.genWrite_kept (v : Nat) (next : List Word) (h : Kept r s) : Kept r (State.genWrite s v next) := by
  unfold State.genWrite
  try dsimp -iota only
  repeat' with_reducible first
    | assumption
    | intro _
    | apply State.each_kept | apply State.genOn_kept | apply State.genOff_kept | apply Kept.ite

theorem State.sinkNew_kept (sink wrap cyc : Nat) (h : Kept r s) : Kept r (State.sinkNew s sink wrap cyc) := by
  unfold State.sinkNew
  try dsimp -iota only
  repeat' with_reducible first
    | assumption
    | apply State.put_kept | apply State.clr_kept
    | simp only [Kept.record_iff]

theorem State.trcCtl_kept (v : Word) (next : List Word) (h : Kept r s) : Kept r (State.trcCtl v next s) := by
  unfold State.trcCtl
  try dsimp -iota only
  repeat' with_reducible first
    | assumption
    | apply State.put_kept | apply State.set1If_kept | apply State.genWrite_kept | apply State.sinkNew_kept | apply Kept.ite

theorem execTraceCtlWrite_kept (v : Word) (next : List Word) (s : State) : KeptOut s (execTraceCtlWrite v next s) := by
  have h := Kept.refl s
  unfold execTraceCtlWrite
  try dsimp -iota only
  repeat' with_reducible first
    | assumption
    | apply State.trcCtl_kept | apply KeptOut.next

theorem State.trcRegion_kept (a1 : Region) (h : Kept r s) : Kept r (State.trcRegion s a1) := by
  unfold State.trcRegion
  try dsimp -iota only
  repeat' with_reducible first
    | assumption
    | apply State.put_kept
    | simp only [Kept.record_iff]

theorem State.traceCfg_kept (next : List Word) (d : BitVec 512) (h : Kept r s) : KeptP r (State.traceCfg next d s) := by
  unfold State.traceCfg
  try dsimp -iota only
  repeat' with_reducible first
    | assumption
    | apply State.put_kept | apply State.genWrite_kept | apply State.sinkNew_kept | apply State.trcRegion_kept | apply Kept.ite | apply KeptP.ite
    | simp only [Kept.record_iff, KeptP.mk_iff]
    | refine KeptP.of_eq (by assumption) ?_ | refine KeptO.of_eq (by assumption) ?_ | refine KeptOP.of_eq (by assumption) ?_ | refine KeptE.of_eq (by assumption) ?_
    | split

theorem execTraceCfg_kept (next : List Word) (s : State) : KeptOut s (execTraceCfg next s) := by
  have h := Kept.refl s
  unfold execTraceCfg
  try dsimp -iota only
  repeat' with_reducible first
    | assumption
    | intro _
    | apply State.cmd_kept | apply State.traceCfg_kept | apply KeptOut.next
    | simp only [KeptP.mk_iff]

end Sys2Proof.Machine
end

