-- ==== Sys2Proof/Laws/KeptSaddlebag.lean ====
section
/-! SUPPORT. What the operations of Machine/Saddlebag.lean keep (`Kept`). -/
namespace Sys2Proof.Machine

variable {r s : State}

theorem State.writeRecord_kept (cycles : BitVec 48) (a1 : SbReq) (h : Kept r s) : Kept r (State.writeRecord s cycles a1) := by
  unfold State.writeRecord
  try dsimp -iota only
  repeat' with_reducible first
    | assumption
    | intro _
    | apply State.put_kept | apply State.clr_kept | apply State.set1If_kept | apply State.alert_kept | apply Kept.ite
    | simp only [Kept.record_iff]

theorem State.freeze_kept (h : Kept r s) : Kept r (State.freeze s) := by
  unfold State.freeze
  try dsimp -iota only
  repeat' with_reducible first
    | assumption
    | apply State.put_kept | apply State.set1_kept | apply State.alert_kept

theorem State.sbRecord_kept (cycles : BitVec 48) (h : Kept r s) : Kept r (State.sbRecord cycles s) := by
  unfold State.sbRecord
  try dsimp -iota only
  repeat' with_reducible first
    | assumption
    | apply State.writeRecord_kept | apply State.freeze_kept | apply Kept.ite
    | simp only [Kept.record_iff]
    | refine KeptP.of_eq (by assumption) ?_ | refine KeptO.of_eq (by assumption) ?_ | refine KeptOP.of_eq (by assumption) ?_ | refine KeptE.of_eq (by assumption) ?_
    | split

theorem execSaddlebagRecord_kept (cycles : BitVec 48) (s : State) : KeptOut s (execSaddlebagRecord cycles s) := by
  have h := Kept.refl s
  unfold execSaddlebagRecord
  try dsimp -iota only
  repeat' with_reducible first
    | assumption
    | apply State.sbRecord_kept | apply KeptOut.next

theorem State.sbWr_kept (g : Nat) (v : Word) (h : Kept r s) : Kept r (State.sbWr g v s) := by
  unfold State.sbWr
  try dsimp -iota only
  repeat' with_reducible first
    | assumption
    | apply State.wr_kept | apply State.groomRec_kept

theorem execSbWrW3Write_kept (g : Fin 4) (v : Word) (s : State) : KeptOut s (execSbWrW3Write g v s) := by
  have h := Kept.refl s
  unfold execSbWrW3Write
  try dsimp -iota only
  repeat' with_reducible first
    | assumption
    | apply State.sbWr_kept | apply KeptOut.next

theorem State.secondEnd_kept (g : Nat) (h : Kept r s) : Kept r (State.secondEnd g s) := by
  unfold State.secondEnd
  try dsimp -iota only
  repeat' with_reducible first
    | assumption
    | apply State.request_kept | apply Kept.ite
    | simp only [Kept.record_iff]

theorem execSuppressionSecondEnd_kept (g : Fin 4) (s : State) : KeptOut s (execSuppressionSecondEnd g s) := by
  have h := Kept.refl s
  unfold execSuppressionSecondEnd
  try dsimp -iota only
  repeat' with_reducible first
    | assumption
    | apply State.secondEnd_kept | apply KeptOut.next

theorem State.ceSummary_kept (h : Kept r s) : Kept r (State.ceSummary s) := by
  unfold State.ceSummary
  try dsimp -iota only
  repeat' with_reducible first
    | assumption
    | intro _
    | apply State.groomRec_kept | apply Kept.ite | apply Kept.foldl | apply Kept.foldlP
    | simp only [Kept.record_iff]

theorem execCeSummary_kept (s : State) : KeptOut s (execCeSummary s) := by
  have h := Kept.refl s
  unfold execCeSummary
  try dsimp -iota only
  repeat' with_reducible first
    | assumption
    | apply State.ceSummary_kept | apply KeptOut.next

theorem State.sbRead_kept (who : Agent) (i : Nat) (h : Kept r s) : Kept r (State.sbRead who i s) := by
  unfold State.sbRead
  try dsimp -iota only
  repeat' with_reducible first
    | assumption
    | apply State.setLatch_kept
    | simp only [Kept.record_iff]

theorem execSbRecordRead_kept (who : Agent) (i : Fin 8192) (s : State) : KeptOut s (execSbRecordRead who i s) := by
  have h := Kept.refl s
  unfold execSbRecordRead
  try dsimp -iota only
  repeat' with_reducible first
    | assumption
    | apply State.sbRead_kept | apply KeptOut.next

theorem State.answer_kept (bs : List Byte) (h : Kept r s) : Kept r (State.answer s bs) := by
  unfold State.answer
  try dsimp -iota only
  repeat' with_reducible first
    | assumption
    | intro _
    | simp only [Kept.record_iff]

theorem State.smbusStatus_kept (h : Kept r s) : Kept r (State.smbusStatus s) := by
  unfold State.smbusStatus
  try dsimp -iota only
  repeat' with_reducible first
    | assumption
    | apply State.answer_kept | apply Kept.ite

theorem execSmbusStatus_kept (s : State) : KeptOut s (execSmbusStatus s) := by
  have h := Kept.refl s
  unfold execSmbusStatus
  try dsimp -iota only
  repeat' with_reducible first
    | assumption
    | apply State.smbusStatus_kept | apply KeptOut.next | apply Kept.ite

theorem State.smbusIndex_kept (v : Nat) (h : Kept r s) : Kept r (State.smbusIndex v s) := by
  unfold State.smbusIndex
  try dsimp -iota only
  repeat' with_reducible first
    | assumption
    | apply Kept.ite
    | simp only [Kept.record_iff]

theorem execSmbusSetIndex_kept (v : BitVec 16) (pecOk : Bool) (s : State) : KeptOut s (execSmbusSetIndex v pecOk s) := by
  have h := Kept.refl s
  unfold execSmbusSetIndex
  try dsimp -iota only
  repeat' with_reducible first
    | assumption
    | apply State.smbusIndex_kept | apply KeptOut.next | apply Kept.ite

theorem State.smbusRecord_kept (h : Kept r s) : Kept r (State.smbusRecord s) := by
  unfold State.smbusRecord
  try dsimp -iota only
  repeat' with_reducible first
    | assumption
    | apply State.answer_kept
    | simp only [Kept.record_iff]

theorem execSmbusReadRecord_kept (s : State) : KeptOut s (execSmbusReadRecord s) := by
  have h := Kept.refl s
  unfold execSmbusReadRecord
  try dsimp -iota only
  repeat' with_reducible first
    | assumption
    | apply State.smbusRecord_kept | apply KeptOut.next | apply Kept.ite

theorem execSmbusAlertStat_kept (s : State) : KeptOut s (execSmbusAlertStat s) := by
  have h := Kept.refl s
  unfold execSmbusAlertStat
  try dsimp -iota only
  repeat' with_reducible first
    | assumption
    | apply State.answer_kept | apply KeptOut.next | apply Kept.ite

theorem State.alertClr_kept (v : Nat) (h : Kept r s) : Kept r (State.alertClr v s) := by
  unfold State.alertClr
  try dsimp -iota only
  repeat' with_reducible first
    | assumption
    | apply State.put_kept

theorem execSmbusAlertClr_kept (v : Byte) (pecOk : Bool) (s : State) : KeptOut s (execSmbusAlertClr v pecOk s) := by
  have h := Kept.refl s
  unfold execSmbusAlertClr
  try dsimp -iota only
  repeat' with_reducible first
    | assumption
    | apply State.alertClr_kept | apply KeptOut.next | apply Kept.ite

theorem State.release479_kept (h : Kept r s) : Kept r (State.release479 s) := by
  unfold State.release479
  try dsimp -iota only
  repeat' with_reducible first
    | assumption
    | apply State.clr_kept | apply Kept.ite
    | simp only [Kept.record_iff]

theorem execUnfreeze_kept (v : Byte) (pecOk : Bool) (s : State) : KeptOut s (execUnfreeze v pecOk s) := by
  have h := Kept.refl s
  unfold execUnfreeze
  try dsimp -iota only
  repeat' with_reducible first
    | assumption
    | apply State.release479_kept | apply KeptOut.next | apply Kept.ite

theorem State.askWarm_kept (h : Kept r s) : Kept r (State.askWarm s) := by
  unfold State.askWarm
  try dsimp -iota only
  repeat' with_reducible first
    | assumption
    | apply Kept.ite
    | simp only [Kept.record_iff]

theorem execSmbusWarmReset_kept (v : Byte) (pecOk : Bool) (s : State) : KeptOut s (execSmbusWarmReset v pecOk s) := by
  have h := Kept.refl s
  unfold execSmbusWarmReset
  try dsimp -iota only
  repeat' with_reducible first
    | assumption
    | apply State.askWarm_kept | apply KeptOut.next | apply Kept.ite

theorem execSmbusChipId_kept (s : State) : KeptOut s (execSmbusChipId s) := by
  have h := Kept.refl s
  unfold execSmbusChipId
  try dsimp -iota only
  repeat' with_reducible first
    | assumption
    | apply State.answer_kept | apply KeptOut.next | apply Kept.ite

theorem execSmbusArpAssign_kept (addr : BitVec 7) (s : State) : KeptOut s (execSmbusArpAssign addr s) := by
  have h := Kept.refl s
  unfold execSmbusArpAssign
  try dsimp -iota only
  repeat' with_reducible first
    | assumption
    | apply KeptOut.next | apply Kept.ite
    | simp only [Kept.record_iff]

theorem State.alertResponse_kept (h : Kept r s) : Kept r (State.alertResponse s) := by
  unfold State.alertResponse
  try dsimp -iota only
  repeat' with_reducible first
    | assumption
    | apply State.answer_kept | apply Kept.ite | apply Kept.getD
    | simp only [Kept.record_iff]

theorem execAlertResponseRead_kept (s : State) : KeptOut s (execAlertResponseRead s) := by
  have h := Kept.refl s
  unfold execAlertResponseRead
  try dsimp -iota only
  repeat' with_reducible first
    | assumption
    | apply State.alertResponse_kept | apply KeptOut.next

theorem State.dropPins_kept (h : Kept r s) : Kept r (State.dropPins s) := by
  unfold State.dropPins
  try dsimp -iota only
  repeat' with_reducible first
    | assumption
    | apply State.extest_kept
    | simp only [Kept.record_iff]

theorem State.sbaccCapture_kept (h : Kept r s) : Kept r (State.sbaccCapture s) := by
  unfold State.sbaccCapture
  try dsimp -iota only
  repeat' with_reducible first
    | assumption
    | apply State.dropPins_kept
    | simp only [Kept.record_iff]

theorem execSbaccCapture_kept (s : State) : KeptOut s (execSbaccCapture s) := by
  have h := Kept.refl s
  unfold execSbaccCapture
  try dsimp -iota only
  repeat' with_reducible first
    | assumption
    | apply State.sbaccCapture_kept | apply KeptOut.next | apply Kept.ite

theorem execSbaccUpdate_kept (v : BitVec 144) (s : State) : KeptOut s (execSbaccUpdate v s) := by
  have h := Kept.refl s
  unfold execSbaccUpdate
  try dsimp -iota only
  repeat' with_reducible first
    | assumption
    | apply State.dropPins_kept | apply KeptOut.next | apply Kept.ite
    | simp only [Kept.record_iff]

theorem State.jtagLoad_kept (code : Option Byte) (h : Kept r s) : Kept r (State.jtagLoad code s) := by
  unfold State.jtagLoad
  try dsimp -iota only
  repeat' with_reducible first
    | assumption
    | apply State.set1_kept | apply State.extest_kept | apply State.dropPins_kept | apply Kept.ite
    | simp only [Kept.record_iff]
    | refine KeptP.of_eq (by assumption) ?_ | refine KeptO.of_eq (by assumption) ?_ | refine KeptOP.of_eq (by assumption) ?_ | refine KeptE.of_eq (by assumption) ?_
    | split

theorem execJtagInstructionLoad_kept (code : Option Byte) (s : State) : KeptOut s (execJtagInstructionLoad code s) := by
  have h := Kept.refl s
  unfold execJtagInstructionLoad
  try dsimp -iota only
  repeat' with_reducible first
    | assumption
    | apply State.jtagLoad_kept | apply KeptOut.next | apply Kept.ite

theorem State.setWdt_kept (g us : Nat) (h : Kept r s) : Kept r (State.setWdt s g us) := by
  unfold State.setWdt
  try dsimp -iota only
  repeat' with_reducible first
    | assumption
    | simp only [Kept.record_iff]

theorem execWatchdogKick_kept (g : Fin 4) (v : Word) (s : State) : KeptOut s (execWatchdogKick g v s) := by
  have h := Kept.refl s
  unfold execWatchdogKick
  try dsimp -iota only
  repeat' with_reducible first
    | assumption
    | apply State.setWdt_kept | apply KeptOut.next | apply Kept.ite

theorem State.restartFailed_kept (g : Nat) (h : Kept r s) : Kept r (State.restartFailed s g) := by
  unfold State.restartFailed
  try dsimp -iota only
  repeat' with_reducible first
    | assumption
    | apply State.alert_kept | apply State.halt_kept

theorem State.groomDown_kept (g : Nat) (h : Kept r s) : Kept r (State.groomDown s g) := by
  unfold State.groomDown
  try dsimp -iota only
  repeat' with_reducible first
    | assumption
    | intro _
    | apply State.sat_kept | apply State.onBox_kept
    | simp only [Kept.record_iff]

theorem State.wdtExpire_kept (g pc recent : Nat) (digestOk : Bool) (at_ : Word) (h : Kept r s) : Kept r (State.wdtExpire s g pc recent digestOk at_) := by
  unfold State.wdtExpire
  try dsimp -iota only
  repeat' with_reducible first
    | assumption
    | apply State.wr_kept | apply State.put_kept | apply State.sat_kept | apply State.hwRec_kept | apply State.trcRestart_kept | apply State.setWdt_kept | apply State.restartFailed_kept | apply State.groomDown_kept | apply Kept.ite

theorem State.wdtCount_kept (g us pc recent : Nat) (digestOk kick : Bool) (at_ : Word) (h : Kept r s) : Kept r (State.wdtCount g us pc recent digestOk kick at_ s) := by
  unfold State.wdtCount
  try dsimp -iota only
  repeat' with_reducible first
    | assumption
    | apply State.set1_kept | apply State.setWdt_kept | apply State.wdtExpire_kept | apply Kept.ite

theorem execWatchdogExpiry_kept (g : Fin 4) (us pc recent : Nat) (digestOk kick : Bool) (at_ : Word) (s : State) : KeptOut s (execWatchdogExpiry g us pc recent digestOk kick at_ s) := by
  have h := Kept.refl s
  unfold execWatchdogExpiry
  try dsimp -iota only
  repeat' with_reducible first
    | assumption
    | apply State.wdtCount_kept | apply KeptOut.next

theorem State.answerRestart_kept (g : Nat) (h : Kept r s) : Kept r (State.answerRestart s g) := by
  unfold State.answerRestart
  try dsimp -iota only
  repeat' with_reducible first
    | assumption
    | intro _
    | apply State.onBox_kept | apply State.respond_kept | apply Kept.foldl | apply Kept.foldlP
    | simp only [Kept.record_iff]

theorem State.groomUp_kept (g : Nat) (h : Kept r s) : Kept r (State.groomUp g s) := by
  unfold State.groomUp
  try dsimp -iota only
  repeat' with_reducible first
    | assumption
    | apply State.set1_kept | apply State.clr_kept | apply State.postEvent_kept | apply State.alert_kept | apply State.stopAlign_kept | apply State.answerRestart_kept | apply Kept.ite
    | simp only [Kept.record_iff]

theorem execGroomRestart_kept (g : Fin 4) (s : State) : KeptOut s (execGroomRestart g s) := by
  have h := Kept.refl s
  unfold execGroomRestart
  try dsimp -iota only
  repeat' with_reducible first
    | assumption
    | apply State.groomUp_kept | apply KeptOut.next

theorem execGroomRestartTimeout_kept (g : Fin 4) (s : State) : KeptOut s (execGroomRestartTimeout g s) := by
  have h := Kept.refl s
  unfold execGroomRestartTimeout
  try dsimp -iota only
  repeat' with_reducible first
    | assumption
    | apply State.restartFailed_kept | apply KeptOut.next | apply Kept.ite

end Sys2Proof.Machine
end

