-- ==== Sys2Proof/Laws/KeptRegAccess.lean ====
section
/-! SUPPORT. What the operations of Machine/RegAccess.lean keep (`Kept`). -/
namespace Sys2Proof.Machine

variable {r s : State}

theorem State.txqPop_kept (h : Kept r s) : Kept r (State.txqPop s) := by
  unfold State.txqPop
  try dsimp -iota only
  repeat' with_reducible first
    | assumption
    | apply State.txqCount_kept
    | simp only [Kept.record_iff]

theorem State.readReg_kept (who : Agent) (a : Nat) (h : Kept r s) : Kept r (State.readReg s who a) := by
  unfold State.readReg
  try dsimp -iota only
  repeat' with_reducible first
    | assumption
    | intro _
    | apply State.readClear_kept | apply State.setLatch_kept | apply State.txqPop_kept | apply Kept.ite | apply Kept.foldl | apply Kept.foldlP
    | simp only [Kept.record_iff]
    | refine KeptP.of_eq (by assumption) ?_ | refine KeptO.of_eq (by assumption) ?_ | refine KeptOP.of_eq (by assumption) ?_ | refine KeptE.of_eq (by assumption) ?_
    | split

theorem State.busTimeout_kept (a : Nat) (h : Kept r s) : Kept r (State.busTimeout s a) := by
  unfold State.busTimeout
  try dsimp -iota only
  repeat' with_reducible first
    | assumption
    | apply State.set1_kept | apply State.cdcLoc_kept

theorem State.busRead_kept (who : Agent) (a : Nat) (h : Kept r s) : Kept r (State.busRead s who a) := by
  unfold State.busRead
  try dsimp -iota only
  repeat' with_reducible first
    | assumption
    | apply State.readReg_kept | apply State.busTimeout_kept | apply Kept.ite
    | simp only [Kept.record_iff]

theorem State.hostFirst_kept (who : Agent) (a : Nat) (h : Kept r s) : Kept r (State.hostFirst s who a) := by
  unfold State.hostFirst
  try dsimp -iota only
  repeat' with_reducible first
    | assumption
    | apply State.hostCatchUp_kept | apply Kept.ite
    | simp only [Kept.record_iff]
    | refine KeptP.of_eq (by assumption) ?_ | refine KeptO.of_eq (by assumption) ?_ | refine KeptOP.of_eq (by assumption) ?_ | refine KeptE.of_eq (by assumption) ?_
    | split

theorem State.agentRead_kept (who : Agent) (a : Nat) (h : Kept r s) : Kept r (State.agentRead s who a) := by
  unfold State.agentRead
  try dsimp -iota only
  repeat' with_reducible first
    | assumption
    | apply State.peErr_kept | apply State.busRead_kept | apply State.hostFirst_kept | apply Kept.ite
    | simp only [Kept.record_iff]

theorem State.dmCtlWrite_kept (t : Nat) (v : Word) (h : Kept r s) : Kept r (State.dmCtlWrite s t v) := by
  unfold State.dmCtlWrite
  try dsimp -iota only
  repeat' with_reducible first
    | assumption
    | apply State.put_kept | apply State.bankWrite_kept
    | simp only [Kept.record_iff]

theorem State.storeTeam_kept (t a : Nat) (v : Word) (h : Kept r s) : Kept r (State.storeTeam s t a v) := by
  unfold State.storeTeam
  try dsimp -iota only
  repeat' with_reducible first
    | assumption
    | apply State.ssW0_kept | apply State.ssW1_kept | apply State.rtrCtl_kept | apply State.writeFields_kept | apply State.teamPwr_kept | apply State.dmCtlWrite_kept | apply Kept.ite

theorem State.storeLane_kept (l o a : Nat) (v : Word) (h : Kept r s) : Kept r (State.storeLane s l o a v) := by
  unfold State.storeLane
  try dsimp -iota only
  repeat' with_reducible first
    | assumption
    | apply State.writeFields_kept | apply State.laneEnable_kept | apply State.laneDisable_kept | apply State.injOne_kept | apply Kept.ite

theorem State.storeLink_kept (n a : Nat) (v : Word) (h : Kept r s) : Kept r (State.storeLink s n a v) := by
  unfold State.storeLink
  try dsimp -iota only
  repeat' with_reducible first
    | assumption
    | apply State.set1If_kept | apply State.writeFields_kept | apply State.wantWidth_kept | apply State.linkRise_kept | apply State.takeDown_kept | apply Kept.ite

theorem State.storeLinks_kept (lead : Bool) (p o a : Nat) (v : Word) (h : Kept r s) : Kept r (State.storeLinks s lead p o a v) := by
  unfold State.storeLinks
  try dsimp -iota only
  repeat' with_reducible first
    | assumption
    | apply State.storeLane_kept | apply State.storeLink_kept | apply Kept.ite

theorem State.storeHold_kept (v : Word) (h : Kept r s) : Kept r (State.storeHold s v) := by
  unfold State.storeHold
  try dsimp -iota only
  repeat' with_reducible first
    | assumption
    | apply State.release_kept | apply State.holdRequest_kept | apply State.writeFields_kept | apply Kept.ite

theorem State.storeGddr_kept (c o a : Nat) (v : Word) (h : Kept r s) : Kept r (State.storeGddr s c o a v) := by
  unfold State.storeGddr
  try dsimp -iota only
  repeat' with_reducible first
    | assumption
    | apply State.put_kept | apply State.set1If_kept | apply State.trainOp_kept | apply State.dlyWrite_kept | apply State.pauseWrite_kept | apply State.pauseClear_kept | apply State.srefWrite_kept | apply State.writeFields_kept | apply Kept.ite

theorem State.storeCap_kept (a : Nat) (v : Word) (h : Kept r s) : Kept r (State.storeCap s a v) := by
  unfold State.storeCap
  try dsimp -iota only
  repeat' with_reducible first
    | assumption
    | apply State.set1_kept | apply State.capArm_kept | apply State.capStopReq_kept | apply State.capForce_kept | apply State.capDisarm_kept | apply State.writeFields_kept | apply Kept.ite

theorem State.storeHitch_kept (a : Nat) (v : Word) (h : Kept r s) : Kept r (State.storeHitch s a v) := by
  unfold State.storeHitch
  try dsimp -iota only
  repeat' with_reducible first
    | assumption
    | apply State.wr_kept | apply State.put_kept | apply State.set1If_kept | apply State.hitchBanks_kept | apply State.writeFields_kept | apply State.hitchGoWrite_kept | apply State.qstop_kept | apply State.prHold_kept | apply State.prRelease_kept | apply State.rearm_kept | apply State.treeWrite_kept | apply State.fclkErr_kept | apply Kept.ite

theorem State.storeTime_kept (a : Nat) (v : Word) (h : Kept r s) : Kept r (State.storeTime s a v) := by
  unfold State.storeTime
  try dsimp -iota only
  repeat' with_reducible first
    | assumption
    | apply State.clr_kept | apply State.writeFields_kept | apply State.tbInc_kept | apply State.tbAdj_kept | apply State.tbSet_kept | apply State.tpGo_kept | apply State.setTpBytes_kept | apply Kept.ite

theorem State.storeBox_kept (a : Nat) (v : Word) (h : Kept r s) : Kept r (State.storeBox s a v) := by
  unfold State.storeBox
  try dsimp -iota only
  repeat' with_reducible first
    | assumption
    | apply State.doorbell_kept | apply State.slotWrite_kept | apply State.rspCiWrite_kept | apply State.boxReset_kept | apply State.writeFields_kept | apply Kept.ite

theorem State.storeMsix_kept (o : Nat) (v : Word) (h : Kept r s) : Kept r (State.storeMsix s o v) := by
  unfold State.storeMsix
  try dsimp -iota only
  repeat' with_reducible first
    | assumption
    | apply State.sendPending_kept | apply Kept.ite
    | simp only [Kept.record_iff]

theorem State.storeTherm_kept (v : Word) (h : Kept r s) : Kept r (State.storeTherm s v) := by
  unfold State.storeTherm
  try dsimp -iota only
  repeat' with_reducible first
    | assumption
    | apply State.writeFields_kept | apply Kept.ite

theorem State.storeChip_kept (a : Nat) (v : Word) (h : Kept r s) : Kept r (State.storeChip s a v) := by
  unfold State.storeChip
  try dsimp -iota only
  repeat' with_reducible first
    | assumption
    | apply State.wr_kept | apply State.writeFields_kept | apply State.strideLoWrite_kept | apply State.strideHiWrite_kept | apply State.sbWr_kept | apply State.storeTherm_kept | apply Kept.ite

theorem State.storeGroom_kept (a : Nat) (v : Word) (h : Kept r s) : Kept r (State.storeGroom s a v) := by
  unfold State.storeGroom
  try dsimp -iota only
  repeat' with_reducible first
    | assumption
    | intro _
    | apply State.set1_kept | apply State.spendN_kept | apply State.writeFields_kept | apply State.trcCtl_kept | apply State.setWdt_kept | apply Kept.ite

theorem State.storeReg_kept (a : Nat) (v : Word) (h : Kept r s) : Kept r (State.storeReg s a v) := by
  unfold State.storeReg
  try dsimp -iota only
  repeat' with_reducible first
    | assumption
    | apply State.intEn_kept | apply State.writeFields_kept | apply State.horizonHi_kept | apply State.storeTeam_kept | apply State.storeLinks_kept | apply State.storeHold_kept | apply State.storeGddr_kept | apply State.storeCap_kept | apply State.storeHitch_kept | apply State.storeTime_kept | apply State.storeBox_kept | apply State.storeMsix_kept | apply State.storeChip_kept | apply State.storeGroom_kept | apply Kept.ite
    | simp only [Kept.record_iff]
    | refine KeptP.of_eq (by assumption) ?_ | refine KeptO.of_eq (by assumption) ?_ | refine KeptOP.of_eq (by assumption) ?_ | refine KeptE.of_eq (by assumption) ?_
    | split

theorem State.busWrite_kept (a : Nat) (v : Word) (h : Kept r s) : Kept r (State.busWrite s a v) := by
  unfold State.busWrite
  try dsimp -iota only
  repeat' with_reducible first
    | assumption
    | apply State.busTimeout_kept | apply State.storeReg_kept | apply Kept.ite

theorem State.refuseHost_kept (a : Nat) (h : Kept r s) : Kept r (State.refuseHost s a) := by
  unfold State.refuseHost
  try dsimp -iota only
  repeat' with_reducible first
    | assumption
    | apply State.peErr_kept | apply State.breach_kept | apply Kept.ite

theorem State.agentWrite_kept (who : Agent) (a : Nat) (v : Word) (h : Kept r s) : Kept r (State.agentWrite s who a v) := by
  unfold State.agentWrite
  try dsimp -iota only
  repeat' with_reducible first
    | assumption
    | apply State.peErr_kept | apply State.hostFirst_kept | apply State.busWrite_kept | apply State.refuseHost_kept | apply Kept.ite

theorem State.agentWrites_kept (who : Agent) (a n : Nat) (vs : List Word) (h : Kept r s) : Kept r (State.agentWrites s who a n vs) := by
  unfold State.agentWrites
  try dsimp -iota only
  repeat' with_reducible first
    | assumption
    | intro _
    | apply State.peErr_kept | apply State.agentWrite_kept | apply Kept.ite | apply Kept.foldl | apply Kept.foldlP

theorem State.agentReads_kept (who : Agent) (a n : Nat) (h : Kept r s) : Kept r (s.agentReads who a n) := by
  unfold State.agentReads
  split
  · exact h.record rfl (Nat.le_refl _)
  · split
    · exact (State.peErr_kept 1 0 a h).record rfl (Nat.le_refl _)
    · dsimp only
      have k : KeptP r ((List.range (n / 4)).foldl (fun p i => (State.agentRead p.1 who (a + 4 * i),
          p.2 ++ (State.agentRead p.1 who (a + 4 * i)).rdata)) (s, ([] : List Word))) :=
        Kept.foldlP _ ⟨h⟩ (fun p i k => ⟨State.agentRead_kept _ _ k.fst⟩)
      exact k.fst.record rfl (Nat.le_refl _)

theorem execRegisterWrite_kept (who : Agent) (a : BitVec 24) (n : Nat) (vs : List Word) (s : State) : KeptOut s (execRegisterWrite who a n vs s) := by
  have h := Kept.refl s
  unfold execRegisterWrite
  try dsimp -iota only
  repeat' with_reducible first
    | assumption
    | apply State.agentWrites_kept | apply KeptOut.next

theorem execLatchedPairRead_kept (who : Agent) (a : BitVec 24) (n : Nat) (s : State) : KeptOut s (execLatchedPairRead who a n s) := by
  have h := Kept.refl s
  unfold execLatchedPairRead
  try dsimp -iota only
  repeat' with_reducible first
    | assumption
    | apply State.agentReads_kept | apply KeptOut.next

theorem execRcRegisterRead_kept (who : Agent) (a : BitVec 24) (n : Nat) (s : State) : KeptOut s (execRcRegisterRead who a n s) := by
  have h := Kept.refl s
  unfold execRcRegisterRead
  try dsimp -iota only
  repeat' with_reducible first
    | assumption
    | apply State.agentReads_kept | apply KeptOut.next

theorem execTbNowNsRead_kept (who : Agent) (s : State) : KeptOut s (execTbNowNsRead who s) := by
  have h := Kept.refl s
  unfold execTbNowNsRead
  try dsimp -iota only
  repeat' with_reducible first
    | assumption
    | apply State.agentRead_kept | apply KeptOut.next

theorem execTbSbStrideRead_kept (who : Agent) (s : State) : KeptOut s (execTbSbStrideRead who s) := by
  have h := Kept.refl s
  unfold execTbSbStrideRead
  try dsimp -iota only
  repeat' with_reducible first
    | assumption
    | apply State.agentRead_kept | apply KeptOut.next

theorem execTbTxqW3Read_kept (who : Agent) (s : State) : KeptOut s (execTbTxqW3Read who s) := by
  have h := Kept.refl s
  unfold execTbTxqW3Read
  try dsimp -iota only
  repeat' with_reducible first
    | assumption
    | apply State.agentRead_kept | apply KeptOut.next

theorem execPeFenceRead_kept (s : State) : KeptOut s (execPeFenceRead s) := by
  have h := Kept.refl s
  unfold execPeFenceRead
  try dsimp -iota only
  repeat' with_reducible first
    | assumption
    | apply KeptOut.next | apply Kept.ite
    | simp only [Kept.record_iff]

end Sys2Proof.Machine
end

