-- ==== Sys2Proof/Laws/KeptArrival.lean ====
section
/-! SUPPORT. What the operations of Machine/Arrival.lean keep (`Kept`). -/
namespace Sys2Proof.Machine

variable {r s : State}

theorem State.readWords_kept (who : Agent) (a n : Nat) (h : Kept r s) : KeptP r (s.readWords who a n) := by
  unfold State.readWords
  extract_lets x
  have k : KeptP r x := Kept.foldlP (p := (s, [])) _ ⟨h⟩ (fun _ _ k => ⟨State.busRead_kept _ _ (k.fst.record rfl (Nat.le_refl _))⟩)
  exact ⟨k.fst.record rfl (Nat.le_refl _)⟩

theorem State.regRequest_kept (t : Nat) (who : Agent) (a : Nat) (may : Nat → Bool) (p : Packet) (h : Kept r s) : Kept r (State.regRequest s t who a may p) := by
  unfold State.regRequest
  try dsimp -iota only
  repeat' with_reducible first
    | assumption
    | intro _
    | apply State.wait_kept | apply State.take_kept | apply State.busWrite_kept | apply State.readWords_kept | apply Kept.ite | apply KeptP.ite | apply Kept.foldl | apply Kept.foldlP | (refine Kept.of_fst ?_; apply State.readWords_kept) | apply Kept.fst_ite
    | simp only [KeptP.mk_iff]
    | refine KeptP.of_eq (by assumption) ?_ | refine KeptO.of_eq (by assumption) ?_ | refine KeptOP.of_eq (by assumption) ?_ | refine KeptE.of_eq (by assumption) ?_
    | split

theorem State.teamRequest_kept (t : Nat) (p : Packet) (h : Kept r s) : Kept r (State.teamRequest s t p) := by
  unfold State.teamRequest
  try dsimp -iota only
  repeat' with_reducible first
    | assumption
    | intro _
    | apply State.onTeam_kept | apply State.wait_kept | apply State.take_kept | apply State.regRequest_kept | apply Kept.ite
    | simp only [Kept.record_iff]

theorem State.teamPacket_kept (t : Nat) (p : Packet) (h : Kept r s) : Kept r (State.teamPacket s t p) := by
  unfold State.teamPacket
  try dsimp -iota only
  repeat' with_reducible first
    | assumption
    | intro _
    | apply State.onRouter_kept | apply State.teamRequest_kept | apply Kept.ite
    | simp only [Kept.record_iff]

theorem State.probeStore_kept (c : Nat) (p : Packet) (h : Kept r s) : Kept r (State.probeStore s c p) := by
  unfold State.probeStore
  try dsimp -iota only
  repeat' with_reducible first
    | assumption
    | intro _
    | apply State.onChan_kept | apply State.gwAcceptBytes_kept | apply State.take_kept
    | simp only [Kept.record_iff]
    | refine KeptP.of_eq (by assumption) ?_ | refine KeptO.of_eq (by assumption) ?_ | refine KeptOP.of_eq (by assumption) ?_ | refine KeptE.of_eq (by assumption) ?_
    | split

theorem State.gwPacket_kept (t c : Nat) (p : Packet) (h : Kept r s) : Kept r (State.gwPacket s t c p) := by
  unfold State.gwPacket
  try dsimp -iota only
  repeat' with_reducible first
    | assumption
    | intro _
    | apply State.gwAccept_kept | apply State.gwAcceptBytes_kept | apply State.take_kept | apply State.probeStore_kept | apply Kept.ite

theorem State.linkPacket_kept (t n : Nat) (p : Packet) (h : Kept r s) : Kept r (State.linkPacket s t n p) := by
  unfold State.linkPacket
  try dsimp -iota only
  repeat' with_reducible first
    | assumption
    | apply State.onLink_kept | apply State.wait_kept | apply State.forwardBack_kept | apply Kept.ite

theorem State.hubRequest_kept (t : Nat) (n : Fin 4) (p : Packet) (h : Kept r s) : Kept r (State.hubRequest s t n p) := by
  unfold State.hubRequest
  try dsimp -iota only
  repeat' with_reducible first
    | assumption
    | apply State.onLink_kept | apply State.wait_kept | apply State.gwAccept_kept | apply State.regRequest_kept | apply Kept.ite

theorem State.hubPacket_kept (t : Nat) (n : Fin 4) (p : Packet) (h : Kept r s) : Kept r (State.hubPacket s t n p) := by
  unfold State.hubPacket
  try dsimp -iota only
  repeat' with_reducible first
    | assumption
    | intro _
    | apply State.onRouter_kept | apply State.hubRequest_kept | apply Kept.ite
    | simp only [Kept.record_iff]

theorem State.attPacket_kept (t : Nat) (p : Packet) (h : Kept r s) : Kept r (State.attPacket s t p) := by
  unfold State.attPacket
  try dsimp -iota only
  repeat' with_reducible first
    | assumption
    | apply State.wait_kept | apply State.gwPacket_kept | apply State.linkPacket_kept | apply State.hubPacket_kept | apply Kept.ite
    | simp only [Kept.record_iff]
    | refine KeptP.of_eq (by assumption) ?_ | refine KeptO.of_eq (by assumption) ?_ | refine KeptOP.of_eq (by assumption) ?_ | refine KeptE.of_eq (by assumption) ?_
    | split

theorem State.routerRequest_kept (t : Nat) (p : Packet) (h : Kept r s) : Kept r (State.routerRequest s t p) := by
  unfold State.routerRequest
  try dsimp -iota only
  repeat' with_reducible first
    | assumption
    | intro _
    | apply State.wait_kept | apply State.regRequest_kept | apply Kept.ite

theorem State.deliver_kept (t : Nat) (p : Packet) (h : Kept r s) : Kept r (State.deliver s t p) := by
  unfold State.deliver
  try dsimp -iota only
  repeat' with_reducible first
    | assumption
    | apply State.sat_kept | apply State.absorb_kept | apply State.drain_kept | apply State.teamPacket_kept | apply State.attPacket_kept | apply State.routerRequest_kept | apply Kept.ite

theorem State.packetArrive_kept (t : Nat) (h : Kept r s) : Kept r (State.packetArrive t s) := by
  unfold State.packetArrive
  try dsimp -iota only
  repeat' with_reducible first
    | assumption
    | intro _
    | apply State.onRouter_kept | apply State.deliver_kept
    | simp only [Kept.record_iff]
    | refine KeptP.of_eq (by assumption) ?_ | refine KeptO.of_eq (by assumption) ?_ | refine KeptOP.of_eq (by assumption) ?_ | refine KeptE.of_eq (by assumption) ?_
    | split

theorem execPacketArrival_kept (t : Fin 1024) (s : State) : KeptOut s (execPacketArrival t s) := by
  have h := Kept.refl s
  unfold execPacketArrival
  try dsimp -iota only
  repeat' with_reducible first
    | assumption
    | apply State.packetArrive_kept | apply KeptOut.next | apply KeptOut.onMapped

end Sys2Proof.Machine
end

