-- ==== Sys2Proof/Laws/KeptSecurity.lean ====
section
/-! SUPPORT. What the operations of Machine/Security.lean keep (`Kept`). -/
namespace Sys2Proof.Machine

variable {r s : State}

theorem State.wipe_kept (recs : List (Nat × Nat × Nat)) (h : Kept r s) : Kept r (State.wipe s recs) := by
  unfold State.wipe
  try dsimp -iota only
  repeat' with_reducible first
    | assumption
    | intro _
    | apply State.put_kept | apply State.sat_kept | apply State.hwRec_kept | apply Kept.foldl | apply Kept.foldlP
    | simp only [Kept.record_iff]

theorem State.drawNonce_kept (h : Kept r s) : Kept r (State.drawNonce s) := by
  unfold State.drawNonce
  try dsimp -iota only
  repeat' with_reducible first
    | assumption
    | apply State.spend_kept
    | simp only [Kept.record_iff]

theorem State.blowFuses_kept (lc minv : Nat) (h : Kept r s) : Kept r (State.blowFuses s lc minv) := by
  unfold State.blowFuses
  try dsimp -iota only
  repeat' with_reducible first
    | assumption
    | apply State.put_kept | apply Kept.ite
    | simp only [Kept.record_iff]

theorem State.secStatus_kept (a1 : BitVec 512) (h : Kept r s) : KeptP r (State.secStatus a1 s) := by
  unfold State.secStatus
  try dsimp -iota only
  repeat' with_reducible first
    | assumption
    | simp only [KeptP.mk_iff]

theorem execSecStatus_kept (s : State) : KeptOut s (execSecStatus s) := by
  have h := Kept.refl s
  unfold execSecStatus
  try dsimp -iota only
  repeat' with_reducible first
    | assumption
    | intro _
    | apply State.cmd_kept | apply State.secStatus_kept | apply KeptOut.next
    | simp only [KeptP.mk_iff]

theorem State.keyWrite_kept (d : BitVec 512) (h : Kept r s) : KeptP r (State.keyWrite d s) := by
  unfold State.keyWrite
  try dsimp -iota only
  repeat' with_reducible first
    | assumption
    | intro _
    | apply State.put_kept | apply Kept.ite | apply KeptP.ite
    | simp only [Kept.record_iff, KeptP.mk_iff]
    | refine KeptP.of_eq (by assumption) ?_ | refine KeptO.of_eq (by assumption) ?_ | refine KeptOP.of_eq (by assumption) ?_ | refine KeptE.of_eq (by assumption) ?_
    | split

theorem execKeyWrite_kept (s : State) : KeptOut s (execKeyWrite s) := by
  have h := Kept.refl s
  unfold execKeyWrite
  try dsimp -iota only
  repeat' with_reducible first
    | assumption
    | intro _
    | apply State.cmd_kept | apply State.keyWrite_kept | apply KeptOut.next
    | simp only [KeptP.mk_iff]

theorem State.lcAdvance_kept (d : BitVec 512) (h : Kept r s) : KeptP r (State.lcAdvance d s) := by
  unfold State.lcAdvance
  try dsimp -iota only
  repeat' with_reducible first
    | assumption
    | apply State.wipe_kept | apply State.blowFuses_kept
    | simp only [Kept.record_iff, KeptP.mk_iff]
    | refine KeptP.of_eq (by assumption) ?_ | refine KeptO.of_eq (by assumption) ?_ | refine KeptOP.of_eq (by assumption) ?_ | refine KeptE.of_eq (by assumption) ?_
    | split

theorem execLcAdvance_kept (s : State) : KeptOut s (execLcAdvance s) := by
  have h := Kept.refl s
  unfold execLcAdvance
  try dsimp -iota only
  repeat' with_reducible first
    | assumption
    | intro _
    | apply State.cmd_kept | apply State.lcAdvance_kept | apply KeptOut.next
    | simp only [KeptP.mk_iff]

theorem State.lcReturn_kept (dma : HostDma) (d : BitVec 512) (h : Kept r s) : KeptP r (State.lcReturn dma d s) := by
  unfold State.lcReturn
  try dsimp -iota only
  repeat' with_reducible first
    | assumption
    | apply State.wipe_kept | apply State.drawNonce_kept | apply State.blowFuses_kept | apply Kept.ite | apply KeptP.ite
    | simp only [Kept.record_iff, KeptP.mk_iff]
    | refine KeptP.of_eq (by assumption) ?_ | refine KeptO.of_eq (by assumption) ?_ | refine KeptOP.of_eq (by assumption) ?_ | refine KeptE.of_eq (by assumption) ?_
    | split

theorem execLcReturn_kept (dma : HostDma) (s : State) : KeptOut s (execLcReturn dma s) := by
  have h := Kept.refl s
  unfold execLcReturn
  try dsimp -iota only
  repeat' with_reducible first
    | assumption
    | intro _
    | apply State.cmd_kept | apply State.lcReturn_kept | apply KeptOut.next
    | simp only [KeptP.mk_iff]

theorem State.tamper_kept (mask : BitVec 4) (begun : Bool) (h : Kept r s) : Kept r (State.tamper mask begun s) := by
  unfold State.tamper
  try dsimp -iota only
  repeat' with_reducible first
    | assumption
    | apply State.put_kept | apply State.enterQuarantine_kept | apply State.wipe_kept | apply State.blowFuses_kept | apply Kept.ite
    | simp only [Kept.record_iff]
    | refine KeptP.of_eq (by assumption) ?_ | refine KeptO.of_eq (by assumption) ?_ | refine KeptOP.of_eq (by assumption) ?_ | refine KeptE.of_eq (by assumption) ?_
    | split

theorem execTamper_kept (mask : BitVec 4) (begun : Bool) (s : State) : KeptOut s (execTamper mask begun s) := by
  have h := Kept.refl s
  unfold execTamper
  try dsimp -iota only
  repeat' with_reducible first
    | assumption
    | apply State.tamper_kept | apply KeptOut.next

end Sys2Proof.Machine
end

