-- ==== Sys2Proof/Laws/KeptLoader.lean ====
section
/-! SUPPORT. What the operations of Machine/Loader.lean keep (`Kept`). -/
namespace Sys2Proof.Machine

variable {r s : State}

theorem State.allocRegions_kept (l : List Rgn) (h : Kept r s) : KeptOP r (s.allocRegions l) := by
  induction l generalizing s with
  | nil => exact KeptOP.some h
  | cons x l ih =>
    unfold State.allocRegions
    split
    · exact KeptOP.none
    · next s1 a e =>
      refine ⟨fun t al ht => ?_⟩
      have k := KeptOP.of_eq e (State.allocate_kept _ _ _ _ _ h)
      cases hq : s1.allocRegions l with
      | none => simp [hq] at ht
      | some q =>
        rw [hq] at ht
        simp only [Option.map_some, Option.some.injEq, Prod.mk.injEq] at ht
        exact ht.1 ▸ (ih k).of q.1 q.2 hq

theorem State.loadBank_kept (g : Img) (excl : List Nat) (t b : Nat) (h : Kept r s) : Kept r (State.loadBank s g excl t b) := by
  unfold State.loadBank
  try dsimp -iota only
  repeat' with_reducible first
    | assumption
    | apply State.bankPower_kept | apply State.bankDone_kept

theorem State.loadTeam_kept (g : Img) (excl : List Nat) (t : Nat) (h : Kept r s) : Kept r (State.loadTeam s g excl t) := by
  unfold State.loadTeam
  try dsimp -iota only
  repeat' with_reducible first
    | assumption
    | intro _
    | apply State.wr_kept | apply State.put_kept | apply State.onTeam_kept | apply State.onRouter_kept | apply State.loadBank_kept
    | simp only [Kept.record_iff]
    | refine KeptP.of_eq (by assumption) ?_ | refine KeptO.of_eq (by assumption) ?_ | refine KeptOP.of_eq (by assumption) ?_ | refine KeptE.of_eq (by assumption) ?_
    | split

theorem State.hitchReg_kept (a1 : HRec) (h : Kept r s) : Kept r (State.hitchReg s a1) := by
  unfold State.hitchReg
  try dsimp -iota only
  repeat' with_reducible first
    | assumption
    | apply State.wr_kept | apply State.put_kept | apply State.set1_kept | apply State.treeWrite_kept | apply Kept.ite

theorem State.loadHitch_kept (g : Img) (h : Kept r s) : Kept r (State.loadHitch s g) := by
  unfold State.loadHitch
  try dsimp -iota only
  repeat' with_reducible first
    | assumption
    | intro _
    | apply State.wr_kept | apply State.put_kept | apply State.each_kept | apply State.fclkErr_kept | apply State.extest_kept | apply State.hitchReg_kept | apply Kept.foldl | apply Kept.foldlP
    | simp only [Kept.record_iff]

theorem State.loadDs_kept (g : Img) (h : Kept r s) : Kept r (State.loadDs s g) := by
  unfold State.loadDs
  try dsimp -iota only
  repeat' with_reducible first
    | assumption
    | intro _
    | apply State.wr_kept | apply State.set1_kept | apply Kept.foldl | apply Kept.foldlP

theorem State.loadGddr_kept (g : Img) (al : List (Nat × Region)) (crc : List HostCrc) (h : Kept r s) : Kept r (State.loadGddr s g al crc) := by
  unfold State.loadGddr
  try dsimp -iota only
  repeat' with_reducible first
    | assumption
    | intro _
    | apply State.toRegion_kept | apply Kept.foldl | apply Kept.foldlP | apply Kept.getD
    | simp only [Kept.record_iff]
    | refine KeptP.of_eq (by assumption) ?_ | refine KeptO.of_eq (by assumption) ?_ | refine KeptOP.of_eq (by assumption) ?_ | refine KeptE.of_eq (by assumption) ?_
    | split

theorem State.install_kept (p : List Byte) (g : Img) (excl : List Nat) (al : List (Nat × Region)) (crc : List HostCrc) (h : Kept r s) : Kept r (State.install s p g excl al crc) := by
  unfold State.install
  try dsimp -iota only
  repeat' with_reducible first
    | assumption
    | intro _
    | apply State.put_kept | apply State.set1_kept | apply State.each_kept | apply State.hitchRelease_kept | apply State.loadTeam_kept | apply State.loadHitch_kept | apply State.loadDs_kept | apply State.loadGddr_kept | apply Kept.foldl | apply Kept.foldlP
    | simp only [Kept.record_iff]

theorem State.load_kept (slot : Nat) (env : List Byte) (excl : List Nat) (crc : List HostCrc) (h : Kept r s) : KeptE r (State.load s slot env excl crc) := by
  unfold State.load
  try dsimp -iota only
  repeat' with_reducible first
    | assumption
    | intro _
    | apply State.allocRegions_kept | apply State.install_kept | apply KeptE.ok | apply Kept.ite | apply KeptE.ite | exact KeptE.error _
    | simp only [Kept.record_iff]
    | refine KeptP.of_eq (by assumption) ?_ | refine KeptO.of_eq (by assumption) ?_ | refine KeptOP.of_eq (by assumption) ?_ | refine KeptE.of_eq (by assumption) ?_
    | split

theorem State.freeDesign_kept (h : Kept r s) : Kept r (State.freeDesign s) := by
  unfold State.freeDesign
  try dsimp -iota only
  repeat' with_reducible first
    | assumption
    | intro _
    | apply State.freeRegion_kept | apply Kept.foldl | apply Kept.foldlP

theorem State.capIdle_kept (h : Kept r s) : Kept r (State.capIdle s) := by
  unfold State.capIdle
  try dsimp -iota only
  repeat' with_reducible first
    | assumption
    | apply State.put_kept | apply Kept.ite
    | simp only [Kept.record_iff]

theorem State.dsReset_kept (h : Kept r s) : Kept r (State.dsReset s) := by
  unfold State.dsReset
  try dsimp -iota only
  repeat' with_reducible first
    | assumption
    | intro _
    | apply State.dropRegs_kept
    | simp only [Kept.record_iff]

theorem State.discardImage_kept (h : Kept r s) : Kept r (State.discardImage s) := by
  unfold State.discardImage
  try dsimp -iota only
  repeat' with_reducible first
    | assumption
    | intro _
    | apply State.clr_kept | apply State.onTeam_kept | apply State.each_kept | apply State.hitchGoWrite_kept | apply State.freeDesign_kept | apply State.capIdle_kept | apply State.dsReset_kept | apply Kept.foldl | apply Kept.foldlP
    | simp only [Kept.record_iff]

theorem State.loseStores_kept (h : Kept r s) : Kept r (State.loseStores s) := by
  unfold State.loseStores
  try dsimp -iota only
  repeat' with_reducible first
    | assumption
    | intro _
    | apply State.wr_kept | apply State.onTeam_kept | apply State.onRouter_kept | apply State.spend_kept | apply State.stage_kept | apply Kept.foldl | apply Kept.foldlP
    | simp only [Kept.record_iff]

theorem State.loseDs_kept (h : Kept r s) : Kept r (State.loseDs s) := by
  unfold State.loseDs
  try dsimp -iota only
  repeat' with_reducible first
    | assumption
    | intro _
    | apply State.wr_kept | apply State.spendN_kept | apply Kept.foldl | apply Kept.foldlP

theorem State.noImage_kept (h : Kept r s) : Kept r (State.noImage s) := by
  unfold State.noImage
  try dsimp -iota only
  repeat' with_reducible first
    | assumption
    | apply State.discardImage_kept | apply State.loseStores_kept | apply State.loseDs_kept

theorem State.unload_kept (h : Kept r s) : Kept r (State.unload s) := by
  unfold State.unload
  try dsimp -iota only
  repeat' with_reducible first
    | assumption
    | apply State.clr_kept | apply State.setMode_kept | apply State.noImage_kept

theorem State.clearHold_kept (h : Kept r s) : Kept r (State.clearHold s) := by
  unfold State.clearHold
  try dsimp -iota only
  repeat' with_reducible first
    | assumption
    | apply State.put_kept | apply State.clr_kept

theorem State.enterLoad_kept (h : Kept r s) : Kept r (State.enterLoad s) := by
  unfold State.enterLoad
  try dsimp -iota only
  repeat' with_reducible first
    | assumption
    | apply State.put_kept | apply State.clr_kept | apply State.setMode_kept | apply State.hitchBanks_kept | apply State.discardImage_kept | apply State.clearHold_kept

theorem State.loadRead_kept (src a n : Nat) (crc : List HostCrc) (h : Kept r s) : Kept r (State.loadRead s src a n crc) := by
  unfold State.loadRead
  try dsimp -iota only
  repeat' with_reducible first
    | assumption
    | intro _
    | apply State.bulkCount_kept | apply State.bulkCrc_kept | apply Kept.ite

theorem State.loadStart_kept (islands : Bool) (d : BitVec 512) (h : Kept r s) : KeptP r (State.loadStart islands d s) := by
  unfold State.loadStart
  try dsimp -iota only
  repeat' with_reducible first
    | assumption
    | apply State.wr_kept | apply State.clr_kept | apply State.enterLoad_kept | apply Kept.ite | apply KeptP.ite
    | simp only [KeptP.mk_iff]

theorem State.loadEnd_kept (img ex : HostDma) (crc : List HostCrc) (c : Taken) (h : Kept r s) : KeptOP r (State.loadEnd img ex crc c s) := by
  unfold State.loadEnd
  try dsimp -iota only
  repeat' with_reducible first
    | assumption
    | intro _
    | apply State.load_kept | apply State.unload_kept | apply State.loadRead_kept | apply KeptOP.some' | apply KeptOP.some | apply Kept.ite | apply KeptOP.ite | apply KeptP.ite | exact KeptOP.none
    | simp only [Kept.record_iff, KeptP.mk_iff]
    | refine KeptP.of_eq (by assumption) ?_ | refine KeptO.of_eq (by assumption) ?_ | refine KeptOP.of_eq (by assumption) ?_ | refine KeptE.of_eq (by assumption) ?_
    | split

theorem execImageLoad_kept (img excl : HostDma) (islands : Bool) (crc : List HostCrc) (s : State) : KeptOut s (execImageLoad img excl islands crc s) := by
  have h := Kept.refl s
  unfold execImageLoad
  try dsimp -iota only
  repeat' with_reducible first
    | assumption
    | intro _
    | apply State.cmdLong_kept | apply State.loadStart_kept | apply State.loadEnd_kept | apply KeptOut.next | apply KeptOP.some' | apply KeptOP.some | apply KeptOP.ite | exact KeptOP.none
    | simp only [KeptP.mk_iff]

theorem State.imageUnload_kept (a1 : Taken) (h : Kept r s) : KeptOP r (State.imageUnload a1 s) := by
  unfold State.imageUnload
  try dsimp -iota only
  repeat' with_reducible first
    | assumption
    | apply State.unload_kept | apply KeptOP.some' | apply KeptOP.some | exact KeptOP.none
    | simp only [KeptP.mk_iff]

theorem execImageUnload_kept (s : State) : KeptOut s (execImageUnload s) := by
  have h := Kept.refl s
  unfold execImageUnload
  try dsimp -iota only
  repeat' with_reducible first
    | assumption
    | intro _
    | apply State.cmdLong_kept | apply State.imageUnload_kept | apply KeptOut.next | apply KeptOP.some' | apply KeptOP.some | apply KeptOP.ite | exact KeptOP.none
    | simp only [KeptP.mk_iff]

end Sys2Proof.Machine
end

