-- ==== Sys2Proof/Laws/KeptBoot.lean ====
section
/-! SUPPORT. What the operations of Machine/Boot.lean keep (`Kept`). -/
namespace Sys2Proof.Machine

variable {r s : State}

theorem State.coldReset_kept (pwr : Bool) (h : Kept r s) : Kept r (s.coldReset pwr) := by
  unfold State.coldReset
  exact State.put_kept _ _ (h.of_wf rfl rfl (Nat.le_refl _) (Tab.wf_filter _ _ _) (fun _ => rfl))

theorem execColdReset_kept (pwr : Bool) (s : State) : KeptOut s (execColdReset pwr s) := by
  have h := Kept.refl s
  unfold execColdReset
  try dsimp -iota only
  repeat' with_reducible first
    | assumption
    | apply State.coldReset_kept | apply KeptOut.next

theorem execResetRelease_kept (s : State) : KeptOut s (execResetRelease s) := by
  have h := Kept.refl s
  unfold execResetRelease
  try dsimp -iota only
  repeat' with_reducible first
    | assumption
    | apply KeptOut.next
    | simp only [Kept.record_iff]

theorem State.warmBox_kept (m : Nat) (h : Kept r s) : Kept r (State.warmBox s m) := by
  unfold State.warmBox
  try dsimp -iota only
  repeat' with_reducible first
    | assumption
    | intro _
    | apply State.wr_kept | apply State.put_kept | apply State.onBox_kept
    | simp only [Kept.record_iff]

theorem State.warmChan_kept (c : Nat) (h : Kept r s) : Kept r (State.warmChan s c) := by
  unfold State.warmChan
  try dsimp -iota only
  repeat' with_reducible first
    | assumption
    | apply State.put_kept | apply State.clr_kept | apply State.setChan_kept | apply State.setChanState_kept | apply Kept.ite

theorem State.warmHost_kept (h : Kept r s) : Kept r (State.warmHost s) := by
  unfold State.warmHost
  try dsimp -iota only
  repeat' with_reducible first
    | assumption
    | intro _
    | apply State.peErr_kept | apply Kept.foldl | apply Kept.foldlP
    | simp only [Kept.record_iff]

theorem State.warmBegin_kept (h : Kept r s) : Kept r (State.warmBegin s) := by
  unfold State.warmBegin
  try dsimp -iota only
  repeat' with_reducible first
    | assumption
    | intro _
    | apply State.wr_kept | apply State.put_kept | apply State.sat_kept | apply State.putPair_kept | apply State.dropRegs_kept | apply State.each_kept | apply State.freeRegion_kept | apply State.hitchGoWrite_kept | apply State.warmBox_kept | apply State.warmChan_kept | apply State.warmHost_kept | apply Kept.foldl | apply Kept.foldlP
    | simp only [Kept.record_iff]

theorem execWarmResetBegin_kept (s : State) : KeptOut s (execWarmResetBegin s) := by
  have h := Kept.refl s
  unfold execWarmResetBegin
  try dsimp -iota only
  repeat' with_reducible first
    | assumption
    | apply State.warmBegin_kept | apply KeptOut.next | apply Kept.ite

theorem State.aonLoss_kept (h : Kept r s) : Kept r (State.aonLoss s) := by
  unfold State.aonLoss
  try dsimp -iota only
  repeat' with_reducible first
    | assumption
    | intro _
    | apply State.put_kept | apply State.dropRegs_kept
    | simp only [Kept.record_iff]

theorem execVddAonLoss_kept (s : State) : KeptOut s (execVddAonLoss s) := by
  have h := Kept.refl s
  unfold execVddAonLoss
  try dsimp -iota only
  repeat' with_reducible first
    | assumption
    | apply State.aonLoss_kept | apply KeptOut.next

theorem State.aonRise_kept (h : Kept r s) : Kept r (State.aonRise s) := by
  unfold State.aonRise
  try dsimp -iota only
  repeat' with_reducible first
    | assumption
    | apply Kept.ite
    | simp only [Kept.record_iff]

theorem execVddAonRise_kept (s : State) : KeptOut s (execVddAonRise s) := by
  have h := Kept.refl s
  unfold execVddAonRise
  try dsimp -iota only
  repeat' with_reducible first
    | assumption
    | apply State.aonRise_kept | apply KeptOut.next

theorem State.toStage_kept (n : Nat) (h : Kept r s) : Kept r (State.toStage s n) := by
  unfold State.toStage
  try dsimp -iota only
  repeat' with_reducible first
    | assumption
    | apply State.put_kept

theorem State.bootFail_kept (err : Nat) (h : Kept r s) : Kept r (State.bootFail s err) := by
  unfold State.bootFail
  try dsimp -iota only
  repeat' with_reducible first
    | assumption
    | apply State.put_kept | apply State.set1_kept | apply State.alert_kept | apply State.freezeRec_kept

theorem State.readFuses_kept (h : Kept r s) : Kept r (State.readFuses s) := by
  unfold State.readFuses
  try dsimp -iota only
  repeat' with_reducible first
    | assumption
    | apply State.put_kept | apply State.putPair_kept | apply Kept.ite

theorem State.copyRootKey_kept (h : Kept r s) : Kept r (State.copyRootKey s) := by
  unfold State.copyRootKey
  try dsimp -iota only
  repeat' with_reducible first
    | assumption
    | apply Kept.ite
    | simp only [Kept.record_iff]

theorem State.readFlash_kept (b : BootIn) (h : Kept r s) : Kept r (State.readFlash s b) := by
  unfold State.readFlash
  try dsimp -iota only
  repeat' with_reducible first
    | assumption
    | apply State.put_kept | apply State.set1_kept | apply State.toStage_kept | apply State.bootFail_kept | apply State.copyRootKey_kept | apply Kept.ite
    | simp only [Kept.record_iff]

theorem State.applyGd_kept (a1 : List Byte) (c : Nat) (h : Kept r s) : Kept r (State.applyGd s a1 c) := by
  unfold State.applyGd
  try dsimp -iota only
  repeat' with_reducible first
    | assumption
    | apply State.put_kept | apply State.set1If_kept | apply Kept.ite

theorem State.applyHeader_kept (h : Kept r s) : Kept r (State.applyHeader s) := by
  unfold State.applyHeader
  try dsimp -iota only
  repeat' with_reducible first
    | assumption
    | intro _
    | apply State.put_kept | apply State.set1_kept | apply State.each_kept | apply State.applyGd_kept | apply Kept.ite
    | simp only [Kept.record_iff]

theorem State.dropGddr_kept (c : Nat) (h : Kept r s) : Kept r (s.dropGddr c) :=
  Kept.foldl _ (State.filterGddr_kept _ h) (fun _ _ k => State.spendN_kept _ (State.setMemBytes_kept _ _ k))

theorem State.trainCold_kept (h : Kept r s) : Kept r (State.trainCold s) := by
  unfold State.trainCold
  try dsimp -iota only
  repeat' with_reducible first
    | assumption
    | intro _
    | apply State.each_kept | apply State.trainBegin_kept | apply Kept.ite

theorem State.trainWarm_kept (h : Kept r s) : Kept r (State.trainWarm s) := by
  unfold State.trainWarm
  try dsimp -iota only
  repeat' with_reducible first
    | assumption
    | intro _
    | apply State.each_kept | apply State.trainBegin_kept | apply State.dropGddr_kept | apply Kept.ite

theorem State.leaveSref_kept (h : Kept r s) : Kept r (State.leaveSref s) := by
  unfold State.leaveSref
  try dsimp -iota only
  repeat' with_reducible first
    | assumption
    | intro _
    | apply State.each_kept | apply State.setChanState_kept | apply Kept.ite

theorem State.firmwareRegion_kept (h : Kept r s) : Kept r (State.firmwareRegion s) := by
  unfold State.firmwareRegion
  try dsimp -iota only
  repeat' with_reducible first
    | assumption
    | intro _
    | apply State.allocate_kept | apply Kept.ite
    | simp only [Kept.record_iff]
    | refine KeptP.of_eq (by assumption) ?_ | refine KeptO.of_eq (by assumption) ?_ | refine KeptOP.of_eq (by assumption) ?_ | refine KeptE.of_eq (by assumption) ?_
    | split

theorem State.joinSite_kept (n : Nat) (h : Kept r s) : Kept r (State.joinSite s n) := by
  unfold State.joinSite
  try dsimp -iota only
  repeat' with_reducible first
    | assumption
    | intro _
    | apply State.wr_kept | apply State.put_kept | apply State.set1_kept
    | simp only [Kept.record_iff]
    | refine KeptP.of_eq (by assumption) ?_ | refine KeptO.of_eq (by assumption) ?_ | refine KeptOP.of_eq (by assumption) ?_ | refine KeptE.of_eq (by assumption) ?_
    | split

theorem State.powerTeams_kept (h : Kept r s) : Kept r (State.powerTeams s) := by
  unfold State.powerTeams
  try dsimp -iota only
  repeat' with_reducible first
    | assumption
    | intro _
    | apply State.put_kept | apply State.set1_kept | apply State.each_kept | apply State.freshTeam_kept | apply Kept.ite

theorem State.freshRouters_kept (h : Kept r s) : Kept r (State.freshRouters s) := by
  unfold State.freshRouters
  try dsimp -iota only
  repeat' with_reducible first
    | assumption
    | intro _
    | apply State.onRouter_kept | apply State.each_kept | apply State.spend_kept
    | simp only [Kept.record_iff]

theorem State.isolateDisabled_kept (h : Kept r s) : Kept r (State.isolateDisabled s) := by
  unfold State.isolateDisabled
  try dsimp -iota only
  repeat' with_reducible first
    | assumption
    | intro _
    | apply State.set1_kept | apply State.each_kept | apply Kept.ite
    | simp only [Kept.record_iff]
    | refine KeptP.of_eq (by assumption) ?_ | refine KeptO.of_eq (by assumption) ?_ | refine KeptOP.of_eq (by assumption) ?_ | refine KeptE.of_eq (by assumption) ?_
    | split

theorem State.mapRows_kept (h : Kept r s) : Kept r (State.mapRows s) := by
  unfold State.mapRows
  try dsimp -iota only
  repeat' with_reducible first
    | assumption
    | intro _
    | apply State.each_kept | apply State.joinSite_kept | apply State.powerTeams_kept | apply State.freshRouters_kept | apply State.isolateDisabled_kept
    | simp only [Kept.record_iff]

theorem State.bootEnd_kept (h : Kept r s) : Kept r (State.bootEnd s) := by
  unfold State.bootEnd
  try dsimp -iota only
  repeat' with_reducible first
    | assumption
    | intro _
    | apply State.set1_kept | apply State.each_kept | apply State.postEvent_kept | apply State.groomRec_kept | apply State.drawNonce_kept | apply Kept.ite
    | simp only [Kept.record_iff]

theorem State.bootStep_kept (b : BootIn) (h : Kept r s) : Kept r (State.bootStep b s) := by
  unfold State.bootStep
  try dsimp -iota only
  repeat' with_reducible first
    | assumption
    | apply State.trainAll_kept | apply State.toStage_kept | apply State.bootFail_kept | apply State.readFuses_kept | apply State.readFlash_kept | apply State.applyHeader_kept | apply State.trainCold_kept | apply State.trainWarm_kept | apply State.leaveSref_kept | apply State.firmwareRegion_kept | apply State.mapRows_kept | apply State.bootEnd_kept | apply Kept.ite
    | simp only [Kept.record_iff]
    | refine KeptP.of_eq (by assumption) ?_ | refine KeptO.of_eq (by assumption) ?_ | refine KeptOP.of_eq (by assumption) ?_ | refine KeptE.of_eq (by assumption) ?_
    | split

theorem execBootStageDone_kept (b : BootIn) (s : State) : KeptOut s (execBootStageDone b s) := by
  have h := Kept.refl s
  unfold execBootStageDone
  try dsimp -iota only
  repeat' with_reducible first
    | assumption
    | apply State.bootStep_kept | apply KeptOut.next | apply Kept.ite

end Sys2Proof.Machine
end

