-- ==== Sys2Proof/Laws/KeptFabric.lean ====
section
/-! SUPPORT. What the operations of Machine/Fabric.lean keep (`Kept`). -/
namespace Sys2Proof.Machine

variable {r s : State}

theorem State.hpEdge_kept (a1 : Hitch) (e : FabricEnv) (h : Kept r s) : Kept r (State.hpEdge a1 e s) := by
  unfold State.hpEdge
  try dsimp -iota only
  repeat' with_reducible first
    | assumption
    | apply State.hpoUpdate_kept | apply State.hpLoad_kept | apply Kept.ite

theorem State.tkEdge_kept (a1 : Hitch) (e : FabricEnv) (h : Kept r s) : Kept r (State.tkEdge a1 e s) := by
  unfold State.tkEdge
  try dsimp -iota only
  repeat' with_reducible first
    | assumption
    | apply State.tokenTake_kept | apply Kept.ite

theorem State.rxEdge_kept (a1 : Hitch) (e : FabricEnv) (n : Nat) (h : Kept r s) : Kept r (State.rxEdge a1 e n s) := by
  unfold State.rxEdge
  try dsimp -iota only
  repeat' with_reducible first
    | assumption
    | apply State.rxTake_kept | apply Kept.ite

theorem State.txEdge_kept (a1 : Hitch) (e : FabricEnv) (n : Nat) (h : Kept r s) : Kept r (State.txEdge a1 e n s) := by
  unfold State.txEdge
  try dsimp -iota only
  repeat' with_reducible first
    | assumption
    | apply State.txTake_kept | apply Kept.ite

theorem State.portTick_kept (a1 : Hitch) (e : FabricEnv) (h : Kept r s) : Kept r (State.portTick a1 e s) := by
  unfold State.portTick
  try dsimp -iota only
  repeat' with_reducible first
    | assumption
    | intro _
    | apply State.each_kept | apply State.hpEdge_kept | apply State.tkEdge_kept | apply State.rxEdge_kept | apply State.txEdge_kept | apply Kept.ite

theorem State.monitor_kept (h : Kept r s) : Kept r (State.monitor s) := by
  unfold State.monitor
  try dsimp -iota only
  repeat' with_reducible first
    | assumption
    | intro _
    | apply State.contend_kept | apply Kept.foldl | apply Kept.foldlP

theorem State.fabricTick_kept (h : Kept r s) : Kept r (State.fabricTick s) := by
  unfold State.fabricTick
  try dsimp -iota only
  repeat' with_reducible first
    | assumption
    | apply State.spend_kept | apply State.portTick_kept | apply State.monitor_kept | apply Kept.ite
    | simp only [Kept.record_iff]

theorem State.tick_kept (h : Kept r s) : Kept r (State.tick s) := by
  unfold State.tick
  try dsimp -iota only
  repeat' with_reducible first
    | assumption
    | apply State.fabricTick_kept
    | simp only [Kept.record_iff]

end Sys2Proof.Machine
end

