-- ==== Sys2Proof/Laws/KeptHost.lean ====
section
/-! SUPPORT. What the operations of Machine/Host.lean keep (`Kept`). -/
namespace Sys2Proof.Machine

variable {r s : State}

theorem State.bar2_kept (d n : Nat) (data : Option (List Byte)) (h : Kept r s) : Kept r (State.bar2 d n data s) := by
  unfold State.bar2
  try dsimp -iota only
  repeat' with_reducible first
    | assumption
    | intro _
    | apply State.set1_kept | apply State.peErr_kept | apply State.hostQueue_kept | apply State.hostBegin_kept | apply Kept.ite | apply Kept.foldl | apply Kept.foldlP
    | simp only [Kept.record_iff]
    | refine KeptP.of_eq (by assumption) ?_ | refine KeptO.of_eq (by assumption) ?_ | refine KeptOP.of_eq (by assumption) ?_ | refine KeptE.of_eq (by assumption) ?_
    | split

theorem execBar2Access_kept (d : BitVec 36) (n : Nat) (data : Option (List Byte)) (s : State) : KeptOut s (execBar2Access d n data s) := by
  have h := Kept.refl s
  unfold execBar2Access
  try dsimp -iota only
  repeat' with_reducible first
    | assumption
    | apply State.bar2_kept | apply KeptOut.next

theorem State.bar4Checked_kept (t o : Nat) (c : MemCheck) (h : Kept r s) : Kept r (State.bar4Checked s t o c) := by
  unfold State.bar4Checked
  try dsimp -iota only
  repeat' with_reducible first
    | assumption
    | apply State.dmChecked_kept | apply Kept.ite
    | simp only [Kept.record_iff]
    | refine KeptP.of_eq (by assumption) ?_ | refine KeptO.of_eq (by assumption) ?_ | refine KeptOP.of_eq (by assumption) ?_ | refine KeptE.of_eq (by assumption) ?_
    | split

theorem State.bar4Put_kept (t o : Nat) (v : W24) (c : MemCheck) (h : Kept r s) : Kept r (State.bar4Put s t o v c) := by
  unfold State.bar4Put
  try dsimp -iota only
  repeat' with_reducible first
    | assumption
    | apply State.isStage_kept | apply State.isCommit_kept | apply State.dmWrite_kept | apply Kept.ite
    | simp only [Kept.record_iff]
    | refine KeptP.of_eq (by assumption) ?_ | refine KeptO.of_eq (by assumption) ?_ | refine KeptOP.of_eq (by assumption) ?_ | refine KeptE.of_eq (by assumption) ?_
    | split

theorem State.bar4Word_kept (a1 a : Nat) (v : Option W24) (c : MemCheck) (h : Kept r s) : Kept r (State.bar4Word a1 a v c s) := by
  unfold State.bar4Word
  try dsimp -iota only
  repeat' with_reducible first
    | assumption
    | intro _
    | apply State.onTeam_kept | apply State.peErr_kept | apply State.bar4Checked_kept | apply State.bar4Put_kept
    | simp only [Kept.record_iff]
    | refine KeptP.of_eq (by assumption) ?_ | refine KeptO.of_eq (by assumption) ?_ | refine KeptOP.of_eq (by assumption) ?_ | refine KeptE.of_eq (by assumption) ?_
    | split

theorem State.bar4Dead_kept (a1 a : Nat) (write : Bool) (h : Kept r s) : Kept r (State.bar4Dead a1 a write s) := by
  unfold State.bar4Dead
  try dsimp -iota only
  repeat' with_reducible first
    | assumption
    | apply State.peErr_kept | apply State.targetDead_kept | apply State.bar4Word_kept | apply Kept.ite
    | simp only [Kept.record_iff]

theorem State.bar4Words_kept (a1 : Nat) (dead : Bool) (c : MemCheck) (l : List (Nat × Option W24)) (h : Kept r s) : Kept r (State.bar4Words a1 dead c l s) := by
  unfold State.bar4Words
  try dsimp -iota only
  repeat' with_reducible first
    | assumption
    | intro _
    | apply State.bar4Word_kept | apply State.bar4Dead_kept | apply Kept.foldl | apply Kept.foldlP
    | simp only [Kept.record_iff]
    | refine KeptP.of_eq (by assumption) ?_ | refine KeptO.of_eq (by assumption) ?_ | refine KeptOP.of_eq (by assumption) ?_ | refine KeptE.of_eq (by assumption) ?_
    | split

theorem State.bar4_kept (a n : Nat) (data : Option (List Byte)) (c : MemCheck) (a1 : Nat) (dead : Bool) (h : Kept r s) : Kept r (State.bar4 a n data c a1 dead s) := by
  unfold State.bar4
  try dsimp -iota only
  repeat' with_reducible first
    | assumption
    | intro _
    | apply State.peErr_kept | apply State.hostCatchUp_kept | apply State.bar4Words_kept | apply Kept.ite | apply Kept.foldl | apply Kept.foldlP
    | simp only [Kept.record_iff]
    | refine KeptP.of_eq (by assumption) ?_ | refine KeptO.of_eq (by assumption) ?_ | refine KeptOP.of_eq (by assumption) ?_ | refine KeptE.of_eq (by assumption) ?_
    | split

theorem execBar4Access_kept (a : BitVec 30) (n : Nat) (data : Option (List Byte)) (c : MemCheck) (hub : Fin 4) (dead : Bool) (s : State) : KeptOut s (execBar4Access a n data c hub dead s) := by
  have h := Kept.refl s
  unfold execBar4Access
  try dsimp -iota only
  repeat' with_reducible first
    | assumption
    | apply State.bar4_kept | apply KeptOut.next

end Sys2Proof.Machine
end

