-- ==== Sys2Proof/Laws/KeptSnapshot.lean ====
section
/-! SUPPORT. What the operations of Machine/Snapshot.lean keep (`Kept`). -/
namespace Sys2Proof.Machine

variable {r s : State}

theorem State.snapFound_kept (fs : Finds) (h : Kept r s) : Kept r (State.snapFound s fs) := by
  unfold State.snapFound
  try dsimp -iota only
  repeat' with_reducible first
    | assumption
    | intro _
    | apply State.dmChecked_kept | apply Kept.ite | apply Kept.foldl | apply Kept.foldlP

theorem State.backToStep_kept (h : Kept r s) : Kept r (State.backToStep s) := by
  unfold State.backToStep
  try dsimp -iota only
  repeat' with_reducible first
    | assumption
    | apply State.set1_kept | apply State.setMode_kept

theorem State.saveNow_kept (fs : Finds) (crc : List HostCrc) (d : BitVec 512) (h : Kept r s) : KeptP r (State.saveNow s fs crc d) := by
  unfold State.saveNow
  try dsimp -iota only
  repeat' with_reducible first
    | assumption
    | apply State.toHost_kept | apply State.toRegion_kept | apply State.snapFound_kept | apply State.backToStep_kept | apply Kept.ite | apply KeptP.ite
    | simp only [Kept.record_iff, KeptP.mk_iff]
    | refine KeptP.of_eq (by assumption) ?_ | refine KeptO.of_eq (by assumption) ?_ | refine KeptOP.of_eq (by assumption) ?_ | refine KeptE.of_eq (by assumption) ?_
    | split

theorem State.saveBegin_kept (d : BitVec 512) (h : Kept r s) : KeptP r (State.saveBegin d s) := by
  unfold State.saveBegin
  try dsimp -iota only
  repeat' with_reducible first
    | assumption
    | apply State.clr_kept | apply State.setMode_kept | apply Kept.ite | apply KeptP.ite
    | simp only [Kept.record_iff, KeptP.mk_iff]
    | refine KeptP.of_eq (by assumption) ?_ | refine KeptO.of_eq (by assumption) ?_ | refine KeptOP.of_eq (by assumption) ?_ | refine KeptE.of_eq (by assumption) ?_
    | split

theorem State.savePoll_kept (fs : Finds) (crc : List HostCrc) (c : Taken) (h : Kept r s) : KeptOP r (State.savePoll fs crc c s) := by
  unfold State.savePoll
  try dsimp -iota only
  repeat' with_reducible first
    | assumption
    | apply State.backToStep_kept | apply State.saveNow_kept | apply KeptOP.some' | apply KeptOP.some | apply Kept.ite | apply KeptOP.ite | apply KeptP.ite | exact KeptOP.none
    | simp only [KeptP.mk_iff]

theorem execSnapshotSave_kept (finds : List (Fin 1024 × Fin 32768 × MemCheck)) (crc : List HostCrc) (s : State) : KeptOut s (execSnapshotSave finds crc s) := by
  have h := Kept.refl s
  unfold execSnapshotSave
  try dsimp -iota only
  repeat' with_reducible first
    | assumption
    | intro _
    | apply State.cmdLong_kept | apply State.saveBegin_kept | apply State.savePoll_kept | apply KeptOut.next | apply KeptOP.some' | apply KeptOP.some | apply KeptOP.ite | exact KeptOP.none
    | simp only [KeptP.mk_iff]

theorem State.restoreDs_kept (a1 : Nat) (b : List Byte) (h : Kept r s) : Kept r (State.restoreDs s a1 b) := by
  unfold State.restoreDs
  try dsimp -iota only
  repeat' with_reducible first
    | assumption
    | intro _
    | apply State.wr_kept | apply State.put_kept | apply State.putPair_kept | apply State.each_kept | apply Kept.foldl | apply Kept.foldlP
    | simp only [Kept.record_iff]

theorem State.restoreTeam_kept (t : Nat) (smB wrB dmB : List Byte) (h : Kept r s) : Kept r (State.restoreTeam s t smB wrB dmB) := by
  unfold State.restoreTeam
  try dsimp -iota only
  repeat' with_reducible first
    | assumption
    | intro _
    | apply State.wr_kept | apply State.onTeam_kept | apply Kept.ite | apply Kept.foldl | apply Kept.foldlP
    | simp only [Kept.record_iff]

theorem State.restoreNow_kept (bs : List Byte) (h : Kept r s) : KeptP r (State.restoreNow s bs) := by
  unfold State.restoreNow
  try dsimp -iota only
  repeat' with_reducible first
    | assumption
    | intro _
    | apply State.clr_kept | apply State.putPair_kept | apply State.each_kept | apply State.setMode_kept | apply State.take_kept | apply State.clearHold_kept | apply State.restoreDs_kept | apply State.restoreTeam_kept | apply Kept.ite | apply KeptP.ite | apply Kept.foldl | apply Kept.foldlP
    | simp only [Kept.record_iff, KeptP.mk_iff]

theorem State.restoreStart_kept (d : BitVec 512) (h : Kept r s) : KeptP r (State.restoreStart d s) := by
  unfold State.restoreStart
  try dsimp -iota only
  repeat' with_reducible first
    | assumption
    | apply State.put_kept
    | simp only [Kept.record_iff, KeptP.mk_iff]
    | refine KeptP.of_eq (by assumption) ?_ | refine KeptO.of_eq (by assumption) ?_ | refine KeptOP.of_eq (by assumption) ?_ | refine KeptE.of_eq (by assumption) ?_
    | split

theorem State.restoreEnd_kept (dma : HostDma) (crc : List HostCrc) (d : BitVec 512) (h : Kept r s) : KeptP r (State.restoreEnd dma crc d s) := by
  unfold State.restoreEnd
  try dsimp -iota only
  repeat' with_reducible first
    | assumption
    | apply State.fromRegion_kept | apply State.restoreNow_kept | apply Kept.ite | apply KeptP.ite | (refine Kept.of_fst ?_; apply State.fromRegion_kept) | (refine Kept.of_fst ?_; apply State.restoreNow_kept) | apply Kept.fst_ite
    | simp only [Kept.record_iff, KeptP.mk_iff]
    | refine KeptP.of_eq (by assumption) ?_ | refine KeptO.of_eq (by assumption) ?_ | refine KeptOP.of_eq (by assumption) ?_ | refine KeptE.of_eq (by assumption) ?_
    | split

theorem State.restorePoll_kept (dma : HostDma) (crc : List HostCrc) (c : Taken) (h : Kept r s) : KeptOP r (State.restorePoll dma crc c s) := by
  unfold State.restorePoll
  try dsimp -iota only
  repeat' with_reducible first
    | assumption
    | apply State.restoreEnd_kept | apply KeptOP.some' | apply KeptOP.some | apply Kept.ite | apply KeptOP.ite | apply KeptP.ite | exact KeptOP.none
    | simp only [KeptP.mk_iff]

theorem execSnapshotRestore_kept (dma : HostDma) (crc : List HostCrc) (s : State) : KeptOut s (execSnapshotRestore dma crc s) := by
  have h := Kept.refl s
  unfold execSnapshotRestore
  try dsimp -iota only
  repeat' with_reducible first
    | assumption
    | intro _
    | apply State.cmdLong_kept | apply State.restoreStart_kept | apply State.restorePoll_kept | apply KeptOut.next | apply KeptOP.some' | apply KeptOP.some | apply KeptOP.ite | exact KeptOP.none
    | simp only [KeptP.mk_iff]

end Sys2Proof.Machine
end

