-- ==== Sys2Proof/Laws/KeptTimeCmd.lean ====
section
/-! SUPPORT. What the operations of Machine/TimeCmd.lean keep (`Kept`). -/
namespace Sys2Proof.Machine

variable {r s : State}

theorem State.tbSetCmd_kept (d : BitVec 512) (h : Kept r s) : KeptP r (State.tbSetCmd d s) := by
  unfold State.tbSetCmd
  try dsimp -iota only
  repeat' with_reducible first
    | assumption
    | apply State.wr_kept | apply State.put_kept | apply State.putPair_kept | apply State.tbInc_kept | apply State.tbAdj_kept | apply State.tbSet_kept | apply Kept.ite | apply KeptP.ite
    | simp only [Kept.record_iff, KeptP.mk_iff]
    | refine KeptP.of_eq (by assumption) ?_ | refine KeptO.of_eq (by assumption) ?_ | refine KeptOP.of_eq (by assumption) ?_ | refine KeptE.of_eq (by assumption) ?_
    | split

theorem State.tbSetPoll_kept (c : Taken) (h : Kept r s) : KeptOP r (State.tbSetPoll c s) := by
  unfold State.tbSetPoll
  try dsimp -iota only
  repeat' with_reducible first
    | assumption
    | apply KeptOP.some' | apply KeptOP.some | apply Kept.ite | apply KeptOP.ite | apply KeptP.ite | exact KeptOP.none
    | simp only [KeptP.mk_iff]

theorem execTbSet_kept (s : State) : KeptOut s (execTbSet s) := by
  have h := Kept.refl s
  unfold execTbSet
  try dsimp -iota only
  repeat' with_reducible first
    | assumption
    | intro _
    | apply State.cmdLong_kept | apply State.tbSetCmd_kept | apply State.tbSetPoll_kept | apply KeptOut.next | apply KeptOP.some' | apply KeptOP.some | apply KeptOP.ite | exact KeptOP.none
    | simp only [KeptP.mk_iff]

theorem State.cmpAlloc_kept (d : BitVec 512) (h : Kept r s) : KeptP r (State.cmpAlloc d s) := by
  unfold State.cmpAlloc
  try dsimp -iota only
  repeat' with_reducible first
    | assumption
    | intro _
    | apply State.wr_kept | apply State.put_kept | apply State.set1_kept
    | simp only [Kept.record_iff, KeptP.mk_iff]
    | refine KeptP.of_eq (by assumption) ?_ | refine KeptO.of_eq (by assumption) ?_ | refine KeptOP.of_eq (by assumption) ?_ | refine KeptE.of_eq (by assumption) ?_
    | split

theorem execCmpAlloc_kept (s : State) : KeptOut s (execCmpAlloc s) := by
  have h := Kept.refl s
  unfold execCmpAlloc
  try dsimp -iota only
  repeat' with_reducible first
    | assumption
    | intro _
    | apply State.cmd_kept | apply State.cmpAlloc_kept | apply KeptOut.next
    | simp only [KeptP.mk_iff]

theorem State.cmpFree_kept (d : BitVec 512) (h : Kept r s) : KeptP r (State.cmpFree d s) := by
  unfold State.cmpFree
  try dsimp -iota only
  repeat' with_reducible first
    | assumption
    | apply State.clr_kept | apply Kept.ite | apply KeptP.ite
    | simp only [Kept.record_iff, KeptP.mk_iff]

theorem execCmpFree_kept (s : State) : KeptOut s (execCmpFree s) := by
  have h := Kept.refl s
  unfold execCmpFree
  try dsimp -iota only
  repeat' with_reducible first
    | assumption
    | intro _
    | apply State.cmd_kept | apply State.eventPost_kept | apply State.cmpFree_kept | apply KeptOut.next | apply Kept.ite | apply KeptP.ite
    | simp only [KeptP.mk_iff]

theorem State.tpTxBegin_kept (dma : HostDma) (d : BitVec 512) (h : Kept r s) : KeptP r (State.tpTxBegin dma d s) := by
  unfold State.tpTxBegin
  try dsimp -iota only
  repeat' with_reducible first
    | assumption
    | apply State.put_kept | apply State.tpGo_kept | apply State.setTpBytes_kept
    | simp only [Kept.record_iff, KeptP.mk_iff]
    | refine KeptP.of_eq (by assumption) ?_ | refine KeptO.of_eq (by assumption) ?_ | refine KeptOP.of_eq (by assumption) ?_ | refine KeptE.of_eq (by assumption) ?_
    | split

theorem State.tpTxPoll_kept (c : Taken) (h : Kept r s) : KeptOP r (State.tpTxPoll c s) := by
  unfold State.tpTxPoll
  try dsimp -iota only
  repeat' with_reducible first
    | assumption
    | intro _
    | apply State.txqCount_kept | apply KeptOP.some' | apply KeptOP.some | apply Kept.ite | apply KeptOP.ite | apply KeptP.ite | exact KeptOP.none
    | simp only [Kept.record_iff, KeptP.mk_iff]
    | refine KeptP.of_eq (by assumption) ?_ | refine KeptO.of_eq (by assumption) ?_ | refine KeptOP.of_eq (by assumption) ?_ | refine KeptE.of_eq (by assumption) ?_
    | split

theorem execTpTx_kept (dma : HostDma) (s : State) : KeptOut s (execTpTx dma s) := by
  have h := Kept.refl s
  unfold execTpTx
  try dsimp -iota only
  repeat' with_reducible first
    | assumption
    | intro _
    | apply State.pollStarted_kept | apply State.cmdLong_kept | apply State.tpTxBegin_kept | apply State.tpTxPoll_kept | apply KeptOut.next | apply KeptOP.some' | apply KeptOP.some | apply Kept.ite | apply KeptP.ite | apply Kept.getD | apply KeptOP.ite | exact KeptOP.none
    | simp only [KeptP.mk_iff]

theorem State.tpRxTake_kept (c : BitVec 512) (h : Kept r s) : KeptOP r (State.tpRxTake c s) := by
  unfold State.tpRxTake
  try dsimp -iota only
  repeat' with_reducible first
    | assumption
    | apply State.clr_kept | apply State.toHost_kept | apply KeptOP.some' | apply KeptOP.some | exact KeptOP.none
    | simp only [Kept.record_iff, KeptP.mk_iff]
    | refine KeptP.of_eq (by assumption) ?_ | refine KeptO.of_eq (by assumption) ?_ | refine KeptOP.of_eq (by assumption) ?_ | refine KeptE.of_eq (by assumption) ?_
    | split

theorem State.tpRxBegin_kept (d : BitVec 512) (h : Kept r s) : KeptP r (State.tpRxBegin d s) := by
  unfold State.tpRxBegin
  try dsimp -iota only
  repeat' with_reducible first
    | assumption
    | apply State.tpRxTake_kept | apply Kept.ite | apply KeptP.ite
    | simp only [Kept.record_iff, KeptP.mk_iff]
    | refine KeptP.of_eq (by assumption) ?_ | refine KeptO.of_eq (by assumption) ?_ | refine KeptOP.of_eq (by assumption) ?_ | refine KeptE.of_eq (by assumption) ?_
    | split

theorem State.tpRxPoll_kept (c : Taken) (h : Kept r s) : KeptOP r (State.tpRxPoll c s) := by
  unfold State.tpRxPoll
  try dsimp -iota only
  repeat' with_reducible first
    | assumption
    | apply State.tpRxTake_kept | apply KeptOP.some' | apply KeptOP.some | exact KeptOP.none
    | simp only [KeptP.mk_iff]

theorem execTpRx_kept (s : State) : KeptOut s (execTpRx s) := by
  have h := Kept.refl s
  unfold execTpRx
  try dsimp -iota only
  repeat' with_reducible first
    | assumption
    | intro _
    | apply State.pollStarted_kept | apply State.cmdLong_kept | apply State.tpRxBegin_kept | apply State.tpRxPoll_kept | apply KeptOut.next | apply KeptOP.some' | apply KeptOP.some | apply Kept.getD | apply KeptOP.ite | exact KeptOP.none
    | simp only [KeptP.mk_iff]

theorem execTpRxWaitExpiry_kept (s : State) : KeptOut s (execTpRxWaitExpiry s) := by
  have h := Kept.refl s
  unfold execTpRxWaitExpiry
  try dsimp -iota only
  repeat' with_reducible first
    | assumption
    | intro _
    | apply State.pollStarted_kept | apply State.tpRxTake_kept | apply KeptOut.next | apply Kept.ite | apply Kept.getD | apply KeptOP.ite | apply KeptOP.some

end Sys2Proof.Machine
end

