-- ==== Sys2Proof/Laws/KeptTimeout.lean ====
section
/-! SUPPORT. What the operations of Machine/Timeout.lean keep (`Kept`). -/
namespace Sys2Proof.Machine

variable {r s : State}

theorem State.finishLate_kept (m i : Nat) (late : Bool) (a1 : Resp) (h : Kept r s) : Kept r (State.finishLate s m i late a1) := by
  unfold State.finishLate
  try dsimp -iota only
  repeat' with_reducible first
    | assumption
    | intro _
    | apply State.onBox_kept | apply State.respond_kept
    | simp only [Kept.record_iff]
    | refine KeptP.of_eq (by assumption) ?_ | refine KeptO.of_eq (by assumption) ?_ | refine KeptOP.of_eq (by assumption) ?_ | refine KeptE.of_eq (by assumption) ?_
    | split

theorem State.muted_kept (m i : Nat) (h : Kept r s) : Kept r (State.muted s m i) := by
  unfold State.muted
  try dsimp -iota only
  repeat' with_reducible first
    | assumption
    | intro _
    | apply State.onBox_kept
    | simp only [Kept.record_iff]

theorem State.lateRun_kept (i op : Nat) (h : Kept r s) : KeptOP r (State.lateRun s i op) := by
  unfold State.lateRun
  try dsimp -iota only
  repeat' with_reducible first
    | assumption
    | apply State.atH_kept | apply State.dsEnable_kept | apply State.muted_kept | apply KeptOP.some' | apply KeptOP.some | apply Kept.ite | apply KeptOP.ite | apply KeptP.ite | apply Kept.getD | exact KeptOP.none
    | simp only [KeptP.mk_iff]

theorem State.latePoll_kept (c : Taken) (h : Kept r s) : KeptOP r (State.latePoll s c) := by
  unfold State.latePoll
  try dsimp -iota only
  repeat' with_reducible first
    | assumption
    | apply State.copyPoll_kept | apply State.capCtlPoll_kept | apply State.teamPowerPoll_kept | apply State.debugPoll_kept | apply State.runStartPoll_kept | apply State.linkUpPoll_kept | apply State.elasticPoll_kept | apply State.savePoll_kept | apply State.tbSetPoll_kept | apply State.tpTxPoll_kept | apply State.tpRxPoll_kept | apply KeptOP.some' | apply KeptOP.some | apply Kept.ite | apply KeptOP.ite | apply KeptP.ite | exact KeptOP.none
    | simp only [KeptP.mk_iff]

theorem State.withdraw_kept (j : Nat) (h : Kept r s) : Kept r (State.withdraw s j) := by
  unfold State.withdraw
  try dsimp -iota only
  repeat' with_reducible first
    | assumption
    | apply State.clr_kept
    | simp only [Kept.record_iff]

theorem State.scramble_kept (d : BitVec 512) (h : Kept r s) : Kept r (State.scramble s d) := by
  unfold State.scramble
  try dsimp -iota only
  repeat' with_reducible first
    | assumption
    | apply State.spendN_kept | apply State.toRegion_kept | apply Kept.ite
    | simp only [Kept.record_iff]
    | refine KeptP.of_eq (by assumption) ?_ | refine KeptO.of_eq (by assumption) ?_ | refine KeptOP.of_eq (by assumption) ?_ | refine KeptE.of_eq (by assumption) ?_
    | split

theorem State.cutShort_kept (c : Taken) (h : Kept r s) : Kept r (State.cutShort s c) := by
  unfold State.cutShort
  try dsimp -iota only
  repeat' with_reducible first
    | assumption
    | apply State.clr_kept | apply State.stopAlign_kept | apply State.unload_kept | apply State.backToStep_kept | apply State.withdraw_kept | apply State.scramble_kept | apply Kept.ite
    | simp only [Kept.record_iff]

theorem State.lateAt_kept (m i : Nat) (h : Kept r s) : Kept r (State.lateAt s m i) := by
  unfold State.lateAt
  try dsimp -iota only
  repeat' with_reducible first
    | assumption
    | intro _
    | apply State.onBox_kept
    | simp only [Kept.record_iff]

theorem State.deadline_kept (m i : Nat) (done : Bool) (h : Kept r s) : Kept r (State.deadline m i done s) := by
  unfold State.deadline
  try dsimp -iota only
  repeat' with_reducible first
    | assumption
    | apply State.respond_kept | apply State.finishLate_kept | apply State.lateRun_kept | apply State.latePoll_kept | apply State.cutShort_kept | apply State.lateAt_kept | apply Kept.ite
    | simp only [Kept.record_iff]
    | refine KeptP.of_eq (by assumption) ?_ | refine KeptO.of_eq (by assumption) ?_ | refine KeptOP.of_eq (by assumption) ?_ | refine KeptE.of_eq (by assumption) ?_
    | split

theorem execCommandTimeout_kept (m : Fin 4) (i : Nat) (done : Bool) (s : State) : KeptOut s (execCommandTimeout m i done s) := by
  have h := Kept.refl s
  unfold execCommandTimeout
  try dsimp -iota only
  repeat' with_reducible first
    | assumption
    | apply State.deadline_kept | apply KeptOut.next

end Sys2Proof.Machine
end

