-- ==== Sys2Proof/Laws/Step.lean ====
section
/-! SUPPORT. What one step of a Team does and leaves alone: the relation TK (all but the Team's memory side and the register of its
row stays), one lemma per operation of a step, and what the three parts of a step leave. -/
namespace Sys2Proof.Machine

/-- what a step's later operations keep of a Team -/
def Team.core (m : Team) : Team := { m with rmrd := 0, gwReq := 0, halted := false }

/-- The registers of a Team that show its progress: TEAM_STEP, TEAM_PROG and TEAM_STRIDE_STAT. -/
def Tick (a : Nat) : Prop := 0x400000 ≤ a ∧ (a % 0x400 = 0xD4 ∨ a % 0x400 = 0x140 ∨ a % 0x400 = 0x158)

theorem tick_prog (t : Nat) : Tick (Adr.TEAM_PROG t) := by unfold Tick Adr.TEAM_PROG; omega
theorem tick_step (t : Nat) : Tick (Adr.TEAM_STEP t) := by unfold Tick Adr.TEAM_STEP; omega
theorem tick_stride (t : Nat) : Tick (Adr.TEAM_STRIDE_STAT t) := by unfold Tick Adr.TEAM_STRIDE_STAT; omega
theorem noTick (k t : Nat) (h : k % 0x400 ≠ 0xD4 ∧ k % 0x400 ≠ 0x140 ∧ k % 0x400 ≠ 0x158) : ¬ Tick (k + 0x400 * t) := by unfold Tick; omega
theorem noTickLo {k : Nat} (h : k < 0x400000) : ¬ Tick k := by unfold Tick; omega
theorem noTickGw (k : Nat) (h : k < 0x400000) : ¬ Tick k := noTickLo h
theorem Tick.ne {a b : Nat} (h : Tick a) (k : ¬ Tick b) : a ≠ b := fun e => k (e ▸ h)

/-- From r to s, Team t keeps its core, every other Team keeps everything, and the registers of progress keep their values. -/
structure TK (t : Nat) (r s : State) : Prop where
  core : (s.team t).core = (r.team t).core
  other : ∀ x, x ≠ t → s.team x = r.team x
  tick : ∀ a, Tick a → s.rd a = r.rd a
  small : s.fuses.small = r.fuses.small

variable {r s : State} {t : Nat}

theorem TK.refl (s : State) : TK t s s := ⟨rfl, fun _ _ => rfl, fun _ _ => rfl, rfl⟩

theorem TK.of {u : State} (h : TK t r s) (ht : u.teams = s.teams) (hp : ∀ a, Tick a → u.rd a = s.rd a) (hf : u.fuses.small = s.fuses.small) : TK t r u :=
  ⟨by rw [← h.core]; simp [State.team, ht], fun x hx => by rw [← h.other x hx]; simp [State.team, ht], fun a ha => (hp a ha).trans (h.tick a ha), hf.trans h.small⟩

theorem TK.wr (h : TK t r s) (a : Nat) (v : Word) (ha : ¬ Tick a) : TK t r (s.wr a v) :=
  h.of rfl (fun _ hx => State.rd_wr_other s v (hx.ne ha)) rfl
theorem TK.put (h : TK t r s) (f : Fld) (v : Nat) (ha : ¬ Tick f.addr) : TK t r (s.put f v) := h.wr _ _ ha
theorem TK.set1 (h : TK t r s) (f : Fld) (ha : ¬ Tick f.addr) : TK t r (s.set1 f) := h.wr _ _ ha
theorem TK.sat (h : TK t r s) (f : Fld) (v : Nat) (ha : ¬ Tick f.addr) : TK t r (s.sat f v) := h.wr _ _ ha
theorem TK.onTeam (h : TK t r s) (f : Team → Team) (hf : ∀ m, (f m).core = m.core) : TK t r (s.onTeam t f) := by
  refine ⟨?_, fun x hx => ?_, h.tick, h.small⟩
  · rw [← h.core]; simp [State.onTeam, hf]
  · rw [← h.other x hx]; simp [State.onTeam, State.team_setTeam_other s _ hx]
theorem TK.setTeam (h : TK t r s) (m : Team) (hf : m.core = (s.team t).core) : TK t r (s.setTeam t m) := by
  refine ⟨?_, fun x hx => ?_, h.tick, h.small⟩
  · rw [← h.core]; simp [hf]
  · rw [← h.other x hx]; simp [State.team_setTeam_other s _ hx]
theorem TK.ite {c : Prop} [Decidable c] {a b : State} (h : TK t r a) (k : TK t r b) : TK t r (if c then a else b) := by split <;> assumption
theorem TK.foldl {α : Type} {f : State → α → State} (l : List α) (h : TK t r s) (hf : ∀ s x, TK t r s → TK t r (f s x)) : TK t r (l.foldl f s) := by
  induction l generalizing s with
  | nil => exact h
  | cons x l ih => exact ih (hf s x h)


theorem State.groomRec_tk (g sev code : Nat) (arg : BitVec 48) (h : TK t r s) : TK t r (s.groomRec g sev code arg) :=
  h.of (by simp) (fun _ hx => State.groomRec_rd _ _ _ _ _ (hx.ne (noTickLo (by decide)))) (by simp)
theorem State.postEvent_tk (m : Nat) (hm : m < 4) (e : Event) (h : TK t r s) : TK t r (s.postEvent m e) :=
  h.of (by simp) (fun _ hx => State.postEvent_rd _ _ _ (hx.ne (noTickLo (by unfold Adr.MBX_EVTLOST; omega))) (hx.ne (noTickLo (by unfold Adr.MBX_STAT; omega)))) (by simp)
theorem State.spoil_tk (n : Nat) (h : TK t r s) : TK t r (s.spoil n) :=
  h.of (by simp) (fun _ hx => State.spoil_rd _ _ (hx.ne (noTickLo (by decide))) (hx.ne (noTickLo (by decide))) (hx.ne (noTickLo (by decide)))) (by simp)
theorem State.respond_tk (m : Nat) (hm : m < 4) (c : Taken) (l : Bool) (a : Resp) (h : TK t r s) : TK t r (s.respond m c l a) :=
  h.of (by simp) (fun _ hx => State.respond_rd _ _ _ _ _ (hx.ne (noTickLo (by unfold Adr.MBX_RSP_PI; omega))) (hx.ne (noTickLo (by unfold causeFld; split <;> simp [Adr.PE_INT_STAT_LO, Adr.PE_INT_STAT_HI])))) (by simp)
theorem State.overrun_tk (src : Nat) (h : TK t r s) : TK t r (s.overrun src) :=
  h.of (by simp) (fun _ hx => State.overrun_rd _ _ (hx.ne (noTickLo (by decide))) (hx.ne (noTickLo (by decide))) (hx.ne (noTickLo (by decide)))) (by simp)
theorem State.corrected_tk (f : Fld) (k : Nat) (ha : ¬ Tick f.addr) (h : TK t r s) (x : Nat) : TK t r (s.corrected x f k) :=
  h.of (by simp) (fun _ hx => State.corrected_rd _ _ _ _ (hx.ne ha)) (by simp)
theorem State.say_tk (n : Nat) (m : Flit) (h : TK t r s) : TK t r (s.say n m) := h.of rfl (fun _ _ => rfl) rfl
theorem State.sayAll_tk (ns : List Nat) (m : Flit) (h : TK t r s) : TK t r (s.sayAll ns m) := TK.foldl _ h  (fun _ _ h => State.say_tk _ _ h)
theorem TK.record_iff {latch routers chip ds cap lanes tb chans ht hotRecord probes links boxes pcie sb trace sec gddr rdata free pending} :
    TK t r (State.mk s.regs latch s.teams routers chip s.fuses ds cap lanes tb chans ht hotRecord probes links boxes pcie sb trace sec gddr rdata free pending) ↔ TK t r s :=
  ⟨fun h => ⟨h.core, h.other, h.tick, h.small⟩, fun h => ⟨h.core, h.other, h.tick, h.small⟩⟩
theorem TK.clr (h : TK t r s) (f : Fld) (ha : ¬ Tick f.addr) : TK t r (s.clr f) := h.wr _ _ ha
theorem TK.putPair (h : TK t r s) (a b v : Nat) (ha : ¬ Tick a) (hb : ¬ Tick b) : TK t r (s.putPair a b v) := (h.wr _ _ ha).wr _ _ hb
/-- What a hold and the end of capture leave alone: a Team's registers of progress and CHIP_MODE. -/
def Deep (a : Nat) : Prop := Tick a ∨ a = Adr.CHIP_MODE

theorem notDeep {k : Nat} (h : k < 0x400000 ∧ k ≠ Adr.CHIP_MODE) : ¬ Deep k := fun d => d.elim (noTickLo h.1) h.2
theorem Deep.ne {a b : Nat} (h : Deep a) (k : ¬ Deep b) : a ≠ b := fun e => k (e ▸ h)

/-- From r to s every Team, the grade and the registers of `Deep` stay. -/
structure Far (r s : State) : Prop where
  teams : s.teams = r.teams
  deep : ∀ a, Deep a → s.rd a = r.rd a
  small : s.fuses.small = r.fuses.small

theorem Far.refl (s : State) : Far s s := ⟨rfl, fun _ _ => rfl, rfl⟩
theorem Far.of {u : State} (h : Far r s) (ht : u.teams = s.teams) (hd : ∀ a, Deep a → u.rd a = s.rd a)
    (hf : u.fuses.small = s.fuses.small) : Far r u :=
  ⟨ht.trans h.teams, fun a ha => (hd a ha).trans (h.deep a ha), hf.trans h.small⟩
theorem Far.wr (h : Far r s) (a : Nat) (v : Word) (ha : ¬ Deep a) : Far r (s.wr a v) :=
  h.of rfl (fun _ hx => State.rd_wr_other s v (hx.ne ha)) rfl
theorem Far.put (h : Far r s) (f : Fld) (v : Nat) (ha : ¬ Deep f.addr) : Far r (s.put f v) := h.wr _ _ ha
theorem Far.set1 (h : Far r s) (f : Fld) (ha : ¬ Deep f.addr) : Far r (s.set1 f) := h.wr _ _ ha
theorem Far.clr (h : Far r s) (f : Fld) (ha : ¬ Deep f.addr) : Far r (s.clr f) := h.wr _ _ ha
theorem Far.sat (h : Far r s) (f : Fld) (v : Nat) (ha : ¬ Deep f.addr) : Far r (s.sat f v) := h.wr _ _ ha
theorem Far.putPair (h : Far r s) (a b v : Nat) (ha : ¬ Deep a) (hb : ¬ Deep b) : Far r (s.putPair a b v) := (h.wr _ _ ha).wr _ _ hb
theorem Far.ite {c : Prop} [Decidable c] {a b : State} (h : Far r a) (k : Far r b) : Far r (if c then a else b) := by split <;> assumption
theorem Far.foldl {α : Type} {f : State → α → State} (l : List α) (h : Far r s) (hf : ∀ s x, Far r s → Far r (f s x)) : Far r (l.foldl f s) := by
  induction l generalizing s with
  | nil => exact h
  | cons x l ih => exact ih (hf s x h)
theorem Far.record_iff {latch routers chip ds cap lanes tb chans ht hotRecord probes links boxes pcie sb trace sec gddr rdata free pending} :
    Far r (State.mk s.regs latch s.teams routers chip s.fuses ds cap lanes tb chans ht hotRecord probes links boxes pcie sb trace sec gddr rdata free pending) ↔ Far r s :=
  ⟨fun h => ⟨h.teams, h.deep, h.small⟩, fun h => ⟨h.teams, h.deep, h.small⟩⟩
theorem Far.tk (h : Far r s) {q : State} (k : TK t q r) : TK t q s := k.of h.teams (fun a ha => h.deep a (Or.inl ha)) h.small
theorem Far.mode (h : Far r s) : s.rd Adr.CHIP_MODE = r.rd Adr.CHIP_MODE := h.deep _ (Or.inr rfl)

theorem State.say_far (n : Nat) (m : Flit) (h : Far r s) : Far r (s.say n m) := h.of rfl (fun _ _ => rfl) rfl
theorem State.sayAll_far (ns : List Nat) (m : Flit) (h : Far r s) : Far r (s.sayAll ns m) := Far.foldl _ h (fun _ _ h => State.say_far _ _ h)
theorem State.postEvent_far (m : Nat) (hm : m < 4) (e : Event) (h : Far r s) : Far r (s.postEvent m e) :=
  h.of (by simp) (fun _ hx => State.postEvent_rd _ _ _ (hx.ne (notDeep (by unfold Adr.MBX_EVTLOST Adr.CHIP_MODE; omega)))
    (hx.ne (notDeep (by unfold Adr.MBX_STAT Adr.CHIP_MODE; omega)))) (by simp)
theorem State.undecide_far (h : Far r s) : Far r s.undecide := by
  unfold State.undecide
  split
  · refine Far.ite ?_ h
    have k (u : State) (hu : Far r u) (l : List Nat) : Far r (u.each 64 (fun d s => s.set1If (l.contains d) (Reg.DS_DOM_FLAGS_HOST_GO d))) := by
      refine (show ∀ x, Far r x → Far r (x.each 64 _) from fun x hx => ?_) u hu
      unfold State.each
      have : ∀ (ds : List Nat), (∀ d ∈ ds, d < 64) → ∀ x, Far r x →
          Far r (ds.foldl (fun s d => s.set1If (l.contains d) (Reg.DS_DOM_FLAGS_HOST_GO d)) x) := by
        intro ds
        induction ds with
        | nil => exact fun _ x hx => hx
        | cons d ds ih =>
          intro hd x hx
          have h64 := hd d (List.mem_cons_self ..)
          exact ih (fun e he => hd e (List.mem_cons_of_mem _ he)) _ (Far.ite (hx.set1 _ (notDeep (by
            simp only [Adr.DS_DOM_FLAGS, Adr.CHIP_MODE]; omega))) hx)
      exact this _ (fun d hd => List.mem_range.1 hd) x hx
    refine k _ ?_ _
    exact ((((Far.record_iff.2 h).wr _ _ (notDeep (by decide))).put _ _ (notDeep (by decide))).put _ _ (notDeep (by decide))).put _ _ (notDeep (by decide))
  · exact h
theorem State.adoptHold_far (hh rs pt : Nat) (via : List Nat) (h : Far r s) : Far r (s.adoptHold hh rs pt via) := by
  unfold State.adoptHold
  extract_lets late hh s1 s2 s3
  have k1 : Far r s1 := Far.ite (h.sat _ _ (notDeep (by decide))) h
  have k2 : Far r s2 := ((k1.set1 _ (notDeep (by decide))).clr _ (notDeep (by decide))).putPair _ _ _ (notDeep (by decide)) (notDeep (by decide))
  exact Far.ite h (State.sayAll_far _ _ (State.undecide_far (Far.record_iff.2 k2)))
theorem State.adoptHold_tk (hh rs pt : Nat) (via : List Nat) (h : TK t r s) : TK t r (s.adoptHold hh rs pt via) :=
  (State.adoptHold_far hh rs pt via (Far.refl s)).tk h
theorem State.requestHold_tk (n : Nat) (h : TK t r s) : TK t r (s.requestHold n) := State.adoptHold_tk _ _ _ _ h
theorem State.checkReport_tk (c : Nat) (h : TK t r s) : TK t r (s.checkReport t c) := by
  unfold State.checkReport; dsimp only
  split
  · have k := h.onTeam (fun m => { m with halted := true }) (fun m => rfl)
    split
    · exact k
    · refine State.requestHold_tk _ (State.postEvent_tk _ (by decide) _ (State.groomRec_tk _ _ _ _ ?_))
      exact TK.of k rfl (fun _ _ => rfl) rfl
  · exact h
theorem State.rtrLoc_tk (k p a : Nat) (h : TK t r s) : TK t r (s.rtrLoc t k p a) := by
  unfold State.rtrLoc
  exact TK.ite h (((((h.set1 _ (noTick _ _ (by decide))).put _ _ (noTick _ _ (by decide))).put _ _ (noTick _ _ (by decide))).put _ _ (noTick _ _ (by decide))).put _ _ (noTick _ _ (by decide)))
theorem State.rtrFault_tk (b k p a : Nat) (h : TK t r s) : TK t r (s.rtrFault t b k p a) := by
  unfold State.rtrFault; dsimp only
  have k1 := State.rtrLoc_tk k p a (h.set1 ⟨Adr.RTR_ERR t, b, b⟩ (noTick _ _ (by decide)))
  apply State.checkReport_tk
  refine TK.ite (State.spoil_tk _ ?_) ?_ <;> exact TK.ite k1 (State.groomRec_tk _ _ _ _ k1)
theorem State.bpErrs_tk (p : Nat) (es : List BpErr) (h : TK t r s) : TK t r (s.bpErrs t p es) := by
  unfold State.bpErrs
  split
  · exact h
  · rename_i e0 l0
    generalize e0 :: l0 = l
    dsimp only
    apply State.checkReport_tk
    have k := TK.foldl (f := fun s (e : BpErr) => s.set1 ⟨Adr.TEAM_BP_ERR t, e.kind, e.kind⟩) l h  (fun _ _ h => h.set1 _ (noTick _ _ (by decide)))
    refine TK.ite k (State.postEvent_tk _ (by decide) _ (State.groomRec_tk _ _ _ _ ?_))
    exact (((((k.set1 _ (noTick _ _ (by decide))).put _ _ (noTick _ _ (by decide))).put _ _ (noTick _ _ (by decide))).put _ _ (noTick _ _ (by decide))).put _ _ (noTick _ _ (by decide))).put _ _ (noTick _ _ (by decide))
theorem State.wuErrs_tk (n : Nat) (es : List WuErr) (h : TK t r s) : TK t r (s.wuErrs t n es) := by
  unfold State.wuErrs
  split
  · exact h
  · rename_i e0 l0
    generalize e0 :: l0 = l
    dsimp only
    apply State.checkReport_tk
    have k := TK.foldl (f := fun s (e : WuErr) => s.set1 ⟨Adr.TEAM_WU_ERR t, e.kind, e.kind⟩) l h  (fun _ _ h => h.set1 _ (noTick _ _ (by decide)))
    refine TK.ite k (State.postEvent_tk _ (by decide) _ (State.groomRec_tk _ _ _ _ ?_))
    exact ((((k.set1 _ (noTick _ _ (by decide))).put _ _ (noTick _ _ (by decide))).put _ _ (noTick _ _ (by decide))).put _ _ (noTick _ _ (by decide))).put _ _ (noTick _ _ (by decide))
theorem State.dmLoc_tk (k p a : Nat) (h : TK t r s) : TK t r (s.dmLoc t k p a) := by
  unfold State.dmLoc
  exact TK.ite h ((((h.set1 _ (noTick _ _ (by decide))).put _ _ (noTick _ _ (by decide))).put _ _ (noTick _ _ (by decide))).put _ _ (noTick _ _ (by decide)))
theorem State.dmBusy_tk (a : Nat) (h : TK t r s) : TK t r (s.dmBusy t a) :=
  State.checkReport_tk _ (State.dmLoc_tk _ _ _ (h.set1 _ (noTick _ _ (by decide))))
theorem State.dmUe_tk (p a : Nat) (h : TK t r s) : TK t r (s.dmUe t p a) :=
  State.spoil_tk _ (State.postEvent_tk _ (by decide) _ (State.groomRec_tk _ _ _ _ (State.dmLoc_tk _ _ _ (h.set1 _ (noTick _ _ (by decide))))))
theorem State.dmChecked_tk (p a : Nat) (c : MemCheck) (h : TK t r s) : TK t r (s.dmChecked t p a c) := by
  unfold State.dmChecked
  split
  · exact h
  · exact (State.corrected_tk _ _ (noTick _ _ (by decide)) h t).set1 _ (noTick _ _ (by decide))
  · exact State.dmUe_tk _ _ h
theorem State.dmBankOff_tk (p a : Nat) (h : TK t r s) : TK t r (s.dmBankOff t p a) := State.dmLoc_tk _ _ _ (h.set1 _ (noTick _ _ (by decide)))
/-- `m` with what the ports of design memory hold. -/
def Team.ports (m : Team) (d : List (Nat × W24)) (q : Option (Nat × W24)) (b : Bool) (x y : Option W24) : Team :=
  { m with dm := d, rmw := q, rmwDone := b, dmrdNext := x, pbrdNext := y }

/-- The word at an address that no port writes stays. -/
theorem Team.word_setWord_other (m : Team) (a x : Nat) (w : W24) (h : a ≠ x) : (m.setWord a w).word x = m.word x := by
  unfold Team.setWord Team.word; rw [Tab.get_set, if_neg (Ne.symm h)]

theorem rmw_regs (s : State) (t : Nat) : (s.rmwWrite t).regs = s.regs := by
  unfold State.rmwWrite; dsimp only; split
  · split <;> rfl
  · rfl

theorem State.rmwWrite_facts (s : State) (t : Nat) :
    (∃ d b, (s.rmwWrite t).team t = { s.team t with dm := d, rmwDone := b }
      ∧ ∀ x, (∀ y w, (s.team t).rmw = some (y, w) → y ≠ x) → Tab.get (fun _ => 0#24) d x = (s.team t).word x)
    ∧ (∀ x, x ≠ t → (s.rmwWrite t).team x = s.team x) ∧ (s.rmwWrite t).fuses.small = s.fuses.small := by
  unfold State.rmwWrite
  dsimp only
  split
  · next a w hr =>
    split
    · exact ⟨⟨_, _, rfl, fun _ _ => rfl⟩, fun _ _ => rfl, rfl⟩
    · refine ⟨⟨_, _, State.team_setTeam_same _ _ _, fun x hx => ?_⟩, fun x hx => State.team_setTeam_other _ _ hx, rfl⟩
      split
      · rw [Tab.get_set, if_neg (Ne.symm (hx a w hr))]; rfl
      · rfl
  · exact ⟨⟨_, _, rfl, fun _ _ => rfl⟩, fun _ _ => rfl, rfl⟩

/-- What the ports of design memory do in a step: the Team's core keeps all but what they hold, and an address that neither port
writes keeps its word. -/
theorem State.dmStep_facts (s : State) (t : Nat) (a b : Option PortUse) (c : StepChecks) :
    (∃ d q o x y, ((s.dmStep t a b c).team t).core = (s.team t).core.ports d q o x y
      ∧ ∀ z, (∀ y w, (s.team t).rmw = some (y, w) → y ≠ z) → (∀ u, a = some u → u.write.isSome = true → u.addr ≠ z)
        → (∀ v, b = some v → v.writes = true → v.addr ≠ z) → Tab.get (fun _ => 0#24) d z = (s.team t).word z)
    ∧ (∀ x, x ≠ t → (s.dmStep t a b c).team x = s.team x) ∧ (∀ x, Tick x → (s.dmStep t a b c).rd x = s.rd x)
    ∧ (s.dmStep t a b c).fuses.small = s.fuses.small := by
  obtain ⟨⟨d0, o0, e0, w0⟩, x0, f0⟩ := State.rmwWrite_facts s t
  have g0 := rmw_regs s t
  unfold State.dmStep
  extract_lets m ua ub hit s1 m1 openA rdA m2 m3 openB rdB m4 m5 s2 s3 s4 s5 s6
  have ha : ua = none ∨ ua = a := by
    unfold ua State.served; split
    · split; exact Or.inr rfl; exact Or.inl rfl
    · exact Or.inl rfl
  have hb : ub = none ∨ ub = b := by
    unfold ub State.served; split
    · split; exact Or.inr rfl; exact Or.inl rfl
    · exact Or.inl rfl
  have hm1 : m1 = { s.team t with dm := d0, rmwDone := o0 } := e0
  have c2 : ∃ d, m2 = { m1 with dm := d } ∧ ∀ z, (∀ u, a = some u → u.write.isSome = true → u.addr ≠ z) → Tab.get (fun _ => 0#24) d z = m1.word z := by
    unfold m2
    clear_value ua m1; clear * - ha
    split
    · next u =>
      split
      · next w hw =>
        refine ⟨_, rfl, fun z hz => Team.word_setWord_other _ _ _ _ ?_⟩
        rcases ha with h | h
        · cases h
        · exact hz u h.symm (by rw [hw]; rfl)
      · exact ⟨m1.dm, rfl, fun _ _ => rfl⟩
    · exact ⟨m1.dm, rfl, fun _ _ => rfl⟩
  obtain ⟨d2, e2, w2⟩ := c2
  have c4 : ∃ d, m4 = { m3 with dm := d } ∧ ∀ z, (∀ v, b = some v → v.writes = true → v.addr ≠ z) → Tab.get (fun _ => 0#24) d z = m3.word z := by
    unfold m4
    clear_value ub rdB m3; clear * - hb
    split
    · next v =>
      split
      · next w hw =>
        refine ⟨_, rfl, fun z hz => Team.word_setWord_other _ _ _ _ ?_⟩
        rcases hb with h | h
        · cases h
        · exact hz v h.symm (by unfold PortUse.writes; simp [*])
      · next f hw hf =>
        refine ⟨_, rfl, fun z hz => Team.word_setWord_other _ _ _ _ ?_⟩
        rcases hb with h | h
        · cases h
        · exact hz v h.symm (by unfold PortUse.writes; simp [*])
      · exact ⟨m3.dm, rfl, fun _ _ => rfl⟩
    · exact ⟨m3.dm, rfl, fun _ _ => rfl⟩
  obtain ⟨d4, e4, w4⟩ := c4
  have k2 : TK t (s.setTeam t m5) s2 := by
    refine ⟨?_, fun x hx => ?_, fun a _ => State.rd_eq (show s2.regs = s.regs from g0) a, f0⟩
    · exact (congrArg Team.core (State.team_setTeam_same s1 t m5)).trans (congrArg Team.core (State.team_setTeam_same s t m5).symm)
    · exact ((State.team_setTeam_other s1 _ hx).trans (x0 x hx)).trans (State.team_setTeam_other s _ hx).symm
  have hc : m5.core = (s.team t).core.ports d4 m5.rmw m5.rmwDone m5.dmrdNext m5.pbrdNext := by
    unfold m5; rw [e4]; unfold m3; rw [e2, hm1]; rfl
  have hw : ∀ z, (∀ y w, (s.team t).rmw = some (y, w) → y ≠ z) → (∀ u, a = some u → u.write.isSome = true → u.addr ≠ z)
        → (∀ v, b = some v → v.writes = true → v.addr ≠ z) → Tab.get (fun _ => 0#24) d4 z = (s.team t).word z := by
    intro z h1 h2 h3
    rw [w4 z h3]
    have : m3.word z = Tab.get (fun _ => 0#24) d2 z := by unfold m3; rw [e2]; rfl
    rw [this, w2 z h2, hm1]; exact w0 z h1
  clear_value s2 hit ua ub m m5
  have k3 : TK t (s.setTeam t m5) s3 := by unfold s3; clear * - k2; split; exact State.dmBusy_tk _ k2; exact k2
  clear_value s3
  have k4 : TK t (s.setTeam t m5) s4 := by unfold s4; clear * - k3; repeat' with_reducible first | exact k3 | apply TK.ite | apply State.dmChecked_tk | split
  clear_value s4
  have k5 : TK t (s.setTeam t m5) s5 := by unfold s5; clear * - k4; repeat' with_reducible first | exact k4 | apply TK.ite | apply State.dmChecked_tk | split
  clear_value s5
  have k6 : TK t (s.setTeam t m5) s6 := by unfold s6; clear * - k5; repeat' with_reducible first | exact k5 | apply TK.ite | apply State.dmBankOff_tk | split
  clear_value s6
  have fin : ∀ u, TK t (s.setTeam t m5) u → (∃ d q o x y, (u.team t).core = (s.team t).core.ports d q o x y
      ∧ ∀ z, (∀ y w, (s.team t).rmw = some (y, w) → y ≠ z) → (∀ u, a = some u → u.write.isSome = true → u.addr ≠ z)
        → (∀ v, b = some v → v.writes = true → v.addr ≠ z) → Tab.get (fun _ => 0#24) d z = (s.team t).word z)
      ∧ (∀ x, x ≠ t → u.team x = s.team x) ∧ (∀ x, Tick x → u.rd x = s.rd x) ∧ u.fuses.small = s.fuses.small :=
    fun u k => ⟨⟨_, _, _, _, _, (k.core.trans (congrArg Team.core (State.team_setTeam_same s t m5))).trans hc, hw⟩,
      fun x hx => (k.other x hx).trans (State.team_setTeam_other s _ hx), k.tick, k.small⟩
  apply fin
  clear fin hw hc w0 w2 w4
  clear * - k6
  repeat' with_reducible first | exact k6 | apply TK.ite | apply State.dmBankOff_tk | split

theorem TK.routers (h : TK t r s) (rs : List (Nat × Router)) : TK t r { s with routers := rs } := TK.record_iff.2 h
theorem State.sendFlit_tk (x p g : Nat) (d : Flit) (h : TK t r s) : TK t r (s.sendFlit x p g d) :=
  h.of rfl (fun _ _ => rfl) rfl
theorem State.popFor_tk (x : Nat) (e : BitVec 48) (h : TK t r s) : TK t r (s.popFor x e) := by
  unfold State.popFor
  repeat' first | exact h | exact h.of rfl (fun _ _ => rfl) rfl | split
theorem State.probeStatic_tk (x p d : Nat) (h : TK t r s) : TK t r (s.probeStatic x p d) := by
  unfold State.probeStatic
  exact TK.foldl _ h (fun _ _ h => TK.ite (h.sat _ _ (by simp only [Tick, Adr.RTR_PRB_CNT]; omega)) h)
theorem State.handOver_tk (c : Nat) (hc : c < 36) (f : Flit) (h : TK t r s) : TK t r (s.handOver c f) := by
  unfold State.handOver State.sqCount
  refine TK.ite ?_ h
  have k : TK t r (s.onChan c (fun v => { v with sq := v.sq ++ [(v.seq, f)], seq := v.seq + 1 })) := h.of rfl (fun _ _ => rfl) rfl
  dsimp only
  refine TK.ite ?_ ?_
  · exact (k.put _ _ (by simp only [Tick, Adr.GW_STAT]; omega)).put _ _ (by simp only [Tick, Adr.GW_STAT]; omega)
  · exact k.put _ _ (by simp only [Tick, Adr.GW_STAT]; omega)
theorem State.attached_lt {x n : Nat} (h : s.attached x = some n) : n < 36 := by
  have := List.mem_of_find?_eq_some h
  simpa using this
/-- TK, in a mode other than IDLE: the entry to QUARANTINE then clears no staging register. -/
structure TL (t : Nat) (r s : State) : Prop where
  tk : TK t r s
  live : s.mode ≠ mIdle

theorem State.mode_of_rd {u : State} (e : u.rd Adr.CHIP_MODE = s.rd Adr.CHIP_MODE) : u.mode = s.mode := State.get_eq_of_rd e
theorem TL.of {u : State} (h : TL t r s) (k : TK t r u) (e : u.rd Adr.CHIP_MODE = s.rd Adr.CHIP_MODE) : TL t r u :=
  ⟨k, by rw [State.mode_of_rd e]; exact h.live⟩
theorem TL.ite {c : Prop} [Decidable c] {a b : State} (h : TL t r a) (k : TL t r b) : TL t r (if c then a else b) := by split <;> assumption
theorem TL.foldl {α : Type} {f : State → α → State} (l : List α) (h : TL t r s) (hf : ∀ s x, TL t r s → TL t r (f s x)) : TL t r (l.foldl f s) := by
  induction l generalizing s with
  | nil => exact h
  | cons x l ih => exact ih (hf s x h)
theorem State.adoptHold_mode (s : State) (hh rs pt : Nat) (via : List Nat) : (s.adoptHold hh rs pt via).rd Adr.CHIP_MODE = s.rd Adr.CHIP_MODE :=
  (State.adoptHold_far hh rs pt via (Far.refl s)).mode
theorem State.stage_far (bs : List (Nat × List Byte)) (h : Far r s) : Far r (s.stage bs) :=
  Far.foldl _ h (fun s b h => by
    dsimp only
    exact Far.ite h (Far.record_iff.2 (h.of rfl (fun _ _ => rfl) rfl)))
theorem State.capSettle_far (h : Far r s) : Far r s.capSettle := by
  unfold State.capSettle
  split
  · exact Far.ite (State.postEvent_far _ (by decide) _ (((Far.record_iff.2 h).put _ _ (notDeep (by decide))).put _ _ (notDeep (by decide)))) h
  · exact h
theorem State.capStop_far (x y : Nat) (h : Far r s) : Far r (s.capStop x y) :=
  State.capSettle_far ((Far.record_iff.2 h).putPair _ _ _ (notDeep (by decide)) (notDeep (by decide)))
theorem State.capRecord_far (h : Far r s) : Far r (s.capRecord []) := by
  unfold State.capRecord
  split
  · exact h
  · extract_lets st rs nslot slot free ovf stop c1 s1 s2 flags s3 left c4 s4
    refine Far.ite ?_ (Far.record_iff.2 h)
    have k1 : Far r s1 := State.stage_far _ (Far.record_iff.2 h)
    have k2 : Far r s2 := ((k1.sat _ _ (notDeep (by decide))).put _ _ (notDeep (by decide))).putPair _ _ _ (notDeep (by decide)) (notDeep (by decide))
    have k3 : Far r s3 := Far.ite (State.postEvent_far _ (by decide) _ ((((k2.putPair _ _ _ (notDeep (by decide)) (notDeep (by decide))).put _ _
      (notDeep (by decide))).set1 _ (notDeep (by decide))).put _ _ (notDeep (by decide)))) k2
    have k4 : Far r s4 := Far.record_iff.2 k3
    refine Far.ite (State.capStop_far _ _ k4) (Far.ite (State.capStop_far _ _ k4) (Far.ite (State.capStop_far _ _ k4) (State.capSettle_far ?_)))
    unfold State.spill; simpa using k4
theorem State.capQuarantine_far (h : Far r s) : Far r s.capQuarantine := by
  unfold State.capQuarantine
  have k : Far r s.storeReady := Far.foldl _ h (fun _ _ h => State.capRecord_far h)
  exact Far.ite (State.capStop_far _ _ k) k
theorem State.capQuarantine_tk (h : TK t r s) : TK t r s.capQuarantine := (State.capQuarantine_far (Far.refl s)).tk h
theorem State.capQuarantine_mode (s : State) : s.capQuarantine.rd Adr.CHIP_MODE = s.rd Adr.CHIP_MODE :=
  (State.capQuarantine_far (Far.refl s)).mode
theorem State.disarm_tk (h : TK t r s) : TK t r s.disarm := by
  unfold State.disarm
  exact TK.foldl _ h (fun _ _ h => TK.ite (h.clr _ (noTick _ _ (by decide))) h)
theorem State.setMode_tl (m : Nat) (hm : m % 8 ≠ mIdle) (h : TL t r s) : TL t r (s.setMode m) := by
  unfold State.setMode
  extract_lets old s0 hx s1 s2
  have k0 : TK t r s0 := TK.ite (State.disarm_tk h.tk) h.tk
  have k1 : TK t r s1 := by unfold s1; split; exact TK.record_iff.2 k0; exact k0
  have k2 : TK t r s2 := by unfold s2; rw [if_neg h.live]; exact k1
  refine TL.ite h ⟨State.postEvent_tk _ (by decide) _ (State.groomRec_tk _ _ _ _ (k2.put _ _ (noTickLo (by decide)))), ?_⟩
  rw [State.mode_of_rd (s := s2.put Reg.CHIP_MODE_MODE m) ((State.postEvent_rd _ _ _ (by decide) (by decide)).trans (State.groomRec_rd _ _ _ _ _ (by decide)))]
  unfold State.mode; rw [State.get_put_same _ _ (by constructor <;> decide)]; exact hm
theorem State.endLong_tk (a : Resp) (h : TK t r s) : TK t r (s.endLong a) := by
  unfold State.endLong
  split
  · refine TK.record_iff.2 ?_
    unfold State.finishAt
    split
    · exact State.respond_tk _ (by decide) _ _ _ (h.of rfl (fun _ _ => rfl) rfl)
    · exact h
  · exact h
theorem State.endLong_mode (a : Resp) (s : State) : (s.endLong a).rd Adr.CHIP_MODE = s.rd Adr.CHIP_MODE := by
  unfold State.endLong State.finishAt
  split
  · split
    · exact State.respond_rd _ _ _ _ _ (by decide) (by decide)
    · rfl
  · rfl
/-- The entry to QUARANTINE leaves every Team as it is (R435), from a mode other than IDLE. -/
theorem State.enterQuarantine_tl (cause cinfo : Nat) (h : TL t r s) : TL t r (s.enterQuarantine cause cinfo) := by
  unfold State.enterQuarantine
  extract_lets s1 s2 s3 s4 hx hy s5 s6
  refine TL.ite h (TL.ite (h.of (h.tk.of (by simp) (fun _ hx => State.hwRec_rd _ _ _ _ (hx.ne (noTickLo (by decide)))) (by simp)) (State.hwRec_rd _ _ _ _ (by decide))) ?_)
  have k1 : TL t r s1 := h.of (h.tk.clr _ (noTickLo (by decide))) (State.rd_put_other _ _ (by decide))
  have k2 : TL t r s2 := k1.of (State.adoptHold_tk _ _ _ _ k1.tk) (State.adoptHold_mode _ _ _ _ _)
  clear_value s2
  have k3 : TL t r s3 := by
    have a : TL t r (s2.freezeRec 4 6 0x02 (argOf cause cinfo)) :=
      k2.of (k2.tk.of (by simp) (fun _ hx => State.freezeRec_rd _ _ _ _ _ (hx.ne (noTickLo (by decide)))) (by simp)) (State.freezeRec_rd _ _ _ _ _ (by decide))
    have b : TL t r ((s2.freezeRec 4 6 0x02 (argOf cause cinfo)).alert 0) := by
      unfold State.alert
      exact TL.ite a (a.of (TK.record_iff.2 (a.tk.set1 _ (noTickLo (by decide)))) (State.rd_put_other _ _ (by decide)))
    exact b.of (State.capQuarantine_tk b.tk) (State.capQuarantine_mode _)
  clear_value s3
  have k4 : TL t r s4 := by
    refine ⟨(k3.tk.put _ _ (noTickLo (by decide))).clr _ (noTickLo (by decide)), ?_⟩
    have e : s4.mode = s3.mode :=
      (State.get_put_other _ _ (by constructor <;> decide) (by right; decide)).trans (State.get_put_other _ _ (by constructor <;> decide) (by right; decide))
    rw [e]; exact k3.live
  clear_value s4
  have k5 : TL t r s5 := k4.of (TK.record_iff.2 k4.tk) rfl
  have k6 : TL t r s6 := by
    have a := State.setMode_tl mQuarantine (by decide) k5
    have b : TL t r (s5.setMode mQuarantine).hitchBanks := by
      unfold State.hitchBanks; dsimp only
      have k : TL t r ((s5.setMode mQuarantine).put Reg.HT_STAT_RELEASED
          ((List.range 8).foldl (fun n b => n + ofBool ((s5.setMode mQuarantine).bankReleased b) * 2 ^ b) 0)) :=
        a.of (a.tk.put _ _ (noTickLo (by decide))) (State.rd_put_other _ _ (by decide))
      exact TL.ite (k.of (TK.record_iff.2 k.tk) rfl) k
    exact b.of (State.postEvent_tk _ (by decide) _ b.tk) (State.postEvent_rd _ _ _ (by decide) (by decide))
  clear_value s6
  have k7 : TL t r (s6.raise 8) :=
    k6.of (k6.tk.of (by simp) (fun _ hx => State.raise_rd _ _ (hx.ne (noTickLo (by decide)))) (by simp)) (State.raise_rd _ _ (by decide))
  exact k7.of (State.endLong_tk _ k7.tk) (State.endLong_mode _ _)
theorem State.deadStatic_tl (e : BitVec 48) (h : TL t r s) : TL t r (s.deadStatic t e) := by
  unfold State.deadStatic
  refine State.enterQuarantine_tl _ _ (h.of (State.rtrLoc_tk _ _ _ (h.tk.set1 _ (noTick _ _ (by decide)))) ?_)
  have z : ∀ k : Nat, 0x400000 ≤ k → Adr.CHIP_MODE ≠ k := fun k hk => by unfold Adr.CHIP_MODE; omega
  unfold State.rtrLoc
  split
  all_goals
    simp only [State.set1]
    repeat rw [State.rd_put_other _ _ (z _ (by simp only [Adr.RTR_ERR, Adr.RTR_ERR_LOC]; omega))]
theorem State.probeStatic_tl (x p d : Nat) (h : TL t r s) : TL t r (s.probeStatic x p d) := by
  unfold State.probeStatic
  exact TL.foldl _ h (fun _ _ h => TL.ite (h.of (h.tk.sat _ _ (by simp only [Tick, Adr.RTR_PRB_CNT]; omega))
    (State.rd_put_other _ _ (by simp only [Adr.CHIP_MODE, Adr.RTR_PRB_CNT]; omega))) h)
theorem State.handOver_tl (c : Nat) (hc : c < 36) (f : Flit) (h : TL t r s) : TL t r (s.handOver c f) := by
  refine h.of (State.handOver_tk c hc f h.tk) ?_
  unfold State.handOver State.sqCount
  dsimp only
  have z : Adr.CHIP_MODE ≠ Adr.GW_STAT c := by simp only [Adr.CHIP_MODE, Adr.GW_STAT]; omega
  repeat' split
  all_goals first
    | rfl
    | exact (State.rd_put_other _ _ z).trans ((State.rd_put_other _ _ z).trans rfl)
    | exact (State.rd_put_other _ _ z).trans rfl
theorem State.popFor_tl (x : Nat) (e : BitVec 48) (h : TL t r s) : TL t r (s.popFor x e) := by
  refine h.of (State.popFor_tk x e h.tk) ?_
  unfold State.popFor
  repeat' first | rfl | split
theorem State.sendFlit_tl (x p g : Nat) (d : Flit) (h : TL t r s) : TL t r (s.sendFlit x p g d) := h.of (State.sendFlit_tk x p g d h.tk) rfl
theorem TL.onTeam (h : TL t r s) (f : Team → Team) (hf : ∀ m, (f m).core = m.core) : TL t r (s.onTeam t f) := h.of (h.tk.onTeam f hf) rfl
theorem State.entryStep_tl (p : Nat) (m : Team) (e : BitVec 48) (h : TL t r s) : TL t r (State.entryStep t p m s e) := by
  unfold State.entryStep
  dsimp only
  repeat' first
    | exact h
    | exact State.attached_lt (by assumption)
    | apply State.probeStatic_tl
    | apply State.sendFlit_tl
    | apply State.popFor_tl
    | apply State.deadStatic_tl
    | (refine TL.onTeam ?_ _ (fun _ => rfl))
    | apply State.handOver_tl
    | apply TL.ite
    | split
theorem State.isCorrected_tk (x : Nat) (h : TK t r s) : TK t r (s.isCorrected x) :=
  (State.corrected_tk _ _ (noTick _ _ (by decide)) h x).set1 _ (noTick _ _ (by decide))
theorem State.isCorrected_tl (x : Nat) (h : TL t r s) : TL t r (s.isCorrected x) :=
  h.of (State.isCorrected_tk x h.tk) ((State.rd_put_other _ _ (by simp only [Adr.CHIP_MODE, Adr.TEAM_DM_STAT]; omega)).trans
    (State.corrected_rd _ _ _ _ (by simp only [Adr.CHIP_MODE, Adr.TEAM_DM_CECNT]; omega)))
theorem State.finishAt_tk (i : Nat) (a : Resp) (h : TK t r s) : TK t r (s.finishAt 3 i a) := by
  unfold State.finishAt
  split
  · exact State.respond_tk _ (by decide) _ _ _ (h.of rfl (fun _ _ => rfl) rfl)
  · exact h
theorem State.stepCmdHalt_tk (x : Nat) (h : TK t r s) : TK t r (s.stepCmdHalt x) := by
  unfold State.stepCmdHalt
  split
  · refine TK.ite ?_ h
    exact State.endLong_tk _ h
  · exact h
theorem State.bkpHit_tk (p : Nat) (bs : List Nat) (h : TK t r s) : TK t r (s.bkpHit t p bs) := by
  unfold State.bkpHit
  extract_lets s1 ch s2
  have k1 : TK t r s1 := ((((h.set1 _ (noTick _ _ (by decide))).put _ _ (noTick _ _ (by decide))).put _ _ (noTick _ _ (by decide))).put _ _ (noTick _ _ (by decide))).onTeam _ (fun _ => rfl)
  have k2 : TK t r s2 := TK.record_iff.2 k1
  exact TK.ite k1 (State.stepCmdHalt_tk _ (State.adoptHold_tk _ _ _ _ (State.postEvent_tk _ (by decide) _ k2)))
theorem State.stepOverrun_tk (x : Nat) (a b : Bool) (h : TK t r s) : TK t r (s.stepOverrun x a b) :=
  TK.ite (State.overrun_tk _ h) h
theorem put_eta (s : State) (f : Fld) (v : Nat) : s.put f v = { s with regs := (s.put f v).regs } := rfl
theorem stalls_stall (s : State) (t : Nat) (f : Fld) (st : Nat) (hf : f.ok) (h32 : f.hi = 31 ∧ f.lo = 0) (ha : f.addr ≠ Adr.TEAM_STEP t) (hst : st < 8) :
    s.stalls (s.stall t f st) t f st := by
  unfold State.stall
  refine ⟨?_, ?_, ?_, ?_, rfl⟩
  · rw [State.get_put_other _ _ (by constructor <;> simp) (by left; simpa using Ne.symm ha)]
    unfold State.sat; rw [State.get_put_same _ _ hf, h32.1, h32.2]
    apply Nat.mod_eq_of_lt; unfold satAdd; simp
  · rw [State.get_put_same _ _ (by constructor <;> simp)]; simp; omega
  · unfold State.stepNo; rw [State.get_put_other _ _ (by constructor <;> simp) (by right; right; simp)]
    unfold State.sat; rw [State.get_put_other _ _ hf (by left; exact ha)]
  · intro a h; simp only [List.mem_cons, List.not_mem_nil, or_false, not_or] at h
    rw [State.rd_put_other _ _ h.2]; unfold State.sat; rw [State.rd_put_other _ _ h.1]

theorem nb_ne (s : State) (t : Nat) : s.nb t 2 ≠ t := by
  simp only [State.nb]; omega
theorem nb_small {s u : State} (h : u.fuses.small = s.fuses.small) (t p : Nat) : u.nb t p = s.nb t p := by
  unfold State.nb State.nRows; rw [h]


theorem core_eq (m k : Team) (h : k.core = m.core) : k = { m with rmrd := k.rmrd, gwReq := k.gwReq, halted := k.halted } := by
  cases m; cases k; simp only [Team.core, Team.mk.injEq] at h; simp only [Team.mk.injEq]; simp [h]
/-- what stays of a Team's commit -/
theorem commit_core (m k : Team) (t p : Nat) (h : k.core = m.core) :
    let z := m.commit k t p
    let w := m.entry 64 p
    z.busBp = m.bpResults p ∧ z.send = m.sendAfter p (m.bpResults p) ∧ z.busWu = (m.wuResult w).y
      ∧ (∀ a, z.smRow a = if a = p then m.bpResults p else m.smRow a)
      ∧ (∀ r, z.reg r = if r = wRD w ∧ wWEN w = true ∧ opWrites (wOP w) = true then (m.wuResult w).y else m.reg r)
      ∧ z.flagC = (if isSum (wOP w) then (m.wuResult w).c else m.flagC)
      ∧ z.flagV = (if isSum (wOP w) then (m.wuResult w).v else m.flagV)
      ∧ z.dmrd = m.dmrdNext.getD m.dmrd ∧ z.pbrd = m.pbrdNext.getD m.pbrd
      ∧ z.start = m.start ∧ z.len = m.len ∧ z.slot = m.slot ∧ z.stride = m.stride ∧ z.rs = m.rs ∧ z.rsHave = m.rsHave
      ∧ z.dm = m.dm ∧ z.rmw = m.rmw := by
  intro z w
  have hz : z = m.commit k t p := rfl
  clear_value z
  have hs : z.start = k.start ∧ z.len = k.len ∧ z.slot = k.slot ∧ z.stride = k.stride ∧ z.rs = k.rs ∧ z.rsHave = k.rsHave ∧ z.dm = k.dm ∧ z.rmw = k.rmw := by
    subst hz; exact ⟨by rw [Team.commit], by rw [Team.commit], by rw [Team.commit], by rw [Team.commit], by rw [Team.commit], by rw [Team.commit], by rw [Team.commit], by rw [Team.commit]⟩
  have hd : z.busBp = m.bpResults p ∧ z.send = m.sendAfter p (m.bpResults p) ∧ z.busWu = (m.wuResult (m.entry 64 p)).y
      ∧ z.flagC = (if isSum (wOP (m.entry 64 p)) then (m.wuResult (m.entry 64 p)).c else m.flagC)
      ∧ z.flagV = (if isSum (wOP (m.entry 64 p)) then (m.wuResult (m.entry 64 p)).v else m.flagV)
      ∧ z.dmrd = m.dmrdNext.getD m.dmrd ∧ z.pbrd = m.pbrdNext.getD m.pbrd := by
    subst hz
    exact ⟨by rw [Team.commit], by rw [Team.commit], by rw [Team.commit], by rw [Team.commit], by rw [Team.commit], by rw [Team.commit], by rw [Team.commit]⟩
  have hg : z.gen = k.gen ∧ z.sm = Tab.set (smDef k.gen) k.sm p (m.bpResults p) ∧ z.wr =
      if (wWEN (m.entry 64 p) && opWrites (wOP (m.entry 64 p))) = true then Tab.set (wrDef k.gen) k.wr (wRD (m.entry 64 p)) (m.wuResult (m.entry 64 p)).y else k.wr := by
    subst hz; exact ⟨by rw [Team.commit], by rw [Team.commit]; rfl, by rw [Team.commit]; rfl⟩
  clear hz
  have e1 : k.start = m.start := congrArg (·.start) h
  have e2 : k.len = m.len := congrArg (·.len) h
  have e3 : k.slot = m.slot := congrArg (·.slot) h
  have e4 : k.stride = m.stride := congrArg (·.stride) h
  have e5 : k.rs = m.rs := congrArg (·.rs) h
  have e6 : k.rsHave = m.rsHave := congrArg (·.rsHave) h
  have ed : k.dm = m.dm := congrArg (·.dm) h
  have er : k.rmw = m.rmw := congrArg (·.rmw) h
  have e7 : k.gen = m.gen := congrArg (·.gen) h
  have e8 : k.sm = m.sm := congrArg (·.sm) h
  have e9 : k.wr = m.wr := congrArg (·.wr) h
  clear h
  obtain ⟨d1, d2, d3, d4, d5, d6, d7⟩ := hd
  obtain ⟨q1, q2, q3, q4, q5, q6, q7, q8⟩ := hs
  obtain ⟨g1, g2, g3⟩ := hg
  refine ⟨d1, d2, d3, fun a => ?_, fun r => ?_, d4, d5, d6, d7, q1.trans e1, q2.trans e2, q3.trans e3, q4.trans e4, q5.trans e5, q6.trans e6, q7.trans ed, q8.trans er⟩
  · unfold Team.smRow
    rw [g1, g2, e7, e8, Tab.get_set]
  · unfold Team.reg
    rw [g1, g3, e7, e9]
    by_cases h1 : (wWEN w && opWrites (wOP w)) = true
    · have h2 : wWEN w = true ∧ opWrites (wOP w) = true := by simpa using h1
      rw [if_pos h1, Tab.get_set]
      by_cases hr : r = wRD w
      · rw [if_pos hr, if_pos ⟨hr, h2⟩]
      · rw [if_neg hr, if_neg (fun h => hr h.1)]
    · have h2 : ¬ (wWEN w = true ∧ opWrites (wOP w) = true) := by simpa using h1
      rw [if_neg h1, if_neg (fun h => h2 h.2)]

theorem stepUnits_facts (s : State) (t p : Nat) (c : StepChecks) (hlive : s.mode ≠ mIdle) :
    (∃ k, k.core = (s.team t).core ∧ (s.stepUnits t p c).team t = (s.team t).commit k t p)
    ∧ (∀ x, x ≠ t → x ≠ s.nb t 2 → (s.stepUnits t p c).team x = s.team x)
    ∧ ((s.stepUnits t p c).team (s.nb t 2)).carryIn = (s.team (s.nb t 2)).carryIn
        ++ (if wCEN ((s.team t).entry 64 p) then [(((s.team t).wuResult ((s.team t).entry 64 p)).c, (s.team t).stride.getLsbD 0)] else [])
    ∧ (s.stepUnits t p c).rd (Adr.TEAM_PROG t) = s.rd (Adr.TEAM_PROG t) := by
  unfold State.stepUnits
  extract_lets m w s1 s2 s3
  have k1 : TL t s s1 := TL.foldl _ ⟨TK.refl s, hlive⟩ (fun _ _ h => State.isCorrected_tl _ h)
  have k2 : TK t s s2 := (TL.foldl _ k1 (fun _ _ h => State.entryStep_tl _ _ _ h)).tk
  clear_value s2
  have hc : s3.team t = m.commit (s2.team t) t p := State.team_setTeam_same _ _ _
  have ho : ∀ x, x ≠ t → s3.team x = s.team x := fun x hx => (State.team_setTeam_other _ _ hx).trans (k2.other x hx)
  have hn : s3.nb t 2 = s.nb t 2 := nb_small (u := s3) ((congrArg Fuses.small (State.onTeam_fuses s2 t _)).trans k2.small) _ _
  have r3 : s3.rd (Adr.TEAM_PROG t) = s.rd (Adr.TEAM_PROG t) := (State.rd_eq (State.onTeam_regs s2 t _) _).trans (k2.tick _ (tick_prog t))
  clear_value s3
  by_cases h : wCEN w = true
  · simp only [h, if_true]
    refine ⟨⟨_, k2.core, ?_⟩, fun x hx hy => ?_, ?_, ?_⟩
    · rw [← hc, hn]; exact State.team_setTeam_other _ _ (Ne.symm (nb_ne s t))
    · rw [← ho x hx, hn]; exact State.team_setTeam_other _ _ hy
    · have h' : wCEN ((s.team t).entry 64 p) = true := h
      rw [← ho _ (nb_ne s t), hn, if_pos h']; unfold State.onTeam; rw [State.team_setTeam_same]
    · exact (State.rd_eq (State.onTeam_regs s3 _ _) _).trans r3
  · simp only [h, if_false, Bool.false_eq_true]
    exact ⟨⟨_, k2.core, hc⟩, fun x hx hy => ho x hx, by rw [ho _ (nb_ne s t), if_neg (show ¬ wCEN ((s.team t).entry 64 p) = true from h), List.append_nil], r3⟩

theorem stepCount_facts (x : State) (t n : Nat) (last pass : Bool) :
    ∃ a b c, (x.stepCount t n last pass).team t = { x.team t with tap := a, ring := b, passNow := c }
    ∧ (∀ z, z ≠ t → (x.stepCount t n last pass).team z = x.team z)
    ∧ (x.stepCount t n last pass).get (Reg.TEAM_PROG_PROG t) = (x.get (Reg.TEAM_PROG_PROG t) + 1) % 2 ^ 32
    ∧ (x.stepCount t n last pass).get (Reg.TEAM_STEP_STEP t) = (n + 1) % 2 ^ 11
    ∧ (x.stepCount t n last pass).get (Reg.TEAM_STEP_STATE t) = if last then 4 else 0 := by
  unfold State.stepCount
  extract_lets s1
  have ht : ∀ z, s1.team z = x.team z := fun z => by
    unfold s1; simp only [State.team, State.put_teams]
  have g1 : s1.get (Reg.TEAM_PROG_PROG t) = (x.get (Reg.TEAM_PROG_PROG t) + 1) % 2 ^ 32 := by
    unfold s1
    rw [State.get_put_other _ _ (by constructor <;> simp) (by left; simp), State.get_put_other _ _ (by constructor <;> simp) (by left; simp),
      State.get_put_same _ _ (by constructor <;> simp)]; rfl
  have g2 : s1.get (Reg.TEAM_STEP_STEP t) = (n + 1) % 2 ^ 11 := by
    unfold s1
    rw [State.get_put_other _ _ (by constructor <;> simp) (by right; right; simp), State.get_put_same _ _ (by constructor <;> simp)]; rfl
  have g3 : s1.get (Reg.TEAM_STEP_STATE t) = if last then 4 else 0 := by
    unfold s1
    rw [State.get_put_same _ _ (by constructor <;> simp)]; cases last <;> rfl
  clear_value s1
  cases last
  · exact ⟨_, _, _, ht t, fun z _ => ht z, g1, g2, g3⟩
  · have e : ∀ z, z ≠ t → (s1.onTeam t (fun k => { k.tapSample with passNow := pass })).team z = s1.team z :=
      fun z hz => State.team_setTeam_other _ _ hz
    refine ⟨(x.team t).tapSample.tap, (x.team t).tapSample.ring, pass, (State.team_setTeam_same _ _ _).trans ?_, fun z hz => (e z hz).trans (ht z), g1, g2, g3⟩
    rw [ht]; rfl

/-- What the reports of a step leave: what `State.dmStep_facts` says of the ports, and nothing else of any Team. -/
theorem stepTell_facts (s : State) (t p : Nat) (m : Team) (f : Fired) (b : Option PortUse) (comb bkp : Bool) (c : StepChecks) :
    (∃ d q o x y, ((s.stepTell t p m f b comb bkp c).team t).core = (s.team t).core.ports d q o x y
      ∧ ∀ z, (∀ y w, (s.team t).rmw = some (y, w) → y ≠ z) → (∀ u, m.portA (m.entry 64 p) = some u → u.write.isSome = true → u.addr ≠ z)
        → (∀ v, b = some v → v.writes = true → v.addr ≠ z) → Tab.get (fun _ => 0#24) d z = (s.team t).word z)
    ∧ (∀ x, x ≠ t → (s.stepTell t p m f b comb bkp c).team x = s.team x)
    ∧ (∀ x, Tick x → (s.stepTell t p m f b comb bkp c).rd x = s.rd x) := by
  unfold State.stepTell
  extract_lets w be we s1 s2 s3 bs s4
  have k0 : TK t s ((s.bpErrs t p be).wuErrs t m.stride.toNat we) := State.wuErrs_tk _ _ (State.bpErrs_tk _ _ (TK.refl _))
  obtain ⟨⟨d, q, o, x, y, e1, w1⟩, o1, n1, f1⟩ := State.dmStep_facts ((s.bpErrs t p be).wuErrs t m.stride.toNat we) t (m.portA w) b c
  have k1 : TK t s1 s1 := TK.refl s1
  have k2 : TK t s1 s2 := TK.foldl _ k1  (fun _ _ h => State.rtrFault_tk _ _ _ _ h)
  have k3 : TK t s1 s3 := TK.foldl _ k2  (fun _ _ h => State.rtrFault_tk _ _ _ _ h)
  have k4 : TK t s1 s4 := TK.ite (State.bkpHit_tk _ _ k3) k3
  have k5 := State.stepOverrun_tk t (!be.isEmpty || !we.isEmpty) c.ackAwaited k4
  have hr0 := congrArg (fun k : Team => k.rmw) k0.core
  have hd0 := congrArg (fun k : Team => k.dm) k0.core
  have hr : (((s.bpErrs t p be).wuErrs t m.stride.toNat we).team t).rmw = (s.team t).rmw := hr0
  have hd : (((s.bpErrs t p be).wuErrs t m.stride.toNat we).team t).dm = (s.team t).dm := hd0
  refine ⟨⟨d, q, o, x, y, (k5.core.trans e1).trans (by rw [k0.core]), fun z h1 h2 h3 => ?_⟩, fun x hx => (k5.other x hx).trans ((o1 x hx).trans (k0.other x hx)),
    fun x hx => (k5.tick x hx).trans ((n1 x hx).trans (k0.tick x hx))⟩
  refine (w1 z (fun y w h => h1 y w (hr ▸ h)) h2 h3).trans ?_
  unfold Team.word; rw [hd]

theorem State.qbound_tk (port : Nat) (h : TK t r s) : TK t r (s.qbound t port) := by
  unfold State.qbound; extract_lets f
  exact TK.ite (State.checkReport_tk _ ((TK.ite h (h.put _ _ (noTick _ _ (by decide)))).set1 _ (noTick _ _ (by decide)))) h
theorem State.qboundLd_tk (n : Nat) (h : TK t r s) : TK t r (s.qboundLd n t) := by
  unfold State.qboundLd
  exact TK.ite (State.checkReport_tk _ ((TK.ite h (h.put _ _ (noTick _ _ (by decide)))).set1 _ (noTick _ _ (by decide)))) h
/-- The comparison at the end of a cycle leaves every Team's core and the registers of progress. -/
theorem State.qboundAll_tk (h : TK t r s) : TK t r (s.qboundAll t) := by
  unfold State.qboundAll; extract_lets s1
  have k : TK t r s1 := TK.foldl _ h (fun _ _ h => State.qbound_tk _ h)
  split
  · exact State.qboundLd_tk _ k
  · exact k

end Sys2Proof.Machine
end

