-- ==== Sys2Proof/Machine/Pins.lean ====
section
/-! DEFINITION. The pin groups of the device by phase (R437), as the state shows them.  No command reads them. -/
namespace Sys2Proof.Machine

/-- The phases of R437. -/
inductive Phase where
  | reset | boot | rest | work | quarantine | warm
deriving DecidableEq, Repr

def State.pinPhase (s : State) : Phase :=
  if s.chip.inReset then .reset
  else if s.chip.warm then .warm
  else if !s.on Reg.CHIP_MODE_BOOT_DONE then .boot
  else if s.mode = mQuarantine then .quarantine
  else if s.mode = mIdle ∨ s.mode = mLoad then .rest
  else .work

/-- Before BOOT_DONE, and in reset. -/
def State.starting (s : State) : Bool := s.pinPhase == .reset || s.pinPhase == .boot || s.pinPhase == .warm

/-- R115: STRIDE_MARK. -/
def State.strideMark (s : State) : Bool := s.pinPhase == .work && s.chip.mark

/-- An open-drain output (R533). -/
def openDrain (low : Bool) : PinState := if low then .drive false else .z 0

def State.faultN (s : State) : PinState := openDrain (s.faultLow && s.pinPhase != .reset)
def State.alertN (s : State) : PinState := openDrain s.alertLow
def State.thermN (s : State) : PinState := openDrain s.thermLow

/-- QSPI: none while the pins are driven for flash reads; else CS_N, SCK and the data pins at rest. -/
def State.qspi (s : State) : Option (PinState × PinState × PinState) :=
  if s.pinPhase = .boot ∨ s.pinPhase = .warm then none else some (.drive true, .drive false, .z 0)

/-- PE_TX is in electrical idle: in reset, and until stage 1 of a cold boot has let the link train. -/
def State.peIdle (s : State) : Bool := s.pinPhase == .reset || !s.pcie.ltssm

/-- LDn_TX, ELn_TX: by lane state (R219), idle until the boot is done. -/
def State.laneOut (s : State) (l : Nat) : LaneTx := if s.starting then .idle else s.laneTx l

/-- TP_TXP and TP_TXN are in electrical idle. -/
def State.tpIdle (s : State) : Bool := s.starting || !s.on Reg.TP_CTL_EN

/-- GDd_RESET_N: 0 in reset, 1 from the start of training on. -/
def State.gdResetN (s : State) : Bool :=
  match s.pinPhase with
  | .reset => false
  | .boot => decide (4 ≤ s.bootStage)
  | _ => true

/-- HT_IO k: a weak pull-down before the boot is done, then as the fabric, the bank and boundary scan give it (R334, R337). -/
def State.htIo (s : State) (k : Nat) : PinState := if s.starting then .z 1 else s.pinState k

end Sys2Proof.Machine
end

