-- ==== Sys2Proof/WellFormed.lean ====
section
/-! DEFINITION. The well-formed commands: what their operands' types leave open of the values that the doer of the command can
bring.  A unit's number, a port and a field of fixed width are bounded by their types. -/
namespace Sys2Proof

/-- The units of a Team are its 64 BPs and its Word Unit (R36). -/
def StepChecks.wf (c : StepChecks) : Bool :=
  c.isSingle.all (fun u => decide (u < 65)) && c.isDouble.all (fun u => decide (u < 65))

/-- R232, R235, R243: a frame has a header block per lane, at most eight, at most 248 content blocks, and a filler block per lane. -/
def RxFrame.wf (f : RxFrame) : Bool := decide (f.heads.length ≤ 8) && f.heads.all (fun h => decide (h.1 < 9)) && decide (f.content.length ≤ 248) && decide (f.filler.length ≤ 8)

/-- A completion status of PCI Express has three bits (R359). -/
def HostDma.wf (d : HostDma) : Bool := decide (d.status < 8)

/-- An access has at least one byte, and a write as many bytes as it says. -/
def dataWf (n : Nat) (data : Option (List Byte)) : Bool :=
  decide (0 < n) && (match data with | none => true | some bs => bs.length == n)

/-- Bursts of 32 bytes (R285). -/
def crcWf (c : List HostCrc) : Bool := c.all (fun e => e.last.length == 32)

/-- A moment that the block still knows: its update is one of the last 260 (R345). -/
def Moment.wf (m : Moment) : Bool := decide (m.back < 260)

/-- A command that its doer can give. -/
def Instr.wf (i : Instr) : Bool :=
  match i with
  | .stepExecute _ c => c.wf
  | .hangTimerExpiry _ => true
  | .strideBoundaryPass _ => true
  | .chipBoundaryComplete _ => true
  | .tokenConsumption _ => true
  | .dsDecision _ => true
  | .descriptorIssue _ => true
  | .descriptorArrival _ => true
  | .hitchInputLatch => true
  | .receiveStoreWrite _ _ => true
  | .flitReceive _ _ _ => true
  | .replayRequest _ _ => true
  | .carryArrival _ => true
  | .gwRspArrival _ => true
  | .packetInject _ _ => true
  | .regulatorRefill _ => true
  | .packetRoute _ _ _ => true
  | .packetArrival _ => true
  | .targetTimeout _ _ => true
  | .freezeWrite _ _ _ => true
  | .freezeDrain _ => true
  | .isolateWrite _ _ => true
  | .ssW0Write _ _ => true
  | .ssW1Write _ _ => true
  | .swapArm _ => true
  | .swapScanDone _ => true
  | .isStageWrite _ _ _ _ => true
  | .isCommitWrite _ _ _ _ => true
  | .dmWindowWrite _ _ _ _ => true
  | .dmAliasSet _ _ _ _ _ => true
  | .dmAliasClear _ _ _ _ _ => true
  | .dmaAccess _ _ => true
  | .dmaForced _ _ => true
  | .patrolRegion _ fixed _ _ => decide (fixed ≤ 256)
  | .isPatrol _ _ fixed _ _ => decide (fixed ≤ 256)
  | .bankPowerWrite _ _ _ => true
  | .bankInitDone _ _ => true
  | .chipStrideLoWrite _ => true
  | .chipStrideHiWrite _ => true
  | .chipStrideLoRead _ => true
  | .dsNowLoRead _ => true
  | .dsHorizonHiWrite _ => true
  | .dsEnable => true
  | .hitchTokenAccept => true
  | .tapSampleArrival _ => true
  | .captureRecord full => full.all (fun c => decide (c < 16))
  | .capArm => true
  | .capStop => true
  | .capForce => true
  | .capDisarm => true
  | .laneEnable _ => true
  | .laneDisable _ => true
  | .sweepSettingDone _ _ _ _ _ => true
  | .sweepDone _ => true
  | .confirmDone _ _ => true
  | .trainingBlockReceive _ _ _ _ => true
  | .blockLockLoss _ _ _ => true
  | .faultTimeout _ => true
  | .cdrLockChange _ _ => true
  | .injOne _ => true
  | .frameTransmit _ at_ _ _ => at_.wf
  | .frameReceive _ f at_ => f.wf && at_.wf
  | .widthChange _ => true
  | .alignId _ => true
  | .alignN0 _ => true
  | .stride _ => true
  | .hold _ => true
  | .release _ => true
  | .time _ _ => true
  | .fw _ => true
  | .holdRequest => true
  | .releaseRequest => true
  | .atHReached => true
  | .gwRequestServe _ _ => true
  | .gwRspSend _ => true
  | .dynamicBurst _ _ _ => true
  | .dynamicRequestAged _ => true
  | .refreshDue _ => true
  | .refpbIssue _ => true
  | .burstCrcCheck _ _ last => last.length == 32
  | .caParityAlert _ _ => true
  | .trainOp _ _ => true
  | .trainOpDone _ _ => true
  | .gdDlyWrite _ _ _ => true
  | .pauseWrite _ => true
  | .pauseTakeEffect _ => true
  | .pauseReady _ => true
  | .pauseClear _ _ => true
  | .pauseTimeout _ => true
  | .srefWrite _ _ => true
  | .hotWindow _ => true
  | .hitchGoWrite _ => true
  | .qstopWrite _ => true
  | .prHold _ => true
  | .prRelease => true
  | .contentionDetect _ => true
  | .rearm => true
  | .hpoUpdate => true
  | .hpLoad _ => true
  | .tokenPortTake _ _ _ => true
  | .streamRxTake _ => true
  | .streamTxTake _ _ _ _ => true
  | .treeSwitch _ => true
  | .treeSwitchTimeout _ => true
  | .extest _ _ => true
  | .tbUpdate => true
  | .tbIncWrite _ => true
  | .tbAdjWrite _ => true
  | .tbSetWrite => true
  | .tbNowNsRead _ => true
  | .tbSbStrideRead _ => true
  | .tbTxqW3Read _ => true
  | .tpTxGo _ => true
  | .tpTxDone at_ => at_.wf
  | .tpRxFrame blocks at_ => decide (2 ≤ blocks.length) && at_.wf
  | .tpRxFree _ => true
  | .registerWrite _ _ n _ => decide (0 < n)
  | .latchedPairRead _ _ n => decide (0 < n)
  | .bar2Access _ n data => dataWf n data
  | .bar4Access _ n data _ _ _ => dataWf n data
  | .peFenceRead => true
  | .commandSlotWrite _ _ _ => true
  | .doorbell _ _ => true
  | .rspCiWrite _ _ => true
  | .commandTake _ => true
  | .commandTimeout _ _ _ => true
  | .eventPost _ => true
  | .peIntEnWrite _ _ => true
  | .mailboxReset _ => true
  | .mailboxResetDone _ => true
  | .functionLevelReset _ => true
  | .pePerst => true
  | .getInfo => true
  | .setEventVector => true
  | .warmReset => true
  | .imageLoad img excl _ crc => img.wf && excl.wf && crcWf crc
  | .imageInfo => true
  | .aperture => true
  | .imageUnload => true
  | .runStart _ => true
  | .runStop => true
  | .runAbort => true
  | .stepStrides => true
  | .bkpArm => true
  | .haltContinue => true
  | .hostGo => true
  | .horizon => true
  | .token _ => true
  | .snapshotSave _ crc => crcWf crc
  | .snapshotRestore dma crc => dma.wf && crcWf crc
  | .linkUp => true
  | .linkDown => true
  | .linkStatus => true
  | .elasticWidth => true
  | .laneTest => true
  | .memInfo => true
  | .regionAlloc => true
  | .regionFree => true
  | .memCopy dma => dma.wf
  | .driftCfg => true
  | .capConfig dma => dma.wf
  | .capCtl => true
  | .capStatus => true
  | .tbSet => true
  | .cmpAlloc => true
  | .cmpFree => true
  | .linkTime _ _ => true
  | .tpTx dma => dma.wf
  | .tpRx => true
  | .htPartial dma => dma.wf
  | .htCtl => true
  | .htClock => true
  | .sbRead => true
  | .sbMark => true
  | .regSet _ => true
  | .probeCfg => true
  | .traceCfg next => next.length == 4
  | .teamPower => true
  | .debugRead => true
  | .secStatus => true
  | .keyWrite => true
  | .lcAdvance => true
  | .lcReturn dma => dma.wf
  | .coldReset _ => true
  | .warmResetBegin => true
  | .bootStageDone b => b.header.length == 64
  | .referenceLoss _ => true
  | .referenceReturn _ => true
  | .heartbeatTimeout _ _ _ _ => true
  | .oneSidedReset _ _ => true
  | .crossingRearm _ _ => true
  | .teamPwrWrite _ _ => true
  | .teamSwitchDone _ => true
  | .thermalSample temps => temps.length == 20
  | .tamper _ _ => true
  | .watchdogExpiry _ us _ _ _ _ _ => decide (0 < us)
  | .watchdogKick _ _ => true
  | .groomRestart _ => true
  | .groomRestartTimeout _ => true
  | .sbWrW3Write _ _ => true
  | .saddlebagRecord _ => true
  | .suppressionSecondEnd _ => true
  | .ceSummary => true
  | .sbRecordRead _ _ => true
  | .smbusStatus => true
  | .smbusSetIndex _ _ => true
  | .smbusReadRecord => true
  | .smbusAlertStat => true
  | .smbusAlertClr _ _ => true
  | .unfreeze _ _ => true
  | .smbusWarmReset _ _ => true
  | .smbusChipId => true
  | .alertResponseRead => true
  | .sbaccCapture => true
  | .sbaccUpdate _ => true
  | .conditionalBranch _ _ _ _ => true
  | .indirectBranch _ _ _ => true
  | .exceptionTaken _ _ _ _ _ => true
  | .waitForInterrupt _ _ => true
  | .wake _ _ => true
  | .traceDrop _ _ => true
  | .traceBlockFlush _ _ => true
  | .traceCtlWrite _ next => next.length == 4
  | .progressCountArrival _ _ _ => true
  | .creditReturn _ _ _ => true
  | .blockLockAcquire _ _ _ => true
  | .prbsLockChange _ _ => true
  | .rdyBlocksSent _ => true
  | .tpLinkUpChange _ _ => true
  | .vddioHtChange _ _ => true
  | .vddAonLoss => true
  | .vddAonRise => true
  | .resetRelease => true
  | .stepPllLock => true
  | .rcRegisterRead _ _ n => decide (0 < n)
  | .configurationWrite _ _ => true
  | .msixVectorUnmask _ => true
  | .pcieLinkUp width speed => [4, 8, 16].contains width.val && speed.val != 0
  | .smbusArpAssign _ => true
  | .jtagInstructionLoad _ => true
  | .tpRxWaitExpiry => true

end Sys2Proof
end

