-- ==== Sys2Proof/Tests/Slice0.lean ====
section
/-! SUPPORT. Tests: ill-formed commands, small steps whose result a rule of the spec states, and for every statement with
hypotheses a state and operands that meet them, clause by clause. -/
set_option Elab.async false
set_option maxRecDepth 10000
namespace Sys2Proof.Tests
open Sys2Proof.Machine

/-! ### Ill-formed commands: one for each check -/

theorem test_wf_checks_clean : (Instr.stepExecute 0 .clean).wf = true := by decide
theorem test_wf_register_write : (Instr.registerWrite .host 0 1 [0]).wf = true := by decide
theorem test_ill_single_unit : (Instr.stepExecute 0 { StepChecks.clean with isSingle := [65] }).wf = false := by decide
theorem test_ill_double_unit : (Instr.stepExecute 0 { StepChecks.clean with isDouble := [64, 65] }).wf = false := by decide
theorem test_ill_patrol_count : (Instr.patrolRegion 0 257 [] []).wf = false := by decide
theorem test_ill_store_patrol_count : (Instr.isPatrol 0 .ok 257 none false).wf = false := by decide
theorem test_ill_full_channel : (Instr.captureRecord [15, 16]).wf = false := by decide
theorem test_ill_sent_moment : (Instr.frameTransmit 0 ⟨260, 0⟩ 0 0).wf = false := by decide
theorem test_ill_frame_heads : (Instr.frameReceive 0 ⟨List.replicate 9 (0, ⟨2, 0⟩), [], [], 0⟩ ⟨0, 0⟩).wf = false := by decide
theorem test_ill_frame_lane : (Instr.frameReceive 0 ⟨[(9, ⟨2, 0⟩)], [], [], 0⟩ ⟨0, 0⟩).wf = false := by decide
theorem test_ill_frame_content : (Instr.frameReceive 0 ⟨[], List.replicate 249 ⟨1, 0⟩, [], 0⟩ ⟨0, 0⟩).wf = false := by decide
theorem test_ill_frame_filler : (Instr.frameReceive 16 ⟨[], [], List.replicate 9 ⟨2, 0⟩, 0⟩ ⟨0, 0⟩).wf = false := by decide
theorem test_ill_frame_moment : (Instr.frameReceive 0 ⟨[], [], [], 0⟩ ⟨260, 0⟩).wf = false := by decide
theorem test_ill_burst_bytes : (Instr.burstCrcCheck 0 5 []).wf = false := by decide
theorem test_ill_sent_frame_moment : (Instr.tpTxDone ⟨260, 0⟩).wf = false := by decide
theorem test_ill_empty_frame : (Instr.tpRxFrame [⟨2, 0⟩] ⟨0, 0⟩).wf = false := by decide
theorem test_ill_port_moment : (Instr.tpRxFrame [⟨2, 0⟩, ⟨2, 0⟩] ⟨260, 0⟩).wf = false := by decide
theorem test_ill_write_size : (Instr.registerWrite .host 0 0 []).wf = false := by decide
theorem test_ill_pair_size : (Instr.latchedPairRead .host 0 0).wf = false := by decide
theorem test_ill_read_size : (Instr.rcRegisterRead .host 0 0).wf = false := by decide
theorem test_ill_bar2_length : (Instr.bar2Access 0 4 (some [1, 2, 3])).wf = false := by decide
theorem test_ill_bar2_nothing : (Instr.bar2Access 0 0 none).wf = false := by decide
theorem test_ill_bar4_length : (Instr.bar4Access 0 4 (some []) .ok 0 false).wf = false := by decide
theorem test_ill_bar4_nothing : (Instr.bar4Access 0 0 none .ok 0 false).wf = false := by decide
theorem test_ill_image_status : (Instr.imageLoad ⟨8, []⟩ ⟨0, []⟩ true []).wf = false := by decide
theorem test_ill_exclusion_status : (Instr.imageLoad ⟨0, []⟩ ⟨8, []⟩ true []).wf = false := by decide
theorem test_ill_image_burst : (Instr.imageLoad ⟨0, []⟩ ⟨0, []⟩ true [⟨0, 1, [0]⟩]).wf = false := by decide
theorem test_ill_save_burst : (Instr.snapshotSave [] [⟨0, 1, [0]⟩]).wf = false := by decide
theorem test_ill_restore_status : (Instr.snapshotRestore ⟨8, []⟩ []).wf = false := by decide
theorem test_ill_restore_burst : (Instr.snapshotRestore ⟨0, []⟩ [⟨0, 1, [0]⟩]).wf = false := by decide
theorem test_ill_copy_status : (Instr.memCopy ⟨8, []⟩).wf = false := by decide
theorem test_ill_capture_status : (Instr.capConfig ⟨8, []⟩).wf = false := by decide
theorem test_ill_frame_status : (Instr.tpTx ⟨8, []⟩).wf = false := by decide
theorem test_ill_partial_status : (Instr.htPartial ⟨8, []⟩).wf = false := by decide
theorem test_ill_trace_addresses : (Instr.traceCfg [0, 0, 0]).wf = false := by decide
theorem test_ill_token_status : (Instr.lcReturn ⟨8, []⟩).wf = false := by decide
theorem test_ill_boot_header : (Instr.bootStageDone ⟨true, [], [], [], true, []⟩).wf = false := by decide
theorem test_ill_sensor_count : (Instr.thermalSample [40]).wf = false := by decide
theorem test_ill_watchdog_time : (Instr.watchdogExpiry 0 0 0 0 true false 0).wf = false := by decide
theorem test_ill_restart_addresses : (Instr.traceCtlWrite 0 []).wf = false := by decide
theorem test_ill_width : (Instr.pcieLinkUp 2 1).wf = false := by decide
theorem test_ill_speed : (Instr.pcieLinkUp 4 0).wf = false := by decide

/-! ### Results that the spec works out -/

/-- No row of the table has bits (Decode.lean). -/
theorem test_no_word : decodeTableWord 32 5 = none := rfl

/-- 02_boolean_processors.md, the counter of the worked example: the entry of step 10 from its three words. -/
theorem test_counter_entry :
    let e : BitVec 72 := 0x7FC40C#24 ++ 0x408050#24 ++ 0x3C8888#24
    bTT e = 0x8888 ∧ bSel e 0 = 0x03C ∧ bSel e 1 = 0x805 ∧ bSel e 2 = 0xC40 ∧ bSel e 3 = 0xC40 ∧ bSIDX e = 127 := by decide +kernel

/-- The same example: at step 10, q0 = 1 and EN = 1 give c1 = 1; at step 60 q0 becomes 0. -/
theorem test_counter_step :
    let m := { Team.reset with sm := [(60, 1#64)], rs := 0x20, rsHave := 0x20 }
    m.bpResult 0 (0x7FC40C#24 ++ 0x408050#24 ++ 0x3C8888#24) = true
      ∧ m.bpResult 0 (0x7FC40C#24 ++ 0x408050#24 ++ 0x3C6666#24) = false := by decide +kernel

/-- 03_word_units_and_design_memory.md, the 48-bit adder: Team 37 writes 0x00_0010 and sends C = 1; Team 38 writes 0x12_3458. -/
theorem test_adder_low :
    let m := { Team.reset with wr := [(2, 0xFFFFF0#24), (3, 0x000020#24)] }
    let r := m.wuResult (0#24 ++ 0#24 ++ 0x861501#24)
    r.y = 0x000010 ∧ r.c = true := by decide +kernel
theorem test_adder_high :
    let m := { Team.reset with wr := [(2, 0x123456#24), (3, 0x000001#24)], carryQ := [(true, false)] }
    (m.wuResult (0x0000C0#24 ++ 0#24 ++ 0x061502#24)).y = 0x123458 := by decide +kernel

/-- R70's examples: SAR of 0x80_0010 by 4, ROL of 0x80_0001 by 25, SHL of 0x00_0001 by 24. -/
theorem test_shifts :
    (({ Team.reset with wr := [(0, 0x800010#24), (1, 4#24)] }).wuResult 0x20016#72).y = 0xF80001
      ∧ (({ Team.reset with wr := [(0, 0x800001#24), (1, 25#24)] }).wuResult 0x20017#72).y = 0x000003
      ∧ (({ Team.reset with wr := [(0, 1#24), (1, 24#24)] }).wuResult 0x20014#72).y = 0 := by decide +kernel

/-- 05_torus_network.md, one signal flit: the fields of the two Teams' entries. -/
theorem test_slot_entries :
    let a : BitVec 48 := 0x805064#48
    let b : BitVec 48 := 0x0028C8#24 ++ 0x808C68#24
    eVALID a = true ∧ eOUT a = 2 ∧ eIN a = 4 ∧ eADDR a = 100
      ∧ eOUT b = 4 ∧ eIN b = 3 ∧ eADDR b = 104 ∧ eRSBASE b = 200 ∧ eRSCNT b = 10 ∧ eSOFF b = 0 := by decide

/-- 06_domain_scheduler.md, three clocks: the settings of domain 2. -/
theorem test_domain_fields :
    let s := State.reset.wr (Adr.DS_DOM_CFG 2) 0x001285AD
    s.get (Reg.DS_DOM_CFG_EDGES 2) = 1 ∧ s.get (Reg.DS_DOM_CFG_MASK 2) = 11 ∧ s.on (Reg.DS_DOM_CFG_EN_INIT 2) = true
      ∧ s.get (Reg.DS_DOM_CFG_TAPBIT 2) = 5 ∧ s.get (Reg.DS_DOM_CFG_TEAM 2) = 37 := by decide +kernel

/-- 10_gddr6_memory.md, the stride that defeats seed 0: one bank under seed 0, four under seed 2. -/
theorem test_hash :
    (List.range 16).all (fun k => bankOf 0 14 (k * 0x88000) == bankOf 0 14 0) = true
      ∧ ((List.range 16).map (fun k => bankOf 2 14 (k * 0x88000))).eraseDups.length = 4 := by decide +kernel

/-- 15_command_set.md, the token batch: the fields of its token 0. -/
theorem test_token_fields :
    let d : BitVec 512 := BitVec.ofNat 512 (2 * 256 ^ 8 + 4 * 256 ^ 12 + 0x1234 * 256 ^ 16 + 0x138B * 256 ^ 20)
    tokenOf d 0 = ⟨4, 0, 0x1234#24, false, 5003⟩ := by decide +kernel

/-- 16_modes_and_bringup.md: the size of a snapshot of each grade. -/
theorem test_snapshot_size : snapLen 1024 = 0x8816000 ∧ snapLen 768 = 107028480 := by decide

/-- 18_faults_and_saddlebag.md, the record of a quarantine. -/
theorem test_quarantine_record :
    recordOf 0x1F3A 0x02 4 6 true (412000500 + 2 ^ 32 * 195) (argOf 1 0x004D0015)
      = 0x004D0015#32 ++ 0x000100C3#32 ++ 0x188EA0F4#32 ++ 0xE4021F3A#32 := by decide +kernel

/-- 19_groom_trace.md: the ADDR packet of the worked example. -/
theorem test_trace_address : pktAddr 0x4380 1 = [0x30, 0x81, 0x43, 0x00, 0x00] := by decide +kernel

/-- 21_address_map.md: registers of Team 38, and of lane 5 of lead link 3. -/
theorem test_addresses : Adr.TEAM_STEP 38 = 0x4098D4 ∧ laneAddr (9 * 3 + 5) 4 = 0x83944 := by decide

/-- The same example: with physical row 0 unusable, virtual row 1 lies on physical row 2. -/
theorem test_row_map :
    ({ State.reset with chip := { Chip.reset with rowMap := (List.range 32).map (· + 1) } } : State).windowTeam 0x5118D4
      = some 38 := by decide +kernel

/-! ### States of the witnesses -/

/-- RUN, with Team 0 powered in a stride of 16 steps that begins. -/
def sRun : State :=
  ((State.reset.setMode mRun).put (Reg.TEAM_PWR_STATE 0) 1).onTeam 0 (fun m => { m with active := true, len := 16 })

/-- IDLE, with Team 0 powered. -/
def sOn : State := State.reset.put (Reg.TEAM_PWR_STATE 0) 1

/-- A chip that is provisioned and may master the bus, so that it takes every command. -/
def sHost : State :=
  { State.reset with fuses := { Fuses.reset with lifecycle := 1 }, pcie := { Pcie.reset with busMaster := true } }

/-- An image that uses no Team, link or gateway. -/
def noImage : Image := ⟨1, 7, 0, 1, 0, false, [], [], [], [], []⟩

/-- `sHost` with that image. -/
def sImage : State := { sHost with chip := { Chip.reset with image := some noImage } }

/-- A taken command from its opcode and the fields (offset, bytes, value) of its descriptor. -/
def tk (op : Nat) (l : List (Nat × Nat × Nat)) (started : Bool) (note : Nat) : Taken :=
  ⟨BitVec.ofNat 512 (l.foldl (fun n p => n + p.2.2 * 256 ^ p.1) op), started, false, note, false, false⟩

/-- The state in which that is the only command that mailbox m has taken. -/
def given (s : State) (m op : Nat) (l : List (Nat × Nat × Nat)) (started : Bool) (note : Nat) : State :=
  s.onBox m (fun b => { b with taken := [tk op l started note] })

theorem pwr_reset : ∀ t < 1024, regReset (Adr.TEAM_PWR t) = 0 := by decide +kernel

/-- No register of a list is the TEAM_PWR of another Team than Team 0. -/
def onlyTeam0 (l : List (Nat × Word)) : Bool :=
  l.all (fun p => p.1 == 0x4001C0 || decide (p.1 < 0x4001C0) || (p.1 - 0x4001C0) % 0x400 != 0)

theorem get_pwr (l : List (Nat × Word)) (t : Nat) (h : onlyTeam0 l = true) (ht : t ≠ 0) :
    Tab.get regReset l (Adr.TEAM_PWR t) = regReset (Adr.TEAM_PWR t) := by
  induction l with
  | nil => rfl
  | cons p l ih =>
    obtain ⟨h1, h2⟩ := Bool.and_eq_true _ _ ▸ (show (_ && onlyTeam0 l) = true from h)
    unfold Tab.get
    rw [if_neg, ih h2]
    intro e
    simp only [Bool.or_eq_true, beq_iff_eq, decide_eq_true_eq, bne_iff_ne, ← e, Adr.TEAM_PWR] at h1
    omega

/-- The Teams that run in a chip of 1,024 Teams of which only Team 0 has been powered. -/
theorem runTeams_eq {s : State} (hs : s.fuses.small = false) (h : onlyTeam0 s.regs = true) :
    s.runTeams = if s.get (Reg.TEAM_PWR_STATE 0) == 1 then [0] else [] := by
  have e : s.runTeams = (List.range 1024).filter (fun t => decide (t = 0) && s.get (Reg.TEAM_PWR_STATE 0) == 1) := by
    unfold State.runTeams State.nTeams
    rw [hs]
    refine List.filter_congr fun t ht => ?_
    by_cases t0 : t = 0
    · subst t0; simp
    · have := pwr_reset t (by simpa using ht)
      simp [t0, State.get, State.rd, get_pwr s.regs t h t0, this, bits]
  rw [e]
  cases s.get (Reg.TEAM_PWR_STATE 0) == 1 <;> decide +kernel

/-! ### Witnesses: The queue, reset and the whole machine -/

theorem wit_FrontCommandRuns : (State.reset.pending = []) ∧ ({ State.reset with pending := [.capArm] } : State).pending = .capArm :: [] := ⟨rfl, rfl⟩

theorem wit_SoundnessIsKept : State.reset.wf = true ∧ ∃ t, step { State.reset with pending := [.capForce] } = .next t :=
  ⟨by decide, _, rfl⟩

theorem wit_QueueAndGradeAreKept : ∃ t, exec .capForce State.reset = .next t := ⟨_, rfl⟩

theorem wit_EveryCommandCompletes :
    teamOf (.swapArm 800) = some 800 ∧ ({ State.reset with fuses := { Fuses.reset with small := true } } : State).nTeams ≤ 800 := by decide

/-! ### Witnesses: Steps of a Team -/

/-- `Obligations.CyclesWithoutStepCountOneStall`: its hypotheses can hold, clause by clause. -/
theorem wit_CyclesWithoutStepCountOneStall :
    (∃ (t : Fin 1024), ∃ (s : State), t.val < s.nTeams ∧ s.canStep t = true ∧ (s.team t).halted = true) ∧
    (∃ (t : Fin 1024), ∃ (s : State), t.val < s.nTeams ∧ s.canStep t = true ∧ (s.team t).halted = false ∧ s.rxWaits t =
     true) ∧
    (∃ (t : Fin 1024), ∃ (s : State), t.val < s.nTeams ∧ s.canStep t = true ∧ (s.team t).halted = false ∧ s.rxWaits t =
     false ∧ s.locWaits t = true) ∧
    (∃ (t : Fin 1024), ∃ (s : State), t.val < s.nTeams ∧ s.canStep t = true ∧ (s.team t).halted = false ∧ s.rxWaits t =
     false ∧ s.locWaits t = false ∧ s.skewWaits t = true) := by
  refine ⟨?_, ?_, ?_, ?_⟩
  · refine ⟨0, (sRun.onTeam (0 : Fin 1024) (fun m => { m with halted := true })), ?_⟩
    decide +kernel
  · refine ⟨0, (sRun.onTeam 0 (fun m => { m with store := [(65536, 0x00C0000000000002#72)] })), ?_⟩
    decide +kernel
  · refine ⟨0, (sRun.onTeam 0 (fun m => { m with store := [(65536, 0x20#72)], rmw := some (0, 0#24) })), ?_⟩
    decide +kernel
  · refine ⟨0, ((sRun.put (Reg.TEAM_SKEW_CTL_DOWN 0) 1).put (Reg.TEAM_PROG_PROG 0) 16), ?_⟩
    decide +kernel

/-- `Obligations.StepRunsInstruction`: its hypotheses can hold, clause by clause. -/
theorem wit_StepRunsInstruction :
    (∃ (t : Fin 1024), ∃ (c : StepChecks), ∃ (s : State), t.val < s.nTeams ∧ s.canStep t = true ∧ (s.team t).halted =
     false ∧ s.rxWaits t = false ∧ s.locWaits t = false ∧ s.skewWaits t = false ∧ c.isDouble = []) := by
  refine ⟨0, ⟨[], [], .ok, .ok, false⟩, (sRun.onTeam (0 : Fin 1024) (fun m => { m with halted := false })), ?_⟩
  decide +kernel

/-! ### Witnesses: Boundaries and what reaches a Team -/

/-- `Obligations.BoundaryWaitShowsItsCause`: its hypotheses can hold, clause by clause. -/
theorem wit_BoundaryWaitShowsItsCause :
    (∃ (t : Fin 1024), ∃ (s : State), t.val < s.nTeams ∧ s.atEnd t = true ∧ (s.team t).passNow = false ∧ (s.team t).len ≠
     0 ∧ s.waitCause t ≠ 0) := by
  refine ⟨0, ((sRun.put (Reg.TEAM_STEP_STEP 0) 16)), ?_⟩
  decide +kernel

/-- `Obligations.BoundaryPassBeginsNextStride`: its hypotheses can hold, clause by clause. -/
theorem wit_BoundaryPassBeginsNextStride :
    (∃ (t : Fin 1024), ∃ (s : State), t.val < s.nTeams ∧ s.atEnd t = true ∧ ((s.team t).passNow = true ∨ s.waitCause t =
     0)) := by
  refine ⟨0, (((sRun.put (Reg.TEAM_STEP_STEP 0) 16)).onTeam 0 (fun m => { m with slot := some ⟨0, 16, 1⟩, hinNext := some 0#24 })),
   ?_⟩
  decide +kernel

/-- `Obligations.ChipCompletesBoundary`: its hypotheses can hold, clause by clause. -/
theorem wit_ChipCompletesBoundary :
    (∃ (s : State), s.strideMode = true ∧ s.on Reg.DS_CTL_EN = true ∧ s.runTeams.isEmpty = false ∧ s.allPassed = true ∧
     s.ds.first = false ∧ s.ds.due = none ∧ s.ds.lastTag = some (s.stride + 1)) ∧
    (∃ (s : State), s.strideMode = true ∧ s.on Reg.DS_CTL_EN = true ∧ s.runTeams.isEmpty = false ∧ s.allPassed = true ∧
     s.ds.first = true ∧ s.ds.due = none ∧ s.ds.lastTag = some s.stride) ∧
    (∃ (s : State), (s.allPassed = false ∨ s.ds.due ≠ none)) ∧
    (∃ (s : State), s.strideMode = true ∧ s.chip.hinLatched = false ∧ s.ds.first = false ∧ (∃ t ∈ s.runTeams, (s.team
     t).stride.toNat = s.stride ∧ (s.team t).len ≠ 0 ∧ (s.team t).len ≤ s.stepNo t + 32)) ∧
    (∃ (s : State), s.chip.hinLatched = true) := by
  refine ⟨?_, ?_, ?_, ?_, ?_⟩
  · refine ⟨({ ((sRun.put Reg.DS_CTL_EN 1).onTeam 0 (fun m => { m with stride := 1#64 })) with ds := { State.reset.ds with first := false, due := none, lastTag := some 1 } }
     : State), ?_⟩
    unfold State.allPassed
    rw [runTeams_eq] <;> decide +kernel
  · refine ⟨({ (sRun.put Reg.DS_CTL_EN 1) with ds := { State.reset.ds with first := true, due := none, lastTag := some 0 } }
     : State), ?_⟩
    unfold State.allPassed
    rw [runTeams_eq] <;> decide +kernel
  · refine ⟨sRun, ?_⟩
    decide +kernel
  · refine ⟨({ ({ (sRun.setMode mRun) with chip.hinLatched := false } : State) with ds.first := false } : State), ?_⟩
    decide +kernel
  · refine ⟨({ State.reset with chip.hinLatched := true } : State), ?_⟩
    decide +kernel

/-- `Obligations.ItemsReachTheTeam`: its hypotheses can hold, clause by clause. -/
theorem wit_ItemsReachTheTeam :
    (∃ (t : Fin 1024), ∃ (p : Fin 4), ∃ (s : State), ∃ (e : BitVec 48), ∃ (f : Flit), t.val < s.nTeams ∧ s.strideMode =
     true ∧ (s.signals t p (s.team t).start (s.team t).len)[look (s.router t).matched p]? = some e ∧ (look (s.router
     t).inq p).head? = some f ∧ s.takesBetween t p (s.stepAddr t) (eADDR e) = false ∧ s.deadTarget t e = false ∧ eLSEL e ≠
     1) ∧
    (∃ (t : Fin 1024), ∃ (p : Fin 4), ∃ (s : State), ∃ (e : BitVec 48), ∃ (f : Flit), ∃ n, t.val < s.nTeams ∧ s.strideMode
     = true ∧ (s.signals t p (s.team t).start (s.team t).len)[look (s.router t).matched p]? = some e ∧ (look (s.router
     t).inq p).head? = some f ∧ s.takesBetween t p (s.stepAddr t) (eADDR e) = false ∧ s.deadTarget t e = false ∧ eLSEL e =
     1 ∧ s.leadOf t = some n) ∧
    (∃ (t : Fin 1024), ∃ (p : Fin 4), ∃ (s : State), ∃ (e : BitVec 48), ∃ (f : Flit), t.val < s.nTeams ∧ s.strideMode =
     true ∧ (s.signals t p (s.team t).start (s.team t).len)[look (s.router t).matched p]? = some e ∧ (look (s.router
     t).inq p).head? = some f ∧ s.takesBetween t p (s.stepAddr t) (eADDR e) = false ∧ s.deadTarget t e = true) ∧
    (∃ (t : Fin 1024), ∃ (s : State), ∃ (c : Bool × Bool), ∃ (rest : List (Bool × Bool)), t.val < s.nTeams ∧ s.armed 1 t =
     true ∧ (s.team t).carryIn = c :: rest ∧ (s.team t).carryQ.length < 32) ∧
    (∃ (t : Fin 1024), ∃ (s : State), ∃ (c : Bool × Bool), ∃ (rest : List (Bool × Bool)), t.val < s.nTeams ∧ s.armed 1 t =
     true ∧ (s.team t).carryIn = c :: rest ∧ 32 ≤ (s.team t).carryQ.length) ∧
    (∃ (t : Fin 1024), ∃ (s : State), ∃ (p : Packet), t.val < s.nTeams ∧ (s.router t).boxT.find? (fun p => pTYPE p == 5) =
     some p ∧ pTAG p = (s.team t).stride.toNat % 256 ∧ (s.team t).gwQ.length < 16) ∧
    (∃ (t : Fin 1024), ∃ (s : State), ∃ (p : Packet), t.val < s.nTeams ∧ (s.router t).boxT.find? (fun p => pTYPE p == 5) =
     some p ∧ pTAG p = (s.team t).stride.toNat % 256 ∧ 16 ≤ (s.team t).gwQ.length) ∧
    (∃ (t : Fin 1024), ∃ (s : State), ∃ (p : Packet), t.val < s.nTeams ∧ (s.router t).boxT.find? (fun p => pTYPE p == 5) =
     some p ∧ pTAG p ≠ (s.team t).stride.toNat % 256) ∧
    (∃ (t : Fin 1024), ∃ (p : Fin 4), ∃ (c : Word), ∃ (s : State), t.val < s.nTeams ∧ 0 ≤ sint 32 (c.toNat + 2 ^ 32 -
     (Tab.get (fun _ => 0#32) (s.team t).hat p).toNat) ∧ 0 ≤ sint 32 (s.get (Reg.TEAM_PROG_PROG (s.nb t p)) + 2 ^ 32 -
     c.toNat)) := by
  refine ⟨?_, ?_, ?_, ?_, ?_, ?_, ?_, ?_, ?_⟩
  · refine ⟨0, 0, ((sRun.onRouter 0 (fun m => { m with act := [(0, 17188290560#48)], inq := [(0, [0#120])] })).put
     (Reg.RTR_CTL_ISOLATE 0) 0), 17188290560#48, 0#120, ?_⟩
    decide +kernel
  · refine ⟨0, 0, (((((sRun.put (Reg.RTR_SITE_VALID 16) 1).put (Reg.RTR_SITE_X 16) 0).put (Reg.RTR_SITE_Y 16) 0).put
     (Reg.RTR_CTL_ISOLATE_ATT 0) 0).onRouter 0 (fun m => { m with act := [(0, 8683520#48)], inq := [(0, [0#120])] })),
     8683520#48, 0#120, 0, ?_⟩
    decide +kernel
  · refine ⟨0, 0, ((sRun.onRouter 0 (fun m => { m with act := [(0, 17188290560#48)], inq := [(0, [0#120])] })).put
     (Reg.RTR_CTL_ISOLATE 0) 1), 17188290560#48, 0#120, ?_⟩
    decide +kernel
  · refine ⟨0, (State.reset.onTeam (0 : Fin 1024) (fun m => { m with carryIn := ((true, false) : Bool × Bool) :: ([] : List (Bool × Bool)) })),
     (true, false), [], ?_⟩
    decide +kernel
  · refine ⟨0, (sRun.onTeam 0 (fun m => { m with carryIn := [(true, false)], carryQ := List.replicate 32 (true, false) })),
     (true, false), [], ?_⟩
    decide +kernel
  · refine ⟨0, (sRun.onRouter 0 (fun m => { m with boxT := [⟨BitVec.ofNat 120 (5 * 2 ^ 113), []⟩] })), ⟨BitVec.ofNat 120 (5
     * 2 ^ 113), []⟩, ?_⟩
    decide +kernel
  · refine ⟨0, ((sRun.onRouter 0 (fun m => { m with boxT := [⟨BitVec.ofNat 120 (5 * 2 ^ 113), []⟩] })).onTeam 0 (fun m => { m with gwQ := List.replicate 16 ⟨0, 0, 0#24⟩ })),
     ⟨BitVec.ofNat 120 (5 * 2 ^ 113), []⟩, ?_⟩
    decide +kernel
  · refine ⟨0, (sRun.onRouter 0 (fun m => { m with boxT := [⟨BitVec.ofNat 120 (5 * 2 ^ 113 + 2 ^ 84), []⟩] })),
     ⟨BitVec.ofNat 120 (5 * 2 ^ 113 + 2 ^ 84), []⟩, ?_⟩
    decide +kernel
  · refine ⟨0, 0, 0, State.reset, ?_⟩
    decide +kernel

/-- `Obligations.HangReportsOncePerStride`: its hypotheses can hold, clause by clause. -/
theorem wit_HangReportsOncePerStride :
    (∃ (t : Fin 1024), ∃ (s : State), t.val < s.nTeams ∧ s.get (Reg.TEAM_HANG_CTL_HANG_LIMIT t) ≠ 0 ∧ s.canStep t = true ∧
     (s.get (Reg.TEAM_STEP_STATE t) = 1 ∨ s.get (Reg.TEAM_STEP_STATE t) = 2) ∧ (s.team t).hungSent = false) ∧
    (∃ (t : Fin 1024), ∃ (s : State), t.val < s.nTeams ∧ s.get (Reg.TEAM_HANG_CTL_HANG_LIMIT t) ≠ 0 ∧ s.canStep t = true ∧
     (s.get (Reg.TEAM_STEP_STATE t) = 1 ∨ s.get (Reg.TEAM_STEP_STATE t) = 2) ∧ (s.team t).hungSent = true) ∧
    (∃ (t : Fin 1024), ∃ (s : State), t.val < s.nTeams ∧ s.get (Reg.TEAM_HANG_CTL_HANG_LIMIT t) = 0) := by
  refine ⟨?_, ?_, ?_⟩
  · refine ⟨0, (((sRun.put (Reg.TEAM_HANG_CTL_HANG_LIMIT (0 : Fin 1024)) 1).put (Reg.TEAM_STEP_STATE (0 : Fin 1024))
     1).onTeam (0 : Fin 1024) (fun m => { m with hungSent := false })), ?_⟩
    decide +kernel
  · refine ⟨0, (((sRun.put (Reg.TEAM_HANG_CTL_HANG_LIMIT (0 : Fin 1024)) 1).put (Reg.TEAM_STEP_STATE (0 : Fin 1024))
     1).onTeam (0 : Fin 1024) (fun m => { m with hungSent := true })), ?_⟩
    decide +kernel
  · refine ⟨0, (State.reset.put (Reg.TEAM_HANG_CTL_HANG_LIMIT (0 : Fin 1024)) 0), ?_⟩
    decide +kernel

/-! ### Witnesses: The Domain Scheduler -/

/-- `Obligations.TokensEnterTheStore`: its hypotheses can hold, clause by clause. -/
theorem wit_TokensEnterTheStore :
    (∃ (s : State), ∃ (p : PortTok), ∃ (rest : List PortTok), ∃ e, s.ht.toks = p :: rest ∧
     let k : Token := ⟨p.task, p.opnd, p.data, true, s.nextTag⟩;
     s.tokenBad k = none ∧ s.freeEntry = some e) ∧
    (∃ (s : State), ∃ (p : PortTok), ∃ (rest : List PortTok), s.ht.toks = p :: rest ∧
     let k : Token := ⟨p.task, p.opnd, p.data, true, s.nextTag⟩;
     s.tokenBad k ≠ none) ∧
    (∃ (s : State), s.ht.toks = []) := by
  refine ⟨?_, ?_, ?_⟩
  · refine ⟨({ ((State.reset.put (Reg.DS_TT_CFG_OPND_MASK 0) 1).put (Reg.DS_TT_CFG_HITCH 0) 1) with ht := { State.reset.ht with toks := [⟨0, 0, 5#24⟩] } }
     : State), ⟨0, 0, 5#24⟩, [], 0, ?_⟩
    dsimp only
    decide +kernel
  · refine ⟨({ State.reset with ht.toks := (⟨0, 0, 0⟩ : PortTok) :: ([] : List PortTok) } : State), ⟨0, 0, 0⟩, [], ?_⟩
    dsimp only
    decide +kernel
  · refine ⟨({ State.reset with ht.toks := [] } : State), ?_⟩
    decide +kernel

/-- `Obligations.ConsumptionTakesTheTokens`: its hypotheses can hold, clause by clause. -/
theorem wit_ConsumptionTakesTheTokens :
    (∃ (s : State), s.dueTag = none) ∧
    (∃ (s : State), ∃ (t : Nat), s.ds.due = some t) ∧
    (∃ (s : State), ∃ (n : Nat), s.ds.due = none ∧ s.boundaryInto = some n ∧ s.ds.lastTag ≠ some n) ∧
    (∃ (s : State), ∃ (t : Nat), s.dueTag = some t ∧ s.on Reg.DS_CTL_EN = false) ∧
    (∃ (s : State), ∃ (t : Nat), s.dueTag = some t ∧ s.on Reg.DS_CTL_EN = true ∧ s.horizonOk t = false) ∧
    (∃ (s : State), ∃ (t : Nat), s.dueTag = some t ∧ s.on Reg.DS_CTL_EN = true ∧ s.horizonOk t = true) := by
  refine ⟨?_, ?_, ?_, ?_, ?_, ?_⟩
  · refine ⟨sHost, ?_⟩
    decide +kernel
  · refine ⟨({ sHost with ds.due := some (0 : Nat) } : State), 0, ?_⟩
    decide +kernel
  · refine ⟨({ (sRun.put Reg.DS_CTL_EN 1) with ds := { State.reset.ds with first := true, due := none, lastTag := none } } :
     State), 0, ?_⟩
    unfold State.boundaryInto State.allPassed
    rw [runTeams_eq] <;> decide +kernel
  · refine ⟨({ State.reset with ds := { State.reset.ds with due := some 3 } } : State), 3, ?_⟩
    decide +kernel
  · refine ⟨((({ State.reset with ds := { State.reset.ds with due := some 3 } } : State).put Reg.DS_CTL_EN 1).put
     Reg.DS_CTL_HORIZON_EN 1), 3, ?_⟩
    decide +kernel
  · refine ⟨(({ State.reset with ds := { State.reset.ds with due := some 3 } } : State).put Reg.DS_CTL_EN 1), 3, ?_⟩
    decide +kernel

/-- `Obligations.DecisionChoosesTheProgram`: its hypotheses can hold, clause by clause. -/
theorem wit_DecisionChoosesTheProgram :
    (∃ (s : State), (s.ds.wanted = none ∨ s.on Reg.DS_CTL_EN = false)) ∧
    (∃ (s : State), ∃ (k : Nat), s.ds.wanted = some k ∧ s.on Reg.DS_CTL_EN = true ∧ s.held = true ∧ s.holdH ≤ k) ∧
    (∃ (s : State), ∃ (k : Nat), s.ds.wanted = some k ∧ s.on Reg.DS_CTL_EN = true ∧ s.holdBars k = false ∧ (∃ d ∈
     s.gatedDoms, s.enableOf d k = none)) ∧
    (∃ (s : State), ∃ (k : Nat), s.ds.wanted = some k ∧ s.on Reg.DS_CTL_EN = true ∧ s.holdBars k = false ∧ (∀ d ∈
     s.gatedDoms, (s.enableOf d k).isSome = true) ∧ s.ds.delay ≠ [] ∧ s.ds.skipped < 65536 ∧ s.get Reg.DS_STAT_STATE ≠ 4 ∧
     s.flagWaits = true) ∧
    (∃ (s : State), ∃ (k : Nat), ∃ n, ∃ p, s.ds.wanted = some k ∧ s.on Reg.DS_CTL_EN = true ∧ s.holdBars k = false ∧ (∀ d
     ∈ s.gatedDoms, (s.enableOf d k).isSome = true) ∧ s.ds.delay ≠ [] ∧ s.ds.skipped < 65536 ∧ s.get Reg.DS_STAT_STATE ≠ 4
     ∧ s.flagWaits = false ∧ (s.readyDoms k ≠ [] ∨ s.ds.tasks ≠ 0) ∧ n < 64 ∧ s.on (Reg.DS_SEL_CTL_VALID n) = true ∧ s.get
     (Reg.DS_SEL_CTL_PROG n) = p ∧ readyBits (s.readyDoms k) s.ds.tasks &&& s.smask n = s.sval n ∧ (∀ j, j < n → s.on
     (Reg.DS_SEL_CTL_VALID j) = true → readyBits (s.readyDoms k) s.ds.tasks &&& s.smask j ≠ s.sval j)) ∧
    (∃ (s : State), ∃ (k : Nat), s.ds.wanted = some k ∧ s.on Reg.DS_CTL_EN = true ∧ s.holdBars k = false ∧ (∀ d ∈
     s.gatedDoms, (s.enableOf d k).isSome = true) ∧ s.ds.delay ≠ [] ∧ s.ds.skipped < 65536 ∧ s.get Reg.DS_STAT_STATE ≠ 4 ∧
     s.flagWaits = false ∧ (s.readyDoms k ≠ [] ∨ s.ds.tasks ≠ 0) ∧ (∀ n, n < 64 → s.on (Reg.DS_SEL_CTL_VALID n) = true →
     readyBits (s.readyDoms k) s.ds.tasks &&& s.smask n ≠ s.sval n)) := by
  refine ⟨?_, ?_, ?_, ?_, ?_, ?_⟩
  · refine ⟨({ State.reset with ds.wanted := none } : State), ?_⟩
    decide +kernel
  · refine ⟨((({ State.reset with ds := { State.reset.ds with wanted := some 4 } } : State).put Reg.DS_CTL_EN 1).put
     Reg.LD_HOLD_STAT_HELD 1), 4, ?_⟩
    decide +kernel
  · refine ⟨(((({ State.reset with ds := { State.reset.ds with wanted := some 4, decided := 2, delay := [⟨8, 0, false⟩] } }
     : State).put Reg.DS_CTL_EN 1).put (Reg.DS_DOM_CFG_EDGES 0) 1).put (Reg.DS_DOM_CFG_MASK 0) 2), 4, ?_⟩
    decide +kernel
  · refine ⟨((({ State.reset with ds := { State.reset.ds with wanted := some 4, delay := [⟨8, 0, false⟩] } } : State).put
     Reg.DS_CTL_EN 1).put (Reg.DS_DOM_CFG_MASK 0) 4), 4, ?_⟩
    decide +kernel
  · refine ⟨(((({ State.reset with ds := { State.reset.ds with wanted := some 4, delay := [⟨8, 0, false⟩] } } : State).put
     Reg.DS_CTL_EN 1).put (Reg.DS_SEL_CTL_VALID 0) 1).put (Reg.DS_SEL_CTL_PROG 0) 7), 4, 0, 7, ?_⟩
    decide +kernel
  · refine ⟨(({ State.reset with ds := { State.reset.ds with wanted := some 4, delay := [⟨8, 0, false⟩] } } : State).put
     Reg.DS_CTL_EN 1), 4, ?_⟩
    decide +kernel

/-- `Obligations.DescriptorsReachEveryTeam`: its hypotheses can hold, clause by clause. -/
theorem wit_DescriptorsReachEveryTeam :
    (∃ (s : State), ∃ (w : BitVec 24), ∃ (k : Nat), s.ds.choice = some (w, k) ∧ s.on Reg.DS_CTL_EN = false) ∧
    (∃ (s : State), ∃ (w : BitVec 24), ∃ (k : Nat), s.ds.choice = some (w, k) ∧ s.on Reg.DS_CTL_EN = true ∧ s.holdBars k =
     true) ∧
    (∃ (s : State), ∃ (w : BitVec 24), ∃ (k : Nat), s.ds.choice = some (w, k) ∧ s.on Reg.DS_CTL_EN = true ∧ s.holdBars k =
     false ∧ s.landing = true) ∧
    (∃ (cycles : Nat), ∃ (s : State), ∃ (w : BitVec 24), ∃ (k : Nat), s.ds.choice = some (w, k) ∧ s.on Reg.DS_CTL_EN =
     true ∧ s.holdBars k = false ∧ s.landing = false ∧ s.throttleOk w cycles = false) ∧
    (∃ (cycles : Nat), ∃ (s : State), ∃ (w : BitVec 24), ∃ (k : Nat), s.ds.choice = some (w, k) ∧ s.on Reg.DS_CTL_EN =
     true ∧ s.holdBars k = false ∧ s.landing = false ∧ s.throttleOk w cycles = true) ∧
    (∃ (t : Fin 1024), ∃ (w : BitVec 24), ∃ (s : State), t.val < s.nTeams ∧ s.armed 2 t = true ∧ s.ds.flight = some w ∧
     t.val ∈ s.ds.got) ∧
    (∃ (t : Fin 1024), ∃ (w : BitVec 24), ∃ (s : State), t.val < s.nTeams ∧ s.armed 2 t = true ∧ s.ds.flight = some w ∧
     t.val ∉ s.ds.got ∧ t.val ∈ s.runTeams ∧ bits w.toNat 23 22 = ((s.team t).stride.toNat + 1) % 4) ∧
    (∃ (t : Fin 1024), ∃ (w : BitVec 24), ∃ (s : State), t.val < s.nTeams ∧ s.armed 2 t = true ∧ s.ds.flight = some w ∧
     t.val ∉ s.ds.got ∧ t.val ∈ s.runTeams ∧ bits w.toNat 23 22 ≠ ((s.team t).stride.toNat + 1) % 4) ∧
    (∃ (t : Fin 1024), ∃ (s : State), ¬ t.val < s.nTeams) := by
  refine ⟨?_, ?_, ?_, ?_, ?_, ?_, ?_, ?_, ?_⟩
  · refine ⟨(({ State.reset with ds.choice := some ((0 : BitVec 24), (0 : Nat)) } : State).put Reg.DS_CTL_EN 0), 0, 0, ?_⟩
    decide +kernel
  · refine ⟨((({ State.reset with ds := { State.reset.ds with choice := some (0#24, 4) } } : State).put Reg.DS_CTL_EN 1).put
     Reg.LD_HOLD_STAT_HELD 1), 0#24, 4, ?_⟩
    decide +kernel
  · refine ⟨({ ((sRun.onTeam 0 (fun m => { m with dma := [⟨.landing, .write, 3, 1, [5#24], []⟩] })).put Reg.DS_CTL_EN 1) with ds := { State.reset.ds with choice := some (0#24, 4) } }
     : State), 0#24, 4, ?_⟩
    decide +kernel
  · refine ⟨0, ({ (State.reset.put Reg.DS_CTL_EN 1) with ds := { State.reset.ds with choice := some (0#24, 4), anyIssued := true } }
     : State), 0#24, 4, ?_⟩
    unfold State.landing
    rw [runTeams_eq] <;> decide +kernel
  · refine ⟨0, (({ State.reset with ds.choice := some ((0 : BitVec 24), (0 : Nat)) } : State).put Reg.DS_CTL_EN 1), 0, 0,
     ?_⟩
    unfold State.landing
    rw [runTeams_eq] <;> decide +kernel
  · refine ⟨0, 0, ({ ({ State.reset with ds.flight := some (0 : BitVec 24) } : State) with ds.got := [(0 : Fin 1024).val] }
     : State), ?_⟩
    decide +kernel
  · refine ⟨0, 0x400000#24, ({ sRun with ds := { State.reset.ds with flight := some 0x400000#24 } } : State), ?_⟩
    decide +kernel
  · refine ⟨0, 0, ({ sRun with ds.flight := some (0 : BitVec 24) } : State), ?_⟩
    decide +kernel
  · refine ⟨800, ({ State.reset with fuses := { Fuses.reset with small := true } } : State), ?_⟩
    decide +kernel

/-! ### Witnesses: Routers -/

/-- `Obligations.SlotEntriesAreWritten`: its hypotheses can hold, clause by clause. -/
theorem wit_SlotEntriesAreWritten :
    (∃ (t : Fin 1024), ∃ (s : State), t.val < s.nTeams) ∧
    (∃ (t : Fin 1024), ∃ (s : State), t.val < s.nTeams ∧ s.on (Reg.RTR_SS_IDX_SET t) = true ∧ s.on (Reg.RTR_CTL_SWAP_ARM
     t) = false) ∧
    (∃ (t : Fin 1024), ∃ (s : State), t.val < s.nTeams ∧ s.on (Reg.RTR_SS_IDX_SET t) = false ∧ (s.mode = mIdle ∨ s.mode =
     mLoad)) ∧
    (∃ (t : Fin 1024), ∃ (s : State), t.val < s.nTeams ∧ ((s.on (Reg.RTR_SS_IDX_SET t) = true ∧ s.on (Reg.RTR_CTL_SWAP_ARM
     t) = true) ∨ (s.on (Reg.RTR_SS_IDX_SET t) = false ∧ s.mode ≠ mIdle ∧ s.mode ≠ mLoad))) ∧
    (∃ (t : Fin 1024), ∃ (s : State), t.val < s.nTeams ∧ s.on (Reg.RTR_CTL_SWAP_ARM t) = false ∧ (s.team t).stride.toNat +
     1 < s.swapStride t) ∧
    (∃ (t : Fin 1024), ∃ (s : State), t.val < s.nTeams ∧ s.on (Reg.RTR_CTL_SWAP_ARM t) = false ∧ s.swapStride t ≤ (s.team
     t).stride.toNat + 1) ∧
    (∃ (t : Fin 1024), ∃ (s : State), t.val < s.nTeams ∧ s.on (Reg.RTR_CTL_SWAP_ARM t) = true) ∧
    (∃ (t : Fin 1024), ∃ (s : State), t.val < s.nTeams ∧
     let r := s.router t;
     r.scan = false) ∧
    (∃ (t : Fin 1024), ∃ (s : State), t.val < s.nTeams ∧
     let r := s.router t;
     r.scan = true ∧ s.setBad t (shdValid r) = none) ∧
    (∃ (t : Fin 1024), ∃ (s : State), t.val < s.nTeams ∧
     let r := s.router t;
     r.scan = true ∧ s.setBad t (shdValid r) ≠ none) := by
  refine ⟨?_, ?_, ?_, ?_, ?_, ?_, ?_, ?_, ?_, ?_⟩
  · refine ⟨0, State.reset, ?_⟩
    decide +kernel
  · refine ⟨0, ((State.reset.put (Reg.RTR_SS_IDX_SET (0 : Fin 1024)) 1).put (Reg.RTR_CTL_SWAP_ARM (0 : Fin 1024)) 0), ?_⟩
    decide +kernel
  · refine ⟨0, ((State.reset.put (Reg.RTR_SS_IDX_SET (0 : Fin 1024)) 0).setMode mIdle), ?_⟩
    decide +kernel
  · refine ⟨0, ((State.reset.put (Reg.RTR_SS_IDX_SET (0 : Fin 1024)) 1).put (Reg.RTR_CTL_SWAP_ARM (0 : Fin 1024)) 1), ?_⟩
    decide +kernel
  · refine ⟨0, (State.reset.put (Reg.RTR_SWAP_LO_STRIDE 0) 9), ?_⟩
    decide +kernel
  · refine ⟨0, (State.reset.put (Reg.RTR_CTL_SWAP_ARM (0 : Fin 1024)) 0), ?_⟩
    decide +kernel
  · refine ⟨0, (State.reset.put (Reg.RTR_CTL_SWAP_ARM (0 : Fin 1024)) 1), ?_⟩
    decide +kernel
  · refine ⟨0, (State.reset.onRouter (0 : Fin 1024) (fun m => { m with scan := false })), ?_⟩
    dsimp only
    decide +kernel
  · refine ⟨0, (State.reset.onRouter (0 : Fin 1024) (fun m => { m with scan := true })), ?_⟩
    dsimp only
    decide +kernel
  · refine ⟨0, (State.reset.onRouter 0 (fun m => { m with scan := true, shd := [(0, 8429568#48)] })), ?_⟩
    dsimp only
    decide +kernel

/-- `Obligations.FlitsAreChecked`: its hypotheses can hold, clause by clause. -/
theorem wit_FlitsAreChecked :
    (∃ (t : Fin 1024), ∃ (p : Fin 4), ∃ (s : State), ∃ (x : XFlit), ∃ (rest : List XFlit), t.val < s.nTeams ∧
     let r := s.router t;
     s.armed 0 (4 * t + p) = true ∧ look r.wire p = x :: rest ∧ x.seq ≠ look r.rxSeq p) ∧
    (∃ (t : Fin 1024), ∃ (p : Fin 4), ∃ (s : State), ∃ (c : Check), ∃ (x : XFlit), ∃ (rest : List XFlit), t.val < s.nTeams
     ∧
     let r := s.router t;
     s.armed 0 (4 * t + p) = true ∧ look r.wire p = x :: rest ∧ x.seq = look r.rxSeq p ∧ (c = .double ∨ tagLegal x.tag =
      false)) ∧
    (∃ (t : Fin 1024), ∃ (p : Fin 4), ∃ (s : State), ∃ (c : Check), ∃ (x : XFlit), ∃ (rest : List XFlit), t.val < s.nTeams
     ∧
     let r := s.router t;
     s.armed 0 (4 * t + p) = true ∧ look r.wire p = x :: rest ∧ x.seq = look r.rxSeq p ∧ c ≠ .double ∧ tagLegal x.tag =
      true ∧ x.tag = 0 ∧ 24 ≤ (look r.inq p).length) ∧
    (∃ (t : Fin 1024), ∃ (p : Fin 4), ∃ (s : State), ∃ (c : Check), ∃ (x : XFlit), ∃ (rest : List XFlit), t.val < s.nTeams
     ∧
     let r := s.router t;
     s.armed 0 (4 * t + p) = true ∧ look r.wire p = x :: rest ∧ x.seq = look r.rxSeq p ∧ c ≠ .double ∧ tagLegal x.tag =
      true ∧ x.tag = 0 ∧ (look r.inq p).length < 24) ∧
    (∃ (t : Fin 1024), ∃ (p : Fin 4), ∃ (s : State), ∃ (c : Check), ∃ (x : XFlit), ∃ (rest : List XFlit), ∃ h, ∃ body,
     t.val < s.nTeams ∧
     let r := s.router t;
     s.armed 0 (4 * t + p) = true ∧ look r.wire p = x :: rest ∧ x.seq = look r.rxSeq p ∧ c ≠ .double ∧ tagLegal x.tag =
      true ∧ x.tag ≠ 0 ∧ look r.part (2 * p + tagVC x.tag) ++ [x.data] = h :: body ∧ body.length ≠ pLEN ⟨h, body⟩) ∧
    (∃ (t : Fin 1024), ∃ (p : Fin 4), ∃ (s : State), ∃ (c : Check), ∃ (x : XFlit), ∃ (rest : List XFlit), ∃ h, ∃ body,
     t.val < s.nTeams ∧
     let r := s.router t;
     s.armed 0 (4 * t + p) = true ∧ look r.wire p = x :: rest ∧ x.seq = look r.rxSeq p ∧ c ≠ .double ∧ tagLegal x.tag =
      true ∧ x.tag ≠ 0 ∧ look r.part (2 * p + tagVC x.tag) ++ [x.data] = h :: body ∧ body.length = pLEN ⟨h, body⟩ ∧
      r.drain = false) ∧
    (∃ (t : Fin 1024), ∃ (p : Fin 4), ∃ (s : State), ∃ (c : Check), ∃ (x : XFlit), ∃ (rest : List XFlit), ∃ h, ∃ body,
     t.val < s.nTeams ∧
     let r := s.router t;
     s.armed 0 (4 * t + p) = true ∧ look r.wire p = x :: rest ∧ x.seq = look r.rxSeq p ∧ c ≠ .double ∧ tagLegal x.tag =
      true ∧ x.tag ≠ 0 ∧ look r.part (2 * p + tagVC x.tag) ++ [x.data] = h :: body ∧ body.length = pLEN ⟨h, body⟩ ∧
      r.drain = true) ∧
    (∃ (t : Fin 1024), ∃ (p : Fin 4), ∃ (s : State), t.val < s.nTeams ∧
     let r := s.router t;
     (s.armed 0 (4 * t + p) = false ∨ look r.wire p = [])) ∧
    (∃ (t : Fin 1024), ∃ (p : Fin 4), ∃ (s : State), t.val < s.nTeams ∧
     let r := s.router t;
     look r.await p = true) ∧
    (∃ (t : Fin 1024), ∃ (p : Fin 4), ∃ (s : State), t.val < s.nTeams ∧
     let r := s.router t;
     look r.await p = false) ∧
    (∃ (t : Fin 1024), ∃ (p : Fin 4), ∃ (s : State), t.val < s.nTeams ∧ s.armed 0 (4 * t + p) = true) ∧
    (∃ (t : Fin 1024), ∃ (p : Fin 4), ∃ (s : State), t.val < s.nTeams ∧ s.armed 0 (4 * t + p) = false) := by
  refine ⟨?_, ?_, ?_, ?_, ?_, ?_, ?_, ?_, ?_, ?_, ?_, ?_⟩
  · refine ⟨0, 0, (sRun.onRouter 0 (fun m => { m with wire := [(0, [⟨9, 0, 0#120⟩])] })), ⟨9, 0, 0#120⟩, [], ?_⟩
    dsimp only
    decide +kernel
  · refine ⟨0, 0, (sRun.onRouter 0 (fun m => { m with wire := [(0, [⟨0, 0, 0#120⟩])] })), .double, ⟨0, 0, 0#120⟩, [], ?_⟩
    dsimp only
    decide +kernel
  · refine ⟨0, 0, (sRun.onRouter 0 (fun m => { m with wire := [(0, [⟨0, 0, 0#120⟩])], inq := [(0, List.replicate 24 0#120)] })),
     .ok, ⟨0, 0, 0#120⟩, [], ?_⟩
    dsimp only
    decide +kernel
  · refine ⟨0, 0, (sRun.onRouter 0 (fun m => { m with wire := [(0, [⟨0, 0, 0#120⟩])] })), .ok, ⟨0, 0, 0#120⟩, [], ?_⟩
    dsimp only
    decide +kernel
  · refine ⟨0, 0, (sRun.onRouter 0 (fun m => { m with wire := [(0, [⟨0, 2, 1298074214633706907132624082305024#120⟩])] })),
     .ok, ⟨0, 2, 1298074214633706907132624082305024#120⟩, [], 1298074214633706907132624082305024#120, [], ?_⟩
    dsimp only
    decide +kernel
  · refine ⟨0, 0, (sRun.onRouter 0 (fun m => { m with wire := [(0, [⟨0, 2, 0#120⟩])] })), .ok, ⟨0, 2, 0#120⟩, [], 0#120, [],
     ?_⟩
    dsimp only
    decide +kernel
  · refine ⟨0, 0, (sRun.onRouter 0 (fun m => { m with wire := [(0, [⟨0, 2, 0#120⟩])], drain := true })), .ok, ⟨0, 2, 0#120⟩,
     [], 0#120, [], ?_⟩
    dsimp only
    decide +kernel
  · refine ⟨0, 0, State.reset, ?_⟩
    dsimp only
    decide +kernel
  · refine ⟨0, 0, (State.reset.onRouter (0 : Fin 1024) (fun m => { m with await := [((0 : Fin 4), true)] })), ?_⟩
    dsimp only
    decide +kernel
  · refine ⟨0, 0, (State.reset.onRouter (0 : Fin 1024) (fun m => { m with await := [((0 : Fin 4), false)] })), ?_⟩
    dsimp only
    decide +kernel
  · refine ⟨0, 0, State.reset, ?_⟩
    decide +kernel
  · refine ⟨0, 0, ({ State.reset with chip := { State.reset.chip with disarmed := [0] } } : State), ?_⟩
    decide +kernel

/-- `Obligations.PacketsAreInjectedAndRouted`: its hypotheses can hold, clause by clause. -/
theorem wit_PacketsAreInjectedAndRouted :
    (∃ (t : Fin 1024), ∃ (i : Nat), ∃ (s : State), t.val < s.nTeams ∧
     let r := s.router t;
     r.inject[i]? = none) ∧
    (∃ (t : Fin 1024), ∃ (i : Nat), ∃ (s : State), ∃ (p : Packet), t.val < s.nTeams ∧
     let r := s.router t;
     r.inject[i]? = some p ∧
     let prior := (r.inject.take i).any (fun q => pointOf q == pointOf p && pCLASS q == pCLASS p);
     (prior = true ∨ s.on (Reg.RTR_CTL_FREEZE t) = true ∨ (pSTGT p = 1 ∧ s.on (Reg.RTR_CTL_ISOLATE_ATT t) = true) ∨ (pSTGT
      p = 0 ∧ s.on (Reg.RTR_CTL_ISOLATE t) = true))) ∧
    (∃ (t : Fin 1024), ∃ (i : Nat), ∃ (s : State), ∃ (p : Packet), t.val < s.nTeams ∧
     let r := s.router t;
     r.inject[i]? = some p ∧
     let prior := (r.inject.take i).any (fun q => pointOf q == pointOf p && pCLASS q == pCLASS p);
     prior = false ∧ s.on (Reg.RTR_CTL_FREEZE t) = false ∧ (pSTGT p = 1 → s.on (Reg.RTR_CTL_ISOLATE_ATT t) = false) ∧
      (pSTGT p = 0 → s.on (Reg.RTR_CTL_ISOLATE t) = false) ∧ s.badDest p = true ∧ isReq p = true) ∧
    (∃ (t : Fin 1024), ∃ (i : Nat), ∃ (s : State), ∃ (p : Packet), t.val < s.nTeams ∧
     let r := s.router t;
     r.inject[i]? = some p ∧
     let prior := (r.inject.take i).any (fun q => pointOf q == pointOf p && pCLASS q == pCLASS p);
     prior = false ∧ s.on (Reg.RTR_CTL_FREEZE t) = false ∧ (pSTGT p = 1 → s.on (Reg.RTR_CTL_ISOLATE_ATT t) = false) ∧
      (pSTGT p = 0 → s.on (Reg.RTR_CTL_ISOLATE t) = false) ∧ s.badDest p = true ∧ isReq p = false) ∧
    (∃ (t : Fin 1024), ∃ (i : Nat), ∃ (s : State), ∃ (p : Packet), t.val < s.nTeams ∧
     let r := s.router t;
     r.inject[i]? = some p ∧
     let prior := (r.inject.take i).any (fun q => pointOf q == pointOf p && pCLASS q == pCLASS p);
     prior = false ∧ s.on (Reg.RTR_CTL_FREEZE t) = false ∧ (pSTGT p = 1 → s.on (Reg.RTR_CTL_ISOLATE_ATT t) = false) ∧
      (pSTGT p = 0 → s.on (Reg.RTR_CTL_ISOLATE t) = false) ∧ s.badDest p = false ∧ pCLASS p = 7) ∧
    (∃ (t : Fin 1024), ∃ (i : Nat), ∃ (s : State), ∃ (p : Packet), t.val < s.nTeams ∧
     let r := s.router t;
     r.inject[i]? = some p ∧
     let n := p.body.length + 1;
     let k := 8 * pointOf p + pCLASS p;
     let prior := (r.inject.take i).any (fun q => pointOf q == pointOf p && pCLASS q == pCLASS p);
     prior = false ∧ s.on (Reg.RTR_CTL_FREEZE t) = false ∧ (pSTGT p = 1 → s.on (Reg.RTR_CTL_ISOLATE_ATT t) = false) ∧
      (pSTGT p = 0 → s.on (Reg.RTR_CTL_ISOLATE t) = false) ∧ s.badDest p = false ∧ pCLASS p ≠ 7 ∧ n ≤ look r.tokens k) ∧
    (∃ (t : Fin 1024), ∃ (i : Nat), ∃ (s : State), ∃ (p : Packet), t.val < s.nTeams ∧
     let r := s.router t;
     r.inject[i]? = some p ∧
     let n := p.body.length + 1;
     let k := 8 * pointOf p + pCLASS p;
     let prior := (r.inject.take i).any (fun q => pointOf q == pointOf p && pCLASS q == pCLASS p);
     prior = false ∧ s.on (Reg.RTR_CTL_FREEZE t) = false ∧ (pSTGT p = 1 → s.on (Reg.RTR_CTL_ISOLATE_ATT t) = false) ∧
      (pSTGT p = 0 → s.on (Reg.RTR_CTL_ISOLATE t) = false) ∧ s.badDest p = false ∧ pCLASS p ≠ 7 ∧ look r.tokens k < n ∧
      s.on (Reg.RTR_REG_EXCESS (pCLASS p)) = true) ∧
    (∃ (t : Fin 1024), ∃ (i : Nat), ∃ (s : State), ∃ (p : Packet), t.val < s.nTeams ∧
     let r := s.router t;
     r.inject[i]? = some p ∧
     let n := p.body.length + 1;
     let k := 8 * pointOf p + pCLASS p;
     let prior := (r.inject.take i).any (fun q => pointOf q == pointOf p && pCLASS q == pCLASS p);
     prior = false ∧ s.on (Reg.RTR_CTL_FREEZE t) = false ∧ (pSTGT p = 1 → s.on (Reg.RTR_CTL_ISOLATE_ATT t) = false) ∧
      (pSTGT p = 0 → s.on (Reg.RTR_CTL_ISOLATE t) = false) ∧ s.badDest p = false ∧ pCLASS p ≠ 7 ∧ look r.tokens k < n ∧
      s.on (Reg.RTR_REG_EXCESS (pCLASS p)) = false) ∧
    (∃ (t : Fin 1024), ∃ (s : State), t.val < s.nTeams) ∧
    (∃ (t : Fin 1024), ∃ (out : Fin 5), ∃ (s : State), t.val < s.nTeams ∧ ((s.on (Reg.RTR_CTL_FREEZE t) = true ∧ (s.router
     t).drain = false) ∨ s.pick t out = none)) ∧
    (∃ (t : Fin 1024), ∃ (out : Fin 5), ∃ (s : State), ∃ (key : Nat), ∃ (p : Packet), t.val < s.nTeams ∧ s.pick t out =
     some (key, p)) ∧
    (∃ (t : Fin 1024), ∃ (out : Fin 5), ∃ (s : State), ∃ (key : Nat), ∃ (p : Packet), ∃ j, t.val < s.nTeams ∧ s.pick t out
     = some (key, p) ∧ pPRI p = 0 ∧ j < 10) ∧
    (∃ (t : Fin 1024), ∃ (out : Fin 5), ∃ (s : State), ∃ (key : Nat), ∃ (p : Packet), t.val < s.nTeams ∧ s.pick t out =
     some (key, p) ∧ (s.on (Reg.RTR_CTL_FREEZE t) = false ∨ (s.router t).drain = true) ∧ out = 4) ∧
    (∃ (t : Fin 1024), ∃ (out : Fin 5), ∃ (s : State), ∃ (key : Nat), ∃ (p : Packet), t.val < s.nTeams ∧ s.pick t out =
     some (key, p) ∧ (s.on (Reg.RTR_CTL_FREEZE t) = false ∨ (s.router t).drain = true) ∧ out ≠ 4) ∧
    (∃ (s : State), (∀ k : Fin 8, s.on (Reg.RTR_PRB_CTL_EN k) = false)) := by
  refine ⟨?_, ?_, ?_, ?_, ?_, ?_, ?_, ?_, ?_, ?_, ?_, ?_, ?_, ?_, ?_⟩
  · refine ⟨0, 0, State.reset, ?_⟩
    dsimp only
    decide +kernel
  · refine ⟨0, 0, ((State.reset.onRouter (0 : Fin 1024) (fun m => { m with inject := [(⟨0, []⟩ : Packet)] })).put
     (Reg.RTR_CTL_FREEZE (0 : Fin 1024)) 1), ⟨0, []⟩, ?_⟩
    dsimp only
    decide +kernel
  · refine ⟨0, 0, (State.reset.onRouter 0 (fun m => { m with inject := [⟨243388915243820045087367015432192#120, []⟩] })),
     ⟨243388915243820045087367015432192#120, []⟩, ?_⟩
    dsimp only
    decide +kernel
  · refine ⟨0, 0, (((State.reset.put (Reg.RTR_CTL_FREEZE 0) 0).put (Reg.RTR_CTL_ISOLATE 0) 0).onRouter 0 (fun m => { m with inject := [⟨21012576349383130559209352332312576#120, []⟩] })),
     ⟨21012576349383130559209352332312576#120, []⟩, ?_⟩
    dsimp only
    decide +kernel
  · refine ⟨0, 0, ((State.reset.onRouter (0 : Fin 1024) (fun m => { m with inject := [(⟨1163074496316637092069289694444126208#120, []⟩ : Packet)] })).put
     (Reg.RTR_CTL_FREEZE (0 : Fin 1024)) 0), ⟨1163074496316637092069289694444126208#120, []⟩, ?_⟩
    dsimp only
    decide +kernel
  · refine ⟨0, 0, (((State.reset.onRouter (0 : Fin 1024) (fun m => { m with inject := [(⟨4835703278458516698824704#120, []⟩ : Packet)] })).put
     (Reg.RTR_CTL_FREEZE (0 : Fin 1024)) 0).onRouter (0 : Fin 1024) (fun m => { m with tokens := [((8 * pointOf (⟨4835703278458516698824704#120, []⟩ : Packet) + pCLASS (⟨4835703278458516698824704#120, []⟩ : Packet)), ((⟨4835703278458516698824704#120, []⟩ : Packet).body.length + 1))] })),
     ⟨4835703278458516698824704#120, []⟩, ?_⟩
    dsimp only
    decide +kernel
  · refine ⟨0, 0, (((State.reset.onRouter (0 : Fin 1024) (fun m => { m with inject := [(⟨4835703278458516698824704#120, []⟩ : Packet)] })).put
     (Reg.RTR_CTL_FREEZE (0 : Fin 1024)) 0).put (Reg.RTR_REG_EXCESS (pCLASS (⟨4835703278458516698824704#120, []⟩ : Packet)))
     1), ⟨4835703278458516698824704#120, []⟩, ?_⟩
    dsimp only
    decide +kernel
  · refine ⟨0, 0, (((State.reset.onRouter (0 : Fin 1024) (fun m => { m with inject := [(⟨4835703278458516698824704#120, []⟩ : Packet)] })).put
     (Reg.RTR_CTL_FREEZE (0 : Fin 1024)) 0).put (Reg.RTR_REG_EXCESS (pCLASS (⟨4835703278458516698824704#120, []⟩ : Packet)))
     0), ⟨4835703278458516698824704#120, []⟩, ?_⟩
    dsimp only
    decide +kernel
  · refine ⟨0, State.reset, ?_⟩
    decide +kernel
  · refine ⟨0, 0, ((State.reset.put (Reg.RTR_CTL_FREEZE (0 : Fin 1024)) 1).onRouter (0 : Fin 1024) (fun m => { m with drain := false })),
     ?_⟩
    decide +kernel
  · refine ⟨0, 4, (((State.reset.put (Reg.RTR_CTL_FREEZE 0) 0).put (Reg.RTR_CTL_ISOLATE 0) 0).onRouter 0 (fun m => { m with dyn := [(0, [⟨0#120, []⟩])] })),
     0, ⟨0#120, []⟩, ?_⟩
    decide +kernel
  · refine ⟨0, 4, (((State.reset.put (Reg.RTR_CTL_FREEZE 0) 0).put (Reg.RTR_CTL_ISOLATE 0) 0).onRouter 0 (fun m => { m with dyn := [(0, [⟨0#120, []⟩])] })),
     0, ⟨0#120, []⟩, 0, ?_⟩
    decide +kernel
  · refine ⟨0, 4, (((State.reset.put (Reg.RTR_CTL_FREEZE 0) 0).put (Reg.RTR_CTL_ISOLATE 0) 0).onRouter 0 (fun m => { m with dyn := [(0, [⟨0#120, []⟩])] })),
     0, ⟨0#120, []⟩, ?_⟩
    decide +kernel
  · refine ⟨0, 2, (((State.reset.put (Reg.RTR_CTL_FREEZE 0) 0).put (Reg.RTR_CTL_ISOLATE 0) 0).onRouter 0 (fun m => { m with dyn := [(8, [⟨79228162514264337593543950336#120, []⟩])] })),
     8, ⟨79228162514264337593543950336#120, []⟩, ?_⟩
    decide +kernel
  · refine ⟨State.reset, ?_⟩
    decide +kernel

/-- `Obligations.FreezingAndIsolation`: its hypotheses can hold, clause by clause. -/
theorem wit_FreezingAndIsolation :
    (∃ (t : Fin 1024), ∃ (s : State), ∃ (v : Word), t.val < s.nTeams ∧
     let refused := v.getLsbD 2 = true ∧ s.on (Reg.RTR_CTL_FREEZE t) = false ∧ s.strideMode = true ∧ v.getLsbD 0 = false ∧ v.getLsbD 1 = false;
     refused) ∧
    (∃ (t : Fin 1024), ∃ (s : State), ∃ (v : Word), t.val < s.nTeams ∧
     let refused := v.getLsbD 2 = true ∧ s.on (Reg.RTR_CTL_FREEZE t) = false ∧ s.strideMode = true ∧ v.getLsbD 0 = false ∧ v.getLsbD 1 = false;
     ¬ refused) ∧
    (∃ (t : Fin 1024), ∃ (s : State), t.val < s.nTeams) ∧
    (∃ (t : Fin 1024), ∃ (s : State), t.val < s.nTeams ∧
     let r := s.router t;
     (s.on (Reg.RTR_CTL_FREEZE t) = false ∨ r.drain = true)) ∧
    (∃ (t : Fin 1024), ∃ (s : State), t.val < s.nTeams ∧
     let r := s.router t;
     s.on (Reg.RTR_CTL_FREEZE t) = true ∧ r.drain = false) ∧
    (∃ (t : Fin 1024), ∃ (s : State), ∃ (p : Packet), t.val < s.nTeams ∧ isReq p = true) ∧
    (∃ (t : Fin 1024), ∃ (s : State), ∃ (p : Packet), t.val < s.nTeams ∧ isReq p = false) ∧
    (∃ (t : Fin 1024), ∃ (s : State), t.val < s.nTeams ∧
     let r := s.router t;
     (r.arrived = [] ∨ (∃ p rest, r.arrived = p :: rest ∧ 2 ≤ pTGT p))) ∧
    (∃ (t : Fin 1024), ∃ (s : State), ∃ (p : Packet), ∃ (rest : List Packet), t.val < s.nTeams ∧
     let r := s.router t;
     r.arrived = p :: rest ∧ pTGT p < 2) := by
  refine ⟨?_, ?_, ?_, ?_, ?_, ?_, ?_, ?_, ?_⟩
  · refine ⟨0, ((State.reset.put (Reg.RTR_CTL_FREEZE (0 : Fin 1024)) 0).setMode mRun), 4, ?_⟩
    dsimp only
    decide +kernel
  · refine ⟨0, State.reset, 0, ?_⟩
    dsimp only
    decide +kernel
  · refine ⟨0, State.reset, ?_⟩
    decide +kernel
  · refine ⟨0, (State.reset.put (Reg.RTR_CTL_FREEZE (0 : Fin 1024)) 0), ?_⟩
    dsimp only
    decide +kernel
  · refine ⟨0, ((State.reset.put (Reg.RTR_CTL_FREEZE (0 : Fin 1024)) 1).onRouter (0 : Fin 1024) (fun m => { m with drain := false })),
     ?_⟩
    dsimp only
    decide +kernel
  · refine ⟨0, State.reset, ⟨0, []⟩, ?_⟩
    decide +kernel
  · refine ⟨0, State.reset, ⟨20769187434139310514121985316880384#120, []⟩, ?_⟩
    decide +kernel
  · exact ⟨0, State.reset, by decide +kernel, Or.inl (by decide +kernel)⟩
  · refine ⟨0, (State.reset.onRouter (0 : Fin 1024) (fun m => { m with arrived := (⟨0, []⟩ : Packet) :: ([] : List Packet) })),
     ⟨0, []⟩, [], ?_⟩
    dsimp only
    decide +kernel

/-! ### Witnesses: The units of a Team and its memories -/

/-- `Obligations.SumsCarryAndOverflow`: its hypotheses can hold, clause by clause. -/
theorem wit_SumsCarryAndOverflow :
    (∃ (w : BitVec 72), 1 ≤ wOP w ∧ wOP w ≤ 4) ∧
    (∃ (w : BitVec 72), 1 ≤ wOP w ∧ wOP w ≤ 4 ∧ wOP w = 3) ∧
    (∃ (w : BitVec 72), ¬ (1 ≤ wOP w ∧ wOP w ≤ 4)) ∧
    (∃ (w : BitVec 72), ∃ (v : BitVec 72), ¬ (1 ≤ wOP w ∧ wOP w ≤ 4) ∧ wOP v = wOP w ∧ wIMM v = wIMM w ∧ wSA v = wSA w ∧
     wSB v = wSB w ∧ wSC v = wSC w) := by
  refine ⟨?_, ?_, ?_, ?_⟩
  · refine ⟨1#72, ?_⟩
    decide +kernel
  · refine ⟨3#72, ?_⟩
    decide +kernel
  · refine ⟨0, ?_⟩
    decide +kernel
  · refine ⟨0, 0, ?_⟩
    decide +kernel

/-- `Obligations.ComparisonsAndProducts`: its hypotheses can hold, clause by clause. -/
theorem wit_ComparisonsAndProducts :
    (∃ (w : BitVec 72), wOP w = 0x08) ∧
    (∃ (w : BitVec 72), wOP w = 0x09) ∧
    (∃ (w : BitVec 72), wOP w = 0x0A) ∧
    (∃ (w : BitVec 72), wOP w = 0x0C) ∧
    (∃ (w : BitVec 72), wOP w = 0x0D) ∧
    (∃ (w : BitVec 72), wOP w = 0x0E) := by
  refine ⟨?_, ?_, ?_, ?_, ?_, ?_⟩
  · refine ⟨8#72, ?_⟩
    decide +kernel
  · refine ⟨9#72, ?_⟩
    decide +kernel
  · refine ⟨10#72, ?_⟩
    decide +kernel
  · refine ⟨12#72, ?_⟩
    decide +kernel
  · refine ⟨13#72, ?_⟩
    decide +kernel
  · refine ⟨14#72, ?_⟩
    decide +kernel

/-- `Obligations.ShiftsAndRotates`: its hypotheses can hold, clause by clause. -/
theorem wit_ShiftsAndRotates :
    (∃ (w : BitVec 72), wOP w = 0x14) ∧
    (∃ (w : BitVec 72), wOP w = 0x15) ∧
    (∃ (w : BitVec 72), ∃ (i : Nat), wOP w = 0x16 ∧ i < 24) ∧
    (∃ (w : BitVec 72), ∃ (i : Nat), wOP w = 0x17 ∧ i < 24) ∧
    (∃ (w : BitVec 72), ∃ (i : Nat), wOP w = 0x18 ∧ i < 24) := by
  refine ⟨?_, ?_, ?_, ?_, ?_⟩
  · refine ⟨20#72, ?_⟩
    decide +kernel
  · refine ⟨21#72, ?_⟩
    decide +kernel
  · refine ⟨22#72, 23, ?_⟩
    decide +kernel
  · refine ⟨23#72, 23, ?_⟩
    decide +kernel
  · refine ⟨24#72, 23, ?_⟩
    decide +kernel

/-- `Obligations.StrideNumberIsWrittenWhole`: its hypotheses can hold, clause by clause. -/
theorem wit_StrideNumberIsWrittenWhole :
    (∃ (s : State), s.on Reg.DS_CTL_EN = false) ∧
    (∃ (s : State), s.on Reg.DS_CTL_EN = true) := by
  refine ⟨?_, ?_⟩
  · refine ⟨(State.reset.put Reg.DS_CTL_EN 0), ?_⟩
    decide +kernel
  · refine ⟨(State.reset.put Reg.DS_CTL_EN 1), ?_⟩
    decide +kernel

/-- `Obligations.InstructionStoresAreWritten`: its hypotheses can hold, clause by clause. -/
theorem wit_InstructionStoresAreWritten :
    (∃ (t : Fin 1024), ∃ (s : State), t.val < s.nTeams ∧ (s.mode = mIdle ∨ s.mode = mLoad) ∧ s.get (Reg.TEAM_PWR_STATE t)
     = 1) ∧
    (∃ (t : Fin 1024), ∃ (s : State), t.val < s.nTeams ∧ (s.mode = mIdle ∨ s.mode = mLoad) ∧ s.get (Reg.TEAM_PWR_STATE t)
     = 1) ∧
    (∃ (t : Fin 1024), ∃ (s : State), t.val < s.nTeams ∧ ((s.mode ≠ mIdle ∧ s.mode ≠ mLoad) ∨ s.get (Reg.TEAM_PWR_STATE t)
     ≠ 1)) ∧
    (∃ (t : Fin 1024), ∃ (s : State), t.val < s.nTeams ∧ ((s.mode ≠ mIdle ∧ s.mode ≠ mLoad) ∨ s.get (Reg.TEAM_PWR_STATE t)
     ≠ 1)) := by
  refine ⟨?_, ?_, ?_, ?_⟩
  · refine ⟨0, ((State.reset.setMode mIdle).put (Reg.TEAM_PWR_STATE (0 : Fin 1024)) 1), ?_⟩
    decide +kernel
  · refine ⟨0, ((State.reset.setMode mIdle).put (Reg.TEAM_PWR_STATE (0 : Fin 1024)) 1), ?_⟩
    decide +kernel
  · refine ⟨0, (State.reset.setMode mRun), ?_⟩
    decide +kernel
  · refine ⟨0, (State.reset.setMode mRun), ?_⟩
    decide +kernel

/-- `Obligations.DesignMemoryByDma`: its hypotheses can hold, clause by clause (part 1 of 2). -/
theorem wit_DesignMemoryByDma :
    (∃ (t : Fin 1024), ∃ (s : State), ∃ (host : Bool), ∃ (a : BitVec 15), t.val < s.nTeams ∧ (if host then s.hostMayWrite
     = true else s.strideMode = false) ∧ s.bankReady t (a.toNat / 2 ^ 14) = true) ∧
    (∃ (t : Fin 1024), ∃ (s : State), ∃ (host : Bool), ∃ (a : BitVec 15), t.val < s.nTeams ∧ (if host then s.hostMayWrite
     = true else s.strideMode = false) ∧ s.bankReady t (a.toNat / 2 ^ 14) = false) ∧
    (∃ (t : Fin 1024), ∃ (s : State), t.val < s.nTeams ∧ s.hostMayWrite = false) ∧
    (∃ (t : Fin 1024), ∃ (s : State), t.val < s.nTeams ∧ s.strideMode = true) ∧
    (∃ (t : Fin 1024), ∃ (s : State), t.val < s.nTeams ∧
     let m := s.team t;
     m.dma = []) ∧
    (∃ (t : Fin 1024), ∃ (s : State), ∃ (r : DmaReq), ∃ (rest : List DmaReq), t.val < s.nTeams ∧
     let m := s.team t;
     m.dma = r :: rest ∧
     let ready := s.bankReady t (r.addr / 2 ^ 14);
     r.kind = .read ∧ ready = true) ∧
    (∃ (t : Fin 1024), ∃ (s : State), ∃ (r : DmaReq), ∃ (rest : List DmaReq), t.val < s.nTeams ∧
     let m := s.team t;
     m.dma = r :: rest ∧
     let ready := s.bankReady t (r.addr / 2 ^ 14);
     r.kind = .read ∧ ready = false) ∧
    (∃ (t : Fin 1024), ∃ (s : State), ∃ (r : DmaReq), ∃ (rest : List DmaReq), t.val < s.nTeams ∧
     let m := s.team t;
     m.dma = r :: rest ∧
     let ready := s.bankReady t (r.addr / 2 ^ 14);
     r.kind = .write ∧ ready = true) ∧
    (∃ (t : Fin 1024), ∃ (s : State), ∃ (r : DmaReq), ∃ (rest : List DmaReq), t.val < s.nTeams ∧
     let m := s.team t;
     m.dma = r :: rest ∧
     let ready := s.bankReady t (r.addr / 2 ^ 14);
     r.kind = .setBits ∧ ready = true) ∧
    (∃ (t : Fin 1024), ∃ (s : State), ∃ (r : DmaReq), ∃ (rest : List DmaReq), t.val < s.nTeams ∧
     let m := s.team t;
     m.dma = r :: rest ∧
     let ready := s.bankReady t (r.addr / 2 ^ 14);
     r.kind = .clearBits ∧ ready = true) ∧
    (∃ (t : Fin 1024), ∃ (s : State), ∃ (r : DmaReq), ∃ (rest : List DmaReq), t.val < s.nTeams ∧
     let m := s.team t;
     m.dma = r :: rest ∧
     let ready := s.bankReady t (r.addr / 2 ^ 14);
     r.kind ≠ .read ∧ ready = false) ∧
    (∃ (t : Fin 1024), ∃ (s : State), ∃ (r : DmaReq), t.val < s.nTeams ∧ r.src = .host) ∧
    (∃ (t : Fin 1024), ∃ (s : State), ∃ (r : DmaReq), ∃ p, t.val < s.nTeams ∧ r.src = .packet p) ∧
    (∃ (t : Fin 1024), ∃ (s : State), ∃ (r : DmaReq), t.val < s.nTeams ∧ (r.src = .groom ∨ r.src = .landing)) ∧
    (∃ (t : Fin 1024), ∃ (s : State), t.val < s.nTeams) ∧
    (∃ (t : Fin 1024), ∃ (s : State), t.val < s.nTeams ∧
     let m := s.team t;
     s.canStep t = true ∧ m.halted = false ∧ m.dma ≠ []) := by
  refine ⟨?_, ?_, ?_, ?_, ?_, ?_, ?_, ?_, ?_, ?_, ?_, ?_, ?_, ?_, ?_, ?_⟩
  · refine ⟨0, (sOn.put (readyFld 0 0) 1), false, 0, ?_⟩
    decide +kernel
  · refine ⟨0, State.reset, false, 0, ?_⟩
    decide +kernel
  · refine ⟨0, sRun, ?_⟩
    decide +kernel
  · refine ⟨0, (State.reset.setMode mRun), ?_⟩
    decide +kernel
  · refine ⟨0, (State.reset.onTeam (0 : Fin 1024) (fun m => { m with dma := [] })), ?_⟩
    dsimp only
    decide +kernel
  · refine ⟨0, ((sOn.put (readyFld 0 0) 1).onTeam 0 (fun m => { m with dma := [⟨.host, .read, 3, 1, [5#24], []⟩] })),
     ⟨.host, .read, 3, 1, [5#24], []⟩, [], ?_⟩
    dsimp only
    decide +kernel
  · refine ⟨0, (State.reset.onTeam (0 : Fin 1024) (fun m => { m with dma := (({ (⟨.host, .read, 0, 1, [], []⟩ : DmaReq) with kind := .read }) : DmaReq) :: ([] : List DmaReq) })),
     ({ (⟨.host, .read, 0, 1, [], []⟩ : DmaReq) with kind := .read }), [], ?_⟩
    dsimp only
    decide +kernel
  · refine ⟨0, ((sOn.put (readyFld 0 0) 1).onTeam 0 (fun m => { m with dma := [⟨.groom, .write, 3, 1, [5#24], []⟩] })),
     ⟨.groom, .write, 3, 1, [5#24], []⟩, [], ?_⟩
    dsimp only
    decide +kernel
  · refine ⟨0, ((sOn.put (readyFld 0 0) 1).onTeam 0 (fun m => { m with dma := [⟨.host, .setBits, 3, 1, [5#24], []⟩] })),
     ⟨.host, .setBits, 3, 1, [5#24], []⟩, [], ?_⟩
    dsimp only
    decide +kernel
  · refine ⟨0, ((sOn.put (readyFld 0 0) 1).onTeam 0 (fun m => { m with dma := [⟨.host, .clearBits, 3, 1, [5#24], []⟩] })),
     ⟨.host, .clearBits, 3, 1, [5#24], []⟩, [], ?_⟩
    dsimp only
    decide +kernel
  · refine ⟨0, (sOn.onTeam 0 (fun m => { m with dma := [⟨.host, .write, 3, 1, [5#24], []⟩] })), ⟨.host, .write, 3, 1,
     [5#24], []⟩, [], ?_⟩
    dsimp only
    decide +kernel
  · refine ⟨0, State.reset, ({ (⟨.host, .read, 0, 1, [], []⟩ : DmaReq) with src := .host }), ?_⟩
    decide +kernel
  · refine ⟨0, State.reset, ({ (⟨.host, .read, 0, 1, [], []⟩ : DmaReq) with src := .packet (⟨0, []⟩ : Packet) }), ⟨0, []⟩,
     ?_⟩
    decide +kernel
  · refine ⟨0, State.reset, ({ (⟨.host, .read, 0, 1, [], []⟩ : DmaReq) with src := .groom }), ?_⟩
    decide +kernel
  · refine ⟨0, State.reset, ?_⟩
    decide +kernel
  · refine ⟨0, ((sRun.put (readyFld 0 0) 1).onTeam 0 (fun m => { m with dma := [⟨.landing, .write, 3, 1, [5#24], []⟩] })),
     ?_⟩
    dsimp only
    decide +kernel

/-- `Obligations.DesignMemoryByDma`: its hypotheses can hold, clause by clause (part 2 of 2). -/
theorem wit_DesignMemoryByDma_2 :
    (∃ (t : Fin 1024), ∃ (s : State), t.val < s.nTeams ∧
     let m := s.team t;
     ¬ (s.canStep t = true ∧ m.halted = false ∧ m.dma ≠ [])) := by
  refine ⟨0, State.reset, ?_⟩
  dsimp only
  decide +kernel

/-- `Obligations.PatrolsAndBankPower`: its hypotheses can hold, clause by clause. -/
theorem wit_PatrolsAndBankPower :
    (∃ (t : Fin 1024), ∃ (s : State), t.val < s.nTeams ∧
     let m := s.team t;
     (s.on (Reg.TEAM_DM_CTL_PATROL_EN t) = false ∨ s.teamOn t = false ∨ s.nextRegion t m.patrolAt = none)) ∧
    (∃ (t : Fin 1024), ∃ (s : State), ∃ (r : Nat), t.val < s.nTeams ∧
     let m := s.team t;
     s.on (Reg.TEAM_DM_CTL_PATROL_EN t) = true ∧ s.teamOn t = true ∧ s.nextRegion t m.patrolAt = some r) ∧
    (∃ (t : Fin 1024), ∃ (s : State), t.val < s.nTeams ∧ (s.on (Reg.TEAM_DM_CTL_IS_PATROL_EN t) = false ∨ s.teamOn t =
     false)) ∧
    (∃ (t : Fin 1024), ∃ (s : State), t.val < s.nTeams ∧ s.on (Reg.TEAM_DM_CTL_IS_PATROL_EN t) = true ∧ s.teamOn t = true
     ∧ s.mode ≠ mIdle) ∧
    (∃ (t : Fin 1024), ∃ (s : State), ∃ (c : Check), t.val < s.nTeams ∧
     let m := s.team t;
     s.on (Reg.TEAM_DM_CTL_IS_PATROL_EN t) = true ∧ s.teamOn t = true ∧
     let a := s.setTeam t { m with isPatrolAt := (m.isPatrolAt + 1) % (65 * 1024) };
     let b := match c with | .ok => a | .single => (a.corrected t (Reg.TEAM_DM_CECNT_IS_CECNT t) 1).set1 (Reg.TEAM_DM_STAT_IS_CE t) | .double => a.isUe t (m.isPatrolAt / 1024) (m.isPatrolAt % 1024);
     s.mode = mIdle ∧ b.mode ≠ mIdle) ∧
    (∃ (t : Fin 1024), ∃ (s : State), ∃ (c : Check), t.val < s.nTeams ∧
     let m := s.team t;
     s.on (Reg.TEAM_DM_CTL_IS_PATROL_EN t) = true ∧ s.teamOn t = true ∧
     let a := s.setTeam t { m with isPatrolAt := (m.isPatrolAt + 1) % (65 * 1024) };
     let b := match c with | .ok => a | .single => (a.corrected t (Reg.TEAM_DM_CECNT_IS_CECNT t) 1).set1 (Reg.TEAM_DM_STAT_IS_CE t) | .double => a.isUe t (m.isPatrolAt / 1024) (m.isPatrolAt % 1024);
     s.mode = mIdle ∧ b.mode = mIdle) ∧
    (∃ (t : Fin 1024), ∃ (s : State), ∃ (b : Fin 2), ∃ (v : BitVec 2), t.val < s.nTeams ∧ (s.mode = mIdle ∨ s.mode = mLoad
     ∨ s.mode = mSnapshot ∨ s.mode = mQuarantine) ∧ s.teamOn t = true ∧ v = 2 ∧ s.get (pwrFld t b) = 2) ∧
    (∃ (t : Fin 1024), ∃ (s : State), ∃ (b : Fin 2), ∃ (v : BitVec 2), t.val < s.nTeams ∧ (s.mode = mIdle ∨ s.mode = mLoad
     ∨ s.mode = mSnapshot ∨ s.mode = mQuarantine) ∧ s.teamOn t = true ∧ v = 2 ∧ s.get (pwrFld t b) ≠ 2) ∧
    (∃ (t : Fin 1024), ∃ (s : State), ∃ (b : Fin 2), ∃ (v : BitVec 2), t.val < s.nTeams ∧
     let m := s.team t;
     (s.mode = mIdle ∨ s.mode = mLoad ∨ s.mode = mSnapshot ∨ s.mode = mQuarantine) ∧ s.teamOn t = true ∧ v = 1 ∧ (m.bank
      b).valid = true ∧ (s.get (pwrFld t b) = 2 ∨ s.get (pwrFld t b) = 1)) ∧
    (∃ (t : Fin 1024), ∃ (s : State), ∃ (b : Fin 2), ∃ (v : BitVec 2), t.val < s.nTeams ∧
     let m := s.team t;
     (s.mode = mIdle ∨ s.mode = mLoad ∨ s.mode = mSnapshot ∨ s.mode = mQuarantine) ∧ s.teamOn t = true ∧ (v = 0 ∨ v = 3 ∨
      (v = 1 ∧ ((m.bank b).valid = false ∨ (s.get (pwrFld t b) ≠ 2 ∧ s.get (pwrFld t b) ≠ 1))))) ∧
    (∃ (t : Fin 1024), ∃ (s : State), t.val < s.nTeams ∧ (s.teamOn t = false ∨ (s.mode ≠ mIdle ∧ s.mode ≠ mLoad ∧ s.mode ≠
     mSnapshot ∧ s.mode ≠ mQuarantine))) ∧
    (∃ (t : Fin 1024), ∃ (s : State), ∃ (b : Fin 2), t.val < s.nTeams ∧
     let m := s.team t;
     (m.bank b).init = true) ∧
    (∃ (t : Fin 1024), ∃ (s : State), ∃ (b : Fin 2), ∃ (a : Nat), t.val < s.nTeams ∧
     let m := s.team t;
     (m.bank b).init = true ∧ a / 2 ^ 14 = b) ∧
    (∃ (t : Fin 1024), ∃ (s : State), ∃ (b : Fin 2), t.val < s.nTeams ∧
     let m := s.team t;
     (m.bank b).init = false ∧ (m.bank b).back = true) ∧
    (∃ (t : Fin 1024), ∃ (s : State), ∃ (b : Fin 2), t.val < s.nTeams ∧
     let m := s.team t;
     (m.bank b).init = false ∧ (m.bank b).back = false) := by
  refine ⟨?_, ?_, ?_, ?_, ?_, ?_, ?_, ?_, ?_, ?_, ?_, ?_, ?_, ?_, ?_⟩
  · refine ⟨0, (State.reset.put (Reg.TEAM_DM_CTL_PATROL_EN (0 : Fin 1024)) 0), ?_⟩
    dsimp only
    decide +kernel
  · refine ⟨0, ((sOn.put (readyFld 0 0) 1).put (Reg.TEAM_DM_CTL_PATROL_EN 0) 1), 0, ?_⟩
    dsimp only
    decide +kernel
  · refine ⟨0, (State.reset.put (Reg.TEAM_DM_CTL_IS_PATROL_EN (0 : Fin 1024)) 0), ?_⟩
    decide +kernel
  · refine ⟨0, (((State.reset.put (Reg.TEAM_DM_CTL_IS_PATROL_EN (0 : Fin 1024)) 1).put (Reg.TEAM_PWR_STATE (0 : Fin 1024))
     1).setMode mRun), ?_⟩
    decide +kernel
  · refine ⟨0, (sOn.put (Reg.TEAM_DM_CTL_IS_PATROL_EN 0) 1), .double, ?_⟩
    dsimp only
    decide +kernel
  · refine ⟨0, (((State.reset.put (Reg.TEAM_DM_CTL_IS_PATROL_EN (0 : Fin 1024)) 1).put (Reg.TEAM_PWR_STATE (0 : Fin 1024))
     1).setMode mIdle), .ok, ?_⟩
    dsimp only
    decide +kernel
  · refine ⟨0, (((State.reset.setMode mIdle).put (Reg.TEAM_PWR_STATE (0 : Fin 1024)) 1).put (pwrFld (0 : Fin 1024) (0 : Fin
     2)) 2), 0, 2, ?_⟩
    decide +kernel
  · refine ⟨0, ((State.reset.setMode mIdle).put (Reg.TEAM_PWR_STATE (0 : Fin 1024)) 1), 0, 2, ?_⟩
    decide +kernel
  · refine ⟨0, ((sOn.put (pwrFld 0 0) 2).onTeam 0 (fun m => { m with bank0 := ⟨true, false, false⟩ })), 0, 1, ?_⟩
    dsimp only
    decide +kernel
  · refine ⟨0, ((State.reset.setMode mIdle).put (Reg.TEAM_PWR_STATE (0 : Fin 1024)) 1), 0, 0, ?_⟩
    dsimp only
    decide +kernel
  · refine ⟨0, (State.reset.put (Reg.TEAM_PWR_STATE (0 : Fin 1024)) 0), ?_⟩
    decide +kernel
  · refine ⟨0, (sOn.onTeam 0 (fun m => { m with bank0 := ⟨false, true, false⟩ })), 0, ?_⟩
    dsimp only
    decide +kernel
  · refine ⟨0, (sOn.onTeam 0 (fun m => { m with bank0 := ⟨false, true, false⟩ })), 0, 0, ?_⟩
    dsimp only
    decide +kernel
  · refine ⟨0, (State.reset.onTeam 0 (fun m => { m with bank0 := ⟨false, false, true⟩ })), 0, ?_⟩
    dsimp only
    decide +kernel
  · refine ⟨0, State.reset, 0, ?_⟩
    dsimp only
    decide +kernel

/-! ### Witnesses: Capture and lanes -/

/-- `Obligations.CaptureIsControlled`: its hypotheses can hold, clause by clause. -/
theorem wit_CaptureIsControlled :
    (∃ (s : State),
     let rs := recSize s.capTeams.length;
     let n := s.get Reg.CAP_RGN_SIZE * 2 ^ 26 / rs;
     s.get Reg.CAP_STAT_STATE = 0 ∧ s.cap.region.isSome = true ∧ s.capRegionOk = true ∧ s.get Reg.CAP_POST_POST < n) ∧
    (∃ (s : State),
     let rs := recSize s.capTeams.length;
     let n := s.get Reg.CAP_RGN_SIZE * 2 ^ 26 / rs;
     (s.get Reg.CAP_STAT_STATE ≠ 0 ∨ s.cap.region.isSome = false ∨ s.capRegionOk = false ∨ n ≤ s.get Reg.CAP_POST_POST)) ∧
    (∃ (s : State), (s.get Reg.CAP_STAT_STATE = 1 ∨ s.get Reg.CAP_STAT_STATE = 2) ∧ s.cap.ending = none) ∧
    (∃ (s : State), ((s.get Reg.CAP_STAT_STATE ≠ 1 ∧ s.get Reg.CAP_STAT_STATE ≠ 2) ∨ s.cap.ending ≠ none)) ∧
    (∃ (s : State), s.cap.ending = none ∧ s.get Reg.CAP_STAT_STATE = 1 ∧ (∀ r ∈ s.cap.ready, r.trig = false)) ∧
    (∃ (s : State), s.cap.ending = none ∧ s.get Reg.CAP_STAT_STATE = 1 ∧ (∃ r ∈ s.cap.ready, r.trig = true)) ∧
    (∃ (s : State), s.cap.ending = none ∧ 2 ≤ s.get Reg.CAP_STAT_STATE ∧ s.get Reg.CAP_STAT_STATE ≤ 5) ∧
    (∃ (s : State), s.cap.ending = none ∧ (s.get Reg.CAP_STAT_STATE = 0 ∨ 5 < s.get Reg.CAP_STAT_STATE)) ∧
    (∃ (s : State), ∃ (st : Nat), ∃ (n : Nat), s.cap.ending = some (st, n) ∧ 2 ≤ st ∧ st ≤ 5) ∧
    (∃ (s : State), 3 ≤ s.get Reg.CAP_STAT_STATE ∧ s.get Reg.CAP_STAT_STATE ≤ 5) ∧
    (∃ (s : State), (s.get Reg.CAP_STAT_STATE < 3 ∨ 5 < s.get Reg.CAP_STAT_STATE)) := by
  refine ⟨?_, ?_, ?_, ?_, ?_, ?_, ?_, ?_, ?_, ?_, ?_⟩
  · refine ⟨({ ((({ State.reset with cap := { State.reset.cap with region := some 1 } } : State).put Reg.CAP_RGN_SIZE 2).put Reg.CAP_RGN_LOG2N 0) with chip := { State.reset.chip with regions := [⟨1, 1, 2, 0, 0, 1, true⟩] } }
     : State), ?_⟩
    dsimp only
    decide +kernel
  · refine ⟨(State.reset.put Reg.CAP_STAT_STATE 1), ?_⟩
    dsimp only
    decide +kernel
  · refine ⟨({ (State.reset.put Reg.CAP_STAT_STATE 1) with cap.ending := none } : State), ?_⟩
    decide +kernel
  · refine ⟨State.reset, ?_⟩
    decide +kernel
  · refine ⟨(({ State.reset with cap.ending := none } : State).put Reg.CAP_STAT_STATE 1), ?_⟩
    decide +kernel
  · refine ⟨(({ State.reset with cap := { State.reset.cap with ready := [⟨3, true, false, 0, 0, []⟩] } } : State).put
     Reg.CAP_STAT_STATE 1), ?_⟩
    decide +kernel
  · refine ⟨(({ State.reset with cap.ending := none } : State).put Reg.CAP_STAT_STATE 2), ?_⟩
    decide +kernel
  · refine ⟨(({ State.reset with cap.ending := none } : State).put Reg.CAP_STAT_STATE 0), ?_⟩
    decide +kernel
  · refine ⟨({ State.reset with cap.ending := some ((2 : Nat), (0 : Nat)) } : State), 2, 0, ?_⟩
    decide +kernel
  · refine ⟨(State.reset.put Reg.CAP_STAT_STATE 3), ?_⟩
    decide +kernel
  · refine ⟨State.reset, ?_⟩
    decide +kernel

/-- `Obligations.CaptureRecordsAreStored`: its hypotheses can hold, clause by clause. -/
theorem wit_CaptureRecordsAreStored :
    (∃ (t : Fin 1024), ∃ (s : State), t.val < s.nTeams ∧ (s.armed 2 t = false ∨ (s.team t).ring = [])) ∧
    (∃ (t : Fin 1024), ∃ (s : State), ∃ (n : Nat), ∃ (v : BitVec 96), ∃ (rest : List (Nat × BitVec 96)), t.val < s.nTeams
     ∧ s.armed 2 t = true ∧ (s.team t).ring = (n, v) :: rest ∧ (¬ (n < s.stride ∧ ∀ u ∈ s.runTeams, ∀ p ∈ (s.team u).ring,
     n ≤ p.1))) ∧
    (∃ (t : Fin 1024), ∃ (s : State), ∃ (n : Nat), ∃ (v : BitVec 96), ∃ (rest : List (Nat × BitVec 96)), t.val < s.nTeams
     ∧ s.armed 2 t = true ∧ (s.team t).ring = (n, v) :: rest ∧ n < s.stride ∧ (∀ u ∈ s.runTeams, ∀ p ∈ (s.team u).ring, n
     ≤ p.1) ∧
     let doms := (List.range 64).filter (fun d => s.get (Reg.DS_DOM_CFG_TEAM d) == t);
     let bit d := ofBool (v.getLsbD (s.get (Reg.DS_DOM_CFG_TAPBIT d)));
     let samp := doms.foldl (fun l d => Tab.set (fun _ => 0) l (2 * d + n % 2) (2 * n + bit d + 1)) s.ds.samples;
     let a : State := { s.setTeam t { s.team t with ring := rest } with cap := { s.cap with taps := Tab.set (fun _ => 0) s.cap.taps t v }, ds := { s.ds with samples := samp } };
     (a.tapsIn n = false ∨ s.cap.decided = some n)) ∧
    (∃ (t : Fin 1024), ∃ (s : State), ∃ (n : Nat), ∃ (v : BitVec 96), ∃ (rest : List (Nat × BitVec 96)), t.val < s.nTeams
     ∧ s.armed 2 t = true ∧ (s.team t).ring = (n, v) :: rest ∧ n < s.stride ∧ (∀ u ∈ s.runTeams, ∀ p ∈ (s.team u).ring, n
     ≤ p.1) ∧
     let doms := (List.range 64).filter (fun d => s.get (Reg.DS_DOM_CFG_TEAM d) == t);
     let bit d := ofBool (v.getLsbD (s.get (Reg.DS_DOM_CFG_TAPBIT d)));
     let samp := doms.foldl (fun l d => Tab.set (fun _ => 0) l (2 * d + n % 2) (2 * n + bit d + 1)) s.ds.samples;
     let a : State := { s.setTeam t { s.team t with ring := rest } with cap := { s.cap with taps := Tab.set (fun _ => 0) s.cap.taps t v }, ds := { s.ds with samples := samp } };
     a.tapsIn n = true ∧ s.cap.decided ≠ some n) ∧
    (∃ (s : State), s.cap.ready = []) ∧
    (∃ (s : State), ∃ (r : CapRec), ∃ (rest : List CapRec), s.cap.ready = r :: rest ∧
     let st := s.get Reg.CAP_STAT_STATE;
     let rs := s.get Reg.CAP_GEOM_RS * 256;
     let ovf := decide (4194304 - 32 * s.cap.staging.length < 2 * rs);
     (st = 1 ∨ st = 2) ∧ s.cap.ending = none ∧ ovf = true) ∧
    (∃ (s : State), ∃ (r : CapRec), ∃ (rest : List CapRec), s.cap.ready = r :: rest ∧
     let st := s.get Reg.CAP_STAT_STATE;
     let rs := s.get Reg.CAP_GEOM_RS * 256;
     let ovf := decide (4194304 - 32 * s.cap.staging.length < 2 * rs);
     (st = 1 ∨ st = 2) ∧ s.cap.ending = none ∧ ovf = false ∧ s.cap.stop = true) ∧
    (∃ (s : State), ∃ (r : CapRec), ∃ (rest : List CapRec), s.cap.ready = r :: rest ∧
     let st := s.get Reg.CAP_STAT_STATE;
     let rs := s.get Reg.CAP_GEOM_RS * 256;
     let ovf := decide (4194304 - 32 * s.cap.staging.length < 2 * rs);
     let left := if r.trig = true then s.get Reg.CAP_POST_POST else s.cap.postLeft - 1;
     (st = 1 ∨ st = 2) ∧ s.cap.ending = none ∧ ovf = false ∧ s.cap.stop = false ∧ (r.trig = true ∨ st = 2) ∧ left = 0) ∧
    (∃ (s : State), ∃ (r : CapRec), ∃ (rest : List CapRec), s.cap.ready = r :: rest ∧
     let st := s.get Reg.CAP_STAT_STATE;
     let rs := s.get Reg.CAP_GEOM_RS * 256;
     let ovf := decide (4194304 - 32 * s.cap.staging.length < 2 * rs);
     let left := if r.trig = true then s.get Reg.CAP_POST_POST else s.cap.postLeft - 1;
     (st = 1 ∨ st = 2) ∧ s.cap.ending = none ∧ ovf = false ∧ s.cap.stop = false ∧ (¬ ((r.trig = true ∨ st = 2) ∧ left =
      0))) ∧
    (∃ (s : State), ∃ (r : CapRec), ∃ (rest : List CapRec), s.cap.ready = r :: rest ∧
     let st := s.get Reg.CAP_STAT_STATE;
     ((st ≠ 1 ∧ st ≠ 2) ∨ s.cap.ending ≠ none)) ∧
    (∃ (s : State), ∃ (st : Nat), ∃ (n : Nat), s.cap.ending = some (st, n) ∧ s.cap.staging = []) ∧
    (∃ (s : State), (s.cap.ending = none ∨ s.cap.staging ≠ [])) := by
  refine ⟨?_, ?_, ?_, ?_, ?_, ?_, ?_, ?_, ?_, ?_, ?_, ?_⟩
  · refine ⟨0, State.reset, ?_⟩
    decide +kernel
  · refine ⟨0, (State.reset.onTeam (0 : Fin 1024) (fun m => { m with ring := ((0 : Nat), (0 : BitVec 96)) :: ([] : List (Nat × BitVec 96)) })),
     0, 0, [], ?_⟩
    decide +kernel
  · refine ⟨0, ({ ((sRun.put Reg.CHIP_STRIDE_LO_STRIDE_LO 5).onTeam 0 (fun m => { m with ring := [(4, 0#96)] })) with cap := { State.reset.cap with decided := some 4 } }
     : State), 4, 0#96, [], ?_⟩
    refine ⟨by decide +kernel, by decide +kernel, by decide +kernel, by decide +kernel,
     by rw [runTeams_eq] <;> decide +kernel, ?_⟩
    dsimp only
    exact Or.inr (by decide +kernel)
  · refine ⟨0, ({ ((sRun.put Reg.CHIP_STRIDE_LO_STRIDE_LO 5).onTeam 0 (fun m => { m with ring := [(4, 0#96)] })) with cap := { State.reset.cap with decided := none } }
     : State), 4, 0#96, [], ?_⟩
    refine ⟨by decide +kernel, by decide +kernel, by decide +kernel, by decide +kernel,
     by rw [runTeams_eq] <;> decide +kernel, ?_⟩
    dsimp only
    refine ⟨?_, by decide +kernel⟩
    unfold State.tapsIn
    rw [runTeams_eq] <;> decide +kernel
  · refine ⟨({ State.reset with cap.ready := [] } : State), ?_⟩
    decide +kernel
  · suffices w : ∀ l : List (Nat × DynReq), l.length = 131072 → _ from w (List.replicate 131072 (0, ⟨0, none, none, 0, 32,
     true, [], [], true, false, false⟩)) List.length_replicate
    intro l e
    refine ⟨({ ((State.reset.put Reg.CAP_GEOM_RS 1).put Reg.CAP_STAT_STATE 1) with cap := { State.reset.cap with ready := [⟨3, false, false, 0, 0, []⟩], staging := l } }
     : State), ⟨3, false, false, 0, 0, []⟩, [], rfl, ?_⟩
    dsimp only
    refine ⟨Or.inl (show ((State.reset.put Reg.CAP_GEOM_RS 1).put Reg.CAP_STAT_STATE 1).get Reg.CAP_STAT_STATE = 1 by
     decide +kernel), rfl, ?_⟩
    rw [e]
    show decide (4194304 - 32 * 131072 < 2 * (((State.reset.put Reg.CAP_GEOM_RS 1).put Reg.CAP_STAT_STATE 1).get
     Reg.CAP_GEOM_RS * 256)) = true
    decide +kernel
  · refine ⟨({ ({ (({ State.reset with cap.ready := (⟨0, false, false, 0, 0, []⟩ : CapRec) :: ([] : List CapRec) } : State).put Reg.CAP_STAT_STATE 1) with cap.ending := none } : State) with cap.stop := true }
     : State), ⟨0, false, false, 0, 0, []⟩, [], ?_⟩
    dsimp only
    decide +kernel
  · refine ⟨({ ({ (({ State.reset with cap.ready := (({ (⟨0, false, false, 0, 0, []⟩ : CapRec) with trig := true }) : CapRec) :: ([] : List CapRec) } : State).put Reg.CAP_STAT_STATE 1) with cap.ending := none } : State) with cap.stop := false }
     : State), ({ (⟨0, false, false, 0, 0, []⟩ : CapRec) with trig := true }), [], ?_⟩
    dsimp only
    decide +kernel
  · refine ⟨({ ({ (({ State.reset with cap.ready := (({ (⟨0, false, false, 0, 0, []⟩ : CapRec) with trig := false }) : CapRec) :: ([] : List CapRec) } : State).put Reg.CAP_STAT_STATE 1) with cap.ending := none } : State) with cap.stop := false }
     : State), ({ (⟨0, false, false, 0, 0, []⟩ : CapRec) with trig := false }), [], ?_⟩
    dsimp only
    decide +kernel
  · refine ⟨({ State.reset with cap.ready := (⟨0, false, false, 0, 0, []⟩ : CapRec) :: ([] : List CapRec) } : State), ⟨0,
     false, false, 0, 0, []⟩, [], ?_⟩
    dsimp only
    decide +kernel
  · refine ⟨({ ({ State.reset with cap.ending := some ((0 : Nat), (0 : Nat)) } : State) with cap.staging := [] } : State),
     0, 0, ?_⟩
    decide +kernel
  · refine ⟨({ State.reset with cap.ending := none } : State), ?_⟩
    decide +kernel

/-- `Obligations.LanesTrain`: its hypotheses can hold, clause by clause (part 1 of 2). -/
theorem wit_LanesTrain :
    (∃ (l : Fin 160), ∃ (s : State), s.laneState l ≠ lOff) ∧
    (∃ (l : Fin 160), ∃ (s : State),
     let rate := s.get (laneCtl l 2 1);
     let loop := s.get (laneCtl l 17 16);
     s.laneState l = lOff ∧ (rate = 3 ∨ (rate = 1 ∧ l.val < 144) ∨ loop = 3)) ∧
    (∃ (l : Fin 160), ∃ (s : State),
     let rate := s.get (laneCtl l 2 1);
     let loop := s.get (laneCtl l 17 16);
     s.laneState l = lOff ∧ (¬ (rate = 3 ∨ (rate = 1 ∧ l.val < 144) ∨ loop = 3)) ∧ s.on (laneCtl l 18 18) = true) ∧
    (∃ (l : Fin 160), ∃ (s : State),
     let rate := s.get (laneCtl l 2 1);
     let loop := s.get (laneCtl l 17 16);
     s.laneState l = lOff ∧ (¬ (rate = 3 ∨ (rate = 1 ∧ l.val < 144) ∨ loop = 3)) ∧ s.on (laneCtl l 18 18) = false) ∧
    (∃ (l : Fin 160), ∃ (s : State), ∃ i,
     let v := s.lane l;
     (candidates v)[v.next]? = some i) ∧
    (∃ (l : Fin 160), ∃ (s : State),
     let v := s.lane l;
     (candidates v)[v.next]? = none) ∧
    (∃ (l : Fin 160), ∃ (s : State), s.laneState l ≠ lActive ∧ s.laneState l ≠ lStandby) ∧
    (∃ (l : Fin 160), ∃ (s : State), (s.laneState l = lActive ∨ s.laneState l = lStandby)) ∧
    (∃ (l : Fin 160), ∃ (s : State), ∃ (i : Nat),
     let v := s.lane l;
     s.laneState l = lSweep ∧ (candidates v)[v.next]? = some i) ∧
    (∃ (l : Fin 160), ∃ (s : State),
     let v := s.lane l;
     (s.laneState l ≠ lSweep ∨ (candidates v)[v.next]? = none)) ∧
    (∃ (l : Fin 160), ∃ (s : State),
     let v := s.lane l;
     s.laneState l = lSweep ∧ v.next = (candidates v).length ∧ v.pass ≠ 0) ∧
    (∃ (l : Fin 160), ∃ (s : State),
     let v := s.lane l;
     s.laneState l = lSweep ∧ v.next = (candidates v).length ∧ v.pass = 0) ∧
    (∃ (l : Fin 160), ∃ (s : State),
     let v := s.lane l;
     (s.laneState l ≠ lSweep ∨ v.next ≠ (candidates v).length)) ∧
    (∃ (l : Fin 160), ∃ (s : State), ∃ (ok : Bool),
     let v := s.lane l;
     s.laneState l = lConfirm ∧ ok = true ∧ v.missed = false) ∧
    (∃ (l : Fin 160), ∃ (s : State), ∃ (ok : Bool),
     let v := s.lane l;
     s.laneState l = lConfirm ∧ (ok = false ∨ v.missed = true)) ∧
    (∃ (l : Fin 160), ∃ (s : State), s.laneState l ≠ lConfirm) := by
  refine ⟨?_, ?_, ?_, ?_, ?_, ?_, ?_, ?_, ?_, ?_, ?_, ?_, ?_, ?_, ?_, ?_⟩
  · refine ⟨0, (State.reset.put (laneStat 0 3 0) lSweep), ?_⟩
    decide +kernel
  · refine ⟨0, ((State.reset.setLaneState (0 : Fin 160) lOff).put (laneCtl (0 : Fin 160) 2 1) 3), ?_⟩
    dsimp only
    decide +kernel
  · refine ⟨0, ((State.reset.setLaneState (0 : Fin 160) lOff).put (laneCtl (0 : Fin 160) 18 18) 1), ?_⟩
    dsimp only
    decide +kernel
  · refine ⟨0, ((State.reset.setLaneState (0 : Fin 160) lOff).put (laneCtl (0 : Fin 160) 18 18) 0), ?_⟩
    dsimp only
    decide +kernel
  · refine ⟨0, State.reset, 0, ?_⟩
    dsimp only
    decide +kernel
  · refine ⟨0, ((State.reset.setLane 0 { State.reset.lane 0 with next := 1, eqFix := true, pass := 256 }).put (laneStat 0 3
     0) lSweep), ?_⟩
    dsimp only
    decide +kernel
  · refine ⟨0, State.reset, ?_⟩
    decide +kernel
  · refine ⟨0, (State.reset.setLaneState (0 : Fin 160) lActive), ?_⟩
    decide +kernel
  · refine ⟨0, (State.reset.setLaneState (0 : Fin 160) lSweep), 0, ?_⟩
    dsimp only
    decide +kernel
  · refine ⟨0, State.reset, ?_⟩
    dsimp only
    decide +kernel
  · refine ⟨0, ((State.reset.setLane 0 { State.reset.lane 0 with next := 1, eqFix := true, pass := 256 }).put (laneStat 0 3
     0) lSweep), ?_⟩
    dsimp only
    decide +kernel
  · refine ⟨0, ((State.reset.setLane 0 { State.reset.lane 0 with next := 1, eqFix := true, pass := 0 }).put (laneStat 0 3 0)
     lSweep), ?_⟩
    dsimp only
    decide +kernel
  · refine ⟨0, State.reset, ?_⟩
    dsimp only
    decide +kernel
  · refine ⟨0, ((State.reset.setLane 0 { State.reset.lane 0 with missed := false }).put (laneStat 0 3 0) lConfirm), true,
     ?_⟩
    dsimp only
    decide +kernel
  · refine ⟨0, (State.reset.setLaneState (0 : Fin 160) lConfirm), false, ?_⟩
    dsimp only
    decide +kernel
  · refine ⟨0, State.reset, ?_⟩
    decide +kernel

/-- `Obligations.LanesTrain`: its hypotheses can hold, clause by clause (part 2 of 2). -/
theorem wit_LanesTrain_2 :
    (∃ (l : Fin 160), ∃ (s : State), s.laneState l = lPeerWait) ∧
    (∃ (l : Fin 160), ∃ (s : State), s.laneState l ≠ lPeerWait) ∧
    (∃ (l : Fin 160), ∃ (s : State),
     let v := s.lane l;
     let full := s.laneState l = lPeerWait ∧ 16 ≤ v.rdyGot ∧ v.rdySent = true;
     ¬ full) ∧
    (∃ (l : Fin 160), ∃ (s : State),
     let v := s.lane l;
     let n := laneLink l;
     let full := s.laneState l = lPeerWait ∧ 16 ≤ v.rdyGot ∧ v.rdySent = true;
     full ∧ n < 16 ∧ s.spare n = laneNo l) ∧
    (∃ (l : Fin 160), ∃ (s : State),
     let v := s.lane l;
     let n := laneLink l;
     let full := s.laneState l = lPeerWait ∧ 16 ≤ v.rdyGot ∧ v.rdySent = true;
     full ∧ n < 16 ∧ s.spare n ≠ laneNo l ∧ ¬ (s.spare n = 0xF ∧ s.isUp n = true ∧ s.logical n (laneNo l) = none)) ∧
    (∃ (l : Fin 160), ∃ (s : State),
     let v := s.lane l;
     let n := laneLink l;
     let full := s.laneState l = lPeerWait ∧ 16 ≤ v.rdyGot ∧ v.rdySent = true;
     full ∧ n < 16 ∧ s.spare n ≠ laneNo l ∧ s.spare n = 0xF ∧ s.isUp n = true ∧ s.logical n (laneNo l) = none) ∧
    (∃ (l : Fin 160), ∃ (s : State),
     let v := s.lane l;
     let n := laneLink l;
     let full := s.laneState l = lPeerWait ∧ 16 ≤ v.rdyGot ∧ v.rdySent = true;
     full ∧ 16 ≤ n ∧ s.isUp n = true) ∧
    (∃ (l : Fin 160), ∃ (s : State),
     let v := s.lane l;
     let n := laneLink l;
     let full := s.laneState l = lPeerWait ∧ 16 ≤ v.rdyGot ∧ v.rdySent = true;
     full ∧ 16 ≤ n ∧ s.isUp n = false) ∧
    (∃ (l : Fin 160), ∃ (s : State), (takesGroups (s.laneState l) = false ∨ s.on (laneStat l 9 9) = false)) ∧
    (∃ (l : Fin 160), ∃ (s : State), ∃ (b : W64), takesGroups (s.laneState l) = true ∧ s.on (laneStat l 9 9) = true ∧
     trainingOk (s.polar l b) = true) ∧
    (∃ (l : Fin 160), ∃ (s : State), ∃ (b : W64), takesGroups (s.laneState l) = true ∧ s.on (laneStat l 9 9) = true ∧
     trainingOk (s.polar l b) = false) ∧
    (∃ (l : Fin 160), ∃ (s : State), s.laneState l = lPeerWait) ∧
    (∃ (l : Fin 160), ∃ (s : State),
     let v := s.lane l;
     s.laneState l = lActive ∧ 4 ≤ v.train + 1) ∧
    (∃ (l : Fin 160), ∃ (s : State),
     let v := s.lane l;
     s.laneState l ≠ lPeerWait ∧ ¬ (s.laneState l = lActive ∧ 4 ≤ v.train + 1)) := by
  refine ⟨?_, ?_, ?_, ?_, ?_, ?_, ?_, ?_, ?_, ?_, ?_, ?_, ?_, ?_⟩
  · refine ⟨0, (State.reset.setLaneState (0 : Fin 160) lPeerWait), ?_⟩
    decide +kernel
  · refine ⟨0, State.reset, ?_⟩
    decide +kernel
  · refine ⟨0, State.reset, ?_⟩
    dsimp only
    decide +kernel
  · refine ⟨0, (((State.reset.setLane 0 { State.reset.lane 0 with rdyGot := 16, rdySent := true }).put (laneStat 0 3 0)
     lPeerWait).put (Reg.LD_LINK_STAT_SPARE 0) 0), ?_⟩
    dsimp only
    decide +kernel
  · refine ⟨0, (((State.reset.setLane 0 { State.reset.lane 0 with rdyGot := 16, rdySent := true }).put (laneStat 0 3 0)
     lPeerWait).put (Reg.LD_LINK_STAT_SPARE 0) 8), ?_⟩
    dsimp only
    decide +kernel
  · refine ⟨8, ((((State.reset.setLane 8 { State.reset.lane 8 with rdyGot := 16, rdySent := true }).put (laneStat 8 3 0)
     lPeerWait).put (Reg.LD_LINK_STAT_SPARE 0) 15).put (linkStat 0) 2), ?_⟩
    dsimp only
    decide +kernel
  · refine ⟨144, (((State.reset.setLane 144 { State.reset.lane 144 with rdyGot := 16, rdySent := true }).put (laneStat 144 3
     0) lPeerWait).put (linkStat 16) 2), ?_⟩
    dsimp only
    decide +kernel
  · refine ⟨144, (((State.reset.setLane 144 { State.reset.lane 144 with rdyGot := 16, rdySent := true }).put (laneStat 144 3
     0) lPeerWait).put (linkStat 16) 0), ?_⟩
    dsimp only
    decide +kernel
  · refine ⟨0, State.reset, ?_⟩
    decide +kernel
  · refine ⟨0, ((State.reset.put (laneStat 0 3 0) lSweep).put (laneStat 0 9 9) 1), BitVec.ofNat 64 (0xD2 + crc8 56 0xD2 255
     * 2 ^ 56), ?_⟩
    decide +kernel
  · refine ⟨0, ((State.reset.put (laneStat 0 3 0) lSweep).put (laneStat 0 9 9) 1), 1#64, ?_⟩
    decide +kernel
  · refine ⟨0, (State.reset.setLaneState (0 : Fin 160) lPeerWait), ?_⟩
    decide +kernel
  · refine ⟨0, ((State.reset.setLane 0 { State.reset.lane 0 with train := 3 }).put (laneStat 0 3 0) lActive), ?_⟩
    dsimp only
    decide +kernel
  · refine ⟨0, State.reset, ?_⟩
    dsimp only
    decide +kernel

/-- `Obligations.LanesInService`: its hypotheses can hold, clause by clause (part 1 of 2). -/
theorem wit_LanesInService :
    (∃ (l : Fin 160), ∃ (s : State), ∃ (h : List (BitVec 2)), takesGroups (s.laneState l) = true ∧ s.on (laneStat l 9 9) =
     false ∧ 64 ≤ h.length ∧ (h.drop (h.length - 64)).all headValid = true) ∧
    (∃ (l : Fin 160), ∃ (s : State), ∃ (h : List (BitVec 2)), (takesGroups (s.laneState l) = false ∨ s.on (laneStat l 9 9)
     = true ∨ h.length < 64 ∨ (h.drop (h.length - 64)).all headValid = false)) ∧
    (∃ (l : Fin 160), ∃ (s : State), (takesGroups (s.laneState l) = false ∨ s.on (laneStat l 9 9) = false)) ∧
    (∃ (l : Fin 160), ∃ (s : State), ∃ (h : List (BitVec 2)), takesGroups (s.laneState l) = true ∧ s.on (laneStat l 9 9) =
     true ∧ lockGone h = true) ∧
    (∃ (l : Fin 160), ∃ (s : State), ∃ (w : Bool), ∃ (h : List (BitVec 2)), takesGroups (s.laneState l) = true ∧ s.on
     (laneStat l 9 9) = true ∧
     let bad := h.countP (fun x => !headValid x);
     let serving := s.laneState l = lActive ∨ s.laneState l = lStandby;
     lockGone h = false ∧ w = true ∧ 16 ≤ bad ∧ serving) ∧
    (∃ (l : Fin 160), ∃ (s : State), ∃ (w : Bool), ∃ (h : List (BitVec 2)), takesGroups (s.laneState l) = true ∧ s.on
     (laneStat l 9 9) = true ∧
     let bad := h.countP (fun x => !headValid x);
     let serving := s.laneState l = lActive ∨ s.laneState l = lStandby;
     lockGone h = false ∧ ¬ (w = true ∧ 16 ≤ bad ∧ serving)) ∧
    (∃ (l : Fin 160), ∃ (s : State), (s.laneState l = lOff ∨ s.laneState l = lFault ∨ s.laneState l = lFailed)) ∧
    (∃ (l : Fin 160), ∃ (s : State), s.laneState l ≠ lOff ∧ s.laneState l ≠ lFault ∧ s.laneState l ≠ lFailed) ∧
    (∃ (l : Fin 160), ∃ (s : State), s.laneState l ≠ lOff ∧ s.laneState l ≠ lFault ∧ s.laneState l ≠ lFailed ∧ s.on
     (laneStat l 8 8) = true) ∧
    (∃ (l : Fin 160), ∃ (s : State), s.laneState l ≠ lOff ∧ s.laneState l ≠ lFault ∧ s.laneState l ≠ lFailed ∧ s.on
     (laneStat l 8 8) = false) ∧
    (∃ (l : Fin 160), ∃ (s : State), (s.laneState l = lActive ∨ s.laneState l = lStandby)) ∧
    (∃ (l : Fin 160), ∃ (s : State), s.laneState l = lPeerWait) ∧
    (∃ (l : Fin 160), ∃ (s : State), s.laneState l ≠ lActive ∧ s.laneState l ≠ lStandby ∧ s.laneState l ≠ lPeerWait) ∧
    (∃ (l : Fin 160), ∃ (s : State), s.laneState l = lFault) ∧
    (∃ (l : Fin 160), ∃ (s : State), s.laneState l ≠ lFault) ∧
    (∃ (l : Fin 160), ∃ (s : State), (s.laneState l = lTest ∨ s.laneState l = lActive)) := by
  refine ⟨?_, ?_, ?_, ?_, ?_, ?_, ?_, ?_, ?_, ?_, ?_, ?_, ?_, ?_, ?_, ?_⟩
  · refine ⟨0, (State.reset.put (laneStat 0 3 0) lSweep), List.replicate 64 1#2, ?_⟩
    decide +kernel
  · refine ⟨0, State.reset, [], ?_⟩
    decide +kernel
  · refine ⟨0, State.reset, ?_⟩
    decide +kernel
  · refine ⟨0, ((State.reset.put (laneStat 0 3 0) lSweep).put (laneStat 0 9 9) 1), List.replicate 16 0#2, ?_⟩
    decide +kernel
  · refine ⟨0, ((State.reset.put (laneStat 0 3 0) lActive).put (laneStat 0 9 9) 1), true, (List.replicate 16 [0#2, 1#2, 1#2,
     1#2, 1#2, 1#2]).flatten, ?_⟩
    dsimp only
    decide +kernel
  · refine ⟨0, ((State.reset.put (laneStat 0 3 0) lActive).put (laneStat 0 9 9) 1), false, [], ?_⟩
    dsimp only
    decide +kernel
  · refine ⟨0, (State.reset.setLaneState (0 : Fin 160) lOff), ?_⟩
    decide +kernel
  · refine ⟨0, (State.reset.put (laneStat 0 3 0) lSweep), ?_⟩
    decide +kernel
  · refine ⟨0, ((State.reset.put (laneStat 0 3 0) lSweep).put (laneStat 0 8 8) 1), ?_⟩
    decide +kernel
  · refine ⟨0, (State.reset.put (laneStat 0 3 0) lSweep), ?_⟩
    decide +kernel
  · refine ⟨0, (State.reset.setLaneState (0 : Fin 160) lActive), ?_⟩
    decide +kernel
  · refine ⟨0, (State.reset.setLaneState (0 : Fin 160) lPeerWait), ?_⟩
    decide +kernel
  · refine ⟨0, State.reset, ?_⟩
    decide +kernel
  · refine ⟨0, (State.reset.setLaneState (0 : Fin 160) lFault), ?_⟩
    decide +kernel
  · refine ⟨0, State.reset, ?_⟩
    decide +kernel
  · refine ⟨0, (State.reset.setLaneState (0 : Fin 160) lTest), ?_⟩
    decide +kernel

/-- `Obligations.LanesInService`: its hypotheses can hold, clause by clause (part 2 of 2). -/
theorem wit_LanesInService_2 :
    (∃ (l : Fin 160), ∃ (s : State), s.laneState l ≠ lTest ∧ s.laneState l ≠ lActive) ∧
    (∃ (l : Fin 160), ∃ (s : State), s.laneState l ≠ lTest) ∧
    (∃ (l : Fin 160), ∃ (s : State), s.laneState l = lTest ∧ s.on (lanePrbs l 1 1) = true) ∧
    (∃ (l : Fin 160), ∃ (s : State), s.laneState l = lTest ∧ s.on (lanePrbs l 1 1) = false) := by
  refine ⟨?_, ?_, ?_, ?_⟩
  · refine ⟨0, State.reset, ?_⟩
    decide +kernel
  · refine ⟨0, State.reset, ?_⟩
    decide +kernel
  · refine ⟨0, ((State.reset.setLaneState (0 : Fin 160) lTest).put (lanePrbs (0 : Fin 160) 1 1) 1), ?_⟩
    decide +kernel
  · refine ⟨0, ((State.reset.setLaneState (0 : Fin 160) lTest).put (lanePrbs (0 : Fin 160) 1 1) 0), ?_⟩
    decide +kernel

/-! ### Witnesses: Messages and holds -/

/-- `Obligations.MessagesBetweenChips`: its hypotheses can hold, clause by clause (part 1 of 2). -/
theorem wit_MessagesBetweenChips :
    (∃ (n : Fin 16), ∃ (s : State), (∀ p, (s.link n).rxMsg.head? = some p → mTYPE p.2 ≠ 1)) ∧
    (∃ (n : Fin 16), ∃ (s : State), (∀ p, (s.link n).rxMsg.head? = some p → mTYPE p.2 ≠ 2)) ∧
    (∃ (n : Fin 16), ∃ (s : State), (∀ p, (s.link n).rxMsg.head? = some p → mTYPE p.2 ≠ 3)) ∧
    (∃ (n : Fin 16), ∃ (s : State), (∀ p, (s.link n).rxMsg.head? = some p → mTYPE p.2 ≠ 4)) ∧
    (∃ (n : Fin 16), ∃ (s : State), (∀ p, (s.link n).rxMsg.head? = some p → mTYPE p.2 ≠ 5)) ∧
    (∃ (n : Fin 20), ∃ (s : State), (∀ p, (s.link n).rxMsg.head? = some p → mTYPE p.2 ≠ 6)) ∧
    (∃ (n : Fin 20), ∃ (s : State), (∀ p, (s.link n).rxMsg.head? = some p → mTYPE p.2 ≠ 7)) ∧
    (∃ (n : Fin 16), ∃ (s : State), ∃ (at_ : Nat), ∃ (m : Flit), (s.link n).rxMsg.head? = some (at_, m) ∧ mTYPE m = 1) ∧
    (∃ (n : Fin 16), ∃ (s : State), ∃ (at_ : Nat), ∃ (m : Flit), (s.link n).rxMsg.head? = some (at_, m) ∧ mTYPE m = 2) ∧
    (∃ (n : Fin 16), ∃ (s : State), ∃ (at_ : Nat), ∃ (m : Flit), ∃ p, (s.link n).rxMsg.head? = some (at_, m) ∧
     let k := s.link n;
     let fld hi lo := bits m.toNat hi lo;
     mTYPE m = 3 ∧ k.strides.find? (fun p => p.1 == fld 79 16) = some p) ∧
    (∃ (n : Fin 16), ∃ (s : State), ∃ (at_ : Nat), ∃ (m : Flit), (s.link n).rxMsg.head? = some (at_, m) ∧
     let k := s.link n;
     let fld hi lo := bits m.toNat hi lo;
     mTYPE m = 3 ∧ (∀ p ∈ k.strides, p.1 < fld 79 16)) ∧
    (∃ (n : Fin 16), ∃ (s : State), ∃ (at_ : Nat), ∃ (m : Flit), (s.link n).rxMsg.head? = some (at_, m) ∧
     let k := s.link n;
     let fld hi lo := bits m.toNat hi lo;
     mTYPE m = 3 ∧ k.strides.find? (fun p => p.1 == fld 79 16) = none ∧ (∃ p ∈ k.strides, fld 79 16 ≤ p.1)) ∧
    (∃ (n : Fin 16), ∃ (s : State), ∃ (at_ : Nat), ∃ (m : Flit), (s.link n).rxMsg.head? = some (at_, m) ∧
     let fld hi lo := bits m.toNat hi lo;
     mTYPE m = 4 ∧ s.epoch < 2 ^ 16 ∧ fld 95 80 = s.epoch) ∧
    (∃ (n : Fin 16), ∃ (s : State), ∃ (at_ : Nat), ∃ (m : Flit), (s.link n).rxMsg.head? = some (at_, m) ∧
     let fld hi lo := bits m.toNat hi lo;
     mTYPE m = 4 ∧ s.epoch < 2 ^ 16 ∧ 0 < (fld 95 80 + 2 ^ 16 - s.epoch) % 2 ^ 16 ∧ (fld 95 80 + 2 ^ 16 - s.epoch) % 2 ^
      16 < 2 ^ 15) ∧
    (∃ (n : Fin 16), ∃ (s : State), ∃ (at_ : Nat), ∃ (m : Flit), (s.link n).rxMsg.head? = some (at_, m) ∧
     let fld hi lo := bits m.toNat hi lo;
     mTYPE m = 4 ∧ s.epoch < 2 ^ 16 ∧ 2 ^ 15 ≤ (fld 95 80 + 2 ^ 16 - s.epoch) % 2 ^ 16) ∧
    (∃ (n : Fin 16), ∃ (s : State), ∃ (at_ : Nat), ∃ (m : Flit), (s.link n).rxMsg.head? = some (at_, m) ∧
     let fld hi lo := bits m.toNat hi lo;
     mTYPE m = 5 ∧ fld 95 80 = s.epoch ∧ s.held = true) := by
  refine ⟨?_, ?_, ?_, ?_, ?_, ?_, ?_, ?_, ?_, ?_, ?_, ?_, ?_, ?_, ?_, ?_⟩
  · refine ⟨0, State.reset, ?_⟩
    decide +kernel
  · refine ⟨0, State.reset, ?_⟩
    decide +kernel
  · refine ⟨0, State.reset, ?_⟩
    decide +kernel
  · refine ⟨0, State.reset, ?_⟩
    decide +kernel
  · refine ⟨0, State.reset, ?_⟩
    decide +kernel
  · refine ⟨0, State.reset, ?_⟩
    decide +kernel
  · refine ⟨0, State.reset, ?_⟩
    decide +kernel
  · refine ⟨0, (State.reset.onLink 0 (fun m => { m with rxMsg := [(9, 1#120)] })), 9, 1#120, ?_⟩
    decide +kernel
  · refine ⟨0, (State.reset.onLink 0 (fun m => { m with rxMsg := [(9, 2#120)] })), 9, 2#120, ?_⟩
    decide +kernel
  · refine ⟨0, (State.reset.onLink 0 (fun m => { m with rxMsg := [(9, 327683#120)], strides := [(5, 9)] })), 9, 327683#120,
     (5, 9), ?_⟩
    dsimp only
    decide +kernel
  · refine ⟨0, (State.reset.onLink 0 (fun m => { m with rxMsg := [(9, 3#120)] })), 9, 3#120, ?_⟩
    dsimp only
    decide +kernel
  · refine ⟨0, (State.reset.onLink 0 (fun m => { m with rxMsg := [(9, 3#120)], strides := [(5, 9)] })), 9, 3#120, ?_⟩
    dsimp only
    decide +kernel
  · refine ⟨0, (State.reset.onLink 0 (fun m => { m with rxMsg := [(9, 4#120)] })), 9, 4#120, ?_⟩
    dsimp only
    decide +kernel
  · refine ⟨0, ((State.reset.put Reg.LD_HOLD_STAT_EPOCH 3).onLink 0 (fun m => { m with rxMsg := [(9, 6044629098073145873530884#120)] })),
     9, 6044629098073145873530884#120, ?_⟩
    dsimp only
    decide +kernel
  · refine ⟨0, ((State.reset.put Reg.LD_HOLD_STAT_EPOCH 3).onLink 0 (fun m => { m with rxMsg := [(9, 2417851639229258349412356#120)] })),
     9, 2417851639229258349412356#120, ?_⟩
    dsimp only
    decide +kernel
  · refine ⟨0, ((State.reset.put Reg.LD_HOLD_STAT_HELD 1).onLink 0 (fun m => { m with rxMsg := [(9, 5#120)] })), 9, 5#120,
     ?_⟩
    dsimp only
    decide +kernel

/-- `Obligations.MessagesBetweenChips`: its hypotheses can hold, clause by clause (part 2 of 2). -/
theorem wit_MessagesBetweenChips_2 :
    (∃ (n : Fin 16), ∃ (s : State), ∃ (at_ : Nat), ∃ (m : Flit), (s.link n).rxMsg.head? = some (at_, m) ∧
     let fld hi lo := bits m.toNat hi lo;
     mTYPE m = 5 ∧ (fld 95 80 ≠ s.epoch ∨ s.held = false)) ∧
    (∃ (n : Fin 16), ∃ (u : State),
     let k := u.link n;
     (k.aligning = false ∨ u.chip.image = none ∨ u.chip.n0 = none)) ∧
    (∃ (n : Fin 16), ∃ (u : State), ∃ (i : Image), ∃ (n0 : Nat), ∃ v,
     let k := u.link n;
     k.aligning = true ∧ u.chip.image = some i ∧ u.chip.n0 = some n0 ∧ k.sysId = some v ∧ v ≠ i.sys) ∧
    (∃ (n : Fin 16), ∃ (u : State), ∃ (i : Image), ∃ (n0 : Nat), ∃ v,
     let k := u.link n;
     k.aligning = true ∧ u.chip.image = some i ∧ u.chip.n0 = some n0 ∧ (k.sysId = none ∨ k.sysId = some i.sys) ∧ k.peerN0
      = some v ∧ (v.1.toNat ≠ n0 ∨ v.2 ≠ u.epoch)) ∧
    (∃ (n : Fin 16), ∃ (u : State), ∃ (i : Image), ∃ (n0 : Nat),
     let k := u.link n;
     k.aligning = true ∧ u.chip.image = some i ∧ u.chip.n0 = some n0 ∧
     let wrong := u.on (Reg.LD_LINK_CTL_PEER_CHK n) = true ∧ (u.get (Reg.LD_LINK_STAT_PEER_PART n) ≠ u.get (Reg.LD_LINK_CTL_PEER_PART_EXP n) ∨ u.get (Reg.LD_LINK_STAT_PEER_LINK n) ≠ u.get (Reg.LD_LINK_CTL_PEER_LINK_EXP n));
     k.sysId = some i.sys ∧ wrong ∧ k.peerN0 = none) ∧
    (∃ (n : Fin 16), ∃ (u : State), ∃ (i : Image), ∃ (n0 : Nat), ∃ v,
     let k := u.link n;
     k.aligning = true ∧ u.chip.image = some i ∧ u.chip.n0 = some n0 ∧
     let wrong := u.on (Reg.LD_LINK_CTL_PEER_CHK n) = true ∧ (u.get (Reg.LD_LINK_STAT_PEER_PART n) ≠ u.get (Reg.LD_LINK_CTL_PEER_PART_EXP n) ∨ u.get (Reg.LD_LINK_STAT_PEER_LINK n) ≠ u.get (Reg.LD_LINK_CTL_PEER_LINK_EXP n));
     k.sysId = some i.sys ∧ k.peerN0 = some v ∧ v.1.toNat = n0 ∧ v.2 = u.epoch ∧ wrong) ∧
    (∃ (n : Fin 16), ∃ (u : State), ∃ (i : Image), ∃ (n0 : Nat), ∃ v,
     let k := u.link n;
     k.aligning = true ∧ u.chip.image = some i ∧ u.chip.n0 = some n0 ∧
     let wrong := u.on (Reg.LD_LINK_CTL_PEER_CHK n) = true ∧ (u.get (Reg.LD_LINK_STAT_PEER_PART n) ≠ u.get (Reg.LD_LINK_CTL_PEER_PART_EXP n) ∨ u.get (Reg.LD_LINK_STAT_PEER_LINK n) ≠ u.get (Reg.LD_LINK_CTL_PEER_LINK_EXP n));
     k.sysId = some i.sys ∧ k.peerN0 = some v ∧ v.1.toNat = n0 ∧ v.2 = u.epoch ∧ ¬ wrong) ∧
    (∃ (n : Fin 20), ∃ (s : State), ∃ (at_ : Nat), ∃ (m : Flit), (s.link n).rxMsg.head? = some (at_, m) ∧ mTYPE m = 6) ∧
    (∃ (n : Fin 20), ∃ (s : State), ∃ (at_ : Nat), ∃ (m : Flit), (s.link n).rxMsg.head? = some (at_, m) ∧ mTYPE m = 7) := by
  refine ⟨?_, ?_, ?_, ?_, ?_, ?_, ?_, ?_, ?_⟩
  · refine ⟨0, (State.reset.onLink 0 (fun m => { m with rxMsg := [(9, 5#120)] })), 9, 5#120, ?_⟩
    dsimp only
    decide +kernel
  · exact ⟨0, State.reset, Or.inl (by decide +kernel)⟩
  · refine ⟨0, (({ State.reset with chip := { State.reset.chip with image := some ⟨0, 7, 0, 1, 0, false, [], [], [], [], []⟩, n0 := some 6 } }
     : State).onLink 0 (fun m => { m with aligning := true, sysId := some 8#64 })), ⟨0, 7, 0, 1, 0, false, [], [], [], [],
     []⟩, 6, 8#64, ?_⟩
    dsimp only
    decide +kernel
  · refine ⟨0, (({ State.reset with chip := { State.reset.chip with image := some ⟨0, 7, 0, 1, 0, false, [], [], [], [], []⟩, n0 := some 6 } }
     : State).onLink 0 (fun m => { m with aligning := true, sysId := some 7#64, peerN0 := some (5#64, 0) })), ⟨0, 7, 0, 1,
     0, false, [], [], [], [], []⟩, 6, (5#64, 0), ?_⟩
    dsimp only
    decide +kernel
  · refine ⟨0, ((((({ State.reset with chip := { State.reset.chip with image := some ⟨0, 7, 0, 1, 0, false, [], [], [], [], []⟩, n0 := some 6 } }
     : State).onLink 0 (fun m => { m with aligning := true, sysId := some 7#64 })).put (Reg.LD_LINK_CTL_PEER_CHK 0) 1).put
     (Reg.LD_LINK_CTL_PEER_PART_EXP 0) 1).put (Reg.LD_LINK_STAT_PEER_PART 0) 0), ⟨0, 7, 0, 1, 0, false, [], [], [], [], []⟩,
     6, ?_⟩
    dsimp only
    decide +kernel
  · refine ⟨0, ((((({ State.reset with chip := { State.reset.chip with image := some ⟨0, 7, 0, 1, 0, false, [], [], [], [], []⟩, n0 := some 6 } }
     : State).onLink 0 (fun m => { m with aligning := true, sysId := some 7#64, peerN0 := some (6#64, 0) })).put
     (Reg.LD_LINK_CTL_PEER_CHK 0) 1).put (Reg.LD_LINK_CTL_PEER_PART_EXP 0) 1).put (Reg.LD_LINK_STAT_PEER_PART 0) 0), ⟨0, 7,
     0, 1, 0, false, [], [], [], [], []⟩, 6, (6#64, 0), ?_⟩
    dsimp only
    decide +kernel
  · refine ⟨0, ((({ State.reset with chip := { State.reset.chip with image := some ⟨0, 7, 0, 1, 0, false, [], [], [], [], []⟩, n0 := some 6 } }
     : State).onLink 0 (fun m => { m with aligning := true, sysId := some 7#64, peerN0 := some (6#64, 0) })).put
     (Reg.LD_LINK_CTL_PEER_CHK 0) 0), ⟨0, 7, 0, 1, 0, false, [], [], [], [], []⟩, 6, (6#64, 0), ?_⟩
    dsimp only
    decide +kernel
  · refine ⟨0, (State.reset.onLink 0 (fun m => { m with rxMsg := [(9, 6#120)] })), 9, 6#120, ?_⟩
    decide +kernel
  · refine ⟨0, (State.reset.onLink 0 (fun m => { m with rxMsg := [(9, 7#120)] })), 9, 7#120, ?_⟩
    decide +kernel

/-- `Obligations.HoldsAreRequestedAndReached`: its hypotheses can hold, clause by clause. -/
theorem wit_HoldsAreRequestedAndReached :
    (∃ (s : State), ∃ (h : Nat),
     let late := h ≤ s.ds.issued ∧ s.ds.anyIssued = true;
     let hh := if late then s.ds.issued + 1 else h;
     s.held = true ∧ hh ≤ s.holdH) ∧
    (∃ (s : State), ∃ (h : Nat),
     let late := h ≤ s.ds.issued ∧ s.ds.anyIssued = true;
     let hh := if late then s.ds.issued + 1 else h;
     (s.held = false ∨ s.holdH < hh)) ∧
    (∃ (s : State), (s.ds.choice = none ∨ s.ds.prior = none ∨ s.held = false)) ∧
    (∃ (s : State), ∃ (w : BitVec 24), ∃ (k : Nat), ∃ (p : Prior), s.ds.choice = some (w, k) ∧ s.ds.prior = some p ∧ k <
     s.holdH) ∧
    (∃ (s : State), ∃ (w : BitVec 24), ∃ (k : Nat), ∃ (p : Prior), s.ds.choice = some (w, k) ∧ s.ds.prior = some p ∧
     s.held = true ∧ s.holdH ≤ k) ∧
    (∃ (s : State), s.held = true) ∧
    (∃ (s : State), s.held = false) ∧
    (∃ (s : State),
     let reached := s.held = true ∧ s.on Reg.LD_HOLD_STAT_AT_H = false ∧ s.strideMode = true ∧ s.chip.haltBkp = false ∧ s.chip.haltChk = false ∧ s.runTeams ≠ [] ∧ s.allAtH = true;
     ¬ reached) ∧
    (∃ (s : State),
     let reached := s.held = true ∧ s.on Reg.LD_HOLD_STAT_AT_H = false ∧ s.strideMode = true ∧ s.chip.haltBkp = false ∧ s.chip.haltChk = false ∧ s.runTeams ≠ [] ∧ s.allAtH = true;
     let a := ((s.set1 Reg.LD_HOLD_STAT_AT_H).postEvent 3 ⟨0x000C, 10, packBytes [(16, 8, s.holdH), (24, 1, s.chip.holdReason), (25, 1, s.chip.holdPart)]⟩).enterRest;
     reached ∧ a.longDesc 0x0302 = none ∧ a.longDesc 0x0304 = none) ∧
    (∃ (s : State),
     let reached := s.held = true ∧ s.on Reg.LD_HOLD_STAT_AT_H = false ∧ s.strideMode = true ∧ s.chip.haltBkp = false ∧ s.chip.haltChk = false ∧ s.runTeams ≠ [] ∧ s.allAtH = true;
     let a := ((s.set1 Reg.LD_HOLD_STAT_AT_H).postEvent 3 ⟨0x000C, 10, packBytes [(16, 8, s.holdH), (24, 1, s.chip.holdReason), (25, 1, s.chip.holdPart)]⟩).enterRest;
     reached ∧ (a.longDesc 0x0302 ≠ none ∨ a.longDesc 0x0304 ≠ none)) := by
  refine ⟨?_, ?_, ?_, ?_, ?_, ?_, ?_, ?_, ?_, ?_⟩
  · refine ⟨(State.reset.put Reg.LD_HOLD_STAT_HELD 1), 0, ?_⟩
    dsimp only
    decide +kernel
  · refine ⟨(State.reset.put Reg.LD_HOLD_STAT_HELD 0), 0, ?_⟩
    dsimp only
    decide +kernel
  · refine ⟨({ State.reset with ds.choice := none } : State), ?_⟩
    decide +kernel
  · refine ⟨(({ State.reset with ds := { State.reset.ds with choice := some (0#24, 4), prior := some ⟨[], 0, 0, 0, 0, []⟩ } }
     : State).put Reg.LD_HOLD_H_LO_H 9), 0#24, 4, ⟨[], 0, 0, 0, 0, []⟩, ?_⟩
    decide +kernel
  · refine ⟨(({ State.reset with ds := { State.reset.ds with choice := some (0#24, 4), prior := some ⟨[], 0, 0, 0, 0, []⟩ } }
     : State).put Reg.LD_HOLD_STAT_HELD 1), 0#24, 4, ⟨[], 0, 0, 0, 0, []⟩, ?_⟩
    decide +kernel
  · refine ⟨(State.reset.put Reg.LD_HOLD_STAT_HELD 1), ?_⟩
    decide +kernel
  · refine ⟨(State.reset.put Reg.LD_HOLD_STAT_HELD 0), ?_⟩
    decide +kernel
  · refine ⟨(State.reset.put Reg.LD_HOLD_STAT_HELD 0), ?_⟩
    dsimp only
    decide +kernel
  · refine ⟨(((sRun.put Reg.LD_HOLD_STAT_HELD 1).put Reg.LD_HOLD_H_LO_H 1).onTeam 0 (fun m => { m with len := 0 })), ?_⟩
    dsimp only
    unfold State.allAtH State.enterRest
    rw [runTeams_eq, runTeams_eq] <;> decide +kernel
  · refine ⟨(given (((sRun.put Reg.LD_HOLD_STAT_HELD 1).put Reg.LD_HOLD_H_LO_H 1).onTeam 0 (fun m => { m with len := 0 })) 3
     0x0302 [] true 0), ?_⟩
    dsimp only
    unfold State.allAtH State.enterRest
    rw [runTeams_eq, runTeams_eq] <;> decide +kernel

/-! ### Witnesses: Frames and GDDR6 -/

/-- `Obligations.FramesAreHeldAcceptedAndSentAgain`: its hypotheses can hold, clause by clause. -/
theorem wit_FramesAreHeldAcceptedAndSentAgain :
    (∃ (n : Fin 20), ∃ (s : State), s.isUp n = false) ∧
    (∃ (n : Fin 20), ∃ (s : State), ∃ (ex : Nat), ∃ (st : Nat), ∃ (q : Nat), ∃ (i : Nat), ∃ (f : LFrame), s.isUp n = true
     ∧
     let a := (s.expireForward n ex).expireSend n st;
     let k := a.link n;
     (k.resend = some q ∨ (k.resend = none ∧ 64 ≤ k.kept.length ∧ k.kept.head?.map (·.fseq) = some q)) ∧ k.kept.findIdx?
      (fun f => f.fseq == q) = some i ∧ k.kept[i]? = some f) ∧
    (∃ (n : Fin 20), ∃ (s : State), ∃ (ex : Nat), ∃ (st : Nat), ∃ (q : Nat), s.isUp n = true ∧
     let a := (s.expireForward n ex).expireSend n st;
     let k := a.link n;
     (k.resend = some q ∨ (k.resend = none ∧ 64 ≤ k.kept.length ∧ k.kept.head?.map (·.fseq) = some q)) ∧ k.kept.findIdx?
      (fun f => f.fseq == q) = none) ∧
    (∃ (n : Fin 20), ∃ (s : State), ∃ (ex : Nat), ∃ (st : Nat), s.isUp n = true ∧
     let a := (s.expireForward n ex).expireSend n st;
     let k := a.link n;
     k.resend = none ∧ k.kept.length < 64) ∧
    (∃ (n : Fin 20), ∃ (s : State), s.isUp n = true) ∧
    (∃ (n : Nat), ∃ (s : State),
     let k := s.link n;
     k.rxFail = true) ∧
    (∃ (n : Nat), ∃ (s : State),
     let k := s.link n;
     k.rxFail = false) ∧
    (∃ (n : Nat), ∃ (s : State), ∃ (h : W64), ∃ (g : LFrame),
     let k := s.link n;
     k.rxHeld = some g ∧ frameCrc g.cells ≠ BitVec.ofNat 32 (hINFO h)) ∧
    (∃ (n : Nat), ∃ (s : State), ∃ (ill : Option Nat), ∃ (h : W64),
     let k := s.link n;
     (∀ g : LFrame, k.rxHeld = some g → frameCrc g.cells = BitVec.ofNat 32 (hINFO h)) ∧
     let a := match k.rxHeld with | some g => s.acceptFrame n g | none => s;
     hFSEQ h = ((a.link n).rxLast + 1) % 256 ∧ ill = none) ∧
    (∃ (n : Nat), ∃ (s : State), ∃ (ill : Option Nat), ∃ (h : W64),
     let k := s.link n;
     (∀ g : LFrame, k.rxHeld = some g → frameCrc g.cells = BitVec.ofNat 32 (hINFO h)) ∧
     let a := match k.rxHeld with | some g => s.acceptFrame n g | none => s;
     hFSEQ h = ((a.link n).rxLast + 1) % 256 ∧ ill ≠ none) ∧
    (∃ (n : Nat), ∃ (s : State), ∃ (h : W64),
     let k := s.link n;
     (∀ g : LFrame, k.rxHeld = some g → frameCrc g.cells = BitVec.ofNat 32 (hINFO h)) ∧
     let a := match k.rxHeld with | some g => s.acceptFrame n g | none => s;
     hFSEQ h ≠ ((a.link n).rxLast + 1) % 256 ∧ (a.link n).rxFail = true) ∧
    (∃ (n : Nat), ∃ (s : State), ∃ (h : W64),
     let k := s.link n;
     (∀ g : LFrame, k.rxHeld = some g → frameCrc g.cells = BitVec.ofNat 32 (hINFO h)) ∧
     let a := match k.rxHeld with | some g => s.acceptFrame n g | none => s;
     hFSEQ h ≠ ((a.link n).rxLast + 1) % 256 ∧ (a.link n).rxFail = false) ∧
    (∃ (e : Fin 4), ∃ (s : State), (s.link (16 + e)).want = none) ∧
    (∃ (e : Fin 4), ∃ (s : State), ∃ c, (s.link (16 + e)).want = some c ∧
     let lanes := s.lanesIn (16 + e) (if (s.link (16 + e)).wantFw then [lActive, lStandby] else [lActive]);
     let use := lanes.take (widthLanes c);
     use.length ≠ widthLanes c) ∧
    (∃ (e : Fin 4), ∃ (s : State), ∃ c, (s.link (16 + e)).want = some c ∧
     let lanes := s.lanesIn (16 + e) (if (s.link (16 + e)).wantFw then [lActive, lStandby] else [lActive]);
     let use := lanes.take (widthLanes c);
     use.length = widthLanes c) := by
  refine ⟨?_, ?_, ?_, ?_, ?_, ?_, ?_, ?_, ?_, ?_, ?_, ?_, ?_, ?_, ?_⟩
  · refine ⟨0, State.reset, ?_⟩
    decide +kernel
  · refine ⟨0, ((State.reset.onLink 0 (fun m => { m with resend := some 3, kept := [⟨3, []⟩] })).put (linkStat 0) 1), 0, 0,
     3, 0, ⟨3, []⟩, ?_⟩
    dsimp only
    decide +kernel
  · refine ⟨0, ((State.reset.onLink 0 (fun m => { m with resend := some 3, kept := [] })).put (linkStat 0) 1), 0, 0, 3, ?_⟩
    dsimp only
    decide +kernel
  · refine ⟨0, (State.reset.put (linkStat ((0 : Fin 20))) 2), 0, 0, ?_⟩
    dsimp only
    decide +kernel
  · refine ⟨0, (State.reset.put (linkStat ((0 : Fin 20))) 2), ?_⟩
    decide +kernel
  · refine ⟨0, (State.reset.onLink (0 : Nat) (fun m => { m with rxFail := true })), ?_⟩
    dsimp only
    decide +kernel
  · refine ⟨0, (State.reset.onLink (0 : Nat) (fun m => { m with rxFail := false })), ?_⟩
    dsimp only
    decide +kernel
  · refine ⟨0, ((State.reset.onLink 0 (fun m => { m with rxHeld := some ⟨0, []⟩ })).put (linkStat 0) 1), (headerBlock 1 0
     false 0 ((frameCrc []).toNat + 1)), ⟨0, []⟩, ?_⟩
    dsimp only
    decide +kernel
  · refine ⟨0, State.reset, none, 0, ?_⟩
    dsimp only
    decide +kernel
  · refine ⟨0, State.reset, some 1, 0, ?_⟩
    dsimp only
    decide +kernel
  · refine ⟨0, (State.reset.onLink 0 (fun m => { m with rxFail := true, rxLast := 255, rxHeld := none })), (headerBlock 9 0
     false 0 0), ?_⟩
    dsimp only
    refine ⟨fun g hg => ?_, by decide +kernel, by decide +kernel⟩
    have e : (State.link (State.reset.onLink 0 (fun m => { m with rxFail := true, rxLast := 255, rxHeld := none }))
     0).rxHeld = none := (by decide +kernel)
    rw [e] at hg
    cases hg
  · refine ⟨0, ((State.reset.onLink 0 (fun m => { m with rxLast := 255 })).put (linkStat 0) 1), (headerBlock 9 0 false 0 0),
     ?_⟩
    dsimp only
    decide +kernel
  · refine ⟨0, (State.reset.onLink (16 + (0 : Fin 4)) (fun m => { m with want := none })), ?_⟩
    decide +kernel
  · refine ⟨0, (State.reset.onLink (16 + (0 : Fin 4)) (fun m => { m with want := some (0 : Nat) })), 0, ?_⟩
    dsimp only
    decide +kernel
  · refine ⟨0, ((State.reset.onLink 16 (fun m => { m with want := some 2 })).put (laneStat 144 3 0) lActive), 2, ?_⟩
    dsimp only
    decide +kernel

/-- `Obligations.ScheduledRequestsAreServed`: its hypotheses can hold, clause by clause (part 1 of 2). -/
theorem wit_ScheduledRequestsAreServed :
    (∃ (c : Fin 16), ∃ (s : State),
     let v := s.chan c;
     v.sq = []) ∧
    (∃ (c : Fin 16), ∃ (s : State), ∃ (q : Nat), ∃ (f : Flit), ∃ (rest : List (Nat × Flit)),
     let v := s.chan c;
     v.sq = (q, f) :: rest ∧ s.chanState c = gFailed ∧ bit f.toNat 72 = true) ∧
    (∃ (c : Fin 16), ∃ (s : State), ∃ (q : Nat), ∃ (f : Flit), ∃ (rest : List (Nat × Flit)),
     let v := s.chan c;
     v.sq = (q, f) :: rest ∧ s.chanState c = gFailed ∧ bit f.toNat 72 = false) ∧
    (∃ (c : Fin 16), ∃ (s : State), ∃ (q : Nat), ∃ (f : Flit), ∃ (rest : List (Nat × Flit)),
     let v := s.chan c;
     v.sq = (q, f) :: rest ∧ s.chanState c ≠ gFailed ∧ bits f.toNat 77 74 ≠ c ∧ bit f.toNat 72 = true) ∧
    (∃ (c : Fin 16), ∃ (s : State), ∃ (q : Nat), ∃ (f : Flit), ∃ (rest : List (Nat × Flit)),
     let v := s.chan c;
     v.sq = (q, f) :: rest ∧ s.chanState c ≠ gFailed ∧ bits f.toNat 77 74 ≠ c ∧ bit f.toNat 72 = false) ∧
    (∃ (c : Fin 16), ∃ (s : State), ∃ (cs : Bool), ∃ (q : Nat), ∃ (f : Flit), ∃ (rest : List (Nat × Flit)),
     let v := s.chan c;
     v.sq = (q, f) :: rest ∧
     let w := bits f.toNat 71 24;
     let barred := s.chanState c ≠ gReady ∨ v.pausing = true ∨ v.force = true ∨ s.behind c q (4 * w) = true ∨ ((s.dynPick c cs).isSome = true ∧ s.get (Reg.GW_CTL_DYN_MIN c) ≤ v.consec);
     let here := s.chanState c ≠ gFailed ∧ bits f.toNat 77 74 = c;
     here ∧ barred) ∧
    (∃ (c : Fin 16), ∃ (s : State), ∃ (cs : Bool), ∃ (q : Nat), ∃ (f : Flit), ∃ (rest : List (Nat × Flit)), ∃ k,
     let v := s.chan c;
     v.sq = (q, f) :: rest ∧
     let w := bits f.toNat 71 24;
     let barred := s.chanState c ≠ gReady ∨ v.pausing = true ∨ v.force = true ∨ s.behind c q (4 * w) = true ∨ ((s.dynPick c cs).isSome = true ∧ s.get (Reg.GW_CTL_DYN_MIN c) ≤ v.consec);
     let here := s.chanState c ≠ gFailed ∧ bits f.toNat 77 74 = c;
     here ∧ ¬ barred ∧ w < 2 ^ 30 ∧ 4 * w + 4 ≤ s.capacity c ∧ s.window c (4 * w) 4 = some k ∧ s.on (Reg.GW_WIN_SCHED c k)
      = true ∧ bit f.toNat 72 = true) ∧
    (∃ (c : Fin 16), ∃ (s : State), ∃ (cs : Bool), ∃ (q : Nat), ∃ (f : Flit), ∃ (rest : List (Nat × Flit)), ∃ k,
     let v := s.chan c;
     v.sq = (q, f) :: rest ∧
     let w := bits f.toNat 71 24;
     let barred := s.chanState c ≠ gReady ∨ v.pausing = true ∨ v.force = true ∨ s.behind c q (4 * w) = true ∨ ((s.dynPick c cs).isSome = true ∧ s.get (Reg.GW_CTL_DYN_MIN c) ≤ v.consec);
     let here := s.chanState c ≠ gFailed ∧ bits f.toNat 77 74 = c;
     here ∧ ¬ barred ∧ w < 2 ^ 30 ∧ 4 * w + 4 ≤ s.capacity c ∧ s.window c (4 * w) 4 = some k ∧ s.on (Reg.GW_WIN_SCHED c k)
      = true ∧ bit f.toNat 72 = false) ∧
    (∃ (c : Fin 16), ∃ (s : State), ∃ (cs : Bool), ∃ (q : Nat), ∃ (f : Flit), ∃ (rest : List (Nat × Flit)),
     let v := s.chan c;
     v.sq = (q, f) :: rest ∧
     let w := bits f.toNat 71 24;
     let barred := s.chanState c ≠ gReady ∨ v.pausing = true ∨ v.force = true ∨ s.behind c q (4 * w) = true ∨ ((s.dynPick c cs).isSome = true ∧ s.get (Reg.GW_CTL_DYN_MIN c) ≤ v.consec);
     let here := s.chanState c ≠ gFailed ∧ bits f.toNat 77 74 = c;
     here ∧ ¬ barred ∧ (2 ^ 30 ≤ w ∨ s.capacity c < 4 * w + 4 ∨ s.window c (4 * w) 4 = none ∨ (∃ k, s.window c (4 * w) 4 =
      some k ∧ s.on (Reg.GW_WIN_SCHED c k) = false)) ∧ bit f.toNat 72 = true) ∧
    (∃ (c : Fin 16), ∃ (s : State), ∃ (cs : Bool), ∃ (q : Nat), ∃ (f : Flit), ∃ (rest : List (Nat × Flit)),
     let v := s.chan c;
     v.sq = (q, f) :: rest ∧
     let w := bits f.toNat 71 24;
     let barred := s.chanState c ≠ gReady ∨ v.pausing = true ∨ v.force = true ∨ s.behind c q (4 * w) = true ∨ ((s.dynPick c cs).isSome = true ∧ s.get (Reg.GW_CTL_DYN_MIN c) ≤ v.consec);
     let here := s.chanState c ≠ gFailed ∧ bits f.toNat 77 74 = c;
     here ∧ ¬ barred ∧ (2 ^ 30 ≤ w ∨ s.capacity c < 4 * w + 4 ∨ s.window c (4 * w) 4 = none ∨ (∃ k, s.window c (4 * w) 4 =
      some k ∧ s.on (Reg.GW_WIN_SCHED c k) = false)) ∧ bit f.toNat 72 = false) ∧
    (∃ (c : Fin 16), ∃ (s : State), ∃ p, ∃ rest,
     let v := s.chan c;
     s.armed 3 c = true ∧ v.rsp = p :: rest) ∧
    (∃ (c : Fin 16), ∃ (s : State),
     let v := s.chan c;
     (s.armed 3 c = false ∨ v.rsp = [])) ∧
    (∃ (c : Fin 16), ∃ (s : State),
     let v := s.chan c;
     v.flight = []) ∧
    (∃ (c : Fin 16), ∃ (s : State), ∃ b, ∃ rest, ∃ f,
     let v := s.chan c;
     v.flight = b :: rest ∧ b.sched = some f ∧ b.write = true) ∧
    (∃ (c : Fin 16), ∃ (s : State), ∃ b, ∃ rest, ∃ (n : Nat), ∃ f,
     let v := s.chan c;
     v.flight = b :: rest ∧ b.sched = some f ∧ b.write = false ∧ n ≤ 4) ∧
    (∃ (c : Fin 16), ∃ (s : State), ∃ b, ∃ rest, ∃ (n : Nat), ∃ f,
     let v := s.chan c;
     v.flight = b :: rest ∧ b.sched = some f ∧ b.write = false ∧ 5 ≤ n) := by
  refine ⟨?_, ?_, ?_, ?_, ?_, ?_, ?_, ?_, ?_, ?_, ?_, ?_, ?_, ?_, ?_, ?_⟩
  · refine ⟨0, (State.reset.onChan (0 : Fin 16) (fun m => { m with sq := [] })), ?_⟩
    dsimp only
    decide +kernel
  · refine ⟨0, ((State.reset.onChan (0 : Fin 16) (fun m => { m with sq := ((0 : Nat), (4722366482869645213696 : Flit)) :: ([] : List (Nat × Flit)) })).put
     (Reg.GD_CH_STAT_STATE (0 : Fin 16)) gFailed), 0, 4722366482869645213696, [], ?_⟩
    dsimp only
    decide +kernel
  · refine ⟨0, ((State.reset.onChan (0 : Fin 16) (fun m => { m with sq := ((0 : Nat), (0 : Flit)) :: ([] : List (Nat × Flit)) })).put
     (Reg.GD_CH_STAT_STATE (0 : Fin 16)) gFailed), 0, 0, [], ?_⟩
    dsimp only
    decide +kernel
  · refine ⟨0, (State.reset.onChan 0 (fun m => { m with sq := [(0, 61390764277305387778048#120)] })), 0,
     61390764277305387778048#120, [], ?_⟩
    dsimp only
    decide +kernel
  · refine ⟨0, ((((State.reset.put (Reg.GD_CH_STAT_STATE 0) gReady).put (Reg.GW_WIN_VALID 0 0) 1).put (Reg.GW_WIN_SCHED 0 0)
     1).onChan 0 (fun m => { m with sq := [(0, 56668397794435742564352#120)] })), 0, 56668397794435742564352#120, [], ?_⟩
    dsimp only
    decide +kernel
  · refine ⟨0, (((State.reset.put (Reg.GD_CH_STAT_STATE 0) gReady).onChan 0 (fun m => { m with force := true })).onChan 0
     (fun m => { m with sq := [(0, 0#120)] })), false, 0, 0#120, [], ?_⟩
    dsimp only
    decide +kernel
  · refine ⟨0, ((((State.reset.put (Reg.GD_CH_STAT_STATE 0) gReady).put (Reg.GW_WIN_VALID 0 0) 1).put (Reg.GW_WIN_SCHED 0 0)
     1).onChan 0 (fun m => { m with sq := [(0, 4722366482869645213696#120)] })), false, 0, 4722366482869645213696#120, [],
     0, ?_⟩
    dsimp only
    decide +kernel
  · refine ⟨0, ((((State.reset.put (Reg.GD_CH_STAT_STATE 0) gReady).put (Reg.GW_WIN_VALID 0 0) 1).put (Reg.GW_WIN_SCHED 0 0)
     1).onChan 0 (fun m => { m with sq := [(0, 0#120)] })), false, 0, 0#120, [], 0, ?_⟩
    dsimp only
    decide +kernel
  · refine ⟨0, ((State.reset.put (Reg.GD_CH_STAT_STATE 0) gReady).onChan 0 (fun m => { m with sq := [(0, 4722366482869645213696#120)] })),
     false, 0, 4722366482869645213696#120, [], ?_⟩
    dsimp only
    decide +kernel
  · refine ⟨0, ((((State.reset.put (Reg.GD_CH_STAT_STATE 0) gReady).put (Reg.GW_WIN_VALID 0 0) 1).put (Reg.GW_WIN_SCHED 0 0)
     1).onChan 0 (fun m => { m with sq := [(0, 18014398509481984#120)] })), false, 0, 18014398509481984#120, [], ?_⟩
    dsimp only
    exact ⟨by decide +kernel, by decide +kernel, by decide +kernel, Or.inl (by decide +kernel), by decide +kernel⟩
  · refine ⟨0, (State.reset.onChan (0 : Fin 16) (fun m => { m with rsp := (⟨0, []⟩ : Packet) :: ([] : List Packet) })), ⟨0,
     []⟩, [], ?_⟩
    dsimp only
    decide +kernel
  · refine ⟨0, State.reset, ?_⟩
    dsimp only
    decide +kernel
  · refine ⟨0, (State.reset.onChan (0 : Fin 16) (fun m => { m with flight := [] })), ?_⟩
    dsimp only
    decide +kernel
  · refine ⟨0, (State.reset.onChan (0 : Fin 16) (fun m => { m with flight := (({ (⟨0, 32, false, [], none, none⟩ : Burst) with sched := some (0 : Flit), write := true }) : Burst) :: ([] : List Burst) })),
     ({ (⟨0, 32, false, [], none, none⟩ : Burst) with sched := some (0 : Flit), write := true }), [], 0, ?_⟩
    dsimp only
    decide +kernel
  · refine ⟨0, (State.reset.onChan (0 : Fin 16) (fun m => { m with flight := (({ (⟨0, 32, false, [], none, none⟩ : Burst) with sched := some (0 : Flit), write := false }) : Burst) :: ([] : List Burst) })),
     ({ (⟨0, 32, false, [], none, none⟩ : Burst) with sched := some (0 : Flit), write := false }), [], 0, 0, ?_⟩
    dsimp only
    decide +kernel
  · refine ⟨0, (State.reset.onChan (0 : Fin 16) (fun m => { m with flight := (({ (⟨0, 32, false, [], none, none⟩ : Burst) with sched := some (0 : Flit), write := false }) : Burst) :: ([] : List Burst) })),
     ({ (⟨0, 32, false, [], none, none⟩ : Burst) with sched := some (0 : Flit), write := false }), [], 5, 0, ?_⟩
    dsimp only
    decide +kernel

/-- `Obligations.ScheduledRequestsAreServed`: its hypotheses can hold, clause by clause (part 2 of 2). -/
theorem wit_ScheduledRequestsAreServed_2 :
    (∃ (c : Fin 16), ∃ (s : State), ∃ b, ∃ rest,
     let v := s.chan c;
     v.flight = b :: rest ∧ b.sched = none ∧ b.dyn = none) ∧
    (∃ (c : Fin 16), ∃ (s : State), ∃ b, ∃ rest, ∃ (n : Nat), ∃ q,
     let v := s.chan c;
     v.flight = b :: rest ∧ b.sched = none ∧ b.dyn = some q ∧ n ≤ 4) ∧
    (∃ (c : Fin 16), ∃ (s : State), ∃ b, ∃ rest, ∃ (n : Nat), ∃ q,
     let v := s.chan c;
     v.flight = b :: rest ∧ b.sched = none ∧ b.dyn = some q ∧ 5 ≤ n ∧ q.left = 0) ∧
    (∃ (c : Fin 16), ∃ (s : State), ∃ b, ∃ rest, ∃ (n : Nat), ∃ q,
     let v := s.chan c;
     v.flight = b :: rest ∧
     let a := s.setChan c { v with flight := rest };
     let a1 := if 0 < n ∧ n ≤ 4 then a.sat (Reg.GD_CH_ERRCNT_CRC_REPLAY c) 1 else if 5 ≤ n then a.crcFail c b.addr else a;
     let a2 := if 5 ≤ n ∧ b.write = true then (a1.setMemBytes (dAddr c (b.addr / 32 * 32)) (freeBytes a1.free 32)).spendN 32 else a1;
     b.sched = none ∧ b.dyn = some q ∧ 5 ≤ n ∧ q.left ≠ 0 ∧ a2.isCopy q = true) ∧
    (∃ (c : Fin 16), ∃ (s : State), ∃ b, ∃ rest, ∃ (n : Nat), ∃ q,
     let v := s.chan c;
     v.flight = b :: rest ∧
     let a := s.setChan c { v with flight := rest };
     let a1 := if 0 < n ∧ n ≤ 4 then a.sat (Reg.GD_CH_ERRCNT_CRC_REPLAY c) 1 else if 5 ≤ n then a.crcFail c b.addr else a;
     let a2 := if 5 ≤ n ∧ b.write = true then (a1.setMemBytes (dAddr c (b.addr / 32 * 32)) (freeBytes a1.free 32)).spendN 32 else a1;
     b.sched = none ∧ b.dyn = some q ∧ 5 ≤ n ∧ q.left ≠ 0 ∧ a2.isCopy q = false) ∧
    (∃ (c : Fin 16), ∃ (s : State),
     let v := s.chan c;
     v.closed = []) ∧
    (∃ (c : Fin 16), ∃ (s : State), ∃ rest,
     let v := s.chan c;
     v.closed = none :: rest) ∧
    (∃ (c : Fin 16), ∃ (s : State), ∃ b, ∃ rest,
     let v := s.chan c;
     v.closed = some b :: rest) := by
  refine ⟨?_, ?_, ?_, ?_, ?_, ?_, ?_, ?_⟩
  · refine ⟨0, (State.reset.onChan (0 : Fin 16) (fun m => { m with flight := (({ (⟨0, 32, false, [], none, none⟩ : Burst) with sched := none, dyn := none }) : Burst) :: ([] : List Burst) })),
     ({ (⟨0, 32, false, [], none, none⟩ : Burst) with sched := none, dyn := none }), [], ?_⟩
    dsimp only
    decide +kernel
  · refine ⟨0, (State.reset.onChan (0 : Fin 16) (fun m => { m with flight := (({ (⟨0, 32, false, [], none, none⟩ : Burst) with sched := none, dyn := some (⟨0, none, none, 0, 32, false, [], [], false, false, false⟩ : DynReq) }) : Burst) :: ([] : List Burst) })),
     ({ (⟨0, 32, false, [], none, none⟩ : Burst) with sched := none, dyn := some (⟨0, none, none, 0, 32, false, [], [], false, false, false⟩ : DynReq) }),
     [], 0, ⟨0, none, none, 0, 32, false, [], [], false, false, false⟩, ?_⟩
    dsimp only
    decide +kernel
  · refine ⟨0, (State.reset.onChan (0 : Fin 16) (fun m => { m with flight := (({ (⟨0, 32, false, [], none, none⟩ : Burst) with sched := none, dyn := some (({ (⟨0, none, none, 0, 32, false, [], [], false, false, false⟩ : DynReq) with left := 0 }) : DynReq) }) : Burst) :: ([] : List Burst) })),
     ({ (⟨0, 32, false, [], none, none⟩ : Burst) with sched := none, dyn := some (({ (⟨0, none, none, 0, 32, false, [], [], false, false, false⟩ : DynReq) with left := 0 }) : DynReq) }),
     [], 5, ({ (⟨0, none, none, 0, 32, false, [], [], false, false, false⟩ : DynReq) with left := 0 }), ?_⟩
    dsimp only
    decide +kernel
  · refine ⟨0, ({ (State.reset.onChan 0 (fun m => { m with flight := [⟨0, 32, false, [], none, some ⟨0, none, some (7, 0), 0, 32, false, [], [], false, false, false⟩⟩] })) with pcie := { State.reset.pcie with txs := [⟨7, true, 32, [], 1, [], false⟩] } }
     : State), ⟨0, 32, false, [], none, some ⟨0, none, some (7, 0), 0, 32, false, [], [], false, false, false⟩⟩, [], 5, ⟨0,
     none, some (7, 0), 0, 32, false, [], [], false, false, false⟩, ?_⟩
    dsimp only
    decide +kernel
  · refine ⟨0, (State.reset.onChan (0 : Fin 16) (fun m => { m with flight := (({ (⟨0, 32, false, [], none, none⟩ : Burst) with sched := none, dyn := some (({ (⟨0, none, none, 0, 32, false, [], [], false, false, false⟩ : DynReq) with left := 1 }) : DynReq) }) : Burst) :: ([] : List Burst) })),
     ({ (⟨0, 32, false, [], none, none⟩ : Burst) with sched := none, dyn := some (({ (⟨0, none, none, 0, 32, false, [], [], false, false, false⟩ : DynReq) with left := 1 }) : DynReq) }),
     [], 5, ({ (⟨0, none, none, 0, 32, false, [], [], false, false, false⟩ : DynReq) with left := 1 }), ?_⟩
    dsimp only
    decide +kernel
  · refine ⟨0, (State.reset.onChan (0 : Fin 16) (fun m => { m with closed := [] })), ?_⟩
    dsimp only
    decide +kernel
  · refine ⟨0, (State.reset.onChan (0 : Fin 16) (fun m => { m with closed := none :: ([] : List (Option Nat)) })), [], ?_⟩
    dsimp only
    decide +kernel
  · refine ⟨0, (State.reset.onChan (0 : Fin 16) (fun m => { m with closed := some (0 : Nat) :: ([] : List (Option Nat)) })),
     0, [], ?_⟩
    dsimp only
    decide +kernel

/-- `Obligations.DynamicTrafficAndRefresh`: its hypotheses can hold, clause by clause (part 1 of 2). -/
theorem wit_DynamicTrafficAndRefresh :
    (∃ (c : Fin 16), ∃ (s : State), ∃ (bl : Bool), ∃ (cap : Bool),
     let v := s.chan c;
     let turn := s.chanState c = gReady ∧ v.pausing = false ∧ v.force = false ∧ (v.sq = [] ∨ bl = true ∨ s.schedBehind c = true ∨ s.get (Reg.GW_CTL_DYN_MIN c) ≤ v.consec);
     (¬ turn ∨ s.dynPick c cap = none)) ∧
    (∃ (c : Fin 16), ∃ (s : State), ∃ (bl : Bool), ∃ (cap : Bool), ∃ (q : DynReq),
     let v := s.chan c;
     let turn := s.chanState c = gReady ∧ v.pausing = false ∧ v.force = false ∧ (v.sq = [] ∨ bl = true ∨ s.schedBehind c = true ∨ s.get (Reg.GW_CTL_DYN_MIN c) ≤ v.consec);
     turn ∧ s.dynPick c cap = some q ∧
     let n := min q.left (32 - q.addr % 32);
     q ∉ v.dyn ∧ s.window c q.addr n = none) ∧
    (∃ (c : Fin 16), ∃ (s : State), ∃ (bl : Bool), ∃ (cap : Bool), ∃ (q : DynReq),
     let v := s.chan c;
     let turn := s.chanState c = gReady ∧ v.pausing = false ∧ v.force = false ∧ (v.sq = [] ∨ bl = true ∨ s.schedBehind c = true ∨ s.get (Reg.GW_CTL_DYN_MIN c) ≤ v.consec);
     turn ∧ s.dynPick c cap = some q ∧
     let n := min q.left (32 - q.addr % 32);
     (q ∈ v.dyn ∨ s.window c q.addr n ≠ none)) ∧
    (∃ (c : Fin 16), ∃ (s : State), oldest ((s.waiting c).filter (fun q => !q.aged)) = none) ∧
    (∃ (c : Fin 16), ∃ (s : State), ∃ q, oldest ((s.waiting c).filter (fun q => !q.aged)) = some q) ∧
    (∃ (c : Fin 16), ∃ (s : State), ∃ (q : DynReq),
     let v := s.chan c;
     q ∈ v.dyn) ∧
    (∃ (c : Fin 16), ∃ (s : State), ∃ (q : DynReq),
     let v := s.chan c;
     q ∉ v.dyn) ∧
    (∃ (c : Fin 16), ∃ (s : State),
     let v := s.chan c;
     let ready := s.chanState c = gReady ∨ s.chanState c = gPaused;
     (¬ ready ∨ 8 ≤ v.owed.length)) ∧
    (∃ (c : Fin 16), ∃ (s : State),
     let v := s.chan c;
     let ready := s.chanState c = gReady ∨ s.chanState c = gPaused;
     ready ∧ v.owed.length < 7) ∧
    (∃ (c : Fin 16), ∃ (s : State), ∃ (i : Nat),
     let v := s.chan c;
     let ready := s.chanState c = gReady ∨ s.chanState c = gPaused;
     let a := (s.setChan c { v with owed := v.owed ++ [v.nextBank], nextBank := (v.nextBank + 1) % 16 }).put (Reg.GD_REF_DEBT c) (v.owed.length + 1);
     ready ∧ v.owed.length = 7 ∧ (a.chan c).owed.findIdx? (fun b => a.qualifies c b) = some i) ∧
    (∃ (c : Fin 16), ∃ (s : State),
     let v := s.chan c;
     let ready := s.chanState c = gReady ∨ s.chanState c = gPaused;
     let a := (s.setChan c { v with owed := v.owed ++ [v.nextBank], nextBank := (v.nextBank + 1) % 16 }).put (Reg.GD_REF_DEBT c) (v.owed.length + 1);
     ready ∧ v.owed.length = 7 ∧ (a.chan c).owed.findIdx? (fun b => a.qualifies c b) = none) ∧
    (∃ (c : Fin 16), ∃ (s : State), ∃ (i : Nat), ∃ (b : Nat),
     let v := s.chan c;
     v.owed[i]? = some b) ∧
    (∃ (c : Fin 16), ∃ (s : State),
     let ready := s.chanState c = gReady ∨ s.chanState c = gPaused;
     ¬ ready) ∧
    (∃ (c : Fin 16), ∃ (s : State),
     let v := s.chan c;
     let ready := s.chanState c = gReady ∨ s.chanState c = gPaused;
     ready ∧ v.force = true) ∧
    (∃ (c : Fin 16), ∃ (s : State), ∃ (i : Nat),
     let v := s.chan c;
     let ready := s.chanState c = gReady ∨ s.chanState c = gPaused;
     ready ∧ v.force = false ∧ v.owed.findIdx? (fun b => s.qualifies c b) = some i) ∧
    (∃ (c : Fin 16), ∃ (s : State),
     let v := s.chan c;
     v.force = false ∧ v.owed.findIdx? (fun b => s.qualifies c b) = none) := by
  refine ⟨?_, ?_, ?_, ?_, ?_, ?_, ?_, ?_, ?_, ?_, ?_, ?_, ?_, ?_, ?_, ?_⟩
  · refine ⟨0, State.reset, false, false, ?_⟩
    dsimp only
    decide +kernel
  · refine ⟨0, ({ (State.reset.put (Reg.GD_CH_STAT_STATE 0) gReady) with cap := { State.reset.cap with staging := [(0, ⟨0, none, none, 0, 32, true, [], [], true, false, false⟩)] } }
     : State), false, false, ⟨0, none, none, 0, 32, true, [], [], true, false, false⟩, ?_⟩
    dsimp only
    decide +kernel
  · refine ⟨0, (((((State.reset.put (Reg.GD_CH_STAT_STATE (0 : Fin 16)) gReady).onChan (0 : Fin 16) (fun m => { m with pausing := false })).onChan
     (0 : Fin 16) (fun m => { m with force := false })).onChan (0 : Fin 16) (fun m => { m with sq := [] })).onChan (0 : Fin
     16) (fun m => { m with dyn := [(⟨0, none, none, 0, 32, false, [], [], false, false, false⟩ : DynReq)] })), false,
     false, ⟨0, none, none, 0, 32, false, [], [], false, false, false⟩, ?_⟩
    dsimp only
    decide +kernel
  · refine ⟨0, State.reset, ?_⟩
    decide +kernel
  · refine ⟨0, (State.reset.onChan 0 (fun m => { m with dyn := [⟨0, none, none, 0, 32, false, [], [], false, false, false⟩] })),
     ⟨0, none, none, 0, 32, false, [], [], false, false, false⟩, ?_⟩
    decide +kernel
  · refine ⟨0, (State.reset.onChan (0 : Fin 16) (fun m => { m with dyn := [(⟨0, none, none, 0, 32, false, [], [], false, false, false⟩ : DynReq)] })),
     ⟨0, none, none, 0, 32, false, [], [], false, false, false⟩, ?_⟩
    dsimp only
    decide +kernel
  · refine ⟨0, State.reset, ⟨0, none, none, 0, 32, false, [], [], false, false, false⟩, ?_⟩
    dsimp only
    decide +kernel
  · refine ⟨0, State.reset, ?_⟩
    dsimp only
    decide +kernel
  · refine ⟨0, (State.reset.put (Reg.GD_CH_STAT_STATE (0 : Fin 16)) gReady), ?_⟩
    dsimp only
    decide +kernel
  · refine ⟨0, ((State.reset.put (Reg.GD_CH_STAT_STATE 0) gReady).onChan 0 (fun m => { m with owed := [0, 0, 0, 0, 0, 0, 0] })),
     0, ?_⟩
    dsimp only
    decide +kernel
  · refine ⟨0, ((State.reset.put (Reg.GD_CH_STAT_STATE 0) gReady).onChan 0 (fun m => { m with owed := [0, 0, 0, 0, 0, 0, 0], sq := [(0, 0#120)] })),
     ?_⟩
    dsimp only
    decide +kernel
  · refine ⟨0, (State.reset.onChan (0 : Fin 16) (fun m => { m with owed := [(0 : Nat)] })), 0, 0, ?_⟩
    dsimp only
    decide +kernel
  · refine ⟨0, State.reset, ?_⟩
    dsimp only
    decide +kernel
  · refine ⟨0, ((State.reset.put (Reg.GD_CH_STAT_STATE (0 : Fin 16)) gReady).onChan (0 : Fin 16) (fun m => { m with force := true })),
     ?_⟩
    dsimp only
    decide +kernel
  · refine ⟨0, ((State.reset.put (Reg.GD_CH_STAT_STATE 0) gReady).onChan 0 (fun m => { m with owed := [3] })), 0, ?_⟩
    dsimp only
    decide +kernel
  · refine ⟨0, (State.reset.onChan (0 : Fin 16) (fun m => { m with force := false })), ?_⟩
    dsimp only
    decide +kernel

/-- `Obligations.DynamicTrafficAndRefresh`: its hypotheses can hold, clause by clause (part 2 of 2). -/
theorem wit_DynamicTrafficAndRefresh_2 :
    (∃ (c : Fin 16), ∃ (s : State),
     let ready := s.chanState c = gReady ∨ s.chanState c = gPaused;
     (¬ ready ∨ s.on (Reg.GD_CH_CTL_PARITY_EN c) = false)) ∧
    (∃ (c : Fin 16), ∃ (s : State),
     let v := s.chan c;
     let ready := s.chanState c = gReady ∨ s.chanState c = gPaused;
     ready ∧ s.on (Reg.GD_CH_CTL_PARITY_EN c) = true ∧ 3 ≤ v.alerts) ∧
    (∃ (c : Fin 16), ∃ (s : State), ∃ (again : Bool),
     let v := s.chan c;
     let ready := s.chanState c = gReady ∨ s.chanState c = gPaused;
     ready ∧ s.on (Reg.GD_CH_CTL_PARITY_EN c) = true ∧ v.alerts < 3 ∧ again = true) ∧
    (∃ (c : Fin 16), ∃ (s : State), ∃ (again : Bool),
     let v := s.chan c;
     let ready := s.chanState c = gReady ∨ s.chanState c = gPaused;
     ready ∧ s.on (Reg.GD_CH_CTL_PARITY_EN c) = true ∧ v.alerts < 3 ∧ again = false) := by
  refine ⟨?_, ?_, ?_, ?_⟩
  · refine ⟨0, State.reset, ?_⟩
    dsimp only
    decide +kernel
  · refine ⟨0, (((State.reset.put (Reg.GD_CH_STAT_STATE (0 : Fin 16)) gReady).put (Reg.GD_CH_CTL_PARITY_EN (0 : Fin 16))
     1).onChan (0 : Fin 16) (fun m => { m with alerts := 3 })), ?_⟩
    dsimp only
    decide +kernel
  · refine ⟨0, ((State.reset.put (Reg.GD_CH_STAT_STATE (0 : Fin 16)) gReady).put (Reg.GD_CH_CTL_PARITY_EN (0 : Fin 16)) 1),
     true, ?_⟩
    dsimp only
    decide +kernel
  · refine ⟨0, ((State.reset.put (Reg.GD_CH_STAT_STATE (0 : Fin 16)) gReady).put (Reg.GD_CH_CTL_PARITY_EN (0 : Fin 16)) 1),
     false, ?_⟩
    dsimp only
    decide +kernel

/-- `Obligations.TrainingPausesAndSelfRefresh`: its hypotheses can hold, clause by clause (part 1 of 2). -/
theorem wit_TrainingPausesAndSelfRefresh :
    (∃ (c : Fin 16), ∃ (s : State), ∃ (op : Fin 8),
     let runs := (s.chanState c = gTrain ∨ s.chanState c = gPaused) ∧ 1 ≤ op.val ∧ op.val ≤ 4;
     runs) ∧
    (∃ (c : Fin 16), ∃ (s : State), ∃ (op : Fin 8),
     let runs := (s.chanState c = gTrain ∨ s.chanState c = gPaused) ∧ 1 ≤ op.val ∧ op.val ≤ 4;
     ¬ runs) ∧
    (∃ (n : Fin 128), dlyExists n = false) ∧
    (∃ (c : Fin 16), ∃ (s : State), ∃ (n : Fin 128),
     let free := s.chanState c = gOff ∨ s.chanState c = gTrain ∨ s.chanState c = gPaused;
     dlyExists n = true ∧ free) ∧
    (∃ (c : Fin 16), ∃ (s : State), ∃ (n : Fin 128),
     let free := s.chanState c = gOff ∨ s.chanState c = gTrain ∨ s.chanState c = gPaused;
     dlyExists n = true ∧ ¬ free) ∧
    (∃ (c : Fin 16), ∃ (s : State), s.on (Reg.GD_CH_CTL_PAUSE c) = true) ∧
    (∃ (c : Fin 16), ∃ (s : State), s.on (Reg.GD_CH_CTL_PAUSE c) = false ∧ s.stridesRun = true) ∧
    (∃ (c : Fin 16), ∃ (s : State), s.on (Reg.GD_CH_CTL_PAUSE c) = false ∧ s.stridesRun = false) ∧
    (∃ (c : Fin 16), ∃ (a : State), a.chanState c = gReady) ∧
    (∃ (c : Fin 16), ∃ (a : State), a.chanState c ≠ gReady) ∧
    (∃ (c : Fin 16), ∃ (s : State),
     let v := s.chan c;
     v.pausing = true ∧ v.flight = []) ∧
    (∃ (c : Fin 16), ∃ (s : State),
     let v := s.chan c;
     (v.pausing = false ∨ v.flight ≠ [])) ∧
    (∃ (c : Fin 16), ∃ (s : State),
     let v := s.chan c;
     s.on (Reg.GD_CH_CTL_PAUSE c) = true ∧ v.pauseDue = false) ∧
    (∃ (c : Fin 16), ∃ (s : State),
     let v := s.chan c;
     (s.on (Reg.GD_CH_CTL_PAUSE c) = false ∨ v.pauseDue = true)) ∧
    (∃ (c : Fin 16), ∃ (s : State), s.chanState c = gReady) ∧
    (∃ (c : Fin 16), ∃ (s : State), s.chanState c ≠ gReady) := by
  refine ⟨?_, ?_, ?_, ?_, ?_, ?_, ?_, ?_, ?_, ?_, ?_, ?_, ?_, ?_, ?_, ?_⟩
  · refine ⟨0, (State.reset.put (Reg.GD_CH_STAT_STATE 0) gTrain), 4, ?_⟩
    dsimp only
    decide +kernel
  · refine ⟨0, State.reset, 0, ?_⟩
    dsimp only
    decide +kernel
  · refine ⟨127, ?_⟩
    decide +kernel
  · refine ⟨0, (State.reset.put (Reg.GD_CH_STAT_STATE (0 : Fin 16)) gOff), 0, ?_⟩
    dsimp only
    decide +kernel
  · refine ⟨0, (State.reset.put (Reg.GD_CH_STAT_STATE 0) gReady), 80, ?_⟩
    dsimp only
    decide +kernel
  · refine ⟨0, (State.reset.put (Reg.GD_CH_CTL_PAUSE (0 : Fin 16)) 1), ?_⟩
    decide +kernel
  · refine ⟨0, (sRun.put (Reg.GD_CH_CTL_PAUSE (0 : Fin 16)) 0), ?_⟩
    decide +kernel
  · refine ⟨0, (State.reset.put (Reg.GD_CH_CTL_PAUSE (0 : Fin 16)) 0), ?_⟩
    decide +kernel
  · refine ⟨0, (State.reset.put (Reg.GD_CH_STAT_STATE 0) gReady), ?_⟩
    decide +kernel
  · refine ⟨0, State.reset, ?_⟩
    decide +kernel
  · refine ⟨0, ((State.reset.onChan (0 : Fin 16) (fun m => { m with pausing := true })).onChan (0 : Fin 16) (fun m => { m with flight := [] })),
     ?_⟩
    dsimp only
    decide +kernel
  · refine ⟨0, (State.reset.onChan (0 : Fin 16) (fun m => { m with pausing := false })), ?_⟩
    dsimp only
    decide +kernel
  · refine ⟨0, ((State.reset.put (Reg.GD_CH_CTL_PAUSE (0 : Fin 16)) 1).onChan (0 : Fin 16) (fun m => { m with pauseDue := false })),
     ?_⟩
    dsimp only
    decide +kernel
  · refine ⟨0, (State.reset.put (Reg.GD_CH_CTL_PAUSE (0 : Fin 16)) 0), ?_⟩
    dsimp only
    decide +kernel
  · refine ⟨0, (State.reset.put (Reg.GD_CH_STAT_STATE (0 : Fin 16)) gReady), ?_⟩
    decide +kernel
  · refine ⟨0, State.reset, ?_⟩
    decide +kernel

/-- `Obligations.TrainingPausesAndSelfRefresh`: its hypotheses can hold, clause by clause (part 2 of 2). -/
theorem wit_TrainingPausesAndSelfRefresh_2 :
    (∃ (c : Fin 16), ∃ (s : State), s.chanState c = gSref) ∧
    (∃ (c : Fin 16), ∃ (s : State), s.chanState c ≠ gSref) := by
  refine ⟨?_, ?_⟩
  · refine ⟨0, (State.reset.put (Reg.GD_CH_STAT_STATE (0 : Fin 16)) gSref), ?_⟩
    decide +kernel
  · refine ⟨0, State.reset, ?_⟩
    decide +kernel

/-! ### Witnesses: The Hitch fabric -/

/-- `Obligations.HitchPortsMoveData`: its hypotheses can hold, clause by clause. -/
theorem wit_HitchPortsMoveData :
    (∃ (s : State),
     let go := s.on Reg.HT_CTL_HITCH_GO;
     go = false) ∧
    (∃ (s : State),
     let go := s.on Reg.HT_CTL_HITCH_GO;
     go = true) ∧
    (∃ (s : State),
     let h := s.ht;
     let go := s.on Reg.HT_CTL_HITCH_GO;
     (go = false ∨ h.ready = none)) ∧
    (∃ (s : State), ∃ n, ∃ v,
     let h := s.ht;
     let go := s.on Reg.HT_CTL_HITCH_GO;
     go = true ∧ h.ready = some (n, v)) ∧
    (∃ (s : State),
     let h := s.ht;
     let go := s.on Reg.HT_CTL_HITCH_GO;
     go = true ∧ h.toks.length < 16) ∧
    (∃ (s : State),
     let h := s.ht;
     let go := s.on Reg.HT_CTL_HITCH_GO;
     (go = false ∨ 16 ≤ h.toks.length)) ∧
    (∃ (s : State), ∃ (n : Fin 4), ∃ x, ∃ rest,
     let h := s.ht;
     let go := s.on Reg.HT_CTL_HITCH_GO;
     go = true ∧ look h.rx n = x :: rest) ∧
    (∃ (s : State), ∃ (n : Fin 4),
     let h := s.ht;
     let go := s.on Reg.HT_CTL_HITCH_GO;
     (go = false ∨ look h.rx n = [])) ∧
    (∃ (s : State),
     let go := s.on Reg.HT_CTL_HITCH_GO;
     go = false) ∧
    (∃ (s : State), ∃ (n : Fin 4),
     let go := s.on Reg.HT_CTL_HITCH_GO;
     go = true ∧ s.isUp (16 + n) = false) ∧
    (∃ (s : State), ∃ (n : Fin 4),
     let h := s.ht;
     let go := s.on Reg.HT_CTL_HITCH_GO;
     go = true ∧ s.isUp (16 + n) = true ∧ 32 ≤ (look h.tx n).length) ∧
    (∃ (s : State), ∃ (n : Fin 4), ∃ (nb : BitVec 4),
     let h := s.ht;
     let go := s.on Reg.HT_CTL_HITCH_GO;
     go = true ∧ s.isUp (16 + n) = true ∧ (look h.tx n).length < 32 ∧ 14 ≤ nb.toNat) ∧
    (∃ (s : State), ∃ (n : Fin 4), ∃ (nb : BitVec 4),
     let h := s.ht;
     let go := s.on Reg.HT_CTL_HITCH_GO;
     go = true ∧ s.isUp (16 + n) = true ∧ (look h.tx n).length < 32 ∧ nb.toNat < 14) := by
  refine ⟨?_, ?_, ?_, ?_, ?_, ?_, ?_, ?_, ?_, ?_, ?_, ?_, ?_⟩
  · refine ⟨(State.reset.put Reg.HT_CTL_HITCH_GO 0), ?_⟩
    dsimp only
    decide +kernel
  · refine ⟨(State.reset.put Reg.HT_CTL_HITCH_GO 1), ?_⟩
    dsimp only
    decide +kernel
  · refine ⟨(State.reset.put Reg.HT_CTL_HITCH_GO 0), ?_⟩
    dsimp only
    decide +kernel
  · refine ⟨({ (State.reset.put Reg.HT_CTL_HITCH_GO 1) with ht.ready := some ((0 : Nat), (0 : BitVec 1536)) } : State), 0,
     0, ?_⟩
    dsimp only
    decide +kernel
  · refine ⟨(State.reset.put Reg.HT_CTL_HITCH_GO 1), ?_⟩
    dsimp only
    decide +kernel
  · refine ⟨(State.reset.put Reg.HT_CTL_HITCH_GO 0), ?_⟩
    dsimp only
    decide +kernel
  · refine ⟨({ (State.reset.put Reg.HT_CTL_HITCH_GO 1) with ht.rx := [((0 : Fin 4), (⟨0, 0, 0⟩ : SCell) :: ([] : List SCell))] }
     : State), 0, ⟨0, 0, 0⟩, [], ?_⟩
    dsimp only
    decide +kernel
  · refine ⟨(State.reset.put Reg.HT_CTL_HITCH_GO 0), 0, ?_⟩
    dsimp only
    decide +kernel
  · refine ⟨(State.reset.put Reg.HT_CTL_HITCH_GO 0), ?_⟩
    dsimp only
    decide +kernel
  · refine ⟨(State.reset.put Reg.HT_CTL_HITCH_GO 1), 0, ?_⟩
    dsimp only
    decide +kernel
  · refine ⟨({ ((State.reset.put Reg.HT_CTL_HITCH_GO 1).put (linkStat 16) 1) with ht := { State.reset.ht with tx := [(0, List.replicate 32 ⟨0, 0, 0#112⟩)] } }
     : State), 0, ?_⟩
    dsimp only
    decide +kernel
  · refine ⟨((State.reset.put Reg.HT_CTL_HITCH_GO 1).put (linkStat ((16 + (0 : Fin 4)))) 2), 0, (BitVec.ofNat _ 14), ?_⟩
    dsimp only
    decide +kernel
  · refine ⟨((State.reset.put Reg.HT_CTL_HITCH_GO 1).put (linkStat ((16 + (0 : Fin 4)))) 2), 0, 0, ?_⟩
    dsimp only
    decide +kernel

/-- `Obligations.HitchRegionsClocksAndContention`: its hypotheses can hold, clause by clause (part 1 of 2). -/
theorem wit_HitchRegionsClocksAndContention :
    (∃ (s : State), s.on Reg.HT_PR_HOLD = false) ∧
    (∃ (s : State), s.on Reg.HT_PR_HOLD = true) ∧
    (∃ (s : State), s.on Reg.HT_PR_HOLD = true) ∧
    (∃ (s : State), s.on Reg.HT_PR_HOLD = false) ∧
    (∃ (s : State), ∃ (l : Fin 1024),
     let clash := s.on Reg.HT_CTL_HITCH_GO = true ∧ 1 < (s.ht.enabled s.fabric l).length;
     ¬ clash) ∧
    (∃ (s : State), ∃ (l : Fin 1024),
     let clash := s.on Reg.HT_CTL_HITCH_GO = true ∧ 1 < (s.ht.enabled s.fabric l).length;
     clash ∧ s.on Reg.HT_CONT_VALID = true) ∧
    (∃ (s : State), ∃ (l : Fin 1024),
     let clash := s.on Reg.HT_CTL_HITCH_GO = true ∧ 1 < (s.ht.enabled s.fabric l).length;
     clash ∧ s.on Reg.HT_CONT_VALID = false) ∧
    (∃ (s : State), (s.mode = mIdle ∨ s.mode = mQuarantine)) ∧
    (∃ (s : State), s.mode ≠ mIdle ∧ s.mode ≠ mQuarantine) ∧
    (∃ (s : State), ∃ (i : Nat), ∃ (c : Taken), s.turn 3 0x0802 i c) ∧
    (∃ (s : State), ∃ (i : Nat), ∃ (c : Taken),
     let d := c.desc;
     let k := fieldOf d 8 1;
     let v := fieldOf d 10 2;
     s.turn 3 0x0803 i c ∧ k = 0 ∧ 2 ≤ v ∧ v ≤ 128) ∧
    (∃ (s : State), ∃ (i : Nat), ∃ (c : Taken),
     let d := c.desc;
     let k := fieldOf d 8 1;
     let v := fieldOf d 10 2;
     s.turn 3 0x0803 i c ∧ k = 1 ∧ v ≤ 1) ∧
    (∃ (s : State), ∃ (i : Nat), ∃ (c : Taken),
     let d := c.desc;
     let k := fieldOf d 8 1;
     let v := fieldOf d 10 2;
     s.turn 3 0x0803 i c ∧ k = 2 ∧ v ≤ 255) ∧
    (∃ (s : State), ∃ (i : Nat), ∃ (c : Taken),
     let d := c.desc;
     let k := fieldOf d 8 1;
     let v := fieldOf d 10 2;
     s.turn 3 0x0803 i c ∧ 3 ≤ k ∧ v ≤ 1) ∧
    (∃ (s : State), ∃ (i : Nat), ∃ (c : Taken),
     let d := c.desc;
     let k := fieldOf d 8 1;
     let v := fieldOf d 10 2;
     s.turn 3 0x0803 i c ∧ ((k = 0 ∧ (v < 2 ∨ 128 < v)) ∨ (k = 1 ∧ 1 < v) ∨ (k = 2 ∧ 255 < v) ∨ (3 ≤ k ∧ 1 < v))) ∧
    (∃ (a : State), ∃ (t : Nat), ∃ (x : Nat), bit x 19 = true ∧ (a.ht.treeOf t).sel ≠ bits x 10 10 ∧ look a.ht.trees t = 0) := by
  refine ⟨?_, ?_, ?_, ?_, ?_, ?_, ?_, ?_, ?_, ?_, ?_, ?_, ?_, ?_, ?_, ?_⟩
  · refine ⟨(State.reset.put Reg.HT_PR_HOLD 0), ?_⟩
    decide +kernel
  · refine ⟨(State.reset.put Reg.HT_PR_HOLD 1), ?_⟩
    decide +kernel
  · refine ⟨(State.reset.put Reg.HT_PR_HOLD 1), ?_⟩
    decide +kernel
  · refine ⟨(State.reset.put Reg.HT_PR_HOLD 0), ?_⟩
    decide +kernel
  · refine ⟨(State.reset.put Reg.HT_CTL_HITCH_GO 0), 0, ?_⟩
    dsimp only
    decide +kernel
  · refine ⟨(({ (State.reset.put Reg.HT_CTL_HITCH_GO 1) with ht := { State.reset.ht with conns := [(0x600000, [(0, none), (1, none)])] } }
     : State).put Reg.HT_CONT_VALID 1), 0, ?_⟩
    dsimp only
    decide +kernel
  · refine ⟨({ (State.reset.put Reg.HT_CTL_HITCH_GO 1) with ht := { State.reset.ht with conns := [(0x600000, [(0, none), (1, none)])] } }
     : State), 0, ?_⟩
    dsimp only
    decide +kernel
  · refine ⟨(State.reset.setMode mIdle), ?_⟩
    decide +kernel
  · refine ⟨(State.reset.setMode mRun), ?_⟩
    decide +kernel
  · refine ⟨(given sHost 3 0x0802 [] false 0), 0, (tk 0x0802 [] false 0), ?_⟩
    unfold State.turn
    decide +kernel
  · refine ⟨(given (sHost.put Reg.HT_CTL_HITCH_GO 1) 3 0x0803 [(10, 2, 128)] false 0), 0, (tk 0x0803 [(10, 2, 128)] false
     0), ?_⟩
    unfold State.turn
    dsimp only
    decide +kernel
  · refine ⟨(given (sHost.put Reg.HT_CTL_HITCH_GO 1) 3 0x0803 [(8, 1, 1)] false 0), 0, (tk 0x0803 [(8, 1, 1)] false 0), ?_⟩
    unfold State.turn
    dsimp only
    decide +kernel
  · refine ⟨(given (sHost.put Reg.HT_CTL_HITCH_GO 1) 3 0x0803 [(8, 1, 2)] false 0), 0, (tk 0x0803 [(8, 1, 2)] false 0), ?_⟩
    unfold State.turn
    dsimp only
    decide +kernel
  · refine ⟨(given (sHost.put Reg.HT_CTL_HITCH_GO 1) 3 0x0803 [(8, 1, 3)] false 0), 0, (tk 0x0803 [(8, 1, 3)] false 0), ?_⟩
    unfold State.turn
    dsimp only
    decide +kernel
  · refine ⟨(given (sHost.put Reg.HT_CTL_HITCH_GO 1) 3 0x0803 [(10, 2, 1)] false 0), 0, (tk 0x0803 [(10, 2, 1)] false 0),
     ?_⟩
    unfold State.turn
    dsimp only
    decide +kernel
  · refine ⟨State.reset, 0, 525312, ?_⟩
    decide +kernel

/-- `Obligations.HitchRegionsClocksAndContention`: its hypotheses can hold, clause by clause (part 2 of 2). -/
theorem wit_HitchRegionsClocksAndContention_2 :
    (∃ (s : State), ∃ (i : Nat), ∃ (c : Taken), s.turn 3 0x0801 i c) ∧
    (∃ (s : State), ∃ (c : Taken), s.due 3 0x0801 c ∧ c.cut = true) ∧
    (∃ (s : State), ∃ (c : Taken), s.due 3 0x0801 c ∧ c.cut = false ∧ s.mayMaster = false) ∧
    (∃ (s : State), ∃ (c : Taken), ∃ (dma : HostDma), s.due 3 0x0801 c ∧ c.cut = false ∧ s.mayMaster = true ∧ dma.status ≠
     0) ∧
    (∃ (s : State), ∃ (c : Taken), ∃ (dma : HostDma), ∃ i, s.due 3 0x0801 c ∧
     let d := c.desc;
     let r := fieldOf d 8 1;
     let n := fieldOf d 12 4;
     let rs := hRecs n ((dma.data ++ leBytes (16 * n - dma.data.length) 0).take (16 * n));
     c.cut = false ∧ s.mayMaster = true ∧ dma.status = 0 ∧ firstBad (s.ht.clearRegion r) s.nTeams r rs 0 [] rs = some i) ∧
    (∃ (s : State), ∃ (c : Taken), ∃ (dma : HostDma), s.due 3 0x0801 c ∧
     let d := c.desc;
     let r := fieldOf d 8 1;
     let n := fieldOf d 12 4;
     let rs := hRecs n ((dma.data ++ leBytes (16 * n - dma.data.length) 0).take (16 * n));
     c.cut = false ∧ s.mayMaster = true ∧ dma.status = 0 ∧ firstBad (s.ht.clearRegion r) s.nTeams r rs 0 [] rs = none) := by
  refine ⟨?_, ?_, ?_, ?_, ?_, ?_⟩
  · refine ⟨(given (sHost.put Reg.HT_CTL_HITCH_GO 1) 3 0x0801 [] false 0), 0, (tk 0x0801 [] false 0), ?_⟩
    unfold State.turn
    decide +kernel
  · refine ⟨(sHost.onBox 3 (fun b => { b with taken := [({ tk 0x0801 [] true 0 with cut := true } : Taken)] })), ({ tk 0x0801 [] true 0 with cut := true }
     : Taken), ?_⟩
    unfold State.due
    decide +kernel
  · refine ⟨(given ({ sHost with pcie.busMaster := false } : State) 3 0x0801 [] true 0), (tk 0x0801 [] true 0), ?_⟩
    unfold State.due
    decide +kernel
  · refine ⟨(given ({ sHost with pcie.busMaster := true } : State) 3 0x0801 [] true 0), (tk 0x0801 [] true 0), ({ (⟨0, []⟩ : HostDma) with status := 1 }),
     ?_⟩
    unfold State.due
    decide +kernel
  · refine ⟨(given (sHost.put Reg.HT_CTL_HITCH_GO 1) 3 0x0801 [(12, 4, 1)] true 0), (tk 0x0801 [(12, 4, 1)] true 0), ⟨0,
     []⟩, 0, ?_⟩
    unfold State.due
    dsimp only
    decide +kernel
  · refine ⟨(given ({ sHost with pcie.busMaster := true } : State) 3 0x0801 [] true 0), (tk 0x0801 [] true 0), ({ (⟨0, []⟩ : HostDma) with status := 0 }),
     ?_⟩
    unfold State.due
    dsimp only
    decide +kernel

/-! ### Witnesses: Time -/

/-- `Obligations.TimeBaseAdvances`: its hypotheses can hold, clause by clause. -/
theorem wit_TimeBaseAdvances :
    (∃ (s : State),
     let runs := s.on Reg.TB_CTL_EN = true ∧ s.on Reg.CHIP_CLK_STAT_LREF_OK = true;
     ¬ runs) ∧
    (∃ (s : State),
     let runs := s.on Reg.TB_CTL_EN = true ∧ s.on Reg.CHIP_CLK_STAT_LREF_OK = true;
     runs ∧ s.tb.set = none) ∧
    (∃ (s : State), ∃ v,
     let runs := s.on Reg.TB_CTL_EN = true ∧ s.on Reg.CHIP_CLK_STAT_LREF_OK = true;
     runs ∧ s.tb.set = some v) ∧
    (∃ (s : State), ∃ (v : Word),
     let off := s.tb.adj.getD 0;
     let legal := -999999999 ≤ v.toInt ∧ v.toInt ≤ 999999999 ∧ -999999999 ≤ off + v.toInt ∧ off + v.toInt ≤ 999999999;
     legal) ∧
    (∃ (s : State), ∃ (v : Word),
     let off := s.tb.adj.getD 0;
     let legal := -999999999 ≤ v.toInt ∧ v.toInt ≤ 999999999 ∧ -999999999 ≤ off + v.toInt ∧ off + v.toInt ≤ 999999999;
     ¬ legal) ∧
    (∃ (s : State), (s.rd Adr.TB_SET_NS).toNat < 1000000000) ∧
    (∃ (s : State), 1000000000 ≤ (s.rd Adr.TB_SET_NS).toNat) ∧
    (∃ (s : State), ∃ (m : Moment), ∃ (v : Stamp), ∃ (inc : Nat), s.tb.past[m.back]? = some (v, inc)) ∧
    (∃ (s : State), s.chip.halted = false) ∧
    (∃ (s : State), s.chip.halted = true) := by
  refine ⟨?_, ?_, ?_, ?_, ?_, ?_, ?_, ?_, ?_, ?_⟩
  · refine ⟨(State.reset.put Reg.TB_CTL_EN 0), ?_⟩
    dsimp only
    decide +kernel
  · refine ⟨({ ((State.reset.put Reg.TB_CTL_EN 1).put Reg.CHIP_CLK_STAT_LREF_OK 1) with tb.set := none } : State), ?_⟩
    dsimp only
    decide +kernel
  · refine ⟨({ ((State.reset.put Reg.TB_CTL_EN 1).put Reg.CHIP_CLK_STAT_LREF_OK 1) with tb.set := some (⟨0, 0, 0⟩ : Stamp) }
     : State), ⟨0, 0, 0⟩, ?_⟩
    dsimp only
    decide +kernel
  · refine ⟨State.reset, 0, ?_⟩
    dsimp only
    decide +kernel
  · refine ⟨State.reset, 1000000000#32, ?_⟩
    dsimp only
    decide +kernel
  · refine ⟨State.reset, ?_⟩
    decide +kernel
  · refine ⟨(State.reset.wr Adr.TB_SET_NS 1000000000#32), ?_⟩
    decide +kernel
  · refine ⟨({ State.reset with tb := { State.reset.tb with past := [(Stamp.reset, 5)] } } : State), ⟨0, 0⟩, Stamp.reset, 5,
     ?_⟩
    decide +kernel
  · refine ⟨({ State.reset with chip.halted := false } : State), ?_⟩
    decide +kernel
  · refine ⟨({ State.reset with chip.halted := true } : State), ?_⟩
    decide +kernel

/-- `Obligations.TimePortMovesFrames`: its hypotheses can hold, clause by clause. -/
theorem wit_TimePortMovesFrames :
    (∃ (s : State), s.on Reg.TP_CTL_EN = true) ∧
    (∃ (s : State), s.on Reg.TP_CTL_EN = false) ∧
    (∃ (s : State), s.tb.goOrder = []) ∧
    (∃ (s : State), ∃ (j : Nat), ∃ (rest : List Nat), s.tb.goOrder = j :: rest ∧
     let n := s.get (Reg.TP_TXD_LEN j);
     60 ≤ n ∧ n ≤ 2044 ∧ s.on Reg.TP_STAT_LINK_UP = true) ∧
    (∃ (s : State), ∃ (j : Nat), ∃ (rest : List Nat), s.tb.goOrder = j :: rest ∧
     let n := s.get (Reg.TP_TXD_LEN j);
     60 ≤ n ∧ n ≤ 2044 ∧ s.on Reg.TP_STAT_LINK_UP = false) ∧
    (∃ (s : State), ∃ (j : Nat), ∃ (rest : List Nat), s.tb.goOrder = j :: rest ∧
     let n := s.get (Reg.TP_TXD_LEN j);
     (n < 60 ∨ 2044 < n)) ∧
    (∃ (s : State), s.tb.txq.length < 16) ∧
    (∃ (s : State), 16 ≤ s.tb.txq.length) ∧
    (∃ (s : State), ∃ (blocks : List RxBlock), (pcsFrame (descrambled blocks) = none ∨ s.on Reg.TP_STAT_LINK_UP = false)) ∧
    (∃ (s : State), ∃ (blocks : List RxBlock), ∃ (mac : List Byte), pcsFrame (descrambled blocks) = some mac ∧ s.on
     Reg.TP_STAT_LINK_UP = true ∧
     let frame := mac.take (mac.length - 4);
     let good := fcsOk mac = true ∧ 60 ≤ frame.length ∧ frame.length ≤ 2044;
     ¬ good) ∧
    (∃ (s : State), ∃ (blocks : List RxBlock), ∃ (mac : List Byte), pcsFrame (descrambled blocks) = some mac ∧ s.on
     Reg.TP_STAT_LINK_UP = true ∧
     let frame := mac.take (mac.length - 4);
     let good := fcsOk mac = true ∧ 60 ≤ frame.length ∧ frame.length ≤ 2044;
     let j := s.tb.nextRx;
     good ∧ s.on (Reg.TP_RXD_W0_FULL j) = true) ∧
    (∃ (s : State), ∃ (blocks : List RxBlock), ∃ (mac : List Byte), pcsFrame (descrambled blocks) = some mac ∧ s.on
     Reg.TP_STAT_LINK_UP = true ∧
     let frame := mac.take (mac.length - 4);
     let good := fcsOk mac = true ∧ 60 ≤ frame.length ∧ frame.length ≤ 2044;
     let j := s.tb.nextRx;
     good ∧ s.on (Reg.TP_RXD_W0_FULL j) = false) := by
  refine ⟨?_, ?_, ?_, ?_, ?_, ?_, ?_, ?_, ?_, ?_, ?_, ?_⟩
  · refine ⟨(State.reset.put Reg.TP_CTL_EN 1), ?_⟩
    decide +kernel
  · refine ⟨(State.reset.put Reg.TP_CTL_EN 0), ?_⟩
    decide +kernel
  · refine ⟨({ State.reset with tb.goOrder := [] } : State), ?_⟩
    decide +kernel
  · refine ⟨((({ State.reset with tb.goOrder := (0 : Nat) :: ([] : List Nat) } : State).put (Reg.TP_TXD_LEN (0 : Nat))
     60).put Reg.TP_STAT_LINK_UP 1), 0, [], ?_⟩
    dsimp only
    decide +kernel
  · refine ⟨((({ State.reset with tb.goOrder := (0 : Nat) :: ([] : List Nat) } : State).put (Reg.TP_TXD_LEN (0 : Nat))
     60).put Reg.TP_STAT_LINK_UP 0), 0, [], ?_⟩
    dsimp only
    decide +kernel
  · refine ⟨({ State.reset with tb.goOrder := (0 : Nat) :: ([] : List Nat) } : State), 0, [], ?_⟩
    dsimp only
    decide +kernel
  · refine ⟨State.reset, ?_⟩
    decide +kernel
  · refine ⟨({ State.reset with tb := { State.reset.tb with txq := List.replicate 16 ⟨0, 0, Stamp.reset⟩ } } : State), ?_⟩
    decide +kernel
  · refine ⟨State.reset, [], ?_⟩
    decide +kernel
  · refine ⟨(State.reset.put Reg.TP_STAT_LINK_UP 1), (⟨2, 0#64⟩ :: scrambled 0 (pcsBlocks (List.replicate 7 0x55#8 ++ 0xD5#8
     :: List.replicate 64 1#8))), List.replicate 64 1#8, ?_⟩
    dsimp only
    decide +kernel
  · refine ⟨((State.reset.put Reg.TP_STAT_LINK_UP 1).put (Reg.TP_RXD_W0_FULL 0) 1), (⟨2, 0#64⟩ :: scrambled 0 (pcsBlocks
     (macFrame (List.replicate 60 0#8)))), ((macFrame (List.replicate 60 0#8)).drop 8), ?_⟩
    dsimp only
    decide +kernel
  · refine ⟨(State.reset.put Reg.TP_STAT_LINK_UP 1), (⟨2, 0#64⟩ :: scrambled 0 (pcsBlocks (macFrame (List.replicate 60
     0#8)))), ((macFrame (List.replicate 60 0#8)).drop 8), ?_⟩
    dsimp only
    decide +kernel

/-- `Obligations.TimeCommandsAnswer`: its hypotheses can hold, clause by clause (part 1 of 2). -/
theorem wit_TimeCommandsAnswer :
    (∃ (s : State), ∃ (i : Nat), ∃ (c : Taken), ∃ x,
     let d := c.desc;
     s.turn 1 0x0701 i c ∧ s.tbSetBad d = some x) ∧
    (∃ (s : State), ∃ (i : Nat), ∃ (c : Taken),
     let d := c.desc;
     s.turn 1 0x0701 i c ∧ s.tbSetBad d = none ∧ fieldOf d 8 1 = 0) ∧
    (∃ (s : State), ∃ (i : Nat), ∃ (c : Taken),
     let d := c.desc;
     s.turn 1 0x0701 i c ∧ s.tbSetBad d = none ∧ fieldOf d 8 1 = 1) ∧
    (∃ (s : State), ∃ (i : Nat), ∃ (c : Taken),
     let d := c.desc;
     s.turn 1 0x0701 i c ∧ s.tbSetBad d = none ∧ fieldOf d 8 1 = 2) ∧
    (∃ (s : State), ∃ (i : Nat), ∃ (c : Taken),
     let d := c.desc;
     s.turn 1 0x0701 i c ∧ s.tbSetBad d = none ∧ 3 ≤ fieldOf d 8 1) ∧
    (∃ (c : Taken),
     let d := c.desc;
     fieldOf d 8 1 = 0) ∧
    (∃ (c : Taken),
     let d := c.desc;
     fieldOf d 8 1 = 1) ∧
    (∃ (c : Taken),
     let d := c.desc;
     fieldOf d 8 1 = 2) ∧
    (∃ (c : Taken),
     let d := c.desc;
     fieldOf d 8 1 = 3) ∧
    (∃ (s : State), ∃ (i : Nat), ∃ (c : Taken), ∃ k, s.turn 1 0x0702 i c ∧ (List.range 8).find? (fun k => look s.tb.owner
     k == 0) = some k) ∧
    (∃ (s : State), ∃ (i : Nat), ∃ (c : Taken), s.turn 1 0x0702 i c ∧ (∀ k < 8, look s.tb.owner k ≠ 0)) ∧
    (∃ (s : State), ∃ (i : Nat), ∃ (c : Taken),
     let d := c.desc;
     s.turn 1 0x0703 i c ∧
     let k := fieldOf d 8 1;
     let waits := ∃ e ∈ (s.box 1).events, e.code = 0x12 ∧ e.result % 256 = k;
     waits) ∧
    (∃ (s : State), ∃ (i : Nat), ∃ (c : Taken),
     let d := c.desc;
     s.turn 1 0x0703 i c ∧
     let k := fieldOf d 8 1;
     let waits := ∃ e ∈ (s.box 1).events, e.code = 0x12 ∧ e.result % 256 = k;
     ¬ waits ∧ look s.tb.owner k ≠ 0) ∧
    (∃ (s : State), ∃ (i : Nat), ∃ (c : Taken),
     let d := c.desc;
     s.turn 1 0x0703 i c ∧
     let k := fieldOf d 8 1;
     let waits := ∃ e ∈ (s.box 1).events, e.code = 0x12 ∧ e.result % 256 = k;
     ¬ waits ∧ look s.tb.owner k = 0) ∧
    (∃ (s : State), ∃ (i : Nat), ∃ (c : Taken), s.turn 1 0x0705 i c ∧ s.freeTx = none) ∧
    (∃ (s : State), ∃ (i : Nat), ∃ (c : Taken), ∃ (dma : HostDma), ∃ j, ∃ r, s.turn 1 0x0705 i c ∧ s.freeTx = some j ∧
     s.dmaBad dma = some r) := by
  refine ⟨?_, ?_, ?_, ?_, ?_, ?_, ?_, ?_, ?_, ?_, ?_, ?_, ?_, ?_, ?_, ?_⟩
  · refine ⟨(given sHost 1 0x0701 [(20, 4, 1000000000)] false 0), 0, (tk 0x0701 [(20, 4, 1000000000)] false 0), 20, ?_⟩
    unfold State.turn
    dsimp only
    decide +kernel
  · refine ⟨(given sHost 1 0x0701 [(8, 1, 0)] false 0), 0, (tk 0x0701 [(8, 1, 0)] false 0), ?_⟩
    unfold State.turn
    dsimp only
    decide +kernel
  · refine ⟨(given sHost 1 0x0701 [(8, 1, 1)] false 0), 0, (tk 0x0701 [(8, 1, 1)] false 0), ?_⟩
    unfold State.turn
    dsimp only
    decide +kernel
  · refine ⟨(given sHost 1 0x0701 [(8, 1, 2)] false 0), 0, (tk 0x0701 [(8, 1, 2)] false 0), ?_⟩
    unfold State.turn
    dsimp only
    decide +kernel
  · refine ⟨(given sHost 1 0x0701 [(8, 1, 3)] false 0), 0, (tk 0x0701 [(8, 1, 3)] false 0), ?_⟩
    unfold State.turn
    dsimp only
    decide +kernel
  · refine ⟨⟨0, false, false, 0, false, false⟩, ?_⟩
    dsimp only
    decide +kernel
  · refine ⟨(tk 0x0701 [(8, 1, 1), (12, 4, 7)] false 0), ?_⟩
    dsimp only
    decide +kernel
  · refine ⟨(tk 0x0701 [(8, 1, 2)] false 0), ?_⟩
    dsimp only
    decide +kernel
  · refine ⟨(tk 0x0701 [(8, 1, 3), (12, 8, 1)] false 0), ?_⟩
    dsimp only
    decide +kernel
  · refine ⟨(given sHost 1 0x0702 [] false 0), 0, (tk 0x0702 [] false 0), 0, ?_⟩
    unfold State.turn
    decide +kernel
  · refine ⟨(given ({ sHost with tb := { State.reset.tb with owner := [(0, 1), (1, 1), (2, 1), (3, 1), (4, 1), (5, 1), (6, 1), (7, 1)] } }
     : State) 1 0x0702 [] false 0), 0, (tk 0x0702 [] false 0), ?_⟩
    unfold State.turn
    decide +kernel
  · refine ⟨(given ({ (sHost.onBox 1 (fun b => { b with events := [⟨0x12, 0, 0⟩] })) with tb := { State.reset.tb with owner := [(0, 1)] } }
     : State) 1 0x0703 [] false 0), 0, (tk 0x0703 [] false 0), ?_⟩
    unfold State.turn
    dsimp only
    decide +kernel
  · refine ⟨(given ({ sHost with tb.owner := [((fieldOf ((tk 0x0703 [] false 0) : Taken).desc 8 1), 1)] } : State) 1 0x0703
     [] false 0), 0, (tk 0x0703 [] false 0), ?_⟩
    unfold State.turn
    dsimp only
    decide +kernel
  · refine ⟨(given ({ sHost with tb.owner := [((fieldOf ((tk 0x0703 [] false 0) : Taken).desc 8 1), 0)] } : State) 1 0x0703
     [] false 0), 0, (tk 0x0703 [] false 0), ?_⟩
    unfold State.turn
    dsimp only
    decide +kernel
  · refine ⟨(given ((((((((sHost.put (Reg.TP_TXD_GO 0) 1).put (Reg.TP_TXD_GO 1) 1).put (Reg.TP_TXD_GO 2) 1).put
     (Reg.TP_TXD_GO 3) 1).put (Reg.TP_TXD_GO 4) 1).put (Reg.TP_TXD_GO 5) 1).put (Reg.TP_TXD_GO 6) 1).put (Reg.TP_TXD_GO 7)
     1) 1 0x0705 [(8, 2, 60)] false 0), 0, (tk 0x0705 [(8, 2, 60)] false 0), ?_⟩
    unfold State.turn
    decide +kernel
  · refine ⟨(given sHost 1 0x0705 [(8, 2, 60)] false 0), 0, (tk 0x0705 [(8, 2, 60)] false 0), ⟨1, []⟩, 0, (errResp 5 1 0 0),
     ?_⟩
    unfold State.turn
    decide +kernel

/-- `Obligations.TimeCommandsAnswer`: its hypotheses can hold, clause by clause (part 2 of 2). -/
theorem wit_TimeCommandsAnswer_2 :
    (∃ (s : State), ∃ (i : Nat), ∃ (c : Taken), ∃ (dma : HostDma), ∃ j, s.turn 1 0x0705 i c ∧ s.freeTx = some j ∧ s.dmaBad
     dma = none) ∧
    (∃ (s : State), ∃ (i : Nat), ∃ (c : Taken), ∃ p,
     let d := c.desc;
     let v := s.started 1 i 0 c;
     s.turn 1 0x0706 i c ∧ s.pollStarted 1 0x0706 State.tpRxPoll = none ∧ v.tpRxTake d = some p) ∧
    (∃ (s : State), ∃ (i : Nat), ∃ (c : Taken),
     let d := c.desc;
     let v := s.started 1 i 0 c;
     s.turn 1 0x0706 i c ∧ s.pollStarted 1 0x0706 State.tpRxPoll = none ∧ v.tpRxTake d = none ∧ fieldOf d 8 4 = 0) ∧
    (∃ (s : State), ∃ (i : Nat), ∃ (c : Taken),
     let d := c.desc;
     let v := s.started 1 i 0 c;
     s.turn 1 0x0706 i c ∧ s.pollStarted 1 0x0706 State.tpRxPoll = none ∧ v.tpRxTake d = none ∧ fieldOf d 8 4 ≠ 0) ∧
    (∃ (s : State), s.oldestRx = none) ∧
    (∃ (s : State), ∃ j, s.oldestRx = some j ∧ s.mayMaster = false) ∧
    (∃ (s : State), ∃ j, s.oldestRx = some j ∧ s.mayMaster = true) ∧
    (∃ (s : State), ∃ (c : Taken), s.due 1 0x0701 c) ∧
    (∃ (s : State), ∃ (c : Taken), s.due 1 0x0705 c ∧
     let busy := c.note = 0 ∨ s.on (Reg.TP_TXD_GO (c.note - 1)) = true;
     busy) ∧
    (∃ (s : State), ∃ (c : Taken),
     let d := c.desc;
     s.due 1 0x0705 c ∧
     let busy := c.note = 0 ∨ s.on (Reg.TP_TXD_GO (c.note - 1)) = true;
     ¬ busy ∧ fieldOf d 10 1 = 0) ∧
    (∃ (s : State), ∃ (c : Taken),
     let d := c.desc;
     s.due 1 0x0705 c ∧
     let busy := c.note = 0 ∨ s.on (Reg.TP_TXD_GO (c.note - 1)) = true;
     ¬ busy ∧ fieldOf d 10 1 ≠ 0 ∧ s.tb.txq.find? (fun e => e.src == 20 && e.id == fieldOf d 11 1) = none) ∧
    (∃ (s : State), ∃ (c : Taken), ∃ e,
     let d := c.desc;
     s.due 1 0x0705 c ∧
     let busy := c.note = 0 ∨ s.on (Reg.TP_TXD_GO (c.note - 1)) = true;
     ¬ busy ∧ fieldOf d 10 1 ≠ 0 ∧ s.tb.txq.find? (fun e => e.src == 20 && e.id == fieldOf d 11 1) = some e) ∧
    (∃ (s : State), ∃ (c : Taken), ∃ p,
     let d := c.desc;
     s.due 1 0x0706 c ∧ s.tpRxTake d = some p) ∧
    (∃ (s : State), ∃ (c : Taken),
     let d := c.desc;
     s.due 1 0x0706 c ∧ s.tpRxTake d = none) ∧
    (∃ (s : State), (∀ x ∈ (s.box 1).taken, x.started = false)) := by
  refine ⟨?_, ?_, ?_, ?_, ?_, ?_, ?_, ?_, ?_, ?_, ?_, ?_, ?_, ?_, ?_⟩
  · refine ⟨(given sHost 1 0x0705 [] false 0), 0, (tk 0x0705 [] false 0), ⟨0, []⟩, 0, ?_⟩
    unfold State.turn
    decide +kernel
  · refine ⟨(given (sHost.put (Reg.TP_RXD_W0_FULL 0) 1) 1 0x0706 [] false 0), 0, (tk 0x0706 [] false 0), (State.tpRxTake
     ((tk 0x0706 [] false 0)).desc (State.started (given (sHost.put (Reg.TP_RXD_W0_FULL 0) 1) 1 0x0706 [] false 0) 1 0 0
     ((tk 0x0706 [] false 0)))).get (by decide +kernel), ?_⟩
    dsimp only
    exact ⟨by unfold State.turn; decide +kernel, by decide +kernel, (Option.some_get _).symm⟩
  · refine ⟨(given sHost 1 0x0706 [(8, 4, 0)] false 0), 0, (tk 0x0706 [(8, 4, 0)] false 0), ?_⟩
    unfold State.turn
    dsimp only
    decide +kernel
  · refine ⟨(given sHost 1 0x0706 [(8, 4, 1)] false 0), 0, (tk 0x0706 [(8, 4, 1)] false 0), ?_⟩
    unfold State.turn
    dsimp only
    decide +kernel
  · refine ⟨State.reset, ?_⟩
    decide +kernel
  · refine ⟨(State.reset.put (Reg.TP_RXD_W0_FULL 0) 1), 0, ?_⟩
    decide +kernel
  · refine ⟨(given (sHost.put (Reg.TP_RXD_W0_FULL 0) 1) 1 0x0706 [] false 0), 0, ?_⟩
    decide +kernel
  · refine ⟨(given sHost 1 0x0701 [] true 0), (tk 0x0701 [] true 0), ?_⟩
    unfold State.due
    decide +kernel
  · refine ⟨(given sHost 1 0x0705 [] true 0), (tk 0x0705 [] true 0), ?_⟩
    unfold State.due
    dsimp only
    decide +kernel
  · refine ⟨(given sHost 1 0x0705 [(8, 2, 60)] true 1), (tk 0x0705 [(8, 2, 60)] true 1), ?_⟩
    unfold State.due
    dsimp only
    decide +kernel
  · refine ⟨(given sHost 1 0x0705 [(10, 1, 1), (11, 1, 5)] true 1), (tk 0x0705 [(10, 1, 1), (11, 1, 5)] true 1), ?_⟩
    unfold State.due
    dsimp only
    decide +kernel
  · refine ⟨(given ({ sHost with tb := { State.reset.tb with txq := [⟨20, 5, Stamp.reset⟩] } } : State) 1 0x0705 [(10, 1,
     1), (11, 1, 5)] true 1), (tk 0x0705 [(10, 1, 1), (11, 1, 5)] true 1), ⟨20, 5, Stamp.reset⟩, ?_⟩
    unfold State.due
    dsimp only
    decide +kernel
  · refine ⟨(given (sHost.put (Reg.TP_RXD_W0_FULL 0) 1) 1 0x0706 [] true 0), (tk 0x0706 [] true 0), (State.tpRxTake ((tk
     0x0706 [] true 0)).desc (given (sHost.put (Reg.TP_RXD_W0_FULL 0) 1) 1 0x0706 [] true 0)).get (by decide +kernel), ?_⟩
    dsimp only
    exact ⟨by unfold State.due; decide +kernel, (Option.some_get _).symm⟩
  · refine ⟨(given sHost 1 0x0706 [] true 0), (tk 0x0706 [] true 0), ?_⟩
    unfold State.due
    dsimp only
    decide +kernel
  · refine ⟨State.reset, ?_⟩
    decide +kernel

/-! ### Witnesses: The host interface -/

/-- `Obligations.RegistersAreReadAndWritten`: its hypotheses can hold, clause by clause (part 1 of 3). -/
theorem wit_RegistersAreReadAndWritten :
    (∃ (s : State), s.chip.halted = true) ∧
    (∃ (s : State), s.chip.halted = true) ∧
    (∃ (a : BitVec 24), ∃ (n : Nat), ∃ (s : State), s.chip.halted = false ∧ sizeOk false a.toNat n = false) ∧
    (∃ (a : BitVec 24), ∃ (n : Nat), ∃ (s : State), s.chip.halted = false ∧ sizeOk true a.toNat n = false) ∧
    (∃ (who : Agent), ∃ (a : BitVec 24), ∃ (n : Nat), ∃ (s : State), (who ≠ .host ∨ (s.chip.halted = false ∧ sizeOk true
     a.toNat n = true))) ∧
    (∃ (who : Agent), ∃ (a : BitVec 24), ∃ (s : State), (who ≠ .host ∨ (s.chip.halted = false ∧ a.toNat % 4 = 0))) ∧
    (∃ (who : Agent), ∃ (a : BitVec 24), ∃ (s : State), (who ≠ .host ∨ (s.chip.halted = false ∧ a.toNat % 8 = 0))) ∧
    (∃ (who : Agent), ∃ (a : Nat), ∃ (s : State), a % 4 = 0 ∧ (who ≠ .host ∨ (s.chip.halted = false ∧ inTeams a = false ∧
     (a ≠ Adr.PE_FENCE ∨ s.hostWrites = false)))) ∧
    (∃ (a : Nat), ∃ (s : State), ∃ t, a % 4 = 0 ∧ s.chip.halted = false ∧ inTeams a = true ∧ s.windowTeam a = some t) ∧
    (∃ (a : Nat), ∃ (s : State), a % 4 = 0 ∧ s.deadBlock a = true) ∧
    (∃ (a : Nat), ∃ (s : State), a % 4 = 0 ∧ s.deadBlock a = true) ∧
    (∃ (a : Nat), ∃ (s : State), a % 4 = 0 ∧ s.deadBlock a = false) ∧
    (∃ (a : Nat), ∃ (s : State), a % 4 = 0 ∧ s.deadBlock a = false) ∧
    (∃ (a : Nat), a % 4 = 0) ∧
    (∃ (a : Nat), ∃ (s : State), a % 4 = 0 ∧ s.chip.halted = false ∧ s.hostMay a = false) ∧
    (∃ (a : Nat), ∃ (s : State), a % 4 = 0 ∧ s.chip.halted = false ∧ s.hostMay a = true ∧ inTeams a = false) := by
  refine ⟨?_, ?_, ?_, ?_, ?_, ?_, ?_, ?_, ?_, ?_, ?_, ?_, ?_, ?_, ?_, ?_⟩
  · refine ⟨({ State.reset with chip.halted := true } : State), ?_⟩
    decide +kernel
  · refine ⟨({ State.reset with chip.halted := true } : State), ?_⟩
    decide +kernel
  · refine ⟨0, 0, ({ State.reset with chip.halted := false } : State), ?_⟩
    decide +kernel
  · refine ⟨0, 0, ({ State.reset with chip.halted := false } : State), ?_⟩
    decide +kernel
  · refine ⟨.jtag, 0x100#24, 0, State.reset, ?_⟩
    decide +kernel
  · refine ⟨.host, 0, State.reset, ?_⟩
    decide +kernel
  · refine ⟨.host, 0, State.reset, ?_⟩
    decide +kernel
  · refine ⟨.host, 0, State.reset, ?_⟩
    decide +kernel
  · refine ⟨0x400000, State.reset, 0, ?_⟩
    decide +kernel
  · refine ⟨0x50000, ({ State.reset with chip := { State.reset.chip with stopped := [1024] } } : State), ?_⟩
    decide +kernel
  · refine ⟨0x50000, ({ State.reset with chip := { State.reset.chip with stopped := [1024] } } : State), ?_⟩
    decide +kernel
  · refine ⟨0, State.reset, ?_⟩
    decide +kernel
  · refine ⟨0, State.reset, ?_⟩
    decide +kernel
  · refine ⟨0, ?_⟩
    decide +kernel
  · refine ⟨0, ({ sHost with chip.halted := false } : State), ?_⟩
    decide +kernel
  · refine ⟨0, ({ State.reset with chip.halted := false } : State), ?_⟩
    decide +kernel

/-- `Obligations.RegistersAreReadAndWritten`: its hypotheses can hold, clause by clause (part 2 of 3). -/
theorem wit_RegistersAreReadAndWritten_2 :
    (∃ (a : Nat), ∃ (s : State), ∃ t, a % 4 = 0 ∧ s.chip.halted = false ∧ s.hostMay a = true ∧ inTeams a = true ∧
     s.windowTeam a = some t) ∧
    (∃ (who : Agent), ∃ (a : Nat), a % 4 = 0 ∧ who ≠ .host) ∧
    (∃ (s : State), s.chip.halted = false) ∧
    (∃ (s : State), s.chip.halted = false) ∧
    (∃ (s : State), ∃ (c : Fin 16), ∃ (cs : Bool), ∃ (q : DynReq), ∃ (r : DynReq), s.dynPick c cs = some q ∧ s.ofBar2 q =
     true ∧ r ∈ s.waiting c ∧ s.ofBar2 r = true) ∧
    (∃ (s : State), s.chip.halted = true) ∧
    (∃ (s : State), s.chip.halted = true) ∧
    (∃ (s : State), s.chip.halted = false ∧ s.pcie.bar2En = false) ∧
    (∃ (s : State), s.chip.halted = false ∧ s.pcie.bar2En = true) ∧
    (∃ (s : State), s.chip.halted = true) ∧
    (∃ (s : State), s.chip.halted = true) ∧
    (∃ (a : BitVec 30), ∃ (n : Nat), ∃ (s : State), s.chip.halted = false ∧ (a.toNat % 4 ≠ 0 ∨ n % 4 ≠ 0)) ∧
    (∃ (a : BitVec 30), ∃ (n : Nat), ∃ (s : State), s.chip.halted = false ∧ (a.toNat % 4 ≠ 0 ∨ n % 4 ≠ 0)) ∧
    (∃ (a : BitVec 30), ∃ (n : Nat), ∃ (s : State), s.chip.halted = false ∧ a.toNat % 4 = 0 ∧ n % 4 = 0) ∧
    (∃ (a : BitVec 30), ∃ (n : Nat), ∃ (s : State), s.chip.halted = false ∧ a.toNat % 4 = 0 ∧ n % 4 = 0) ∧
    (∃ (a : BitVec 30), ∃ (h : Fin 4), ∃ (s : State), ∃ st,
     let t := a.toNat / 2 ^ 20;
     let o := a.toNat % 2 ^ 20;
     s.bar4Fails h t o = some st) := by
  refine ⟨?_, ?_, ?_, ?_, ?_, ?_, ?_, ?_, ?_, ?_, ?_, ?_, ?_, ?_, ?_, ?_⟩
  · refine ⟨(Adr.TEAM_DM_CTL 0), State.reset, 0, ?_⟩
    decide +kernel
  · refine ⟨.jtag, 0, ?_⟩
    decide +kernel
  · refine ⟨({ State.reset with chip.halted := false } : State), ?_⟩
    decide +kernel
  · refine ⟨({ State.reset with chip.halted := false } : State), ?_⟩
    decide +kernel
  · refine ⟨(State.reset.onChan 0 (fun m => { m with dyn := [⟨0, none, some (0, 0), 0, 32, true, [], [], false, false, false⟩] })),
     0, false, ⟨0, none, some (0, 0), 0, 32, true, [], [], false, false, false⟩, ⟨0, none, some (0, 0), 0, 32, true, [], [],
     false, false, false⟩, ?_⟩
    decide +kernel
  · refine ⟨({ State.reset with chip.halted := true } : State), ?_⟩
    decide +kernel
  · refine ⟨({ State.reset with chip.halted := true } : State), ?_⟩
    decide +kernel
  · refine ⟨({ ({ State.reset with chip.halted := false } : State) with pcie.bar2En := false } : State), ?_⟩
    decide +kernel
  · refine ⟨({ ({ State.reset with chip.halted := false } : State) with pcie.bar2En := true } : State), ?_⟩
    decide +kernel
  · refine ⟨({ State.reset with chip.halted := true } : State), ?_⟩
    decide +kernel
  · refine ⟨({ State.reset with chip.halted := true } : State), ?_⟩
    decide +kernel
  · refine ⟨0, 3, State.reset, ?_⟩
    decide +kernel
  · refine ⟨0, 3, State.reset, ?_⟩
    decide +kernel
  · refine ⟨0, 0, ({ State.reset with chip.halted := false } : State), ?_⟩
    decide +kernel
  · refine ⟨0, 0, ({ State.reset with chip.halted := false } : State), ?_⟩
    decide +kernel
  · refine ⟨0, 0, State.reset, 1, ?_⟩
    dsimp only
    decide +kernel

/-- `Obligations.RegistersAreReadAndWritten`: its hypotheses can hold, clause by clause (part 3 of 3). -/
theorem wit_RegistersAreReadAndWritten_3 :
    (∃ (a : BitVec 30), ∃ (h : Fin 4), ∃ (s : State), ∃ st,
     let t := a.toNat / 2 ^ 20;
     let o := a.toNat % 2 ^ 20;
     s.bar4Fails h t o = some st) ∧
    (∃ (a : BitVec 30), ∃ (h : Fin 4), ∃ (s : State), ∃ w,
     let t := a.toNat / 2 ^ 20;
     let o := a.toNat % 2 ^ 20;
     s.bar4Fails h t o = none ∧ s.bar4Waits o = some w) ∧
    (∃ (a : BitVec 30), ∃ (h : Fin 4), ∃ (s : State),
     let t := a.toNat / 2 ^ 20;
     let o := a.toNat % 2 ^ 20;
     s.bar4Fails h t o = none ∧ s.bar4Waits o = none) ∧
    (∃ (a : BitVec 30), ∃ (h : Fin 4), ∃ (s : State),
     let t := a.toNat / 2 ^ 20;
     let o := a.toNat % 2 ^ 20;
     s.bar4Fails h t o = none) ∧
    (∃ (a : BitVec 30), ∃ (h : Fin 4), ∃ (s : State),
     let t := a.toNat / 2 ^ 20;
     let o := a.toNat % 2 ^ 20;
     s.bar4Fails h t o = none) := by
  refine ⟨?_, ?_, ?_, ?_, ?_⟩
  · refine ⟨0, 0, State.reset, 1, ?_⟩
    dsimp only
    decide +kernel
  · refine ⟨0, 0, sRun, 0, ?_⟩
    dsimp only
    decide +kernel
  · refine ⟨0, 0, sOn, ?_⟩
    dsimp only
    decide +kernel
  · refine ⟨0, 0, sRun, ?_⟩
    dsimp only
    decide +kernel
  · refine ⟨0, 0, sRun, ?_⟩
    dsimp only
    decide +kernel

/-- `Obligations.MailboxTransportCarriesCommands`: its hypotheses can hold, clause by clause (part 1 of 3). -/
theorem wit_MailboxTransportCarriesCommands :
    (∃ (m : Fin 4), ∃ (s : State), ∃ (w : Fin 1024), s.chip.halted = false ∧ s.slotTaken m (w / 16) = true) ∧
    (∃ (m : Fin 4), ∃ (s : State), ∃ (w : Fin 1024), s.chip.halted = false ∧ s.slotTaken m (w / 16) = false) ∧
    (∃ (m : Fin 4), ∃ (s : State), s.chip.halted = false ∧ s.resetBusy m = true) ∧
    (∃ (m : Fin 4), ∃ (s : State), ∃ (v : Word),
     let d := ringDist (v.toNat % 128) (s.cmdCI m);
     let legal := d ≤ 64 ∧ ringDist (s.cmdPI m) (s.cmdCI m) ≤ d;
     s.chip.halted = false ∧ s.resetBusy m = false ∧ legal) ∧
    (∃ (m : Fin 4), ∃ (s : State), ∃ (v : Word),
     let d := ringDist (v.toNat % 128) (s.cmdCI m);
     let legal := d ≤ 64 ∧ ringDist (s.cmdPI m) (s.cmdCI m) ≤ d;
     s.chip.halted = false ∧ s.resetBusy m = false ∧ ¬ legal) ∧
    (∃ (m : Fin 4), ∃ (s : State), ∃ (v : Word),
     let legal := ringDist (v.toNat % 128) (s.rspCI m) ≤ ringDist (s.rspPI m) (s.rspCI m);
     s.chip.halted = false ∧ legal) ∧
    (∃ (m : Fin 4), ∃ (s : State), ∃ (v : Word),
     let legal := ringDist (v.toNat % 128) (s.rspCI m) ≤ ringDist (s.rspPI m) (s.rspCI m);
     s.chip.halted = false ∧ ¬ legal) ∧
    (∃ (s : State), s.chip.halted = true) ∧
    (∃ (s : State), s.chip.halted = true) ∧
    (∃ (s : State), s.chip.halted = true) ∧
    (∃ (m : Fin 4), ∃ (s : State),
     let b := s.box m;
     let ready := s.cmdPI m ≠ s.cmdCI m ∧ s.on (Reg.MBX_STAT_READY m) = true ∧ s.resetBusy m = false ∧ b.restarting = false ∧ s.freeSlots m ≠ 0 ∧ s.chip.halted = false;
     ¬ ready) ∧
    (∃ (m : Fin 4), ∃ (s : State),
     let b := s.box m;
     let ready := s.cmdPI m ≠ s.cmdCI m ∧ s.on (Reg.MBX_STAT_READY m) = true ∧ s.resetBusy m = false ∧ b.restarting = false ∧ s.freeSlots m ≠ 0 ∧ s.chip.halted = false;
     let d := look b.cmd (s.cmdCI m % 64);
     ready ∧ s.descBad m d = none) ∧
    (∃ (m : Fin 4), ∃ (s : State), ∃ r,
     let b := s.box m;
     let ready := s.cmdPI m ≠ s.cmdCI m ∧ s.on (Reg.MBX_STAT_READY m) = true ∧ s.resetBusy m = false ∧ b.restarting = false ∧ s.freeSlots m ≠ 0 ∧ s.chip.halted = false;
     let d := look b.cmd (s.cmdCI m % 64);
     ready ∧ s.descBad m d = some r) ∧
    (∃ (c : Taken), c.mute = true) ∧
    (∃ (c : Taken), c.mute = false) ∧
    (∃ (m : Fin 4), ∃ (s : State),
     let b := s.box m;
     let held := s.freeSlots m = 0 ∨ s.resetBusy m = true ∨ b.restarting = true ∨ s.chip.halted = true;
     (b.events = [] ∨ held)) := by
  refine ⟨?_, ?_, ?_, ?_, ?_, ?_, ?_, ?_, ?_, ?_, ?_, ?_, ?_, ?_, ?_, ?_⟩
  · refine ⟨0, (State.reset.put (Reg.MBX_DB_CMD_PI 0) 1), 0, ?_⟩
    decide +kernel
  · refine ⟨0, ({ State.reset with chip.halted := false } : State), 0, ?_⟩
    decide +kernel
  · refine ⟨0, (({ State.reset with chip.halted := false } : State).put (Reg.MBX_STAT_RESET_BUSY (0 : Fin 4)) 1), ?_⟩
    decide +kernel
  · refine ⟨0, (({ State.reset with chip.halted := false } : State).put (Reg.MBX_STAT_RESET_BUSY (0 : Fin 4)) 0), 0, ?_⟩
    dsimp only
    decide +kernel
  · refine ⟨0, (State.reset.put (Reg.MBX_DB_CMD_PI 0) 1), 0, ?_⟩
    dsimp only
    decide +kernel
  · refine ⟨0, ({ State.reset with chip.halted := false } : State), 0, ?_⟩
    dsimp only
    decide +kernel
  · refine ⟨0, State.reset, 64#32, ?_⟩
    dsimp only
    decide +kernel
  · refine ⟨({ State.reset with chip.halted := true } : State), ?_⟩
    decide +kernel
  · refine ⟨({ State.reset with chip.halted := true } : State), ?_⟩
    decide +kernel
  · refine ⟨({ State.reset with chip.halted := true } : State), ?_⟩
    decide +kernel
  · refine ⟨0, State.reset, ?_⟩
    dsimp only
    decide +kernel
  · refine ⟨0, (((State.reset.put (Reg.MBX_DB_CMD_PI 0) 1).put (Reg.MBX_STAT_READY 0) 1).onBox 0 (fun b => { b with cmd := [(0, 0x101#512)] })),
     ?_⟩
    dsimp only
    decide +kernel
  · refine ⟨0, ((State.reset.put (Reg.MBX_DB_CMD_PI 0) 1).put (Reg.MBX_STAT_READY 0) 1), badDesc 4 0, ?_⟩
    dsimp only
    decide +kernel
  · refine ⟨⟨0, true, true, 0, false, false⟩, ?_⟩
    decide +kernel
  · refine ⟨⟨0, false, false, 0, false, false⟩, ?_⟩
    decide +kernel
  · refine ⟨0, (State.reset.onBox (0 : Fin 4) (fun m => { m with events := [] })), ?_⟩
    dsimp only
    decide +kernel

/-- `Obligations.MailboxTransportCarriesCommands`: its hypotheses can hold, clause by clause (part 2 of 3). -/
theorem wit_MailboxTransportCarriesCommands_2 :
    (∃ (m : Fin 4), ∃ (s : State), ∃ e, ∃ rest,
     let b := s.box m;
     let held := s.freeSlots m = 0 ∨ s.resetBusy m = true ∨ b.restarting = true ∨ s.chip.halted = true;
     b.events = e :: rest ∧ ¬ held) ∧
    (∃ (m : Fin 4), ∃ (s : State), ∃ (i : Nat),
     let b := s.box m;
     (s.chip.halted = true ∨ b.restarting = true ∨ b.taken[i]? = none)) ∧
    (∃ (m : Fin 4), ∃ (s : State), ∃ (i : Nat), ∃ c,
     let b := s.box m;
     s.chip.halted = false ∧ b.restarting = false ∧ b.taken[i]? = some c ∧ c.started = false) ∧
    (∃ (m : Fin 4), ∃ (s : State), ∃ (i : Nat), ∃ c, ∃ p,
     let b := s.box m;
     s.chip.halted = false ∧ b.restarting = false ∧ b.taken[i]? = some c ∧
     let op := fieldOf c.desc 0 2;
     c.started = true ∧ s.lateRun i op = some p) ∧
    (∃ (m : Fin 4), ∃ (s : State), ∃ (i : Nat), ∃ c, ∃ p,
     let b := s.box m;
     s.chip.halted = false ∧ b.restarting = false ∧ b.taken[i]? = some c ∧
     let op := fieldOf c.desc 0 2;
     c.started = true ∧ s.lateRun i op = none ∧ s.latePoll c = some p) ∧
    (∃ (m : Fin 4), ∃ (s : State), ∃ (i : Nat), ∃ c,
     let b := s.box m;
     s.chip.halted = false ∧ b.restarting = false ∧ b.taken[i]? = some c ∧
     let op := fieldOf c.desc 0 2;
     c.started = true ∧ s.lateRun i op = none ∧ s.latePoll c = none) ∧
    (∃ (s : State), s.chip.halted = false) ∧
    (∃ (m : Fin 4), ∃ (s : State),
     let b := s.box m;
     s.resetBusy m = true ∧ b.restarting = false) ∧
    (∃ (m : Fin 4), ∃ (s : State),
     let b := s.box m;
     (s.resetBusy m = false ∨ b.restarting = true)) ∧
    (∃ (m : Fin 4), ∃ (s : State), ∃ op, s.startable m op = none) ∧
    (∃ (m : Fin 4), ∃ (s : State), ∃ op, ∃ (i : Nat), ∃ c, ∃ r, s.startable m op = some (i, c) ∧ s.pre op c.desc = some r) ∧
    (∃ (m : Fin 4), ∃ (s : State), ∃ op, ∃ (i : Nat), ∃ c, s.startable m op = some (i, c) ∧ s.pre op c.desc = none) ∧
    (∃ (m : Fin 4), ∃ (s : State), ∃ op, s.startable m op = none) ∧
    (∃ (m : Fin 4), ∃ (s : State), ∃ op, ∃ (i : Nat), ∃ c, ∃ r, s.startable m op = some (i, c) ∧ s.pre op c.desc = some r) ∧
    (∃ (m : Fin 4), ∃ (s : State), ∃ (start : BitVec 512 → State → State × Nat × Option Resp), ∃ op, ∃ (i : Nat), ∃ c, ∃
     r, s.startable m op = some (i, c) ∧
     let x := start c.desc (s.started m i 0 c);
     s.pre op c.desc = none ∧ x.2.2 = some r) ∧
    (∃ (m : Fin 4), ∃ (s : State), ∃ (start : BitVec 512 → State → State × Nat × Option Resp), ∃ op, ∃ (i : Nat), ∃ c,
     s.startable m op = some (i, c) ∧
     let x := start c.desc (s.started m i 0 c);
     s.pre op c.desc = none ∧ x.2.2 = none) := by
  refine ⟨?_, ?_, ?_, ?_, ?_, ?_, ?_, ?_, ?_, ?_, ?_, ?_, ?_, ?_, ?_, ?_⟩
  · refine ⟨0, ({ (((State.reset.onBox (0 : Fin 4) (fun m => { m with events := (⟨0, 0, 0⟩ : Event) :: ([] : List Event) })).put (Reg.MBX_STAT_RESET_BUSY (0 : Fin 4)) 0).onBox (0 : Fin 4) (fun m => { m with restarting := false })) with chip.halted := false }
     : State), ⟨0, 0, 0⟩, [], ?_⟩
    dsimp only
    decide +kernel
  · refine ⟨0, ({ State.reset with chip.halted := true } : State), 0, ?_⟩
    dsimp only
    decide +kernel
  · refine ⟨0, ((({ State.reset with chip.halted := false } : State).onBox (0 : Fin 4) (fun m => { m with restarting := false })).onBox
     (0 : Fin 4) (fun m => { m with taken := [(⟨0, false, false, 0, false, false⟩ : Taken)] })), 0, ⟨0, false, false, 0,
     false, false⟩, ?_⟩
    dsimp only
    decide +kernel
  · refine ⟨3, (given ({ (sImage.setMode mLoad) with chip := { State.reset.chip with image := some noImage, n0 := some 6 } }
     : State) 3 0x0301 [(8, 1, 3), (16, 8, 6)] true 0), 0, (tk 0x0301 [(8, 1, 3), (16, 8, 6)] true 0), (State.lateRun (given
     ({ (sImage.setMode mLoad) with chip := { State.reset.chip with image := some noImage, n0 := some 6 } } : State) 3
     0x0301 [(8, 1, 3), (16, 8, 6)] true 0) 0 (fieldOf ((tk 0x0301 [(8, 1, 3), (16, 8, 6)] true 0)).desc 0 2)).get (by
     decide +kernel), ?_⟩
    dsimp only
    exact ⟨by decide +kernel, by decide +kernel, by decide +kernel, by decide +kernel, (Option.some_get _).symm⟩
  · refine ⟨0, (given sHost 0 0x0906 [] true 0), 0, (tk 0x0906 [] true 0), (State.latePoll (given sHost 0 0x0906 [] true 0)
     ((tk 0x0906 [] true 0))).get (by decide +kernel), ?_⟩
    dsimp only
    exact ⟨by decide +kernel, by decide +kernel, by decide +kernel, by decide +kernel, by decide +kernel, (Option.some_get
     _).symm⟩
  · refine ⟨0, (given State.reset 0 0x0101 [] true 0), 0, (tk 0x0101 [] true 0), ?_⟩
    dsimp only
    decide +kernel
  · refine ⟨({ State.reset with chip.halted := false } : State), ?_⟩
    decide +kernel
  · refine ⟨0, ((State.reset.put (Reg.MBX_STAT_RESET_BUSY (0 : Fin 4)) 1).onBox (0 : Fin 4) (fun m => { m with restarting := false })),
     ?_⟩
    dsimp only
    decide +kernel
  · refine ⟨0, (State.reset.put (Reg.MBX_STAT_RESET_BUSY (0 : Fin 4)) 0), ?_⟩
    dsimp only
    decide +kernel
  · refine ⟨0, State.reset, 0, ?_⟩
    decide +kernel
  · refine ⟨0, (given State.reset 0 0x0501 [] false 0), 0x0501, 0, (tk 0x0501 [] false 0), (errResp 0x11 0 0 0), ?_⟩
    decide +kernel
  · refine ⟨0, (given State.reset 0 0x0101 [] false 0), 0x0101, 0, (tk 0x0101 [] false 0), ?_⟩
    decide +kernel
  · refine ⟨0, State.reset, 0, ?_⟩
    decide +kernel
  · refine ⟨0, (given State.reset 0 0x0501 [] false 0), 0x0501, 0, (tk 0x0501 [] false 0), (errResp 0x11 0 0 0), ?_⟩
    decide +kernel
  · refine ⟨0, (given State.reset 0 0x0101 [] false 0), (fun _ s => (s, 0, some okResp)), 0x0101, 0, (tk 0x0101 [] false 0),
     okResp, ?_⟩
    dsimp only
    decide +kernel
  · refine ⟨0, (given State.reset 0 0x0101 [] false 0), (fun _ s => (s, 0, none)), 0x0101, 0, (tk 0x0101 [] false 0), ?_⟩
    dsimp only
    decide +kernel

/-- `Obligations.MailboxTransportCarriesCommands`: its hypotheses can hold, clause by clause (part 3 of 3). -/
theorem wit_MailboxTransportCarriesCommands_3 :
    (∃ (m : Fin 4), ∃ (s : State), ∃ (poll : Taken → State → Option (State × Resp)), ∃ op, ∃ (i : Nat), ∃ c, ∃ p,
     let b := s.box m;
     b.taken[i]? = some c ∧ c.started = true ∧ fieldOf c.desc 0 2 = op ∧ poll c s = some p ∧ (∀ j x, j < i → b.taken[j]? =
      some x → x.started = false ∨ fieldOf x.desc 0 2 ≠ op ∨ poll x s = none)) ∧
    (∃ (m : Fin 4), ∃ (s : State), ∃ (poll : Taken → State → Option (State × Resp)), ∃ op,
     let b := s.box m;
     (∀ x ∈ b.taken, x.started = false ∨ fieldOf x.desc 0 2 ≠ op ∨ poll x s = none)) := by
  refine ⟨?_, ?_⟩
  · refine ⟨0, (given State.reset 0 0x0101 [] true 0), fun _ s => some (s, okResp), 0x0101, 0, (tk 0x0101 [] true 0),
     ((given State.reset 0 0x0101 [] true 0), okResp), ?_⟩
    dsimp only
    exact ⟨by decide +kernel, by decide +kernel, by decide +kernel, rfl, fun j x h => absurd h (Nat.not_lt_zero _)⟩
  · refine ⟨0, State.reset, fun _ _ => none, 0, ?_⟩
    dsimp only
    intro x hx
    exact Or.inr (Or.inr rfl)

/-- `Obligations.EndpointInterruptsAndResets`: its hypotheses can hold, clause by clause. -/
theorem wit_EndpointInterruptsAndResets :
    (∃ (s : State), s.chip.halted = true) ∧
    (∃ (s : State), s.chip.halted = true) ∧
    (∃ (s : State), s.chip.halted = false) ∧
    (∃ (s : State), s.pcie.retry = true) ∧
    (∃ (s : State), s.pcie.retry = false) ∧
    (∃ (r : CfgReg), r ≠ .command ∧ r ≠ .msixControl ∧ r ≠ .pmControl) ∧
    (∃ (s : State), ∃ (v : Fin 64), s.pcie.pba.getLsbD v = false) ∧
    (∃ (s : State), ∃ (v : Fin 64), s.pcie.pba.getLsbD v = true ∧ s.pcie.fnMask = false ∧ s.pcie.msixEnable = true ∧
     s.mayMaster = true ∧ s.chip.halted = false) ∧
    (∃ (s : State), s.chip.halted = false ∧ (s.pcie.fnMask = true ∨ s.pcie.msixEnable = false ∨ s.mayMaster = false)) ∧
    (∃ down, down = true) := by
  refine ⟨?_, ?_, ?_, ?_, ?_, ?_, ?_, ?_, ?_, ?_⟩
  · refine ⟨({ State.reset with chip.halted := true } : State), ?_⟩
    decide +kernel
  · refine ⟨({ State.reset with chip.halted := true } : State), ?_⟩
    decide +kernel
  · refine ⟨({ State.reset with chip.halted := false } : State), ?_⟩
    decide +kernel
  · refine ⟨({ State.reset with pcie.retry := true } : State), ?_⟩
    decide +kernel
  · refine ⟨({ State.reset with pcie.retry := false } : State), ?_⟩
    decide +kernel
  · refine ⟨.aerMask, ?_⟩
    decide +kernel
  · refine ⟨State.reset, 0, ?_⟩
    decide +kernel
  · refine ⟨({ State.reset with pcie := { State.reset.pcie with pba := 1#64 <<< 63, msixEnable := true, busMaster := true } }
     : State), 63, ?_⟩
    decide +kernel
  · refine ⟨({ ({ State.reset with chip.halted := false } : State) with pcie.fnMask := true } : State), ?_⟩
    decide +kernel
  · refine ⟨true, ?_⟩
    decide +kernel

/-! ### Witnesses: Run and link commands -/

/-- `Obligations.RunCommandsAct`: its hypotheses can hold, clause by clause (part 1 of 2). -/
theorem wit_RunCommandsAct :
    (∃ (s : State), ∃ (i : Nat), ∃ (c : Taken),
     let d := c.desc;
     s.turn 3 0x0301 i c ∧ s.on Reg.CHIP_MODE_SVC_CHG = false ∧ s.n0Bad (fieldOf d 16 8) = true) ∧
    (∃ (s : State), ∃ (i : Nat), ∃ (c : Taken), ∃ n,
     let d := c.desc;
     s.turn 3 0x0301 i c ∧ s.on Reg.CHIP_MODE_SVC_CHG = false ∧ s.n0Bad (fieldOf d 16 8) = false ∧ fieldOf d 8 1 ≠ mCheck
      ∧ fieldOf d 9 1 = 0 ∧ s.get Reg.CHIP_MODE_SVC = levelOf (fieldOf d 8 1) ∧ (fieldOf d 8 1 ≠ mWalk ∨ s.fastLinks = [])
      ∧ s.badLink = some n) ∧
    (∃ (s : State), ∃ (i : Nat), ∃ (c : Taken),
     let d := c.desc;
     s.turn 3 0x0301 i c ∧ s.on Reg.CHIP_MODE_SVC_CHG = false ∧ s.n0Bad (fieldOf d 16 8) = false ∧ fieldOf d 8 1 ≠ mCheck
      ∧ fieldOf d 9 1 = 0 ∧ s.get Reg.CHIP_MODE_SVC = levelOf (fieldOf d 8 1) ∧ (fieldOf d 8 1 ≠ mWalk ∨ s.fastLinks = [])
      ∧ s.badLink = none) ∧
    (∃ (s : State), (s.longDesc 0x0301 = none ∨ s.chip.n0 = none)) ∧
    (∃ (s : State), ∃ (e : BitVec 512), ∃ (n0 : Nat), s.longDesc 0x0301 = some e ∧ s.chip.n0 = some n0 ∧
     let ready := ∀ n ∈ s.usedLinks, s.isUp n = true ∧ s.on (Reg.LD_LINK_STAT_ALIGNED n) = true;
     ¬ ready) ∧
    (∃ (s : State), ∃ (e : BitVec 512), ∃ (n0 : Nat), s.longDesc 0x0301 = some e ∧ s.chip.n0 = some n0 ∧
     let ready := ∀ n ∈ s.usedLinks, s.isUp n = true ∧ s.on (Reg.LD_LINK_STAT_ALIGNED n) = true;
     ready ∧ s.mode = mLoad) ∧
    (∃ (s : State), ∃ (e : BitVec 512), ∃ (n0 : Nat), s.longDesc 0x0301 = some e ∧ s.chip.n0 = some n0 ∧
     let ready := ∀ n ∈ s.usedLinks, s.isUp n = true ∧ s.on (Reg.LD_LINK_STAT_ALIGNED n) = true;
     ready ∧ s.mode = mSnapshot) ∧
    (∃ (s : State), ∃ (e : BitVec 512), ∃ (n0 : Nat), s.longDesc 0x0301 = some e ∧ s.chip.n0 = some n0 ∧
     let ready := ∀ n ∈ s.usedLinks, s.isUp n = true ∧ s.on (Reg.LD_LINK_STAT_ALIGNED n) = true;
     ready ∧ s.mode ≠ mLoad ∧ s.mode ≠ mSnapshot) ∧
    (∃ (s : State), ∃ (i : Nat), ∃ (c : Taken), s.turn 3 0x0302 i c) ∧
    (∃ (s : State), ∃ (i : Nat), ∃ (c : Taken), s.turn 3 0x0303 i c) ∧
    (∃ (s : State), ∃ (i : Nat), ∃ (c : Taken), s.turn 3 0x0304 i c) ∧
    (∃ (s : State), ∃ (i : Nat), ∃ (c : Taken), s.turn 3 0x0305 i c) ∧
    (∃ (s : State), ∃ (i : Nat), ∃ (c : Taken), s.turn 3 0x0306 i c) ∧
    (∃ (s : State), ∃ (i : Nat), ∃ (c : Taken), s.turn 3 0x0307 i c) ∧
    (∃ (s : State), ∃ (i : Nat), ∃ (c : Taken),
     let d := c.desc;
     s.turn 3 0x0308 i c ∧ (s.on Reg.DS_CTL_HORIZON_EN = false ∨ s.pair Adr.DS_HORIZON_LO Adr.DS_HORIZON_HI ≤ fieldOf d 8
      8)) ∧
    (∃ (s : State), ∃ (i : Nat), ∃ (c : Taken),
     let d := c.desc;
     s.turn 3 0x0308 i c ∧ s.on Reg.DS_CTL_HORIZON_EN = true ∧ fieldOf d 8 8 < s.pair Adr.DS_HORIZON_LO Adr.DS_HORIZON_HI) := by
  refine ⟨?_, ?_, ?_, ?_, ?_, ?_, ?_, ?_, ?_, ?_, ?_, ?_, ?_, ?_, ?_, ?_⟩
  · refine ⟨(given (sImage.setMode mLoad) 3 0x0301 [(8, 1, 3)] false 0), 0, (tk 0x0301 [(8, 1, 3)] false 0), ?_⟩
    unfold State.turn
    dsimp only
    decide +kernel
  · refine ⟨(given ({ (sImage.setMode mLoad) with chip := { State.reset.chip with image := some { noImage with links := [3] } } }
     : State) 3 0x0301 [(8, 1, 3), (16, 8, 6)] false 0), 0, (tk 0x0301 [(8, 1, 3), (16, 8, 6)] false 0), 3, ?_⟩
    unfold State.turn
    dsimp only
    decide +kernel
  · refine ⟨(given (sImage.setMode mLoad) 3 0x0301 [(8, 1, 3), (16, 8, 6)] false 0), 0, (tk 0x0301 [(8, 1, 3), (16, 8, 6)]
     false 0), ?_⟩
    unfold State.turn
    dsimp only
    decide +kernel
  · refine ⟨State.reset, ?_⟩
    decide +kernel
  · refine ⟨(given ({ (sImage.setMode mLoad) with chip := { State.reset.chip with image := some { noImage with links := [3] }, n0 := some 6 } }
     : State) 3 0x0301 [(8, 1, 3), (16, 8, 6)] true 0), ((tk 0x0301 [(8, 1, 3), (16, 8, 6)] true 0)).desc, 6, ?_⟩
    dsimp only
    decide +kernel
  · refine ⟨(given ({ (sImage.setMode mLoad) with chip := { State.reset.chip with image := some noImage, n0 := some 6 } } :
     State) 3 0x0301 [(8, 1, 3), (16, 8, 6)] true 0), (tk 0x0301 [(8, 1, 3), (16, 8, 6)] true 0).desc, 6, ?_⟩
    dsimp only
    decide +kernel
  · refine ⟨(given ({ (sImage.setMode mSnapshot) with chip := { State.reset.chip with image := some noImage, n0 := some 6 } }
     : State) 3 0x0301 [(8, 1, 3), (16, 8, 6)] true 0), ((tk 0x0301 [(8, 1, 3), (16, 8, 6)] true 0)).desc, 6, ?_⟩
    dsimp only
    decide +kernel
  · refine ⟨(given ({ ((sImage.setMode mStep).put Reg.CHIP_MODE_AT_REST 1) with chip := { State.reset.chip with image := some noImage, n0 := some 6 } }
     : State) 3 0x0301 [(8, 1, 3), (16, 8, 6)] true 0), (tk 0x0301 [(8, 1, 3), (16, 8, 6)] true 0).desc, 6, ?_⟩
    dsimp only
    decide +kernel
  · refine ⟨(given (sImage.setMode mRun) 3 0x0302 [] false 0), 0, (tk 0x0302 [] false 0), ?_⟩
    unfold State.turn
    decide +kernel
  · refine ⟨(given (sImage.setMode mRun) 3 0x0303 [] false 0), 0, (tk 0x0303 [] false 0), ?_⟩
    unfold State.turn
    decide +kernel
  · refine ⟨(given ((sImage.setMode mStep).put Reg.CHIP_MODE_AT_REST 1) 3 0x0304 [(8, 2, 5)] false 0), 0, (tk 0x0304 [(8, 2,
     5)] false 0), ?_⟩
    unfold State.turn
    decide +kernel
  · refine ⟨(given ((sImage.setMode mStep).put Reg.CHIP_MODE_AT_REST 1) 3 0x0305 [(8, 1, 1)] false 0), 0, (tk 0x0305 [(8, 1,
     1)] false 0), ?_⟩
    unfold State.turn
    decide +kernel
  · refine ⟨(given (({ sImage with chip := { State.reset.chip with haltBkp := true } } : State).setMode mStep) 3 0x0306 []
     false 0), 0, (tk 0x0306 [] false 0), ?_⟩
    unfold State.turn
    decide +kernel
  · refine ⟨(given (sImage.setMode mRun) 3 0x0307 [(8, 8, 1)] false 0), 0, (tk 0x0307 [(8, 8, 1)] false 0), ?_⟩
    unfold State.turn
    decide +kernel
  · refine ⟨(given (sImage.setMode mRun) 3 0x0308 [(8, 8, 1)] false 0), 0, (tk 0x0308 [(8, 8, 1)] false 0), ?_⟩
    unfold State.turn
    dsimp only
    decide +kernel
  · refine ⟨(given (((sImage.setMode mRun).put Reg.DS_CTL_HORIZON_EN 1).wr Adr.DS_HORIZON_LO 9#32) 3 0x0308 [(8, 8, 1)]
     false 0), 0, (tk 0x0308 [(8, 8, 1)] false 0), ?_⟩
    unfold State.turn
    dsimp only
    decide +kernel

/-- `Obligations.RunCommandsAct`: its hypotheses can hold, clause by clause (part 2 of 2). -/
theorem wit_RunCommandsAct_2 :
    (∃ (s : State), ∃ (i : Nat), ∃ (c : Taken), s.turn 3 0x0309 i c) ∧
    (∃ (s : State), ∃ (c : Taken), ∃ (k : Nat),
     let d := c.desc;
     let x := tokenOf d k;
     s.tokenBad x = none) ∧
    (∃ (s : State), ∃ (c : Taken), ∃ (k : Nat),
     let d := c.desc;
     let x := tokenOf d k;
     s.tokenBad x = some .bad) ∧
    (∃ (s : State), ∃ (c : Taken), ∃ (k : Nat),
     let d := c.desc;
     let x := tokenOf d k;
     s.tokenBad x = some .dup) ∧
    (∃ (s : State), ∃ (c : Taken), ∃ (k : Nat),
     let d := c.desc;
     let x := tokenOf d k;
     s.tokenBad x = some .late) ∧
    (∃ (s : State), ∃ (c : Taken), ∃ (k : Nat),
     let d := c.desc;
     let x := tokenOf d k;
     s.tokenBad x = some .full) ∧
    (∃ (s : State), ∃ (c : Taken),
     let d := c.desc;
     let n0 := fieldOf d 16 8;
     s.n0Bad n0 = true) ∧
    (∃ (s : State), ∃ (c : Taken),
     let d := c.desc;
     let mode := fieldOf d 8 1;
     let n0 := fieldOf d 16 8;
     let masked := mode ≠ mCheck ∨ ∃ g, s.chip.image = some g ∧ g.hasMask = true;
     s.n0Bad n0 = false ∧ ¬ masked) ∧
    (∃ (s : State), ∃ (c : Taken),
     let d := c.desc;
     let mode := fieldOf d 8 1;
     let n0 := fieldOf d 16 8;
     let x := if fieldOf d 9 1 = 0 then s else s.put Reg.LD_HOLD_CTL_HOLD_LEAD (fieldOf d 9 1);
     let masked := mode ≠ mCheck ∨ ∃ g, s.chip.image = some g ∧ g.hasMask = true;
     let same := x.get Reg.CHIP_MODE_SVC = levelOf mode;
     s.n0Bad n0 = false ∧ masked ∧ ¬ same) ∧
    (∃ (s : State), ∃ (c : Taken),
     let d := c.desc;
     let mode := fieldOf d 8 1;
     let n0 := fieldOf d 16 8;
     let x := if fieldOf d 9 1 = 0 then s else s.put Reg.LD_HOLD_CTL_HOLD_LEAD (fieldOf d 9 1);
     let masked := mode ≠ mCheck ∨ ∃ g, s.chip.image = some g ∧ g.hasMask = true;
     let same := x.get Reg.CHIP_MODE_SVC = levelOf mode;
     let slow := mode = mWalk ∧ x.fastLinks ≠ [];
     s.n0Bad n0 = false ∧ masked ∧ same ∧ slow) ∧
    (∃ (s : State), ∃ (c : Taken), ∃ n,
     let d := c.desc;
     let mode := fieldOf d 8 1;
     let n0 := fieldOf d 16 8;
     let x := if fieldOf d 9 1 = 0 then s else s.put Reg.LD_HOLD_CTL_HOLD_LEAD (fieldOf d 9 1);
     let masked := mode ≠ mCheck ∨ ∃ g, s.chip.image = some g ∧ g.hasMask = true;
     let same := x.get Reg.CHIP_MODE_SVC = levelOf mode;
     let slow := mode = mWalk ∧ x.fastLinks ≠ [];
     s.n0Bad n0 = false ∧ masked ∧ same ∧ ¬ slow ∧ x.badLink = some n) ∧
    (∃ (s : State), ∃ (c : Taken),
     let d := c.desc;
     let mode := fieldOf d 8 1;
     let n0 := fieldOf d 16 8;
     let x := if fieldOf d 9 1 = 0 then s else s.put Reg.LD_HOLD_CTL_HOLD_LEAD (fieldOf d 9 1);
     let masked := mode ≠ mCheck ∨ ∃ g, s.chip.image = some g ∧ g.hasMask = true;
     let same := x.get Reg.CHIP_MODE_SVC = levelOf mode;
     let slow := mode = mWalk ∧ x.fastLinks ≠ [];
     s.n0Bad n0 = false ∧ masked ∧ same ∧ ¬ slow ∧ x.badLink = none) ∧
    (∃ (s : State), ∃ e, s.longDesc 0x0301 = some e ∧ s.on Reg.CHIP_MODE_SVC_CHG = true ∧ s.badLink = none ∧ (∀ k < 16,
     s.chanState k ≠ gTrain)) ∧
    (∃ (s : State), (s.longDesc 0x0301 = none ∨ s.on Reg.CHIP_MODE_SVC_CHG = false ∨ s.badLink ≠ none ∨ (∃ k < 16,
     s.chanState k = gTrain))) := by
  refine ⟨?_, ?_, ?_, ?_, ?_, ?_, ?_, ?_, ?_, ?_, ?_, ?_, ?_, ?_⟩
  · refine ⟨(given ((sImage.setMode mLoad).put (Reg.DS_TT_CFG_OPND_MASK 0) 1) 3 0x0309 [(8, 1, 1), (20, 8, 6)] false 0), 0,
     (tk 0x0309 [(8, 1, 1), (20, 8, 6)] false 0), ?_⟩
    unfold State.turn
    decide +kernel
  · refine ⟨(given ((sImage.setMode mLoad).put (Reg.DS_TT_CFG_OPND_MASK 0) 1) 3 0x0309 [(8, 1, 1), (20, 8, 6)] false 0), (tk
     0x0309 [(8, 1, 1), (20, 8, 6)] false 0), 0, ?_⟩
    dsimp only
    decide +kernel
  · refine ⟨State.reset, ⟨0, false, false, 0, false, false⟩, 0, ?_⟩
    dsimp only
    decide +kernel
  · refine ⟨(given (({ (sImage.setMode mLoad) with ds := { State.reset.ds with store := [(0, some ⟨0, 0, 1#24, false, 6⟩)] } }
     : State).put (Reg.DS_TT_CFG_OPND_MASK 0) 1) 3 0x0309 [(8, 1, 1), (20, 8, 6)] false 0), (tk 0x0309 [(8, 1, 1), (20, 8,
     6)] false 0), 0, ?_⟩
    dsimp only
    decide +kernel
  · refine ⟨({ (State.reset.put (Reg.DS_TT_CFG_OPND_MASK 0) 1) with ds := { State.reset.ds with lastTag := some 9 } } :
     State), (tk 0x0309 [] false 0), 0, ?_⟩
    dsimp only
    decide +kernel
  · refine ⟨({ (State.reset.put (Reg.DS_TT_CFG_OPND_MASK 0) 1) with ds := { State.reset.ds with store := (List.range 256).map (fun e => (e, some ⟨0, 0, 0#24, false, 99⟩)) } }
     : State), (tk 0x0309 [] false 0), 0, ?_⟩
    dsimp only
    decide +kernel
  · refine ⟨(given (sImage.setMode mLoad) 3 0x0301 [(8, 1, 3)] false 0), (tk 0x0301 [(8, 1, 3)] false 0), ?_⟩
    dsimp only
    decide +kernel
  · refine ⟨(given ((sImage.setMode mStep).put Reg.CHIP_MODE_AT_REST 1) 3 0x0304 [(8, 2, 5)] false 0), (tk 0x0304 [(8, 2,
     5)] false 0), ?_⟩
    dsimp only
    decide +kernel
  · refine ⟨(given ((sImage.setMode mStep).put Reg.CHIP_MODE_AT_REST 1) 3 0x0305 [(8, 1, 1)] false 0), (tk 0x0305 [(8, 1,
     1)] false 0), ?_⟩
    dsimp only
    decide +kernel
  · refine ⟨(((({ State.reset with chip := { State.reset.chip with image := some { noImage with links := [3] } } } :
     State).setLane 27 { State.reset.lane 27 with rate := 1 }).put (laneStat 27 3 0) lActive).put Reg.CHIP_MODE_SVC 1), tk
     0x0301 [(8, 1, mWalk)] false 0, ?_⟩
    dsimp only
    exact ⟨by decide +kernel, Or.inl (by decide +kernel), by decide +kernel, by decide +kernel⟩
  · refine ⟨(given ({ (sImage.setMode mLoad) with chip := { State.reset.chip with image := some { noImage with links := [3] } } }
     : State) 3 0x0301 [(8, 1, 3), (16, 8, 6)] false 0), (tk 0x0301 [(8, 1, 3), (16, 8, 6)] false 0), 3, ?_⟩
    dsimp only
    decide +kernel
  · refine ⟨State.reset, ⟨0, false, false, 0, false, false⟩, ?_⟩
    dsimp only
    decide +kernel
  · refine ⟨(given ((sImage.setMode mLoad).put Reg.CHIP_MODE_SVC_CHG 1) 3 0x0301 [(8, 1, 3), (16, 8, 6)] true 0), ((tk
     0x0301 [(8, 1, 3), (16, 8, 6)] true 0)).desc, ?_⟩
    decide +kernel
  · refine ⟨State.reset, ?_⟩
    decide +kernel

/-- `Obligations.LinkCommandsAct`: its hypotheses can hold, clause by clause (part 1 of 2). -/
theorem wit_LinkCommandsAct :
    (∃ (s : State), ∃ (i : Nat), ∃ (c : Taken),
     let d := c.desc;
     let n := 16 * fieldOf d 8 1 + fieldOf d 9 1;
     s.turn 1 0x0401 i c ∧ (s.linkState n ≠ 0 ∨ s.on (linkEn n) = true)) ∧
    (∃ (s : State), ∃ (i : Nat), ∃ (c : Taken),
     let d := c.desc;
     let n := 16 * fieldOf d 8 1 + fieldOf d 9 1;
     s.turn 1 0x0401 i c ∧ s.linkState n = 0 ∧ s.on (linkEn n) = false) ∧
    (∃ (s : State), ∃ (c : Taken),
     let d := c.desc;
     let n := 16 * fieldOf d 8 1 + fieldOf d 9 1;
     s.due 1 0x0401 c ∧ s.isUp n = true) ∧
    (∃ (s : State), ∃ (c : Taken),
     let d := c.desc;
     let n := 16 * fieldOf d 8 1 + fieldOf d 9 1;
     s.due 1 0x0401 c ∧
     let lost := (if n < 16 then 1 < (s.lanesIn n [lFailed]).length else 3 < (s.lanesIn n [lFailed]).length) ∨ s.linkState n = 3;
     s.isUp n = false ∧ lost) ∧
    (∃ (s : State), ∃ (c : Taken),
     let d := c.desc;
     let n := 16 * fieldOf d 8 1 + fieldOf d 9 1;
     s.due 1 0x0401 c ∧
     let lost := (if n < 16 then 1 < (s.lanesIn n [lFailed]).length else 3 < (s.lanesIn n [lFailed]).length) ∨ s.linkState n = 3;
     s.isUp n = false ∧ ¬ lost) ∧
    (∃ (s : State), ∃ (i : Nat), ∃ (c : Taken), s.turn 1 0x0402 i c) ∧
    (∃ (s : State), ∃ (i : Nat), ∃ (c : Taken), s.turn 1 0x0403 i c) ∧
    (∃ (s : State), ∃ (i : Nat), ∃ (c : Taken),
     let d := c.desc;
     s.turn 1 0x0404 i c ∧
     let e := fieldOf d 8 1;
     s.isUp (16 + e) = false) ∧
    (∃ (s : State), ∃ (i : Nat), ∃ (c : Taken),
     let d := c.desc;
     s.turn 1 0x0404 i c ∧
     let e := fieldOf d 8 1;
     let w := fieldOf d 9 1;
     s.isUp (16 + e) = true ∧ s.get (Reg.EL_LINK_STAT_WIDTH e) ≠ w) ∧
    (∃ (s : State), ∃ (i : Nat), ∃ (c : Taken),
     let d := c.desc;
     s.turn 1 0x0404 i c ∧
     let e := fieldOf d 8 1;
     let w := fieldOf d 9 1;
     s.isUp (16 + e) = true ∧ s.get (Reg.EL_LINK_STAT_WIDTH e) = w) ∧
    (∃ (s : State), ∃ (c : Taken), s.due 1 0x0404 c) ∧
    (∃ (s : State), ∃ (i : Nat), ∃ (c : Taken),
     let d := c.desc;
     s.turn 1 0x0405 i c ∧ fieldOf d 11 1 ≠ 1) ∧
    (∃ (s : State), ∃ (i : Nat), ∃ (c : Taken),
     let d := c.desc;
     s.turn 1 0x0405 i c ∧ fieldOf d 11 1 = 1) ∧
    (∃ (s : State), ∃ (i : Nat), ∃ (c : Taken),
     let d := c.desc;
     let n := 16 * fieldOf d 8 1 + fieldOf d 9 1;
     s.turn 1 0x0704 i c ∧ s.isUp n = true) ∧
    (∃ (s : State), ∃ (i : Nat), ∃ (c : Taken),
     let d := c.desc;
     let n := 16 * fieldOf d 8 1 + fieldOf d 9 1;
     s.turn 1 0x0704 i c ∧ s.isUp n = false) ∧
    (∃ (s : State), ∃ (c : Taken), s.due 1 0x0704 c ∧ 256 ≤ c.note) := by
  refine ⟨?_, ?_, ?_, ?_, ?_, ?_, ?_, ?_, ?_, ?_, ?_, ?_, ?_, ?_, ?_, ?_⟩
  · refine ⟨(given (sHost.put (linkEn (16 * fieldOf ((tk 0x0401 [] false 0) : Taken).desc 8 1 + fieldOf ((tk 0x0401 [] false
     0) : Taken).desc 9 1)) 1) 1 0x0401 [] false 0), 0, (tk 0x0401 [] false 0), ?_⟩
    unfold State.turn
    dsimp only
    decide +kernel
  · refine ⟨(given (sHost.put (linkEn (16 * fieldOf ((tk 0x0401 [] false 0) : Taken).desc 8 1 + fieldOf ((tk 0x0401 [] false
     0) : Taken).desc 9 1)) 0) 1 0x0401 [] false 0), 0, (tk 0x0401 [] false 0), ?_⟩
    unfold State.turn
    dsimp only
    decide +kernel
  · refine ⟨(given (sHost.put (linkStat ((16 * fieldOf ((tk 0x0401 [] true 0) : Taken).desc 8 1 + fieldOf ((tk 0x0401 []
     true 0) : Taken).desc 9 1))) 2) 1 0x0401 [] true 0), (tk 0x0401 [] true 0), ?_⟩
    unfold State.due
    dsimp only
    decide +kernel
  · refine ⟨(given ((sHost.put (laneStat 0 3 0) lFailed).put (laneStat 1 3 0) lFailed) 1 0x0401 [] true 0), (tk 0x0401 []
     true 0), ?_⟩
    unfold State.due
    dsimp only
    decide +kernel
  · refine ⟨(given sHost 1 0x0401 [] true 0), (tk 0x0401 [] true 0), ?_⟩
    unfold State.due
    dsimp only
    decide +kernel
  · refine ⟨(given sHost 1 0x0402 [] false 0), 0, (tk 0x0402 [] false 0), ?_⟩
    unfold State.turn
    decide +kernel
  · refine ⟨(given sHost 1 0x0403 [] false 0), 0, (tk 0x0403 [] false 0), ?_⟩
    unfold State.turn
    decide +kernel
  · refine ⟨(given sHost 1 0x0404 [] false 0), 0, (tk 0x0404 [] false 0), ?_⟩
    unfold State.turn
    dsimp only
    decide +kernel
  · refine ⟨(given ((sHost.put (linkStat 16) 1).put (Reg.EL_LINK_STAT_WIDTH 0) 2) 1 0x0404 [(9, 1, 1)] false 0), 0, (tk
     0x0404 [(9, 1, 1)] false 0), ?_⟩
    unfold State.turn
    dsimp only
    decide +kernel
  · refine ⟨(given ((sHost.put (linkStat ((16 + (fieldOf ((tk 0x0404 [] false 0) : Taken).desc 8 1)))) 2).put
     (Reg.EL_LINK_STAT_WIDTH (fieldOf ((tk 0x0404 [] false 0) : Taken).desc 8 1)) (fieldOf ((tk 0x0404 [] false 0) :
     Taken).desc 9 1)) 1 0x0404 [] false 0), 0, (tk 0x0404 [] false 0), ?_⟩
    unfold State.turn
    dsimp only
    decide +kernel
  · refine ⟨(given sHost 1 0x0404 [] true 0), (tk 0x0404 [] true 0), ?_⟩
    unfold State.due
    decide +kernel
  · refine ⟨(given sHost 1 0x0405 [] false 0), 0, (tk 0x0405 [] false 0), ?_⟩
    unfold State.turn
    dsimp only
    decide +kernel
  · refine ⟨(given sHost 1 0x0405 [(11, 1, 1)] false 0), 0, (tk 0x0405 [(11, 1, 1)] false 0), ?_⟩
    unfold State.turn
    dsimp only
    decide +kernel
  · refine ⟨(given (sHost.put (linkStat ((16 * fieldOf ((tk 0x0704 [] false 0) : Taken).desc 8 1 + fieldOf ((tk 0x0704 []
     false 0) : Taken).desc 9 1))) 2) 1 0x0704 [] false 0), 0, (tk 0x0704 [] false 0), ?_⟩
    unfold State.turn
    dsimp only
    decide +kernel
  · refine ⟨(given sHost 1 0x0704 [] false 0), 0, (tk 0x0704 [] false 0), ?_⟩
    unfold State.turn
    dsimp only
    decide +kernel
  · refine ⟨(given (sHost.put (linkStat 0) 1) 1 0x0704 [] true 256), (tk 0x0704 [] true 256), ?_⟩
    unfold State.due
    decide +kernel

/-- `Obligations.LinkCommandsAct`: its hypotheses can hold, clause by clause (part 2 of 2). -/
theorem wit_LinkCommandsAct_2 :
    (∃ (s : State), ∃ (c : Taken), ∃ (far : Option (Nat × Nat)),
     let d := c.desc;
     let n := 16 * fieldOf d 8 1 + fieldOf d 9 1;
     s.due 1 0x0704 c ∧
     let sent := (s.tb.txq.filter (fun e => e.src == n && e.id == c.note)).getLast?;
     let asked := (s.link n).timeIn.find? (fun m => bits m.2.toNat 17 16 == 2);
     c.note < 256 ∧ (far = none ∨ sent = none ∨ asked = none)) ∧
    (∃ (s : State), ∃ (c : Taken), ∃ e, ∃ m,
     let d := c.desc;
     let n := 16 * fieldOf d 8 1 + fieldOf d 9 1;
     s.due 1 0x0704 c ∧
     let sent := (s.tb.txq.filter (fun e => e.src == n && e.id == c.note)).getLast?;
     let asked := (s.link n).timeIn.find? (fun m => bits m.2.toNat 17 16 == 2);
     c.note < 256 ∧ sent = some e ∧ asked = some m) := by
  refine ⟨?_, ?_⟩
  · refine ⟨(given sHost 1 0x0704 [] true 0), (tk 0x0704 [] true 0), none, ?_⟩
    unfold State.due
    dsimp only
    decide +kernel
  · refine ⟨(given ({ ((sHost.put (linkStat 0) 1).onLink 0 (fun m => { m with timeIn := [(9, 131072#120)] })) with tb := { State.reset.tb with txq := [⟨0, 5, Stamp.reset⟩] } }
     : State) 1 0x0704 [] true 5), (tk 0x0704 [] true 5), ⟨0, 5, Stamp.reset⟩, (9, 131072#120), ?_⟩
    unfold State.due
    dsimp only
    decide +kernel

/-! ### Witnesses: Memory and capture commands -/

/-- `Obligations.MemoryAndCaptureCommandsAct`: its hypotheses can hold, clause by clause (part 1 of 2). -/
theorem wit_MemoryAndCaptureCommandsAct :
    (∃ (s : State), ∃ (i : Nat), ∃ (c : Taken), s.turn 2 0x0501 i c) ∧
    (∃ (s : State), ∃ (i : Nat), ∃ (c : Taken), ∃ c0, ∃ base,
     let d := c.desc;
     s.turn 2 0x0502 i c ∧
     let n := fieldOf d 9 1;
     let units := fieldOf d 12 4 / n;
     s.place n (fieldOf d 10 1) units = some (c0, base)) ∧
    (∃ (s : State), ∃ (i : Nat), ∃ (c : Taken),
     let d := c.desc;
     s.turn 2 0x0502 i c ∧
     let n := fieldOf d 9 1;
     let units := fieldOf d 12 4 / n;
     s.place n (fieldOf d 10 1) units = none) ∧
    (∃ (s : State), ∃ (i : Nat), ∃ (c : Taken), ∃ r,
     let d := c.desc;
     s.turn 2 0x0503 i c ∧ s.regionOf (fieldOf d 8 4) = some r ∧ r.host = false) ∧
    (∃ (s : State), ∃ (i : Nat), ∃ (c : Taken), ∃ r,
     let d := c.desc;
     s.turn 2 0x0503 i c ∧ s.regionOf (fieldOf d 8 4) = some r ∧ r.host = true ∧ s.regionBusy r = true) ∧
    (∃ (s : State), ∃ (i : Nat), ∃ (c : Taken), ∃ r,
     let d := c.desc;
     s.turn 2 0x0503 i c ∧ s.regionOf (fieldOf d 8 4) = some r ∧ r.host = true ∧ s.regionBusy r = false) ∧
    (∃ (s : State), ∃ (i : Nat), ∃ (c : Taken),
     let d := c.desc;
     s.turn 2 0x0503 i c ∧ s.regionOf (fieldOf d 8 4) = none) ∧
    (∃ (s : State), ∃ (i : Nat), ∃ (c : Taken),
     let d := c.desc;
     s.turn 2 0x0504 i c ∧
     let len := fieldOf d 12 4;
     let a := fieldOf d 16 8;
     let read := fieldOf d 8 1 == 0;
     let reach := a % 2 ^ 32 + len ≤ 2 ^ 32 ∧ ∀ k < len, if read then (s.hostRd (a + k)).isSome = true else s.hostWrOk (a + k) = true;
     ¬ reach) ∧
    (∃ (s : State), ∃ (i : Nat), ∃ (c : Taken), ∃ (dma : HostDma), ∃ r,
     let d := c.desc;
     s.turn 2 0x0504 i c ∧
     let len := fieldOf d 12 4;
     let a := fieldOf d 16 8;
     let read := fieldOf d 8 1 == 0;
     let reach := a % 2 ^ 32 + len ≤ 2 ^ 32 ∧ ∀ k < len, if read then (s.hostRd (a + k)).isSome = true else s.hostWrOk (a + k) = true;
     let bad := s.dmaBad (if read then { dma with status := 0 } else dma);
     reach ∧ bad = some r) ∧
    (∃ (s : State), ∃ (i : Nat), ∃ (c : Taken), ∃ (dma : HostDma),
     let d := c.desc;
     s.turn 2 0x0504 i c ∧
     let len := fieldOf d 12 4;
     let a := fieldOf d 16 8;
     let read := fieldOf d 8 1 == 0;
     let reach := a % 2 ^ 32 + len ≤ 2 ^ 32 ∧ ∀ k < len, if read then (s.hostRd (a + k)).isSome = true else s.hostWrOk (a + k) = true;
     let bad := s.dmaBad (if read then { dma with status := 0 } else dma);
     reach ∧ bad = none ∧ len = 0) ∧
    (∃ (s : State), ∃ (i : Nat), ∃ (c : Taken), ∃ (dma : HostDma),
     let d := c.desc;
     s.turn 2 0x0504 i c ∧
     let len := fieldOf d 12 4;
     let a := fieldOf d 16 8;
     let read := fieldOf d 8 1 == 0;
     let reach := a % 2 ^ 32 + len ≤ 2 ^ 32 ∧ ∀ k < len, if read then (s.hostRd (a + k)).isSome = true else s.hostWrOk (a + k) = true;
     let bad := s.dmaBad (if read then { dma with status := 0 } else dma);
     reach ∧ bad = none ∧ len ≠ 0) ∧
    (∃ (s : State), ∃ (c : Taken), s.due 2 0x0504 c ∧ s.txOf c.note = none) ∧
    (∃ (s : State), ∃ (c : Taken), ∃ x, s.due 2 0x0504 c ∧ s.txOf c.note = some x ∧ x.left ≠ 0) ∧
    (∃ (s : State), ∃ (c : Taken), ∃ x,
     let d := c.desc;
     s.due 2 0x0504 c ∧ s.txOf c.note = some x ∧
     let cut : Prop := c.cut = true ∨ fieldOf d 8 1 = 0 ∧ s.mayMaster = false;
     x.left = 0 ∧ cut) ∧
    (∃ (s : State), ∃ (c : Taken), ∃ x,
     let d := c.desc;
     s.due 2 0x0504 c ∧ s.txOf c.note = some x ∧
     let cut : Prop := c.cut = true ∨ fieldOf d 8 1 = 0 ∧ s.mayMaster = false;
     x.left = 0 ∧ ¬ cut) ∧
    (∃ (s : State), ∃ (i : Nat), ∃ (c : Taken), s.turn 2 0x0505 i c) := by
  refine ⟨?_, ?_, ?_, ?_, ?_, ?_, ?_, ?_, ?_, ?_, ?_, ?_, ?_, ?_, ?_, ?_⟩
  · refine ⟨(given sHost 2 0x0501 [] false 0), 0, (tk 0x0501 [] false 0), ?_⟩
    unfold State.turn
    decide +kernel
  · refine ⟨(given sHost 2 0x0502 [] false 0), 0, (tk 0x0502 [] false 0), 0, 0, ?_⟩
    unfold State.turn
    dsimp only
    decide +kernel
  · refine ⟨(given sHost 2 0x0502 [(9, 1, 1), (10, 1, 255), (12, 4, 1)] false 0), 0, (tk 0x0502 [(9, 1, 1), (10, 1, 255),
     (12, 4, 1)] false 0), ?_⟩
    unfold State.turn
    dsimp only
    decide +kernel
  · refine ⟨(given ({ sHost with chip := { State.reset.chip with regions := [⟨1, 1, 1, 0, 0, 1, false⟩] } } : State) 2
     0x0503 [(8, 4, 1)] false 0), 0, (tk 0x0503 [(8, 4, 1)] false 0), ⟨1, 1, 1, 0, 0, 1, false⟩, ?_⟩
    unfold State.turn
    dsimp only
    decide +kernel
  · refine ⟨(given ({ (({ sHost with chip := { State.reset.chip with regions := [⟨1, 1, 1, 0, 0, 1, true⟩] } } : State).put Reg.CAP_STAT_STATE 1) with cap := { State.reset.cap with region := some 1 } }
     : State) 2 0x0503 [(8, 4, 1)] false 0), 0, (tk 0x0503 [(8, 4, 1)] false 0), ⟨1, 1, 1, 0, 0, 1, true⟩, ?_⟩
    unfold State.turn
    dsimp only
    decide +kernel
  · refine ⟨(given ({ sHost with chip := { State.reset.chip with regions := [⟨1, 1, 1, 0, 0, 1, true⟩] } } : State) 2 0x0503
     [(8, 4, 1)] false 0), 0, (tk 0x0503 [(8, 4, 1)] false 0), ⟨1, 1, 1, 0, 0, 1, true⟩, ?_⟩
    unfold State.turn
    dsimp only
    decide +kernel
  · refine ⟨(given sHost 2 0x0503 [] false 0), 0, (tk 0x0503 [] false 0), ?_⟩
    unfold State.turn
    dsimp only
    decide +kernel
  · refine ⟨(given sHost 2 0x0504 [(12, 4, 5), (16, 8, 4294967292)] false 0), 0, (tk 0x0504 [(12, 4, 5), (16, 8,
     4294967292)] false 0), ?_⟩
    unfold State.turn
    dsimp only
    decide +kernel
  · refine ⟨(given (((sHost.put (Reg.GD_CH_STAT_STATE 0) gReady).put (Reg.GW_WIN_VALID 0 0) 1).put (Reg.GW_WIN_KIND 0 0)
     kHost) 2 0x0504 [(8, 1, 1), (12, 4, 4)] false 0), 0, (tk 0x0504 [(8, 1, 1), (12, 4, 4)] false 0), ⟨1, []⟩, (errResp 5 1
     0 0), ?_⟩
    unfold State.turn
    dsimp only
    decide +kernel
  · refine ⟨(given sHost 2 0x0504 [(12, 4, 0)] false 0), 0, (tk 0x0504 [(12, 4, 0)] false 0), ⟨0, []⟩, ?_⟩
    unfold State.turn
    dsimp only
    decide +kernel
  · refine ⟨(given (((sHost.put (Reg.GD_CH_STAT_STATE 0) gReady).put (Reg.GW_WIN_VALID 0 0) 1).put (Reg.GW_WIN_KIND 0 0)
     kHost) 2 0x0504 [(12, 4, 4)] false 0), 0, (tk 0x0504 [(12, 4, 4)] false 0), ⟨0, []⟩, ?_⟩
    unfold State.turn
    dsimp only
    decide +kernel
  · refine ⟨(given sHost 2 0x0504 [] true 0), (tk 0x0504 [] true 0), ?_⟩
    unfold State.due
    decide +kernel
  · refine ⟨(given ({ sHost with pcie := { sHost.pcie with txs := [⟨7, true, 32, [], 1, [], false⟩] } } : State) 2 0x0504 []
     true 7), (tk 0x0504 [] true 7), ⟨7, true, 32, [], 1, [], false⟩, ?_⟩
    unfold State.due
    decide +kernel
  · refine ⟨(({ sHost with pcie := { sHost.pcie with txs := [⟨7, true, 32, [], 0, [], false⟩] } } : State).onBox 2 (fun b =>
     { b with taken := [({ tk 0x0504 [] true 7 with cut := true } : Taken)] })), ({ tk 0x0504 [] true 7 with cut := true } :
     Taken), ⟨7, true, 32, [], 0, [], false⟩, ?_⟩
    unfold State.due
    dsimp only
    decide +kernel
  · refine ⟨(given ({ sHost with pcie := { sHost.pcie with txs := [⟨7, true, 32, [], 0, [], false⟩] } } : State) 2 0x0504 []
     true 7), (tk 0x0504 [] true 7), ⟨7, true, 32, [], 0, [], false⟩, ?_⟩
    unfold State.due
    dsimp only
    decide +kernel
  · refine ⟨(given sHost 2 0x0505 [] false 0), 0, (tk 0x0505 [] false 0), ?_⟩
    unfold State.turn
    decide +kernel

/-- `Obligations.MemoryAndCaptureCommandsAct`: its hypotheses can hold, clause by clause (part 2 of 2). -/
theorem wit_MemoryAndCaptureCommandsAct_2 :
    (∃ (s : State), ∃ (i : Nat), ∃ (c : Taken), s.turn 2 0x0601 i c ∧ s.capState ≠ cIdle ∧ s.capState ≠ cDisabled) ∧
    (∃ (s : State), ∃ (i : Nat), ∃ (c : Taken),
     let d := c.desc;
     s.turn 2 0x0601 i c ∧ (s.capState = cIdle ∨ s.capState = cDisabled) ∧ s.hostRegion (fieldOf d 8 4) kCapture = none) ∧
    (∃ (s : State), ∃ (i : Nat), ∃ (c : Taken), ∃ (dma : HostDma), ∃ r, ∃ e,
     let d := c.desc;
     s.turn 2 0x0601 i c ∧ (s.capState = cIdle ∨ s.capState = cDisabled) ∧ s.hostRegion (fieldOf d 8 4) kCapture = some r
      ∧ s.dmaBad dma = some e) ∧
    (∃ (s : State), ∃ (i : Nat), ∃ (c : Taken), ∃ (dma : HostDma), ∃ r,
     let d := c.desc;
     s.turn 2 0x0601 i c ∧ (s.capState = cIdle ∨ s.capState = cDisabled) ∧ s.hostRegion (fieldOf d 8 4) kCapture = some r
      ∧ s.dmaBad dma = none) ∧
    (∃ (s : State), ∃ (i : Nat), ∃ (c : Taken),
     let d := c.desc;
     s.turn 2 0x0602 i c ∧
     let act := fieldOf d 8 1;
     act = 1 ∧ s.cap.region = none) ∧
    (∃ (s : State), ∃ (i : Nat), ∃ (c : Taken),
     let d := c.desc;
     s.turn 2 0x0602 i c ∧
     let act := fieldOf d 8 1;
     act = 1 ∧ s.cap.region ≠ none) ∧
    (∃ (s : State), ∃ (i : Nat), ∃ (c : Taken),
     let d := c.desc;
     s.turn 2 0x0602 i c ∧
     let act := fieldOf d 8 1;
     let run : Prop := s.capState = cArmed ∨ s.capState = cPost;
     act = 2 ∧ run) ∧
    (∃ (s : State), ∃ (i : Nat), ∃ (c : Taken),
     let d := c.desc;
     s.turn 2 0x0602 i c ∧
     let act := fieldOf d 8 1;
     let run : Prop := s.capState = cArmed ∨ s.capState = cPost;
     act = 2 ∧ ¬ run) ∧
    (∃ (s : State), ∃ (i : Nat), ∃ (c : Taken),
     let d := c.desc;
     s.turn 2 0x0602 i c ∧
     let act := fieldOf d 8 1;
     act = 3) ∧
    (∃ (s : State), ∃ (i : Nat), ∃ (c : Taken),
     let d := c.desc;
     s.turn 2 0x0602 i c ∧
     let act := fieldOf d 8 1;
     act ≠ 1 ∧ act ≠ 2 ∧ act ≠ 3) ∧
    (∃ (s : State), ∃ (c : Taken), s.due 2 0x0602 c) ∧
    (∃ (s : State), ∃ (i : Nat), ∃ (c : Taken), s.turn 2 0x0603 i c) := by
  refine ⟨?_, ?_, ?_, ?_, ?_, ?_, ?_, ?_, ?_, ?_, ?_, ?_⟩
  · refine ⟨(given (sHost.put Reg.CAP_STAT_STATE 1) 2 0x0601 [] false 0), 0, (tk 0x0601 [] false 0), ?_⟩
    unfold State.turn
    decide +kernel
  · refine ⟨(given (sHost.put Reg.CAP_STAT_STATE cIdle) 2 0x0601 [] false 0), 0, (tk 0x0601 [] false 0), ?_⟩
    unfold State.turn
    dsimp only
    decide +kernel
  · refine ⟨(given (({ sHost with chip := { State.reset.chip with regions := [⟨1, 1, 1, 0, 0, 1, true⟩] } } : State).put
     Reg.CAP_STAT_STATE 0) 2 0x0601 [(8, 4, 1)] false 0), 0, (tk 0x0601 [(8, 4, 1)] false 0), ⟨1, []⟩, ⟨1, 1, 1, 0, 0, 1,
     true⟩, (errResp 5 1 0 0), ?_⟩
    unfold State.turn
    dsimp only
    decide +kernel
  · refine ⟨(given (({ sHost with chip := { State.reset.chip with regions := [⟨1, 1, 1, 0, 0, 1, true⟩] } } : State).put
     Reg.CAP_STAT_STATE 0) 2 0x0601 [(8, 4, 1)] false 0), 0, (tk 0x0601 [(8, 4, 1)] false 0), ⟨0, []⟩, ⟨1, 1, 1, 0, 0, 1,
     true⟩, ?_⟩
    unfold State.turn
    dsimp only
    decide +kernel
  · refine ⟨(given ({ sHost with cap.region := none } : State) 2 0x0602 [(8, 1, 1)] false 0), 0, (tk 0x0602 [(8, 1, 1)]
     false 0), ?_⟩
    unfold State.turn
    dsimp only
    decide +kernel
  · refine ⟨(given ({ sHost with cap.region := some 1 } : State) 2 0x0602 [(8, 1, 1)] false 0), 0, (tk 0x0602 [(8, 1, 1)]
     false 0), ?_⟩
    unfold State.turn
    dsimp only
    decide +kernel
  · refine ⟨(given (sHost.put Reg.CAP_STAT_STATE cArmed) 2 0x0602 [(8, 1, 2)] false 0), 0, (tk 0x0602 [(8, 1, 2)] false 0),
     ?_⟩
    unfold State.turn
    dsimp only
    decide +kernel
  · refine ⟨(given sHost 2 0x0602 [(8, 1, 2)] false 0), 0, (tk 0x0602 [(8, 1, 2)] false 0), ?_⟩
    unfold State.turn
    dsimp only
    decide +kernel
  · refine ⟨(given sHost 2 0x0602 [(8, 1, 3)] false 0), 0, (tk 0x0602 [(8, 1, 3)] false 0), ?_⟩
    unfold State.turn
    dsimp only
    decide +kernel
  · refine ⟨(given sHost 2 0x0602 [] false 0), 0, (tk 0x0602 [] false 0), ?_⟩
    unfold State.turn
    dsimp only
    decide +kernel
  · refine ⟨(given sHost 2 0x0602 [] true 0), (tk 0x0602 [] true 0), ?_⟩
    unfold State.due
    decide +kernel
  · refine ⟨(given sHost 2 0x0603 [] false 0), 0, (tk 0x0603 [] false 0), ?_⟩
    unfold State.turn
    decide +kernel

/-! ### Witnesses: Image, diagnostic and security commands -/

/-- `Obligations.ImageAndSystemCommandsAct`: its hypotheses can hold, clause by clause (part 1 of 4). -/
theorem wit_ImageAndSystemCommandsAct :
    (∃ (s : State), ∃ (i : Nat), ∃ (c : Taken), s.turn 0 0x0101 i c) ∧
    (∃ (s : State), ∃ (i : Nat), ∃ (c : Taken), s.turn 0 0x0102 i c) ∧
    (∃ (s : State), ∃ (i : Nat), ∃ (c : Taken), s.turn 0 0x0103 i c) ∧
    (∃ (s : State), ∃ (i : Nat), ∃ (c : Taken), ∃ g, s.turn 3 0x0202 i c ∧ s.chip.image = some g) ∧
    (∃ (s : State), ∃ (i : Nat), ∃ (c : Taken), s.startable 3 0x0202 = some (i, c) ∧ s.lifeOk 0x0202 = true ∧ s.chip.image
     = none) ∧
    (∃ (s : State), ∃ (i : Nat), ∃ (c : Taken), s.turn 3 0x0203 i c) ∧
    (∃ (s : State), ∃ (i : Nat), ∃ (c : Taken), ∃ (isl : Bool), s.turn 3 0x0201 i c ∧
     let may : Prop := s.on Reg.CHIP_CLK_STAT_STEP_LOCK = true ∧ s.on Reg.CHIP_CLK_STAT_LREF_OK = true ∧ (s.mode = mQuarantine → isl = true);
     ¬ may) ∧
    (∃ (s : State), ∃ (i : Nat), ∃ (c : Taken), ∃ (isl : Bool),
     let d := c.desc;
     s.turn 3 0x0201 i c ∧
     let may : Prop := s.on Reg.CHIP_CLK_STAT_STEP_LOCK = true ∧ s.on Reg.CHIP_CLK_STAT_LREF_OK = true ∧ (s.mode = mQuarantine → isl = true);
     let held : Prop := fieldOf d 8 1 = 1 → (∀ k < fieldOf d 24 8, s.hostKind (fieldOf d 16 8 + k) = some kHost) ∧ ∀ k < 2 * fieldOf d 10 2, s.hostKind (fieldOf d 32 8 + k) = some kHost;
     may ∧ ¬ held) := by
  refine ⟨?_, ?_, ?_, ?_, ?_, ?_, ?_, ?_⟩
  · refine ⟨(given sHost 0 0x0101 [] false 0), 0, (tk 0x0101 [] false 0), ?_⟩
    unfold State.turn
    decide +kernel
  · refine ⟨(given sHost 0 0x0102 [] false 0), 0, (tk 0x0102 [] false 0), ?_⟩
    unfold State.turn
    decide +kernel
  · refine ⟨(given sHost 0 0x0103 [] false 0), 0, (tk 0x0103 [] false 0), ?_⟩
    unfold State.turn
    decide +kernel
  · refine ⟨(given ({ sHost with chip.image := some (noImage : Image) } : State) 3 0x0202 [] false 0), 0, (tk 0x0202 []
     false 0), noImage, ?_⟩
    unfold State.turn
    decide +kernel
  · refine ⟨(given sHost 3 0x0202 [] false 0), 0, (tk 0x0202 [] false 0), ?_⟩
    decide +kernel
  · refine ⟨(given sHost 3 0x0203 [] false 0), 0, (tk 0x0203 [] false 0), ?_⟩
    unfold State.turn
    decide +kernel
  · refine ⟨(given (sHost.put Reg.CHIP_CLK_STAT_STEP_LOCK 0) 3 0x0201 [] false 0), 0, (tk 0x0201 [] false 0), false, ?_⟩
    unfold State.turn
    dsimp only
    decide +kernel
  · refine ⟨(given ((sHost.put Reg.CHIP_CLK_STAT_STEP_LOCK 1).put Reg.CHIP_CLK_STAT_LREF_OK 1) 3 0x0201 [(8, 1, 1), (24, 8,
     1)] false 0), 0, (tk 0x0201 [(8, 1, 1), (24, 8, 1)] false 0), false, ?_⟩
    unfold State.turn
    dsimp only
    decide +kernel

/-- `Obligations.ImageAndSystemCommandsAct`: its hypotheses can hold, clause by clause (part 2 of 4). -/
theorem wit_ImageAndSystemCommandsAct_2 :
    (∃ (s : State), ∃ (i : Nat), ∃ (c : Taken), ∃ (isl : Bool),
     let d := c.desc;
     s.turn 3 0x0201 i c ∧
     let may : Prop := s.on Reg.CHIP_CLK_STAT_STEP_LOCK = true ∧ s.on Reg.CHIP_CLK_STAT_LREF_OK = true ∧ (s.mode = mQuarantine → isl = true);
     let held : Prop := fieldOf d 8 1 = 1 → (∀ k < fieldOf d 24 8, s.hostKind (fieldOf d 16 8 + k) = some kHost) ∧ ∀ k < 2 * fieldOf d 10 2, s.hostKind (fieldOf d 32 8 + k) = some kHost;
     may ∧ held) ∧
    (∃ (s : State), ∃ (c : Taken),
     let d := c.desc;
     s.due 3 0x0201 c ∧
     let src := fieldOf d 8 1;
     let cut : Prop := src = 0 ∧ c.cut = true;
     cut) ∧
    (∃ (s : State), ∃ (c : Taken),
     let d := c.desc;
     s.due 3 0x0201 c ∧
     let src := fieldOf d 8 1;
     let cut : Prop := src = 0 ∧ c.cut = true;
     ¬ cut ∧ s.loadQuiet = false) ∧
    (∃ (s : State), ∃ (c : Taken), ∃ (img : HostDma), ∃ (ex : HostDma), ∃ (crc : List HostCrc), ∃ e,
     let d := c.desc;
     s.due 3 0x0201 c ∧
     let src := fieldOf d 8 1;
     let n := 2 * fieldOf d 10 2;
     let r := (s.loadRead src (fieldOf d 16 8) (fieldOf d 24 8) crc).loadRead src (fieldOf d 32 8) n crc;
     let cut : Prop := src = 0 ∧ c.cut = true;
     let bad := if src = 0 then (r.dmaBad img).orElse (fun _ => if n = 0 then none else r.dmaBad ex) else none;
     ¬ cut ∧ s.loadQuiet = true ∧ bad = some e) ∧
    (∃ (s : State), ∃ (c : Taken), ∃ (img : HostDma), ∃ (ex : HostDma), ∃ (crc : List HostCrc),
     let d := c.desc;
     s.due 3 0x0201 c ∧
     let src := fieldOf d 8 1;
     let n := 2 * fieldOf d 10 2;
     let r := (s.loadRead src (fieldOf d 16 8) (fieldOf d 24 8) crc).loadRead src (fieldOf d 32 8) n crc;
     let cut : Prop := src = 0 ∧ c.cut = true;
     let bad := if src = 0 then (r.dmaBad img).orElse (fun _ => if n = 0 then none else r.dmaBad ex) else none;
     ¬ cut ∧ s.loadQuiet = true ∧ bad = none) ∧
    (∃ (s : State), ∃ (i : Nat), ∃ (c : Taken), s.turn 3 0x0204 i c) ∧
    (∃ (s : State), ∃ (c : Taken), s.due 3 0x0204 c) ∧
    (∃ (s : State), ∃ (i : Nat), ∃ (c : Taken), ∃ r,
     let d := c.desc;
     s.turn 3 0x030A i c ∧ s.placeRefused d (snapLen s.nTeams) = some r) := by
  refine ⟨?_, ?_, ?_, ?_, ?_, ?_, ?_, ?_⟩
  · refine ⟨(given ((sHost.put Reg.CHIP_CLK_STAT_STEP_LOCK 1).put Reg.CHIP_CLK_STAT_LREF_OK 1) 3 0x0201 [] false 0), 0, (tk
     0x0201 [] false 0), false, ?_⟩
    unfold State.turn
    dsimp only
    decide +kernel
  · refine ⟨(((sHost.put Reg.CHIP_CLK_STAT_STEP_LOCK 1).put Reg.CHIP_CLK_STAT_LREF_OK 1).onBox 3 (fun b => { b with taken := [({ tk 0x0201 [] true 0 with cut := true } : Taken)] })),
     ({ tk 0x0201 [] true 0 with cut := true } : Taken), ?_⟩
    unfold State.due
    dsimp only
    decide +kernel
  · refine ⟨(given ((((sHost.put Reg.CHIP_CLK_STAT_STEP_LOCK 1).put Reg.CHIP_CLK_STAT_LREF_OK 1).put (Reg.GD_CH_STAT_STATE
     0) gReady).onChan 0 (fun m => { m with dyn := [⟨0, none, none, 0, 32, false, [], [], false, false, false⟩] })) 3 0x0201
     [] true 0), (tk 0x0201 [] true 0), ?_⟩
    unfold State.due
    dsimp only
    decide +kernel
  · refine ⟨(given ((sHost.put Reg.CHIP_CLK_STAT_STEP_LOCK 1).put Reg.CHIP_CLK_STAT_LREF_OK 1) 3 0x0201 [] true 0), (tk
     0x0201 [] true 0), ⟨1, []⟩, ⟨0, []⟩, [], (errResp 5 1 0 0), ?_⟩
    unfold State.due
    dsimp only
    decide +kernel
  · refine ⟨(given sHost 3 0x0201 [(8, 1, 1)] true 0), (tk 0x0201 [(8, 1, 1)] true 0), ⟨0, []⟩, ⟨0, []⟩, [], ?_⟩
    unfold State.due
    dsimp only
    decide +kernel
  · refine ⟨(given (sHost.setMode mLoad) 3 0x0204 [] false 0), 0, (tk 0x0204 [] false 0), ?_⟩
    unfold State.turn
    decide +kernel
  · refine ⟨(given sHost 3 0x0204 [] true 0), (tk 0x0204 [] true 0), ?_⟩
    unfold State.due
    decide +kernel
  · refine ⟨(given ((sHost.setMode mStep).put Reg.CHIP_MODE_AT_REST 1) 3 0x030A [(24, 8, 0)] false 0), 0, (tk 0x030A [(24,
     8, 0)] false 0), (errResp 0x1F 0 0 0), ?_⟩
    unfold State.turn
    dsimp only
    decide +kernel

/-- `Obligations.ImageAndSystemCommandsAct`: its hypotheses can hold, clause by clause (part 3 of 4). -/
theorem wit_ImageAndSystemCommandsAct_3 :
    (∃ (s : State), ∃ (i : Nat), ∃ (c : Taken),
     let d := c.desc;
     s.turn 3 0x030A i c ∧ s.placeRefused d (snapLen s.nTeams) = none ∧ fieldOf d 8 1 = 1 ∧ s.mayMaster = false) ∧
    (∃ (s : State), ∃ (i : Nat), ∃ (c : Taken),
     let d := c.desc;
     s.turn 3 0x030A i c ∧ s.placeRefused d (snapLen s.nTeams) = none ∧ fieldOf d 8 1 = 1 ∧ s.mayMaster = true) ∧
    (∃ (s : State), ∃ (i : Nat), ∃ (c : Taken),
     let d := c.desc;
     s.turn 3 0x030A i c ∧ s.placeRefused d (snapLen s.nTeams) = none ∧ fieldOf d 8 1 ≠ 1) ∧
    (∃ (s : State), ∃ (c : Taken),
     let d := c.desc;
     s.due 3 0x030A c ∧
     let cut : Prop := fieldOf d 8 1 = 1 ∧ c.cut = true;
     cut) ∧
    (∃ (s : State), ∃ (c : Taken),
     let d := c.desc;
     s.due 3 0x030A c ∧
     let cut : Prop := fieldOf d 8 1 = 1 ∧ c.cut = true;
     let may : Prop := s.settled = true ∧ s.placeQuiet d = true;
     ¬ cut ∧ ¬ may) ∧
    (∃ (s : State), ∃ (c : Taken), ∃ finds,
     let d := c.desc;
     s.due 3 0x030A c ∧
     let cut : Prop := fieldOf d 8 1 = 1 ∧ c.cut = true;
     let may : Prop := s.settled = true ∧ s.placeQuiet d = true;
     let f := s.snapFound finds;
     ¬ cut ∧ may ∧ fieldOf d 8 1 = 1 ∧ f.mayMaster = true) ∧
    (∃ (s : State), ∃ (c : Taken), ∃ finds,
     let d := c.desc;
     s.due 3 0x030A c ∧
     let cut : Prop := fieldOf d 8 1 = 1 ∧ c.cut = true;
     let may : Prop := s.settled = true ∧ s.placeQuiet d = true;
     let f := s.snapFound finds;
     ¬ cut ∧ may ∧ fieldOf d 8 1 = 1 ∧ f.mayMaster = false) ∧
    (∃ (s : State), ∃ (c : Taken),
     let d := c.desc;
     s.due 3 0x030A c ∧
     let cut : Prop := fieldOf d 8 1 = 1 ∧ c.cut = true;
     let may : Prop := s.settled = true ∧ s.placeQuiet d = true;
     ¬ cut ∧ may ∧ fieldOf d 8 1 ≠ 1) := by
  refine ⟨?_, ?_, ?_, ?_, ?_, ?_, ?_, ?_⟩
  · refine ⟨(given ({ ((sHost.setMode mStep).put Reg.CHIP_MODE_AT_REST 1) with pcie := Pcie.reset } : State) 3 0x030A [(8,
     1, 1), (24, 8, 1099511627776)] false 0), 0, (tk 0x030A [(8, 1, 1), (24, 8, 1099511627776)] false 0), ?_⟩
    unfold State.turn
    dsimp only
    decide +kernel
  · refine ⟨(given ((sHost.setMode mStep).put Reg.CHIP_MODE_AT_REST 1) 3 0x030A [(8, 1, 1), (24, 8, 1099511627776)] false
     0), 0, (tk 0x030A [(8, 1, 1), (24, 8, 1099511627776)] false 0), ?_⟩
    unfold State.turn
    dsimp only
    decide +kernel
  · refine ⟨(given ({ ((sHost.setMode mStep).put Reg.CHIP_MODE_AT_REST 1) with chip := { State.reset.chip with regions := [⟨1, 2, 1, 0, 0, 3, true⟩] } }
     : State) 3 0x030A [(12, 4, 1), (24, 8, 1099511627776)] false 0), 0, (tk 0x030A [(12, 4, 1), (24, 8, 1099511627776)]
     false 0), ?_⟩
    unfold State.turn
    dsimp only
    decide +kernel
  · refine ⟨(((sHost.setMode mStep).put Reg.CHIP_MODE_AT_REST 1).onBox 3 (fun b => { b with taken := [({ tk 0x030A [(8, 1, 1)] true 0 with cut := true } : Taken)] })),
     ({ tk 0x030A [(8, 1, 1)] true 0 with cut := true } : Taken), ?_⟩
    unfold State.due
    dsimp only
    decide +kernel
  · refine ⟨(given ({ ((sHost.setMode mStep).put Reg.CHIP_MODE_AT_REST 1) with ds := { State.reset.ds with due := some 3 } }
     : State) 3 0x030A [(8, 1, 1)] true 0), (tk 0x030A [(8, 1, 1)] true 0), ?_⟩
    unfold State.due
    dsimp only
    decide +kernel
  · refine ⟨(given sHost 3 0x030A [(8, 1, 1)] true 0), (tk 0x030A [(8, 1, 1)] true 0), [], ?_⟩
    dsimp only
    unfold State.due State.settled
    rw [runTeams_eq] <;> decide +kernel
  · refine ⟨(given State.reset 3 0x030A [(8, 1, 1)] true 0), (tk 0x030A [(8, 1, 1)] true 0), [], ?_⟩
    dsimp only
    unfold State.due State.settled
    rw [runTeams_eq] <;> decide +kernel
  · refine ⟨(given sHost 3 0x030A [] true 0), (tk 0x030A [] true 0), ?_⟩
    dsimp only
    unfold State.due State.settled
    rw [runTeams_eq] <;> decide +kernel

/-- `Obligations.ImageAndSystemCommandsAct`: its hypotheses can hold, clause by clause (part 4 of 4). -/
theorem wit_ImageAndSystemCommandsAct_4 :
    (∃ (s : State), ∃ (i : Nat), ∃ (c : Taken), ∃ r,
     let d := c.desc;
     s.turn 3 0x030B i c ∧ s.placeRefused d (snapLen s.nTeams) = some r) ∧
    (∃ (s : State), ∃ (i : Nat), ∃ (c : Taken),
     let d := c.desc;
     s.turn 3 0x030B i c ∧ s.placeRefused d (snapLen s.nTeams) = none) ∧
    (∃ (s : State), ∃ (c : Taken),
     let d := c.desc;
     s.due 3 0x030B c ∧
     let cut : Prop := fieldOf d 8 1 = 1 ∧ c.cut = true;
     cut) ∧
    (∃ (s : State), ∃ (c : Taken),
     let d := c.desc;
     s.due 3 0x030B c ∧
     let cut : Prop := fieldOf d 8 1 = 1 ∧ c.cut = true;
     ¬ cut ∧ s.placeQuiet d = false) ∧
    (∃ (s : State), ∃ (c : Taken), ∃ (dma : HostDma), ∃ e,
     let d := c.desc;
     s.due 3 0x030B c ∧
     let cut : Prop := fieldOf d 8 1 = 1 ∧ c.cut = true;
     ¬ cut ∧ fieldOf d 8 1 = 1 ∧ s.dmaBad dma = some e) ∧
    (∃ (s : State), ∃ (c : Taken), ∃ (dma : HostDma),
     let d := c.desc;
     s.due 3 0x030B c ∧
     let cut : Prop := fieldOf d 8 1 = 1 ∧ c.cut = true;
     ¬ cut ∧ fieldOf d 8 1 = 1 ∧ s.dmaBad dma = none) ∧
    (∃ (s : State), ∃ (c : Taken),
     let d := c.desc;
     s.due 3 0x030B c ∧ fieldOf d 8 1 ≠ 1 ∧ s.placeQuiet d = true) := by
  refine ⟨?_, ?_, ?_, ?_, ?_, ?_, ?_⟩
  · refine ⟨(given ((sImage.setMode mStep).put Reg.CHIP_MODE_AT_REST 1) 3 0x030B [(24, 8, 0)] false 0), 0, (tk 0x030B [(24,
     8, 0)] false 0), (errResp 0x1F 0 0 0), ?_⟩
    unfold State.turn
    dsimp only
    decide +kernel
  · refine ⟨(given ((sImage.setMode mStep).put Reg.CHIP_MODE_AT_REST 1) 3 0x030B [(8, 1, 1), (24, 8, 1099511627776)] false
     0), 0, (tk 0x030B [(8, 1, 1), (24, 8, 1099511627776)] false 0), ?_⟩
    unfold State.turn
    dsimp only
    decide +kernel
  · refine ⟨(((sImage.setMode mStep).put Reg.CHIP_MODE_AT_REST 1).onBox 3 (fun b => { b with taken := [({ tk 0x030B [(8, 1, 1)] true 0 with cut := true } : Taken)] })),
     ({ tk 0x030B [(8, 1, 1)] true 0 with cut := true } : Taken), ?_⟩
    unfold State.due
    dsimp only
    decide +kernel
  · refine ⟨(given ((({ sHost with chip := { State.reset.chip with regions := [⟨1, 2, 1, 0, 0, 3, true⟩] } } : State).put
     (Reg.GD_CH_STAT_STATE 0) gReady).onChan 0 (fun m => { m with dyn := [⟨0, none, none, 0, 32, false, [], [], false, false, false⟩] }))
     3 0x030B [(12, 4, 1)] true 0), (tk 0x030B [(12, 4, 1)] true 0), ?_⟩
    unfold State.due
    dsimp only
    decide +kernel
  · refine ⟨(given sHost 3 0x030B [(8, 1, 1)] true 0), (tk 0x030B [(8, 1, 1)] true 0), ⟨1, []⟩, (errResp 5 1 0 0), ?_⟩
    unfold State.due
    dsimp only
    decide +kernel
  · refine ⟨(given sHost 3 0x030B [(8, 1, 1)] true 0), (tk 0x030B [(8, 1, 1)] true 0), ⟨0, []⟩, ?_⟩
    unfold State.due
    dsimp only
    decide +kernel
  · refine ⟨(given sHost 3 0x030B [] true 0), (tk 0x030B [] true 0), ?_⟩
    unfold State.due
    dsimp only
    decide +kernel

/-- `Obligations.DiagnosticCommandsAct`: its hypotheses can hold, clause by clause (part 1 of 2). -/
theorem wit_DiagnosticCommandsAct :
    (∃ (s : State), ∃ (i : Nat), ∃ (c : Taken), s.turn 0 0x0901 i c ∧ s.mayMaster = false) ∧
    (∃ (s : State), ∃ (i : Nat), ∃ (c : Taken), s.turn 0 0x0901 i c ∧ s.mayMaster = true) ∧
    (∃ (s : State), ∃ (i : Nat), ∃ (c : Taken), s.turn 0 0x0902 i c ∧ s.on Reg.SB_STAT_FROZEN = false) ∧
    (∃ (s : State), ∃ (i : Nat), ∃ (c : Taken), s.turn 0 0x0902 i c ∧ s.on Reg.SB_STAT_FROZEN = true) ∧
    (∃ (s : State), ∃ (i : Nat), ∃ (c : Taken), ∃ (m : Option (Fin 1024 × Fin 4)),
     let d := c.desc;
     s.turn 0 0x0903 i c ∧ (m = none ∨ s.rateSum (fieldOf d 8 1) (fieldOf d 10 1) = 0)) ∧
    (∃ (s : State), ∃ (i : Nat), ∃ (c : Taken),
     let d := c.desc;
     s.turn 0 0x0903 i c ∧ s.rateSum (fieldOf d 8 1) (fieldOf d 10 1) ≠ 0) ∧
    (∃ (s : State), ∃ (i : Nat), ∃ (c : Taken),
     let d := c.desc;
     s.turn 0 0x0904 i c ∧
     let q := fieldOf d 9 1;
     bit q 7 = true) ∧
    (∃ (s : State), ∃ (i : Nat), ∃ (c : Taken),
     let d := c.desc;
     s.turn 0 0x0904 i c ∧
     let q := fieldOf d 9 1;
     bit q 7 = false ∧ bits q 3 2 ≠ 3) ∧
    (∃ (s : State), ∃ (i : Nat), ∃ (c : Taken),
     let d := c.desc;
     s.turn 0 0x0904 i c ∧
     let q := fieldOf d 9 1;
     let h := fieldOf d 20 4;
     bit q 7 = false ∧ bits q 3 2 = 3 ∧ s.hostRegion h kProbe = none) ∧
    (∃ (s : State), ∃ (i : Nat), ∃ (c : Taken), ∃ r,
     let d := c.desc;
     s.turn 0 0x0904 i c ∧
     let q := fieldOf d 9 1;
     let h := fieldOf d 20 4;
     bit q 7 = false ∧ bits q 3 2 = 3 ∧ s.hostRegion h kProbe = some r) ∧
    (∃ (s : State), ∃ (i : Nat), ∃ (c : Taken),
     let d := c.desc;
     s.turn 0 0x0905 i c ∧ fieldOf d 8 1 ≠ 2) ∧
    (∃ (s : State), ∃ (i : Nat), ∃ (c : Taken),
     let d := c.desc;
     s.turn 0 0x0905 i c ∧
     let h := fieldOf d 12 4;
     fieldOf d 8 1 = 2 ∧ s.hostRegion h kTrace = none) ∧
    (∃ (s : State), ∃ (i : Nat), ∃ (c : Taken), ∃ r,
     let d := c.desc;
     s.turn 0 0x0905 i c ∧
     let h := fieldOf d 12 4;
     fieldOf d 8 1 = 2 ∧ s.hostRegion h kTrace = some r ∧ r.n = 1) ∧
    (∃ (s : State), ∃ (i : Nat), ∃ (c : Taken), ∃ r,
     let d := c.desc;
     s.turn 0 0x0905 i c ∧
     let h := fieldOf d 12 4;
     fieldOf d 8 1 = 2 ∧ s.hostRegion h kTrace = some r ∧ r.n ≠ 1) ∧
    (∃ (s : State), ∃ (i : Nat), ∃ (c : Taken),
     let d := c.desc;
     s.turn 0 0x0906 i c ∧
     let t := fieldOf d 8 2;
     t ∈ s.usedTeams) ∧
    (∃ (s : State), ∃ (i : Nat), ∃ (c : Taken),
     let d := c.desc;
     s.turn 0 0x0906 i c ∧
     let t := fieldOf d 8 2;
     let off : Prop := s.get (Reg.TEAM_PWR_STATE t) = 0 ∧ s.on (Reg.TEAM_PWR_EN t) = false;
     t ∉ s.usedTeams ∧ fieldOf d 10 1 = 0 ∧ off) := by
  refine ⟨?_, ?_, ?_, ?_, ?_, ?_, ?_, ?_, ?_, ?_, ?_, ?_, ?_, ?_, ?_, ?_⟩
  · refine ⟨(given ({ sHost with pcie.busMaster := false } : State) 0 0x0901 [] false 0), 0, (tk 0x0901 [] false 0), ?_⟩
    unfold State.turn
    decide +kernel
  · refine ⟨(given ({ sHost with pcie.busMaster := true } : State) 0 0x0901 [] false 0), 0, (tk 0x0901 [] false 0), ?_⟩
    unfold State.turn
    decide +kernel
  · refine ⟨(given (sHost.put Reg.SB_STAT_FROZEN 0) 0 0x0902 [] false 0), 0, (tk 0x0902 [] false 0), ?_⟩
    unfold State.turn
    decide +kernel
  · refine ⟨(given (sHost.put Reg.SB_STAT_FROZEN 1) 0 0x0902 [] false 0), 0, (tk 0x0902 [] false 0), ?_⟩
    unfold State.turn
    decide +kernel
  · refine ⟨(given sHost 0 0x0903 [] false 0), 0, (tk 0x0903 [] false 0), none, ?_⟩
    unfold State.turn
    dsimp only
    decide +kernel
  · refine ⟨(given sHost 0 0x0903 [(10, 1, 200)] false 0), 0, (tk 0x0903 [(10, 1, 200)] false 0), ?_⟩
    unfold State.turn
    dsimp only
    decide +kernel
  · refine ⟨(given sHost 0 0x0904 [(9, 1, 128)] false 0), 0, (tk 0x0904 [(9, 1, 128)] false 0), ?_⟩
    unfold State.turn
    dsimp only
    decide +kernel
  · refine ⟨(given sHost 0 0x0904 [] false 0), 0, (tk 0x0904 [] false 0), ?_⟩
    unfold State.turn
    dsimp only
    decide +kernel
  · refine ⟨(given sHost 0 0x0904 [(9, 1, 12), (20, 4, 9)] false 0), 0, (tk 0x0904 [(9, 1, 12), (20, 4, 9)] false 0), ?_⟩
    unfold State.turn
    dsimp only
    decide +kernel
  · refine ⟨(given ({ sHost with chip := { State.reset.chip with regions := [⟨1, 4, 1, 0, 0, 1, true⟩] } } : State) 0 0x0904
     [(9, 1, 12), (20, 4, 1)] false 0), 0, (tk 0x0904 [(9, 1, 12), (20, 4, 1)] false 0), ⟨1, 4, 1, 0, 0, 1, true⟩, ?_⟩
    unfold State.turn
    dsimp only
    decide +kernel
  · refine ⟨(given sHost 0 0x0905 [] false 0), 0, (tk 0x0905 [] false 0), ?_⟩
    unfold State.turn
    dsimp only
    decide +kernel
  · refine ⟨(given sHost 0 0x0905 [(8, 1, 2)] false 0), 0, (tk 0x0905 [(8, 1, 2)] false 0), ?_⟩
    unfold State.turn
    dsimp only
    decide +kernel
  · refine ⟨(given ({ sHost with chip := { State.reset.chip with regions := [⟨1, 3, 1, 0, 0, 1, true⟩] } } : State) 0 0x0905
     [(8, 1, 2), (12, 4, 1)] false 0), 0, (tk 0x0905 [(8, 1, 2), (12, 4, 1)] false 0), ⟨1, 3, 1, 0, 0, 1, true⟩, ?_⟩
    unfold State.turn
    dsimp only
    decide +kernel
  · refine ⟨(given ({ sHost with chip := { State.reset.chip with regions := [⟨1, 3, 2, 0, 0, 1, true⟩] } } : State) 0 0x0905
     [(8, 1, 2), (12, 4, 1)] false 0), 0, (tk 0x0905 [(8, 1, 2), (12, 4, 1)] false 0), ⟨1, 3, 2, 0, 0, 1, true⟩, ?_⟩
    unfold State.turn
    dsimp only
    decide +kernel
  · refine ⟨(given ({ sHost with chip := { State.reset.chip with image := some { noImage with teams := [0] } } } : State) 0
     0x0906 [] false 0), 0, (tk 0x0906 [] false 0), ?_⟩
    unfold State.turn
    dsimp only
    decide +kernel
  · refine ⟨(given ((sHost.put (Reg.TEAM_PWR_STATE (fieldOf ((tk 0x0906 [(10, 1, 0)] false 0) : Taken).desc 8 2)) 0).put
     (Reg.TEAM_PWR_EN (fieldOf ((tk 0x0906 [(10, 1, 0)] false 0) : Taken).desc 8 2)) 0) 0 0x0906 [(10, 1, 0)] false 0), 0,
     (tk 0x0906 [(10, 1, 0)] false 0), ?_⟩
    unfold State.turn
    dsimp only
    decide +kernel

/-- `Obligations.DiagnosticCommandsAct`: its hypotheses can hold, clause by clause (part 2 of 2). -/
theorem wit_DiagnosticCommandsAct_2 :
    (∃ (s : State), ∃ (i : Nat), ∃ (c : Taken),
     let d := c.desc;
     s.turn 0 0x0906 i c ∧
     let t := fieldOf d 8 2;
     let off : Prop := s.get (Reg.TEAM_PWR_STATE t) = 0 ∧ s.on (Reg.TEAM_PWR_EN t) = false;
     t ∉ s.usedTeams ∧ fieldOf d 10 1 = 0 ∧ ¬ off) ∧
    (∃ (s : State), ∃ (i : Nat), ∃ (c : Taken),
     let d := c.desc;
     s.turn 0 0x0906 i c ∧
     let t := fieldOf d 8 2;
     let up : Prop := s.get (Reg.TEAM_PWR_STATE t) = 1 ∧ s.on (Reg.TEAM_PWR_EN t) = true;
     t ∉ s.usedTeams ∧ fieldOf d 10 1 ≠ 0 ∧ up) ∧
    (∃ (s : State), ∃ (i : Nat), ∃ (c : Taken),
     let d := c.desc;
     s.turn 0 0x0906 i c ∧
     let t := fieldOf d 8 2;
     let up : Prop := s.get (Reg.TEAM_PWR_STATE t) = 1 ∧ s.on (Reg.TEAM_PWR_EN t) = true;
     t ∉ s.usedTeams ∧ fieldOf d 10 1 ≠ 0 ∧ ¬ up) ∧
    (∃ (s : State), ∃ (c : Taken),
     let d := c.desc;
     s.due 0 0x0906 c ∧
     let t := fieldOf d 8 2;
     (s.team t).switching = true) ∧
    (∃ (s : State), ∃ (c : Taken),
     let d := c.desc;
     s.due 0 0x0906 c ∧
     let t := fieldOf d 8 2;
     let st := s.get (Reg.TEAM_PWR_STATE t);
     (s.team t).switching = false ∧ fieldOf d 10 1 = 1 ∧ st = 1) ∧
    (∃ (s : State), ∃ (c : Taken),
     let d := c.desc;
     s.due 0 0x0906 c ∧
     let t := fieldOf d 8 2;
     let st := s.get (Reg.TEAM_PWR_STATE t);
     (s.team t).switching = false ∧ fieldOf d 10 1 = 1 ∧ st ≠ 1) ∧
    (∃ (s : State), ∃ (c : Taken),
     let d := c.desc;
     s.due 0 0x0906 c ∧
     let t := fieldOf d 8 2;
     let st := s.get (Reg.TEAM_PWR_STATE t);
     (s.team t).switching = false ∧ fieldOf d 10 1 ≠ 1 ∧ st = 0) ∧
    (∃ (s : State), ∃ (c : Taken),
     let d := c.desc;
     s.due 0 0x0906 c ∧
     let t := fieldOf d 8 2;
     let st := s.get (Reg.TEAM_PWR_STATE t);
     (s.team t).switching = false ∧ fieldOf d 10 1 ≠ 1 ∧ st ≠ 0) ∧
    (∃ (s : State), ∃ (i : Nat), ∃ (c : Taken), s.turn 0 0x0907 i c ∧ s.pollStarted 0 0x0907 State.debugPoll = none ∧
     s.debugHub = none) ∧
    (∃ (s : State), ∃ (i : Nat), ∃ (c : Taken), ∃ h, s.turn 0 0x0907 i c ∧ s.pollStarted 0 0x0907 State.debugPoll = none ∧
     s.debugHub = some h) ∧
    (∃ (s : State), ∃ (c : Taken), s.due 0 0x0907 c ∧ s.debugHub = none) ∧
    (∃ (s : State), ∃ (c : Taken), ∃ h, s.due 0 0x0907 c ∧ s.debugHub = some h ∧
     let mine (p : Packet) := isCpl p && pTAG p == c.note && c.note != 0;
     (s.router h).boxA.findIdx? mine = none) ∧
    (∃ (s : State), ∃ (c : Taken), ∃ h, ∃ k, ∃ p, s.due 0 0x0907 c ∧ s.debugHub = some h ∧
     let mine (p : Packet) := isCpl p && pTAG p == c.note && c.note != 0;
     (s.router h).boxA.findIdx? mine = some k ∧ (s.router h).boxA[k]? = some p) := by
  refine ⟨?_, ?_, ?_, ?_, ?_, ?_, ?_, ?_, ?_, ?_, ?_, ?_, ?_⟩
  · refine ⟨(given (sHost.put (Reg.TEAM_PWR_STATE (fieldOf ((tk 0x0906 [(10, 1, 0)] false 0) : Taken).desc 8 2)) 1) 0 0x0906
     [(10, 1, 0)] false 0), 0, (tk 0x0906 [(10, 1, 0)] false 0), ?_⟩
    unfold State.turn
    dsimp only
    decide +kernel
  · refine ⟨(given ((sHost.put (Reg.TEAM_PWR_STATE (fieldOf ((tk 0x0906 [(10, 1, 1)] false 0) : Taken).desc 8 2)) 1).put
     (Reg.TEAM_PWR_EN (fieldOf ((tk 0x0906 [(10, 1, 1)] false 0) : Taken).desc 8 2)) 1) 0 0x0906 [(10, 1, 1)] false 0), 0,
     (tk 0x0906 [(10, 1, 1)] false 0), ?_⟩
    unfold State.turn
    dsimp only
    decide +kernel
  · refine ⟨(given sHost 0 0x0906 [(10, 1, 1)] false 0), 0, (tk 0x0906 [(10, 1, 1)] false 0), ?_⟩
    unfold State.turn
    dsimp only
    decide +kernel
  · refine ⟨(given (sHost.onTeam (fieldOf ((tk 0x0906 [] true 0) : Taken).desc 8 2) (fun m => { m with switching := true }))
     0 0x0906 [] true 0), (tk 0x0906 [] true 0), ?_⟩
    unfold State.due
    dsimp only
    decide +kernel
  · refine ⟨(given ((sHost.onTeam (fieldOf ((tk 0x0906 [(10, 1, 1)] true 0) : Taken).desc 8 2) (fun m => { m with switching := false })).put
     (Reg.TEAM_PWR_STATE (fieldOf ((tk 0x0906 [(10, 1, 1)] true 0) : Taken).desc 8 2)) 1) 0 0x0906 [(10, 1, 1)] true 0), (tk
     0x0906 [(10, 1, 1)] true 0), ?_⟩
    unfold State.due
    dsimp only
    decide +kernel
  · refine ⟨(given (sHost.onTeam (fieldOf ((tk 0x0906 [(10, 1, 1)] true 0) : Taken).desc 8 2) (fun m => { m with switching := false }))
     0 0x0906 [(10, 1, 1)] true 0), (tk 0x0906 [(10, 1, 1)] true 0), ?_⟩
    unfold State.due
    dsimp only
    decide +kernel
  · refine ⟨(given ((sHost.onTeam (fieldOf ((tk 0x0906 [] true 0) : Taken).desc 8 2) (fun m => { m with switching := false })).put
     (Reg.TEAM_PWR_STATE (fieldOf ((tk 0x0906 [] true 0) : Taken).desc 8 2)) 0) 0 0x0906 [] true 0), (tk 0x0906 [] true 0),
     ?_⟩
    unfold State.due
    dsimp only
    decide +kernel
  · refine ⟨(given ((sHost.onTeam (fieldOf ((tk 0x0906 [] true 0) : Taken).desc 8 2) (fun m => { m with switching := false })).put
     (Reg.TEAM_PWR_STATE (fieldOf ((tk 0x0906 [] true 0) : Taken).desc 8 2)) 1) 0 0x0906 [] true 0), (tk 0x0906 [] true 0),
     ?_⟩
    unfold State.due
    dsimp only
    decide +kernel
  · refine ⟨(given sHost 0 0x0907 [] false 0), 0, (tk 0x0907 [] false 0), ?_⟩
    unfold State.turn
    decide +kernel
  · refine ⟨(given (sHost.put (Reg.RTR_SITE_VALID 32) 1) 0 0x0907 [] false 0), 0, (tk 0x0907 [] false 0), 0, ?_⟩
    unfold State.turn
    decide +kernel
  · refine ⟨(given sHost 0 0x0907 [] true 0), (tk 0x0907 [] true 0), ?_⟩
    unfold State.due
    decide +kernel
  · refine ⟨(given (sHost.put (Reg.RTR_SITE_VALID 32) 1) 0 0x0907 [] true 1), (tk 0x0907 [] true 1), 0, ?_⟩
    unfold State.due
    dsimp only
    decide +kernel
  · refine ⟨(given ((sHost.put (Reg.RTR_SITE_VALID 32) 1).onRouter 0 (fun m => { m with boxA := [⟨BitVec.ofNat 120 (2 * 2 ^ 113 + 1 * 2 ^ 84), []⟩] }))
     0 0x0907 [] true 1), (tk 0x0907 [] true 1), 0, 0, ⟨BitVec.ofNat 120 (2 * 2 ^ 113 + 1 * 2 ^ 84), []⟩, ?_⟩
    unfold State.due
    dsimp only
    decide +kernel

/-- `Obligations.SecurityActs`: its hypotheses can hold, clause by clause. -/
theorem wit_SecurityActs :
    (∃ (s : State), ∃ (i : Nat), ∃ (c : Taken), s.turn 0 0x0A01 i c) ∧
    (∃ (s : State), ∃ (i : Nat), ∃ (c : Taken),
     let d := c.desc;
     s.turn 0 0x0A02 i c ∧
     let kept : Prop := s.fuses.lifecycle = 2 ∧ s.slotFull (fieldOf d 8 1) = true;
     kept) ∧
    (∃ (s : State), ∃ (i : Nat), ∃ (c : Taken),
     let d := c.desc;
     s.turn 0 0x0A02 i c ∧
     let kept : Prop := s.fuses.lifecycle = 2 ∧ s.slotFull (fieldOf d 8 1) = true;
     ¬ kept) ∧
    (∃ (s : State), ∃ (i : Nat), ∃ (c : Taken),
     let d := c.desc;
     s.turn 0 0x0A03 i c ∧
     let t := fieldOf d 8 1;
     let old : Prop := fieldOf d 10 2 ≠ 0 ∧ fieldOf d 10 2 < s.fuses.minVersion;
     t = s.fuses.lifecycle + 1 ∧ ¬ old) ∧
    (∃ (s : State), ∃ (i : Nat), ∃ (c : Taken),
     let d := c.desc;
     s.turn 0 0x0A03 i c ∧
     let t := fieldOf d 8 1;
     let old : Prop := fieldOf d 10 2 ≠ 0 ∧ fieldOf d 10 2 < s.fuses.minVersion;
     t = s.fuses.lifecycle + 1 ∧ old) ∧
    (∃ (s : State), ∃ (i : Nat), ∃ (c : Taken),
     let d := c.desc;
     s.turn 0 0x0A03 i c ∧
     let t := fieldOf d 8 1;
     t ≠ s.fuses.lifecycle + 1) ∧
    (∃ (s : State), ∃ (i : Nat), ∃ (c : Taken), ∃ (dma : HostDma), ∃ r, s.turn 0 0x0A04 i c ∧ s.dmaBad dma = some r) ∧
    (∃ (s : State), ∃ (i : Nat), ∃ (c : Taken), ∃ (dma : HostDma), s.turn 0 0x0A04 i c ∧ s.dmaBad dma = none) ∧
    (∃ (s : State), ∃ (mask : BitVec 4), ∃ (b : Bool), mask ≠ 0 ∧ (b = false ∨ s.advanceDue = none)) ∧
    (∃ (s : State), ∃ (mask : BitVec 4), ∃ (b : Bool), ∃ d, mask ≠ 0 ∧ b = true ∧ s.advanceDue = some d) := by
  refine ⟨?_, ?_, ?_, ?_, ?_, ?_, ?_, ?_, ?_, ?_⟩
  · refine ⟨(given sHost 0 0x0A01 [] false 0), 0, (tk 0x0A01 [] false 0), ?_⟩
    unfold State.turn
    decide +kernel
  · refine ⟨(given (({ sHost with fuses := { Fuses.reset with lifecycle := 2 } } : State).put Reg.SEC_STAT_SLOTS 1) 0 0x0A02
     [] false 0), 0, (tk 0x0A02 [] false 0), ?_⟩
    unfold State.turn
    dsimp only
    decide +kernel
  · refine ⟨(given sHost 0 0x0A02 [] false 0), 0, (tk 0x0A02 [] false 0), ?_⟩
    unfold State.turn
    dsimp only
    decide +kernel
  · refine ⟨(given sHost 0 0x0A03 [(8, 1, 2)] false 0), 0, (tk 0x0A03 [(8, 1, 2)] false 0), ?_⟩
    unfold State.turn
    dsimp only
    decide +kernel
  · refine ⟨(given ({ sHost with fuses := { Fuses.reset with lifecycle := 1, minVersion := 5 } } : State) 0 0x0A03 [(8, 1,
     2), (10, 2, 3)] false 0), 0, (tk 0x0A03 [(8, 1, 2), (10, 2, 3)] false 0), ?_⟩
    unfold State.turn
    dsimp only
    decide +kernel
  · refine ⟨(given sHost 0 0x0A03 [] false 0), 0, (tk 0x0A03 [] false 0), ?_⟩
    unfold State.turn
    dsimp only
    decide +kernel
  · refine ⟨(given sHost 0 0x0A04 [] false 0), 0, (tk 0x0A04 [] false 0), ⟨1, []⟩, (errResp 5 1 0 0), ?_⟩
    unfold State.turn
    decide +kernel
  · refine ⟨(given sHost 0 0x0A04 [] false 0), 0, (tk 0x0A04 [] false 0), ⟨0, []⟩, ?_⟩
    unfold State.turn
    decide +kernel
  · refine ⟨State.reset, 1, false, ?_⟩
    decide +kernel
  · refine ⟨(given sHost 0 0x0A03 [(8, 1, 2)] false 0), 1#4, true, ((tk 0x0A03 [(8, 1, 2)] false 0)).desc, ?_⟩
    decide +kernel

/-! ### Witnesses: Trace, resets, clocks and power -/

/-- `Obligations.GroomTraceIsWritten`: its hypotheses can hold, clause by clause (part 1 of 2). -/
theorem wit_GroomTraceIsWritten :
    (∃ (g : Fin 4), ∃ (s : State),
     let r := s.tracer g;
     let busy : Prop := s.traced g = true ∧ r.asleep = false;
     busy ∧ r.atoms.length ≠ 7) ∧
    (∃ (g : Fin 4), ∃ (s : State),
     let r := s.tracer g;
     let busy : Prop := s.traced g = true ∧ r.asleep = false;
     busy ∧ r.atoms.length = 7) ∧
    (∃ (g : Fin 4), ∃ (s : State),
     let r := s.tracer g;
     let busy : Prop := s.traced g = true ∧ r.asleep = false;
     busy) ∧
    (∃ (g : Fin 4), ∃ (s : State),
     let r := s.tracer g;
     let busy : Prop := s.traced g = true ∧ r.asleep = false;
     ¬ busy) ∧
    (∃ (g : Fin 4), ∃ (s : State),
     let r := s.tracer g;
     r.asleep = false) ∧
    (∃ (g : Fin 4), ∃ (s : State),
     let r := s.tracer g;
     r.asleep = true ∧ s.traced g = true) ∧
    (∃ (g : Fin 4), ∃ (s : State),
     let r := s.tracer g;
     r.asleep = true ∧ s.traced g = false) ∧
    (∃ (g : Fin 4), ∃ (s : State),
     let r := s.tracer g;
     let busy : Prop := s.traced g = true ∧ r.asleep = false;
     let may : Prop := r.dropping = true ∧ busy ∧ s.trace.stopped = false ∧ resumeAt (s.trcPri g) ≤ s.trcFree;
     may) ∧
    (∃ (g : Fin 4), ∃ (s : State),
     let r := s.tracer g;
     let busy : Prop := s.traced g = true ∧ r.asleep = false;
     let may : Prop := r.dropping = true ∧ busy ∧ s.trace.stopped = false ∧ resumeAt (s.trcPri g) ≤ s.trcFree;
     ¬ may) ∧
    (∃ (s : State),
     let sink := s.get Reg.GRM_TRC_CTL_SINK;
     (sink = 0 ∨ sink = 3)) ∧
    (∃ (s : State), ∃ (aged : Bool),
     let sink := s.get Reg.GRM_TRC_CTL_SINK;
     let x := s.drainBlock (s.get Reg.GRM_TRC_WPTR_OFFSET) (s.on Reg.GRM_TRC_STAT_WRAPPED) 8192;
     let none_ : Prop := x.get Reg.GRM_TRC_WPTR_OFFSET = s.get Reg.GRM_TRC_WPTR_OFFSET ∧ x.on Reg.GRM_TRC_STAT_WRAPPED = s.on Reg.GRM_TRC_STAT_WRAPPED;
     (sink = 1 ∨ sink = 2) ∧ none_ ∧ aged = true) ∧
    (∃ (s : State), ∃ (aged : Bool),
     let sink := s.get Reg.GRM_TRC_CTL_SINK;
     let x := s.drainBlock (s.get Reg.GRM_TRC_WPTR_OFFSET) (s.on Reg.GRM_TRC_STAT_WRAPPED) 8192;
     let none_ : Prop := x.get Reg.GRM_TRC_WPTR_OFFSET = s.get Reg.GRM_TRC_WPTR_OFFSET ∧ x.on Reg.GRM_TRC_STAT_WRAPPED = s.on Reg.GRM_TRC_STAT_WRAPPED;
     (sink = 1 ∨ sink = 2) ∧ ¬ (none_ ∧ aged = true)) ∧
    (∃ (s : State), s.get Reg.GRM_TRC_CTL_SINK = 2 ∧ s.trace.fifo = []) ∧
    (∃ (s : State), s.trace.stopped = true) ∧
    (∃ (g : Fin 4), ∃ (s : State), ∃ (bs : List Byte),
     let r := s.tracer g;
     let full : Prop := r.dropping = true ∨ s.trcFree < dropBelow (s.trcPri g) bs.length;
     s.trace.stopped = false ∧ full) ∧
    (∃ (g : Fin 4), ∃ (s : State), ∃ (bs : List Byte),
     let r := s.tracer g;
     let full : Prop := r.dropping = true ∨ s.trcFree < dropBelow (s.trcPri g) bs.length;
     s.trace.stopped = false ∧ ¬ full) := by
  refine ⟨?_, ?_, ?_, ?_, ?_, ?_, ?_, ?_, ?_, ?_, ?_, ?_, ?_, ?_, ?_, ?_⟩
  · refine ⟨0, (State.reset.put Reg.GRM_TRC_CTL_GEN 1), ?_⟩
    dsimp only
    decide +kernel
  · refine ⟨0, ((State.reset.put Reg.GRM_TRC_CTL_GEN 1).setTracer 0 { Tracer.reset with atoms := [true, true, true, true, true, true, true] }),
     ?_⟩
    dsimp only
    decide +kernel
  · refine ⟨0, (State.reset.put Reg.GRM_TRC_CTL_GEN 1), ?_⟩
    dsimp only
    decide +kernel
  · refine ⟨0, State.reset, ?_⟩
    dsimp only
    decide +kernel
  · refine ⟨0, (State.reset.onTracer (0 : Fin 4) (fun m => { m with asleep := false })), ?_⟩
    dsimp only
    decide +kernel
  · refine ⟨0, ((State.reset.put Reg.GRM_TRC_CTL_GEN 1).setTracer 0 { Tracer.reset with asleep := true }), ?_⟩
    dsimp only
    decide +kernel
  · refine ⟨0, (State.reset.onTracer (0 : Fin 4) (fun m => { m with asleep := true })), ?_⟩
    dsimp only
    decide +kernel
  · refine ⟨0, ((State.reset.put Reg.GRM_TRC_CTL_GEN 1).setTracer 0 { Tracer.reset with dropping := true }), ?_⟩
    dsimp only
    decide +kernel
  · refine ⟨0, (State.reset.onTracer (0 : Fin 4) (fun m => { m with dropping := false })), ?_⟩
    dsimp only
    decide +kernel
  · refine ⟨(State.reset.put Reg.GRM_TRC_CTL_SINK 0), ?_⟩
    dsimp only
    decide +kernel
  · refine ⟨(State.reset.put Reg.GRM_TRC_CTL_SINK 1), true, ?_⟩
    dsimp only
    decide +kernel
  · refine ⟨(State.reset.put Reg.GRM_TRC_CTL_SINK 1), false, ?_⟩
    dsimp only
    decide +kernel
  · refine ⟨({ (State.reset.put Reg.GRM_TRC_CTL_SINK 2) with trace.fifo := [] } : State), ?_⟩
    decide +kernel
  · refine ⟨({ State.reset with trace.stopped := true } : State), ?_⟩
    decide +kernel
  · refine ⟨0, (({ State.reset with trace.stopped := false } : State).onTracer (0 : Fin 4) (fun m => { m with dropping := true })),
     [], ?_⟩
    dsimp only
    decide +kernel
  · refine ⟨0, (({ State.reset with trace.stopped := false } : State).onTracer (0 : Fin 4) (fun m => { m with dropping := false })),
     [], ?_⟩
    dsimp only
    decide +kernel

/-- `Obligations.GroomTraceIsWritten`: its hypotheses can hold, clause by clause (part 2 of 2). -/
theorem wit_GroomTraceIsWritten_2 :
    (∃ (s : State), s.get Reg.GRM_TRC_CTL_GEN = 0) ∧
    (∃ (s : State), ∃ (v : Word),
     let other : Prop := bits v.toNat 1 0 ≠ s.get Reg.GRM_TRC_CTL_SINK ∨ bits v.toNat 16 16 ≠ s.get Reg.GRM_TRC_CTL_CYC_EN ∨ bits v.toNat 17 17 ≠ s.get Reg.GRM_TRC_CTL_WRAP;
     s.get Reg.GRM_TRC_CTL_GEN ≠ 0 ∧ other) ∧
    (∃ (s : State), ∃ (v : Word),
     let other : Prop := bits v.toNat 1 0 ≠ s.get Reg.GRM_TRC_CTL_SINK ∨ bits v.toNat 16 16 ≠ s.get Reg.GRM_TRC_CTL_CYC_EN ∨ bits v.toNat 17 17 ≠ s.get Reg.GRM_TRC_CTL_WRAP;
     s.get Reg.GRM_TRC_CTL_GEN ≠ 0 ∧ ¬ other) := by
  refine ⟨?_, ?_, ?_⟩
  · refine ⟨(State.reset.put Reg.GRM_TRC_CTL_GEN 0), ?_⟩
    decide +kernel
  · refine ⟨(State.reset.put Reg.GRM_TRC_CTL_GEN 1), 0, ?_⟩
    dsimp only
    decide +kernel
  · refine ⟨((((State.reset.put Reg.GRM_TRC_CTL_GEN 1).put Reg.GRM_TRC_CTL_SINK (bits (0 : Word).toNat 1 0)).put
     Reg.GRM_TRC_CTL_CYC_EN (bits (0 : Word).toNat 16 16)).put Reg.GRM_TRC_CTL_WRAP (bits (0 : Word).toNat 17 17)), 0, ?_⟩
    dsimp only
    decide +kernel

/-- `Obligations.ResetsAndBoot`: its hypotheses can hold, clause by clause. -/
theorem wit_ResetsAndBoot :
    (∃ (s : State),
     let goes : Prop := s.chip.inReset = false ∧ s.on Reg.CHIP_MODE_BOOT_DONE = false ∧ s.on Reg.CHIP_BOOT_FAILED = false ∧ s.chip.halted = false;
     ¬ goes) ∧
    (∃ (s : State),
     let goes : Prop := s.chip.inReset = false ∧ s.on Reg.CHIP_MODE_BOOT_DONE = false ∧ s.on Reg.CHIP_BOOT_FAILED = false ∧ s.chip.halted = false;
     let stage := s.get Reg.CHIP_BOOT_STAGE;
     goes ∧ stage = 0) ∧
    (∃ (s : State),
     let goes : Prop := s.chip.inReset = false ∧ s.on Reg.CHIP_MODE_BOOT_DONE = false ∧ s.on Reg.CHIP_BOOT_FAILED = false ∧ s.chip.halted = false;
     let stage := s.get Reg.CHIP_BOOT_STAGE;
     goes ∧ stage = 1) ∧
    (∃ (s : State), ∃ (b : BootIn),
     let goes : Prop := s.chip.inReset = false ∧ s.on Reg.CHIP_MODE_BOOT_DONE = false ∧ s.on Reg.CHIP_BOOT_FAILED = false ∧ s.chip.halted = false;
     let stage := s.get Reg.CHIP_BOOT_STAGE;
     goes ∧ stage = 2 ∧ b.flashOk = false) ∧
    (∃ (s : State), ∃ (b : BootIn),
     let goes : Prop := s.chip.inReset = false ∧ s.on Reg.CHIP_MODE_BOOT_DONE = false ∧ s.on Reg.CHIP_BOOT_FAILED = false ∧ s.chip.halted = false;
     let stage := s.get Reg.CHIP_BOOT_STAGE;
     goes ∧ stage = 2 ∧ b.flashOk = true ∧ bootHeaderOk b.header = false) ∧
    (∃ (s : State), ∃ (b : BootIn),
     let goes : Prop := s.chip.inReset = false ∧ s.on Reg.CHIP_MODE_BOOT_DONE = false ∧ s.on Reg.CHIP_BOOT_FAILED = false ∧ s.chip.halted = false;
     let stage := s.get Reg.CHIP_BOOT_STAGE;
     goes ∧ stage = 2 ∧ b.flashOk = true ∧ bootHeaderOk b.header = true) ∧
    (∃ (s : State), ∃ (b : BootIn),
     let goes : Prop := s.chip.inReset = false ∧ s.on Reg.CHIP_MODE_BOOT_DONE = false ∧ s.on Reg.CHIP_BOOT_FAILED = false ∧ s.chip.halted = false;
     let stage := s.get Reg.CHIP_BOOT_STAGE;
     goes ∧ stage = 3 ∧ b.groomsUp = false) ∧
    (∃ (s : State), ∃ (b : BootIn),
     let goes : Prop := s.chip.inReset = false ∧ s.on Reg.CHIP_MODE_BOOT_DONE = false ∧ s.on Reg.CHIP_BOOT_FAILED = false ∧ s.chip.halted = false;
     let stage := s.get Reg.CHIP_BOOT_STAGE;
     goes ∧ stage = 3 ∧ b.groomsUp = true) ∧
    (∃ (s : State),
     let goes : Prop := s.chip.inReset = false ∧ s.on Reg.CHIP_MODE_BOOT_DONE = false ∧ s.on Reg.CHIP_BOOT_FAILED = false ∧ s.chip.halted = false;
     let stage := s.get Reg.CHIP_BOOT_STAGE;
     goes ∧ stage = 4) ∧
    (∃ (s : State),
     let goes : Prop := s.chip.inReset = false ∧ s.on Reg.CHIP_MODE_BOOT_DONE = false ∧ s.on Reg.CHIP_BOOT_FAILED = false ∧ s.chip.halted = false;
     let stage := s.get Reg.CHIP_BOOT_STAGE;
     goes ∧ stage = 5) ∧
    (∃ (s : State),
     let goes : Prop := s.chip.inReset = false ∧ s.on Reg.CHIP_MODE_BOOT_DONE = false ∧ s.on Reg.CHIP_BOOT_FAILED = false ∧ s.chip.halted = false;
     let stage := s.get Reg.CHIP_BOOT_STAGE;
     goes ∧ 6 ≤ stage) ∧
    (∃ (s : State),
     let due : Prop := s.chip.warmReq ≠ 0 ∧ s.chip.halted = false ∧ s.chip.inReset = false ∧ (s.on Reg.CHIP_MODE_BOOT_DONE = true ∨ s.chip.warm = true) ∧ s.on Reg.CHIP_BOOT_FAILED = false;
     due) ∧
    (∃ (s : State),
     let due : Prop := s.chip.warmReq ≠ 0 ∧ s.chip.halted = false ∧ s.chip.inReset = false ∧ (s.on Reg.CHIP_MODE_BOOT_DONE = true ∨ s.chip.warm = true) ∧ s.on Reg.CHIP_BOOT_FAILED = false;
     ¬ due) := by
  refine ⟨?_, ?_, ?_, ?_, ?_, ?_, ?_, ?_, ?_, ?_, ?_, ?_, ?_⟩
  · refine ⟨({ State.reset with chip.inReset := true } : State), ?_⟩
    dsimp only
    decide +kernel
  · refine ⟨(({ ((({ State.reset with chip.inReset := false } : State).put Reg.CHIP_MODE_BOOT_DONE 0).put Reg.CHIP_BOOT_FAILED 0) with chip.halted := false }
     : State).put Reg.CHIP_BOOT_STAGE 0), ?_⟩
    dsimp only
    decide +kernel
  · refine ⟨(({ ((({ State.reset with chip.inReset := false } : State).put Reg.CHIP_MODE_BOOT_DONE 0).put Reg.CHIP_BOOT_FAILED 0) with chip.halted := false }
     : State).put Reg.CHIP_BOOT_STAGE 1), ?_⟩
    dsimp only
    decide +kernel
  · refine ⟨(({ ((({ State.reset with chip.inReset := false } : State).put Reg.CHIP_MODE_BOOT_DONE 0).put Reg.CHIP_BOOT_FAILED 0) with chip.halted := false }
     : State).put Reg.CHIP_BOOT_STAGE 2), ({ (⟨true, [], [], [], true, default⟩ : BootIn) with flashOk := false }), ?_⟩
    dsimp only
    decide +kernel
  · refine ⟨(({ ((({ State.reset with chip.inReset := false } : State).put Reg.CHIP_MODE_BOOT_DONE 0).put Reg.CHIP_BOOT_FAILED 0) with chip.halted := false }
     : State).put Reg.CHIP_BOOT_STAGE 2), ({ (⟨true, [], [], [], true, default⟩ : BootIn) with flashOk := true }), ?_⟩
    dsimp only
    decide +kernel
  · refine ⟨(State.reset.put Reg.CHIP_BOOT_STAGE 2), ⟨true, (leBytes 4 0x544F4F42 ++ leBytes 2 1 ++ List.replicate 54 0#8)
     ++ leBytes 4 (crc32 (leBytes 4 0x544F4F42 ++ leBytes 2 1 ++ List.replicate 54 0#8)).toNat, [], [], true, default⟩, ?_⟩
    dsimp only
    decide +kernel
  · refine ⟨(({ ((({ State.reset with chip.inReset := false } : State).put Reg.CHIP_MODE_BOOT_DONE 0).put Reg.CHIP_BOOT_FAILED 0) with chip.halted := false }
     : State).put Reg.CHIP_BOOT_STAGE 3), ({ (⟨true, [], [], [], true, default⟩ : BootIn) with groomsUp := false }), ?_⟩
    dsimp only
    decide +kernel
  · refine ⟨(({ ((({ State.reset with chip.inReset := false } : State).put Reg.CHIP_MODE_BOOT_DONE 0).put Reg.CHIP_BOOT_FAILED 0) with chip.halted := false }
     : State).put Reg.CHIP_BOOT_STAGE 3), ({ (⟨true, [], [], [], true, default⟩ : BootIn) with groomsUp := true }), ?_⟩
    dsimp only
    decide +kernel
  · refine ⟨(({ ((({ State.reset with chip.inReset := false } : State).put Reg.CHIP_MODE_BOOT_DONE 0).put Reg.CHIP_BOOT_FAILED 0) with chip.halted := false }
     : State).put Reg.CHIP_BOOT_STAGE 4), ?_⟩
    dsimp only
    decide +kernel
  · refine ⟨(({ ((({ State.reset with chip.inReset := false } : State).put Reg.CHIP_MODE_BOOT_DONE 0).put Reg.CHIP_BOOT_FAILED 0) with chip.halted := false }
     : State).put Reg.CHIP_BOOT_STAGE 5), ?_⟩
    dsimp only
    decide +kernel
  · refine ⟨(({ ((({ State.reset with chip.inReset := false } : State).put Reg.CHIP_MODE_BOOT_DONE 0).put Reg.CHIP_BOOT_FAILED 0) with chip.halted := false }
     : State).put Reg.CHIP_BOOT_STAGE 6), ?_⟩
    dsimp only
    decide +kernel
  · refine ⟨((({ ({ ({ State.reset with chip.warmReq := 1 } : State) with chip.halted := false } : State) with chip.inReset := false }
     : State).put Reg.CHIP_MODE_BOOT_DONE 1).put Reg.CHIP_BOOT_FAILED 0), ?_⟩
    dsimp only
    decide +kernel
  · refine ⟨({ State.reset with chip.warmReq := 0 } : State), ?_⟩
    dsimp only
    decide +kernel

/-- `Obligations.CrossingsAndTeamPower`: its hypotheses can hold, clause by clause. -/
theorem wit_CrossingsAndTeamPower :
    (∃ (s : State), ∃ (cls : Fin 10), ∃ (idx : BitVec 16), ∃ (dead : ClockDomain), s.monitored cls idx.toNat dead = false) ∧
    (∃ (s : State), ∃ (cls : Fin 10), ∃ (idx : BitVec 16), ∃ (dead : ClockDomain), s.monitored cls idx.toNat dead = true) ∧
    (∃ (s : State), ∃ (t : Fin 1024), s.on (Reg.RTR_CTL_ISOLATE t) = true) ∧
    (∃ (s : State), ∃ (t : Fin 1024), s.nTeams ≤ t.val) ∧
    (∃ (s : State), ∃ (t : Fin 1024), ∃ (v : Word), t.val < s.nTeams ∧
     let en := v.getLsbD 0;
     let x := if v.getLsbD 3 then s.clr (Reg.TEAM_PWR_PWR_REFUSED t) else s;
     let was := x.on (Reg.TEAM_PWR_EN t);
     en = was) ∧
    (∃ (s : State), ∃ (t : Fin 1024), ∃ (v : Word), t.val < s.nTeams ∧
     let en := v.getLsbD 0;
     let x := if v.getLsbD 3 then s.clr (Reg.TEAM_PWR_PWR_REFUSED t) else s;
     let was := x.on (Reg.TEAM_PWR_EN t);
     en = true ∧ was = false) ∧
    (∃ (s : State), ∃ (t : Fin 1024), ∃ (v : Word), t.val < s.nTeams ∧
     let en := v.getLsbD 0;
     let x := if v.getLsbD 3 then s.clr (Reg.TEAM_PWR_PWR_REFUSED t) else s;
     let was := x.on (Reg.TEAM_PWR_EN t);
     let iso := x.on (Reg.RTR_CTL_ISOLATE t);
     en = false ∧ was = true ∧ iso = true) ∧
    (∃ (s : State), ∃ (t : Fin 1024), ∃ (v : Word), t.val < s.nTeams ∧
     let en := v.getLsbD 0;
     let x := if v.getLsbD 3 then s.clr (Reg.TEAM_PWR_PWR_REFUSED t) else s;
     let was := x.on (Reg.TEAM_PWR_EN t);
     let iso := x.on (Reg.RTR_CTL_ISOLATE t);
     en = false ∧ was = true ∧ iso = false) ∧
    (∃ (s : State), ∃ (t : Fin 1024), t.val < s.nTeams ∧ (s.team t).switching = true ∧ s.on (Reg.TEAM_PWR_EN t) = true) ∧
    (∃ (s : State), ∃ (t : Fin 1024), t.val < s.nTeams ∧ (s.team t).switching = true ∧ s.on (Reg.TEAM_PWR_EN t) = false) ∧
    (∃ (s : State), ∃ (t : Fin 1024), t.val < s.nTeams ∧ (s.team t).switching = false) := by
  refine ⟨?_, ?_, ?_, ?_, ?_, ?_, ?_, ?_, ?_, ?_, ?_⟩
  · refine ⟨(State.reset.put (Reg.RTR_CTL_ISOLATE 0) 1), 0, 0, .other, ?_⟩
    decide +kernel
  · refine ⟨State.reset, 0, 0, .other, ?_⟩
    decide +kernel
  · refine ⟨(State.reset.put (Reg.RTR_CTL_ISOLATE (0 : Fin 1024)) 1), 0, ?_⟩
    decide +kernel
  · refine ⟨({ State.reset with fuses := { Fuses.reset with small := true } } : State), 800, ?_⟩
    decide +kernel
  · refine ⟨State.reset, 0, 0, ?_⟩
    dsimp only
    decide +kernel
  · refine ⟨State.reset, 0, 1, ?_⟩
    dsimp only
    decide +kernel
  · refine ⟨((State.reset.put (Reg.TEAM_PWR_EN 0) 1).put (Reg.RTR_CTL_ISOLATE 0) 1), 0, 0#32, ?_⟩
    dsimp only
    decide +kernel
  · refine ⟨((State.reset.put (Reg.TEAM_PWR_EN 0) 1).put (Reg.RTR_CTL_ISOLATE 0) 0), 0, 0#32, ?_⟩
    dsimp only
    decide +kernel
  · refine ⟨((State.reset.onTeam (0 : Fin 1024) (fun m => { m with switching := true })).put (Reg.TEAM_PWR_EN (0 : Fin
     1024)) 1), 0, ?_⟩
    decide +kernel
  · refine ⟨((State.reset.onTeam (0 : Fin 1024) (fun m => { m with switching := true })).put (Reg.TEAM_PWR_EN (0 : Fin
     1024)) 0), 0, ?_⟩
    decide +kernel
  · refine ⟨(State.reset.onTeam (0 : Fin 1024) (fun m => { m with switching := false })), 0, ?_⟩
    decide +kernel

/-- `Obligations.ClocksTemperatureAndWatchdogs`: its hypotheses can hold, clause by clause (part 1 of 2). -/
theorem wit_ClocksTemperatureAndWatchdogs :
    (∃ (s : State), ∃ (k : RefClk), s.on (refOk k) = true) ∧
    (∃ (s : State), s.on (refOk .sys) = true ∧ s.chip.halted = false) ∧
    (∃ (s : State), ∃ (k : RefClk), s.on (refOk k) = false) ∧
    (∃ (s : State), s.on Reg.CHIP_CLK_STAT_LREF_OK = true) ∧
    (∃ (s : State), s.on Reg.CHIP_CLK_STAT_LREF_OK = false) ∧
    (∃ temps, hottest temps = none) ∧
    (∃ temps, ∃ tj, ∃ k, hottest temps = some (tj, k)) ∧
    (∃ (s : State), ∃ (t : Int),
     let cur := s.get Reg.CHIP_THERM_DUTY;
     cur < s.dutyFor t) ∧
    (∃ (s : State), ∃ (t : Int),
     let cur := s.get Reg.CHIP_THERM_DUTY;
     let low : Prop := 0 < cur ∧ t ≤ (s.dutyThr cur : Int) - 3;
     s.dutyFor t ≤ cur ∧ ¬ low) ∧
    (∃ (s : State), ∃ (t : Int),
     let cur := s.get Reg.CHIP_THERM_DUTY;
     let low : Prop := 0 < cur ∧ t ≤ (s.dutyThr cur : Int) - 3;
     s.dutyFor t ≤ cur ∧ low ∧ s.chip.cool = none) ∧
    (∃ (s : State), ∃ (t : Int), ∃ n,
     let cur := s.get Reg.CHIP_THERM_DUTY;
     let low : Prop := 0 < cur ∧ t ≤ (s.dutyThr cur : Int) - 3;
     s.dutyFor t ≤ cur ∧ low ∧ s.chip.cool = some n ∧ n + 1 < 200) ∧
    (∃ (s : State), ∃ (t : Int), ∃ n,
     let cur := s.get Reg.CHIP_THERM_DUTY;
     let low : Prop := 0 < cur ∧ t ≤ (s.dutyThr cur : Int) - 3;
     s.dutyFor t ≤ cur ∧ low ∧ s.chip.cool = some n ∧ 200 ≤ n + 1) ∧
    (∃ (s : State), ∃ (temps : List (BitVec 8)), ∃ (tj : BitVec 8), ∃ (k : Nat), hottest temps = some (tj, k) ∧ tj.toInt <
     s.dutyThr 1 ∧ s.dutyThr 1 < s.dutyThr 2 ∧ s.dutyThr 2 < s.dutyThr 3 ∧ s.get Reg.CHIP_THERM_DUTY = 0 ∧ s.on
     Reg.CHIP_THERM_THERM = false ∧ tj.toInt < s.get Reg.CHIP_THERM_CTL_THERM_HI ∧ tj.toInt < 115 ∧ s.chip.aonNew = 0) ∧
    (∃ (s : State), ∃ (g : Fin 4), (s.chip.halted = true ∨ (s.box g).restarting = true)) ∧
    (∃ (s : State), ∃ (g : Fin 4), ∃ (us : Nat), s.chip.halted = false ∧ (s.box g).restarting = false ∧ look s.chip.wdt g
     + us < s.wdtLimit g) ∧
    (∃ (s : State), ∃ (g : Fin 4), ∃ (us : Nat), s.chip.halted = false ∧ (s.box g).restarting = false ∧ s.wdtLimit g ≤
     look s.chip.wdt g + us) := by
  refine ⟨?_, ?_, ?_, ?_, ?_, ?_, ?_, ?_, ?_, ?_, ?_, ?_, ?_, ?_, ?_, ?_⟩
  · refine ⟨(State.reset.put (refOk (.tp : RefClk)) 1), .tp, ?_⟩
    decide +kernel
  · refine ⟨({ (State.reset.put (refOk .sys) 1) with chip.halted := false } : State), ?_⟩
    decide +kernel
  · refine ⟨(State.reset.put (refOk (.tp : RefClk)) 0), .tp, ?_⟩
    decide +kernel
  · refine ⟨(State.reset.put Reg.CHIP_CLK_STAT_LREF_OK 1), ?_⟩
    decide +kernel
  · refine ⟨(State.reset.put Reg.CHIP_CLK_STAT_LREF_OK 0), ?_⟩
    decide +kernel
  · refine ⟨[], ?_⟩
    decide +kernel
  · refine ⟨[40#8, 94#8], 94#8, 1, ?_⟩
    decide +kernel
  · refine ⟨(((State.reset.put Reg.CHIP_THERM_CTL_THR75 95).put Reg.CHIP_THERM_CTL_THR50 100).put Reg.CHIP_THERM_CTL_THR25
     105), 96, ?_⟩
    dsimp only
    decide +kernel
  · refine ⟨(State.reset.put (refOk (.eref 0)) 1), 0, ?_⟩
    dsimp only
    decide +kernel
  · refine ⟨((((({ State.reset with chip := { State.reset.chip with cool := none } } : State).put Reg.CHIP_THERM_DUTY 1).put
     Reg.CHIP_THERM_CTL_THR75 95).put Reg.CHIP_THERM_CTL_THR50 100).put Reg.CHIP_THERM_CTL_THR25 105), 90, ?_⟩
    dsimp only
    decide +kernel
  · refine ⟨((((({ State.reset with chip := { State.reset.chip with cool := some 5 } } : State).put Reg.CHIP_THERM_DUTY
     1).put Reg.CHIP_THERM_CTL_THR75 95).put Reg.CHIP_THERM_CTL_THR50 100).put Reg.CHIP_THERM_CTL_THR25 105), 90, 5, ?_⟩
    dsimp only
    decide +kernel
  · refine ⟨((((({ State.reset with chip := { State.reset.chip with cool := some 199 } } : State).put Reg.CHIP_THERM_DUTY
     1).put Reg.CHIP_THERM_CTL_THR75 95).put Reg.CHIP_THERM_CTL_THR50 100).put Reg.CHIP_THERM_CTL_THR25 105), 90, 199, ?_⟩
    dsimp only
    decide +kernel
  · refine ⟨((((State.reset.put Reg.CHIP_THERM_CTL_THR75 95).put Reg.CHIP_THERM_CTL_THR50 100).put Reg.CHIP_THERM_CTL_THR25
     105).put Reg.CHIP_THERM_CTL_THERM_HI 110), [40#8, 94#8], 94#8, 1, ?_⟩
    decide +kernel
  · refine ⟨({ State.reset with chip.halted := true } : State), 0, ?_⟩
    decide +kernel
  · refine ⟨(({ State.reset with chip.halted := false } : State).onBox (0 : Fin 4) (fun m => { m with restarting := false })),
     0, 0, ?_⟩
    decide +kernel
  · refine ⟨State.reset, 0, 500, ?_⟩
    decide +kernel

/-- `Obligations.ClocksTemperatureAndWatchdogs`: its hypotheses can hold, clause by clause (part 2 of 2). -/
theorem wit_ClocksTemperatureAndWatchdogs_2 :
    (∃ (s : State), ∃ (g : Fin 4), ∃ (us : Nat), ∃ (recent : Nat), s.chip.halted = false ∧ (s.box g).restarting = false ∧
     s.wdtLimit g ≤ look s.chip.wdt g + us ∧ 2 ≤ recent) ∧
    (∃ (s : State), ∃ (g : Fin 4), ∃ (us : Nat), ∃ (recent : Nat), s.chip.halted = false ∧ (s.box g).restarting = false ∧
     s.wdtLimit g ≤ look s.chip.wdt g + us ∧ recent < 2) ∧
    (∃ (s : State), ∃ (g : Fin 4),
     let back : Prop := (s.box g).restarting = true ∧ s.chip.halted = false;
     back ∧ g ≠ 3) ∧
    (∃ (s : State), ∃ (g : Fin 4),
     let back : Prop := (s.box g).restarting = true ∧ s.chip.halted = false;
     back ∧ g = 3) ∧
    (∃ (s : State), ∃ (g : Fin 4),
     let back : Prop := (s.box g).restarting = true ∧ s.chip.halted = false;
     back) ∧
    (∃ (s : State), ∃ (g : Fin 4),
     let back : Prop := (s.box g).restarting = true ∧ s.chip.halted = false;
     ¬ back) := by
  refine ⟨?_, ?_, ?_, ?_, ?_, ?_⟩
  · refine ⟨State.reset, 0, 500, 2, ?_⟩
    decide +kernel
  · refine ⟨State.reset, 0, 500, 0, ?_⟩
    decide +kernel
  · refine ⟨({ (State.reset.onBox (0 : Fin 4) (fun m => { m with restarting := true })) with chip.halted := false } :
     State), 0, ?_⟩
    dsimp only
    decide +kernel
  · refine ⟨({ (State.reset.onBox (3 : Fin 4) (fun m => { m with restarting := true })) with chip.halted := false } :
     State), 3, ?_⟩
    dsimp only
    decide +kernel
  · refine ⟨({ (State.reset.onBox (0 : Fin 4) (fun m => { m with restarting := true })) with chip.halted := false } :
     State), 0, ?_⟩
    dsimp only
    decide +kernel
  · refine ⟨(State.reset.onBox (0 : Fin 4) (fun m => { m with restarting := false })), 0, ?_⟩
    dsimp only
    decide +kernel

/-! ### Witnesses: The Saddlebag, the board and packets -/

/-- `Obligations.SaddlebagRecordsAreKept`: its hypotheses can hold, clause by clause. -/
theorem wit_SaddlebagRecordsAreKept :
    (∃ (s : State),
     let may : Prop := s.on Reg.SB_STAT_FROZEN = false ∧ s.chip.vddAon = true;
     ¬ may) ∧
    (∃ (s : State),
     let may : Prop := s.on Reg.SB_STAT_FROZEN = false ∧ s.chip.vddAon = true;
     may ∧ s.sb.unfrozen = none ∧ s.sb.reqs = []) ∧
    (∃ (s : State), ∃ n,
     let may : Prop := s.on Reg.SB_STAT_FROZEN = false ∧ s.chip.vddAon = true;
     may ∧ s.sb.unfrozen = some n) ∧
    (∃ (s : State), ∃ r, ∃ rest,
     let may : Prop := s.on Reg.SB_STAT_FROZEN = false ∧ s.chip.vddAon = true;
     may ∧ s.sb.unfrozen = none ∧ s.sb.reqs = r :: rest ∧ r.last = false) ∧
    (∃ (s : State), ∃ r, ∃ rest,
     let may : Prop := s.on Reg.SB_STAT_FROZEN = false ∧ s.chip.vddAon = true;
     may ∧ s.sb.unfrozen = none ∧ s.sb.reqs = r :: rest ∧ r.last = true) ∧
    (∃ (s : State), ∃ (g : Fin 4),
     let n := look s.sb.held g;
     n = 0) ∧
    (∃ (s : State), ∃ (g : Fin 4),
     let n := look s.sb.held g;
     n ≠ 0) ∧
    (∃ (s : State), s.chip.ceMinute = []) ∧
    (∃ (s : State), s.chip.ceMinute ≠ []) := by
  refine ⟨?_, ?_, ?_, ?_, ?_, ?_, ?_, ?_, ?_⟩
  · refine ⟨(State.reset.put Reg.SB_STAT_FROZEN 1), ?_⟩
    dsimp only
    decide +kernel
  · refine ⟨({ ({ ({ (State.reset.put Reg.SB_STAT_FROZEN 0) with chip.vddAon := true } : State) with sb.unfrozen := none } : State) with sb.reqs := [] }
     : State), ?_⟩
    dsimp only
    decide +kernel
  · refine ⟨({ ({ (State.reset.put Reg.SB_STAT_FROZEN 0) with chip.vddAon := true } : State) with sb.unfrozen := some (0 : Nat) }
     : State), 0, ?_⟩
    dsimp only
    decide +kernel
  · refine ⟨({ ({ ({ (State.reset.put Reg.SB_STAT_FROZEN 0) with chip.vddAon := true } : State) with sb.unfrozen := none } : State) with sb.reqs := (({ (⟨0, 0, 0, 0, false⟩ : SbReq) with last := false }) : SbReq) :: ([] : List SbReq) }
     : State), ({ (⟨0, 0, 0, 0, false⟩ : SbReq) with last := false }), [], ?_⟩
    dsimp only
    decide +kernel
  · refine ⟨({ ({ ({ (State.reset.put Reg.SB_STAT_FROZEN 0) with chip.vddAon := true } : State) with sb.unfrozen := none } : State) with sb.reqs := (({ (⟨0, 0, 0, 0, false⟩ : SbReq) with last := true }) : SbReq) :: ([] : List SbReq) }
     : State), ({ (⟨0, 0, 0, 0, false⟩ : SbReq) with last := true }), [], ?_⟩
    dsimp only
    decide +kernel
  · refine ⟨({ State.reset with sb.held := [((0 : Fin 4), 0)] } : State), 0, ?_⟩
    dsimp only
    decide +kernel
  · refine ⟨({ State.reset with sb.held := [((0 : Fin 4), 1)] } : State), 0, ?_⟩
    dsimp only
    decide +kernel
  · refine ⟨({ State.reset with chip.ceMinute := [] } : State), ?_⟩
    decide +kernel
  · refine ⟨({ State.reset with chip.ceMinute := [default] } : State), ?_⟩
    decide +kernel

/-- `Obligations.BoardAndTestAccess`: its hypotheses can hold, clause by clause (part 1 of 2). -/
theorem wit_BoardAndTestAccess :
    (∃ (s : State), s.chip.vddAon = true ∧ s.sb.smbAddr.isSome = true) ∧
    (∃ (s : State), s.chip.vddAon = true ∧ s.sb.smbAddr.isSome = true) ∧
    (∃ (s : State), s.chip.vddAon = true ∧ s.sb.smbAddr.isSome = true) ∧
    (∃ (s : State), s.chip.vddAon = true ∧ s.sb.smbAddr.isSome = true) ∧
    (∃ (s : State), s.chip.vddAon = true ∧ s.sb.smbAddr.isSome = true ∧
     let no : Prop := s.chip.halted = true ∨ (s.chip.coldBoot = true ∧ s.on Reg.CHIP_MODE_BOOT_DONE = false) ∨ s.on Reg.CHIP_BOOT_FAILED = true ∨ s.chip.inReset = true;
     ¬ no) ∧
    (∃ (s : State), s.chip.vddAon = true ∧ s.sb.smbAddr.isSome = true ∧
     let no : Prop := s.chip.halted = true ∨ (s.chip.coldBoot = true ∧ s.on Reg.CHIP_MODE_BOOT_DONE = false) ∨ s.on Reg.CHIP_BOOT_FAILED = true ∨ s.chip.inReset = true;
     no) ∧
    (∃ (s : State), s.chip.vddAon = true ∧ s.sb.smbAddr.isSome = true) ∧
    (∃ (s : State), ∃ (v : Byte), s.chip.vddAon = true ∧ s.sb.smbAddr.isSome = true ∧ v ≠ 0xA5) ∧
    (∃ (s : State), ∃ (v : Byte), s.chip.vddAon = true ∧ s.sb.smbAddr.isSome = true ∧ v ≠ 0x5A) ∧
    (∃ (s : State), (s.chip.vddAon = false ∨ s.sb.smbAddr = none)) ∧
    (∃ (s : State), s.alertLow = true) ∧
    (∃ (s : State), s.alertLow = false) ∧
    (∃ (s : State), s.chip.vddAon = false) ∧
    (∃ (s : State), s.chip.vddAon = true) ∧
    (∃ (s : State), s.chip.vddAon = true) ∧
    (∃ (s : State), s.chip.vddAon = true) := by
  refine ⟨?_, ?_, ?_, ?_, ?_, ?_, ?_, ?_, ?_, ?_, ?_, ?_, ?_, ?_, ?_, ?_⟩
  · refine ⟨({ State.reset with sb := { State.reset.sb with smbAddr := some 0x61 } } : State), ?_⟩
    decide +kernel
  · refine ⟨({ State.reset with sb := { State.reset.sb with smbAddr := some 0x61 } } : State), ?_⟩
    decide +kernel
  · refine ⟨({ State.reset with sb := { State.reset.sb with smbAddr := some 0x61 } } : State), ?_⟩
    decide +kernel
  · refine ⟨({ State.reset with sb := { State.reset.sb with smbAddr := some 0x61 } } : State), ?_⟩
    decide +kernel
  · refine ⟨(({ State.reset with sb := { State.reset.sb with smbAddr := some 0x61 } } : State).put Reg.CHIP_MODE_BOOT_DONE
     1), ?_⟩
    dsimp only
    decide +kernel
  · refine ⟨({ State.reset with sb := { State.reset.sb with smbAddr := some 0x61 } } : State), ?_⟩
    dsimp only
    decide +kernel
  · refine ⟨({ State.reset with sb := { State.reset.sb with smbAddr := some 0x61 } } : State), ?_⟩
    decide +kernel
  · refine ⟨({ State.reset with sb := { State.reset.sb with smbAddr := some 0x61 } } : State), 0, ?_⟩
    decide +kernel
  · refine ⟨({ State.reset with sb := { State.reset.sb with smbAddr := some 0x61 } } : State), 0, ?_⟩
    decide +kernel
  · refine ⟨({ State.reset with chip.vddAon := false } : State), ?_⟩
    decide +kernel
  · refine ⟨((State.reset.put Reg.SB_ALERT_STAT_CAUSE 1).put Reg.SB_ALERT_EN_EN 1), ?_⟩
    decide +kernel
  · refine ⟨State.reset, ?_⟩
    decide +kernel
  · refine ⟨({ State.reset with chip.vddAon := false } : State), ?_⟩
    decide +kernel
  · refine ⟨({ State.reset with chip.vddAon := true } : State), ?_⟩
    decide +kernel
  · refine ⟨({ State.reset with chip.vddAon := true } : State), ?_⟩
    decide +kernel
  · refine ⟨({ State.reset with chip.vddAon := true } : State), ?_⟩
    decide +kernel

/-- `Obligations.BoardAndTestAccess`: its hypotheses can hold, clause by clause (part 2 of 2). -/
theorem wit_BoardAndTestAccess_2 :
    (∃ (s : State), ∃ (code : Option Byte), s.chip.vddAon = true ∧
     let i := jtagOf s.fuses.lifecycle (match code with | some c => c.toNat | none => 2);
     i ≠ 0 ∧ i ≠ 3 ∧ i ≠ 4) ∧
    (∃ (s : State), ∃ (code : Option Byte), s.chip.vddAon = true ∧
     let i := jtagOf s.fuses.lifecycle (match code with | some c => c.toNat | none => 2);
     (i = 0 ∨ i = 3 ∨ i = 4) ∧ (s.mode = mIdle ∨ s.mode = mQuarantine)) ∧
    (∃ (s : State), ∃ (code : Option Byte), s.chip.vddAon = true ∧
     let i := jtagOf s.fuses.lifecycle (match code with | some c => c.toNat | none => 2);
     (i = 0 ∨ i = 3 ∨ i = 4) ∧ s.mode ≠ mIdle ∧ s.mode ≠ mQuarantine) ∧
    (∃ (s : State), s.chip.vddAon = true ∧ s.fuses.lifecycle ≠ 2) ∧
    (∃ (s : State), s.chip.vddAon = true ∧ s.fuses.lifecycle ≠ 2 ∧ s.mode = mIdle) ∧
    (∃ (code : Nat), code < 256) := by
  refine ⟨?_, ?_, ?_, ?_, ?_, ?_⟩
  · refine ⟨({ State.reset with chip.vddAon := true } : State), none, ?_⟩
    dsimp only
    decide +kernel
  · refine ⟨State.reset, some 0#8, ?_⟩
    dsimp only
    decide +kernel
  · refine ⟨(State.reset.setMode mRun), some 0#8, ?_⟩
    dsimp only
    decide +kernel
  · refine ⟨({ State.reset with chip.vddAon := true } : State), ?_⟩
    decide +kernel
  · refine ⟨(({ State.reset with chip.vddAon := true } : State).setMode mIdle), ?_⟩
    decide +kernel
  · refine ⟨0, ?_⟩
    decide +kernel

/-- `Obligations.PacketsAreDelivered`: its hypotheses can hold, clause by clause (part 1 of 2). -/
theorem wit_PacketsAreDelivered :
    (∃ (t : Fin 1024), ∃ (s : State), (s.nTeams ≤ t.val ∨ (s.router t).arrived = [])) ∧
    (∃ (t : Fin 1024), ∃ (s : State), ∃ (p : Packet), ∃ (rest : List Packet), t.val < s.nTeams ∧ (s.router t).arrived = p
     :: rest ∧
     let legal : Prop := pTYPE p < 8 ∧ pLEN p ≤ 4;
     ¬ legal) ∧
    (∃ (t : Fin 1024), ∃ (s : State), ∃ (p : Packet), ∃ (rest : List Packet), t.val < s.nTeams ∧ (s.router t).arrived = p
     :: rest ∧
     let legal : Prop := pTYPE p < 8 ∧ pLEN p ≤ 4;
     legal ∧ (s.router t).drain = true) ∧
    (∃ (t : Fin 1024), ∃ (s : State), ∃ (p : Packet), ∃ (rest : List Packet), t.val < s.nTeams ∧ (s.router t).arrived = p
     :: rest ∧
     let legal : Prop := pTYPE p < 8 ∧ pLEN p ≤ 4;
     let open_ : Prop := legal ∧ (s.router t).drain = false;
     open_ ∧ pTGT p = 1 ∧ s.on (Reg.RTR_CTL_ISOLATE_ATT t) = true) ∧
    (∃ (t : Fin 1024), ∃ (s : State), ∃ (p : Packet), ∃ (rest : List Packet), t.val < s.nTeams ∧ (s.router t).arrived = p
     :: rest ∧
     let legal : Prop := pTYPE p < 8 ∧ pLEN p ≤ 4;
     let open_ : Prop := legal ∧ (s.router t).drain = false;
     open_ ∧ pTGT p ≠ 1 ∧ pTGT p ≠ 2 ∧ (s.on (Reg.RTR_CTL_ISOLATE t) = true ∨ s.teamOn t = false)) ∧
    (∃ (t : Fin 1024), ∃ (s : State), ∃ (p : Packet), ∃ (rest : List Packet), t.val < s.nTeams ∧ (s.router t).arrived = p
     :: rest ∧
     let legal : Prop := pTYPE p < 8 ∧ pLEN p ≤ 4;
     let open_ : Prop := legal ∧ (s.router t).drain = false;
     let team : Prop := open_ ∧ pTGT p ≠ 1 ∧ pTGT p ≠ 2 ∧ s.on (Reg.RTR_CTL_ISOLATE t) = false ∧ s.teamOn t = true;
     let w := pAddr p;
     let n := pCount p;
     team ∧ isReq p = true ∧ w % 0x8000 + n ≤ 0x8000 ∧ w < 0x18000) ∧
    (∃ (t : Fin 1024), ∃ (s : State), ∃ (p : Packet), ∃ (rest : List Packet), t.val < s.nTeams ∧ (s.router t).arrived = p
     :: rest ∧
     let legal : Prop := pTYPE p < 8 ∧ pLEN p ≤ 4;
     let open_ : Prop := legal ∧ (s.router t).drain = false;
     let team : Prop := open_ ∧ pTGT p ≠ 1 ∧ pTGT p ≠ 2 ∧ s.on (Reg.RTR_CTL_ISOLATE t) = false ∧ s.teamOn t = true;
     let w := pAddr p;
     let n := pCount p;
     team ∧ isReq p = true ∧ ¬ (w % 0x8000 + n ≤ 0x8000 ∧ w < 0x18000) ∧ 0x40000 ≤ w ∧ w + n ≤ 0x40100) ∧
    (∃ (t : Fin 1024), ∃ (s : State), ∃ (p : Packet), ∃ (rest : List Packet), t.val < s.nTeams ∧ (s.router t).arrived = p
     :: rest ∧
     let legal : Prop := pTYPE p < 8 ∧ pLEN p ≤ 4;
     let open_ : Prop := legal ∧ (s.router t).drain = false;
     let team : Prop := open_ ∧ pTGT p ≠ 1 ∧ pTGT p ≠ 2 ∧ s.on (Reg.RTR_CTL_ISOLATE t) = false ∧ s.teamOn t = true;
     let w := pAddr p;
     let n := pCount p;
     team ∧ isReq p = true ∧ ¬ (w % 0x8000 + n ≤ 0x8000 ∧ w < 0x18000) ∧ ¬ (0x40000 ≤ w ∧ w + n ≤ 0x40100)) ∧
    (∃ (t : Fin 1024), ∃ (s : State), ∃ (p : Packet), ∃ (rest : List Packet), t.val < s.nTeams ∧ (s.router t).arrived = p
     :: rest ∧
     let legal : Prop := pTYPE p < 8 ∧ pLEN p ≤ 4;
     let open_ : Prop := legal ∧ (s.router t).drain = false;
     let team : Prop := open_ ∧ pTGT p ≠ 1 ∧ pTGT p ≠ 2 ∧ s.on (Reg.RTR_CTL_ISOLATE t) = false ∧ s.teamOn t = true;
     team ∧ pTYPE p = 5) ∧
    (∃ (t : Fin 1024), ∃ (s : State), ∃ (p : Packet), ∃ (rest : List Packet), t.val < s.nTeams ∧ (s.router t).arrived = p
     :: rest ∧
     let legal : Prop := pTYPE p < 8 ∧ pLEN p ≤ 4;
     let open_ : Prop := legal ∧ (s.router t).drain = false;
     let team : Prop := open_ ∧ pTGT p ≠ 1 ∧ pTGT p ≠ 2 ∧ s.on (Reg.RTR_CTL_ISOLATE t) = false ∧ s.teamOn t = true;
     team ∧ isReq p = false ∧ pTYPE p ≠ 5) ∧
    (∃ (t : Fin 1024), ∃ (s : State), ∃ (p : Packet), ∃ (rest : List Packet), t.val < s.nTeams ∧ (s.router t).arrived = p
     :: rest ∧
     let legal : Prop := pTYPE p < 8 ∧ pLEN p ≤ 4;
     let open_ : Prop := legal ∧ (s.router t).drain = false;
     let att : Prop := open_ ∧ pTGT p = 1 ∧ s.on (Reg.RTR_CTL_ISOLATE_ATT t) = false;
     att ∧ s.attached t = none) ∧
    (∃ (t : Fin 1024), ∃ (s : State), ∃ (p : Packet), ∃ (rest : List Packet), ∃ c, t.val < s.nTeams ∧ (s.router t).arrived
     = p :: rest ∧
     let legal : Prop := pTYPE p < 8 ∧ pLEN p ≤ 4;
     let open_ : Prop := legal ∧ (s.router t).drain = false;
     let att : Prop := open_ ∧ pTGT p = 1 ∧ s.on (Reg.RTR_CTL_ISOLATE_ATT t) = false;
     att ∧ s.attached t = some c ∧ c < 16 ∧ isReq p = true) ∧
    (∃ (t : Fin 1024), ∃ (s : State), ∃ (p : Packet), ∃ (rest : List Packet), ∃ c, t.val < s.nTeams ∧ (s.router t).arrived
     = p :: rest ∧
     let legal : Prop := pTYPE p < 8 ∧ pLEN p ≤ 4;
     let open_ : Prop := legal ∧ (s.router t).drain = false;
     let att : Prop := open_ ∧ pTGT p = 1 ∧ s.on (Reg.RTR_CTL_ISOLATE_ATT t) = false;
     att ∧ s.attached t = some c ∧ c < 16 ∧ pTYPE p = 6) ∧
    (∃ (t : Fin 1024), ∃ (s : State), ∃ (p : Packet), ∃ (rest : List Packet), ∃ c, t.val < s.nTeams ∧ (s.router t).arrived
     = p :: rest ∧
     let legal : Prop := pTYPE p < 8 ∧ pLEN p ≤ 4;
     let open_ : Prop := legal ∧ (s.router t).drain = false;
     let att : Prop := open_ ∧ pTGT p = 1 ∧ s.on (Reg.RTR_CTL_ISOLATE_ATT t) = false;
     att ∧ s.attached t = some c ∧ c < 16 ∧ pTYPE p = 7) ∧
    (∃ (t : Fin 1024), ∃ (s : State), ∃ (p : Packet), ∃ (rest : List Packet), ∃ c, t.val < s.nTeams ∧ (s.router t).arrived
     = p :: rest ∧
     let legal : Prop := pTYPE p < 8 ∧ pLEN p ≤ 4;
     let open_ : Prop := legal ∧ (s.router t).drain = false;
     let att : Prop := open_ ∧ pTGT p = 1 ∧ s.on (Reg.RTR_CTL_ISOLATE_ATT t) = false;
     att ∧ s.attached t = some c ∧ c < 16 ∧ isReq p = false ∧ pTYPE p ≠ 6 ∧ pTYPE p ≠ 7) ∧
    (∃ (t : Fin 1024), ∃ (s : State), ∃ (p : Packet), ∃ (rest : List Packet), ∃ k, t.val < s.nTeams ∧ (s.router t).arrived
     = p :: rest ∧
     let a := s.onRouter t (fun r => { r with arrived := rest });
     let legal : Prop := pTYPE p < 8 ∧ pLEN p ≤ 4;
     let open_ : Prop := legal ∧ (s.router t).drain = false;
     let att : Prop := open_ ∧ pTGT p = 1 ∧ s.on (Reg.RTR_CTL_ISOLATE_ATT t) = false;
     att ∧ s.attached t = some (16 + k) ∧ k < 16 ∧ isReq p = true ∧ a.isUp k = true ∧ a.forwardedHere p = false) := by
  refine ⟨?_, ?_, ?_, ?_, ?_, ?_, ?_, ?_, ?_, ?_, ?_, ?_, ?_, ?_, ?_, ?_⟩
  · refine ⟨0, (State.reset.onRouter (0 : Fin 1024) (fun m => { m with arrived := [] })), ?_⟩
    decide +kernel
  · refine ⟨0, (State.reset.onRouter (0 : Fin 1024) (fun m => { m with arrived := (⟨83076749736557242056487941267521536#120, []⟩ : Packet) :: ([] : List Packet) })),
     ⟨83076749736557242056487941267521536#120, []⟩, [], ?_⟩
    dsimp only
    decide +kernel
  · refine ⟨0, ((State.reset.onRouter (0 : Fin 1024) (fun m => { m with arrived := (⟨0, []⟩ : Packet) :: ([] : List Packet) })).onRouter
     (0 : Fin 1024) (fun m => { m with drain := true })), ⟨0, []⟩, [], ?_⟩
    dsimp only
    decide +kernel
  · refine ⟨0, (((State.reset.onRouter (0 : Fin 1024) (fun m => { m with arrived := (⟨81129638414606681695789005144064#120, []⟩ : Packet) :: ([] : List Packet) })).onRouter
     (0 : Fin 1024) (fun m => { m with drain := false })).put (Reg.RTR_CTL_ISOLATE_ATT (0 : Fin 1024)) 1),
     ⟨81129638414606681695789005144064#120, []⟩, [], ?_⟩
    dsimp only
    decide +kernel
  · refine ⟨0, (((State.reset.onRouter (0 : Fin 1024) (fun m => { m with arrived := (⟨0, []⟩ : Packet) :: ([] : List Packet) })).onRouter
     (0 : Fin 1024) (fun m => { m with drain := false })).put (Reg.RTR_CTL_ISOLATE (0 : Fin 1024)) 1), ⟨0, []⟩, [], ?_⟩
    dsimp only
    decide +kernel
  · refine ⟨0, ((((State.reset.onRouter (0 : Fin 1024) (fun m => { m with arrived := (⟨0, []⟩ : Packet) :: ([] : List Packet) })).onRouter
     (0 : Fin 1024) (fun m => { m with drain := false })).put (Reg.RTR_CTL_ISOLATE (0 : Fin 1024)) 0).put
     (Reg.TEAM_PWR_STATE (0 : Fin 1024)) 1), ⟨0, []⟩, [], ?_⟩
    dsimp only
    decide +kernel
  · refine ⟨0, ((sOn.put (Reg.RTR_CTL_ISOLATE 0) 0).onRouter 0 (fun m => { m with arrived := [⟨4398046511104#120, []⟩] })),
     ⟨4398046511104#120, []⟩, [], ?_⟩
    dsimp only
    decide +kernel
  · refine ⟨0, ((sOn.put (Reg.RTR_CTL_ISOLATE 0) 0).onRouter 0 (fun m => { m with arrived := [⟨2199023255552#120, []⟩] })),
     ⟨2199023255552#120, []⟩, [], ?_⟩
    dsimp only
    decide +kernel
  · refine ⟨0, ((((State.reset.onRouter (0 : Fin 1024) (fun m => { m with arrived := (⟨51922968585348276285304963292200960#120, []⟩ : Packet) :: ([] : List Packet) })).onRouter
     (0 : Fin 1024) (fun m => { m with drain := false })).put (Reg.RTR_CTL_ISOLATE (0 : Fin 1024)) 0).put
     (Reg.TEAM_PWR_STATE (0 : Fin 1024)) 1), ⟨51922968585348276285304963292200960#120, []⟩, [], ?_⟩
    dsimp only
    decide +kernel
  · refine ⟨0, ((sOn.put (Reg.RTR_CTL_ISOLATE 0) 0).onRouter 0 (fun m => { m with arrived := [⟨20769187434139310514121985316880384#120, []⟩] })),
     ⟨20769187434139310514121985316880384#120, []⟩, [], ?_⟩
    dsimp only
    decide +kernel
  · refine ⟨0, (((State.reset.onRouter (0 : Fin 1024) (fun m => { m with arrived := (⟨81129638414606681695789005144064#120, []⟩ : Packet) :: ([] : List Packet) })).onRouter
     (0 : Fin 1024) (fun m => { m with drain := false })).put (Reg.RTR_CTL_ISOLATE_ATT (0 : Fin 1024)) 0),
     ⟨81129638414606681695789005144064#120, []⟩, [], ?_⟩
    dsimp only
    decide +kernel
  · refine ⟨0, (((((State.reset.put (Reg.RTR_CTL_ISOLATE_ATT 0) 0).put (Reg.RTR_SITE_VALID 0) 1).put (Reg.RTR_SITE_X 0)
     0).put (Reg.RTR_SITE_Y 0) 0).onRouter 0 (fun m => { m with arrived := [⟨81129638414606681695789005144064#120, []⟩] })),
     ⟨81129638414606681695789005144064#120, []⟩, [], 0, ?_⟩
    dsimp only
    decide +kernel
  · refine ⟨0, (((((State.reset.put (Reg.RTR_CTL_ISOLATE_ATT 0) 0).put (Reg.RTR_SITE_VALID 0) 1).put (Reg.RTR_SITE_X 0)
     0).put (Reg.RTR_SITE_Y 0) 0).onRouter 0 (fun m => { m with arrived := [⟨62388691940832538224061744955785216#120, []⟩] })),
     ⟨62388691940832538224061744955785216#120, []⟩, [], 0, ?_⟩
    dsimp only
    decide +kernel
  · refine ⟨0, (((((State.reset.put (Reg.RTR_CTL_ISOLATE_ATT 0) 0).put (Reg.RTR_SITE_VALID 0) 1).put (Reg.RTR_SITE_X 0)
     0).put (Reg.RTR_SITE_Y 0) 0).onRouter 0 (fun m => { m with arrived := [⟨72773285657902193481122737614225408#120, []⟩] })),
     ⟨72773285657902193481122737614225408#120, []⟩, [], 0, ?_⟩
    dsimp only
    decide +kernel
  · refine ⟨0, (((((State.reset.put (Reg.RTR_CTL_ISOLATE_ATT 0) 0).put (Reg.RTR_SITE_VALID 0) 1).put (Reg.RTR_SITE_X 0)
     0).put (Reg.RTR_SITE_Y 0) 0).onRouter 0 (fun m => { m with arrived := [⟨20850317072553917195817774322024448#120, []⟩] })),
     ⟨20850317072553917195817774322024448#120, []⟩, [], 0, ?_⟩
    dsimp only
    decide +kernel
  · refine ⟨0, ((((((State.reset.put (Reg.RTR_CTL_ISOLATE_ATT 0) 0).put (Reg.RTR_SITE_VALID 16) 1).put (Reg.RTR_SITE_X 16)
     0).put (Reg.RTR_SITE_Y 16) 0).put (linkStat 0) 1).onRouter 0 (fun m => { m with arrived := [⟨81129638414606681695789005144064#120, []⟩] })),
     ⟨81129638414606681695789005144064#120, []⟩, [], 0, ?_⟩
    dsimp only
    decide +kernel

/-- `Obligations.PacketsAreDelivered`: its hypotheses can hold, clause by clause (part 2 of 2). -/
theorem wit_PacketsAreDelivered_2 :
    (∃ (t : Fin 1024), ∃ (s : State), ∃ (p : Packet), ∃ (rest : List Packet), ∃ k, t.val < s.nTeams ∧ (s.router t).arrived
     = p :: rest ∧
     let a := s.onRouter t (fun r => { r with arrived := rest });
     let legal : Prop := pTYPE p < 8 ∧ pLEN p ≤ 4;
     let open_ : Prop := legal ∧ (s.router t).drain = false;
     let att : Prop := open_ ∧ pTGT p = 1 ∧ s.on (Reg.RTR_CTL_ISOLATE_ATT t) = false;
     att ∧ s.attached t = some (16 + k) ∧ k < 16 ∧ isReq p = true ∧ (a.isUp k = false ∨ a.forwardedHere p = true)) ∧
    (∃ (t : Fin 1024), ∃ (s : State), ∃ (p : Packet), ∃ (rest : List Packet), ∃ k, t.val < s.nTeams ∧ (s.router t).arrived
     = p :: rest ∧
     let legal : Prop := pTYPE p < 8 ∧ pLEN p ≤ 4;
     let open_ : Prop := legal ∧ (s.router t).drain = false;
     let att : Prop := open_ ∧ pTGT p = 1 ∧ s.on (Reg.RTR_CTL_ISOLATE_ATT t) = false;
     att ∧ s.attached t = some (16 + k) ∧ k < 16 ∧ isCpl p = true) ∧
    (∃ (t : Fin 1024), ∃ (s : State), ∃ (p : Packet), ∃ (rest : List Packet), ∃ k, t.val < s.nTeams ∧ (s.router t).arrived
     = p :: rest ∧
     let legal : Prop := pTYPE p < 8 ∧ pLEN p ≤ 4;
     let open_ : Prop := legal ∧ (s.router t).drain = false;
     let att : Prop := open_ ∧ pTGT p = 1 ∧ s.on (Reg.RTR_CTL_ISOLATE_ATT t) = false;
     att ∧ s.attached t = some (16 + k) ∧ k < 16 ∧ isReq p = false ∧ isCpl p = false) ∧
    (∃ (t : Fin 1024), ∃ (s : State), ∃ (p : Packet), ∃ (rest : List Packet), ∃ (h : Fin 4), t.val < s.nTeams ∧ (s.router
     t).arrived = p :: rest ∧
     let legal : Prop := pTYPE p < 8 ∧ pLEN p ≤ 4;
     let open_ : Prop := legal ∧ (s.router t).drain = false;
     let att : Prop := open_ ∧ pTGT p = 1 ∧ s.on (Reg.RTR_CTL_ISOLATE_ATT t) = false;
     att ∧ s.attached t = some (32 + h.val) ∧ isCpl p = true) ∧
    (∃ (t : Fin 1024), ∃ (s : State), ∃ (p : Packet), ∃ (rest : List Packet), ∃ (h : Fin 4), t.val < s.nTeams ∧ (s.router
     t).arrived = p :: rest ∧
     let a := s.onRouter t (fun r => { r with arrived := rest });
     let legal : Prop := pTYPE p < 8 ∧ pLEN p ≤ 4;
     let open_ : Prop := legal ∧ (s.router t).drain = false;
     let att : Prop := open_ ∧ pTGT p = 1 ∧ s.on (Reg.RTR_CTL_ISOLATE_ATT t) = false;
     let w := pAddr p;
     att ∧ s.attached t = some (32 + h.val) ∧ isReq p = true ∧ w / 2 ^ 46 = 0 ∧ a.fromHub p = true ∧ w < 2 ^ 22) ∧
    (∃ (t : Fin 1024), ∃ (s : State), ∃ (p : Packet), ∃ (rest : List Packet), ∃ (h : Fin 4), t.val < s.nTeams ∧ (s.router
     t).arrived = p :: rest ∧
     let a := s.onRouter t (fun r => { r with arrived := rest });
     let legal : Prop := pTYPE p < 8 ∧ pLEN p ≤ 4;
     let open_ : Prop := legal ∧ (s.router t).drain = false;
     let att : Prop := open_ ∧ pTGT p = 1 ∧ s.on (Reg.RTR_CTL_ISOLATE_ATT t) = false;
     let w := pAddr p;
     att ∧ s.attached t = some (32 + h.val) ∧ isReq p = true ∧ w / 2 ^ 46 = 0 ∧ (a.fromHub p = false ∨ 2 ^ 22 ≤ w)) ∧
    (∃ (t : Fin 1024), ∃ (s : State), ∃ (p : Packet), ∃ (rest : List Packet), ∃ (h : Fin 4), t.val < s.nTeams ∧ (s.router
     t).arrived = p :: rest ∧
     let a := s.onRouter t (fun r => { r with arrived := rest });
     let legal : Prop := pTYPE p < 8 ∧ pLEN p ≤ 4;
     let open_ : Prop := legal ∧ (s.router t).drain = false;
     let att : Prop := open_ ∧ pTGT p = 1 ∧ s.on (Reg.RTR_CTL_ISOLATE_ATT t) = false;
     let w := pAddr p;
     att ∧ s.attached t = some (32 + h.val) ∧ isReq p = true ∧ w / 2 ^ 46 = 1 ∧ a.isUp (16 + h.val) = true) ∧
    (∃ (t : Fin 1024), ∃ (s : State), ∃ (p : Packet), ∃ (rest : List Packet), ∃ (h : Fin 4), t.val < s.nTeams ∧ (s.router
     t).arrived = p :: rest ∧
     let a := s.onRouter t (fun r => { r with arrived := rest });
     let legal : Prop := pTYPE p < 8 ∧ pLEN p ≤ 4;
     let open_ : Prop := legal ∧ (s.router t).drain = false;
     let att : Prop := open_ ∧ pTGT p = 1 ∧ s.on (Reg.RTR_CTL_ISOLATE_ATT t) = false;
     let w := pAddr p;
     att ∧ s.attached t = some (32 + h.val) ∧ isReq p = true ∧ w / 2 ^ 46 = 1 ∧ a.isUp (16 + h.val) = false) ∧
    (∃ (t : Fin 1024), ∃ (s : State), ∃ (p : Packet), ∃ (rest : List Packet), ∃ (h : Fin 4), t.val < s.nTeams ∧ (s.router
     t).arrived = p :: rest ∧
     let legal : Prop := pTYPE p < 8 ∧ pLEN p ≤ 4;
     let open_ : Prop := legal ∧ (s.router t).drain = false;
     let att : Prop := open_ ∧ pTGT p = 1 ∧ s.on (Reg.RTR_CTL_ISOLATE_ATT t) = false;
     let w := pAddr p;
     att ∧ s.attached t = some (32 + h.val) ∧ isReq p = true ∧ w / 2 ^ 46 = 2 ∧ w % 2 ^ 46 < 2 ^ 34) ∧
    (∃ (t : Fin 1024), ∃ (s : State), ∃ (p : Packet), ∃ (rest : List Packet), ∃ (h : Fin 4), t.val < s.nTeams ∧ (s.router
     t).arrived = p :: rest ∧
     let legal : Prop := pTYPE p < 8 ∧ pLEN p ≤ 4;
     let open_ : Prop := legal ∧ (s.router t).drain = false;
     let att : Prop := open_ ∧ pTGT p = 1 ∧ s.on (Reg.RTR_CTL_ISOLATE_ATT t) = false;
     let w := pAddr p;
     att ∧ s.attached t = some (32 + h.val) ∧ isReq p = true ∧ w / 2 ^ 46 = 2 ∧ 2 ^ 34 ≤ w % 2 ^ 46) ∧
    (∃ (t : Fin 1024), ∃ (s : State), ∃ (p : Packet), ∃ (rest : List Packet), ∃ (h : Fin 4), t.val < s.nTeams ∧ (s.router
     t).arrived = p :: rest ∧
     let legal : Prop := pTYPE p < 8 ∧ pLEN p ≤ 4;
     let open_ : Prop := legal ∧ (s.router t).drain = false;
     let att : Prop := open_ ∧ pTGT p = 1 ∧ s.on (Reg.RTR_CTL_ISOLATE_ATT t) = false;
     let w := pAddr p;
     att ∧ s.attached t = some (32 + h.val) ∧ isReq p = true ∧ 3 ≤ w / 2 ^ 46) ∧
    (∃ (t : Fin 1024), ∃ (s : State), ∃ (p : Packet), ∃ (rest : List Packet), ∃ (h : Fin 4), t.val < s.nTeams ∧ (s.router
     t).arrived = p :: rest ∧
     let legal : Prop := pTYPE p < 8 ∧ pLEN p ≤ 4;
     let open_ : Prop := legal ∧ (s.router t).drain = false;
     let att : Prop := open_ ∧ pTGT p = 1 ∧ s.on (Reg.RTR_CTL_ISOLATE_ATT t) = false;
     att ∧ s.attached t = some (32 + h.val) ∧ isReq p = false ∧ isCpl p = false) ∧
    (∃ (t : Fin 1024), ∃ (s : State), ∃ (p : Packet), ∃ (rest : List Packet), t.val < s.nTeams ∧ (s.router t).arrived = p
     :: rest ∧
     let legal : Prop := pTYPE p < 8 ∧ pLEN p ≤ 4;
     let open_ : Prop := legal ∧ (s.router t).drain = false;
     open_ ∧ pTGT p = 2 ∧ isReq p = false) ∧
    (∃ (t : Fin 1024), ∃ (s : State), ∃ (p : Packet), ∃ (rest : List Packet), t.val < s.nTeams ∧ (s.router t).arrived = p
     :: rest ∧
     let legal : Prop := pTYPE p < 8 ∧ pLEN p ≤ 4;
     let open_ : Prop := legal ∧ (s.router t).drain = false;
     let w := pAddr p;
     let n := pCount p;
     open_ ∧ pTGT p = 2 ∧ isReq p = true ∧ 0x80 ≤ w ∧ w + n ≤ 0x8C) ∧
    (∃ (t : Fin 1024), ∃ (s : State), ∃ (p : Packet), ∃ (rest : List Packet), t.val < s.nTeams ∧ (s.router t).arrived = p
     :: rest ∧
     let legal : Prop := pTYPE p < 8 ∧ pLEN p ≤ 4;
     let open_ : Prop := legal ∧ (s.router t).drain = false;
     let w := pAddr p;
     let n := pCount p;
     open_ ∧ pTGT p = 2 ∧ isReq p = true ∧ ¬ (0x80 ≤ w ∧ w + n ≤ 0x8C)) := by
  refine ⟨?_, ?_, ?_, ?_, ?_, ?_, ?_, ?_, ?_, ?_, ?_, ?_, ?_, ?_, ?_⟩
  · refine ⟨0, (((((State.reset.put (Reg.RTR_CTL_ISOLATE_ATT 0) 0).put (Reg.RTR_SITE_VALID 16) 1).put (Reg.RTR_SITE_X 16)
     0).put (Reg.RTR_SITE_Y 16) 0).onRouter 0 (fun m => { m with arrived := [⟨81129638414606681695789005144064#120, []⟩] })),
     ⟨81129638414606681695789005144064#120, []⟩, [], 0, ?_⟩
    dsimp only
    decide +kernel
  · refine ⟨0, (((((State.reset.put (Reg.RTR_CTL_ISOLATE_ATT 0) 0).put (Reg.RTR_SITE_VALID 16) 1).put (Reg.RTR_SITE_X 16)
     0).put (Reg.RTR_SITE_Y 16) 0).onRouter 0 (fun m => { m with arrived := [⟨20850317072553917195817774322024448#120, []⟩] })),
     ⟨20850317072553917195817774322024448#120, []⟩, [], 0, ?_⟩
    dsimp only
    decide +kernel
  · refine ⟨0, (((((State.reset.put (Reg.RTR_CTL_ISOLATE_ATT 0) 0).put (Reg.RTR_SITE_VALID 16) 1).put (Reg.RTR_SITE_X 16)
     0).put (Reg.RTR_SITE_Y 16) 0).onRouter 0 (fun m => { m with arrived := [⟨52004098223762882967000752297345024#120, []⟩] })),
     ⟨52004098223762882967000752297345024#120, []⟩, [], 0, ?_⟩
    dsimp only
    decide +kernel
  · refine ⟨0, (((State.reset.put (Reg.RTR_SITE_VALID 32) 1).put (Reg.RTR_CTL_ISOLATE_ATT 0) 0).onRouter 0 (fun m => { m with arrived := [⟨20850317072553917195817774322024448#120, []⟩] })),
     ⟨20850317072553917195817774322024448#120, []⟩, [], 0, ?_⟩
    dsimp only
    decide +kernel
  · refine ⟨0, (((((State.reset.put (Reg.RTR_CTL_ISOLATE_ATT 0) 0).put (Reg.RTR_SITE_VALID 32) 1).put (Reg.RTR_SITE_X 32)
     0).put (Reg.RTR_SITE_Y 32) 0).onRouter 0 (fun m => { m with arrived := [⟨81129638414606681695789005144064#120, []⟩] })),
     ⟨81129638414606681695789005144064#120, []⟩, [], 0, ?_⟩
    dsimp only
    decide +kernel
  · refine ⟨0, (((((State.reset.put (Reg.RTR_CTL_ISOLATE_ATT 0) 0).put (Reg.RTR_SITE_VALID 32) 1).put (Reg.RTR_SITE_X 32)
     0).put (Reg.RTR_SITE_Y 32) 0).onRouter 0 (fun m => { m with arrived := [⟨81129638414606681766157749321728#120, []⟩] })),
     ⟨81129638414606681766157749321728#120, []⟩, [], 0, ?_⟩
    dsimp only
    decide +kernel
  · refine ⟨0, ((((((State.reset.put (Reg.RTR_CTL_ISOLATE_ATT 0) 0).put (Reg.RTR_SITE_VALID 32) 1).put (Reg.RTR_SITE_X 32)
     0).put (Reg.RTR_SITE_Y 32) 0).put (linkStat 16) 1).onRouter 0 (fun m => { m with arrived := [⟨81129638415787273316506416447488#120, []⟩] })),
     ⟨81129638415787273316506416447488#120, []⟩, [], 0, ?_⟩
    dsimp only
    decide +kernel
  · refine ⟨0, (((((State.reset.put (Reg.RTR_CTL_ISOLATE_ATT 0) 0).put (Reg.RTR_SITE_VALID 32) 1).put (Reg.RTR_SITE_X 32)
     0).put (Reg.RTR_SITE_Y 32) 0).onRouter 0 (fun m => { m with arrived := [⟨81129638415787273316506416447488#120, []⟩] })),
     ⟨81129638415787273316506416447488#120, []⟩, [], 0, ?_⟩
    dsimp only
    decide +kernel
  · refine ⟨0, (((((State.reset.put (Reg.RTR_CTL_ISOLATE_ATT 0) 0).put (Reg.RTR_SITE_VALID 32) 1).put (Reg.RTR_SITE_X 32)
     0).put (Reg.RTR_SITE_Y 32) 0).onRouter 0 (fun m => { m with arrived := [⟨81129638416967864937223827750912#120, []⟩] })),
     ⟨81129638416967864937223827750912#120, []⟩, [], 0, ?_⟩
    dsimp only
    decide +kernel
  · refine ⟨0, (((((State.reset.put (Reg.RTR_CTL_ISOLATE_ATT 0) 0).put (Reg.RTR_SITE_VALID 32) 1).put (Reg.RTR_SITE_X 32)
     0).put (Reg.RTR_SITE_Y 32) 0).onRouter 0 (fun m => { m with arrived := [⟨81129638416968153167599979462656#120, []⟩] })),
     ⟨81129638416968153167599979462656#120, []⟩, [], 0, ?_⟩
    dsimp only
    decide +kernel
  · refine ⟨0, (((((State.reset.put (Reg.RTR_CTL_ISOLATE_ATT 0) 0).put (Reg.RTR_SITE_VALID 32) 1).put (Reg.RTR_SITE_X 32)
     0).put (Reg.RTR_SITE_Y 32) 0).onRouter 0 (fun m => { m with arrived := [⟨81129638418148456557941239054336#120, []⟩] })),
     ⟨81129638418148456557941239054336#120, []⟩, [], 0, ?_⟩
    dsimp only
    decide +kernel
  · refine ⟨0, (((((State.reset.put (Reg.RTR_CTL_ISOLATE_ATT 0) 0).put (Reg.RTR_SITE_VALID 32) 1).put (Reg.RTR_SITE_X 32)
     0).put (Reg.RTR_SITE_Y 32) 0).onRouter 0 (fun m => { m with arrived := [⟨52004098223762882967000752297345024#120, []⟩] })),
     ⟨52004098223762882967000752297345024#120, []⟩, [], 0, ?_⟩
    dsimp only
    decide +kernel
  · refine ⟨0, (State.reset.onRouter 0 (fun m => { m with arrived := [⟨20931446710968523877513563327168512#120, []⟩] })),
     ⟨20931446710968523877513563327168512#120, []⟩, [], ?_⟩
    dsimp only
    decide +kernel
  · refine ⟨0, (State.reset.onRouter 0 (fun m => { m with arrived := [⟨162259276829213363391580157771776#120, []⟩] })),
     ⟨162259276829213363391580157771776#120, []⟩, [], ?_⟩
    dsimp only
    decide +kernel
  · refine ⟨0, ((State.reset.onRouter (0 : Fin 1024) (fun m => { m with arrived := (⟨162259276829213363391578010288128#120, []⟩ : Packet) :: ([] : List Packet) })).onRouter
     (0 : Fin 1024) (fun m => { m with drain := false })), ⟨162259276829213363391578010288128#120, []⟩, [], ?_⟩
    dsimp only
    decide +kernel

/-! ### Witnesses: Quarantine -/

/-- `Obligations.QuarantineIsEntered`: its hypotheses can hold, clause by clause. -/
theorem wit_QuarantineIsEntered :
    (∃ (s : State), s.chip.halted = false ∧ s.mode ≠ mQuarantine) ∧
    (∃ (s : State), s.chip.halted = false ∧ s.mode ≠ mQuarantine ∧ s.ds.choice = none) ∧
    (∃ (s : State), s.chip.halted = false ∧ s.mode = mQuarantine) ∧
    (∃ (s : State), s.chip.halted = true) ∧
    (∃ (s : State), ∃ (i : Nat), ∃ (c : Taken), s.turn 3 0x0303 i c) := by
  refine ⟨?_, ?_, ?_, ?_, ?_⟩
  · refine ⟨({ State.reset with chip.halted := false } : State), ?_⟩
    decide +kernel
  · refine ⟨({ ({ State.reset with chip.halted := false } : State) with ds.choice := none } : State), ?_⟩
    decide +kernel
  · refine ⟨(({ State.reset with chip.halted := false } : State).setMode mQuarantine), ?_⟩
    decide +kernel
  · refine ⟨({ State.reset with chip.halted := true } : State), ?_⟩
    decide +kernel
  · refine ⟨(given (sImage.setMode mRun) 3 0x0303 [] false 0), 0, (tk 0x0303 [] false 0), ?_⟩
    unfold State.turn
    decide +kernel

end Sys2Proof.Tests
end

section
/-! The truth tables of the Boolean Processors (R37): bit b of the 64 results of a step is the result of BP b. -/
namespace Sys2Proof.Machine

/-! ### A number made of bits -/

theorem ofBool_eq_toNat (x : Bool) : ofBool x = x.toNat := by
  cases x <;> rfl

/-- n bits, each with the weight of its place, make a number of n bits. -/
theorem sumOfBits_lt (f : Nat → Bool) (n : Nat) :
    (List.range n).foldl (fun v j => v + ofBool (f j) * 2 ^ j) 0 < 2 ^ n := by
  induction n with
  | zero => simp
  | succ n ih =>
    have hbit : ofBool (f n) * 2 ^ n ≤ 1 * 2 ^ n :=
      Nat.mul_le_mul_right _ (ofBool_eq_toNat (f n) ▸ Bool.toNat_le (f n))
    simp only [List.range_succ, List.foldl_append, List.foldl_cons, List.foldl_nil, Nat.pow_succ]
    omega

/-- The bit with the weight 2^i is bit i: the bits below it do not carry into it. -/
theorem testBit_sumOfBits (f : Nat → Bool) {n i : Nat} (hi : i < n) :
    ((List.range n).foldl (fun v j => v + ofBool (f j) * 2 ^ j) 0).testBit i = f i := by
  induction n with
  | zero => omega
  | succ n ih =>
    simp only [List.range_succ, List.foldl_append, List.foldl_cons, List.foldl_nil]
    rw [Nat.add_comm, Nat.mul_comm, Nat.testBit_two_pow_mul_add _ (sumOfBits_lt f n)]
    by_cases hlow : i < n
    · rw [if_pos hlow, ih hlow]
    · obtain rfl : i = n := by omega
      rw [if_neg hlow, Nat.sub_self]
      cases f i <;> rfl

/-! ### The results of a step -/

/-- Each BP's result stands in the step's results at the BP's own number. -/
theorem bpResults_getLsbD (m : Team) (p : Nat) {b : Nat} (hb : b < 64) :
    (m.bpResults p).getLsbD b = m.bpResult b (m.entry b p) := by
  rw [Team.bpResults, BitVec.getLsbD_ofNat, testBit_sumOfBits _ hb, decide_eq_true hb, Bool.true_and]

/-- Settles O21: a bit of the results is the result of its BP, which is the truth-table bit that the operands name. -/
theorem bpResultIsItsTruthTable : Obligations.BpResultIsItsTruthTable := by
  intro m p b e v
  calc (m.bpResults p).getLsbD b
      _ = m.bpResult b e := bpResults_getLsbD m p b.isLt
      _ = (bTT e).getLsbD (v 3 * 8 + v 2 * 4 + v 1 * 2 + v 0) := rfl

end Sys2Proof.Machine
end

section
/-! The results of the Word Unit by operation: sums with carry and overflow (R68), comparisons and products (R69), shifts and
rotates (R70). -/
namespace Sys2Proof.Machine

/-! ### What the Word Unit gives, by operation -/

/-- R61, R68: the carry-in, with CI's choice written out. -/
theorem carryIn?_eq_ite (m : Team) (op ci : Nat) (west : Bool) :
    m.carryIn? op ci west = if op = 1 then false else if op = 3 then true
      else if ci = 0 then false else if ci = 1 then true else if ci = 2 then m.flagC else west := by
  match ci with
  | 0 | 1 | 2 => rfl
  | k + 3 => simp [Team.carryIn?]

theorem wuResult_of_isSum (m : Team) {w : BitVec 72} (h : isSum (wOP w) = true) :
    m.wuResult w = addSum (m.source (wIMM w) (wSA w)) (sumB (wOP w) (m.source (wIMM w) (wSB w)))
      (m.carryIn? (wOP w) (wCI w) (m.westCarry.map (·.1) == some true)) :=
  if_pos h

/-- An operation that is no sum has no carry-out, and CI is not among the fields that its result is made of. -/
theorem wuResult_of_not_isSum (m : Team) {w : BitVec 72} (h : isSum (wOP w) = false) :
    m.wuResult w = ⟨if wOP w = 0x29 then (m.nextRsp.map (·.data)).getD 0
      else wuY (wOP w) (m.source (wIMM w) (wSA w)) (m.source (wIMM w) (wSB w)) (m.source (wIMM w) (wSC w)), false, false⟩ := by
  unfold Team.wuResult
  simp only [h, Bool.false_eq_true, if_false]
  split <;> rfl

/-- R66: Y of an operation that is neither a sum nor GPICK is a function of its three operands. -/
theorem wuResult_y_eq_wuY (m : Team) {w : BitVec 72} {op : Nat} (hop : wOP w = op) (hsum : isSum op = false)
    (hpick : op ≠ 0x29) : (m.wuResult w).y
      = wuY op (m.source (wIMM w) (wSA w)) (m.source (wIMM w) (wSB w)) (m.source (wIMM w) (wSC w)) := by
  subst hop
  rw [wuResult_of_not_isSum m hsum]
  exact if_neg hpick

/-! ### Sums (R68) -/

@[simp] theorem addSum_y_toNat (a b' : W24) (cin : Bool) :
    (addSum a b' cin).y.toNat = (a.toNat + b'.toNat + ofBool cin) % 2 ^ 24 :=
  BitVec.toNat_ofNat _ _

theorem ofBool_le_one (x : Bool) : ofBool x ≤ 1 :=
  ofBool_eq_toNat x ▸ Bool.toNat_le x

/-- The sum of two 24-bit numbers and a carry has 25 bits, so its bit 24 tells whether it reaches 2^24. -/
theorem addSum_c_iff (a b' : W24) (cin : Bool) :
    (addSum a b' cin).c = true ↔ 2 ^ 24 ≤ a.toNat + b'.toNat + ofBool cin := by
  have hcin := ofBool_le_one cin
  have hc : (addSum a b' cin).c = decide ((a.toNat + b'.toNat + ofBool cin) / 2 ^ 24 % 2 = 1) :=
    Nat.testBit_eq_decide_div_mod_eq
  rw [hc, decide_eq_true_iff]
  omega

theorem addSum_v_iff (a b' : W24) (cin : Bool) :
    (addSum a b' cin).v = true ↔ a.msb = b'.msb ∧ (addSum a b' cin).y.msb ≠ a.msb := by
  simp [addSum]

/-- V is the overflow of the signed sum: with A and B' of one sign, Y has the other exactly when the exact sum is out of the
range of 24 bits; with A and B' of two signs the exact sum is always within it. -/
theorem addSum_v_iff_overflow (a b' : W24) (cin : Bool) :
    (addSum a b' cin).v = true ↔
      a.toInt + b'.toInt + ofBool cin < -(2 ^ 23) ∨ 2 ^ 23 ≤ a.toInt + b'.toInt + ofBool cin := by
  have hcin := ofBool_le_one cin
  simp only [addSum_v_iff, BitVec.msb_eq_decide, ne_eq, decide_eq_decide, addSum_y_toNat, BitVec.toInt_eq_toNat_cond]
  split <;> split <;> omega

/-- A + NOT B + 1 is the difference. -/
theorem addSum_not_one_y (a b : W24) : (addSum a (~~~b) true).y = a - b := by
  apply BitVec.eq_of_toNat_eq
  rw [addSum_y_toNat, BitVec.toNat_not, BitVec.toNat_sub]
  simp only [ofBool, if_true]
  omega

/-- The carry of A + NOT B + 1 says that no borrow occurred. -/
theorem addSum_not_one_c_iff (a b : W24) : (addSum a (~~~b) true).c = true ↔ b.toNat ≤ a.toNat := by
  rw [addSum_c_iff, BitVec.toNat_not]
  simp only [ofBool, if_true]
  omega

/-- SUB adds NOT B and 1, whatever CI says. -/
theorem wuResult_of_sub (m : Team) {w : BitVec 72} (h : wOP w = 3) :
    m.wuResult w = addSum (m.source (wIMM w) (wSA w)) (~~~(m.source (wIMM w) (wSB w))) true := by
  rw [wuResult_of_isSum m (by rw [h]; rfl), h]
  rfl

/-- Settles O22: the operation's Y, C and V are those of the 25-bit sum, and an operation that is no sum has neither a
carry-out nor a use of CI. -/
theorem sumsCarryAndOverflow : Obligations.SumsCarryAndOverflow := by
  constructor
  · intro m w a b b' cin n r hlow hhigh
    have hr : r = addSum a b' cin := by
      rw [show r = _ from wuResult_of_isSum m (decide_eq_true ⟨hlow, hhigh⟩), carryIn?_eq_ite]
      rfl
    have hcin : (ofBool cin : Int) = if cin then 1 else 0 := by
      cases cin <;> rfl
    refine ⟨?_, ?_, ?_, ?_, fun hsub => ?_⟩
    · exact hr ▸ addSum_y_toNat a b' cin
    · exact hr ▸ addSum_c_iff a b' cin
    · exact hr ▸ addSum_v_iff a b' cin
    · rw [hr, ← hcin]
      exact addSum_v_iff_overflow a b' cin
    · rw [show r = _ from wuResult_of_sub m hsub]
      exact ⟨addSum_not_one_y a b, addSum_not_one_c_iff a b⟩
  · intro m w v hno
    have hw : isSum (wOP w) = false := decide_eq_false hno
    refine ⟨by rw [wuResult_of_not_isSum m hw], fun hop himm hsa hsb hsc => ?_⟩
    rw [wuResult_of_not_isSum m hw, wuResult_of_not_isSum m (hop ▸ hw), hop, himm, hsa, hsb, hsc]

/-! ### Comparisons and products (R69) -/

theorem maskOf_decide (p : Prop) [Decidable p] : maskOf (decide p) = if p then BitVec.allOnes 24 else 0 := by
  simp only [maskOf, decide_eq_true_iff]

/-- The bits 47 to 24 of the unsigned product, with the low 24 bits below them, are the product. -/
theorem mulhu_mull (a b : W24) :
    (BitVec.ofNat 24 (a.toNat * b.toNat / 2 ^ 24)).toNat * 2 ^ 24 + (BitVec.ofNat 24 (a.toNat * b.toNat)).toNat
      = a.toNat * b.toNat := by
  have hlt : a.toNat * b.toNat < 2 ^ 24 * 2 ^ 24 := Nat.mul_lt_mul'' a.isLt b.isLt
  rw [BitVec.toNat_ofNat, BitVec.toNat_ofNat, Nat.mod_eq_of_lt (Nat.div_lt_of_lt_mul hlt), Nat.div_add_mod']

/-- The low 24 bits of the product are the same for unsigned and for signed operands. -/
theorem mull_toNat_eq_toInt_mul_emod (a b : W24) :
    ((BitVec.ofNat 24 (a.toNat * b.toNat)).toNat : Int) = a.toInt * b.toInt % 2 ^ 24 := by
  have hlow : BitVec.ofNat 24 (a.toNat * b.toNat) = BitVec.ofInt 24 (a.toInt * b.toInt) := by
    rw [BitVec.ofNat_mul, BitVec.ofInt_mul, BitVec.ofInt_toInt, BitVec.ofInt_toInt, BitVec.ofNat_toNat, BitVec.ofNat_toNat,
      BitVec.setWidth_eq, BitVec.setWidth_eq]
  rw [hlow, BitVec.toNat_ofInt]
  exact Int.toNat_of_nonneg (Int.emod_nonneg _ (by decide))

/-- The bits 47 to 24 of the signed product, as a signed number, with the low 24 bits below them, are the product. -/
theorem mulhs_mull (a b : W24) :
    (BitVec.ofInt 24 (a.toInt * b.toInt / 2 ^ 24)).toInt * 2 ^ 24 + (BitVec.ofNat 24 (a.toNat * b.toNat)).toNat
      = a.toInt * b.toInt := by
  have hge : -2 ^ 46 ≤ a.toInt * b.toInt := BitVec.le_toInt_mul_toInt
  have hle : a.toInt * b.toInt ≤ 2 ^ 46 := BitVec.toInt_mul_toInt_le
  rw [mull_toNat_eq_toInt_mul_emod, BitVec.toInt_ofInt_eq_self (by decide) (by omega) (by omega), Int.mul_comm _ (2 ^ 24),
    Int.mul_ediv_add_emod]

/-- Settles O23: each comparison and each product takes its operands signed or unsigned as R69 says. -/
theorem comparisonsAndProducts : Obligations.ComparisonsAndProducts := by
  intro m w a b y low
  refine ⟨fun h => ?_, fun h => ?_, fun h => ?_, fun h => ?_, fun h => ?_, fun h => ?_⟩ <;>
    rw [show y = _ from wuResult_y_eq_wuY m h rfl (by decide)]
  · exact maskOf_decide (a = b)
  · exact (congrArg maskOf BitVec.slt_eq_decide).trans (maskOf_decide (a.toInt < b.toInt))
  · exact (congrArg maskOf BitVec.ult_eq_decide).trans (maskOf_decide (a.toNat < b.toNat))
  · rfl
  · exact mulhu_mull a b
  · exact mulhs_mull a b

/-! ### Shifts and rotates (R70) -/

/-- An amount of 24 and more shifts every bit of A out, so SHL needs no case of its own for it. -/
theorem wuY_shl (a b c : W24) : wuY 0x14 a b c = a <<< b.toNat :=
  ite_eq_left_iff.mpr fun h => (BitVec.shiftLeft_eq_zero (not_lt.mp h)).symm

theorem wuY_shr (a b c : W24) : wuY 0x15 a b c = a >>> b.toNat :=
  ite_eq_left_iff.mpr fun h => (BitVec.ushiftRight_eq_zero (not_lt.mp h)).symm

theorem maskOf_getLsbD (x : Bool) {i : Nat} (hi : i < 24) : (maskOf x).getLsbD i = x := by
  cases x with
  | false => exact BitVec.getLsbD_zero
  | true => exact BitVec.getLsbD_allOnes.trans (decide_eq_true hi)

/-- R70: bit i of SAR is bit i + n of A, or the sign where A has no such bit. -/
theorem wuY_sar_getLsbD (a b c : W24) {i : Nat} (hi : i < 24) :
    (wuY 0x16 a b c).getLsbD i = if i + b.toNat < 24 then a.getLsbD (i + b.toNat) else a.getLsbD 23 := by
  change (if b.toNat < 24 then a.sshiftRight b.toNat else maskOf a.msb).getLsbD i = _
  by_cases hn : b.toNat < 24
  · rw [if_pos hn, BitVec.getLsbD_sshiftRight, decide_eq_false (not_le.mpr hi), Bool.not_false, Bool.true_and,
      Nat.add_comm i, BitVec.msb_eq_getLsbD_last]
  · rw [if_neg hn, if_neg (by omega), maskOf_getLsbD _ hi, BitVec.msb_eq_getLsbD_last]

/-- R70: ROL moves bit i to bit (i + n) mod 24. -/
theorem wuY_rol_getLsbD (a b c : W24) {i : Nat} (hi : i < 24) :
    (wuY 0x17 a b c).getLsbD ((i + b.toNat) % 24) = a.getLsbD i := by
  change (a.rotateLeft (b.toNat % 24)).getLsbD _ = _
  rw [BitVec.getLsbD_rotateLeft, Nat.mod_mod]
  by_cases hwrap : (i + b.toNat) % 24 < b.toNat % 24
  · have hplace : 24 - b.toNat % 24 + (i + b.toNat) % 24 = i := by omega
    rw [decide_eq_true hwrap, cond_true, hplace]
  · have hplace : (i + b.toNat) % 24 - b.toNat % 24 = i := by omega
    rw [decide_eq_false hwrap, cond_false, hplace, decide_eq_true (Nat.mod_lt _ (by decide)), Bool.true_and]

/-- R70: ROR moves bit (i + n) mod 24 to bit i. -/
theorem wuY_ror_getLsbD (a b c : W24) {i : Nat} (hi : i < 24) :
    (wuY 0x18 a b c).getLsbD i = a.getLsbD ((i + b.toNat) % 24) := by
  change (a.rotateRight (b.toNat % 24)).getLsbD i = _
  rw [BitVec.getLsbD_rotateRight, Nat.mod_mod]
  by_cases hwrap : i < 24 - b.toNat % 24
  · have hplace : b.toNat % 24 + i = (i + b.toNat) % 24 := by omega
    rw [decide_eq_true hwrap, cond_true, hplace]
  · have hplace : i - (24 - b.toNat % 24) = (i + b.toNat) % 24 := by omega
    rw [decide_eq_false hwrap, cond_false, hplace, decide_eq_true hi, Bool.true_and]

/-- Settles O24: every shift and rotate takes the whole of B as its amount. -/
theorem shiftsAndRotates : Obligations.ShiftsAndRotates := by
  intro m w a n y
  refine ⟨fun h => ?_, fun h => ?_, fun h i hi => ?_, fun h i hi => ?_, fun h i hi => ?_⟩ <;>
    rw [show y = _ from wuResult_y_eq_wuY m h rfl (by decide)]
  · rw [wuY_shl, BitVec.toNat_shiftLeft, Nat.shiftLeft_eq]
  · rw [wuY_shr, BitVec.toNat_ushiftRight, Nat.shiftRight_eq_div_pow]
  · exact wuY_sar_getLsbD a _ _ hi
  · exact wuY_rol_getLsbD a _ _ hi
  · exact wuY_ror_getLsbD a _ _ hi

end Sys2Proof.Machine
end

section
/-! What every command keeps, and what follows for a step: the queue, the grade, the used free values and the canonical forms. -/
namespace Sys2Proof.Machine

/-- Each command is one operation of the model, so it keeps what that operation keeps. -/
theorem exec_kept (c : Instr) (s : State) : KeptOut s (exec c s) := by
  cases c with
  | stepExecute t c => exact execStepExecute_kept t c s
  | hangTimerExpiry t => exact execHangTimerExpiry_kept t s
  | strideBoundaryPass t => exact execStrideBoundaryPass_kept t s
  | chipBoundaryComplete elapsed => exact execChipBoundaryComplete_kept elapsed s
  | tokenConsumption late => exact execTokenConsumption_kept late s
  | dsDecision waiting => exact execDsDecision_kept waiting s
  | descriptorIssue cycles => exact execDescriptorIssue_kept cycles s
  | descriptorArrival t => exact execDescriptorArrival_kept t s
  | hitchInputLatch => exact execHitchInputLatch_kept s
  | receiveStoreWrite t port => exact execReceiveStoreWrite_kept t port s
  | flitReceive t port c => exact execFlitReceive_kept t port c s
  | replayRequest t port => exact execReplayRequest_kept t port s
  | carryArrival t => exact execCarryArrival_kept t s
  | gwRspArrival t => exact execGwRspArrival_kept t s
  | packetInject t place => exact execPacketInject_kept t place s
  | regulatorRefill t => exact execRegulatorRefill_kept t s
  | packetRoute t out blocked => exact execPacketRoute_kept t out blocked s
  | packetArrival t => exact execPacketArrival_kept t s
  | targetTimeout t late => exact execTargetTimeout_kept t late s
  | freezeWrite t v late => exact execFreezeWrite_kept t v late s
  | freezeDrain t => exact execFreezeDrain_kept t s
  | isolateWrite t v => exact execIsolateWrite_kept t v s
  | ssW0Write t w => exact execSsW0Write_kept t w s
  | ssW1Write t w => exact execSsW1Write_kept t w s
  | swapArm t => exact execSwapArm_kept t s
  | swapScanDone t => exact execSwapScanDone_kept t s
  | isStageWrite t wu k v => exact execIsStageWrite_kept t wu k v s
  | isCommitWrite t u a v => exact execIsCommitWrite_kept t u a v s
  | dmWindowWrite t host a v => exact execDmWindowWrite_kept t host a v s
  | dmAliasSet t host a v c => exact execDmAliasSet_kept t host a v c s
  | dmAliasClear t host a v c => exact execDmAliasClear_kept t host a v c s
  | dmaAccess t c => exact execDmaAccess_kept t c s
  | dmaForced t c => exact execDmaForced_kept t c s
  | patrolRegion t fixed ue bad => exact execPatrolRegion_kept t fixed ue bad s
  | isPatrol t c fixed ue bad => exact execIsPatrol_kept t c fixed ue bad s
  | bankPowerWrite t b v => exact execBankPowerWrite_kept t b v s
  | bankInitDone t b => exact execBankInitDone_kept t b s
  | chipStrideLoWrite v => exact execChipStrideLoWrite_kept v s
  | chipStrideHiWrite v => exact execChipStrideHiWrite_kept v s
  | chipStrideLoRead who => exact execChipStrideLoRead_kept who s
  | dsNowLoRead who => exact execDsNowLoRead_kept who s
  | dsHorizonHiWrite v => exact execDsHorizonHiWrite_kept v s
  | dsEnable => exact execDsEnable_kept s
  | hitchTokenAccept => exact execHitchTokenAccept_kept s
  | tapSampleArrival t => exact execTapSampleArrival_kept t s
  | captureRecord full => exact execCaptureRecord_kept full s
  | capArm => exact execCapArm_kept s
  | capStop => exact execCapStop_kept s
  | capForce => exact execCapForce_kept s
  | capDisarm => exact execCapDisarm_kept s
  | laneEnable l => exact execLaneEnable_kept l s
  | laneDisable l => exact execLaneDisable_kept l s
  | sweepSettingDone l acq dwell clean late => exact execSweepSettingDone_kept l acq dwell clean late s
  | sweepDone l => exact execSweepDone_kept l s
  | confirmDone l ok => exact execConfirmDone_kept l ok s
  | trainingBlockReceive l block pats arrive => exact execTrainingBlockReceive_kept l block pats arrive s
  | blockLockLoss l inWindow heads => exact execBlockLockLoss_kept l inWindow heads s
  | faultTimeout l => exact execFaultTimeout_kept l s
  | cdrLockChange l locked => exact execCdrLockChange_kept l locked s
  | injOne l => exact execInjOne_kept l s
  | frameTransmit n at_ expired stuck => exact execFrameTransmit_kept n at_ expired stuck s
  | frameReceive n f at_ => exact execFrameReceive_kept n f at_ s
  | widthChange n => exact execWidthChange_kept n s
  | alignId n => exact execAlignId_kept n s
  | alignN0 n => exact execAlignN0_kept n s
  | stride n => exact execStride_kept n s
  | hold n => exact execHold_kept n s
  | release n => exact execRelease_kept n s
  | time n id => exact execTime_kept n id s
  | fw n => exact execFw_kept n s
  | holdRequest => exact execHoldRequest_kept s
  | releaseRequest => exact execReleaseRequest_kept s
  | atHReached => exact execAtHReached_kept s
  | gwRequestServe c capSpent => exact execGwRequestServe_kept c capSpent s
  | gwRspSend c => exact execGwRspSend_kept c s
  | dynamicBurst c blocked capSpent => exact execDynamicBurst_kept c blocked capSpent s
  | dynamicRequestAged c => exact execDynamicRequestAged_kept c s
  | refreshDue c => exact execRefreshDue_kept c s
  | refpbIssue c => exact execRefpbIssue_kept c s
  | burstCrcCheck c fails last => exact execBurstCrcCheck_kept c fails last s
  | caParityAlert c again => exact execCaParityAlert_kept c again s
  | trainOp c op => exact execTrainOp_kept c op s
  | trainOpDone c pass => exact execTrainOpDone_kept c pass s
  | gdDlyWrite c n v => exact execGdDlyWrite_kept c n v s
  | pauseWrite c => exact execPauseWrite_kept c s
  | pauseTakeEffect c => exact execPauseTakeEffect_kept c s
  | pauseReady c => exact execPauseReady_kept c s
  | pauseClear c late => exact execPauseClear_kept c late s
  | pauseTimeout c => exact execPauseTimeout_kept c s
  | srefWrite c v => exact execSrefWrite_kept c v s
  | hotWindow c => exact execHotWindow_kept c s
  | hitchGoWrite v => exact execHitchGoWrite_kept v s
  | qstopWrite v => exact execQstopWrite_kept v s
  | prHold r => exact execPrHold_kept r s
  | prRelease => exact execPrRelease_kept s
  | contentionDetect line => exact execContentionDetect_kept line s
  | rearm => exact execRearm_kept s
  | hpoUpdate => exact execHpoUpdate_kept s
  | hpLoad v => exact execHpLoad_kept v s
  | tokenPortTake task opnd data => exact execTokenPortTake_kept task opnd data s
  | streamRxTake n => exact execStreamRxTake_kept n s
  | streamTxTake n stream nb data => exact execStreamTxTake_kept n stream nb data s
  | treeSwitch t => exact execTreeSwitch_kept t s
  | treeSwitchTimeout t => exact execTreeSwitchTimeout_kept t s
  | extest v oe => exact execExtest_kept v oe s
  | tbUpdate => exact execTbUpdate_kept s
  | tbIncWrite v => exact execTbIncWrite_kept v s
  | tbAdjWrite v => exact execTbAdjWrite_kept v s
  | tbSetWrite => exact execTbSetWrite_kept s
  | tbNowNsRead by_ => exact execTbNowNsRead_kept by_ s
  | tbSbStrideRead by_ => exact execTbSbStrideRead_kept by_ s
  | tbTxqW3Read by_ => exact execTbTxqW3Read_kept by_ s
  | tpTxGo j => exact execTpTxGo_kept j s
  | tpTxDone at_ => exact execTpTxDone_kept at_ s
  | tpRxFrame blocks at_ => exact execTpRxFrame_kept blocks at_ s
  | tpRxFree j => exact execTpRxFree_kept j s
  | registerWrite who a n vs => exact execRegisterWrite_kept who a n vs s
  | latchedPairRead who a n => exact execLatchedPairRead_kept who a n s
  | bar2Access d n data => exact execBar2Access_kept d n data s
  | bar4Access a n data c hub dead => exact execBar4Access_kept a n data c hub dead s
  | peFenceRead => exact execPeFenceRead_kept s
  | commandSlotWrite m w v => exact execCommandSlotWrite_kept m w v s
  | doorbell m v => exact execDoorbell_kept m v s
  | rspCiWrite m v => exact execRspCiWrite_kept m v s
  | commandTake m => exact execCommandTake_kept m s
  | commandTimeout m place done => exact execCommandTimeout_kept m place done s
  | eventPost m => exact execEventPost_kept m s
  | peIntEnWrite hi v => exact execPeIntEnWrite_kept hi v s
  | mailboxReset m => exact execMailboxReset_kept m s
  | mailboxResetDone m => exact execMailboxResetDone_kept m s
  | functionLevelReset down => exact execFunctionLevelReset_kept down s
  | pePerst => exact execPePerst_kept s
  | getInfo => exact execGetInfo_kept s
  | setEventVector => exact execSetEventVector_kept s
  | warmReset => exact execWarmReset_kept s
  | imageLoad img excl islands crc => exact execImageLoad_kept img excl islands crc s
  | imageInfo => exact execImageInfo_kept s
  | aperture => exact execAperture_kept s
  | imageUnload => exact execImageUnload_kept s
  | runStart runs => exact execRunStart_kept runs s
  | runStop => exact execRunStop_kept s
  | runAbort => exact execRunAbort_kept s
  | stepStrides => exact execStepStrides_kept s
  | bkpArm => exact execBkpArm_kept s
  | haltContinue => exact execHaltContinue_kept s
  | hostGo => exact execHostGo_kept s
  | horizon => exact execHorizon_kept s
  | token late => exact execToken_kept late s
  | snapshotSave finds crc => exact execSnapshotSave_kept finds crc s
  | snapshotRestore dma crc => exact execSnapshotRestore_kept dma crc s
  | linkUp => exact execLinkUp_kept s
  | linkDown => exact execLinkDown_kept s
  | linkStatus => exact execLinkStatus_kept s
  | elasticWidth => exact execElasticWidth_kept s
  | laneTest => exact execLaneTest_kept s
  | memInfo => exact execMemInfo_kept s
  | regionAlloc => exact execRegionAlloc_kept s
  | regionFree => exact execRegionFree_kept s
  | memCopy dma => exact execMemCopy_kept dma s
  | driftCfg => exact execDriftCfg_kept s
  | capConfig dma => exact execCapConfig_kept dma s
  | capCtl => exact execCapCtl_kept s
  | capStatus => exact execCapStatus_kept s
  | tbSet => exact execTbSet_kept s
  | cmpAlloc => exact execCmpAlloc_kept s
  | cmpFree => exact execCmpFree_kept s
  | linkTime id far => exact execLinkTime_kept id far s
  | tpTx dma => exact execTpTx_kept dma s
  | tpRx => exact execTpRx_kept s
  | htPartial dma => exact execHtPartial_kept dma s
  | htCtl => exact execHtCtl_kept s
  | htClock => exact execHtClock_kept s
  | sbRead => exact execSbRead_kept s
  | sbMark => exact execSbMark_kept s
  | regSet tooMuch => exact execRegSet_kept tooMuch s
  | probeCfg => exact execProbeCfg_kept s
  | traceCfg next => exact execTraceCfg_kept next s
  | teamPower => exact execTeamPower_kept s
  | debugRead => exact execDebugRead_kept s
  | secStatus => exact execSecStatus_kept s
  | keyWrite => exact execKeyWrite_kept s
  | lcAdvance => exact execLcAdvance_kept s
  | lcReturn dma => exact execLcReturn_kept dma s
  | coldReset pwr => exact execColdReset_kept pwr s
  | warmResetBegin => exact execWarmResetBegin_kept s
  | bootStageDone b => exact execBootStageDone_kept b s
  | referenceLoss c => exact execReferenceLoss_kept c s
  | referenceReturn c => exact execReferenceReturn_kept c s
  | heartbeatTimeout cls idx dead late => exact execHeartbeatTimeout_kept cls idx dead late s
  | oneSidedReset cls idx => exact execOneSidedReset_kept cls idx s
  | crossingRearm cls idx => exact execCrossingRearm_kept cls idx s
  | teamPwrWrite t v => exact execTeamPwrWrite_kept t v s
  | teamSwitchDone t => exact execTeamSwitchDone_kept t s
  | thermalSample temps => exact execThermalSample_kept temps s
  | tamper mask begun => exact execTamper_kept mask begun s
  | watchdogExpiry g us pc recent digestOk kick at_ => exact execWatchdogExpiry_kept g us pc recent digestOk kick at_ s
  | watchdogKick g v => exact execWatchdogKick_kept g v s
  | groomRestart g => exact execGroomRestart_kept g s
  | groomRestartTimeout g => exact execGroomRestartTimeout_kept g s
  | sbWrW3Write g v => exact execSbWrW3Write_kept g v s
  | saddlebagRecord cycles => exact execSaddlebagRecord_kept cycles s
  | suppressionSecondEnd g => exact execSuppressionSecondEnd_kept g s
  | ceSummary => exact execCeSummary_kept s
  | sbRecordRead who place => exact execSbRecordRead_kept who place s
  | smbusStatus => exact execSmbusStatus_kept s
  | smbusSetIndex v pecOk => exact execSmbusSetIndex_kept v pecOk s
  | smbusReadRecord => exact execSmbusReadRecord_kept s
  | smbusAlertStat => exact execSmbusAlertStat_kept s
  | smbusAlertClr v pecOk => exact execSmbusAlertClr_kept v pecOk s
  | unfreeze v pecOk => exact execUnfreeze_kept v pecOk s
  | smbusWarmReset v pecOk => exact execSmbusWarmReset_kept v pecOk s
  | smbusChipId => exact execSmbusChipId_kept s
  | alertResponseRead => exact execAlertResponseRead_kept s
  | sbaccCapture => exact execSbaccCapture_kept s
  | sbaccUpdate v => exact execSbaccUpdate_kept v s
  | conditionalBranch g taken cycles next => exact execConditionalBranch_kept g taken cycles next s
  | indirectBranch g cycles target => exact execIndirectBranch_kept g cycles target s
  | exceptionTaken g cycles addr handler cause => exact execExceptionTaken_kept g cycles addr handler cause s
  | waitForInterrupt g cycles => exact execWaitForInterrupt_kept g cycles s
  | wake g addr => exact execWake_kept g addr s
  | traceDrop g next => exact execTraceDrop_kept g next s
  | traceBlockFlush g aged => exact execTraceBlockFlush_kept g aged s
  | traceCtlWrite v next => exact execTraceCtlWrite_kept v next s
  | progressCountArrival t port count => exact execProgressCountArrival_kept t port count s
  | creditReturn t port vc => exact execCreditReturn_kept t port vc s
  | blockLockAcquire l inverted heads => exact execBlockLockAcquire_kept l inverted heads s
  | prbsLockChange l received => exact execPrbsLockChange_kept l received s
  | rdyBlocksSent l => exact execRdyBlocksSent_kept l s
  | tpLinkUpChange heads bad => exact execTpLinkUpChange_kept heads bad s
  | vddioHtChange b mv => exact execVddioHtChange_kept b mv s
  | vddAonLoss => exact execVddAonLoss_kept s
  | vddAonRise => exact execVddAonRise_kept s
  | resetRelease => exact execResetRelease_kept s
  | stepPllLock => exact execStepPllLock_kept s
  | rcRegisterRead who a n => exact execRcRegisterRead_kept who a n s
  | configurationWrite reg v => exact execConfigurationWrite_kept reg v s
  | msixVectorUnmask v => exact execMsixVectorUnmask_kept v s
  | pcieLinkUp width speed => exact execPcieLinkUp_kept width speed s
  | smbusArpAssign addr => exact execSmbusArpAssign_kept addr s
  | jtagInstructionLoad code => exact execJtagInstructionLoad_kept code s
  | tpRxWaitExpiry => exact execTpRxWaitExpiry_kept s

/-- Taking the front command off the queue touches no table. -/
theorem wf_pending (s : State) (l : List Instr) : ({ s with pending := l } : State).wf = s.wf := rfl

/-- Settles O3: a step is a tick or the front command, and both keep the canonical forms. -/
theorem soundnessIsKept : Obligations.SoundnessIsKept := by
  intro s t hwf hstep
  unfold step at hstep
  split at hstep
  next =>
    cases hstep
    exact (State.tick_kept (Kept.refl s)).wf hwf
  next c rest _ =>
    exact ((exec_kept c _).of t hstep).wf ((wf_pending s rest).trans hwf)

/-- Settles O4. -/
theorem queueAndGradeAreKept : Obligations.QueueAndGradeAreKept := by
  intro c s t h
  obtain ⟨hpending, hsmall, hfree, -⟩ := (exec_kept c s).of t h
  exact ⟨hpending, hsmall, hfree⟩

/-! ### Commands always go on -/

/-- Settles O1: both parts are the two cases of `step`. -/
theorem frontCommandRuns : Obligations.FrontCommandRuns := by
  constructor
  · intro c rest s h
    simp [step, h]
  · intro s h
    simp [step, h]

/-- A command that names a Team acts on a mapped Team only. -/
theorem exec_eq_onMapped (c : Instr) (s : State) {n : Nat} (h : teamOf c = some n) : ∃ f, exec c s = onMapped n s f := by
  cases c <;> cases h
  case freezeWrite t v late => exact ⟨fun s => s.rtrCtl t v late, rfl⟩
  case isolateWrite t v => exact ⟨fun s => s.rtrCtl t v false, rfl⟩
  all_goals exact ⟨_, rfl⟩

theorem exec_next (c : Instr) (s : State) : ∃ t, exec c s = .next t := by
  cases c <;> exact ⟨_, rfl⟩

/-- Settles O5. -/
theorem everyCommandCompletes : Obligations.EveryCommandCompletes := by
  refine ⟨exec_next, fun c s n hteam hgrade => ?_⟩
  obtain ⟨f, hf⟩ := exec_eq_onMapped c s hteam
  rw [hf, onMapped_off (Nat.not_lt.mpr hgrade)]

/-! ### Reset -/

/-- Settles O2: no register is listed after reset, so each reads as its table says. -/
theorem resetState : Obligations.ResetState := by
  refine ⟨rfl, ?_, ?_, ?_, ?_, ?_, ?_, ?_, ?_, rfl, fun _ => rfl, fun _ => rfl⟩ <;> decide

end Sys2Proof.Machine
end

section
/-! A Team's cycle before its boundary: halts, stalls, the executed step (R102, R104) and the hang timer (R118). -/
namespace Sys2Proof.Machine

/-- The bits of a field of the map are numerals, so the kernel sees that they lie in a word. -/
theorem Fld.ok_of (f : Fld) (h : (Nat.ble f.lo f.hi && Nat.blt f.hi 32) = true) : f.ok := by
  obtain ⟨hlo, hhi⟩ := (Bool.and_eq_true _ _).mp h
  exact ⟨Nat.le_of_ble_eq_true hlo, Nat.le_of_ble_eq_true hhi⟩

variable {s : State} {t : Nat} {c : StepChecks}

/-! ### Cycles without a step -/

/-- A Team that can step, by what holds it back: the cascade of R104 (`State.stepCycle`), one equation per case. -/
theorem stepCycle_of_halted (h : s.canStep t = true) (hh : (s.team t).halted = true) :
    s.stepCycle t c = s.put (Reg.TEAM_STEP_STATE t) 3 := by
  simp [State.stepCycle, h, hh]

theorem stepCycle_of_rxWaits (h : s.canStep t = true) (hh : (s.team t).halted = false) (hrx : s.rxWaits t = true) :
    s.stepCycle t c = s.stall t (Reg.TEAM_STALL_RX_COUNT t) 1 := by
  simp [State.stepCycle, h, hh, hrx]

theorem stepCycle_of_locWaits (h : s.canStep t = true) (hh : (s.team t).halted = false) (hrx : s.rxWaits t = false)
    (hloc : s.locWaits t = true) : s.stepCycle t c = (s.rmwWrite t).stall t (Reg.TEAM_STALL_LOC_COUNT t) 1 := by
  simp [State.stepCycle, h, hh, hrx, hloc]

theorem stepCycle_of_skewWaits (h : s.canStep t = true) (hh : (s.team t).halted = false) (hrx : s.rxWaits t = false)
    (hloc : s.locWaits t = false) (hskew : s.skewWaits t = true) :
    s.stepCycle t c = s.stall t (Reg.TEAM_STALL_SKEW_COUNT t) 2 := by
  simp [State.stepCycle, h, hh, hrx, hloc, hskew]

theorem stepCycle_of_free (h : s.canStep t = true) (hh : (s.team t).halted = false) (hrx : s.rxWaits t = false)
    (hloc : s.locWaits t = false) (hskew : s.skewWaits t = false) (hue : c.isDouble = []) :
    s.stepCycle t c = s.execStep t (s.stepAddr t) c := by
  simp [State.stepCycle, h, hh, hrx, hloc, hskew, hue]

/-- A cycle of a Team of the grade: what `stepCycle` answers, compared with the queue bounds of R206. -/
theorem exec_stepExecute {t : Fin 1024} (h : t.val < s.nTeams) :
    exec (.stepExecute t c) s = .next ((s.stepCycle t c).qboundAll t) :=
  onMapped_on h _

/-- A Team that is halted shows STATE 3 and changes nothing else. -/
theorem put_step_state_three (s : State) (t : Nat) :
    let u := s.put (Reg.TEAM_STEP_STATE t) 3
    u.get (Reg.TEAM_STEP_STATE t) = 3 ∧ u.stepNo t = s.stepNo t ∧ s.keepsRegs u [Adr.TEAM_STEP t] ∧ u = { s with regs := u.regs } := by
  refine ⟨State.get_put_same _ _ (Fld.ok_of _ rfl), State.get_put_other _ _ (Fld.ok_of _ rfl) (.inr (.inr (by simp))), fun a ha => ?_, put_eta s _ _⟩
  exact State.rd_put_other _ _ (by simpa using ha)

/-- Settles O6: the cases are those of the cascade of R104, and each stall is one counter and STATE. -/
theorem cyclesWithoutStepCountOneStall : Obligations.CyclesWithoutStepCountOneStall := by
  intro t c s ht hcan
  rw [exec_stepExecute ht]
  refine ⟨fun hh => ?_, fun hh => ⟨fun hrx => ?_, fun hrx hloc => ?_, fun hrx hloc hskew => ?_⟩⟩
  · rw [stepCycle_of_halted hcan hh]
    exact ⟨_, rfl, put_step_state_three s t⟩
  · rw [stepCycle_of_rxWaits hcan hh hrx]
    exact ⟨_, rfl, stalls_stall s t _ _ (Fld.ok_of _ rfl) ⟨rfl, rfl⟩ (by simp) (by decide)⟩
  · rw [stepCycle_of_locWaits hcan hh hrx hloc]
    exact ⟨_, rfl, stalls_stall (s.rmwWrite t) t _ _ (Fld.ok_of _ rfl) ⟨rfl, rfl⟩ (by simp) (by decide)⟩
  · rw [stepCycle_of_skewWaits hcan hh hrx hloc hskew]
    exact ⟨_, rfl, stalls_stall s t _ _ (Fld.ok_of _ rfl) ⟨rfl, rfl⟩ (by simp) (by decide)⟩

/-! ### The executed step -/

/-- What the step at address p leaves in a Team's own units: `m` before the step, `k` after it. -/
def Team.StepResult (m k : Team) (p : Nat) : Prop :=
  let w := m.entry 64 p
  (k.busBp = m.bpResults p ∧ k.send = m.sendAfter p (m.bpResults p) ∧ k.busWu = (m.wuResult w).y
    ∧ (∀ a, k.smRow a = if a = p then m.bpResults p else m.smRow a)
    ∧ (∀ r, k.reg r = if r = wRD w ∧ wWEN w = true ∧ opWrites (wOP w) = true then (m.wuResult w).y else m.reg r)
    ∧ k.flagC = (if isSum (wOP w) then (m.wuResult w).c else m.flagC)
    ∧ k.flagV = (if isSum (wOP w) then (m.wuResult w).v else m.flagV)
    ∧ k.dmrd = m.dmrdNext.getD m.dmrd ∧ k.pbrd = m.pbrdNext.getD m.pbrd)
  ∧ k.start = m.start ∧ k.len = m.len ∧ k.slot = m.slot ∧ k.stride = m.stride ∧ k.rs = m.rs ∧ k.rsHave = m.rsHave

/-- The units' results stand in the Team's core, outside what the ports of design memory and the tap hold. -/
theorem Team.StepResult.of_core {m z k : Team} {p : Nat} (h : m.StepResult z p) {tap ring pass d q o x y}
    (hk : k.core = ({ z with tap := tap, ring := ring, passNow := pass } : Team).core.ports d q o x y) : m.StepResult k p := by
  rw [core_eq _ k (hk.trans rfl : k.core = (Team.core (Team.ports _ d q o x y)))]
  exact h

theorem Team.dm_of_core {z k : Team} {d q o x y} (hk : k.core = z.core.ports d q o x y) : k.dm = d :=
  congrArg Team.dm hk

theorem Team.word_of_dm {k : Team} {d : List (Nat × W24)} (h : k.dm = d) (a : Nat) : k.word a = Tab.get (fun _ => 0#24) d a := by
  rw [Team.word, h]

/-- Sampling the taps leaves design memory and the waiting read-modify-write. -/
theorem Team.ports_of_tap {m z : Team} (h : z.dm = m.dm ∧ z.rmw = m.rmw) {tap ring pass} :
    ({ z with tap := tap, ring := ring, passNow := pass } : Team).dm = m.dm
      ∧ ({ z with tap := tap, ring := ring, passNow := pass } : Team).rmw = m.rmw := h

theorem Team.stepResult_commit {m k : Team} (t p : Nat) (h : k.core = m.core) : m.StepResult (m.commit k t p) p := by
  obtain ⟨hbus, hsend, hwu, hsm, hreg, hc, hv, hdmrd, hpbrd, hstart, hlen, hslot, hstride, hrs, hhave, -, -⟩ := commit_core m k t p h
  exact ⟨⟨hbus, hsend, hwu, hsm, hreg, hc, hv, hdmrd, hpbrd⟩, hstart, hlen, hslot, hstride, hrs, hhave⟩

/-- What an executed step leaves of every register and Team that the statement names, up to the comparison with the queue
bounds: `u` after the cycle's end. -/
theorem execStep_facts (s : State) (t : Nat) (c : StepChecks) (hlive : s.mode ≠ mIdle) :
    let u := (s.execStep t (s.stepAddr t) c).qboundAll t
    let m := s.team t
    let p := s.stepAddr t
    let w := m.entry 64 p
    (u.get (Reg.TEAM_PROG_PROG t) = (s.get (Reg.TEAM_PROG_PROG t) + 1) % 2 ^ 32
      ∧ u.stepNo t = (s.stepNo t + 1) % 2 ^ 11
      ∧ u.get (Reg.TEAM_STEP_STATE t) = (if m.len ≤ s.stepNo t + 1 then 4 else 0))
    ∧ m.StepResult (u.team t) p
    ∧ (u.team (s.nb t 2)).carryIn = (s.team (s.nb t 2)).carryIn
        ++ (if wCEN w then [((m.wuResult w).c, m.stride.getLsbD 0)] else [])
    ∧ (∀ x : Nat, x ≠ t → x ≠ s.nb t 2 → u.team x = s.team x)
    ∧ ∀ a : Nat, (∀ x d, m.rmw = some (x, d) → x ≠ a) → (∀ q, m.portA w = some q → q.write.isSome = true → q.addr ≠ a)
        → (∀ q, s.pbArrived t p (s.fired t p).run = some q → q.writes = true → q.addr ≠ a) → (u.team t).word a = m.word a := by
  intro u m p w
  let s1 := s.stepUnits t p c
  let s2 := s1.stepCount t (s.stepNo t) (decide (m.len ≤ s.stepNo t + 1)) (s.waitCause t == 0)
  obtain ⟨⟨k, hk, hcommit⟩, hother, hcarry, hprog⟩ := stepUnits_facts s t p c hlive
  obtain ⟨tap, ring, pass, hteam2, hother2, hprog2, hstep2, hstate2⟩ :=
    stepCount_facts s1 t (s.stepNo t) (decide (m.len ≤ s.stepNo t + 1)) (s.waitCause t == 0)
  obtain ⟨⟨d, q, o, x, y, hcore3, hword3⟩, hother3, htick3⟩ :=
    stepTell_facts s2 t p m (s.fired t p) (s.pbArrived t p (s.fired t p).run)
      (s.mode == mCheck && s.on (Reg.TEAM_CHK_CTL_COMB_EN t)) (s.mode == mStep && s.on (Reg.TEAM_BP_CTL_BKP_EN t)) c
  have hend : TK t (s.execStep t p c) u := State.qboundAll_tk (TK.refl _)
  have htick : ∀ a, Tick a → u.rd a = s2.rd a := fun a ha => (hend.tick a ha).trans (htick3 a ha)
  have hcore : (u.team t).core = (s2.team t).core.ports d q o x y := hend.core.trans hcore3
  have hothers : ∀ z, z ≠ t → u.team z = s1.team z := fun z hz =>
    (hend.other z hz).trans ((hother3 z hz).trans (hother2 z hz))
  refine ⟨⟨?_, ?_, ?_⟩, ?_, ?_, fun z hz hn => (hothers z hz).trans (hother z hz hn), fun a hrmw hA hB => ?_⟩
  · rw [State.get_eq_of_rd (htick _ (tick_prog t)), hprog2, State.get_eq_of_rd hprog]
  · rw [State.stepNo, State.get_eq_of_rd (htick _ (tick_step t)), hstep2]
  · rw [State.get_eq_of_rd (htick _ (tick_step t)), hstate2]
    simp only [decide_eq_true_eq]
  · rw [hteam2, hcommit] at hcore
    exact (Team.stepResult_commit t p hk).of_core hcore
  · rw [hothers _ (nb_ne s t), hcarry]
  · obtain ⟨-, -, -, -, -, -, -, -, -, -, -, -, -, -, -, hdm, hrmwKept⟩ := commit_core m k t p hk
    have hkept2 : (s2.team t).dm = m.dm ∧ (s2.team t).rmw = m.rmw := by
      rw [hteam2, hcommit]
      exact Team.ports_of_tap ⟨hdm, hrmwKept⟩
    clear_value s2 u
    rw [Team.word_of_dm (Team.dm_of_core hcore), hword3 a (fun x v hx => hrmw x v (hkept2.2 ▸ hx)) hA hB]
    exact Team.word_of_dm hkept2.1 a

theorem mode_ne_idle_of_canStep {s : State} {t : Nat} (h : s.canStep t = true) : s.mode ≠ mIdle := by
  intro hidle
  simp [State.canStep, State.strideMode, hidle] at h

/-- Settles O7. -/
theorem stepRunsInstruction : Obligations.StepRunsInstruction := by
  intro t c s ht hcan hh hrx hloc hskew hue
  obtain ⟨⟨hprog, hstep, hstate⟩, ⟨⟨hbus, hsend, hwu, hsm, hreg, hc, hv, hdmrd, hpbrd⟩, hkept⟩, hcarry, hother, hword⟩ :=
    execStep_facts s t c (mode_ne_idle_of_canStep hcan)
  obtain ⟨hstart, hlen, hslot, hstride, hrs, hhave⟩ := hkept
  refine ⟨(s.execStep t (s.stepAddr t) c).qboundAll t, ?_, hprog, hstep, hstate, hbus, hsend, hwu, hsm, hreg, hc, hv, hdmrd, hpbrd,
    hcarry, hother, hstart, hlen, hslot, hstride, hrs, hhave, hword⟩
  rw [exec_stepExecute ht, stepCycle_of_free hcan hh hrx hloc hskew hue]

/-! ### The hang timer (R118) -/

theorem hang_of_limit (h : s.get (Reg.TEAM_HANG_CTL_HANG_LIMIT t) ≠ 0) (hcan : s.canStep t = true)
    (hstate : s.get (Reg.TEAM_STEP_STATE t) = 1 ∨ s.get (Reg.TEAM_STEP_STATE t) = 2) :
    s.hang t = (s.set1 (Reg.TEAM_STRIDE_STAT_HUNG t)).hungReport t (s.get (Reg.TEAM_STEP_STATE t)) :=
  if_pos ⟨h, hstate, hcan⟩

theorem hang_of_no_limit (h : s.get (Reg.TEAM_HANG_CTL_HANG_LIMIT t) = 0) : s.hang t = s :=
  if_neg fun hall => hall.1 h

/-- Settles O12: HUNG sets in each case, and `State.hungReport` looks at whether the stride has reported. -/
theorem hangReportsOncePerStride : Obligations.HangReportsOncePerStride := by
  refine ⟨fun t s ht hlimit hcan hstate => ?_, fun t s ht hzero => ?_⟩
  · rw [show exec (.hangTimerExpiry t) s = _ from onMapped_on ht _, hang_of_limit hlimit hcan hstate]
    refine ⟨fun hfirst => ?_, fun hsent => ?_⟩
    · rw [State.hungReport, State.team_set1, if_neg (Bool.not_eq_true _ ▸ hfirst)]
    · rw [State.hungReport, State.team_set1, if_pos hsent]
  · rw [show exec (.hangTimerExpiry t) s = _ from onMapped_on ht _, hang_of_no_limit hzero]

end Sys2Proof.Machine
end

section
/-! The stride boundary of a Team (R111) and of the chip (R112, R113), and what reaches a Team between its steps. -/
namespace Sys2Proof.Machine

variable {s : State} {t : Nat}

/-! ### Changes of registers alone -/

/-- From `s` to `u` nothing but registers has changed. -/
def State.OnlyRegs (s u : State) : Prop := ∃ r, u = { s with regs := r }

theorem State.OnlyRegs.refl (s : State) : s.OnlyRegs s := ⟨_, rfl⟩

theorem State.OnlyRegs.put {u : State} (h : s.OnlyRegs u) (f : Fld) (v : Nat) : s.OnlyRegs (u.put f v) := by
  obtain ⟨r, rfl⟩ := h
  exact ⟨_, rfl⟩

theorem State.OnlyRegs.eq {u : State} (h : s.OnlyRegs u) : u = { s with regs := u.regs } := by
  obtain ⟨r, rfl⟩ := h
  rfl

/-! ### Waiting in END -/

/-- An END cycle whose conditions do not all hold only counts and shows its cause. -/
theorem boundary_of_waits (hend : s.atEnd t = true) (hpass : (s.team t).passNow = false) (hlen : (s.team t).len ≠ 0)
    (hcause : s.waitCause t ≠ 0) :
    s.boundary t = ((s.sat (Reg.TEAM_BWAIT_COUNT t) 1).put (Reg.TEAM_STRIDE_STAT_WAIT_CAUSE t) (s.waitCause t)).put
      (Reg.TEAM_STEP_STATE t) 4 := by
  simp [State.boundary, hend, hpass, hlen, hcause]

/-- A counter of 32 bits reads as one more, or stays at its greatest value. -/
theorem get_sat_word (s : State) (a k : Nat) : (s.sat ⟨a, 31, 0⟩ k).get ⟨a, 31, 0⟩ = satAdd 32 (s.get ⟨a, 31, 0⟩) k := by
  rw [State.sat, State.get_put_same _ _ (Fld.ok_of _ rfl)]
  apply Nat.mod_eq_of_lt
  simp only [satAdd]
  omega

/-- Settles O8. -/
theorem boundaryWaitShowsItsCause : Obligations.BoundaryWaitShowsItsCause := by
  intro t s ht hend hpass hlen hcause
  rw [show exec (.strideBoundaryPass t) s = _ from onMapped_on ht _, boundary_of_waits hend hpass hlen hcause]
  refine ⟨_, rfl, ?_, ?_, State.get_put_same _ _ (Fld.ok_of _ rfl), by simp, fun a ha => ?_,
    (((State.OnlyRegs.refl s).put _ _).put _ _ |>.put _ _).eq⟩
  · rw [State.get_put_other _ _ (Fld.ok_of _ rfl) (.inl (by simp)), State.get_put_other _ _ (Fld.ok_of _ rfl) (.inl (by simp)),
      get_sat_word]
  · rw [State.get_put_other _ _ (Fld.ok_of _ rfl) (.inl (by simp)), State.get_put_same _ _ (Fld.ok_of _ rfl)]
    rfl
  · simp only [List.mem_cons, List.not_mem_nil, or_false, not_or] at ha
    obtain ⟨hbwait, hstat, hstep⟩ := ha
    rw [State.rd_put_other _ _ hstep, State.rd_put_other _ _ hstat, State.sat, State.rd_put_other _ _ hbwait]

/-! ### Passing -/

/-- A Team that a report may have halted. -/
def Team.withHalt (m : Team) (b : Bool) : Team := { m with halted := b }

/-- A check report halts its Team at most: the rest of the Team and every other Team stay. -/
theorem checkReport_team (s : State) (t n : Nat) : ∃ b, (s.checkReport t n).team t = (s.team t).withHalt b := by
  unfold State.checkReport
  extract_lets s1 ch s2 k s3
  have h1 : s1.team t = (s.team t).withHalt true := State.team_setTeam_same _ _ _
  split
  · split
    · exact ⟨true, h1⟩
    · have hteams : ((s3.postEvent 3 ⟨0x0005, 3, packBytes [(16, 2, t), (18, 1, n)]⟩).requestHold rCheck).teams = s2.teams := by
        rw [State.requestHold, (State.adoptHold_far _ _ _ _ (Far.refl _)).teams, State.postEvent_teams, State.groomRec_teams]
      refine ⟨true, ?_⟩
      rw [State.team, hteams]
      exact h1
  · exact ⟨_, rfl⟩

/-- What every step of a fold keeps, the fold keeps. -/
theorem foldl_keeps {α β : Type} {f : State → α → State} (g : State → β) (h : ∀ s x, g (f s x) = g s) (l : List α) (s : State) :
    g (l.foldl f s) = g s := by
  induction l generalizing s with
  | nil => rfl
  | cons x l ih => exact (ih (f s x)).trans (h s x)

theorem checkReport_team_of_far {u : State} (h : Far s u) (t n : Nat) :
    ∃ b, (u.checkReport t n).team t = (s.team t).withHalt b := by
  obtain ⟨b, hb⟩ := checkReport_team u t n
  exact ⟨b, by rw [hb, State.team, h.teams, State.team]⟩

theorem groomRec_far (g sev code : Nat) (arg : BitVec 48) {r : State} (h : Far r s) : Far r (s.groomRec g sev code arg) :=
  h.of (State.groomRec_teams _ _ _ _ _) (fun _ ha => State.groomRec_rd _ _ _ _ _ (ha.ne (notDeep (by decide))))
    (congrArg Fuses.small (State.groomRec_fuses _ _ _ _ _))

theorem not_deep_team (k t : Nat) (h : k % 0x400 ≠ 0xD4 ∧ k % 0x400 ≠ 0x140 ∧ k % 0x400 ≠ 0x158) (hk : Adr.CHIP_MODE < k) :
    ¬ Deep (k + 0x400 * t) :=
  fun hdeep => hdeep.elim (noTick k t h) (by omega)

theorem wuErrs_team (s : State) (t n : Nat) (es : List WuErr) : ∃ b, (s.wuErrs t n es).team t = (s.team t).withHalt b := by
  unfold State.wuErrs
  split
  next => exact ⟨_, rfl⟩
  next e l =>
    have hflags : Far s ((e :: l).foldl (fun s e => s.set1 ⟨Adr.TEAM_WU_ERR t, e.kind, e.kind⟩) s) :=
      Far.foldl _ (Far.refl s) fun _ _ h => h.set1 _ (not_deep_team _ _ (by decide) (by decide))
    apply checkReport_team_of_far
    refine Far.ite hflags (State.postEvent_far _ (by decide) _ (groomRec_far _ _ _ _ ?_))
    exact ((((hflags.set1 _ (not_deep_team _ _ (by decide) (by decide))).put _ _ (not_deep_team _ _ (by decide) (by decide))).put _ _
      (not_deep_team _ _ (by decide) (by decide))).put _ _ (not_deep_team _ _ (by decide) (by decide))).put _ _
      (not_deep_team _ _ (by decide) (by decide))

/-- The Team as it stands after a pass, but for a halt by a report of the ended stride. -/
theorem pass_team (s : State) (t : Nat) :
    ∃ b, (s.pass t).team t = ((s.team t).nextStride ((s.team t).slot.getD ⟨0, 0, 0⟩)).withHalt b := by
  unfold State.pass
  extract_lets m n d s1 s2 s3 s4
  obtain ⟨b, hb⟩ := wuErrs_team s4 t n ((if m.carryQ.any (fun c => c.2 == m.stride.getLsbD 0) then [⟨3, 0, 0⟩] else [])
    ++ (if m.gwQ.any (fun g => g.tag == n % 256) then [⟨4, 0, 0⟩] else []))
  refine ⟨b, ?_⟩
  rw [hb]
  simp [s4, s3, m, d]

/-- The swap and the output slice of a pass touch no Team. -/
theorem swapAt_teams (s : State) (t n : Nat) : (s.swapAt t n).teams = s.teams := by
  unfold State.swapAt
  split <;> simp

theorem pass_team_other (s : State) {t x : Nat} (hx : x ≠ t) : (s.pass t).team x = s.team x := by
  unfold State.pass
  extract_lets m n d s1 s2 s3 s4
  have h1 : s1.teams = s.teams := by
    unfold s1
    split <;> rfl
  have h4 : s4.team x = s.team x := by
    simp only [s4, s3, State.team_put, State.onRouter_def, State.team_setRouter, State.team_setTeam_other _ _ hx]
    rw [State.team, swapAt_teams, h1, State.team]
  exact ((State.wuErrs_tk _ _ (TK.refl s4)).other x hx).trans h4

/-- The registers of progress after a pass. -/
theorem pass_progress (s : State) (t : Nat) :
    (s.pass t).get (Reg.TEAM_STRIDE_STAT_STRIDE t) = ((s.team t).stride.toNat + 1) % 2 ^ 8
      ∧ (s.pass t).get (Reg.TEAM_STRIDE_STAT_WAIT_CAUSE t) = 0 ∧ (s.pass t).stepNo t = 0
      ∧ (s.pass t).get (Reg.TEAM_STEP_STATE t) = 0 := by
  unfold State.pass
  extract_lets m n d s1 s2 s3 s4
  have htick : ∀ es a, Tick a → (s4.wuErrs t n es).rd a = s4.rd a := fun es a ha =>
    (State.wuErrs_tk n es (TK.refl s4)).tick a ha
  refine ⟨?_, ?_, ?_, ?_⟩
  · rw [State.get_eq_of_rd (htick _ _ (tick_stride t)), State.get_put_other _ _ (Fld.ok_of _ rfl) (.inl (by simp)),
      State.get_put_other _ _ (Fld.ok_of _ rfl) (.inl (by simp)), State.get_put_other _ _ (Fld.ok_of _ rfl) (.inr (.inr (by simp))),
      State.get_put_same _ _ (Fld.ok_of _ rfl)]
    rfl
  · rw [State.get_eq_of_rd (htick _ _ (tick_stride t)), State.get_put_other _ _ (Fld.ok_of _ rfl) (.inl (by simp)),
      State.get_put_other _ _ (Fld.ok_of _ rfl) (.inl (by simp)), State.get_put_same _ _ (Fld.ok_of _ rfl)]
    rfl
  · rw [State.stepNo, State.get_eq_of_rd (htick _ _ (tick_step t)), State.get_put_other _ _ (Fld.ok_of _ rfl) (.inr (.inr (by simp))),
      State.get_put_same _ _ (Fld.ok_of _ rfl)]
    rfl
  · rw [State.get_eq_of_rd (htick _ _ (tick_step t)), State.get_put_same _ _ (Fld.ok_of _ rfl)]
    rfl

/-- The state from which a pass goes on shows the same Teams, after an END cycle or not. -/
theorem boundary_of_passes (hend : s.atEnd t = true) (h : (s.team t).passNow = true ∨ s.waitCause t = 0) :
    ∃ v : State, v.teams = s.teams ∧ s.boundary t = (v.pass t).consumeShown := by
  by_cases hnow : (s.team t).passNow = true
  · exact ⟨s, rfl, by simp [State.boundary, hend, hnow]⟩
  · have hcause : s.waitCause t = 0 := h.resolve_left hnow
    refine ⟨if (s.team t).len = 0 then s
      else ((s.sat (Reg.TEAM_BWAIT_COUNT t) 1).put (Reg.TEAM_STRIDE_STAT_WAIT_CAUSE t) 0).put (Reg.TEAM_STEP_STATE t) 4, ?_, ?_⟩
    · split <;> simp
    · simp [State.boundary, hend, hnow, hcause]

/-- DS_STAT is no register of a Team. -/
theorem consumeShown_keeps (u : State) : u.consumeShown.teams = u.teams ∧ ∀ a, Tick a → u.consumeShown.rd a = u.rd a := by
  unfold State.consumeShown
  split
  · exact ⟨rfl, fun a ha => State.rd_put_other _ _ (ha.ne (noTickLo (by decide)))⟩
  · exact ⟨rfl, fun _ _ => rfl⟩

/-- Settles O9. -/
theorem boundaryPassBeginsNextStride : Obligations.BoundaryPassBeginsNextStride := by
  intro t s ht hend hpass
  obtain ⟨v, hv, hboundary⟩ := boundary_of_passes hend hpass
  have hteams : ∀ x, v.team x = s.team x := fun x => by rw [State.team, hv, State.team]
  obtain ⟨hshown, hrd⟩ := consumeShown_keeps (v.pass t)
  have hshownTeam : ∀ x, (v.pass t).consumeShown.team x = (v.pass t).team x := fun x => by rw [State.team, hshown, State.team]
  obtain ⟨b, hteam⟩ := pass_team v t
  obtain ⟨hstride, hcause, hstep, hstate⟩ := pass_progress v t
  refine ⟨(v.pass t).consumeShown, (onMapped_on ht _).trans (congrArg _ hboundary), ?_⟩
  rw [hshownTeam, hteam, State.get_eq_of_rd (hrd _ (tick_stride t)), State.get_eq_of_rd (hrd _ (tick_stride t)), State.stepNo,
    State.get_eq_of_rd (hrd _ (tick_step t)), State.get_eq_of_rd (hrd _ (tick_step t)), hstride, hcause, hstate, hteams]
  exact ⟨rfl, rfl, rfl, rfl, rfl, rfl, rfl, rfl, hstep, rfl, rfl, rfl, rfl, rfl, rfl, rfl, rfl, rfl, rfl, rfl, rfl, rfl, rfl, rfl, rfl,
    rfl, rfl, fun x hx => (hshownTeam x).trans ((pass_team_other v hx).trans (hteams x))⟩

end Sys2Proof.Machine
end

section
/-! The chip's boundary (R112, R113) and what reaches a Team between its steps (R103, R75, R77, R109). -/
namespace Sys2Proof.Machine

variable {s : State} {t : Nat}

/-! ### The chip's boundary -/

theorem boundaryInto_of_allPassed (hmode : s.strideMode = true) (hen : s.on Reg.DS_CTL_EN = true)
    (hteams : s.runTeams.isEmpty = false) (hall : s.allPassed = true) :
    s.boundaryInto = some (if s.ds.first then s.stride else s.stride + 1) := by
  simp [State.boundaryInto, hmode, hen, hteams, hall]

theorem boundaryInto_of_not_allPassed (hall : s.allPassed = false) : s.boundaryInto = none := by
  simp [State.boundaryInto, hall]

theorem chipBoundary_of_consumed {n : Nat} (e : Nat) (hinto : s.boundaryInto = some n) (hdue : s.ds.due = none)
    (htag : s.ds.lastTag = some n) : s.chipBoundary e = s.completeInto n e := by
  simp [State.chipBoundary, hinto, hdue, htag]

theorem hitchLatch_of_due (hmode : s.strideMode = true) (hlatch : s.chip.hinLatched = false) (hfirst : s.ds.first = false)
    (hdue : ∃ t ∈ s.runTeams, (s.team t).stride.toNat = s.stride ∧ (s.team t).len ≠ 0 ∧ (s.team t).len ≤ s.stepNo t + 32) :
    s.hitchLatch =
      (let a := s.runTeams.foldl (fun k t => k.onTeam t (fun m => { m with hinNext := some (s.hinOf t s.ht.hpi) })) s
       { a with chip := { a.chip with hinLatched := true }, ht := { a.ht with inTgl := !a.ht.inTgl } }) := by
  refine if_pos ?_
  simp only [hmode, hlatch, hfirst, Bool.not_false, Bool.true_and, Bool.and_true, List.any_eq_true]
  obtain ⟨t, ht, hstride, hlen, hnear⟩ := hdue
  exact ⟨t, ht, by simp [hstride, hlen, hnear]⟩

/-- Settles O10. -/
theorem chipCompletesBoundary : Obligations.ChipCompletesBoundary := by
  refine ⟨fun e s hmode hen hteams hall hfirst hdue htag => ?_, fun e s hmode hen hteams hall hfirst hdue htag => ?_,
    fun e s hwait => ?_, fun s hmode hlatch hfirst hdue => ?_, fun s hlatch => ?_⟩
  · refine congrArg Host.Outcome.next ?_
    have hinto : s.boundaryInto = some (s.stride + 1) := by
      rw [boundaryInto_of_allPassed hmode hen hteams hall, hfirst, if_neg Bool.false_ne_true]
    rw [chipBoundary_of_consumed e hinto hdue htag, State.completeInto, if_neg (show ¬ s.ds.first = true by simp [hfirst]),
      State.giveSet]
    cases hready : s.ht.ready.isSome <;> simp only [State.putPair_ht, hready, if_true, Bool.false_eq_true, if_false] <;> rfl
  · refine congrArg Host.Outcome.next ?_
    have hinto : s.boundaryInto = some s.stride := by
      rw [boundaryInto_of_allPassed hmode hen hteams hall, hfirst, if_pos rfl]
    rw [chipBoundary_of_consumed e hinto hdue htag, State.completeInto, if_pos hfirst]
  · refine congrArg Host.Outcome.next ?_
    rcases hwait with hall | hdue
    · rw [State.chipBoundary, boundaryInto_of_not_allPassed hall]
    · have hnone : s.ds.due.isNone = false := by
        simpa [Option.isSome_iff_ne_none] using hdue
      unfold State.chipBoundary
      split <;> simp [hnone]
  · exact congrArg Host.Outcome.next (hitchLatch_of_due hmode hlatch hfirst hdue)
  · exact congrArg Host.Outcome.next (if_neg (by simp [hlatch]))

/-! ### What reaches a Team between its steps -/

/-- The next SIGNAL entry of a port and the flit at the head of its queue: the three ways the flit goes. -/
theorem rsWrite_of_head {port : Nat} {e : BitVec 48} {f : Flit} (hmode : s.strideMode = true)
    (hentry : (s.signals t port (s.team t).start (s.team t).len)[look (s.router t).matched port]? = some e)
    (hflit : (look (s.router t).inq port).head? = some f) (hfree : s.takesBetween t port (s.stepAddr t) (eADDR e) = false) :
    s.rsWrite t port =
      (let a := (s.setRouter t { s.router t with
          inq := upd (s.router t).inq port ((look (s.router t).inq port).drop 1)
          matched := upd (s.router t).matched port (look (s.router t).matched port + 1) }).probeStatic t port 0
       if s.deadTarget t e then a.deadStatic t e
       else if eLSEL e = 1 then
         match s.leadOf t with
         | some n => (a.probeStatic t 4 1).onLink n (fun l => { l with txStatic := l.txStatic ++ [f] })
         | none => a.probeStatic t 4 1
       else (a.probeStatic t 4 1).onTeam t (fun m => m.deliver e f)) := by
  simp only [State.rsWrite, hentry, hflit, hmode, hfree, Bool.not_true, Bool.or_self, Bool.false_eq_true, if_false] <;> rfl

theorem carryArrive_of_cons {c : Bool × Bool} {rest : List (Bool × Bool)} (h : (s.team t).carryIn = c :: rest) :
    s.carryArrive t =
      if (s.team t).carryQ.length < 32 then s.setTeam t { s.team t with carryIn := rest, carryQ := (s.team t).carryQ ++ [c] }
      else (s.setTeam t { s.team t with carryIn := rest }).wuErrs t (s.team t).stride.toNat [⟨2, 0, 0⟩] := by
  simp only [State.carryArrive, h]

theorem exec_carryArrival {t : Fin 1024} (ht : t.val < s.nTeams) (harmed : s.armed 1 t = true) :
    exec (.carryArrival t) s = .next (s.carryArrive t) :=
  (onMapped_on ht _).trans (congrArg _ (if_pos harmed))

/-- Settles O11. -/
theorem itemsReachTheTeam : Obligations.ItemsReachTheTeam := by
  refine ⟨fun t p s e f ht hmode hentry hflit hfree => ?_, fun t s c rest ht harmed hcarry => ?_, fun t s p ht hfind => ?_,
    fun t p c s ht hnew hold => ?_⟩
  · intro a
    rw [show exec (.receiveStoreWrite t p) s = _ from onMapped_on ht _, rsWrite_of_head hmode hentry hflit hfree]
    refine ⟨fun htarget hteam => ?_, fun n htarget hlink hlead => ?_, fun htarget => ?_⟩
    · simp only [htarget, Bool.false_eq_true, if_false, hteam, a]
    · simp only [htarget, Bool.false_eq_true, if_false, hlink, if_true, hlead, a]
    · simp only [htarget, if_true, a, State.deadStatic]
  · rw [exec_carryArrival ht harmed, carryArrive_of_cons hcarry]
    exact ⟨fun hroom => by rw [if_pos hroom], fun hfull => by rw [if_neg (Nat.not_lt.mpr hfull)]⟩
  · intro a
    rw [show exec (.gwRspArrival t) s = _ from onMapped_on ht _]
    simp only [State.gwRspArrive, hfind]
    refine ⟨fun htag hroom => ?_, fun htag hfull => ?_, fun htag => ?_⟩
    · rw [if_neg (not_not_intro htag), if_pos hroom]
    · rw [if_neg (not_not_intro htag), if_neg (Nat.not_lt.mpr hfull)]
    · rw [if_pos htag]
  · rw [show exec (.progressCountArrival t p c) s = _ from onMapped_on ht _]
    exact congrArg Host.Outcome.next (if_pos ⟨hnew, hold⟩)

end Sys2Proof.Machine
end

section
/-! The Domain Scheduler: tokens and their consumption (R168, R171), and the decision of a stride (R165, R175, R176). -/
namespace Sys2Proof.Machine

variable {s : State}

/-! ### Tokens -/

theorem hitchToken_of_cons {p : PortTok} {rest : List PortTok} (htoks : s.ht.toks = p :: rest) :
    let a := ({ s with ht := { s.ht with toks := rest } } : State).put Reg.HT_TK_STAT_OCC rest.length
    let k : Token := ⟨p.task, p.opnd, p.data, true, s.nextTag⟩
    s.hitchToken = if (s.tokenBad k).isSome then a.sat Reg.DS_REFUSED_COUNT 1 else a.storeToken k := by
  intro a k
  unfold State.hitchToken
  rw [htoks]
  change (match s.tokenBad k with
    | some _ => a.sat Reg.DS_REFUSED_COUNT 1
    | none => a.storeToken k) = _
  cases s.tokenBad k <;> rfl

theorem storeToken_of_free {e : Nat} (k : Token) (h : s.freeEntry = some e) :
    s.storeToken k = { s with ds := { s.ds with store := upd s.ds.store e (some k) } } := by
  rw [State.storeToken, h]

/-- Settles O13: the port's head leaves it, and `State.tokenBad` says whether the store takes it. -/
theorem tokensEnterTheStore : Obligations.TokensEnterTheStore := by
  refine ⟨fun s p rest htoks => ?_, fun s htoks => congrArg Host.Outcome.next ?_⟩
  · intro a k
    have hhead := hitchToken_of_cons htoks
    refine ⟨fun e hgood hfree => congrArg Host.Outcome.next ?_, fun hrefused => congrArg Host.Outcome.next ?_⟩
    · have hfreeA : a.freeEntry = some e := by
        rw [← hfree, State.freeEntry, State.freeEntry, State.put_ds]
      rw [hhead, hgood]
      exact storeToken_of_free k hfreeA
    · rw [hhead, if_pos (Option.isSome_iff_ne_none.mpr hrefused)]
  · rw [State.hitchToken, htoks]

/-- What the scheduler does with a tag that is due. -/
theorem tokenConsumption_of_due {late : Bool} {s : State} {t : Nat} (htag : s.dueTag = some t) :
    s.tokenConsumption late =
      if (!s.on Reg.DS_CTL_EN) = true then s
      else if s.horizonOk t = true then
        ((s.set1If (late && s.tokens.any (fun p => p.2.tag == t)) Reg.DS_STAT_LATE).consume t).dsState dWaitInput
      else s.dsState dWaitHorizon := by
  rw [State.tokenConsumption, htag]

/-- Settles O14: the tag that is due, then the branches of its consumption. -/
theorem consumptionTakesTheTokens : Obligations.ConsumptionTakesTheTokens := by
  refine ⟨fun late s hnone => congrArg Host.Outcome.next ?_, fun s t hdue => ?_, fun s n hdue hinto htag => ?_,
    fun late s t htag => ⟨fun hoff => congrArg Host.Outcome.next ?_, fun hon hearly => congrArg Host.Outcome.next ?_,
      fun hon hready => congrArg Host.Outcome.next ?_⟩⟩
  · rw [State.tokenConsumption, hnone]
  · rw [State.dueTag, hdue]
  · rw [State.dueTag, hdue, hinto]
    exact if_neg (by simpa using htag)
  · exact (tokenConsumption_of_due htag).trans (if_pos (by rw [hoff]; rfl))
  · exact (tokenConsumption_of_due htag).trans ((if_neg (by rw [hon]; decide)).trans (if_neg (Bool.eq_false_iff.mp hearly)))
  · exact (tokenConsumption_of_due htag).trans ((if_neg (by rw [hon]; decide)).trans (if_pos hready))

end Sys2Proof.Machine
end

section
/-! The decision of a stride by the Domain Scheduler (R163, R165, R175, R176). -/
namespace Sys2Proof.Machine

variable {s : State}

/-! ### What a decision leaves alone -/

/-- From `r` to `s` the Teams, the routers, GDDR6 and every register outside `P` stay. -/
structure Outside (P : Nat → Prop) (r s : State) : Prop where
  teams : s.teams = r.teams
  routers : s.routers = r.routers
  gddr : s.gddr = r.gddr
  rd : ∀ a, ¬ P a → s.rd a = r.rd a

theorem Outside.refl (P : Nat → Prop) (s : State) : Outside P s s := ⟨rfl, rfl, rfl, fun _ _ => rfl⟩

theorem Outside.trans {P : Nat → Prop} {r u : State} (h : Outside P r s) (k : Outside P s u) : Outside P r u :=
  ⟨k.teams.trans h.teams, k.routers.trans h.routers, k.gddr.trans h.gddr, fun a ha => (k.rd a ha).trans (h.rd a ha)⟩

theorem ne_of_outside {P : Nat → Prop} {a b : Nat} (ha : ¬ P a) (hb : P b) : a ≠ b := fun e => ha (e ▸ hb)

theorem Outside.wr {P : Nat → Prop} {r : State} (h : Outside P r s) {a : Nat} (v : Word) (ha : P a) : Outside P r (s.wr a v) :=
  ⟨h.teams, h.routers, h.gddr, fun b hb => (State.rd_wr_other s v (ne_of_outside hb ha)).trans (h.rd b hb)⟩

theorem Outside.put {P : Nat → Prop} {r : State} (h : Outside P r s) {f : Fld} (v : Nat) (ha : P f.addr) : Outside P r (s.put f v) :=
  h.wr _ ha

theorem Outside.foldl {α : Type} {P : Nat → Prop} {r : State} {f : State → α → State} (l : List α) (h : Outside P r s)
    (hf : ∀ s x, Outside P r s → Outside P r (f s x)) : Outside P r (l.foldl f s) := by
  induction l generalizing s with
  | nil => exact h
  | cons x l ih => exact ih (hf s x h)

/-- An update of what a decision keeps of the scheduler. -/
theorem Outside.ds {P : Nat → Prop} {r : State} (h : Outside P r s) (d : Sched) : Outside P r { s with ds := d } :=
  ⟨h.teams, h.routers, h.gddr, h.rd⟩

theorem Outside.groomRec {P : Nat → Prop} {r : State} (h : Outside P r s) (g sev code : Nat) (arg : BitVec 48)
    (hdrop : P Adr.SB_DROP) : Outside P r (s.groomRec g sev code arg) :=
  ⟨(State.groomRec_teams _ _ _ _ _).trans h.teams, (State.groomRec_routers _ _ _ _ _).trans h.routers,
    (State.groomRec_gddr _ _ _ _ _).trans h.gddr,
    fun a ha => (State.groomRec_rd _ _ _ _ _ (ne_of_outside ha hdrop)).trans (h.rd a ha)⟩

theorem Outside.postEvent {P : Nat → Prop} {r : State} (h : Outside P r s) (m : Nat) (e : Event) (hlost : P (Adr.MBX_EVTLOST m))
    (hstat : P (Adr.MBX_STAT m)) : Outside P r (s.postEvent m e) :=
  ⟨(State.postEvent_teams _ _ _).trans h.teams, (State.postEvent_routers _ _ _).trans h.routers,
    (State.postEvent_gddr _ _ _).trans h.gddr,
    fun a ha => (State.postEvent_rd _ _ _ (ne_of_outside ha hlost) (ne_of_outside ha hstat)).trans (h.rd a ha)⟩

/-! ### Emulated time (R160, R163) -/

/-- The registers of DS_NOW. -/
def NowReg (a : Nat) : Prop := a = Adr.DS_NOW_LO ∨ a = Adr.DS_NOW_HI

theorem setNow_outside (s : State) (v : Nat) : Outside NowReg s (s.setNow v) :=
  (((Outside.refl _ s).wr _ (.inl rfl)).put _ (.inr rfl)).put _ (.inr rfl)

/-- DS_NOW holds 48 bits. -/
theorem setNow_dsNow (s : State) (v : Nat) : (s.setNow v).dsNow = v % 2 ^ 48 := by
  have hlo : ((s.setNow v).rd Adr.DS_NOW_LO).toNat = v % 2 ^ 32 := by
    rw [State.setNow, State.rd_put_other _ _ (by decide), State.rd_put_other _ _ (by decide), State.rd_wr_same, BitVec.toNat_ofNat]
  have hhi : (s.setNow v).get Reg.DS_NOW_HI_NOW_HI = v / 2 ^ 32 % 2 ^ 16 := by
    rw [State.setNow, State.get_put_other _ _ (Fld.ok_of _ rfl) (.inr (.inr (by decide))), State.get_put_same _ _ (Fld.ok_of _ rfl)]
    rfl
  rw [State.dsNow, hlo, hhi]
  omega

theorem setNow_ds (s : State) (v : Nat) : (s.setNow v).ds = s.ds := rfl

/-- A time point that is consumed leaves its time in DS_NOW, and changes nothing of the scheduler but the delay list. -/
theorem consumePoint_facts (s : State) {e : Edge} {l : List Edge} (h : s.ds.delay = e :: l) :
    (∃ d, s.consumePoint.ds = { s.ds with delay := d }) ∧ s.consumePoint.dsNow = e.time % 2 ^ 48
      ∧ Outside NowReg s s.consumePoint := by
  unfold State.consumePoint
  rw [h]
  dsimp only
  exact ⟨⟨_, setNow_ds _ _⟩, setNow_dsNow _ _, ((Outside.refl _ s).ds _).trans (setNow_outside _ _)⟩

/-! ### Flags and rules (R165, R175) -/

/-- Where the flags of the domains stand: above every register of the scheduler's own state. -/
def FlagReg (a : Nat) : Prop := 0x51000 ≤ a

/-- The flags that a decision shows and clears: nothing else changes, and the scheduler's own state stays. -/
theorem flags_facts (x : State) (auto gated : List Nat) (en : Nat → Nat) :
    let v := gated.foldl (fun u d => u.put (Reg.DS_DOM_FLAGS_ENABLE d) (en d))
      (auto.foldl (fun u d => u.clr (Reg.DS_DOM_FLAGS_HOST_GO d)) x)
    v.ds = x.ds ∧ Outside FlagReg x v := by
  have hflag : ∀ d, FlagReg (Adr.DS_DOM_FLAGS d) := fun d => by
    simp only [FlagReg, Adr.DS_DOM_FLAGS]
    omega
  refine ⟨?_, ?_⟩
  · exact (foldl_keeps State.ds (fun s d => State.put_ds s _ _) _ _).trans (foldl_keeps State.ds (fun s d => State.clr_ds s _) _ _)
  · exact Outside.foldl _ (Outside.foldl _ (Outside.refl _ x) fun _ d h => h.put _ (hflag d)) fun _ d h => h.put _ (hflag d)

theorem Outside.get {P : Nat → Prop} {r : State} (h : Outside P r s) (f : Fld) (hf : ¬ P f.addr) : s.get f = r.get f :=
  State.get_eq_of_rd (h.rd _ hf)

/-- The rules and the program table stand in registers of their own. -/
theorem Outside.now_reads {r : State} (h : Outside NowReg r s) :
    (∀ ready, s.ruleOf ready = r.ruleOf ready) ∧ ∀ p k, s.descOf p k = r.descOf p k := by
  have hrd : ∀ a, 0x50100 ≤ a → s.rd a = r.rd a := fun a ha => h.rd a fun hnow => by
    rcases hnow with e | e <;> simp only [e, Adr.DS_NOW_LO, Adr.DS_NOW_HI] at ha <;> omega
  have hget : ∀ f : Fld, 0x50100 ≤ f.addr → s.get f = r.get f := fun f hf => State.get_eq_of_rd (hrd _ hf)
  refine ⟨fun ready => ?_, fun p k => ?_⟩
  · have hmaskAddr : ∀ n x, 0x50100 ≤ Adr.DS_SEL_SMASK n x := fun n x => by simp only [Adr.DS_SEL_SMASK]; omega
    have hvalAddr : ∀ n x, 0x50100 ≤ Adr.DS_SEL_SVAL n x := fun n x => by simp only [Adr.DS_SEL_SVAL]; omega
    have hsmask : ∀ n, s.smask n = r.smask n := fun n => by
      simp only [State.smask]
      rw [hrd _ (hmaskAddr n 0), hrd _ (hmaskAddr n 1), hrd _ (hmaskAddr n 2)]
    have hsval : ∀ n, s.sval n = r.sval n := fun n => by
      simp only [State.sval]
      rw [hrd _ (hvalAddr n 0), hrd _ (hvalAddr n 1), hrd _ (hvalAddr n 2)]
    have hctl : ∀ n, s.get (Reg.DS_SEL_CTL_VALID n) = r.get (Reg.DS_SEL_CTL_VALID n)
        ∧ s.get (Reg.DS_SEL_CTL_PROG n) = r.get (Reg.DS_SEL_CTL_PROG n) := fun n =>
      ⟨hget _ (by simp only [Adr.DS_SEL_CTL]; omega), hget _ (by simp only [Adr.DS_SEL_CTL]; omega)⟩
    simp only [State.ruleOf, State.on, hsmask, hsval, hctl]
  · simp only [State.descOf]
    rw [hget (Reg.DS_SPT_START p) (by simp only [Adr.DS_SPT]; omega), hget (Reg.DS_SPT_LCODE p) (by simp only [Adr.DS_SPT]; omega)]

/-! ### The choice of a program (R175) -/

/-- The state in which READY and the flags of a decision show. -/
def State.decisionShown (x : State) (k : Nat) (doms : List Nat) : State :=
  let auto := doms.filter (fun d => x.on (Reg.DS_DOM_CFG_AUTOCLR d) && x.on (Reg.DS_DOM_FLAGS_HOST_GO d))
  let v := x.gatedDoms.foldl (fun u d => u.put (Reg.DS_DOM_FLAGS_ENABLE d) (ofBool (x.enableOf d k == some true)))
    (auto.foldl (fun u d => u.clr (Reg.DS_DOM_FLAGS_HOST_GO d)) x)
  { v with ds := { v.ds with ready := BitVec.ofNat 96 (readyBits doms x.ds.tasks), skipped := 0 } }

theorem decisionShown_facts (x : State) (k : Nat) (doms : List Nat) :
    (x.decisionShown k doms).ds = { x.ds with ready := BitVec.ofNat 96 (readyBits doms x.ds.tasks), skipped := 0 }
      ∧ Outside FlagReg x (x.decisionShown k doms) := by
  obtain ⟨hds, hout⟩ := flags_facts x (doms.filter fun d => x.on (Reg.DS_DOM_CFG_AUTOCLR d) && x.on (Reg.DS_DOM_FLAGS_HOST_GO d))
    x.gatedDoms (fun d => ofBool (x.enableOf d k == some true))
  exact ⟨by simp only [State.decisionShown, hds], hout.ds _⟩

/-- The decision keeps what it chose and leaves STATE 5, or stops the scheduler. -/
theorem choose_eq (x : State) (k : Nat) (doms : List Nat) : x.choose k doms =
    match x.ruleOf (readyBits doms x.ds.tasks) with
    | none => (x.decisionShown k doms).dsStop Reg.DS_STAT_SEL_MISS 1 0x000A k (readyBits doms x.ds.tasks)
    | some p =>
      ({ x.decisionShown k doms with ds := { (x.decisionShown k doms).ds with
          choice := some (x.descOf p k, k), wanted := none, decided := min 2 ((x.decisionShown k doms).ds.decided + 1)
          prior := x.ds.prior.map (fun q => { q with
            go := doms.filter (fun d => x.on (Reg.DS_DOM_CFG_AUTOCLR d) && x.on (Reg.DS_DOM_FLAGS_HOST_GO d))
            skips := x.ds.skipped - q.skips })
          nows := upd (x.decisionShown k doms).ds.nows (k % 4) (x.decisionShown k doms).dsNow } } : State).put Reg.DS_STAT_STATE 5 := by
  rfl

theorem Outside.dsNow {r : State} (h : Outside FlagReg r s) : s.dsNow = r.dsNow := by
  rw [State.dsNow, State.dsNow, h.rd _ (by unfold FlagReg; decide), h.get _ (by unfold FlagReg; decide)]

theorem put_state_dsNow (s : State) (n : Nat) : (s.put Reg.DS_STAT_STATE n).dsNow = s.dsNow := by
  rw [State.dsNow, State.rd_put_other _ _ (by decide), State.get_put_other _ _ (Fld.ok_of _ rfl) (.inl (by decide)), State.dsNow]

/-- A choice whose READY matches a rule keeps that rule's descriptor, with DS_NOW as it stands. -/
theorem choose_of_rule {x : State} {k p : Nat} {doms : List Nat} (hrule : x.ruleOf (readyBits doms x.ds.tasks) = some p) :
    let u := x.choose k doms
    (u.ds.choice = some (x.descOf p k, k) ∧ u.ds.wanted = none ∧ u.ds.ready = BitVec.ofNat 96 (readyBits doms x.ds.tasks)
      ∧ u.ds.skipped = 0 ∧ look u.ds.nows (k % 4) = x.dsNow) ∧ u.dsNow = x.dsNow ∧ u.get Reg.DS_STAT_STATE = 5
      ∧ u.teams = x.teams ∧ u.routers = x.routers ∧ u.gddr = x.gddr := by
  obtain ⟨hds, hout⟩ := decisionShown_facts x k doms
  intro u
  have hu : u = _ := choose_eq x k doms
  rw [hrule] at hu
  dsimp only at hu
  clear_value u
  subst hu
  generalize x.decisionShown k doms = v at hds hout
  refine ⟨⟨by rw [State.put_ds], by rw [State.put_ds], ?_, ?_, ?_⟩, ?_, State.get_put_same _ _ (Fld.ok_of _ rfl), ?_⟩
  · rw [State.put_ds, hds]
  · rw [State.put_ds, hds]
  · rw [State.put_ds, look_upd_same, hout.dsNow]
  · exact (put_state_dsNow _ _).trans hout.dsNow
  · exact ⟨hout.teams, hout.routers, hout.gddr⟩

/-- What a stop of the scheduler writes. -/
def StopReg (a : Nat) : Prop := a = Adr.SB_DROP ∨ a = Adr.MBX_EVTLOST 3 ∨ a = Adr.MBX_STAT 3

theorem choose_of_no_rule {x : State} {k : Nat} {doms : List Nat} (hrule : x.ruleOf (readyBits doms x.ds.tasks) = none) :
    let u := x.choose k doms
    (u.ds.choice = x.ds.choice ∧ u.ds.wanted = none ∧ u.ds.ready = BitVec.ofNat 96 (readyBits doms x.ds.tasks))
      ∧ u.on Reg.DS_STAT_SEL_MISS = true ∧ u.get Reg.DS_STAT_STATE = 0
      ∧ u.teams = x.teams ∧ u.routers = x.routers ∧ u.gddr = x.gddr := by
  obtain ⟨hds, hout⟩ := decisionShown_facts x k doms
  intro u
  have hu : u = _ := choose_eq x k doms
  rw [hrule] at hu
  dsimp only at hu
  clear_value u
  subst hu
  generalize x.decisionShown k doms = v at hds hout
  generalize readyBits doms x.ds.tasks = ready at hds
  unfold State.dsStop
  extract_lets s1 d1 s2
  have hs2 : s2.ds = { s1.ds with wanted := none } := rfl
  have hs1 : s1.ds = v.ds := by rw [show s1 = (v.set1 Reg.DS_STAT_SEL_MISS).put Reg.DS_STAT_STATE 0 from rfl, State.put_ds, State.set1_ds]
  have hmiss : (v.set1 Reg.DS_STAT_SEL_MISS |>.put Reg.DS_STAT_STATE 0).on Reg.DS_STAT_SEL_MISS = true := by
    rw [State.on, State.get_put_other _ _ (Fld.ok_of _ rfl) (.inr (.inl (by decide))), ← State.on, State.on_set1_same _ (Fld.ok_of _ rfl)]
  have hend : Outside StopReg s2 _ := ((Outside.refl _ s2).groomRec 3 4 0x19 (argOf 1 k) (.inl rfl)).postEvent 3
    ⟨0x000A, 24, packBytes [(16, 12, ready), (32, 8, k)]⟩ (.inr (.inl rfl)) (.inr (.inr rfl))
  refine ⟨?_, ?_, ?_, ?_⟩
  · rw [State.postEvent_ds, State.groomRec_ds, hs2, hs1, hds]
    exact ⟨rfl, rfl, rfl⟩
  · rw [State.on, hend.get _ (by unfold StopReg; decide)]
    exact hmiss
  · rw [hend.get _ (by unfold StopReg; decide)]
    exact State.get_put_same _ _ (Fld.ok_of _ rfl)
  · exact ⟨hend.teams.trans hout.teams, hend.routers.trans hout.routers, hend.gddr.trans hout.gddr⟩

/-! ### The decision (R165, R176) -/

/-- The decision of the stride that is wanted, in the order of its conditions. -/
theorem decideStride_of_wanted (waiting : Nat) {k : Nat} (hwanted : s.ds.wanted = some k) (hen : s.on Reg.DS_CTL_EN = true) :
    let a := if s.get Reg.DS_STAT_STATE = 4 then s.sat Reg.DS_WAIT_COUNT waiting else s
    s.decideStride waiting =
      if s.holdBars k then a.put Reg.DS_STAT_STATE 4
      else if s.gatedDoms.any (fun d => (s.enableOf d k).isNone) then a.put Reg.DS_STAT_STATE 3
      else
        let b : State := { a with ds := { a.ds with prior := some a.priorOf } }
        if s.ds.delay.isEmpty then b.choose k [] else b.search k (65536 - s.ds.skipped) := by
  intro a
  unfold State.decideStride
  rw [hwanted]
  exact if_neg (by simp [hen])

/-- A search whose time point makes something ready consumes it and chooses. -/
theorem search_of_ready {b : State} (k fuel : Nat) (hflag : b.flagWaits = false) (hready : b.readyDoms k ≠ [] ∨ b.ds.tasks ≠ 0) :
    b.search k (fuel + 1) = b.consumePoint.choose k (b.readyDoms k) := by
  have hgo : ((b.readyDoms k).isEmpty && b.ds.tasks == 0) = false := by
    rcases hready with h | h
    · rw [List.isEmpty_eq_false_iff.mpr h, Bool.false_and]
    · rw [beq_eq_false_iff_ne.mpr h, Bool.and_false]
  rw [State.search, if_neg (by simp [hflag])]
  exact if_neg (Bool.not_eq_true _ ▸ hgo)

theorem ruleOf_of_lowest {n p ready : Nat} (hn : n < 64) (hvalid : s.on (Reg.DS_SEL_CTL_VALID n) = true)
    (hprog : s.get (Reg.DS_SEL_CTL_PROG n) = p) (hmatch : ready &&& s.smask n = s.sval n)
    (hlow : ∀ j, j < n → s.on (Reg.DS_SEL_CTL_VALID j) = true → ready &&& s.smask j ≠ s.sval j) : s.ruleOf ready = some p := by
  have hfind : (List.range 64).find? (fun k => s.on (Reg.DS_SEL_CTL_VALID k) && ready &&& s.smask k == s.sval k) = some n := by
    rw [List.find?_range_eq_some]
    refine ⟨by simp [hvalid, hmatch], List.mem_range.mpr hn, fun j hj => ?_⟩
    cases hv : s.on (Reg.DS_SEL_CTL_VALID j) with
    | false => rfl
    | true => simpa using hlow j hj hv
  rw [State.ruleOf, hfind, Option.map_some, hprog]

theorem ruleOf_of_none {ready : Nat}
    (hno : ∀ n, n < 64 → s.on (Reg.DS_SEL_CTL_VALID n) = true → ready &&& s.smask n ≠ s.sval n) : s.ruleOf ready = none := by
  rw [State.ruleOf, Option.map_eq_none_iff, List.find?_eq_none]
  intro n hn
  cases hv : s.on (Reg.DS_SEL_CTL_VALID n) with
  | false => simp
  | true => simpa using hno n (List.mem_range.mp hn) hv

theorem head_timePoint (e : Edge) (l : List Edge) : (timePoint (e :: l)).head? = some e := by
  simp [timePoint]

/-- Settles O15. -/
theorem decisionChoosesTheProgram : Obligations.DecisionChoosesTheProgram := by
  refine ⟨fun waiting s hoff => congrArg Host.Outcome.next ?_, fun waiting s k hwanted hen => ?_⟩
  · rcases hoff with hnone | hdis
    · rw [State.decideStride, hnone]
    · unfold State.decideStride
      split <;> simp [hdis]
  · intro a
    have hdecide : exec (.dsDecision waiting) s = _ := congrArg Host.Outcome.next (decideStride_of_wanted waiting hwanted hen)
    rw [hdecide]
    refine ⟨fun hheld hh => congrArg Host.Outcome.next ?_, fun hbar hmiss => congrArg Host.Outcome.next ?_,
      fun hbar hsamples hdelay hskip hstate => ?_⟩
    · exact if_pos (by simp [State.holdBars, hheld, hh])
    · rw [if_neg (by simp [hbar]), if_pos (by simpa using hmiss)]
    · have hgate : ¬ (s.gatedDoms.any (fun d => (s.enableOf d k).isNone) = true) := by
        simpa [List.any_eq_true, Option.isSome_iff_ne_none] using hsamples
      obtain ⟨e, l, hel⟩ := List.exists_cons_of_ne_nil hdelay
      obtain ⟨fuel, hfuel⟩ : ∃ fuel, 65536 - s.ds.skipped = fuel + 1 := ⟨65536 - s.ds.skipped - 1, by omega⟩
      rw [if_neg (by simp [hbar]), if_neg hgate, if_neg hstate, if_neg (by simp [hel]), hfuel]
      let b : State := { s with ds := { s.ds with prior := some s.priorOf } }
      obtain ⟨⟨d, hds⟩, hnow, hout⟩ := consumePoint_facts b (e := e) (l := l) hel
      obtain ⟨hrules, hdescs⟩ := hout.now_reads
      have htasks : b.consumePoint.ds.tasks = s.ds.tasks := by rw [hds]
      have hpoint : (timePoint s.ds.delay).head?.elim 0 (fun e => e.time % 2 ^ 48) = e.time % 2 ^ 48 := by
        rw [hel, head_timePoint]
        rfl
      refine ⟨fun hflag => ?_, fun hflag hready => ?_⟩
      · rw [State.search]
        exact congrArg Host.Outcome.next (if_pos hflag)
      · rw [search_of_ready (b := b) k fuel hflag hready]
        refine ⟨fun n p hn hvalid hprog hmatch hlow => ⟨_, rfl, ?_⟩, fun hno => ⟨_, rfl, ?_⟩⟩
        · have hrule : b.consumePoint.ruleOf (readyBits (s.readyDoms k) b.consumePoint.ds.tasks) = some p := by
            rw [hrules, htasks]
            exact ruleOf_of_lowest hn hvalid hprog hmatch hlow
          obtain ⟨⟨hchoice, hwantedU, hreadyU, hskipU, hnows⟩, hnowU, hstateU, hteams, hrouters, hgddr⟩ :=
            choose_of_rule (k := k) hrule
          rw [htasks] at hreadyU
          rw [hdescs] at hchoice
          exact ⟨hchoice, hwantedU, hreadyU, hskipU, hnows.trans hnowU.symm, hnowU.trans (hnow.trans hpoint.symm), hstateU,
            hteams.trans hout.teams, hrouters.trans hout.routers, hgddr.trans hout.gddr⟩
        · have hrule : b.consumePoint.ruleOf (readyBits (s.readyDoms k) b.consumePoint.ds.tasks) = none := by
            rw [hrules, htasks]
            exact ruleOf_of_none hno
          obtain ⟨⟨hchoice, hwantedU, hreadyU⟩, hmissU, hstateU, hteams, hrouters, hgddr⟩ := choose_of_no_rule (k := k) hrule
          rw [htasks] at hreadyU
          have hchoiceB : b.consumePoint.ds.choice = s.ds.choice := by rw [hds]
          exact ⟨hchoice.trans hchoiceB, hwantedU, hreadyU, hmissU, hstateU, hteams.trans hout.teams,
            hrouters.trans hout.routers, hgddr.trans hout.gddr⟩

end Sys2Proof.Machine
end

section
/-! Messages between chips (R251 to R257, R347) and system holds (R255 to R257). -/
namespace Sys2Proof.Machine

variable {s : State} {n : Nat}

/-! ### The message at the front of a link -/

theorem msgAt_of_head {p : Nat × Flit} {t : Nat} (h : (s.link n).rxMsg.head? = some p) (ht : mTYPE p.2 = t) :
    s.msgAt n t = some p := by
  obtain ⟨l, hl⟩ := List.head?_eq_some_iff.mp h
  rw [State.msgAt, hl]
  exact if_pos ht

theorem msgAt_of_other {t : Nat} (h : ∀ p, (s.link n).rxMsg.head? = some p → mTYPE p.2 ≠ t) : s.msgAt n t = none := by
  unfold State.msgAt
  split
  next m l hl => exact if_neg (h m (by rw [hl, List.head?_cons]))
  next => rfl

/-! ### Alignment (R251, R252) -/

theorem checkAlign_of_idle (h : (s.link n).aligning = false ∨ s.chip.image = none ∨ s.chip.n0 = none) : s.checkAlign n = s := by
  unfold State.checkAlign
  extract_lets k
  split
  next i n0 himage hn0 =>
    refine if_pos ?_
    rcases h with h | h | h
    · exact (Bool.not_eq_true' _).mpr h
    · rw [himage] at h; cases h
    · rw [hn0] at h; cases h
  next => rfl

/-- The cascade of R251 and R252 for a link that aligns. -/
theorem checkAlign_of_aligning {i : Image} {n0 : Nat} (himage : s.chip.image = some i) (hn0 : s.chip.n0 = some n0)
    (hk : (s.link n).aligning = true) :
    s.checkAlign n =
      (let k := s.link n
       if k.sysId.any (fun v => v != i.sys) then s.refuseAlign n 11 0x16
       else if k.peerN0.any (fun v => v.1.toNat != n0 || v.2 != s.epoch) then s.refuseAlign n 11 0x16
       else if k.sysId.isSome && s.on (Reg.LD_LINK_CTL_PEER_CHK n) &&
          (s.get (Reg.LD_LINK_STAT_PEER_PART n) != s.get (Reg.LD_LINK_CTL_PEER_PART_EXP n) ||
            s.get (Reg.LD_LINK_STAT_PEER_LINK n) != s.get (Reg.LD_LINK_CTL_PEER_LINK_EXP n)) then s.refuseAlign n 12 0x17
       else if k.sysId.isSome && k.peerN0.isSome then s.set1 (Reg.LD_LINK_STAT_ALIGNED n)
       else s) := by
  rw [State.checkAlign, himage, hn0]
  dsimp only
  rw [if_neg (by simp [hk])]
  cases (s.link n).sysId <;> cases (s.link n).peerN0 <;> rfl

theorem peerWrong_iff (s : State) (n : Nat) :
    (s.on (Reg.LD_LINK_CTL_PEER_CHK n) && (s.get (Reg.LD_LINK_STAT_PEER_PART n) != s.get (Reg.LD_LINK_CTL_PEER_PART_EXP n) ||
        s.get (Reg.LD_LINK_STAT_PEER_LINK n) != s.get (Reg.LD_LINK_CTL_PEER_LINK_EXP n))) = true
      ↔ s.on (Reg.LD_LINK_CTL_PEER_CHK n) = true ∧
        (s.get (Reg.LD_LINK_STAT_PEER_PART n) ≠ s.get (Reg.LD_LINK_CTL_PEER_PART_EXP n)
          ∨ s.get (Reg.LD_LINK_STAT_PEER_LINK n) ≠ s.get (Reg.LD_LINK_CTL_PEER_LINK_EXP n)) := by
  simp only [Bool.and_eq_true, Bool.or_eq_true, bne_iff_ne]

/-! ### Numbers of a message -/

theorem bits_mod_bits (x : Nat) : bits x 79 16 % 2 ^ 28 = bits x 43 16 := by
  simp only [bits]
  omega

/-- Equal EPOCHs are 0 apart. -/
theorem epochDistance_self {e k : Nat} (h : e = k) : (e + 2 ^ 16 - k) % 2 ^ 16 = 0 := by
  rw [h, Nat.add_sub_cancel_left, Nat.mod_self]

/-! ### What each type of message does -/

theorem strideIn_of_msg {at_ : Nat} {m : Flit} (h : s.msgAt n 3 = some (at_, m)) :
    s.strideIn n = match (s.link n).strides.find? (fun p => p.1 == bits m.toNat 79 16) with
      | some p => (s.msgDone n).strideCheck n (bits m.toNat 79 16) p.2 (bits m.toNat 111 80)
      | none => if (s.link n).strides.all (fun p => decide (p.1 < bits m.toNat 79 16)) then
          (s.msgDone n).onLink n (fun k => { k with early := k.early ++ [(bits m.toNat 79 16, bits m.toNat 111 80)] })
        else s.msgDone n := by
  rw [State.strideIn, h] <;> rfl

theorem holdIn_of_msg {at_ : Nat} {m : Flit} (h : s.msgAt n 4 = some (at_, m)) :
    s.holdIn n =
      (let e := bits m.toNat 95 80
       let d := (e + 2 ^ 16 - s.epoch) % 2 ^ 16
       let adopt (s : State) : State :=
         (s.adoptHold (bits m.toNat 79 16) (bits m.toNat 107 104) (bits m.toNat 103 96) s.usedLinks).unrest
       if d = 0 then adopt (s.msgDone n) else if d < 2 ^ 15 then adopt (s.msgDone n).release.leaveRest else s.msgDone n) := by
  rw [State.holdIn, h]

theorem releaseIn_of_msg {at_ : Nat} {m : Flit} (h : s.msgAt n 5 = some (at_, m)) :
    s.releaseIn n = if bits m.toNat 95 80 = s.epoch ∧ s.held then (s.msgDone n).release.leaveRest else s.msgDone n := by
  rw [State.releaseIn, h]
  rfl

/-- Settles O33. -/
theorem messagesBetweenChips : Obligations.MessagesBetweenChips := by
  refine ⟨fun n s h => congrArg Host.Outcome.next ?_, fun n s h => congrArg Host.Outcome.next ?_,
    fun n s h => congrArg Host.Outcome.next ?_, fun n s h => congrArg Host.Outcome.next ?_,
    fun n s h => congrArg Host.Outcome.next ?_, fun n id s h => congrArg Host.Outcome.next ?_,
    fun n s h => congrArg Host.Outcome.next ?_, fun n s at_ m hhead => ?_, fun n u => ?_, fun n id s at_ m hhead => ?_⟩
  · rw [State.alignIdIn, msgAt_of_other h]
  · rw [State.alignN0In, msgAt_of_other h]
  · rw [State.strideIn, msgAt_of_other h]
  · rw [State.holdIn, msgAt_of_other h]
  · rw [State.releaseIn, msgAt_of_other h]
  · rw [State.timeMsg, msgAt_of_other h]
  · rw [State.fwMsg, msgAt_of_other h]
  · intro d k fld
    refine ⟨fun ht => congrArg Host.Outcome.next ?_, fun ht => congrArg Host.Outcome.next ?_, fun ht => ?_, fun ht _ => ?_,
      fun ht => ?_⟩
    · rw [State.alignIdIn, msgAt_of_head hhead ht]
    · rw [State.alignN0In, msgAt_of_head hhead ht]
    · rw [show exec (.stride n) s = .next _ from congrArg Host.Outcome.next (strideIn_of_msg (msgAt_of_head hhead ht))]
      refine ⟨fun p hfind => congrArg Host.Outcome.next ?_, fun hearly => congrArg Host.Outcome.next ?_,
        fun hfind hlate => congrArg Host.Outcome.next ?_⟩
      · rw [hfind]
        dsimp only
        rw [State.strideCheck, bits_mod_bits]
      · have hfind : k.strides.find? (fun p => p.1 == fld 79 16) = none :=
          List.find?_eq_none.mpr fun p hp => by simpa using Nat.ne_of_lt (hearly p hp)
        rw [hfind]
        exact if_pos (List.all_eq_true.mpr fun p hp => decide_eq_true (hearly p hp))
      · rw [hfind]
        refine if_neg ?_
        simpa [List.all_eq_true] using hlate
    · rw [show exec (.hold n) s = .next _ from congrArg Host.Outcome.next (holdIn_of_msg (msgAt_of_head hhead ht))]
      refine ⟨fun hsame => congrArg Host.Outcome.next ?_, fun hnewer hless => congrArg Host.Outcome.next ?_,
        fun holder => congrArg Host.Outcome.next ?_⟩
      · exact if_pos (epochDistance_self hsame)
      · dsimp only
        rw [if_neg (Nat.ne_of_gt hnewer), if_pos hless]
      · dsimp only
        rw [if_neg (Nat.ne_of_gt (Nat.lt_of_lt_of_le (by decide) holder)), if_neg (Nat.not_lt.mpr holder)]
    · rw [show exec (.release n) s = .next _ from congrArg Host.Outcome.next (releaseIn_of_msg (msgAt_of_head hhead ht))]
      refine ⟨fun hsame hheld => ?_, fun hno => ?_⟩
      · rw [if_pos ⟨hsame, hheld⟩]
      · rw [if_neg]
        rintro ⟨hsame, hheld⟩
        rcases hno with h | h
        · exact h hsame
        · rw [h] at hheld; cases hheld
  · refine ⟨checkAlign_of_idle, fun hk i n0 himage hn0 => ?_⟩
    rw [checkAlign_of_aligning himage hn0 hk]
    intro wrong
    refine ⟨fun v hv hne => ?_, fun hsys v hv hne => ?_, fun hsys hwrong hnone => ?_, fun hsys v hv hsame hepoch => ⟨fun hwrong => ?_,
      fun hright => ?_⟩⟩
    · simp [hv, hne]
    · have : (u.link n).sysId.any (fun v => v != i.sys) = false := by
        rcases hsys with h | h <;> simp [h]
      simp [this, hv, hne]
    · have := (peerWrong_iff u n).mpr hwrong
      simp [hsys, hnone, this]
    · have := (peerWrong_iff u n).mpr hwrong
      simp [hsys, hv, hsame, hepoch, this]
    · have := Bool.eq_false_iff.mpr (fun h => hright ((peerWrong_iff u n).mp h))
      simp [hsys, hv, hsame, hepoch, this]
  · intro d e
    refine ⟨fun ht => congrArg Host.Outcome.next ?_, fun ht => congrArg Host.Outcome.next ?_⟩
    · rw [State.timeMsg, msgAt_of_head hhead ht]
    · rw [State.fwMsg, msgAt_of_head hhead ht]

end Sys2Proof.Machine
end

section
/-! System holds: adopted, undone decisions, reached and released (R255 to R257). -/
namespace Sys2Proof.Machine

variable {s : State}

/-- A hold that is not later than one in effect changes nothing; another is adopted, at the stride after the last issued one where
its own is issued already. -/
theorem adoptHold_eq (s : State) (h r p : Nat) (via : List Nat) :
    let late := h ≤ s.ds.issued ∧ s.ds.anyIssued = true
    let hh := if late then s.ds.issued + 1 else h
    s.adoptHold h r p via = if s.held = true ∧ hh ≤ s.holdH then s else
      ({ ((((if late then s.sat Reg.LD_HOLD_RAISED_COUNT 1 else s).set1 Reg.LD_HOLD_STAT_HELD).clr Reg.LD_HOLD_STAT_AT_H).putPair
        Adr.LD_HOLD_H_LO Adr.LD_HOLD_H_HI hh) with
        chip := { s.chip with holdReason := r, holdPart := p } } : State).undecide.sayAll via (msgHold hh s.epoch p r) := by
  intro late hh
  have hlate : (decide (h ≤ s.ds.issued) && s.ds.anyIssued) = decide late := by
    rw [Bool.decide_and, Bool.decide_eq_true]
  have hraised : (if late then s.sat Reg.LD_HOLD_RAISED_COUNT 1 else s).chip = s.chip := by
    split
    · exact State.sat_chip _ _ _
    · rfl
  unfold State.adoptHold
  simp only [hlate, decide_eq_true_eq, Bool.and_eq_true]
  rw [State.putPair_chip, State.clr_chip, State.set1_chip, hraised]

theorem undecide_of_none (h : s.ds.choice = none ∨ s.ds.prior = none ∨ s.held = false) : s.undecide = s := by
  unfold State.undecide
  split
  next w k p hchoice hprior =>
    rw [hchoice, hprior] at h
    simp only [reduceCtorEq, false_or] at h
    rw [h]
    rfl
  next => rfl

theorem State.OnlyRegs.wr {u : State} (h : s.OnlyRegs u) (a : Nat) (v : Word) : s.OnlyRegs (u.wr a v) := by
  obtain ⟨r, rfl⟩ := h
  exact ⟨_, rfl⟩

theorem State.OnlyRegs.set1If {u : State} (h : s.OnlyRegs u) (b : Bool) (f : Fld) : s.OnlyRegs (u.set1If b f) := by
  cases b
  · exact h
  · exact h.put f 1

theorem State.OnlyRegs.each {u : State} (h : s.OnlyRegs u) (k : Nat) {f : Nat → State → State}
    (hf : ∀ i v, s.OnlyRegs v → s.OnlyRegs (f i v)) : s.OnlyRegs (u.each k f) := by
  unfold State.each
  generalize List.range k = l
  induction l generalizing u with
  | nil => exact h
  | cons i l ih => exact ih (hf i u h)

/-- A decision that a hold bars is undone: its registers and the scheduler's state go back, and nothing else changes. -/
theorem undecide_of_barred {w : BitVec 24} {k : Nat} {p : Prior} (hchoice : s.ds.choice = some (w, k)) (hprior : s.ds.prior = some p)
    (hheld : s.held = true) (hk : s.holdH ≤ k) :
    s.undecide.ds = { s.ds with choice := none, prior := none, wanted := some k, delay := p.delay, decided := p.decided }
      ∧ s.undecide = { s with regs := s.undecide.regs, ds := s.undecide.ds } := by
  unfold State.undecide
  rw [hchoice, hprior]
  dsimp only
  rw [if_pos (by simp [hheld, hk])]
  let v : State := { s with ds := { s.ds with
    choice := none, prior := none, wanted := some k, delay := p.delay, decided := p.decided } }
  have honly : ∀ go : List Nat, ∀ x, v.OnlyRegs x →
      v.OnlyRegs (x.each 64 fun d s => s.set1If (go.contains d) (Reg.DS_DOM_FLAGS_HOST_GO d)) :=
    fun go x hx => hx.each 64 fun d _ hd => hd.set1If _ _
  obtain ⟨r, hr⟩ := honly p.go _ ((((State.OnlyRegs.refl v).wr _ _).put _ _).put _ _ |>.put _ _)
  rw [hr]
  exact ⟨rfl, rfl⟩

theorem undecide_of_early {w : BitVec 24} {k : Nat} {p : Prior} (hchoice : s.ds.choice = some (w, k)) (hprior : s.ds.prior = some p)
    (hk : k < s.holdH) : s.undecide = s := by
  unfold State.undecide
  rw [hchoice, hprior]
  exact if_neg (by simp [hk])

/-- AT_H is reached when every condition of R256 holds. -/
theorem atH_eq (s : State) :
    let reached := s.held = true ∧ s.on Reg.LD_HOLD_STAT_AT_H = false ∧ s.strideMode = true ∧ s.chip.haltBkp = false
      ∧ s.chip.haltChk = false ∧ s.runTeams ≠ [] ∧ s.allAtH = true
    let a := ((s.set1 Reg.LD_HOLD_STAT_AT_H).postEvent 3
      ⟨0x000C, 10, packBytes [(16, 8, s.holdH), (24, 1, s.chip.holdReason), (25, 1, s.chip.holdPart)]⟩).enterRest
    s.atH = if reached then
        if (a.longDesc 0x0302).isSome ∨ (a.longDesc 0x0304).isSome then a.endLong (okWith 8 s.holdH) else a
      else s := by
  intro reached a
  have hcond : (s.held && !s.on Reg.LD_HOLD_STAT_AT_H && s.strideMode && !s.chip.haltBkp && !s.chip.haltChk && !s.runTeams.isEmpty
      && s.allAtH) = true ↔ reached := by
    simp only [Bool.and_eq_true, Bool.not_eq_true', List.isEmpty_eq_false_iff, and_assoc, reached]
  unfold State.atH
  simp only [hcond]
  rfl

/-- Settles O34. -/
theorem holdsAreRequestedAndReached : Obligations.HoldsAreRequestedAndReached := by
  intro s
  refine ⟨rfl, fun h r p via => ?_, undecide_of_none, fun w k p hchoice hprior => ?_, fun hheld => ?_, fun hno => ?_, ?_, rfl⟩
  · intro late hh
    have heq := adoptHold_eq s h r p via
    refine ⟨fun hheld hle => heq.trans (if_pos ⟨hheld, hle⟩), fun hlater => heq.trans (if_neg ?_)⟩
    rintro ⟨hheld, hle⟩
    rcases hlater with hno | hlt
    · rw [hno] at hheld; cases hheld
    · exact Nat.not_lt.mpr hle hlt
  · exact ⟨undecide_of_early hchoice hprior, undecide_of_barred hchoice hprior⟩
  · exact congrArg Host.Outcome.next (if_pos hheld)
  · exact congrArg Host.Outcome.next (if_neg (by simp [hno]))
  · intro reached a
    have heq : exec .atHReached s = .next _ := congrArg Host.Outcome.next (atH_eq s)
    rw [heq]
    refine ⟨fun hno => ?_, fun hyes hstop hstep => ?_, fun hyes hlong => ?_⟩
    · rw [if_neg hno]
    · rw [if_pos hyes, hstop, hstep]
      rfl
    · rw [if_pos hyes, if_pos]
      exact hlong.imp Option.isSome_iff_ne_none.mpr Option.isSome_iff_ne_none.mpr

end Sys2Proof.Machine
end

section
/-! Frames of a link: sending, receiving and failing (R238, R239, R240, R244), and a change of width (R225). -/
namespace Sys2Proof.Machine

variable {s : State} {n : Nat}

/-! ### Sending (R239) -/

/-- The frame that goes again: one that the partner asked for, or the oldest of 64. -/
def Link.again (k : Link) : Option Nat :=
  match k.resend with
  | some q => some q
  | none => if 64 ≤ k.kept.length then (k.kept.head?).map (·.fseq) else none

theorem again_eq_some {k : Link} {q : Nat}
    (h : k.resend = some q ∨ (k.resend = none ∧ 64 ≤ k.kept.length ∧ k.kept.head?.map (·.fseq) = some q)) : k.again = some q := by
  rcases h with h | ⟨h, hfull, hq⟩
  · rw [Link.again, h]
  · rw [Link.again, h]
    exact (if_pos hfull).trans hq

theorem again_eq_none {k : Link} (h : k.resend = none) (hroom : k.kept.length < 64) : k.again = none := by
  rw [Link.again, h]
  exact if_neg (Nat.not_le.mpr hroom)

/-- A frame start of a link that is UP, when some frame goes again: one still kept is sent, for one that is not the request ends. -/
theorem transmit_again (m : Moment) (ex st : Nat) (hup : s.isUp n = true) {q : Nat} :
    let a := (s.expireForward n ex).expireSend n st
    let k := a.link n
    k.again = some q →
    (∀ (i : Nat) (f : LFrame), k.kept.findIdx? (fun f => f.fseq == q) = some i → k.kept[i]? = some f →
      s.transmit n m ex st = (((a.setLink n { k with resend := (k.kept[i + 1]?).map (·.fseq) }).set1If k.resend.isNone
        (linkErr n 14)).sat (linkReplay n 31 16) 1).sendFrame n f m)
    ∧ (k.kept.findIdx? (fun f => f.fseq == q) = none → s.transmit n m ex st = a.setLink n { k with resend := none }) := by
  intro a k hq
  have hup' : ¬ (!s.isUp n) = true := by simp [hup]
  refine ⟨fun i f hi hf => ?_, fun hi => ?_⟩
  · refine (if_neg hup').trans ?_
    change (match k.again with | some q => _ | none => _) = _
    rw [hq]
    dsimp only
    rw [hi]
    dsimp only
    rw [hf]
  · refine (if_neg hup').trans ?_
    change (match k.again with | some q => _ | none => _) = _
    rw [hq]
    dsimp only
    rw [hi]

/-- A frame start of a link that is UP, when none goes again: a new frame leaves and is kept. -/
theorem transmit_new (m : Moment) (ex st : Nat) (hup : s.isUp n = true) :
    let a := (s.expireForward n ex).expireSend n st
    let k := a.link n
    let p := (a.alignMsgs n).fillFrame n (a.frameCells n) [] none
    k.again = none →
    s.transmit n m ex st = (p.1.onLink n (fun k' => { k' with
      fseq := (k'.fseq + 1) % 256, kept := k'.kept ++ [⟨k.fseq, p.2.1⟩] })).sendFrame n ⟨k.fseq, p.2.1⟩ m := by
  intro a k p hnone
  refine (if_neg (by simp [hup])).trans ?_
  change (match k.again with | some q => _ | none => _) = _
  rw [hnone]

/-! ### Receiving (R238, R240) -/

/-- The frame held before the header of the next one arrives: its FCRC decides. -/
theorem frameIn_of_header (s : State) (n : Nat) (h : W64) (ill : Option Nat) (cells : List (BitVec 128)) (at_ : Nat) :
    s.frameIn n (some h) ill cells at_ =
      if (s.link n).rxHeld.any (fun f => frameCrc f.cells != BitVec.ofNat 32 (hINFO h)) then s.failFrame n (some 0)
      else
        let a := match (s.link n).rxHeld with | some f => s.acceptFrame n f | none => s
        if hFSEQ h ≠ ((a.link n).rxLast + 1) % 256 then (if (a.link n).rxFail then a else a.failFrame n (some 2))
        else if ill.isSome then a.failFrame n ill
        else a.setLink n { a.link n with rxHeld := some ⟨hFSEQ h, cells⟩, heldAt := at_, rxFail := false } := by
  unfold State.frameIn
  dsimp only
  cases (s.link n).rxHeld <;> rfl

theorem heldCrc_good {k : Link} {h : W64} (hgood : ∀ g : LFrame, k.rxHeld = some g → frameCrc g.cells = BitVec.ofNat 32 (hINFO h)) :
    k.rxHeld.any (fun f => frameCrc f.cells != BitVec.ofNat 32 (hINFO h)) = false := by
  cases hk : k.rxHeld with
  | none => rfl
  | some g => simpa using hgood g hk

/-! ### Width (R225) -/

theorem widthChange_of_want {e c : Nat} (hw : (s.link (16 + e)).want = some c) :
    let use := (s.lanesIn (16 + e) (if (s.link (16 + e)).wantFw then [lActive, lStandby] else [lActive])).take (widthLanes c)
    s.widthChange e = if use.length = widthLanes c then
      ((((use.foldl State.activate (s.onLink (16 + e) (fun k => { k.recut c with want := none, wantFw := false }))).put
        (Reg.EL_LINK_STAT_WIDTH e) c).put (Reg.EL_LINK_STAT_LANES e) (use.foldl (fun m l => m + 2 ^ laneNo l) 0)).setLinkState
        (16 + e) (if c = 0 then 1 else 2))
    else s := by
  intro use
  rw [State.widthChange, hw]

/-! ### Frames -/

/-- Settles O35: sending and receiving by cases on the frame that goes again and on the header and the frame held. -/
theorem framesAreHeldAcceptedAndSentAgain : Obligations.FramesAreHeldAcceptedAndSentAgain := by
  unfold Obligations.FramesAreHeldAcceptedAndSentAgain
  refine ⟨fun n s m ex st f hup => ⟨congrArg Host.Outcome.next (if_pos (by simp [hup])), congrArg Host.Outcome.next (if_pos (by simp [hup]))⟩,
    fun n s m ex st hup => ⟨fun q hq => ?_, fun hre hroom => ?_⟩, fun n s m f hup => ?_, fun n at_ s ill cells => ?_, fun n s b => ?_,
    fun e s => ?_⟩
  · obtain ⟨hsend, hend⟩ := transmit_again m ex st hup (again_eq_some hq)
    exact ⟨fun i f hi hf => congrArg Host.Outcome.next (hsend i f hi hf), fun hi => congrArg Host.Outcome.next (hend hi)⟩
  · exact congrArg Host.Outcome.next (transmit_new m ex st hup (again_eq_none hre hroom))
  · exact congrArg Host.Outcome.next (if_neg (by simp [hup]))
  · refine ⟨fun hfail => if_pos hfail, fun hfail => if_neg (by simp [hfail]), fun h => ⟨fun g hg hbad => ?_, fun hgood => ?_⟩⟩
    · rw [frameIn_of_header, if_pos]
      simp [hg, hbad]
    · intro a
      rw [frameIn_of_header, if_neg (by simp [heldCrc_good hgood])]
      refine ⟨fun hseq hill => ?_, fun hseq hill => ?_, fun hseq hfail => ?_, fun hseq hfail => ?_⟩
      · subst hill
        exact (if_neg (not_not_intro hseq)).trans (if_neg Bool.false_ne_true)
      · exact (if_neg (not_not_intro hseq)).trans (if_pos (Option.isSome_iff_ne_none.mpr hill))
      · exact (if_pos hseq).trans (if_pos hfail)
      · exact (if_pos hseq).trans (if_neg (Bool.eq_false_iff.mp hfail))
  · rfl
  · refine ⟨fun hw => ?_, fun c hw => ?_⟩
    · exact congrArg Host.Outcome.next (by rw [State.widthChange, hw])
    · intro lanes use
      exact ⟨fun hshort => congrArg Host.Outcome.next ((widthChange_of_want hw).trans (if_neg hshort)),
        fun henough => congrArg Host.Outcome.next ((widthChange_of_want hw).trans (if_pos henough))⟩

end Sys2Proof.Machine
end

section
/-! Scheduled requests of a Memory Gateway, the check of a burst and the windows of 4,096 bursts (R279, R280, R285, R287, R294). -/
namespace Sys2Proof.Machine

variable {s : State} {c : Nat}

/-! ### The oldest scheduled request (R279) -/

theorem schedBehind_of_cons {q : Nat} {f : Flit} {rest : List (Nat × Flit)} (h : (s.chan c).sq = (q, f) :: rest) :
    s.schedBehind c = s.behind c q (4 * bits f.toNat 71 24) := by
  rw [State.schedBehind, h]

/-- What is served, of a request at the front of the scheduled queue. -/
theorem gwServe_of_cons {q : Nat} {f : Flit} {rest : List (Nat × Flit)} (cs : Bool) (h : (s.chan c).sq = (q, f) :: rest) :
    let b := 4 * bits f.toNat 71 24
    let write := bit f.toNat 72
    let s1 := (s.setChan c { s.chan c with sq := rest }).sqCount c
    let s2 := s1.countBurst c b true
    let m := s1.set1 (Reg.GW_ERR_GW_MISMATCH c)
    let o := s1.set1 (Reg.GW_ERR_OUT_OF_REGION c)
    s.gwServe c cs =
      if s.chanState c = gFailed then (if write then s1 else s1.gwAnswer c f 5 0)
      else if bits f.toNat 77 74 ≠ c then (if write then m else m.gwAnswer c f 4 0)
      else if s.chanState c ≠ gReady ∨ (s.chan c).pausing ∨ (s.chan c).force ∨ s.behind c q b then s
      else if (s.dynPick c cs).isSome && decide (s.get (Reg.GW_CTL_DYN_MIN c) ≤ (s.chan c).consec) then s
      else if (match s.winAt c (bits f.toNat 71 24) b 4 with | some k => s.on (Reg.GW_WIN_SCHED c k) | none => false) then
        (if write then (s2.setMemBytes (dAddr c b) (leBytes 4 (bits f.toNat 23 0))).onChan c
            (fun v => { v with flight := v.flight ++ [⟨b, 4, true, [], some f, none⟩] })
        else s2.onChan c (fun v => { v with flight := v.flight ++ [⟨b, 4, false, s.memBytes (dAddr c b) 4, some f, none⟩] }))
      else (if write then o else o.gwAnswer c f 4 0) := by
  intro b write s1 s2 m o
  rw [State.gwServe, h]
  dsimp only
  rw [schedBehind_of_cons h] <;> rfl

/-- R282, R283: what keeps the request at the front of the scheduled queue waiting. -/
def State.gwBarred (s : State) (c q b : Nat) (cs : Bool) : Prop :=
  s.chanState c ≠ gReady ∨ (s.chan c).pausing = true ∨ (s.chan c).force = true ∨ s.behind c q b = true
    ∨ ((s.dynPick c cs).isSome = true ∧ s.get (Reg.GW_CTL_DYN_MIN c) ≤ (s.chan c).consec)

theorem gwBarred_iff {q b : Nat} {cs : Bool} : s.gwBarred c q b cs ↔
    (s.chanState c ≠ gReady ∨ (s.chan c).pausing ∨ (s.chan c).force ∨ s.behind c q b)
    ∨ ((s.dynPick c cs).isSome && decide (s.get (Reg.GW_CTL_DYN_MIN c) ≤ (s.chan c).consec)) = true := by
  simp only [State.gwBarred, Bool.and_eq_true, decide_eq_true_eq]
  tauto

/-- The two tests of a barred request, one after the other. -/
theorem ite_barred {α : Type} {q b : Nat} {cs : Bool} (x y : α) :
    (s.gwBarred c q b cs → (if s.chanState c ≠ gReady ∨ (s.chan c).pausing ∨ (s.chan c).force ∨ s.behind c q b then x
      else if (s.dynPick c cs).isSome && decide (s.get (Reg.GW_CTL_DYN_MIN c) ≤ (s.chan c).consec) then x else y) = x)
    ∧ (¬ s.gwBarred c q b cs → (if s.chanState c ≠ gReady ∨ (s.chan c).pausing ∨ (s.chan c).force ∨ s.behind c q b then x
      else if (s.dynPick c cs).isSome && decide (s.get (Reg.GW_CTL_DYN_MIN c) ≤ (s.chan c).consec) then x else y) = y) := by
  rw [gwBarred_iff, not_or]
  refine ⟨fun h => ?_, fun ⟨h1, h2⟩ => (if_neg h1).trans (if_neg h2)⟩
  split_ifs with h1 h2
  · rfl
  · rfl
  · exact absurd h (not_or.mpr ⟨h1, h2⟩)

/-- R279: the request of a burst inside the channel may go as the window's kind of traffic. -/
theorem winAt_sched_of_window {w k : Nat} (hw : w < 2 ^ 30) (hcap : 4 * w + 4 ≤ s.capacity c)
    (hk : s.window c (4 * w) 4 = some k) (hon : s.on (Reg.GW_WIN_SCHED c k) = true) :
    (match s.winAt c w (4 * w) 4 with | some k => s.on (Reg.GW_WIN_SCHED c k) | none => false) = true := by
  have hin : s.badAddr c w (4 * w) 4 = false := by simp only [State.badAddr, Bool.or_eq_false_iff, decide_eq_false_iff_not]; omega
  rw [State.winAt, hin, hk]
  exact hon

/-- R268, R275, R279: outside every window of scheduled traffic, or outside the channel. -/
theorem winAt_sched_outside {w : Nat} (h : 2 ^ 30 ≤ w ∨ s.capacity c < 4 * w + 4 ∨ s.window c (4 * w) 4 = none
    ∨ (∃ k, s.window c (4 * w) 4 = some k ∧ s.on (Reg.GW_WIN_SCHED c k) = false)) :
    ¬ (match s.winAt c w (4 * w) 4 with | some k => s.on (Reg.GW_WIN_SCHED c k) | none => false) = true := by
  cases hbad : s.badAddr c w (4 * w) 4 with
  | true => rw [State.winAt, hbad]; exact Bool.false_ne_true
  | false =>
    simp only [State.badAddr, Bool.or_eq_false_iff, decide_eq_false_iff_not] at hbad
    rw [State.winAt, if_neg (by simp [State.badAddr]; omega)]
    rcases h with h | h | h | ⟨k, h, hoff⟩
    · exact absurd h hbad.1
    · exact absurd h hbad.2
    · rw [h]; exact Bool.false_ne_true
    · rw [h]; exact Bool.eq_false_iff.mp hoff

/-! ### The check of a burst (R285) -/

/-- The channel and the memory after a burst's check, before its request is answered. -/
def State.crcTaken (s : State) (c n : Nat) (b : Burst) (rest : List Burst) : State :=
  let a := s.setChan c { s.chan c with flight := rest }
  let a1 := if 0 < n ∧ n ≤ 4 then a.sat (Reg.GD_CH_ERRCNT_CRC_REPLAY c) 1 else if 5 ≤ n then a.crcFail c b.addr else a
  if 5 ≤ n ∧ b.write = true then (a1.setMemBytes (dAddr c (b.addr / 32 * 32)) (freeBytes a1.free 32)).spendN 32 else a1

/-- The steps of a check one after the other: at most one of CRC_REPLAY and the failure. -/
theorem crcTaken_eq (s : State) (c n : Nat) (b : Burst) (rest : List Burst) :
    s.crcTaken c n b rest =
      (let s0 := s.setChan c { s.chan c with flight := rest }
       let s1 := if 0 < n ∧ n ≤ 4 then s0.sat (Reg.GD_CH_ERRCNT_CRC_REPLAY c) 1 else s0
       let s2 := if decide (5 ≤ n) then s1.crcFail c b.addr else s1
       if decide (5 ≤ n) && b.write then (s2.setMemBytes (dAddr c (b.addr / 32 * 32)) (freeBytes s2.free 32)).spendN 32 else s2) := by
  unfold State.crcTaken
  by_cases h5 : 5 ≤ n
  · have h4 : ¬ (0 < n ∧ n ≤ 4) := by omega
    simp only [h5, h4, if_true, if_false, decide_true, Bool.true_and, true_and]
  · simp only [h5, if_false, decide_false, Bool.false_and, Bool.false_eq_true, false_and]

/-- The check of the oldest burst in flight. -/
theorem crcCheck_of_cons (n : Nat) (last : List Byte) {b : Burst} {rest : List Burst} (h : (s.chan c).flight = b :: rest) :
    let a2 := s.crcTaken c n b rest
    let bad := decide (5 ≤ n)
    s.crcCheck c n last = match b.sched, b.dyn with
      | some f, _ => if b.write then a2 else a2.gwAnswer c f (if bad then 5 else 0) (ofLeBytes (if bad then last else b.got) % 2 ^ 24)
      | none, some q =>
        let q1 := if bad && !q.write then { q with got := q.got.take (q.got.length - b.len) ++ (last ++ b.got).take b.len } else q
        if q.left = 0 then a2.dynAnswer c q1 (bad || q.bad)
        else if bad && a2.isCopy q then
          (a2.onChan c (fun v => { v with dyn := v.dyn.filter (fun r => r.seq != q.seq) })).dynAnswer c
            { q1 with got := q1.got.take (q1.got.length - b.len) } true
        else if bad then a2.markBad c q.seq q1 else a2
      | none, none => a2 := by
  intro a2 bad
  rw [show a2 = _ from crcTaken_eq s c n b rest, State.crcCheck]
  dsimp only
  rw [h] <;> rfl

theorem ite_true_and_not {α : Type} (b : Bool) (x y : α) : (if (true && !b) = true then x else y) = if b = true then y else x := by
  cases b <;> rfl

/-- Four failed reissues of a burst of a dynamic request: a read keeps the bytes last received. -/
theorem crcCheck_dyn_failed {n : Nat} {last : List Byte} {b : Burst} {rest : List Burst} (h : (s.chan c).flight = b :: rest)
    {q : DynReq} (hs : b.sched = none) (hq : b.dyn = some q) (hn : 5 ≤ n) :
    let a2 := s.crcTaken c n b rest
    let q1 := if q.write then q else { q with got := q.got.take (q.got.length - b.len) ++ (last ++ b.got).take b.len }
    s.crcCheck c n last =
      if q.left = 0 then a2.dynAnswer c q1 true
      else if a2.isCopy q then
        (a2.onChan c (fun v => { v with dyn := v.dyn.filter (fun r => r.seq != q.seq) })).dynAnswer c
          { q1 with got := q1.got.take (q1.got.length - b.len) } true
      else a2.markBad c q.seq q1 := by
  intro a2 q1
  refine (crcCheck_of_cons n last h).trans ?_
  rw [hs, hq, decide_eq_true hn]
  dsimp only
  rw [ite_true_and_not]
  rfl

/-! ### Responses and windows -/

theorem gwSend_of_cons {p : Packet} {rest : List Packet} (h : (s.chan c).rsp = p :: rest) :
    s.gwSend c = (s.onChan c (fun v => { v with rsp := rest })).waitAt c p := by
  rw [State.gwSend, h]

theorem gwSend_of_nil (h : (s.chan c).rsp = []) : s.gwSend c = s := by
  rw [State.gwSend, h]

/-- Settles O36: the request at the front by the conditions of R279 in their order, a check by what its burst was for. -/
theorem scheduledRequestsAreServed : Obligations.ScheduledRequestsAreServed := by
  unfold Obligations.ScheduledRequestsAreServed
  intro c s v
  refine ⟨fun cs h => ?_, fun cs q f rest h => ?_, fun p rest ha h => ?_, fun h => ?_, fun n last h => ?_, fun b rest n last h => ?_,
    fun h => ?_, fun rest h => ?_, fun b rest h => ?_⟩
  · exact congrArg Host.Outcome.next (by rw [State.gwServe, h])
  · have hserve := gwServe_of_cons cs h
    intro w s1 barred here
    refine ⟨fun hf => ⟨fun hw => ?_, fun hw => ?_⟩, fun hf hc => ⟨fun hw => ?_, fun hw => ?_⟩, fun ⟨hf, hc⟩ hbar => ?_,
      fun ⟨hf, hc⟩ hbar hlt hcap k hk hon => ?_, fun ⟨hf, hc⟩ hbar hout => ?_⟩
    · exact congrArg Host.Outcome.next (hserve.trans ((if_pos hf).trans (if_pos hw)))
    · exact congrArg Host.Outcome.next (hserve.trans ((if_pos hf).trans (if_neg (Bool.eq_false_iff.mp hw))))
    · exact congrArg Host.Outcome.next (hserve.trans ((if_neg hf).trans ((if_pos hc).trans (if_pos hw))))
    · exact congrArg Host.Outcome.next (hserve.trans ((if_neg hf).trans ((if_pos hc).trans (if_neg (Bool.eq_false_iff.mp hw)))))
    · exact congrArg Host.Outcome.next (hserve.trans ((if_neg hf).trans ((if_neg (not_not_intro hc)).trans ((ite_barred _ _).1 hbar))))
    · have hgo := hserve.trans ((if_neg hf).trans ((if_neg (not_not_intro hc)).trans (((ite_barred _ _).2 hbar).trans
        (if_pos (winAt_sched_of_window hlt hcap hk hon)))))
      exact ⟨fun hw => congrArg Host.Outcome.next (hgo.trans (if_pos hw)),
        fun hw => congrArg Host.Outcome.next (hgo.trans (if_neg (Bool.eq_false_iff.mp hw)))⟩
    · have hgo := hserve.trans ((if_neg hf).trans ((if_neg (not_not_intro hc)).trans (((ite_barred _ _).2 hbar).trans
        (if_neg (winAt_sched_outside hout)))))
      exact ⟨fun hw => congrArg Host.Outcome.next (hgo.trans (if_pos hw)),
        fun hw => congrArg Host.Outcome.next (hgo.trans (if_neg (Bool.eq_false_iff.mp hw)))⟩
  · exact congrArg Host.Outcome.next ((if_pos ha).trans (gwSend_of_cons h))
  · refine congrArg Host.Outcome.next ?_
    split_ifs with ha
    · exact gwSend_of_nil (h.resolve_left (by simp [ha]))
    · rfl
  · exact congrArg Host.Outcome.next (by rw [State.crcCheck, h])
  · have hcheck := crcCheck_of_cons n last h
    intro a a1 a2
    refine ⟨fun f hf => ⟨fun hw => ?_, fun hw hn => ?_, fun hw hn => ?_⟩, fun hs hd => ?_, fun q hs hq hn => ?_,
      fun q hs hq hn => ?_⟩
    · exact congrArg Host.Outcome.next (hcheck.trans (by rw [hf]; exact if_pos hw))
    · have h5 : decide (5 ≤ n) = false := decide_eq_false (by omega)
      exact congrArg Host.Outcome.next (hcheck.trans (by rw [hf, h5]; exact if_neg (Bool.eq_false_iff.mp hw)))
    · have h5 : decide (5 ≤ n) = true := decide_eq_true hn
      exact congrArg Host.Outcome.next (hcheck.trans (by rw [hf, h5]; exact if_neg (Bool.eq_false_iff.mp hw)))
    · exact congrArg Host.Outcome.next (hcheck.trans (by rw [hs, hd]; rfl))
    · have h5 : decide (5 ≤ n) = false := decide_eq_false (by omega)
      exact congrArg Host.Outcome.next (hcheck.trans (by rw [hs, hq, h5]; rfl))
    · intro q1
      have hfailed := crcCheck_dyn_failed h hs hq hn (last := last)
      exact ⟨fun hl => congrArg Host.Outcome.next (hfailed.trans (if_pos hl)),
        fun hl hcopy => congrArg Host.Outcome.next (hfailed.trans ((if_neg hl).trans (if_pos hcopy))),
        fun hl hcopy => congrArg Host.Outcome.next (hfailed.trans ((if_neg hl).trans (if_neg (Bool.eq_false_iff.mp hcopy))))⟩
  · exact congrArg Host.Outcome.next (by rw [State.hotWindow, h])
  · exact congrArg Host.Outcome.next (by rw [State.hotWindow, h])
  · exact congrArg Host.Outcome.next (by rw [State.hotWindow, h])

end Sys2Proof.Machine
end

section
/-! Dynamic bursts, ageing, refresh and parity alerts of a channel (R282, R283, R284, R286). -/
namespace Sys2Proof.Machine

variable {s : State} {c : Nat}

/-! ### Dynamic bursts (R282) -/

/-- What the channel needs to issue a dynamic burst, as the model tests it. -/
theorem not_turn_iff (bl : Bool) : (s.chanState c ≠ gReady ∨ (s.chan c).pausing ∨ (s.chan c).force
      ∨ !((s.chan c).sq.isEmpty || bl || s.schedBehind c || decide (s.get (Reg.GW_CTL_DYN_MIN c) ≤ (s.chan c).consec))) ↔
    ¬ (s.chanState c = gReady ∧ (s.chan c).pausing = false ∧ (s.chan c).force = false ∧
      ((s.chan c).sq = [] ∨ bl = true ∨ s.schedBehind c = true ∨ s.get (Reg.GW_CTL_DYN_MIN c) ≤ (s.chan c).consec)) := by
  simp only [Bool.not_eq_true', Bool.or_eq_false_iff, List.isEmpty_eq_false_iff, decide_eq_false_iff_not]
  grind

theorem dynBurst_idle {bl cap : Bool}
    (h : ¬ (s.chanState c = gReady ∧ (s.chan c).pausing = false ∧ (s.chan c).force = false ∧
      ((s.chan c).sq = [] ∨ bl = true ∨ s.schedBehind c = true ∨ s.get (Reg.GW_CTL_DYN_MIN c) ≤ (s.chan c).consec))
      ∨ s.dynPick c cap = none) : s.dynBurst c bl cap = s := by
  unfold State.dynBurst
  dsimp only
  split_ifs with hturn
  · rfl
  · rw [h.resolve_left (fun hn => hturn ((not_turn_iff bl).mpr hn))]

/-- The burst that the channel issues for the request picked. -/
theorem dynBurst_picks {bl cap : Bool} {q : DynReq}
    (h : s.chanState c = gReady ∧ (s.chan c).pausing = false ∧ (s.chan c).force = false ∧
      ((s.chan c).sq = [] ∨ bl = true ∨ s.schedBehind c = true ∨ s.get (Reg.GW_CTL_DYN_MIN c) ≤ (s.chan c).consec))
    (hq : s.dynPick c cap = some q) :
    let n := burstLen q
    let q1 := { q with addr := q.addr + n, left := q.left - n, data := q.data.drop n,
                       got := if q.write then [] else q.got ++ s.memBytes (dAddr c q.addr) n }
    let a := s.dynPut c q q1
    let b := a.onChan c (fun v => { v with flight := v.flight ++ [⟨q.addr, n, q.write, [], none, some q1⟩] })
    s.dynBurst c bl cap =
      if !(s.chan c).dyn.contains q && (s.window c q.addr n).isNone then (a.set1 (Reg.GW_ERR_OUT_OF_REGION c)).capSettle
      else ((if q.write then b.setMemBytes (dAddr c q.addr) (q.data.take n) else b).countBurst c q.addr false).capSettle := by
  intro n q1 a b
  refine (if_neg (fun hn => (not_turn_iff bl).mp hn h)).trans ?_
  rw [hq]

theorem dynPut_of_mem {q q1 : DynReq} (h : q ∈ (s.chan c).dyn) : s.dynPut c q q1 = s.setChan c { s.chan c with
    dyn := if q1.left = 0 then (s.chan c).dyn.erase q else (s.chan c).dyn.map (fun r => if r = q then q1 else r) } :=
  if_pos (List.contains_iff_mem.mpr h)

theorem dynPut_of_staged {q q1 : DynReq} (h : q ∉ (s.chan c).dyn) : s.dynPut c q q1 = { s with cap := { s.cap with
    staging := if q1.left = 0 then s.cap.staging.erase (c, q) else s.cap.staging.map (fun b => if b = (c, q) then (c, q1) else b) } } :=
  if_neg (fun hc => h (List.contains_iff_mem.mp hc))

/-! ### Refresh (R283, R284) -/

/-- The state in which one more refresh is owed. -/
def State.owesMore (s : State) (c : Nat) : State :=
  (s.setChan c { s.chan c with owed := (s.chan c).owed ++ [(s.chan c).nextBank], nextBank := ((s.chan c).nextBank + 1) % 16 }).put
    (Reg.GD_REF_DEBT c) ((s.chan c).owed.length + 1)

theorem refreshDue_idle (h : ¬ (s.chanState c = gReady ∨ s.chanState c = gPaused) ∨ 8 ≤ (s.chan c).owed.length) :
    s.refreshDue c = s :=
  if_neg (by rintro ⟨hr, hl⟩; exact h.elim (fun h => h hr) (by omega))

theorem refreshDue_owes (hr : s.chanState c = gReady ∨ s.chanState c = gPaused) (hl : (s.chan c).owed.length < 7) :
    s.refreshDue c = s.owesMore c :=
  (if_pos ⟨hr, by omega⟩).trans (if_pos (by omega))

theorem refreshDue_full (hr : s.chanState c = gReady ∨ s.chanState c = gPaused) (hl : (s.chan c).owed.length = 7) :
    s.refreshDue c = match (s.owesMore c).refreshPick c with
      | some i => (s.owesMore c).refreshAt c i
      | none => (s.owesMore c).onChan c (fun v => { v with force := true }) :=
  (if_pos ⟨hr, by omega⟩).trans ((if_neg (by omega)).trans rfl)

theorem refpb_unforced (hr : s.chanState c = gReady ∨ s.chanState c = gPaused) (hf : (s.chan c).force = false) :
    s.refpb c = match s.refreshPick c with | some i => s.refreshAt c i | none => s :=
  (if_pos hr).trans ((if_neg (Bool.eq_false_iff.mp hf)).trans rfl)

/-! ### Parity alerts (R286) -/

theorem caAlert_idle {again : Bool}
    (h : ¬ (s.chanState c = gReady ∨ s.chanState c = gPaused) ∨ s.on (Reg.GD_CH_CTL_PARITY_EN c) = false) :
    s.caAlert c again = s := by
  refine if_neg fun ht => ?_
  simp only [Bool.and_eq_true, Bool.or_eq_true, beq_iff_eq] at ht
  exact h.elim (fun h => h ht.2) (fun h => by simp [h] at ht)

theorem caAlert_checked {again : Bool} (hr : s.chanState c = gReady ∨ s.chanState c = gPaused)
    (hp : s.on (Reg.GD_CH_CTL_PARITY_EN c) = true) :
    s.caAlert c again = if 4 ≤ (s.chan c).alerts + 1 then
        ((s.setChan c { s.chan c with alerts := 0 }).set1 (Reg.GD_CH_STAT_CA_FAIL c)).chanFail c
      else if again then s.setChan c { s.chan c with alerts := (s.chan c).alerts + 1 }
      else (s.setChan c { s.chan c with alerts := 0 }).sat (Reg.GD_CH_ERRCNT_CA_REPLAY c) 1 :=
  if_pos (by simp [hp, hr])

/-- Settles O37: each operation of a channel by the conditions under which it acts. -/
theorem dynamicTrafficAndRefresh : Obligations.DynamicTrafficAndRefresh := by
  unfold Obligations.DynamicTrafficAndRefresh
  intro c s v ready
  refine ⟨fun bl cap => ?_, fun h => ?_, fun q h => ?_, fun q q1 => ⟨dynPut_of_mem, dynPut_of_staged⟩,
    fun h => congrArg Host.Outcome.next (refreshDue_idle h), ?_, fun i b h => ?_, fun h => congrArg Host.Outcome.next (if_neg h),
    fun hr hf => congrArg Host.Outcome.next ((if_pos hr).trans (if_pos hf)), fun hr hf i hi => ?_, fun hf hi => ?_, fun again => ?_⟩
  · intro turn
    refine ⟨fun h => congrArg Host.Outcome.next (dynBurst_idle h), fun h q hq => ?_⟩
    have hpick := dynBurst_picks h hq
    intro n q1 a b
    refine ⟨fun hmem hwin => congrArg Host.Outcome.next (hpick.trans (if_pos ?_)),
      fun hin => congrArg Host.Outcome.next (hpick.trans (if_neg ?_))⟩
    · rw [show s.window c q.addr (burstLen q) = none from hwin]
      simpa using hmem
    · simp only [Bool.and_eq_true, Bool.not_eq_true', Option.isNone_iff_eq_none, not_and]
      exact fun hc => hin.resolve_left (by simpa using hc)
  · exact congrArg Host.Outcome.next (by rw [State.dynAged, h])
  · exact congrArg Host.Outcome.next (by rw [State.dynAged, h])
  · intro a
    refine ⟨fun hr hl => congrArg Host.Outcome.next (refreshDue_owes hr hl), fun hr hl i hi => ?_, fun hr hl hi => ?_⟩
    · exact congrArg Host.Outcome.next ((refreshDue_full hr hl).trans (by rw [State.refreshPick, show (s.owesMore c) = a from rfl, hi]))
    · exact congrArg Host.Outcome.next ((refreshDue_full hr hl).trans (by rw [State.refreshPick, show (s.owesMore c) = a from rfl, hi]))
  · rw [State.refreshAt, h]
    rfl
  · exact congrArg Host.Outcome.next ((refpb_unforced hr hf).trans (by rw [State.refreshPick, hi]))
  · refine congrArg Host.Outcome.next ?_
    by_cases hr : ready
    · exact (refpb_unforced hr hf).trans (by rw [State.refreshPick, hi])
    · exact if_neg hr
  · refine ⟨fun h => congrArg Host.Outcome.next (caAlert_idle h), fun hr hp hn => ?_, fun hr hp hn ha => ?_, fun hr hp hn ha => ?_⟩
    · exact congrArg Host.Outcome.next ((caAlert_checked hr hp).trans (if_pos (Nat.succ_le_succ hn)))
    · exact congrArg Host.Outcome.next ((caAlert_checked hr hp).trans ((if_neg (Nat.not_le.mpr (Nat.succ_lt_succ hn))).trans (if_pos ha)))
    · exact congrArg Host.Outcome.next ((caAlert_checked hr hp).trans ((if_neg (Nat.not_le.mpr (Nat.succ_lt_succ hn))).trans (if_neg (Bool.eq_false_iff.mp ha))))

end Sys2Proof.Machine
end

section
/-! Reads and writes of a register by an agent (R7, R343, R361, R362, R471, R518, R520, R521). -/
namespace Sys2Proof.Machine

variable {s : State} {who : Agent} {a : Nat}

/-! ### An access on its way to the register bus -/

theorem agentRead_halted (a : Nat) (hh : s.chip.halted = true) : s.agentRead .host a = { s with rdata := [0xFFFFFFFF#32] } :=
  if_pos (by rw [hh]; rfl)

theorem not_host (h : who ≠ .host) : (who == .host) = false := beq_eq_false_iff_ne.mpr h

/-- An aligned read that reaches the register bus: past the tests that stop the host alone. -/
theorem agentRead_eq (ha : a % 4 = 0)
    (h : who ≠ .host ∨ (s.chip.halted = false ∧ (a ≠ Adr.PE_FENCE ∨ s.hostWrites = false))) :
    s.agentRead who a = ((if s.waitedFor who a then s else { s with rdata := [] }).hostFirst who a).busRead who a := by
  unfold State.agentRead
  rw [show a / 4 * 4 = a by omega, if_neg, if_neg, if_neg]
  · rcases h with h | ⟨-, h | h⟩
    · simp [not_host h]
    · simp [h]
    · simp [h]
  · simp [ha]
  · rcases h with h | ⟨h, -⟩
    · simp [not_host h]
    · simp [h]

/-- The BAR4 reads of a Team that the host waits for concern its accesses to that Team's registers alone. -/
theorem hostFirst_of_free (u : State) (h : who ≠ .host ∨ inTeams a = false) : u.hostFirst who a = u :=
  if_neg (by rcases h with h | h <;> simp [h])

theorem waitedFor_of_free (h : who ≠ .host ∨ inTeams a = false) : s.waitedFor who a = false := by
  rcases h with h | h <;> simp [State.waitedFor, h]

theorem agentRead_of_free (ha : a % 4 = 0) (h : who ≠ .host ∨ (s.chip.halted = false ∧ inTeams a = false
    ∧ (a ≠ Adr.PE_FENCE ∨ s.hostWrites = false))) : s.agentRead who a = ({ s with rdata := [] } : State).busRead who a := by
  have hfree : who ≠ .host ∨ inTeams a = false := h.imp_right fun h => h.2.1
  rw [agentRead_eq ha (h.imp_right fun h => ⟨h.1, h.2.2⟩), waitedFor_of_free hfree, hostFirst_of_free _ hfree]
  rfl

theorem busRead_alive (h : s.deadBlock a = false) : s.busRead who a = s.readReg who a := if_neg (by simp [h])

theorem deadBlock_unclocked (h : s.clockOf a = none) : s.deadBlock a = false := by rw [State.deadBlock, h]

/-- Outside the Team arrays, the scheduler's island and the memory controllers no clock can have stopped. -/
theorem clockOf_none (hteam : inTeams a = false) (h : a < 0x50000 ∨ (0x80000 ≤ a ∧ a < 0xC0000) ∨ 0xF0000 ≤ a) : s.clockOf a = none := by
  unfold State.clockOf
  rw [if_neg (by simp [hteam]), if_neg (by omega), if_neg (by omega), if_neg (by omega)]

/-- A read of 4 bytes of a register outside the Team arrays, whose clock runs always. -/
theorem agentRead_plain (ha : a % 4 = 0) (hteam : inTeams a = false) (hclk : a < 0x50000 ∨ (0x80000 ≤ a ∧ a < 0xC0000) ∨ 0xF0000 ≤ a)
    (hfence : a ≠ Adr.PE_FENCE) (hh : who = .host → s.chip.halted = false) :
    s.agentRead who a = ({ s with rdata := [] } : State).readReg who a := by
  rw [agentRead_of_free ha, busRead_alive (deadBlock_unclocked (clockOf_none hteam hclk))]
  by_cases hw : who = .host
  · exact .inr ⟨hh hw, hteam, .inl hfence⟩
  · exact .inl hw

/-! ### What a read latches and clears -/

theorem latched_setLatch (u : State) (w : Agent) (a b : Nat) (v : Word) :
    (u.setLatch w a v).latched w b = if b = a then v else u.latched w b := by
  unfold State.latched State.setLatch
  rw [Tab.get_set]
  simp only [Nat.add_left_cancel_iff]

/-- The latches that a read of a lowest word sets. -/
def State.latchAll (u : State) (who : Agent) (l : List (Nat × Word)) : State := l.foldl (fun s p => s.setLatch who p.1 p.2) u

theorem latchAll_latch (u : State) (who : Agent) (l : List (Nat × Word)) : ∃ t, u.latchAll who l = { u with latch := t } := by
  induction l generalizing u with
  | nil => exact ⟨_, rfl⟩
  | cons p l ih => exact ih (u.setLatch who p.1 p.2)

theorem latchAll_latched (u : State) (who : Agent) (l : List (Nat × Word)) (b : Nat) :
    (u.latchAll who l).latched who b = l.foldl (fun v p => if b = p.1 then p.2 else v) (u.latched who b) := by
  induction l generalizing u with
  | nil => rfl
  | cons p l ih =>
    rw [show u.latchAll who (p :: l) = (u.setLatch who p.1 p.2).latchAll who l from rfl, ih, latched_setLatch]
    rfl

/-- No field of the register is cleared by a read. -/
def noRc (a : Nat) : Bool := match findReg a with | some d => !d.fields.any (fun f => f.acc == .rc) | none => true

theorem readClear_of_noRc (u : State) (h : noRc a = true) : u.readClear a = u := by
  unfold State.readClear
  unfold noRc at h
  split
  next d hd =>
    rw [hd] at h
    exact if_neg (by simpa using h)
  next => rfl

/-- A read of a register outside the Team arrays that takes no stamp and clears nothing. -/
theorem readReg_latches (hteam : inTeams a = false) (htxq : a ≠ Adr.TB_TXQ_W3) (hrc : noRc a = true) :
    s.readReg who a = { s.latchAll who (s.latches a) with rdata := s.rdata ++ [s.peek who a] } := by
  unfold State.readReg
  have hrcAddr : ∀ u : State, u.rcAddr a = some a := fun u => if_neg (by simp [hteam])
  rw [show (s.latches a).foldl (fun s p => s.setLatch who p.1 p.2) s = s.latchAll who (s.latches a) from rfl]
  simp only [hrcAddr, readClear_of_noRc _ hrc, if_neg htxq]

end Sys2Proof.Machine
end

section
/-! The Time Base: its updates, writes, stamps and latched reads (R339 to R353). -/
namespace Sys2Proof.Machine

variable {s : State}

/-- What every update of the counter ends with. -/
def State.tbEnds (s x : State) (jumped : Bool) : State :=
  let y : State := { x with tb := { x.tb with incPend := false, past := ((x.tb.now, (s.rd Adr.TB_INC).toNat) :: x.tb.past).take 260 } }
  ((y.clr Reg.TB_STAT_SET_PEND).clr Reg.TB_STAT_ADJ_PEND).each 8 (fun k u => u.compare jumped k)

theorem tbUpdate_stopped (h : ¬ (s.on Reg.TB_CTL_EN = true ∧ s.on Reg.CHIP_CLK_STAT_LREF_OK = true)) : s.tbUpdate = s :=
  if_neg (by simpa using h)

theorem tbUpdate_counts (hrun : s.on Reg.TB_CTL_EN = true ∧ s.on Reg.CHIP_CLK_STAT_LREF_OK = true) (hset : s.tb.set = none) :
    s.tbUpdate = s.tbEnds { s with tb := { s.tb with
      now := stampAdd s.tb.now ((s.rd Adr.TB_INC).toNat + s.tb.adj.getD 0 * 2 ^ 24), adj := none } } s.tb.adj.isSome := by
  refine (if_pos (by simpa using hrun)).trans ?_
  rw [hset]
  rfl

theorem tbUpdate_sets {v : Stamp} (hrun : s.on Reg.TB_CTL_EN = true ∧ s.on Reg.CHIP_CLK_STAT_LREF_OK = true) (hset : s.tb.set = some v) :
    s.tbUpdate = s.tbEnds { s.set1If s.tb.adj.isSome Reg.TB_STAT_ADJ_LOST with tb := { s.tb with now := v, set := none, adj := none } } true := by
  refine (if_pos (by simpa using hrun)).trans ?_
  rw [hset]
  dsimp only
  rw [State.set1If_tb]
  rfl

/-! ### Latched reads -/

theorem peek_tbNowNs (who : Agent) : s.peek who Adr.TB_NOW_NS = BitVec.ofNat 32 s.tb.now.ns := rfl

theorem latches_tbNowNs : s.latches Adr.TB_NOW_NS =
    [(Adr.TB_NOW_SEC_LO, BitVec.ofNat 32 s.tb.now.sec), (Adr.TB_NOW_SEC_HI, BitVec.ofNat 32 (s.tb.now.sec / 2 ^ 32)),
      (Adr.TB_NOW_FRAC, BitVec.ofNat 32 s.tb.now.frac), (Adr.TB_NOW_NR, BitVec.ofNat 32 (stampNR s.tb.now))] := rfl

theorem peek_tbSbStride (who : Agent) : s.peek who Adr.TB_SB_STRIDE = s.readable Adr.TB_SB_STRIDE := rfl

theorem latches_tbSbStride : s.latches Adr.TB_SB_STRIDE =
    [(Adr.TB_SB_NS, s.rd Adr.TB_SB_NS), (Adr.TB_SB_SEC_LO, s.rd Adr.TB_SB_SEC_LO), (Adr.TB_SB_SEC_HI, s.rd Adr.TB_SB_SEC_HI),
      (Adr.TB_SB_FRAC, s.rd Adr.TB_SB_FRAC)] := rfl

theorem peek_tbTxqW3 (who : Agent) : s.peek who Adr.TB_TXQ_W3 = s.viewTxq 3 := rfl

/-- A read of the last word of the stamp queue takes the oldest stamp. -/
theorem readReg_tbTxqW3 (who : Agent) : (s.readReg who Adr.TB_TXQ_W3).tb = { s.tb with txq := s.tb.txq.drop 1 } := rfl

/-- A read of a register that latches: its value, what it latches for the agent, and what it leaves. -/
theorem agentRead_latches (who : Agent) {a : Nat} (ha : a % 4 = 0) (hteam : inTeams a = false)
    (hclk : a < 0x50000 ∨ (0x80000 ≤ a ∧ a < 0xC0000) ∨ 0xF0000 ≤ a) (hfence : a ≠ Adr.PE_FENCE) (htxq : a ≠ Adr.TB_TXQ_W3)
    (hrc : noRc a = true) (hh : s.chip.halted = false) :
    let u : State := { s with rdata := [] }
    let t := s.agentRead who a
    t.rdata = [u.peek who a] ∧ (∀ b, t.latched who b = (u.latches a).foldl (fun v p => if b = p.1 then p.2 else v) (s.latched who b))
      ∧ t.tb = s.tb ∧ t.regs = s.regs := by
  intro u t
  have hread : t = { u.latchAll who (u.latches a) with rdata := [u.peek who a] } := by
    rw [show t = _ from agentRead_plain ha hteam hclk hfence (fun _ => hh), readReg_latches hteam htxq hrc]
    rfl
  have hlatched := latchAll_latched u who (u.latches a)
  obtain ⟨l, hl⟩ := latchAll_latch u who (u.latches a)
  rw [hread]
  rw [hl] at hlatched ⊢
  exact ⟨rfl, hlatched, rfl, rfl⟩

theorem ofNat_stampNR (v : Stamp) : BitVec.ofNat 32 (stampNR v) = BitVec.ofNat 32 (v.sec * 1000000000 + v.ns) :=
  BitVec.eq_of_toNat_eq (by simp [stampNR])

/-- Settles O41: the update by what is pending, the writes by their range, and the reads by what they latch. -/
theorem timeBaseAdvances : Obligations.TimeBaseAdvances := by
  unfold Obligations.TimeBaseAdvances
  intro s ends off runs
  refine ⟨fun h => congrArg Host.Outcome.next (tbUpdate_stopped h), fun hr hs => congrArg Host.Outcome.next (tbUpdate_counts hr hs),
    fun v hr hs => congrArg Host.Outcome.next (tbUpdate_sets hr hs), fun v => rfl, fun v => ?_,
    fun h => congrArg Host.Outcome.next (if_pos h), fun h => congrArg Host.Outcome.next (if_neg (Nat.not_lt.mpr h)),
    fun m w v inc h => ?_, fun who hh => ⟨?_, ?_, ?_⟩, fun hh => ⟨?_, ?_, ?_⟩⟩
  · exact ⟨fun h => congrArg Host.Outcome.next (if_pos h), fun h => congrArg Host.Outcome.next (if_neg h)⟩
  · rw [State.stampOf, h]
    rfl
  · obtain ⟨hdata, hlatched, htb, -⟩ := agentRead_latches (s := s) who (a := Adr.TB_NOW_NS) (by decide) (by decide) (.inl (by decide))
      (by decide) (by decide) (by decide) hh
    rw [latches_tbNowNs] at hlatched
    exact ⟨_, rfl, hdata, hlatched _, hlatched _, hlatched _, (hlatched _).trans (ofNat_stampNR _), htb⟩
  · obtain ⟨hdata, hlatched, htb, -⟩ := agentRead_latches (s := s) who (a := Adr.TB_SB_STRIDE) (by decide) (by decide) (.inl (by decide))
      (by decide) (by decide) (by decide) hh
    rw [latches_tbSbStride] at hlatched
    exact ⟨_, rfl, hdata, hlatched _, hlatched _, htb⟩
  · refine ⟨_, rfl, ?_⟩
    rw [agentRead_plain (by decide) (by decide) (.inl (by decide)) (by decide) (fun _ => hh)]
    exact ⟨rfl, rfl⟩
  · exact congrArg Host.Outcome.next (agentRead_halted _ hh)
  · exact congrArg Host.Outcome.next (agentRead_halted _ hh)
  · exact congrArg Host.Outcome.next (agentRead_halted _ hh)

end Sys2Proof.Machine
end

section
/-! The host's accesses to BAR0, BAR2 and BAR4 (R361 to R368, R471, R518, R521). -/
namespace Sys2Proof.Machine

variable {s : State} {who : Agent} {a : Nat}

/-! ### BAR0: sizes (R361) -/

theorem agentReads_halted (a n : Nat) (hh : s.chip.halted = true) :
    s.agentReads .host a n = { s with rdata := List.replicate ((n + 3) / 4) 0xFFFFFFFF#32 } :=
  if_pos (by rw [hh]; rfl)

theorem agentReads_refused {n : Nat} (hh : s.chip.halted = false) (hs : sizeOk false a n = false) :
    s.agentReads .host a n = { s.peErr 1 0 a with rdata := List.replicate ((n + 3) / 4) 0#32 } := by
  unfold State.agentReads
  rw [if_neg (by simp [hh]), if_pos (by simp [hs])]

/-- A read whose size is accepted: one of 4 bytes after the other. -/
theorem agentReads_taken {n : Nat} (h : who ≠ .host ∨ (s.chip.halted = false ∧ sizeOk false a n = true)) :
    s.agentReads who a n =
      (let r := (List.range (n / 4)).foldl (fun p i =>
        let s1 := State.agentRead p.1 who (a + 4 * i)
        (s1, p.2 ++ s1.rdata)) (s, [])
       { r.1 with rdata := r.2 }) := by
  unfold State.agentReads
  rw [if_neg, if_neg]
  · rcases h with h | h
    · simp [not_host h]
    · simp [h]
  · rcases h with h | h
    · simp [not_host h]
    · simp [h]

theorem sizeOk_read_iff (a n : Nat) : sizeOk false a n = true ↔ (n = 4 ∧ a % 4 = 0) ∨ (n = 8 ∧ a % 8 = 0) := by
  simp only [sizeOk, Bool.false_and, Bool.or_false, decide_eq_true_eq]

theorem sizeOk_write_iff (a n : Nat) : sizeOk true a n = true ↔
    (n = 4 ∧ a % 4 = 0) ∨ (n = 8 ∧ a % 8 = 0) ∨ (8 < n ∧ n % 4 = 0 ∧ a % 4 = 0) := by
  simp only [sizeOk, Bool.true_and, Bool.or_eq_true, decide_eq_true_eq, or_assoc]

theorem agentReads_four (h : who ≠ .host ∨ (s.chip.halted = false ∧ a % 4 = 0)) : s.agentReads who a 4 = s.agentRead who a :=
  agentReads_taken (h.imp_right fun h => ⟨h.1, (sizeOk_read_iff a 4).mpr (.inl ⟨rfl, h.2⟩)⟩)

theorem agentReads_eight (h : who ≠ .host ∨ (s.chip.halted = false ∧ a % 8 = 0)) :
    let s1 := s.agentRead who a
    let s2 := s1.agentRead who (a + 4)
    s.agentReads who a 8 = { s2 with rdata := s1.rdata ++ s2.rdata } :=
  agentReads_taken (h.imp_right fun h => ⟨h.1, (sizeOk_read_iff a 8).mpr (.inr ⟨rfl, h.2⟩)⟩)

theorem agentWrites_halted (a n : Nat) (vs : List Word) (hh : s.chip.halted = true) : s.agentWrites .host a n vs = s :=
  if_pos (by rw [hh]; rfl)

theorem agentWrites_refused {n : Nat} (vs : List Word) (hh : s.chip.halted = false) (hs : sizeOk true a n = false) :
    s.agentWrites .host a n vs = s.peErr 1 0 a := by
  unfold State.agentWrites
  rw [if_neg (by simp [hh]), if_pos (by simp [hs])]

theorem agentWrites_taken {n : Nat} (vs : List Word) (h : who ≠ .host ∨ (s.chip.halted = false ∧ sizeOk true a n = true)) :
    s.agentWrites who a n vs = ((List.range (n / 4)).zip vs).foldl (fun s p => s.agentWrite who (a + 4 * p.1) p.2) s := by
  unfold State.agentWrites
  rw [if_neg, if_neg]
  · rcases h with h | h
    · simp [not_host h]
    · simp [h]
  · rcases h with h | h
    · simp [not_host h]
    · simp [h]

/-! ### BAR0: the Team windows and the writes (R362, R367, R518, R521) -/

theorem hostFirst_team {t : Nat} (u : State) (hteam : inTeams a = true) (hu : u.windowTeam a = some t) :
    u.hostFirst .host a = u.hostCatchUp t .ok := by
  unfold State.hostFirst
  rw [if_pos (by rw [hteam]; rfl), hu]

/-- A read by the host of a Team's register: its waiting BAR4 reads of the Team come first. -/
theorem agentRead_team {t : Nat} (ha : a % 4 = 0) (hh : s.chip.halted = false) (hteam : inTeams a = true) (ht : s.windowTeam a = some t) :
    s.agentRead .host a = ((if (s.team t).hostWords = 0 then ({ s with rdata := [] } : State) else s).hostCatchUp t .ok).busRead .host a := by
  have hfence : a ≠ Adr.PE_FENCE := by rintro rfl; revert hteam; decide
  have hwait : s.waitedFor .host a = ((s.team t).hostWords != 0) := by
    simp only [State.waitedFor, hteam, ht, beq_self_eq_true, Bool.true_and]
  rw [agentRead_eq ha (.inr ⟨hh, .inl hfence⟩), hwait]
  by_cases h0 : (s.team t).hostWords = 0
  · rw [if_neg (by simp [h0]), if_pos h0, hostFirst_team { s with rdata := [] } hteam ht]
  · rw [if_pos (by simp [h0]), if_neg h0, hostFirst_team _ hteam ht]

theorem agentWrite_host (v : Word) (ha : a % 4 = 0) (hh : s.chip.halted = false) :
    s.agentWrite .host a v = if s.hostMay a then (s.hostFirst .host a).busWrite a v else s.refuseHost a := by
  unfold State.agentWrite
  rw [show a / 4 * 4 = a by omega]
  exact (if_pos rfl).trans ((if_neg (by simp [hh])).trans (if_neg (by simp [ha])))

theorem agentWrite_other (v : Word) (ha : a % 4 = 0) (h : who ≠ .host) :
    s.agentWrite who a v = if agentMay who a then s.busWrite a v else s := by
  unfold State.agentWrite
  rw [show a / 4 * 4 = a by omega]
  exact if_neg (by simp [h])

/-! ### Three registers -/

theorem storeReg_tbSetNs (v : Word) : s.storeReg Adr.TB_SET_NS v = s.writeFields Adr.TB_SET_NS v.toNat := rfl

theorem setBits_all (w v : Word) : setBits w 31 0 (bits v.toNat 31 0) = v := by
  refine BitVec.eq_of_toNat_eq ?_
  rw [setBits_toNat w _ (by decide) (by decide), bits]
  have hw := w.isLt
  have hv := v.isLt
  omega

/-- A register with one field of 32 bits takes the whole word. -/
theorem writeFields_word (v : Word) {d : RegDesc} {r : Nat} (hd : findReg a = some d) (hf : d.fields = [⟨31, 0, .rw, r⟩]) :
    s.writeFields a v.toNat = s.wr a v := by
  rw [State.writeFields, hd]
  dsimp only
  rw [hf]
  exact congrArg (s.wr a) (setBits_all _ _)

theorem findReg_tbSetNs : ∃ d r, findReg Adr.TB_SET_NS = some d ∧ d.fields = [⟨31, 0, .rw, r⟩] := ⟨_, _, rfl, rfl⟩

theorem agentWrite_tbSetNs (g : Fin 4) (v : Word) : s.agentWrite (.groom g) Adr.TB_SET_NS v = s.wr Adr.TB_SET_NS v := by
  obtain ⟨d, r, hd, hf⟩ := findReg_tbSetNs
  rw [agentWrite_other v (by decide) (by simp), if_pos (show agentMay (.groom g) Adr.TB_SET_NS = true from rfl), State.busWrite,
    if_neg (by rw [deadBlock_unclocked (clockOf_none (by decide) (.inl (by decide)))]; exact Bool.false_ne_true),
    storeReg_tbSetNs, writeFields_word v hd hf]

/-- The replay counts of an elastic link fill the register and clear when read. -/
theorem findReg_elLinkReplay (n : Fin 4) : ∃ d x y, findReg (Adr.EL_LINK_REPLAY n) = some d ∧ d.fields = [⟨31, 16, .rc, x⟩, ⟨15, 0, .rc, y⟩] := by
  match n with
  | 0 => exact ⟨_, _, _, rfl, rfl⟩
  | 1 => exact ⟨_, _, _, rfl, rfl⟩
  | 2 => exact ⟨_, _, _, rfl, rfl⟩
  | 3 => exact ⟨_, _, _, rfl, rfl⟩

theorem setBits_halves_zero (w : Word) : setBits (setBits w 31 16 0) 15 0 0 = 0 := by
  refine BitVec.eq_of_toNat_eq ?_
  rw [setBits_toNat _ _ (by decide) (by decide), setBits_toNat _ _ (by decide) (by decide)]
  have hw := w.isLt
  change _ = 0
  omega

theorem peek_elLinkReplay (n : Fin 4) : s.peek who (Adr.EL_LINK_REPLAY n) = s.readable (Adr.EL_LINK_REPLAY n) := by
  match n with
  | 0 => rfl
  | 1 => rfl
  | 2 => rfl
  | 3 => rfl

theorem latches_elLinkReplay (n : Fin 4) : s.latches (Adr.EL_LINK_REPLAY n) = [] := by
  match n with
  | 0 => rfl
  | 1 => rfl
  | 2 => rfl
  | 3 => rfl

theorem readable_elLinkReplay (n : Fin 4) : s.readable (Adr.EL_LINK_REPLAY n) = s.rd (Adr.EL_LINK_REPLAY n) := by
  obtain ⟨d, x, y, hd, hf⟩ := findReg_elLinkReplay n
  rw [State.readable, hd]
  dsimp only
  rw [hf]
  rfl

theorem readClear_elLinkReplay (n : Fin 4) : s.readClear (Adr.EL_LINK_REPLAY n) = s.wr (Adr.EL_LINK_REPLAY n) 0 := by
  obtain ⟨d, x, y, hd, hf⟩ := findReg_elLinkReplay n
  rw [State.readClear, hd]
  dsimp only
  rw [hf]
  exact congrArg (s.wr _) (setBits_halves_zero _)

theorem readReg_elLinkReplay (n : Fin 4) : s.readReg who (Adr.EL_LINK_REPLAY n) =
    { s.wr (Adr.EL_LINK_REPLAY n) 0 with rdata := s.rdata ++ [s.rd (Adr.EL_LINK_REPLAY n)] } := by
  have hteam : inTeams (Adr.EL_LINK_REPLAY n) = false := by revert n; decide
  have htxq : Adr.EL_LINK_REPLAY n ≠ Adr.TB_TXQ_W3 := by revert n; decide
  unfold State.readReg
  rw [latches_elLinkReplay, peek_elLinkReplay, readable_elLinkReplay]
  simp only [List.foldl_nil, State.rcAddr, hteam, if_neg htxq, readClear_elLinkReplay, Bool.false_eq_true, if_false]

theorem agentRead_elLinkReplay (n : Fin 4) (hh : s.chip.halted = false) :
    let t := s.agentRead who (Adr.EL_LINK_REPLAY n)
    t.rdata = [s.rd (Adr.EL_LINK_REPLAY n)] ∧ t.rd (Adr.EL_LINK_REPLAY n) = 0 := by
  intro t
  rw [show t = _ from agentRead_plain (by revert n; decide) (by revert n; decide) (.inr (.inl (by revert n; decide))) (by revert n; decide)
    (fun _ => hh), readReg_elLinkReplay]
  exact ⟨rfl, Tab.get_set_same _ _ _ _⟩

/-- The hold's stride is latched by a read of its low word. -/
theorem agentReads_holdLo (hh : s.chip.halted = false) : ∃ t, s.agentReads who Adr.LD_HOLD_H_LO 4 = t
    ∧ t.latched who Adr.LD_HOLD_H_HI = s.rd Adr.LD_HOLD_H_HI ∧ t.regs = s.regs := by
  obtain ⟨-, hlatched, -, hregs⟩ := agentRead_latches (s := s) who (a := Adr.LD_HOLD_H_LO) (by decide) (by decide)
    (.inr (.inl (by decide))) (by decide) (by decide) (by decide) hh
  exact ⟨_, agentReads_four (.inr ⟨hh, by decide⟩), hlatched _, hregs⟩

/-! ### What waits in the channels (R367, R368) -/

theorem hostWrites_iff : s.hostWrites = true ↔ ∃ c : Fin 16, (∃ q ∈ s.waiting c, q.write = true ∧ s.ofBar2 q = true)
    ∨ ∃ b ∈ (s.chan c).flight, ∃ q, b.write = true ∧ b.dyn = some q ∧ s.ofBar2 q = true := by
  have hburst (b : Burst) : (b.write && (match b.dyn with | some q => s.ofBar2 q | none => false)) = true
      ↔ ∃ q, b.write = true ∧ b.dyn = some q ∧ s.ofBar2 q = true := by
    cases b.dyn <;> simp
  unfold State.hostWrites
  simp only [List.any_eq_true, Bool.or_eq_true, List.mem_range]
  constructor
  · rintro ⟨c, hc, h⟩
    refine ⟨⟨c, hc⟩, h.imp (fun ⟨q, hq, h⟩ => ⟨q, hq, by simpa using h⟩) (fun ⟨b, hb, h⟩ => ⟨b, hb, (hburst b).mp h⟩)⟩
  · rintro ⟨c, h⟩
    exact ⟨c, c.isLt, h.imp (fun ⟨q, hq, h⟩ => ⟨q, hq, by simpa using h⟩) (fun ⟨b, hb, h⟩ => ⟨b, hb, (hburst b).mpr h⟩)⟩

theorem oldest_mem {l : List DynReq} {q : DynReq} (h : oldest l = some q) : q ∈ l := by
  unfold oldest at h
  suffices hgen : ∀ (l : List DynReq) (b : Option DynReq), l.foldl (fun b q => match b with
      | none => some q | some r => if q.seq < r.seq then some q else some r) b = some q → q ∈ l ∨ b = some q by
    exact (hgen l none h).resolve_right (by simp)
  intro l
  induction l with
  | nil => exact fun b h => .inr h
  | cons x l ih =>
    intro b h
    rcases ih _ h with h | h
    · exact .inl (List.mem_cons_of_mem _ h)
    · cases b with
      | none => exact .inl (List.mem_cons.mpr (.inl (Option.some.inj h).symm))
      | some r =>
        dsimp only at h
        split at h
        · exact .inl (List.mem_cons.mpr (.inl (Option.some.inj h).symm))
        · exact .inr h

/-- The request that is picked may go: no earlier BAR2 access to the channel waits before one of BAR2. -/
theorem dynPick_not_behind {c : Nat} {cs : Bool} {q : DynReq} (h : s.dynPick c cs = some q) : s.bar2Behind c q = false := by
  unfold State.dynPick at h
  dsimp only at h
  generalize hcan : List.filter (fun q => !s.behind c q.seq q.addr && !(q.cap && cs) && !s.bar2Behind c q) (s.waiting c) = can at h
  have hmem : q ∈ can := by
    rcases (Option.orElse_eq_some _ _ _).mp h with h | ⟨-, h⟩
    · rcases (Option.orElse_eq_some _ _ _).mp h with h | ⟨-, h⟩
      · exact (List.mem_filter.mp (oldest_mem h)).1
      · exact (List.mem_filter.mp (oldest_mem h)).1
    · exact oldest_mem h
  rw [← hcan, List.mem_filter] at hmem
  simp only [Bool.and_eq_true, Bool.not_eq_true'] at hmem
  exact hmem.2.2

theorem dynPick_bar2_order {c : Nat} {cs : Bool} {q r : DynReq} (h : s.dynPick c cs = some q) (hq : s.ofBar2 q = true)
    (hr : r ∈ s.waiting c) (hr2 : s.ofBar2 r = true) : q.seq ≤ r.seq := by
  have hfree := dynPick_not_behind h
  rw [State.bar2Behind, hq, Bool.true_and, List.any_eq_false] at hfree
  have := hfree r hr
  simp only [hr2, Bool.true_and, decide_eq_true_eq] at this
  omega

end Sys2Proof.Machine
end

section
/-! The host's accesses to BAR2 and BAR4, and the reads and writes of registers settled (R363 to R368). -/
namespace Sys2Proof.Machine

variable {s : State}

/-! ### BAR2 (R363, R364) -/

/-- The kind of a window is a matter of the registers. -/
theorem hostKind_of_regs {u : State} (h : u.regs = s.regs) (d : Nat) : u.hostKind d = s.hostKind d := by
  obtain ⟨⟩ := u
  obtain ⟨⟩ := s
  dsimp only at h
  subst h
  rfl

theorem hostBytes_of_regs {u : State} (h : u.regs = s.regs) (d : Nat) (bs : List Byte) : u.hostBytes d bs = s.hostBytes d bs := by
  unfold State.hostBytes
  simp only [hostKind_of_regs h]

/-- The pieces of a write take their bytes from the state in which the access comes. -/
theorem hostQueue_bytes (d : Nat) (bs : List Byte) (runs : List (Nat × Nat)) : ∀ {u : State}, u.regs = s.regs →
    runs.foldl (fun w r => w.hostQueue none d (some (w.hostBytes d bs)) r) u =
      runs.foldl (fun w r => w.hostQueue none d (some (s.hostBytes d bs)) r) u := by
  induction runs with
  | nil => exact fun _ => rfl
  | cons r runs ih =>
    intro u h
    rw [List.foldl_cons, List.foldl_cons, hostBytes_of_regs h]
    exact ih h

theorem bar2_on {d n : Nat} (data : Option (List Byte)) (hh : s.chip.halted = false) (hen : s.pcie.bar2En = true) :
    s.bar2 d n data =
      (let runs := runsOf (s.bar2Serves data.isSome) d n
       let s1 := match data with
         | none => if runs.isEmpty then { s with rdata := byteWords (List.replicate n 0) } else s.hostBegin false d n none runs
         | some bs => runs.foldl (fun u r => u.hostQueue none d (some (s.hostBytes d bs)) r) s
       let s2 := if s.chip.warm then s1 else (s.outside d n).foldl (fun s c => s.set1 (Reg.GW_ERR_OUT_OF_REGION c)) s1
       if (List.range n).all (fun i => s.bar2Serves data.isSome (d + i)) then s2 else s2.peErr 2 0 (d / 2 ^ 12)) := by
  refine (if_neg (by simp [hh])).trans ((if_neg (by simp [hen])).trans ?_)
  cases data with
  | none => rfl
  | some bs => dsimp only; rw [hostQueue_bytes d bs _ rfl]

theorem bar2_off {d n : Nat} (data : Option (List Byte)) (hh : s.chip.halted = false) (hoff : s.pcie.bar2En = false) : s.bar2 d n data = s :=
  (if_neg (by simp [hh])).trans (if_pos (by simp [hoff]))

theorem bar2Serves_read_iff (d : Nat) : s.bar2Serves false d = true ↔ s.chip.warm = false ∧ s.hostKind d ≠ none := by
  unfold State.bar2Serves State.hostRd
  cases s.hostKind d <;> simp

theorem bar2Serves_write_iff (d : Nat) : s.bar2Serves true d = true ↔
    s.chip.warm = false ∧ (s.hostKind d = some kHost ∨ (s.hostKind d = some kDesign ∧ s.hostMayWrite = true)) := by
  unfold State.bar2Serves State.hostWrOk
  cases s.hostKind d <;> simp

/-! ### BAR4 (R365, R366) -/

theorem bar4_misaligned {a n : Nat} (data : Option (List Byte)) (c : MemCheck) (h : Nat) (dead : Bool) (hh : s.chip.halted = false)
    (hal : a % 4 ≠ 0 ∨ n % 4 ≠ 0) : s.bar4 a n data c h dead =
      (let e := s.peErr 3 (if s.chip.warm then 1 else 0x1F) (a / 2 ^ 20)
       if data.isNone then { e with rdata := byteWords (List.replicate n 0) } else e) :=
  (if_neg (by simp [hh])).trans (if_pos hal)

theorem bar4_aligned {a n : Nat} (data : Option (List Byte)) (c : MemCheck) (h : Nat) (dead : Bool) (hh : s.chip.halted = false)
    (ha : a % 4 = 0) (hn : n % 4 = 0) : s.bar4 a n data c h dead =
      (let ats := (List.range (n / 4)).map (fun i => a + 4 * i)
       match data with
       | none => State.bar4Words h dead c (ats.map (fun x => (x, none)))
          (ats.foldl (fun s x => s.hostCatchUp (x / 2 ^ 20) c)
            (if ats.any (fun x => (s.team (x / 2 ^ 20)).hostWords != 0) then s else { s with rdata := [] }))
       | some bs => State.bar4Words h dead c ((ats.zip (words4 bs)).map (fun p => (p.1, some (BitVec.ofNat 24 p.2))))
          (ats.foldl (fun s x => s.hostCatchUp (x / 2 ^ 20) c) s)) := by
  refine (if_neg (by simp [hh])).trans ((if_neg (by omega)).trans ?_)
  cases data <;> rfl

theorem bar4Words_nil (h : Nat) (dead : Bool) (c : MemCheck) : State.bar4Words h dead c [] s = s := by
  cases dead <;> rfl

theorem bar4Words_alive (h : Nat) (c : MemCheck) (l : List (Nat × Option W24)) :
    State.bar4Words h false c l s = l.foldl (fun s p => s.bar4Word h p.1 p.2 c) s := by
  cases l <;> rfl

theorem bar4Words_cons (h : Nat) (dead : Bool) (c : MemCheck) (x : Nat) (v : Option W24) (rest : List (Nat × Option W24)) :
    State.bar4Words h dead c ((x, v) :: rest) s =
      State.bar4Words h false c rest (if dead then s.bar4Dead h x v.isSome else s.bar4Word h x v c) := by
  rw [bar4Words_alive]
  cases dead <;> rfl

/-- A container that is not reached. -/
theorem bar4Word_fails {h a st : Nat} (c : MemCheck) (hf : s.bar4Fails h (a / 2 ^ 20) (a % 2 ^ 20) = some st) :
    s.bar4Word h a none c = { s.peErr 3 st (a / 2 ^ 20) with rdata := s.rdata ++ [0#32] }
    ∧ ∀ v, s.bar4Word h a (some v) c = s.peErr 3 st (a / 2 ^ 20) := by
  unfold State.bar4Word
  dsimp only
  rw [hf]
  exact ⟨rfl, fun v => rfl⟩

theorem bar4Word_read {h a : Nat} (c : MemCheck) (hf : s.bar4Fails h (a / 2 ^ 20) (a % 2 ^ 20) = none) :
    s.bar4Word h a none c = match s.bar4Waits (a % 2 ^ 20) with
      | some w => s.onTeam (a / 2 ^ 20) (fun m => { m with dma := m.dma ++ [⟨.host, .read, w, 1, [], []⟩] })
      | none => { s.bar4Checked (a / 2 ^ 20) (a % 2 ^ 20) c with
          rdata := s.rdata ++ [(s.bar4Get (a / 2 ^ 20) (a % 2 ^ 20) c).setWidth 32] } := by
  unfold State.bar4Word
  dsimp only
  rw [hf] <;> rfl

theorem bar4Word_write {h a : Nat} (v : W24) (c : MemCheck) (hf : s.bar4Fails h (a / 2 ^ 20) (a % 2 ^ 20) = none) :
    s.bar4Word h a (some v) c = s.bar4Put (a / 2 ^ 20) (a % 2 ^ 20) v c := by
  unfold State.bar4Word
  dsimp only
  rw [hf]

theorem bar4Dead_reached {h a : Nat} (hf : s.bar4Fails h (a / 2 ^ 20) (a % 2 ^ 20) = none) (write : Bool) :
    let e := (s.targetDead (a / 2 ^ 20) 0).peErr 3 3 (a / 2 ^ 20)
    s.bar4Dead h a write = if write then e else { e with rdata := e.rdata ++ [0#32] } :=
  if_neg (by rw [hf]; exact Bool.false_ne_true)

/-- Settles O44: sizes and agents first, then the registers named, the channels, and the two memory windows. -/
theorem registersAreReadAndWritten : Obligations.RegistersAreReadAndWritten := by
  unfold Obligations.RegistersAreReadAndWritten
  refine ⟨fun who a n s => ?_, fun who a s ha => ?_, fun g v s => ?_, fun who s hh => ?_, fun who s n hh => ?_, fun s => ?_,
    fun d n s => ?_, fun a n c h dead s => ?_⟩
  · refine ⟨rfl, rfl, fun hh => ⟨agentReads_halted _ n hh, fun vs => congrArg Host.Outcome.next (agentWrites_halted _ n vs hh)⟩,
      sizeOk_read_iff _ n, sizeOk_write_iff _ n, agentReads_refused, fun hh hs vs => congrArg Host.Outcome.next (agentWrites_refused vs hh hs),
      fun vs h => congrArg Host.Outcome.next (agentWrites_taken vs h), agentReads_four, agentReads_eight⟩
  · refine ⟨agentRead_of_free ha, fun t hh hteam ht => agentRead_team ha hh hteam ht, fun hd => ⟨if_pos hd, fun v => if_pos hd⟩,
      fun hd => ⟨busRead_alive hd, fun v => if_neg (Bool.eq_false_iff.mp hd)⟩, rfl, fun v hh hmay => ?_, fun v hh hmay hteam => ?_,
      fun v t hh hmay hteam ht => ?_, fun v hw => agentWrite_other v ha hw⟩
    · exact (agentWrite_host v ha hh).trans (if_neg (Bool.eq_false_iff.mp hmay))
    · exact (agentWrite_host v ha hh).trans ((if_pos hmay).trans (by rw [hostFirst_of_free _ (.inr hteam)]))
    · exact (agentWrite_host v ha hh).trans ((if_pos hmay).trans (by rw [hostFirst_team s hteam ht]))
  · refine congrArg Host.Outcome.next ((agentWrites_taken [v] (.inl (by simp))).trans ?_)
    rw [show (List.range (4 / 4)).zip [v] = [(0, v)] from rfl, List.foldl_cons, List.foldl_nil]
    dsimp only
    rw [show (BitVec.ofNat 24 Adr.TB_SET_NS).toNat + 4 * 0 = Adr.TB_SET_NS from by decide]
    exact agentWrite_tbSetNs g v
  · obtain ⟨t, ht, hlatched, hregs⟩ := agentReads_holdLo (s := s) (who := who) hh
    exact ⟨t, congrArg Host.Outcome.next ht, hlatched, hregs⟩
  · obtain ⟨hdata, hrd⟩ := agentRead_elLinkReplay (who := who) n hh
    have haddr : ∀ n : Fin 4, (BitVec.ofNat 24 (Adr.EL_LINK_REPLAY n)).toNat = Adr.EL_LINK_REPLAY n := by decide
    have halign : ∀ n : Fin 4, Adr.EL_LINK_REPLAY n % 4 = 0 := by decide
    refine ⟨_, congrArg Host.Outcome.next ?_, hdata, hrd⟩
    rw [haddr]
    exact agentReads_four (.inr ⟨hh, halign n⟩)
  · exact ⟨rfl, hostWrites_iff, fun c cs q r h hq hr hr2 => dynPick_bar2_order h hq hr hr2⟩
  · refine ⟨fun hh => ⟨congrArg Host.Outcome.next (if_pos hh), fun bs => congrArg Host.Outcome.next (if_pos hh)⟩,
      fun data hh hoff => congrArg Host.Outcome.next (bar2_off data hh hoff), fun data hh hon => congrArg Host.Outcome.next ?_,
      bar2Serves_read_iff _, bar2Serves_write_iff _⟩
    cases data with
    | none => exact bar2_on none hh hon
    | some bs => exact bar2_on (some bs) hh hon
  · refine ⟨fun hh => ⟨congrArg Host.Outcome.next (if_pos hh), fun bs => congrArg Host.Outcome.next (if_pos hh)⟩,
      fun hh hal => ⟨congrArg Host.Outcome.next (bar4_misaligned none c h dead hh hal),
        fun bs => congrArg Host.Outcome.next (bar4_misaligned (some bs) c h dead hh hal)⟩,
      fun hh ha hn => ⟨congrArg Host.Outcome.next (bar4_aligned none c h dead hh ha hn),
        fun bs => congrArg Host.Outcome.next (bar4_aligned (some bs) c h dead hh ha hn)⟩,
      bar4Words_nil h dead c, bar4Words_cons h dead c, fun st hf => bar4Word_fails c hf, fun w hf hw => ?_, fun hf hw => ?_,
      fun v hf => bar4Word_write v c hf, fun hf => ⟨bar4Dead_reached hf true, bar4Dead_reached hf false⟩⟩
    · rw [bar4Word_read c hf, hw]
    · rw [bar4Word_read c hf, hw]

end Sys2Proof.Machine
end

section
/-! The transport of commands: slots, doorbells, taking, answering, events, deadlines and resets of a mailbox (R370 to R380, R393, R396). -/
namespace Sys2Proof.Machine

variable {s : State} {m : Nat}

/-! ### Command slots (R379) -/

/-- A command slot's descriptor with word k replaced. -/
def withWord (old : BitVec 512) (k : Nat) (v : Word) : BitVec 512 :=
  BitVec.ofNat 512 (old.toNat - bits old.toNat (32 * k + 31) (32 * k) * 2 ^ (32 * k) + v.toNat * 2 ^ (32 * k))

/-- A field of 32 bits within N bits. -/
theorem mod_field (x : Nat) {N lo : Nat} (h : lo + 32 ≤ N) : x % 2 ^ N / 2 ^ lo % 2 ^ 32 = x / 2 ^ lo % 2 ^ 32 := by
  have hN : (2 : Nat) ^ N = 2 ^ lo * (2 ^ 32 * 2 ^ (N - (lo + 32))) := by
    rw [← Nat.pow_add, ← Nat.pow_add]
    congr 1
    omega
  rw [hN, Nat.mod_mul_right_div_self, Nat.mod_mul_right_mod]

/-- The word written is the word read. -/
theorem fieldOf_withWord (old : BitVec 512) {k : Nat} (hk : k < 16) (v : Word) : fieldOf (withWord old k v) (4 * k) 4 = v.toNat := by
  have hP : 256 ^ (4 * k) = 2 ^ (32 * k) := by
    rw [show (256 : Nat) = 2 ^ 8 from rfl, ← Nat.pow_mul]
    congr 1
    omega
  have hsplit := bits_split old.toNat (show 32 * k ≤ 32 * k + 31 by omega)
  have hhi : (2 : Nat) ^ (32 * k + 31 + 1) = 2 ^ 32 * 2 ^ (32 * k) := by rw [← Nat.pow_add]; congr 1; omega
  have hlow : old.toNat % 2 ^ (32 * k) / 2 ^ (32 * k) = 0 := Nat.div_eq_of_lt (Nat.mod_lt _ (Nat.two_pow_pos _))
  have hkeep : old.toNat - bits old.toNat (32 * k + 31) (32 * k) * 2 ^ (32 * k) + v.toNat * 2 ^ (32 * k)
      = old.toNat % 2 ^ (32 * k) + (old.toNat / 2 ^ (32 * k + 31 + 1) * 2 ^ 32 + v.toNat) * 2 ^ (32 * k) := by
    rw [Nat.add_mul, Nat.mul_assoc, ← hhi]
    omega
  unfold fieldOf withWord
  rw [BitVec.toNat_ofNat, hP, hkeep, show (256 : Nat) ^ 4 = 2 ^ 32 from rfl, mod_field _ (show 32 * k + 32 ≤ 512 by omega),
    Nat.add_mul_div_right _ _ (Nat.two_pow_pos _), hlow, Nat.zero_add, Nat.mul_add_mod_self_right]
  exact Nat.mod_eq_of_lt v.isLt

theorem slotWrite_own {w : Nat} (v : Word) (h : s.slotTaken m (w / 16) = false) : s.slotWrite m w v =
    s.setBox m { s.box m with cmd := upd (s.box m).cmd (w / 16) (withWord (look (s.box m).cmd (w / 16)) (w % 16) v) } :=
  if_neg (Bool.eq_false_iff.mp h)

/-! ### Taking a command (R371) -/

/-- The device may take a command. -/
def State.takes (s : State) (m : Nat) : Prop :=
  s.cmdPI m ≠ s.cmdCI m ∧ s.on (Reg.MBX_STAT_READY m) = true ∧ s.resetBusy m = false ∧ (s.box m).restarting = false ∧
    s.freeSlots m ≠ 0 ∧ s.chip.halted = false

theorem not_takes_iff : (s.cmdPI m = s.cmdCI m ∨ !s.on (Reg.MBX_STAT_READY m) ∨ s.resetBusy m ∨ (s.box m).restarting
    ∨ s.freeSlots m = 0 ∨ s.chip.halted) ↔ ¬ s.takes m := by
  simp only [State.takes, Bool.not_eq_true']
  grind

theorem take_waits (h : ¬ s.takes m) : s.take m = s := if_pos (not_takes_iff.mpr h)

theorem take_takes (h : s.takes m) :
    let d := look (s.box m).cmd (s.cmdCI m % 64)
    let s1 := s.put (Reg.MBX_CMD_CI_INDEX m) ((s.cmdCI m + 1) % 128)
    s.take m = match s.descBad m d with
      | some r => s1.respond m ⟨d, false, false, 0, false, false⟩ false r
      | none => s1.setBox m { s.box m with taken := (s.box m).taken ++ [⟨d, false, false, 0, false, false⟩] } := by
  refine (if_neg (fun hn => not_takes_iff.mp hn h)).trans ?_
  dsimp only
  cases s.descBad m _ <;> rfl

/-! ### Events (R377) -/

theorem eventPost_idle (h : (s.box m).events = [] ∨ (s.freeSlots m = 0 ∨ s.resetBusy m = true ∨ (s.box m).restarting = true
    ∨ s.chip.halted = true)) : s.eventPost m = s := by
  unfold State.eventPost
  dsimp only
  split
  next => rfl
  next e rest he =>
    exact if_pos (h.resolve_left (by simp [he]))

theorem eventPost_posts {e : Event} {rest : List Event} (he : (s.box m).events = e :: rest)
    (hfree : ¬ (s.freeSlots m = 0 ∨ s.resetBusy m = true ∨ (s.box m).restarting = true ∨ s.chip.halted = true)) :
    let a := (s.setBox m { s.box m with events := rest, evtLost := false }).postSlot m
      (respDesc (0x8000 + e.code) 0 (1 + 2 * ofBool (s.box m).evtLost) ⟨0, 0, e.len, e.result⟩)
    s.eventPost m = if look (s.box 0).vectors e.code = 0 then a else a.raise (look (s.box 0).vectors e.code) := by
  unfold State.eventPost
  dsimp only
  rw [he]
  exact if_neg hfree

/-! ### Deadlines (R376, R396) -/

theorem deadline_idle {i : Nat} {done : Bool} (h : s.chip.halted = true ∨ (s.box m).restarting = true ∨ (s.box m).taken[i]? = none) :
    s.deadline m i done = s := by
  by_cases hoff : (s.chip.halted || (s.box m).restarting) = true
  · exact if_pos hoff
  · obtain ⟨hh, hr⟩ := Bool.or_eq_false_iff.mp (Bool.eq_false_iff.mpr hoff)
    refine (if_neg hoff).trans ?_
    rw [(h.resolve_left (by simp [hh])).resolve_left (by simp [hr])]

/-- The deadline of a command taken, of a mailbox in service. -/
theorem deadline_of_taken {i : Nat} {done : Bool} {c : Taken} (hh : s.chip.halted = false) (hr : (s.box m).restarting = false)
    (hc : (s.box m).taken[i]? = some c) : s.deadline m i done =
      if c.started then
        match s.lateRun i (fieldOf c.desc 0 2), s.latePoll c with
        | some p, _ => p.1.respond m c true p.2
        | none, some p => p.1.finishLate m i true p.2
        | none, none => if done then s.lateAt m i else (s.cutShort c).finishLate m i false timeoutResp
      else if done then s.lateAt m i
      else s.finishLate m i false timeoutResp := by
  refine (if_neg (by simp [hh, hr])).trans ?_
  rw [hc]
  dsimp only
  cases s.lateRun i (fieldOf c.desc 0 2) <;> cases s.latePoll c <;> rfl

theorem finishLate_of_taken {u : State} {i : Nat} {c : Taken} (late : Bool) (r : Resp) (hc : (u.box m).taken[i]? = some c) :
    u.finishLate m i late r = (u.less m i).respond m c late r := by
  unfold State.finishLate
  rw [hc] <;> rfl

/-! ### Starting a command (R372, R389, R393) -/

/-- The first command not started, when it is of the opcode and may start. -/
theorem startable_iff {op i : Nat} {c : Taken} : s.startable m op = some (i, c) ↔ (s.box m).taken[i]? = some c ∧ c.started = false
    ∧ (∀ j x, j < i → (s.box m).taken[j]? = some x → x.started = true ∧ bit (fieldOf x.desc 6 2) 0 = false)
    ∧ fieldOf c.desc 0 2 = op ∧ (bit (fieldOf c.desc 6 2) 0 = true → i = 0) ∧ (s.box m).restarting = false ∧ s.chip.halted = false := by
  have hordered : ((s.box m).taken.take i).any (fun c => bit (fieldOf c.desc 6 2) 0) = false
      ↔ ∀ j x, j < i → (s.box m).taken[j]? = some x → bit (fieldOf x.desc 6 2) 0 = false := by
    simp only [List.any_eq_false, List.mem_iff_getElem?, List.getElem?_take]
    constructor
    · intro h j x hj hx
      exact Bool.eq_false_iff.mpr (h x ⟨j, by simpa [hj] using hx⟩)
    · rintro h x ⟨j, hj⟩
      split at hj
      next hlt => exact Bool.eq_false_iff.mp (h j x hlt hj)
      next => cases hj
  unfold State.startable
  dsimp only
  cases hfind : (s.box m).taken.findIdx? (fun c => !c.started) with
  | none =>
    rw [List.findIdx?_eq_none_iff] at hfind
    refine iff_of_false (by simp) fun ⟨hc, hst, _⟩ => ?_
    simpa [hst] using hfind c (List.mem_of_getElem? hc)
  | some k =>
    obtain ⟨hk, hks, hbefore⟩ := List.findIdx?_eq_some_iff_getElem.mp hfind
    have hget : (s.box m).taken[k]? = some (s.box m).taken[k] := List.getElem?_eq_getElem hk
    have hstarted : ∀ j x, j < k → (s.box m).taken[j]? = some x → x.started = true := fun j x hj hx => by
      obtain ⟨hlt, rfl⟩ := List.getElem?_eq_some_iff.mp hx
      simpa using hbefore j hj
    dsimp only
    rw [hget]
    dsimp only
    constructor
    · intro h
      split_ifs at h with hcond
      obtain ⟨rfl, rfl⟩ := Prod.mk.inj (Option.some.inj h)
      obtain ⟨hop, hord, hall, hrest, hhalt⟩ := hcond
      refine ⟨hget, by simpa using hks, fun j x hj hx => ⟨hstarted j x hj hx, hordered.mp (by simpa using hall) j x hj hx⟩, hop, ?_,
        by simpa using hrest, by simpa using hhalt⟩
      intro ho
      rw [ho] at hord
      simpa using hord
    · rintro ⟨hc, hst, hall, hop, hord, hrest, hhalt⟩
      have hki : k = i := by
        rcases Nat.lt_trichotomy k i with h | h | h
        · have := (hall k _ h hget).1
          simp [this] at hks
        · exact h
        · have := hstarted i c h hc
          simp [hst] at this
      subst hki
      obtain rfl : (s.box m).taken[k] = c := Option.some.inj (hget.symm.trans hc)
      refine if_pos ⟨hop, ?_, by simpa using hordered.mpr fun j x hj hx => (hall j x hj hx).2, by simp [hrest], by simp [hhalt]⟩
      by_cases ho : bit (fieldOf (s.box m).taken[k].desc 6 2) 0 = true
      · simp [hord ho]
      · simp [Bool.eq_false_iff.mpr ho]

theorem pre_eq (op : Nat) (d : BitVec 512) : s.pre op d =
    if s.lifeOk op = false then some (errResp 0x11 s.fuses.lifecycle 0 0)
    else if s.modeOk op d = false then some (errResp 0x10 s.mode 0 0)
    else if op ∈ needsImage ∧ s.chip.image = none then some (errResp 0x12 0 0 0)
    else if op ∈ longOps ∧ s.longAt ≠ none then some (errResp 0x13 7 0 0) else none := by
  simp only [State.pre, Bool.not_eq_true', Bool.and_eq_true, List.contains_iff_mem, Option.isNone_iff_eq_none, Option.isSome_iff_ne_none]

section Start

variable {op i : Nat} {c : Taken} {f : BitVec 512 → State → State × Resp} {start : BitVec 512 → State → State × Nat × Option Resp}
  {poll : Taken → State → Option (State × Resp)}

theorem cmd_idle (h : s.startable m op = none) : s.cmd m op f = s := by rw [State.cmd, h]

theorem cmd_refused {r : Resp} (h : s.startable m op = some (i, c)) (hr : s.pre op c.desc = some r) :
    s.cmd m op f = (s.less m i).respond m c false r := by
  rw [State.cmd, h]
  dsimp only
  rw [hr]
  rfl

theorem cmd_means (h : s.startable m op = some (i, c)) (hr : s.pre op c.desc = none) :
    s.cmd m op f = (f c.desc (s.less m i)).1.respond m c false (f c.desc (s.less m i)).2 := by
  rw [State.cmd, h]
  dsimp only
  rw [hr]
  rfl

theorem cmdLong_idle (h : s.startable m op = none) : s.cmdLong m op start poll = (s.pollStarted m op poll).getD s := by
  rw [State.cmdLong, h]

theorem cmdLong_refused {r : Resp} (h : s.startable m op = some (i, c)) (hr : s.pre op c.desc = some r) :
    s.cmdLong m op start poll = s.finishAt m i r := by
  rw [State.cmdLong, h]
  dsimp only
  rw [hr]

/-- A long command that starts: it answers at once or goes on with its note. -/
theorem cmdLong_starts (h : s.startable m op = some (i, c)) (hr : s.pre op c.desc = none) :
    s.cmdLong m op start poll = match (start c.desc (s.started m i 0 c)).2.2 with
      | some r => (start c.desc (s.started m i 0 c)).1.finishAt m i r
      | none => (start c.desc (s.started m i 0 c)).1.started m i (start c.desc (s.started m i 0 c)).2.1 c := by
  rw [State.cmdLong, h]
  dsimp only
  rw [hr] <;> rfl

/-- The command at place i of a mailbox, when it has started, is of the opcode, and `poll` completes it. -/
def State.pollAt (s : State) (m op : Nat) (poll : Taken → State → Option (State × Resp)) (i : Nat) : Option (Nat × State × Resp) :=
  match (s.box m).taken[i]? with
  | some c => if c.started && fieldOf c.desc 0 2 == op then (poll c s).map (fun p => (i, p)) else none
  | none => none

theorem pollStarted_eq (s : State) (m op : Nat) (poll : Taken → State → Option (State × Resp)) : s.pollStarted m op poll =
    ((List.range (s.box m).taken.length).findSome? (s.pollAt m op poll)).map (fun p => p.2.1.finishAt m p.1 p.2.2) := by
  rw [show s.pollStarted m op poll = (match (List.range (s.box m).taken.length).findSome? (s.pollAt m op poll) with
    | some (i, s1, r) => some (s1.finishAt m i r) | none => none) from rfl]
  cases (List.range (s.box m).taken.length).findSome? (s.pollAt m op poll) <;> rfl

theorem pollAt_passes (h : c.started = false ∨ fieldOf c.desc 0 2 ≠ op ∨ poll c s = none) (hc : (s.box m).taken[i]? = some c) :
    s.pollAt m op poll i = none := by
  rw [State.pollAt, hc]
  dsimp only
  rcases h with h | h | h
  · exact if_neg (by simp [h])
  · exact if_neg (by simp [h])
  · rw [h]
    exact ite_self _

theorem pollAt_completes {p : State × Resp} (hc : (s.box m).taken[i]? = some c) (hst : c.started = true) (hop : fieldOf c.desc 0 2 = op)
    (hp : poll c s = some p) : s.pollAt m op poll i = some (i, p) := by
  rw [State.pollAt, hc]
  dsimp only
  rw [if_pos (by simp [hst, hop]), hp]
  rfl

/-- The command started that `poll` completes, and no other before it. -/
theorem pollStarted_first {p : State × Resp} (hc : (s.box m).taken[i]? = some c) (hst : c.started = true) (hop : fieldOf c.desc 0 2 = op)
    (hp : poll c s = some p)
    (hbefore : ∀ j x, j < i → (s.box m).taken[j]? = some x → x.started = false ∨ fieldOf x.desc 0 2 ≠ op ∨ poll x s = none) :
    s.pollStarted m op poll = some (p.1.finishAt m i p.2) := by
  have hi : i < (s.box m).taken.length := (List.getElem?_eq_some_iff.mp hc).1
  obtain ⟨n, hn⟩ : ∃ n, (s.box m).taken.length = i + (n + 1) := ⟨(s.box m).taken.length - (i + 1), by omega⟩
  have hrange : List.range (i + (n + 1)) = List.range i ++ i :: List.range' (i + 1) n := by
    rw [List.range_eq_range', List.range_eq_range', ← List.range'_succ, ← List.range'_append_1, Nat.zero_add]
  have hfirst : (List.range (s.box m).taken.length).findSome? (s.pollAt m op poll) = some (i, p) := by
    refine List.findSome?_eq_some_iff.mpr ⟨List.range i, i, List.range' (i + 1) n, ?_, pollAt_completes hc hst hop hp, fun j hj => ?_⟩
    · rw [hn, hrange]
    · have hj := List.mem_range.mp hj
      have hx := List.getElem?_eq_getElem (Nat.lt_trans hj hi)
      exact pollAt_passes (hbefore j _ hj hx) hx
  rw [pollStarted_eq, hfirst]
  rfl

theorem pollStarted_none (h : ∀ x ∈ (s.box m).taken, x.started = false ∨ fieldOf x.desc 0 2 ≠ op ∨ poll x s = none) :
    s.pollStarted m op poll = none := by
  have hnone : (List.range (s.box m).taken.length).findSome? (s.pollAt m op poll) = none :=
    List.findSome?_eq_none_iff.mpr fun j hj =>
      have hx := List.getElem?_eq_getElem (List.mem_range.mp hj)
      pollAt_passes (h _ (List.getElem_mem _)) hx
  rw [pollStarted_eq, hnone]
  rfl

end Start

/-- Settles O45: one clause after the other, each by the rule of its operation. -/
theorem mailboxTransportCarriesCommands : Obligations.MailboxTransportCarriesCommands := by
  unfold Obligations.MailboxTransportCarriesCommands
  intro m s b
  have hunless (f : State → State) (hh : s.chip.halted = false) : s.unlessHalted f = .next (f s) :=
    congrArg Host.Outcome.next (if_neg (by simp [hh]))
  have hhalted (f : State → State) (hh : s.chip.halted = true) : s.unlessHalted f = .next s :=
    congrArg Host.Outcome.next (if_pos hh)
  refine ⟨fun w v hh ht => (hunless _ hh).trans (congrArg Host.Outcome.next (if_pos ht)), fun w v hh ht => ?_, fun v => ?_, fun v => ?_,
    fun hh => ⟨fun w v => hhalted _ hh, fun v => hhalted _ hh, fun v => hhalted _ hh, hhalted _ hh⟩, ?_, fun c late r => ?_,
    ⟨fun h => congrArg Host.Outcome.next (eventPost_idle h), fun e rest he hfree => congrArg Host.Outcome.next (eventPost_posts he hfree)⟩,
    fun i done h => congrArg Host.Outcome.next (deadline_idle h), fun i c hh hr hc => ?_, fun hh => hunless _ hh,
    fun hb hr => congrArg Host.Outcome.next (if_pos (by rw [hb, show (s.box m).restarting = false from hr]; rfl)),
    fun h => congrArg Host.Outcome.next (if_neg ?_), fun op i c => startable_iff, pre_eq, fun op f => ?_, fun op start poll => ?_⟩
  · refine ⟨_, hunless _ hh, ?_⟩
    rw [slotWrite_own v ht]
    rw [State.box_setBox_same]
    refine ⟨?_, rfl, fun j hj => look_upd_other _ _ (fun h => hj (Fin.ext h))⟩
    dsimp only
    rw [look_upd_same]
    exact fieldOf_withWord _ (Nat.mod_lt _ (by decide)) v
  · intro d legal
    exact ⟨fun hh hb => (hunless _ hh).trans (congrArg Host.Outcome.next (if_pos hb)),
      fun hh hb hl => (hunless _ hh).trans (congrArg Host.Outcome.next ((if_neg (Bool.eq_false_iff.mp hb)).trans (if_pos hl))),
      fun hh hb hl => (hunless _ hh).trans (congrArg Host.Outcome.next ((if_neg (Bool.eq_false_iff.mp hb)).trans (if_neg hl)))⟩
  · intro legal
    exact ⟨fun hh hl => (hunless _ hh).trans (congrArg Host.Outcome.next (if_pos hl)),
      fun hh hl => (hunless _ hh).trans (congrArg Host.Outcome.next (if_neg hl))⟩
  · intro ready d s1
    refine ⟨fun h => congrArg Host.Outcome.next (take_waits h), fun h hd => congrArg Host.Outcome.next ((take_takes h).trans ?_),
      fun r h hd => congrArg Host.Outcome.next ((take_takes h).trans ?_)⟩
    · rw [show s.descBad m (look (s.box m).cmd (s.cmdCI m % 64)) = none from hd]
    · rw [show s.descBad m (look (s.box m).cmd (s.cmdCI m % 64)) = some r from hd]
  · exact ⟨fun h => if_pos h, fun h => if_neg (Bool.eq_false_iff.mp h)⟩
  · intro op
    have hdl (done : Bool) := deadline_of_taken (done := done) hh hr hc
    refine ⟨fun hst => ⟨?_, ?_⟩, fun hst done => ⟨fun p hp => ?_, fun p hn hp => ?_, fun hn hp => ?_⟩⟩
    · exact congrArg Host.Outcome.next ((hdl false).trans ((if_neg (Bool.eq_false_iff.mp hst)).trans
        ((if_neg Bool.false_ne_true).trans (finishLate_of_taken _ _ hc))))
    · exact congrArg Host.Outcome.next ((hdl true).trans ((if_neg (Bool.eq_false_iff.mp hst)).trans (if_pos rfl)))
    · exact congrArg Host.Outcome.next ((hdl done).trans ((if_pos hst).trans (by rw [hp])))
    · exact congrArg Host.Outcome.next ((hdl done).trans ((if_pos hst).trans (by rw [hn, hp])))
    · exact congrArg Host.Outcome.next ((hdl done).trans ((if_pos hst).trans (by rw [hn, hp]; rfl)))
  · rcases h with h | h
    · simp [h]
    · simp [show (s.box m).restarting = true from h]
  · exact ⟨cmd_idle, fun i c h => ⟨fun r hr => cmd_refused h hr, fun hr => cmd_means h hr⟩⟩
  · refine ⟨cmdLong_idle, fun i c h => ⟨fun r hr => cmdLong_refused h hr, fun r hr hx => ?_, fun hr hx => ?_⟩,
      fun i c p hc hst hop hp hbefore => pollStarted_first hc hst hop hp hbefore, pollStarted_none⟩
    · exact (cmdLong_starts h hr).trans (by rw [hx])
    · exact (cmdLong_starts h hr).trans (by rw [hx])

end Sys2Proof.Machine
end

section
/-! What a reset keeps (R424, R425). -/
namespace Sys2Proof.Machine

variable {r s : State}

/-! ### Registers dropped -/

theorem get_filter {α : Type} (d : Nat → α) (p : Nat → Bool) (t : List (Nat × α)) (k : Nat) :
    Tab.get d (t.filter (fun q => p q.1)) k = if p k then Tab.get d t k else d k := by
  induction t with
  | nil => exact (ite_self _).symm
  | cons q t ih =>
    rw [List.filter_cons]
    by_cases hk : k = q.1
    · subst hk
      cases hp : p q.1
      · simpa [hp] using ih
      · simp [Tab.get]
    · have hq : Tab.get d (q :: t) k = Tab.get d t k := if_neg hk
      rw [hq]
      split
      · exact (if_neg hk).trans ih
      · exact ih

theorem rd_dropRegs (keep : Nat → Bool) (a : Nat) : (s.dropRegs keep).rd a = if keep a then s.rd a else regReset a := get_filter _ _ _ _

theorem rd_of_regs {u : State} (h : u.regs = s.regs) (a : Nat) : u.rd a = s.rd a := congrArg (fun l => Tab.get regReset l a) h

/-! ### From a state to one during a warm reset -/

/-- The fuses, the records of the Saddlebag, the commands in the queue and CHIP_RST stay. -/
structure Warm (r s : State) : Prop where
  fuses : s.fuses = r.fuses
  ring : s.sb.ring = r.sb.ring
  pending : s.pending = r.pending
  rst : s.rd Adr.CHIP_RST = r.rd Adr.CHIP_RST

theorem Warm.refl (s : State) : Warm s s := ⟨rfl, rfl, rfl, rfl⟩

theorem Warm.wr (h : Warm r s) {a : Nat} (v : Word) (ha : Adr.CHIP_RST ≠ a) : Warm r (s.wr a v) :=
  ⟨h.fuses, h.ring, h.pending, (State.rd_wr_other s v ha).trans h.rst⟩

theorem Warm.put (h : Warm r s) {f : Fld} (v : Nat) (ha : Adr.CHIP_RST ≠ f.addr) : Warm r (s.put f v) := h.wr _ ha

theorem Warm.ite (h : Warm r s) {c : Prop} [Decidable c] {u : State} (hu : Warm r u) : Warm r (if c then u else s) := by
  split
  · exact hu
  · exact h

theorem Warm.foldl {α : Type} {f : State → α → State} (l : List α) (h : Warm r s) (hf : ∀ u x, Warm r u → Warm r (f u x)) :
    Warm r (l.foldl f s) := by
  induction l generalizing s with
  | nil => exact h
  | cons x l ih => exact ih (hf s x h)

theorem Warm.each (n : Nat) {f : Nat → State → State} (h : Warm r s) (hf : ∀ i u, Warm r u → Warm r (f i u)) : Warm r (s.each n f) :=
  Warm.foldl _ h fun u i hu => hf i u hu

theorem Warm.dropRegs {keep : Nat → Bool} (h : Warm r s) (hk : keep Adr.CHIP_RST = true) : Warm r (s.dropRegs keep) :=
  ⟨h.fuses, h.ring, h.pending, (rd_dropRegs keep _).trans ((if_pos hk).trans h.rst)⟩

theorem Warm.peErr (h : Warm r s) (kind status loc : Nat) : Warm r (s.peErr kind status loc) :=
  ⟨(State.peErr_fuses _ _ _ _).trans h.fuses, (congrArg Saddle.ring (State.peErr_sb _ _ _ _)).trans h.ring,
    (State.peErr_pending _ _ _ _).trans h.pending,
    (State.peErr_rd _ _ _ _ (by decide) (by decide) (by decide)).trans h.rst⟩

/-! ### What a warm reset does to the blocks -/

theorem Warm.onBox (h : Warm r s) (m : Nat) (f : Mailbox → Mailbox) : Warm r (s.onBox m f) := ⟨h.fuses, h.ring, h.pending, h.rst⟩

theorem Warm.setHitch (h : Warm r s) (v : Hitch) : Warm r { s with ht := v } := ⟨h.fuses, h.ring, h.pending, h.rst⟩

theorem Warm.setChan (h : Warm r s) (c : Nat) (v : Channel) : Warm r (s.setChan c v) := ⟨h.fuses, h.ring, h.pending, h.rst⟩

theorem Warm.hitchBanks (h : Warm r s) : Warm r s.hitchBanks := by
  unfold State.hitchBanks
  have h1 := h.put (f := Reg.HT_STAT_RELEASED) ((List.range 8).foldl (fun n b => n + ofBool (s.bankReleased b) * 2 ^ b) 0) (by decide)
  exact Warm.ite h1 (h1.setHitch _)

theorem Warm.hitchHold (h : Warm r s) : Warm r s.hitchHold := by
  unfold State.hitchHold
  dsimp only
  refine Warm.hitchBanks (Warm.put (Warm.put (Warm.foldl _ (Warm.put ?_ _ (by decide)) ?_) _ (by decide)) _ (by decide))
  · exact ⟨h.fuses, h.ring, h.pending, h.rst⟩
  · intro u n hu
    exact hu.put _ (by simp only [Adr.CHIP_RST, Adr.HT_STRM_W1]; omega)

theorem Warm.hitchStop (h : Warm r s) : Warm r (s.hitchGoWrite false) := by
  change Warm r (if s.hitchGo then s.hitchHold else s)
  exact Warm.ite h h.hitchHold

theorem Warm.closeWin (h : Warm r s) (b c : Nat) : Warm r (s.closeWin b c) :=
  h.each 16 fun k u hu => Warm.ite hu (hu.wr _ (by simp only [Adr.CHIP_RST, Adr.GW_WIN]; omega))

theorem Warm.freeRegion (h : Warm r s) (n : Nat) : Warm r (s.freeRegion n) := by
  unfold State.freeRegion
  split
  · exact h
  next q _ =>
    have hwin := Warm.foldl (regionChans q.n q.c0) h fun u c hu => hu.closeWin q.base c
    exact ⟨hwin.fuses, hwin.ring, hwin.pending, hwin.rst⟩

theorem Warm.host (h : Warm r s) : Warm r s.warmHost := by
  unfold State.warmHost
  refine Warm.foldl _ ⟨h.fuses, h.ring, h.pending, h.rst⟩ fun u x hu => ?_
  have he := hu.peErr 2 0 0
  exact ⟨he.fuses, he.ring, he.pending, he.rst⟩

theorem Warm.chan (h : Warm r s) (c : Nat) : Warm r (s.warmChan c) := by
  unfold State.warmChan
  dsimp only
  have h1 : Warm r (if s.chanServes c then (s.setChanState c gSref).clr (Reg.GD_CH_CTL_PAUSE c) else s) :=
    Warm.ite h ((h.put _ (by simp only [Adr.CHIP_RST, Adr.GD_CH_STAT]; omega)).put _ (by simp only [Adr.CHIP_RST, Adr.GD_CH_CTL]; omega))
  refine Warm.put (Warm.put (h1.setChan c Channel.reset) _ ?_) _ ?_
  · simp only [Adr.CHIP_RST, Adr.GD_REF]; omega
  · simp only [Adr.CHIP_RST, Adr.GW_STAT]; omega

theorem Warm.box (h : Warm r s) (m : Nat) : Warm r (s.warmBox m) := by
  unfold State.warmBox
  dsimp only
  have h1 : Warm r (((((s.put (Reg.MBX_DB_CMD_PI m) 0).put (Reg.MBX_CMD_CI_INDEX m) 0).put (Reg.MBX_RSP_PI_INDEX m) 0).put
      (Reg.MBX_RSP_CI_RSP_CI m) 0).wr (Adr.MBX_STAT m) (regReset (Adr.MBX_STAT m))) :=
    ((((h.put _ (by simp only [Adr.CHIP_RST, Adr.MBX_DB]; omega)).put _ (by simp only [Adr.CHIP_RST, Adr.MBX_CMD_CI]; omega)).put _
      (by simp only [Adr.CHIP_RST, Adr.MBX_RSP_PI]; omega)).put _ (by simp only [Adr.CHIP_RST, Adr.MBX_RSP_CI]; omega)).wr _
      (by simp only [Adr.CHIP_RST, Adr.MBX_STAT]; omega)
  exact h1.onBox m _

/-! ### A warm reset begins -/

/-- The state of a warm reset: what it keeps, what it shows, and the blocks that it clears. -/
theorem warmBegin_facts (s : State) :
    Warm ((s.sat Reg.CHIP_RST_WARM_COUNT 1).put Reg.CHIP_RST_CAUSE s.chip.warmReq) s.warmBegin
    ∧ s.warmBegin.rd Adr.CHIP_MODE = 0 ∧ s.warmBegin.rd Adr.CHIP_BOOT = 0 ∧ s.warmBegin.teams = []
    ∧ s.warmBegin.chip.image = none ∧ s.warmBegin.chip.warm = true ∧ s.warmBegin.chip.oldMode = s.mode ∧ s.warmBegin.chip.warmReq = 0 := by
  unfold State.warmBegin
  extract_lets old restarts s1 s2 s3 s4 s5 s6
  have h2 : Warm s1 s2 := Warm.foldl _ (Warm.refl s1).hitchStop fun u q hu => hu.freeRegion _
  have h3 : Warm s1 s3 := (h2.host.each 16 fun c u hu => hu.chan c).each 4 fun m u hu => hu.box m
  have h5 : Warm s1 s5 := Warm.foldl _ (h3.dropRegs (by decide)) fun u p hu =>
    hu.put _ (by simp only [Adr.CHIP_RST, Adr.GRM_WDT_STAT]; omega)
  have h6 : Warm s1 s6 :=
    ((((((h5.wr _ (by decide)).wr _ (by decide)).put _ (by decide)).wr _ (by decide)).wr _ (by decide)).wr _ (by decide)).put _ (by decide)
  have hmode : s6.rd Adr.CHIP_MODE = 0 := by
    unfold s6 State.putPair
    rw [State.rd_put_other _ _ (by decide), State.rd_wr_other _ _ (by decide), State.rd_wr_other _ _ (by decide),
      State.rd_wr_other _ _ (by decide), State.rd_put_other _ _ (by decide), State.rd_wr_other _ _ (by decide), State.rd_wr_same]
  have hboot : s6.rd Adr.CHIP_BOOT = 0 := by
    unfold s6 State.putPair
    rw [State.rd_put_other _ _ (by decide), State.rd_wr_other _ _ (by decide), State.rd_wr_other _ _ (by decide),
      State.rd_wr_other _ _ (by decide), State.rd_put_other _ _ (by decide), State.rd_wr_same]
  clear_value s6
  refine ⟨⟨h6.fuses, h6.ring, h6.pending, (rd_of_regs ?_ _).trans h6.rst⟩, (rd_of_regs ?_ _).trans hmode,
    (rd_of_regs ?_ _).trans hboot, rfl, rfl, rfl, rfl, rfl⟩
  all_goals rfl

end Sys2Proof.Machine
end

section
/-! Resets, the stages of the boot and the always-on supply (R424 to R428, R459, R510, R529). -/
namespace Sys2Proof.Machine

variable {s : State}

theorem get_of_regs {u : State} (h : u.regs = s.regs) (f : Fld) : u.get f = s.get f := State.get_eq_of_rd (rd_of_regs h _)

theorem on_of_regs {u : State} (h : u.regs = s.regs) (f : Fld) : u.on f = s.on f := congrArg (· != 0) (get_of_regs h f)

/-! ### Cold and warm reset -/

theorem coldReset_rd (pwr : Bool) {a : Nat} (hkeep : coldKeeps a = false) (ha : a ≠ Adr.CHIP_RST) :
    (s.coldReset pwr).rd a = regReset a := by
  unfold State.coldReset
  dsimp only
  rw [State.rd_put_other _ _ ha]
  exact (get_filter regReset coldKeeps s.regs a).trans (if_neg (Bool.eq_false_iff.mp hkeep))

theorem coldReset_cause (pwr : Bool) : (s.coldReset pwr).get Reg.CHIP_RST_CAUSE = if pwr then 1 else 2 := by
  unfold State.coldReset
  dsimp only
  rw [State.get_put_same _ _ (Fld.ok_of _ rfl)]
  cases pwr <;> rfl

theorem warmDue_iff : s.warmDue = true ↔ s.chip.warmReq ≠ 0 ∧ s.chip.halted = false ∧ s.chip.inReset = false
    ∧ (s.on Reg.CHIP_MODE_BOOT_DONE = true ∨ s.chip.warm = true) ∧ s.on Reg.CHIP_BOOT_FAILED = false := by
  simp only [State.warmDue, Bool.and_eq_true, bne_iff_ne, Bool.not_eq_true', Bool.or_eq_true, and_assoc]

theorem warmBegin_count (s : State) : s.warmBegin.get Reg.CHIP_RST_WARM_COUNT =
    satAdd (Reg.CHIP_RST_WARM_COUNT.hi + 1 - Reg.CHIP_RST_WARM_COUNT.lo) (s.get Reg.CHIP_RST_WARM_COUNT) 1 := by
  rw [State.get_eq_of_rd (f := Reg.CHIP_RST_WARM_COUNT) (warmBegin_facts s).1.rst,
    State.get_put_other _ _ (Fld.ok_of _ rfl) (.inr (.inl (by decide))), State.sat, State.get_put_same _ _ (Fld.ok_of _ rfl)]
  apply Nat.mod_eq_of_lt
  simp only [satAdd]
  omega

/-! ### The end of the boot (R426, R510) -/

/-- An event changes of MBX_STAT the flag of a lost event alone. -/
theorem postEvent_ready (s : State) (m : Nat) (e : Event) (k : Nat) :
    (s.postEvent m e).get (Reg.MBX_STAT_READY k) = s.get (Reg.MBX_STAT_READY k) := by
  unfold State.postEvent
  split
  · rfl
  · rw [State.get_eq_of_rd (rd_of_regs (State.onBox_regs _ _ _) _), State.set1, State.get_put_other _ _ (Fld.ok_of _ rfl) (.inr (.inr (show 0 < 3 by decide))),
      State.sat, State.get_put_other _ _ (Fld.ok_of _ rfl) (.inl ?_)]
    simp only [Adr.MBX_EVTLOST, Adr.MBX_STAT]
    omega

/-- BOOT_DONE and every READY set. -/
def State.bootReady (s : State) : State := (s.set1 Reg.CHIP_MODE_BOOT_DONE).each 4 (fun m s => s.set1 (Reg.MBX_STAT_READY m))

theorem bootReady_eq (s : State) : s.bootReady = ((((s.set1 Reg.CHIP_MODE_BOOT_DONE).set1 (Reg.MBX_STAT_READY 0)).set1
    (Reg.MBX_STAT_READY 1)).set1 (Reg.MBX_STAT_READY 2)).set1 (Reg.MBX_STAT_READY 3) := rfl

theorem bootReady_done (s : State) : s.bootReady.get Reg.CHIP_MODE_BOOT_DONE = 1 := by
  rw [bootReady_eq]
  unfold State.set1
  rw [State.get_put_other _ _ (Fld.ok_of _ rfl) (.inl (by decide)), State.get_put_other _ _ (Fld.ok_of _ rfl) (.inl (by decide)),
    State.get_put_other _ _ (Fld.ok_of _ rfl) (.inl (by decide)), State.get_put_other _ _ (Fld.ok_of _ rfl) (.inl (by decide)),
    State.get_put_same _ _ (Fld.ok_of _ rfl)]
  rfl

theorem bootReady_ready (s : State) {m : Nat} (hm : m < 4) : s.bootReady.get (Reg.MBX_STAT_READY m) = 1 := by
  have hsame (u : State) (k : Nat) : (u.set1 (Reg.MBX_STAT_READY k)).get (Reg.MBX_STAT_READY k) = 1 := by
    rw [State.set1, State.get_put_same _ _ (Fld.ok_of _ rfl)]
    rfl
  have hother (u : State) (j k : Nat) (h : k ≠ j) : (u.set1 (Reg.MBX_STAT_READY j)).get (Reg.MBX_STAT_READY k) = u.get (Reg.MBX_STAT_READY k) := by
    refine State.get_put_other _ _ (Fld.ok_of _ rfl) (.inl ?_)
    simp only [Adr.MBX_STAT]
    omega
  rw [bootReady_eq]
  interval_cases m
  · rw [hother _ _ _ (by decide), hother _ _ _ (by decide), hother _ _ _ (by decide), hsame]
  · rw [hother _ _ _ (by decide), hother _ _ _ (by decide), hsame]
  · rw [hother _ _ _ (by decide), hsame]
  · rw [hsame]

theorem bootReady_free (s : State) : s.bootReady.free = s.free := by
  rw [bootReady_eq]
  simp only [State.set1_free]

/-- The records and the event at the end of a boot. -/
def State.bootTold (s : State) : State :=
  let old := s.chip.oldMode
  let s2 := if s.chip.warm then
      (s.bootReady.groomRec 3 0 0x01 (argOf old 0)).postEvent 3 ⟨0x0001, 16, packBytes [(16, 1, old), (17, 1, mIdle), (24, 8, 0)]⟩
    else s.bootReady
  s2.groomRec 0 0 0x04 (argOf (s2.get Reg.CHIP_RST_CAUSE + 256 * s2.get Reg.CHIP_RST_WARM_COUNT) 0)

theorem groomRec_get (s : State) (g sev code : Nat) (arg : BitVec 48) {f : Fld} (h : f.addr ≠ Adr.SB_DROP) :
    (s.groomRec g sev code arg).get f = s.get f := State.get_eq_of_rd (State.groomRec_rd _ _ _ _ _ h)

theorem bootTold_facts (s : State) : s.bootTold.get Reg.CHIP_MODE_BOOT_DONE = 1
    ∧ (∀ m < 4, s.bootTold.get (Reg.MBX_STAT_READY m) = 1) ∧ s.bootTold.free = s.free := by
  have hready : ∀ m, (Reg.MBX_STAT_READY m).addr ≠ Adr.SB_DROP := fun m => by simp only [Adr.MBX_STAT, Adr.SB_DROP]; omega
  unfold State.bootTold
  split_ifs with hw
  · refine ⟨?_, fun m hm => ?_, ?_⟩
    · rw [groomRec_get _ _ _ _ _ (by decide), State.get_eq_of_rd (State.postEvent_rd _ _ _ (by decide) (by decide)),
        groomRec_get _ _ _ _ _ (by decide), bootReady_done]
    · rw [groomRec_get _ _ _ _ _ (hready m), postEvent_ready, groomRec_get _ _ _ _ _ (hready m), bootReady_ready s hm]
    · rw [State.groomRec_free, State.postEvent_free, State.groomRec_free, bootReady_free]
  · refine ⟨?_, fun m hm => ?_, ?_⟩
    · rw [groomRec_get _ _ _ _ _ (by decide), bootReady_done]
    · rw [groomRec_get _ _ _ _ _ (hready m), bootReady_ready s hm]
    · rw [State.groomRec_free, bootReady_free]

theorem bootEnd_facts (s : State) : s.bootEnd.on Reg.CHIP_MODE_BOOT_DONE = true
    ∧ (∀ m < 4, s.bootEnd.on (Reg.MBX_STAT_READY m) = true) ∧ s.bootEnd.chip.warm = false ∧ s.bootEnd.sec.nonce = Config.freeW64 s.free := by
  obtain ⟨hdone, hready, hfree⟩ := bootTold_facts s
  have heq : s.bootEnd = ({ s.bootTold with chip := { s.bootTold.chip with warm := false, oldMode := 0 } } : State).drawNonce := rfl
  rw [heq]
  generalize s.bootTold = u at hdone hready hfree
  have hon : ∀ f, u.get f = 1 → u.on f = true := fun f h => by rw [State.on, h]; rfl
  refine ⟨(on_of_regs ?_ _).trans (hon _ hdone), fun m hm => (on_of_regs ?_ _).trans (hon _ (hready m hm)), rfl,
    congrArg Config.freeW64 hfree⟩
  all_goals rfl

/-! ### The stages of the boot (R426 to R428) -/

theorem booting_iff : s.booting = true ↔ s.chip.inReset = false ∧ s.on Reg.CHIP_MODE_BOOT_DONE = false
    ∧ s.on Reg.CHIP_BOOT_FAILED = false ∧ s.chip.halted = false := by
  simp only [State.booting, Bool.and_eq_true, Bool.not_eq_true', and_assoc]

theorem bootStageDone_waits (b : BootIn) (h : ¬ s.booting = true) : exec (.bootStageDone b) s = .next s :=
  congrArg Host.Outcome.next (if_neg h)

theorem bootStageDone_at (b : BootIn) (h : s.booting = true) : exec (.bootStageDone b) s = .next (s.bootStep b) :=
  congrArg Host.Outcome.next (if_pos h)

theorem bootStep_last (b : BootIn) (h : 6 ≤ s.bootStage) : s.bootStep b = s.bootEnd := by
  obtain ⟨k, hk⟩ := Nat.exists_eq_add_of_le' h
  rw [State.bootStep, hk]
  rfl

/-- Stage 2 reads the flash and finds the firmware slot that runs. -/
theorem readFlash_slots (b : BootIn) (hflash : b.flashOk = true) (hhdr : bootHeaderOk b.header = true) :
    let k := s.copyRootKey
    let h : State := { k with chip := { k.chip with bootHdr := b.header } }
    let ok (x : List Byte) : Bool := slotOk h.sec.rootKey h.fuses.minVersion x
    let run (x : List Byte) : State := { h with chip := { h.chip with fwVersion := BitVec.ofNat 32 (le x 8 4) } }
    s.readFlash b =
      if ok b.slotA = true then (run b.slotA).toStage 3
      else if le b.header 0x1C 4 ≠ 0 ∧ ok b.slotB = true then
        (((run b.slotB).set1 Reg.CHIP_BOOT_SLOT).put Reg.CHIP_BOOT_ERR 3).toStage 3
      else h.bootFail 4 :=
  (if_neg (by simp [hflash])).trans (if_neg (by simp [hhdr]))

theorem bootStage_result (b : BootIn) {n : Nat} {u : State} (hgo : s.booting = true) (hn : s.bootStage = n)
    (hstep : s.bootStage = n → s.bootStep b = u) : exec (.bootStageDone b) s = .next u :=
  (bootStageDone_at b hgo).trans (congrArg Host.Outcome.next (hstep hn))

/-! ### The always-on supply (R529) -/

theorem aonLoss_slots (s : State) : s.aonLoss.get Reg.SEC_STAT_SLOTS = 0 := by
  unfold State.aonLoss
  extract_lets s1
  refine (get_of_regs (s := s1.put Reg.SEC_STAT_SLOTS 0) ?_ _).trans ?_
  · rfl
  · rw [State.get_put_same _ _ (Fld.ok_of _ rfl)]
    rfl

/-- Settles O54: the resets by what they keep, the boot stage by stage. -/
theorem resetsAndBoot : Obligations.ResetsAndBoot := by
  unfold Obligations.ResetsAndBoot
  refine ⟨fun pwr s => ?_, fun s => rfl, fun s b => ?_, fun s => ?_, fun s => ?_, fun s => rfl⟩
  · exact ⟨_, rfl, coldReset_cause pwr, rfl, rfl, rfl, rfl, rfl, rfl, rfl, rfl, rfl, rfl, rfl, fun a hk ha => coldReset_rd pwr hk ha⟩
  · intro goes stage goto fails
    have hiff : goes ↔ s.booting = true := booting_iff.symm
    rw [hiff]
    clear_value goes
    refine ⟨bootStageDone_waits b, fun hg h => bootStage_result b hg h fun h => by rw [State.bootStep, h] <;> rfl,
      fun hg h => bootStage_result b hg h fun h => by rw [State.bootStep, h] <;> rfl, fun hg h => ?_,
      fun hg h hup => bootStage_result b hg h fun h => by rw [State.bootStep, h]; exact if_neg (Bool.eq_false_iff.mp hup),
      fun hg h hup => bootStage_result b hg h fun h => by rw [State.bootStep, h]; exact if_pos hup,
      fun hg h => bootStage_result b hg h fun h => by rw [State.bootStep, h] <;> rfl,
      fun hg h => bootStage_result b hg h fun h => by rw [State.bootStep, h] <;> rfl, fun hg h => ?_⟩
    · intro k h' ok run
      have hread : exec (.bootStageDone b) s = .next (s.readFlash b) :=
        bootStage_result b hg h fun h => by rw [State.bootStep, h] <;> rfl
      refine ⟨fun hf => ?_, fun hf hh => ?_, fun hf hh => ?_⟩
      · exact hread.trans (congrArg Host.Outcome.next (if_pos (by simp [hf])))
      · exact hread.trans (congrArg Host.Outcome.next ((if_neg (by simp [hf])).trans (if_pos (by simp [hh]))))
      · rw [hread, readFlash_slots b hf hh]
        split_ifs <;> rfl
    · exact ⟨_, bootStageDone_at b hg, bootStep_last b h, by rw [bootStep_last b h]; exact bootEnd_facts s⟩
  · intro due
    have hiff : due ↔ s.warmDue = true := warmDue_iff.symm
    rw [hiff]
    refine ⟨fun hd => ?_, fun hd => congrArg Host.Outcome.next (if_neg hd)⟩
    obtain ⟨hwarm, hmode, hboot, hteams, himage, hw, hold, hreq⟩ := warmBegin_facts s
    refine ⟨s.warmBegin, congrArg Host.Outcome.next (if_pos hd), ?_, himage, ?_, ?_, hw, hold, hreq, hwarm.fuses, hwarm.ring, hteams,
      hwarm.pending, warmBegin_count s⟩
    · rw [State.mode, State.get, hmode]
      rfl
    · rw [State.get, hboot]
      rfl
    · rw [State.on, State.get, hmode]
      rfl
  · exact ⟨_, rfl, rfl, rfl, rfl, aonLoss_slots s, rfl, rfl⟩

end Sys2Proof.Machine
end

section
/-! Reference clocks, temperature samples and the watchdogs of the Grooms (R440, R457 to R460, R467 to R469). -/
namespace Sys2Proof.Machine

variable {s : State}

/-! ### Registers through records and alerts -/

theorem on_eq_of_rd {u : State} {f : Fld} (h : u.rd f.addr = s.rd f.addr) : u.on f = s.on f :=
  congrArg (· != 0) (State.get_eq_of_rd h)

/-! ### Reference clocks (R440) -/

/-- The loss of SYS_REFCLK, up to the halt. -/
def State.sysLost (s : State) : State :=
  let a := ((s.clr (refOk .sys)).set1 (refLost .sys)).alert 6
  (a.hwRec 6 0x43 (argOf a.clkErr 0)).clr Reg.CHIP_CLK_STAT_SYS_LOCK

theorem sysLost_signs (s : State) : s.sysLost.on (refOk .sys) = false ∧ s.sysLost.on (refLost .sys) = true
    ∧ s.sysLost.on Reg.CHIP_CLK_STAT_SYS_LOCK = false := by
  unfold State.sysLost
  extract_lets a
  refine ⟨?_, ?_, State.on_clr_same _ (Fld.ok_of _ rfl)⟩
  · rw [State.on_clr_other _ (Fld.ok_of _ rfl) (.inr (by decide)), on_eq_of_rd (State.hwRec_rd _ _ _ _ (by decide)),
      on_eq_of_rd (State.alert_rd _ _ (by decide)), State.on_set1_other _ (Fld.ok_of _ rfl) (.inl (by decide)),
      State.on_clr_same _ (Fld.ok_of _ rfl)]
  · rw [State.on_clr_other _ (Fld.ok_of _ rfl) (.inl (by decide)), on_eq_of_rd (State.hwRec_rd _ _ _ _ (by decide)),
      on_eq_of_rd (State.alert_rd _ _ (by decide)), State.on_set1_same _ (Fld.ok_of _ rfl)]

theorem halt_of_running (why g : Nat) (h : s.chip.halted = false) :
    (s.halt why g).chip.halted = true ∧ ∀ f : Fld, f.addr ≠ Adr.SB_DROP → (s.halt why g).on f = s.on f := by
  have heq : s.halt why g = _ := if_neg (by simp [h])
  rw [heq]
  refine ⟨rfl, fun f hf => (on_of_regs ?_ f).trans (on_eq_of_rd (State.freezeRec_rd s 4 6 3 (argOf (why + 256 * g) 0) hf))⟩
  rfl

theorem sysLost_halted (h : s.chip.halted = false) : s.sysLost.chip.halted = false := by
  unfold State.sysLost
  rw [State.clr_chip, State.hwRec_chip, State.alert_chip, State.set1_chip, State.clr_chip, h]

/-! ### Temperature (R457 to R460) -/

theorem throttle_falls {t : Int} (h : s.get Reg.CHIP_THERM_DUTY < s.dutyFor t) :
    s.throttle t = { (s.put Reg.CHIP_THERM_DUTY (s.dutyFor t)) with
      chip := { (s.put Reg.CHIP_THERM_DUTY (s.dutyFor t)).chip with cool := none } } := if_pos h

theorem throttle_holds {t : Int} (h : s.dutyFor t ≤ s.get Reg.CHIP_THERM_DUTY)
    (hlow : ¬ (0 < s.get Reg.CHIP_THERM_DUTY ∧ t ≤ (s.dutyThr (s.get Reg.CHIP_THERM_DUTY) : Int) - 3)) :
    s.throttle t = { s with chip := { s.chip with cool := none } } := (if_neg (Nat.not_lt.mpr h)).trans (if_neg hlow)

/-- At least 3 degrees below the threshold of the duty in force: the samples are counted. -/
theorem throttle_cools {t : Int} (h : s.dutyFor t ≤ s.get Reg.CHIP_THERM_DUTY)
    (hlow : 0 < s.get Reg.CHIP_THERM_DUTY ∧ t ≤ (s.dutyThr (s.get Reg.CHIP_THERM_DUTY) : Int) - 3) :
    let up := s.put Reg.CHIP_THERM_DUTY (s.get Reg.CHIP_THERM_DUTY - 1)
    s.throttle t = match s.chip.cool with
      | none => { s with chip := { s.chip with cool := some 0 } }
      | some k => if k + 1 < 200 then { s with chip := { s.chip with cool := some (k + 1) } }
        else { up with chip := { up.chip with cool := none } } :=
  (if_neg (Nat.not_lt.mpr h)).trans ((if_pos hlow).trans (by cases s.chip.cool <;> rfl))

theorem dutyFor_cool {t : Int} (h1 : t < s.dutyThr 1) (h2 : s.dutyThr 1 < s.dutyThr 2) (h3 : s.dutyThr 2 < s.dutyThr 3) : s.dutyFor t = 0 := by
  unfold State.dutyFor
  rw [if_neg (by omega), if_neg (by omega), if_neg (by omega)]

theorem thermPin_low {t : Int} (h : t < s.get Reg.CHIP_THERM_CTL_THERM_HI) : s.thermPin t = s ∨ s.thermPin t = s.clr Reg.CHIP_THERM_THERM := by
  unfold State.thermPin
  dsimp only
  rw [if_neg (Int.not_le.mpr h)]
  split
  · exact .inr rfl
  · exact .inl rfl

theorem thermTell_same {old : State} {tj : BitVec 8} {k : Nat} (hd : s.get Reg.CHIP_THERM_DUTY = old.get Reg.CHIP_THERM_DUTY)
    (hp : s.get Reg.CHIP_THERM_THERM = old.get Reg.CHIP_THERM_THERM) : s.thermTell old tj k = s := by
  unfold State.thermTell
  simp [hd, hp]

/-- After a cool sample: its temperature and sensor show, the duty and THERM stay at 0, nothing is told. -/
structure CoolSample (s u : State) (tj k : Nat) : Prop where
  tjMax : u.get Reg.CHIP_THERM_TJ_MAX = tj
  sensor : u.get Reg.CHIP_THERM_SENSOR = k % 32
  duty : u.get Reg.CHIP_THERM_DUTY = 0
  therm : u.get Reg.CHIP_THERM_THERM = 0
  ctl : u.rd Adr.CHIP_THERM_CTL = s.rd Adr.CHIP_THERM_CTL
  modeReg : u.rd Adr.CHIP_MODE = s.rd Adr.CHIP_MODE
  sb : u.sb = s.sb
  boxes : u.boxes = s.boxes

theorem CoolSample.start {tj k : Nat} (htj : tj < 256) (hduty : s.get Reg.CHIP_THERM_DUTY = 0) (htherm : s.get Reg.CHIP_THERM_THERM = 0) :
    CoolSample s ((s.put Reg.CHIP_THERM_TJ_MAX tj).put Reg.CHIP_THERM_SENSOR k) tj k where
  tjMax := by
    rw [State.get_put_other _ _ (Fld.ok_of _ rfl) (.inr (.inr (by decide))), State.get_put_same _ _ (Fld.ok_of _ rfl)]
    exact Nat.mod_eq_of_lt htj
  sensor := State.get_put_same _ _ (Fld.ok_of _ rfl)
  duty := by
    rw [State.get_put_other _ _ (Fld.ok_of _ rfl) (.inr (.inr (by decide))),
      State.get_put_other _ _ (Fld.ok_of _ rfl) (.inr (.inr (by decide))), hduty]
  therm := by
    rw [State.get_put_other _ _ (Fld.ok_of _ rfl) (.inr (.inr (by decide))),
      State.get_put_other _ _ (Fld.ok_of _ rfl) (.inr (.inr (by decide))), htherm]
  ctl := by rw [State.rd_put_other _ _ (by decide), State.rd_put_other _ _ (by decide)]
  modeReg := by rw [State.rd_put_other _ _ (by decide), State.rd_put_other _ _ (by decide)]
  sb := by rw [State.put_sb, State.put_sb]
  boxes := by rw [State.put_boxes, State.put_boxes]

theorem CoolSample.chip {u : State} {tj k : Nat} (h : CoolSample s u tj k) (v : Chip) : CoolSample s { u with chip := v } tj k :=
  ⟨(get_of_regs (s := u) rfl _).trans h.tjMax, (get_of_regs (s := u) rfl _).trans h.sensor, (get_of_regs (s := u) rfl _).trans h.duty,
    (get_of_regs (s := u) rfl _).trans h.therm, (rd_of_regs (s := u) rfl _).trans h.ctl, (rd_of_regs (s := u) rfl _).trans h.modeReg,
    h.sb, h.boxes⟩

theorem CoolSample.clrTherm {u : State} {tj k : Nat} (h : CoolSample s u tj k) : CoolSample s (u.clr Reg.CHIP_THERM_THERM) tj k :=
  ⟨(State.get_put_other _ _ (Fld.ok_of _ rfl) (.inr (.inl (by decide)))).trans h.tjMax,
    (State.get_put_other _ _ (Fld.ok_of _ rfl) (.inr (.inl (by decide)))).trans h.sensor,
    (State.get_put_other _ _ (Fld.ok_of _ rfl) (.inr (.inr (by decide)))).trans h.duty, State.get_put_same _ _ (Fld.ok_of _ rfl),
    (State.rd_put_other _ _ (by decide)).trans h.ctl, (State.rd_put_other _ _ (by decide)).trans h.modeReg, h.sb, h.boxes⟩

theorem CoolSample.thr {u : State} {tj k : Nat} (h : CoolSample s u tj k) {n : Nat} : u.dutyThr n = s.dutyThr n := by
  unfold State.dutyThr
  refine State.get_eq_of_rd ?_
  split_ifs
  · exact h.ctl
  · exact h.ctl
  · exact h.ctl

theorem thermal_cool {temps : List (BitVec 8)} {tj : BitVec 8} {k : Nat} (htemps : hottest temps = some (tj, k))
    (h1 : tj.toInt < s.dutyThr 1) (h2 : s.dutyThr 1 < s.dutyThr 2) (h3 : s.dutyThr 2 < s.dutyThr 3)
    (hduty : s.get Reg.CHIP_THERM_DUTY = 0) (htherm : s.on Reg.CHIP_THERM_THERM = false)
    (hhi : tj.toInt < s.get Reg.CHIP_THERM_CTL_THERM_HI) (htrip : tj.toInt < 115) : CoolSample s (s.thermal temps) tj.toNat k := by
  have htherm0 : s.get Reg.CHIP_THERM_THERM = 0 := by simpa [State.on] using htherm
  unfold State.thermal
  rw [htemps]
  dsimp only
  have ha := CoolSample.start (s := s) (k := k) tj.isLt hduty htherm0
  generalize (s.put Reg.CHIP_THERM_TJ_MAX tj.toNat).put Reg.CHIP_THERM_SENSOR k = a at ha
  have hb := ha.chip { a.chip with aonNew := a.chip.aonNew - 1 }
  generalize ({ a with chip := { a.chip with aonNew := a.chip.aonNew - 1 } } : State) = b at hb
  have hfor : b.dutyFor tj.toInt = 0 := dutyFor_cool (by rw [hb.thr]; exact h1) (by rw [hb.thr, hb.thr]; exact h2) (by rw [hb.thr, hb.thr]; exact h3)
  rw [throttle_holds (by rw [hfor]; exact Nat.zero_le _) (by rw [hb.duty]; simp)]
  have hc := hb.chip { b.chip with cool := none }
  generalize ({ b with chip := { b.chip with cool := none } } : State) = c at hc
  have hd : CoolSample s (c.thermPin tj.toInt) tj.toNat k := by
    have hthi : c.get Reg.CHIP_THERM_CTL_THERM_HI = s.get Reg.CHIP_THERM_CTL_THERM_HI := State.get_eq_of_rd hc.ctl
    rcases thermPin_low (s := c) (t := tj.toInt) (by rw [hthi]; exact hhi) with h | h
    · rw [h]; exact hc
    · rw [h]; exact hc.clrTherm
  generalize c.thermPin tj.toInt = d at hd
  rw [thermTell_same (hd.duty.trans hduty.symm) (hd.therm.trans htherm0.symm), State.trip, if_neg (Int.not_le.mpr htrip)]
  exact hd.chip _

theorem thermal_of_hottest {temps : List (BitVec 8)} {tj : BitVec 8} {k : Nat} (h : hottest temps = some (tj, k)) :
    let a := (s.put Reg.CHIP_THERM_TJ_MAX tj.toNat).put Reg.CHIP_THERM_SENSOR k
    let b : State := { a with chip := { a.chip with aonNew := s.chip.aonNew - 1 } }
    s.thermal temps = (((b.throttle tj.toInt).thermPin tj.toInt).thermTell s tj k).trip tj k := by
  intro a b
  have haon : s.chip.aonNew = a.chip.aonNew := by rw [State.put_chip, State.put_chip]
  unfold State.thermal
  rw [h, show b = { a with chip := { a.chip with aonNew := a.chip.aonNew - 1 } } by rw [← haon]]

/-! ### Watchdogs (R467 to R469) -/

theorem wdtCount_idle {g us pc recent : Nat} {ok kick : Bool} {at_ : Word} (h : s.chip.halted = true ∨ (s.box g).restarting = true) :
    s.wdtCount g us pc recent ok kick at_ = s :=
  if_pos (by rcases h with h | h <;> simp [h])

theorem wdtCount_runs {g us pc recent : Nat} {ok kick : Bool} {at_ : Word} (hh : s.chip.halted = false) (hr : (s.box g).restarting = false) :
    s.wdtCount g us pc recent ok kick at_ = if look s.chip.wdt g + us < s.wdtLimit g then s.setWdt g (look s.chip.wdt g + us)
      else if kick then (s.setWdt g 0).set1 (Reg.GRM_WDT_STAT_LATE g)
      else s.wdtExpire g pc recent ok at_ :=
  if_neg (by simp [hh, hr])

theorem wdtExpire_third {g pc recent : Nat} {ok : Bool} {at_ : Word} (h : 2 ≤ recent) :
    s.wdtExpire g pc recent ok at_ = s.restartFailed g := if_pos h

theorem wdtExpire_restarts {g pc recent : Nat} {ok : Bool} {at_ : Word} (h : recent < 2) :
    let a := pc / 4 * 4 % 2 ^ 22
    let s1 := ((s.setWdt g 0).wr (Adr.GRM_WDT_PC g) (BitVec.ofNat 32 a)).hwRec 2 0x40 (argOf (g + 256 * (recent + 1)) a)
    let s2 := (s1.sat (Reg.GRM_WDT_STAT_RESTARTS g) 1).put (Reg.GRM_WDT_STAT_RECENT g) (recent + 1)
    s.wdtExpire g pc recent ok at_ = if ok then (s2.groomDown g).trcRestart g at_ else (s2.groomDown g).restartFailed g :=
  if_neg (Nat.not_le.mpr h)

theorem wdtCount_expires {g us pc recent : Nat} {ok : Bool} {at_ : Word} (hh : s.chip.halted = false) (hr : (s.box g).restarting = false)
    (hn : s.wdtLimit g ≤ look s.chip.wdt g + us) : s.wdtCount g us pc recent ok false at_ = s.wdtExpire g pc recent ok at_ :=
  (wdtCount_runs hh hr).trans ((if_neg (Nat.not_lt.mpr hn)).trans (if_neg Bool.false_ne_true))

/-- What a restarted Groom does before it serves again. -/
def State.restarted (s : State) (g : Nat) : State :=
  let a := (s.box g).taken.foldl (fun x c => x.respond g c false (errResp 3 0 0 0)) (s.onBox g (fun b => { b with
    taken := [], restarting := false }))
  ((a.set1 (Reg.MBX_STAT_RESTARTED g)).alert 5).postEvent 0 ⟨0x0030, 1, packBytes [(16, 1, g)]⟩

/-- What a long command of Groom 3 had begun ends. -/
def State.longEnded (s : State) : State :=
  let x := s.stopAlign.clr Reg.CHIP_MODE_SVC_CHG
  { x with chip := { x.chip with stepTo := none } }

theorem groomUp_of_back {g : Nat} (hr : (s.box g).restarting = true) (hh : s.chip.halted = false) :
    s.groomUp g = if g = 3 then (s.restarted g).longEnded else s.restarted g := by
  have htold : (((s.answerRestart g).set1 (Reg.MBX_STAT_RESTARTED g)).alert 5).postEvent 0 ⟨0x0030, 1, packBytes [(16, 1, g)]⟩
    = s.restarted g := rfl
  unfold State.groomUp
  rw [if_pos (by simp [hr, hh]), htold]
  rfl

/-- Settles O56: the inputs, the samples and the watchdogs by the conditions of each. -/
theorem clocksTemperatureAndWatchdogs : Obligations.ClocksTemperatureAndWatchdogs := by
  unfold Obligations.ClocksTemperatureAndWatchdogs
  refine ⟨fun s => ⟨fun k hk => ?_, fun hk hh => ?_, fun k hk => congrArg Host.Outcome.next (if_neg (Bool.eq_false_iff.mp hk)), fun k => ?_,
    fun h => congrArg Host.Outcome.next (if_pos h), fun h => congrArg Host.Outcome.next (if_neg (Bool.eq_false_iff.mp h)),
    fun temps h => ?_, fun temps tj k h => ?_, fun t => ?_, fun old tj k => ⟨rfl, rfl⟩,
    fun temps tj k h h1 h2 h3 hd ht hhi h115 _ => ?_⟩, fun s g => ?_⟩
  · refine congrArg Host.Outcome.next ((if_pos hk).trans ?_)
    cases k <;> rfl
  · have hloss : s.refLoss .sys = s.sysLost.halt 1 0 := if_pos hk
    obtain ⟨hhalt, hon⟩ := halt_of_running 1 0 (sysLost_halted hh)
    obtain ⟨h1, h2, h3⟩ := sysLost_signs s
    refine ⟨_, congrArg Host.Outcome.next hloss, hhalt, ?_, ?_, ?_⟩
    · rw [hon _ (by decide), h1]
    · rw [hon _ (by decide), h2]
    · rw [hon _ (by decide), h3]
  · cases k <;> rfl
  · exact congrArg Host.Outcome.next (by rw [State.thermal, h])
  · exact congrArg Host.Outcome.next (thermal_of_hottest h)
  · intro cur cool low
    refine ⟨throttle_falls, throttle_holds, fun h hl hc => (throttle_cools h hl).trans (by rw [hc]),
      fun n h hl hc hn => (throttle_cools h hl).trans (by rw [hc]; exact if_pos hn),
      fun n h hl hc hn => (throttle_cools h hl).trans (by rw [hc]; exact if_neg (Nat.not_lt.mpr hn)), rfl, rfl⟩
  · have hcool := thermal_cool h h1 h2 h3 hd ht hhi h115
    exact ⟨_, rfl, hcool.tjMax, hcool.sensor, hcool.duty, hcool.sb, hcool.boxes, State.get_eq_of_rd hcool.modeReg⟩
  · intro wdt back up
    have hrestarted : up = s.restarted g := rfl
    clear_value up
    subst hrestarted
    refine ⟨fun v => rfl, fun h us pc recent ok kick at_ => congrArg Host.Outcome.next (wdtCount_idle h),
      fun hh hr us pc recent ok at_ => ⟨fun kick hn => ?_, fun hn => ?_, fun hn h2 => ?_, fun hn h2 => ?_⟩, fun hb hg => ?_, fun hb hg => ?_,
      fun hb => ?_, fun hb => ?_⟩
    · exact congrArg Host.Outcome.next ((wdtCount_runs hh hr).trans (if_pos hn))
    · exact congrArg Host.Outcome.next ((wdtCount_runs hh hr).trans ((if_neg (Nat.not_lt.mpr hn)).trans (if_pos rfl)))
    · exact congrArg Host.Outcome.next ((wdtCount_expires hh hr hn).trans (wdtExpire_third h2))
    · exact ⟨congrArg Host.Outcome.next ((wdtCount_expires hh hr hn).trans (wdtExpire_restarts h2)),
        congrArg Host.Outcome.next ((wdtCount_expires hh hr hn).trans (wdtExpire_restarts h2))⟩
    · exact congrArg Host.Outcome.next ((groomUp_of_back hb.1 hb.2).trans (if_neg (fun h => hg (Fin.ext h))))
    · have hup : s.groomUp g = (s.restarted g).longEnded := (groomUp_of_back hb.1 hb.2).trans (if_pos (congrArg Fin.val hg))
      exact congrArg Host.Outcome.next hup
    · exact congrArg Host.Outcome.next (if_pos (by simp [hb.1, hb.2]))
    · have hoff : ¬ ((s.box g).restarting && !s.chip.halted) = true := by simpa [back] using hb
      exact ⟨congrArg Host.Outcome.next (if_neg hoff), congrArg Host.Outcome.next (if_neg hoff)⟩

end Sys2Proof.Machine
end

section
/-! Entry to QUARANTINE (R435, R470). -/
namespace Sys2Proof.Machine

variable {r s : State}

/-! ### What reports, capture and responses leave alone -/

/-- The registers that say the mode, whether the scheduler is enabled and whether a hold is in effect. -/
def calmRegs : List Nat := [Adr.CHIP_MODE, Adr.DS_CTL, Adr.LD_HOLD_STAT]

/-- From `r` to `s` these registers stay, and the Time Base, the scheduler's lists, the fuses, the keys, the image, the note of a
restored snapshot and the always-on copy of QCAUSE. -/
structure Calm (r s : State) : Prop where
  tb : s.tb = r.tb
  ds : s.ds = r.ds
  fuses : s.fuses = r.fuses
  sec : s.sec = r.sec
  image : s.chip.image = r.chip.image
  restored : s.chip.restored = r.chip.restored
  qcause : s.sb.qcause = r.sb.qcause
  regs : ∀ a, a ∈ calmRegs → s.rd a = r.rd a

theorem Calm.refl (s : State) : Calm s s := ⟨rfl, rfl, rfl, rfl, rfl, rfl, rfl, fun _ _ => rfl⟩

theorem Calm.on (h : Calm r s) (f : Fld) (ha : f.addr ∈ calmRegs) : s.on f = r.on f := on_eq_of_rd (h.regs _ ha)

theorem Calm.get (h : Calm r s) (f : Fld) (ha : f.addr ∈ calmRegs) : s.get f = r.get f := State.get_eq_of_rd (h.regs _ ha)

theorem Calm.wr (h : Calm r s) {a : Nat} (v : Word) (ha : a ∉ calmRegs) : Calm r (s.wr a v) :=
  ⟨h.tb, h.ds, h.fuses, h.sec, h.image, h.restored, h.qcause, fun b hb =>
    (State.rd_wr_other s v fun hba => ha (by rwa [← hba])).trans (h.regs b hb)⟩

theorem Calm.put (h : Calm r s) {f : Fld} (v : Nat) (ha : f.addr ∉ calmRegs) : Calm r (s.put f v) := h.wr _ ha

theorem Calm.set1 (h : Calm r s) {f : Fld} (ha : f.addr ∉ calmRegs) : Calm r (s.set1 f) := h.wr _ ha

theorem Calm.sat (h : Calm r s) {f : Fld} (v : Nat) (ha : f.addr ∉ calmRegs) : Calm r (s.sat f v) := h.wr _ ha

theorem Calm.ite (h : Calm r s) {c : Prop} [Decidable c] {u : State} (hu : Calm r u) : Calm r (if c then u else s) := by
  split
  · exact hu
  · exact h

theorem Calm.foldl {α : Type} {f : State → α → State} (l : List α) (h : Calm r s) (hf : ∀ u x, Calm r u → Calm r (f u x)) :
    Calm r (l.foldl f s) := by
  induction l generalizing s with
  | nil => exact h
  | cons x l ih => exact ih (hf s x h)

/-- The fields in which a state may differ from one that is calm. -/
theorem Calm.record (h : Calm r s) (latch teams routers cap lanes chans ht hotRecord probes links boxes pcie trace gddr rdata free pending) :
    Calm r ⟨s.regs, latch, teams, routers, s.chip, s.fuses, s.ds, cap, lanes, s.tb, chans, ht, hotRecord, probes, links, boxes, pcie,
      s.sb, trace, s.sec, gddr, rdata, free, pending⟩ := ⟨h.tb, h.ds, h.fuses, h.sec, h.image, h.restored, h.qcause, h.regs⟩

theorem Calm.setSaddle (h : Calm r s) (v : Saddle) (hq : v.qcause = s.sb.qcause) : Calm r { s with sb := v } :=
  ⟨h.tb, h.ds, h.fuses, h.sec, h.image, h.restored, hq.trans h.qcause, h.regs⟩

theorem Calm.setChip (h : Calm r s) (v : Chip) (hi : v.image = r.chip.image) (hr : v.restored = r.chip.restored) :
    Calm r { s with chip := v } := ⟨h.tb, h.ds, h.fuses, h.sec, hi, hr, h.qcause, h.regs⟩

theorem Calm.request (h : Calm r s) (q : SbReq) : Calm r (s.request q) := by
  unfold State.request
  split
  · exact h.put _ (by decide)
  · exact h.setSaddle _ rfl

theorem Calm.freezeRec (h : Calm r s) (src sev code : Nat) (arg : BitVec 48) : Calm r (s.freezeRec src sev code arg) := by
  unfold State.freezeRec
  split
  · exact h.put _ (by decide)
  · exact h.setSaddle _ rfl

theorem Calm.groomRec (h : Calm r s) (g sev code : Nat) (arg : BitVec 48) : Calm r (s.groomRec g sev code arg) := by
  unfold State.groomRec
  split
  · split
    · exact (h.setSaddle { s.sb with inSecond := upd s.sb.inSecond g (look s.sb.inSecond g + 1) } rfl).request _
    · exact (h.setSaddle { s.sb with held := upd s.sb.held g (look s.sb.held g + 1) } rfl).put (f := Reg.SB_DROP_SUPPRESSED) _ (by decide)
  · exact h.request _

theorem Calm.alert (h : Calm r s) (c : Nat) : Calm r (s.alert c) := by
  have h1 : Calm r (s.set1 ⟨Adr.SB_ALERT_STAT, c, c⟩) := h.put 1 (show Adr.SB_ALERT_STAT ∉ calmRegs by decide)
  unfold State.alert
  dsimp only
  split
  · exact h
  · exact h1.setSaddle { s.sb with araDone := false } rfl

theorem mbx_notCalm (m : Nat) : Adr.MBX_EVTLOST m ∉ calmRegs ∧ Adr.MBX_STAT m ∉ calmRegs ∧ Adr.MBX_RSP_PI m ∉ calmRegs := by
  simp only [calmRegs, List.mem_cons, List.not_mem_nil, or_false, Adr.CHIP_MODE, Adr.DS_CTL, Adr.LD_HOLD_STAT, Adr.MBX_EVTLOST,
    Adr.MBX_STAT, Adr.MBX_RSP_PI]
  omega

theorem causeFld_notCalm (v : Nat) : (causeFld v).addr ∉ calmRegs := by
  unfold causeFld
  split
  · exact show Adr.PE_INT_STAT_LO ∉ calmRegs by decide
  · exact show Adr.PE_INT_STAT_HI ∉ calmRegs by decide

theorem Calm.onBox (h : Calm r s) (m : Nat) (f : Mailbox → Mailbox) : Calm r (s.onBox m f) := h.record ..

theorem Calm.postEvent (h : Calm r s) (m : Nat) (e : Event) : Calm r (s.postEvent m e) := by
  unfold State.postEvent
  split
  · exact h.onBox _ _
  · exact ((h.sat (f := Reg.MBX_EVTLOST_COUNT m) 1 (mbx_notCalm m).1).set1 (f := Reg.MBX_STAT_EVT_LOST m) (mbx_notCalm m).2.1).onBox _ _

theorem Calm.sendMsg (h : Calm r s) (v : Nat) : Calm r (s.sendMsg v) := by
  obtain ⟨p, hp⟩ := State.sendMsg_ex s v
  rw [hp]
  exact h.record ..

theorem Calm.raise (h : Calm r s) (v : Nat) : Calm r (s.raise v) := by
  unfold State.raise
  split
  · exact h
  · exact (h.put _ (causeFld_notCalm v)).sendMsg v

theorem Calm.respond (h : Calm r s) (m : Nat) (c : Taken) (late : Bool) (a : Resp) : Calm r (s.respond m c late a) := by
  unfold State.respond State.postSlot
  split
  · exact h
  · exact ((h.onBox _ _).put _ (mbx_notCalm m).2.2).raise m

theorem Calm.endLong (h : Calm r s) (a : Resp) : Calm r (s.endLong a) := by
  unfold State.endLong
  split
  next i _ =>
    have h1 : Calm r (s.finishAt 3 i a) := by
      unfold State.finishAt
      split
      · exact (h.onBox _ _).respond _ _ _ _
      · exact h
    exact h1.setChip { s.chip with stepTo := none } h.image h.restored
  next => exact h

/-! ### Capture -/

theorem Calm.setCap (h : Calm r s) (v : Capture) : Calm r { s with cap := v } := h.record ..

theorem Calm.putPair (h : Calm r s) {lo hi : Nat} (v : Nat) (hlo : lo ∉ calmRegs) (hhi : hi ∉ calmRegs) : Calm r (s.putPair lo hi v) :=
  (h.wr _ hlo).wr _ hhi

theorem Calm.capSettle (h : Calm r s) : Calm r s.capSettle := by
  unfold State.capSettle
  split
  · exact Calm.ite h ((((h.setCap _).put _ (by decide)).put _ (by decide)).postEvent _ _)
  · exact h

theorem Calm.capStop (h : Calm r s) (st stride : Nat) : Calm r (s.capStop st stride) :=
  ((h.setCap _).putPair _ (by decide) (by decide)).capSettle

theorem Calm.stage (h : Calm r s) (bs : List (Nat × List Byte)) : Calm r (s.stage bs) := by
  refine Calm.foldl bs h fun u b hu => ?_
  dsimp only
  split
  · exact hu
  · exact hu.record ..

theorem Calm.spillNowhere (h : Calm r s) : Calm r (s.spill []) := by
  unfold State.spill
  exact Calm.ite h h

theorem Calm.capRecord (h : Calm r s) : Calm r (s.capRecord []) := by
  unfold State.capRecord
  split
  · exact h
  next q rest _ =>
    extract_lets st rs nslot slot free ovf stop c1 s1 s2 flags s3 left c4 s4
    refine Calm.ite (h.setCap _) ?_
    have h1 : Calm r s1 := (h.setCap _).stage _
    have h2 : Calm r s2 := ((h1.sat _ (by decide)).put _ (by decide)).putPair _ (by decide) (by decide)
    have h3 : Calm r s3 := Calm.ite h2 (((((h2.putPair _ (by decide) (by decide)).put _ (by decide)).set1 (by decide)).put _
      (by decide)).postEvent _ _)
    have h4 : Calm r s4 := h3.setCap _
    exact Calm.ite (Calm.ite (Calm.ite h4.spillNowhere.capSettle (h4.capStop _ _)) (h4.capStop _ _)) (h4.capStop _ _)

theorem Calm.capQuarantine (h : Calm r s) : Calm r s.capQuarantine := by
  have h1 : Calm r s.storeReady := Calm.foldl s.cap.ready h fun _ _ hu => hu.capRecord
  exact Calm.ite h1 (h1.capStop _ _)

/-! ### The hold and the mode -/

theorem domFlags_notCalm (d : Nat) : Adr.DS_DOM_FLAGS d ∉ calmRegs := by
  simp only [calmRegs, List.mem_cons, List.not_mem_nil, or_false, Adr.CHIP_MODE, Adr.DS_CTL, Adr.LD_HOLD_STAT, Adr.DS_DOM_FLAGS]
  omega

theorem Calm.setDs (s : State) (v : Sched) {u : State} (h : Calm { s with ds := v } u) : Calm { s with ds := u.ds } u :=
  ⟨h.tb, rfl, h.fuses, h.sec, h.image, h.restored, h.qcause, h.regs⟩

theorem Calm.undecide (s : State) : Calm { s with ds := s.undecide.ds } s.undecide := by
  unfold State.undecide
  split
  next w k p _ _ =>
    split
    next =>
      let v : Sched := { s.ds with choice := none, prior := none, wanted := some k, delay := p.delay, decided := p.decided }
      have h0 : Calm { s with ds := v } { s with ds := v } := Calm.refl _
      have h1 := (((h0.wr (a := Adr.DS_NOW_LO) (BitVec.ofNat 32 p.now) (by decide)).put (f := Reg.DS_NOW_HI_NOW_HI) (p.now / 2 ^ 32)
        (by decide)).put (f := Reg.DS_NOW_HI_EPOCH) p.epoch (by decide)).put (f := Reg.DS_SKIP_COUNT)
        (State.get (((({ s with ds := v } : State).wr Adr.DS_NOW_LO (BitVec.ofNat 32 p.now)).put Reg.DS_NOW_HI_NOW_HI (p.now / 2 ^ 32)).put
          Reg.DS_NOW_HI_EPOCH p.epoch) Reg.DS_SKIP_COUNT - p.skips) (by decide)
      refine Calm.setDs s v (Calm.foldl (List.range 64) h1 fun u d hu => ?_)
      exact Calm.ite hu (hu.put _ (domFlags_notCalm d))
    next => exact ⟨rfl, rfl, rfl, rfl, rfl, rfl, rfl, fun _ _ => rfl⟩
  next => exact ⟨rfl, rfl, rfl, rfl, rfl, rfl, rfl, fun _ _ => rfl⟩

theorem Calm.sayAll (h : Calm r s) (l : List Nat) (m : Flit) : Calm r (s.sayAll l m) := Calm.foldl l h fun _ _ hu => hu.record ..

theorem Calm.disarm (h : Calm r s) : Calm r s.disarm := by
  refine Calm.foldl _ h fun u t hu => Calm.ite hu (hu.put _ ?_)
  simp only [calmRegs, List.mem_cons, List.not_mem_nil, or_false, Adr.CHIP_MODE, Adr.DS_CTL, Adr.LD_HOLD_STAT, Adr.TEAM_BP_CTL]
  omega

theorem Calm.leaveIdle (h : Calm r s) : Calm r s.leaveIdle := Calm.foldl _ (h.record ..) fun _ _ hu => hu.record ..

/-- A new mode leaves all that is calm but the field of the mode. -/
theorem setMode_calm {m : Nat} (h : s.mode ≠ m) : ∃ v, Calm s v ∧ Calm (v.put Reg.CHIP_MODE_MODE m) (s.setMode m) := by
  unfold State.setMode
  extract_lets old s0 hx s1 s2
  rw [if_neg h]
  have h0 : Calm s s0 := Calm.ite (Calm.refl s) (Calm.refl s).disarm
  have h1 : Calm s s1 := Calm.ite h0 (h0.record ..)
  have h2 : Calm s s2 := Calm.ite h1 h1.leaveIdle
  exact ⟨s2, h2, ((Calm.refl _).groomRec _ _ _ _).postEvent _ _⟩

theorem Calm.hitchBanks (h : Calm r s) : Calm r s.hitchBanks := by
  unfold State.hitchBanks
  have h1 := h.put (f := Reg.HT_STAT_RELEASED) ((List.range 8).foldl (fun n b => n + ofBool (s.bankReleased b) * 2 ^ b) 0) (by decide)
  exact Calm.ite h1 (h1.record ..)

/-- Of the scheduler's state only what a decision has changed goes back, and nothing without a decision. -/
theorem undecide_ds (s : State) : s.undecide.ds = { s.ds with
      choice := s.undecide.ds.choice, prior := s.undecide.ds.prior, wanted := s.undecide.ds.wanted, delay := s.undecide.ds.delay,
      decided := s.undecide.ds.decided }
    ∧ (s.ds.choice = none → s.undecide.ds = s.ds) := by
  refine ⟨?_, fun h => by rw [undecide_of_none (.inl h)]⟩
  by_cases h : ∃ w k p, s.ds.choice = some (w, k) ∧ s.ds.prior = some p ∧ s.held = true ∧ s.holdH ≤ k
  · obtain ⟨w, k, p, hchoice, hprior, hheld, hk⟩ := h
    rw [(undecide_of_barred hchoice hprior hheld hk).1]
  · suffices hsame : s.undecide = s by rw [hsame]
    match hchoice : s.ds.choice, hprior : s.ds.prior with
    | none, _ => exact undecide_of_none (.inl hchoice)
    | some _, none => exact undecide_of_none (.inr (.inl hprior))
    | some (w, k), some p =>
      cases hheld : s.held
      · exact undecide_of_none (.inr (.inr hheld))
      · exact undecide_of_early hchoice hprior (Nat.lt_of_not_le fun hk => h ⟨w, k, p, hchoice, hprior, hheld, hk⟩)

/-- The registers of a hold at `h`. -/
theorem holdShown_facts (h : Nat) :
    let u := ((s.set1 Reg.LD_HOLD_STAT_HELD).clr Reg.LD_HOLD_STAT_AT_H).putPair Adr.LD_HOLD_H_LO Adr.LD_HOLD_H_HI h
    u.on Reg.LD_HOLD_STAT_HELD = true ∧ u.rd Adr.DS_CTL = s.rd Adr.DS_CTL ∧ u.rd Adr.CHIP_MODE = s.rd Adr.CHIP_MODE
      ∧ s.OnlyRegs u := by
  intro u
  have hkeep : ∀ a, a ∈ [Adr.DS_CTL, Adr.CHIP_MODE] → u.rd a = s.rd a := fun a ha => by
    have hother : a ≠ Adr.LD_HOLD_H_LO ∧ a ≠ Adr.LD_HOLD_H_HI ∧ a ≠ Adr.LD_HOLD_STAT := by
      revert a
      decide
    obtain ⟨hlo, hhi, hstat⟩ := hother
    exact (State.rd_wr_other _ _ hhi).trans ((State.rd_wr_other _ _ hlo).trans ((State.rd_put_other _ _ hstat).trans
      (State.rd_put_other _ _ hstat)))
  refine ⟨?_, hkeep _ (by decide), hkeep _ (by decide),
    ((((State.OnlyRegs.refl s).put _ _).put _ _).wr _ _).wr _ _⟩
  exact (on_eq_of_rd ((State.rd_wr_other _ _ (by decide)).trans (State.rd_wr_other _ _ (by decide)))).trans
    ((State.on_clr_other _ (Fld.ok_of _ rfl) (.inr (by decide))).trans (State.on_set1_same _ (Fld.ok_of _ rfl)))

/-- A hold that is asked for is in effect afterwards; only an undone decision and the registers of holds change. -/
theorem adoptHold_facts (s : State) (h reason part : Nat) (via : List Nat) :
    let u := s.adoptHold h reason part via
    u.held = true ∧ u.rd Adr.DS_CTL = s.rd Adr.DS_CTL ∧ u.rd Adr.CHIP_MODE = s.rd Adr.CHIP_MODE ∧ u.tb = s.tb ∧ u.fuses = s.fuses
      ∧ u.sec = s.sec ∧ u.chip.image = s.chip.image
      ∧ u.ds = { s.ds with
          choice := u.ds.choice, prior := u.ds.prior, wanted := u.ds.wanted, delay := u.ds.delay, decided := u.ds.decided }
      ∧ (s.ds.choice = none → u.ds = s.ds) := by
  unfold State.adoptHold
  extract_lets late hh s1 s2 c2 s3 u
  by_cases hsame : (s.held && decide (hh ≤ s.holdH)) = true
  · have hu : u = s := if_pos hsame
    rw [hu]
    exact ⟨(Bool.and_eq_true_iff.mp hsame).1, rfl, rfl, rfl, rfl, rfl, rfl, rfl, fun _ => rfl⟩
  · have hu : u = s3.undecide.sayAll via (msgHold hh s.epoch part reason) := if_neg hsame
    have h1 : Calm s s1 := Calm.ite (Calm.refl s) ((Calm.refl s).sat _ (by decide))
    obtain ⟨hset, hctl, hmode, l, hl⟩ : s2.on Reg.LD_HOLD_STAT_HELD = true ∧ s2.rd Adr.DS_CTL = s1.rd Adr.DS_CTL
      ∧ s2.rd Adr.CHIP_MODE = s1.rd Adr.CHIP_MODE ∧ s1.OnlyRegs s2 := holdShown_facts hh
    have h3 : Calm { s3 with ds := s3.undecide.ds } u := by
      rw [hu]
      exact (Calm.undecide s3).sayAll _ _
    have hds : u.ds = s3.undecide.ds := h3.ds
    have hdecision := undecide_ds s3
    clear_value u s2
    have hregs : ({ s3 with ds := s3.undecide.ds } : State).regs = s2.regs := rfl
    have hdata : s3.ds = s2.ds ∧ s3.tb = s2.tb ∧ s3.fuses = s2.fuses ∧ s3.sec = s2.sec ∧ s3.chip.image = s2.chip.image :=
      ⟨rfl, rfl, rfl, rfl, rfl⟩
    obtain ⟨hsds, htb, hfuses, hsec, himage⟩ := hdata
    clear_value s3 s1
    subst hl
    rw [hds]
    rw [hsds.trans h1.ds] at hdecision
    refine ⟨?_, (h3.regs Adr.DS_CTL (by decide)).trans ((rd_of_regs hregs _).trans (hctl.trans (h1.regs _ (by decide)))),
      (h3.regs Adr.CHIP_MODE (by decide)).trans ((rd_of_regs hregs _).trans (hmode.trans (h1.regs _ (by decide)))), h3.tb.trans (htb.trans h1.tb),
      h3.fuses.trans (hfuses.trans h1.fuses), h3.sec.trans (hsec.trans h1.sec), h3.image.trans (himage.trans h1.image),
      hdecision⟩
    exact (h3.on Reg.LD_HOLD_STAT_HELD (by decide)).trans ((on_of_regs hregs _).trans hset)

/-- The registers of the entry: QCAUSE holds the cause, and the device is not at rest. -/
theorem quarantineShown_facts (cause : Nat) :
    let u := (s.put Reg.CHIP_MODE_QCAUSE cause).clr Reg.CHIP_MODE_AT_REST
    u.get Reg.CHIP_MODE_QCAUSE = cause % 2 ^ 16 ∧ u.on Reg.CHIP_MODE_AT_REST = false ∧ u.mode = s.mode
      ∧ u.rd Adr.DS_CTL = s.rd Adr.DS_CTL ∧ u.rd Adr.LD_HOLD_STAT = s.rd Adr.LD_HOLD_STAT ∧ s.OnlyRegs u := by
  refine ⟨?_, State.on_clr_same _ (Fld.ok_of _ rfl), ?_, ?_, ?_, ((State.OnlyRegs.refl s).put _ _).put _ _⟩
  · exact (State.get_put_other _ _ (Fld.ok_of _ rfl) (.inr (by decide))).trans (State.get_put_same _ _ (Fld.ok_of _ rfl))
  · exact (State.get_put_other _ _ (Fld.ok_of _ rfl) (.inr (by decide))).trans (State.get_put_other _ _ (Fld.ok_of _ rfl) (.inr (by decide)))
  · exact (State.rd_put_other _ _ (by decide)).trans (State.rd_put_other _ _ (by decide))
  · exact (State.rd_put_other _ _ (by decide)).trans (State.rd_put_other _ _ (by decide))

theorem schedulerStopped_facts :
    let u := s.clr Reg.DS_CTL_EN
    u.on Reg.DS_CTL_EN = false ∧ u.rd Adr.CHIP_MODE = s.rd Adr.CHIP_MODE ∧ s.OnlyRegs u :=
  ⟨State.on_clr_same _ (Fld.ok_of _ rfl), State.rd_put_other _ _ (by decide), (State.OnlyRegs.refl s).put _ _⟩

/-- The state in which the entry changes the mode: the scheduler is disabled, the hold adopted and the cause noted. -/
def State.quarantined (s : State) (cause cinfo : Nat) : State :=
  let s1 := s.clr Reg.DS_CTL_EN
  let s2 := s1.adoptHold s1.nextIssue (causeReason cause) s1.part (s1.usedLinks.filter s1.linkUp)
  let s3 := ((s2.freezeRec 4 6 0x02 (argOf cause cinfo)).alert 0).capQuarantine
  let s4 := (s3.put Reg.CHIP_MODE_QCAUSE cause).clr Reg.CHIP_MODE_AT_REST
  { s4 with sb := { s4.sb with qcause := cause }, chip := { s4.chip with restored := false } }

theorem quarantined_facts (s : State) (cause cinfo : Nat) :
    let u := s.quarantined cause cinfo
    u.mode = s.mode ∧ u.on Reg.DS_CTL_EN = false ∧ u.held = true ∧ u.get Reg.CHIP_MODE_QCAUSE = cause % 2 ^ 16
      ∧ u.sb.qcause = cause ∧ u.chip.restored = false ∧ u.on Reg.CHIP_MODE_AT_REST = false ∧ u.tb = s.tb
      ∧ u.ds = { s.ds with
          choice := u.ds.choice, prior := u.ds.prior, wanted := u.ds.wanted, delay := u.ds.delay, decided := u.ds.decided }
      ∧ (s.ds.choice = none → u.ds = s.ds)
      ∧ u.fuses = s.fuses ∧ u.sec = s.sec ∧ u.chip.image = s.chip.image := by
  unfold State.quarantined
  extract_lets s1 s2 s3 s4 b5 c5 u
  obtain ⟨hen1, hmode1, hl1⟩ : s1.on Reg.DS_CTL_EN = false ∧ s1.rd Adr.CHIP_MODE = s.rd Adr.CHIP_MODE ∧ s.OnlyRegs s1 :=
    schedulerStopped_facts
  obtain ⟨hheld2, hctl2, hmode2, htb2, hfuses2, hsec2, himage2, hds2, hnone2⟩ :=
    adoptHold_facts s1 s1.nextIssue (causeReason cause) s1.part (s1.usedLinks.filter s1.linkUp)
  have h3 : Calm s2 s3 := (((Calm.refl s2).freezeRec _ _ _ _).alert _).capQuarantine
  obtain ⟨hcause4, hrest4, hmode4, hctl4, hhold4, hl4⟩ := quarantineShown_facts (s := s3) cause
  have e2 : s2 = s1.adoptHold s1.nextIssue (causeReason cause) s1.part (s1.usedLinks.filter s1.linkUp) := rfl
  have e4 : s4 = (s3.put Reg.CHIP_MODE_QCAUSE cause).clr Reg.CHIP_MODE_AT_REST := rfl
  rw [← e2] at hheld2 hctl2 hmode2 htb2 hfuses2 hsec2 himage2 hds2 hnone2
  rw [← e4] at hcause4 hrest4 hmode4 hctl4 hhold4 hl4
  have hregs : u.regs = s4.regs := rfl
  clear e2 e4
  clear_value s4 s3 s2 s1
  obtain ⟨l1, rfl⟩ := hl1
  obtain ⟨l4, rfl⟩ := hl4
  have hds : u.ds = s2.ds := h3.ds
  rw [hds]
  refine ⟨(State.get_eq_of_rd (rd_of_regs hregs _)).trans (hmode4.trans ?_),
    (on_of_regs hregs _).trans ((on_eq_of_rd hctl4).trans ((h3.on _ (by decide)).trans ((on_eq_of_rd hctl2).trans hen1))),
    (on_of_regs hregs _).trans ((on_eq_of_rd hhold4).trans ((h3.on _ (by decide)).trans hheld2)),
    (State.get_eq_of_rd (rd_of_regs hregs _)).trans hcause4, rfl, rfl, (on_of_regs hregs _).trans hrest4, h3.tb.trans htb2,
    hds2, hnone2, h3.fuses.trans hfuses2, h3.sec.trans hsec2, h3.image.trans himage2⟩
  exact (h3.get Reg.CHIP_MODE_MODE (by decide)).trans ((State.get_eq_of_rd hmode2).trans (State.get_eq_of_rd hmode1))

theorem enterQuarantine_entered {cause cinfo : Nat} (hrun : s.chip.halted = false) (hmode : s.mode ≠ mQuarantine) :
    ∃ v, Calm (s.quarantined cause cinfo) v ∧ Calm (v.put Reg.CHIP_MODE_MODE mQuarantine) (s.enterQuarantine cause cinfo) := by
  obtain ⟨v, hv, hset⟩ := setMode_calm (s := s.quarantined cause cinfo) (m := mQuarantine)
    (by rw [(quarantined_facts s cause cinfo).1]; exact hmode)
  refine ⟨v, hv, ?_⟩
  have heq : s.enterQuarantine cause cinfo = (((((s.quarantined cause cinfo).setMode mQuarantine).hitchBanks).postEvent 3
      ⟨0x0002, 16, packBytes [(16, 2, cause), (24, 8, s.stride)]⟩).raise 8).endLongMode mQuarantine :=
    (if_neg (by simp [hrun])).trans (if_neg hmode)
  rw [heq]
  exact ((hset.hitchBanks.postEvent _ _).raise _).endLong _

/-- The state of a device that has entered QUARANTINE. -/
theorem quarantine_facts (s : State) (cause cinfo : Nat) (hrun : s.chip.halted = false) (hmode : s.mode ≠ mQuarantine) :
    let u := s.enterQuarantine cause cinfo
    u.mode = mQuarantine ∧ u.on Reg.DS_CTL_EN = false ∧ u.held = true ∧ u.get Reg.CHIP_MODE_QCAUSE = cause % 2 ^ 16
      ∧ u.sb.qcause = cause ∧ u.chip.restored = false ∧ u.on Reg.CHIP_MODE_AT_REST = false ∧ u.tb = s.tb
      ∧ u.ds = { s.ds with
          choice := u.ds.choice, prior := u.ds.prior, wanted := u.ds.wanted, delay := u.ds.delay, decided := u.ds.decided }
      ∧ (s.ds.choice = none → u.ds = s.ds)
      ∧ u.fuses = s.fuses ∧ u.sec = s.sec ∧ u.chip.image = s.chip.image := by
  intro u
  obtain ⟨v, hv, hu⟩ := enterQuarantine_entered (cause := cause) (cinfo := cinfo) hrun hmode
  obtain ⟨-, hen, hheld, hcause, hqcause, hrestored, hrest, htb, hds, hnone, hfuses, hsec, himage⟩ := quarantined_facts s cause cinfo
  have eds : u.ds = (s.quarantined cause cinfo).ds := hu.ds.trans hv.ds
  rw [eds]
  refine ⟨(hu.get Reg.CHIP_MODE_MODE (by decide)).trans (State.get_put_same _ _ (Fld.ok_of _ rfl)), ?_, ?_, ?_, hu.qcause.trans (hv.qcause.trans hqcause),
    hu.restored.trans (hv.restored.trans hrestored), ?_, hu.tb.trans (hv.tb.trans htb), hds, hnone, hu.fuses.trans (hv.fuses.trans hfuses),
    hu.sec.trans (hv.sec.trans hsec), hu.image.trans (hv.image.trans himage)⟩
  · exact (hu.on Reg.DS_CTL_EN (by decide)).trans ((on_eq_of_rd (State.rd_put_other _ _ (by decide))).trans ((hv.on _ (by decide)).trans hen))
  · exact (hu.on Reg.LD_HOLD_STAT_HELD (by decide)).trans
      ((on_eq_of_rd (State.rd_put_other _ _ (by decide))).trans ((hv.on _ (by decide)).trans hheld))
  · exact (hu.get Reg.CHIP_MODE_QCAUSE (by decide)).trans
      ((State.get_put_other _ _ (Fld.ok_of _ rfl) (.inr (by decide))).trans ((hv.get _ (by decide)).trans hcause))
  · refine (hu.on Reg.CHIP_MODE_AT_REST (by decide)).trans ((congrArg (· != 0) ?_).trans ((hv.on _ (by decide)).trans hrest))
    exact State.get_put_other _ _ (Fld.ok_of _ rfl) (.inr (by decide))

theorem endLong_halted (s : State) (a : Resp) : (s.endLong a).chip.halted = s.chip.halted := by
  unfold State.endLong
  split <;> rfl

/-- RUN_ABORT has its turn only in a mode with strides, so neither in QUARANTINE nor in the halt (R389). -/
theorem runAbort_strideMode {i : Nat} {c : Taken} (ht : s.turn 3 0x0303 i c) : s.strideMode = true := by
  have hpre := ht.2.1
  rw [pre_eq] at hpre
  have hmodes : s.modeOk 0x0303 c.desc = s.strideMode := rfl
  rw [hmodes] at hpre
  by_contra hno
  rw [if_pos (Bool.eq_false_iff.mpr hno)] at hpre
  split at hpre <;> cases hpre

/-- Settles O60: what the entry writes, the hold it adopts, and a frame argument for everything after. -/
theorem quarantineIsEntered : Obligations.QuarantineIsEntered := by
  refine ⟨quarantine_facts, fun s cause cinfo hrun hmode => ?_, fun s cause cinfo hhalt => if_pos hhalt, fun s i c ht => ?_⟩
  · exact (if_neg (by simp [hrun])).trans (if_pos hmode)
  · have hstride := runAbort_strideMode ht
    have hrun : s.chip.halted = false ∧ s.mode ≠ mQuarantine := by
      unfold State.strideMode at hstride
      rw [Bool.and_eq_true_iff] at hstride
      refine ⟨by simpa using hstride.1, fun hq => ?_⟩
      rw [hq] at hstride
      exact absurd hstride.2 (by decide)
    have hended : Calm s ((s.less 3 i).endLong (errResp 0x22 0 0 0)) := ((Calm.refl s).onBox _ _).endLong _
    obtain ⟨hmode, hen, -⟩ := quarantine_facts ((s.less 3 i).endLong (errResp 0x22 0 0 0)) qHostAbort 0
      ((endLong_halted _ _).trans hrun.1) (by rw [show State.mode _ = s.mode from hended.get _ (by decide)]; exact hrun.2)
    have hanswer := (Calm.refl (((s.less 3 i).endLong (errResp 0x22 0 0 0)).enterQuarantine qHostAbort 0)).respond 3 c false okResp
    exact ⟨_, congrArg Host.Outcome.next (State.cmd_turn ht _), (hanswer.get _ (by decide)).trans hmode,
      (hanswer.on _ (by decide)).trans hen⟩

end Sys2Proof.Machine
end

section
/-! Writes of the Slot Schedule and the arming of a swap (R136, R137). -/
namespace Sys2Proof.Machine

section Slots

variable {s : State} {t : Nat}

theorem ssW1_shadow (w : W24) (hset : s.on (Reg.RTR_SS_IDX_SET t) = true) (harm : s.on (Reg.RTR_CTL_SWAP_ARM t) = false) :
    let r := s.router t
    let i := s.get (Reg.RTR_SS_IDX_INDEX t)
    State.ssW1 t w s = (s.setRouter t { r with shd := Tab.set (slotDef r.gen 1) r.shd i (w ++ r.w0) }).put (Reg.RTR_SS_IDX_INDEX t)
      ((i + 1) % 512) :=
  (if_pos hset).trans (if_neg (Bool.eq_false_iff.mp harm))

theorem ssW1_active (w : W24) (hset : s.on (Reg.RTR_SS_IDX_SET t) = false) (hmode : s.mode = mIdle ∨ s.mode = mLoad) :
    let r := s.router t
    let i := s.get (Reg.RTR_SS_IDX_INDEX t)
    State.ssW1 t w s = (s.setRouter t { r with act := Tab.set (slotDef r.gen 0) r.act i (w ++ r.w0) }).put (Reg.RTR_SS_IDX_INDEX t)
      ((i + 1) % 512) :=
  (if_neg (Bool.eq_false_iff.mp hset)).trans (if_pos hmode)

/-- The shadow set is closed while a swap is armed, the active set outside IDLE and LOAD. -/
theorem ssW1_locked (w : W24) (h : (s.on (Reg.RTR_SS_IDX_SET t) = true ∧ s.on (Reg.RTR_CTL_SWAP_ARM t) = true)
      ∨ (s.on (Reg.RTR_SS_IDX_SET t) = false ∧ s.mode ≠ mIdle ∧ s.mode ≠ mLoad)) :
    State.ssW1 t w s = s.set1 (Reg.RTR_ERR_SS_LOCKED t) := by
  obtain ⟨hset, harm⟩ | ⟨hset, hidle, hload⟩ := h
  · exact (if_pos hset).trans (if_pos harm)
  · exact (if_neg (Bool.eq_false_iff.mp hset)).trans (if_neg (not_or.mpr ⟨hidle, hload⟩))

theorem swapArm_late (harm : s.on (Reg.RTR_CTL_SWAP_ARM t) = false) (h : (s.team t).stride.toNat + 1 < s.swapStride t) :
    State.swapArm t s = (s.set1 (Reg.RTR_CTL_SWAP_ARM t)).setRouter t { s.router t with scan := true } :=
  (if_neg (Bool.eq_false_iff.mp harm)).trans (if_neg (Nat.not_le.mpr h))

theorem swapArm_stale (harm : s.on (Reg.RTR_CTL_SWAP_ARM t) = false) (h : s.swapStride t ≤ (s.team t).stride.toNat + 1) :
    State.swapArm t s = s.set1 (Reg.RTR_ERR_ARM_STALE t) :=
  (if_neg (Bool.eq_false_iff.mp harm)).trans (if_pos h)

theorem swapScan_eq (h : (s.router t).scan = true) :
    let a := s.setRouter t { s.router t with scan := false }
    State.swapScan t s = if s.setBad t (shdValid (s.router t)) = none then a
      else (a.clr (Reg.RTR_CTL_SWAP_ARM t)).set1 (Reg.RTR_ERR_SCAN_ERR t) := by
  refine (if_pos h).trans ?_
  cases s.setBad t (shdValid (s.router t)) <;> rfl

end Slots

/-- Settles O17. -/
theorem slotEntriesAreWritten : Obligations.SlotEntriesAreWritten := by
  intro t s ht r i
  have hrun (f : State → State) : onMapped t s f = .next (f s) := onMapped_on ht f
  refine ⟨fun w => hrun _, fun w hset harm => ?_, fun w hset hmode => ?_, fun w h => ?_, fun harm h => ?_, fun harm h => ?_,
    fun harm => ?_, fun h => ?_, fun h hgood => ?_, fun h hbad => ?_⟩
  · exact (hrun _).trans (congrArg _ (ssW1_shadow w hset harm))
  · exact (hrun _).trans (congrArg _ (ssW1_active w hset hmode))
  · exact (hrun _).trans (congrArg _ (ssW1_locked w h))
  · exact (hrun _).trans (congrArg _ (swapArm_late harm h))
  · exact (hrun _).trans (congrArg _ (swapArm_stale harm h))
  · exact (hrun _).trans (congrArg _ (if_pos harm))
  · exact (hrun _).trans (congrArg _ (if_neg (Bool.eq_false_iff.mp h)))
  · exact (hrun _).trans (congrArg _ ((swapScan_eq h).trans (if_pos hgood)))
  · exact (hrun _).trans (congrArg _ ((swapScan_eq h).trans (if_neg hbad)))

end Sys2Proof.Machine
end

section
/-! Flits that arrive at a router (R121 to R128, R145, R153). -/
namespace Sys2Proof.Machine

section Flits

variable {s : State} {t p : Nat} {c : Check} {x : XFlit} {rest : List XFlit}

theorem onRouter_setRouter (m : Router) (f : Router → Router) : (s.setRouter t m).onRouter t f = s.setRouter t (f m) := by
  rw [State.onRouter_def, State.router_setRouter_same, State.setRouter_setRouter]

theorem router_set1If (b : Bool) (f : Fld) : (s.set1If b f).router t = s.router t := by cases b <;> rfl

theorem flitReceive_disorder (hwire : look (s.router t).wire p = x :: rest) (h : x.seq ≠ look (s.router t).rxSeq p) :
    State.flitReceive t p c s = s.setRouter t { s.router t with wire := upd (s.router t).wire p rest } := by
  unfold State.flitReceive
  dsimp only
  rw [hwire]
  exact if_pos h

theorem flitReceive_fails (hwire : look (s.router t).wire p = x :: rest) (hseq : x.seq = look (s.router t).rxSeq p)
    (hbad : c = .double ∨ tagLegal x.tag = false) :
    let r := s.router t
    let n := look r.fails p + 1
    let b := (s.setRouter t { r with wire := upd r.wire p rest, await := upd r.await p true, fails := upd r.fails p n }).sat
      (Reg.RTR_REPLAY_COUNT t) 1
    State.flitReceive t p c s = if n = 8 then (b.set1 (Reg.RTR_ERR_LINK_PERSIST t)).groomRec 3 3 0x17 (argOf t p) else b := by
  unfold State.flitReceive
  dsimp only
  rw [hwire]
  refine (if_neg (not_not.mpr hseq)).trans ((if_pos hbad).trans ?_)
  unfold State.flitFail
  simp only [State.router_setRouter_same, State.setRouter_setRouter]

/-- The router of a flit that is in order and good: it is counted, and the replay that the port awaited has come. -/
def Router.counted (r : Router) (p : Nat) (x : XFlit) (rest : List XFlit) : Router :=
  { r with wire := upd r.wire p rest, rxSeq := upd r.rxSeq p (x.seq + 1), await := upd r.await p false, fails := upd r.fails p 0 }

theorem flitReceive_good (hwire : look (s.router t).wire p = x :: rest) (hseq : x.seq = look (s.router t).rxSeq p)
    (hgood : c ≠ .double) (htag : tagLegal x.tag = true) :
    let b := (s.setRouter t ((s.router t).counted p x rest)).set1If (c == .single) (Reg.RTR_ERR_FLIT_CE t)
    State.flitReceive t p c s = if x.tag = 0 then b.takeStatic t p x.data else b.takeDynamic t p x.tag x.data := by
  unfold State.flitReceive
  dsimp only
  rw [hwire]
  refine (if_neg (not_not.mpr hseq)).trans ((if_neg (by simp [hgood, htag])).trans ?_)
  rw [onRouter_setRouter]
  rfl

theorem takeStatic_full {d : Flit} (h : 24 ≤ (look (s.router t).inq p).length) : s.takeStatic t p d = s.rtrFault t 1 0 p 0 := if_pos h

theorem takeStatic_queued {d : Flit} (h : (look (s.router t).inq p).length < 24) :
    s.takeStatic t p d = (s.setRouter t { s.router t with inq := pushAt (s.router t).inq p d }).qbound t p :=
  if_neg (Nat.not_le.mpr h)

theorem takeDynamic_part {tag : Nat} {d h : Flit} {body : List Flit} (hgot : look (s.router t).part (2 * p + tagVC tag) ++ [d] = h :: body)
    (hlen : body.length ≠ pLEN ⟨h, body⟩) :
    s.takeDynamic t p tag d
      = s.setRouter t { s.router t with part := upd (s.router t).part (2 * p + tagVC tag) (h :: body) } := by
  unfold State.takeDynamic
  dsimp only
  rw [hgot]
  exact if_neg hlen

theorem takeDynamic_whole {tag : Nat} {d h : Flit} {body : List Flit} (hgot : look (s.router t).part (2 * p + tagVC tag) ++ [d] = h :: body)
    (hlen : body.length = pLEN ⟨h, body⟩) :
    let k := 2 * p + tagVC tag
    let u := (s.setRouter t { s.router t with part := upd (s.router t).part k [] }).probePacket t p 0 ⟨h, body⟩
    s.takeDynamic t p tag d = if (s.router t).drain = true then (u.absorb t ⟨h, body⟩ 2).giveCredit t k (body.length + 1)
      else u.onRouter t (fun r => { r with dyn := pushAt r.dyn k ⟨h, body⟩ }) := by
  unfold State.takeDynamic
  dsimp only
  rw [hgot]
  exact if_pos hlen

end Flits

/-- Settles O18. -/
theorem flitsAreChecked : Obligations.FlitsAreChecked := by
  intro t p s ht r
  have hrun (f : State → State) : onMapped t s f = .next (f s) := onMapped_on ht f
  refine ⟨fun c x rest harmed hwire => ?_, fun c h => ?_, fun h => ?_, fun h => ?_, fun vc h => ?_, fun vc h => ?_⟩
  · have hreceive : exec (.flitReceive t p c) s = .next (s.flitReceive t p c) := (hrun _).trans (congrArg _ (if_pos harmed))
    rw [hreceive]
    refine ⟨fun hseq => congrArg _ (flitReceive_disorder hwire hseq), fun hseq hbad => congrArg _ (flitReceive_fails hwire hseq hbad),
      fun hseq hgood htag => ?_⟩
    intro q b
    have hb : b.router t = q := (router_set1If _ _).trans (State.router_setRouter_same _ _ _)
    rw [show s.flitReceive t p c = if x.tag = 0 then b.takeStatic t p x.data else b.takeDynamic t p x.tag x.data from
      flitReceive_good hwire hseq hgood htag]
    clear_value b
    refine ⟨fun htag0 hfull => ?_, fun htag0 hroom => ?_, fun htag0 h body hgot => ?_⟩
    · rw [if_pos htag0, takeStatic_full (by rw [hb]; exact hfull)]
    · rw [if_pos htag0, takeStatic_queued (by rw [hb]; exact hroom), hb]
    · rw [← show (b.router t).part = r.part by rw [hb]] at hgot
      rw [if_neg htag0]
      refine ⟨fun hlen => ?_, fun hlen hdrain => ?_, fun hlen hdrain => ?_⟩
      · rw [takeDynamic_part hgot hlen, hb]
      · rw [takeDynamic_whole hgot hlen, if_neg (by rw [hb]; exact Bool.eq_false_iff.mp hdrain), hb]
      · rw [takeDynamic_whole hgot hlen, if_pos (by rw [hb]; exact hdrain), hb]
  · refine (hrun _).trans (congrArg _ ?_)
    obtain harmed | hwire := h
    · exact if_neg (Bool.eq_false_iff.mp harmed)
    · have hidle : s.flitReceive t p c = s := by
        unfold State.flitReceive
        dsimp only
        rw [hwire]
      rw [hidle, ite_self]
  · exact (hrun _).trans (congrArg _ (if_pos h))
  · exact (hrun _).trans (congrArg _ (if_neg (Bool.eq_false_iff.mp h)))
  · exact (hrun _).trans (congrArg _ (if_pos h))
  · exact (hrun _).trans (congrArg _ (if_neg (Bool.eq_false_iff.mp h)))

end Sys2Proof.Machine
end

section
/-! Packets are injected, routed and probed (R142 to R148, R155). -/
namespace Sys2Proof.Machine

/-! ### Injection -/

/-- The packet at place `i` may not be injected: one of its point and class precedes it, its router is frozen or its point isolated. -/
def State.heldBack (s : State) (t i : Nat) (p : Packet) : Prop :=
  ((s.router t).inject.take i).any (fun q => pointOf q == pointOf p && pCLASS q == pCLASS p) = true
    ∨ s.on (Reg.RTR_CTL_FREEZE t) = true ∨ (pSTGT p = 1 ∧ s.on (Reg.RTR_CTL_ISOLATE_ATT t) = true)
    ∨ (pSTGT p = 0 ∧ s.on (Reg.RTR_CTL_ISOLATE t) = true)

section Inject

variable {s : State} {t i : Nat} {p : Packet}

theorem heldBack_iff : (((s.router t).inject.take i).any (fun q => pointOf q == pointOf p && pCLASS q == pCLASS p)
    || s.on (Reg.RTR_CTL_FREEZE t)
    || (if pointOf p = 1 then s.on (Reg.RTR_CTL_ISOLATE_ATT t) else pSTGT p == 0 && s.on (Reg.RTR_CTL_ISOLATE t))) = true
      ↔ s.heldBack t i p := by
  have hpoint : (if pointOf p = 1 then s.on (Reg.RTR_CTL_ISOLATE_ATT t) else pSTGT p == 0 && s.on (Reg.RTR_CTL_ISOLATE t)) = true
      ↔ (pSTGT p = 1 ∧ s.on (Reg.RTR_CTL_ISOLATE_ATT t) = true) ∨ (pSTGT p = 0 ∧ s.on (Reg.RTR_CTL_ISOLATE t) = true) := by
    unfold pointOf
    by_cases h : pSTGT p = 1 <;> simp [h]
  rw [Bool.or_eq_true, Bool.or_eq_true, hpoint, or_assoc]
  rfl

theorem packetInject_held (hp : (s.router t).inject[i]? = some p) (h : s.heldBack t i p) : State.packetInject t i s = s := by
  unfold State.packetInject
  dsimp only
  rw [hp]
  exact if_pos (heldBack_iff.mpr h)

theorem packetInject_goes (hp : (s.router t).inject[i]? = some p) (h : ¬ s.heldBack t i p) :
    let r := s.router t
    let n := p.body.length + 1
    let k := 8 * pointOf p + pCLASS p
    let a := s.setRouter t { r with inject := r.inject.eraseIdx i }
    State.packetInject t i s =
      if s.badDest p = true then if isReq p = true then a.injectLocal t (withPRI (errCpl t p 4) 1) else a
      else if pCLASS p = 7 then a.injectLocal t (withPRI p 1)
      else if n ≤ look r.tokens k then (s.setRouter t { r with
        inject := r.inject.eraseIdx i, tokens := upd r.tokens k (look r.tokens k - n) }).injectLocal t (withPRI p 1)
      else if s.on (Reg.RTR_REG_EXCESS (pCLASS p)) = true then a.injectLocal t (withPRI p 0) else s := by
  unfold State.packetInject
  dsimp only
  rw [hp]
  exact if_neg fun hb => h (heldBack_iff.mp hb)

end Inject

/-! ### The regulators -/

/-- A fold that writes each of the keys `b + c` once, from what the key held. -/
theorem look_foldl_upd (b : Nat) (F : Nat → Nat → Nat) {ks : List Nat} (hks : ks.Nodup) (l : List (Nat × Nat)) (j : Nat) :
    look (ks.foldl (fun l c => upd l (b + c) (F c (look l (b + c)))) l) j
      = if b ≤ j ∧ j - b ∈ ks then F (j - b) (look l j) else look l j := by
  induction ks generalizing l with
  | nil => simp
  | cons c ks ih =>
    obtain ⟨hc, hks⟩ := List.nodup_cons.mp hks
    rw [List.foldl_cons, ih hks]
    by_cases hj : j = b + c
    · subst hj
      simp [hc]
    · have hne : b ≤ j → j - b ≠ c := by omega
      rw [look_upd_other _ _ hj]
      by_cases hle : b ≤ j
      · simp [hle, hne hle]
      · simp [hle]

/-- A refill gives RATE tokens, up to BURST, to every class of both injection points. -/
theorem refill_tokens (s : State) (t : Nat) : ∃ l, State.refill t s = s.setRouter t { s.router t with tokens := l }
    ∧ ∀ (pt : Fin 2) (c : Fin 7), look l (8 * pt + c)
        = min (s.get (Reg.RTR_REG_BURST c)) (look (s.router t).tokens (8 * pt + c) + s.get (Reg.RTR_REG_RATE c)) := by
  let F (c n : Nat) : Nat := min (s.get (Reg.RTR_REG_BURST c)) (n + s.get (Reg.RTR_REG_RATE c))
  let fill (b : Nat) (l : List (Nat × Nat)) : List (Nat × Nat) := (List.range 7).foldl (fun l c => upd l (b + c) (F c (look l (b + c)))) l
  have hlook (b : Nat) (l : List (Nat × Nat)) (j : Nat) : look (fill b l) j = if b ≤ j ∧ j - b ∈ List.range 7 then F (j - b) (look l j)
      else look l j := look_foldl_upd b F List.nodup_range l j
  refine ⟨fill 8 (fill 0 (s.router t).tokens), rfl, fun pt c => ?_⟩
  have hc : (c : Nat) < 7 := c.isLt
  match pt with
  | 0 => rw [hlook, hlook, if_neg (by simp; omega), if_pos (by simp)]; simp [F]
  | 1 => rw [hlook, hlook, if_pos (by simp), if_neg (by simp; omega)]; simp [F]

/-! ### Routing -/

section Route

variable {s : State} {t out key : Nat} {p : Packet}

theorem wants_some {pri : Nat} (h : s.wants t out pri key = some p) :
    p ∈ look (s.router t).dyn key ∧ s.routePort t p = out ∧ pPRI p = pri := by
  have hp := List.find?_some h
  simp only [Bool.and_eq_true, beq_iff_eq] at hp
  exact ⟨List.mem_of_find?_eq_some h, hp⟩

/-- What an output takes waits for it and has credit, and one with PRI 0 is taken only where none with PRI 1 waits (R146). -/
theorem pick_some (h : s.pick t out = some (key, p)) :
    p ∈ look (s.router t).dyn key ∧ s.routePort t p = out ∧ s.hasCredit t out key p = true
      ∧ (pPRI p = 0 → ∀ j, j < 10 → ∀ q ∈ look (s.router t).dyn j, ¬ (s.routePort t q = out ∧ pPRI q = 1)) := by
  unfold State.pick at h
  extract_lets order pri at h
  obtain ⟨k, -, hk⟩ := List.exists_of_findSome?_eq_some h
  split at hk
  next q hq =>
    split at hk
    next hcredit =>
      cases hk
      obtain ⟨hmem, hport, hpri⟩ := wants_some hq
      refine ⟨hmem, hport, hcredit, fun hp0 j hj q hq ⟨hout, hq1⟩ => ?_⟩
      have hnone : order.any (fun key => (s.wants t out 1 key).isSome) = false := by
        rw [hp0] at hpri
        cases hany : order.any (fun key => (s.wants t out 1 key).isSome)
        · rfl
        · rw [show pri = 1 by simp [pri, hany, ofBool]] at hpri
          cases hpri
      have hj' : j ∈ order := by
        refine List.mem_map.mpr ⟨(j + 10 - (look (s.router t).rr out + 1) % 10) % 10, List.mem_range.mpr (Nat.mod_lt _ (by decide)), ?_⟩
        omega
      have hno := List.any_eq_false.mp hnone j hj'
      rw [Bool.not_eq_true, Option.isSome_eq_false_iff, Option.isNone_iff_eq_none, State.wants, List.find?_eq_none] at hno
      exact hno q hq (by simp [hout, hq1])
    next => cases hk
  next => cases hk

/-- The state in which a packet has left its buffer for an output, and the probes have seen it; `q` is the packet as it leaves. -/
def State.leftBuffer (s : State) (t out key b : Nat) (p q : Packet) : State :=
  let a := s.setRouter t { s.router t with
    dyn := upd (s.router t).dyn key ((look (s.router t).dyn key).erase p), rr := upd (s.router t).rr out key }
  let c := if key < 8 then a.giveCredit t key (p.body.length + 1) else a
  ((c.probeBlocked t (key / 2) 0 p b).probeBlocked t out 1 q b).probePacket t out 1 q

theorem packetRoute_local (b : Nat) (hgo : s.on (Reg.RTR_CTL_FREEZE t) = false ∨ (s.router t).drain = true)
    (hpick : s.pick t 4 = some (key, p)) :
    s.packetRoute t 4 b = (s.leftBuffer t 4 key b p p).onRouter t (fun r => { r with arrived := r.arrived ++ [p] }) := by
  unfold State.packetRoute
  rw [hpick, if_neg (by rcases hgo with h | h <;> simp [h])]
  rfl

theorem packetRoute_link (b : Nat) (hgo : s.on (Reg.RTR_CTL_FREEZE t) = false ∨ (s.router t).drain = true)
    (hpick : s.pick t out = some (key, p)) (hout : out ≠ 4) :
    let vc := s.outVC t (key / 2) (key % 2) out
    let q := withVC p vc
    s.packetRoute t out b = q.body.foldl (fun s f => s.sendFlit t out (tagBody vc) f)
      (((s.leftBuffer t out key b p q).onRouter t (fun r => { r with
        used := upd r.used (2 * out + vc) (look r.used (2 * out + vc) + (p.body.length + 1)) })).sendFlit t out (tagHead vc) q.head) := by
  unfold State.packetRoute
  rw [hpick, if_neg (by rcases hgo with h | h <;> simp [h])]
  dsimp only
  rw [if_neg hout, if_neg hout]
  rfl

end Route

/-! ### Probes -/

theorem each_of_same (s : State) (n : Nat) {f : Nat → State → State} (h : ∀ k, k < n → f k s = s) : s.each n f = s := by
  unfold State.each
  have hk : ∀ k ∈ List.range n, f k s = s := fun k hk => h k (List.mem_range.mp hk)
  revert hk
  generalize List.range n = l
  intro hk
  induction l with
  | nil => rfl
  | cons k l ih => 
    rw [List.foldl_cons, hk k List.mem_cons_self]
    exact ih fun j hj => hk j (List.mem_cons_of_mem _ hj)

theorem probeAt_disabled {s : State} {k : Nat} (h : s.on (Reg.RTR_PRB_CTL_EN k) = false) (t port dir : Nat) :
    s.probeAt k t port dir = false := by
  simp [State.probeAt, h]

theorem probes_disabled {s : State} (h : ∀ k : Fin 8, s.on (Reg.RTR_PRB_CTL_EN k) = false) (t port dir b : Nat) (p : Packet) :
    s.probePacket t port dir p = s ∧ s.probeBlocked t port dir p b = s :=
  ⟨each_of_same s 8 fun k hk => if_neg (by simp [probeAt_disabled (h ⟨k, hk⟩)]),
    each_of_same s 8 fun k hk => if_neg (by simp [probeAt_disabled (h ⟨k, hk⟩)])⟩

/-- Settles O19. -/
theorem packetsAreInjectedAndRouted : Obligations.PacketsAreInjectedAndRouted := by
  refine ⟨fun t i s ht => ?_, fun t s ht => ?_, fun t out b s ht => ?_, fun t port dir b p s hoff => ?_⟩
  · intro r
    have hrun : exec (.packetInject t i) s = .next (s.packetInject t i) := onMapped_on ht _
    rw [hrun]
    refine ⟨fun hnone => ?_, fun p hp => ?_⟩
    · unfold State.packetInject
      dsimp only
      rw [hnone]
    · intro n k prior a
      refine ⟨fun h => congrArg _ (packetInject_held hp h), fun hprior hfreeze hatt hteam => ?_⟩
      have hgo : ¬ s.heldBack t i p := by
        rintro (h | h | ⟨h1, h2⟩ | ⟨h1, h2⟩)
        · exact absurd (hprior.symm.trans h) (by decide)
        · exact absurd (hfreeze.symm.trans h) (by decide)
        · exact absurd ((hatt h1).symm.trans h2) (by decide)
        · exact absurd ((hteam h1).symm.trans h2) (by decide)
      rw [packetInject_goes hp hgo]
      refine ⟨fun hbad hreq => ?_, fun hbad hreq => ?_, fun hgood h7 => ?_, fun hgood h7 hpaid => ?_, fun hgood h7 hpoor =>
        ⟨fun hexcess => ?_, fun hexcess => ?_⟩⟩
      · exact congrArg _ ((if_pos hbad).trans (if_pos hreq))
      · exact congrArg _ ((if_pos hbad).trans (if_neg (Bool.eq_false_iff.mp hreq)))
      all_goals refine congrArg _ ((if_neg (Bool.eq_false_iff.mp hgood)).trans ?_)
      · exact if_pos h7
      · exact (if_neg h7).trans (if_pos hpaid)
      · exact (if_neg h7).trans ((if_neg (Nat.not_le.mpr hpoor)).trans (if_pos hexcess))
      · exact (if_neg h7).trans ((if_neg (Nat.not_le.mpr hpoor)).trans (if_neg (Bool.eq_false_iff.mp hexcess)))
  · obtain ⟨l, hl, htokens⟩ := refill_tokens s t
    exact ⟨l, (onMapped_on ht _).trans (congrArg _ hl), htokens⟩
  · have hrun : exec (.packetRoute t out b) s = .next (s.packetRoute t out b) := onMapped_on ht _
    rw [hrun]
    refine ⟨fun h => ?_, fun key p hpick => ⟨pick_some hpick, fun hgo => ?_⟩⟩
    · refine congrArg _ ?_
      unfold State.packetRoute
      obtain ⟨hfreeze, hdrain⟩ | hnone := h
      · exact if_pos (by simp [hfreeze, hdrain])
      · rw [hnone]
        exact ite_self _
    · intro n vc q a c d
      refine ⟨fun h => congrArg _ ?_, fun h => congrArg _ ?_⟩
      · have hq : q = p := if_pos h
        clear_value q
        subst h hq
        exact packetRoute_local b hgo hpick
      · have hq : q = withVC p vc := if_neg h
        clear_value q
        subst hq
        exact packetRoute_link b hgo hpick fun h4 => h (Fin.ext h4)
  · obtain ⟨hpacket, hblocked⟩ := probes_disabled hoff t port dir b p
    exact ⟨hpacket, hblocked, (probes_disabled (s := s.onRouter t fun r => { r with dyn := pushAt r.dyn 8 p }) hoff t 4 0 b p).1⟩

end Sys2Proof.Machine
end

section
/-! Freezing, isolation and dead targets of a router (R150 to R154). -/
namespace Sys2Proof.Machine

section Freeze

variable {s : State} {t : Nat}

theorem on_put_other {f g : Fld} (v : Nat) (hf : f.ok) (h : f.apart g) : (s.put f v).on g = s.on g :=
  congrArg (· != 0) (State.get_put_other s v hf h)

/-! ### Writes of RTR_CTL -/

/-- What a write of RTR_CTL makes of the isolation bits (R150, R454). -/
def State.isolated (s : State) (t : Nat) (v : Word) : State :=
  (if v.getLsbD 0 = false ∧ s.get (Reg.TEAM_PWR_STATE t) ≠ 1 then s.set1 (Reg.TEAM_PWR_PWR_REFUSED t)
    else s.put (Reg.RTR_CTL_ISOLATE t) (ofBool (v.getLsbD 0))).put (Reg.RTR_CTL_ISOLATE_ATT t) (ofBool (v.getLsbD 1))

theorem isolated_freeze (v : Word) : (s.isolated t v).on (Reg.RTR_CTL_FREEZE t) = s.on (Reg.RTR_CTL_FREEZE t) := by
  unfold State.isolated
  rw [on_put_other _ (Fld.ok_of _ rfl) (.inr (.inl (show 1 < 2 by decide)))]
  split
  · exact State.on_set1_other _ (Fld.ok_of _ rfl) (.inl (by simp only [Adr.TEAM_PWR, Adr.RTR_CTL]; omega))
  · exact on_put_other _ (Fld.ok_of _ rfl) (.inr (.inl (show 0 < 2 by decide)))

theorem isolated_router (v : Word) : (s.isolated t v).router t = s.router t := by
  unfold State.isolated
  rw [State.router_put]
  split <;> rfl

/-- A write of RTR_CTL that would freeze a router of a mode with strides without isolating anything (R154). -/
def State.freezeRefused (s : State) (t : Nat) (v : Word) : Prop :=
  v.getLsbD 2 = true ∧ s.on (Reg.RTR_CTL_FREEZE t) = false ∧ s.strideMode = true ∧ v.getLsbD 0 = false ∧ v.getLsbD 1 = false

theorem freezeRefused_iff (v : Word) :
    (v.getLsbD 2 && !s.on (Reg.RTR_CTL_FREEZE t) && s.strideMode && !(v.getLsbD 0 || v.getLsbD 1)) = true ↔ s.freezeRefused t v := by
  simp only [Bool.and_eq_true, Bool.not_eq_true', Bool.or_eq_false_iff, State.freezeRefused, and_assoc]

theorem rtrCtl_refused {v : Word} (late : Bool) (h : s.freezeRefused t v) : s.rtrCtl t v late = s.set1 (Reg.RTR_ERR_FRZ_REFUSED t) :=
  if_pos ((freezeRefused_iff v).mpr h)

/-- A write that is not refused: the isolation bits, FREEZE and the arming of a swap. -/
theorem rtrCtl_taken {v : Word} (late : Bool) (h : ¬ s.freezeRefused t v) :
    let a := s.isolated t v
    let b := if v.getLsbD 2 = true ∧ s.on (Reg.RTR_CTL_FREEZE t) = false then
        (a.set1 (Reg.RTR_CTL_FREEZE t)).set1 (Reg.RTR_STAT_FROZEN t)
      else if v.getLsbD 2 = false ∧ s.on (Reg.RTR_CTL_FREEZE t) = true then
        (a.unfreeze t).set1If (late && !(s.router t).drain) (Reg.RTR_STAT_FRZ_LATE t)
      else a
    s.rtrCtl t v late = if v.getLsbD 3 = true then b.swapArm t else b := by
  intro a b
  have hisolated : (if (!v.getLsbD 0 && s.get (Reg.TEAM_PWR_STATE t) != 1) = true then s.set1 (Reg.TEAM_PWR_PWR_REFUSED t)
      else s.put (Reg.RTR_CTL_ISOLATE t) (ofBool (v.getLsbD 0))).put (Reg.RTR_CTL_ISOLATE_ATT t) (ofBool (v.getLsbD 1)) = a := by
    simp only [Bool.and_eq_true, Bool.not_eq_true', bne_iff_ne]
    rfl
  have hfreeze : a.freezeBit t v late = b := by
    unfold State.freezeBit
    simp only [show a.on (Reg.RTR_CTL_FREEZE t) = s.on (Reg.RTR_CTL_FREEZE t) from isolated_freeze v,
      show a.router t = s.router t from isolated_router v, Bool.and_eq_true, Bool.not_eq_true']
    rfl
  unfold State.rtrCtl
  rw [if_neg fun hr => h ((freezeRefused_iff v).mp hr)]
  dsimp only
  rw [hisolated, hfreeze]

/-! ### Dead targets -/

theorem targetTimeout_idle (late : Bool) (h : (s.router t).arrived = [] ∨ ∃ p rest, (s.router t).arrived = p :: rest ∧ 2 ≤ pTGT p) :
    State.targetTimeout t late s = s := by
  unfold State.targetTimeout
  obtain hnone | ⟨p, rest, harr, htgt⟩ := h
  · dsimp only
    rw [hnone]
  · dsimp only
    rw [harr]
    exact if_pos htgt

theorem targetTimeout_late {p : Packet} {rest : List Packet} (harr : (s.router t).arrived = p :: rest) (htgt : pTGT p < 2) :
    State.targetTimeout t true s = s.set1 (Reg.RTR_STAT_TMO_LATE t) := by
  unfold State.targetTimeout
  dsimp only
  rw [harr]
  exact (if_neg (Nat.not_le.mpr htgt)).trans (if_pos rfl)

theorem targetTimeout_dead {p : Packet} {rest : List Packet} (harr : (s.router t).arrived = p :: rest) (htgt : pTGT p < 2) :
    let a := s.setRouter t { s.router t with arrived := rest }
    let b := if isReq p = true then a.injectLocal t (withPRI (errCpl t p 3) 1) else a
    let c := b.set1 (if pTGT p = 1 then Reg.RTR_CTL_ISOLATE_ATT t else Reg.RTR_CTL_ISOLATE t)
    State.targetTimeout t false s = ((c.set1 (Reg.RTR_STAT_DEAD t)).groomRec 3 3 0x18 (argOf t (pTGT p))).postEvent 3
      ⟨0x0009, 3, packBytes [(16, 2, t), (18, 1, pTGT p)]⟩ := by
  unfold State.targetTimeout
  dsimp only
  rw [harr]
  refine (if_neg (Nat.not_le.mpr htgt)).trans ((if_neg Bool.false_ne_true).trans ?_)
  unfold State.targetDead
  dsimp only
  rw [apply_ite (State.set1 _)]
  rfl

end Freeze

/-- Settles O20. -/
theorem freezingAndIsolation : Obligations.FreezingAndIsolation := by
  intro t s ht r
  have hrun (f : State → State) : onMapped t s f = .next (f s) := onMapped_on ht f
  refine ⟨fun v late => ?_, rfl, fun h => ?_, fun hfreeze hdrain => ?_, fun p n => ⟨fun h => ?_, fun h => ?_⟩, fun late h => ?_,
    fun p rest harr htgt => ⟨?_, ?_⟩⟩
  · intro refused
    rw [show exec (.freezeWrite t v late) s = .next (s.rtrCtl t v late) from onMapped_on ht (fun u => u.rtrCtl t v late),
      show exec (.isolateWrite t v) s = .next (s.rtrCtl t v false) from onMapped_on ht (fun u => u.rtrCtl t v false)]
    exact ⟨fun h => congrArg _ (rtrCtl_refused late h), fun h => congrArg _ (rtrCtl_refused false h),
      fun h => ⟨congrArg _ (rtrCtl_taken late h), congrArg _ (rtrCtl_taken false h)⟩⟩
  · refine (hrun _).trans (congrArg _ (if_neg ?_))
    rcases h with h | h <;> simp [h, r]
  · refine (hrun _).trans (congrArg _ (if_pos ?_))
    simp [hfreeze, hdrain, r]
  · exact if_pos h
  · exact if_neg (Bool.eq_false_iff.mp h)
  · exact (hrun _).trans (congrArg _ (targetTimeout_idle late h))
  · exact (hrun _).trans (congrArg _ (targetTimeout_late harr htgt))
  · exact (hrun _).trans (congrArg _ (targetTimeout_dead harr htgt))

end Sys2Proof.Machine
end

section
/-! Instruction Stores, patrols and the power of banks (R35, R94 to R99, R547). -/
namespace Sys2Proof.Machine

section Stores

variable {s : State} {t : Nat}

theorem storesOpen_iff : s.storesOpen t = true ↔ (s.mode = mIdle ∨ s.mode = mLoad) ∧ s.get (Reg.TEAM_PWR_STATE t) = 1 := by
  simp only [State.storesOpen, State.teamOn, Bool.and_eq_true, Bool.or_eq_true, beq_iff_eq]

theorem entry_setEntry (m : Team) (u a : Nat) (v : BitVec 72) (ha : a < 1024) {x y : Nat} (hy : y < 1024) :
    (m.setEntry u a v).entry x y = if x = u ∧ y = a then v else m.entry x y := by
  have hplace : 1024 * x + y = 1024 * u + a ↔ x = u ∧ y = a := by omega
  simp only [Team.setEntry, Team.entry, Tab.get_set, hplace]

/-- Word 2 completes an entry: it becomes the staged words and the word, and the two staging registers clear. -/
theorem commitEntry_facts (m : Team) (u a : Nat) (v : W24) (ha : a < 1024) :
    let k := m.commitEntry u a v
    let lo := if u = 64 then 2 else 0
    let hi := if u = 64 then 3 else 1
    (∀ x y : Nat, y < 1024 → k.entry x y = if x = u ∧ y = a then
        v ++ Tab.get (stageDef m.gen) m.stage hi ++ Tab.get (stageDef m.gen) m.stage lo else m.entry x y)
      ∧ Tab.get (stageDef m.gen) k.stage hi = 0 ∧ Tab.get (stageDef m.gen) k.stage lo = 0
      ∧ k = { m with store := k.store, stage := k.stage } := by
  intro k lo hi
  have hhi : lo + 1 = hi := by
    simp only [lo, hi]
    split <;> rfl
  have hk : k = { m.setEntry u a (v ++ Tab.get (stageDef m.gen) m.stage (lo + 1) ++ Tab.get (stageDef m.gen) m.stage (lo + 0)) with
      stage := Tab.set (stageDef m.gen) (Tab.set (stageDef m.gen) m.stage lo 0) (lo + 1) 0 } := rfl
  rw [hhi] at hk
  rw [hk]
  refine ⟨fun x y hy => entry_setEntry m u a _ ha hy, Tab.get_set_same _ _ _ _, ?_, rfl⟩
  exact (Tab.get_set_other _ _ _ (by omega)).trans (Tab.get_set_same _ _ _ _)

end Stores

/-- Settles O26. -/
theorem instructionStoresAreWritten : Obligations.InstructionStoresAreWritten := by
  intro t s ht m
  have hrun (f : State → State) : onMapped t s f = .next (f s) := onMapped_on ht f
  refine ⟨fun hmode hpwr => ⟨fun wu k v => ?_, fun u a v => ⟨m.commitEntry u a v, ?_, ?_⟩⟩, fun h => ?_⟩
  · exact (hrun _).trans (congrArg _ (if_pos (storesOpen_iff.mpr ⟨hmode, hpwr⟩)))
  · exact (hrun _).trans (congrArg _ (if_pos (storesOpen_iff.mpr ⟨hmode, hpwr⟩)))
  · exact commitEntry_facts m u a v a.isLt
  · have hclosed : ¬ s.storesOpen t = true := by
      rw [storesOpen_iff]
      tauto
    exact ⟨fun wu k v => (hrun _).trans (congrArg _ (if_neg hclosed)), fun u a v => (hrun _).trans (congrArg _ (if_neg hclosed))⟩

section Banks

variable {s : State} {t : Nat}

/-! ### Patrols -/

theorem patrol_idle {n : Nat} {ue : List (Fin 256 × BitVec 24)} {bad : List (Fin 256)}
    (h : s.on (Reg.TEAM_DM_CTL_PATROL_EN t) = false ∨ s.teamOn t = false ∨ s.nextRegion t (s.team t).patrolAt = none) :
    State.patrol t n ue bad s = s := by
  unfold State.patrol
  rcases h with h | h | h
  · exact if_neg (by simp [h])
  · exact if_neg (by simp [h])
  · rw [h]
    exact ite_self _

theorem patrol_tests {n r : Nat} {ue : List (Fin 256 × BitVec 24)} {bad : List (Fin 256)}
    (hen : s.on (Reg.TEAM_DM_CTL_PATROL_EN t) = true) (hon : s.teamOn t = true) (hr : s.nextRegion t (s.team t).patrolAt = some r) :
    let a := s.setTeam t { s.team t with patrolAt := (r + 1) % 128 }
    let b := if n = 0 then a else (a.corrected t (Reg.TEAM_DM_CECNT_DM_CECNT t) n).set1 (Reg.TEAM_DM_STAT_CE t)
    State.patrol t n ue bad s = bad.foldl (fun u p => u.patrolFail t (256 * r + p.val))
      (ue.foldl (fun u p => (u.onTeam t (fun m => m.setWord (256 * r + p.1) p.2)).dmUe t 0 (256 * r + p.1)) b) := by
  unfold State.patrol
  rw [hr]
  exact if_pos (by simp [hen, hon])

/-- The Instruction Store patrol has read its next entry. -/
theorem isPatrolRead_eq (c : Check) (hen : s.on (Reg.TEAM_DM_CTL_IS_PATROL_EN t) = true) (hon : s.teamOn t = true) :
    let m := s.team t
    let a := s.setTeam t { m with isPatrolAt := (m.isPatrolAt + 1) % (65 * 1024) }
    s.isPatrolRead t c = match c with
      | .ok => a
      | .single => (a.corrected t (Reg.TEAM_DM_CECNT_IS_CECNT t) 1).set1 (Reg.TEAM_DM_STAT_IS_CE t)
      | .double => a.isUe t (m.isPatrolAt / 1024) (m.isPatrolAt % 1024) := by
  refine (if_pos (by simp [hen, hon])).trans ?_
  cases c <;> rfl

theorem isPatrolStep_idle (c : Check) (n : Nat) (ue : Option (Fin 256)) (bad : Bool)
    (h : s.on (Reg.TEAM_DM_CTL_IS_PATROL_EN t) = false ∨ s.teamOn t = false) : State.isPatrolStep t c n ue bad s = s := by
  have hoff : ¬ (s.on (Reg.TEAM_DM_CTL_IS_PATROL_EN t) && s.teamOn t) = true := by rcases h with h | h <;> simp [h]
  have hread : s.isPatrolRead t c = s := if_neg hoff
  unfold State.isPatrolStep
  dsimp only
  rw [hread, if_neg (by rw [Bool.and_assoc, Bool.and_eq_true]; exact fun h => hoff h.2)]

/-- No region is tested where the device is not in IDLE, or leaves it. -/
theorem isPatrolStep_entry (c : Check) (n : Nat) (ue : Option (Fin 256)) (bad : Bool)
    (h : s.mode ≠ mIdle ∨ (s.isPatrolRead t c).mode ≠ mIdle) : State.isPatrolStep t c n ue bad s = s.isPatrolRead t c :=
  if_neg (by rcases h with h | h <;> simp [h])

theorem isPatrolStep_region (c : Check) (n : Nat) (ue : Option (Fin 256)) (bad : Bool)
    (hen : s.on (Reg.TEAM_DM_CTL_IS_PATROL_EN t) = true) (hon : s.teamOn t = true) (h : s.mode = mIdle)
    (h1 : (s.isPatrolRead t c).mode = mIdle) : State.isPatrolStep t c n ue bad s = (s.isPatrolRead t c).isRegionTest t n ue bad :=
  if_pos (by simp [hen, hon, h, h1])

/-! ### Bank power -/

theorem bankWrite_closed (b v : Nat)
    (h : s.teamOn t = false ∨ (s.mode ≠ mIdle ∧ s.mode ≠ mLoad ∧ s.mode ≠ mSnapshot ∧ s.mode ≠ mQuarantine)) :
    State.bankWrite t b v s = s := by
  refine if_neg fun ⟨hmode, hon⟩ => ?_
  rcases h with h | ⟨h0, h1, h2, h3⟩
  · exact absurd (h.symm.trans hon) (by decide)
  · rcases hmode with h | h | h | h <;> contradiction

/-- A bank is told to be ON: it is initialised, or comes back from RETENTION, and an ON bank stays. -/
theorem bankPower_on (b : Nat) :
    let a := s.put (pwrFld t b) 2
    let m := s.team t
    s.bankPower t b 2 = if s.get (pwrFld t b) = 2 then a
      else a.setTeam t (m.setBank b (if (m.bank b).valid = true then ⟨true, false, true⟩ else ⟨false, true, false⟩)) := rfl

/-- A bank goes to RETENTION or OFF; it keeps its words only where it has some and was ON or in RETENTION. -/
theorem bankPower_off {b v : Nat} (hv : v ≠ 2) :
    let a := (s.put (pwrFld t b) v).clr (readyFld t b)
    let m := s.team t
    s.bankPower t b v = a.setTeam t
      (if v = 1 ∧ (m.bank b).valid = true ∧ (s.get (pwrFld t b) = 2 ∨ s.get (pwrFld t b) = 1) then m.setBank b ⟨true, false, false⟩
      else (m.setBank b ⟨false, false, false⟩).clearBank b) := by
  intro a m
  refine (if_neg hv).trans (congrArg (a.setTeam t) ?_)
  have hkeep : (v == 1 && (m.bank b).valid && (s.get (pwrFld t b) == 2 || s.get (pwrFld t b) == 1)) = true
      ↔ v = 1 ∧ (m.bank b).valid = true ∧ (s.get (pwrFld t b) = 2 ∨ s.get (pwrFld t b) = 1) := by
    simp only [Bool.and_eq_true, Bool.or_eq_true, beq_iff_eq, and_assoc]
  dsimp only
  split
  next h =>
    rw [if_pos (hkeep.mp h)]
    exact congrArg (fun k => m.setBank b ⟨k, false, false⟩) h
  next h =>
    rw [if_neg fun hk => h (hkeep.mpr hk)]
    exact congrArg (fun k => (m.setBank b ⟨k, false, false⟩).clearBank b) (Bool.eq_false_iff.mpr h)

theorem word_clearBank (m : Team) (b : Nat) (v : Bank) {a : Nat} (ha : a / 2 ^ 14 = b) : ((m.clearBank b).setBank b v).word a = 0 := by
  have hdm : ((m.clearBank b).setBank b v).dm = m.dm.filter (fun p => p.1 / 2 ^ 14 != b) := by
    unfold Team.setBank
    split <;> rfl
  unfold Team.word
  rw [hdm, get_filter (fun _ => 0#24) (fun k => k / 2 ^ 14 != b), if_neg (by rw [ha, bne_self_eq_false]; exact Bool.false_ne_true)]
  rfl

end Banks

/-- Settles O28. -/
theorem patrolsAndBankPower : Obligations.PatrolsAndBankPower := by
  intro t s ht m
  have hrun (f : State → State) : onMapped t s f = .next (f s) := onMapped_on ht f
  refine ⟨fun n ue bad => ⟨fun h => ?_, fun r hen hon hr => ?_⟩, fun c n ue bad => ⟨fun h => ?_, fun hen hon => ?_⟩,
    fun b v hmode hon => ?_, fun b v h => ?_, fun b => ⟨fun h => ⟨?_, fun a ha => ?_⟩, fun h hback => ?_, fun h hback => ?_⟩⟩
  · exact (hrun _).trans (congrArg _ (patrol_idle h))
  · exact (hrun _).trans (congrArg _ (patrol_tests hen hon hr))
  · exact (hrun _).trans (congrArg _ (isPatrolStep_idle c n ue bad h))
  · intro a b
    have hread : s.isPatrolRead t c = b := isPatrolRead_eq c hen hon
    clear_value b
    subst hread
    have hstep : exec (.isPatrol t c n ue bad) s = .next (s.isPatrolStep t c n ue bad) := hrun _
    rw [hstep]
    refine ⟨fun h => congrArg _ (isPatrolStep_entry c n ue bad (.inl h)), fun _ h => congrArg _ (isPatrolStep_entry c n ue bad (.inr h)),
      fun h h1 => ?_⟩
    rw [isPatrolStep_region c n ue bad hen hon h h1]
    cases ue <;> rfl
  · intro a
    have hwrite : exec (.bankPowerWrite t b v) s = .next (s.bankPower t b v.toNat) :=
      (hrun _).trans (congrArg _ (if_pos ⟨hmode, hon⟩))
    rw [hwrite]
    refine ⟨fun hv hold => congrArg _ ?_, fun hv hold => congrArg _ ?_, fun hv hvalid hold => congrArg _ ?_, fun h => congrArg _ ?_⟩
    · subst hv
      exact (bankPower_on b).trans (if_pos hold)
    · subst hv
      exact (bankPower_on b).trans (if_neg hold)
    · subst hv
      refine (bankPower_off (by decide)).trans (congrArg _ (if_pos ⟨rfl, hvalid, hold⟩))
    · have hv : v.toNat ≠ 2 := by
        rcases h with rfl | rfl | ⟨rfl, -⟩ <;> decide
      refine (bankPower_off hv).trans (congrArg _ (if_neg ?_))
      rintro ⟨h1, hvalid, hold⟩
      rcases h with rfl | rfl | ⟨-, h | ⟨h2, h3⟩⟩
      · cases h1
      · cases h1
      · exact absurd (h.symm.trans hvalid) (by decide)
      · exact hold.elim h2 h3
  · exact (hrun _).trans (congrArg _ (bankWrite_closed _ _ h))
  · exact (hrun _).trans (congrArg _ (if_pos h))
  · exact word_clearBank m b _ ha
  · exact (hrun _).trans (congrArg _ ((if_neg (Bool.eq_false_iff.mp h)).trans (if_pos hback)))
  · exact (hrun _).trans (congrArg _ ((if_neg (Bool.eq_false_iff.mp h)).trans (if_neg (Bool.eq_false_iff.mp hback))))

end Sys2Proof.Machine
end

section
/-! Capture: its control, the tap samples and the records (R299 to R310). -/
namespace Sys2Proof.Machine

section Control

variable {s : State}

/-! ### The state that the trigger unit sees -/

theorem trigState_ending {st n : Nat} (h : s.cap.ending = some (st, n)) : s.trigState = st := by
  rw [State.trigState, h]

/-- With nothing ending it is the state of the register, but that a waiting trigger record has begun POST. -/
theorem trigState_running (h : s.cap.ending = none) :
    s.trigState = if s.capState = cArmed ∧ ∃ r ∈ s.cap.ready, r.trig = true then cPost else s.capState := by
  unfold State.trigState
  rw [h]
  simp only [List.any_eq_true]

theorem capArm_armed (hidle : s.capState = cIdle) (hregion : s.cap.region.isSome = true) (hok : s.capRegionOk = true)
    (hpost : s.get Reg.CAP_POST_POST < s.get Reg.CAP_RGN_SIZE * 2 ^ 26 / recSize s.capTeams.length) :
    let rs := recSize s.capTeams.length
    s.capArm = { (((((s.put Reg.CAP_GEOM_RS (rs / 256)).put Reg.CAP_GEOM_NSLOT (s.get Reg.CAP_RGN_SIZE * 2 ^ 26 / rs)).put
        Reg.CAP_STAT_STATE 1).clr Reg.CAP_STAT_TRIGGERED).put Reg.CAP_RECCNT_COUNT 0) with
      cap := { s.cap with lastA := none, force := false, stop := false, ready := [], ending := none, seq := 0, postLeft := 0 } } := by
  refine (if_pos ⟨hidle, hregion, hok, hpost⟩).trans ?_
  dsimp only
  rw [State.put_cap, State.clr_cap, State.put_cap, State.put_cap, State.put_cap]

theorem capForce_armed (h : s.trigState = 1) : s.capForce = { s with cap := { s.cap with force := true } } := if_pos h

theorem capForce_ignored (h2 : 2 ≤ s.trigState) (h5 : s.trigState ≤ 5) : s.capForce = s.set1 Reg.CAP_STAT_FORCE_IGN :=
  (if_neg (by simp only [cArmed]; omega)).trans (if_pos (by simp only [cPost, cDone, cOvf, cStopped]; omega))

theorem capForce_idle (h : s.trigState = 0 ∨ 5 < s.trigState) : s.capForce = s :=
  (if_neg (by simp only [cArmed]; omega)).trans (if_neg (by simp only [cPost, cDone, cOvf, cStopped]; omega))

/-- With nothing ending FORCE is kept in ARMED without a trigger record, ignored where capture stores or has stopped, and else without
effect. -/
theorem capForce_running (h : s.cap.ending = none) :
    (s.capState = 1 → (∀ r ∈ s.cap.ready, r.trig = false) → s.capForce = { s with cap := { s.cap with force := true } })
    ∧ (s.capState = 1 → (∃ r ∈ s.cap.ready, r.trig = true) → s.capForce = s.set1 Reg.CAP_STAT_FORCE_IGN)
    ∧ (2 ≤ s.capState → s.capState ≤ 5 → s.capForce = s.set1 Reg.CAP_STAT_FORCE_IGN)
    ∧ (s.capState = 0 ∨ 5 < s.capState → s.capForce = s) := by
  have ht := trigState_running h
  refine ⟨fun h1 hno => capForce_armed ?_, fun h1 hsome => capForce_ignored ?_ ?_, fun h2 h5 => ?_, fun h0 => capForce_idle ?_⟩
  · rw [ht, if_neg, h1]
    rintro ⟨-, r, hr, htrig⟩
    exact absurd ((hno r hr).symm.trans htrig) (by decide)
  · rw [ht, if_pos ⟨h1, hsome⟩]
  · rw [ht, if_pos ⟨h1, hsome⟩]
    decide
  · rw [if_neg fun h => by have := h.1; simp only [cArmed] at this; omega] at ht
    exact capForce_ignored (by rw [ht]; exact h2) (by rw [ht]; exact h5)
  · rw [ht, if_neg fun h => by have := h.1; simp only [cArmed] at this; omega]
    exact h0

end Control

/-- Settles O29. -/
theorem captureIsControlled : Obligations.CaptureIsControlled := by
  intro s
  refine ⟨?_, fun hst hend => congrArg _ (if_pos ⟨hst, by rw [hend]; rfl⟩), fun h => congrArg _ (if_neg ?_),
    fun hend => ?_, fun st n hend h2 h5 => ?_, fun h3 h5 => congrArg _ (if_pos ?_), fun h => congrArg _ (if_neg ?_)⟩
  · intro rs n
    refine ⟨fun hidle hregion hok hpost => congrArg _ (capArm_armed hidle hregion hok hpost), fun h => congrArg _ (if_neg ?_)⟩
    rintro ⟨hidle, hregion, hok, hpost⟩
    rcases h with h | h | h | h
    · exact h hidle
    · exact absurd (h.symm.trans hregion) (by decide)
    · exact absurd (h.symm.trans hok) (by decide)
    · exact absurd hpost (Nat.not_lt.mpr h)
  · rintro ⟨hst, hend⟩
    rcases h with ⟨h1, h2⟩ | h
    · exact hst.elim h1 h2
    · exact h (Option.isNone_iff_eq_none.mp hend)
  · obtain ⟨hkept, hwaits, hstored, hidle⟩ := capForce_running hend
    exact ⟨fun h1 h => congrArg _ (hkept h1 h), fun h1 h => congrArg _ (hwaits h1 h), fun h2 h5 => congrArg _ (hstored h2 h5),
      fun h => congrArg _ (hidle h)⟩
  · have ht := trigState_ending hend
    exact congrArg _ (capForce_ignored (by rw [ht]; exact h2) (by rw [ht]; exact h5))
  · simp only [State.capState, cDone, cOvf, cStopped]
    omega
  · simp only [State.capState, cDone, cOvf, cStopped]
    omega

section Samples

variable {s : State} {t n : Nat} {v : BitVec 96} {rest : List (Nat × BitVec 96)}

theorem tapReady_iff : s.tapReady n = true ↔ n < s.stride ∧ ∀ u ∈ s.runTeams, ∀ p ∈ (s.team u).ring, n ≤ p.1 := by
  simp only [State.tapReady, Bool.and_eq_true, decide_eq_true_eq, List.all_eq_true]

theorem tapArrival_early (hring : (s.team t).ring = (n, v) :: rest)
    (h : ¬ (n < s.stride ∧ ∀ u ∈ s.runTeams, ∀ p ∈ (s.team u).ring, n ≤ p.1)) : State.tapArrival t s = s := by
  unfold State.tapArrival
  dsimp only
  rw [hring]
  exact if_neg fun hready => h (tapReady_iff.mp hready)

/-- The state in which the sample has left the ring for the capture engine and the scheduler. -/
def State.sampled (s : State) (t n : Nat) (v : BitVec 96) (rest : List (Nat × BitVec 96)) : State :=
  let doms := (List.range 64).filter (fun d => s.get (Reg.DS_DOM_CFG_TEAM d) == t)
  let samp := doms.foldl (fun l d => Tab.set (fun _ => 0) l (2 * d + n % 2)
    (2 * n + ofBool (v.getLsbD (s.get (Reg.DS_DOM_CFG_TAPBIT d))) + 1)) s.ds.samples
  { s.setTeam t { s.team t with ring := rest } with
    cap := { s.cap with taps := Tab.set (fun _ => 0) s.cap.taps t v }, ds := { s.ds with samples := samp } }

theorem tapArrival_sampled (hring : (s.team t).ring = (n, v) :: rest) (hn : n < s.stride)
    (hold : ∀ u ∈ s.runTeams, ∀ p ∈ (s.team u).ring, n ≤ p.1) :
    let a := s.sampled t n v rest
    State.tapArrival t s = if a.tapsIn n = true ∧ s.cap.decided ≠ some n then a.decideTrigger n (a.nowOf n) else a := by
  intro a
  have hcond : (a.tapsIn n && a.cap.decided != some n) = true ↔ a.tapsIn n = true ∧ s.cap.decided ≠ some n := by
    rw [Bool.and_eq_true, bne_iff_ne]
    rfl
  unfold State.tapArrival
  dsimp only
  rw [hring]
  refine (if_pos (tapReady_iff.mpr ⟨hn, hold⟩)).trans ?_
  simp only [← hcond]
  rfl

end Samples

section Records

variable {s : State} {r : CapRec} {rest : List CapRec}

theorem capRecord_dropped (full : List Nat) (hready : s.cap.ready = r :: rest)
    (h : (s.capState ≠ cArmed ∧ s.capState ≠ cPost) ∨ s.cap.ending ≠ none) :
    s.captureRecord full = { s with cap := { s.cap with ready := rest } } := by
  unfold State.captureRecord State.capRecord
  rw [hready]
  refine (if_neg (List.cons_ne_nil _ _)).trans (if_neg ?_)
  rintro ⟨hst, hend⟩
  rcases h with ⟨h1, h2⟩ | h
  · exact hst.elim h1 h2
  · exact h (Option.isNone_iff_eq_none.mp hend)

/-- The state in which the record is staged and the registers of capture show it. -/
def State.recorded (s : State) (r : CapRec) (rest : List CapRec) : State :=
  let rs := s.get Reg.CAP_GEOM_RS * 256
  let slot := s.cap.seq % 2 ^ 32 % s.get Reg.CAP_GEOM_NSLOT
  let ovf := decide (4194304 - 32 * s.cap.staging.length < 2 * rs)
  let stop := s.cap.stop && !ovf
  let a := ({ s with cap := { s.cap with ready := rest, seq := s.cap.seq + 1 } } : State).stage
    (s.bursts slot rs (recBytes r s.cap.seq ovf stop))
  let b := ((a.sat Reg.CAP_RECCNT_COUNT 1).put Reg.CAP_LAST_SLOT_SLOT slot).putPair Adr.CAP_STOP_STRIDE_LO Adr.CAP_STOP_STRIDE_HI r.stride
  let c := if r.trig = true then
      ((((b.putPair Adr.CAP_TRIG_LO Adr.CAP_TRIG_HI r.stride).put Reg.CAP_TRIG_SLOT_SLOT slot).set1
        Reg.CAP_STAT_TRIGGERED).put Reg.CAP_STAT_STATE 2).postEvent 2 ⟨0x0023, 13, packBytes [(16, 8, r.stride), (24, 4, slot),
          (28, 1, 1 + 2 * ofBool ovf + 4 * r.pats + 64 * ofBool r.forced + 128 * ofBool stop)]⟩
    else b
  { c with cap := { c.cap with postLeft := if r.trig = true then s.get Reg.CAP_POST_POST else s.cap.postLeft - 1 } }

theorem capRecord_stored (full : List Nat) (hready : s.cap.ready = r :: rest) (hst : s.capState = cArmed ∨ s.capState = cPost)
    (hend : s.cap.ending = none) :
    let ovf := decide (4194304 - 32 * s.cap.staging.length < 2 * (s.get Reg.CAP_GEOM_RS * 256))
    let left := if r.trig = true then s.get Reg.CAP_POST_POST else s.cap.postLeft - 1
    let d := s.recorded r rest
    s.captureRecord full = if ovf = true then d.capStop cOvf r.stride else if (s.cap.stop && !ovf) = true then d.capStop cStopped r.stride
      else if ((r.trig || s.capState == cPost) && left == 0) = true then d.capStop cDone r.stride else (d.spill full).capSettle := by
  unfold State.captureRecord State.capRecord
  rw [hready]
  exact (if_neg (List.cons_ne_nil _ _)).trans (if_pos ⟨hst, Option.isNone_iff_eq_none.mpr hend⟩)

theorem capSettle_done {st n : Nat} (hend : s.cap.ending = some (st, n)) (hstaging : s.cap.staging = []) :
    s.capSettle = ((({ s with cap := { s.cap with ending := none } } : State).put Reg.CAP_STAT_STATE st).put Reg.CAP_STAT_OVF
      (if st = 4 then 1 else 0)).postEvent 2 ⟨0x0024, 16, packBytes [(16, 1, st), (24, 8, n)]⟩ := by
  have hovf : ofBool (st == cOvf) = if st = 4 then 1 else 0 := by
    by_cases h : st = 4 <;> simp [h, ofBool]
  unfold State.capSettle
  rw [hend, hstaging, ← hovf]
  rfl

theorem capSettle_waits (h : s.cap.ending = none ∨ s.cap.staging ≠ []) : s.capSettle = s := by
  unfold State.capSettle
  split
  next hend =>
    refine if_neg fun hempty => ?_
    rcases h with h | h
    · rw [h] at hend
      cases hend
    · exact h (List.isEmpty_iff.mp hempty)
  next => rfl

end Records

/-- Settles O30. -/
theorem captureRecordsAreStored : Obligations.CaptureRecordsAreStored := by
  refine ⟨fun t s ht => ⟨fun h => ?_, fun n v rest harmed hring => ⟨fun h => ?_, fun hn hold => ?_⟩⟩, fun full s h => congrArg _ (if_pos h),
    fun full s r rest hready => ?_, fun s st n => ⟨rfl, fun hend hstaging => capSettle_done hend hstaging, fun h => capSettle_waits h⟩⟩
  · refine (onMapped_on ht _).trans (congrArg _ ?_)
    rcases h with h | h
    · exact if_neg (Bool.eq_false_iff.mp h)
    · have hidle : State.tapArrival t s = s := by
        unfold State.tapArrival
        dsimp only
        rw [h]
      rw [hidle, ite_self]
  · exact (onMapped_on ht _).trans (congrArg _ ((if_pos harmed).trans (tapArrival_early hring h)))
  · have harrive : exec (.tapSampleArrival t) s = .next (s.tapArrival t) := (onMapped_on ht _).trans (congrArg _ (if_pos harmed))
    rw [harrive, tapArrival_sampled hring hn hold]
    refine ⟨fun h => congrArg _ (if_neg ?_), fun hin hdec => congrArg _ (if_pos ⟨hin, hdec⟩)⟩
    rintro ⟨hin, hdec⟩
    rcases h with h | h
    · exact absurd (h.symm.trans hin) (by decide)
    · exact hdec h
  · intro st rs slot ovf stop a b c left d
    refine ⟨fun hst hend => ?_, fun h => congrArg _ (capRecord_dropped full hready h)⟩
    rw [show exec (.captureRecord full) s = .next (s.captureRecord full) from rfl, capRecord_stored full hready hst hend]
    have hgoes : ovf = false → s.cap.stop = false → (s.cap.stop && !ovf) ≠ true := fun _ hstop => by simp [hstop]
    have hdone : ((r.trig || s.capState == cPost) && left == 0) = true ↔ (r.trig = true ∨ st = 2) ∧ left = 0 := by
      rw [Bool.and_eq_true, Bool.or_eq_true, beq_iff_eq, beq_iff_eq]
      rfl
    refine ⟨fun hovf => congrArg _ (if_pos hovf), fun hovf hstop => ?_, fun hovf hstop hlast hleft => ?_, fun hovf hstop hmore => ?_⟩
    all_goals refine congrArg _ ((if_neg (Bool.eq_false_iff.mp hovf)).trans ?_)
    · exact if_pos (Bool.and_eq_true_iff.mpr ⟨hstop, by rw [show decide _ = false from hovf]; rfl⟩)
    · exact (if_neg (hgoes hovf hstop)).trans (if_pos (hdone.mpr ⟨hlast, hleft⟩))
    · exact (if_neg (hgoes hovf hstop)).trans (if_neg fun h => hmore (hdone.mp h))

end Sys2Proof.Machine
end

section
/-! Lanes train: sweeps, confirmation and the wait for the peer (R216 to R222). -/
namespace Sys2Proof.Machine

section Lanes

variable {s : State} {l : Nat}

theorem lane_put (f : Fld) (k : Nat) : (s.put f k).lane l = s.lane l := rfl

theorem lane_set1If (b : Bool) (f : Fld) : (s.set1If b f).lane l = s.lane l := by cases b <;> rfl

/-! ### EN is set and cleared -/

theorem laneEnable_illegal (hoff : s.laneState l = lOff)
    (h : s.get (laneCtl l 2 1) = 3 ∨ (s.get (laneCtl l 2 1) = 1 ∧ l < 144) ∨ s.get (laneCtl l 17 16) = 3) :
    State.laneEnable l s = (s.set1 (laneCtl l 0 0)).set1 (laneStat l 17 17) := (if_neg (not_not.mpr hoff)).trans (if_pos h)

theorem laneEnable_samples (hoff : s.laneState l = lOff)
    (h : ¬ (s.get (laneCtl l 2 1) = 3 ∨ (s.get (laneCtl l 2 1) = 1 ∧ l < 144) ∨ s.get (laneCtl l 17 16) = 3)) :
    let w : Lane := { s.lane l with
      rate := s.get (laneCtl l 2 1), loop := s.get (laneCtl l 17 16), eqFix := s.on (laneCtl l 7 7), eqSet := s.get (laneCtl l 11 8)
      gen := prbsSeed s.free, pat := prbsSeed (s.free + 1) }
    let a := (((s.set1 (laneCtl l 0 0)).spendN 2).setLane l w).put (laneSweep l 27 20) 0
    State.laneEnable l s = if s.on (laneCtl l 18 18) = true then (a.put (laneStat l 3 0) lTest).put (laneStat l 7 4) (s.get (laneCtl l 11 8))
      else a.freshSweep l := (if_neg (not_not.mpr hoff)).trans (if_neg h)

/-! ### Sweeps -/

theorem applyNext_some {i : Nat} (h : (candidates (s.lane l))[(s.lane l).next]? = some i) :
    s.applyNext l = (s.setLane l { s.lane l with missed := false, chk := Prbs.reset }).put (laneStat l 7 4) i := by
  rw [State.applyNext, h]
  rfl

theorem applyNext_none (h : (candidates (s.lane l))[(s.lane l).next]? = none) : s.applyNext l = s := by
  rw [State.applyNext, h]

theorem settingDone_next (acq dwell : List W64) (clean late : Bool) {i : Nat} (hst : s.laneState l = lSweep)
    (h : (candidates (s.lane l))[(s.lane l).next]? = some i) :
    State.settingDone l acq dwell clean late s = ((s.setLane l { s.lane l with
      next := (s.lane l).next + 1, pass := if s.settingOk l acq dwell clean then (s.lane l).pass + 2 ^ i else (s.lane l).pass }).applyNext
        l).set1If late (laneStat l 21 21) := by
  unfold State.settingDone
  dsimp only
  rw [h]
  exact if_pos hst

theorem settingDone_idle (acq dwell : List W64) (clean late : Bool)
    (h : s.laneState l ≠ lSweep ∨ (candidates (s.lane l))[(s.lane l).next]? = none) : State.settingDone l acq dwell clean late s = s := by
  unfold State.settingDone
  dsimp only
  split
  next hi =>
    refine if_neg fun hst => ?_
    rcases h with h | h
    · exact h hst
    · rw [h] at hi
      cases hi
  next => rfl

/-- The conditions under which a setting has passed (R217, R220). -/
theorem settingOk_iff (acq dwell : List W64) (clean : Bool) : s.settingOk l acq dwell clean = true ↔
    s.on (laneStat l 8 8) = true ∧ s.on (laneStat l 9 9) = true ∧ (∃ b ∈ acq, trainingOk (s.polar l b) = true)
      ∧ (∀ b ∈ dwell, trainingOk (s.polar l b) = true)
      ∧ (∀ b ∈ acq ++ dwell, trainingOk (s.polar l b) = true → miswired l (s.polar l b) = false) ∧ clean = true
      ∧ (s.lane l).missed = false := by
  have hany : (acq.map (s.polar l)).any trainingOk = true ↔ ∃ b ∈ acq, trainingOk (s.polar l b) = true := by
    simp only [List.any_map, List.any_eq_true, Function.comp]
  have hall : (dwell.map (s.polar l)).all trainingOk = true ↔ ∀ b ∈ dwell, trainingOk (s.polar l b) = true := by
    simp only [List.all_map, List.all_eq_true, Function.comp]
  have hwired : (acq.map (s.polar l) ++ dwell.map (s.polar l)).any (fun b => trainingOk b && miswired l b) = false
      ↔ ∀ b ∈ acq ++ dwell, trainingOk (s.polar l b) = true → miswired l (s.polar l b) = false := by
    rw [← List.map_append]
    simp only [List.any_map, List.any_eq_false, Function.comp, Bool.and_eq_true, not_and, Bool.not_eq_true]
  simp only [State.settingOk, Bool.and_eq_true, Bool.not_eq_true', hany, hall, hwired, and_assoc]

theorem sweepDone_swept (hst : s.laneState l = lSweep) (hnext : (s.lane l).next = (candidates (s.lane l)).length) :
    let b := ((s.put (laneSweep l 15 0) (s.lane l).pass).sat (laneSweep l 27 20) 1).setLane l
      { s.lane l with tries := (s.lane l).tries + 1, missed := false, chk := Prbs.reset }
    let e := b.set1 (laneStat l 20 20)
    State.sweepDone l s = if (s.lane l).pass = 0 then if e.sweepsOut l = true then e.laneFailed l else e.startSweep l
      else ((b.put (laneSweep l 19 16) (chosen (s.lane l).pass)).put (laneStat l 7 4) (chosen (s.lane l).pass)).put (laneStat l 3 0) lConfirm :=
  if_pos ⟨hst, hnext⟩

theorem confirmDone_eq (ok : Bool) (hst : s.laneState l = lConfirm) :
    State.confirmDone l ok s = if ok = true ∧ (s.lane l).missed = false then
        (s.put (laneStat l 3 0) lPeerWait).setLane l { s.lane l with rdyGot := 0, rdySent := false }
      else if s.sweepsOut l = true then s.laneFailed l else s.startSweep l := by
  have hcond : (ok && !(s.lane l).missed) = true ↔ ok = true ∧ (s.lane l).missed = false := by
    rw [Bool.and_eq_true, Bool.not_eq_true']
  refine (if_pos hst).trans ?_
  simp only [hcond]
  rfl

/-! ### The wait for the peer -/

theorem leavePeerWait_eq (hfull : s.laneState l = lPeerWait ∧ 16 ≤ (s.lane l).rdyGot ∧ (s.lane l).rdySent = true) :
    let n := laneLink l
    let b := s.setLane l { s.lane l with train := 0 }
    s.leavePeerWait l = if n < 16 then
        if s.spare n = laneNo l then (b.put (laneStat l 3 0) lStandby).linkRise n
        else if s.spare n = 0xF ∧ s.isUp n = true ∧ s.logical n (laneNo l) = none then
          ((b.put (Reg.LD_LINK_STAT_SPARE n) (laneNo l)).put (laneStat l 3 0) lStandby).linkRise n
        else (b.put (laneStat l 3 0) lActive).linkRise n
      else if s.isUp n = true then b.put (laneStat l 3 0) lStandby else (b.put (laneStat l 3 0) lActive).linkRise n := by
  refine (if_pos hfull).trans ?_
  simp only [Option.isNone_iff_eq_none]
  rfl

/-! ### Training blocks -/

theorem training_takes (b : W64) (pats : List W64) (at_ : Nat) (htakes : takesGroups (s.laneState l) = true)
    (hlock : s.on (laneStat l 9 9) = true) :
    let x := if s.laneState l = lActive then s else s.patterns l pats
    State.training l b pats at_ s = if trainingOk (s.polar l b) = true then x.goodBlock l (s.polar l b) at_ else x.badBlock l :=
  if_neg (by simp [htakes, hlock])

/-- What a valid training block writes before it can change the lane's state. -/
def State.blockTaken (s : State) (l b at_ : Nat) : State :=
  (((s.put (laneStat l 15 12) (bits b 15 12)).put (laneStat l 11 11) (bits b 17 17)).set1If (miswired l b) (laneStat l 16 16)).setLane
    l { s.lane l with missed := (s.lane l).missed || (miswired l b && s.laneState l == lSweep)
                      train := if s.laneState l = lActive then (s.lane l).train + 1 else 0, arrive := at_
                      rdyGot := if bits b 17 17 = 1 then (s.lane l).rdyGot + 1 else 0 }

theorem goodBlock_eq (b at_ : Nat) :
    let x := s.blockTaken l b at_
    s.goodBlock l b at_ = if s.laneState l = lPeerWait then x.leavePeerWait l
      else if s.laneState l = lActive ∧ 4 ≤ (s.lane l).train + 1 then ((x.put (laneStat l 3 0) lPeerWait).onLane l (fun v => { v with
        train := 0, rdyGot := 0, rdySent := false, chk := Prbs.reset })).laneLeft l lActive
      else x := by
  intro x
  have hlane : (((s.put (laneStat l 15 12) (bits b 15 12)).put (laneStat l 11 11) (bits b 17 17)).set1If (miswired l b)
      (laneStat l 16 16)).lane l = s.lane l :=
    (lane_set1If _ _).trans ((lane_put _ _).trans (lane_put _ _))
  have hx : ((((s.put (laneStat l 15 12) (bits b 15 12)).put (laneStat l 11 11) (bits b 17 17)).set1If (miswired l b)
      (laneStat l 16 16)).onLane l (fun v => { v with
        missed := v.missed || (miswired l b && s.laneState l == lSweep), train := if s.laneState l = lActive then v.train + 1 else 0
        arrive := at_, rdyGot := if bits b 17 17 = 1 then v.rdyGot + 1 else 0 })) = x := by
    unfold State.onLane
    rw [hlane]
    rfl
  have htrain : s.laneState l = lActive ∧ 4 ≤ (x.lane l).train ↔ s.laneState l = lActive ∧ 4 ≤ (s.lane l).train + 1 := by
    refine and_congr_right fun hst => ?_
    rw [show x.lane l = _ from State.lane_setLane_same _ _ _]
    dsimp only
    rw [if_pos hst]
  unfold State.goodBlock
  dsimp only
  rw [hx]
  simp only [htrain]
  rfl

end Lanes

/-- Settles O31. -/
theorem lanesTrain : Obligations.LanesTrain := by
  intro l s v e rate loop w a
  refine ⟨fun h => congrArg Host.Outcome.next (if_pos h), fun hoff h => congrArg Host.Outcome.next (laneEnable_illegal hoff h), fun hoff h => ⟨fun htest => ?_, fun htest => ?_⟩,
    ⟨rfl, rfl, fun i h => applyNext_some h, applyNext_none, rfl⟩, ⟨fun h1 h2 => congrArg Host.Outcome.next (if_neg (not_or.mpr ⟨h1, h2⟩)),
      fun h => congrArg Host.Outcome.next (if_pos h)⟩, fun acq dwell clean late => ⟨fun i hst h => congrArg Host.Outcome.next (settingDone_next acq dwell clean late hst h),
      fun h => congrArg Host.Outcome.next (settingDone_idle acq dwell clean late h), settingOk_iff acq dwell clean⟩,
    ⟨fun hst hnext hpass => ?_, fun hst hnext hpass => ?_, fun h => ?_⟩, fun ok => ⟨fun hst hok hmissed => ?_, fun hst hbad => ?_, fun h =>
      congrArg Host.Outcome.next (if_neg h)⟩, fun h => congrArg Host.Outcome.next (if_pos h), fun h => congrArg Host.Outcome.next (if_neg h), ?_, fun b pats at_ => ⟨fun h => ?_, fun htakes hlock => ?_⟩,
    rfl, fun b at_ => ?_⟩
  · exact congrArg Host.Outcome.next ((laneEnable_samples hoff h).trans (if_pos htest))
  · exact congrArg Host.Outcome.next ((laneEnable_samples hoff h).trans (if_neg (Bool.eq_false_iff.mp htest)))
  · exact congrArg Host.Outcome.next ((sweepDone_swept hst hnext).trans (if_neg hpass))
  · exact congrArg Host.Outcome.next ((sweepDone_swept hst hnext).trans (if_pos hpass))
  · refine congrArg Host.Outcome.next (if_neg fun ⟨hst, hnext⟩ => ?_)
    exact h.elim (fun h => h hst) fun h => h hnext
  · exact congrArg Host.Outcome.next ((confirmDone_eq ok hst).trans (if_pos ⟨hok, hmissed⟩))
  · refine congrArg Host.Outcome.next ((confirmDone_eq ok hst).trans (if_neg fun ⟨hok, hmissed⟩ => ?_))
    rcases hbad with h | h
    · exact absurd (h.symm.trans hok) (by decide)
    · exact absurd (h.symm.trans hmissed) (by decide)
  · intro n b full
    refine ⟨fun h => if_neg h, fun h hn hspare => ?_, fun h hn hspare hfree => ?_, fun h hn hspare hfree hup hmap => ?_, fun h hn hup => ?_,
      fun h hn hup => ?_⟩
    · exact (leavePeerWait_eq h).trans ((if_pos hn).trans (if_pos hspare))
    · exact (leavePeerWait_eq h).trans ((if_pos hn).trans ((if_neg hspare).trans (if_neg hfree)))
    · exact (leavePeerWait_eq h).trans ((if_pos hn).trans ((if_neg hspare).trans (if_pos ⟨hfree, hup, hmap⟩)))
    · exact (leavePeerWait_eq h).trans ((if_neg (Nat.not_lt.mpr hn)).trans (if_pos hup))
    · exact (leavePeerWait_eq h).trans ((if_neg (Nat.not_lt.mpr hn)).trans (if_neg (Bool.eq_false_iff.mp hup)))
  · refine congrArg Host.Outcome.next (if_pos ?_)
    rcases h with h | h <;> simp [h]
  · intro x
    have htaken : exec (.trainingBlockReceive l b pats at_) s = .next _ := congrArg Host.Outcome.next (training_takes b pats at_ htakes hlock)
    rw [htaken]
    exact ⟨fun h => congrArg Host.Outcome.next (if_pos h), fun h => congrArg Host.Outcome.next (if_neg (Bool.eq_false_iff.mp h))⟩
  · intro x
    have hgood := goodBlock_eq (s := s) (l := l) b at_
    refine ⟨fun h => hgood.trans (if_pos h), fun h htrain => hgood.trans ?_, fun h hmore => hgood.trans ?_⟩
    · rw [if_neg (by rw [h]; decide), if_pos ⟨h, htrain⟩]
      rfl
    · exact (if_neg h).trans (if_neg hmore)

end Sys2Proof.Machine
end

section
/-! Locks, faults and tests of a lane (R215, R218, R222, R227 to R229). -/
namespace Sys2Proof.Machine

section Service

variable {s : State} {l : Nat}

theorem lockAcquire_locks (inv : Bool) {h : List (BitVec 2)} (htakes : takesGroups (s.laneState l) = true) (hlock : s.on (laneStat l 9 9) = false)
    (hlen : 64 ≤ h.length) (hvalid : (h.drop (h.length - 64)).all headValid = true) :
    State.lockAcquire l inv h s = (s.set1 (laneStat l 9 9)).put (laneStat l 10 10) (ofBool inv) :=
  if_pos (by simp only [htakes, hlock, hlen, hvalid, Bool.not_false, Bool.and_self, decide_true])

theorem lockAcquire_idle (inv : Bool) {h : List (BitVec 2)} (hno : takesGroups (s.laneState l) = false ∨ s.on (laneStat l 9 9) = true
      ∨ h.length < 64 ∨ (h.drop (h.length - 64)).all headValid = false) : State.lockAcquire l inv h s = s := by
  refine if_neg fun hall => ?_
  rw [Bool.and_eq_true, Bool.and_eq_true, Bool.and_eq_true, Bool.not_eq_true', decide_eq_true_eq] at hall
  obtain ⟨⟨⟨htakes, hlock⟩, hlen⟩, hvalid⟩ := hall
  rcases hno with h | h | h | h
  · exact absurd (h.symm.trans htakes) (by decide)
  · exact absurd (h.symm.trans hlock) (by decide)
  · exact absurd hlen (Nat.not_le.mpr h)
  · exact absurd (h.symm.trans hvalid) (by decide)

theorem lockLoss_eq (w : Bool) (h : List (BitVec 2)) (htakes : takesGroups (s.laneState l) = true) (hlock : s.on (laneStat l 9 9) = true) :
    let bad := h.countP (fun x => !headValid x)
    let a := s.sat (laneSyncErr l) bad
    State.lockLoss l w h s = if lockGone h = true then ((a.clr (laneStat l 9 9)).sat (laneEvt l 15 0) 1).lostService l 18 1
      else if w = true ∧ 16 ≤ bad ∧ (s.laneState l = lActive ∨ s.laneState l = lStandby) then a.laneFault l 19 2 else a := by
  intro bad a
  have hwindow : (w && decide (16 ≤ bad) && (s.laneState l == lActive || s.laneState l == lStandby)) = true
      ↔ w = true ∧ 16 ≤ bad ∧ (s.laneState l = lActive ∨ s.laneState l = lStandby) := by
    rw [Bool.and_eq_true, Bool.and_eq_true, Bool.or_eq_true, decide_eq_true_eq, beq_iff_eq, beq_iff_eq, and_assoc]
  refine (if_neg (by simp [htakes, hlock])).trans ?_
  simp only [← hwindow]
  rfl

theorem cdrChange_eq (c : Bool) (h1 : s.laneState l ≠ lOff) (h2 : s.laneState l ≠ lFault) (h3 : s.laneState l ≠ lFailed) :
    State.cdrChange l c s = if c = true then s.set1 (laneStat l 8 8)
      else if s.on (laneStat l 8 8) = true then ((s.clr (laneStat l 8 8)).sat (laneEvt l 15 0) 1).lostService l 18 1 else s :=
  if_neg (not_or.mpr ⟨h1, not_or.mpr ⟨h2, h3⟩⟩)

end Service

/-- Settles O32. -/
theorem lanesInService : Obligations.LanesInService := by
  intro l s v
  refine ⟨fun inv h => ⟨fun htakes hlock hlen hvalid => congrArg Host.Outcome.next (lockAcquire_locks inv htakes hlock hlen hvalid),
      fun hno => congrArg Host.Outcome.next (lockAcquire_idle inv hno)⟩, fun w h => ⟨fun hno => ?_, fun htakes hlock => ?_⟩,
    fun c h => congrArg Host.Outcome.next (if_pos h), fun h1 h2 h3 => ?_, fun b c => ⟨rfl, fun h => if_pos h, fun h => ?_, fun h1 h2 h3 => ?_⟩,
    fun h => congrArg Host.Outcome.next (if_pos h), fun h => congrArg Host.Outcome.next (if_neg h),
    fun h => congrArg Host.Outcome.next (if_pos h), fun h1 h2 => congrArg Host.Outcome.next (if_neg (not_or.mpr ⟨h1, h2⟩)),
    fun bs => ⟨fun h => congrArg Host.Outcome.next (if_neg h), fun h => ?_⟩⟩
  · refine congrArg Host.Outcome.next (if_pos ?_)
    rcases hno with h | h <;> simp [h]
  · intro bad a serving
    have hloss := lockLoss_eq w h htakes hlock
    refine ⟨fun hgone => congrArg Host.Outcome.next (hloss.trans (if_pos hgone)),
      fun hkept hw hbad hserving => congrArg Host.Outcome.next (hloss.trans ?_), fun hkept hno => congrArg Host.Outcome.next (hloss.trans ?_)⟩
    · exact (if_neg (Bool.eq_false_iff.mp hkept)).trans (if_pos ⟨hw, hbad, hserving⟩)
    · exact (if_neg (Bool.eq_false_iff.mp hkept)).trans (if_neg hno)
  · refine ⟨congrArg Host.Outcome.next ((cdrChange_eq true h1 h2 h3).trans (if_pos rfl)), fun hon => congrArg Host.Outcome.next ?_,
      fun hoff => congrArg Host.Outcome.next ?_⟩
    · exact (cdrChange_eq false h1 h2 h3).trans ((if_neg Bool.false_ne_true).trans (if_pos hon))
    · exact (cdrChange_eq false h1 h2 h3).trans ((if_neg Bool.false_ne_true).trans (if_neg (Bool.eq_false_iff.mp hoff)))
  · exact (if_neg (by rw [h]; decide)).trans (if_pos h)
  · exact (if_neg (not_or.mpr ⟨h1, h2⟩)).trans (if_neg h3)
  · intro poly g own c a
    exact ⟨fun hchk => congrArg Host.Outcome.next ((if_pos h).trans (if_pos hchk)),
      fun hchk => congrArg Host.Outcome.next ((if_pos h).trans (if_neg (Bool.eq_false_iff.mp hchk)))⟩

end Sys2Proof.Machine
end

section
/-! Measurement steps, delays, pauses and self refresh of a channel (R288 to R292). -/
namespace Sys2Proof.Machine

section Pauses

variable {s : State} {c : Nat}

theorem dlyWrite_taken {n : Nat} (v : Nat) (hn : dlyExists n = true)
    (h : s.chanState c = gOff ∨ s.chanState c = gTrain ∨ s.chanState c = gPaused) :
    State.dlyWrite c n v s = s.put (Reg.GD_DLY_DELAY c n) v := (if_neg (by simp [hn])).trans (if_pos h)

theorem dlyWrite_locked {n : Nat} (v : Nat) (hn : dlyExists n = true)
    (h : ¬ (s.chanState c = gOff ∨ s.chanState c = gTrain ∨ s.chanState c = gPaused)) :
    State.dlyWrite c n v s = s.set1 (Reg.GD_CH_STAT_DLY_LOCKED c) := (if_neg (by simp [hn])).trans (if_neg h)

theorem pauseEffect_ready (h : s.chanState c = gReady) :
    s.pauseEffect c = s.setChan c { s.chan c with pauseDue := false, pausing := true } := by
  refine (if_pos h).trans ?_
  rw [State.onChan, State.onChan, State.chan_setChan_same, State.setChan_setChan]

theorem pauseTmo_expires (hpause : s.on (Reg.GD_CH_CTL_PAUSE c) = true) (hdue : (s.chan c).pauseDue = false) :
    State.pauseTmo c s = (s.pauseEnd c).set1 (Reg.GD_CH_STAT_PAUSE_TMO c) := if_pos (by rw [hpause, hdue]; rfl)

theorem pauseTmo_idle (h : s.on (Reg.GD_CH_CTL_PAUSE c) = false ∨ (s.chan c).pauseDue = true) : State.pauseTmo c s = s :=
  if_neg (by rcases h with h | h <;> simp [h])

theorem srefWrite_set (c : Nat) : State.srefWrite c true s = if s.chanState c = gReady then
      (((s.put (Reg.GD_CH_CTL_SREF c) 1).put (Reg.GD_CH_STAT_STATE c) gSref).put (Reg.GD_REF_DEBT c) 0).onChan c (fun k => { k with
        rows := [], owed := [], force := false })
    else s.put (Reg.GD_CH_CTL_SREF c) 1 := rfl

theorem srefWrite_clear (c : Nat) : State.srefWrite c false s = if s.chanState c = gSref then
    (s.put (Reg.GD_CH_CTL_SREF c) 0).put (Reg.GD_CH_STAT_STATE c) gReady else s.put (Reg.GD_CH_CTL_SREF c) 0 := rfl

end Pauses

/-- Settles O38. -/
theorem trainingPausesAndSelfRefresh : Obligations.TrainingPausesAndSelfRefresh := by
  intro c s v ends resumed free
  refine ⟨fun op => ⟨fun h => congrArg Host.Outcome.next (if_pos h), fun h => congrArg Host.Outcome.next (if_neg h)⟩, fun pass => rfl,
    fun n b => ⟨fun hn => congrArg Host.Outcome.next (if_pos (by rw [hn]; rfl)),
      fun hn h => congrArg Host.Outcome.next (dlyWrite_taken _ hn h), fun hn h => congrArg Host.Outcome.next (dlyWrite_locked _ hn h)⟩,
    fun h => congrArg Host.Outcome.next (if_pos h), fun h hrun => congrArg Host.Outcome.next ?_, fun h hrun => congrArg Host.Outcome.next ?_,
    fun a => ⟨pauseEffect_ready, fun h => if_neg h⟩, rfl, fun hp hf => congrArg Host.Outcome.next (if_pos ⟨hp, hf⟩),
    fun h => congrArg Host.Outcome.next (if_neg ?_), fun late => rfl, fun hp hd => congrArg Host.Outcome.next (pauseTmo_expires hp hd),
    fun h => congrArg Host.Outcome.next (pauseTmo_idle h), fun h => congrArg Host.Outcome.next ((srefWrite_set _).trans (if_pos h)),
    fun h => congrArg Host.Outcome.next ((srefWrite_set _).trans (if_neg h)),
    fun h => congrArg Host.Outcome.next ((srefWrite_clear _).trans (if_pos h)),
    fun h => congrArg Host.Outcome.next ((srefWrite_clear _).trans (if_neg h))⟩
  · exact (if_neg (Bool.eq_false_iff.mp h)).trans (if_pos hrun)
  · exact (if_neg (Bool.eq_false_iff.mp h)).trans (if_neg (Bool.eq_false_iff.mp hrun))
  · rintro ⟨hp, hf⟩
    rcases h with h | h
    · exact absurd (h.symm.trans hp) (by decide)
    · exact h hf

end Sys2Proof.Machine
end

section
/-! The Hitch fabric: its release, its banks and its ports (R325 to R336). -/
namespace Sys2Proof.Machine

section Ports

variable {s : State}

theorem foldl_put_ht (l : List Nat) (f : Nat → Fld) (v : Nat) (s : State) : (l.foldl (fun s n => s.put (f n) v) s).ht = s.ht := by
  induction l generalizing s with
  | nil => rfl
  | cons n l ih => exact ih (s.put (f n) v)

theorem hitchRelease_eq (s : State) : s.hitchRelease =
    (let s1 := ({ s with ht := { s.ht.hold with ramGen := s.free }, free := s.free + 1 } : State).set1 Reg.HT_CTL_HITCH_GO
     let bad := (List.range 8).foldl (fun n b => n + ofBool (!s.railOk b) * 2 ^ b) 0
     let s2 := (s1.put Reg.HT_STAT_BANK_VFAULT (s1.get Reg.HT_STAT_BANK_VFAULT ||| bad)).hitchBanks
     { s2 with ht := settleFabric s2.fabric false s2.ht }) := rfl

theorem hitchHold_eq (s : State) : s.hitchHold =
    (let s1 := ({ s with ht := { s.ht.hold with
        o := [], ram := [], clks := [], drv := [], pinIn := [], pinOut := [], fcnt := [], fdiv := [], tree := [], trees := [], off := []
        hpi := 0, hpo := 0, hpStride := 0, outTgl := false, inTgl := false, ready := none, toks := [], rx := [], tx := [] } }
        : State).clr Reg.HT_CTL_HITCH_GO
     (((s1.each 4 (fun n s => s.put (Reg.HT_STRM_W1_RX_OCC n) 0)).put Reg.HT_TK_STAT_OCC 0).put Reg.HT_HP_STAT_LAST 0).hitchBanks) := by
  unfold State.hitchHold State.tkCount State.each
  dsimp only
  rw [foldl_put_ht (List.range 4) Reg.HT_STRM_W1_RX_OCC 0]
  rfl

theorem railOk_eq (s : State) (b : Nat) : s.railOk b = (match s.get (Reg.HT_BANK_VOLT b) with
    | 0 => decide (10800 ≤ 10 * look s.ht.rail b ∧ 10 * look s.ht.rail b ≤ 13200)
    | 1 => decide (13500 ≤ 10 * look s.ht.rail b ∧ 10 * look s.ht.rail b ≤ 16500)
    | 2 => decide (16200 ≤ 10 * look s.ht.rail b ∧ 10 * look s.ht.rail b ≤ 19800)
    | _ => false) := by
  unfold State.railOk voltOf
  generalize s.get (Reg.HT_BANK_VOLT b) = v
  match v with
  | 0 => rfl
  | 1 => rfl
  | 2 => rfl
  | k + 3 => rfl

theorem hitchBanks_eq (s : State) :
    let released := (List.range 8).foldl (fun n b =>
      n + ofBool (s.on (Reg.HT_BANK_RELEASE b) && s.on Reg.HT_CTL_HITCH_GO && s.railOk b && !s.hitchStopped) * 2 ^ b) 0
    let s1 := s.put Reg.HT_STAT_RELEASED released
    s.hitchBanks = if s1.mode = mQuarantine ∧ s1.on Reg.HT_CTL_QSTOP = true then { s1 with ht := s1.ht.hold } else s1 := by
  intro released s1
  have hstopped : s1.hitchStopped = true ↔ s1.mode = mQuarantine ∧ s1.on Reg.HT_CTL_QSTOP = true := by
    rw [State.hitchStopped, Bool.and_eq_true, beq_iff_eq]
  simp only [← hstopped]
  rfl

theorem hpoUpdate_idle (h : s.hitchGo = false ∨ s.ht.ready = none) : s.hpoUpdate = s := by
  unfold State.hpoUpdate
  rcases h with h | h
  · rw [h]
    split <;> rfl
  · rw [h]

theorem hpoUpdate_takes (hgo : s.hitchGo = true) {n : Nat} {v : BitVec 1536} (hready : s.ht.ready = some (n, v)) :
    s.hpoUpdate = (({ s with ht := { s.ht with
      hpo := v, hpStride := n % 256, outTgl := !s.ht.outTgl, ready := none } } : State).put Reg.HT_HP_STAT_LAST n) := by
  unfold State.hpoUpdate
  rw [hready]
  exact if_pos hgo

theorem tokenTake_takes (task opnd : Nat) (data : W24) (hgo : s.hitchGo = true) (hroom : s.ht.toks.length < 16) :
    State.tokenTake task opnd data s = (({ s with ht := { s.ht with toks := s.ht.toks ++ [⟨task, opnd, data⟩] } } : State).put
      Reg.HT_TK_STAT_OCC (s.ht.toks.length + 1)) := by
  refine (if_pos (by rw [hgo, decide_eq_true hroom]; rfl)).trans ?_
  unfold State.tkCount
  dsimp only
  rw [List.length_append]
  rfl

theorem tokenTake_idle (task opnd : Nat) (data : W24) (h : s.hitchGo = false ∨ 16 ≤ s.ht.toks.length) : State.tokenTake task opnd data s = s := by
  refine if_neg fun hall => ?_
  rw [Bool.and_eq_true, decide_eq_true_eq] at hall
  rcases h with h | h
  · exact absurd (h.symm.trans hall.1) (by decide)
  · exact absurd hall.2 (Nat.not_lt.mpr h)

variable {n : Nat}

theorem rxTake_takes {x : SCell} {rest : List SCell} (hgo : s.hitchGo = true) (h : look s.ht.rx n = x :: rest) :
    State.rxTake n s = (({ s with ht := { s.ht with rx := upd s.ht.rx n rest } } : State).put (Reg.HT_STRM_W1_RX_OCC n) rest.length) := by
  unfold State.rxTake
  rw [h]
  exact if_pos hgo

theorem rxTake_idle (h : s.hitchGo = false ∨ look s.ht.rx n = []) : State.rxTake n s = s := by
  unfold State.rxTake
  rcases h with h | h
  · rw [h]
    split <;> rfl
  · rw [h]

theorem txTake_eq (stream nb : Nat) (data : BitVec 112) (hgo : s.hitchGo = true) :
    State.txTake n stream nb data s = if s.isUp (16 + n) = false then s.sat (Reg.HT_STRM_W0_TX_DROP n) 1
      else if 32 ≤ (look s.ht.tx n).length then s
      else if 14 ≤ nb then s.sat (Reg.HT_STRM_W1_TX_BAD n) 1
      else { s with ht := { s.ht with tx := upd s.ht.tx n (look s.ht.tx n ++ [⟨stream, nb, data⟩]) } } := by
  unfold State.txTake
  simp only [hgo, Bool.not_true, Bool.false_eq_true, if_false, Bool.not_eq_true']

end Ports

/-- Settles O39. -/
theorem hitchPortsMoveData : Obligations.HitchPortsMoveData := by
  intro s h go
  have hidle {v : Bool} (hno : (if v = true then (if s.hitchGo then s else s.hitchRelease) else (if s.hitchGo then s.hitchHold else s)) = s) :
      exec (.hitchGoWrite v) s = .next s := congrArg Host.Outcome.next hno
  refine ⟨fun hgo => congrArg Host.Outcome.next ?_, fun hgo => hidle ?_, fun hgo => congrArg Host.Outcome.next ?_, fun hgo => hidle ?_,
    fun v => rfl, fun b mv => rfl, railOk_eq s, hitchBanks_eq s, fun hno => congrArg Host.Outcome.next (hpoUpdate_idle hno),
    fun hgo n v hready => congrArg Host.Outcome.next (hpoUpdate_takes hgo hready), fun v => rfl, fun task opnd data =>
      ⟨fun hgo hroom => congrArg Host.Outcome.next (tokenTake_takes _ _ _ hgo hroom),
        fun hno => congrArg Host.Outcome.next (tokenTake_idle _ _ _ hno)⟩, fun n => ⟨fun x rest hgo hrx =>
      congrArg Host.Outcome.next (rxTake_takes hgo hrx), fun hno => congrArg Host.Outcome.next (rxTake_idle hno), fun stream nb data => ?_⟩⟩
  · exact (if_pos rfl).trans ((if_neg (Bool.eq_false_iff.mp hgo)).trans (hitchRelease_eq s))
  · exact (if_pos rfl).trans (if_pos hgo)
  · exact (if_neg Bool.false_ne_true).trans ((if_pos hgo).trans (hitchHold_eq s))
  · exact (if_neg Bool.false_ne_true).trans (if_neg (Bool.eq_false_iff.mp hgo))
  · refine ⟨fun hgo => congrArg Host.Outcome.next (if_pos (by rw [show s.hitchGo = false from hgo]; rfl)), fun hgo hup => ?_, fun hgo hup hfull => ?_,
      fun hgo hup hroom hbad => ?_, fun hgo hup hroom hnb => ?_⟩
    all_goals refine congrArg Host.Outcome.next ((txTake_eq _ _ _ hgo).trans ?_)
    · exact if_pos hup
    · exact (if_neg (by rw [hup]; decide)).trans (if_pos hfull)
    · exact (if_neg (by rw [hup]; decide)).trans ((if_neg (Nat.not_le.mpr hroom)).trans (if_pos hbad))
    · exact (if_neg (by rw [hup]; decide)).trans ((if_neg (Nat.not_le.mpr hroom)).trans (if_neg (Nat.not_le.mpr hnb)))

end Sys2Proof.Machine
end

section
/-! Hitch regions, contention, clock trees and their commands (R319 to R323, R335, R337, R414). -/
namespace Sys2Proof.Machine

section Regions

variable {s : State}

theorem prHold_taken (r : Nat) (h : s.on Reg.HT_PR_HOLD = false) :
    s.prHold r = { (((s.put Reg.HT_PR_REGION r).set1 Reg.HT_PR_HOLD).set1 Reg.HT_STAT_PR_HELD) with ht := s.ht.holdRegion r } := by
  refine (if_neg (Bool.eq_false_iff.mp h)).trans ?_
  dsimp only
  rw [State.set1_ht, State.set1_ht, State.put_ht]

theorem prRelease_taken (h : s.on Reg.HT_PR_HOLD = true) :
    s.prRelease = { ((s.clr Reg.HT_PR_HOLD).clr Reg.HT_STAT_PR_HELD) with ht := s.ht.holdRegion (s.get Reg.HT_PR_REGION) } := by
  refine (if_pos h).trans ?_
  dsimp only
  rw [State.clr_ht, State.clr_ht]

theorem contend_eq (l : Nat) :
    let s1 := (({ s with ht := { s.ht with off := s.ht.off ++ [l] } } : State).set1 Reg.HT_STAT_CONTENTION).sat Reg.HT_CONT_COUNT 1
    let s2 := (s1.set1 Reg.HT_CONT_VALID).put Reg.HT_CONT_LINE l
    let n := s2.get Reg.HT_CONT_COUNT
    State.contend l s = if s.on Reg.HT_CTL_HITCH_GO = true ∧ 1 < (s.ht.enabled s.fabric l).length then
        if s.on Reg.HT_CONT_VALID = false then (s2.groomRec 3 4 0x1A (argOf l n)).postEvent 3 ⟨0x000D, 4, packBytes [(16, 2, l), (18, 2, n)]⟩
        else s1
      else s := by
  have hclash : (s.hitchGo && s.contends l) = true ↔ s.on Reg.HT_CTL_HITCH_GO = true ∧ 1 < (s.ht.enabled s.fabric l).length := by
    rw [Bool.and_eq_true, State.contends, decide_eq_true_eq]
    rfl
  unfold State.contend
  simp only [hclash, Bool.not_eq_true']

theorem extest_taken (v oe : BitVec 256) (h : s.mode = mIdle ∨ s.mode = mQuarantine) :
    s.extest v oe = { s with ht := { s.ht with extest := true, bscan := v, bscanOe := oe } } := if_pos h

theorem set1_setHitch (v : Hitch) (f : Fld) : ({ s with ht := v } : State).set1 f = { (s.set1 f) with ht := v } := rfl

theorem extest_refused (v oe : BitVec 256) (h1 : s.mode ≠ mIdle) (h2 : s.mode ≠ mQuarantine) :
    s.extest v oe = { (s.set1 Reg.HT_STAT_EXTEST_REFUSED) with ht := { s.ht with bscan := v, bscanOe := oe } } :=
  (if_neg (not_or.mpr ⟨h1, h2⟩)).trans (set1_setHitch _ _)

/-! ### HT_CLOCK -/

theorem htClock_eq (d : BitVec 512) (u : State) :
    let k := fieldOf d 8 1
    let n := fieldOf d 9 1
    let v := fieldOf d 10 2
    let w := u.get (Reg.HT_TREE_TREE n)
    State.htClock d u = if k = 0 then (if 2 ≤ v ∧ v ≤ 128 then ((u.put (Reg.HT_FCLK_D n) v).fclkErr, okResp) else (u, badDesc 5 10))
      else if k = 1 then (if v ≤ 1 then (u.treeWrite n (w - bits w 10 10 * 2 ^ 10 + v * 2 ^ 10), okResp) else (u, badDesc 5 10))
      else if k = 2 then (if v ≤ 255 then (u.treeWrite n (w - bits w 18 11 * 2 ^ 11 + v * 2 ^ 11), okResp) else (u, badDesc 5 10))
      else (if v ≤ 1 then (u.treeWrite n (w - bits w 19 19 * 2 ^ 19 + v * 2 ^ 19), okResp) else (u, badDesc 5 10)) := rfl

theorem treeWrite_switches {t x : Nat} (hrun : bit x 19 = true) (hsel : (s.ht.treeOf t).sel ≠ bits x 10 10) (hidle : look s.ht.trees t = 0) :
    s.treeWrite t x = { (s.put (Reg.HT_TREE_TREE t) x) with ht := { s.ht with trees := upd s.ht.trees t 1 } } :=
  (if_pos (by rw [hrun, bne_iff_ne.mpr hsel]; rfl)).trans (if_pos hidle)

/-! ### HT_PARTIAL -/

variable {dma : HostDma}

theorem dmaBad_unmastered (h : s.mayMaster = false) : s.dmaBad dma = some (errResp 5 0 0 0) := if_pos (by rw [h]; rfl)

theorem dmaBad_failed (h : s.mayMaster = true) (hst : dma.status ≠ 0) : s.dmaBad dma = some (errResp 5 dma.status 0 0) :=
  (if_neg (by rw [h]; decide)).trans (if_pos hst)

theorem dmaBad_none (h : s.mayMaster = true) (hst : dma.status = 0) : s.dmaBad dma = none :=
  (if_neg (by rw [h]; decide)).trans (if_neg (not_not.mpr hst))

theorem partialEnd_bad {d : BitVec 512} {r : Resp} (h : s.dmaBad dma = some r) : State.partialEnd dma d s = (s, r) := by
  rw [State.partialEnd, h]

/-- A transfer that is complete: a refused record ends it, and records that are all legal are applied to the held region. -/
theorem partialEnd_read {d : BitVec 512} (h : s.dmaBad dma = none) :
    let r := fieldOf d 8 1
    let n := fieldOf d 12 4
    let rs := hRecs n ((dma.data ++ leBytes (16 * n - dma.data.length) 0).take (16 * n))
    let a := s.prHold r
    State.partialEnd dma d s = match firstBad (s.ht.clearRegion r) s.nTeams r rs 0 [] rs with
      | some i => (s, errResp 1 5 i (i / 65536))
      | none => (({ a with ht := rs.foldl Hitch.apply (a.ht.clearRegion r) } : State).prRelease, okResp) := by
  unfold State.partialEnd
  rw [h] <;> rfl

/-- A started HT_PARTIAL answers with what its end makes of the transfer. -/
theorem htPartial_due {c : Taken} (h : s.due 3 0x0801 c) :
    exec (.htPartial dma) s = .next (let p := if c.cut = true then (s, dmaCut) else s.partialEnd dma c.desc
      p.1.finishAt 3 0 p.2) := congrArg Host.Outcome.next (State.cmdLong_due h)

end Regions

/-- Settles O40. -/
theorem hitchRegionsClocksAndContention : Obligations.HitchRegionsClocksAndContention := by
  refine ⟨fun s => ⟨fun r h => congrArg Host.Outcome.next (prHold_taken r h), fun r h => congrArg Host.Outcome.next (if_pos h),
      fun h => congrArg Host.Outcome.next (prRelease_taken h), fun h => congrArg Host.Outcome.next (if_neg (Bool.eq_false_iff.mp h)), fun l => ?_, rfl,
      fun t => ?_, fun v oe h => ?_, fun v oe h1 h2 => ?_⟩, fun s i c => ?_, fun s c dma hdue => ?_⟩
  · intro s1 s2 n clash
    refine ⟨fun h => ?_, fun h hv => ?_, fun h hv => ?_⟩
    all_goals refine congrArg Host.Outcome.next ((contend_eq l.val).trans ?_)
    · exact if_neg h
    · exact (if_pos h).trans (if_neg (by rw [hv]; decide))
    · exact (if_pos h).trans (if_pos hv)
  · exact ⟨rfl, rfl⟩
  · exact congrArg (fun u : State => Host.Outcome.next { u with chip := { s.chip with jtagIr := 0 } }) (extest_taken v oe h)
  · have hextest : exec (.extest v oe) s = .next { s.extest v oe with chip := { s.chip with jtagIr := 0 } } := rfl
    rw [hextest, extest_refused v oe h1 h2]
  · intro d u k n v w done
    refine ⟨fun ht => congrArg Host.Outcome.next ((State.cmd_turn ht _).trans ?_), fun ht => ?_, fun a t x hrun hsel hidle =>
      treeWrite_switches hrun hsel hidle, fun dma ht => congrArg Host.Outcome.next (State.cmdLong_goes ht rfl)⟩
    · rfl
    · have hclock (a : State) (r : Resp) (h : State.htClock d u = (a, r)) : done a r := by
        refine congrArg Host.Outcome.next ((State.cmd_turn ht _).trans ?_)
        rw [show State.htClock c.desc (s.less 3 i) = (a, r) from h]
      refine ⟨fun h0 h2 h128 => hclock _ _ ?_, fun h1 hv => hclock _ _ ?_, fun h2 hv => hclock _ _ ?_, fun h3 hv => hclock _ _ ?_,
        fun h => hclock _ _ ?_⟩
      all_goals refine (htClock_eq d u).trans ?_
      · exact (if_pos h0).trans (if_pos ⟨h2, h128⟩)
      · exact (if_neg (by omega)).trans ((if_pos h1).trans (if_pos hv))
      · exact (if_neg (by omega)).trans ((if_neg (by omega)).trans ((if_pos h2).trans (if_pos hv)))
      · exact (if_neg (by omega)).trans ((if_neg (by omega)).trans ((if_neg (by omega)).trans (if_pos hv)))
      · rcases h with ⟨h0, hv⟩ | ⟨h1, hv⟩ | ⟨h2, hv⟩ | ⟨h3, hv⟩
        · exact (if_pos h0).trans (if_neg (by omega))
        · exact (if_neg (by omega)).trans ((if_pos h1).trans (if_neg (by omega)))
        · exact (if_neg (by omega)).trans ((if_neg (by omega)).trans ((if_pos h2).trans (if_neg (by omega))))
        · exact (if_neg (by omega)).trans ((if_neg (by omega)).trans ((if_neg (by omega)).trans (if_neg (by omega))))
  · intro d r n rs ends
    have hends (a : State) (x : Resp) (hcut : c.cut = false) (h : s.partialEnd dma c.desc = (a, x)) : ends a x := by
      refine (htPartial_due hdue).trans (congrArg Host.Outcome.next ?_)
      rw [if_neg (Bool.eq_false_iff.mp hcut), h]
    refine ⟨fun hcut => ?_, fun hcut hm => ?_, fun hcut hm hst => ?_, fun hcut hm hst => ⟨fun j hj => ?_, fun hgood => ?_⟩⟩
    · refine (htPartial_due hdue).trans (congrArg Host.Outcome.next ?_)
      rw [if_pos hcut]
      rfl
    · exact hends _ _ hcut (partialEnd_bad (dmaBad_unmastered hm))
    · exact hends _ _ hcut (partialEnd_bad (dmaBad_failed hm hst))
    · refine hends _ _ hcut ((partialEnd_read (dmaBad_none hm hst)).trans ?_)
      rw [hj]
    · refine hends _ _ hcut ((partialEnd_read (dmaBad_none hm hst)).trans ?_)
      rw [hgood]

end Sys2Proof.Machine
end

section
/-! The time port sends and receives frames (R354 to R357). -/
namespace Sys2Proof.Machine

section Port

variable {s : State}

theorem tpDone_next {j : Nat} {rest : List Nat} (at_ : Moment) (h : s.tb.goOrder = j :: rest) :
    let n := s.get (Reg.TP_TXD_LEN j)
    let mac := macFrame (s.tpBytes (0x4000 + 0x800 * j) n)
    let a := ({ s with free := s.free + 1, tb := { s.tb with
      goOrder := rest, sent := mac, line := scrambled (Config.freeW64 s.free).toNat (pcsBlocks mac) } } : State).clr (Reg.TP_TXD_GO j)
    State.tpDone at_ s = if n < 60 ∨ 2044 < n then
        (({ s with tb := { s.tb with goOrder := rest } } : State).clr (Reg.TP_TXD_GO j)).sat Reg.TP_CNT_TX_BAD 1
      else if s.on Reg.TP_STAT_LINK_UP = true then
        if s.on (Reg.TP_TXD_STAMP j) then a.pushStamp 20 (s.get (Reg.TP_TXD_ID j)) (s.stampOf at_ 165) else a
      else s := by
  unfold State.tpDone
  rw [h] <;> rfl

/-- A frame is good when its FCS is right and its length legal (R356). -/
theorem goodFrame_iff (mac : List Byte) :
    (!fcsOk mac || decide ((mac.take (mac.length - 4)).length < 60) || decide (2044 < (mac.take (mac.length - 4)).length)) = true
      ↔ ¬ (fcsOk mac = true ∧ 60 ≤ (mac.take (mac.length - 4)).length ∧ (mac.take (mac.length - 4)).length ≤ 2044) := by
  simp only [Bool.or_eq_true, Bool.not_eq_true', decide_eq_true_eq, not_and_or, Nat.not_le, Bool.not_eq_true, or_assoc]

theorem tpRx_frame {blocks : List RxBlock} (at_ : Moment) {mac : List Byte} (h : pcsFrame (descrambled blocks) = some mac)
    (hup : s.on Reg.TP_STAT_LINK_UP = true) :
    let frame := mac.take (mac.length - 4)
    State.tpRx blocks at_ s = if fcsOk mac = true ∧ 60 ≤ frame.length ∧ frame.length ≤ 2044 then s.tpStore frame (s.stampOf at_ 165)
      else s.sat Reg.TP_CNT_FCS_ERR 1 := by
  intro frame
  unfold State.tpRx
  rw [h]
  refine (if_neg (by rw [hup]; decide)).trans ?_
  by_cases hgood : fcsOk mac = true ∧ 60 ≤ frame.length ∧ frame.length ≤ 2044
  · rw [if_pos hgood]
    exact if_neg fun hbad => (goodFrame_iff mac).mp hbad hgood
  · rw [if_neg hgood]
    exact if_pos ((goodFrame_iff mac).mpr hgood)

theorem tpRx_idle {blocks : List RxBlock} (at_ : Moment)
    (h : pcsFrame (descrambled blocks) = none ∨ s.on Reg.TP_STAT_LINK_UP = false) : State.tpRx blocks at_ s = s := by
  unfold State.tpRx
  split
  next => rfl
  next mac hmac =>
    refine if_pos ?_
    rcases h with h | h
    · rw [h] at hmac
      cases hmac
    · rw [h]
      rfl

theorem pushStamp_queued {src id : Nat} {v : Stamp} (h : s.tb.txq.length < 16) :
    s.pushStamp src id v = ({ s with tb := { s.tb with txq := s.tb.txq ++ [⟨src, id, v⟩] } } : State).put Reg.TB_STAT_TXQ_CNT
      (s.tb.txq.length + 1) := by
  refine (if_pos h).trans ?_
  unfold State.txqCount
  dsimp only
  rw [List.length_append]
  rfl

end Port

/-- Settles O42. -/
theorem timePortMovesFrames : Obligations.TimePortMovesFrames := by
  intro s
  refine ⟨fun heads bad hen => congrArg Host.Outcome.next (if_pos hen),
    fun heads bad hen => congrArg Host.Outcome.next (if_neg (Bool.eq_false_iff.mp hen)), fun j => rfl, fun at_ h => congrArg Host.Outcome.next ?_,
    fun j rest at_ h => ?_, fun src id v => ⟨pushStamp_queued, fun h => if_neg (Nat.not_lt.mpr h)⟩,
    fun blocks at_ h => congrArg Host.Outcome.next (tpRx_idle at_ h), fun blocks at_ mac hmac hup => ?_, fun j => rfl⟩
  · rw [State.tpDone, h]
  · intro n mac a
    refine ⟨fun h60 h2044 hup => congrArg Host.Outcome.next ?_, fun h60 h2044 hup => congrArg Host.Outcome.next ?_,
      fun hbad => congrArg Host.Outcome.next ((tpDone_next at_ h).trans (if_pos hbad))⟩
    · exact (tpDone_next at_ h).trans ((if_neg (by omega)).trans (if_pos hup))
    · exact (tpDone_next at_ h).trans ((if_neg (by omega)).trans (if_neg (Bool.eq_false_iff.mp hup)))
  · intro frame good j v
    refine ⟨fun hbad => congrArg Host.Outcome.next ((tpRx_frame at_ hmac hup).trans (if_neg hbad)),
      fun hgood hfull => congrArg Host.Outcome.next ((tpRx_frame at_ hmac hup).trans ((if_pos hgood).trans (if_pos hfull))),
      fun hgood hfull => congrArg Host.Outcome.next ((tpRx_frame at_ hmac hup).trans ((if_pos hgood).trans (if_neg (Bool.eq_false_iff.mp hfull))))⟩

end Sys2Proof.Machine
end

section
/-! The commands of the Time Base, its compare units and the time port (R352, R408, R410). -/
namespace Sys2Proof.Machine

/-- A command that is done at once answers what its meaning makes of the state without it. -/
theorem cmd_answers {s u : State} {m op i : Nat} {c : Taken} {f : BitVec 512 → State → State × Resp} {r : Resp} (ht : s.turn m op i c)
    (e : f c.desc (s.less m i) = (u, r)) : (.next (s.cmd m op f) : Out) = .next (u.respond m c false r) :=
  congrArg Host.Outcome.next ((State.cmd_turn ht f).trans (by rw [e]))

/-! ### TB_SET -/

section TbSet

variable {s : State} {d : BitVec 512}

theorem tbSetBad_value (h : fieldOf d 8 1 = 0) :
    s.tbSetBad d = none ↔ fieldOf d 12 8 < 2 ^ 48 ∧ fieldOf d 20 4 < 1000000000 ∧ fieldOf d 24 4 < 2 ^ 24 := by
  unfold State.tbSetBad
  dsimp only
  rw [if_pos h]
  split
  · simp; omega
  · split
    · simp; omega
    · split
      · simp; omega
      · simp; omega

theorem tbSetBad_offset (h : fieldOf d 8 1 = 2) :
    s.tbSetBad d = none ↔ (-999999999 ≤ sint 32 (fieldOf d 12 4) ∧ sint 32 (fieldOf d 12 4) ≤ 999999999)
      ∧ -999999999 ≤ s.tb.adj.getD 0 + sint 32 (fieldOf d 12 4) ∧ s.tb.adj.getD 0 + sint 32 (fieldOf d 12 4) ≤ 999999999 := by
  unfold State.tbSetBad sArg
  dsimp only
  rw [if_neg (by omega), if_pos h]
  simp only [Bool.and_eq_true, decide_eq_true_eq]
  split
  next hlegal => exact iff_of_true rfl hlegal
  next hbad => exact iff_of_false (by simp) hbad

theorem tbSetBad_enable (h : fieldOf d 8 1 = 3) : s.tbSetBad d = none ↔ fieldOf d 12 8 ≤ 1 := by
  unfold State.tbSetBad
  dsimp only
  rw [if_neg (by omega), if_neg (by omega), if_pos h]
  split
  next hbad => exact iff_of_false (by simp) (by omega)
  next hlegal => exact iff_of_true rfl (by omega)

theorem tbSetBad_inc (h : fieldOf d 8 1 = 1) : s.tbSetBad d = none := by
  unfold State.tbSetBad
  dsimp only
  rw [if_neg (by omega), if_neg (by omega), if_neg (by omega)]

theorem tbSetCmd_bad {x : Nat} (h : s.tbSetBad d = some x) : s.tbSetCmd d = (s, 0, some (badDesc 5 x)) := by rw [State.tbSetCmd, h]

theorem tbSetCmd_good (h : s.tbSetBad d = none) : s.tbSetCmd d =
    if fieldOf d 8 1 = 0 then
      ((((s.putPair Adr.TB_SET_SEC_LO Adr.TB_SET_SEC_HI (fieldOf d 12 8)).wr Adr.TB_SET_NS (BitVec.ofNat 32 (fieldOf d 20 4))).wr
        Adr.TB_SET_FRAC (BitVec.ofNat 32 (fieldOf d 24 4))).tbSet, 0, none)
    else if fieldOf d 8 1 = 1 then (s.tbInc (BitVec.ofNat 32 (fieldOf d 12 4)), 0, none)
    else if fieldOf d 8 1 = 2 then (s.tbAdj (BitVec.ofNat 32 (fieldOf d 12 4)), 0, none)
    else (s.put Reg.TB_CTL_EN (fieldOf d 12 1), 0, some okResp) := by rw [State.tbSetCmd, h]

end TbSet

/-! ### Compare units -/

section Compare

variable {s : State} {i : Nat} {c : Taken} {d : BitVec 512}

theorem cmpAlloc_some {k : Nat} (h : (List.range 8).find? (fun k => look s.tb.owner k == 0) = some k) :
    State.cmpAlloc d s =
      (let a := ({ s with tb := { s.tb with owner := upd s.tb.owner k (1 + fieldOf d 9 1) } } : State)
       let b := (a.wr (Adr.TB_CMP_TGT k) (BitVec.ofNat 32 (fieldOf d 12 4))).wr (Adr.TB_CMP_PER k) (BitVec.ofNat 32 (fieldOf d 16 4))
       ((b.put (Reg.TB_CMP_CTL_PERIODIC k) (fieldOf d 8 1)).set1 (Reg.TB_CMP_CTL_ARM k), okWith 1 (packBytes [(16, 1, k)]))) := by
  rw [State.cmpAlloc, h]

theorem cmpAlloc_none (h : ∀ k < 8, look s.tb.owner k ≠ 0) : State.cmpAlloc d s = (s, errResp 0x13 2 0 0) := by
  have hnone : (List.range 8).find? (fun k => look s.tb.owner k == 0) = none :=
    List.find?_eq_none.mpr fun k hk => by simpa using h k (List.mem_range.mp hk)
  rw [State.cmpAlloc, hnone]

/-- CMP_FREE waits for the events of earlier firings of its unit. -/
theorem cmpWaits_iff (ht : s.turn 1 0x0703 i c) :
    s.cmpWaits = true ↔ ∃ e ∈ (s.box 1).events, e.code = 0x12 ∧ e.result % 256 = fieldOf c.desc 8 1 := by
  rw [State.cmpWaits, ht.1]
  simp only [List.any_eq_true, Bool.and_eq_true, beq_iff_eq]

end Compare

/-! ### The time port -/

section Port

variable {s : State} {i : Nat} {c : Taken} {d : BitVec 512} {dma : HostDma}

theorem tpTx_waits (ht : s.turn 1 0x0705 i c) (h : s.freeTx = none) :
    exec (.tpTx dma) s = .next ((s.pollStarted 1 0x0705 State.tpTxPoll).getD s) :=
  congrArg Host.Outcome.next (if_pos (by rw [ht.1, h]; rfl))

theorem tpTx_starts {j : Nat} (h : s.freeTx = some j) :
    exec (.tpTx dma) s = .next (s.cmdLong 1 0x0705 (State.tpTxBegin dma) State.tpTxPoll) :=
  congrArg Host.Outcome.next (if_neg (by rw [h]; simp))

theorem tpTxBegin_failed {r : Resp} (h : s.dmaBad dma = some r) : s.tpTxBegin dma d = (s, 0, some r) := by rw [State.tpTxBegin, h]

theorem tpTxBegin_placed {j : Nat} (h : s.dmaBad dma = none) (hj : s.freeTx = some j) :
    s.tpTxBegin dma d =
      (let n := fieldOf d 8 2
       let a := s.setTpBytes (0x4000 + 0x800 * j) (dmaBytes dma n)
       let b := ((a.put (Reg.TP_TXD_LEN j) n).put (Reg.TP_TXD_STAMP j) (fieldOf d 10 1)).put (Reg.TP_TXD_ID j) (fieldOf d 11 1)
       (b.tpGo j, j + 1, none)) := by rw [State.tpTxBegin, h, hj]

/-- A started TP_TX waits for GO to clear, and then for its stamp where one was asked for. -/
theorem tpTxPoll_sent (h : ¬ (c.note = 0 ∨ s.on (Reg.TP_TXD_GO (c.note - 1)) = true)) :
    State.tpTxPoll c s = if fieldOf c.desc 10 1 = 0 then some (s, okResp) else
      match s.tb.txq.find? (fun e => e.src == 20 && e.id == fieldOf c.desc 11 1) with
      | none => none
      | some e => some (({ s with tb := { s.tb with txq := s.tb.txq.erase e } } : State).put Reg.TB_STAT_TXQ_CNT (s.tb.txq.erase e).length,
          okWith 16 (packBytes [(16, 6, e.at_.sec), (24, 4, e.at_.ns), (28, 4, e.at_.frac)])) := by
  unfold State.tpTxPoll
  rw [if_neg h] <;> rfl

theorem tpRxTake_none (h : s.oldestRx = none) : s.tpRxTake d = none := by rw [State.tpRxTake, h]

theorem tpRxTake_unmastered {j : Nat} (h : s.oldestRx = some j) (hm : s.mayMaster = false) :
    s.tpRxTake d = some (s, errResp 5 0 0 0) := by
  rw [State.tpRxTake, h]
  dsimp only
  rw [dmaBad_unmastered hm]

theorem tpRxTake_frame {j : Nat} (h : s.oldestRx = some j) (hm : s.mayMaster = true) :
    let n := s.get (Reg.TP_RXD_W0_LEN j)
    s.tpRxTake d = some ((s.toHost (fieldOf d 16 8) (s.tpBytes (0x8000 + 0x800 * j) n)).clr (Reg.TP_RXD_W0_FULL j),
      okWith 16 (packBytes [(16, 2, n), (18, 6, s.get (Reg.TP_RXD_W0_SEC_HI j) * 2 ^ 32 + s.get (Reg.TP_RXD_W1_SEC_LO j)),
        (24, 4, s.get (Reg.TP_RXD_W2_NS j)), (28, 4, s.get (Reg.TP_RXD_W3_FRAC j))])) := by
  rw [State.tpRxTake, h]
  dsimp only
  rw [dmaBad_none hm rfl]

theorem tpRxBegin_frame {p : State × Resp} (h : s.tpRxTake d = some p) : s.tpRxBegin d = (p.1, 0, some p.2) := by rw [State.tpRxBegin, h]

theorem tpRxBegin_none (h : s.tpRxTake d = none) : s.tpRxBegin d = (s, 0, if fieldOf d 8 4 = 0 then some noFrame else none) := by
  rw [State.tpRxBegin, h]

end Port

/-! ### The commands as they start -/

section Starts

variable {s : State} {i : Nat} {c : Taken}

theorem tbSet_starts (ht : s.turn 1 0x0701 i c) :
    let d := c.desc
    let v := s.started 1 i 0 c
    (∀ x, s.tbSetBad d = some x → exec .tbSet s = .next (v.finishAt 1 i (badDesc 5 x)))
    ∧ (s.tbSetBad d = none → fieldOf d 8 1 = 0 → exec .tbSet s = .next
      ((((v.putPair Adr.TB_SET_SEC_LO Adr.TB_SET_SEC_HI (fieldOf d 12 8)).wr Adr.TB_SET_NS (BitVec.ofNat 32 (fieldOf d 20 4))).wr
        Adr.TB_SET_FRAC (BitVec.ofNat 32 (fieldOf d 24 4))).tbSet.started 1 i 0 c))
    ∧ (s.tbSetBad d = none → fieldOf d 8 1 = 1 → exec .tbSet s = .next ((v.tbInc (BitVec.ofNat 32 (fieldOf d 12 4))).started 1 i 0 c))
    ∧ (s.tbSetBad d = none → fieldOf d 8 1 = 2 → exec .tbSet s = .next ((v.tbAdj (BitVec.ofNat 32 (fieldOf d 12 4))).started 1 i 0 c))
    ∧ (s.tbSetBad d = none → 3 ≤ fieldOf d 8 1 → exec .tbSet s = .next ((v.put Reg.TB_CTL_EN (fieldOf d 12 1)).finishAt 1 i okResp)) := by
  intro d v
  have hbad : v.tbSetBad d = s.tbSetBad d := rfl
  refine ⟨fun x hx => congrArg Host.Outcome.next (State.cmdLong_done ht (tbSetCmd_bad (hbad.trans hx))),
    fun hgood hk => congrArg Host.Outcome.next (State.cmdLong_goes ht ((tbSetCmd_good (hbad.trans hgood)).trans ?_)),
    fun hgood hk => congrArg Host.Outcome.next (State.cmdLong_goes ht ((tbSetCmd_good (hbad.trans hgood)).trans ?_)),
    fun hgood hk => congrArg Host.Outcome.next (State.cmdLong_goes ht ((tbSetCmd_good (hbad.trans hgood)).trans ?_)),
    fun hgood hk => congrArg Host.Outcome.next (State.cmdLong_done (n := 0) ht ((tbSetCmd_good (hbad.trans hgood)).trans ?_))⟩
  · exact if_pos hk
  · exact (if_neg (by omega)).trans (if_pos hk)
  · exact (if_neg (by omega)).trans ((if_neg (by omega)).trans (if_pos hk))
  · exact (if_neg (by omega)).trans ((if_neg (by omega)).trans (if_neg (by omega)))

theorem tpRx_starts (ht : s.turn 1 0x0706 i c) (hpoll : s.pollStarted 1 0x0706 State.tpRxPoll = none) :
    let d := c.desc
    let v := s.started 1 i 0 c
    (∀ p, v.tpRxTake d = some p → exec .tpRx s = .next (p.1.finishAt 1 i p.2))
    ∧ (v.tpRxTake d = none → fieldOf d 8 4 = 0 → exec .tpRx s = .next (v.finishAt 1 i (okWith 16 0)))
    ∧ (v.tpRxTake d = none → fieldOf d 8 4 ≠ 0 → exec .tpRx s = .next (v.started 1 i 0 c)) := by
  intro d v
  have hrun : exec .tpRx s = .next (s.cmdLong 1 0x0706 State.tpRxBegin State.tpRxPoll) :=
    congrArg Host.Outcome.next (by rw [hpoll]; rfl)
  rw [hrun]
  refine ⟨fun p hp => congrArg Host.Outcome.next (State.cmdLong_done ht (tpRxBegin_frame hp)),
    fun hnone hk => congrArg Host.Outcome.next (State.cmdLong_done (n := 0) ht ((tpRxBegin_none hnone).trans ?_)),
    fun hnone hk => congrArg Host.Outcome.next (State.cmdLong_goes (n := 0) ht ((tpRxBegin_none hnone).trans ?_))⟩
  · rw [if_pos hk]
    rfl
  · rw [if_neg hk]

end Starts

/-- Settles O43. -/
theorem timeCommandsAnswer : Obligations.TimeCommandsAnswer := by
  refine ⟨fun s i c => ?_, fun s c => ?_⟩
  · intro d u v
    refine ⟨tbSet_starts, ⟨tbSetBad_value, tbSetBad_inc, tbSetBad_offset, tbSetBad_enable⟩, fun ht => ⟨fun k hk => ?_, fun hno => ?_⟩,
      fun ht => ?_, fun dma ht => ⟨tpTx_waits ht, fun j r hj hr => ?_, fun j hj hr => ?_⟩, fun dma => ?_, tpRx_starts,
      tpRxTake_none, fun j => tpRxTake_unmastered, fun j => tpRxTake_frame⟩
    · exact cmd_answers ht (cmpAlloc_some (s := s.less 1 i) hk)
    · exact cmd_answers ht (cmpAlloc_none (s := s.less 1 i) hno)
    · intro k waits
      have hfree (h : ¬ waits) : exec .cmpFree s = .next (s.cmd 1 0x0703 State.cmpFree) :=
        congrArg Host.Outcome.next (if_neg fun hw => h ((cmpWaits_iff ht).mp hw))
      refine ⟨fun h => congrArg Host.Outcome.next (if_pos ((cmpWaits_iff ht).mpr h)), fun h hk => ?_, fun h hk => ?_⟩
      · exact (hfree h).trans (cmd_answers ht (if_neg hk))
      · have hsmall : k / 65536 = 0 := Nat.div_eq_of_lt (lt_of_lt_of_le (Nat.mod_lt _ (by decide)) (by decide : 256 ^ 1 ≤ 65536))
        have hheld : notHeld k = errResp 0x14 k 0 0 := by rw [notHeld, hsmall]
        rw [← hheld]
        exact (hfree h).trans (cmd_answers ht (if_pos hk))
    · exact (tpTx_starts hj).trans (congrArg Host.Outcome.next (State.cmdLong_done ht (tpTxBegin_failed hr)))
    · exact (tpTx_starts hj).trans (congrArg Host.Outcome.next (State.cmdLong_goes ht (tpTxBegin_placed hr hj)))
    · cases hm : s.mayMaster
      · exact (dmaBad_unmastered hm).trans (if_neg Bool.false_ne_true).symm
      · by_cases hst : dma.status = 0
        · exact (dmaBad_none hm hst).trans ((if_pos rfl).trans (if_pos hst)).symm
        · exact (dmaBad_failed hm hst).trans ((if_pos rfl).trans (if_neg hst)).symm
  · intro d k
    refine ⟨fun hdue => ?_, fun dma hdue => ?_, fun hdue => ?_, fun hno => ?_⟩
    · intro waits
      refine congrArg Host.Outcome.next ((State.cmdLong_due hdue).trans ?_)
      have hpoll : State.tbSetPoll c s = if waits = true then none else some (s, okResp) := rfl
      rw [hpoll]
      cases waits <;> rfl
    · intro busy
      have hrun : exec (.tpTx dma) s = .next (((State.tpTxPoll c s).map (fun p => p.1.finishAt 1 0 p.2)).getD s) :=
        congrArg Host.Outcome.next ((if_neg (by rw [State.startable_due hdue]; simp)).trans (State.cmdLong_due hdue))
      rw [hrun]
      refine ⟨fun hb => ?_, fun hb hk => ?_, fun hb hk he => ?_, fun e hb hk he => ?_⟩
      · rw [show State.tpTxPoll c s = none from if_pos hb]
        rfl
      all_goals rw [tpTxPoll_sent hb]
      · rw [if_pos hk]
        rfl
      · rw [if_neg hk, he]
        rfl
      · rw [if_neg hk, he]
        rfl
    · have hstart (f : Taken → State → Option (State × Resp)) := State.pollStarted_due hdue f
      refine ⟨fun p hp => ⟨congrArg Host.Outcome.next ?_, congrArg Host.Outcome.next ?_⟩, fun hnone =>
        ⟨congrArg Host.Outcome.next ?_, congrArg Host.Outcome.next ?_⟩⟩
      · rw [hstart, show State.tpRxPoll c s = some p from hp]
        rfl
      · rw [hstart, show s.tpRxTake c.desc = some p from hp]
        rfl
      · rw [hstart, show State.tpRxPoll c s = none from hnone]
        have hlong : s.cmdLong 1 0x0706 State.tpRxBegin State.tpRxPoll = s := by
          rw [State.cmdLong_due hdue, show State.tpRxPoll c s = none from hnone]
          rfl
        exact hlong
      · rw [hstart, show s.tpRxTake c.desc = none from hnone]
        rfl
    · refine congrArg Host.Outcome.next ?_
      rw [pollStarted_none fun x hx => .inl (hno x hx)]
      rfl

end Sys2Proof.Machine
end

section
/-! Interrupt enables, MSI-X, configuration writes and the resets of the endpoint (R358, R362, R382, R384). -/
namespace Sys2Proof.Machine

variable {s : State}

/-! ### The always-on halt -/

theorem unlessHalted_on (f : State → State) (h : s.chip.halted = true) : s.unlessHalted f = .next s :=
  congrArg Host.Outcome.next (if_pos h)

theorem unlessHalted_off (f : State → State) (h : s.chip.halted = false) : s.unlessHalted f = .next (f s) :=
  congrArg Host.Outcome.next (if_neg (Bool.eq_false_iff.mp h))

/-! ### The MSI-X table and its pending bits -/

/-- A word whose bit 0 has been written with 0. -/
theorem setBits_getLsbD_zero (w : Word) : (setBits w 0 0 0).getLsbD 0 = false := by
  have h : bits (setBits w 0 0 0).toNat 0 0 = 0 := bits_setBits_same w 0 (Nat.le_refl 0) (by decide)
  have h' : (setBits w 0 0 0).toNat % 2 = 0 := by simpa [bits] using h
  simp [BitVec.getLsbD, Nat.testBit_zero, h']

/-- A pending bit that has been cleared. -/
theorem pba_cleared (p : BitVec 64) {v : Nat} : (p &&& ~~~BitVec.ofNat 64 (2 ^ v)).getLsbD v = false := by
  by_cases hv : v < 64
  · rw [BitVec.getLsbD_and, BitVec.getLsbD_not, BitVec.getLsbD_ofNat, Nat.testBit_two_pow_self]; simp [hv]
  · exact BitVec.getLsbD_of_ge _ _ (Nat.le_of_not_lt hv)

/-- The state in which the mask bit of vector `v` is 0. -/
def State.unmasked (s : State) (v : Nat) : State :=
  { s with pcie := { s.pcie with
      msix := Tab.set msixReset s.pcie.msix (16 * v + 12) (setBits (s.msixWord (16 * v + 12)) 0 0 0) } }

theorem State.unmask_eq (s : State) (v : Nat) : s.unmask v = (s.unmasked v).sendPending v := rfl

theorem State.unmasked_word (s : State) (v : Nat) :
    (s.unmasked v).msixWord (16 * v + 12) = setBits (s.msixWord (16 * v + 12)) 0 0 0 :=
  Tab.get_set_same _ _ _ _

theorem State.unmasked_word_other (s : State) (v : Nat) {off : Nat} (h : off ≠ 16 * v + 12) :
    (s.unmasked v).msixWord off = s.msixWord off :=
  Tab.get_set_other _ _ _ h

theorem State.unmasked_mask (s : State) (v : Nat) : ((s.unmasked v).msixWord (16 * v + 12)).getLsbD 0 = false := by
  rw [s.unmasked_word]; exact setBits_getLsbD_zero _

/-- A vector without a pending bit sends nothing. -/
theorem State.sendPending_none {v : Nat} (h : s.pcie.pba.getLsbD v = false) : s.sendPending v = s :=
  if_neg (by simp [h])

/-- Nothing is sent while the function masks every vector, has MSI-X disabled or may not issue requests. -/
theorem State.sendPending_held {v : Nat} (h : s.pcie.fnMask = true ∨ s.pcie.msixEnable = false ∨ s.mayMaster = false) :
    s.sendPending v = s := by
  refine if_neg ?_
  rcases h with h | h | h <;> simp [h, State.masked]

/-- A pending message that nothing masks leaves, and its pending bit clears. -/
theorem State.sendPending_leaves {v : Nat} (hp : s.pcie.pba.getLsbD v = true) (hm : s.masked v = false)
    (he : s.pcie.msixEnable = true) (hb : s.mayMaster = true) (hh : s.chip.halted = false) :
    (s.sendPending v).pcie.pba.getLsbD v = false
    ∧ (s.sendPending v).pcie.sent = (s.msixWord (16 * v + 4) ++ s.msixWord (16 * v), s.msixWord (16 * v + 8)) :: s.pcie.sent := by
  have e : s.sendPending v = (({ s with pcie := { s.pcie with pba := s.pcie.pba &&& ~~~(BitVec.ofNat 64 (2 ^ v)) } } : State).emitMsg v) :=
    if_pos (by simp [hp, hm, he, hb, hh])
  rw [e]
  exact ⟨pba_cleared _, rfl⟩

/-! ### Unmasking a vector -/

theorem unmask_without_pending (s : State) (v : Fin 64) (hp : s.pcie.pba.getLsbD v = false) :
    ∃ t, exec (.msixVectorUnmask v) s = .next t
      ∧ (s.chip.halted = false → (t.msixWord (16 * v + 12)).getLsbD 0 = false) ∧ t.pcie.sent = s.pcie.sent ∧ t.regs = s.regs := by
  cases hh : s.chip.halted
  · have e : s.unmask v.val = s.unmasked v.val :=
      (s.unmask_eq v).trans (State.sendPending_none (s := s.unmasked v.val) hp)
    exact ⟨s.unmasked v.val, (unlessHalted_off (State.unmask v.val) hh).trans (congrArg Host.Outcome.next e),
      fun _ => s.unmasked_mask v, rfl, rfl⟩
  · exact ⟨s, unlessHalted_on (State.unmask v.val) hh, fun h => Bool.noConfusion h, rfl, rfl⟩

theorem unmask_with_pending (s : State) (v : Fin 64) (hp : s.pcie.pba.getLsbD v = true) (hf : s.pcie.fnMask = false)
    (he : s.pcie.msixEnable = true) (hb : s.mayMaster = true) (hh : s.chip.halted = false) :
    ∃ t, exec (.msixVectorUnmask v) s = .next t ∧ t.pcie.pba.getLsbD v = false
      ∧ t.pcie.sent = (s.msixWord (16 * v + 4) ++ s.msixWord (16 * v), s.msixWord (16 * v + 8)) :: s.pcie.sent := by
  have hm : (s.unmasked v.val).masked v.val = false := by
    have h : (s.pcie.fnMask || ((s.unmasked v.val).msixWord (16 * v + 12)).getLsbD 0) = false := by
      rw [hf, s.unmasked_mask]; rfl
    exact h
  obtain ⟨hclear, hsent⟩ := State.sendPending_leaves (s := s.unmasked v.val) hp hm he hb hh
  rw [s.unmasked_word_other v.val (by omega), s.unmasked_word_other v.val (by omega), s.unmasked_word_other v.val (by omega)] at hsent
  exact ⟨s.unmask v.val, unlessHalted_off (State.unmask v.val) hh, hclear, hsent⟩

theorem unmask_held (s : State) (v : Fin 64) (hh : s.chip.halted = false)
    (h : s.pcie.fnMask = true ∨ s.pcie.msixEnable = false ∨ s.mayMaster = false) :
    exec (.msixVectorUnmask v) s = .next (s.unmasked v.val) :=
  (unlessHalted_off (State.unmask v.val) hh).trans
    (congrArg Host.Outcome.next ((s.unmask_eq v).trans (State.sendPending_held (s := s.unmasked v.val) h)))

/-! ### Configuration writes -/

theorem configWrite_retry (r : CfgReg) (v : Word) (h : s.pcie.retry = true) : s.configWrite r v = s := if_pos h

theorem configWrite_acts (r : CfgReg) (v : Word) (h : s.pcie.retry = false) :
    exec (.configurationWrite r v) s = if r = .deviceControl ∧ v.getLsbD 15 = true
      then exec (.functionLevelReset false) ((s.cfgPut r v).each 64 (fun k u => u.sendPending k))
      else .next ((s.cfgPut r v).each 64 (fun k u => u.sendPending k)) := by
  have e : s.configWrite r v = if r = .deviceControl ∧ v.getLsbD 15 = true
      then ((s.cfgPut r v).each 64 (fun k u => u.sendPending k)).endpointReset false
      else (s.cfgPut r v).each 64 (fun k u => u.sendPending k) := if_neg (Bool.eq_false_iff.mp h)
  have := congrArg (Host.Outcome.next : State → Out) e
  rw [apply_ite (Host.Outcome.next : State → Out)] at this
  exact this

/-- A register of the configuration space without bits of its own in State only stores. -/
theorem cfgPut_stores (s : State) (v : Word) {r : CfgReg} (hc : r ≠ .command) (hm : r ≠ .msixControl) (hp : r ≠ .pmControl) :
    s.cfgPut r v = { s with pcie := { s.pcie with cfg := Tab.set cfgReset s.pcie.cfg (cfgKey r) (s.cfgStore r v) } } := by
  cases r with
  | command => exact absurd rfl hc
  | msixControl => exact absurd rfl hm
  | pmControl => exact absurd rfl hp
  | _ => rfl

/-- Settles O46: each clause is the branch of the operation that its premises choose; the two clauses on an unmasked vector turn on
the words that unmasking leaves. -/
theorem endpointInterruptsAndResets : Obligations.EndpointInterruptsAndResets := by
  intro s
  refine ⟨?_, ?_, ?_, ?_, ?_, ?_, unmask_without_pending s, unmask_with_pending s, unmask_held s, ?_, fun w sp => rfl⟩
  · exact fun h => ⟨fun hi v => unlessHalted_on (State.intEn hi v) h, fun v => unlessHalted_on (State.unmask v.val) h⟩
  · exact fun h v => unlessHalted_off (State.intEn false v) h
  · exact fun h v => unlessHalted_off (State.intEn true v) h
  · exact fun r v h => congrArg Host.Outcome.next (configWrite_retry r v h)
  · exact fun r v h => configWrite_acts r v h
  · exact fun v => ⟨rfl, rfl, rfl, fun r hc hm hp => cfgPut_stores s v hc hm hp⟩
  · intro down
    refine ⟨rfl, fun h => ?_⟩
    subst h
    rfl

end Sys2Proof.Machine
end

section
/-! The run-control commands of Groom 3 (R400 to R405, R421, R430). -/
namespace Sys2Proof.Machine

variable {s : State}

/-! ### The start of a run: RUN_START -/

theorem n0Bad_iff (n0 : Nat) : s.n0Bad n0 = true ↔ (s.mode = mLoad ∧ n0 = 0) ∨ (s.mode ≠ mLoad ∧ n0 ≠ 0) := by
  unfold State.n0Bad
  by_cases h : s.mode = mLoad <;> simp [h]

/-- R400: the state with the HOLD_LEAD that the descriptor gives. -/
def State.withLead (s : State) (d : BitVec 512) : State :=
  if fieldOf d 9 1 = 0 then s else s.put Reg.LD_HOLD_CTL_HOLD_LEAD (fieldOf d 9 1)

/-- CHECK asks for an image with a state mask; every other mode is free of that. -/
def State.maskGiven (s : State) (mode : Nat) : Prop := mode ≠ mCheck ∨ ∃ g, s.chip.image = some g ∧ g.hasMask = true

/-- The condition under which RUN_START answers NO_STATE_MASK. -/
def State.maskMissing (s : State) (mode : Nat) : Bool :=
  mode == mCheck && (match s.chip.image with | some i => !i.hasMask | none => true)

theorem maskMissing_iff (mode : Nat) : s.maskMissing mode = true ↔ ¬ s.maskGiven mode := by
  unfold State.maskMissing State.maskGiven
  cases s.chip.image <;> simp

theorem runStartBegin_n0Bad {d : BitVec 512} (h : s.n0Bad (fieldOf d 16 8) = true) :
    s.runStartBegin d = (s, 0, some (badDesc 5 16)) := if_pos h

theorem runStartBegin_noMask {d : BitVec 512} (h : s.n0Bad (fieldOf d 16 8) = false) (hm : ¬ s.maskGiven (fieldOf d 8 1)) :
    s.runStartBegin d = (s, 0, some (errResp 0x19 0 0 0)) :=
  (if_neg (Bool.eq_false_iff.mp h)).trans (if_pos ((maskMissing_iff _).mpr hm))

/-- What RUN_START does once its descriptor is accepted. -/
theorem runStartBegin_accepted {d : BitVec 512} (h : s.n0Bad (fieldOf d 16 8) = false) (hm : s.maskGiven (fieldOf d 8 1)) :
    s.runStartBegin d =
      if (s.withLead d).get Reg.CHIP_MODE_SVC ≠ levelOf (fieldOf d 8 1) then ((s.withLead d).changeLevel (levelOf (fieldOf d 8 1)), 1, none)
      else if (fieldOf d 8 1 == mWalk && !(s.withLead d).fastLinks.isEmpty) = true then ((s.withLead d).slowLinks, 1, none)
      else match (s.withLead d).badLink with
        | some n => (s, 0, some (s.linkFailed n))
        | none => ((s.withLead d).startAlign (s.firstStride (fieldOf d 16 8)), 0, none) :=
  (if_neg (Bool.eq_false_iff.mp h)).trans (if_neg (fun e => (maskMissing_iff _).mp e hm))

section accepted
variable {d : BitVec 512} (h : s.n0Bad (fieldOf d 16 8) = false) (hm : s.maskGiven (fieldOf d 8 1))
include h hm

theorem runStartBegin_level (hl : ¬ (s.withLead d).get Reg.CHIP_MODE_SVC = levelOf (fieldOf d 8 1)) :
    s.runStartBegin d = ((s.withLead d).changeLevel (levelOf (fieldOf d 8 1)), 1, none) :=
  (runStartBegin_accepted h hm).trans (if_pos hl)

theorem runStartBegin_slow (hl : (s.withLead d).get Reg.CHIP_MODE_SVC = levelOf (fieldOf d 8 1))
    (hs : fieldOf d 8 1 = mWalk ∧ (s.withLead d).fastLinks ≠ []) : s.runStartBegin d = ((s.withLead d).slowLinks, 1, none) :=
  (runStartBegin_accepted h hm).trans ((if_neg (not_not.mpr hl)).trans (if_pos (by simp [hs.1, hs.2])))

theorem runStartBegin_badLink (hl : (s.withLead d).get Reg.CHIP_MODE_SVC = levelOf (fieldOf d 8 1))
    (hs : ¬ (fieldOf d 8 1 = mWalk ∧ (s.withLead d).fastLinks ≠ [])) {n : Nat} (hb : (s.withLead d).badLink = some n) :
    s.runStartBegin d = (s, 0, some (s.linkFailed n)) := by
  refine (runStartBegin_accepted h hm).trans ((if_neg (not_not.mpr hl)).trans ((if_neg (by simpa using hs)).trans ?_))
  rw [hb]

theorem runStartBegin_aligns (hl : (s.withLead d).get Reg.CHIP_MODE_SVC = levelOf (fieldOf d 8 1))
    (hs : ¬ (fieldOf d 8 1 = mWalk ∧ (s.withLead d).fastLinks ≠ [])) (hb : (s.withLead d).badLink = none) :
    s.runStartBegin d = ((s.withLead d).startAlign (s.firstStride (fieldOf d 16 8)), 0, none) := by
  refine (runStartBegin_accepted h hm).trans ((if_neg (not_not.mpr hl)).trans ((if_neg (by simpa using hs)).trans ?_))
  rw [hb]

end accepted

theorem withLead_none {d : BitVec 512} (h : fieldOf d 9 1 = 0) : s.withLead d = s := if_pos h

theorem runStartPoll_eq (c : Taken) : s.runStartPoll c = (if s.on Reg.CHIP_MODE_SVC_CHG = true then
    (s.usedLinks.find? (fun n => s.linkState n == 3)).map (fun n => (s.clr Reg.CHIP_MODE_SVC_CHG, s.linkFailed n)) else none) := by
  unfold State.runStartPoll
  cases s.on Reg.CHIP_MODE_SVC_CHG
  · rfl
  · cases s.usedLinks.find? (fun n => s.linkState n == 3) <;> rfl

/-! ### The service level follows -/

/-- R430: nothing of a service-level change is left to wait for. -/
def State.levelReady (s : State) : Bool :=
  s.on Reg.CHIP_MODE_SVC_CHG && s.badLink.isNone && (List.range 16).all (fun c => s.chanState c != gTrain)

theorem levelReady_iff : s.levelReady = true ↔
    s.on Reg.CHIP_MODE_SVC_CHG = true ∧ s.badLink = none ∧ ∀ k < 16, s.chanState k ≠ gTrain := by
  simp [State.levelReady, and_assoc]

theorem levelDone_ready {e : BitVec 512} (hd : s.longDesc 0x0301 = some e) (h : s.levelReady = true) :
    s.levelDone = (s.clr Reg.CHIP_MODE_SVC_CHG).startAlign (s.firstStride (fieldOf e 16 8)) := by
  unfold State.levelDone
  rw [hd]
  exact if_pos h

theorem levelDone_waits (h : s.longDesc 0x0301 = none ∨ s.levelReady = false) : s.levelDone = s := by
  unfold State.levelDone
  split
  case h_1 e he =>
    rcases h with h | h
    · exact absurd (h.symm.trans he) (by simp)
    · exact if_neg (Bool.eq_false_iff.mp h)
  case h_2 => rfl

/-- Without a change of the service level, nothing follows a look at RUN_START. -/
theorem levelDone_steady (h : s.on Reg.CHIP_MODE_SVC_CHG = false) : s.levelDone = s :=
  levelDone_waits (.inr (Bool.eq_false_iff.mpr fun e => absurd (levelReady_iff.mp e).1 (by simp [h])))

theorem levelTrain_steady (runs : TrainRuns) (h : s.on Reg.CHIP_MODE_SVC_CHG = false) : s.levelTrain runs = s :=
  if_neg (by simp [h])

/-- The sign of a service-level change is not touched by a response. -/
theorem finishAt_svcChg (i : Nat) (r : Resp) : (s.finishAt 3 i r).on Reg.CHIP_MODE_SVC_CHG = s.on Reg.CHIP_MODE_SVC_CHG := by
  unfold State.finishAt
  split
  · exact on_eq_of_rd (State.respond_rd _ _ _ _ _ (by decide) (by decide))
  · rfl

/-- What no step of a fold touches, the fold leaves. -/
theorem foldl_on {α : Type} {F : Fld} {f : State → α → State} (hf : ∀ u x, (f u x).on F = u.on F) (l : List α) (u : State) :
    (l.foldl f u).on F = u.on F := by
  induction l generalizing u with
  | nil => rfl
  | cons x l ih => exact (ih (f u x)).trans (hf u x)

/-- The sign of a service-level change is not touched by the start of alignment. -/
theorem startAlign_svcChg (n0 : Nat) : (s.startAlign n0).on Reg.CHIP_MODE_SVC_CHG = s.on Reg.CHIP_MODE_SVC_CHG :=
  foldl_on (fun u n => State.on_clr_other (u.onLink n _) (Fld.ok_of _ rfl) (.inl (by show 0x80004 + 0x1000 * n ≠ 0x20; omega))) _ _

section turn
variable {i : Nat} {c : Taken} (ht : s.turn 3 0x0301 i c) (hc : s.on Reg.CHIP_MODE_SVC_CHG = false) (runs : TrainRuns)
include ht hc

theorem runStart_answers {r : Resp} (e : State.runStartBegin c.desc (s.started 3 i 0 c) = (s.started 3 i 0 c, 0, some r)) :
    exec (.runStart runs) s = .next ((s.started 3 i 0 c).finishAt 3 i r) := by
  have hdone := State.cmdLong_done (poll := State.runStartPoll) ht e
  refine congrArg Host.Outcome.next ?_
  rw [levelTrain_steady runs hc, hdone]
  exact levelDone_steady ((finishAt_svcChg i r).trans hc)

theorem runStart_goes {n0 : Nat} (e : State.runStartBegin c.desc (s.started 3 i 0 c) = ((s.started 3 i 0 c).startAlign n0, 0, none)) :
    exec (.runStart runs) s = .next (((s.started 3 i 0 c).startAlign n0).started 3 i 0 c) := by
  have hgoes := State.cmdLong_goes (poll := State.runStartPoll) ht e
  refine congrArg Host.Outcome.next ?_
  rw [levelTrain_steady runs hc, hgoes]
  refine levelDone_steady ?_
  have h : ((s.started 3 i 0 c).startAlign n0).on Reg.CHIP_MODE_SVC_CHG = false := (startAlign_svcChg n0).trans hc
  exact h

end turn

/-! ### The run begins -/

theorem dsEnable_none (h : s.longDesc 0x0301 = none ∨ s.chip.n0 = none) : s.dsEnable = s := by
  unfold State.dsEnable
  split
  case h_1 he hn => rcases h with h | h <;> simp_all
  case h_2 => rfl

/-- Every used link is UP and ALIGNED. -/
def State.allAligned (s : State) : Prop := ∀ n ∈ s.usedLinks, s.isUp n = true ∧ s.on (Reg.LD_LINK_STAT_ALIGNED n) = true

theorem allAligned_iff :
    s.usedLinks.all (fun n => s.isUp n && s.on (Reg.LD_LINK_STAT_ALIGNED n)) = true ↔ s.allAligned := by
  simp [State.allAligned]

/-- R400 steps 4 and 5: the run of `mode` from `n0` on, begun in `x`. -/
def State.runFrom (n0 mode : Nat) (x : State) : State :=
  let y := ({ x.stopAlign with chip := { x.stopAlign.chip with runMode := mode } } : State).enterRun mode
  (if mode = mStep then y.adoptHold (n0 + 1) rStep y.part y.usedLinks else y).endLong (okWith 8 n0)

section enable
variable {e : BitVec 512} {n0 : Nat} (hd : s.longDesc 0x0301 = some e) (hn : s.chip.n0 = some n0)
include hd hn

theorem dsEnable_waits (h : ¬ s.allAligned) : s.dsEnable = s := by
  unfold State.dsEnable
  rw [hd, hn]
  exact if_neg (fun e => h (allAligned_iff.mp e))

theorem dsEnable_runs (h : s.allAligned) : s.dsEnable = (State.runFrom n0 (fieldOf e 8 1)
    (if s.mode = mLoad then s.beginRun n0 false
      else if s.mode = mSnapshot then
        ({ s with ds := { s.ds with decided := 2 }, chip := { s.chip with restored := false } } : State).release.beginRun n0 true
      else s.release.set1 Reg.DS_CTL_EN)) := by
  unfold State.dsEnable State.runFrom
  rw [hd, hn]
  dsimp only
  rw [if_pos (allAligned_iff.mpr h)]

end enable

/-! ### TOKEN -/

section submit
variable (d : BitVec 512) (late : BitVec 3) (n k m : Nat)

theorem submit_none (h : s.tokenBad (tokenOf d k) = none) :
    s.submit d late (n + 1) k m = ((s.storeToken (tokenOf d k)).set1If (s.tokenLate (tokenOf d k) late k) Reg.DS_STAT_LATE).submit d late n
      (k + 1) (m + (if s.tokenLate (tokenOf d k) late k then 2 ^ k else 0)) := by
  rw [State.submit]; dsimp only; rw [h]

theorem submit_bad (h : s.tokenBad (tokenOf d k) = some .bad) :
    s.submit d late (n + 1) k m = (s, ⟨1, 5 + 2 ^ 16 * (12 + 16 * k), 2, k + 256 * m⟩) := by
  rw [State.submit]; dsimp only; rw [h]

theorem submit_dup (h : s.tokenBad (tokenOf d k) = some .dup) : s.submit d late (n + 1) k m = (s, ⟨0x1A, k, 2, k + 256 * m⟩) := by
  rw [State.submit]; dsimp only; rw [h]

theorem submit_late (h : s.tokenBad (tokenOf d k) = some .late) : s.submit d late (n + 1) k m = (s, ⟨0x1B, k, 2, k + 256 * m⟩) := by
  rw [State.submit]; dsimp only; rw [h]

theorem submit_full (h : s.tokenBad (tokenOf d k) = some .full) : s.submit d late (n + 1) k m = (s, ⟨0x13, 3, 2, k + 256 * m⟩) := by
  rw [State.submit]; dsimp only; rw [h]

end submit

/-! ### HORIZON -/

theorem horizonCmd_takes (d : BitVec 512)
    (h : s.on Reg.DS_CTL_HORIZON_EN = false ∨ s.pair Adr.DS_HORIZON_LO Adr.DS_HORIZON_HI ≤ fieldOf d 8 8) :
    s.horizonCmd d = ((s.putPair Adr.DS_HORIZON_LO Adr.DS_HORIZON_HI (fieldOf d 8 8)).put Reg.DS_CTL_HORIZON_EN (fieldOf d 16 1), okResp) := by
  refine if_neg ?_
  rcases h with h | h <;> simp [h]

theorem horizonCmd_refuses (d : BitVec 512) (he : s.on Reg.DS_CTL_HORIZON_EN = true)
    (h : fieldOf d 8 8 < s.pair Adr.DS_HORIZON_LO Adr.DS_HORIZON_HI) : s.horizonCmd d = (s, badDesc 5 8) :=
  if_pos (by simp [he, h])

/-! ### The obligation -/

/-- Settles O47: RUN_START by the order of its checks, the beginning of the run by the mode it begins in, and the others as commands
that answer at once or go on. -/
theorem runCommandsAct : Obligations.RunCommandsAct := by
  intro s i c d u b
  refine ⟨?_, fun h => congrArg Host.Outcome.next (dsEnable_none h), ?_, ?_, ?_, ?_, ?_, ?_, ?_, ?_, ?_, ?_, ?_, runStartPoll_eq c, ?_, ?_,
    fun _ => rfl, fun _ => rfl, rfl, rfl, rfl, rfl, rfl, rfl, rfl, fun _ => rfl⟩
  · intro ht hc runs
    refine ⟨fun hn => runStart_answers ht hc runs (runStartBegin_n0Bad hn), fun hn hm hl hs hf => ?_⟩
    have hb0 : (b.withLead d) = b := withLead_none hl
    have hnb : b.n0Bad (fieldOf d 16 8) = false := hn
    have hlv : (b.withLead d).get Reg.CHIP_MODE_SVC = levelOf (fieldOf d 8 1) := by rw [hb0]; exact hs
    have hslow : ¬ (fieldOf d 8 1 = mWalk ∧ (b.withLead d).fastLinks ≠ []) := by
      rw [hb0]; exact fun e => hf.elim (fun h => h e.1) (fun h => e.2 h)
    refine ⟨fun n hbad => ?_, fun hbad => ?_⟩
    · have hbad' : (b.withLead d).badLink = some n := by rw [hb0]; exact hbad
      exact runStart_answers ht hc runs (runStartBegin_badLink hnb (.inl hm) hlv hslow hbad')
    · have hbad' : (b.withLead d).badLink = none := by rw [hb0]; exact hbad
      have e := runStartBegin_aligns hnb (.inl hm) hlv hslow hbad'
      rw [hb0] at e
      exact runStart_goes ht hc runs e
  · intro e n0 hd hn mode ready run
    refine ⟨fun h => congrArg Host.Outcome.next (dsEnable_waits hd hn h), fun h hm => ?_, fun h hm => ?_, fun h hm hm' => ?_⟩
    · exact congrArg Host.Outcome.next ((dsEnable_runs hd hn h).trans (congrArg (State.runFrom n0 mode) (if_pos hm)))
    · exact congrArg Host.Outcome.next ((dsEnable_runs hd hn h).trans
        (congrArg (State.runFrom n0 mode) ((if_neg (by rw [hm]; decide)).trans (if_pos hm))))
    · exact congrArg Host.Outcome.next ((dsEnable_runs hd hn h).trans
        (congrArg (State.runFrom n0 mode) ((if_neg hm).trans (if_neg hm'))))
  · exact fun ht => congrArg Host.Outcome.next
      (State.cmdLong_goes (start := fun _ x => (x.requestHold rHost, 0, none)) ht rfl)
  · exact fun ht => cmd_answers (f := fun _ x => ((x.endLong (errResp 0x22 0 0 0)).enterQuarantine qHostAbort 0, okResp)) ht rfl
  · exact fun ht => congrArg Host.Outcome.next (State.cmdLong_goes ht rfl)
  · exact fun ht => cmd_answers ht rfl
  · exact fun ht => congrArg Host.Outcome.next
      (State.cmdLong_done (n := 0) (start := fun _ x => (x.haltContinue, 0, some okResp)) ht rfl)
  · exact fun ht => cmd_answers ht rfl
  · exact fun ht => ⟨fun h => cmd_answers ht (horizonCmd_takes (s := u) d h), fun he h => cmd_answers ht (horizonCmd_refuses (s := u) d he h)⟩
  · exact fun late ht => cmd_answers (f := fun e x => x.submit e late (fieldOf e 8 1) 0 0) ht rfl
  · intro late n k m x l
    exact ⟨rfl, submit_none d late n k m, submit_bad d late n k m, submit_dup d late n k m, submit_late d late n k m,
      submit_full d late n k m⟩
  · intro mode n0 x masked same slow
    exact ⟨n0Bad_iff n0, runStartBegin_n0Bad, runStartBegin_noMask, runStartBegin_level, runStartBegin_slow,
      fun hn hm hl hs => ⟨fun n hb => runStartBegin_badLink hn hm hl hs hb, fun hb => runStartBegin_aligns hn hm hl hs hb⟩⟩
  · exact fun e hd hc hb hk => levelDone_ready hd (levelReady_iff.mpr ⟨hc, hb, hk⟩)
  · intro h
    refine levelDone_waits ?_
    rcases h with h | h
    · exact .inl h
    · refine .inr (Bool.eq_false_iff.mpr fun e => ?_)
      obtain ⟨hc, hb, hk⟩ := levelReady_iff.mp e
      rcases h with h | h | ⟨k, hlt, ht⟩
      · exact absurd (hc.symm.trans h) (by decide)
      · exact h hb
      · exact hk k hlt ht

end Sys2Proof.Machine
end

section
/-! The link commands of Groom 1 (R245, R347, R407, R409). -/
namespace Sys2Proof.Machine

variable {s : State} {i m op : Nat} {c : Taken}

/-- A long command that answers when it starts. -/
theorem cmdLong_answers (ht : s.turn m op i c) {start : BitVec 512 → State → State × Nat × Option Resp}
    {poll : Taken → State → Option (State × Resp)} {u : State} {n : Nat} {r : Resp}
    (e : start c.desc (s.started m i 0 c) = (u, n, some r)) :
    (.next (s.cmdLong m op start poll) : Out) = .next (u.finishAt m i r) :=
  congrArg Host.Outcome.next (State.cmdLong_done ht e)

/-- A long command that goes on after it has started. -/
theorem cmdLong_waits (ht : s.turn m op i c) {start : BitVec 512 → State → State × Nat × Option Resp}
    {poll : Taken → State → Option (State × Resp)} {u : State} {n : Nat}
    (e : start c.desc (s.started m i 0 c) = (u, n, none)) :
    (.next (s.cmdLong m op start poll) : Out) = .next (u.started m i n c) :=
  congrArg Host.Outcome.next (State.cmdLong_goes ht e)

/-- A started command whose work is done. -/
theorem cmdLong_ends (hd : s.due m op c) {start : BitVec 512 → State → State × Nat × Option Resp}
    {poll : Taken → State → Option (State × Resp)} {u : State} {r : Resp} (e : poll c s = some (u, r)) :
    (.next (s.cmdLong m op start poll) : Out) = .next (u.finishAt m 0 r) :=
  congrArg Host.Outcome.next ((State.cmdLong_due hd).trans (by rw [e]; rfl))

/-- A started command whose work is not done. -/
theorem cmdLong_stays (hd : s.due m op c) {start : BitVec 512 → State → State × Nat × Option Resp}
    {poll : Taken → State → Option (State × Resp)} (e : poll c s = none) :
    (.next (s.cmdLong m op start poll) : Out) = .next s :=
  congrArg Host.Outcome.next ((State.cmdLong_due hd).trans (by rw [e]; rfl))

/-! ### LINK_UP -/

theorem linkUpBegin_busy {d : BitVec 512} (h : s.linkState (argLink d) ≠ 0 ∨ s.on (linkEn (argLink d)) = true) :
    s.linkUpBegin d = (s, 0, some (errResp 0x13 9 0 0)) := if_pos h

theorem linkUpPoll_up (h : s.isUp (argLink c.desc) = true) : s.linkUpPoll c =
    some (s.spend, okWith 9 (packBytes (s.linkBytes (argLink c.desc) ++ [(20, 5, s.chosenBits (argLink c.desc))]))) := if_pos h

/-- R407: too few lanes can reach service any more, or the link has failed. -/
def State.outOfLanes (s : State) (n : Nat) : Prop :=
  (if n < 16 then 1 < (s.lanesIn n [lFailed]).length else 3 < (s.lanesIn n [lFailed]).length) ∨ s.linkState n = 3

theorem linkUpPoll_lost (h : s.isUp (argLink c.desc) = false) (hl : s.outOfLanes (argLink c.desc)) : s.linkUpPoll c =
    some (s.setLinkState (argLink c.desc) 3, errResp 0x18 (linkNo (argLink c.desc)) (s.badMask (argLink c.desc)) 0) :=
  (if_neg (Bool.eq_false_iff.mp h)).trans (if_pos hl)

theorem linkUpPoll_waits (h : s.isUp (argLink c.desc) = false) (hl : ¬ s.outOfLanes (argLink c.desc)) : s.linkUpPoll c = none :=
  (if_neg (Bool.eq_false_iff.mp h)).trans (if_neg hl)

/-! ### ELASTIC_WIDTH -/

section width
variable (e v : Nat)

theorem laneState_put_width (l : Nat) : (s.put (Reg.EL_LINK_CTL_WIDTH e) v).laneState l = s.laneState l := by
  refine State.get_put_other s v (Fld.ok_of _ rfl) (.inl ?_)
  show 0xA0000 + 0x1000 * e ≠ laneAddr l 4
  unfold laneAddr
  split <;> omega

theorem lanesIn_put_width (n : Nat) (sts : List Nat) : (s.put (Reg.EL_LINK_CTL_WIDTH e) v).lanesIn n sts = s.lanesIn n sts :=
  List.filter_congr fun l _ => by rw [laneState_put_width]

theorem isUp_put_width : (s.put (Reg.EL_LINK_CTL_WIDTH e) v).isUp (16 + e) = s.isUp (16 + e) := by
  have h : (s.put (Reg.EL_LINK_CTL_WIDTH e) v).linkState (16 + e) = s.linkState (16 + e) := by
    refine State.get_put_other s v (Fld.ok_of _ rfl) (.inl ?_)
    show 0xA0000 + 0x1000 * e ≠ if 16 + e < 16 then 0x80004 + 0x1000 * (16 + e) else 0xA0004 + 0x1000 * (16 + e - 16)
    split <;> omega
  unfold State.isUp
  rw [h]

theorem width_put_width : (s.put (Reg.EL_LINK_CTL_WIDTH e) v).get (Reg.EL_LINK_STAT_WIDTH e) = s.get (Reg.EL_LINK_STAT_WIDTH e) :=
  State.get_put_other s v (Fld.ok_of _ rfl) (.inl (by show 0xA0000 + 0x1000 * e ≠ 0xA0004 + 0x1000 * e; omega))

end width

/-! A width asked for a link that is down is only written; on one that is UP it is wanted at the next frame start, or, where the link
has it already, no longer wanted. -/
section wanted
variable (e w : Nat)

theorem wantWidth_down (h : s.isUp (16 + e) = false) : s.wantWidth e w = s := if_pos (by simp [h])

theorem wantWidth_other (h : s.isUp (16 + e) = true) (hw : s.get (Reg.EL_LINK_STAT_WIDTH e) ≠ w) :
    s.wantWidth e w = s.onLink (16 + e) (fun k => { k with want := some w, wantFw := true }) :=
  (if_neg (by simp [h])).trans (if_pos hw)

theorem wantWidth_same (h : s.isUp (16 + e) = true) (hw : s.get (Reg.EL_LINK_STAT_WIDTH e) = w) :
    s.wantWidth e w = if widthLanes w ≤ (s.lanesIn (16 + e) [lActive]).length then
      s.onLink (16 + e) (fun k => { k with want := none }) else s :=
  (if_neg (by simp [h])).trans (if_neg (not_not.mpr hw))

end wanted

theorem elasticWidth_eq (d : BitVec 512) : s.elasticWidth d =
    ((s.put (Reg.EL_LINK_CTL_WIDTH (fieldOf d 8 1)) (fieldOf d 9 1)).wantWidth (fieldOf d 8 1) (fieldOf d 9 1), 0,
      if s.isUp (16 + fieldOf d 8 1) && s.get (Reg.EL_LINK_STAT_WIDTH (fieldOf d 8 1)) != fieldOf d 9 1 then none else some okResp) := rfl

theorem elasticWidth_down {d : BitVec 512} (h : s.isUp (16 + fieldOf d 8 1) = false) :
    s.elasticWidth d = (s.put (Reg.EL_LINK_CTL_WIDTH (fieldOf d 8 1)) (fieldOf d 9 1), 0, some okResp) := by
  rw [elasticWidth_eq, wantWidth_down _ _ ((isUp_put_width _ _).trans h), h]
  rfl

theorem elasticWidth_other {d : BitVec 512} (h : s.isUp (16 + fieldOf d 8 1) = true)
    (hw : s.get (Reg.EL_LINK_STAT_WIDTH (fieldOf d 8 1)) ≠ fieldOf d 9 1) :
    s.elasticWidth d = ((s.put (Reg.EL_LINK_CTL_WIDTH (fieldOf d 8 1)) (fieldOf d 9 1)).onLink (16 + fieldOf d 8 1)
      (fun k => { k with want := some (fieldOf d 9 1), wantFw := true }), 0, none) := by
  rw [elasticWidth_eq, wantWidth_other _ _ ((isUp_put_width _ _).trans h) (by rw [width_put_width]; exact hw), if_pos (by simp [h, hw])]

theorem elasticWidth_same {d : BitVec 512} (h : s.isUp (16 + fieldOf d 8 1) = true)
    (hw : s.get (Reg.EL_LINK_STAT_WIDTH (fieldOf d 8 1)) = fieldOf d 9 1) :
    s.elasticWidth d = (if widthLanes (fieldOf d 9 1) ≤ (s.lanesIn (16 + fieldOf d 8 1) [lActive]).length then
      (s.put (Reg.EL_LINK_CTL_WIDTH (fieldOf d 8 1)) (fieldOf d 9 1)).onLink (16 + fieldOf d 8 1) (fun k => { k with want := none })
      else s.put (Reg.EL_LINK_CTL_WIDTH (fieldOf d 8 1)) (fieldOf d 9 1), 0, some okResp) := by
  rw [elasticWidth_eq, wantWidth_same _ _ ((isUp_put_width _ _).trans h) ((width_put_width _ _).trans hw), lanesIn_put_width,
    if_neg (c := (s.isUp (16 + fieldOf d 8 1) && s.get (Reg.EL_LINK_STAT_WIDTH (fieldOf d 8 1)) != fieldOf d 9 1) = true) (by simp [hw])]

theorem elasticWidth_due (hd : s.due 1 0x0404 c) : exec .elasticWidth s = .next
    (if s.get (Reg.EL_LINK_STAT_WIDTH (fieldOf c.desc 8 1)) = fieldOf c.desc 9 1 then s.finishAt 1 0 okResp else s) := by
  by_cases h : s.get (Reg.EL_LINK_STAT_WIDTH (fieldOf c.desc 8 1)) = fieldOf c.desc 9 1
  · rw [if_pos h]
    exact cmdLong_ends hd (if_pos h)
  · rw [if_neg h]
    exact cmdLong_stays hd (if_neg h)

/-! ### LINK_TIME -/

section time
variable {far : Option (Nat × Nat)}

theorem linkTimeBegin_up {id : Byte} {d : BitVec 512} (h : s.isUp (argLink d) = true) :
    s.linkTimeBegin id d = (s.say (argLink d) (timeMsgOf 0 id.toNat 0 0), id.toNat, none) := if_pos h

theorem linkTimeBegin_down {id : Byte} {d : BitVec 512} (h : s.isUp (argLink d) = false) :
    s.linkTimeBegin id d = (s, 0, some (errResp 0x18 (linkNo (argLink d)) (s.badMask (argLink d)) 0)) :=
  if_neg (Bool.eq_false_iff.mp h)

/-- The last transmit stamp of a LINK_TIME's SYNC. -/
def State.sentStamp (s : State) (c : Taken) := (s.tb.txq.filter (fun e => e.src == argLink c.desc && e.id == c.note)).getLast?

/-- The partner's DREQ. -/
def State.askedTime (s : State) (c : Taken) := (s.link (argLink c.desc)).timeIn.find? (fun m => bits m.2.toNat 17 16 == 2)

theorem linkTimePoll_lost (h : 256 ≤ c.note) : s.linkTimePoll far c = some (s, errResp 4 0 0 0) := if_pos h

theorem linkTimePoll_waits (h : c.note < 256) (hw : far = none ∨ s.sentStamp c = none ∨ s.askedTime c = none) :
    s.linkTimePoll far c = none := by
  refine (if_neg (by omega)).trans ?_
  change (match far, s.sentStamp c, s.askedTime c with | some (_, _), some _, some _ => _ | _, _, _ => none) = none
  rcases hw with hw | hw | hw
  · rw [hw]
  · rw [hw]
    rcases far with _ | ⟨t2, t3⟩ <;> rfl
  · rw [hw]
    rcases far with _ | ⟨t2, t3⟩ <;> cases s.sentStamp c <;> rfl

theorem linkTimePoll_answers (t2 t3 : Nat) {e : TxStamp} {m : Nat × Flit} (h : c.note < 256) (he : s.sentStamp c = some e)
    (hm : s.askedTime c = some m) :
    let n := argLink c.desc
    let t1 : Nat := carried e.at_
    let t4 : Nat := m.1 / 2 ^ 16
    let fwd : Int := (t2 : Int) - t1
    let bwd : Int := (t4 : Int) - t3
    let x := ((s.say n (timeMsgOf 1 c.note c.note t1)).say n (timeMsgOf 3 c.note (bits m.2.toNat 15 8) t4)).onLink n
      (fun k => { k with timeIn := k.timeIn.erase m })
    let left := x.tb.txq.filter (fun e => !(e.src == n && e.id == c.note))
    s.linkTimePoll (some (t2, t3)) c = some (({ x with tb := { x.tb with txq := left } } : State).put Reg.TB_STAT_TXQ_CNT left.length,
      okWith 17 (packBytes [(16, 8, wrap 64 ((fwd - bwd) * 128)), (24, 8, wrap 64 ((fwd + bwd) * 128)), (32, 1, c.note)])) := by
  intro n t1 t4 fwd bwd x left
  refine (if_neg (by omega)).trans ?_
  have he' : (s.tb.txq.filter (fun e => e.src == argLink c.desc && e.id == c.note)).getLast? = some e := he
  have hm' : (s.link (argLink c.desc)).timeIn.find? (fun m => bits m.2.toNat 17 16 == 2) = some m := hm
  rw [he', hm']
  rfl

end time

/-! ### LANE_TEST -/

theorem laneTest_stops {d : BitVec 512} (h : fieldOf d 11 1 ≠ 1) :
    let l := (if argLink d < 16 then 9 * argLink d else 144 + 4 * (argLink d - 16)) + fieldOf d 10 1
    s.laneTest d = (((s.put (laneErr l) 0).laneDisable l).put (laneCtl l 18 16) 0, okWith 4 (packBytes [(16, 4, s.get (laneErr l))])) :=
  if_neg h

theorem laneTest_starts {d : BitVec 512} (h : fieldOf d 11 1 = 1) :
    let l := (if argLink d < 16 then 9 * argLink d else 144 + 4 * (argLink d - 16)) + fieldOf d 10 1
    let v := fieldOf d 12 1
    let x := if s.laneState l = lOff then s else s.laneDisable l
    let y := ((((x.set1 (laneCtl l 18 18)).put (laneCtl l 17 16) (bits v 5 4)).put (lanePrbs l 3 2) (bits v 1 0)).put
      (lanePrbs l 0 0) (bits v 2 2)).put (lanePrbs l 1 1) (bits v 3 3)
    s.laneTest d = ((y.put (lanePrbs l 9 5) (fieldOf d 16 1)).laneEnable l, okResp) :=
  if_pos h

/-- Settles O48: each command by the branch that its descriptor and its link choose. -/
theorem linkCommandsAct : Obligations.LinkCommandsAct := by
  intro s i c d n u b state
  refine ⟨fun ht h => cmdLong_answers ht (linkUpBegin_busy h), fun ht h0 he => ?_, fun hd => ?_, fun ht => cmd_answers ht rfl,
    fun ht => cmd_answers ht rfl, fun ht => ?_, elasticWidth_due, fun ht => ?_, fun id far ht h => cmdLong_waits ht (linkTimeBegin_up h),
    fun id far ht h => cmdLong_answers ht (linkTimeBegin_down h), fun hd => ?_, rfl, rfl, rfl, rfl, rfl, fun _ _ => rfl⟩
  · refine cmdLong_waits ht (if_neg ?_)
    exact not_or.mpr ⟨not_not.mpr h0, Bool.eq_false_iff.mp he⟩
  · intro lost
    exact ⟨fun h => cmdLong_ends hd (linkUpPoll_up h), fun h hl => cmdLong_ends hd (linkUpPoll_lost h hl),
      fun h hl => cmdLong_stays hd (linkUpPoll_waits h hl)⟩
  · intro e w x
    exact ⟨fun h => cmdLong_answers ht (elasticWidth_down h), fun h hw => cmdLong_waits ht (elasticWidth_other h hw),
      fun h hw => cmdLong_answers ht (elasticWidth_same h hw)⟩
  · intro l v
    exact ⟨fun h => cmd_answers ht (laneTest_stops h), fun h => cmd_answers ht (laneTest_starts h)⟩
  · intro sent asked
    exact ⟨fun id far h => cmdLong_ends hd (linkTimePoll_lost h), fun id far h hw => cmdLong_stays hd (linkTimePoll_waits h hw),
      fun id t2 t3 e m h he hm => cmdLong_ends hd (linkTimePoll_answers t2 t3 h he hm)⟩

end Sys2Proof.Machine
end

section
/-! The memory and capture commands of Groom 2 (R273, R411 to R413). -/
namespace Sys2Proof.Machine

variable {s : State} {i : Nat} {c : Taken} {d : BitVec 512} {dma : HostDma}

/-! ### Regions -/

theorem regionAlloc_placed {c0 base : Nat} (h : s.place (fieldOf d 9 1) (fieldOf d 10 1) (fieldOf d 12 4 / fieldOf d 9 1) = some (c0, base)) :
    let n := fieldOf d 9 1
    let units := fieldOf d 12 4 / n
    let r : Region := ⟨s.newHandle, fieldOf d 8 1, n, c0, base, units, true⟩
    let a := (regionChans n c0).foldl (fun x k => x.openWin (fieldOf d 8 1) base units k) s
    s.regionAlloc d = ({ a with chip := { a.chip with regions := a.chip.regions ++ [r] } },
      okWith 16 (packBytes [(16, 4, s.newHandle), (20, 1, c0), (21, 1, n), (24, 8, regionD r)])) := by
  intro n units r a
  unfold State.regionAlloc State.allocate
  dsimp only
  rw [h]

theorem regionAlloc_refused (h : s.place (fieldOf d 9 1) (fieldOf d 10 1) (fieldOf d 12 4 / fieldOf d 9 1) = none) :
    s.regionAlloc d = (s, errResp 0x13 1 0 0) := by
  unfold State.regionAlloc State.allocate
  dsimp only
  rw [h]

theorem regionFree_unknown (h : s.regionOf (fieldOf d 8 4) = none) : s.regionFree d = (s, notHeld (fieldOf d 8 4)) := by
  unfold State.regionFree; dsimp only; rw [h]

theorem regionFree_known {r : Region} (h : s.regionOf (fieldOf d 8 4) = some r) : s.regionFree d =
    if (!r.host) = true then (s, notHeld (fieldOf d 8 4)) else if s.regionBusy r = true then (s, errResp 0x13 5 0 0)
      else (s.freeRegion (fieldOf d 8 4), okResp) := by
  unfold State.regionFree; dsimp only; rw [h]

/-! ### MEM_COPY -/

/-- R412: the host may reach every byte of the range, which lies in one channel. -/
def State.copyReach (s : State) (read : Bool) (a len : Nat) : Prop :=
  a % 2 ^ 32 + len ≤ 2 ^ 32 ∧ ∀ k < len, if read then (s.hostRd (a + k)).isSome = true else s.hostWrOk (a + k) = true

theorem copyReach_iff (read : Bool) (a len : Nat) : s.copyReach read a len ↔
    ¬ (2 ^ 32 < a % 2 ^ 32 + len
      ∨ (!((List.range len).all (fun i => if read then (s.hostRd (a + i)).isSome else s.hostWrOk (a + i)))) = true) := by
  unfold State.copyReach
  cases read <;> simp [← Option.isSome_iff_ne_none]

section begin
variable (dma d)

theorem copyBegin_outOfReach (h : ¬ s.copyReach (fieldOf d 8 1 == 0) (fieldOf d 16 8) (fieldOf d 12 4)) :
    s.copyBegin dma d = (s, 0, some (errResp 0x1F 0 0 0)) :=
  if_pos (not_not.mp (fun e => h ((copyReach_iff _ _ _).mpr e)))

variable (hr : s.copyReach (fieldOf d 8 1 == 0) (fieldOf d 16 8) (fieldOf d 12 4))
include hr

theorem copyBegin_reach : s.copyBegin dma d =
    match s.dmaBad (if fieldOf d 8 1 == 0 then { dma with status := 0 } else dma) with
    | some r => (s, 0, some r)
    | none =>
      if fieldOf d 12 4 = 0 then (s, 0, some okResp)
      else (s.hostBegin true (fieldOf d 16 8) (fieldOf d 12 4)
        (if fieldOf d 8 1 == 0 then none else some (dmaBytes dma (fieldOf d 12 4))) [(0, fieldOf d 12 4)], s.pcie.txSeq, none) :=
  (if_neg ((copyReach_iff _ _ _).mp hr)).trans rfl

theorem copyBegin_failed {r : Resp} (h : s.dmaBad (if fieldOf d 8 1 == 0 then { dma with status := 0 } else dma) = some r) :
    s.copyBegin dma d = (s, 0, some r) :=
  (copyBegin_reach d dma hr).trans (by rw [h])

theorem copyBegin_empty (h : s.dmaBad (if fieldOf d 8 1 == 0 then { dma with status := 0 } else dma) = none) (h0 : fieldOf d 12 4 = 0) :
    s.copyBegin dma d = (s, 0, some okResp) :=
  (copyBegin_reach d dma hr).trans (by rw [h]; exact if_pos h0)

theorem copyBegin_goes (h : s.dmaBad (if fieldOf d 8 1 == 0 then { dma with status := 0 } else dma) = none) (h0 : fieldOf d 12 4 ≠ 0) :
    s.copyBegin dma d = (s.hostBegin true (fieldOf d 16 8) (fieldOf d 12 4)
      (if fieldOf d 8 1 == 0 then none else some (dmaBytes dma (fieldOf d 12 4))) [(0, fieldOf d 12 4)], s.pcie.txSeq, none) :=
  (copyBegin_reach d dma hr).trans (by rw [h]; exact if_neg h0)

end begin

/-- The state without the transfer `x` of the host port. -/
def State.withoutTx (s : State) (x : HostTx) : State := { s with pcie := { s.pcie with txs := s.pcie.txs.erase x } }

/-- R382, R412: the transfers of a MEM_COPY have been abandoned, or it can no longer write to host memory. -/
def State.copyCut (s : State) (c : Taken) : Prop := c.cut = true ∨ fieldOf c.desc 8 1 = 0 ∧ s.mayMaster = false

theorem copyCut_iff : s.copyCut c ↔ c.cut = true ∨ fieldOf c.desc 8 1 = 0 ∧ (!s.mayMaster) = true := by
  simp [State.copyCut]

theorem copyPoll_none (h : s.txOf c.note = none) : s.copyPoll c = none := by
  unfold State.copyPoll; rw [h]

section poll
variable {x : HostTx} (hx : s.txOf c.note = some x)
include hx

theorem copyPoll_waits (h : x.left ≠ 0) : s.copyPoll c = none := by
  unfold State.copyPoll; rw [hx]; exact if_neg h

theorem copyPoll_cut (h : x.left = 0) (hc : s.copyCut c) : s.copyPoll c = some (s.withoutTx x, dmaCut) := by
  unfold State.copyPoll; rw [hx]; exact (if_pos h).trans (if_pos (copyCut_iff.mp hc))

theorem copyPoll_over (h : x.left = 0) (hc : ¬ s.copyCut c) :
    let n := if x.failed then x.got.foldl (fun n r => n + r.2.length) 0 else x.size
    s.copyPoll c = some (if fieldOf c.desc 8 1 = 0 then (s.withoutTx x).toHost (fieldOf c.desc 24 8) (x.bytes.take n) else s.withoutTx x,
      if x.failed then errResp 0x20 0 0 0 else okResp) := by
  intro n
  unfold State.copyPoll; rw [hx]; exact (if_pos h).trans (if_neg (fun e => hc (copyCut_iff.mpr e)))

end poll

/-! ### CAP_CONFIG -/

section config
variable (dma d)

theorem capConfig_busy (hi : s.capState ≠ cIdle) (hd : s.capState ≠ cDisabled) :
    s.capConfig dma d = (s, errResp 0x13 4 s.capState 0) := if_pos ⟨hi, hd⟩

variable (hs : s.capState = cIdle ∨ s.capState = cDisabled)
include hs

theorem capConfig_unheld (h : s.hostRegion (fieldOf d 8 4) kCapture = none) :
    s.capConfig dma d = (s, notHeld (fieldOf d 8 4)) := by
  refine (if_neg (fun e => hs.elim e.1 e.2)).trans ?_
  rw [h]

theorem capConfig_failed {r : Region} {e : Resp} (h : s.hostRegion (fieldOf d 8 4) kCapture = some r) (he : s.dmaBad dma = some e) :
    s.capConfig dma d = (s, e) := by
  refine (if_neg (fun e => hs.elim e.1 e.2)).trans ?_
  rw [h]; dsimp only; rw [he]

theorem capConfig_takes {r : Region} (h : s.hostRegion (fieldOf d 8 4) kCapture = some r) (he : s.dmaBad dma = none) :
    let a := (capBlock.zip (words4 (dmaBytes dma 2456))).foldl (fun x p =>
      if p.1 = Adr.CAP_CTL then x.put Reg.CAP_CTL_SPILL_EN (p.2 % 2) else x.writeFields p.1 p.2) s
    let e := (((a.put Reg.CAP_RGN_SIZE (r.n * r.units)).put Reg.CAP_RGN_BASE r.base).put Reg.CAP_RGN_LOG2N (log2n r.n - 1)).put
      Reg.CAP_RGN_C0 r.c0
    s.capConfig dma d = ({ e with cap := { e.cap with region := some r.handle } }, okResp) := by
  intro a e
  refine (if_neg (fun e => hs.elim e.1 e.2)).trans ?_
  rw [h]; dsimp only; rw [he]

end config

/-! ### CAP_CTL -/

theorem capCtl_noRegion (ha : fieldOf d 8 1 = 1) (h : s.cap.region = none) : s.capCtl d = (s, 0, some (notHeld 0)) :=
  (if_pos ha).trans (if_pos (by simp [h]))

theorem capCtl_arms (ha : fieldOf d 8 1 = 1) (h : s.cap.region ≠ none) : s.capCtl d = (s.capArm, 0,
    some (if s.capState = cIdle ∧ s.capArm.capState = cArmed then okWith 1 s.capArm.capState else errResp 0x13 4 s.capState 0)) :=
  (if_pos ha).trans (if_neg (by simpa using h))

theorem capCtl_stops (ha : fieldOf d 8 1 = 2) (h : s.capState = cArmed ∨ s.capState = cPost) : s.capCtl d = (s.capStopReq, 0, none) :=
  (if_neg (by omega)).trans ((if_pos ha).trans (if_pos h))

theorem capCtl_stopped (ha : fieldOf d 8 1 = 2) (h : ¬ (s.capState = cArmed ∨ s.capState = cPost)) :
    s.capCtl d = (s, 0, some (okWith 1 s.capState)) :=
  (if_neg (by omega)).trans ((if_pos ha).trans (if_neg h))

theorem capCtl_forces (ha : fieldOf d 8 1 = 3) : s.capCtl d = (s.capForce, 0, some { okWith 1 s.capForce.capState with
    detail := ofBool (s.trigState == cPost || s.trigState == cDone || s.trigState == cOvf || s.trigState == cStopped) }) :=
  (if_neg (by omega)).trans ((if_neg (by omega)).trans (if_pos ha))

theorem capCtl_disarms (h1 : fieldOf d 8 1 ≠ 1) (h2 : fieldOf d 8 1 ≠ 2) (h3 : fieldOf d 8 1 ≠ 3) :
    s.capCtl d = (s.capDisarm, 0, some (okWith 1 s.capDisarm.capState)) :=
  (if_neg h1).trans ((if_neg h2).trans (if_neg h3))

theorem capCtl_due (hd : s.due 2 0x0602 c) : exec .capCtl s = .next
    (if s.capState = cArmed ∨ s.capState = cPost then s else s.finishAt 2 0 (okWith 1 s.capState)) := by
  by_cases h : s.capState = cArmed ∨ s.capState = cPost
  · rw [if_pos h]
    exact cmdLong_stays hd (if_pos h)
  · rw [if_neg h]
    exact cmdLong_ends hd (if_neg h)

/-! ### The obligation -/

/-- Settles O49: each command by the branch that its descriptor, its region and its transfer choose. -/
theorem memoryAndCaptureCommandsAct : Obligations.MemoryAndCaptureCommandsAct := by
  intro s i c d u b
  refine ⟨fun _ => ⟨rfl, rfl, rfl, rfl, rfl, rfl, rfl, rfl⟩, fun ht => cmd_answers ht rfl, fun ht => ?_, fun ht => ?_, fun dma ht => ?_,
    fun dma hd => ?_, fun ht => cmd_answers ht rfl, fun dma ht => ?_, fun ht => ?_, capCtl_due, fun ht => cmd_answers ht rfl⟩
  · exact ⟨fun c0 base h => cmd_answers ht (regionAlloc_placed (s := u) h), fun h => cmd_answers ht (regionAlloc_refused (s := u) h)⟩
  · refine ⟨fun r hr => ⟨fun h => ?_, fun h hb => ?_, fun h hb => ?_⟩, fun h => cmd_answers ht (regionFree_unknown (s := u) h)⟩
    · exact cmd_answers ht ((regionFree_known (s := u) hr).trans (if_pos (by simp [h])))
    · exact cmd_answers ht ((regionFree_known (s := u) hr).trans ((if_neg (by simp [h])).trans (if_pos hb)))
    · exact cmd_answers ht ((regionFree_known (s := u) hr).trans ((if_neg (by simp [h])).trans (if_neg (Bool.eq_false_iff.mp hb))))
  · exact ⟨fun h => cmdLong_answers ht (copyBegin_outOfReach (s := b) d dma h),
      fun r hr h => cmdLong_answers ht (copyBegin_failed (s := b) d dma hr h),
      fun hr h h0 => cmdLong_answers ht (copyBegin_empty (s := b) d dma hr h h0),
      fun hr h h0 => cmdLong_waits ht (copyBegin_goes (s := b) d dma hr h h0)⟩
  · exact ⟨fun h => cmdLong_stays hd (copyPoll_none h), fun x hx => ⟨fun h => cmdLong_stays hd (copyPoll_waits hx h),
      fun h hc => cmdLong_ends hd (copyPoll_cut hx h hc), fun h hc => cmdLong_ends hd (copyPoll_over hx h hc)⟩⟩
  · exact ⟨fun hi hd => cmd_answers ht (capConfig_busy (s := u) d dma hi hd), fun hs =>
      ⟨fun h => cmd_answers ht (capConfig_unheld (s := u) d dma hs h), fun r e h he => cmd_answers ht (capConfig_failed (s := u) d dma hs h he),
        fun r h he => cmd_answers ht (capConfig_takes (s := u) d dma hs h he)⟩⟩
  · exact ⟨fun ha h => cmdLong_answers ht (capCtl_noRegion (s := b) ha h), fun ha h => cmdLong_answers ht (capCtl_arms (s := b) ha h),
      fun ha h => cmdLong_waits ht (capCtl_stops (s := b) ha h), fun ha h => cmdLong_answers ht (capCtl_stopped (s := b) ha h),
      fun ha => cmdLong_answers ht (capCtl_forces (s := b) ha),
      fun h1 h2 h3 => cmdLong_answers ht (capCtl_disarms (s := b) h1 h2 h3)⟩

end Sys2Proof.Machine
end

section
/-! The system, image and snapshot commands (R395, R397 to R399, R406, R418, R431 to R433). -/
namespace Sys2Proof.Machine

variable {s : State} {i : Nat} {c : Taken} {d : BitVec 512} {dma : HostDma} {crc : List HostCrc}

/-! ### IMAGE_INFO -/

theorem imageInfo_held {g : Image} (h : s.chip.image = some g) : s.imageInfo d = (s, imageResp g) := by
  unfold State.imageInfo; rw [h]

/-- IMAGE_INFO without an image is refused by the checks before it. -/
theorem pre_imageInfo (hl : s.lifeOk 0x0202 = true) (h : s.chip.image = none) : s.pre 0x0202 d = some (errResp 0x12 0 0 0) := by
  rw [pre_eq, if_neg (by simp [hl]), if_neg (by simp [State.modeOk]), if_pos ⟨by decide, h⟩]

/-! ### IMAGE_LOAD -/

/-- R398: IMAGE_LOAD may start: the step clock is locked and, in QUARANTINE, the islands allow it. -/
def State.mayLoad (s : State) (islands : Bool) : Prop :=
  s.on Reg.CHIP_CLK_STAT_STEP_LOCK = true ∧ s.on Reg.CHIP_CLK_STAT_LREF_OK = true ∧ (s.mode = mQuarantine → islands = true)

theorem mayLoad_iff (islands : Bool) : s.mayLoad islands ↔
    ¬ (!(s.on Reg.CHIP_CLK_STAT_STEP_LOCK && s.on Reg.CHIP_CLK_STAT_LREF_OK) || (s.mode == mQuarantine && !islands)) = true := by
  unfold State.mayLoad
  cases s.on Reg.CHIP_CLK_STAT_STEP_LOCK <;> cases s.on Reg.CHIP_CLK_STAT_LREF_OK <;> simp

/-- R398: the host windows that IMAGE_LOAD names are windows of the host. -/
def State.windowsHeld (s : State) (d : BitVec 512) : Prop :=
  fieldOf d 8 1 = 1 → (∀ k < fieldOf d 24 8, s.hostKind (fieldOf d 16 8 + k) = some kHost)
    ∧ ∀ k < 2 * fieldOf d 10 2, s.hostKind (fieldOf d 32 8 + k) = some kHost

theorem windowsHeld_iff : s.windowsHeld d ↔ ¬ (fieldOf d 8 1 = 1
    ∧ (!(s.inHostWindow (fieldOf d 16 8) (fieldOf d 24 8) && s.inHostWindow (fieldOf d 32 8) (2 * fieldOf d 10 2))) = true) := by
  simp [State.windowsHeld, State.inHostWindow]

theorem loadStart_locked {isl : Bool} (h : ¬ s.mayLoad isl) : s.loadStart isl d = (s, 0, some (errResp 0x10 s.mode 0 0)) :=
  if_pos (not_not.mp fun e => h ((mayLoad_iff isl).mpr e))

theorem loadStart_unheld {isl : Bool} (h : s.mayLoad isl) (hw : ¬ s.windowsHeld d) :
    s.loadStart isl d = (s, 0, some (errResp 0x1F 0 0 0)) :=
  (if_neg ((mayLoad_iff isl).mp h)).trans (if_pos (not_not.mp fun e => hw (windowsHeld_iff.mpr e)))

theorem loadStart_starts {isl : Bool} (h : s.mayLoad isl) (hw : s.windowsHeld d) : s.loadStart isl d =
    (((s.enterLoad.wr Adr.CHIP_SPOIL_LO 0).wr Adr.CHIP_SPOIL_HI 0).clr Reg.CHIP_SPOIL_CTL_VALID, 0, none) :=
  (if_neg ((mayLoad_iff isl).mp h)).trans (if_neg (windowsHeld_iff.mp hw))

section loadEnd
variable {img ex : HostDma}

/-- The state after the loader has read both host windows. -/
def State.loadHas (s : State) (crc : List HostCrc) (d : BitVec 512) : State :=
  (s.loadRead (fieldOf d 8 1) (fieldOf d 16 8) (fieldOf d 24 8) crc).loadRead (fieldOf d 8 1) (fieldOf d 32 8) (2 * fieldOf d 10 2) crc

/-- Why the transfers of an IMAGE_LOAD from host memory fail. -/
def State.loadDma (s : State) (img ex : HostDma) (d : BitVec 512) : Option Resp :=
  if fieldOf d 8 1 = 0 then (s.dmaBad img).orElse (fun _ => if 2 * fieldOf d 10 2 = 0 then none else s.dmaBad ex) else none

theorem loadEnd_cut (h : fieldOf c.desc 8 1 = 0 ∧ c.cut = true) : s.loadEnd img ex crc c = some (s.unload, dmaCut) := if_pos h

variable (h : ¬ (fieldOf c.desc 8 1 = 0 ∧ c.cut = true))
include h

theorem loadEnd_waits (hq : s.loadQuiet = false) : s.loadEnd img ex crc c = none :=
  (if_neg h).trans (if_pos (by simp [hq]))

theorem loadEnd_ready (hq : s.loadQuiet = true) : s.loadEnd img ex crc c =
    match (s.loadHas crc c.desc).loadDma img ex c.desc with
    | some r => some ((s.loadHas crc c.desc).unload, r)
    | none =>
      match (s.loadHas crc c.desc).load (fieldOf c.desc 9 1)
          (s.loadBytes (fieldOf c.desc 8 1) img (fieldOf c.desc 16 8) (fieldOf c.desc 24 8) crc)
          (exclOf (s.loadBytes (fieldOf c.desc 8 1) ex (fieldOf c.desc 32 8) (2 * fieldOf c.desc 10 2) crc)) crc with
      | .error e => some ((s.loadHas crc c.desc).unload, loadResp e)
      | .ok t => some (t, match t.chip.image with | some g => imageResp g | none => okResp) :=
  (if_neg h).trans ((if_neg (by simp [hq])).trans rfl)

theorem loadEnd_failed (hq : s.loadQuiet = true) {e : Resp} (hb : (s.loadHas crc c.desc).loadDma img ex c.desc = some e) :
    s.loadEnd img ex crc c = some ((s.loadHas crc c.desc).unload, e) :=
  (loadEnd_ready h hq).trans (by rw [hb])

theorem loadEnd_ends (hd : s.due 3 0x0201 c) (hq : s.loadQuiet = true) (hb : (s.loadHas crc c.desc).loadDma img ex c.desc = none)
    {isl : Bool} : exec (.imageLoad img ex isl crc) s = .next
      (match (s.loadHas crc c.desc).load (fieldOf c.desc 9 1)
          (s.loadBytes (fieldOf c.desc 8 1) img (fieldOf c.desc 16 8) (fieldOf c.desc 24 8) crc)
          (exclOf (s.loadBytes (fieldOf c.desc 8 1) ex (fieldOf c.desc 32 8) (2 * fieldOf c.desc 10 2) crc)) crc with
       | .error e => (s.loadHas crc c.desc).unload.finishAt 3 0 (loadResp e)
       | .ok t => t.finishAt 3 0 (match t.chip.image with | some g => imageResp g | none => okResp)) := by
  have e := loadEnd_ready (img := img) (ex := ex) (crc := crc) h hq
  rw [hb] at e
  dsimp only at e
  split <;> rename_i r hr <;> rw [hr] at e <;> exact cmdLong_ends hd e

end loadEnd

/-! ### SNAPSHOT_SAVE -/

theorem saveBegin_refused {r : Resp} (h : s.placeRefused d (snapLen s.nTeams) = some r) : s.saveBegin d = (s, 0, some r) := by
  rw [State.saveBegin, h]

section saveBegin
variable (h : s.placeRefused d (snapLen s.nTeams) = none)
include h

theorem saveBegin_placed : s.saveBegin d = if fieldOf d 8 1 = 1 ∧ (!s.mayMaster) = true then (s, 0, some (errResp 5 0 0 0))
    else ((s.clr Reg.CHIP_MODE_AT_REST).setMode mSnapshot, 0, none) := by
  rw [State.saveBegin, h]

theorem saveBegin_unmastered (h1 : fieldOf d 8 1 = 1) (hm : s.mayMaster = false) : s.saveBegin d = (s, 0, some (errResp 5 0 0 0)) :=
  (saveBegin_placed h).trans (if_pos ⟨h1, by simp [hm]⟩)

theorem saveBegin_starts (hm : fieldOf d 8 1 ≠ 1 ∨ s.mayMaster = true) :
    s.saveBegin d = ((s.clr Reg.CHIP_MODE_AT_REST).setMode mSnapshot, 0, none) :=
  (saveBegin_placed h).trans (if_neg (fun e => hm.elim (fun h => h e.1) (fun h => by simp [h] at e)))

end saveBegin

section savePoll
variable {finds : Finds}

theorem savePoll_cut (h : fieldOf c.desc 8 1 = 1 ∧ c.cut = true) : s.savePoll finds crc c = some (s.backToStep, dmaCut) := if_pos h

variable (h : ¬ (fieldOf c.desc 8 1 = 1 ∧ c.cut = true))
include h

theorem savePoll_waits (hm : ¬ (s.settled = true ∧ s.placeQuiet c.desc = true)) : s.savePoll finds crc c = none :=
  (if_neg h).trans (if_neg (by simpa using hm))

variable (hm : s.settled = true ∧ s.placeQuiet c.desc = true)
include hm

theorem savePoll_saves : s.savePoll finds crc c = some (s.saveNow finds crc c.desc) :=
  (if_neg h).trans (if_pos (by simp [hm]))

/-- The response of a SNAPSHOT_SAVE that has written its snapshot. -/
def State.savedResp (s : State) (finds : Finds) : Resp :=
  okWith 16 (packBytes [(16, 8, (s.snapshot finds (s.stride + 1)).length), (24, 8, s.stride + 1)])

theorem savePoll_host (h1 : fieldOf c.desc 8 1 = 1) (hb : (s.snapFound finds).mayMaster = true) : s.savePoll finds crc c =
    some (((s.snapFound finds).toHost (fieldOf c.desc 16 8) (s.snapshot finds (s.stride + 1))).backToStep, s.savedResp finds) :=
  (savePoll_saves h hm).trans (congrArg some ((if_pos h1).trans (if_pos hb)))

theorem savePoll_unmastered (h1 : fieldOf c.desc 8 1 = 1) (hb : (s.snapFound finds).mayMaster = false) :
    s.savePoll finds crc c = some ((s.snapFound finds).backToStep, errResp 5 0 0 0) :=
  (savePoll_saves h hm).trans (congrArg some ((if_pos h1).trans (if_neg (Bool.eq_false_iff.mp hb))))

theorem savePoll_region (h1 : fieldOf c.desc 8 1 ≠ 1) : s.savePoll finds crc c =
    some ((match (s.snapFound finds).regionOf (fieldOf c.desc 12 4) with
      | some r => (s.snapFound finds).toRegion r (fieldOf c.desc 16 8) (s.snapshot finds (s.stride + 1)) crc
      | none => s.snapFound finds).backToStep, s.savedResp finds) :=
  (savePoll_saves h hm).trans (congrArg some ((if_neg h1).trans rfl))

end savePoll

/-! ### SNAPSHOT_RESTORE -/

theorem restoreStart_refused {r : Resp} (h : s.placeRefused d (snapLen s.nTeams) = some r) : s.restoreStart d = (s, 0, some r) := by
  rw [State.restoreStart, h]

theorem restoreStart_starts (h : s.placeRefused d (snapLen s.nTeams) = none) :
    s.restoreStart d = (s.put Reg.LD_HOLD_STAT_EPOCH 0, 0, none) := by
  rw [State.restoreStart, h]

/-- R433: what is done with the bytes of a snapshot. -/
def State.restoreBytes (s : State) (bs : List Byte) : State × Resp :=
  match s.snapBad bs with
  | some r => (s, r)
  | none => s.restoreNow bs

theorem finish_restoreBytes (bs : List Byte) : (s.restoreBytes bs).1.finishAt 3 0 (s.restoreBytes bs).2 =
    (match s.snapBad bs with
     | some r => s.finishAt 3 0 r
     | none => (s.restoreNow bs).1.finishAt 3 0 (s.restoreNow bs).2) := by
  unfold State.restoreBytes
  split <;> rfl

theorem restorePoll_cut (h : fieldOf c.desc 8 1 = 1 ∧ c.cut = true) : s.restorePoll dma crc c = some (s, dmaCut) := if_pos h

theorem restorePoll_waits (h : ¬ (fieldOf c.desc 8 1 = 1 ∧ c.cut = true)) (hq : s.placeQuiet c.desc = false) :
    s.restorePoll dma crc c = none :=
  (if_neg h).trans (if_neg (Bool.eq_false_iff.mp hq))

theorem restorePoll_reads (h : ¬ (fieldOf c.desc 8 1 = 1 ∧ c.cut = true)) (hq : s.placeQuiet c.desc = true) :
    s.restorePoll dma crc c = some (s.restoreEnd dma crc c.desc) :=
  (if_neg h).trans (if_pos hq)

theorem restoreEnd_failed {e : Resp} (h1 : fieldOf d 8 1 = 1) (he : s.dmaBad dma = some e) : s.restoreEnd dma crc d = (s, e) := by
  simp only [State.restoreEnd, if_pos h1, he]

theorem restoreEnd_host (h1 : fieldOf d 8 1 = 1) (he : s.dmaBad dma = none) :
    s.restoreEnd dma crc d = s.restoreBytes (dmaBytes dma (snapLen s.nTeams)) := by
  simp only [State.restoreEnd, if_pos h1, he]
  rfl

/-- The bytes of a region that SNAPSHOT_RESTORE reads, and the state after that. -/
def State.restoreFrom (s : State) (crc : List HostCrc) (d : BitVec 512) : State × List Byte :=
  match s.regionOf (fieldOf d 12 4) with
  | some r => s.fromRegion r (fieldOf d 16 8) (snapLen s.nTeams) crc
  | none => (s, [])

theorem restoreEnd_region (h1 : fieldOf d 8 1 ≠ 1) :
    s.restoreEnd dma crc d = (s.restoreFrom crc d).1.restoreBytes (s.restoreFrom crc d).2 := by
  simp only [State.restoreEnd, if_neg h1]
  rfl

theorem placeQuiet_host (h1 : fieldOf d 8 1 = 1) : s.placeQuiet d = true := by simp [State.placeQuiet, h1]

/-- A SNAPSHOT_RESTORE that has read its bytes ends. -/
theorem restore_ends (hd : s.due 3 0x030B c) (hc : ¬ (fieldOf c.desc 8 1 = 1 ∧ c.cut = true)) (hq : s.placeQuiet c.desc = true)
    {u : State} {bs : List Byte} (e : s.restoreEnd dma crc c.desc = u.restoreBytes bs) : exec (.snapshotRestore dma crc) s = .next
      (match u.snapBad bs with
       | some r => u.finishAt 3 0 r
       | none => (u.restoreNow bs).1.finishAt 3 0 (u.restoreNow bs).2) := by
  rw [← finish_restoreBytes]
  exact cmdLong_ends hd ((restorePoll_reads hc hq).trans (congrArg some e))

/-! ### The obligation -/

/-- Settles O50: each command by the branch that its checks and its transfers choose. -/
theorem imageAndSystemCommandsAct : Obligations.ImageAndSystemCommandsAct := by
  intro s i c d b
  refine ⟨fun _ _ _ _ _ _ => ⟨rfl, rfl, rfl, rfl, rfl, rfl, rfl, rfl, rfl⟩, fun ht => cmd_answers ht rfl, fun ht => cmd_answers ht rfl,
    fun ht => cmd_answers ht rfl, fun g ht h => cmd_answers ht (imageInfo_held (s := s.less 3 i) h), fun hs hl h => ?_,
    fun ht => cmd_answers ht rfl, fun img ex isl crc ht => ?_, fun img ex isl crc hd => ?_, fun ht => cmdLong_waits ht rfl,
    fun hd => cmdLong_ends hd rfl, fun finds crc ht => ?_, fun finds crc hd => ?_, rfl, fun dma crc ht => ?_, fun dma crc hd => ?_⟩
  · exact congrArg Host.Outcome.next (cmd_refused hs (pre_imageInfo hl h))
  · exact ⟨fun h => cmdLong_answers ht (loadStart_locked (s := b) h), fun h hw => cmdLong_answers ht (loadStart_unheld (s := b) h hw),
      fun h hw => cmdLong_waits ht (loadStart_starts (s := b) h hw)⟩
  · exact ⟨fun h => cmdLong_ends hd (loadEnd_cut h), fun h hq => cmdLong_stays hd (loadEnd_waits h hq),
      fun e h hq hb => cmdLong_ends hd (loadEnd_failed h hq hb), fun h hq hb => loadEnd_ends h hd hq hb⟩
  · exact ⟨fun r h => cmdLong_answers ht (saveBegin_refused (s := b) h),
      fun h h1 hm => cmdLong_answers ht (saveBegin_unmastered (s := b) h h1 hm),
      fun h h1 hm => cmdLong_waits ht (saveBegin_starts (s := b) h (.inr hm)),
      fun h h1 => cmdLong_waits ht (saveBegin_starts (s := b) h (.inl h1))⟩
  · exact ⟨fun h => cmdLong_ends hd (savePoll_cut h), fun h hm => cmdLong_stays hd (savePoll_waits h hm),
      fun h hm h1 hb => cmdLong_ends hd (savePoll_host h hm h1 hb), fun h hm h1 hb => cmdLong_ends hd (savePoll_unmastered h hm h1 hb),
      fun h hm h1 => cmdLong_ends hd (savePoll_region h hm h1)⟩
  · exact ⟨fun r h => cmdLong_answers ht (restoreStart_refused (s := b) h), fun h => cmdLong_waits ht (restoreStart_starts (s := b) h)⟩
  · exact ⟨fun h => cmdLong_ends hd (restorePoll_cut h), fun h hq => cmdLong_stays hd (restorePoll_waits h hq),
      fun e h h1 he => cmdLong_ends hd ((restorePoll_reads h (placeQuiet_host h1)).trans (congrArg some (restoreEnd_failed h1 he))),
      fun h h1 he => restore_ends hd h (placeQuiet_host h1) (restoreEnd_host h1 he),
      fun h1 hq => restore_ends hd (fun e => h1 e.1) hq (restoreEnd_region h1)⟩

end Sys2Proof.Machine
end

section
/-! The diagnostic commands of Groom 0 (R149, R415 to R417, R455, R477, R496). -/
namespace Sys2Proof.Machine

variable {s : State} {i : Nat} {c : Taken} {d : BitVec 512}

/-! ### The Saddlebag -/

theorem sbReadCmd_unmastered (h : s.mayMaster = false) : s.sbReadCmd d = (s, errResp 5 0 0 0) := by
  unfold State.sbReadCmd; rw [dmaBad_unmastered h]

theorem sbReadCmd_copies (h : s.mayMaster = true) : s.sbReadCmd d =
    (s.toHost (fieldOf d 16 8) ((List.range (fieldOf d 10 2)).flatMap (fun k => leBytes 16 (s.ringAt ((fieldOf d 8 2 + k) % 8192)).toNat)),
      okWith 3 (packBytes [(16, 2, s.get Reg.SB_STAT_NEWEST), (18, 1, s.get Reg.SB_STAT_FROZEN)])) := by
  unfold State.sbReadCmd; rw [dmaBad_none (dma := ⟨0, []⟩) h rfl]

theorem sbMark_writes (h : s.on Reg.SB_STAT_FROZEN = false) :
    s.sbMark d = (s.groomRec 0 0 0x70 (BitVec.ofNat 48 (fieldOf d 8 6)), okResp) := if_neg (Bool.eq_false_iff.mp h)

theorem sbMark_frozen (h : s.on Reg.SB_STAT_FROZEN = true) : s.sbMark d = (s, ⟨0, 1, 0, 0⟩) := if_pos h

/-! ### Regulators and probes -/

theorem regSet_takes {m : Option (Fin 1024 × Fin 4)} (h : m = none ∨ s.rateSum (fieldOf d 8 1) (fieldOf d 10 1) = 0) :
    s.regSet m d = (((s.put (Reg.RTR_REG_BURST (fieldOf d 8 1)) (fieldOf d 9 1)).put (Reg.RTR_REG_RATE (fieldOf d 8 1)) (fieldOf d 10 1)).put
      (Reg.RTR_REG_EXCESS (fieldOf d 8 1)) (fieldOf d 11 1), okResp) := by
  unfold State.regSet
  rcases h with h | h
  · rw [h]
  · dsimp only
    rw [h]
    rcases m with _ | ⟨t, p⟩ <;> rfl

theorem regSet_refuses {t : Fin 1024} {p : Fin 4} (h : s.rateSum (fieldOf d 8 1) (fieldOf d 10 1) ≠ 0) :
    s.regSet (some (t, p)) d = (s, errResp 0x21 t p 0) := by
  obtain ⟨n, hn⟩ := Nat.exists_eq_succ_of_ne_zero h
  unfold State.regSet
  dsimp only
  rw [hn]

/-- R416: probe `k` as PROBE_CFG writes it. -/
def State.probeWritten (s : State) (d : BitVec 512) (p : Option Probe) : State :=
  let k := fieldOf d 8 1
  let q := fieldOf d 9 1
  let s0 := s.each 16 (fun c x => x.onChan c (fun v => { v with probeAt := upd v.probeAt k 0 }))
  let s1 := ((s0.writeFields (Adr.RTR_PRB_SEL k) (fieldOf d 10 2)).put (Reg.RTR_PRB_MATCH_VALUE k) (fieldOf d 12 4)).put
    (Reg.RTR_PRB_MASK_VALUE k) (fieldOf d 16 4)
  let s2 := ((s1.put (Reg.RTR_PRB_CTL_STATIC k) (bits q 1 1)).put (Reg.RTR_PRB_CTL_MODE k) (bits q 3 2)).put (Reg.RTR_PRB_CTL_EN k) (q % 2)
  { s2 with probes := upd s2.probes k p }

theorem probeCfg_enable (h : bit (fieldOf d 9 1) 7 = true) :
    s.probeCfg d = (s.put (Reg.RTR_PRB_CTL_EN (fieldOf d 8 1)) (fieldOf d 9 1 % 2), okResp) := if_pos h

section probe
variable (h : bit (fieldOf d 9 1) 7 = false)
include h

theorem probeCfg_writes : s.probeCfg d =
    match (if bits (fieldOf d 9 1) 3 2 = 3 then (s.hostRegion (fieldOf d 20 4) kProbe).map some else some none) with
    | none => (s, notHeld (fieldOf d 20 4))
    | some r => (s.probeWritten d (r.map (fun r => (⟨fieldOf d 20 4, regionD r, log2n r.n, regionSize r, 0⟩ : Probe))), okResp) :=
  (if_neg (Bool.eq_false_iff.mp h)).trans rfl

theorem probeCfg_plain (hm : bits (fieldOf d 9 1) 3 2 ≠ 3) : s.probeCfg d = (s.probeWritten d none, okResp) := by
  rw [probeCfg_writes h, if_neg hm]
  rfl

theorem probeCfg_unheld (hm : bits (fieldOf d 9 1) 3 2 = 3) (hr : s.hostRegion (fieldOf d 20 4) kProbe = none) :
    s.probeCfg d = (s, notHeld (fieldOf d 20 4)) := by
  rw [probeCfg_writes h, if_pos hm, hr]
  rfl

theorem probeCfg_region (hm : bits (fieldOf d 9 1) 3 2 = 3) {r : Region} (hr : s.hostRegion (fieldOf d 20 4) kProbe = some r) :
    s.probeCfg d = (s.probeWritten d (some ⟨fieldOf d 20 4, regionD r, log2n r.n, regionSize r, 0⟩), okResp) := by
  rw [probeCfg_writes h, if_pos hm, hr]
  rfl

end probe

/-! ### TRACE_CFG -/

section trace
variable {next : List Word}

theorem traceCfg_plain (h : fieldOf d 8 1 ≠ 2) :
    let off := s.genWrite 0 next
    let x : State := { off with chip := { off.chip with traceRegion := none } }
    s.traceCfg next d = (((x.sinkNew (fieldOf d 8 1) 1 1).put Reg.GRM_TRC_CTL_PRI 0x1B).genWrite (fieldOf d 9 1) next, okResp) :=
  if_neg h

theorem traceCfg_unheld (h : fieldOf d 8 1 = 2) (hr : s.hostRegion (fieldOf d 12 4) kTrace = none) :
    s.traceCfg next d = (s, notHeld (fieldOf d 12 4)) := by
  refine (if_pos h).trans ?_
  rw [hr]

theorem traceCfg_oneChannel (h : fieldOf d 8 1 = 2) {r : Region} (hr : s.hostRegion (fieldOf d 12 4) kTrace = some r) (hn : r.n = 1) :
    s.traceCfg next d = (s, notHeld (fieldOf d 12 4)) := by
  refine (if_pos h).trans ?_
  rw [hr]
  exact if_pos hn

theorem traceCfg_region (h : fieldOf d 8 1 = 2) {r : Region} (hr : s.hostRegion (fieldOf d 12 4) kTrace = some r) (hn : r.n ≠ 1) :
    s.traceCfg next d = ((((((s.genWrite 0 next).trcRegion r).sinkNew (fieldOf d 8 1) 1 1).put Reg.GRM_TRC_CTL_PRI 0x1B).genWrite
      (fieldOf d 9 1) next), okResp) := by
  refine (if_pos h).trans ?_
  rw [hr]
  exact if_neg hn

end trace

/-! ### TEAM_POWER -/

/-- The Team's switch is open, and stays so. -/
def State.teamIsOff (s : State) (t : Nat) : Prop := s.get (Reg.TEAM_PWR_STATE t) = 0 ∧ s.on (Reg.TEAM_PWR_EN t) = false

/-- The Team's switch is closed, and stays so. -/
def State.teamIsUp (s : State) (t : Nat) : Prop := s.get (Reg.TEAM_PWR_STATE t) = 1 ∧ s.on (Reg.TEAM_PWR_EN t) = true

theorem teamIsOff_iff (t : Nat) : s.teamIsOff t ↔ s.get (Reg.TEAM_PWR_STATE t) = 0 ∧ (!s.on (Reg.TEAM_PWR_EN t)) = true := by
  simp [State.teamIsOff]

section power

theorem teamPowerBegin_used (h : fieldOf d 8 2 ∈ s.usedTeams) : s.teamPowerBegin d = (s, 0, some (errResp 0x13 8 0 0)) :=
  if_pos (List.contains_iff_mem.mpr h)

variable (h : fieldOf d 8 2 ∉ s.usedTeams)
include h

theorem teamPowerBegin_isOff (hz : fieldOf d 10 1 = 0) (ho : s.teamIsOff (fieldOf d 8 2)) :
    s.teamPowerBegin d = (s.set1 (Reg.RTR_CTL_ISOLATE (fieldOf d 8 2)), 0, some okResp) :=
  (if_neg (fun e => h (List.contains_iff_mem.mp e))).trans ((if_pos hz).trans (if_pos ((teamIsOff_iff _).mp ho)))

theorem teamPowerBegin_opens (hz : fieldOf d 10 1 = 0) (ho : ¬ s.teamIsOff (fieldOf d 8 2)) :
    s.teamPowerBegin d = ((((s.set1 (Reg.RTR_CTL_ISOLATE (fieldOf d 8 2))).bankPower (fieldOf d 8 2) 0 0).bankPower (fieldOf d 8 2) 1 0).teamEn
      (fieldOf d 8 2) false, 0, none) :=
  (if_neg (fun e => h (List.contains_iff_mem.mp e))).trans ((if_pos hz).trans (if_neg (fun e => ho ((teamIsOff_iff _).mpr e))))

theorem teamPowerBegin_isUp (hz : fieldOf d 10 1 ≠ 0) (hu : s.teamIsUp (fieldOf d 8 2)) :
    s.teamPowerBegin d = (s.clr (Reg.RTR_CTL_ISOLATE (fieldOf d 8 2)), 0, some okResp) :=
  (if_neg (fun e => h (List.contains_iff_mem.mp e))).trans ((if_neg hz).trans (if_pos hu))

theorem teamPowerBegin_closes (hz : fieldOf d 10 1 ≠ 0) (hu : ¬ s.teamIsUp (fieldOf d 8 2)) :
    s.teamPowerBegin d = (s.teamEn (fieldOf d 8 2) true, 0, none) :=
  (if_neg (fun e => h (List.contains_iff_mem.mp e))).trans ((if_neg hz).trans (if_neg hu))

end power

theorem teamPowerPoll_switching (h : (s.team (fieldOf c.desc 8 2)).switching = true) : s.teamPowerPoll c = none := if_pos h

section switched
variable (h : (s.team (fieldOf c.desc 8 2)).switching = false)
include h

theorem teamPowerPoll_isOn (hz : fieldOf c.desc 10 1 = 1) (hs : s.get (Reg.TEAM_PWR_STATE (fieldOf c.desc 8 2)) = 1) :
    s.teamPowerPoll c = some (s.clr (Reg.RTR_CTL_ISOLATE (fieldOf c.desc 8 2)), okResp) :=
  (if_neg (Bool.eq_false_iff.mp h)).trans ((if_pos hz).trans (if_pos hs))

theorem teamPowerPoll_notOn (hz : fieldOf c.desc 10 1 = 1) (hs : s.get (Reg.TEAM_PWR_STATE (fieldOf c.desc 8 2)) ≠ 1) :
    s.teamPowerPoll c = none :=
  (if_neg (Bool.eq_false_iff.mp h)).trans ((if_pos hz).trans (if_neg hs))

theorem teamPowerPoll_isOff (hz : fieldOf c.desc 10 1 ≠ 1) (hs : s.get (Reg.TEAM_PWR_STATE (fieldOf c.desc 8 2)) = 0) :
    s.teamPowerPoll c = some (s, okResp) :=
  (if_neg (Bool.eq_false_iff.mp h)).trans ((if_neg hz).trans (if_pos hs))

theorem teamPowerPoll_notOff (hz : fieldOf c.desc 10 1 ≠ 1) (hs : s.get (Reg.TEAM_PWR_STATE (fieldOf c.desc 8 2)) ≠ 0) :
    s.teamPowerPoll c = none :=
  (if_neg (Bool.eq_false_iff.mp h)).trans ((if_neg hz).trans (if_neg hs))

end switched

/-! ### DEBUG_READ -/

theorem debugBegin_noHub (h : s.debugHub = none) : s.debugBegin d = (s, 0, none) := by
  unfold State.debugBegin; rw [h]

/-- R417: the tag that a debug read takes. -/
def State.debugTag (s : State) : Nat := ((List.range 255).find? (fun k => !s.debugTags.contains (k + 1))).getD 0 + 1

theorem debugBegin_sends {h : Nat} (hh : s.debugHub = some h) : s.debugBegin d =
    (s.wait h (mkPacket (fieldOf d 8 2) (fieldOf d 10 1) 0 4 h 1 s.debugTag 0 (fieldOf d 12 4 / 2 ^ 24) (fieldOf d 12 4)
      (fieldOf d 11 1 - 1) []), s.debugTag, none) := by
  unfold State.debugBegin; rw [hh]; rfl

theorem debugPoll_noHub (h : s.debugHub = none) : s.debugPoll c = none := by
  unfold State.debugPoll; rw [h]

section hub
variable {h : Nat} (hh : s.debugHub = some h)
include hh

theorem debugPoll_nothing (hk : (s.router h).boxA.findIdx? (fun p => isCpl p && pTAG p == c.note && c.note != 0) = none) :
    s.debugPoll c = none := by
  unfold State.debugPoll; rw [hh]; dsimp only; rw [hk]

theorem debugPoll_takes {k : Nat} {p : Packet}
    (hk : (s.router h).boxA.findIdx? (fun p => isCpl p && pTAG p == c.note && c.note != 0) = some k) (hp : (s.router h).boxA[k]? = some p) :
    s.debugPoll c = some (s.onRouter h (fun r => { r with boxA := r.boxA.eraseIdx k }), debugResp (fieldOf c.desc 11 1) p) := by
  unfold State.debugPoll; rw [hh]; dsimp only; rw [hk]; dsimp only; rw [hp]

end hub

/-- A debug read whose completion has not come stays. -/
theorem debugRead_stays (hd : s.due 0 0x0907 c) (h : s.debugPoll c = none) : exec .debugRead s = .next s := by
  refine congrArg Host.Outcome.next ?_
  have e := State.cmdLong_due (start := State.debugBegin) (poll := State.debugPoll) hd
  rw [State.pollStarted_due hd, h]
  rw [h] at e
  exact e

theorem debugRead_ends (hd : s.due 0 0x0907 c) {u : State} {r : Resp} (h : s.debugPoll c = some (u, r)) :
    exec .debugRead s = .next (u.finishAt 0 0 r) := by
  refine congrArg Host.Outcome.next ?_
  rw [State.pollStarted_due hd, h]
  rfl

/-- While no completion has come for a started one, the next debug read starts. -/
theorem debugRead_starts (ht : s.turn 0 0x0907 i c) (hn : s.pollStarted 0 0x0907 State.debugPoll = none) {u : State} {n : Nat}
    (e : State.debugBegin c.desc (s.started 0 i 0 c) = (u, n, none)) : exec .debugRead s = .next (u.started 0 i n c) := by
  refine congrArg Host.Outcome.next ?_
  rw [hn]
  exact State.cmdLong_goes ht e

/-! ### The obligation -/

/-- Settles O51: each command by the branch that its descriptor, its region or its Team choose. -/
theorem diagnosticCommandsAct : Obligations.DiagnosticCommandsAct := by
  intro s i c d u b
  refine ⟨fun _ _ => ⟨rfl, rfl, rfl, rfl, rfl, rfl, rfl⟩, fun ht h => cmd_answers ht (sbReadCmd_unmastered (s := u) h),
    fun ht h => cmd_answers ht (sbReadCmd_copies (s := u) h), fun ht h => cmd_answers ht (sbMark_writes (s := u) h),
    fun ht h => cmd_answers ht (sbMark_frozen (s := u) h), fun m ht h => cmd_answers ht (regSet_takes (s := u) h),
    fun t p ht h => cmd_answers ht (regSet_refuses (s := u) h), fun ht => ?_, fun next ht => ?_, fun ht => ?_, fun hd => ?_,
    fun ht hn => ?_, fun hd => ?_⟩
  · exact ⟨fun h => cmd_answers ht (probeCfg_enable (s := u) h), fun h hm => cmd_answers ht (probeCfg_plain (s := u) h hm),
      fun h hm hr => cmd_answers ht (probeCfg_unheld (s := u) h hm hr), fun r h hm hr => cmd_answers ht (probeCfg_region (s := u) h hm hr)⟩
  · exact ⟨fun h => cmd_answers ht (traceCfg_plain (s := u) h), fun h hr => cmd_answers ht (traceCfg_unheld (s := u) h hr),
      fun r h hr hn => cmd_answers ht (traceCfg_oneChannel (s := u) h hr hn),
      fun r h hr hn => cmd_answers ht (traceCfg_region (s := u) h hr hn)⟩
  · exact ⟨fun h => cmdLong_answers ht (teamPowerBegin_used (s := b) h),
      fun h hz ho => cmdLong_answers ht (teamPowerBegin_isOff (s := b) h hz ho),
      fun h hz ho => cmdLong_waits ht (teamPowerBegin_opens (s := b) h hz ho),
      fun h hz hu => cmdLong_answers ht (teamPowerBegin_isUp (s := b) h hz hu),
      fun h hz hu => cmdLong_waits ht (teamPowerBegin_closes (s := b) h hz hu)⟩
  · exact ⟨fun h => cmdLong_stays hd (teamPowerPoll_switching h),
      fun h hz => ⟨fun hs => cmdLong_ends hd (teamPowerPoll_isOn h hz hs), fun hs => cmdLong_stays hd (teamPowerPoll_notOn h hz hs)⟩,
      fun h hz => ⟨fun hs => cmdLong_ends hd (teamPowerPoll_isOff h hz hs), fun hs => cmdLong_stays hd (teamPowerPoll_notOff h hz hs)⟩⟩
  · exact ⟨fun h => debugRead_starts ht hn (debugBegin_noHub (s := b) h), fun h hh => debugRead_starts ht hn (debugBegin_sends (s := b) hh)⟩
  · exact ⟨fun h => debugRead_stays hd (debugPoll_noHub h), fun h hh => ⟨fun hk => debugRead_stays hd (debugPoll_nothing hh hk),
      fun k p hk hp => debugRead_ends hd (debugPoll_takes hh hk hp)⟩⟩

end Sys2Proof.Machine
end

section
/-! The Secure Store, the lifecycle and tamper events (R498 to R510). -/
namespace Sys2Proof.Machine

variable {s : State} {d : BitVec 512} {dma : HostDma}

/-! ### Wipes -/

/-- Records of the hardware leave the Secure Store and its registers alone. -/
theorem foldl_hwRec (F : Nat × Nat × Nat → BitVec 48) (recs : List (Nat × Nat × Nat)) (u : State) :
    (recs.foldl (fun x r => x.hwRec r.1 0x60 (F r)) u).sec = u.sec
    ∧ ∀ a, a ≠ Adr.SB_DROP → (recs.foldl (fun x r => x.hwRec r.1 0x60 (F r)) u).rd a = u.rd a := by
  induction recs generalizing u with
  | nil => exact ⟨rfl, fun _ _ => rfl⟩
  | cons r l ih =>
    obtain ⟨hsec, hrd⟩ := ih (u.hwRec r.1 0x60 (F r))
    exact ⟨hsec.trans (State.hwRec_sec u ..), fun a ha => (hrd a ha).trans (State.hwRec_rd u _ _ _ ha)⟩

theorem wipe_empties (recs : List (Nat × Nat × Nat)) :
    (s.wipe recs).sec.rootKey = 0 ∧ (s.wipe recs).sec.slots = [] ∧ (s.wipe recs).get Reg.SEC_STAT_SLOTS = 0 := by
  obtain ⟨hsec, hrd⟩ := foldl_hwRec (fun r => argOf (r.2.1 + 256 * r.2.2) 0) recs
    ((({ s with sec := { s.sec with rootKey := 0, slots := [] } } : State).put Reg.SEC_STAT_SLOTS 0).sat Reg.SEC_WIPES_COUNT 1)
  refine ⟨congrArg Secure.rootKey hsec, congrArg Secure.slots hsec, ?_⟩
  refine (State.get_eq_of_rd (hrd Adr.SEC_STAT (by decide))).trans ?_
  refine (State.get_put_other _ _ (Fld.ok_of _ rfl) (.inl (by decide))).trans ?_
  exact State.get_put_same _ _ (Fld.ok_of _ rfl)

/-! ### Commands -/

theorem keyWrite_kept (h : s.fuses.lifecycle = 2 ∧ s.slotFull (fieldOf d 8 1) = true) : s.keyWrite d = (s, errResp 0x11 2 0 0) := if_pos h

section key
variable (h : ¬ (s.fuses.lifecycle = 2 ∧ s.slotFull (fieldOf d 8 1) = true))
include h

theorem keyWrite_unwrapped : s.keyWrite d =
    match Config.keyUnwrap s.fuses.kek (BitVec.ofNat 320 (fieldOf d 12 40)) with
    | none => (s, errResp 0x23 0 0 0)
    | some k => (({ s with sec := { s.sec with slots := Tab.set (fun _ => 0) s.sec.slots (fieldOf d 8 1) k } } : State).put
        Reg.SEC_STAT_SLOTS (s.get Reg.SEC_STAT_SLOTS ||| 2 ^ fieldOf d 8 1), okResp) :=
  (if_neg h).trans rfl

end key

theorem lcAdvance_bad {k : Nat} (h : s.advanceBad d = some k) : s.lcAdvance d = (s, badDesc 5 k) := by
  unfold State.lcAdvance; rw [h]

theorem lcAdvance_acts (h : s.advanceBad d = none) : s.lcAdvance d =
    ((s.blowFuses (fieldOf d 8 1) (fieldOf d 10 2)).wipe [(0, 1, fieldOf d 8 1)], okWith 1 (fieldOf d 8 1)) := by
  unfold State.lcAdvance; rw [h]

/-- R509: the version of an LC_ADVANCE lies below the fused one. -/
def State.versionOld (s : State) (d : BitVec 512) : Prop := fieldOf d 10 2 ≠ 0 ∧ fieldOf d 10 2 < s.fuses.minVersion

theorem advanceBad_other (ht : fieldOf d 8 1 ≠ s.fuses.lifecycle + 1) : s.advanceBad d = some 8 := if_pos ht

theorem advanceBad_old (ht : fieldOf d 8 1 = s.fuses.lifecycle + 1) (h : s.versionOld d) : s.advanceBad d = some 10 :=
  (if_neg (not_not.mpr ht)).trans (if_pos h)

theorem advanceBad_none (ht : fieldOf d 8 1 = s.fuses.lifecycle + 1) (h : ¬ s.versionOld d) : s.advanceBad d = none :=
  (if_neg (not_not.mpr ht)).trans (if_neg h)

theorem lcReturn_failed {r : Resp} (h : s.dmaBad dma = some r) : s.lcReturn dma d = (s.drawNonce, r) := by
  unfold State.lcReturn; rw [h]

theorem lcReturn_read (h : s.dmaBad dma = none) : s.lcReturn dma d =
    if s.tokenOk (dmaBytes dma (fieldOf d 12 4)) = true then (((s.blowFuses 3 0).wipe [(0, 1, 3)]).drawNonce, okWith 1 3)
    else (s.drawNonce, errResp 0x23 0 0 0) := by
  unfold State.lcReturn; rw [h]

/-! ### Tamper events -/

/-- SEC_TAMPER with the bits of the detectors that fire. -/
def State.tampered (s : State) (mask : BitVec 4) : State := s.put Reg.SEC_TAMPER_MASK (s.get Reg.SEC_TAMPER_MASK ||| mask.toNat)

section tamper
variable {mask : BitVec 4} {b : Bool} (hm : mask ≠ 0)
include hm

theorem tamper_acts : s.tamper mask b =
    let s1 := s.tampered mask
    let m := s1.get Reg.SEC_TAMPER_MASK
    let s2 := match (if b then s.advanceDue else none) with
      | some d => (s1.blowFuses (fieldOf d 8 1) (fieldOf d 10 2)).wipe [(6, 2, m), (0, 1, fieldOf d 8 1)]
      | none => s1.wipe [(6, 2, m)]
    if s.coreRuns then s2.enterQuarantine qTamper m else s2 :=
  (if_neg hm).trans rfl

theorem tamper_wipes (h : b = false ∨ s.advanceDue = none) : s.tamper mask b =
    let s1 := s.tampered mask
    let m := s1.get Reg.SEC_TAMPER_MASK
    if s.coreRuns then (s1.wipe [(6, 2, m)]).enterQuarantine qTamper m else s1.wipe [(6, 2, m)] := by
  have e : (if b then s.advanceDue else none) = none := by
    rcases h with h | h
    · rw [h]; rfl
    · rw [h]; exact ite_self none
  rw [tamper_acts hm, e]

theorem tamper_completes (hb : b = true) {d : BitVec 512} (h : s.advanceDue = some d) : s.tamper mask b =
    let s1 := s.tampered mask
    let m := s1.get Reg.SEC_TAMPER_MASK
    let x := (s1.blowFuses (fieldOf d 8 1) (fieldOf d 10 2)).wipe [(6, 2, m), (0, 1, fieldOf d 8 1)]
    if s.coreRuns then x.enterQuarantine qTamper m else x := by
  have e : (if b then s.advanceDue else none) = some d := (if_pos hb).trans h
  rw [tamper_acts hm, e]

end tamper

/-! ### The obligation -/

/-- Settles O52: each command and event by the branch of its checks. -/
theorem securityActs : Obligations.SecurityActs := by
  refine ⟨fun s i c => ?_, fun _ recs => wipe_empties recs, fun _ => rfl, fun _ _ _ => rfl, fun _ _ => rfl, fun s mask b hm => ?_⟩
  · intro d u
    refine ⟨fun _ => ⟨rfl, rfl, rfl, rfl⟩, fun ht => cmd_answers ht rfl, fun ht => ⟨fun h => ?_, fun h => ?_⟩,
      fun ht => ⟨fun ht' h => ?_, fun ht' h => ?_, fun h => ?_⟩, fun dma ht => ⟨fun r h => ?_, fun h => ?_⟩⟩
    · exact cmd_answers ht (keyWrite_kept (s := u) h)
    · have e := keyWrite_unwrapped (s := u) (d := d) h
      split
      case h_1 hk => exact cmd_answers ht (e.trans (by rw [show Config.keyUnwrap u.fuses.kek _ = _ from hk]))
      case h_2 k hk => exact cmd_answers ht (e.trans (by rw [show Config.keyUnwrap u.fuses.kek _ = _ from hk]; rfl))
    · exact cmd_answers ht (lcAdvance_acts (s := u) (advanceBad_none (s := u) ht' h))
    · exact cmd_answers ht (lcAdvance_bad (s := u) (advanceBad_old (s := u) ht' h))
    · exact cmd_answers ht (lcAdvance_bad (s := u) (advanceBad_other (s := u) h))
    · exact cmd_answers ht (lcReturn_failed (s := u) h)
    · have e := lcReturn_read (s := u) (d := d) h
      split
      case isTrue hk => exact cmd_answers ht (e.trans (if_pos hk))
      case isFalse hk => exact cmd_answers ht (e.trans (if_neg hk))
  · exact ⟨fun h => congrArg Host.Outcome.next (tamper_wipes hm h), fun d hb h => congrArg Host.Outcome.next (tamper_completes hm hb h)⟩

end Sys2Proof.Machine
end

section
/-! The trace of the Grooms (R485 to R497). -/
namespace Sys2Proof.Machine

variable {s : State} {g : Nat}

/-! ### The trace unit of a Groom -/

@[simp] theorem tracer_setTracer_same (s : State) (g : Nat) (v : Tracer) : (s.setTracer g v).tracer g = v := Tab.get_set_same _ _ _ _

theorem setTracer_twice (s : State) (g : Nat) (v w : Tracer) : (s.setTracer g v).setTracer g w = s.setTracer g w := by
  unfold State.setTracer
  simp only [Tab.set_set]

theorem onTracer_setTracer (s : State) (g : Nat) (v : Tracer) (f : Tracer → Tracer) :
    (s.setTracer g v).onTracer g f = s.setTracer g (f v) := by
  unfold State.onTracer
  rw [tracer_setTracer_same, setTracer_twice]

/-- The Groom is traced and awake. -/
def State.busy (s : State) (g : Nat) : Prop := s.traced g = true ∧ (s.tracer g).asleep = false

theorem busy_iff : s.busy g ↔ (s.traced g && !(s.tracer g).asleep) = true := by simp [State.busy]

/-- The state in which `cy` cycles of the Groom have passed. -/
def State.groomAt (s : State) (g cy : Nat) : State := s.setTracer g { s.tracer g with now := (s.tracer g).now + cy }

theorem groomEvent_busy {cy : Nat} {f : State → State} (h : s.busy g) : s.groomEvent g cy f = f (s.groomAt g cy) :=
  if_pos (busy_iff.mp h)

theorem groomEvent_none {cy : Nat} {f : State → State} (h : ¬ s.busy g) : s.groomEvent g cy f = s :=
  if_neg (fun e => h (busy_iff.mpr e))

/-! ### Events of a Groom -/

section branch
variable {taken : Bool} {cy : Nat} {next : Word}

/-- The state with the atom of a conditional branch. -/
def State.withAtom (s : State) (g : Nat) (taken : Bool) (cy : Nat) : State :=
  s.setTracer g { s.tracer g with
    now := (s.tracer g).now + cy, atoms := (s.tracer g).atoms ++ [taken], last := (s.tracer g).now + cy, lastAt := s.tb.now }

theorem condBranch_busy (h : s.busy g) : s.condBranch g taken cy next =
    if (s.tracer g).atoms.length = 7 then ((s.withAtom g taken cy).flushAtoms g).periodic g next else s.withAtom g taken cy := by
  have e : (s.groomAt g cy).onTracer g
      (fun r => { r with atoms := r.atoms ++ [taken], last := r.now, lastAt := (s.groomAt g cy).tb.now }) = s.withAtom g taken cy :=
    onTracer_setTracer s g _ _
  have hl : ((s.withAtom g taken cy).tracer g).atoms.length = (s.tracer g).atoms.length + 1 := by
    rw [State.withAtom, tracer_setTracer_same]
    exact List.length_append
  unfold State.condBranch
  rw [groomEvent_busy h]
  dsimp only
  rw [e, hl]
  by_cases h7 : (s.tracer g).atoms.length = 7
  · rw [if_pos h7, if_pos (by omega)]
  · rw [if_neg h7, if_neg (by omega)]

end branch

/-! ### Sleep, wake and drops -/

theorem wakeUp_awake (a : Word) (h : (s.tracer g).asleep = false) : s.wakeUp g a = s := if_neg (Bool.eq_false_iff.mp h)

theorem wakeUp_traced (a : Word) (h : (s.tracer g).asleep = true) (ht : s.traced g = true) :
    s.wakeUp g a = (s.setTracer g { s.tracer g with asleep := false }).fullSync g 3 a :=
  (if_pos h).trans (if_pos ht)

theorem wakeUp_untraced (a : Word) (h : (s.tracer g).asleep = true) (ht : s.traced g = false) :
    s.wakeUp g a = s.setTracer g { s.tracer g with asleep := false } :=
  (if_pos h).trans (if_neg (Bool.eq_false_iff.mp ht))

/-- R493: a dropping Groom may resume. -/
def State.mayResume (s : State) (g : Nat) : Prop :=
  (s.tracer g).dropping = true ∧ s.busy g ∧ s.trace.stopped = false ∧ resumeAt (s.trcPri g) ≤ s.trcFree

theorem mayResume_iff : s.mayResume g ↔ ((s.tracer g).dropping && s.traced g && !(s.tracer g).asleep && !s.trace.stopped
    && decide (resumeAt (s.trcPri g) ≤ s.trcFree)) = true := by
  simp [State.mayResume, State.busy, and_assoc]

theorem trcResume_resumes (next : Word) (h : s.mayResume g) : s.trcResume g next =
    ((s.setTracer g { s.tracer g with dropping := false, dropped := 0 }).dropSync g (s.tracer g).dropped 1 next).set1
      Reg.GRM_TRC_STAT_DROPPED :=
  if_pos (mayResume_iff.mp h)

theorem trcResume_waits (next : Word) (h : ¬ s.mayResume g) : s.trcResume g next = s := if_neg (fun e => h (mayResume_iff.mpr e))

theorem periodic_eq (next : Word) : s.periodic g next =
    if 4096 ≤ (s.tracer g).since ∧ (s.tracer g).dropping = false then s.fullSync g 0 next else s := by
  simp [State.periodic]

/-! ### The sink -/

theorem drainBlock_empty (o : Nat) (w : Bool) (n : Nat) (h : s.trace.fifo = []) : s.drainBlock o w n = s := by
  cases n with
  | zero => rfl
  | succ n => exact if_pos (by rw [h]; rfl)

section flush
variable {aged : Bool}

/-- The state in which packets have left the FIFO until a block was written. -/
def State.drained (s : State) : State := s.drainBlock (s.get Reg.GRM_TRC_WPTR_OFFSET) (s.on Reg.GRM_TRC_STAT_WRAPPED) 8192

/-- No block has been written on the way from `s` to `x`. -/
def State.noBlock (s x : State) : Prop :=
  x.get Reg.GRM_TRC_WPTR_OFFSET = s.get Reg.GRM_TRC_WPTR_OFFSET ∧ x.on Reg.GRM_TRC_STAT_WRAPPED = s.on Reg.GRM_TRC_STAT_WRAPPED

theorem blockFlush_noSink (h : s.get Reg.GRM_TRC_CTL_SINK = 0 ∨ s.get Reg.GRM_TRC_CTL_SINK = 3) : s.blockFlush g aged = s := if_pos h

variable (h : s.get Reg.GRM_TRC_CTL_SINK = 1 ∨ s.get Reg.GRM_TRC_CTL_SINK = 2)
include h

theorem blockFlush_aged (hn : s.noBlock s.drained) (ha : aged = true) : s.blockFlush g aged = (s.drained.writeBlock g).trcStat :=
  (if_neg (by omega)).trans (congrArg State.trcStat (if_pos ⟨hn.1, hn.2, ha⟩))

theorem blockFlush_drained (hn : ¬ (s.noBlock s.drained ∧ aged = true)) : s.blockFlush g aged = s.drained.trcStat :=
  (if_neg (by omega)).trans (congrArg State.trcStat (if_neg (fun e => hn ⟨⟨e.1, e.2.1⟩, e.2.2⟩)))

end flush

theorem blockFlush_empty (h : s.get Reg.GRM_TRC_CTL_SINK = 2) (hf : s.trace.fifo = []) :
    s.blockFlush g true = (s.writeBlock g).trcStat := by
  have e : s.drained = s := drainBlock_empty _ _ _ hf
  have := blockFlush_aged (g := g) (.inr h) (by rw [e]; exact ⟨rfl, rfl⟩) (rfl : true = true)
  rwa [e] at this

section emit
variable {bs : List Byte}

theorem emit_stopped (h : s.trace.stopped = true) : s.emit g bs = s := if_pos h

theorem emit_full (h : s.trace.stopped = false)
    (hf : (s.tracer g).dropping = true ∨ s.trcFree < dropBelow (s.trcPri g) bs.length) :
    s.emit g bs = s.setTracer g { s.tracer g with dropping := true, dropped := (s.tracer g).dropped + bs.length } :=
  (if_neg (Bool.eq_false_iff.mp h)).trans (if_pos (by simpa using hf))

theorem emit_enters (h : s.trace.stopped = false)
    (hf : ¬ ((s.tracer g).dropping = true ∨ s.trcFree < dropBelow (s.trcPri g) bs.length)) :
    let s1 := s.setTracer g { s.tracer g with since := if bs.head? = some 0x08 then 0 else (s.tracer g).since + bs.length }
    let s2 : State := { s1 with trace := { s1.trace with fifo := s1.trace.fifo ++ [(g, bs)] } }
    s.emit g bs = (if s2.get Reg.GRM_TRC_CTL_SINK = 1 then s2.drain 8192 else s2).trcStat :=
  (if_neg (Bool.eq_false_iff.mp h)).trans (if_neg (by simpa using hf))

end emit

/-! ### Configuration -/

section ctl
variable {v : Word} {next : List Word}

/-- A write of GRM_TRC_CTL asks for another SINK, CYC_EN or WRAP. -/
def State.sinkOther (s : State) (v : Word) : Prop :=
  bits v.toNat 1 0 ≠ s.get Reg.GRM_TRC_CTL_SINK ∨ bits v.toNat 16 16 ≠ s.get Reg.GRM_TRC_CTL_CYC_EN
    ∨ bits v.toNat 17 17 ≠ s.get Reg.GRM_TRC_CTL_WRAP

theorem sinkOther_iff : s.sinkOther v ↔ (bits v.toNat 1 0 != s.get Reg.GRM_TRC_CTL_SINK
    || bits v.toNat 16 16 != s.get Reg.GRM_TRC_CTL_CYC_EN || bits v.toNat 17 17 != s.get Reg.GRM_TRC_CTL_WRAP) = true := by
  simp [State.sinkOther, or_assoc]

theorem trcCtl_off (h : s.get Reg.GRM_TRC_CTL_GEN = 0) : s.trcCtl v next =
    (((s.put Reg.GRM_TRC_CTL_PRI (bits v.toNat 15 8)).sinkNew (bits v.toNat 1 0) (bits v.toNat 17 17) (bits v.toNat 16 16)).genWrite
      (bits v.toNat 7 4) next) :=
  congrArg (fun x : State => x.genWrite (bits v.toNat 7 4) next) (if_pos h)

theorem trcCtl_locked (h : s.get Reg.GRM_TRC_CTL_GEN ≠ 0) (ho : s.sinkOther v) : s.trcCtl v next =
    (((s.put Reg.GRM_TRC_CTL_PRI (bits v.toNat 15 8)).set1 Reg.GRM_TRC_STAT_CFG_LOCKED).genWrite (bits v.toNat 7 4) next) :=
  congrArg (fun x : State => x.genWrite (bits v.toNat 7 4) next) ((if_neg h).trans (if_pos (sinkOther_iff.mp ho)))

theorem trcCtl_same (h : s.get Reg.GRM_TRC_CTL_GEN ≠ 0) (ho : ¬ s.sinkOther v) : s.trcCtl v next =
    ((s.put Reg.GRM_TRC_CTL_PRI (bits v.toNat 15 8)).genWrite (bits v.toNat 7 4) next) :=
  congrArg (fun x : State => x.genWrite (bits v.toNat 7 4) next)
    ((if_neg h).trans (if_neg (fun e => ho (sinkOther_iff.mpr e))))

end ctl

/-! ### The obligation -/

/-- Settles O53: the events of a traced, awake Groom by their packets, the sink by what it holds. -/
theorem groomTraceIsWritten : Obligations.GroomTraceIsWritten := by
  refine ⟨fun g s => ?_, fun s v next => ?_⟩
  · intro r busy at_
    refine ⟨fun taken cy next hb => ?_, fun cy a h cause hb => ⟨?_, ?_, ?_⟩, fun taken cy next a h cause hb => ⟨?_, ?_, ?_, ?_⟩,
      fun _ => rfl, fun next => periodic_eq next, fun a => ⟨?_, ?_, ?_⟩, fun next => ⟨?_, ?_⟩, fun aged => ⟨?_, ?_, ?_⟩, ?_, fun bs => ?_⟩
    · exact ⟨fun h => congrArg Host.Outcome.next ((condBranch_busy hb).trans (if_neg h)),
        fun h => congrArg Host.Outcome.next ((condBranch_busy hb).trans (if_pos h))⟩
    · exact congrArg Host.Outcome.next (groomEvent_busy (f := fun s => (s.counted g (pktAddr a 1)).periodic g a) hb)
    · exact congrArg Host.Outcome.next (groomEvent_busy (f := fun s => (s.counted g (pktExc a h cause)).periodic g h) hb)
    · exact congrArg Host.Outcome.next (congrArg (fun x : State => x.onTracer g (fun r => { r with asleep := true, lost := true }))
        (groomEvent_busy (f := fun s => s.counted g [0x3B]) hb))
    · exact congrArg Host.Outcome.next (groomEvent_none hb)
    · exact congrArg Host.Outcome.next (groomEvent_none hb)
    · exact congrArg Host.Outcome.next (groomEvent_none hb)
    · exact congrArg Host.Outcome.next (congrArg (fun x : State => x.onTracer g (fun r => { r with asleep := true, lost := true }))
        (groomEvent_none hb))
    · exact fun h => congrArg Host.Outcome.next (wakeUp_awake a h)
    · exact fun h ht => congrArg Host.Outcome.next (wakeUp_traced a h ht)
    · exact fun h ht => congrArg Host.Outcome.next (wakeUp_untraced a h ht)
    · exact fun h => congrArg Host.Outcome.next (trcResume_resumes next h)
    · exact fun h => congrArg Host.Outcome.next (trcResume_waits next h)
    · exact fun h => congrArg Host.Outcome.next (blockFlush_noSink h)
    · exact fun h hn ha => congrArg Host.Outcome.next (blockFlush_aged h hn ha)
    · exact fun h hn => congrArg Host.Outcome.next (blockFlush_drained h hn)
    · exact fun h hf => congrArg Host.Outcome.next (blockFlush_empty h hf)
    · exact ⟨emit_stopped, emit_full, emit_enters⟩
  · exact ⟨fun h => congrArg Host.Outcome.next (trcCtl_off h), fun h ho => congrArg Host.Outcome.next (trcCtl_locked h ho),
      fun h ho => congrArg Host.Outcome.next (trcCtl_same h ho), fun _ => rfl⟩

end Sys2Proof.Machine
end

section
/-! Stopped clocks, one-sided resets and the power switches of Teams (R448 to R456). -/
namespace Sys2Proof.Machine

variable {s : State} {cls idx t : Nat} {dead : ClockDomain}

/-! ### Stopped clocks -/

theorem isolateDead_cdcInfo : (s.isolateDead t).cdcInfo = s.cdcInfo := by
  have h : (s.isolateDead t).rd Adr.CHIP_CDC_LOC = s.rd Adr.CHIP_CDC_LOC := by
    unfold State.isolateDead
    rw [State.postEvent_rd _ _ _ (by decide) (by decide), State.groomRec_rd _ _ _ _ _ (by decide)]
    refine (State.rd_put_other _ _ ?_).trans (State.rd_put_other _ _ ?_)
    · show 0x4C ≠ 0x400204 + 0x400 * t
      omega
    · show 0x4C ≠ 0x400200 + 0x400 * t
      omega
  unfold State.cdcInfo
  rw [State.get_eq_of_rd (f := Reg.CHIP_CDC_LOC_INDEX) h, State.get_eq_of_rd (f := Reg.CHIP_CDC_LOC_CLASS) h]

theorem heartbeat_off (late : Bool) (h : s.monitored cls idx dead = false) : s.heartbeat cls idx dead late = s :=
  if_pos (by rw [h]; rfl)

theorem heartbeat_late (h : s.monitored cls idx dead = true) :
    s.heartbeat cls idx dead true = (s.set1 Reg.CHIP_CDC_STAT_LATE).cdcLoc 2 cls idx 2 :=
  (if_neg (by rw [h]; decide)).trans (if_pos rfl)

/-- A dead clock that leads to QUARANTINE. -/
def deadIsFatal : ClockDomain → Bool
  | .team _ | .scheduler => true
  | _ => false

/-- The state after a missing heartbeat, before what follows for the stopped block. -/
def State.clockLost (s : State) (cls idx : Nat) (dead : ClockDomain) : State :=
  (((s.set1 Reg.CHIP_CDC_STAT_STOPPED).cdcLoc 0 cls idx (if deadIsFatal dead then 6 else 2)).discard cls idx).clockStops dead

theorem heartbeat_stops (h : s.monitored cls idx dead = true) :
    s.heartbeat cls idx dead false = (s.clockLost cls idx dead).stopOutcome dead := by
  refine (if_neg (by rw [h]; decide)).trans ((if_neg Bool.false_ne_true).trans ?_)
  cases dead <;> rfl

theorem stopOutcome_team (t : Fin 1024) :
    s.stopOutcome (.team t) = (s.isolateDead t).enterQuarantine qIslandStop (s.isolateDead t).cdcInfo := by
  rw [isolateDead_cdcInfo]
  rfl

/-- The monitor toward an isolated Team is off. -/
theorem monitored_isolated {t : Fin 1024} (h : s.on (Reg.RTR_CTL_ISOLATE t) = true) : s.monitored cls idx (.team t) = false := by
  unfold State.monitored
  simp [h]

/-! ### One-sided resets -/

theorem discard_regs : (s.discard cls idx).regs = s.regs := by
  unfold State.discard
  repeat' split
  all_goals rfl

/-- R450: the state in which a one-sided reset has been seen, before the crossing waits to re-arm. -/
def State.peerSeen (s : State) (cls idx : Nat) : State :=
  let a := ((s.set1 Reg.CHIP_CDC_STAT_PEER_RESET).sat Reg.CHIP_CDC_STAT_PEER_RESETS 1).discard cls idx
  a.groomRec 0 2 0x42 (argOf (a.get Reg.CHIP_CDC_LOC_KIND + 256 * cls) idx)

theorem peerSeen_rd : (s.peerSeen cls idx).rd Adr.CHIP_CDC_STAT
    = ((s.set1 Reg.CHIP_CDC_STAT_PEER_RESET).sat Reg.CHIP_CDC_STAT_PEER_RESETS 1).rd Adr.CHIP_CDC_STAT :=
  (State.groomRec_rd _ _ _ _ _ (by decide)).trans (rd_of_regs discard_regs _)

theorem peerSeen_sign : (s.peerSeen cls idx).on Reg.CHIP_CDC_STAT_PEER_RESET = true := by
  have h : (s.peerSeen cls idx).get Reg.CHIP_CDC_STAT_PEER_RESET = (s.set1 Reg.CHIP_CDC_STAT_PEER_RESET).get Reg.CHIP_CDC_STAT_PEER_RESET :=
    (State.get_eq_of_rd peerSeen_rd).trans (State.get_put_other _ _ (Fld.ok_of _ rfl) (.inr (.inr (by decide))))
  exact (congrArg (· != 0) h).trans (State.on_set1_same s (Fld.ok_of _ rfl))

theorem peerSeen_count : (s.peerSeen cls idx).get Reg.CHIP_CDC_STAT_PEER_RESETS
    = satAdd (Reg.CHIP_CDC_STAT_PEER_RESETS.hi + 1 - Reg.CHIP_CDC_STAT_PEER_RESETS.lo) (s.get Reg.CHIP_CDC_STAT_PEER_RESETS) 1 := by
  have hsame : (s.set1 Reg.CHIP_CDC_STAT_PEER_RESET).get Reg.CHIP_CDC_STAT_PEER_RESETS = s.get Reg.CHIP_CDC_STAT_PEER_RESETS :=
    State.get_put_other _ _ (Fld.ok_of _ rfl) (.inr (.inl (by decide)))
  refine (State.get_eq_of_rd peerSeen_rd).trans ((State.get_put_same _ _ (Fld.ok_of _ rfl)).trans ?_)
  rw [hsame]
  exact Nat.mod_eq_of_lt (Nat.lt_of_le_of_lt (Nat.min_le_right _ _) (by decide))

/-- The crossing `k` waits to re-arm. -/
def State.waitRearm (s : State) (k : Nat) : State :=
  if s.chip.disarmed.contains k then s else { s with chip := { s.chip with disarmed := s.chip.disarmed ++ [k] } }

theorem peerReset_eq : s.peerReset cls idx = (s.peerSeen cls idx).waitRearm (2 ^ 16 * cls + idx) := rfl

theorem waitRearm_regs (k : Nat) : (s.waitRearm k).regs = s.regs := by
  unfold State.waitRearm; split <;> rfl

theorem waitRearm_armed : (s.waitRearm (2 ^ 16 * cls + idx)).armed cls idx = false := by
  unfold State.waitRearm State.armed
  split
  case isTrue h => rw [h]; rfl
  case isFalse => simp

/-! ### The switch of a Team -/

/-- The Team's switch moves. -/
def State.switchMoves (s : State) (t : Nat) (en : Bool) : State :=
  ((s.put (Reg.TEAM_PWR_EN t) (ofBool en)).put (Reg.TEAM_PWR_STATE t) 2).onTeam t (fun m => { m with switching := true })

section switch
variable {en : Bool}

theorem teamEn_same (h : en = s.on (Reg.TEAM_PWR_EN t)) : s.teamEn t en = s := if_pos h

theorem teamEn_closes (h : s.on (Reg.TEAM_PWR_EN t) = false) : s.teamEn t true = s.switchMoves t true :=
  (if_neg (by rw [h]; decide)).trans (if_neg (by simp))

theorem teamEn_opens (h : s.on (Reg.TEAM_PWR_EN t) = true) (hi : s.on (Reg.RTR_CTL_ISOLATE t) = true) :
    s.teamEn t false = s.switchMoves t false :=
  (if_neg (by rw [h]; decide)).trans (if_neg (by rw [hi]; decide))

theorem teamEn_refused (h : s.on (Reg.TEAM_PWR_EN t) = true) (hi : s.on (Reg.RTR_CTL_ISOLATE t) = false) :
    s.teamEn t false = s.set1 (Reg.TEAM_PWR_PWR_REFUSED t) :=
  (if_neg (by rw [h]; decide)).trans (if_pos (by rw [hi]; rfl))

end switch

theorem switchDone_none (h : (s.team t).switching = false) : s.switchDone t = s := if_neg (Bool.eq_false_iff.mp h)

theorem switchDone_on (h : (s.team t).switching = true) (he : s.on (Reg.TEAM_PWR_EN t) = true) :
    s.switchDone t = (s.freshTeam t).put (Reg.TEAM_PWR_STATE t) 1 := (if_pos h).trans (if_pos he)

theorem switchDone_off (h : (s.team t).switching = true) (he : s.on (Reg.TEAM_PWR_EN t) = false) :
    s.switchDone t = (((s.dropDma t).resetTeamRegs t).setTeam t Team.reset).put (Reg.TEAM_PWR_STATE t) 0 :=
  (if_pos h).trans (if_neg (Bool.eq_false_iff.mp he))

/-! ### The obligation -/

/-- Settles O55: a missing heartbeat by the block whose clock stopped, a reset of one side by what it leaves, and the switch by the
cases of its write. -/
theorem crossingsAndTeamPower : Obligations.CrossingsAndTeamPower := by
  refine ⟨fun s cls idx dead => ?_, fun s cls idx t h late => ?_, fun s _ => ⟨⟨rfl, rfl, rfl⟩, fun _ => rfl⟩, fun s cls idx => ?_,
    fun s t v h => ?_, fun s t ht => ?_⟩
  · intro fatal x
    refine ⟨fun h late => congrArg Host.Outcome.next (heartbeat_off late h), fun h => congrArg Host.Outcome.next (heartbeat_late h),
      fun h => ?_, rfl⟩
    refine congrArg Host.Outcome.next ((heartbeat_stops h).trans ?_)
    cases dead with
    | team t => exact stopOutcome_team t
    | _ => rfl
  · exact congrArg Host.Outcome.next (heartbeat_off late (monitored_isolated h))
  · intro a b k
    refine ⟨rfl, ⟨s.peerReset cls idx.toNat, rfl, ?_, ?_, ?_⟩, rfl⟩
    · rw [peerReset_eq, on_of_regs (waitRearm_regs _)]
      exact peerSeen_sign
    · rw [peerReset_eq]
      exact waitRearm_armed
    · rw [peerReset_eq, get_of_regs (waitRearm_regs _)]
      exact peerSeen_count
  · exact ⟨onMapped_off (Nat.not_lt.mpr h) _, onMapped_off (Nat.not_lt.mpr h) _⟩
  · intro moves
    refine ⟨fun v => ?_, fun h he => ?_, fun h he => ?_, fun h => ?_⟩
    · intro en x was iso
      have hrun : exec (.teamPwrWrite t v) s = .next (x.teamEn t en) := onMapped_on ht (State.teamPwr t v)
      refine ⟨fun h => ?_, fun h hw => ?_, fun h hw hi => ?_, fun h hw hi => ?_⟩
      · exact hrun.trans (congrArg Host.Outcome.next (teamEn_same h))
      · rw [hrun, h]
        exact congrArg Host.Outcome.next (teamEn_closes hw)
      · rw [hrun, h]
        exact congrArg Host.Outcome.next (teamEn_opens hw hi)
      · rw [hrun, h]
        exact congrArg Host.Outcome.next (teamEn_refused hw hi)
    · exact (onMapped_on ht (State.switchDone t)).trans (congrArg Host.Outcome.next (switchDone_on h he))
    · exact (onMapped_on ht (State.switchDone t)).trans (congrArg Host.Outcome.next (switchDone_off h he))
    · exact (onMapped_on ht (State.switchDone t)).trans (congrArg Host.Outcome.next (switchDone_none h))

end Sys2Proof.Machine
end

section
/-! The SMBus target and the test access port (R473, R479, R481, R482, R536). -/
namespace Sys2Proof.Machine

variable {s : State}

/-! ### The SMBus target -/

/-- A command of the SMBus target. -/
theorem smbusOn_true (hv : s.chip.vddAon = true) (ha : s.sb.smbAddr.isSome = true) : s.smbusOn = true := by
  simp [State.smbusOn, hv, ha]

theorem smbusOn_false (h : s.chip.vddAon = false ∨ s.sb.smbAddr = none) : s.smbusOn = false := by
  rcases h with h | h <;> simp [State.smbusOn, h]

section served
variable {x : State} (h : s.smbusOn = true)
include h

/-- The target answers a command that carries no PEC of its own. -/
theorem served_plain : (.next (if s.smbusOn then x else s) : Out) = .next x := congrArg Host.Outcome.next (if_pos h)

theorem served_pec : (.next (if s.smbusOn && true then x else s) : Out) = .next x := congrArg Host.Outcome.next (if_pos (by rw [h]; rfl))

theorem served_key {v k : Byte} (hk : v = k) : (.next (if s.smbusOn && true && v == k then x else s) : Out) = .next x :=
  congrArg Host.Outcome.next (if_pos (by simp [h, hk]))

end served

/-- A wrong PEC: nothing is done. -/
theorem unserved_pec {x : State} : (.next (if s.smbusOn && false then x else s) : Out) = .next s :=
  congrArg Host.Outcome.next (if_neg (by simp))

/-- A wrong PEC, or another value than the one that the command asks for: nothing is done. -/
theorem unserved_key {x : State} {pec : Bool} {v k : Byte} (h : pec = false ∨ v ≠ k) :
    (.next (if s.smbusOn && pec && v == k then x else s) : Out) = .next s :=
  congrArg Host.Outcome.next (if_neg (by rcases h with h | h <;> simp [h]))

section silent
variable {x : State} (h : s.smbusOn = false)
include h

theorem silent_plain : (.next (if s.smbusOn then x else s) : Out) = .next s :=
  congrArg Host.Outcome.next (if_neg (Bool.eq_false_iff.mp h))

theorem silent_pec {pec : Bool} : (.next (if s.smbusOn && pec then x else s) : Out) = .next s :=
  congrArg Host.Outcome.next (if_neg (by simp [h]))

theorem silent_key {pec : Bool} {v k : Byte} : (.next (if s.smbusOn && pec && v == k then x else s) : Out) = .next s :=
  congrArg Host.Outcome.next (if_neg (by simp [h]))

end silent

/-- The state with a Saddlebag `b` that waits to write UNFROZEN. -/
def State.unfreezing (s : State) (b : Saddle) (n : Nat) : State := { s with sb := { b with unfrozen := some n } }

/-- R479: the release of the freeze, with the records lost so far. -/
theorem release479_eq : s.release479 = if s.on Reg.SB_STAT_FROZEN then
    { (s.clr Reg.SB_STAT_FROZEN).clr Reg.SB_FREEZE_VALID with sb := { s.sb with unfrozen := some (s.get Reg.SB_DROP_DROPPED) } } else s := by
  have h : ((s.clr Reg.SB_STAT_FROZEN).clr Reg.SB_FREEZE_VALID).sb = s.sb := by rw [State.clr_sb, State.clr_sb]
  exact congrArg (fun b => if s.on Reg.SB_STAT_FROZEN
    then ((s.clr Reg.SB_STAT_FROZEN).clr Reg.SB_FREEZE_VALID).unfreezing b (s.get Reg.SB_DROP_DROPPED) else s) h

/-- R481: the board controller's warm reset is not taken. -/
def State.warmBarred (s : State) : Prop :=
  s.chip.halted = true ∨ (s.chip.coldBoot = true ∧ s.on Reg.CHIP_MODE_BOOT_DONE = false) ∨ s.on Reg.CHIP_BOOT_FAILED = true
    ∨ s.chip.inReset = true

theorem warmBarred_iff : s.warmBarred ↔ (s.chip.halted || (s.chip.coldBoot && !s.on Reg.CHIP_MODE_BOOT_DONE)
    || s.on Reg.CHIP_BOOT_FAILED || s.chip.inReset) = true := by
  simp [State.warmBarred, or_assoc]

theorem askWarm_taken (h : ¬ s.warmBarred) : s.askWarm = { s with chip := { s.chip with warmReq := 4 } } :=
  if_neg (fun e => h (warmBarred_iff.mpr e))

theorem askWarm_barred (h : s.warmBarred) : s.askWarm = s := if_pos (warmBarred_iff.mp h)

/-! ### The test access port -/

theorem sbacc_on {x : State} (h : s.chip.vddAon = true) : (.next (if s.chip.vddAon then x else s) : Out) = .next x :=
  congrArg Host.Outcome.next (if_pos h)

theorem sbacc_off {x : State} (h : s.chip.vddAon = false) : (.next (if s.chip.vddAon then x else s) : Out) = .next s :=
  congrArg Host.Outcome.next (if_neg (Bool.eq_false_iff.mp h))

theorem jtagOf_eq (lc code : Nat) : jtagOf lc code =
    if code = 0 ∨ code = 1 ∨ code = 0x20 then code
    else if lc ≠ 2 ∧ (code ≤ 4 ∨ (0x40 ≤ code ∧ code ≤ 0x7F)) then code else 0xFF := by
  unfold jtagOf
  by_cases hc : code = 0 ∨ code = 1 ∨ code = 0x20
  · rw [if_pos hc, if_pos hc]
  · rw [if_neg hc, if_neg hc]
    by_cases hl : lc = 2 <;> simp [hl]

/-- Outside DEPLOYED the instructions 0 to 4 are open. -/
theorem jtagOf_open {lc code : Nat} (hl : lc ≠ 2) (hc : code ≤ 4) : jtagOf lc code = code := by
  rw [jtagOf_eq]
  split
  · rfl
  · exact if_pos ⟨hl, .inl hc⟩

/-- The code that is loaded; IDCODE where none is given. -/
def jtagCode (code : Option Byte) : Nat := match code with | some c => c.toNat | none => 2

/-- R536: the state with the instruction `i`, before the pins follow. -/
def State.jtagWith (s : State) (i : Nat) : State :=
  { s with chip := { s.chip with
    jtagIr := i, jtagDr := if i = 2 then BitVec.ofNat 144 s.idcode else if i = 1 then s.chip.jtagDr else 0 } }

section load
variable {code : Option Byte} {i : Nat} (hc : jtagOf s.fuses.lifecycle (jtagCode code) = i)
include hc

theorem jtagLoad_eq : s.jtagLoad code = if i = 0 ∨ i = 3 ∨ i = 4 then
      (if s.mode = mIdle ∨ s.mode = mQuarantine then { s.jtagWith i with ht := { s.ht with extest := true } }
        else (s.jtagWith i).set1 Reg.HT_STAT_EXTEST_REFUSED)
    else { s.jtagWith i with ht := { s.ht with extest := false } } := by
  subst hc
  rfl

theorem jtagLoad_other (h0 : i ≠ 0) (h3 : i ≠ 3) (h4 : i ≠ 4) :
    s.jtagLoad code = { s.jtagWith i with ht := { s.ht with extest := false } } :=
  (jtagLoad_eq hc).trans (if_neg (by omega))

theorem jtagLoad_scans (h : i = 0 ∨ i = 3 ∨ i = 4) (hm : s.mode = mIdle ∨ s.mode = mQuarantine) :
    s.jtagLoad code = { s.jtagWith i with ht := { s.ht with extest := true } } :=
  (jtagLoad_eq hc).trans ((if_pos h).trans (if_pos hm))

theorem jtagLoad_refused (h : i = 0 ∨ i = 3 ∨ i = 4) (hm : ¬ (s.mode = mIdle ∨ s.mode = mQuarantine)) :
    s.jtagLoad code = (s.jtagWith i).set1 Reg.HT_STAT_EXTEST_REFUSED :=
  (jtagLoad_eq hc).trans ((if_pos h).trans (if_neg hm))

end load

/-! ### The obligation -/

/-- Settles O58: each command of the target and each instruction by its conditions. -/
theorem boardAndTestAccess : Obligations.BoardAndTestAccess := by
  refine ⟨fun s hv ha => ?_, fun s v w pec h => ?_, fun s => ?_⟩
  · have hon := smbusOn_true hv ha
    refine ⟨served_plain hon, fun v => served_pec hon, served_plain hon, served_plain hon, fun v => served_pec hon, ?_,
      ⟨fun h => ?_, fun h => ?_⟩, served_plain hon, fun v w => ⟨unserved_pec, unserved_pec, unserved_key (.inl rfl), unserved_key (.inl rfl)⟩,
      fun v hne => unserved_key (.inr hne), fun v hne => unserved_key (.inr hne)⟩
    · exact (served_key hon rfl).trans (congrArg Host.Outcome.next release479_eq)
    · exact (served_key hon rfl).trans (congrArg Host.Outcome.next (askWarm_taken h))
    · exact (served_key hon rfl).trans (congrArg Host.Outcome.next (askWarm_barred h))
  · have hoff := smbusOn_false h
    exact ⟨silent_plain hoff, silent_pec hoff, silent_plain hoff, silent_plain hoff, silent_pec hoff, silent_key hoff, silent_key hoff,
      silent_plain hoff⟩
  · refine ⟨fun h => congrArg Host.Outcome.next (if_pos h), fun h => congrArg Host.Outcome.next (if_neg (Bool.eq_false_iff.mp h)),
      fun h a v code => ⟨sbacc_off h, sbacc_off h, sbacc_off h, sbacc_off h⟩, fun h => ⟨fun a => sbacc_on h, sbacc_on h, fun v => sbacc_on h,
        fun code => ?_, fun hl => ?_, fun hl hm => ?_⟩,
      fun lc code _ => jtagOf_eq lc code⟩
    · intro i x
      exact ⟨fun h0 h3 h4 => (sbacc_on h).trans (congrArg Host.Outcome.next (jtagLoad_other rfl h0 h3 h4)),
        fun hi => ⟨fun hm => (sbacc_on h).trans (congrArg Host.Outcome.next (jtagLoad_scans rfl hi hm)),
          fun hm hm' => (sbacc_on h).trans (congrArg Host.Outcome.next (jtagLoad_refused rfl hi (not_or.mpr ⟨hm, hm'⟩)))⟩⟩
    · have hc : jtagOf s.fuses.lifecycle (jtagCode none) = 2 := jtagOf_open hl (by decide)
      exact (sbacc_on h).trans (congrArg Host.Outcome.next (jtagLoad_other hc (by decide) (by decide) (by decide)))
    · have hc : jtagOf s.fuses.lifecycle (jtagCode (some 3)) = 3 := jtagOf_open hl (by decide)
      exact (sbacc_on h).trans (congrArg Host.Outcome.next (jtagLoad_scans hc (by decide) (.inl hm)))

end Sys2Proof.Machine
end

section
/-! A dynamic packet at its destination (R142, R147, R150, R153, R155, R246, R517). -/
namespace Sys2Proof.Machine

variable {s : State} {t : Nat} {p : Packet}

/-! ### The kinds of packets -/

theorem isReq_type (h : isReq p = true) : pTYPE p = 0 ∨ pTYPE p = 1 := by simpa [isReq] using h

theorem isReq_not {k : Nat} (h : pTYPE p = k) (hk : 2 ≤ k) : isReq p = false :=
  Bool.eq_false_iff.mpr fun e => by have := isReq_type e; omega

theorem isCpl_not_isReq (h : isCpl p = true) : isReq p = false := by
  have h' : (pTYPE p = 2 ∨ pTYPE p = 3) ∨ pTYPE p = 4 := by simpa [isCpl] using h
  exact Bool.eq_false_iff.mpr fun e => by have := isReq_type e; omega

/-! ### The Team and the router -/

section team
variable (h : isReq p = true)
include h

theorem teamPacket_req : s.teamPacket t p = s.teamRequest t p := if_pos h

theorem teamPacket_memory (hn : pAddr p % 0x8000 + pCount p ≤ 0x8000) (hw : pAddr p < 0x18000) :
    s.teamPacket t p = s.onTeam t (fun m => { m with dma := m.dma ++
      [⟨.packet p, if pTYPE p = 0 then .read else if pAddr p < 0x8000 then .write else if pAddr p < 0x10000 then .setBits else .clearBits,
        pAddr p % 0x8000, pCount p, if pTYPE p = 0 then [] else (bodyWords p).take (pCount p), []⟩] }) :=
  (teamPacket_req h).trans (if_pos ⟨hn, hw⟩)

theorem teamPacket_window (hm : ¬ (pAddr p % 0x8000 + pCount p ≤ 0x8000 ∧ pAddr p < 0x18000))
    (hw : 0x40000 ≤ pAddr p ∧ pAddr p + pCount p ≤ 0x40100) :
    s.teamPacket t p = s.regRequest t (.groom 1) (virt t (4 * (pAddr p - 0x40000))) (fun _ => true) p :=
  (teamPacket_req h).trans ((if_neg hm).trans (if_pos hw))

theorem teamPacket_badAddress (hm : ¬ (pAddr p % 0x8000 + pCount p ≤ 0x8000 ∧ pAddr p < 0x18000))
    (hw : ¬ (0x40000 ≤ pAddr p ∧ pAddr p + pCount p ≤ 0x40100)) : s.teamPacket t p = s.wait t (errCpl t p 4) :=
  (teamPacket_req h).trans ((if_neg hm).trans (if_neg hw))

end team

theorem teamPacket_response (h : pTYPE p = 5) : s.teamPacket t p = s.onRouter t (fun r => { r with boxT := r.boxT ++ [p] }) :=
  (if_neg (Bool.eq_false_iff.mp (isReq_not h (by decide)))).trans (if_pos h)

theorem teamPacket_useless (h : isReq p = false) (h5 : pTYPE p ≠ 5) : s.teamPacket t p = s :=
  (if_neg (Bool.eq_false_iff.mp h)).trans (if_neg h5)

theorem routerRequest_useless (h : isReq p = false) : s.routerRequest t p = s := if_pos (by rw [h]; rfl)

theorem routerRequest_window (h : isReq p = true) (hw : 0x80 ≤ pAddr p ∧ pAddr p + pCount p ≤ 0x8C) :
    s.routerRequest t p = s.regRequest t (.groom 1) (virt t (4 * pAddr p)) (fun _ => true) p :=
  (if_neg (by rw [h]; decide)).trans (if_pos hw)

theorem routerRequest_badAddress (h : isReq p = true) (hw : ¬ (0x80 ≤ pAddr p ∧ pAddr p + pCount p ≤ 0x8C)) :
    s.routerRequest t p = s.wait t (errCpl t p 4) :=
  (if_neg (by rw [h]; decide)).trans (if_neg hw)

/-! ### Gateways -/

section gateway
variable {c : Nat}

theorem gwPacket_req (h : isReq p = true) : s.gwPacket t c p = s.gwAccept c t p (pAddr p) := if_pos h

theorem gwPacket_capture (h : pTYPE p = 6) : s.gwPacket t c p = s.gwAcceptBytes (pE2 p * 2 ^ 12 + pE1 p * 2 ^ 5)
    ((leBytes 3 (pE0 p) ++ p.body.flatMap (fun f => leBytes 15 f.toNat)).take 32) :=
  (if_neg (Bool.eq_false_iff.mp (isReq_not h (by decide)))).trans (if_pos h)

theorem gwPacket_probe (h : pTYPE p = 7) : s.gwPacket t c p = s.probeStore c p :=
  (if_neg (Bool.eq_false_iff.mp (isReq_not h (by decide)))).trans ((if_neg (by omega)).trans (if_pos h))

theorem gwPacket_useless (h : isReq p = false) (h6 : pTYPE p ≠ 6) (h7 : pTYPE p ≠ 7) : s.gwPacket t c p = s :=
  (if_neg (Bool.eq_false_iff.mp h)).trans ((if_neg h6).trans (if_neg h7))

end gateway

/-! ### Lead links -/

section link
variable {k : Nat}

theorem linkPacket_crosses (h : isReq p = true) (hu : s.isUp k = true) (hf : s.forwardedHere p = false) :
    s.linkPacket t k p = s.onLink k (·.push p) :=
  (if_pos h).trans (if_pos (by simp [hu, hf]))

theorem linkPacket_off (h : isReq p = true) (hu : s.isUp k = false ∨ s.forwardedHere p = true) :
    s.linkPacket t k p = s.wait t (errCpl t p 1) :=
  (if_pos h).trans (if_neg (by rcases hu with hu | hu <;> simp [hu]))

theorem linkPacket_back (h : isCpl p = true) : s.linkPacket t k p = s.forwardBack k t p :=
  (if_neg (Bool.eq_false_iff.mp (isCpl_not_isReq h))).trans (if_pos h)

theorem linkPacket_useless (h : isReq p = false) (hc : isCpl p = false) : s.linkPacket t k p = s :=
  (if_neg (Bool.eq_false_iff.mp h)).trans (if_neg (Bool.eq_false_iff.mp hc))

end link

/-! ### Management hubs -/

section hub
variable {n : Fin 4}

theorem hubPacket_completion (h : isCpl p = true) : s.hubPacket t n p = s.onRouter t (fun r => { r with boxA := r.boxA ++ [p] }) :=
  (if_neg (Bool.eq_false_iff.mp (isCpl_not_isReq h))).trans (if_pos h)

theorem hubPacket_useless (h : isReq p = false) (hc : isCpl p = false) : s.hubPacket t n p = s :=
  (if_neg (Bool.eq_false_iff.mp h)).trans (if_neg (Bool.eq_false_iff.mp hc))

variable (h : isReq p = true)
include h

theorem hubPacket_req : s.hubPacket t n p = s.hubRequest t n p := if_pos h

theorem hubPacket_registers (hk : pAddr p / 2 ^ 46 = 0) (hf : s.fromHub p = true) (hw : pAddr p < 2 ^ 22) :
    s.hubPacket t n p = s.regRequest t (.hub n) (4 * pAddr p) (agentMay (.hub n)) p :=
  (hubPacket_req h).trans ((if_pos hk).trans (if_pos ⟨hf, hw⟩))

theorem hubPacket_noRegisters (hk : pAddr p / 2 ^ 46 = 0) (hf : s.fromHub p = false ∨ 2 ^ 22 ≤ pAddr p) :
    s.hubPacket t n p = s.wait t (errCpl t p 4) := by
  refine (hubPacket_req h).trans ((if_pos hk).trans (if_neg fun e => ?_))
  rcases hf with hf | hf
  · exact absurd (hf.symm.trans e.1) (by decide)
  · exact absurd e.2 (Nat.not_lt.mpr hf)

theorem hubPacket_link (hk : pAddr p / 2 ^ 46 = 1) (hu : s.isUp (16 + n.val) = true) :
    s.hubPacket t n p = s.onLink (16 + n.val) (·.push (windowed p)) :=
  (hubPacket_req h).trans ((if_neg (by rw [hk]; decide)).trans ((if_pos hk).trans (if_pos hu)))

theorem hubPacket_noLink (hk : pAddr p / 2 ^ 46 = 1) (hu : s.isUp (16 + n.val) = false) :
    s.hubPacket t n p = s.wait t (errCpl t p 1) :=
  (hubPacket_req h).trans ((if_neg (by rw [hk]; decide)).trans ((if_pos hk).trans (if_neg (Bool.eq_false_iff.mp hu))))

theorem hubPacket_memory (hk : pAddr p / 2 ^ 46 = 2) (hw : pAddr p % 2 ^ 46 < 2 ^ 34) :
    s.hubPacket t n p = s.gwAccept (pAddr p % 2 ^ 34 / 2 ^ 30) t p (pAddr p % 2 ^ 30) :=
  (hubPacket_req h).trans ((if_neg (by rw [hk]; decide)).trans ((if_neg (by rw [hk]; decide)).trans (if_pos ⟨hk, hw⟩)))

theorem hubPacket_nowhere (hk : pAddr p / 2 ^ 46 = 2 ∧ 2 ^ 34 ≤ pAddr p % 2 ^ 46 ∨ 3 ≤ pAddr p / 2 ^ 46) :
    s.hubPacket t n p = s.wait t (errCpl t p 4) := by
  have h0 : pAddr p / 2 ^ 46 ≠ 0 := fun e => by omega
  have h1 : pAddr p / 2 ^ 46 ≠ 1 := fun e => by omega
  exact (hubPacket_req h).trans ((if_neg h0).trans ((if_neg h1).trans (if_neg fun e => by omega)))

end hub

/-! ### The attached block -/

theorem attPacket_none (h : s.attached t = none) : s.attPacket t p = if isReq p then s.wait t (errCpl t p 4) else s := by
  unfold State.attPacket; rw [h]

theorem attPacket_gateway {c : Nat} (h : s.attached t = some c) (hc : c < 16) : s.attPacket t p = s.gwPacket t c p := by
  unfold State.attPacket; rw [h]; exact if_pos hc

theorem attPacket_link {k : Nat} (h : s.attached t = some (16 + k)) (hk : k < 16) : s.attPacket t p = s.linkPacket t k p := by
  unfold State.attPacket; rw [h]
  refine (if_neg (by omega)).trans ((if_pos (by omega)).trans ?_)
  rw [Nat.add_sub_cancel_left]

theorem attPacket_hub {n : Fin 4} (h : s.attached t = some (32 + n.val)) : s.attPacket t p = s.hubPacket t n p := by
  unfold State.attPacket; rw [h]
  refine (if_neg (by omega)).trans ((if_neg (by omega)).trans ?_)
  have hn : Fin.ofNat 4 (32 + n.val - 32) = n := Fin.ext (by simp)
  rw [hn]

/-! ### Delivery -/

/-- A TYPE and a LEN that R140 gives. -/
def legalPacket (p : Packet) : Prop := pTYPE p < 8 ∧ pLEN p ≤ 4

theorem deliver_illegal (h : ¬ legalPacket p) : s.deliver t p = s.sat (Reg.RTR_ABSORB_BAD_PKT t) 1 :=
  if_pos (by unfold legalPacket at h; omega)

section legal
variable (h : legalPacket p)
include h

theorem legal_not : ¬ (8 ≤ pTYPE p ∨ 4 < pLEN p) := by unfold legalPacket at h; omega

theorem deliver_drained (hd : (s.router t).drain = true) : s.deliver t p = s.absorb t p 2 :=
  (if_neg (legal_not h)).trans (if_pos hd)

variable (hd : (s.router t).drain = false)
include hd

theorem deliver_router (ht : pTGT p = 2) : s.deliver t p = s.routerRequest t p :=
  (if_neg (legal_not h)).trans ((if_neg (Bool.eq_false_iff.mp hd)).trans (if_pos ht))

theorem deliver_attached (ht : pTGT p = 1) (hi : s.on (Reg.RTR_CTL_ISOLATE_ATT t) = false) : s.deliver t p = s.attPacket t p :=
  (if_neg (legal_not h)).trans ((if_neg (Bool.eq_false_iff.mp hd)).trans ((if_neg (by omega)).trans ((if_pos ht).trans
    (if_neg (Bool.eq_false_iff.mp hi)))))

theorem deliver_isolatedAttached (ht : pTGT p = 1) (hi : s.on (Reg.RTR_CTL_ISOLATE_ATT t) = true) : s.deliver t p = s.absorb t p 1 :=
  (if_neg (legal_not h)).trans ((if_neg (Bool.eq_false_iff.mp hd)).trans ((if_neg (by omega)).trans ((if_pos ht).trans (if_pos hi))))

theorem deliver_team (h1 : pTGT p ≠ 1) (h2 : pTGT p ≠ 2) (hi : s.on (Reg.RTR_CTL_ISOLATE t) = false) (hon : s.teamOn t = true) :
    s.deliver t p = s.teamPacket t p :=
  (if_neg (legal_not h)).trans ((if_neg (Bool.eq_false_iff.mp hd)).trans ((if_neg h2).trans ((if_neg h1).trans
    (if_neg (by simp [hi, hon])))))

theorem deliver_isolatedTeam (h1 : pTGT p ≠ 1) (h2 : pTGT p ≠ 2) (hi : s.on (Reg.RTR_CTL_ISOLATE t) = true ∨ s.teamOn t = false) :
    s.deliver t p = s.absorb t p 1 :=
  (if_neg (legal_not h)).trans ((if_neg (Bool.eq_false_iff.mp hd)).trans ((if_neg h2).trans ((if_neg h1).trans
    (if_pos (by rcases hi with hi | hi <;> simp [hi])))))

end legal

/-! ### The oldest packet that has arrived -/

/-- The state without the oldest packet that has arrived; `rest` wait behind it. -/
def State.withoutFirst (s : State) (t : Nat) (rest : List Packet) : State := s.onRouter t (fun r => { r with arrived := rest })

theorem withoutFirst_drain (rest : List Packet) : ((s.withoutFirst t rest).router t).drain = (s.router t).drain := by
  unfold State.withoutFirst State.onRouter
  rw [State.router_setRouter_same]

theorem packetArrive_none (h : (s.router t).arrived = []) : s.packetArrive t = s := by
  unfold State.packetArrive; rw [h]

theorem packetArrive_first {rest : List Packet} (h : (s.router t).arrived = p :: rest) :
    s.packetArrive t = (s.withoutFirst t rest).deliver t p := by
  unfold State.packetArrive; rw [h]; rfl

/-! ### The obligation -/

/-- Settles O59: the oldest packet by its place, its TYPE and its address. -/
theorem packetsAreDelivered : Obligations.PacketsAreDelivered := by
  refine ⟨fun t s h => ?_, fun t s p rest ht hp => ?_⟩
  · rcases h with h | h
    · exact onMapped_off (Nat.not_lt.mpr h) (State.packetArrive t)
    · by_cases ht : t.val < s.nTeams
      · exact (onMapped_on ht (State.packetArrive t)).trans (congrArg Host.Outcome.next (packetArrive_none h))
      · exact onMapped_off ht (State.packetArrive t)
  · intro a go legal open_ att team w n
    have hgo {x : State} (e : a.deliver t p = x) : go x :=
      (onMapped_on ht (State.packetArrive t)).trans (congrArg Host.Outcome.next ((packetArrive_first hp).trans e))
    have hdrain : (a.router t).drain = (s.router t).drain := withoutFirst_drain rest
    have hteam {x : State} (h : team) (e : a.teamPacket t p = x) : go x := by
      obtain ⟨⟨hl, hd⟩, h1, h2, hi, hon⟩ := h
      exact hgo ((deliver_team hl (hdrain.trans hd) h1 h2 hi hon).trans e)
    have hatt {x : State} (h : att) (e : a.attPacket t p = x) : go x := by
      obtain ⟨⟨hl, hd⟩, h1, hi⟩ := h
      exact hgo ((deliver_attached hl (hdrain.trans hd) h1 hi).trans e)
    refine ⟨fun h => hgo (deliver_illegal h), fun hl hd => hgo (deliver_drained hl (hdrain.trans hd)), fun h h1 hi => ?_, fun h h1 h2 hi => ?_,
      fun h => ⟨fun hq hn hw => ?_, fun hq hm => ⟨fun h1 h2 => ?_, fun hw => ?_⟩, fun h5 => ?_, fun hq h5 => ?_⟩, fun h hn => ?_,
      fun c h hc hlt => ⟨fun hq => ?_, fun h6 => ?_, fun h7 => ?_, fun hq h6 h7 => ?_⟩,
      fun k h hk hlt => ⟨fun hq hu hf => ?_, fun hq hu => ?_, fun hc => ?_, fun hq hc => ?_⟩,
      fun m h hm => ⟨fun hc => ?_, fun hq hk => ⟨fun hf hw => ?_, fun hf => ?_⟩, fun hq hk => ⟨fun hu => ?_, fun hu => ?_⟩,
        fun hq hk => ⟨fun hw => ?_, fun hw => ?_⟩, fun hq hk => ?_, fun hq hc => ?_⟩,
      fun h ht2 => ⟨fun hq => ?_, fun hq h1 h2 => ?_, fun hq hw => ?_⟩⟩
    · exact hgo (deliver_isolatedAttached h.1 (hdrain.trans h.2) h1 hi)
    · exact hgo (deliver_isolatedTeam h.1 (hdrain.trans h.2) h1 h2 hi)
    · exact hteam h (teamPacket_memory hq hn hw)
    · exact hteam h (teamPacket_window hq hm ⟨h1, h2⟩)
    · exact hteam h (teamPacket_badAddress hq hm hw)
    · exact hteam h (teamPacket_response h5)
    · exact hteam h (teamPacket_useless hq h5)
    · exact hatt h (attPacket_none hn)
    · exact hatt h ((attPacket_gateway (s := a) hc hlt).trans (gwPacket_req hq))
    · exact hatt h ((attPacket_gateway (s := a) hc hlt).trans (gwPacket_capture h6))
    · exact hatt h ((attPacket_gateway (s := a) hc hlt).trans (gwPacket_probe h7))
    · exact hatt h ((attPacket_gateway (s := a) hc hlt).trans (gwPacket_useless hq h6 h7))
    · exact hatt h ((attPacket_link (s := a) hk hlt).trans (linkPacket_crosses hq hu hf))
    · exact hatt h ((attPacket_link (s := a) hk hlt).trans (linkPacket_off hq hu))
    · exact hatt h ((attPacket_link (s := a) hk hlt).trans (linkPacket_back hc))
    · exact hatt h ((attPacket_link (s := a) hk hlt).trans (linkPacket_useless hq hc))
    · exact hatt h ((attPacket_hub (s := a) hm).trans (hubPacket_completion hc))
    · exact hatt h ((attPacket_hub (s := a) hm).trans (hubPacket_registers hq hk hf hw))
    · exact hatt h ((attPacket_hub (s := a) hm).trans (hubPacket_noRegisters hq hk hf))
    · exact hatt h ((attPacket_hub (s := a) hm).trans (hubPacket_link hq hk hu))
    · exact hatt h ((attPacket_hub (s := a) hm).trans (hubPacket_noLink hq hk hu))
    · exact hatt h ((attPacket_hub (s := a) hm).trans (hubPacket_memory hq hk hw))
    · exact hatt h ((attPacket_hub (s := a) hm).trans (hubPacket_nowhere hq (.inl ⟨hk, hw⟩)))
    · exact hatt h ((attPacket_hub (s := a) hm).trans (hubPacket_nowhere hq (.inr hk)))
    · exact hatt h ((attPacket_hub (s := a) hm).trans (hubPacket_useless hq hc))
    · exact hgo ((deliver_router h.1 (hdrain.trans h.2) ht2).trans (routerRequest_useless hq))
    · exact hgo ((deliver_router h.1 (hdrain.trans h.2) ht2).trans (routerRequest_window hq ⟨h1, h2⟩))
    · exact hgo ((deliver_router h.1 (hdrain.trans h.2) ht2).trans (routerRequest_badAddress hq hw))

end Sys2Proof.Machine
end
